-- ==== Sys2Proof/Word.lean ====
section
/-! DEFINITION. The word types of the module: bytes, 32-bit and 64-bit words, 32-byte sectors, byte strings. -/

namespace Sys2Proof

/-- One byte. -/
abbrev Byte := BitVec 8
/-- A 32-bit register or scratchpad word. -/
abbrev W32 := BitVec 32
/-- A 64-bit word of a descriptor, an entry, a record or an instruction (R7). -/
abbrev W64 := BitVec 64
/-- The data of one 32-byte sector, byte 0 in bits [7:0] (R7, R176). -/
abbrev SectorData := BitVec 256
/-- A byte string in ascending address order. -/
abbrev Bytes := List (BitVec 8)

end Sys2Proof
end

