-- ==== Sys2Proof/Syntax.lean ====
section
/-! DEFINITION. The commands of the module: one constructor of `Instr` for each row of spec/opcode_table.json,
with the operands the row's rule names. -/

set_option Elab.async false

namespace Sys2Proof

/-- A thread group: logical tile, block slot on the tile, group within the block (R114). -/
structure GroupRef where
  tile  : Nat
  slot  : Nat
  group : Nat
  deriving DecidableEq, Repr

/-- A block: logical tile and block slot (R113). -/
structure BlockRef where
  tile : Nat
  slot : Nat
  deriving DecidableEq, Repr

/-- How a branch picks each active lane's next PC (R121). -/
inductive BranchKind where
  | cond (reg : Nat) (target : Nat)   -- lanes whose register is not zero go to `target`
  | indirect (reg : Nat)              -- each lane goes to the PC its register holds
  deriving DecidableEq, Repr

/-- The FP32 operations of R123. -/
inductive FpOp where
  | add | sub | mul | fma | div | sqrt | rcp | rsq | exp2 | log2
  deriving DecidableEq, Repr

/-- The votes of R124. -/
inductive VoteKind where
  | all | any | ballot
  deriving DecidableEq, Repr

/-- The group reductions of R124. -/
inductive ReduxOp where
  | sumF32 | minF32 | maxF32
  deriving DecidableEq, Repr

/-- Direction of a memory access. -/
inductive Dir where
  | load | store
  deriving DecidableEq, Repr

/-- What a parity check found while an instruction ran (R288). -/
inductive ParityHit where
  | none
  | once                    -- the replay ran clean
  | recurs (reg : Nat)      -- the error recurs in the replay
  deriving DecidableEq, Repr

/-- What an error check of a read found (R287, R288, R290). -/
inductive ErrHit where
  | none
  | corrected (position : Nat) (again : Bool)      -- correctable; `again`: the re-read shows it again
  | uncorrectable (position : Nat) (again : Bool)
  deriving DecidableEq, Repr

/-- A function whose enable and disable requests follow R50. -/
inductive Func where
  | tiering
  | scrub
  | tier2 (port : Nat)
  | peer (port : Nat)
  | domain (code : Nat)
  deriving DecidableEq, Repr

/-- A vertical bundle of R302 to R304. -/
inductive Bundle where
  | portRead (tile : Nat) (bundle : Nat)     -- physical tile, bundle 0 to 63
  | portWrite (tile : Nat) (bundle : Nat)
  | bank (half : Nat) (group : Nat)
  deriving DecidableEq, Repr

/-- A link of R377, numbered as the subindices of 0x6003: 1 to 18 peer, 19 host, 20 and 21 second tier, 22 half-link;
and an HBM stack, which has no subindex. -/
inductive LinkId where
  | port (sub : Nat)
  | hbm (stack : Nat)
  deriving DecidableEq, Repr

/-- A rail group of R317: 1 VMEM, 2 VCAN, 3 VSER, 4 HBM (the codes of R344) and the group within the rail. -/
structure RailGroup where
  rail  : Nat
  group : Nat
  deriving DecidableEq, Repr

/-- The sender of a Muslin frame: IPv6 address and UDP port (R423). -/
structure Udp where
  addr : Nat
  port : Nat
  deriving DecidableEq, Repr

/-- One sensor reading of R357, in 0.01 °C. -/
structure Reading where
  sensor : Nat
  centi  : Int
  deriving DecidableEq, Repr

/-- What a target measured of one instance in the interval that ends (R233 to R235): the target code, the class code and the
instance's number in its class; whether requests waited at its cap and whether requests were pending throughout; the bytes served; and
the mean latency in ns, where it was measured. -/
structure BwLoad where
  target  : Nat
  cls     : Nat
  number  : Nat
  waited  : Bool
  pending : Bool
  served  : Nat
  latency : Option Nat
  deriving DecidableEq, Repr

/-- Why the input protection tripped (R454, 0x9000.03). -/
inductive TripCause where
  | overcurrent | overvoltage
  deriving DecidableEq, Repr

/-- The path an SPDM request came on (R441). -/
inductive SpdmPath where
  | host | muslin
  deriving DecidableEq, Repr

/-- The commands, in the order of spec/opcode_table.json. `sid` is the session that makes a dictionary request. -/
inductive Instr where
  | dictRead (sid index sub offset : Nat)
  | dictWrite (sid index sub offset : Nat) (more : Bool) (data : Bytes)
  | dictReadStaged (sid index sub offset : Nat)
  | leaseRequestAcquire (sid : Nat)
  | leaseRequestRelease (sid : Nat)
  | leaseBreak (sid : Nat)
  | leaseExpired
  | sessionIdleTimeout (sid : Nat)
  | lockPassword (sid : Nat) (password : Bytes)
  | lockResponse (sid : Nat) (sig : Bytes)
  | lockNonce (sid : Nat)
  | lockClose (sid : Nat)
  | lockOpenTimeExpiry
  | lockBlockExpiry
  | commit (sid : Nat)
  | stageDiscard (sid : Nat)
  | settingsSave (sid : Nat)
  | commitWaitExpiry
  | stepBoundary
  | tieringEnable (sid : Nat)
  | tieringDisable (sid : Nat)
  | scrubEnable (sid : Nat)
  | scrubDisable (sid : Nat)
  | tier2Enable (sid port : Nat)
  | tier2Disable (sid port : Nat)
  | peerPortEnable (sid port : Nat)
  | peerPortDisable (sid port : Nat)
  | enableSequenceComplete (fn : Func) (ok : Bool)
  | shutdownComplete (fn : Func)
  | domainGateStepGrant (domain offset amps : Nat)
  | domainEnableFailed (domain : Nat)
  | missue (g : GroupRef) (word : W64) (hit : ParityHit)
  | mwait (g : GroupRef) (word : W64) (hit : ParityHit)
  | mpoll (g : GroupRef) (word : W64) (hit : ParityHit)
  | convert (g : GroupRef) (word : W64) (hit : ParityHit)
  | matrixDispatch (tile : Nat)
  | gauzeFrontStart (tile sub wait : Nat)
  | gauzeFrontResume (tile sub wait : Nat)
  | flushLoad (tile sub : Nat)
  | shapeChange (tile : Nat)
  | activationRowIssue (tile sub : Nat) (hit : ParityHit) (err : ErrHit)
  | resultBankDrain (tile bank : Nat) (hit : ParityHit)
  | matrixComplete (tile bank : Nat)
  | matrixCounterClear (sid : Nat)
  | conversionStart (tile : Nat) (err : ErrHit)
  | conversionComplete (tile : Nat)
  | formatCounterClear (sid : Nat)
  | blockAdmit (seq tile : Nat)
  | branch (g : GroupRef) (kind : BranchKind) (ipdom : Nat) (hit : ParityHit)
  | exit (g : GroupRef)
  | fp32Arith (g : GroupRef) (op : FpOp) (vd va vb vc : Nat) (hit : ParityHit)
  | shfl (g : GroupRef) (vd va vi : Nat) (hit : ParityHit)
  | vote (g : GroupRef) (kind : VoteKind) (vd vp : Nat) (hit : ParityHit)
  | redux (g : GroupRef) (op : ReduxOp) (vd va : Nat) (hit : ParityHit)
  | ldsSts (g : GroupRef) (dir : Dir) (width va vd : Nat) (err : ErrHit) (hit : ParityHit)
  | ldcStc (g : GroupRef) (dir : Dir) (width rank va vd : Nat) (err : ErrHit) (hit : ParityHit)
  | bar (g : GroupRef) (word : W64)
  | cbar (g : GroupRef) (word : W64)
  | gbar (g : GroupRef) (word : W64)
  | gbarComplete (seq : Nat)
  | barrierWdPulse
  | blockExitComplete (b : BlockRef)
  | execCounterClear (sid : Nat)
  | ld (g : GroupRef) (width va vd : Nat) (err : ErrHit) (hit : ParityHit)
  | st (g : GroupRef) (width va vd : Nat) (hit : ParityHit)
  | fence (g : GroupRef) (word : W64)
  | lldrop (g : GroupRef) (word : W64) (hit : ParityHit)
  | redl (g : GroupRef) (word : W64) (hit : ParityHit)
  | reduceSpill (line : Nat)
  | spillCombineReturn (line : Nat) (err unit : ErrHit)
  | feltFillReturn (sector : Nat) (err : ErrHit) (replays : Nat)
  | tableWalkReturn (half page : Nat) (west east : Bool) (err : ErrHit)
  | feltFlushClean (sid : Nat)
  | feltFlushInvalidate (sid : Nat)
  | feltFlushComplete
  | bankRetireMovesComplete (half group : Nat)
  | feltCounterClear (sid : Nat)
  | map (seq : Nat)
  | unmap (seq : Nat)
  | protect (seq : Nat)
  | hostMemRead (offset : Nat)
  | hostMemWrite (offset : Nat) (data : Bytes)
  | tier2LinkWaitExpiry (port : Nat)
  | migrationEpochEnd
  | migrationStart (page : Nat)
  | subpageCopyComplete (page : Nat) (err : ErrHit)
  | migrationSourceFree (page : Nat)
  | tierCounterClear (sid : Nat)
  | bwIntervalBoundary (loads : List BwLoad)
  | bwCounterClear (sid : Nat)
  | ledgerEnableOn (sid : Nat)
  | ledgerEnableOff (sid : Nat)
  | headLineLoss (writes : List (Nat × Bytes)) (cacheError : Bool)
  | ledgerNop
  | ledgerKernel
  | ledgerCollective
  | ledgerCopy
  | ledgerMap
  | ledgerUnmap
  | ledgerProtect
  | consumedCountWrite (count : Nat) (cacheError : Bool)
  | kernelDispatch (seq : Nat)
  | collectiveDispatch (seq : Nat) (stage : Nat × ErrHit)
  | copyDispatch (seq : Nat) (host : Option Nat) (stage : Nat × ErrHit)
  | entryComplete (seq : Nat) (cacheError : Bool)
  | eventRecord (cacheError : Bool)
  | schedPause (sid : Nat)
  | schedResume (sid : Nat)
  | preemptSaveComplete (seq tile : Nat)
  | blockRestore (seq tile : Nat)
  | runtimeLimitExpiry (seq : Nat)
  | schedCounterClear (sid : Nat)
  | stepCounterWrite (sid value : Nat)
  | rng (g : GroupRef) (word : W64) (hit : ParityHit)
  | rngProbe (sid : Nat) (input : Bytes)
  | resumeApply (sid : Nat) (record : Bytes)
  | scrubPaceTick (half : Nat) (hbm : Bool) (count : Nat) (errs : List (Nat × ErrHit)) (behind : Bool)
  | bundleSignalFailed (b : Bundle) (signals : Nat)
  | bundleSpareComplete (b : Bundle)
  | errorLogAck (sid value : Nat)
  | integrityCounterClear (sid : Nat)
  | governorTick (power demand amps : Nat)
  | stageFailed (stage : Nat)
  | cellFailed (group : Nat)
  | railCellFailed (g : RailGroup)
  | fleeceHoldMaxExpiry
  | slotFrameStart
  | slotSyncLost
  | syncLineFramePulse (pin : Nat)
  | syncLineReleasePulse (pin : Nat)
  | inputLow (millivolts : Nat)
  | inputHoldup (millivolts : Nat)
  | inputHigh (millivolts : Nat)
  | inputNormal (millivolts : Nat)
  | brownoutHoldExpiry
  | inputBelow40V
  | powerCounterClear (sid : Nat)
  | refclkLost
  | refclkHoldoverExpiry
  | refclkReturn
  | aonTrim
  | clockStepComplete (tile : Nat)
  | idleNapDelayExpiry (ptile : Nat)
  | idleOffDelayExpiry (ptile : Nat)
  | tileWakeComplete (ptile : Nat)
  | moduleStateActive (sid : Nat)
  | moduleStateStandby (sid : Nat)
  | moduleStateDormant (sid : Nat)
  | moduleStateChangeComplete
  | sensorSample (readings estimates : List Reading)
  | thermalGraceExpiry
  | thermalAccept (sid : Nat)
  | thermalCounterClear (sid : Nat)
  | ppsEdge (pin : Nat)
  | timeSourceLost
  | perfSample
  | powerOn
  | linkTrained (link : LinkId) (width rate node capacityMiB bandwidth ide : Nat)
  | linkQualWindowEnd (link : LinkId) (errors received uncorrectable : Nat)
  | linkTrainingDeadline (link : LinkId)
  | hbmFillComplete (badGranules : List Nat)
  | broadcastPacket (core : Nat) (packet : Bytes)
  | broadcastRoundEnd
  | selftestComplete (failed : List Nat)
  | bringupComplete (elapsedMs : Nat)
  | halfManagerWatchdog
  | fullReset (sid : Nat)
  | computeReset (sid : Nat)
  | computeResetBegin
  | shortSelftestComplete (failed : List Nat) (elapsedMs : Nat)
  | hostLinkDown
  | hostLinkUp (width rate ide : Nat)
  | irqHoldoffExpiry
  | tier2LinkDown (port : Nat)
  | tier2LinkUp (port : Nat)
  | expanderEventPoll (port : Nat) (uncorrectable : List Nat)
  | dataFlit (port : Nat) (flit : Bytes) (codewordOk : Bool)
  | idleFlit (port : Nat) (flit : Bytes) (codewordOk : Bool)
  | nak (port : Nat) (flit : Bytes) (codewordOk : Bool)
  | laneSwap (port : Nat) (flit : Bytes) (codewordOk : Bool)
  | laneSwapAck (port : Nat) (flit : Bytes) (codewordOk : Bool)
  | width (port : Nat) (flit : Bytes) (codewordOk : Bool)
  | retrain (port : Nat) (flit : Bytes) (codewordOk : Bool)
  | replayTimeout (port : Nat)
  | peerRetrainComplete (port : Nat)
  | laneFailed (port lane : Nat)
  | write (port : Nat)
  | read (port : Nat)
  | readData (port : Nat)
  | writeAck (port : Nat)
  | collData (port : Nat)
  | error (port : Nat)
  | halfLinkRetrainFailed
  | muslinOpen (src : Udp)
  | muslinClose (src : Udp) (session : Nat)
  | request (src : Udp) (session seq : Nat) (word : W64) (data : Bytes)
  | beacon (src : Udp) (frame slotCount slotLength node time : Nat)
  | release (number : Nat)
  | time (tai seq node : Nat)
  | muslinFrameDiscard
  | interfaceCounterClear (sid : Nat)
  | updateBegin (sid component : Nat)
  | updateEraseComplete
  | updateData (sid : Nat) (data : Bytes)
  | updateProgramComplete
  | updateVerify (sid : Nat)
  | updateVerifyComplete
  | updateCommit (sid : Nat)
  | updateCommitReset (sid : Nat)
  | updateAbort (sid : Nat)
  | updateConfirm (sid : Nat)
  | updateTrialTimeout
  | getVersion (path : SpdmPath)
  | getCapabilities (path : SpdmPath)
  | negotiateAlgorithms (path : SpdmPath) (asym hash dhe aead : Nat)
  | getDigests (path : SpdmPath)
  | getCertificate (path : SpdmPath) (slot offset length : Nat)
  | challenge (path : SpdmPath) (slot : Nat) (nonce : Bytes)
  | getMeasurements (path : SpdmPath) (index : Nat) (nonce : Bytes)
  | chunkSend (path : SpdmPath) (handle seq : Nat) (last : Bool) (data : Bytes)
  | chunkGet (path : SpdmPath) (handle seq : Nat)
  | keyEx (path : SpdmPath) (exchange : Bytes)
  | finish (path : SpdmPath) (mac : Bytes)
  | endSession (path : SpdmPath)
  | pwrEnDeassert
  | powerOffComplete
  | pwrEnAssert
  | resetN
  | hostPerstN
  | debugTrigger (pin : Nat)
  | auxPulseInvalid (pin micros : Nat)
  | inputTripped (cause : TripCause)
  | coolantCheck (inletDeci deltaPDeci dewDeci : Int) (inletHigh flowLow dewLow : Bool)
  | boardCounterClear (sid : Nat)
  | copyHostAccessWaitExpiry (seq : Nat)
  | hdmDecoderCommit (gib : Nat)
  | inputTripRearm
  | halfWidthMoveComplete (ptile : Nat)
  deriving DecidableEq, Repr

end Sys2Proof
end

