-- ==== Sys2Proof/Config.lean ====
section
/-! DEFINITION. What a module fixes, and the free values: constants with no body that stand where the spec leaves a value
open. Each is applied to the count of free values drawn so far (`dict.freeCount`) or to the operands it depends on. -/

namespace Sys2Proof

/-- The nonce bytes of R39: fresh at each read. -/
opaque Config.nonce : Nat → BitVec 256
/-- The salt of a stored password (R52). (DESIGN CHOICE, notes/assumptions/15.md). -/
opaque Config.salt : Nat → BitVec 128
/-- The salted digest of the initial owner password, given in the delivery documents (R39).
(DESIGN CHOICE, notes/assumptions/15.md). -/
opaque Config.initialPassword : List (BitVec 8)
/-- A 32-bit value the spec does not state. -/
opaque Config.free32 : Nat → BitVec 32
/-- A 64-bit value the spec does not state. -/
opaque Config.free64 : Nat → BitVec 64
/-- The data of a sector that carries poison, where the spec states none. (DESIGN CHOICE, notes/assumptions/53.md). -/
opaque Config.freeSector : Nat → BitVec 256
/-- A choice the spec leaves open. (DEDUCED, notes/assumptions/32.md, DESIGN CHOICE, notes/assumptions/37.md). -/
opaque Config.freeBool : Nat → Bool
/-- A whole number the spec does not bound.
(DESIGN CHOICE, notes/assumptions/37.md, DESIGN CHOICE, notes/assumptions/51.md, DESIGN CHOICE, notes/assumptions/75.md, DESIGN CHOICE, notes/assumptions/78.md). -/
opaque Config.freeNat : Nat → Nat
/-- A byte string the spec does not state. -/
opaque Config.freeBytes : Nat → List (BitVec 8)
/-- The result of an operation of R123 on operand bits for which the spec states none. (DESIGN CHOICE, notes/assumptions/52.md). -/
opaque Config.fpOpen : Nat → BitVec 32 → BitVec 32
/-- The signature the attestation key of a module makes over a message (R441, R442). (PRESUMED, notes/assumptions/14.md). -/
opaque Config.deviceSign : List (BitVec 8) → List (BitVec 8)
/-- The certificate chain of an SPDM slot (R442). (PRESUMED, notes/assumptions/14.md). -/
opaque Config.certChain : Nat → List (BitVec 8)
/-- The derivation of SPDM session keys: the MAC expected over a transcript (R441). (PRESUMED, notes/assumptions/14.md). -/
opaque Config.sessionMac : List (BitVec 8) → List (BitVec 8)
/-- Whether the vendor's signature of a package header verifies (R430): the release keys are not given.
(DESIGN CHOICE, notes/assumptions/69.md). -/
opaque Config.releaseKey : Nat → List (BitVec 8)

/-- The wear margin the regulator controllers set at a time, before its bound of 70 mV (R349).
(DESIGN CHOICE, notes/assumptions/40.md). -/
opaque Config.wearMargin : Nat → Nat

/-- The package header of a component as delivered: the image is not given (R431). (DESIGN CHOICE, notes/assumptions/69.md). -/
opaque Config.deliveredHeader : Nat → List (BitVec 8)
/-- The COMPAT entry of a delivered component for another: component, other (R431). (DESIGN CHOICE, notes/assumptions/69.md). -/
opaque Config.deliveredCompat : Nat → Nat → Nat
/-- The `DictionaryVersion` of the image of component 0 with a header. (DESIGN CHOICE, notes/assumptions/69.md). -/
opaque Config.dictVersionOf : List (BitVec 8) → Nat
/-- The type codes of a settings blob (R439), by the type's place in the table of R27. (DEDUCED, notes/assumptions/18.md). -/
opaque Config.blobType : Nat → Nat

/-- The FEC of a CXL link as the qualifier takes it (R377): symbols in a codeword, symbols it corrects, bits in a codeword.
(DESIGN CHOICE, notes/assumptions/70.md). -/
opaque Config.cxlFec : Nat × Nat × Nat

/-- How many recorded hard faults the repair resources of one channel of a stack cover (R301). (DEDUCED, notes/assumptions/60.md). -/
opaque Config.hbmRepairs : Nat

/-- The share of the remainder of a target, in MB/s, where no instance is backlogged: R235 divides by the sum of the backlogged quanta and
states no result for an empty sum. Applied to the target, the remainder and the instance's quantum.
(DESIGN CHOICE, notes/assumptions/84.md). -/
opaque Config.idleShare : Nat → Nat → Nat → Nat

/-- What a matrix operand in scratchpad reads past its block's allocation, by sector (R81 names no fault for it, R111 no content): the
same in every run. (DESIGN CHOICE, notes/assumptions/46.md). -/
opaque Config.freeScratch : Nat → BitVec 256

/-! ### The variants of R24 -/

/-- Logical tiles per half of a variant. -/
def Config.tilesPerHalf (variant : Nat) : Nat := if variant = 0 then 32 else if variant = 1 then 28 else 24

/-- Felt banks per die of a variant. -/
def Config.banksPerDie (variant : Nat) : Nat := if variant = 0 then 512 else if variant = 1 then 384 else 256

/-- Is this HBM stack fused on the variant? -/
def Config.stackFused (variant stack : Nat) : Bool := variant == 2 && stack % 4 == 3

/-- Tiles fused off per half of a variant. -/
def Config.fusedPerHalf (variant : Nat) : Nat := if variant = 0 then 0 else if variant = 1 then 4 else 8

end Sys2Proof
end

