-- ==== Sys2Proof/Machine/State.lean ====
section
/-! DEFINITION. The state of the module, as plain data: everything the spec gives it, and the queue of commands.
Sparse stores are sorted lists of (key, value) pairs; what an unlisted key reads as is said at each field. -/

set_option Elab.async false

namespace Sys2Proof.Machine

open Sys2Proof

/-- A sparse store by number, keys strictly rising. -/
abbrev NMap (α : Type) := List (Nat × α)

/-- A byte memory: strictly rising addresses, no entry equal to 0, which an unlisted byte reads as. -/
abbrev Memory := List Host.Cell

/-- The poison classes of R290, codes 0 to 3. -/
inductive PoisonClass where
  | mem | dead | link | xfer
  deriving DecidableEq, Repr

/-- A sector as it travels: data and mark (R176, R292). -/
structure SectorVal where
  data : SectorData
  mark : Option PoisonClass
  deriving DecidableEq, Repr

/-- A memory place of physical sectors: bytes, and the marks of marked sectors by sector number (R286). -/
structure MarkedMem where
  bytes : Memory
  marks : NMap PoisonClass
  deriving DecidableEq, Repr

/-- A 32-bit value with its poison mark: a register, a result, a weight (R286, R292). -/
structure RegVal where
  val  : W32
  mark : Option PoisonClass
  deriving DecidableEq, Repr

/-- The states of R50, codes 0 to 5 and 7. -/
inductive FState where
  | off | enabling | on | disabling | disablingEnableQueued | enablingDisableQueued | heldDown
  deriving DecidableEq, Repr

/-! ### Dictionary, sessions, lock, commit (ch. 2) -/

/-- The response to a dictionary request: DICT_RESP and the data buffer (R31), or a Muslin RESPONSE (R421). -/
structure DictResp where
  sid    : Nat
  status : Nat
  rule   : Nat
  total  : Nat
  data   : Bytes
  deriving DecidableEq, Repr

/-- DICT_REQ as last written by the host (R31). -/
structure DictReq where
  op     : Nat
  more   : Bool
  index  : Nat
  sub    : Nat
  offset : Nat
  length : Nat
  deriving DecidableEq, Repr

/-- A multi-piece write under way (R32). -/
structure PartialWrite where
  key  : Nat
  data : Bytes
  deriving DecidableEq, Repr

/-- The field lock of R37. -/
inductive LockSt where
  | closed
  | opened (sid : Nat) (openSeconds : Nat)
  | blocked (since : Nat)
  deriving DecidableEq, Repr

/-- A queued commit with its own copy of the staged set (R36). -/
structure QueuedCommit where
  sid  : Nat
  copy : NMap Bytes
  deriving DecidableEq, Repr

/-- An entry of a settings blob (R439): the object's key, the type code, the reserved field, the value and its pad bytes. -/
structure BlobEntry where
  key   : Nat
  type  : Nat
  rsv   : Nat
  value : Bytes
  pad   : Bytes
  deriving DecidableEq, Repr

/-- A settings blob as it stands in module flash (R439): the header's fields and the entries. -/
structure Blob where
  entries     : List BlobEntry
  magic       : Nat
  dictVersion : Nat
  count       : Nat
  length      : Nat
  configGen   : Nat
  fwVersion   : Nat
  rsv         : Nat
  crc         : Nat
  deriving DecidableEq, Repr

/-- A Muslin session (R421, R423). -/
structure MuslinSession where
  src     : Udp
  lastSeq : Option Nat
  saved   : Option DictResp
  deriving DecidableEq, Repr

/-- The owners of a MGMT_AUX pin (R48). -/
inductive PinOwner where
  | none | pps | rampSync | debugTrigger
  deriving DecidableEq, Repr

/-- The owners of a staging unit (R48). -/
inductive StageOwner where
  | free | tiering | collective
  deriving DecidableEq, Repr

/-- The owners of an interval timer (R48). -/
inductive TimerOwner where
  | free | thermalGrace | rampSched | barrierWd | scrubPace | perfSample
  deriving DecidableEq, Repr

/-- The owners of the shared resources: pins, staging units and timers by half, trace port (R48). -/
structure Claims where
  aux0   : PinOwner
  aux1   : PinOwner
  stage0 : List StageOwner
  stage1 : List StageOwner
  timer0 : List TimerOwner
  timer1 : List TimerOwner
  trace  : Nat                -- 0 NONE, 1 TILE_TRACE, 2 FABRIC_TRACE
  deriving DecidableEq, Repr

/-- The dictionary's own state. -/
structure DictState where
  values     : NMap Bytes          -- values in force by key index * 256 + sub; unlisted: the object table's default
  counters   : NMap Nat            -- counters by key; unlisted: 0
  req        : DictReq             -- DICT_REQ
  resp       : DictResp            -- DICT_RESP of the host window, with the bytes its read placed
  buffer     : Bytes               -- the 256-byte data buffer of the host window, at 0x100 to 0x1FF (R31)
  replies    : List DictResp       -- responses to Muslin sessions, oldest first
  parts      : NMap PartialWrite   -- multi-piece writes under way, by session
  hostOpen   : Bool                -- session 0x0001 exists
  sessions   : NMap MuslinSession  -- open Muslin sessions 0x0010 to 0x0013
  lease      : Option Nat
  lock       : LockSt
  failCount  : Nat
  nonce      : Option (SectorData × Nat)   -- outstanding nonce and when it was issued
  password   : Bytes               -- salted digest in force: the salt (16 bytes) and the SHA-512 digest
  staged     : NMap Bytes
  queued     : Option QueuedCommit
  commitRes  : Nat                 -- CommitResult
  configGen  : Nat                 -- ConfigGeneration
  claims     : Claims
  blobCur    : Option Blob
  blobPrior  : Option Blob
  freeCount  : Nat                 -- the model's own: how many free values have been drawn
  deriving DecidableEq, Repr

/-! ### Formats, matrix array, converter (ch. 3, 4) -/

/-- An address word of a descriptor (R76): SPACE and ADDR. -/
structure Operand where
  dev  : Bool
  addr : Nat
  deriving DecidableEq, Repr

/-- A parsed matrix descriptor (R76). -/
structure MDesc where
  token    : Nat
  op       : Nat
  aFmt     : Nat
  wFmt     : Nat
  dFmt     : Nat
  shape    : Nat
  sub      : Nat
  grain    : Nat
  acc      : Bool
  wkeep    : Bool
  flush    : Bool
  stats    : Bool
  rnd      : Bool
  dropA    : Bool
  dropW    : Bool
  statsOff : Nat
  a        : Operand
  w        : Operand
  c        : Operand
  d        : Operand
  rows     : Nat
  k        : Nat
  n        : Nat
  topkK    : Nat
  rowBase  : Nat
  aStride  : Nat
  wStride  : Nat
  cStride  : Nat
  dStride  : Nat
  tagBase  : Nat
  wScale   : Nat
  aScale   : Nat
  deriving DecidableEq, Repr

/-- A parsed conversion descriptor (R105). -/
structure CDesc where
  srcFmt   : Nat
  dstFmt   : Nat
  grain    : Nat
  rnd      : Bool
  zpm      : Nat
  ovf      : Nat
  hist     : Bool
  stats    : Bool
  dir      : Bool
  stream   : Nat
  statsOff : Nat
  src      : Operand
  dst      : Operand
  dstScale : Operand
  histAddr : Operand
  rows     : Nat
  rowLen   : Nat
  tagBase  : Nat
  srcStride : Nat
  dstStride : Nat
  scale    : W32
  offset   : W32
  deriving DecidableEq, Repr

/-- The resolved launch settings of an entry (R97, R117). -/
structure Launch where
  coop      : Bool
  splitKib  : Nat
  stoch     : Bool
  infOvf    : Bool
  asym      : Bool
  grain     : Nat
  narrow    : Nat
  deriving DecidableEq, Repr

/-- A decoded element or weight: its code in its format, and its mark. -/
structure Elt where
  code : Nat
  mark : Option PoisonClass
  deriving DecidableEq, Repr

/-- What a weight load is: the settings of R63 and R81, and the block that made it. -/
structure LoadInfo where
  op    : Nat
  aFmt  : Nat
  wFmt  : Nat
  grain : Nat
  k     : Nat
  n     : Nat
  owner : Nat                     -- the block's own number
  deriving DecidableEq, Repr

/-- One weight register set of a sub-array (R60): columns of weights, the scales captured with them (R96), and the load that
wrote it. -/
structure Weights where
  cols     : List (List Elt)
  blockSc  : List (List Nat)      -- block scale bytes by column at BLOCK grain
  chanSc   : List W32             -- channel scales at CHANNEL grain
  tscale   : W32
  marks    : List (Option PoisonClass)   -- marks of the scales that apply to each column
  info     : LoadInfo
  deriving DecidableEq, Repr

/-- How an instruction's weights come (R63, R66). -/
inductive LoadKind where
  | keep | front | flush (reason : Nat) | shape
  deriving DecidableEq, Repr

/-- Where a dispatched instruction stands. -/
inductive MPhase where
  | waitLoad                      -- its load has not begun
  | loading (row : Nat)           -- the front waits at this cell row
  | rows (next : Nat)             -- rows issue from here
  | inBank                        -- every row is in its result bank
  deriving DecidableEq, Repr

/-- A matrix instruction in a queue, a sub-array or a bank. -/
structure MInstr where
  desc   : MDesc
  owner  : Nat                    -- the issuing block's own number
  slot   : Nat
  off    : Nat                    -- descriptor offset
  pc     : Nat
  launch : Launch
  step   : W64                    -- the step it runs in (R269)
  load   : LoadKind
  useY   : Bool                   -- register its rows use: false X, true Y
  phase  : MPhase
  bank   : Option Nat
  sat    : Bool                   -- an INT32 accumulation saturated
  pois   : Bool                   -- a result carried poison
  satEvt : Bool                   -- its drain raised a saturation event
  hdr    : Option (W32 × W32 × Option PoisonClass)   -- A_TSCALE, DSCALE and the mark of A's header, once read
  seff   : List W32               -- s_eff by column, once the first row has issued (R89)
  deriving DecidableEq, Repr

/-- A sub-array (R54, R60). -/
structure SubArray where
  x       : Option Weights
  y       : Option Weights
  latestY : Bool                  -- the register of the latest load dispatched
  plan    : Option LoadInfo       -- the latest load dispatched
  part    : List (List Elt)       -- weight rows the load under way has written so far
  sectors : List SectorVal        -- sectors it has read of the row at which it waits
  queue   : List MInstr           -- dispatched, oldest first
  deriving DecidableEq, Repr

/-- A result bank (R58): the instruction that fills or drains it, its rows, and top-k records by column. -/
structure Bank where
  instr   : Option MInstr
  full    : Bool
  drained : Bool
  rows    : List (List RegVal)
  topk    : List (List (W32 × W32))
  stat    : Option (List Nat)     -- the statistics record's words once drained
  deriving DecidableEq, Repr

/-- A conversion in the queue or running (R128). -/
structure CInstr where
  desc    : CDesc
  token   : Nat
  owner   : Nat
  slot    : Nat
  off     : Nat
  pc      : Nat
  launch  : Launch
  step    : W64
  out     : List (Nat × Bytes × Option PoisonClass)   -- destination sectors computed, by sector number
  scales  : List (Nat × Bytes)       -- scale-area sectors computed
  stat    : Option (List Nat)
  amax    : W32
  usedS   : W32
  sats    : Nat
  elems   : Nat
  pois    : Bool
  satEvt  : Bool
  deriving DecidableEq, Repr

/-- The matrix array, its queue and the conversion queue of a tile (R53 to R66, R75, R128). -/
structure Matrix where
  shape   : Option Nat
  queue   : List MInstr
  subs    : List SubArray
  banks   : List Bank
  kept    : List MInstr            -- instructions of the shape before, which are in their banks (R65)
  change  : Option MInstr          -- the instruction whose SHAPE change waits or flushes (R65)
  cqueue  : List CInstr
  crun    : Option CInstr
  deriving DecidableEq, Repr

/-! ### Threads (ch. 5) -/

/-- A barrier of R130. -/
inductive BarKind where
  | block (n : Nat) | cluster (n : Nat) | grid
  deriving DecidableEq, Repr

/-- A path of a group: its mask, PC, reconvergence PC and the barrier it is parked at (R121, R122). -/
structure Path where
  mask   : BitVec 32
  pc     : Nat
  rpc    : Option Nat
  parked : Option BarKind
  id     : Nat                    -- the path's own number on its stack
  parent : Option Nat             -- the path it was split from, which waits for it
  deriving DecidableEq, Repr

/-- A group: registers by lane * 256 + register (unlisted: 0, clean), the reconvergence stack with the running path
first, the exited lanes, how many of its stores are not performed, and what it waits for. -/
structure Group where
  regs    : NMap RegVal
  stack   : List Path
  exited  : BitVec 32
  cur     : Option Nat            -- the path that runs (R122)
  stores  : Nat
  loads   : Nat
  fetchStop : Bool
  deriving DecidableEq, Repr

/-- A barrier instance (R131, R133). -/
structure BarInst where
  count   : Nat                   -- COUNT of the first arrival
  arrived : Nat
  pc      : Nat
  tile    : Nat
  slot    : Nat
  group   : Nat
  lawn    : Nat                   -- Lawn cycles counted so far, in twelfths
  since   : Nat                   -- timestamp up to which they are counted
  complete : Bool                 -- GBAR: last arrival made, completion under way
  uid     : Nat                   -- the block of the first arrival
  deriving DecidableEq, Repr

/-- A completion token (R79). -/
inductive Token where
  | pending | done (status : Nat)
  deriving DecidableEq, Repr

/-- A resident or saved block. -/
structure Block where
  uid      : Nat                  -- the block's own number in the model
  seq      : Nat                  -- its ledger entry
  linear   : Nat
  cluster  : Nat                  -- cluster index within the grid
  rank     : Nat
  clSize   : Nat
  tile     : Nat
  slot     : Nat
  nregs    : Nat                  -- registers per thread
  scratchB : Nat                  -- scratchpad allocation, bytes
  launch   : Launch
  groups   : List Group
  scratch  : MarkedMem
  tokens   : NMap Token           -- unlisted: FREE
  bars     : NMap BarInst         -- incomplete block barrier instances by number
  exiting  : Bool
  ended    : Bool                 -- finished exiting; scratchpad kept for its cluster (R137)
  fault    : Option Nat
  saving   : Bool                 -- being saved by preemption
  deriving DecidableEq, Repr

/-- An L1 line: line number, four optional sectors; the list that holds it is in most-recent-first order (R166). -/
structure L1Line where
  line    : Nat
  sectors : List (Option SectorVal)
  deriving DecidableEq, Repr

/-- A logical tile. -/
structure Tile where
  alloc   : Option Nat            -- the kernel entry it is allocated to
  splitKib : Nat
  blocks  : List Block
  l1      : List L1Line
  matrix  : Matrix
  halfPort : Bool                 -- its port runs at half width (R303)
  step    : Nat                   -- clock step in force (R349)
  thermal : Nat                   -- thermal step (R350)
  retune  : Bool                  -- a step change is under way (R351)
  satLog  : Option Nat            -- timestamp of its last SATURATION entry (R110)
  deadLog : Option Nat            -- timestamp of its last DEAD_READ entry (R184)
  deriving DecidableEq, Repr

/-- The sleep states of R352; `napOff` is Nap of a tile that qualifies for Off (R353). -/
inductive Sleep where
  | run | idle | nap | napOff | off
  deriving DecidableEq, Repr

/-! ### Felt and memory (ch. 6, 7, 8) -/

/-- A sector of a Felt line (R176). -/
structure FSector where
  present  : Bool
  dirty    : Bool
  fetching : Bool
  master   : Nat                  -- the master whose fetch is in flight
  val      : SectorVal
  deriving DecidableEq, Repr

/-- An ORDERED reduction (R188, R189, R192). -/
structure Reduce where
  rop      : Nat
  count    : Nat
  slots    : NMap (List SectorVal)
  failed   : Bool
  deferred : Bool
  fullSeen : Bool                 -- it has met a full spill area (R194)
  order    : Nat                  -- when its first contribution came
  deriving DecidableEq, Repr

/-- A line that holds a way (R180). -/
structure FLine where
  way     : Nat
  write   : Bool
  sectors : List FSector
  red     : Option Reduce
  deriving DecidableEq, Repr

/-- A spilled reduction's tag (R193): its record, which holds the base and the slots, and the reduction with the slots that have arrived,
their data left out. -/
structure Spill where
  record : Nat
  red    : Reduce
  full   : Bool                   -- the last contribution has arrived
  deriving DecidableEq, Repr

/-- Who makes a request. -/
inductive Agent where
  | thread (g : GroupRef)
  | hostPort
  | engine (code : Nat)           -- an AGENT code of R306
  deriving DecidableEq, Repr

/-- What a waiting request asks of a line. -/
inductive ReqKind where
  | load (lane reg width : Nat)                 -- writes registers of one lane
  | store (data : Bytes) (mark : Option PoisonClass)
  | drop
  | contrib (rop idx count : Nat) (data : List SectorVal)
  | hostRead
  deriving DecidableEq, Repr

/-- A request that waits at a home bank or at its translation (R176, R181, R205). -/
structure Req where
  agent : Agent
  uid   : Nat                     -- the thread's block
  addr  : Nat
  kind  : ReqKind
  ack   : Bool                    -- the bank's acknowledgement is still owed to the group
  deriving DecidableEq, Repr

/-- The dead-tag store, oldest first, and the other state of Felt. -/
structure Felt where
  lines     : NMap FLine          -- by line number
  dead      : List Nat            -- line numbers, oldest first
  spilled   : NMap Spill          -- by line number
  plru      : NMap (BitVec 15)    -- by (half * 1024 + bank) * 2048 + set; unlisted: all zero
  bankOver  : NMap Nat            -- bank map entries reassigned in service, by half * 4096 + H
  retired   : List (Nat × Nat)    -- bank groups retired in service (half, group)
  retiring  : List (Nat × Nat)
  leaving   : NMap FLine          -- lines a retiring group holds until their new homes accept them (R198)
  remapped  : NMap Nat            -- bank map entries whose requests wait, by half * 4096 + H, with the retiring group
  flush     : Nat                 -- 0 IDLE, 1 CLEAN, 2 INVALIDATE under way
  accepts   : Bool                -- banks accept requests (R391)
  waiting   : List Req            -- oldest first
  fresh     : List Nat            -- sectors stored since the scrub pass of their half began (R297)
  order     : Nat                 -- next first-contribution number
  capacity  : Nat                 -- FELT_CAPACITY of the unit map: capacity at the last binding
  spillLog0 : Option Nat          -- last REDUCE_SPILL_FULL by half
  spillLog1 : Option Nat
  groups    : List (List GroupRef)
  deriving DecidableEq, Repr

/-- The copy state of a migrating page's subpages (R222). -/
structure Migration where
  copying  : Option Nat           -- the subpage being copied
  flipped  : Bool
  srcTier  : Nat
  srcFrame : Nat
  bytes    : Nat
  withdraw : Bool                 -- a move of R226
  held     : List (Nat × Nat × SectorVal)   -- held writes: sector within the page, class, value
  deriving DecidableEq, Repr

/-- A mapped page: its level-0 entry (R203) and tracking record (R204). -/
structure Page where
  write      : Bool
  tier       : Nat
  pin        : Bool
  lost       : Bool
  frame      : Nat
  destTier   : Nat
  destFrame  : Nat
  migrating  : Bool
  zeromask   : BitVec 32
  touched    : BitVec 32
  heat       : Nat
  migrations : Nat
  copied     : BitVec 32
  lastEnd    : Option Nat         -- epoch at which its last migration ended
  mig        : Option Migration
  deriving DecidableEq, Repr

/-- The growing regions of R215: the runs of frames each holds, (lowest, count), in the order of its offsets; within a run offsets go from
the highest frame down. -/
structure Regions where
  spill   : List (Nat × Nat)
  save    : List (Nat × Nat)
  window  : List (Nat × Nat)
  pending : List (Nat × Nat)      -- frames still due: (region 0 spill, 1 save, 2 window; frame)
  stalled : Bool
  deriving DecidableEq, Repr

/-- HBM, the second tier and the tables. -/
structure Mem where
  hbm       : MarkedMem
  tier0     : MarkedMem           -- second-tier port 0; marks are the marker sectors of R295
  tier1     : MarkedMem
  host      : MarkedMem           -- host memory as CXL.cache shows it
  pages     : NMap Page           -- level-0 entries and tracking records by virtual page number
  tables    : NMap Nat            -- NEXT of the valid entries of levels 3 to 1, by level * 2^40 + table and index; unlisted: VALID = 0
  badWest   : List Nat            -- level-0 entries whose copy in the west stack groups is uncorrectable (R296)
  badEast   : List Nat            -- and in the east
  used0     : List Nat            -- HBM frames in use, sorted
  used1     : List Nat            -- frames of port 0 in use
  used2     : List Nat
  withdrawn : List Nat            -- frames withdrawn one by one
  channels  : List (Nat × Nat)    -- retired (stack, channel)
  chanErr   : NMap (List Nat)     -- timestamps of uncorrectable errors by stack * 16 + channel
  fresh0    : List (Nat × Nat)    -- HBM granules written since the scrub pass of H0 began: first and one past the last (R297)
  fresh1    : List (Nat × Nat)
  regions   : Regions
  cap0      : Nat                 -- Tier2Capacity0 in frames
  cap1      : Nat
  tlb0      : List Nat            -- pages held by H0's translation cache, most recent first
  tlb1      : List Nat
  walk0     : List Nat            -- level-1 entries held by H0's walk cache, most recent first (R205)
  walk1     : List Nat
  epoch     : Nat
  cand      : List (Nat × Nat × Bool)   -- candidates of the last epoch: page, destination tier, promotion
  moves     : List Nat            -- pages to be moved under R226, oldest first
  stallLog  : Bool
  portWait  : NMap (Nat × SectorVal)   -- writes that wait for a port whose link is down (R217): class and value by virtual sector number
  hostResp  : List (Bytes × Bool) -- CXL.mem data returned to the host, oldest first, with the poison indication
  hostWait  : List (Nat × Option Bytes)   -- CXL.mem requests that wait (R391)
  hdmSize   : Nat                 -- size the HDM decoder is committed with, GiB (R401)
  deriving DecidableEq, Repr

/-! ### Bandwidth (ch. 9) -/

/-- Regulation state of the targets. -/
structure Bw where
  effective : NMap Nat            -- BwMinEffective by target * 8 + class
  scale     : NMap (Nat × Nat)    -- f of a target as numerator and denominator; unlisted: 1
  overMask  : Nat
  half      : NMap Nat            -- the hidden half unit of each BwBytes counter
  wrapped   : List Nat            -- BwBytes counters whose WRAP bit is set
  quota     : NMap Nat            -- bytes of each class's quota in an interval, by target * 8 + class
  served    : NMap Nat            -- bytes served to an instance in the interval, by (target * 8 + class) * 64 + instance
  caps      : NMap Nat            -- cap on outstanding sectors of an instance not measured yet, by target * 8 + class
  latency   : NMap Nat            -- last measured mean latency in ns, by (target * 8 + class) * 64 + instance
  ownCaps   : NMap Nat            -- cap of a measured instance, by (target * 8 + class) * 64 + instance
  tiles     : Nat                 -- tiles that share the TILE minima in the running interval (R232)
  waiting   : List Nat            -- the backlogged instances of the last interval, as (target * 8 + class) * 64 + instance
  lastLink  : Nat                 -- HOST peak in MB/s (R230)
  deriving DecidableEq, Repr

/-! ### Ledger and scheduler (ch. 10) -/

/-- The kinds of R246. -/
inductive Kind where
  | nop | kernel | collective | copy | map | unmap | protect
  deriving DecidableEq, Repr

/-- LedgerState of R265. -/
inductive LedgerSt where
  | off | running | draining | stalled | error
  deriving DecidableEq, Repr

/-- Where an accepted entry stands. -/
inductive EState where
  | waiting
  | running
  | finished (status rule : Nat) (detail : W64)
  deriving DecidableEq, Repr

/-- A running kernel's own state. -/
structure Kernel where
  launch    : Launch
  clSize    : Nat
  grid      : Nat                 -- blocks of the grid
  threads   : Nat
  nregs     : Nat
  scratchB  : Nat
  tiles     : List Nat            -- tiles allocated
  places    : List (List Nat)     -- under FIXED, the partition's tiles or complete places by rank
  next      : Nat                 -- next block, or the first block of the next cluster
  plan      : List (Nat × Nat)    -- admissions owed: (linear, tile)
  firstFault : Option (Nat × Nat × Nat)   -- code, tile, linear
  halted    : Bool                -- no further block is dispatched
  tileMax   : Nat
  timedOut  : Bool                -- its run-time limit has expired
  limitDue  : Bool                -- the limit has expired while a save is under way (R266)
  gbar      : Option BarInst
  cbars     : NMap BarInst        -- by cluster * 2 + number
  deriving DecidableEq, Repr

/-- A running collective or copy channel (R248, R414). -/
structure Channel where
  half    : Nat
  coll    : Bool
  launch  : Launch
  words   : List W64              -- the sixteen words of a collective request
  ranks   : List (Nat × Nat)      -- node ID and port mask by rank
  pos     : Nat                   -- steps of the collective done
  acc     : NMap SectorVal        -- data held, by sector of the collective
  got     : NMap SectorVal        -- data received for steps not yet done, by step * 2^48 + sector
  wait    : Bool                  -- a COPY waits for the host link
  deriving DecidableEq, Repr

/-- An accepted entry. -/
structure Entry where
  seq      : Nat
  kind     : Kind
  words    : List W64
  status   : EState
  ran      : Bool                 -- it was dispatched
  sats     : Nat                  -- saturation events
  kern     : Option Kernel
  chan     : Option Channel
  step     : W64                  -- step in which it runs
  deriving DecidableEq, Repr

/-- A completion or event record (R254). -/
structure Record where
  phase : Bool
  type  : Nat
  code  : Nat
  rule  : Nat
  sats  : Nat
  seq   : Nat
  tag   : W64
  detail : W64
  time  : Nat
  deriving DecidableEq, Repr

/-- SchedState of R257. -/
inductive SchedSt where
  | running | pausing | paused
  deriving DecidableEq, Repr

/-- The ledger, the rings and the scheduler. -/
structure Ledger where
  enable    : Bool
  st        : LedgerSt
  seq       : Nat                 -- LedgerSeq
  alive     : Nat                 -- AliveExpected
  fetched   : Option Bytes
  produced  : Nat                 -- CompletionProduced
  consumed  : Nat                 -- last valid consumed count
  entries   : List Entry          -- accepted and not completed, by SEQ
  closed    : NMap Nat            -- status of completed entries by SEQ
  ends      : List Nat            -- STEP_END entries whose boundary has not been taken, by SEQ
  sched     : SchedSt
  events    : List Record         -- event queue, oldest first
  discard   : Bool                -- completions are discarded (R265)
  order     : List Nat            -- finished entries not yet completed, in the order in which they finished (R252)
  countDue  : Bool                -- the consumed-count line is to be read when the host link returns (R253, R265)
  faultMask : List Nat            -- TileFaultedMask
  cancelTo  : Bool                -- entries up to the next STEP_END are cancelled (R263)
  faultPause : Bool               -- pause at the boundary because a tile faulted
  autoReset : Bool                -- a tile fault asks for a compute reset (R393)
  saved     : List Block          -- blocks saved by preemption
  savedB    : Nat                 -- bytes of the save area in use
  victims   : List (Nat × Nat)    -- (tile, preempting entry) of saves under way
  reserve   : List (Nat × Nat)    -- tiles reserved for a waiting COOP entry
  coopWait  : List Nat            -- COOP entries that passed their checks and wait for tiles
  irqLast   : Option Nat          -- last send of vector 0
  irqMore   : Bool                -- records written since
  msix      : List Nat            -- messages sent, oldest first
  irqErr    : Option Nat          -- last send of vector 3
  uid       : Nat                 -- next block number
  deriving DecidableEq, Repr

/-! ### Determinism (ch. 11) -/

/-- The run and generator state. -/
structure Det where
  step       : W64                -- StepCounter
  seedSet    : Bool               -- RngSeedWritten
  unitMap    : BitVec 256         -- UnitMap
  runMap     : BitVec 256         -- the run's unit map
  runFw      : Nat                -- the run's FirmwareVersion
  repro      : Bool               -- RunReproducible
  mapChanged : Bool               -- the scheduler is held for a unit-map change (R281)
  resume     : Nat                -- ResumeResult
  probe      : Bytes              -- RngProbeInput
  faultStep  : W64                -- LastFaultStep
  deriving DecidableEq, Repr

/-! ### Integrity (ch. 12) -/

/-- One error log entry (R306). -/
structure LogEntry where
  time   : Nat
  code   : Nat
  sev    : Nat
  agent  : Nat
  seq    : Nat
  valid  : Bool
  space  : Nat
  addr   : Nat
  detail : W64
  deriving DecidableEq, Repr

/-- A recorded hard fault (R288, R299): where it lies, and whether its repair has been applied. -/
structure HardFault where
  hbm     : Bool
  place   : Nat
  position : Nat
  applied : Bool
  deriving DecidableEq, Repr

/-- Error log, repair store, scrubbers, bundles. -/
structure Integ where
  ring     : NMap LogEntry        -- by slot
  head     : Nat                  -- ErrorLogHead
  ack      : Nat                  -- ErrorLogAck
  fatal    : List LogEntry        -- flash ring, oldest first
  store    : List HardFault
  pass     : NMap Nat             -- scrub pass position by half * 2 + (1 for HBM)
  behind   : NMap Nat             -- SCRUB_BEHIND logged in this pass
  bundles  : NMap Nat             -- spares used by bundle key
  stopped  : List Nat             -- bundles stopped for a spare change
  failedB  : List Nat             -- bundles out of use
  moving   : List Nat             -- physical tiles whose port moves to half width
  lastCe   : NMap Nat             -- timestamp of the last CORRECTED entry by unit
  lastLim  : NMap Nat             -- timestamps of the other interval limits by cause
  alertHold : Bool                -- the FATAL hold on ALERT_N, kept in flash (R453)
  deriving DecidableEq, Repr

/-! ### Power (ch. 13) -/

/-- InputState of R339. -/
inductive InputSt where
  | normal | low | holdup | high
  deriving DecidableEq, Repr

/-- FleeceState of R331. -/
inductive FleeceSt where
  | off | armed | holding | releasing
  deriving DecidableEq, Repr

/-- The gates of a switched domain: how many of its 8 steps are closed, and when the latest was granted, or the sequence began (R322). -/
structure Gate where
  steps : Nat
  since : Nat
  deriving DecidableEq, Repr

/-- The governor. -/
structure Power where
  allowance : Nat                 -- A, mW
  k         : Nat                 -- pacing fraction of 64
  ballast   : Nat                 -- W
  inputW    : Nat                 -- latest input power, W
  fleece    : FleeceSt
  floor     : Nat                 -- F, W
  stepSum   : Nat                 -- sum of power samples since the last boundary
  stepN     : Nat
  stepMean  : Nat                 -- StepMeanPower
  steps     : Nat                 -- boundaries since FleeceEnable came on
  input     : InputSt
  mv        : Nat                 -- input voltage, mV
  stages    : List Nat            -- failed board stages
  stageLock : Bool                -- refuses to leave Standby (R312)
  cells     : NMap Nat            -- VcmpCellsFailed by group, kept in flash
  rails     : NMap Nat            -- RailCellsFailed by subindex, kept in flash
  slotRef   : Nat                 -- R, mW
  slotOn    : Bool                -- the module's slot is open
  slotRise  : Option Nat          -- demand a slot-granted rise runs to, mW
  frame     : Nat                 -- timestamp of the last frame start
  frameExt  : Bool                -- frames are timed from outside
  syncLost  : Bool
  coordOff  : Bool                -- this coordinator has yielded (R336)
  beacons   : List Nat            -- frame numbers of the beacons sent, oldest first
  mismatch  : Bool                -- SLOT_CONFIG_MISMATCH logged for the present mismatch
  gates     : NMap Gate           -- gates of the domains that are not off, by code
  rise      : Nat                 -- VCMP current rise scheduled in the present 10 µs, A (R314, R323)
  nextRate  : Nat                 -- RampUp and RampDown in effect: up * 65536 + down (R329)
  descend   : Option Nat          -- draw A must descend to (resets, state changes), W
  fast      : Bool                -- it descends at BrownoutRampDown (R317)
  msSum     : Nat                 -- power and ballast samples of the millisecond so far, and how many
  msBallast : Nat
  msN       : Nat
  ballastMs : Nat                 -- BallastPower: mean of the last whole millisecond, W
  slotDem   : Nat                 -- the demand at the slot's start, W
  frameNo   : Nat                 -- number of the latest own frame
  deriving DecidableEq, Repr

/-! ### Clocks and thermal (ch. 14) -/

/-- One sensor's history (R357 to R363), temperatures in 0.01 °C. -/
structure Sensor where
  reading  : Int
  gov      : Int
  sum      : Int
  n        : Nat
  prevMean : Option Int
  rate     : Int                  -- 0.01 °C per ms
  warnMs   : Nat
  hotRun   : Nat                  -- samples since its rate last reached 1.5 °C/ms
  disagree : Nat                  -- samples of disagreement
  low      : Nat                  -- samples below the estimate
  agree    : Nat                  -- samples of agreement while suspect
  suspect  : Bool
  byEst    : Bool
  est      : Option Int           -- the model estimate of a Felt place
  deriving DecidableEq, Repr

/-- A throttle ask or enforcement (R361): scope 0 one tile, 1 H0, 2 H1, 3 both. -/
structure Ask where
  scope    : Nat
  tile     : Nat
  target   : Nat
  cause    : Nat
  enforced : Bool
  hot      : Nat                  -- samples the condition has persisted since enforcement
  cool     : Nat                  -- samples of the cool condition
  deriving DecidableEq, Repr

/-- Module states of R354. -/
inductive ModSt where
  | active | standby | dormant
  | changing (target : Nat)       -- 0 ACTIVE, 1 STANDBY, 2 DORMANT
  deriving DecidableEq, Repr

/-- Clocks, module state, sensors, time. -/
structure Thermal where
  sensors  : NMap Sensor
  hbm      : NMap Nat             -- HbmThermalState by stack; unlisted: NORMAL
  asks     : List Ask
  samples  : Nat                  -- samples taken, modulo 10 the place within the ms
  hotBoot  : Bool                 -- a throttle condition or a trip holds bring-up (R395)
  tripped  : Bool                 -- a trip holds the module in Standby (R366)
  modSt    : ModSt
  timestamp : Nat
  slew     : Int                  -- rate correction, ppm
  pps      : Nat                  -- PpsTimestamp
  locked   : Bool                 -- TimeLocked
  timeLost : Bool                 -- TIME_SOURCE_LOST logged
  lastTime : Option (Nat × Nat)   -- last Muslin TIME: TAI and arrival timestamp
  holdover : Bool                 -- RefclkState
  trims    : Nat                  -- AON trims made
  perfIdx  : Nat                  -- PerfSampleIndex
  perfFault : Bool                -- PERF_SAMPLE_FAULT logged since the enable
  sleep    : NMap Sleep           -- by physical tile; unlisted: Idle
  forced   : Option Nat           -- a state to enter once the transition under way ends
  tripAt   : Option Nat           -- timestamp of a trip that counts as unavailability (R396, R459)
  deriving DecidableEq, Repr

/-! ### Bring-up (ch. 15) -/

/-- BringupState of 0x6000.01. -/
inductive Bringup where
  | rom | regulators | training | fill | broadcast | selftest | bind | qualify | ready | computeReset | failed
  deriving DecidableEq, Repr

/-- A link's qualification (0x6003, 0x6004): result code, its window running, and the rate as a binary32. -/
structure Link where
  trained : Bool
  window  : Bool
  result  : Nat                   -- 0 PASS, 1 FAIL, 2 UNTRAINED, 3 DISABLED
  rate    : W32
  deriving DecidableEq, Repr

/-- The broadcast receiver of a core (R382). -/
structure Core where
  bitmap   : NMap (List Nat)      -- packets held by image
  last     : NMap Nat             -- LAST by image
  image    : NMap Bytes           -- payload by image * 65536 + packet
  verified : Bool
  deriving DecidableEq, Repr

/-- Bring-up, resets and binding. -/
structure Boot where
  powered  : Bool                 -- the board stages run
  pwrEn    : Bool
  pwrOff   : Bool                 -- a power-off is under way
  phase    : Bringup
  binding  : NMap Nat             -- physical tile by logical number
  spares   : List Nat             -- physical tiles that are spares
  failed   : List Nat             -- physical tiles that failed self-test
  record   : List Nat             -- FaultedTileRecord, kept in flash
  links    : NMap Link            -- by subindex of 0x6003
  hbmTrained : List Nat           -- stacks
  cores    : NMap Core
  loadFail : List Nat             -- CoreLoadFailedMask
  snoop    : NMap (Nat × List Nat)  -- by half: SEQ of the last broadcast packet, and the cores that have taken it
  round    : Nat
  stage    : Nat                  -- 0 manifest and half managers, 1 the other images
  lastMs   : Nat                  -- LastBringupTime
  resetMs  : Nat                  -- LastComputeResetTime
  crPhase  : Nat                  -- compute reset: 0 none, 1 descending, 2 running
  unplanned : Bool                -- the compute reset under way counts as unavailability
  lost     : Bool                 -- TABLE_LOST, RAIL_GROUP_LOST or the watchdog: the next bring-up counts as unavailability
  tripCause : Nat                 -- InputTripCause
  tripLatched : Bool
  tripLog  : Bool                 -- INPUT_TRIPPED is due at the next bring-up
  unready  : Bool                 -- a bring-up has begun and not come to Ready; kept over a loss of power (R437)
  cold     : Bool                 -- bring-up follows a loss of power: a BLOCKED lock counts again from Ready (R37)
  deriving DecidableEq, Repr

/-- The fused values of R52, R228, R444. -/
structure Fuses where
  variant  : Nat                  -- 0 PZX-7264-LM, 1 PZX-7256-LM, 2 PZX-7248-LM
  fused    : List Nat             -- physical tiles fused off
  serial   : Bytes
  hwRev    : Nat
  mac      : Bytes
  romHash  : Bytes
  revoked  : List Nat             -- release keys revoked
  deriving DecidableEq, Repr

/-! ### Interfaces (ch. 16) -/

/-- A message parsed from a DATA flit (R409). -/
structure PMsg where
  vc     : Nat
  mtype  : Nat
  len    : Nat                    -- sectors
  node   : Nat
  tag    : Nat
  step   : Nat
  addr   : Nat
  data   : List SectorVal
  last   : Bool                   -- the last message of its flit
  deriving DecidableEq, Repr

/-- A local request outstanding on a peer port (R409, R412). -/
structure PReq where
  tag    : Nat
  isRead : Bool
  agent  : Nat
  answer : Option (List SectorVal)
  failed : Bool
  deriving DecidableEq, Repr

/-- A peer port (R407 to R412, R417). -/
structure Peer where
  lanes    : Nat                  -- 0, 2, 4
  pair     : Nat
  partner  : Nat
  txSeq    : Nat                  -- FSEQ of the next DATA flit
  rxSeq    : Nat                  -- FSEQ expected
  anyRx    : Bool                 -- a DATA flit has been accepted: ACKV
  nakSent  : Bool
  replay   : List (Nat × Bytes)   -- unacknowledged flits: FSEQ and the VC byte with the payload
  replays  : Nat                  -- replays since an acknowledgement advanced
  retrains : List Nat             -- timestamps of retrains since an acknowledgement advanced
  training : Bool                 -- a retrain is under way
  credits  : List Nat             -- credits held by VC
  owed     : List Nat             -- credits to return by VC
  rx       : List PMsg            -- messages in the receive buffer, oldest first
  tx       : List PMsg            -- messages that wait to be sent, oldest first
  ctl      : List (Nat × Nat)     -- control flits sent: CTYPE and CARG, oldest first
  failedL  : List Nat             -- lanes that have failed and are not replaced
  spared   : List (Nat × Nat)     -- (lane, spare) steered
  swapQ    : List Nat             -- failed lanes that wait for sparing
  swap     : Option (Nat × Nat)   -- LANE_SWAP under way: lane and spare
  outst    : List PReq
  deriving DecidableEq, Repr

/-- A Muslin frame the module has sent, other than dictionary responses. -/
structure MuslinOut where
  type    : Nat
  session : Nat
  status  : Nat
  dst     : Udp
  deriving DecidableEq, Repr

/-- The SPDM connection of one path (R441). -/
structure Spdm where
  phase   : Nat                   -- 0 none, 1 version, 2 capabilities, 3 algorithms
  session : Bool
  keyed   : Bool
  chunks  : NMap Bytes            -- large request under assembly, by handle
  chunkNo : Nat
  large   : NMap Bytes            -- large responses kept, by handle
  log     : Bytes                 -- transcript
  resp    : Nat                   -- response code sent
  body    : Bytes
  deriving DecidableEq, Repr

/-- The external interfaces. -/
structure Iface where
  hostLink  : Nat                 -- 0 DOWN, 1 TRAINING, 2 LINKED
  hostWidth : Nat
  hostRate  : Nat
  hostIde   : Nat
  downSince : Option Nat          -- timestamp at which the host link went down in service
  orderLost : Bool                -- SYSTEM scope is degraded (R159)
  t2width   : NMap Nat
  t2bw      : NMap Nat
  t2rate    : NMap Nat
  t2down    : List Nat            -- ports whose link has dropped in service
  peers     : NMap Peer           -- by port; unlisted: the port as it is before training
  muslinTx  : List MuslinOut
  spdmHost  : Spdm
  spdmMus   : Spdm
  deriving DecidableEq, Repr

/-! ### Firmware (ch. 17) -/

/-- A firmware slot: the package in flash, whether it counts as valid, and the header fields it was verified with. -/
structure Slot where
  bytes   : Memory
  length  : Nat
  valid   : Bool
  version : Nat
  svn     : Nat
  header  : Bytes
  compat  : List Nat
  deriving DecidableEq, Repr

/-- ComponentStatus. -/
inductive CompSt where
  | confirmed | pending | trial
  deriving DecidableEq, Repr

/-- A component (R428). -/
structure Comp where
  a       : Slot
  b       : Slot
  runB    : Bool                  -- it runs slot B
  status  : CompSt
  svnFloor : Nat
  deriving DecidableEq, Repr

/-- UpdateState. -/
inductive UpdSt where
  | idle | erasing | writing | verifying | verified | committing
  deriving DecidableEq, Repr

/-- The update machine. -/
structure Fw where
  comps   : List Comp
  upd     : UpdSt
  comp    : Nat
  offset  : Nat
  busy    : Bool                  -- a block is being programmed
  refusal : Nat
  result  : Nat
  dictVersion : Nat               -- DictionaryVersion of the running component 0
  deriving DecidableEq, Repr

/-! ### Board (ch. 18) -/

/-- Board sensors and pins. -/
structure Board where
  coolant  : Nat                  -- CoolantState bits
  inlet    : Int                  -- 0.1 °C
  deltaP   : Int                  -- 0.1 kPa
  dew      : Int
  absent   : NMap Nat             -- timestamp at which a set bit's condition was first absent
  marks    : Nat                  -- trace marks made
  tripCoolant : Nat               -- CoolantState at the last thermal trip (R459)
  deriving DecidableEq, Repr

/-- The module. -/
structure State where
  pending : List Instr
  dict    : DictState
  tiles   : NMap Tile             -- by logical number; unlisted: a free tile
  felt    : Felt
  mem     : Mem
  bw      : Bw
  ledger  : Ledger
  det     : Det
  integ   : Integ
  funcs   : NMap FState           -- R50 states by function number; unlisted: OFF
  power   : Power
  thermal : Thermal
  boot    : Boot
  fuses   : Fuses
  iface   : Iface
  fw      : Fw
  board   : Board
  deriving DecidableEq, Repr

/-! ### Reset

The module before its first power-on: nothing runs, every memory is empty, every function is off, and the flash holds the
delivered images. Values the spec does not give are named in the assumption log. -/

/-- A firmware slot as delivered. (DESIGN CHOICE, notes/assumptions/3.md). -/
def Slot.delivered : Slot :=
  { bytes := [], length := 0, valid := true, version := 0x01000000, svn := 0, header := [], compat := [] }

/-- An empty firmware slot. (DESIGN CHOICE, notes/assumptions/3.md). -/
def Slot.blank : Slot :=
  { bytes := [], length := 0, valid := false, version := 0, svn := 0, header := [], compat := [] }

/-- A component as delivered: confirmed, in slot A. (DESIGN CHOICE, notes/assumptions/3.md). -/
def Comp.delivered : Comp :=
  { a := .delivered, b := .blank, runB := false, status := .confirmed, svnFloor := 0 }

/-- An SPDM path with no connection. -/
def Spdm.none : Spdm :=
  { phase := 0, session := false, keyed := false, chunks := [], chunkNo := 0, large := [], log := [], resp := 0, body := [] }

/-- A memory with nothing in it. (DESIGN CHOICE, notes/assumptions/5.md). -/
def MarkedMem.empty : MarkedMem := { bytes := [], marks := [] }

/-- Shared resources without owners. -/
def Claims.none : Claims :=
  { aux0 := .none, aux1 := .none, stage0 := List.replicate 6 .free, stage1 := List.replicate 6 .free
    timer0 := List.replicate 4 .free, timer1 := List.replicate 4 .free, trace := 0 }

/-- The dictionary at reset. (DESIGN CHOICE, notes/assumptions/3.md). -/
def DictState.reset : DictState :=
  { values := [], counters := []
    req := { op := 0, more := false, index := 0, sub := 0, offset := 0, length := 0 }
    resp := { sid := 0, status := 0, rule := 0, total := 0, data := [] }, buffer := List.replicate 256 0
    replies := [], parts := [], hostOpen := false, sessions := [], lease := .none, lock := .closed, failCount := 0
    nonce := .none, password := Config.initialPassword, staged := [], queued := .none, commitRes := 0, configGen := 0
    claims := .none, blobCur := .none, blobPrior := .none, freeCount := 0 }

/-- Felt at reset. -/
def Felt.reset : Felt :=
  { lines := [], dead := [], spilled := [], plru := [], bankOver := [], retired := [], retiring := [], leaving := [], remapped := [], flush := 0
    accepts := false, waiting := [], fresh := [], order := 0, capacity := 0, spillLog0 := none, spillLog1 := none, groups := [] }

/-- Memory at reset. (DESIGN CHOICE, notes/assumptions/5.md). -/
def Mem.reset : Mem :=
  { hbm := .empty, tier0 := .empty, tier1 := .empty, host := .empty, pages := [], tables := [], badWest := [], badEast := [], used0 := [], used1 := [], used2 := []
    withdrawn := [], channels := [], chanErr := [], fresh0 := [], fresh1 := [], regions := { spill := [], save := [], window := [], pending := [], stalled := false }
    cap0 := 0, cap1 := 0, tlb0 := [], tlb1 := [], walk0 := [], walk1 := [], epoch := 0, cand := [], moves := [], stallLog := false, portWait := []
    hostResp := [], hostWait := [], hdmSize := 0 }

/-- Bandwidth regulation at reset. -/
def Bw.reset : Bw :=
  { effective := [], scale := [], overMask := 0, half := [], wrapped := [], quota := [], served := [], caps := [], latency := [], ownCaps := [], tiles := 0
    waiting := [], lastLink := 0 }

/-- The ledger at reset. -/
def Ledger.reset : Ledger :=
  { enable := false, st := .off, seq := 0, alive := 1, fetched := none, produced := 0, consumed := 0, entries := [], closed := []
    ends := [], sched := .running, events := [], discard := false, order := [], countDue := false, faultMask := [], cancelTo := false, faultPause := false
    autoReset := false, saved := [], savedB := 0, victims := [], reserve := [], coopWait := [], irqLast := none, irqMore := false
    msix := [], irqErr := none, uid := 0 }

/-- The run at reset. -/
def Det.reset : Det :=
  { step := 0, seedSet := false, unitMap := 0, runMap := 0, runFw := 0, repro := false, mapChanged := false, resume := 0
    probe := List.replicate 24 0, faultStep := 0 }

/-- Error log and repair at reset. -/
def Integ.reset : Integ :=
  { ring := [], head := 0, ack := 0, fatal := [], store := [], pass := [], behind := [], bundles := [], stopped := [], failedB := []
    moving := [], lastCe := [], lastLim := [], alertHold := false }

/-- The governor at reset. -/
def Power.reset : Power :=
  { allowance := 0, k := 64, ballast := 0, inputW := 0, fleece := .off, floor := 0, stepSum := 0, stepN := 0, stepMean := 0
    steps := 0, input := .normal, mv := 54000, stages := [], stageLock := false, cells := [], rails := [], slotRef := 0
    slotOn := false, slotRise := none, frame := 0, frameExt := false, syncLost := false, coordOff := false, beacons := []
    mismatch := false, gates := [], rise := 0, nextRate := 250 * 65536 + 250, descend := none, fast := false, msSum := 0, msBallast := 0
    msN := 0, ballastMs := 0, slotDem := 0, frameNo := 0 }

/-- Clocks and sensors at reset. -/
def Thermal.reset : Thermal :=
  { sensors := [], hbm := [], asks := [], samples := 0, hotBoot := false, tripped := false, modSt := .active, timestamp := 0
    slew := 0, pps := 0, locked := false, timeLost := false, lastTime := none, holdover := false, trims := 0, perfIdx := 0
    perfFault := false, sleep := [], forced := none, tripAt := none }

/-- Bring-up at reset: the enable input is asserted. -/
def Boot.reset : Boot :=
  { powered := false, pwrEn := true, pwrOff := false, phase := .rom, binding := [], spares := [], failed := []
    record := [], links := [], hbmTrained := [], cores := [], loadFail := [], snoop := [], round := 0, stage := 0, lastMs := 0
    resetMs := 0, crPhase := 0, unplanned := false, lost := false, tripCause := 0, tripLatched := false, tripLog := false, unready := false, cold := true }

/-- The fuses of a full member of the family. (DESIGN CHOICE, notes/assumptions/3.md). -/
def Fuses.reset : Fuses :=
  { variant := 0, fused := [], serial := List.replicate 16 0x30, hwRev := 0, mac := List.replicate 6 0
    romHash := List.replicate 64 0, revoked := [] }

/-- The interfaces at reset. -/
def Iface.reset : Iface :=
  { hostLink := 0, hostWidth := 0, hostRate := 0, hostIde := 0, downSince := none, orderLost := false, t2width := [], t2bw := [], t2rate := []
    t2down := [], peers := [], muslinTx := [], spdmHost := .none, spdmMus := .none }

/-- Firmware as delivered. -/
def Fw.reset : Fw :=
  { comps := List.replicate 4 .delivered, upd := .idle, comp := 0, offset := 0, busy := false, refusal := 0, result := 0
    dictVersion := 1 }

/-- Board sensors at reset. (DESIGN CHOICE, notes/assumptions/3.md). -/
def Board.reset : Board :=
  { coolant := 0, inlet := 0, deltaP := 0, dew := 0, absent := [], marks := 0, tripCoolant := 0 }

/-- The module right after reset: before POWER_ON, with an empty queue. (DESIGN CHOICE, notes/assumptions/3.md). -/
def State.reset : State :=
  { pending := [], dict := .reset, tiles := [], felt := .reset, mem := .reset, bw := .reset, ledger := .reset, det := .reset
    integ := .reset, funcs := [], power := .reset, thermal := .reset, boot := .reset, fuses := .reset, iface := .reset, fw := .reset
    board := .reset }

/-- The machine stops with a fault: no command of the table does; the spec gives every one an effect. -/
inductive Fault where
  | unreachable                   -- raised by no command; safe
  deriving DecidableEq, Repr

/-- A command has no meaning. -/
inductive Refusal where
  | notModelled (mnemonic : String)   -- raised by `exec` for a row that has no meaning yet; safe
  deriving DecidableEq, Repr

end Sys2Proof.Machine
end

