-- ==== Sys2Proof/Machine/Maps.lean ====
section
/-! DEFINITION. Operations over the sparse stores of `State`: number maps, byte memories, and memories with poison marks. -/

set_option Elab.async false

namespace Sys2Proof.Machine

open Sys2Proof

/-- What the map holds at `k`. -/
def NMap.look {α : Type} : NMap α → Nat → Option α
  | [], _ => none
  | (j, v) :: m, k => if j = k then some v else NMap.look m k

/-- What the map holds at `k`, or `d`. -/
def NMap.lookD {α : Type} (m : NMap α) (k : Nat) (d : α) : α := (NMap.look m k).getD d

/-- The map with `v` at `k`; keys stay rising. -/
def NMap.put {α : Type} : NMap α → Nat → α → NMap α
  | [], k, v => [(k, v)]
  | (j, w) :: m, k, v =>
    if k < j then (k, v) :: (j, w) :: m
    else if j = k then (k, v) :: m
    else (j, w) :: NMap.put m k v

/-- The map without `k`. -/
def NMap.del {α : Type} (m : NMap α) (k : Nat) : NMap α := m.filter fun e => !(e.1 == k)

/-- The map with the value at `k` changed by `f`, `d` standing for an unlisted one. -/
def NMap.upd {α : Type} (m : NMap α) (k : Nat) (d : α) (f : α → α) : NMap α := NMap.put m k (f (NMap.lookD m k d))

/-- The map with the value at `k`, where it has one, changed by `f`. -/
def NMap.adj {α : Type} (m : NMap α) (k : Nat) (f : α → α) : NMap α :=
  m.map fun e => if e.1 = k then (e.1, f e.2) else e

/-- The map without the keys of `[a, b)`. -/
def NMap.delRange {α : Type} (m : NMap α) (a b : Nat) : NMap α := m.filter fun e => decide (e.1 < a) || decide (b ≤ e.1)

/-- The map with every value changed. -/
def NMap.mapVals {α : Type} (m : NMap α) (f : Nat → α → α) : NMap α := m.map fun e => (e.1, f e.1 e.2)

/-- Does the map list `k`? -/
def NMap.has {α : Type} (m : NMap α) (k : Nat) : Bool := (NMap.look m k).isSome

/-- Insert a number into a sorted list of numbers without repeats. -/
def insertNat : List Nat → Nat → List Nat
  | [], k => [k]
  | j :: l, k => if k < j then k :: j :: l else if j = k then j :: l else j :: insertNat l k

/-- The lowest number from `k` on that a sorted list without repeats does not hold, looking at most as far as the list is long. -/
def lowestFree : List Nat → Nat → Nat
  | [], k => k
  | j :: l, k => if j < k then lowestFree l k else if j = k then lowestFree l (k + 1) else k

/-- Replace the element at position `k`. -/
def setAt {α : Type} : List α → Nat → α → List α
  | [], _, _ => []
  | _ :: l, 0, v => v :: l
  | x :: l, k + 1, v => x :: setAt l k v

/-- Change the element at position `k`. -/
def adjAt {α : Type} : List α → Nat → (α → α) → List α
  | [], _, _ => []
  | x :: l, 0, f => f x :: l
  | x :: l, k + 1, f => x :: adjAt l k f

/-- The first element with `p` changed by `f`. -/
def adjFirst {α : Type} (p : α → Bool) (f : α → α) : List α → List α
  | [] => []
  | x :: l => if p x then f x :: l else x :: adjFirst p f l

/-- The list without its first element with `p`. -/
def dropFirst {α : Type} (p : α → Bool) : List α → List α
  | [] => []
  | x :: l => if p x then l else x :: dropFirst p l

/-! ### Byte memories -/

/-- The byte at `a`; 0 where nothing is listed. (DESIGN CHOICE, notes/assumptions/5.md). -/
def Memory.read : Memory → Nat → Byte
  | [], _ => 0
  | (j, v) :: m, a => if j = a then v else Memory.read m a

/-- The memory with byte `v` at `a`, in canonical form: a 0 is not listed. (DESIGN CHOICE, notes/assumptions/5.md). -/
def Memory.write : Memory → Nat → Byte → Memory
  | [], a, v => if v = 0 then [] else [(a, v)]
  | (j, w) :: m, a, v =>
    if a < j then (if v = 0 then (j, w) :: m else (a, v) :: (j, w) :: m)
    else if j = a then (if v = 0 then m else (a, v) :: m)
    else (j, w) :: Memory.write m a v

/-- The canonical form: addresses strictly rising, no entry equal to 0. -/
def Memory.wf : Memory → Bool
  | [] => true
  | [(_, v)] => decide (v ≠ 0)
  | (a, v) :: (b, w) :: m => decide (a < b) && decide (v ≠ 0) && Memory.wf ((b, w) :: m)

/-- `n` bytes from `a`. -/
def Memory.readN (m : Memory) (a : Nat) : Nat → Bytes
  | 0 => []
  | n + 1 => Memory.read m a :: Memory.readN m (a + 1) n

/-- The bytes `bs` written from `a`. -/
def Memory.writeL (m : Memory) (a : Nat) : Bytes → Memory
  | [] => m
  | b :: bs => Memory.writeL (Memory.write m a b) (a + 1) bs

/-- The memory with nothing in `[a, b)`. -/
def Memory.clear (m : Memory) (a b : Nat) : Memory := m.filter fun e => decide (e.1 < a) || decide (b ≤ e.1)

/-! ### Little-endian values (R7) -/

/-- A byte string as a number, lowest byte first. -/
def leNat : Bytes → Nat
  | [] => 0
  | b :: bs => b.toNat + 256 * leNat bs

/-- The `n` bytes of a number, lowest first. -/
def natLE : Nat → Nat → Bytes
  | 0, _ => []
  | n + 1, v => BitVec.ofNat 8 v :: natLE n (v / 256)

/-- The 32 bytes of a sector. -/
def sectorBytes (d : SectorData) : Bytes := natLE 32 d.toNat

/-- The sector of a byte string of at most 32 bytes. -/
def bytesSector (bs : Bytes) : SectorData := BitVec.ofNat 256 (leNat (bs.take 32))

/-- A list cut into pieces of `n`, at most `fuel` of them. -/
def chunksN {α : Type} (n : Nat) : Nat → List α → List (List α)
  | 0, _ => []
  | fuel + 1, l => if l.isEmpty then [] else l.take n :: chunksN n fuel (l.drop n)

/-- The 64-bit words of a byte string. -/
def bytesWords (bs : Bytes) : List W64 := (chunksN 8 bs.length bs).map fun c => BitVec.ofNat 64 (leNat c)

/-- Bits `[hi:lo]` of a word. -/
def fld (w : W64) (hi lo : Nat) : Nat := w.toNat / 2 ^ lo % 2 ^ (hi + 1 - lo)

/-- Bit `i` of a number. -/
def natBit (n i : Nat) : Bool := n / 2 ^ i % 2 == 1

/-- A Bool as 0 or 1. -/
def bit01 (b : Bool) : Nat := if b then 1 else 0

/-- The number of set bits below `n`. -/
def popCount (v : Nat) : Nat → Nat
  | 0 => 0
  | n + 1 => popCount v n + v / 2 ^ n % 2

/-- A number from its set bits. -/
def maskOf (l : List Nat) : Nat := l.foldl (fun m b => if natBit m b then m else m + 2 ^ b) 0

/-- The 32 lanes of a mask that are set. -/
def lanesOf (m : BitVec 32) : List Nat := (List.range 32).filter fun i => m.getLsbD i

/-! ### Memories with poison marks (R286, R292) -/

/-- The code of a poison class (R290). -/
def PoisonClass.code : PoisonClass → Nat
  | .mem => 0
  | .dead => 1
  | .link => 2
  | .xfer => 3

/-- The first mark of two (R187). -/
def orMark (a b : Option PoisonClass) : Option PoisonClass := if a.isSome then a else b

/-- The first mark of a list. (DEDUCED, notes/assumptions/79.md). -/
def firstMark (l : List (Option PoisonClass)) : Option PoisonClass := l.foldl orMark none

/-- Sector `n` of the memory. -/
def MarkedMem.sector (m : MarkedMem) (n : Nat) : SectorVal :=
  { data := bytesSector (Memory.readN m.bytes (n * 32) 32), mark := NMap.look m.marks n }

/-- The memory with sector `n` replaced. -/
def MarkedMem.setSector (m : MarkedMem) (n : Nat) (v : SectorVal) : MarkedMem :=
  { bytes := Memory.writeL m.bytes (n * 32) (sectorBytes v.data)
    marks := match v.mark with
      | some c => NMap.put m.marks n c
      | none => NMap.del m.marks n }

/-- `n` bytes from `a`, marks aside. -/
def MarkedMem.readN (m : MarkedMem) (a n : Nat) : Bytes := Memory.readN m.bytes a n

/-- The mark of the first marked sector among those that `n` bytes from `a` touch. -/
def MarkedMem.markN (m : MarkedMem) (a n : Nat) : Option PoisonClass :=
  firstMark ((List.range (if n = 0 then 0 else (a + n - 1) / 32 - a / 32 + 1)).map fun i => NMap.look m.marks (a / 32 + i))

/-- The memory with bytes written and no mark changed. -/
def MarkedMem.writeRaw (m : MarkedMem) (a : Nat) (bs : Bytes) : MarkedMem := { m with bytes := Memory.writeL m.bytes a bs }

end Sys2Proof.Machine
end

