-- ==== Sys2Proof/Machine/Crypto.lean ====
section
/-! DEFINITION. The check codes, hashes and signatures the spec names: CRC-32C (R245), SipHash-2-4 (R270), SHA-512 and
ECDSA on P-521 (R39, R430, R441). The constants of SHA-512 and of the curve are those of their published standards
(PRESUMED: the spec names the algorithms and gives no constants; notes/assumptions/13.md). -/

set_option Elab.async false

namespace Sys2Proof.Machine

open Sys2Proof

/-! ### CRC-32C -/

/-- One bit of the reflected CRC-32C with polynomial 0x1EDC6F41. (PRESUMED, notes/assumptions/13.md). -/
def crcBit (c : W32) : W32 := if c.getLsbD 0 then (c >>> 1) ^^^ 0x82F63B78 else c >>> 1

/-- `n` bits. -/
def crcBits : Nat → W32 → W32
  | 0, c => c
  | n + 1, c => crcBits n (crcBit c)

/-- CRC-32C of a byte string (R245): initial value and final inversion all ones, bytes in ascending order. -/
def crc32c (bs : Bytes) : W32 :=
  (bs.foldl (fun c b => crcBits 8 (c ^^^ BitVec.setWidth 32 b)) 0xFFFFFFFF) ^^^ 0xFFFFFFFF

/-! ### SipHash-2-4 -/

/-- The four words of SipHash. -/
structure Sip where
  v0 : W64
  v1 : W64
  v2 : W64
  v3 : W64
  deriving DecidableEq, Repr

/-- One SipRound. (PRESUMED, notes/assumptions/13.md). -/
def sipRound (s : Sip) : Sip :=
  let a := s.v0 + s.v1
  let b := s.v1.rotateLeft 13 ^^^ a
  let a := a.rotateLeft 32
  let c := s.v2 + s.v3
  let d := s.v3.rotateLeft 16 ^^^ c
  let a2 := a + d
  let d2 := d.rotateLeft 21 ^^^ a2
  let c2 := c + b
  let b2 := b.rotateLeft 17 ^^^ c2
  { v0 := a2, v1 := b2, v2 := c2.rotateLeft 32, v3 := d2 }

/-- `n` rounds. -/
def sipRounds : Nat → Sip → Sip
  | 0, s => s
  | n + 1, s => sipRounds n (sipRound s)

/-- Absorb one message word. -/
def sipWord (s : Sip) (m : W64) : Sip :=
  let t := sipRounds 2 { s with v3 := s.v3 ^^^ m }
  { t with v0 := t.v0 ^^^ m }

/-- SipHash-2-4 of a byte string under the 128-bit key `k0`, `k1`. -/
def sipHash24 (k0 k1 : W64) (msg : Bytes) : W64 :=
  let init : Sip := { v0 := k0 ^^^ 0x736f6d6570736575, v1 := k1 ^^^ 0x646f72616e646f6d,
                      v2 := k0 ^^^ 0x6c7967656e657261, v3 := k1 ^^^ 0x7465646279746573 }
  let full := msg.length / 8
  let last := BitVec.ofNat 64 (leNat (msg.drop (full * 8)) + 2 ^ 56 * (msg.length % 256))
  let words := (chunksN 8 full msg).map fun c => BitVec.ofNat 64 (leNat c)
  let s := sipWord (words.foldl sipWord init) last
  let t := sipRounds 4 { s with v2 := s.v2 ^^^ 0xff }
  t.v0 ^^^ t.v1 ^^^ t.v2 ^^^ t.v3

/-! ### SHA-512 -/

/-- The words of a number, `n` of them, the highest first. -/
def wordsOf (n v : Nat) : List W64 := (List.range n).map fun i => BitVec.ofNat 64 (v / 2 ^ (64 * (n - 1 - i)))

/-- The round constants, twenty to a number: the fractions of the cube roots of the first 80 primes.
(PRESUMED, notes/assumptions/13.md). -/
def shaRoots : List W64 :=
  wordsOf 20
    0x428a2f98d728ae227137449123ef65cdb5c0fbcfec4d3b2fe9b5dba58189dbbc3956c25bf348b53859f111f1b605d019923f82a4af194f9bab1c5ed5da6d8118d807aa98a303024212835b0145706fbe243185be4ee4b28c550c7dc3d5ffb4e272be5d74f27b896f80deb1fe3b1696b19bdc06a725c71235c19bf174cf692694e49b69c19ef14ad2efbe4786384f25e30fc19dc68b8cd5b5240ca1cc77ac9c65 ++
  wordsOf 20
    0x2de92c6f592b02754a7484aa6ea6e4835cb0a9dcbd41fbd476f988da831153b5983e5152ee66dfaba831c66d2db43210b00327c898fb213fbf597fc7beef0ee4c6e00bf33da88fc2d5a79147930aa72506ca6351e003826f142929670a0e6e7027b70a8546d22ffc2e1b21385c26c9264d2c6dfc5ac42aed53380d139d95b3df650a73548baf63de766a0abb3c77b2a881c2c92e47edaee692722c851482353b ++
  wordsOf 20
    0xa2bfe8a14cf10364a81a664bbc423001c24b8b70d0f89791c76c51a30654be30d192e819d6ef5218d69906245565a910f40e35855771202a106aa07032bbd1b819a4c116b8d2d0c81e376c085141ab532748774cdf8eeb9934b0bcb5e19b48a8391c0cb3c5c95a634ed8aa4ae3418acb5b9cca4f7763e373682e6ff3d6b2b8a3748f82ee5defb2fc78a5636f43172f6084c87814a1f0ab728cc702081a6439ec ++
  wordsOf 20
    0x90befffa23631e28a4506cebde82bde9bef9a3f7b2c67915c67178f2e372532bca273eceea26619cd186b8c721c0c207eada7dd6cde0eb1ef57d4f7fee6ed17806f067aa72176fba0a637dc5a2c898a6113f9804bef90dae1b710b35131c471b28db77f523047d8432caab7b40c724933c9ebe0a15c9bebc431d67c49c100d4c4cc5d4becb3e42b6597f299cfc657e2a5fcb6fab3ad6faec6c44198c4a475817

/-- The chaining value at the start: the fractions of the square roots of the first 8 primes. (PRESUMED, notes/assumptions/13.md). -/
def shaStart : List W64 :=
  wordsOf 8
    0x6a09e667f3bcc908bb67ae8584caa73b3c6ef372fe94f82ba54ff53a5f1d36f1510e527fade682d19b05688c2b3e6c1f1f83d9abfb41bd6b5be0cd19137e2179

/-- A byte string as a number, highest byte first. -/
def beNat (bs : Bytes) : Nat := bs.foldl (fun n b => n * 256 + b.toNat) 0

/-- The `n` bytes of a number, highest first. -/
def natBE (n v : Nat) : Bytes := (natLE n v).reverse

/-- Three rotations of a word to the right, combined bit by bit. -/
def spin (x : W64) (i j k : Nat) : W64 := x.rotateRight i ^^^ (x.rotateRight j ^^^ x.rotateRight k)

/-- Two rotations and a shift of a word to the right, combined bit by bit. -/
def slide (x : W64) (i j k : Nat) : W64 := (x >>> k) ^^^ (x.rotateRight j ^^^ x.rotateRight i)

/-- The message schedule carried on by `n` words, the newest first: each comes of the words 2, 7, 15 and 16 places before it. -/
def shaSpread : Nat → List W64 → List W64
  | 0, w => w
  | n + 1, w =>
    let back (k : Nat) : W64 := w.getD (k - 1) 0
    shaSpread n ((slide (back 2) 19 61 6 + back 7 + slide (back 15) 1 8 7 + back 16) :: w)

/-- One round: the registers move by one place, the first and the fifth take new values. `key` is the sum of the round's constant and
its word of the schedule. -/
def shaStir (v : List W64) (key : W64) : List W64 :=
  match v with
  | [a, b, c, d, e, f, g, h] =>
    let t := h + key + (g ^^^ (e &&& (f ^^^ g))) + spin e 14 18 41
    [t + ((a &&& b) ||| (c &&& (a ||| b))) + spin a 28 34 39, a, b, c, d + t, e, f, g]
  | _ => v

/-- A block of 128 bytes taken into the chaining value. -/
def shaTake (h : List W64) (block : Bytes) : List W64 :=
  let first := (chunksN 8 16 block).map fun c => BitVec.ofNat 64 (beNat c)
  let keys := List.zipWith (· + ·) shaRoots (shaSpread 64 first.reverse).reverse
  List.zipWith (· + ·) (keys.foldl shaStir h) h

/-- SHA-512 of a byte string: 64 bytes. -/
def sha512 (msg : Bytes) : Bytes :=
  let gap := (239 - msg.length % 128) % 128
  let whole := msg ++ 0x80 :: (List.replicate gap 0 ++ natBE 16 (8 * msg.length))
  ((chunksN 128 whole.length whole).foldl shaTake shaStart).flatMap fun w => natBE 8 w.toNat

/-! ### ECDSA on P-521 -/

/-- The field prime 2^521 − 1. (PRESUMED, notes/assumptions/13.md). -/
def p521p : Nat := 2 ^ 521 - 1
/-- The order of the base point. (PRESUMED, notes/assumptions/13.md). -/
def p521n : Nat :=
  0x1fffffffffffffffffffffffffffffffffffffffffffffffffffffffffffffffffa51868783bf2f966b7fcc0148f709a5d03bb5c9b8899c47aebb6fb71e91386409
/-- The coefficient b. (PRESUMED, notes/assumptions/13.md). -/
def p521b : Nat :=
  0x51953eb9618e1c9a1f929a21a0b68540eea2da725b99b315f3b8b489918ef109e156193951ec7e937b1652c0bd3bb1bf073573df883d2c34f1ef451fd46b503f00
/-- The base point's x. (PRESUMED, notes/assumptions/13.md). -/
def p521gx : Nat :=
  0xc6858e06b70404e9cd9e3ecb662395b4429c648139053fb521f828af606b4d3dbaa14b5e77efe75928fe1dc127a2ffa8de3348b3c1856a429bf97e7e31c2e5bd66
/-- The base point's y. (PRESUMED, notes/assumptions/13.md). -/
def p521gy : Nat :=
  0x11839296a789a3bc0045c8a5fb42c7d1bd998f54449579b446817afbd17273e662c97ee72995ef42640c550b9013fad0761353c7086a272c24088be94769fd16650

/-- `b` to the power `e` modulo `m`; `n` bits of `e` are used. -/
def powMod (m : Nat) : Nat → Nat → Nat → Nat
  | 0, _, _ => 1 % m
  | n + 1, b, e => (powMod m n (b * b % m) (e / 2)) * (if e % 2 = 1 then b else 1) % m

/-- The inverse modulo a 521-bit prime. -/
def invMod (m a : Nat) : Nat := powMod m 521 (a % m) (m - 2)

/-- A point in Jacobian coordinates; z = 0 at infinity. -/
structure JPoint where
  x : Nat
  y : Nat
  z : Nat
  deriving DecidableEq, Repr

/-- Subtraction modulo p. -/
def subP (a b : Nat) : Nat := (a + p521p - b % p521p) % p521p

/-- Twice a point. -/
def jdbl (q : JPoint) : JPoint :=
  if q.z = 0 || q.y = 0 then { x := 1, y := 1, z := 0 } else
  let d := q.z * q.z % p521p
  let g := q.y * q.y % p521p
  let b := q.x * g % p521p
  let al := 3 * (subP q.x d * ((q.x + d) % p521p)) % p521p
  let x := subP (al * al % p521p) (8 * b % p521p)
  { x := x
    y := subP (al * subP (4 * b % p521p) x % p521p) (8 * (g * g % p521p) % p521p)
    z := 2 * q.y * q.z % p521p }

/-- The sum of two points. -/
def jadd (p q : JPoint) : JPoint :=
  if p.z = 0 then q else if q.z = 0 then p else
  let z1 := p.z * p.z % p521p
  let z2 := q.z * q.z % p521p
  let u1 := p.x * z2 % p521p
  let u2 := q.x * z1 % p521p
  let s1 := p.y * (z2 * q.z % p521p) % p521p
  let s2 := q.y * (z1 * p.z % p521p) % p521p
  if u1 = u2 then (if s1 = s2 then jdbl p else { x := 1, y := 1, z := 0 }) else
  let h := subP u2 u1
  let r := subP s2 s1
  let h2 := h * h % p521p
  let h3 := h2 * h % p521p
  let v := u1 * h2 % p521p
  let x := subP (subP (r * r % p521p) h3) (2 * v)
  { x := x
    y := subP (r * subP v x % p521p) (s1 * h3 % p521p)
    z := h * p.z % p521p * q.z % p521p }

/-- `k` times a point; `n` bits of `k` are used. -/
def jmul : Nat → Nat → JPoint → JPoint
  | 0, _, _ => { x := 1, y := 1, z := 0 }
  | n + 1, k, q =>
    let t := jmul n (k / 2) (jdbl q)
    if k % 2 = 1 then jadd t q else t

/-- A 133-byte uncompressed point on the curve. (PRESUMED, notes/assumptions/13.md). -/
def p521Point (key : Bytes) : Option JPoint :=
  let x := beNat ((key.drop 1).take 66)
  let y := beNat (key.drop 67)
  if key.length = 133 && key.head? = some 4 && decide (x < p521p) && decide (y < p521p)
      && decide (y * y % p521p = subP ((x * x % p521p) * x % p521p + p521b) (3 * x)) then
    some { x := x, y := y, z := 1 }
  else none

/-- Does the 132-byte signature r ‖ s over the message verify against the public key? (PRESUMED, notes/assumptions/13.md). -/
def ecdsaVerify (key msg sig : Bytes) : Bool :=
  let r := beNat (sig.take 66)
  let s := beNat (sig.drop 66)
  match p521Point key with
  | none => false
  | some q =>
    if sig.length ≠ 132 || r = 0 || s = 0 || decide (p521n ≤ r) || decide (p521n ≤ s) then false else
    let e := beNat (sha512 msg)
    let w := invMod p521n s
    let t := jadd (jmul 521 (e * w % p521n) { x := p521gx, y := p521gy, z := 1 }) (jmul 521 (r * w % p521n) q)
    if t.z = 0 then false else
    let zi := invMod p521p t.z
    decide (t.x * (zi * zi % p521p) % p521p % p521n = r)

end Sys2Proof.Machine
end

