-- ==== Sys2Proof/Machine/Objects.lean ====
section
/-! DEFINITION. The object tables of the parameter dictionary (R52 and the object tables of chapters 3 to 18): one row
for each object or run of subindices, with its type, access class, length, static range and default, and a name for the
key (index * 256 + subindex) of each object or of the first of its run. -/

set_option Elab.async false

namespace Sys2Proof.Machine

open Sys2Proof

/-- The types of R27. -/
inductive OType where
  | u8 | u16 | u32 | u64 | s32 | f32 | bool | enum | bits | str | blob
  deriving DecidableEq, Repr

/-- The access classes of R28. -/
inductive Access where
  | ro | rw | rwi | stg | wo | lck
  deriving DecidableEq, Repr

/-- The static range of an object (R27): anything; a span with a step; a span or one further value; the powers of two of
a span; an absolute bound of an S32; codes of positive binary32 values; the codes below a count (a value outside returns
TYPE); a mask of defined bits; 4 to the variant's logical tile count; eight disjoint ranges of 2 MiB multiples; and a
port of the spare's half for each spare lane. -/
inductive ORange where
  | any
  | span (lo hi step : Nat)
  | spanOr (lo hi other : Nat)
  | pow2 (lo hi : Nat)
  | s32 (bound : Nat)
  | f32 (lo hi : Nat)
  | codes (n : Nat)
  | bits (mask : Nat)
  | tileMax
  | ranges
  | spares
  deriving DecidableEq, Repr

/-- One row: first and last key, type, access class, least and greatest length, static range, default. -/
structure ObjRow where
  first : Nat
  last  : Nat
  ty    : OType
  acc   : Access
  lenLo : Nat
  lenHi : Nat
  range : ORange
  dflt  : Nat
  deriving DecidableEq, Repr

/-- `VendorName`. -/
abbrev Obj.vendorName : Nat := 0x100001
/-- `PartNumber`. -/
abbrev Obj.partNumber : Nat := 0x100002
/-- `SerialNumber`. -/
abbrev Obj.serialNumber : Nat := 0x100003
/-- `HardwareRevision`. -/
abbrev Obj.hardwareRevision : Nat := 0x100004
/-- `FirmwareVersion`. -/
abbrev Obj.firmwareVersion : Nat := 0x100005
/-- `DictionaryVersion`. -/
abbrev Obj.dictionaryVersion : Nat := 0x100006
/-- `SessionId`. -/
abbrev Obj.sessionId : Nat := 0x110001
/-- `LeaseRequest`. -/
abbrev Obj.leaseRequest : Nat := 0x110002
/-- `LeaseHolder`. -/
abbrev Obj.leaseHolder : Nat := 0x110003
/-- `LeaseTimeout`. -/
abbrev Obj.leaseTimeout : Nat := 0x110004
/-- `LeaseBreak`. -/
abbrev Obj.leaseBreak : Nat := 0x110005
/-- `LockState`. -/
abbrev Obj.lockState : Nat := 0x110006
/-- `LockNonce`. -/
abbrev Obj.lockNonce : Nat := 0x110007
/-- `LockResponse`. -/
abbrev Obj.lockResponse : Nat := 0x110008
/-- `LockPassword`. -/
abbrev Obj.lockPassword : Nat := 0x110009
/-- `LockClose`. -/
abbrev Obj.lockClose : Nat := 0x11000A
/-- `LockOpenTime`. -/
abbrev Obj.lockOpenTime : Nat := 0x11000B
/-- `LockFailCount`. -/
abbrev Obj.lockFailCount : Nat := 0x11000C
/-- `OwnerKey`. -/
abbrev Obj.ownerKey : Nat := 0x11000D
/-- `LockPasswordEnable`. -/
abbrev Obj.lockPasswordEnable : Nat := 0x11000E
/-- `LockPasswordNew`. -/
abbrev Obj.lockPasswordNew : Nat := 0x11000F
/-- `SessionCount`. -/
abbrev Obj.sessionCount : Nat := 0x110010
/-- `MuslinSessionMax`. -/
abbrev Obj.muslinSessionMax : Nat := 0x110011
/-- `SessionIdleTimeout`. -/
abbrev Obj.sessionIdleTimeout : Nat := 0x110012
/-- `StageCount`. -/
abbrev Obj.stageCount : Nat := 0x120001
/-- `Commit`. -/
abbrev Obj.commit : Nat := 0x120002
/-- `StageDiscard`. -/
abbrev Obj.stageDiscard : Nat := 0x120003
/-- `CommitState`. -/
abbrev Obj.commitState : Nat := 0x120004
/-- `CommitResult`. -/
abbrev Obj.commitResult : Nat := 0x120005
/-- `CommitWait`. -/
abbrev Obj.commitWait : Nat := 0x120006
/-- `ConfigGeneration`. -/
abbrev Obj.configGeneration : Nat := 0x120007
/-- `StagedList`. -/
abbrev Obj.stagedList : Nat := 0x120008
/-- `SettingsSave`. -/
abbrev Obj.settingsSave : Nat := 0x120009
/-- `Aux0Owner`. -/
abbrev Obj.aux0Owner : Nat := 0x130001
/-- `Aux1Owner`. -/
abbrev Obj.aux1Owner : Nat := 0x130002
/-- `StagingOwnerH0`. -/
abbrev Obj.stagingOwnerH0 : Nat := 0x130003
/-- `StagingOwnerH1`. -/
abbrev Obj.stagingOwnerH1 : Nat := 0x130004
/-- `TimerOwnerH0`. -/
abbrev Obj.timerOwnerH0 : Nat := 0x130005
/-- `TimerOwnerH1`. -/
abbrev Obj.timerOwnerH1 : Nat := 0x130006
/-- `TracePortOwner`. -/
abbrev Obj.tracePortOwner : Nat := 0x130007
/-- `ClaimConflicts`. -/
abbrev Obj.claimConflicts : Nat := 0x130008
/-- `WeightChangeMode`. -/
abbrev Obj.weightChangeMode : Nat := 0x200001
/-- `MatrixQueueDepth`. -/
abbrev Obj.matrixQueueDepth : Nat := 0x200002
/-- `MatrixTokenCount`. -/
abbrev Obj.matrixTokenCount : Nat := 0x200003
/-- `FlushLoadTotal`. -/
abbrev Obj.flushLoadTotal : Nat := 0x200004
/-- `GauzeWaitCycles`. -/
abbrev Obj.gauzeWaitCycles : Nat := 0x200005
/-- `AccSatTotal`. -/
abbrev Obj.accSatTotal : Nat := 0x200006
/-- `MatrixFaultTotal`. -/
abbrev Obj.matrixFaultTotal : Nat := 0x200007
/-- `MatrixCounterClear`. -/
abbrev Obj.matrixCounterClear : Nat := 0x200008
/-- `FlushLoadCount`. -/
abbrev Obj.flushLoadCount : Nat := 0x201001
/-- `FlushByReason`. -/
abbrev Obj.flushByReason : Nat := 0x201101
/-- `RoundingMode`. -/
abbrev Obj.roundingMode : Nat := 0x210001
/-- `DefaultNarrowFormat`. -/
abbrev Obj.defaultNarrowFormat : Nat := 0x210002
/-- `ScaleGrain`. -/
abbrev Obj.scaleGrain : Nat := 0x210003
/-- `ZeroPointMode`. -/
abbrev Obj.zeroPointMode : Nat := 0x210004
/-- `OverflowMode`. -/
abbrev Obj.overflowMode : Nat := 0x210005
/-- `SatEventEnable`. -/
abbrev Obj.satEventEnable : Nat := 0x210006
/-- `SatEventThreshold`. -/
abbrev Obj.satEventThreshold : Nat := 0x210007
/-- `ScaleMargin`. -/
abbrev Obj.scaleMargin : Nat := 0x210008
/-- `SatEventTotal`. -/
abbrev Obj.satEventTotal : Nat := 0x210009
/-- `SatEventLogSuppressed`. -/
abbrev Obj.satEventLogSuppressed : Nat := 0x21000A
/-- `ZeroRangeTotal`. -/
abbrev Obj.zeroRangeTotal : Nat := 0x21000B
/-- `ConversionTotal`. -/
abbrev Obj.conversionTotal : Nat := 0x21000C
/-- `ConvertFaultTotal`. -/
abbrev Obj.convertFaultTotal : Nat := 0x21000D
/-- `FormatCounterClear`. -/
abbrev Obj.formatCounterClear : Nat := 0x21000E
/-- `LaunchModeDefault`. -/
abbrev Obj.launchModeDefault : Nat := 0x220001
/-- `LocalArraySplit`. -/
abbrev Obj.localArraySplit : Nat := 0x220002
/-- `BarrierTimeout`. -/
abbrev Obj.barrierTimeout : Nat := 0x220003
/-- `ClusterEnable`. -/
abbrev Obj.clusterEnable : Nat := 0x220004
/-- `BarrierStallTotal`. -/
abbrev Obj.barrierStallTotal : Nat := 0x220005
/-- `PartialGroupTotal`. -/
abbrev Obj.partialGroupTotal : Nat := 0x220006
/-- `ExecFaultTotal`. -/
abbrev Obj.execFaultTotal : Nat := 0x220007
/-- `BlocksTerminatedTotal`. -/
abbrev Obj.blocksTerminatedTotal : Nat := 0x220008
/-- `ExecCounterClear`. -/
abbrev Obj.execCounterClear : Nat := 0x220009
/-- `OrderScopeMax`. -/
abbrev Obj.orderScopeMax : Nat := 0x230001
/-- `FenceScopeDefault`. -/
abbrev Obj.fenceScopeDefault : Nat := 0x230002
/-- `FenceDeviceTotal`. -/
abbrev Obj.fenceDeviceTotal : Nat := 0x230003
/-- `FenceSystemTotal`. -/
abbrev Obj.fenceSystemTotal : Nat := 0x230004
/-- `FenceWaitCycles`. -/
abbrev Obj.fenceWaitCycles : Nat := 0x230005
/-- `OrderHostLostTotal`. -/
abbrev Obj.orderHostLostTotal : Nat := 0x230006
/-- `OrderCounterClear`. -/
abbrev Obj.orderCounterClear : Nat := 0x230007
/-- `FeltCapacity`. -/
abbrev Obj.feltCapacity : Nat := 0x300001
/-- `FeltBanksRetired`. -/
abbrev Obj.feltBanksRetired : Nat := 0x300002
/-- `FeltRetiredMap`. -/
abbrev Obj.feltRetiredMap : Nat := 0x300003
/-- `FeltHomeHalfMask`. -/
abbrev Obj.feltHomeHalfMask : Nat := 0x300004
/-- `ReduceOrder`. -/
abbrev Obj.reduceOrder : Nat := 0x300005
/-- `ReduceBufferLines`. -/
abbrev Obj.reduceBufferLines : Nat := 0x300006
/-- `ReduceSpillSize`. -/
abbrev Obj.reduceSpillSize : Nat := 0x300007
/-- `FeltPinWays`. -/
abbrev Obj.feltPinWays : Nat := 0x300008
/-- `FeltPinRange`. -/
abbrev Obj.feltPinRange : Nat := 0x300009
/-- `FeltFlush`. -/
abbrev Obj.feltFlush : Nat := 0x30000A
/-- `FeltFlushState`. -/
abbrev Obj.feltFlushState : Nat := 0x30000B
/-- `FeltReadHitSectors`. -/
abbrev Obj.feltReadHitSectors : Nat := 0x30000C
/-- `FeltReadMissSectors`. -/
abbrev Obj.feltReadMissSectors : Nat := 0x30000D
/-- `FeltWritebackSectors`. -/
abbrev Obj.feltWritebackSectors : Nat := 0x30000E
/-- `DeadDropTotal`. -/
abbrev Obj.deadDropTotal : Nat := 0x30000F
/-- `DeadReadTotal`. -/
abbrev Obj.deadReadTotal : Nat := 0x300010
/-- `DeadReadLogSuppressed`. -/
abbrev Obj.deadReadLogSuppressed : Nat := 0x300011
/-- `DeadMarkerWrites`. -/
abbrev Obj.deadMarkerWrites : Nat := 0x300012
/-- `ReduceCompleteTotal`. -/
abbrev Obj.reduceCompleteTotal : Nat := 0x300013
/-- `ReduceSpillTotal`. -/
abbrev Obj.reduceSpillTotal : Nat := 0x300014
/-- `ReduceSpillFullTotal`. -/
abbrev Obj.reduceSpillFullTotal : Nat := 0x300015
/-- `ReduceFailTotal`. -/
abbrev Obj.reduceFailTotal : Nat := 0x300016
/-- `ReduceSatTotal`. -/
abbrev Obj.reduceSatTotal : Nat := 0x300017
/-- `EvictDeferTotal`. -/
abbrev Obj.evictDeferTotal : Nat := 0x300018
/-- `FeltCounterClear`. -/
abbrev Obj.feltCounterClear : Nat := 0x300019
/-- `TieringPolicy`. -/
abbrev Obj.tieringPolicy : Nat := 0x310001
/-- `TieringEnable`. -/
abbrev Obj.tieringEnable : Nat := 0x310002
/-- `TieringState`. -/
abbrev Obj.tieringState : Nat := 0x310003
/-- `MigrationEpoch`. -/
abbrev Obj.migrationEpoch : Nat := 0x310004
/-- `MigrationHotThreshold`. -/
abbrev Obj.migrationHotThreshold : Nat := 0x310005
/-- `MigrationColdThreshold`. -/
abbrev Obj.migrationColdThreshold : Nat := 0x310006
/-- `MigrationRateLimit`. -/
abbrev Obj.migrationRateLimit : Nat := 0x310007
/-- `HbmFreeTarget`. -/
abbrev Obj.hbmFreeTarget : Nat := 0x310008
/-- `HdmWindowSize`. -/
abbrev Obj.hdmWindowSize : Nat := 0x310009
/-- `Tier2LinkWait`. -/
abbrev Obj.tier2LinkWait : Nat := 0x31000A
/-- `HbmCapacity`. -/
abbrev Obj.hbmCapacity : Nat := 0x31000B
/-- `HbmFramesTotal`. -/
abbrev Obj.hbmFramesTotal : Nat := 0x31000C
/-- `HbmFramesFree`. -/
abbrev Obj.hbmFramesFree : Nat := 0x31000D
/-- `HbmFramesReserved`. -/
abbrev Obj.hbmFramesReserved : Nat := 0x31000E
/-- `HbmFramesWithdrawn`. -/
abbrev Obj.hbmFramesWithdrawn : Nat := 0x31000F
/-- `RegionFramesPending`. -/
abbrev Obj.regionFramesPending : Nat := 0x310010
/-- `Tier2Capacity0`. -/
abbrev Obj.tier2Capacity0 : Nat := 0x310011
/-- `Tier2Capacity1`. -/
abbrev Obj.tier2Capacity1 : Nat := 0x310012
/-- `Tier2FramesFree0`. -/
abbrev Obj.tier2FramesFree0 : Nat := 0x310013
/-- `Tier2FramesFree1`. -/
abbrev Obj.tier2FramesFree1 : Nat := 0x310014
/-- `PagesMapped`. -/
abbrev Obj.pagesMapped : Nat := 0x310015
/-- `PageQueryAddress`. -/
abbrev Obj.pageQueryAddress : Nat := 0x310016
/-- `PageQueryResult`. -/
abbrev Obj.pageQueryResult : Nat := 0x310017
/-- `MigrationsPromoted`. -/
abbrev Obj.migrationsPromoted : Nat := 0x310018
/-- `MigrationsDemoted`. -/
abbrev Obj.migrationsDemoted : Nat := 0x310019
/-- `MigrationsWithdrawn`. -/
abbrev Obj.migrationsWithdrawn : Nat := 0x31001A
/-- `MigrationAbortTotal`. -/
abbrev Obj.migrationAbortTotal : Nat := 0x31001B
/-- `MigrationBytes`. -/
abbrev Obj.migrationBytes : Nat := 0x31001C
/-- `WriteHoldTotal`. -/
abbrev Obj.writeHoldTotal : Nat := 0x31001D
/-- `TranslationFaultTotal`. -/
abbrev Obj.translationFaultTotal : Nat := 0x31001E
/-- `WalkTotal`. -/
abbrev Obj.walkTotal : Nat := 0x31001F
/-- `Tier2WritesDiscarded`. -/
abbrev Obj.tier2WritesDiscarded : Nat := 0x310020
/-- `TierCounterClear`. -/
abbrev Obj.tierCounterClear : Nat := 0x310021
/-- `BwInterval`. -/
abbrev Obj.bwInterval : Nat := 0x320001
/-- `BwOvercommitMask`. -/
abbrev Obj.bwOvercommitMask : Nat := 0x320002
/-- `BwOvercommitTotal`. -/
abbrev Obj.bwOvercommitTotal : Nat := 0x320003
/-- `BwShortfallTotal`. -/
abbrev Obj.bwShortfallTotal : Nat := 0x320004
/-- `BwCounterClear`. -/
abbrev Obj.bwCounterClear : Nat := 0x320005
/-- `BwMin`. -/
abbrev Obj.bwMin : Nat := 0x321001
/-- `BwWeight`. -/
abbrev Obj.bwWeight : Nat := 0x322001
/-- `BwMinEffective`. -/
abbrev Obj.bwMinEffective : Nat := 0x323001
/-- `BwBytes`. -/
abbrev Obj.bwBytes : Nat := 0x324001
/-- `BwSustainable`. -/
abbrev Obj.bwSustainable : Nat := 0x325001
/-- `BwScale`. -/
abbrev Obj.bwScale : Nat := 0x325101
/-- `LedgerBase`. -/
abbrev Obj.ledgerBase : Nat := 0x330001
/-- `LedgerEntries`. -/
abbrev Obj.ledgerEntries : Nat := 0x330002
/-- `CompletionBase`. -/
abbrev Obj.completionBase : Nat := 0x330003
/-- `CompletionEntries`. -/
abbrev Obj.completionEntries : Nat := 0x330004
/-- `CompletionConsumedAddr`. -/
abbrev Obj.completionConsumedAddr : Nat := 0x330005
/-- `LedgerEnable`. -/
abbrev Obj.ledgerEnable : Nat := 0x330006
/-- `LedgerState`. -/
abbrev Obj.ledgerState : Nat := 0x330007
/-- `LedgerSeq`. -/
abbrev Obj.ledgerSeq : Nat := 0x330008
/-- `AliveExpected`. -/
abbrev Obj.aliveExpected : Nat := 0x330009
/-- `CompletionProduced`. -/
abbrev Obj.completionProduced : Nat := 0x33000A
/-- `SchedPolicy`. -/
abbrev Obj.schedPolicy : Nat := 0x33000B
/-- `FixedPartition`. -/
abbrev Obj.fixedPartition : Nat := 0x33000C
/-- `PreemptEnable`. -/
abbrev Obj.preemptEnable : Nat := 0x33000D
/-- `PreemptSaveSize`. -/
abbrev Obj.preemptSaveSize : Nat := 0x33000E
/-- `TileMaxPerKernel`. -/
abbrev Obj.tileMaxPerKernel : Nat := 0x33000F
/-- `RunTimeLimitDefault`. -/
abbrev Obj.runTimeLimitDefault : Nat := 0x330010
/-- `CompletionEventEnable`. -/
abbrev Obj.completionEventEnable : Nat := 0x330011
/-- `SchedPause`. -/
abbrev Obj.schedPause : Nat := 0x330012
/-- `SchedResume`. -/
abbrev Obj.schedResume : Nat := 0x330013
/-- `SchedState`. -/
abbrev Obj.schedState : Nat := 0x330014
/-- `TileFaultedMask`. -/
abbrev Obj.tileFaultedMask : Nat := 0x330015
/-- `EntriesCompleted`. -/
abbrev Obj.entriesCompleted : Nat := 0x330016
/-- `EntriesRefused`. -/
abbrev Obj.entriesRefused : Nat := 0x330017
/-- `AliveErrorTotal`. -/
abbrev Obj.aliveErrorTotal : Nat := 0x330018
/-- `CrcErrorTotal`. -/
abbrev Obj.crcErrorTotal : Nat := 0x330019
/-- `PreemptTotal`. -/
abbrev Obj.preemptTotal : Nat := 0x33001A
/-- `CompletionStallTotal`. -/
abbrev Obj.completionStallTotal : Nat := 0x33001B
/-- `EventsDropped`. -/
abbrev Obj.eventsDropped : Nat := 0x33001C
/-- `SchedCounterClear`. -/
abbrev Obj.schedCounterClear : Nat := 0x33001D
/-- `ConsumedInvalidTotal`. -/
abbrev Obj.consumedInvalidTotal : Nat := 0x33001E
/-- `FixedPartitionClusters`. -/
abbrev Obj.fixedPartitionClusters : Nat := 0x33001F
/-- `DeterminismMode`. -/
abbrev Obj.determinismMode : Nat := 0x340001
/-- `RngSeed`. -/
abbrev Obj.rngSeed : Nat := 0x340002
/-- `RngSeedWritten`. -/
abbrev Obj.rngSeedWritten : Nat := 0x340003
/-- `CollectiveOrder`. -/
abbrev Obj.collectiveOrder : Nat := 0x340004
/-- `ResumeTolerant`. -/
abbrev Obj.resumeTolerant : Nat := 0x340005
/-- `StepCounter`. -/
abbrev Obj.stepCounter : Nat := 0x340006
/-- `UnitMap`. -/
abbrev Obj.unitMap : Nat := 0x340007
/-- `UnitMapId`. -/
abbrev Obj.unitMapId : Nat := 0x340008
/-- `RunReproducible`. -/
abbrev Obj.runReproducible : Nat := 0x340009
/-- `CheckpointRecord`. -/
abbrev Obj.checkpointRecord : Nat := 0x34000A
/-- `ResumeApply`. -/
abbrev Obj.resumeApply : Nat := 0x34000B
/-- `ResumeResult`. -/
abbrev Obj.resumeResult : Nat := 0x34000C
/-- `RngProbeInput`. -/
abbrev Obj.rngProbeInput : Nat := 0x34000D
/-- `RngProbeOutput`. -/
abbrev Obj.rngProbeOutput : Nat := 0x34000E
/-- `LastFaultStep`. -/
abbrev Obj.lastFaultStep : Nat := 0x34000F
/-- `ScrubEnable`. -/
abbrev Obj.scrubEnable : Nat := 0x400001
/-- `ScrubState`. -/
abbrev Obj.scrubState : Nat := 0x400002
/-- `ScrubPeriodFelt`. -/
abbrev Obj.scrubPeriodFelt : Nat := 0x400003
/-- `ScrubPeriodHbm`. -/
abbrev Obj.scrubPeriodHbm : Nat := 0x400004
/-- `ScrubPassesFelt`. -/
abbrev Obj.scrubPassesFelt : Nat := 0x400005
/-- `ScrubPassesHbm`. -/
abbrev Obj.scrubPassesHbm : Nat := 0x400006
/-- `CeFeltTotal`. -/
abbrev Obj.ceFeltTotal : Nat := 0x400007
/-- `CeLocalTotal`. -/
abbrev Obj.ceLocalTotal : Nat := 0x400008
/-- `CeHbmTotal`. -/
abbrev Obj.ceHbmTotal : Nat := 0x400009
/-- `CeCanvasTotal`. -/
abbrev Obj.ceCanvasTotal : Nat := 0x40000A
/-- `ParityReplayTotal`. -/
abbrev Obj.parityReplayTotal : Nat := 0x40000B
/-- `UeFeltTotal`. -/
abbrev Obj.ueFeltTotal : Nat := 0x40000C
/-- `UeLocalTotal`. -/
abbrev Obj.ueLocalTotal : Nat := 0x40000D
/-- `UeHbmTotal`. -/
abbrev Obj.ueHbmTotal : Nat := 0x40000E
/-- `UeCanvasTotal`. -/
abbrev Obj.ueCanvasTotal : Nat := 0x40000F
/-- `PoisonBiteTotal`. -/
abbrev Obj.poisonBiteTotal : Nat := 0x400010
/-- `PoisonHaltTotal`. -/
abbrev Obj.poisonHaltTotal : Nat := 0x400011
/-- `RepairPending`. -/
abbrev Obj.repairPending : Nat := 0x400012
/-- `RepairStoreFree`. -/
abbrev Obj.repairStoreFree : Nat := 0x400013
/-- `RepairsApplied`. -/
abbrev Obj.repairsApplied : Nat := 0x400014
/-- `BundleSpareTotal`. -/
abbrev Obj.bundleSpareTotal : Nat := 0x400015
/-- `TilePortHalfMask`. -/
abbrev Obj.tilePortHalfMask : Nat := 0x400016
/-- `HbmChannelsRetired`. -/
abbrev Obj.hbmChannelsRetired : Nat := 0x400017
/-- `ErrorLogHead`. -/
abbrev Obj.errorLogHead : Nat := 0x400018
/-- `ErrorLogAck`. -/
abbrev Obj.errorLogAck : Nat := 0x400019
/-- `ErrorLogOverruns`. -/
abbrev Obj.errorLogOverruns : Nat := 0x40001A
/-- `ErrorLogSuppressed`. -/
abbrev Obj.errorLogSuppressed : Nat := 0x40001B
/-- `FatalLogCount`. -/
abbrev Obj.fatalLogCount : Nat := 0x40001C
/-- `FatalLogClear`. -/
abbrev Obj.fatalLogClear : Nat := 0x40001D
/-- `IntegrityCounterClear`. -/
abbrev Obj.integrityCounterClear : Nat := 0x40001E
/-- `PoisonPolicy`. -/
abbrev Obj.poisonPolicy : Nat := 0x400101
/-- `ErrorLogRing`. -/
abbrev Obj.errorLogRing : Nat := 0x401001
/-- `FatalLogRing`. -/
abbrev Obj.fatalLogRing : Nat := 0x401101
/-- `PowerCap`. -/
abbrev Obj.powerCap : Nat := 0x500001
/-- `PowerCapEffective`. -/
abbrev Obj.powerCapEffective : Nat := 0x500002
/-- `RampUp`. -/
abbrev Obj.rampUp : Nat := 0x500003
/-- `RampDown`. -/
abbrev Obj.rampDown : Nat := 0x500004
/-- `RampCoordination`. -/
abbrev Obj.rampCoordination : Nat := 0x500005
/-- `SlotThreshold`. -/
abbrev Obj.slotThreshold : Nat := 0x500006
/-- `SlotIndex`. -/
abbrev Obj.slotIndex : Nat := 0x500007
/-- `SlotCount`. -/
abbrev Obj.slotCount : Nat := 0x500008
/-- `SlotLength`. -/
abbrev Obj.slotLength : Nat := 0x500009
/-- `SlotCoordinator`. -/
abbrev Obj.slotCoordinator : Nat := 0x50000A
/-- `RampSyncPin`. -/
abbrev Obj.rampSyncPin : Nat := 0x50000B
/-- `FleeceEnable`. -/
abbrev Obj.fleeceEnable : Nat := 0x50000C
/-- `FleeceFloor`. -/
abbrev Obj.fleeceFloor : Nat := 0x50000D
/-- `FleeceRelease`. -/
abbrev Obj.fleeceRelease : Nat := 0x50000E
/-- `FleeceHoldMax`. -/
abbrev Obj.fleeceHoldMax : Nat := 0x50000F
/-- `FleeceState`. -/
abbrev Obj.fleeceState : Nat := 0x500010
/-- `BrownoutRampDown`. -/
abbrev Obj.brownoutRampDown : Nat := 0x500011
/-- `BrownoutHold`. -/
abbrev Obj.brownoutHold : Nat := 0x500012
/-- `InputState`. -/
abbrev Obj.inputState : Nat := 0x500013
/-- `DomainForceOff`. -/
abbrev Obj.domainForceOff : Nat := 0x500014
/-- `InputPower`. -/
abbrev Obj.inputPower : Nat := 0x500015
/-- `StepMeanPower`. -/
abbrev Obj.stepMeanPower : Nat := 0x500016
/-- `PowerAllowance`. -/
abbrev Obj.powerAllowance : Nat := 0x500017
/-- `BallastPower`. -/
abbrev Obj.ballastPower : Nat := 0x500018
/-- `BallastCapacity`. -/
abbrev Obj.ballastCapacity : Nat := 0x500019
/-- `BoardStagesWorking`. -/
abbrev Obj.boardStagesWorking : Nat := 0x50001A
/-- `VcmpSetPoint`. -/
abbrev Obj.vcmpSetPoint : Nat := 0x50001B
/-- `RampShortfallTotal`. -/
abbrev Obj.rampShortfallTotal : Nat := 0x50001C
/-- `RampExceptionTotal`. -/
abbrev Obj.rampExceptionTotal : Nat := 0x50001D
/-- `SlotWaitTime`. -/
abbrev Obj.slotWaitTime : Nat := 0x50001E
/-- `PowerCounterClear`. -/
abbrev Obj.powerCounterClear : Nat := 0x50001F
/-- `DomainState`. -/
abbrev Obj.domainState : Nat := 0x501001
/-- `VcmpCellsFailed`. -/
abbrev Obj.vcmpCellsFailed : Nat := 0x502001
/-- `RailCellsFailed`. -/
abbrev Obj.railCellsFailed : Nat := 0x502101
/-- `ThrottleAsk`. -/
abbrev Obj.throttleAsk : Nat := 0x510001
/-- `ThermalGrace`. -/
abbrev Obj.thermalGrace : Nat := 0x510002
/-- `ThrottleTempLevel`. -/
abbrev Obj.throttleTempLevel : Nat := 0x510003
/-- `ThermalAccept`. -/
abbrev Obj.thermalAccept : Nat := 0x510004
/-- `ThermalState`. -/
abbrev Obj.thermalState : Nat := 0x510005
/-- `SensorSuspectMask`. -/
abbrev Obj.sensorSuspectMask : Nat := 0x510006
/-- `ThrottleAskTotal`. -/
abbrev Obj.throttleAskTotal : Nat := 0x510007
/-- `ThrottleEnforceTotal`. -/
abbrev Obj.throttleEnforceTotal : Nat := 0x510008
/-- `ThermalTripTotal`. -/
abbrev Obj.thermalTripTotal : Nat := 0x510009
/-- `ThermalCounterClear`. -/
abbrev Obj.thermalCounterClear : Nat := 0x51000A
/-- `TileTemp`. -/
abbrev Obj.tileTemp : Nat := 0x511001
/-- `FeltTemp`. -/
abbrev Obj.feltTemp : Nat := 0x511101
/-- `FeltEstimate`. -/
abbrev Obj.feltEstimate : Nat := 0x511201
/-- `CanvasTemp`. -/
abbrev Obj.canvasTemp : Nat := 0x511301
/-- `HbmThermalState`. -/
abbrev Obj.hbmThermalState : Nat := 0x511401
/-- `ClockPolicy`. -/
abbrev Obj.clockPolicy : Nat := 0x520001
/-- `TileClockFixed`. -/
abbrev Obj.tileClockFixed : Nat := 0x520002
/-- `IdleTileState`. -/
abbrev Obj.idleTileState : Nat := 0x520003
/-- `IdleNapDelay`. -/
abbrev Obj.idleNapDelay : Nat := 0x520004
/-- `IdleOffDelay`. -/
abbrev Obj.idleOffDelay : Nat := 0x520005
/-- `ModuleStateRequest`. -/
abbrev Obj.moduleStateRequest : Nat := 0x520006
/-- `ModuleState`. -/
abbrev Obj.moduleState : Nat := 0x520007
/-- `Timestamp`. -/
abbrev Obj.timestamp : Nat := 0x520008
/-- `TimeSource`. -/
abbrev Obj.timeSource : Nat := 0x520009
/-- `PpsPin`. -/
abbrev Obj.ppsPin : Nat := 0x52000A
/-- `PpsTimestamp`. -/
abbrev Obj.ppsTimestamp : Nat := 0x52000B
/-- `TimeLocked`. -/
abbrev Obj.timeLocked : Nat := 0x52000C
/-- `RefclkState`. -/
abbrev Obj.refclkState : Nat := 0x52000D
/-- `PerfSampleEnable`. -/
abbrev Obj.perfSampleEnable : Nat := 0x52000E
/-- `PerfSamplePeriod`. -/
abbrev Obj.perfSamplePeriod : Nat := 0x52000F
/-- `PerfSampleBase`. -/
abbrev Obj.perfSampleBase : Nat := 0x520010
/-- `PerfSampleEntries`. -/
abbrev Obj.perfSampleEntries : Nat := 0x520011
/-- `PerfSampleIndex`. -/
abbrev Obj.perfSampleIndex : Nat := 0x520012
/-- `ClockStepChanges`. -/
abbrev Obj.clockStepChanges : Nat := 0x520013
/-- `TileClockStep`. -/
abbrev Obj.tileClockStep : Nat := 0x521001
/-- `BringupState`. -/
abbrev Obj.bringupState : Nat := 0x600001
/-- `ComputeReset`. -/
abbrev Obj.computeReset : Nat := 0x600002
/-- `FullReset`. -/
abbrev Obj.fullReset : Nat := 0x600003
/-- `AutoComputeReset`. -/
abbrev Obj.autoComputeReset : Nat := 0x600004
/-- `LastBringupTime`. -/
abbrev Obj.lastBringupTime : Nat := 0x600005
/-- `LastComputeResetTime`. -/
abbrev Obj.lastComputeResetTime : Nat := 0x600006
/-- `ComputeResetTotal`. -/
abbrev Obj.computeResetTotal : Nat := 0x600007
/-- `FullResetTotal`. -/
abbrev Obj.fullResetTotal : Nat := 0x600008
/-- `UnavailableTime`. -/
abbrev Obj.unavailableTime : Nat := 0x600009
/-- `BroadcastRepairPackets`. -/
abbrev Obj.broadcastRepairPackets : Nat := 0x60000A
/-- `BroadcastRepeatDropped`. -/
abbrev Obj.broadcastRepeatDropped : Nat := 0x60000B
/-- `BroadcastSkipTotal`. -/
abbrev Obj.broadcastSkipTotal : Nat := 0x60000C
/-- `CoreLoadFailedMask`. -/
abbrev Obj.coreLoadFailedMask : Nat := 0x60000D
/-- `SparesFreeH0`. -/
abbrev Obj.sparesFreeH0 : Nat := 0x60000E
/-- `SparesFreeH1`. -/
abbrev Obj.sparesFreeH1 : Nat := 0x60000F
/-- `FaultedTileRecord`. -/
abbrev Obj.faultedTileRecord : Nat := 0x600010
/-- `FaultedTileClear`. -/
abbrev Obj.faultedTileClear : Nat := 0x600011
/-- `PhysTileState`. -/
abbrev Obj.physTileState : Nat := 0x600101
/-- `PhysTileBinding`. -/
abbrev Obj.physTileBinding : Nat := 0x600201
/-- `LinkQualResult`. -/
abbrev Obj.linkQualResult : Nat := 0x600301
/-- `LinkQualRate`. -/
abbrev Obj.linkQualRate : Nat := 0x600401
/-- `HostLinkState`. -/
abbrev Obj.hostLinkState : Nat := 0x700001
/-- `HostLinkWidth`. -/
abbrev Obj.hostLinkWidth : Nat := 0x700002
/-- `HostLinkRate`. -/
abbrev Obj.hostLinkRate : Nat := 0x700003
/-- `HostIdeState`. -/
abbrev Obj.hostIdeState : Nat := 0x700004
/-- `CompletionIrqHoldoff`. -/
abbrev Obj.completionIrqHoldoff : Nat := 0x700005
/-- `HostLinkDownTotal`. -/
abbrev Obj.hostLinkDownTotal : Nat := 0x700006
/-- `Tier2Enable0`. -/
abbrev Obj.tier2Enable0 : Nat := 0x710001
/-- `Tier2Enable1`. -/
abbrev Obj.tier2Enable1 : Nat := 0x710002
/-- `Tier2State0`. -/
abbrev Obj.tier2State0 : Nat := 0x710003
/-- `Tier2State1`. -/
abbrev Obj.tier2State1 : Nat := 0x710004
/-- `Tier2Width0`. -/
abbrev Obj.tier2Width0 : Nat := 0x710005
/-- `Tier2Width1`. -/
abbrev Obj.tier2Width1 : Nat := 0x710006
/-- `Tier2ExpanderBw0`. -/
abbrev Obj.tier2ExpanderBw0 : Nat := 0x710007
/-- `Tier2ExpanderBw1`. -/
abbrev Obj.tier2ExpanderBw1 : Nat := 0x710008
/-- `Tier2ExpanderEvents`. -/
abbrev Obj.tier2ExpanderEvents : Nat := 0x710009
/-- `PeerNodeId`. -/
abbrev Obj.peerNodeId : Nat := 0x720001
/-- `PeerSpareAssign`. -/
abbrev Obj.peerSpareAssign : Nat := 0x720002
/-- `PeerAccessRange`. -/
abbrev Obj.peerAccessRange : Nat := 0x720003
/-- `PeerReplayTotal`. -/
abbrev Obj.peerReplayTotal : Nat := 0x720004
/-- `PeerRetrainTotal`. -/
abbrev Obj.peerRetrainTotal : Nat := 0x720005
/-- `PeerLaneSparedTotal`. -/
abbrev Obj.peerLaneSparedTotal : Nat := 0x720006
/-- `HalfLinkReplayTotal`. -/
abbrev Obj.halfLinkReplayTotal : Nat := 0x720007
/-- `InterfaceCounterClear`. -/
abbrev Obj.interfaceCounterClear : Nat := 0x720008
/-- `PeerProtocolErrorTotal`. -/
abbrev Obj.peerProtocolErrorTotal : Nat := 0x720009
/-- `PeerPortEnable`. -/
abbrev Obj.peerPortEnable : Nat := 0x721001
/-- `PeerPortState`. -/
abbrev Obj.peerPortState : Nat := 0x721101
/-- `PeerPortLanes`. -/
abbrev Obj.peerPortLanes : Nat := 0x721201
/-- `PeerPartnerNode`. -/
abbrev Obj.peerPartnerNode : Nat := 0x721301
/-- `MuslinEnable`. -/
abbrev Obj.muslinEnable : Nat := 0x730001
/-- `MuslinPort`. -/
abbrev Obj.muslinPort : Nat := 0x730002
/-- `PlcaNodeId`. -/
abbrev Obj.plcaNodeId : Nat := 0x730003
/-- `PlcaNodeCount`. -/
abbrev Obj.plcaNodeCount : Nat := 0x730004
/-- `PlcaToTimer`. -/
abbrev Obj.plcaToTimer : Nat := 0x730005
/-- `MgmtMacAddress`. -/
abbrev Obj.mgmtMacAddress : Nat := 0x730006
/-- `MuslinFramesBad`. -/
abbrev Obj.muslinFramesBad : Nat := 0x730007
/-- `MuslinDuplicateTotal`. -/
abbrev Obj.muslinDuplicateTotal : Nat := 0x730008
/-- `UpdateBegin`. -/
abbrev Obj.updateBegin : Nat := 0x800001
/-- `UpdateOffset`. -/
abbrev Obj.updateOffset : Nat := 0x800002
/-- `UpdateData`. -/
abbrev Obj.updateData : Nat := 0x800003
/-- `UpdateVerify`. -/
abbrev Obj.updateVerify : Nat := 0x800004
/-- `UpdateCommit`. -/
abbrev Obj.updateCommit : Nat := 0x800005
/-- `UpdateAbort`. -/
abbrev Obj.updateAbort : Nat := 0x800006
/-- `UpdateState`. -/
abbrev Obj.updateState : Nat := 0x800007
/-- `UpdateRefusal`. -/
abbrev Obj.updateRefusal : Nat := 0x800008
/-- `UpdateResult`. -/
abbrev Obj.updateResult : Nat := 0x800009
/-- `UpdateBlock`. -/
abbrev Obj.updateBlock : Nat := 0x80000A
/-- `FirmwarePin`. -/
abbrev Obj.firmwarePin : Nat := 0x80000B
/-- `FirmwarePinVersion`. -/
abbrev Obj.firmwarePinVersion : Nat := 0x80000C
/-- `UpdateConfirmMode`. -/
abbrev Obj.updateConfirmMode : Nat := 0x80000D
/-- `UpdateTrialTime`. -/
abbrev Obj.updateTrialTime : Nat := 0x80000E
/-- `UpdateConfirm`. -/
abbrev Obj.updateConfirm : Nat := 0x80000F
/-- `ComponentVersion`. -/
abbrev Obj.componentVersion : Nat := 0x801001
/-- `ComponentSlot`. -/
abbrev Obj.componentSlot : Nat := 0x801101
/-- `ComponentStatus`. -/
abbrev Obj.componentStatus : Nat := 0x801201
/-- `SvnFloor`. -/
abbrev Obj.svnFloor : Nat := 0x801301
/-- `InactiveVersion`. -/
abbrev Obj.inactiveVersion : Nat := 0x801401
/-- `InputVoltage`. -/
abbrev Obj.inputVoltage : Nat := 0x900001
/-- `InputCurrent`. -/
abbrev Obj.inputCurrent : Nat := 0x900002
/-- `InputTripCause`. -/
abbrev Obj.inputTripCause : Nat := 0x900003
/-- `CoolantInletTemp`. -/
abbrev Obj.coolantInletTemp : Nat := 0x900004
/-- `CoolantOutletTemp`. -/
abbrev Obj.coolantOutletTemp : Nat := 0x900005
/-- `CoolantDeltaP`. -/
abbrev Obj.coolantDeltaP : Nat := 0x900006
/-- `CoolantFlowEstimate`. -/
abbrev Obj.coolantFlowEstimate : Nat := 0x900007
/-- `CoolantState`. -/
abbrev Obj.coolantState : Nat := 0x900008
/-- `BoardHumidity`. -/
abbrev Obj.boardHumidity : Nat := 0x900009
/-- `BoardDewPoint`. -/
abbrev Obj.boardDewPoint : Nat := 0x90000A
/-- `AuxPinLevel`. -/
abbrev Obj.auxPinLevel : Nat := 0x90000B
/-- `DebugTriggerEnable`. -/
abbrev Obj.debugTriggerEnable : Nat := 0x90000C
/-- `DebugTriggerPin`. -/
abbrev Obj.debugTriggerPin : Nat := 0x90000D
/-- `TracePortEnable`. -/
abbrev Obj.tracePortEnable : Nat := 0x90000E
/-- `TraceSource`. -/
abbrev Obj.traceSource : Nat := 0x90000F
/-- `DebugTriggerTotal`. -/
abbrev Obj.debugTriggerTotal : Nat := 0x900010
/-- `AuxPulseInvalidTotal`. -/
abbrev Obj.auxPulseInvalidTotal : Nat := 0x900011
/-- `BoardCounterClear`. -/
abbrev Obj.boardCounterClear : Nat := 0x900012
/-- `BoardTemp`. -/
abbrev Obj.boardTemp : Nat := 0x901001

/-- Part 0 of the object tables. -/
def objRows0 : List ObjRow :=
  [
   ⟨0x100001, 0x100001, .str, .ro, 1, 256, .any, 0⟩,
   ⟨0x100002, 0x100002, .str, .ro, 1, 256, .any, 0⟩,
   ⟨0x100003, 0x100003, .str, .ro, 1, 256, .any, 0⟩,
   ⟨0x100004, 0x100004, .u16, .ro, 2, 2, .any, 0⟩,
   ⟨0x100005, 0x100005, .u32, .ro, 4, 4, .any, 0⟩,
   ⟨0x100006, 0x100006, .u16, .ro, 2, 2, .any, 0⟩,
   ⟨0x110001, 0x110001, .u16, .ro, 2, 2, .any, 0⟩,
   ⟨0x110002, 0x110002, .u8, .wo, 1, 1, .span 0 1 1, 0⟩,
   ⟨0x110003, 0x110003, .u16, .ro, 2, 2, .any, 0⟩,
   ⟨0x110004, 0x110004, .u32, .rw, 4, 4, .span 1000 600000 1, 10000⟩,
   ⟨0x110005, 0x110005, .u8, .wo, 1, 1, .span 1 1 1, 0⟩,
   ⟨0x110006, 0x110006, .enum, .ro, 1, 1, .any, 0⟩,
   ⟨0x110007, 0x110007, .blob, .ro, 32, 32, .any, 0⟩,
   ⟨0x110008, 0x110008, .blob, .wo, 132, 132, .any, 0⟩,
   ⟨0x110009, 0x110009, .str, .wo, 8, 64, .any, 0⟩,
   ⟨0x11000A, 0x11000A, .u8, .wo, 1, 1, .span 1 1 1, 0⟩,
   ⟨0x11000B, 0x11000B, .u32, .lck, 4, 4, .span 60 3600 1, 900⟩,
   ⟨0x11000C, 0x11000C, .u8, .ro, 1, 1, .any, 0⟩,
   ⟨0x11000D, 0x11000D, .blob, .lck, 133, 133, .any, 0⟩,
   ⟨0x11000E, 0x11000E, .bool, .lck, 1, 1, .codes 2, 1⟩,
   ⟨0x11000F, 0x11000F, .str, .lck, 8, 64, .any, 0⟩,
   ⟨0x110010, 0x110010, .u8, .ro, 1, 1, .any, 0⟩,
   ⟨0x110011, 0x110011, .u8, .lck, 1, 1, .span 1 4 1, 4⟩,
   ⟨0x110012, 0x110012, .u32, .rw, 4, 4, .span 10 3600 1, 60⟩,
   ⟨0x120001, 0x120001, .u16, .ro, 2, 2, .any, 0⟩,
   ⟨0x120002, 0x120002, .u8, .wo, 1, 1, .span 1 1 1, 0⟩,
   ⟨0x120003, 0x120003, .u8, .wo, 1, 1, .span 1 1 1, 0⟩,
   ⟨0x120004, 0x120004, .enum, .ro, 1, 1, .any, 0⟩,
   ⟨0x120005, 0x120005, .u16, .ro, 2, 2, .any, 0⟩,
   ⟨0x120006, 0x120006, .u32, .rw, 4, 4, .span 0 600000 1, 30000⟩,
   ⟨0x120007, 0x120007, .u32, .ro, 4, 4, .any, 0⟩,
   ⟨0x120008, 0x120008, .blob, .ro, 0, 2048, .any, 0⟩,
   ⟨0x120009, 0x120009, .u8, .wo, 1, 1, .span 1 1 1, 0⟩,
   ⟨0x130001, 0x130001, .enum, .ro, 1, 1, .any, 0⟩,
   ⟨0x130002, 0x130002, .enum, .ro, 1, 1, .any, 0⟩,
   ⟨0x130003, 0x130003, .bits, .ro, 2, 2, .any, 0⟩,
   ⟨0x130004, 0x130004, .bits, .ro, 2, 2, .any, 0⟩,
   ⟨0x130005, 0x130005, .bits, .ro, 2, 2, .any, 0⟩,
   ⟨0x130006, 0x130006, .bits, .ro, 2, 2, .any, 0⟩,
   ⟨0x130007, 0x130007, .enum, .ro, 1, 1, .any, 0⟩ ]

/-- Part 1 of the object tables. -/
def objRows1 : List ObjRow :=
  [
   ⟨0x130008, 0x130008, .u32, .ro, 4, 4, .any, 0⟩,
   ⟨0x200001, 0x200001, .enum, .stg, 1, 1, .codes 2, 0⟩,
   ⟨0x200002, 0x200002, .u8, .stg, 1, 1, .span 4 64 1, 16⟩,
   ⟨0x200003, 0x200003, .u16, .stg, 2, 2, .span 8 256 1, 32⟩,
   ⟨0x200004, 0x200004, .u64, .ro, 8, 8, .any, 0⟩,
   ⟨0x200005, 0x200005, .u64, .ro, 8, 8, .any, 0⟩,
   ⟨0x200006, 0x200006, .u64, .ro, 8, 8, .any, 0⟩,
   ⟨0x200007, 0x200007, .u64, .ro, 8, 8, .any, 0⟩,
   ⟨0x200008, 0x200008, .u8, .wo, 1, 1, .span 1 1 1, 0⟩,
   ⟨0x201001, 0x201040, .u64, .ro, 8, 8, .any, 0⟩,
   ⟨0x201101, 0x201101, .u64, .ro, 8, 8, .any, 0⟩,
   ⟨0x201102, 0x201102, .u64, .ro, 8, 8, .any, 0⟩,
   ⟨0x201103, 0x201103, .u64, .ro, 8, 8, .any, 0⟩,
   ⟨0x201104, 0x201104, .u64, .ro, 8, 8, .any, 0⟩,
   ⟨0x201105, 0x201105, .u64, .ro, 8, 8, .any, 0⟩,
   ⟨0x201106, 0x201106, .u64, .ro, 8, 8, .any, 0⟩,
   ⟨0x210001, 0x210001, .enum, .stg, 1, 1, .codes 2, 0⟩,
   ⟨0x210002, 0x210002, .enum, .stg, 1, 1, .codes 5, 0⟩,
   ⟨0x210003, 0x210003, .enum, .stg, 1, 1, .codes 3, 0⟩,
   ⟨0x210004, 0x210004, .enum, .stg, 1, 1, .codes 2, 0⟩,
   ⟨0x210005, 0x210005, .enum, .stg, 1, 1, .codes 2, 0⟩,
   ⟨0x210006, 0x210006, .bool, .stg, 1, 1, .codes 2, 1⟩,
   ⟨0x210007, 0x210007, .f32, .stg, 4, 4, .f32 0x33800000 0x3F800000, 0x39800000⟩,
   ⟨0x210008, 0x210008, .s32, .stg, 4, 4, .s32 8, 0⟩,
   ⟨0x210009, 0x210009, .u64, .ro, 8, 8, .any, 0⟩,
   ⟨0x21000A, 0x21000A, .u64, .ro, 8, 8, .any, 0⟩,
   ⟨0x21000B, 0x21000B, .u64, .ro, 8, 8, .any, 0⟩,
   ⟨0x21000C, 0x21000C, .u64, .ro, 8, 8, .any, 0⟩,
   ⟨0x21000D, 0x21000D, .u64, .ro, 8, 8, .any, 0⟩,
   ⟨0x21000E, 0x21000E, .u8, .wo, 1, 1, .span 1 1 1, 0⟩,
   ⟨0x220001, 0x220001, .enum, .stg, 1, 1, .codes 2, 0⟩,
   ⟨0x220002, 0x220002, .u16, .stg, 2, 2, .span 256 1280 128, 1024⟩,
   ⟨0x220003, 0x220003, .u32, .stg, 4, 4, .pow2 65536 1073741824, 0x100000⟩,
   ⟨0x220004, 0x220004, .bool, .stg, 1, 1, .codes 2, 1⟩,
   ⟨0x220005, 0x220005, .u64, .ro, 8, 8, .any, 0⟩,
   ⟨0x220006, 0x220006, .u64, .ro, 8, 8, .any, 0⟩,
   ⟨0x220007, 0x220007, .u64, .ro, 8, 8, .any, 0⟩,
   ⟨0x220008, 0x220008, .u64, .ro, 8, 8, .any, 0⟩,
   ⟨0x220009, 0x220009, .u8, .wo, 1, 1, .span 1 1 1, 0⟩,
   ⟨0x230001, 0x230001, .enum, .stg, 1, 1, .codes 3, 1⟩ ]

/-- Part 2 of the object tables. -/
def objRows2 : List ObjRow :=
  [
   ⟨0x230002, 0x230002, .enum, .stg, 1, 1, .codes 4, 1⟩,
   ⟨0x230003, 0x230003, .u64, .ro, 8, 8, .any, 0⟩,
   ⟨0x230004, 0x230004, .u64, .ro, 8, 8, .any, 0⟩,
   ⟨0x230005, 0x230005, .u64, .ro, 8, 8, .any, 0⟩,
   ⟨0x230006, 0x230006, .u64, .ro, 8, 8, .any, 0⟩,
   ⟨0x230007, 0x230007, .u8, .wo, 1, 1, .span 1 1 1, 0⟩,
   ⟨0x300001, 0x300001, .u64, .ro, 8, 8, .any, 0⟩,
   ⟨0x300002, 0x300002, .u16, .ro, 2, 2, .any, 0⟩,
   ⟨0x300003, 0x300003, .blob, .ro, 256, 256, .any, 0⟩,
   ⟨0x300004, 0x300004, .u64, .ro, 8, 8, .any, 0⟩,
   ⟨0x300005, 0x300005, .enum, .stg, 1, 1, .codes 2, 0⟩,
   ⟨0x300006, 0x300006, .u16, .stg, 2, 2, .span 128 1024 128, 128⟩,
   ⟨0x300007, 0x300007, .u16, .stg, 2, 2, .span 16 128 2, 64⟩,
   ⟨0x300008, 0x300008, .u8, .stg, 1, 1, .span 0 8 1, 0⟩,
   ⟨0x300009, 0x300009, .blob, .stg, 128, 128, .ranges, 0⟩,
   ⟨0x30000A, 0x30000A, .u8, .wo, 1, 1, .span 1 2 1, 0⟩,
   ⟨0x30000B, 0x30000B, .enum, .ro, 1, 1, .any, 0⟩,
   ⟨0x30000C, 0x30000C, .u64, .ro, 8, 8, .any, 0⟩,
   ⟨0x30000D, 0x30000D, .u64, .ro, 8, 8, .any, 0⟩,
   ⟨0x30000E, 0x30000E, .u64, .ro, 8, 8, .any, 0⟩,
   ⟨0x30000F, 0x30000F, .u64, .ro, 8, 8, .any, 0⟩,
   ⟨0x300010, 0x300010, .u64, .ro, 8, 8, .any, 0⟩,
   ⟨0x300011, 0x300011, .u64, .ro, 8, 8, .any, 0⟩,
   ⟨0x300012, 0x300012, .u64, .ro, 8, 8, .any, 0⟩,
   ⟨0x300013, 0x300013, .u64, .ro, 8, 8, .any, 0⟩,
   ⟨0x300014, 0x300014, .u64, .ro, 8, 8, .any, 0⟩,
   ⟨0x300015, 0x300015, .u64, .ro, 8, 8, .any, 0⟩,
   ⟨0x300016, 0x300016, .u64, .ro, 8, 8, .any, 0⟩,
   ⟨0x300017, 0x300017, .u64, .ro, 8, 8, .any, 0⟩,
   ⟨0x300018, 0x300018, .u64, .ro, 8, 8, .any, 0⟩,
   ⟨0x300019, 0x300019, .u8, .wo, 1, 1, .span 1 1 1, 0⟩,
   ⟨0x310001, 0x310001, .enum, .stg, 1, 1, .codes 3, 0⟩,
   ⟨0x310002, 0x310002, .bool, .rw, 1, 1, .codes 2, 1⟩,
   ⟨0x310003, 0x310003, .enum, .ro, 1, 1, .any, 0⟩,
   ⟨0x310004, 0x310004, .u32, .stg, 4, 4, .span 1 1000 1, 10⟩,
   ⟨0x310005, 0x310005, .u16, .stg, 2, 2, .span 1 65535 1, 4096⟩,
   ⟨0x310006, 0x310006, .u16, .stg, 2, 2, .span 0 65534 1, 64⟩,
   ⟨0x310007, 0x310007, .u16, .stg, 2, 2, .span 1 256 1, 16⟩,
   ⟨0x310008, 0x310008, .u32, .stg, 4, 4, .span 0 65536 1, 4096⟩,
   ⟨0x310009, 0x310009, .u16, .stg, 2, 2, .span 0 352 1, 4⟩ ]

/-- Part 3 of the object tables. -/
def objRows3 : List ObjRow :=
  [
   ⟨0x31000A, 0x31000A, .u32, .stg, 4, 4, .span 10 10000 1, 100⟩,
   ⟨0x31000B, 0x31000B, .u64, .ro, 8, 8, .any, 0⟩,
   ⟨0x31000C, 0x31000C, .u32, .ro, 4, 4, .any, 0⟩,
   ⟨0x31000D, 0x31000D, .u32, .ro, 4, 4, .any, 0⟩,
   ⟨0x31000E, 0x31000E, .u32, .ro, 4, 4, .any, 0⟩,
   ⟨0x31000F, 0x31000F, .u32, .ro, 4, 4, .any, 0⟩,
   ⟨0x310010, 0x310010, .u32, .ro, 4, 4, .any, 0⟩,
   ⟨0x310011, 0x310011, .u64, .ro, 8, 8, .any, 0⟩,
   ⟨0x310012, 0x310012, .u64, .ro, 8, 8, .any, 0⟩,
   ⟨0x310013, 0x310013, .u32, .ro, 4, 4, .any, 0⟩,
   ⟨0x310014, 0x310014, .u32, .ro, 4, 4, .any, 0⟩,
   ⟨0x310015, 0x310015, .u32, .ro, 4, 4, .any, 0⟩,
   ⟨0x310016, 0x310016, .u64, .rw, 8, 8, .any, 0⟩,
   ⟨0x310017, 0x310017, .blob, .ro, 24, 24, .any, 0⟩,
   ⟨0x310018, 0x310018, .u64, .ro, 8, 8, .any, 0⟩,
   ⟨0x310019, 0x310019, .u64, .ro, 8, 8, .any, 0⟩,
   ⟨0x31001A, 0x31001A, .u64, .ro, 8, 8, .any, 0⟩,
   ⟨0x31001B, 0x31001B, .u64, .ro, 8, 8, .any, 0⟩,
   ⟨0x31001C, 0x31001C, .u64, .ro, 8, 8, .any, 0⟩,
   ⟨0x31001D, 0x31001D, .u64, .ro, 8, 8, .any, 0⟩,
   ⟨0x31001E, 0x31001E, .u64, .ro, 8, 8, .any, 0⟩,
   ⟨0x31001F, 0x31001F, .u64, .ro, 8, 8, .any, 0⟩,
   ⟨0x310020, 0x310020, .u64, .ro, 8, 8, .any, 0⟩,
   ⟨0x310021, 0x310021, .u8, .wo, 1, 1, .span 1 1 1, 0⟩,
   ⟨0x320001, 0x320001, .u16, .stg, 2, 2, .span 2 100 1, 10⟩,
   ⟨0x320002, 0x320002, .bits, .ro, 1, 1, .any, 0⟩,
   ⟨0x320003, 0x320003, .u64, .ro, 8, 8, .any, 0⟩,
   ⟨0x320004, 0x320004, .u64, .ro, 8, 8, .any, 0⟩,
   ⟨0x320005, 0x320005, .u8, .wo, 1, 1, .span 1 1 1, 0⟩,
   ⟨0x321001, 0x321006, .u32, .stg, 4, 4, .any, 0⟩,
   ⟨0x321101, 0x321106, .u32, .stg, 4, 4, .any, 0⟩,
   ⟨0x321201, 0x321206, .u32, .stg, 4, 4, .any, 0⟩,
   ⟨0x321301, 0x321306, .u32, .stg, 4, 4, .any, 0⟩,
   ⟨0x321401, 0x321406, .u32, .stg, 4, 4, .any, 0⟩,
   ⟨0x321501, 0x321506, .u32, .stg, 4, 4, .any, 0⟩,
   ⟨0x321601, 0x321606, .u32, .stg, 4, 4, .any, 0⟩,
   ⟨0x322001, 0x322006, .u8, .stg, 1, 1, .any, 0⟩,
   ⟨0x322101, 0x322106, .u8, .stg, 1, 1, .any, 0⟩,
   ⟨0x322201, 0x322206, .u8, .stg, 1, 1, .any, 0⟩,
   ⟨0x322301, 0x322306, .u8, .stg, 1, 1, .any, 0⟩ ]

/-- Part 4 of the object tables. -/
def objRows4 : List ObjRow :=
  [
   ⟨0x322401, 0x322406, .u8, .stg, 1, 1, .any, 0⟩,
   ⟨0x322501, 0x322506, .u8, .stg, 1, 1, .any, 0⟩,
   ⟨0x322601, 0x322606, .u8, .stg, 1, 1, .any, 0⟩,
   ⟨0x323001, 0x323006, .u32, .ro, 4, 4, .any, 0⟩,
   ⟨0x323101, 0x323106, .u32, .ro, 4, 4, .any, 0⟩,
   ⟨0x323201, 0x323206, .u32, .ro, 4, 4, .any, 0⟩,
   ⟨0x323301, 0x323306, .u32, .ro, 4, 4, .any, 0⟩,
   ⟨0x323401, 0x323406, .u32, .ro, 4, 4, .any, 0⟩,
   ⟨0x323501, 0x323506, .u32, .ro, 4, 4, .any, 0⟩,
   ⟨0x323601, 0x323606, .u32, .ro, 4, 4, .any, 0⟩,
   ⟨0x324001, 0x324006, .u64, .ro, 8, 8, .any, 0⟩,
   ⟨0x324101, 0x324106, .u64, .ro, 8, 8, .any, 0⟩,
   ⟨0x324201, 0x324206, .u64, .ro, 8, 8, .any, 0⟩,
   ⟨0x324301, 0x324306, .u64, .ro, 8, 8, .any, 0⟩,
   ⟨0x324401, 0x324406, .u64, .ro, 8, 8, .any, 0⟩,
   ⟨0x324501, 0x324506, .u64, .ro, 8, 8, .any, 0⟩,
   ⟨0x324601, 0x324606, .u64, .ro, 8, 8, .any, 0⟩,
   ⟨0x324701, 0x324706, .u64, .ro, 8, 8, .any, 0⟩,
   ⟨0x325001, 0x325007, .u32, .ro, 4, 4, .any, 0⟩,
   ⟨0x325101, 0x325107, .f32, .ro, 4, 4, .any, 0⟩,
   ⟨0x330001, 0x330001, .u64, .rwi, 8, 8, .span 0 18446744073709551615 4096, 0⟩,
   ⟨0x330002, 0x330002, .u32, .rwi, 4, 4, .pow2 64 65536, 1024⟩,
   ⟨0x330003, 0x330003, .u64, .rwi, 8, 8, .span 0 18446744073709551615 4096, 0⟩,
   ⟨0x330004, 0x330004, .u32, .rwi, 4, 4, .pow2 64 262144, 4096⟩,
   ⟨0x330005, 0x330005, .u64, .rwi, 8, 8, .span 0 18446744073709551615 64, 0⟩,
   ⟨0x330006, 0x330006, .bool, .rw, 1, 1, .codes 2, 0⟩,
   ⟨0x330007, 0x330007, .enum, .ro, 1, 1, .any, 0⟩,
   ⟨0x330008, 0x330008, .u64, .ro, 8, 8, .any, 0⟩,
   ⟨0x330009, 0x330009, .u8, .ro, 1, 1, .any, 0⟩,
   ⟨0x33000A, 0x33000A, .u64, .ro, 8, 8, .any, 0⟩,
   ⟨0x33000B, 0x33000B, .enum, .stg, 1, 1, .codes 2, 0⟩,
   ⟨0x33000C, 0x33000C, .blob, .stg, 128, 128, .any, 0⟩,
   ⟨0x33000D, 0x33000D, .bool, .stg, 1, 1, .codes 2, 0⟩,
   ⟨0x33000E, 0x33000E, .u16, .stg, 2, 2, .span 0 4096 2, 96⟩,
   ⟨0x33000F, 0x33000F, .u8, .stg, 1, 1, .tileMax, 0⟩,
   ⟨0x330010, 0x330010, .u32, .stg, 4, 4, .span 1 3600000 1, 60000⟩,
   ⟨0x330011, 0x330011, .bool, .stg, 1, 1, .codes 2, 1⟩,
   ⟨0x330012, 0x330012, .u8, .wo, 1, 1, .span 1 1 1, 0⟩,
   ⟨0x330013, 0x330013, .u8, .wo, 1, 1, .span 1 1 1, 0⟩,
   ⟨0x330014, 0x330014, .enum, .ro, 1, 1, .any, 0⟩ ]

/-- Part 5 of the object tables. -/
def objRows5 : List ObjRow :=
  [
   ⟨0x330015, 0x330015, .bits, .ro, 8, 8, .any, 0⟩,
   ⟨0x330016, 0x330016, .u64, .ro, 8, 8, .any, 0⟩,
   ⟨0x330017, 0x330017, .u64, .ro, 8, 8, .any, 0⟩,
   ⟨0x330018, 0x330018, .u64, .ro, 8, 8, .any, 0⟩,
   ⟨0x330019, 0x330019, .u64, .ro, 8, 8, .any, 0⟩,
   ⟨0x33001A, 0x33001A, .u64, .ro, 8, 8, .any, 0⟩,
   ⟨0x33001B, 0x33001B, .u64, .ro, 8, 8, .any, 0⟩,
   ⟨0x33001C, 0x33001C, .u64, .ro, 8, 8, .any, 0⟩,
   ⟨0x33001D, 0x33001D, .u8, .wo, 1, 1, .span 1 1 1, 0⟩,
   ⟨0x33001E, 0x33001E, .u64, .ro, 8, 8, .any, 0⟩,
   ⟨0x33001F, 0x33001F, .bits, .stg, 2, 2, .any, 0⟩,
   ⟨0x340001, 0x340001, .bool, .stg, 1, 1, .codes 2, 0⟩,
   ⟨0x340002, 0x340002, .u64, .stg, 8, 8, .any, 0⟩,
   ⟨0x340003, 0x340003, .bool, .ro, 1, 1, .codes 2, 0⟩,
   ⟨0x340004, 0x340004, .enum, .stg, 1, 1, .codes 2, 0⟩,
   ⟨0x340005, 0x340005, .bool, .stg, 1, 1, .codes 2, 0⟩,
   ⟨0x340006, 0x340006, .u64, .rwi, 8, 8, .any, 0⟩,
   ⟨0x340007, 0x340007, .blob, .ro, 32, 32, .any, 0⟩,
   ⟨0x340008, 0x340008, .u32, .ro, 4, 4, .any, 0⟩,
   ⟨0x340009, 0x340009, .bool, .ro, 1, 1, .codes 2, 0⟩,
   ⟨0x34000A, 0x34000A, .blob, .ro, 64, 64, .any, 0⟩,
   ⟨0x34000B, 0x34000B, .blob, .wo, 64, 64, .any, 0⟩,
   ⟨0x34000C, 0x34000C, .enum, .ro, 1, 1, .any, 0⟩,
   ⟨0x34000D, 0x34000D, .blob, .rw, 24, 24, .any, 0⟩,
   ⟨0x34000E, 0x34000E, .u64, .ro, 8, 8, .any, 0⟩,
   ⟨0x34000F, 0x34000F, .u64, .ro, 8, 8, .any, 0⟩,
   ⟨0x400001, 0x400001, .bool, .rw, 1, 1, .codes 2, 1⟩,
   ⟨0x400002, 0x400002, .enum, .ro, 1, 1, .any, 0⟩,
   ⟨0x400003, 0x400003, .u32, .stg, 4, 4, .span 3600 604800 1, 21600⟩,
   ⟨0x400004, 0x400004, .u32, .stg, 4, 4, .span 3600 2592000 1, 86400⟩,
   ⟨0x400005, 0x400005, .u64, .ro, 8, 8, .any, 0⟩,
   ⟨0x400006, 0x400006, .u64, .ro, 8, 8, .any, 0⟩,
   ⟨0x400007, 0x400007, .u32, .ro, 4, 4, .any, 0⟩,
   ⟨0x400008, 0x400008, .u32, .ro, 4, 4, .any, 0⟩,
   ⟨0x400009, 0x400009, .u32, .ro, 4, 4, .any, 0⟩,
   ⟨0x40000A, 0x40000A, .u32, .ro, 4, 4, .any, 0⟩,
   ⟨0x40000B, 0x40000B, .u32, .ro, 4, 4, .any, 0⟩,
   ⟨0x40000C, 0x40000C, .u32, .ro, 4, 4, .any, 0⟩,
   ⟨0x40000D, 0x40000D, .u32, .ro, 4, 4, .any, 0⟩,
   ⟨0x40000E, 0x40000E, .u32, .ro, 4, 4, .any, 0⟩ ]

/-- Part 6 of the object tables. -/
def objRows6 : List ObjRow :=
  [
   ⟨0x40000F, 0x40000F, .u32, .ro, 4, 4, .any, 0⟩,
   ⟨0x400010, 0x400010, .u64, .ro, 8, 8, .any, 0⟩,
   ⟨0x400011, 0x400011, .u64, .ro, 8, 8, .any, 0⟩,
   ⟨0x400012, 0x400012, .u16, .ro, 2, 2, .any, 0⟩,
   ⟨0x400013, 0x400013, .u16, .ro, 2, 2, .any, 0⟩,
   ⟨0x400014, 0x400014, .u64, .ro, 8, 8, .any, 0⟩,
   ⟨0x400015, 0x400015, .u64, .ro, 8, 8, .any, 0⟩,
   ⟨0x400016, 0x400016, .bits, .ro, 8, 8, .any, 0⟩,
   ⟨0x400017, 0x400017, .blob, .ro, 32, 32, .any, 0⟩,
   ⟨0x400018, 0x400018, .u32, .ro, 4, 4, .any, 0⟩,
   ⟨0x400019, 0x400019, .u32, .rw, 4, 4, .any, 0⟩,
   ⟨0x40001A, 0x40001A, .u32, .ro, 4, 4, .any, 0⟩,
   ⟨0x40001B, 0x40001B, .u64, .ro, 8, 8, .any, 0⟩,
   ⟨0x40001C, 0x40001C, .u16, .ro, 2, 2, .any, 0⟩,
   ⟨0x40001D, 0x40001D, .u8, .lck, 1, 1, .span 1 1 1, 0⟩,
   ⟨0x40001E, 0x40001E, .u8, .wo, 1, 1, .span 1 1 1, 0⟩,
   ⟨0x400101, 0x400101, .enum, .stg, 1, 1, .codes 3, 0⟩,
   ⟨0x400102, 0x400102, .enum, .stg, 1, 1, .codes 3, 1⟩,
   ⟨0x400103, 0x400103, .enum, .stg, 1, 1, .codes 3, 2⟩,
   ⟨0x400104, 0x400104, .enum, .stg, 1, 1, .codes 3, 1⟩,
   ⟨0x401001, 0x401004, .blob, .ro, 32768, 32768, .any, 0⟩,
   ⟨0x401101, 0x401101, .blob, .ro, 32768, 32768, .any, 0⟩,
   ⟨0x500001, 0x500001, .u32, .stg, 4, 4, .span 1000 3600 1, 3600⟩,
   ⟨0x500002, 0x500002, .u32, .ro, 4, 4, .any, 0⟩,
   ⟨0x500003, 0x500003, .u16, .stg, 2, 2, .span 20 4000 1, 250⟩,
   ⟨0x500004, 0x500004, .u16, .stg, 2, 2, .span 20 4000 1, 250⟩,
   ⟨0x500005, 0x500005, .enum, .stg, 1, 1, .codes 3, 0⟩,
   ⟨0x500006, 0x500006, .u16, .stg, 2, 2, .span 0 1800 1, 400⟩,
   ⟨0x500007, 0x500007, .u8, .stg, 1, 1, .any, 0⟩,
   ⟨0x500008, 0x500008, .u8, .stg, 1, 1, .span 1 16 1, 8⟩,
   ⟨0x500009, 0x500009, .u16, .stg, 2, 2, .span 250 20000 1, 2000⟩,
   ⟨0x50000A, 0x50000A, .bool, .stg, 1, 1, .codes 2, 0⟩,
   ⟨0x50000B, 0x50000B, .enum, .stg, 1, 1, .codes 3, 0⟩,
   ⟨0x50000C, 0x50000C, .bool, .stg, 1, 1, .codes 2, 1⟩,
   ⟨0x50000D, 0x50000D, .u8, .stg, 1, 1, .span 10 90 1, 40⟩,
   ⟨0x50000E, 0x50000E, .enum, .stg, 1, 1, .codes 2, 0⟩,
   ⟨0x50000F, 0x50000F, .u32, .stg, 4, 4, .span 0 600000 1, 2000⟩,
   ⟨0x500010, 0x500010, .enum, .ro, 1, 1, .any, 0⟩,
   ⟨0x500011, 0x500011, .u16, .stg, 2, 2, .span 250 4000 1, 4000⟩,
   ⟨0x500012, 0x500012, .u32, .stg, 4, 4, .span 10 10000 1, 100⟩ ]

/-- Part 7 of the object tables. -/
def objRows7 : List ObjRow :=
  [
   ⟨0x500013, 0x500013, .enum, .ro, 1, 1, .any, 0⟩,
   ⟨0x500014, 0x500014, .bits, .stg, 4, 4, .bits 0xC0FFF, 0⟩,
   ⟨0x500015, 0x500015, .u32, .ro, 4, 4, .any, 0⟩,
   ⟨0x500016, 0x500016, .u32, .ro, 4, 4, .any, 0⟩,
   ⟨0x500017, 0x500017, .u32, .ro, 4, 4, .any, 0⟩,
   ⟨0x500018, 0x500018, .u32, .ro, 4, 4, .any, 0⟩,
   ⟨0x500019, 0x500019, .u32, .ro, 4, 4, .any, 0⟩,
   ⟨0x50001A, 0x50001A, .u8, .ro, 1, 1, .any, 0⟩,
   ⟨0x50001B, 0x50001B, .u16, .ro, 2, 2, .any, 0⟩,
   ⟨0x50001C, 0x50001C, .u64, .ro, 8, 8, .any, 0⟩,
   ⟨0x50001D, 0x50001D, .u64, .ro, 8, 8, .any, 0⟩,
   ⟨0x50001E, 0x50001E, .u64, .ro, 8, 8, .any, 0⟩,
   ⟨0x50001F, 0x50001F, .u8, .wo, 1, 1, .span 1 1 1, 0⟩,
   ⟨0x501001, 0x501014, .enum, .ro, 1, 1, .any, 0⟩,
   ⟨0x502001, 0x502018, .u8, .ro, 1, 1, .any, 0⟩,
   ⟨0x502101, 0x502124, .u8, .ro, 1, 1, .any, 0⟩,
   ⟨0x510001, 0x510001, .bool, .stg, 1, 1, .codes 2, 1⟩,
   ⟨0x510002, 0x510002, .u16, .stg, 2, 2, .span 0 200 1, 50⟩,
   ⟨0x510003, 0x510003, .u8, .stg, 1, 1, .span 85 105 1, 100⟩,
   ⟨0x510004, 0x510004, .u8, .wo, 1, 1, .span 1 1 1, 0⟩,
   ⟨0x510005, 0x510005, .enum, .ro, 1, 1, .any, 0⟩,
   ⟨0x510006, 0x510006, .blob, .ro, 56, 56, .any, 0⟩,
   ⟨0x510007, 0x510007, .u64, .ro, 8, 8, .any, 0⟩,
   ⟨0x510008, 0x510008, .u64, .ro, 8, 8, .any, 0⟩,
   ⟨0x510009, 0x510009, .u64, .ro, 8, 8, .any, 0⟩,
   ⟨0x51000A, 0x51000A, .u8, .wo, 1, 1, .span 1 1 1, 0⟩,
   ⟨0x511001, 0x511048, .f32, .ro, 4, 4, .any, 0⟩,
   ⟨0x511101, 0x511140, .f32, .ro, 4, 4, .any, 0⟩,
   ⟨0x511201, 0x511240, .f32, .ro, 4, 4, .any, 0⟩,
   ⟨0x511301, 0x511340, .f32, .ro, 4, 4, .any, 0⟩,
   ⟨0x511401, 0x511410, .enum, .ro, 1, 1, .any, 0⟩,
   ⟨0x520001, 0x520001, .enum, .stg, 1, 1, .codes 2, 0⟩,
   ⟨0x520002, 0x520002, .u16, .stg, 2, 2, .span 500 1200 100, 1200⟩,
   ⟨0x520003, 0x520003, .enum, .stg, 1, 1, .codes 3, 0⟩,
   ⟨0x520004, 0x520004, .u32, .stg, 4, 4, .span 1 10000 1, 1⟩,
   ⟨0x520005, 0x520005, .u32, .stg, 4, 4, .span 10 600000 1, 100⟩,
   ⟨0x520006, 0x520006, .enum, .wo, 1, 1, .codes 3, 0⟩,
   ⟨0x520007, 0x520007, .enum, .ro, 1, 1, .any, 0⟩,
   ⟨0x520008, 0x520008, .u64, .ro, 8, 8, .any, 0⟩,
   ⟨0x520009, 0x520009, .enum, .stg, 1, 1, .codes 3, 0⟩ ]

/-- Part 8 of the object tables. -/
def objRows8 : List ObjRow :=
  [
   ⟨0x52000A, 0x52000A, .enum, .stg, 1, 1, .codes 3, 0⟩,
   ⟨0x52000B, 0x52000B, .u64, .ro, 8, 8, .any, 0⟩,
   ⟨0x52000C, 0x52000C, .bool, .ro, 1, 1, .codes 2, 0⟩,
   ⟨0x52000D, 0x52000D, .enum, .ro, 1, 1, .any, 0⟩,
   ⟨0x52000E, 0x52000E, .bool, .stg, 1, 1, .codes 2, 0⟩,
   ⟨0x52000F, 0x52000F, .u32, .stg, 4, 4, .span 10 1000000 1, 1000⟩,
   ⟨0x520010, 0x520010, .u64, .stg, 8, 8, .span 0 18446744073709551615 64, 0⟩,
   ⟨0x520011, 0x520011, .u32, .stg, 4, 4, .span 16 1048576 1, 4096⟩,
   ⟨0x520012, 0x520012, .u64, .ro, 8, 8, .any, 0⟩,
   ⟨0x520013, 0x520013, .u64, .ro, 8, 8, .any, 0⟩,
   ⟨0x521001, 0x521040, .u8, .ro, 1, 1, .any, 0⟩,
   ⟨0x600001, 0x600001, .enum, .ro, 1, 1, .any, 0⟩,
   ⟨0x600002, 0x600002, .u8, .wo, 1, 1, .span 1 1 1, 0⟩,
   ⟨0x600003, 0x600003, .u8, .wo, 1, 1, .span 1 1 1, 0⟩,
   ⟨0x600004, 0x600004, .bool, .stg, 1, 1, .codes 2, 1⟩,
   ⟨0x600005, 0x600005, .u32, .ro, 4, 4, .any, 0⟩,
   ⟨0x600006, 0x600006, .u32, .ro, 4, 4, .any, 0⟩,
   ⟨0x600007, 0x600007, .u64, .ro, 8, 8, .any, 0⟩,
   ⟨0x600008, 0x600008, .u64, .ro, 8, 8, .any, 0⟩,
   ⟨0x600009, 0x600009, .u64, .ro, 8, 8, .any, 0⟩,
   ⟨0x60000A, 0x60000A, .u32, .ro, 4, 4, .any, 0⟩,
   ⟨0x60000B, 0x60000B, .u32, .ro, 4, 4, .any, 0⟩,
   ⟨0x60000C, 0x60000C, .u32, .ro, 4, 4, .any, 0⟩,
   ⟨0x60000D, 0x60000D, .blob, .ro, 176, 176, .any, 0⟩,
   ⟨0x60000E, 0x60000E, .u8, .ro, 1, 1, .any, 0⟩,
   ⟨0x60000F, 0x60000F, .u8, .ro, 1, 1, .any, 0⟩,
   ⟨0x600010, 0x600010, .blob, .ro, 9, 9, .any, 0⟩,
   ⟨0x600011, 0x600011, .blob, .lck, 9, 9, .any, 0⟩,
   ⟨0x600101, 0x600148, .enum, .ro, 1, 1, .any, 0⟩,
   ⟨0x600201, 0x600248, .u8, .ro, 1, 1, .any, 0⟩,
   ⟨0x600301, 0x600316, .enum, .ro, 1, 1, .any, 0⟩,
   ⟨0x600401, 0x600416, .f32, .ro, 4, 4, .any, 0⟩,
   ⟨0x700001, 0x700001, .enum, .ro, 1, 1, .any, 0⟩,
   ⟨0x700002, 0x700002, .u8, .ro, 1, 1, .any, 0⟩,
   ⟨0x700003, 0x700003, .u8, .ro, 1, 1, .any, 0⟩,
   ⟨0x700004, 0x700004, .enum, .ro, 1, 1, .any, 0⟩,
   ⟨0x700005, 0x700005, .u32, .rw, 4, 4, .span 0 10000 1, 0⟩,
   ⟨0x700006, 0x700006, .u64, .ro, 8, 8, .any, 0⟩,
   ⟨0x710001, 0x710002, .bool, .rw, 1, 1, .codes 2, 1⟩,
   ⟨0x710003, 0x710004, .enum, .ro, 1, 1, .any, 0⟩ ]

/-- Part 9 of the object tables. -/
def objRows9 : List ObjRow :=
  [
   ⟨0x710005, 0x710006, .u8, .ro, 1, 1, .any, 0⟩,
   ⟨0x710007, 0x710008, .u32, .ro, 4, 4, .any, 0⟩,
   ⟨0x710009, 0x710009, .u64, .ro, 8, 8, .any, 0⟩,
   ⟨0x720001, 0x720001, .u16, .stg, 2, 2, .span 0 65534 1, 0⟩,
   ⟨0x720002, 0x720002, .blob, .stg, 4, 4, .spares, 0xe090500⟩,
   ⟨0x720003, 0x720003, .blob, .stg, 128, 128, .ranges, 0⟩,
   ⟨0x720004, 0x720004, .u64, .ro, 8, 8, .any, 0⟩,
   ⟨0x720005, 0x720005, .u64, .ro, 8, 8, .any, 0⟩,
   ⟨0x720006, 0x720006, .u64, .ro, 8, 8, .any, 0⟩,
   ⟨0x720007, 0x720007, .u64, .ro, 8, 8, .any, 0⟩,
   ⟨0x720008, 0x720008, .u8, .wo, 1, 1, .span 1 1 1, 0⟩,
   ⟨0x720009, 0x720009, .u64, .ro, 8, 8, .any, 0⟩,
   ⟨0x721001, 0x721012, .bool, .rw, 1, 1, .codes 2, 1⟩,
   ⟨0x721101, 0x721112, .enum, .ro, 1, 1, .any, 0⟩,
   ⟨0x721201, 0x721212, .u8, .ro, 1, 1, .any, 0⟩,
   ⟨0x721301, 0x721312, .u16, .ro, 2, 2, .any, 0⟩,
   ⟨0x730001, 0x730001, .bool, .stg, 1, 1, .codes 2, 1⟩,
   ⟨0x730002, 0x730002, .u16, .stg, 2, 2, .span 1024 65535 1, 47300⟩,
   ⟨0x730003, 0x730003, .u8, .stg, 1, 1, .spanOr 0 31 255, 255⟩,
   ⟨0x730004, 0x730004, .u8, .stg, 1, 1, .span 2 32 1, 8⟩,
   ⟨0x730005, 0x730005, .u8, .stg, 1, 1, .span 1 255 1, 32⟩,
   ⟨0x730006, 0x730006, .blob, .ro, 6, 6, .any, 0⟩,
   ⟨0x730007, 0x730007, .u64, .ro, 8, 8, .any, 0⟩,
   ⟨0x730008, 0x730008, .u64, .ro, 8, 8, .any, 0⟩,
   ⟨0x800001, 0x800001, .u8, .wo, 1, 1, .span 0 3 1, 0⟩,
   ⟨0x800002, 0x800002, .u32, .ro, 4, 4, .any, 0⟩,
   ⟨0x800003, 0x800003, .blob, .wo, 4096, 4096, .any, 0⟩,
   ⟨0x800004, 0x800004, .u8, .wo, 1, 1, .span 1 1 1, 0⟩,
   ⟨0x800005, 0x800005, .u8, .wo, 1, 1, .span 1 2 1, 0⟩,
   ⟨0x800006, 0x800006, .u8, .wo, 1, 1, .span 1 1 1, 0⟩,
   ⟨0x800007, 0x800007, .enum, .ro, 1, 1, .any, 0⟩,
   ⟨0x800008, 0x800008, .enum, .ro, 1, 1, .any, 0⟩,
   ⟨0x800009, 0x800009, .enum, .ro, 1, 1, .any, 0⟩,
   ⟨0x80000A, 0x80000A, .bool, .lck, 1, 1, .codes 2, 0⟩,
   ⟨0x80000B, 0x80000B, .bool, .stg, 1, 1, .codes 2, 0⟩,
   ⟨0x80000C, 0x80000C, .u16, .stg, 2, 2, .any, 0⟩,
   ⟨0x80000D, 0x80000D, .enum, .stg, 1, 1, .codes 2, 0⟩,
   ⟨0x80000E, 0x80000E, .u32, .stg, 4, 4, .span 60 3600 1, 600⟩,
   ⟨0x80000F, 0x80000F, .u8, .wo, 1, 1, .span 1 1 1, 0⟩,
   ⟨0x801001, 0x801004, .u32, .ro, 4, 4, .any, 0⟩ ]

/-- Part 10 of the object tables. -/
def objRows10 : List ObjRow :=
  [
   ⟨0x801101, 0x801104, .enum, .ro, 1, 1, .any, 0⟩,
   ⟨0x801201, 0x801204, .enum, .ro, 1, 1, .any, 0⟩,
   ⟨0x801301, 0x801304, .u16, .ro, 2, 2, .any, 0⟩,
   ⟨0x801401, 0x801404, .u32, .ro, 4, 4, .any, 0⟩,
   ⟨0x900001, 0x900001, .u32, .ro, 4, 4, .any, 0⟩,
   ⟨0x900002, 0x900002, .u32, .ro, 4, 4, .any, 0⟩,
   ⟨0x900003, 0x900003, .enum, .ro, 1, 1, .any, 0⟩,
   ⟨0x900004, 0x900004, .f32, .ro, 4, 4, .any, 0⟩,
   ⟨0x900005, 0x900005, .f32, .ro, 4, 4, .any, 0⟩,
   ⟨0x900006, 0x900006, .f32, .ro, 4, 4, .any, 0⟩,
   ⟨0x900007, 0x900007, .f32, .ro, 4, 4, .any, 0⟩,
   ⟨0x900008, 0x900008, .bits, .ro, 1, 1, .any, 0⟩,
   ⟨0x900009, 0x900009, .f32, .ro, 4, 4, .any, 0⟩,
   ⟨0x90000A, 0x90000A, .f32, .ro, 4, 4, .any, 0⟩,
   ⟨0x90000B, 0x90000B, .bits, .ro, 1, 1, .any, 0⟩,
   ⟨0x90000C, 0x90000C, .bool, .stg, 1, 1, .codes 2, 0⟩,
   ⟨0x90000D, 0x90000D, .enum, .stg, 1, 1, .codes 3, 0⟩,
   ⟨0x90000E, 0x90000E, .bool, .stg, 1, 1, .codes 2, 0⟩,
   ⟨0x90000F, 0x90000F, .enum, .stg, 1, 1, .codes 3, 0⟩,
   ⟨0x900010, 0x900010, .u64, .ro, 8, 8, .any, 0⟩,
   ⟨0x900011, 0x900011, .u64, .ro, 8, 8, .any, 0⟩,
   ⟨0x900012, 0x900012, .u8, .wo, 1, 1, .span 1 1 1, 0⟩,
   ⟨0x901001, 0x901004, .f32, .ro, 4, 4, .any, 0⟩ ]

/-- The object tables of chapters 2 to 18, in key order. -/
def objTable : List ObjRow :=
  objRows0 ++ objRows1 ++ objRows2 ++ objRows3 ++ objRows4 ++ objRows5 ++ objRows6 ++ objRows7 ++ objRows8 ++ objRows9 ++ objRows10

/-- The row of an object. -/
def objRow (key : Nat) : Option ObjRow := objTable.find? fun r => decide (r.first ≤ key) && decide (key ≤ r.last)

/-- The highest subindex in use at an index (R26). -/
def highestSub (index : Nat) : Nat :=
  objTable.foldl (fun h r => if r.last / 256 = index then max h (r.last % 256) else h) 0

end Sys2Proof.Machine
end

