-- ==== Sys2Proof/Machine/Ops.lean ====
section
/-! DEFINITION. The operations every family of commands shares: values of dictionary objects, saturating counters, free
values, the error log (R306 to R309), event records (R256) and interval limits (R465). -/

set_option Elab.async false

namespace Sys2Proof.Machine

open Sys2Proof

/-- A command's outcome. -/
abbrev Out := Host.Outcome State Fault Refusal

/-! ### Objects -/

/-- The variant's logical tile count (R24). -/
def State.tileCount (s : State) : Nat := 2 * Config.tilesPerHalf s.fuses.variant

/-- The default of `BwMin` of class `c` on target `t` (R239 and R24). -/
def bwMinDefault (variant t c : Nat) : Nat :=
  if t = 0 then
    [if variant = 2 then 39000000 else 60000000, 100000, 2000000, 0, 1000000, 1000].getD (c - 1) 0
  else if t ≤ 4 then
    [if variant = 2 then 1800000 else 2400000, 50000, 400000, 64000, 200000, 1000].getD (c - 1) 0
  else 0

/-- The default of `BwWeight` of class `c` (R239). -/
def bwWeightDefault (c : Nat) : Nat := [16, 2, 4, 1, 2, 1].getD (c - 1) 0

/-- The default of an object as bytes. -/
def State.defaultOf (s : State) (key : Nat) : Bytes :=
  match objRow key with
  | none => []
  | some r =>
    if key = Obj.tileMaxPerKernel then natLE 1 s.tileCount
    else if r.first / 0x1000 = 0x321 then natLE 4 (bwMinDefault s.fuses.variant (key / 256 - 0x3210) (key % 256))
    else if r.first / 0x1000 = 0x322 then natLE 1 (bwWeightDefault (key % 256))
    else natLE r.lenLo r.dflt

/-- The value in force of an object that writes set, as bytes. -/
def State.value (s : State) (key : Nat) : Bytes :=
  match NMap.look s.dict.values key with
  | some b => b
  | none => s.defaultOf key

/-- The value in force of a numeric object. -/
def State.num (s : State) (key : Nat) : Nat := leNat (s.value key)

/-- Is a BOOL object ON? -/
def State.isOn (s : State) (key : Nat) : Bool := s.num key == 1

/-- The state with an object's value in force replaced. -/
def State.setValue (s : State) (key : Nat) (v : Bytes) : State :=
  { s with dict := { s.dict with values := NMap.put s.dict.values key v } }

/-- A value of a resulting configuration: the staged value where there is one (R41). -/
def State.numWith (s : State) (staged : NMap Bytes) (key : Nat) : Nat :=
  match NMap.look staged key with
  | some b => leNat b
  | none => s.num key

/-- The bytes of a value of a resulting configuration. -/
def State.valueWith (s : State) (staged : NMap Bytes) (key : Nat) : Bytes := (NMap.look staged key).getD (s.value key)

/-! ### Counters -/

/-- The greatest value a counter holds: its type's greatest (R310, R373). -/
def counterMax (key : Nat) : Nat :=
  match objRow key with
  | some r => 256 ^ r.lenHi - 1
  | none => 0xFFFFFFFFFFFFFFFF

/-- A counter's value. -/
def State.counter (s : State) (key : Nat) : Nat := NMap.lookD s.dict.counters key 0

/-- A counter increased by `n`, saturating. -/
def State.bump (s : State) (key n : Nat) : State :=
  { s with dict := { s.dict with counters := NMap.put s.dict.counters key (min (counterMax key) (s.counter key + n)) } }

/-- The counters from key `a` to key `b` set to 0. -/
def State.clearCounters (s : State) (a b : Nat) : State :=
  { s with dict := { s.dict with counters := NMap.delRange s.dict.counters a (b + 1) } }

/-! ### Free values -/

/-- The state after a free value has been drawn. (DESIGN CHOICE, notes/assumptions/7.md). -/
def State.drawn (s : State) : State := { s with dict := { s.dict with freeCount := s.dict.freeCount + 1 } }

/-! ### Time -/

/-- Timestamp ticks in a second, a millisecond and a microsecond (R369: units of 1/1.2 ns). -/
def ticksPerMs : Nat := 1200000
def ticksPerUs : Nat := 1200
def ticksPerS : Nat := 1200000000

/-- The timestamp. (DESIGN CHOICE, notes/assumptions/1.md). -/
def State.now (s : State) : Nat := s.thermal.timestamp

/-- The timestamp moved on by `n`, wrapping at 2^64. (DESIGN CHOICE, notes/assumptions/1.md). -/
def State.advance (s : State) (n : Nat) : State :=
  { s with thermal := { s.thermal with timestamp := (s.thermal.timestamp + n) % 2 ^ 64 } }

/-- Has `span` passed since `t`? A time of the future counts as long ago: the timestamp was set back by a reset. -/
def State.passed (s : State) (t span : Nat) : Bool := decide (t + span ≤ s.now) || decide (s.now < t)

/-! ### The error log -/

/-- Severities of R306. -/
def sevInfo : Nat := 0
def sevCorrected : Nat := 1
def sevError : Nat := 2
def sevFatal : Nat := 3

/-- Agent codes of R306. -/
def agentHost : Nat := 0x46
def agentHalfLink : Nat := 0x4B
def agentHalfManagers : Nat := 0x4C
def agentRegulators : Nat := 0x4D
def agentThermal : Nat := 0x4E
def agentDictionary : Nat := 0x4F
def agentNone : Nat := 0xFF

/-- An address of a log entry: SPACE and ADDRESS (R306). -/
abbrev LogAddr := Option (Nat × Nat)

/-- An MSI-X message sent (R403); none while the host link is not linked. -/
def State.sendIrq (s : State) (vector : Nat) : State :=
  if s.iface.hostLink = 2 then { s with ledger := { s.ledger with msix := s.ledger.msix ++ [vector] } } else s

/-- The message of a log entry: vector 2 for FATAL, vector 3 for ERROR at most once per millisecond (R403). -/
def State.logIrq (s : State) (sev : Nat) : State :=
  if sev = sevFatal then s.sendIrq 2
  else if sev = sevError && s.iface.hostLink == 2 && (match s.ledger.irqErr with
      | none => true
      | some t => s.passed t ticksPerMs) then
    ({ s with ledger := { s.ledger with irqErr := some s.now } } : State).sendIrq 3
  else s

/-- One more log entry (R306, R308, R309): the next ENTRY_SEQ in the next slot; an overrun is counted where the slot's
entry had not been acknowledged; a FATAL entry goes to the flash ring of 1,024 entries too. -/
def State.log (s : State) (code sev agent : Nat) (addr : LogAddr) (detail : Nat) : State :=
  let n := s.integ.head
  let e : LogEntry :=
    { time := s.now, code := code, sev := sev, agent := agent, seq := n, valid := addr.isSome,
      space := (addr.map (·.1)).getD 0, addr := (addr.map (·.2)).getD 0, detail := BitVec.ofNat 64 detail }
  let lost := match NMap.look s.integ.ring (n % 4096) with
    | some old => decide (s.integ.ack ≤ old.seq)
    | none => false
  let t : State :=
    { s with integ := { s.integ with
        ring := NMap.put s.integ.ring (n % 4096) e
        head := (n + 1) % 2 ^ 32
        fatal := if sev = sevFatal then (s.integ.fatal ++ [e]).drop ((s.integ.fatal.length + 1) - 1024) else s.integ.fatal
        alertHold := s.integ.alertHold || sev == sevFatal } }
  (if lost then t.bump Obj.errorLogOverruns 1 else t).logIrq sev

/-- A fault's entry and its FAULT_CONTEXT entry (R307). -/
def State.logFault (s : State) (code agent : Nat) (addr : LogAddr) (detail : Nat) (pc : LogAddr) (context : Nat) : State :=
  (s.log code sevError agent addr detail).log 0x00FF sevError agent pc context

/-- An interval limit of R465 by cause number: has the interval passed since the last entry? -/
def State.limitOpen (s : State) (cause span : Nat) : Bool :=
  match NMap.look s.integ.lastLim cause with
  | none => true
  | some t => s.passed t span

/-- The moment of the last entry of a cause recorded. -/
def State.limitMark (s : State) (cause : Nat) : State :=
  { s with integ := { s.integ with lastLim := NMap.put s.integ.lastLim cause s.now } }

/-! ### Event records (R256) -/

/-- An event that arises: queued, or counted as dropped where the queue is full or the ledger is disabled; nothing with
`CompletionEventEnable` OFF. One that concerns an entry carries its SEQ and USER_TAG (R254). -/
def State.event (s : State) (code seq : Nat) (detail : Nat) : State :=
  if s.isOn Obj.completionEventEnable then
    if s.ledger.enable && decide (s.ledger.events.length < 64) then
      { s with ledger := { s.ledger with events := s.ledger.events ++
          [{ phase := false, type := 1, code := code, rule := 0, sats := 0, seq := seq,
             tag := if code ≠ 0x01 then 0 else ((s.ledger.entries.find? fun e => e.seq == seq).map fun e => e.words.getD 1 0).getD 0,
             detail := BitVec.ofNat 64 detail, time := 0 }] } }
    else s.bump Obj.eventsDropped 1
  else s

/-! ### Departures from the ramp (R338) -/

/-- A departure: counted, and logged with its cause and the drop in watts. (DESIGN CHOICE, notes/assumptions/37.md). -/
def State.departure (s : State) (cause drop : Nat) : State :=
  (s.bump Obj.rampExceptionTotal 1).log 0x5002 sevError agentRegulators none (cause + drop % 2 ^ 32 * 2 ^ 32)

/-! ### Functions of R50 -/

/-- The number of a function in `State.funcs`. -/
def funcNo : Func → Nat
  | .tiering => 0
  | .scrub => 1
  | .tier2 p => 2 + p
  | .peer p => 4 + p
  | .domain c => 32 + c

/-- The state of a function. -/
def State.func (s : State) (f : Func) : FState := NMap.lookD s.funcs (funcNo f) .off

/-- The state with a function's state replaced. -/
def State.setFunc (s : State) (f : Func) (x : FState) : State := { s with funcs := NMap.put s.funcs (funcNo f) x }

/-- The code of a state of R50. -/
def FState.code : FState → Nat
  | .off => 0
  | .enabling => 1
  | .on => 2
  | .disabling => 3
  | .disablingEnableQueued => 4
  | .enablingDisableQueued => 5
  | .heldDown => 7

/-- May work run on a function in this state? ON, or on its way to ON or from it (R321, R50). -/
def FState.up : FState → Bool
  | .on => true
  | .enablingDisableQueued => true
  | .enabling => true
  | _ => false

/-! ### Tiles -/

/-- A tile nothing has used: the value of an unlisted logical tile. -/
def Tile.empty : Tile :=
  { alloc := none, splitKib := 0, blocks := [], l1 := [],
    matrix := { shape := none, queue := [], subs := [], banks := [], kept := [], change := none, cqueue := [], crun := none },
    halfPort := false, step := 0, thermal := 0, retune := false, satLog := none, deadLog := none }

/-- Logical tile `n`. -/
def State.tile (s : State) (n : Nat) : Tile := NMap.lookD s.tiles n Tile.empty

/-- The state with a logical tile replaced. -/
def State.setTile (s : State) (n : Nat) (t : Tile) : State := { s with tiles := NMap.put s.tiles n t }

/-- The state with a logical tile changed. -/
def State.adjTile (s : State) (n : Nat) (f : Tile → Tile) : State := s.setTile n (f (s.tile n))

/-- The half of a logical tile (R13, R24). -/
def State.halfOfTile (s : State) (n : Nat) : Nat := if n < Config.tilesPerHalf s.fuses.variant then 0 else 1

/-- The half of a physical tile; its row within the half (R12). -/
def physHalf (p : Nat) : Nat := p / 36
def physRow (p : Nat) : Nat := p % 36 / 6

/-- The domain code of a physical tile's row: 6 × half + row (R319). -/
def rowDomain (p : Nat) : Nat := 6 * physHalf p + physRow p

/-- Is a logical tile bound and not faulted? -/
def State.tileBound (s : State) (n : Nat) : Bool := NMap.has s.boot.binding n && !s.ledger.faultMask.contains n

end Sys2Proof.Machine
end

