-- ==== Sys2Proof/Machine/Blocks.lean ====
section
/-! DEFINITION. Entries, blocks, groups and paths: reading and changing them, and what a fault does: the log entries of
R138 and R307, the termination of R139 and R140, and the marking of a tile as faulted (R263). -/

set_option Elab.async false

namespace Sys2Proof.Machine

open Sys2Proof

/-! ### Entries -/

/-- Word `i` of an entry. -/
def Entry.word (e : Entry) (i : Nat) : W64 := e.words.getD i 0

/-- STEP_END, AFTER_ALL, PRIORITY, DEP0 and DEP1 of an entry (R246). -/
def Entry.stepEnd (e : Entry) : Bool := (e.word 0).getLsbD 27
def Entry.afterAll (e : Entry) : Bool := (e.word 0).getLsbD 26
def Entry.priority (e : Entry) : Nat := fld (e.word 0) 31 28
def Entry.deps (e : Entry) : List Nat :=
  [fld (e.word 0) 47 40, fld (e.word 0) 39 32].filter fun d => decide (d ≠ 0)

/-- The entry with a SEQ. -/
def State.entry (s : State) (seq : Nat) : Option Entry := s.ledger.entries.find? fun e => e.seq == seq

/-- The state with an entry changed. -/
def State.adjEntry (s : State) (seq : Nat) (f : Entry → Entry) : State :=
  { s with ledger := { s.ledger with entries := s.ledger.entries.map fun e => if e.seq = seq then f e else e } }

/-- The state with a kernel entry's kernel changed. -/
def State.adjKernel (s : State) (seq : Nat) (f : Kernel → Kernel) : State :=
  s.adjEntry seq fun e => { e with kern := e.kern.map f }

/-- Has the entry finished? -/
def Entry.isFinished (e : Entry) : Bool :=
  match e.status with
  | .finished _ _ _ => true
  | _ => false

/-- The entries that have finished and are not yet in the finishing order join it, the lowest SEQ first (R252). -/
def State.noteEnds (s : State) : State :=
  { s with ledger := { s.ledger with order := s.ledger.order ++
      ((s.ledger.entries.filter fun e => e.isFinished && !s.ledger.order.contains e.seq).map (·.seq)) } }

/-- An entry finishes with a status; the first outcome stays. (DEDUCED, notes/assumptions/43.md). -/
def State.finish (s : State) (seq status rule : Nat) (detail : Nat) : State :=
  (s.adjEntry seq fun e =>
    if e.isFinished then e else { e with status := .finished status rule (BitVec.ofNat 64 detail) }).noteEnds

/-- Status codes of R255. -/
def stOk : Nat := 0x00
def stFault : Nat := 0x01
def stMalformed : Nat := 0x02
def stCrc : Nat := 0x03
def stAliveRepeat : Nat := 0x04
def stAliveSkip : Nat := 0x05
def stDepFailed : Nat := 0x06
def stLaunchInvalid : Nat := 0x07
def stLaunchRule : Nat := 0x08
def stLaunchFit : Nat := 0x09
def stCoopCapacity : Nat := 0x0A
def stMapInvalid : Nat := 0x0B
def stMapOverlap : Nat := 0x0C
def stNoFrame : Nat := 0x0D
def stViolation : Nat := 0x0E
def stChannelHalt : Nat := 0x0F
def stHostAccess : Nat := 0x10
def stRuntimeLimit : Nat := 0x11
def stCancelled : Nat := 0x12

/-- Was the slot refused at intake (R245)? It is no accepted entry. -/
def Entry.refused (e : Entry) : Bool :=
  match e.status with
  | .finished st _ _ => decide (stMalformed ≤ st) && decide (st ≤ stAliveSkip)
  | _ => false

/-! ### Blocks and groups -/

/-- The block in a slot of a tile. -/
def State.block (s : State) (tile slot : Nat) : Option Block := (s.tile tile).blocks.find? fun b => b.slot == slot

/-- The resident block with a number of the model's own, wherever it is. -/
def State.blockByUid (s : State) (tile uid : Nat) : Option Block := (s.tile tile).blocks.find? fun b => b.uid == uid

/-- The state with the block in a slot changed. -/
def State.adjBlock (s : State) (tile slot : Nat) (f : Block → Block) : State :=
  s.adjTile tile fun t => { t with blocks := t.blocks.map fun b => if b.slot = slot then f b else b }

/-- The group of a reference. -/
def State.group (s : State) (g : GroupRef) : Option Group := (s.block g.tile g.slot).bind fun b => b.groups[g.group]?

/-- The state with a group changed. -/
def State.adjGroup (s : State) (g : GroupRef) (f : Group → Group) : State :=
  s.adjBlock g.tile g.slot fun b => { b with groups := adjAt b.groups g.group f }

/-- A group with nothing left to run. -/
def Group.dead (g : Group) : Group :=
  { g with regs := [], stack := [], exited := 0xFFFFFFFF, cur := none, loads := 0, fetchStop := false }

/-- The threads of a group that have not exited. -/
def Group.live (g : Group) : Nat := 32 - popCount g.exited.toNat 32

/-- The live threads of a block. -/
def Block.live (b : Block) : Nat := (b.groups.map Group.live).foldl (· + ·) 0

/-- Does a path wait for paths split from it? -/
def waitsFor (l : List Path) (p : Path) : Bool := l.any fun q => q.parent == some p.id

/-- Can a path run: neither parked nor waiting for paths split from it? -/
def Group.free (g : Group) (p : Path) : Bool := p.parked.isNone && !waitsFor g.stack p

/-- The path a group runs (R121, R122): the one it has begun, while it can run, else the first on its stack that can. -/
def Group.running (g : Group) : Option Path :=
  match g.stack.find? fun p => g.cur == some p.id && g.free p with
  | some p => some p
  | none => g.stack.find? g.free

/-- The group with its running path changed. -/
def Group.adjRunning (g : Group) (f : Path → Path) : Group :=
  match g.running with
  | none => g
  | some p => { g with stack := g.stack.map fun q => if q.id = p.id then f q else q }

/-- The stack without the paths that have ended: those whose mask is empty, and those that have reached their reconvergence PC; one that
waits for its children, or is parked, has not (R121). (DEDUCED, notes/assumptions/49.md). -/
def settle (l : List Path) : List Path :=
  l.filter fun p => waitsFor l p || p.parked.isSome || !(p.mask == 0 || p.rpc == some p.pc)

/-- The stack settled until nothing more ends: a path that ends may leave its parent able to end. -/
def settleAll : Nat → List Path → List Path
  | 0, l => l
  | n + 1, l => settleAll n (settle l)

/-- The group with ended paths removed, and its running path chosen. -/
def Group.settled (g : Group) : Group :=
  let h : Group := { g with stack := settleAll g.stack.length g.stack }
  { h with cur := h.running.map (·.id) }

/-- A PC moved on by one instruction. (DEDUCED, notes/assumptions/49.md). -/
def pcNext (pc : Nat) : Nat := (pc + 8) % 2 ^ 57

/-- The running path goes to the next instruction. -/
def Group.advance (g : Group) : Group := (g.adjRunning fun p => { p with pc := pcNext p.pc }).settled

/-- The state after a group's running path has gone to its next instruction. -/
def State.advanceGroup (s : State) (g : GroupRef) : State := s.adjGroup g Group.advance

/-- A register of a lane; an unlisted one reads 0 (R115). -/
def Group.reg (g : Group) (lane r : Nat) : RegVal := NMap.lookD g.regs (lane * 256 + r) { val := 0, mark := none }

/-- The group with a register of a lane written. -/
def Group.setReg (g : Group) (lane r : Nat) (v : RegVal) : Group :=
  { g with regs := if v.val = 0 && v.mark.isNone then NMap.del g.regs (lane * 256 + r)
                   else NMap.put g.regs (lane * 256 + r) v }

/-- A token of a block. -/
def Block.token (b : Block) (t : Nat) : Option Token := NMap.look b.tokens t

/-- Is any token of the block PENDING? -/
def Block.pendingTokens (b : Block) : Bool := b.tokens.any fun e => e.2 == Token.pending

/-! ### Faults of blocks (R138 to R140) -/

/-- The kernel's first fault, and no further dispatch of its blocks (R139, R140). -/
def State.noteFault (s : State) (seq code tile linear : Nat) : State :=
  s.adjKernel seq fun k =>
    { k with halted := true
             plan := []
             firstFault := if k.firstFault.isSome || code = 0x1B || code = 0x1C then k.firstFault
                           else some (code, tile, linear) }

/-- The counters a fault increases: those of R141 for the faults of R138. (DEDUCED, notes/assumptions/43.md). -/
def State.countFault (s : State) (code : Nat) : State :=
  let s := if 0x10 ≤ code && code ≤ 0x1C then s.bump Obj.execFaultTotal 1 else s
  let s := if code = 0x10 then s.bump Obj.barrierStallTotal 1 else s
  if code = 0x11 then s.bump Obj.partialGroupTotal 1 else s

/-- A block's matrix instructions and conversions that are queued and not dispatched are removed; their tokens are freed. -/
def Tile.unqueue (t : Tile) (uid : Nat) : Tile :=
  let gone := (t.matrix.queue.filter fun i => i.owner == uid).map (fun i => i.desc.token) ++
    (t.matrix.cqueue.filter fun i => i.owner == uid).map (fun i => i.token)
  { t with
    matrix := { t.matrix with
      queue := t.matrix.queue.filter fun i => !(i.owner == uid)
      cqueue := t.matrix.cqueue.filter fun i => !(i.owner == uid) }
    blocks := t.blocks.map fun b =>
      if b.uid = uid then { b with tokens := b.tokens.filter fun e => !gone.contains e.1 } else b }

/-- A block stops: its groups stop, its waiting loads and its queued work are dropped, and it exits once its tokens are done
(R139). -/
def State.stopBlock (s : State) (tile slot : Nat) (fault : Option Nat) : State :=
  match s.block tile slot with
  | none => s
  | some b =>
    let s := s.adjBlock tile slot fun b =>
      { b with groups := b.groups.map Group.dead, exiting := true, fault := fault, bars := [] }
    let s := s.adjTile tile fun t => t.unqueue b.uid
    { s with felt := { s.felt with waiting := s.felt.waiting.filter fun r =>
      !(r.uid == b.uid && (match r.kind with
        | .load _ _ _ => true
        | _ => false)) } }

/-- A block ends with a fault code (R139). -/
def State.endBlock (s : State) (tile slot code : Nat) : State :=
  match s.block tile slot with
  | none => s
  | some b => ((s.stopBlock tile slot (some code)).noteFault b.seq code tile b.linear).bump Obj.blocksTerminatedTotal 1

/-- A saved block's room in the save area (R261). -/
def Block.saveBytes (b : Block) : Nat := b.nregs * 128 * b.groups.length + b.scratchB

/-- Saved blocks without one of them; a cluster of which only ended blocks are left goes with it. -/
def withoutSaved (b : Block) (l : List Block) : List Block :=
  let l := l.filter fun x => !(x.uid == b.uid)
  l.filter fun x => !(x.seq == b.seq && x.cluster == b.cluster && x.ended) ||
    l.any fun y => y.seq == b.seq && y.cluster == b.cluster && !y.ended

/-- A saved block is terminated: its saved state is discarded (R139, R262). -/
def State.endSaved (s : State) (b : Block) (code : Nat) : State :=
  let l := withoutSaved b s.ledger.saved
  let s : State := { s with ledger := { s.ledger with saved := l, savedB := (l.map Block.saveBytes).foldl (· + ·) 0 } }
  (s.noteFault b.seq code b.tile b.linear).bump Obj.blocksTerminatedTotal 1

/-- The log entries and counters of a fault of a block's group. `addr` is the fault's address, `ctx` its further fields. -/
def State.reportFault (s : State) (b : Block) (group code : Nat) (addr : LogAddr) (pc : LogAddr) (ctx : Nat) : State :=
  (s.countFault code).logFault code b.tile addr (b.linear % 2 ^ 32 + group % 256 * 2 ^ 32) pc ctx

/-- Terminate with an abort fault every block of a list that still runs, resident or saved. -/
def State.abortBlocks (code ctx : Nat) : List Block → State → State
  | [], s => s
  | b :: l, s =>
    let s := s.reportFault b 0 code none none ctx
    let s := if s.ledger.saved.any (fun x => x.uid == b.uid) then s.endSaved b code else s.endBlock b.tile b.slot code
    State.abortBlocks code ctx l s

/-- Every resident block. -/
def State.residents (s : State) : List Block := s.tiles.flatMap fun t => t.2.blocks

/-- Blocks of an entry that still run, resident or saved. -/
def State.runningBlocks (s : State) (seq : Nat) : List Block :=
  (s.residents ++ s.ledger.saved).filter fun b => b.seq == seq && !b.exiting

/-- The further fields of a fault, 16 bits each, the first lowest (R307). -/
def ctxFields : List Nat → Nat
  | [] => 0
  | x :: l => x % 65536 + 65536 * ctxFields l

/-- A block's grid coordinates, X first: the launch's grid is in word 5 of its entry. -/
def State.gridCoords (s : State) (b : Block) : List Nat :=
  match s.entry b.seq with
  | none => [b.linear, 0, 0]
  | some e =>
    let x := max 1 (fld (e.word 5) 63 48)
    let y := max 1 (fld (e.word 5) 47 32)
    [b.linear % x, b.linear / x % y, b.linear / (x * y)]

/-- Terminate a block with a fault and abort the others of its cluster and of its COOP grid (R139). -/
def State.terminate (s : State) (b : Block) (code : Nat) : State :=
  let s := s.endBlock b.tile b.slot code
  let mates := (s.runningBlocks b.seq).filter fun x => !(x.uid == b.uid)
  if b.launch.coop then State.abortBlocks 0x1C (ctxFields (s.gridCoords b)) mates s
  else if 1 < b.clSize then State.abortBlocks 0x1B b.rank (mates.filter fun x => x.cluster == b.cluster) s
  else s

/-- A thread's fault: logged, counted, and its block terminated (R138, R139). -/
def State.threadFault (s : State) (g : GroupRef) (code : Nat) (addr : LogAddr) (ctx : Nat) : State :=
  match s.block g.tile g.slot with
  | none => s
  | some b =>
    let pc := ((b.groups[g.group]?).bind Group.running).map (fun p => (0, p.pc))
    (s.reportFault b g.group code addr pc ctx).terminate b code

/-- Fault codes of R138, R81 and R107. -/
def fDescMalformed : Nat := 0x01
def fFormatMismatch : Nat := 0x02
def fTokenBusy : Nat := 0x03
def fTokenRange : Nat := 0x04
def fWeightsAbsent : Nat := 0x05
def fScaleSkew : Nat := 0x06
def fAddress : Nat := 0x07
def fPoisonHalt : Nat := 0x08
def fTileFault : Nat := 0x09
def fCvtMalformed : Nat := 0x0A
def fCvtFormat : Nat := 0x0B
def fHistInvalid : Nat := 0x0C
def fBarrierStall : Nat := 0x10
def fPartialGroup : Nat := 0x11
def fReconvOverflow : Nat := 0x12
def fIllegal : Nat := 0x13
def fBarrierCount : Nat := 0x14
def fScratchRange : Nat := 0x15
def fClusterRange : Nat := 0x16
def fMisaligned : Nat := 0x17
def fPoisonTrap : Nat := 0x18
def fPoisonControl : Nat := 0x19
def fRegfileParity : Nat := 0x1A

/-- A poisoned register used as a control operand: the bite is logged and counted, and the block faults POISON_CONTROL
(R138, R294). A register has no address; the bite's is the PC of the instruction. (DEDUCED, notes/assumptions/79.md). -/
def State.poisonControl (s : State) (g : GroupRef) (lane r : Nat) : State :=
  let c := match s.group g with
    | some gr => ((gr.reg lane r).mark.map PoisonClass.code).getD 0
    | none => 0
  let pc : LogAddr := ((s.group g).bind Group.running).map fun p => (0, p.pc)
  ((s.bump Obj.poisonBiteTotal 1).log 0x4021 sevError g.tile pc c).threadFault g fPoisonControl none r

/-! ### Faulted tiles (R263) -/

/-- Entries that are not dispatched are cancelled up to and including the first STEP_END entry whose boundary has not been
taken; where none is accepted, later entries are cancelled as they come (R263). -/
def State.cancelStep (s : State) : State :=
  let hit (e : Entry) : Bool := match s.ledger.ends with
    | [] => true
    | n :: _ => decide (e.seq ≤ n)
  ({ s with ledger := { s.ledger with
      entries := s.ledger.entries.map fun e =>
        if hit e && e.status == EState.waiting then { e with status := .finished stCancelled 0 0 } else e
      cancelTo := s.ledger.ends.isEmpty || s.ledger.cancelTo
      faultPause := true } } : State).noteEnds

/-- Every instruction queued or running on a tile ends with TILE_FAULT: its token is DONE with that fault (R81). -/
def Tile.faultWork (t : Tile) : Tile :=
  let st := Token.done (0x80 + fTileFault)
  { t with
    matrix := Tile.empty.matrix
    blocks := t.blocks.map fun b => { b with tokens := b.tokens.map fun e => if e.2 = Token.pending then (e.1, st) else e } }

/-- The matrix instructions of a tile, and its conversions, queued or running: owner, token, descriptor offset, PC. -/
def Matrix.work (m : Matrix) : List (Nat × Nat × Nat × Nat) :=
  (m.queue ++ m.change.toList ++ m.kept ++ m.subs.flatMap fun a => a.queue).map fun i => (i.owner, i.desc.token, i.off, i.pc)
def Matrix.convWork (m : Matrix) : List (Nat × Nat × Nat × Nat) :=
  (m.crun.toList ++ m.cqueue).map fun i => (i.owner, i.token, i.off, i.pc)

/-- TILE_FAULT of each instruction of a list, logged and counted. -/
def State.logWork (tile counter : Nat) : List (Nat × Nat × Nat × Nat) → State → State
  | [], s => s
  | (uid, token, off, pc) :: l, s =>
    let lin := match s.blockByUid tile uid with
      | some b => b.linear
      | none => 0
    State.logWork tile counter l
      ((s.bump counter 1).logFault fTileFault tile none (lin % 2 ^ 32 + token % 256 * 2 ^ 32) (some (0, pc)) off)

/-- Each block of a list that still runs ends with TILE_FAULT. -/
def State.faultBlocks : List Block → State → State
  | [], s => s
  | b :: l, s =>
    State.faultBlocks l (if (s.blockByUid b.tile b.uid).any fun x => !x.exiting then
      (s.reportFault b 0 fTileFault none none 0).terminate b fTileFault else s)

/-- The state with the sleep state of a physical tile replaced. -/
def State.setSleep (s : State) (p : Nat) (x : Sleep) : State :=
  { s with thermal := { s.thermal with sleep := if x = .idle then NMap.del s.thermal.sleep p else NMap.put s.thermal.sleep p x } }

/-- A faulted tile is in Nap, unless its row is off (R352). -/
def State.napFaulted (s : State) (phys : Option Nat) : State :=
  match phys with
  | some p => match NMap.lookD s.thermal.sleep p .idle with
    | .idle => s.setSleep p .nap
    | .run => s.setSleep p .nap
    | _ => s
  | none => s

/-- A logical tile is marked faulted (R263, R385): its mask bit, the event and the log entry, the flash record, the end of
its work, and the cancellation that `DeterminismMode` = ON asks for. (DESIGN CHOICE, notes/assumptions/37.md). -/
def State.faultTile (s : State) (tile : Nat) : State :=
  if s.ledger.faultMask.contains tile then s else
  let phys := NMap.look s.boot.binding tile
  let s : State := { s with
    ledger := { s.ledger with faultMask := insertNat s.ledger.faultMask tile, autoReset := true
                              victims := s.ledger.victims.filter fun v => !(v.1 == tile) }
    boot := match phys with
      | some p => { s.boot with record := insertNat s.boot.record p }
      | none => s.boot
    det := { s.det with faultStep := s.det.step } }
  let s := (s.event 0x03 0 tile).log 0x4036 sevFatal tile none (phys.getD 0)
  let m := (s.tile tile).matrix
  let s := State.logWork tile Obj.convertFaultTotal m.convWork (State.logWork tile Obj.matrixFaultTotal m.work s)
  let s := s.adjTile tile Tile.faultWork
  let s := State.faultBlocks (s.tile tile).blocks s
  let s := s.adjTile tile fun t => { t with blocks := t.blocks.map fun b => { b with saving := false } }
  let s := s.napFaulted phys
  if s.isOn Obj.determinismMode then s.cancelStep else s

/-- A tile is marked faulted in service. Its draw falls, unless ballast on the other tiles takes it up: whether it does, and by
how much, is free (R338). -/
def State.faultService (s : State) (tile : Nat) : State :=
  if s.ledger.faultMask.contains tile then s else
  let n := s.dict.freeCount
  let t := s.drawn.faultTile tile
  if Config.freeBool n then t.departure 2 (Config.freeNat n) else t

end Sys2Proof.Machine
end

