-- ==== Sys2Proof/Machine/Formats.lean ====
section
/-! DEFINITION. Number formats (R87, R88), exact arithmetic on dyadic numbers, the roundings of R99 and R123, and the
FP32 operations of the thread-group units. -/

set_option Elab.async false

namespace Sys2Proof.Machine

open Sys2Proof

/-! ### Exact values -/

/-- A finite value: (−1)^neg × m × 2^e. -/
structure Dy where
  neg : Bool
  m   : Nat
  e   : Int
  deriving DecidableEq, Repr

/-- A floating value: NaN, an infinity, or a finite value, zeros keeping their sign. -/
inductive FVal where
  | nan
  | inf (neg : Bool)
  | fin (d : Dy)
  deriving DecidableEq, Repr

/-- Twice-to-the-power of an exponent that is known not to be negative. -/
def pow2 (e : Int) : Nat := 2 ^ e.toNat

/-- The value as a whole number of units of 2^u, for u not above the value's exponent. -/
def Dy.units (d : Dy) (u : Int) : Int :=
  let n : Int := Int.ofNat (d.m * pow2 (d.e - u))
  if d.neg then -n else n

/-- A value from a whole number of units of 2^u; `z` is the sign of a zero. -/
def dyOfInt (n u : Int) (z : Bool) : Dy :=
  { neg := if n = 0 then z else decide (n < 0), m := n.natAbs, e := u }

/-- The exact sum; a zero sum is −0 exactly when both are −0. -/
def Dy.add (a b : Dy) : Dy :=
  let u := min a.e b.e
  dyOfInt (a.units u + b.units u) u (a.neg && b.neg)

/-- The exact product. -/
def Dy.mul (a b : Dy) : Dy := { neg := a.neg != b.neg, m := a.m * b.m, e := a.e + b.e }

/-- The negation. -/
def Dy.negate (a : Dy) : Dy := { a with neg := !a.neg }

/-- Is |a| at most |b|? -/
def Dy.absLe (a b : Dy) : Bool :=
  let u := min a.e b.e
  decide (a.m * pow2 (a.e - u) ≤ b.m * pow2 (b.e - u))

/-- Is a at most b? -/
def Dy.le (a b : Dy) : Bool :=
  let u := min a.e b.e
  decide (a.units u ≤ b.units u)

/-- Is a below b? -/
def Dy.lt (a b : Dy) : Bool := !Dy.le b a

/-- The value 0, and 1. -/
def Dy.zero : Dy := { neg := false, m := 0, e := 0 }
def Dy.one : Dy := { neg := false, m := 1, e := 0 }

/-! ### Floating formats -/

/-- A floating format: exponent and mantissa widths, bias, and how its top codes read: 0 as IEEE, 1 as E4M3 (one NaN
code, no infinity), 2 all finite. -/
structure FFmt where
  eb   : Nat
  mb   : Nat
  bias : Int
  top  : Nat
  deriving DecidableEq, Repr

/-- The floating format of a code of R77, codes 0x0 to 0x7. -/
def ffmt (code : Nat) : FFmt :=
  if code = 0 then ⟨8, 23, 127, 0⟩ else if code = 1 then ⟨8, 7, 127, 0⟩ else if code = 2 then ⟨5, 10, 15, 0⟩
  else if code = 3 then ⟨4, 3, 7, 1⟩ else if code = 4 then ⟨5, 2, 15, 0⟩ else if code = 5 then ⟨3, 2, 3, 2⟩
  else if code = 6 then ⟨2, 3, 1, 2⟩ else ⟨2, 1, 1, 2⟩

/-- Bits of an element of a format of R77. -/
def fmtBits (code : Nat) : Nat :=
  [32, 16, 16, 8, 8, 6, 6, 4, 8, 4, 1, 32].getD code 32

/-- Is the format code floating? -/
def isFloatFmt (code : Nat) : Bool := decide (code ≤ 7)

/-- The value of a code of a floating format (R87). -/
def FFmt.decode (f : FFmt) (c : Nat) : FVal :=
  let m := c % 2 ^ f.mb
  let ex := c / 2 ^ f.mb % 2 ^ f.eb
  let neg := natBit c (f.eb + f.mb)
  let topE := 2 ^ f.eb - 1
  if f.top = 0 && ex == topE then (if m = 0 then .inf neg else .nan)
  else if f.top = 1 && ex == topE && m == 2 ^ f.mb - 1 then .nan
  else if ex = 0 then .fin ⟨neg, m, 1 - f.bias - f.mb⟩
  else .fin ⟨neg, 2 ^ f.mb + m, (ex : Int) - f.bias - f.mb⟩

/-- The largest finite code of a format, sign aside. -/
def FFmt.maxCode (f : FFmt) : Nat :=
  if f.top = 0 then (2 ^ f.eb - 1) * 2 ^ f.mb - 1
  else if f.top = 1 then 2 ^ (f.eb + f.mb) - 2
  else 2 ^ (f.eb + f.mb) - 1

/-- The code with a sign. -/
def FFmt.signed (f : FFmt) (neg : Bool) (c : Nat) : Nat := if neg then c + 2 ^ (f.eb + f.mb) else c

/-- The canonical NaN code (R87); a format without NaN has none, and 0 stands for it. -/
def FFmt.nanCode (f : FFmt) : Nat :=
  if f.top = 0 then (2 ^ f.eb - 1) * 2 ^ f.mb + 2 ^ (f.mb - 1)
  else if f.top = 1 then 2 ^ (f.eb + f.mb) - 1 else 0

/-- How a magnitude between two neighbours rounds: to nearest-even, or stochastically with a 16-bit draw (R99). -/
inductive RMode where
  | nearest
  | stoch (u : Nat)
  deriving DecidableEq, Repr

/-- `m / 2^sh` rounded to a whole number. -/
def roundShift (mode : RMode) (m sh : Nat) : Nat :=
  let q := m / 2 ^ sh
  let r := m % 2 ^ sh
  match mode with
  | .nearest =>
    if 2 ^ sh < 2 * r || (2 ^ sh == 2 * r && q % 2 == 1 && decide (0 < sh)) then q + 1 else q
  | .stoch u => if 2 ^ 16 ≤ r * 2 ^ 16 / 2 ^ sh + u then q + 1 else q

/-- A magnitude m × 2^e rounded to `p` significant bits with no place below 2^emin: whole number of units and the unit's
exponent. -/
def roundSig (mode : RMode) (m : Nat) (e : Int) (p : Nat) (emin : Int) : Nat × Int :=
  if m = 0 then (0, emin) else
  let u := max (e + (Nat.log2 m : Int) + 1 - (p : Int)) emin
  if u ≤ e then (m * pow2 (e - u), u) else (roundShift mode m (u - e).toNat, u)

/-- What rounding a finite value to a format gave: a code, or an overflow. -/
inductive Rounded where
  | code (c : Nat)
  | overflow
  deriving DecidableEq, Repr

/-- A finite magnitude rounded to a format, sign aside. -/
def FFmt.round (f : FFmt) (mode : RMode) (m : Nat) (e : Int) : Rounded :=
  let emin : Int := 1 - f.bias - f.mb
  let (q0, u0) := roundSig mode m e (f.mb + 1) emin
  let (q, u) := if q0 = 2 ^ (f.mb + 1) then (2 ^ f.mb, u0 + 1) else (q0, u0)
  if q < 2 ^ f.mb then .code q
  else
    let ex := u - emin + 1
    if ex < (2 ^ f.eb : Int) then
      let c := ex.toNat * 2 ^ f.mb + (q - 2 ^ f.mb)
      if c ≤ f.maxCode then .code c else .overflow
    else .overflow

/-- The code of a value rounded once to nearest-even, an overflow giving an infinity (FP32, BF16, FP16). -/
def FFmt.ofVal (f : FFmt) : FVal → Nat
  | .nan => f.nanCode
  | .inf n => f.signed n ((2 ^ f.eb - 1) * 2 ^ f.mb)
  | .fin d =>
    match f.round .nearest d.m d.e with
    | .code c => f.signed d.neg c
    | .overflow => f.signed d.neg ((2 ^ f.eb - 1) * 2 ^ f.mb)

/-- FP32. -/
def f32 : FFmt := ⟨8, 23, 127, 0⟩

/-- The value of a binary32 word, and the word of a value. -/
def f32Val (w : W32) : FVal := f32.decode w.toNat
def f32Of (v : FVal) : W32 := BitVec.ofNat 32 (f32.ofVal v)

/-- Words for NaN, the infinities, 1.0. -/
def f32NaN : W32 := 0x7FC00000
def f32PosInf : W32 := 0x7F800000
def f32NegInf : W32 := 0xFF800000
def f32One : W32 := 0x3F800000

/-! ### Arithmetic on floating values, before rounding -/

/-- The exact sum; NaN for +∞ and −∞. -/
def FVal.add : FVal → FVal → FVal
  | .nan, _ => .nan
  | _, .nan => .nan
  | .inf a, .inf b => if a = b then .inf a else .nan
  | .inf a, _ => .inf a
  | _, .inf b => .inf b
  | .fin a, .fin b => .fin (a.add b)

/-- The exact product; NaN for ∞ × 0. -/
def FVal.mul : FVal → FVal → FVal
  | .nan, _ => .nan
  | _, .nan => .nan
  | .inf a, .inf b => .inf (a != b)
  | .inf a, .fin b => if b.m = 0 then .nan else .inf (a != b.neg)
  | .fin a, .inf b => if a.m = 0 then .nan else .inf (a.neg != b)
  | .fin a, .fin b => .fin (a.mul b)

/-- The negation. -/
def FVal.negate : FVal → FVal
  | .nan => .nan
  | .inf a => .inf (!a)
  | .fin a => .fin a.negate

/-- Is a below b, neither a NaN? −0 and +0 are equal. -/
def FVal.lt : FVal → FVal → Bool
  | .nan, _ => false
  | _, .nan => false
  | .inf a, .inf b => a && !b
  | .inf a, .fin _ => a
  | .fin _, .inf b => !b
  | .fin a, .fin b => Dy.lt a b

/-- The sign of a value. -/
def FVal.sign : FVal → Bool
  | .nan => false
  | .inf a => a
  | .fin a => a.neg

/-- Maximum under R187: NaN if either is, +0 of the zeros. -/
def FVal.max (a b : FVal) : FVal :=
  if a = .nan || b = .nan then .nan else
  if FVal.lt a b then b else if FVal.lt b a then a else if a.sign then b else a

/-- Minimum under R187: NaN if either is, −0 of the zeros. -/
def FVal.min (a b : FVal) : FVal :=
  if a = .nan || b = .nan then .nan else
  if FVal.lt a b then a else if FVal.lt b a then b else if a.sign then a else b

/-- Whole square root, by bits from `2^n` down. -/
def isqrtBits : Nat → Nat → Nat → Nat
  | 0, v, r => if (r + 1) * (r + 1) ≤ v then r + 1 else r
  | n + 1, v, r =>
    let t := r + 2 ^ (n + 1)
    isqrtBits n v (if t * t ≤ v then t else r)

/-- ⌊√v⌋. -/
def isqrt (v : Nat) : Nat := isqrtBits (Nat.log2 v / 2 + 1) v 0

/-- a / b with 64 bits beyond a binary32's, the last a sticky bit; b is not 0. -/
def Dy.quot (a b : Dy) : Dy :=
  let sh := 96 + Nat.log2 b.m
  let n := a.m * 2 ^ sh
  { neg := a.neg != b.neg, m := 2 * (n / b.m) + (if n % b.m = 0 then 0 else 1), e := a.e - b.e - (sh : Int) - 1 }

/-- Division. -/
def FVal.div : FVal → FVal → FVal
  | .nan, _ => .nan
  | _, .nan => .nan
  | .inf _, .inf _ => .nan
  | .inf a, .fin b => .inf (a != b.neg)
  | .fin a, .inf b => .fin ⟨a.neg != b, 0, 0⟩
  | .fin a, .fin b =>
    if b.m = 0 then (if a.m = 0 then .nan else .inf (a.neg != b.neg))
    else if a.m = 0 then .fin ⟨a.neg != b.neg, 0, 0⟩ else .fin (a.quot b)

/-- √d with a sticky last bit, for d not negative. -/
def Dy.sqrtSticky (d : Dy) : Dy :=
  let odd := decide ((d.e - 128) % 2 ≠ 0)
  let n := d.m * 2 ^ (if odd then 129 else 128)
  let e2 := (d.e - (if odd then 129 else 128)) / 2
  let r := isqrt n
  { neg := false, m := 2 * r + (if r * r = n then 0 else 1), e := e2 - 1 }

/-- Square root: NaN below 0, −0 of −0. -/
def FVal.sqrt : FVal → FVal
  | .nan => .nan
  | .inf n => if n then .nan else .inf false
  | .fin d => if d.m = 0 then .fin d else if d.neg then .nan else .fin d.sqrtSticky

/-! ### The approximate operations of R123 -/

/-- 2^(2^−i) in units of 2^−160, for i from 1. -/
def exp2Root : Nat → Nat
  | 0 => 2 ^ 161
  | i + 1 => isqrt (exp2Root i * 2 ^ 160)

/-- The product of the roots of the set bits of a fraction of `n` bits, most significant first; units of 2^−160. `r` is the
root of the bit before. -/
def exp2Frac : Nat → Nat → Nat → Nat → Nat
  | 0, _, _, acc => acc
  | n + 1, f, r, acc =>
    let r' := isqrt (r * 2 ^ 160)
    exp2Frac n (f % 2 ^ n) r' (if natBit f n then acc * r' / 2 ^ 160 else acc)

/-- 2^d to some 120 bits, for |d| below 256. -/
def exp2Approx (d : Dy) : Dy :=
  let n : Int := if d.e < -120 then
      (if d.neg then -(Int.ofNat (d.m / pow2 (-120 - d.e))) else Int.ofNat (d.m / pow2 (-120 - d.e)))
    else d.units (-120)
  let i := n / (2 ^ 120 : Int)
  let f := (n % (2 ^ 120 : Int)).toNat
  { neg := false, m := exp2Frac 120 f (2 ^ 161) (2 ^ 160), e := i - 160 }

/-- `n` fraction bits of log2 of y in [1, 2), y in units of 2^−160. -/
def log2Frac : Nat → Nat → Nat → Nat
  | 0, _, acc => acc
  | n + 1, y, acc =>
    let z := y * y / 2 ^ 160
    if 2 ^ 161 ≤ z then log2Frac n (z / 2) (2 * acc + 1) else log2Frac n z (2 * acc)

/-- log2 of a positive value to some 120 bits after the point. -/
def log2Approx (d : Dy) : Dy :=
  let l := Nat.log2 d.m
  let y := d.m * 2 ^ 160 / 2 ^ l
  dyOfInt ((d.e + (l : Int)) * (2 ^ 120 : Int) + Int.ofNat (log2Frac 120 y 0)) (-120) false

/-- The place value of the last bit of a binary32 near a positive magnitude. -/
def f32Ulp (d : Dy) : Dy :=
  { neg := false, m := 1, e := max (d.e + (Nat.log2 d.m : Int) - 23) (-149) }

/-- A result within one unit in the last place of `a` (R123): the module's own result where it lies in that bound, else
the nearest. `c` is the module's result, a free value. (DESIGN CHOICE, notes/assumptions/52.md). -/
def within1 (a : Dy) (c : W32) : W32 :=
  match f32Val c with
  | .fin d => if Dy.absLe (d.add a.negate) (f32Ulp a) then c else f32Of (.fin a)
  | _ => f32Of (.fin a)

/-- A free result, NaN made canonical. -/
def canonNaN (w : W32) : W32 :=
  match f32Val w with
  | .nan => f32NaN
  | _ => w

/-- RCP, RSQ, EXP2 and LOG2 of a word, `code` 0 to 3: within one unit in the last place where the exact result lies in the
range of binary32, a free value where the spec states none. (DESIGN CHOICE, notes/assumptions/52.md). -/
def approxOp (code : Nat) (w : W32) : W32 :=
  let c := Config.fpOpen code w
  match f32Val w with
  | .nan => f32NaN
  | .inf _ => canonNaN c
  | .fin d =>
    if code = 0 then
      (if d.m = 0 then canonNaN c else
        let q := Dy.one.quot d
        if f32Val (f32Of (.fin q)) = .inf d.neg then canonNaN c else within1 q c)
    else if code = 1 then
      (if d.m = 0 || d.neg then canonNaN c else within1 (Dy.one.quot d.sqrtSticky) c)
    else if code = 2 then
      (if Dy.le ⟨false, 128, 0⟩ d || Dy.lt d ⟨true, 149, 0⟩ then canonNaN c else within1 (exp2Approx d) c)
    else
      (if d.m = 0 || d.neg then canonNaN c
       else
        let l := log2Approx d
        if l.m = 0 then
          -- log2 1 is 0 exactly
          within1 { neg := false, m := 0, e := -149 } c
        else within1 l c)

/-- The FP32 operations of R123 on words. -/
def fpOp (op : FpOp) (a b c : W32) : W32 :=
  match op with
  | .add => f32Of (FVal.add (f32Val a) (f32Val b))
  | .sub => f32Of (FVal.add (f32Val a) (FVal.negate (f32Val b)))
  | .mul => f32Of (FVal.mul (f32Val a) (f32Val b))
  | .fma => f32Of (FVal.add (FVal.mul (f32Val a) (f32Val b)) (f32Val c))
  | .div => f32Of (FVal.div (f32Val a) (f32Val b))
  | .sqrt => f32Of (FVal.sqrt (f32Val a))
  | .rcp => approxOp 0 a
  | .rsq => approxOp 1 a
  | .exp2 => approxOp 2 a
  | .log2 => approxOp 3 a

/-- How many source operands an operation reads. -/
def fpArity : FpOp → Nat
  | .add => 2
  | .sub => 2
  | .mul => 2
  | .fma => 3
  | .div => 2
  | _ => 1

/-! ### Integers -/

/-- A two's complement value of `n` bits. -/
def sInt (n c : Nat) : Int := if 2 ^ (n - 1) ≤ c % 2 ^ n then (c % 2 ^ n : Int) - (2 ^ n : Int) else (c % 2 ^ n : Int)

/-- An Int as a two's complement code of `n` bits. -/
def sCode (n : Nat) (v : Int) : Nat := (v % (2 ^ n : Int)).toNat

/-- INT32 saturation: the value and whether it saturated (R72, R187). -/
def sat32 (v : Int) : Int × Bool :=
  if v < -2147483648 then (-2147483648, true) else if 2147483647 < v then (2147483647, true) else (v, false)

/-- The exact value of a code of any format but INT1. -/
def fmtVal (fmt code : Nat) : FVal :=
  if isFloatFmt fmt then (ffmt fmt).decode code
  else
    let v := sInt (fmtBits fmt) code
    .fin { neg := decide (v < 0), m := v.natAbs, e := 0 }

/-! ### Element packing (R88) -/

/-- The bit offset of element `i` from the start of a row. -/
def eltBit (fmt i : Nat) : Nat := i * fmtBits fmt

/-- Bytes of a row of `n` elements. -/
def rowBytes (fmt n : Nat) : Nat := (n * fmtBits fmt + 7) / 8

/-- Element `i` of a row given as a number (the row's bytes, little-endian). -/
def eltOf (fmt : Nat) (row : Nat) (i : Nat) : Nat := row / 2 ^ eltBit fmt i % 2 ^ fmtBits fmt

/-- A row as a number from the codes of its elements. -/
def packRow (fmt : Nat) : List Nat → Nat
  | [] => 0
  | c :: cs => c + 2 ^ fmtBits fmt * packRow fmt cs

end Sys2Proof.Machine
end

