-- ==== Sys2Proof/Machine/Felt.lean ====
section
/-! DEFINITION. Memory below and at the home banks: translation and violations (R200 to R212), the tiers (R213 to R217,
R222, R295), the Felt banks with their line states (R169 to R194), closure and flush (R195 to R197), and the L1 parts
(R166). -/

set_option Elab.async false

namespace Sys2Proof.Machine

open Sys2Proof

/-! ### Addresses -/

/-- First address of the host-visible window (R200), and its page number. -/
def windowBase : Nat := 0x0100000000000000
def windowVpn : Nat := windowBase / 2 ^ 21

/-- Frames of a list of runs. -/
def runFrames (l : List (Nat × Nat)) : Nat := l.foldl (fun n r => n + r.2) 0

/-- The `i`-th frame of a list of runs, each taken from its highest frame down (R215: from the top of the space downwards).
(DEDUCED, notes/assumptions/56.md). -/
def runFrame : List (Nat × Nat) → Nat → Option Nat
  | [], _ => none
  | (f, n) :: l, i => if i < n then some (f + (n - 1 - i)) else runFrame l (i - n)

/-- HBM capacity in bytes (R24, R213). -/
def State.hbmBytes (s : State) : Nat := if s.fuses.variant = 2 then 576000000000 else 768000000000

/-- Whole frames in HBM (R213). -/
def State.hbmFrames (s : State) : Nat := s.hbmBytes / 2 ^ 21

/-- The implicit mapping of page `i` of the host-visible window (R216): WRITE, PIN, in HBM, zero until written.
(DEDUCED, notes/assumptions/54.md). -/
def windowPage (frame : Nat) : Page :=
  { write := true, tier := 0, pin := true, lost := false, frame := frame, destTier := 0, destFrame := 0,
    migrating := false, zeromask := 0xFFFFFFFF, touched := 0, heat := 0, migrations := 0, copied := 0,
    lastEnd := none, mig := none }

/-- The entry of a level, 3 to 1, that a page's address indexes: address bits [56:48], [47:39] and [38:30] (R202). -/
def tableKey (level vpn : Nat) : Nat := level * 2 ^ 40 + vpn / 512 ^ level

/-- Are the entries of levels 3, 2 and 1 on the way to a page's level-0 entry valid (R202)? -/
def State.walks (s : State) (vpn : Nat) : Bool := [3, 2, 1].all fun l => NMap.has s.mem.tables (tableKey l vpn)

/-- The page a walk of the four levels ends at: its level-0 entry, listed, or a page of the window as it was made.
(DEDUCED, notes/assumptions/54.md). -/
def State.page (s : State) (vpn : Nat) : Option Page :=
  if !s.walks vpn then none else
  match NMap.look s.mem.pages vpn with
  | some p => some p
  | none => if vpn < windowVpn then none else (runFrame s.mem.regions.window (vpn - windowVpn)).map windowPage

/-- Are both copies of a page's level-0 entry uncorrectable (R296)? -/
def State.tableLost (s : State) (vpn : Nat) : Bool := s.mem.badWest.contains vpn && s.mem.badEast.contains vpn

/-- The state with a page's entry and record replaced. -/
def State.setPage (s : State) (vpn : Nat) (p : Page) : State :=
  { s with mem := { s.mem with pages := NMap.put s.mem.pages vpn p } }

/-- Kinds of violations (R255). -/
def vOutside : Nat := 0
def vUnmapped : Nat := 1
def vWrite : Nat := 2

/-- Does an access violate R212, and in which kind? -/
def State.violationKind (s : State) (addr : Nat) (write : Bool) : Option Nat :=
  if 2 ^ 57 ≤ addr then some vOutside
  else if windowBase ≤ addr && decide (runFrames s.mem.regions.window * 2 ^ 21 ≤ addr - windowBase) then some vOutside
  else match s.page (addr / 2 ^ 21) with
    | none => some vUnmapped
    | some p => if s.tableLost (addr / 2 ^ 21) then some vUnmapped else if write && !p.write then some vWrite else none

/-- A violation is counted and logged (R212). -/
def State.violation (s : State) (addr agent kind : Nat) : State :=
  (s.bump Obj.translationFaultTotal 1).log 0x3101 sevError agent (some (0, addr % 2 ^ 57)) kind

/-! ### Bandwidth charges (R231, R240) -/

/-- A master is a class of R230 with an instance of it: class + 8 × instance. A tile's, the host port's, and those of a half. -/
def mTile (tile : Nat) : Nat := 1 + 8 * tile
def mHost : Nat := 2
def mColl (half : Nat) : Nat := 3 + 8 * half
def mTiering (half : Nat) : Nat := 4 + 8 * half
def mPeer (half : Nat) : Nat := 5 + 8 * half
def mScrub (half : Nat) : Nat := 6 + 8 * half

/-- One sector charged to a master at a target: a half unit of `BwBytes`, and 32 bytes served in the interval. -/
def State.charge1 (s : State) (target master : Nat) : State :=
  let cls := master % 8
  let key := Obj.bwBytes + target * 256 + (cls - 1)
  let hk := target * 8 + cls
  let served := NMap.upd s.bw.served (hk * 64 + master / 8) 0 fun n => n + 32
  if NMap.lookD s.bw.half hk 0 = 0 then
    { s with bw := { s.bw with
        half := NMap.put s.bw.half hk 1
        served := served } }
  else
    let c := s.counter key + 1
    let s : State := { s with bw := { s.bw with
      half := NMap.del s.bw.half hk
      served := served
      wrapped := if c = 2 ^ 48 then insertNat s.bw.wrapped key else s.bw.wrapped } }
    { s with dict := { s.dict with counters := NMap.put s.dict.counters key (c % 2 ^ 48) } }

/-- A sector charged at a target, and at code 7 for an HBM group. -/
def State.charge (s : State) (target master : Nat) : State :=
  let s := s.charge1 target master
  if 1 ≤ target && target ≤ 4 then s.charge1 7 master else s

/-- Present HBM stacks (R214, R24). -/
def State.stacks (s : State) : List Nat := (List.range 16).filter fun k => !Config.stackFused s.fuses.variant k

/-- The target of an HBM physical address: granules of 256 bytes rotate through the present stacks in ascending order. -/
def State.hbmTarget (s : State) (addr : Nat) : Nat :=
  let l := s.stacks
  1 + l.getD (addr / 256 % l.length) 0 / 4

/-! ### The tiers -/

/-- The marker of a poisoned sector on the second tier (R295). -/
def markerOf (c : PoisonClass) : SectorData :=
  bytesSector (List.replicate 30 0xA5 ++ [BitVec.ofNat 8 c.code, 0x5A])

/-- The class a sector's data marks, if it is a marker. -/
def markerClass (d : SectorData) : Option PoisonClass :=
  [PoisonClass.mem, .dead, .link, .xfer].find? fun c => markerOf c == d

/-- The two sectors of a 64-byte granule of a second-tier memory; marks are kept by granule number.
(DEDUCED, notes/assumptions/60.md). -/
def tierGranule (m : MarkedMem) (g : Nat) : SectorVal × SectorVal :=
  let a := bytesSector (Memory.readN m.bytes (g * 64) 32)
  let b := bytesSector (Memory.readN m.bytes (g * 64 + 32) 32)
  if NMap.has m.marks g then
    let ca := markerClass a
    let cb := markerClass b
    if ca.isNone && cb.isNone then (⟨a, some .mem⟩, ⟨b, some .mem⟩) else (⟨a, ca⟩, ⟨b, cb⟩)
  else (⟨a, none⟩, ⟨b, none⟩)

/-- A sector of a second-tier memory as a read returns it (R295). -/
def tierSector (m : MarkedMem) (n : Nat) : SectorVal :=
  let p := tierGranule m (n / 2)
  if n % 2 = 0 then p.1 else p.2

/-- A sector written to a second-tier memory: the 64-byte write carries the indication when either sector is poisoned, and
a poisoned sector goes as a marker (R295). -/
def tierSetSector (m : MarkedMem) (n : Nat) (v : SectorVal) : MarkedMem :=
  let p := tierGranule m (n / 2)
  let q := if n % 2 = 0 then (v, p.2) else (p.1, v)
  let dat (x : SectorVal) : SectorData := match x.mark with
    | some c => markerOf c
    | none => x.data
  { bytes := Memory.writeL m.bytes (n / 2 * 64) (sectorBytes (dat q.1) ++ sectorBytes (dat q.2))
    marks := if q.1.mark.isSome || q.2.mark.isSome then NMap.put m.marks (n / 2) ((orMark q.1.mark q.2.mark).getD .mem)
             else NMap.del m.marks (n / 2) }

/-- A sector of a tier: 0 HBM, 1 and 2 the second-tier ports. -/
def State.tierRead (s : State) (tier n : Nat) : SectorVal :=
  if tier = 0 then s.mem.hbm.sector n else if tier = 1 then tierSector s.mem.tier0 n else tierSector s.mem.tier1 n

/-- A range of granules put among those written since a scrub pass began, unless one range there covers it (R297). -/
def freshen (a b : Nat) (l : List (Nat × Nat)) : List (Nat × Nat) :=
  if l.any fun r => decide (r.1 ≤ a) && decide (b ≤ r.2) then l else (a, b) :: l

/-- The state with a sector of a tier written. -/
def State.tierWrite (s : State) (tier n : Nat) (v : SectorVal) : State :=
  if tier = 0 then { s with mem := { s.mem with
    hbm := s.mem.hbm.setSector n v
    fresh0 := freshen (n / 2) (n / 2 + 1) s.mem.fresh0
    fresh1 := freshen (n / 2) (n / 2 + 1) s.mem.fresh1 } }
  else if tier = 1 then { s with mem := { s.mem with tier0 := tierSetSector s.mem.tier0 n v } }
  else { s with mem := { s.mem with tier1 := tierSetSector s.mem.tier1 n v } }

/-- Bytes `[a, b)` of a memory zero and clean; `unit` is what its marks are numbered by. -/
def MarkedMem.zero (m : MarkedMem) (a b unit : Nat) : MarkedMem :=
  { bytes := Memory.clear m.bytes a b, marks := NMap.delRange m.marks (a / unit) (b / unit) }

/-- The state with bytes `[a, b)` of a tier zero. -/
def State.tierZero (s : State) (tier a b : Nat) : State :=
  if tier = 0 then { s with mem := { s.mem with
    hbm := s.mem.hbm.zero a b 32
    fresh0 := freshen (a / 64) (b / 64) s.mem.fresh0
    fresh1 := freshen (a / 64) (b / 64) s.mem.fresh1 } }
  else if tier = 1 then { s with mem := { s.mem with tier0 := s.mem.tier0.zero a b 64 } }
  else { s with mem := { s.mem with tier1 := s.mem.tier1.zero a b 64 } }

/-- The bandwidth target of a place of a tier. -/
def State.tierTarget (s : State) (tier addr : Nat) : Nat := if tier = 0 then s.hbmTarget addr else 4 + tier

/-- Is the tier a second-tier port whose link has dropped in service? -/
def State.tierDown (s : State) (tier : Nat) : Bool := decide (0 < tier) && s.iface.t2down.contains (tier - 1)

/-- One transfer between Felt and a page's tier: HEAT and TOUCHED (R218). -/
def Page.heated (p : Page) (sub : Nat) : Page :=
  { p with heat := min 65535 (p.heat + 1), touched := p.touched ||| (1#32 <<< sub) }

/-- Sector numbers: within the page, the subpage, and the physical sector in a frame. -/
def sectInPage (sn : Nat) : Nat := sn % 65536
def subOfSect (sn : Nat) : Nat := sn % 65536 / 2048
def physSect (frame sn : Nat) : Nat := frame * 65536 + sn % 65536

/-- A sector fetched from memory for a class (R211, R217, R222): a held or waiting write is what a fetch would find in the
way that keeps it. (DESIGN CHOICE, notes/assumptions/53.md). -/
def State.fetch (s : State) (sn cls : Nat) : State × SectorVal :=
  match s.page (sn / 65536) with
  | none => (s, { data := 0, mark := none })
  | some p =>
    if p.lost then (s.drawn, { data := Config.freeSector s.dict.freeCount, mark := some .link })
    else match (p.mig.bind fun m => (m.held.find? fun h => h.1 == sectInPage sn)).map (·.2.2), NMap.look s.mem.portWait sn with
      | some v, _ => (s, v)
      | none, some (_, v) => (s, v)
      | none, none =>
        if p.zeromask.getLsbD (subOfSect sn) then (s, { data := 0, mark := none })
        else
          let v := s.tierRead p.tier (physSect p.frame sn)
          let s := s.setPage (sn / 65536) (p.heated (subOfSect sn))
          let s := s.charge (s.tierTarget p.tier (physSect p.frame sn * 32)) cls
          (s.bump Obj.feltReadMissSectors 1, v)

/-- The subpage written with zeros in its tier and its ZEROMASK bit cleared, before its first write (R211). -/
def State.zeroFill (s : State) (vpn sub : Nat) (p : Page) (cls : Nat) : State × Page :=
  if p.zeromask.getLsbD sub then
    let a := p.frame * 2 ^ 21 + sub * 65536
    let s := s.tierZero p.tier a (a + 65536)
    let s := (List.range 2048).foldl (fun t i => t.charge (t.tierTarget p.tier (a + i * 32)) cls) s
    let p := { p with zeromask := p.zeromask &&& ~~~(1#32 <<< sub) }
    (s.setPage vpn p, p)
  else (s, p)

/-- A sector written to memory for a class: a write-back, a DEAD marker or a spill's install (R211, R217, R222). -/
def State.writeMem (s : State) (sn : Nat) (v : SectorVal) (cls : Nat) : State :=
  match s.page (sn / 65536) with
  | none => s
  | some p =>
    if p.lost then s.bump Obj.tier2WritesDiscarded 1
    else if s.tierDown p.tier then { s with mem := { s.mem with portWait := NMap.put s.mem.portWait sn (cls, v) } }
    else
      let sub := subOfSect sn
      let copying := p.migrating && (match p.mig with
        | some m => !m.flipped && m.copying == some sub
        | none => false)
      if copying then
        let p := { p with mig := p.mig.map fun m =>
          { m with held := (m.held.filter fun h => !(h.1 == sectInPage sn)) ++ [(sectInPage sn, cls, v)] } }
        (s.setPage (sn / 65536) p).bump Obj.writeHoldTotal 1
      else
        let (s, p) := s.zeroFill (sn / 65536) sub p cls
        let s := s.tierWrite p.tier (physSect p.frame sn) v
        let s := s.charge (s.tierTarget p.tier (physSect p.frame sn * 32)) cls
        let s := if p.migrating && p.copied.getLsbD sub then
            (s.tierWrite p.destTier (physSect p.destFrame sn) v).charge
              (s.tierTarget p.destTier (physSect p.destFrame sn * 32)) cls
          else s
        let s := s.setPage (sn / 65536) (p.heated sub)
        if v.mark = some .dead then s.bump Obj.deadMarkerWrites 1 else s.bump Obj.feltWritebackSectors 1

/-! ### Banks (R169 to R173) -/

/-- The home half of a line: the parity of bits 13, 21, 29 and 37 (R171). -/
def homeHalf (line : Nat) : Nat :=
  let a := line * 128
  (a / 2 ^ 13 + a / 2 ^ 21 + a / 2 ^ 29 + a / 2 ^ 37) % 2

/-- The hash index of a line (R172). -/
def hashIndex (line : Nat) : Nat :=
  let a := line * 128
  let f (lo n : Nat) : Nat := a / 2 ^ lo % 2 ^ n
  Nat.xor (Nat.xor (Nat.xor (Nat.xor (f 7 12) (f 19 12)) (f 31 12)) (f 43 12)) (f 55 2)

/-- The set of a line in its bank (R172). -/
def setOf (line : Nat) : Nat :=
  let a := line * 128
  Nat.xor (a / 2 ^ 19 % 2 ^ 11) (a / 2 ^ 30 % 2 ^ 11)

/-- Present banks of a half after a full reset. (DEDUCED, notes/assumptions/55.md). -/
def State.banksPerHalf (s : State) : Nat := 2 * Config.banksPerDie s.fuses.variant

/-- The banks of a half that are not retired. -/
def State.keptBanks (s : State) (half : Nat) : List Nat :=
  (List.range s.banksPerHalf).filter fun b => !s.felt.retired.contains (half, b / 4)

/-- The bank an entry of a half's bank map names (R172, R173). -/
def State.bankOfHash (s : State) (half h : Nat) : Nat :=
  match NMap.look s.felt.bankOver (half * 4096 + h) with
  | some b => b
  | none => h % s.banksPerHalf

/-- Half and bank of a line, as one number: half * 1024 + bank. -/
def State.bankOf (s : State) (line : Nat) : Nat :=
  homeHalf line * 1024 + s.bankOfHash (homeHalf line) (hashIndex line)

/-- Do requests for the line wait because its map entry has been reassigned and its group still retires (R198)? -/
def State.retiringHome (s : State) (line : Nat) : Bool := NMap.has s.felt.remapped (homeHalf line * 4096 + hashIndex line)

/-- Is ORDERED in force? -/
def State.ordered (s : State) : Bool := s.num Obj.reduceOrder == 0

/-- Ways reserved for reduction buffers, and pin ways (R178). -/
def State.bufferWays (s : State) : Nat := if s.ordered then s.num Obj.reduceBufferLines / 128 else 0
def State.pinWays (s : State) : Nat := s.num Obj.feltPinWays

/-- The eight ranges of a BLOB of 128 bytes: base and length (R199). -/
def rangesOf (b : Bytes) : List (Nat × Nat) :=
  (List.range 8).map fun i => (leNat ((b.drop (16 * i)).take 8), leNat ((b.drop (16 * i + 8)).take 8))

/-- Does a range of the BLOB hold the address? -/
def inRanges (b : Bytes) (addr : Nat) : Bool :=
  (rangesOf b).any fun r => decide (r.1 ≤ addr) && decide (addr < r.1 + r.2)

/-- May a line use a way? -/
def State.wayAllowed (s : State) (line way : Nat) : Bool :=
  let top := 16 - s.bufferWays
  let low := top - s.pinWays
  if 0 < s.pinWays && inRanges (s.value Obj.feltPinRange) (line * 128) then decide (low ≤ way) && decide (way < top)
  else decide (way < low)

/-- The lines of a set. -/
def State.setLines (s : State) (line : Nat) : List (Nat × FLine) :=
  s.felt.lines.filter fun e => setOf e.1 == setOf line && s.bankOf e.1 == s.bankOf line

/-- May a line be a victim? Not while it is Reduce-busy or has a fetch in flight (R178). -/
def FLine.evictable (l : FLine) : Bool := l.red.isNone && !(l.sectors.any fun x => x.fetching)

/-! ### Tree pseudo-LRU over 16 ways -/

/-- The victim way below a node of depth `d`, among the ways with `ok`: the bit says which side is older. -/
def plruPick (t : BitVec 15) (ok : Nat → Bool) : Nat → Nat → Nat → Nat
  | 0, _, lo => lo
  | d + 1, node, lo =>
    let half := 2 ^ d
    let left := (List.range half).any fun i => ok (lo + i)
    let right := (List.range half).any fun i => ok (lo + half + i)
    let goRight := if left && right then t.getLsbD node else right
    if goRight then plruPick t ok d (2 * node + 2) (lo + half) else plruPick t ok d (2 * node + 1) lo

/-- The tree after an access to a way: every node on its path points away from it. -/
def plruTouch (way : Nat) : Nat → Nat → Nat → BitVec 15 → BitVec 15
  | 0, _, _, t => t
  | d + 1, node, lo, t =>
    if way < lo + 2 ^ d then plruTouch way d (2 * node + 1) lo (t ||| (1#15 <<< node))
    else plruTouch way d (2 * node + 2) (lo + 2 ^ d) (t &&& ~~~(1#15 <<< node))

/-- The tree's number. -/
def State.plruKey (s : State) (line : Nat) : Nat := s.bankOf line * 2048 + setOf line

/-- An access to a line's way recorded in its set's tree. -/
def State.touch (s : State) (line : Nat) : State :=
  match NMap.look s.felt.lines line with
  | none => s
  | some l => { s with felt := { s.felt with
      plru := NMap.upd s.felt.plru (s.plruKey line) 0 (plruTouch l.way 4 0 0) } }

/-! ### Lines -/

/-- A sector that is not present. -/
def FSector.absent : FSector := { present := false, dirty := false, fetching := false, master := 0, val := { data := 0, mark := none } }

/-- A sector with the DEAD mark. -/
def FSector.dead : FSector := { present := true, dirty := true, fetching := false, master := 0, val := { data := 0, mark := some .dead } }

/-- The state with a line written to its map. -/
def State.setLine (s : State) (line : Nat) (l : FLine) : State :=
  { s with felt := { s.felt with lines := NMap.put s.felt.lines line l } }

/-- The state with a line's way freed. -/
def State.delLine (s : State) (line : Nat) : State :=
  { s with felt := { s.felt with lines := NMap.del s.felt.lines line } }

/-- The dirty sectors of a line written back for a class (R179). -/
def State.writeBack (s : State) (line : Nat) (l : FLine) (cls : Nat) : State :=
  (List.range 4).foldl (fun t i =>
    match l.sectors[i]? with
    | some x => if x.present && x.dirty then t.writeMem (line * 4 + i) x.val cls else t
    | none => t) s

/-- One Reduce-busy line of the list with the oldest first contribution is marked deferred, unless one is already (R192). -/
def State.deferOldest (s : State) (l : List (Nat × FLine)) : State :=
  let busy := l.filter fun e => e.2.red.isSome
  if busy.any (fun e => match e.2.red with
      | some r => r.deferred
      | none => false) then s
  else
    let old := busy.foldl (fun (b : Option (Nat × FLine)) e =>
      match b with
      | none => some e
      | some c => if ((e.2.red.map (·.order)).getD 0) < ((c.2.red.map (·.order)).getD 0) then some e else some c) none
    match old with
    | none => s
    | some (n, f) =>
      (s.setLine n { f with red := f.red.map fun r => { r with deferred := true } }).bump Obj.evictDeferTotal 1

/-- What stays of an attempt `t` that must wait, in the state `s` before it: the mark of the Reduce-busy lines it deferred (R192). -/
def State.keepDefer (s t : State) : State :=
  t.felt.lines.foldl (fun (u : State) e =>
    match e.2.red, NMap.look u.felt.lines e.1 with
    | some r, some f =>
      match f.red with
      | some r0 =>
        if r.deferred && !r0.deferred then
          (u.setLine e.1 { f with red := some { r0 with deferred := true } }).bump Obj.evictDeferTotal 1
        else u
      | none => u
    | _, _ => u) s

/-- A way for a line: a free one, or a victim's after its eviction; none where no way is eligible, and then a Reduce-busy
line of the set is marked deferred (R178, R192). -/
def State.findWay (s : State) (line cls : Nat) : State × Option Nat :=
  let lines := s.setLines line
  let ways := (List.range 16).filter fun w => s.wayAllowed line w
  match ways.find? fun w => !(lines.any fun e => e.2.way == w) with
  | some w => (s, some w)
  | none =>
    let ok (w : Nat) : Bool := ways.contains w && lines.any fun e => e.2.way == w && e.2.evictable
    if ways.any ok then
      let w := plruPick (NMap.lookD s.felt.plru (s.plruKey line) 0) ok 4 0 0
      match lines.find? fun e => e.2.way == w with
      | some (n, l) => ((s.writeBack n l cls).delLine n, some w)
      | none => (s, some w)
    else (s.deferOldest lines, none)

/-- A way allocated for a line with sectors as given. -/
def State.allocate (s : State) (line cls : Nat) (sectors : List FSector) : State × Bool :=
  match s.findWay line cls with
  | (s, none) => (s, false)
  | (s, some w) =>
    let wr := match s.page (line / 16384) with
      | some p => p.write
      | none => false
    (s.setLine line { way := w, write := wr, sectors := sectors, red := none }, true)

/-! ### Translation caches (R205) -/

/-- Does a half's translation cache hold a page's entry? -/
def State.tlbHit (s : State) (half vpn : Nat) : Bool :=
  if half = 0 then s.mem.tlb0.contains vpn else s.mem.tlb1.contains vpn

/-- A cache of 1,024 sets of 8 entries after an access, most recent first. (DEDUCED, notes/assumptions/55.md). -/
def tlbTouch (l : List Nat) (vpn : Nat) : List Nat :=
  let l := vpn :: l.filter fun v => !(v == vpn)
  let same := l.filter fun v => v % 1024 == vpn % 1024
  if 8 < same.length then l.filter fun v => !(same.drop 8).contains v else l

/-- A page's entry put into a half's translation cache. -/
def State.tlbFill (s : State) (half vpn : Nat) : State :=
  if half = 0 then { s with mem := { s.mem with tlb0 := tlbTouch s.mem.tlb0 vpn } }
  else { s with mem := { s.mem with tlb1 := tlbTouch s.mem.tlb1 vpn } }

/-- Does a half's walk cache of 256 entries hold a page's level-1 entry? -/
def State.walkHit (s : State) (half vpn : Nat) : Bool :=
  if half = 0 then s.mem.walk0.contains (vpn / 512) else s.mem.walk1.contains (vpn / 512)

/-- A page's level-1 entry put into a half's walk cache, the least recently used displaced. (DEDUCED, notes/assumptions/55.md). -/
def State.walkFill (s : State) (half vpn : Nat) : State :=
  let put (l : List Nat) : List Nat := ((vpn / 512) :: l.filter fun v => !(v == vpn / 512)).take 256
  if half = 0 then { s with mem := { s.mem with walk0 := put s.mem.walk0 } }
  else { s with mem := { s.mem with walk1 := put s.mem.walk1 } }

/-- A translation made on the way of a request that does not wait for it: a miss is walked and counted. -/
def State.translate (s : State) (half vpn : Nat) : State :=
  if s.tlbHit half vpn then s.tlbFill half vpn else ((s.tlbFill half vpn).walkFill half vpn).bump Obj.walkTotal 1

/-! ### Dead lines (R182 to R184) -/

/-- A read of a DEAD sector: counted, and logged at most once per logical tile per millisecond (R184).
(DESIGN CHOICE, notes/assumptions/53.md). -/
def State.deadRead (s : State) (agent addr : Nat) : State :=
  let s := s.bump Obj.deadReadTotal 1
  if s.limitOpen (0x300100 + agent) ticksPerMs then
    (s.limitMark (0x300100 + agent)).log 0x3001 sevError agent (some (0, addr)) 0
  else s.bump Obj.deadReadLogSuppressed 1

/-- DEAD markers written to a line's four sectors in memory for the SCRUB class. -/
def State.deadMarkers (s : State) (line : Nat) : State :=
  (List.range 4).foldl (fun t i => t.writeMem (line * 4 + i) { data := 0, mark := some .dead } (mScrub (homeHalf line))) s

/-- A dead tag freed. -/
def State.undead (s : State) (line : Nat) : State :=
  { s with felt := { s.felt with dead := s.felt.dead.filter fun n => !(n == line) } }

/-- A line becomes Dead: a new tag, the bank's oldest displaced where its store of 8,192 is full (R183). -/
def State.makeDead (s : State) (line : Nat) : State :=
  let mine := s.felt.dead.filter fun n => s.bankOf n == s.bankOf line
  let s := if 8192 ≤ mine.length then
      match mine.head? with
      | some n => (s.deadMarkers n).undead n
      | none => s
    else s
  { s with felt := { s.felt with dead := s.felt.dead ++ [line] } }

/-! ### Reads at a bank -/

/-- Does the bundle of a line's bank group stop for a spare (R302)? Bank-group bundles are numbered from 0x8000 on. -/
def State.bundleStopped (s : State) (line : Nat) : Bool :=
  s.integ.stopped.contains (0x8000 + 0x1000 * homeHalf line + s.bankOf line % 1024 / 4)

/-- Does a bundle of a master's port stop for a spare (R302)? A tile's port has the bundles from 128 × physical tile on. -/
def State.portStopped (s : State) (master : Nat) : Bool :=
  master % 8 == 1 && (match NMap.look s.boot.binding (master / 8) with
    | some p => s.integ.stopped.any fun k => decide (k < 0x8000) && k / 128 == p
    | none => false)

/-- May a request be served at a line's bank now? Not while banks do not accept requests, its group retires, its group's bundle stops, or
an ORDERED reduction collects (R181, R198, R302, R391). -/
def State.bankOpen (s : State) (line : Nat) : Bool :=
  s.felt.accepts && !s.retiringHome line && !s.bundleStopped line && !NMap.has s.felt.spilled line &&
    (match NMap.look s.felt.lines line with
     | some l => l.red.isNone
     | none => true)

/-- Can a sector be had without waiting for a link that is down? -/
def State.fetchable (s : State) (sn : Nat) : Bool :=
  match s.page (sn / 65536) with
  | some p => p.lost || !s.tierDown p.tier || p.zeromask.getLsbD (subOfSect sn)
  | none => true

/-- Data a reader of a sector gets: that of a DEAD sector is open (R184). -/
def State.delivered (s : State) (agent addr : Nat) (v : SectorVal) : State × SectorVal :=
  if v.mark = some .dead then
    ((s.deadRead agent addr).drawn, { v with data := Config.freeSector s.dict.freeCount })
  else (s, v)

/-- The sectors of a line with sector `i` present and clean. -/
def filled (l : FLine) (i : Nat) (v : SectorVal) : FLine :=
  { l with sectors := adjAt l.sectors i fun _ => { present := true, dirty := false, fetching := false, master := 0, val := v } }

/-- The four sectors of a new line. -/
def absent4 : List FSector := List.replicate 4 FSector.absent

/-- Is a sector of the line being fetched? -/
def FLine.fetchingAny (l : FLine) : Bool := l.sectors.any fun x => x.fetching

/-- A sector read served by its bank: counted, charged, and touched. `FeltReadHitSectors` counts every read a bank serves, that of a
sector it has just fetched too. (DEDUCED, notes/assumptions/53.md). -/
def State.sectorServed (s : State) (sn cls agent : Nat) (v : SectorVal) : State × SectorVal :=
  (((s.charge 0 cls).bump Obj.feltReadHitSectors 1).touch (sn / 4)).delivered agent (sn * 32) v

/-- An absent sector of a line that has a way, fetched and read. -/
def State.fetchRead (s : State) (sn cls agent : Nat) : State × Option SectorVal :=
  let s := s.translate (homeHalf (sn / 4)) (sn / 65536)
  let (s, v) := s.fetch sn cls
  match NMap.look s.felt.lines (sn / 4) with
  | none => (s, none)
  | some l =>
    let r := (s.setLine (sn / 4) (filled l (sn % 4) v)).sectorServed sn cls agent v
    (r.1, some r.2)

/-- A read of a sector at its bank for an engine, with every fetch made at once; none where the request must wait: also for a fetch of
the sector that is in flight (R176). -/
def State.bankRead (s : State) (sn cls agent : Nat) : State × Option SectorVal :=
  let line := sn / 4
  if !s.bankOpen line || s.portStopped cls then (s, none) else
  if s.felt.dead.contains line then
    let r := s.sectorServed sn cls agent { data := 0, mark := some .dead }
    (r.1, some r.2)
  else
    match NMap.look s.felt.lines line with
    | some l =>
      match l.sectors[sn % 4]? with
      | some x =>
        if x.present then
          let r := s.sectorServed sn cls agent x.val
          (r.1, some r.2)
        else if x.fetching || !s.fetchable sn then (s, none)
        else s.fetchRead sn cls agent
      | none => (s, none)
    | none =>
      if !s.fetchable sn then (s, none) else
      match s.allocate line cls absent4 with
      | (s, false) => (s, none)
      | (s, true) => s.fetchRead sn cls agent

/-! ### Writes at a bank (R177) -/

/-- A sector after a store of bytes at an offset (R177, R292): a whole sector takes the stored mark; a partial store leaves
a MEM, LINK or XFER mark, clears DEAD, and the bytes of a DEAD sector it does not write read as zero. -/
def storedSector (old : SectorVal) (off : Nat) (bs : Bytes) (mark : Option PoisonClass) : SectorVal :=
  if bs.length = 32 then { data := bytesSector bs, mark := mark }
  else
    let base := if old.mark = some .dead then List.replicate 32 0 else sectorBytes old.data
    { data := bytesSector (base.take off ++ bs ++ base.drop (off + bs.length))
      mark := match old.mark with
        | none => mark
        | some .dead => mark
        | some c => some c }

/-- A line with a way and the four sectors a store finds: a Dead line comes back with every sector DEAD. -/
def State.lineForStore (s : State) (line cls : Nat) : State × Option FLine :=
  match NMap.look s.felt.lines line with
  | some l => (s, some l)
  | none =>
    let wasDead := s.felt.dead.contains line
    let s := s.translate (homeHalf line) (line / 16384)
    match s.allocate line cls (if wasDead then List.replicate 4 FSector.dead else absent4) with
    | (s, false) => (s, none)
    | (s, true) => let s := if wasDead then s.undead line else s
                   (s, NMap.look s.felt.lines line)

/-- A sector counted among those stored since the scrub pass began (R297). -/
def State.stored (s : State) (sn : Nat) : State :=
  if s.felt.fresh.contains sn then s else { s with felt := { s.felt with fresh := insertNat s.felt.fresh sn } }

/-- A store of bytes within one sector, performed at its home bank; false where it must wait. -/
def State.bankStore (s : State) (sn off : Nat) (bs : Bytes) (mark : Option PoisonClass) (cls : Nat) : State × Bool :=
  let line := sn / 4
  let i := sn % 4
  if !s.bankOpen line || s.portStopped cls then (s, false) else
  match s.lineForStore line cls with
  | (s, none) => (s, false)
  | (s, some l) =>
    match l.sectors[i]? with
    | none => (s, false)
    | some x =>
      if x.fetching || (!x.present && decide (bs.length < 32) && !s.fetchable sn) then (s, false) else
      let (s, old) := if x.present || bs.length = 32 then (s, x.val) else
        let (s, v) := s.fetch sn cls
        (s, v)
      let v := storedSector old off bs mark
      let l : FLine := { l with sectors := adjAt l.sectors i fun _ =>
        { present := true, dirty := true, fetching := false, master := 0, val := v } }
      ((((s.setLine line l).stored sn).touch line).charge 0 cls, true)

/-- A drop of a line (R160, R181); false where it must wait, also for a fetch of the line that is in flight. -/
def State.bankDrop (s : State) (line : Nat) : State × Bool :=
  if !s.bankOpen line || ((NMap.look s.felt.lines line).map FLine.fetchingAny).getD false then (s, false)
  else if s.felt.dead.contains line then (s, true)
  else (((s.delLine line).makeDead line).bump Obj.deadDropTotal 1, true)

/-! ### Reductions (R186 to R195) -/

/-- The identity word of an operation of R186; a BF16 operation's word holds two. -/
def redIdentity (rop : Nat) : W32 :=
  [0x80000000, 0x80008000, 0, 0xFF800000, 0x7F800000, 0xFF80FF80, 0x7F807F80, 0x80000000, 0x7FFFFFFF].getD rop 0

/-- BF16. -/
def bf16 : FFmt := ⟨8, 7, 127, 0⟩

/-- A BF16 operation on the two halves of a word. -/
def onHalves (f : FVal → FVal → FVal) (a b : W32) : W32 :=
  let h (sh : Nat) : Nat := bf16.ofVal (f (bf16.decode (a.toNat / 2 ^ sh % 65536)) (bf16.decode (b.toNat / 2 ^ sh % 65536)))
  BitVec.ofNat 32 (h 0 + 65536 * h 16)

/-- Two words combined (R187), and whether an INT32 sum saturated. -/
def redOp (rop : Nat) (a b : W32) : W32 × Bool :=
  if rop = 0 then (f32Of (FVal.add (f32Val a) (f32Val b)), false)
  else if rop = 1 then (onHalves FVal.add a b, false)
  else if rop = 2 then
    let r := sat32 (a.toInt + b.toInt)
    (BitVec.ofInt 32 r.1, r.2)
  else if rop = 3 then (f32Of (FVal.max (f32Val a) (f32Val b)), false)
  else if rop = 4 then (f32Of (FVal.min (f32Val a) (f32Val b)), false)
  else if rop = 5 then (onHalves FVal.max a b, false)
  else if rop = 6 then (onHalves FVal.min a b, false)
  else if rop = 7 then (if a.toInt < b.toInt then b else a, false)
  else (if b.toInt < a.toInt then b else a, false)

/-- Two lists of words combined word by word, and how many INT32 sums saturated. -/
def redWords (rop : Nat) : List W32 → List W32 → List W32 × Nat
  | a :: as, b :: bs =>
    let r := redOp rop a b
    let rest := redWords rop as bs
    (r.1 :: rest.1, rest.2 + bit01 r.2)
  | _, _ => ([], 0)

/-- One level of the tree of R188, and its saturations. -/
def redLevel (rop : Nat) : List (List W32) → List (List W32) × Nat
  | a :: b :: l =>
    let r := redWords rop a b
    let rest := redLevel rop l
    (r.1 :: rest.1, rest.2 + r.2)
  | [a] => ([a], 0)
  | [] => ([], 0)

/-- The tree of R188. -/
def redTree (rop : Nat) : Nat → List (List W32) → List W32 × Nat
  | 0, v => (v.headD [], 0)
  | n + 1, v =>
    if v.length ≤ 1 then (v.headD [], 0)
    else
      let r := redLevel rop v
      let rest := redTree rop n r.1
      (rest.1, rest.2 + r.2)

/-- The 32 words of a line's four sectors, and the sectors of 32 words. -/
def lineWords (l : List SectorVal) : List W32 :=
  l.flatMap fun v => (chunksN 4 8 (sectorBytes v.data)).map fun c => BitVec.ofNat 32 (leNat c)
def wordsSector (ws : List W32) : SectorData := bytesSector (ws.flatMap fun w => natLE 4 w.toNat)
def wordsLine (ws : List W32) (marks : List (Option PoisonClass)) : List SectorVal :=
  (List.range 4).map fun i => { data := wordsSector ((ws.drop (8 * i)).take 8), mark := marks.getD i none }

/-- The result of a reduction over its base (R187, R188): a slot that has not arrived holds the identity; every sector is
XFER where the reduction failed or is closed. -/
def reduceResult (base : List SectorVal) (r : Reduce) (xfer : Bool) : List SectorVal × Nat :=
  let n := r.count
  let slot (i : Nat) : List W32 := match NMap.look r.slots i with
    | some d => lineWords d
    | none => List.replicate 32 (redIdentity r.rop)
  let t := redTree r.rop 5 ((List.range n).map slot)
  let f := redWords r.rop (lineWords base) t.1
  let mark (i : Nat) : Option PoisonClass :=
    if xfer || r.failed then some .xfer
    else firstMark (((base[i]?).bind (·.mark)) :: (List.range n).map fun k =>
      ((NMap.look r.slots k).bind fun d => d[i]?).bind (·.mark))
  (wordsLine f.1 ((List.range 4).map mark), t.2 + f.2)

/-- A line Dirty in all four sectors with the values given. -/
def dirtyLine (l : FLine) (vs : List SectorVal) : FLine :=
  { l with red := none, sectors := vs.map fun v => { present := true, dirty := true, fetching := false, master := 0, val := v } }

/-- A mismatched contribution is discarded and the reduction fails, counted once (R189). -/
def State.mismatch (s : State) (line idx count rop agent : Nat) (already : Bool) : State :=
  let s := s.log 0x3002 sevError agent (some (0, line * 128)) (idx + count * 16 + rop * 256)
  if already then s else s.bump Obj.reduceFailTotal 1

/-- Does a contribution fit a reduction (R189)? -/
def Reduce.fits (r : Reduce) (rop idx count : Nat) : Bool :=
  decide (idx < count) && r.rop == rop && r.count == count && !NMap.has r.slots idx

/-- Has every expected contributor arrived? -/
def Reduce.isFull (r : Reduce) : Bool := r.slots.length == r.count

/-- A Reduce-busy line that has its last contribution is combined (R188). -/
def State.combine (s : State) (line : Nat) (l : FLine) (r : Reduce) : State :=
  let res := reduceResult (l.sectors.map (·.val)) r false
  ((s.setLine line (dirtyLine l res.1)).bump Obj.reduceSatTotal res.2).bump Obj.reduceCompleteTotal 1

/-- All four sectors of a line present, fetched where absent; none where a fetch must wait. -/
def State.fillLine (s : State) (line cls : Nat) : State × Bool :=
  (List.range 4).foldl (fun (t, ok) i =>
    if !ok then (t, ok) else
    match NMap.look t.felt.lines line with
    | none => (t, false)
    | some l =>
      match l.sectors[i]? with
      | none => (t, false)
      | some x =>
        if x.present then (t, true)
        else if x.fetching || !t.fetchable (line * 4 + i) then (t, false)
        else
          let (t, v) := t.fetch (line * 4 + i) cls
          (t.setLine line (filled l i v), true)) (s, true)

/-- The sectors an ORDERED or ARRIVAL contribution charges at Felt (R231). -/
def State.charge4 (s : State) (cls : Nat) : State := (List.range 4).foldl (fun t _ => t.charge 0 cls) s

/-! ### Spill records (R193) -/

/-- The HBM physical address of byte `i` of a record of a half: H0's share lies first in the area. -/
def State.recordAddr (s : State) (half rec i : Nat) : Option Nat :=
  let a := half * (runFrames s.mem.regions.spill * 2 ^ 21 / 2) + rec * 2304 + i
  (runFrame s.mem.regions.spill (a / 2 ^ 21)).map fun f => f * 2 ^ 21 + a % 2 ^ 21

/-- The arrived mask of a reduction. -/
def Reduce.arrived (r : Reduce) : Nat := maskOf (r.slots.map (·.1))

/-- The header of a record. -/
def recordHeader (line : Nat) (r : Reduce) : Nat :=
  line * 2 ^ 71 + r.arrived * 2 ^ 48 + r.rop * 2 ^ 44 + (r.count - 1) * 2 ^ 40 + bit01 r.failed * 2 ^ 39

/-- The header's sectors: the fields stand in the first. -/
def headerSectors (line : Nat) (r : Reduce) : List (Nat × SectorVal) :=
  (List.range 4).map fun i => (i, { data := if i = 0 then BitVec.ofNat 256 (recordHeader line r) else 0, mark := none })

/-- A line's four sectors from sector `i` of a record on: sector 4 for the base, 8 + 4 × index for a slot. -/
def lineSectors (i : Nat) (l : List SectorVal) : List (Nat × SectorVal) :=
  (List.range 4).map fun j => (i + j, l.getD j { data := 0, mark := none })

/-- The sectors of a record: header, base, slots. -/
def recordSectors (line : Nat) (base : List SectorVal) (r : Reduce) : List (Nat × SectorVal) :=
  headerSectors line r ++ lineSectors 4 base ++ r.slots.flatMap fun e => lineSectors (8 + 4 * e.1) e.2

/-- Sectors of a line's record written physically, charged to SCRUB (R231). -/
def State.writeRecord (s : State) (line rec : Nat) (l : List (Nat × SectorVal)) : State :=
  l.foldl (fun (t : State) e =>
    match t.recordAddr (homeHalf line) rec (e.1 * 32) with
    | some a => (t.tierWrite 0 (a / 32) e.2).charge (t.hbmTarget a) (mScrub (homeHalf line))
    | none => t) s

/-- A line's four sectors read from its record, and the charge of reading them. -/
def State.recordLine (s : State) (line rec i : Nat) : List SectorVal :=
  (List.range 4).map fun j => match s.recordAddr (homeHalf line) rec ((i + j) * 32) with
    | some a => s.tierRead 0 (a / 32)
    | none => { data := 0, mark := none }
def State.chargeRecord (s : State) (line rec i : Nat) : State :=
  (List.range 4).foldl (fun (t : State) j => match t.recordAddr (homeHalf line) rec ((i + j) * 32) with
    | some a => t.charge (t.hbmTarget a) (mScrub (homeHalf line))
    | none => t) s

/-- What the spill unit reads for a line: the base, and the reduction with the slots of its record. A sector of the record whose memory is
marked gives its slot, or the base, that mark (R305). -/
def State.recalled (s : State) (line : Nat) (sp : Spill) : List SectorVal × Reduce :=
  (s.recordLine line sp.record 4,
   { sp.red with slots := sp.red.slots.map fun e => (e.1, s.recordLine line sp.record (8 + 4 * e.1)) })

/-- The reads of the combination charged. -/
def State.chargeRecall (s : State) (line : Nat) (sp : Spill) : State :=
  sp.red.slots.foldl (fun (t : State) e => t.chargeRecord line sp.record (8 + 4 * e.1)) (s.chargeRecord line sp.record 4)

/-- A contribution to a Spilled line, or its failure, written to the record and to the tag. -/
def State.noteSpilled (s : State) (line : Nat) (sp : Spill) (slot : List (Nat × SectorVal)) : State :=
  let s := s.writeRecord line sp.record (slot ++ (headerSectors line sp.red).take 1)
  { s with felt := { s.felt with spilled := NMap.put s.felt.spilled line sp } }

/-- An ORDERED contribution at its home bank (R188, R189, R193); false where it must wait. -/
def State.contribOrdered (s : State) (line rop idx count : Nat) (data : List SectorVal) (agent cls : Nat) : State × Bool :=
  if !s.felt.accepts || s.retiringHome line || s.bundleStopped line then (s, false) else
  match NMap.look s.felt.spilled line with
  | some sp =>
    if sp.red.fits rop idx count then
      let r := { sp.red with slots := NMap.put sp.red.slots idx [] }
      ((s.charge4 cls).noteSpilled line { sp with red := r, full := r.isFull } (lineSectors (8 + 4 * idx) data), true)
    else
      (((s.charge4 cls).mismatch line idx (count - 1) rop agent sp.red.failed).noteSpilled line
        { sp with red := { sp.red with failed := true } } [], true)
  | none =>
    match (NMap.look s.felt.lines line).bind fun l => l.red.map fun r => (l, r) with
    | some (l, r) =>
      if r.fits rop idx count then
        let r := { r with slots := NMap.put r.slots idx data }
        let s := s.charge4 cls
        if r.isFull then (s.combine line l r, true) else (s.setLine line { l with red := some r }, true)
      else
        let s := (s.charge4 cls).mismatch line idx (count - 1) rop agent r.failed
        (s.setLine line { l with red := some { r with failed := true } }, true)
    | none =>
      let busy := s.felt.lines.filter fun e => s.bankOf e.1 == s.bankOf line && e.2.red.isSome
      if s.num Obj.reduceBufferLines ≤ busy.length then (s.deferOldest busy, false) else
      match s.lineForStore line cls with
      | (s, none) => (s, false)
      | (s, some _) =>
        match s.fillLine line cls with
        | (s, false) => (s, false)
        | (s, true) =>
          match NMap.look s.felt.lines line with
          | none => (s, false)
          | some l =>
            let ok := decide (idx < count)
            let r : Reduce := { rop := rop, count := count, slots := if ok then [(idx, data)] else [], failed := !ok,
                                deferred := false, fullSeen := false, order := s.felt.order }
            let s : State := { s with felt := { s.felt with order := s.felt.order + 1 } }
            let s := (s.touch line).charge4 cls
            let s := if ok then s else s.mismatch line idx (count - 1) rop agent false
            if r.isFull then (s.combine line l r, true) else (s.setLine line { l with red := some r }, true)

/-- An ARRIVAL contribution at its home bank (R190); false where it must wait. -/
def State.contribArrival (s : State) (line rop : Nat) (data : List SectorVal) (cls : Nat) : State × Bool :=
  if !s.bankOpen line then (s, false) else
  match s.lineForStore line cls with
  | (s, none) => (s, false)
  | (s, some _) =>
    match s.fillLine line cls with
    | (s, false) => (s, false)
    | (s, true) =>
      match NMap.look s.felt.lines line with
      | none => (s, false)
      | some l =>
        let old := l.sectors.map (·.val)
        let f := redWords rop (lineWords old) (lineWords data)
        let marks := List.zipWith (fun a b => orMark a.mark b.mark) old data
        let s := ((s.setLine line (dirtyLine l (wordsLine f.1 marks))).touch line).charge4 cls
        let s := (List.range 4).foldl (fun (t : State) i => t.stored (line * 4 + i)) s
        (s.bump Obj.reduceSatTotal f.2, true)

/-- A contribution under the order in force. -/
def State.contribute (s : State) (line rop idx count : Nat) (data : List SectorVal) (agent cls : Nat) : State × Bool :=
  if s.ordered then s.contribOrdered line rop idx count data agent cls else s.contribArrival line rop data cls

/-- The log entry and counter of a reduction closed before it was complete (R195). -/
def State.logIncomplete (s : State) (line : Nat) (r : Reduce) : State :=
  let s := s.log 0x3004 sevError (0x4C) (some (0, line * 128)) (r.arrived + (r.count - 1) * 65536)
  if r.failed then s else s.bump Obj.reduceFailTotal 1

/-- A spilled reduction comes back to its bank as Dirty with the values given; where no way is eligible the spill stays. -/
def State.installSpill (s : State) (line : Nat) (vs : List SectorVal) : State × Bool :=
  match s.allocate line (mScrub (homeHalf line)) absent4 with
  | (s, false) => (s, false)
  | (s, true) =>
    match NMap.look s.felt.lines line with
    | none => (s, false)
    | some l =>
      let s := (s.setLine line (dirtyLine l vs)).touch line
      ({ s with felt := { s.felt with spilled := NMap.del s.felt.spilled line } }, true)

/-- One Reduce-busy line closed (R195). -/
def State.closeBusy (s : State) (line : Nat) (l : FLine) (r : Reduce) : State :=
  let res := reduceResult (l.sectors.map (·.val)) r true
  ((s.setLine line (dirtyLine l res.1)).bump Obj.reduceSatTotal res.2).logIncomplete line r

/-- One Reduce-busy line that a retiring group still holds closed. -/
def State.closeLeaving (s : State) (line : Nat) (l : FLine) (r : Reduce) : State :=
  let res := reduceResult (l.sectors.map (·.val)) r true
  let s : State := { s with felt := { s.felt with leaving := NMap.put s.felt.leaving line (dirtyLine l res.1) } }
  (s.bump Obj.reduceSatTotal res.2).logIncomplete line r

/-- One Spilled line closed (R195); one that has its last contribution returns its result instead. Where no way is eligible
the result goes to memory, as an eviction would take it. -/
def State.closeSpilled (s : State) (line : Nat) (sp : Spill) : State :=
  let rec_ := s.recalled line sp
  let res := reduceResult rec_.1 rec_.2 (!sp.full)
  let s := s.chargeRecall line sp
  let t := match s.installSpill line res.1 with
    | (t, true) => t
    | (t, false) =>
      let t := (List.range 4).foldl (fun (t : State) i =>
        t.writeMem (line * 4 + i) (res.1.getD i { data := 0, mark := none }) (mScrub (homeHalf line))) t
      ({ t with felt := { t.felt with spilled := NMap.del t.felt.spilled line } } : State)
  let t := t.bump Obj.reduceSatTotal res.2
  if sp.full then t.bump Obj.reduceCompleteTotal 1 else t.logIncomplete line sp.red

/-- Closure of every Reduce-busy and Spilled line with `p` (R195). -/
def State.closeWhere (s : State) (p : Nat → Bool) : State :=
  let s := s.felt.lines.foldl (fun t e => match e.2.red with
    | some r => if p e.1 then t.closeBusy e.1 e.2 r else t
    | none => t) s
  let s := s.felt.leaving.foldl (fun t e => match e.2.red with
    | some r => if p e.1 then t.closeLeaving e.1 e.2 r else t
    | none => t) s
  s.felt.spilled.foldl (fun t e => if p e.1 then t.closeSpilled e.1 e.2 else t) s

/-! ### Bank-group retirement (R173, R198) -/

/-- The present banks of a half, groups retired or retiring left out. -/
def State.liveBanks (s : State) (half : Nat) : List Nat :=
  (List.range s.banksPerHalf).filter fun b =>
    !s.felt.retired.contains (half, b / 4) && !s.felt.retiring.contains (half, b / 4)

/-- Entries of a half's map that name each bank. -/
def State.mapCounts (s : State) (half : Nat) : NMap Nat :=
  (List.range 4096).foldl (fun m h => NMap.upd m (s.bankOfHash half h) 0 (· + 1)) []

/-- The live bank with the fewest entries, the lower on a tie. -/
def fewestBank (counts : NMap Nat) : List Nat → Nat → Nat
  | [], best => best
  | b :: l, best => fewestBank counts l (if NMap.lookD counts b 0 < NMap.lookD counts best 0 then b else best)

/-- The map entries of a retiring group reassigned in ascending H (R173); requests for them wait (R198). -/
def State.reassign (s : State) (half grp : Nat) : State :=
  let live := s.liveBanks half
  let mine := (List.range 4096).filter fun h => s.bankOfHash half h / 4 == grp
  let r := mine.foldl (fun (acc : NMap Nat × NMap Nat) h =>
    let b := fewestBank acc.1 live (live.headD 0)
    (NMap.upd acc.1 b 0 (· + 1), NMap.put acc.2 (half * 4096 + h) b)) (s.mapCounts half, s.felt.bankOver)
  { s with felt := { s.felt with
      bankOver := r.2
      remapped := mine.foldl (fun m h => NMap.put m (half * 4096 + h) grp) s.felt.remapped } }

/-- A line of a retiring group moves to its new home where that accepts it: there is a way (R178) and, for a reduction that collects, a
free buffer entry (R192); else the old bank holds it and a Reduce-busy line of the new home is deferred. The move is charged to SCRUB, as
a sector at Felt for each present sector (R231). -/
def State.moveLine (s : State) (line : Nat) (l : FLine) : State :=
  let m := mScrub (homeHalf line)
  let busy := s.felt.lines.filter fun e => s.bankOf e.1 == s.bankOf line && e.2.red.isSome
  if l.red.isSome && decide (s.num Obj.reduceBufferLines ≤ busy.length) then s.deferOldest busy else
  match s.findWay line m with
  | (s, none) => s
  | (s, some w) =>
    let s := (l.sectors.filter fun x => x.present).foldl (fun (t : State) _ => t.charge 0 m) (s.setLine line { l with way := w })
    { s with felt := { s.felt with leaving := NMap.del s.felt.leaving line } }

/-- Every line that a retiring group still holds tried. -/
def State.moveLeaving (s : State) : State := s.felt.leaving.foldl (fun (t : State) e => t.moveLine e.1 e.2) s

/-- The dead tags of every bank of a half brought within its store of 8,192: the oldest are displaced (R183). -/
def State.trimDead (s : State) (half : Nat) : State :=
  s.felt.dead.foldl (fun (t : State) n =>
    if homeHalf n == half && decide (8192 < (t.felt.dead.filter fun x => t.bankOf x == t.bankOf n).length) then
      (t.deadMarkers n).undead n
    else t) s

/-- The retirement decision (R198): the group is retiring and its map entries are reassigned. Its Valid lines are dropped; its Dirty and
Reduce-busy lines leave it; Dead and Spilled tags count at their new homes. -/
def State.startRetire (s : State) (half grp : Nat) : State :=
  let mine := s.felt.lines.filter fun e => homeHalf e.1 == half && s.bankOf e.1 % 1024 / 4 == grp
  let stay := mine.filter fun e => e.2.red.isSome || e.2.fetchingAny || e.2.sectors.any fun x => x.dirty
  let s : State := { s with felt := { s.felt with
    retiring := s.felt.retiring ++ [(half, grp)]
    lines := s.felt.lines.filter fun e => !(mine.any fun m => m.1 == e.1)
    leaving := stay.foldl (fun m e => NMap.put m e.1 e.2) s.felt.leaving } }
  ((s.reassign half grp).trimDead half).moveLeaving

/-- Is any line still to leave a retiring group? -/
def State.leavingOf (s : State) (half grp : Nat) : Bool :=
  s.felt.leaving.any fun e => NMap.look s.felt.remapped (homeHalf e.1 * 4096 + hashIndex e.1) == some grp && homeHalf e.1 == half

/-- A line that its new home cannot take at a closure goes to memory, as an eviction from there would take it. -/
def State.evictLeaving (s : State) : State :=
  let s := s.felt.leaving.foldl (fun (t : State) e => t.writeBack e.1 e.2 (mScrub (homeHalf e.1))) s
  { s with felt := { s.felt with leaving := [] } }

/-- The retirements under way end (R198): requests resume at the new homes, and each is logged. -/
def State.endRetire (s : State) (half grp : Nat) : State :=
  let s : State := { s with felt := { s.felt with
    remapped := s.felt.remapped.filter fun e => !(e.1 / 4096 == half && e.2 == grp)
    retiring := s.felt.retiring.filter fun x => x != (half, grp)
    retired := s.felt.retired ++ [(half, grp)] } }
  s.log 0x3005 sevFatal agentNone none (half + grp * 256)

/-- Step 2 of every retirement ends at a closure at the latest (R198). -/
def State.closeRetire (s : State) : State :=
  s.felt.retiring.foldl (fun (t : State) r => t.endRetire r.1 r.2) (s.moveLeaving.evictLeaving)

/-- Closure (R195), with the end of the retirements under way (R198). -/
def State.closure (s : State) : State := (s.closeWhere fun _ => true).closeRetire

/-! ### Flush (R196, R197) -/

/-- A line after its dirty sectors are written back. -/
def FLine.cleaned (l : FLine) : FLine := { l with sectors := l.sectors.map fun x => { x with dirty := false } }

/-- Every Dirty line written back and every Dead tag written as markers; lines stay Valid, or all go with `inval`. -/
def State.flushAll (s : State) (inval : Bool) : State :=
  let s := s.felt.lines.foldl (fun t e => t.writeBack e.1 e.2 (mScrub (homeHalf e.1))) s
  let s := s.felt.dead.foldl (fun t n => t.deadMarkers n) s
  { s with felt := { s.felt with
      dead := []
      lines := if inval then [] else s.felt.lines.map fun e => (e.1, e.2.cleaned) } }

/-! ### L1 (R166) -/

/-- Sets of a tile's L1 part: one per KiB (R118, R166). -/
def Tile.l1Sets (t : Tile) : Nat := 1536 - t.splitKib

/-- The L1 copy of a sector. -/
def Tile.l1Look (t : Tile) (sn : Nat) : Option SectorVal :=
  (t.l1.find? fun l => l.line == sn / 4).bind fun l => (l.sectors[sn % 4]?).bind id

/-- An L1 line becomes the most recent. (DEDUCED, notes/assumptions/54.md). -/
def Tile.l1Use (t : Tile) (line : Nat) : Tile :=
  match t.l1.find? fun l => l.line == line with
  | none => t
  | some l => { t with l1 := l :: t.l1.filter fun x => !(x.line == line) }

/-- A line allocated in L1 where a load misses, the least recent of the set's eight going (R166). -/
def Tile.l1Alloc (t : Tile) (line : Nat) : Tile :=
  if t.l1.any fun l => l.line == line then t.l1Use line else
  let l := { line := line, sectors := [none, none, none, none] } :: t.l1
  let same := l.filter fun x => x.line % t.l1Sets == line % t.l1Sets
  { t with l1 := if 8 < same.length then l.filter fun x => !((same.drop 8).any fun y => y.line == x.line) else l }

/-- A sector put into L1 where its line is still there: an invalidation or a replacement since the miss leaves no place for it. -/
def Tile.l1Fill (t : Tile) (sn : Nat) (v : SectorVal) : Tile :=
  { t with l1 := t.l1.map fun l => if l.line = sn / 4 then { l with sectors := adjAt l.sectors (sn % 4) fun _ => some v } else l }

/-- The L1 copy of a sector, where present, updated (R143, R168). (DEDUCED, notes/assumptions/54.md). -/
def Tile.l1Update (t : Tile) (sn : Nat) (f : SectorVal → SectorVal) : Tile :=
  { t with l1 := t.l1.map fun l => if l.line = sn / 4 then { l with sectors := adjAt l.sectors (sn % 4) (Option.map f) } else l }

/-- A line's L1 copy dropped. -/
def Tile.l1Drop (t : Tile) (line : Nat) : Tile := { t with l1 := t.l1.filter fun l => !(l.line == line) }

/-! ### Requests that wait -/

/-- The agent code of a requester in the log (R306). -/
def Agent.logCode : Agent → Nat
  | .thread g => g.tile
  | .hostPort => agentHost
  | .engine c => c

/-- The group a request belongs to. -/
def Agent.groupOf : Agent → Option GroupRef
  | .thread g => some g
  | _ => none

/-- Does the request's block still exist? A load also ends with its block's threads (R139). -/
def Req.alive (s : State) (r : Req) : Bool :=
  match r.agent with
  | .thread g => (match s.block g.tile g.slot with
    | some b => b.uid == r.uid && (match r.kind with
      | .load _ _ _ => !b.exiting
      | _ => true)
    | none => false)
  | _ => true

/-- A register of a lane written by a load. -/
def State.loadReg (s : State) (g : GroupRef) (lane r : Nat) (v : RegVal) : State := s.adjGroup g fun x => x.setReg lane r v

/-- Bytes of a load written to registers from `r` on, four to each, zero-extended. -/
def State.loadRegs (s : State) (g : GroupRef) (lane r width : Nat) (bs : Bytes) (mark : Option PoisonClass) : State :=
  (List.range ((width + 3) / 4)).foldl (fun (t : State) i =>
    t.loadReg g lane (r + i) { val := BitVec.ofNat 32 (leNat ((bs.drop (4 * i)).take 4)), mark := mark }) s

/-- The poison policies of R293: DATA, DMA, COLLECTIVE; is it HALT? (DEDUCED, notes/assumptions/79.md). -/
def State.haltOn (s : State) (consumer : Nat) : Bool := s.num (Obj.poisonPolicy + consumer) == 2

/-- A HALT outcome logged and counted (R293, R310). A scratchpad offset has its block, `lin`, in DETAIL (R306): in bits [63:32],
as a fault has it. (DESIGN CHOICE, notes/assumptions/79.md). -/
def State.poisonHalted (s : State) (agent : Nat) (addr : LogAddr) (lin consumer : Nat) (c : PoisonClass) : State :=
  let block := match addr with
    | some (3, _) => lin % 2 ^ 32 * 2 ^ 32
    | _ => 0
  (s.bump Obj.poisonHaltTotal 1).log 0x4022 sevError agent addr (c.code + consumer * 256 + block)

/-- The value of a thread's load delivered: registers, or POISON_HALT under DATA = HALT. -/
def State.deliverLoad (s : State) (g : GroupRef) (lane reg width addr : Nat) (v : SectorVal) : State :=
  match v.mark with
  | some c =>
    if s.haltOn 1 then (s.poisonHalted g.tile (some (0, addr)) 0 1 c).threadFault g fPoisonHalt (some (0, addr)) 0
    else s.loadRegs g lane reg width (((sectorBytes v.data).drop (addr % 32)).take width) (some c)
  | none => s.loadRegs g lane reg width (((sectorBytes v.data).drop (addr % 32)).take width) none

/-- One lane's load has its value: after the last the group goes on. -/
def State.laneDone (s : State) (g : GroupRef) : State :=
  s.adjGroup g fun x =>
    let y : Group := { x with loads := x.loads - 1 }
    if y.loads = 0 then y.advance else y

/-- The master a request is charged to. -/
def Agent.master : Agent → Nat
  | .thread g => mTile g.tile
  | .hostPort => mHost
  | .engine c => mTile c

/-! ### Quotas and caps (R233, R235) -/

/-- Instances of a class that share its effective minimum. -/
def State.sharers (s : State) (cls : Nat) : Nat := if cls = 1 then max 1 s.bw.tiles else if cls = 2 then 1 else 2

/-- Is a master still below its quota at a target in the running interval (R233)? -/
def State.belowQuota (s : State) (target master : Nat) : Bool :=
  decide (NMap.lookD s.bw.served ((target * 8 + master % 8) * 64 + master / 8) 0 * s.sharers (master % 8) <
    NMap.lookD s.bw.quota (target * 8 + master % 8) 0)

/-- A master's cap on sectors in flight to a target (R235); before the first interval boundary its upper clamp.
(DESIGN CHOICE, notes/assumptions/84.md). -/
def State.capFor (s : State) (target master : Nat) : Nat :=
  NMap.lookD s.bw.ownCaps ((target * 8 + master % 8) * 64 + master / 8) (NMap.lookD s.bw.caps (target * 8 + master % 8) 1024)

/-- The target from which a sector is fetched. -/
def State.fetchTarget (s : State) (sn : Nat) : Nat :=
  match s.page (sn / 65536) with
  | some p => s.tierTarget p.tier (physSect p.frame sn * 32)
  | none => 0

/-- A master's sectors that are being fetched from a target. -/
def State.missesOf (s : State) (target master : Nat) : Nat :=
  ((s.felt.lines.flatMap fun e => (List.range 4).filter fun i => match e.2.sectors[i]? with
    | some x => x.fetching && x.master == master && s.fetchTarget (e.1 * 4 + i) == target
    | none => false)).length

/-- A load at its bank, fetching in its own time: a translation or a sector that is not there is waited for, and so is room below the cap
on the master's sectors in flight. -/
def State.bankLoad (s : State) (sn master agent : Nat) : State × Option SectorVal :=
  let line := sn / 4
  if !s.bankOpen line then (s, none) else
  let sector := (NMap.look s.felt.lines line).bind fun l => l.sectors[sn % 4]?
  if s.felt.dead.contains line || (sector.map (·.present)).getD false then s.bankRead sn master agent
  else if (sector.map (·.fetching)).getD false || !s.tlbHit (homeHalf line) (sn / 65536) ||
      decide (s.capFor (s.fetchTarget sn) master ≤ s.missesOf (s.fetchTarget sn) master) then (s, none)
  else
    let (s, ok) := match NMap.look s.felt.lines line with
      | some _ => (s, true)
      | none => s.allocate line master absent4
    if !ok then (s, none) else
    match NMap.look s.felt.lines line with
    | none => (s, none)
    | some l =>
      (s.setLine line { l with sectors := adjAt l.sectors (sn % 4) fun x => { x with fetching := true, master := master } }, none)

/-- Does an agent act for a tile's port? -/
def Agent.onTile (tile : Nat) : Agent → Bool
  | .thread g => g.tile == tile
  | .hostPort => false
  | .engine c => c == tile

/-- Does a request name the whole line? -/
def ReqKind.wholeLine : ReqKind → Bool
  | .drop => true
  | .contrib _ _ _ _ => true
  | _ => false

/-- A sector its home bank supplies to a tile's L1: the line takes it with the tile's own stores to it that the bank has not performed yet;
where a drop or a contribution of the tile's waits for the line, no copy is kept (R143, R160, R166). -/
def State.l1Supply (s : State) (tile sn : Nat) (v : SectorVal) : State :=
  let mine := s.felt.waiting.filter fun r => r.addr / 128 == sn / 4 && r.agent.onTile tile
  if mine.any fun r => r.kind.wholeLine then s
  else s.adjTile tile fun t => t.l1Fill sn (mine.foldl (fun v r => match r.kind with
    | .store d m => if r.addr / 32 = sn then storedSector v (r.addr % 32) d m else v
    | _ => v) v)

/-- A thread's store, drop or contribution has been performed. -/
def State.storeDone (s : State) : Agent → State
  | .thread g => s.adjGroup g fun x => { x with stores := x.stores - 1 }
  | _ => s

/-- One waiting request tried: false where it still waits. -/
def State.serve (s : State) (r : Req) : State × Bool :=
  if !r.alive s then (s, true) else
  if s.portStopped r.agent.master then (s, false) else
  let write := match r.kind with
    | .load _ _ _ => false
    | .hostRead => false
    | _ => true
  match s.violationKind r.addr write, r.agent with
  | some k, .thread g =>
    let s := (s.violation r.addr g.tile k).threadFault g fAddress (some (0, r.addr % 2 ^ 57)) 0
    (s, true)
  | some k, a => (s.violation r.addr a.logCode k, true)
  | none, a =>
    match r.kind with
    | .load lane reg width =>
      match s.bankLoad (r.addr / 32) a.master a.logCode with
      | (s, none) => (s, false)
      | (s, some v) =>
        match a with
        | .thread g => (((s.l1Supply g.tile (r.addr / 32) v).deliverLoad g lane reg width r.addr v).laneDone g, true)
        | _ => (s, true)
    | .store data mark =>
      match s.bankStore (r.addr / 32) (r.addr % 32) data mark a.master with
      | (s, false) => (s, false)
      | (s, true) => (s.storeDone a, true)
    | .drop =>
      match s.bankDrop (r.addr / 128) with
      | (s, false) => (s, false)
      | (s, true) => (s.storeDone a, true)
    | .contrib rop idx count data =>
      match s.contribute (r.addr / 128) rop idx count data a.logCode a.master with
      | (s, false) => (s, false)
      | (s, true) => (s.storeDone a, true)
    | .hostRead => (s, true)

/-- Does an earlier request `x` that waits keep `r` from its bank? One on the same sector or with the whole line, so that a location's
requests keep their order (R145). A contribution goes past the loads, stores and drops that wait for the reduction to complete, but for a
store or drop of its own thread's (R161, R181). -/
def Req.blocks (x r : Req) : Bool :=
  x.addr / 128 == r.addr / 128 &&
    match r.kind, x.kind with
    | .contrib _ _ _ _, .contrib _ _ _ _ => true
    | .contrib _ _ _ _, .store _ _ => x.agent == r.agent
    | .contrib _ _ _ _, .drop => x.agent == r.agent
    | .contrib _ _ _ _, _ => false
    | _, _ => r.kind.wholeLine || x.kind.wholeLine || x.addr / 32 == r.addr / 32

/-- Has the port of a thread's tile its cap of requests in flight to Felt (R235)? -/
def State.portFull (s : State) (r : Req) (earlier : List Req) : Bool :=
  match r.agent with
  | .thread g => decide (s.capFor 0 (mTile g.tile) ≤ (earlier.filter fun x => x.agent.onTile g.tile).length)
  | _ => false

/-- Is a request kept from its bank by the earlier ones that wait? -/
def State.kept (s : State) (r : Req) (earlier : List Req) : Bool := (earlier.any fun x => x.blocks r) || s.portFull r earlier

/-- The requests of a list tried in its order, each behind the earlier ones that still wait. -/
def State.serveList : List Req → State → State
  | [], s => s
  | r :: l, s =>
    if !s.felt.waiting.contains r || s.kept r (s.felt.waiting.takeWhile fun x => x != r) then State.serveList l s
    else match s.serve r with
      | (s, true) => State.serveList l { s with felt := { s.felt with waiting := s.felt.waiting.erase r } }
      | (s, false) => State.serveList l s

/-- The order in which Felt serves what waits (R233): requests of masters below their quota, oldest first; then the others, those of a class
with weight 0 last. All of them are tried in one pass, so the rounds of the deficit round robin have no effect to see.
(DESIGN CHOICE, notes/assumptions/84.md). -/
def State.serveOrder (s : State) : List Req :=
  let below := s.felt.waiting.filter fun r => s.belowQuota 0 r.agent.master
  let rest := s.felt.waiting.filter fun r => !s.belowQuota 0 r.agent.master
  let light (r : Req) : Bool := s.num (0x322000 + r.agent.master % 8) == 0
  below ++ (rest.filter fun r => !light r) ++ rest.filter light

/-- Every waiting request tried, and again while one has been served: a reduction that completes frees its line for those that wait. -/
def State.retryN : Nat → State → State
  | 0, s => s
  | n + 1, s =>
    let t := State.serveList s.serveOrder s
    if t.felt.waiting.length < s.felt.waiting.length then State.retryN n t else t

/-- Every waiting request tried. -/
def State.retry (s : State) : State := State.retryN s.felt.waiting.length s

/-- A new request: served at once, or it waits where an earlier one keeps it or its bank cannot serve it. A contribution may have completed
its reduction: the others are tried then. -/
def State.submit (s : State) (r : Req) : State :=
  if s.kept r s.felt.waiting then { s with felt := { s.felt with waiting := s.felt.waiting ++ [r] } }
  else
    match s.serve r with
    | (s, true) => (match r.kind with
      | .contrib _ _ _ _ => s.retry
      | _ => s)
    | (s, false) => { s with felt := { s.felt with waiting := s.felt.waiting ++ [r] } }

/-- A load that misses in L1: its line is allocated there, and the sector is requested (R166). -/
def State.missLoad (s : State) (tile : Nat) (r : Req) : State := (s.adjTile tile fun t => t.l1Alloc (r.addr / 128)).submit r

end Sys2Proof.Machine
end

