-- ==== Sys2Proof/Machine/Converter.lean ====
section
/-! DEFINITION. The converter (R97 to R102): one element, its statistics, derived scales, stochastic draws (R99, R270),
the statistics record (R108) and the saturation event (R110). -/

set_option Elab.async false

namespace Sys2Proof.Machine

open Sys2Proof

/-! ### Draws (R270 to R272) -/

/-- The 64-bit draw of R270. -/
def rngDraw (seed step : W64) (position source lane purpose : Nat) : W64 :=
  sipHash24 seed step (natLE 8 position ++ natLE 1 source ++ natLE 1 lane ++ natLE 2 purpose ++ natLE 4 0)

/-- The position of R99: token or stream, space, bits [55:5] of the destination sector's address. -/
def drawPosition (stream : Nat) (dev : Bool) (addr : Nat) : Nat :=
  stream % 4096 * 2 ^ 52 + bit01 dev * 2 ^ 51 + addr / 32 % 2 ^ 51

/-- The log address of an operand: device virtual, or a scratchpad offset (R306). -/
def opAddr (dev : Bool) (a : Nat) : LogAddr := some (if dev then 0 else 3, a)

/-! ### One element -/

/-- Is the value finite; a NaN; infinite? -/
def FVal.isFin : FVal → Bool
  | .fin _ => true
  | _ => false
def FVal.isNan : FVal → Bool
  | .nan => true
  | _ => false
def FVal.isInf : FVal → Bool
  | .inf _ => true
  | _ => false

/-- A source element with the scale, zero-point and reciprocal that apply to it, and its draw under stochastic rounding. -/
structure CElt where
  x    : FVal
  mark : Option PoisonClass
  s    : FVal
  o    : FVal
  r    : FVal
  u    : Option Nat
  deriving DecidableEq, Repr

/-- RN(1/s) of R98. -/
def recip (s : FVal) : FVal := f32.decode (f32.ofVal (FVal.div (.fin Dy.one) s))

/-- What became of an element: its code, and whether it saturated, was a coerced NaN, or underflowed. -/
structure COut where
  code  : Nat
  sat   : Bool
  coerc : Bool
  under : Bool
  deriving DecidableEq, Repr

/-- A value outside a destination's range: ±∞ where the format has it and the mode is INFINITY, else ± the largest. -/
def overCode (fmt : Nat) (neg infMode : Bool) : Nat :=
  if isFloatFmt fmt then
    let f := ffmt fmt
    if infMode && f.top == 0 then f.signed neg ((2 ^ f.eb - 1) * 2 ^ f.mb) else f.signed neg f.maxCode
  else if neg then 2 ^ (fmtBits fmt - 1) else 2 ^ (fmtBits fmt - 1) - 1

/-- The rounding of an element. -/
def CElt.mode (e : CElt) : RMode := match e.u with
  | some u => .stoch u
  | none => .nearest

/-- y = (x − o) × r of R98, exact. -/
def CElt.y (e : CElt) : FVal := FVal.mul (FVal.add e.x (FVal.negate e.o)) e.r

/-- What a NaN becomes (R100). -/
def nanOut (fmt : Nat) : COut :=
  if isFloatFmt fmt && (ffmt fmt).top ≠ 2 then ⟨(ffmt fmt).nanCode, false, false, false⟩ else ⟨0, false, true, false⟩

/-- One element converted (R98 to R100), by the class of its source: an infinity goes out as one, or as the largest value, whatever its
scale; a finite value whose y is infinite (its reciprocal overflows) has overflowed. Where a finite value or an infinity meets a NaN
scale, or 0 × ∞, R100 names no row: it is converted as a NaN. (DEDUCED, notes/assumptions/47.md). -/
def convertElt (fmt : Nat) (infMode : Bool) (e : CElt) : COut :=
  match e.x, e.y with
  | .inf n, y =>
    if e.r.isNan || (e.o.isNan && y.isNan) then nanOut fmt
    else ⟨overCode fmt (n != e.r.sign) infMode, !(isFloatFmt fmt && (ffmt fmt).top == 0 && infMode), false, false⟩
  | _, .nan => nanOut fmt
  | _, .inf n => ⟨overCode fmt n infMode, true, false, false⟩
  | _, .fin d =>
    if isFloatFmt fmt then
      let f := ffmt fmt
      match f.round e.mode d.m d.e with
      | .overflow => ⟨overCode fmt d.neg infMode, true, false, false⟩
      | .code c => ⟨f.signed d.neg c, false, false, c == 0 && decide (d.m ≠ 0)⟩
    else
      let n := fmtBits fmt
      let m : Nat := if 0 ≤ d.e then d.m * pow2 d.e else roundShift e.mode d.m (-d.e).toNat
      let v : Int := if d.neg then -(m : Int) else m
      if v < -(2 ^ (n - 1) : Int) || (2 ^ (n - 1) : Int) - 1 < v then ⟨overCode fmt d.neg infMode, true, false, false⟩
      else ⟨sCode n v, false, false, m == 0 && decide (d.m ≠ 0)⟩

/-! ### Statistics -/

/-- The statistics of a conversion under way (R108). -/
structure CStat where
  elements : Nat
  sat      : Nat
  coerced  : Nat
  under    : Nat
  amax     : FVal
  infIn    : Bool
  nanIn    : Bool
  stoch    : Bool
  poison   : Bool
  zero     : Bool
  empty    : Bool
  sq       : FVal
  sqN      : Nat
  fAmax    : FVal                 -- largest finite magnitude
  deriving DecidableEq, Repr

/-- Zero as a floating value. -/
def fZero : FVal := .fin Dy.zero

/-- Before the first element. -/
def CStat.init (stoch : Bool) : CStat :=
  { elements := 0, sat := 0, coerced := 0, under := 0, amax := fZero, infIn := false, nanIn := false, stoch := stoch,
    poison := false, zero := false, empty := false, sq := fZero, sqN := 0, fAmax := fZero }

/-- Binary64, and a value rounded to it. -/
def f64 : FFmt := ⟨11, 52, 1023, 0⟩
def rn64 (v : FVal) : FVal := f64.decode (f64.ofVal v)

/-- The magnitude. -/
def FVal.abs : FVal → FVal
  | .nan => .nan
  | .inf _ => .inf false
  | .fin d => .fin { d with neg := false }

/-- The larger of two magnitudes, a NaN left out. -/
def ampl (a x : FVal) : FVal := if x.isNan then a else if FVal.lt a x.abs then x.abs else a

/-- The statistics after a converted element; `plain` for INT32 and FP32 destinations, which count elements and AMAX
only. (DEDUCED, notes/assumptions/47.md). -/
def CStat.step (st : CStat) (fmt : Nat) (plain : Bool) (e : CElt) (c : COut) : CStat :=
  if e.mark.isSome then { st with poison := true } else
  let st := { st with elements := st.elements + 1, amax := ampl st.amax e.x, infIn := st.infIn || e.x.isInf,
                      nanIn := st.nanIn || e.x.isNan, fAmax := if e.x.isFin then ampl st.fAmax e.x else st.fAmax }
  if plain then st else
  let st := { st with sat := st.sat + bit01 c.sat, coerced := st.coerced + bit01 c.coerc, under := st.under + bit01 c.under }
  if e.x.isFin then
    let back := FVal.add (FVal.mul e.s (fmtVal fmt c.code)) e.o
    let d := FVal.add e.x (FVal.negate back)
    { st with sq := rn64 (FVal.add st.sq (rn64 (FVal.mul d d))), sqN := st.sqN + 1 }
  else st

/-- A run of elements converted: codes with marks, and the statistics. -/
def convertRun (fmt : Nat) (infMode : Bool) : List CElt → CStat → List Elt × CStat
  | [], st => ([], st)
  | e :: l, st =>
    let c := convertElt fmt infMode e
    let rest := convertRun fmt infMode l (st.step fmt false e c)
    (⟨c.code, e.mark⟩ :: rest.1, rest.2)

/-- The word of a binary32 value. -/
def w32Nat (v : FVal) : Nat := f32.ofVal v

/-- A count in a record's 32-bit field. -/
def cap32 (n : Nat) : Nat := min n 0xFFFFFFFF

/-- MSE (R108): the mean rounded once to binary32; 0 where no element qualifies, and with a zero range.
(DEDUCED, notes/assumptions/47.md). -/
def CStat.mse (st : CStat) : Nat :=
  if st.sqN = 0 || st.zero then 0
  else w32Nat (FVal.div st.sq (.fin { neg := false, m := st.sqN, e := 0 }))

/-- The eight words of the statistics record (R108) as 32-bit numbers, lowest first. (DEDUCED, notes/assumptions/47.md). -/
def CStat.record (st : CStat) (plain satEvent : Bool) (dfmt scale : Nat) : List Nat :=
  let flag (b : Bool) (i : Nat) : Nat := bit01 b * 2 ^ i
  [cap32 st.elements, cap32 st.sat, cap32 st.under, cap32 st.coerced, w32Nat st.amax, if plain then 0 else st.mse, scale,
   flag st.empty 22 + flag st.infIn 21 + flag st.nanIn 20 + flag st.stoch 19 + flag st.poison 18 + flag satEvent 17 +
     flag st.zero 16 + dfmt * 256]

/-- The bytes of a record of 32-bit words. -/
def recordBytes (ws : List Nat) : Bytes := ws.flatMap fun w => natLE 4 w

/-- Does the saturation event of R110 arise: SATURATED > threshold × ELEMENTS, exactly? -/
def State.satEvent (s : State) (sat elements : Nat) : Bool :=
  s.isOn Obj.satEventEnable &&
    FVal.lt (FVal.mul (f32.decode (s.num Obj.satEventThreshold)) (.fin ⟨false, elements, 0⟩)) (.fin ⟨false, sat, 0⟩)

/-- A SATURATION entry may be written for an agent: at most one per logical tile per millisecond, and for a collective engine by the same
rule, which names no tile for it. (DEDUCED, notes/assumptions/47.md). -/
def State.satOpen (s : State) (agent : Nat) : Bool :=
  if agent < 64 then (match (s.tile agent).satLog with
    | some t => s.passed t ticksPerMs
    | none => true)
  else s.limitOpen (0x210100 + agent) ticksPerMs

/-- A saturation event (R110): counted, in the entry's count with its first one as an event record, and in the log. -/
def State.raiseSat (s : State) (agent seq : Nat) (dst : LogAddr) (sat elements : Nat) : State :=
  let s := s.bump Obj.satEventTotal 1
  let first := match s.entry seq with
    | some e => e.sats == 0
    | none => false
  let s := if first then s.event 0x01 seq agent else s
  let s := s.adjEntry seq fun e => { e with sats := min 255 (e.sats + 1) }
  if s.satOpen agent then
    let s := if agent < 64 then s.adjTile agent fun x => { x with satLog := some s.now } else s.limitMark (0x210100 + agent)
    s.log 0x2101 sevInfo agent dst (cap32 elements + cap32 sat * 2 ^ 32)
  else s.bump Obj.satEventLogSuppressed 1

/-! ### Derived scales (R101, R102) -/

/-- F of R101: the largest finite value, or 127 and 7. -/
def fmtLargest (fmt : Nat) : FVal :=
  if isFloatFmt fmt then (ffmt fmt).decode (ffmt fmt).maxCode
  else .fin ⟨false, 2 ^ (fmtBits fmt - 1) - 1, 0⟩

/-- `ScaleMargin` as a power of two. -/
def State.marginPow (s : State) : FVal := .fin ⟨false, 1, sInt 32 (s.num Obj.scaleMargin)⟩

/-- One rounding to binary32. -/
def rn32 (v : FVal) : FVal := f32.decode (f32.ofVal v)

/-- RN(amax × 2^M / F), every product and quotient rounded once. -/
def State.symScale (s : State) (fmt : Nat) (amax : FVal) : FVal :=
  rn32 (FVal.div (rn32 (FVal.mul amax s.marginPow)) (fmtLargest fmt))

/-- Is a value a zero? -/
def FVal.isZero : FVal → Bool
  | .fin d => d.m == 0
  | _ => false

/-- The block exponent of R101: the smallest e with amax / 2^e ≤ F, clamped to −127 to 127; 0 for amax 0. -/
def blockExp (fmt : Nat) (amax : FVal) : Int :=
  match amax, fmtLargest fmt with
  | .fin a, .fin f =>
    if a.m = 0 then 0 else
    let e0 : Int := (a.e + (Nat.log2 a.m : Int)) - (f.e + (Nat.log2 f.m : Int)) - 1
    let ok (e : Int) : Bool := Dy.absLe { a with e := a.e - e } f
    let e := if ok e0 then e0 else if ok (e0 + 1) then e0 + 1 else e0 + 2
    max (-127) (min 127 e)
  | _, _ => 0

/-- A power of two as a value. -/
def twoTo (e : Int) : FVal := .fin ⟨false, 1, e⟩

/-- The largest finite magnitude of the elements without poison. -/
def finiteAmax (l : List (FVal × Option PoisonClass)) : FVal :=
  l.foldl (fun a e => if e.2.isNone && e.1.isFin then ampl a e.1 else a) fZero

/-- The least and greatest finite values of the elements without poison; none where there is none. -/
def finiteExtremes (l : List (FVal × Option PoisonClass)) : Option (FVal × FVal) :=
  l.foldl (fun a e =>
    if e.2.isNone && e.1.isFin then
      match a with
      | none => some (e.1, e.1)
      | some (lo, hi) => some (if FVal.lt e.1 lo then e.1 else lo, if FVal.lt hi e.1 then e.1 else hi)
    else a) none

/-- Scale and zero-point of a channel, and whether it has zero range (R101, R102). -/
def State.channelScale (s : State) (fmt : Nat) (asym : Bool) (l : List (FVal × Option PoisonClass)) : FVal × FVal × Bool :=
  if asym then
    match finiteExtremes l with
    | none => (.fin Dy.one, fZero, true)
    | some (lo, hi) =>
      let span := FVal.add hi (FVal.negate lo)
      if span.isZero then (.fin Dy.one, lo, true)
      else
        let q := 2 ^ fmtBits fmt - 1
        let sc := rn32 (FVal.div span (.fin ⟨false, q, 0⟩))
        let qmin : FVal := .fin ⟨true, 2 ^ (fmtBits fmt - 1), 0⟩
        (sc, rn32 (FVal.add lo (FVal.negate (rn32 (FVal.mul sc qmin)))), false)
  else
    let a := finiteAmax l
    if a.isZero then (.fin Dy.one, fZero, true) else (s.symScale fmt a, fZero, false)

end Sys2Proof.Machine
end

