-- ==== Sys2Proof/Machine/Errors.lean ====
section
/-! DEFINITION. Error checks of on-module memories (R287 to R291): correctable and uncorrectable errors of Felt sectors and
tile local arrays, the repair store (R299, R300), and the start of a bank group's retirement (R198). -/

set_option Elab.async false

namespace Sys2Proof.Machine

open Sys2Proof

/-- Units of the one-per-second limit on CORRECTED entries (R308): Felt banks, tile local arrays, HBM stacks, Canvas halves. -/
def unitFelt (halfBank : Nat) : Nat := halfBank
def unitLocal (tile : Nat) : Nat := 0x10000 + tile
def unitHbm (stack : Nat) : Nat := 0x20000 + stack
def unitCanvas (half : Nat) : Nat := 0x30000 + half

/-- A correction: its counter, and its log entry or the suppressed count (R287, R308). -/
def State.corrected (s : State) (counter unit code agent : Nat) (addr : LogAddr) (pos : Nat) : State :=
  let s := s.bump counter 1
  let free := match NMap.look s.integ.lastCe unit with
    | none => true
    | some t => s.passed t ticksPerS
  if free then
    ({ s with integ := { s.integ with lastCe := NMap.put s.integ.lastCe unit s.now } }).log code sevCorrected agent addr pos
  else s.bump Obj.errorLogSuppressed 1

/-- A group retires at its bundle's or spares' end (R198): marked retiring; its requests wait. -/
def State.retireGroup (s : State) (half grp : Nat) : State :=
  if s.felt.retiring.contains (half, grp) || s.felt.retired.contains (half, grp) then s
  else s.startRetire half grp

/-- The Felt location of a log entry of SPACE 4 (R306). (DEDUCED, notes/assumptions/48.md). -/
def feltPlace (half bank set way : Nat) : Nat := half * 2 ^ 56 + bank * 2 ^ 46 + set * 2 ^ 35 + way * 2 ^ 31

/-- Half and bank, and the subarray, of a Felt location: 32 subarrays of 1,024 rows of one line (R300). -/
def placeBank (place : Nat) : Nat × Nat := (place / 2 ^ 56, place / 2 ^ 46 % 1024)
def placeSub (place : Nat) : Nat := place / 2 ^ 31 % 16 * 2 + place / 2 ^ 35 % 2048 / 1024

/-- Do the spares of a subarray cover its faults: up to 4 columns that faults share, and 16 rows (R300)? -/
def sparesCover (l : List HardFault) : Bool :=
  let cols := (l.map (·.position)).eraseDups.filter fun c => 1 < (l.filter fun f => f.position == c).length
  let left := l.filter fun f => !(cols.take 4).contains f.position
  decide ((left.map (·.place)).eraseDups.length ≤ 16)

/-- A hard fault recorded once in the repair store and logged; false where the store is full, which is logged as it becomes so (R288, R299).
(DEDUCED, notes/assumptions/48.md). -/
def State.recordFault (s : State) (f : HardFault) (agent : Nat) (addr : LogAddr) : State × Bool :=
  if s.integ.store.any fun x => x.hbm == f.hbm && x.place == f.place && x.position == f.position then (s, true)
  else
    let s := s.log 0x4031 sevError agent addr f.position
    if s.integ.store.length < 1024 then
      let s : State := { s with integ := { s.integ with store := s.integ.store ++ [f] } }
      (if s.integ.store.length = 1024 then s.log 0x4033 sevFatal agent none 0 else s, true)
    else (s, false)

/-- A Felt hard fault: recorded; where no spare covers it, or the store is full, its bank group retires (R300). -/
def State.feltHardFault (s : State) (place position : Nat) : State :=
  let hb := placeBank place
  match s.recordFault { hbm := false, place := place, position := position, applied := false } agentNone (some (4, place)) with
  | (s, ok) =>
    let same := s.integ.store.filter fun f => !f.hbm && placeBank f.place == hb && placeSub f.place == placeSub place
    if ok && sparesCover same then s else s.retireGroup hb.1 (hb.2 / 4)

/-- The Felt location of a line that holds a way. -/
def State.linePlace (s : State) (line : Nat) (l : FLine) : Nat :=
  feltPlace (homeHalf line) (s.bankOf line % 1024) (setOf line) l.way

/-- A sector with an uncorrectable error: dirty data, a reduction's base or a buffered slot takes MEM poison; clean data is
discarded (R290, R291). -/
def FLine.damaged (l : FLine) (i : Nat) : FLine :=
  { l with sectors := adjAt l.sectors i fun x =>
      if x.dirty || l.red.isSome then { x with val := { x.val with mark := some .mem } } else FSector.absent }

/-- Would an uncorrectable error of the sector create poison? -/
def FLine.keepsError (l : FLine) (i : Nat) : Bool :=
  l.red.isSome || (match l.sectors[i]? with
    | some x => x.dirty
    | none => false)

/-- An error found where a Felt bank reads a sector that is present (R287 to R291). -/
def State.feltError (s : State) (sn agent : Nat) (err : ErrHit) : State :=
  match NMap.look s.felt.lines (sn / 4) with
  | none => s
  | some l =>
    let place := s.linePlace (sn / 4) l
    let hard (s : State) (again : Bool) (pos : Nat) : State := if again then s.feltHardFault place pos else s
    match err with
    | .none => s
    | .corrected pos again =>
      hard (s.corrected Obj.ceFeltTotal (unitFelt (s.bankOf (sn / 4))) 0x4001 agent (some (4, place)) pos) again pos
    | .uncorrectable pos again =>
      let s := (s.bump Obj.ueFeltTotal 1).log 0x4011 sevError agent (some (4, place)) (bit01 (l.keepsError (sn % 4)))
      hard (s.setLine (sn / 4) (l.damaged (sn % 4))) again pos

/-- An error found where a tile reads its L1 copy of a sector: an uncorrectable one discards the copy (R291).
(DEDUCED, notes/assumptions/48.md). -/
def State.l1Error (s : State) (tile sn : Nat) (err : ErrHit) : State :=
  let hard (s : State) (again : Bool) (pos : Nat) : State :=
    if again then (s.recordFault { hbm := false, place := 2 ^ 57 + tile, position := pos, applied := false } tile none).1 else s
  match err with
  | .none => s
  | .corrected pos again =>
    hard (s.corrected Obj.ceLocalTotal (unitLocal tile) 0x4002 tile (some (0, sn * 32)) pos) again pos
  | .uncorrectable pos again =>
    let s := (s.bump Obj.ueLocalTotal 1).log 0x4012 sevError tile (some (0, sn * 32)) 0
    hard (s.adjTile tile fun t => { t with l1 := t.l1.map fun l =>
      if l.line = sn / 4 then { l with sectors := adjAt l.sectors (sn % 4) fun _ => none } else l }) again pos

/-- An error found where a tile reads a sector of a block's scratchpad: corrected, or marked MEM (R287, R288, R290). The block stands in
bits [63:32] of DETAIL (R306), and a hard fault is recorded under a place of the tile's own. (DEDUCED, notes/assumptions/48.md). -/
def State.scratchError (s : State) (tile uid sn : Nat) (err : ErrHit) : State :=
  match s.blockByUid tile uid with
  | none => s
  | some b =>
    let addr : LogAddr := some (3, sn * 32)
    let lin := b.linear % 2 ^ 32 * 2 ^ 32
    let hard (s : State) (again : Bool) (pos : Nat) : State :=
      if again then
        (s.recordFault { hbm := false, place := 2 ^ 58 + tile * 2 ^ 32 + sn, position := pos, applied := false } tile addr).1
      else s
    match err with
    | .none => s
    | .corrected pos again => hard (s.corrected Obj.ceLocalTotal (unitLocal tile) 0x4002 tile addr (pos % 65536 + lin)) again pos
    | .uncorrectable pos again =>
      let s := (s.bump Obj.ueLocalTotal 1).log 0x4012 sevError tile addr (1 + lin)
      let s := s.adjBlock tile b.slot fun b =>
        let v : SectorVal := { b.scratch.sector sn with mark := some .mem }
        { b with scratch := b.scratch.setSector sn v }
      hard s again pos

/-- An error found in a half's Canvas SRAM: `place` numbers the word for the repair store, and `created` says whether an uncorrectable one
makes poison (R287, R288, R290). (DEDUCED, notes/assumptions/48.md). -/
def State.canvasError (s : State) (half agent : Nat) (addr : LogAddr) (place : Nat) (created : Bool) (err : ErrHit) : State :=
  let hard (s : State) (again : Bool) (pos : Nat) : State :=
    if again then
      (s.recordFault { hbm := false, place := 2 ^ 59 + half * 2 ^ 58 + place, position := pos, applied := false } agent addr).1
    else s
  match err with
  | .none => s
  | .corrected pos again => hard (s.corrected Obj.ceCanvasTotal (unitCanvas half) 0x4004 agent addr pos) again pos
  | .uncorrectable pos again => hard ((s.bump Obj.ueCanvasTotal 1).log 0x4014 sevError agent addr (bit01 created)) again pos

/-- Did a check find an uncorrectable error? -/
def errBad : ErrHit → Bool
  | .uncorrectable _ _ => true
  | _ => false

/-- A parity error of a value an instruction reads: the replay is counted and logged (R288). `kind` is 0 register, 1 weight
register, 2 result bank. -/
def State.parityReplay (s : State) (tile kind : Nat) : State :=
  (s.bump Obj.parityReplayTotal 1).log 0x4005 sevCorrected tile none kind

end Sys2Proof.Machine
end

