-- ==== Sys2Proof/Machine/Operands.lean ====
section
/-! DEFINITION. The operand forms: registers of a group (R114, R126), scratchpad and device-memory operands of the matrix
array and the converter (R76, R81, R105), with their marks, faults and waits. -/

set_option Elab.async false

namespace Sys2Proof.Machine

open Sys2Proof

/-! ### Registers -/

/-- The value of a register in the lowest active lane, and in lane 0. -/
def Group.lane0 (g : Group) (r : Nat) : RegVal := g.reg 0 r

/-- The lowest lane of a mask. -/
def lowestLane (m : BitVec 32) : Nat := ((lanesOf m).head?).getD 0

/-- A lane's 64-bit value of a register pair, low register first. -/
def Group.pair (g : Group) (lane r : Nat) : Nat := (g.reg lane r).val.toNat + 2 ^ 32 * (g.reg lane (r + 1)).val.toNat

/-- The mark of a register pair. -/
def Group.pairMark (g : Group) (lane r : Nat) : Option PoisonClass := orMark (g.reg lane r).mark (g.reg lane (r + 1)).mark

/-- The first register of a list that carries poison in a lane. (DEDUCED, notes/assumptions/79.md). -/
def Group.poisonedReg (g : Group) (lane : Nat) (rs : List Nat) : Option Nat := rs.find? fun r => (g.reg lane r).mark.isSome

/-! ### Results of operand reads -/

/-- What reading an operand gave: the value, a wait, or a fault with its code and address. -/
inductive OpRes (α : Type) where
  | ok (v : α)
  | wait
  | fault (code : Nat) (addr : LogAddr)
  deriving DecidableEq, Repr

/-- The block of an owner on a tile. -/
def State.ownerBlock (s : State) (tile uid : Nat) : Option Block := s.blockByUid tile uid

/-- The state with the block of an owner changed. -/
def State.adjOwner (s : State) (tile uid : Nat) (f : Block → Block) : State :=
  s.adjTile tile fun t => { t with blocks := t.blocks.map fun b => if b.uid = uid then f b else b }

/-- A sector of an operand: of the owner's scratchpad, or of device memory through its home bank. Beyond the block's
allocation a scratchpad sector is open. (DESIGN CHOICE, notes/assumptions/46.md). -/
def State.opSector (s : State) (tile uid : Nat) (dev : Bool) (sn cls : Nat) : State × OpRes SectorVal :=
  if dev then
    match s.violationKind (sn * 32) false with
    | some k => (s.violation (sn * 32) tile k, .fault fAddress (some (0, sn * 32 % 2 ^ 57)))
    | none =>
      match s.bankRead sn cls tile with
      | (s, none) => (s, .wait)
      | (s, some v) => (s, .ok v)
  else
    match s.ownerBlock tile uid with
    | none => (s, .ok { data := 0, mark := none })
    | some b =>
      if b.scratchB ≤ sn * 32 then (s, .ok { data := Config.freeScratch sn, mark := none })
      else (s, .ok (b.scratch.sector sn))

/-- The linear index of an owner's block. -/
def State.ownerLinear (s : State) (tile uid : Nat) : Nat := ((s.ownerBlock tile uid).map (·.linear)).getD 0

/-- A sector for the DATA consumer class: POISON_HALT where the policy says so (R293). (DEDUCED, notes/assumptions/46.md). -/
def State.dataSector (s : State) (tile uid : Nat) (dev : Bool) (sn : Nat) : State × OpRes SectorVal :=
  match s.opSector tile uid dev sn (mTile tile) with
  | (s, .ok v) =>
    match v.mark with
    | some c =>
      if s.haltOn 1 then
        (s.poisonHalted tile (opAddr dev (sn * 32)) (s.ownerLinear tile uid) 1 c, .fault fPoisonHalt (opAddr dev (sn * 32)))
      else (s, .ok v)
    | none => (s, .ok v)
  | r => r

/-- The sectors from `sn` on, `n` of them, after those already read, and what stopped the reads. -/
def State.gather (tile uid : Nat) (dev : Bool) : Nat → Nat → List SectorVal → State → State × List SectorVal × OpRes Unit
  | 0, _, got, s => (s, got, .ok ())
  | n + 1, sn, got, s =>
    match s.dataSector tile uid dev sn with
    | (s, .ok v) => State.gather tile uid dev n (sn + 1) (got ++ [v]) s
    | (s, .wait) => (s, got, .wait)
    | (s, .fault c a) => (s, got, .fault c a)

/-- Sectors as one little-endian number. -/
def sectorsNat : List SectorVal → Nat
  | [] => 0
  | v :: l => v.data.toNat + 2 ^ 256 * sectorsNat l

/-- The mark of the sectors that bits `[lo, lo + n)` of a run touch. -/
def bitsMark (l : List SectorVal) (lo n : Nat) : Option PoisonClass :=
  orMark ((l[lo / 256]?).bind (·.mark)) ((l[(lo + n - 1) / 256]?).bind (·.mark))

/-- `n` elements of a format from a run of sectors. -/
def eltsOf (fmt n : Nat) (l : List SectorVal) : List Elt :=
  let row := sectorsNat l
  (List.range n).map fun i => { code := eltOf fmt row i, mark := bitsMark l (eltBit fmt i) (fmtBits fmt) }

/-- A row of `n` elements of a format at a 32-byte aligned address. -/
def State.opRow (s : State) (tile uid : Nat) (dev : Bool) (addr fmt n : Nat) : State × OpRes (List Elt) :=
  match State.gather tile uid dev ((rowBytes fmt n + 31) / 32) (addr / 32) [] s with
  | (s, l, .ok _) => (s, .ok (eltsOf fmt n l))
  | (s, _, .wait) => (s, .wait)
  | (s, _, .fault c a) => (s, .fault c a)

/-- `n` bytes of a scratchpad structure at any offset, with the mark of the sectors they touch. -/
def State.scratchBytes (s : State) (tile uid off n : Nat) : Bytes × Option PoisonClass :=
  match s.ownerBlock tile uid with
  | none => (List.replicate n 0, none)
  | some b => (b.scratch.readN off n, b.scratch.markN off n)

/-- A binary32 word of a scratchpad structure. -/
def State.scratchWord (s : State) (tile uid off : Nat) : W32 × Option PoisonClass :=
  let r := s.scratchBytes tile uid off 4
  (BitVec.ofNat 32 (leNat r.1), r.2)

/-! ### Destinations -/

/-- Does writing `[addr, addr + n)` of device memory violate R212? The first address that does. -/
def State.rangeViolation (s : State) (addr n : Nat) (write : Bool) : Option (Nat × Nat) :=
  ((List.range ((addr % 2 ^ 21 + n + 2 ^ 21 - 1) / 2 ^ 21)).filterMap fun i =>
    let a := if i = 0 then addr else (addr / 2 ^ 21 + i) * 2 ^ 21
    (s.violationKind a write).map fun k => (a, k)).head?

/-- The first address at which writing, or reading, rows of `n` bytes at the given starts violates R212. -/
def State.rowsViolation (s : State) (n : Nat) (write : Bool) (starts : List Nat) : Option (Nat × Nat) :=
  starts.findSome? fun a => s.rangeViolation a n write

/-- May every sector of `[addr, addr + n)` be written now? -/
def State.rangeOpen (s : State) (addr n : Nat) : Bool :=
  (List.range ((addr % 128 + n + 127) / 128)).all fun i => s.bankOpen (addr / 128 + i)

/-- One sector's bytes written to a destination of an engine on a tile: the owner's scratchpad, or the home bank with the
tile's L1 copy updated (R146, R168); false where the bank holds no way for it. -/
def State.destSector (s : State) (tile uid : Nat) (dev : Bool) (sn off : Nat) (bs : Bytes) (mark : Option PoisonClass) :
    State × Bool :=
  if dev then
    let r := s.bankStore sn off bs mark (mTile tile)
    (r.1.adjTile tile fun t => t.l1Update sn fun old => storedSector old off bs mark, r.2)
  else (s.adjOwner tile uid fun b => { b with scratch := b.scratch.setSector sn (storedSector (b.scratch.sector sn) off bs mark) },
        true)

/-- Bytes with a mark for each sector they touch, written from a 32-byte aligned address. -/
def State.destBytes (tile uid : Nat) (dev : Bool) (sn : Nat) : List (Bytes × Option PoisonClass) → State → State × Bool
  | [], s => (s, true)
  | (bs, m) :: l, s =>
    match s.destSector tile uid dev sn 0 bs m with
    | (s, true) => State.destBytes tile uid dev (sn + 1) l s
    | (s, false) => (s, false)

/-- A row of elements as sector pieces: the bytes of each sector, and the mark of the first poisoned element in it. The bits that pad
the last byte of a sub-byte row are written as 0 (R88 names no value). (DESIGN CHOICE, notes/assumptions/47.md). -/
def rowPieces (fmt : Nat) (l : List Elt) : List (Bytes × Option PoisonClass) :=
  let n := rowBytes fmt l.length
  let bytes := natLE n (packRow fmt (l.map (·.code)))
  let ix := l.zip (List.range l.length)
  (List.range ((n + 31) / 32)).map fun k =>
    ((bytes.drop (32 * k)).take 32,
     firstMark (ix.map fun e =>
       if eltBit fmt e.2 / 256 ≤ k && k ≤ (eltBit fmt e.2 + fmtBits fmt - 1) / 256 then e.1.mark else none))

/-! ### Drops by an instruction (R185) -/

/-- Rows of `n` bytes at given starts: does one of them cover the 32 bytes at `a`? -/
def rowsCover (starts : List Nat) (n a : Nat) : Bool := starts.any fun b => decide (b ≤ a) && decide (a + 32 ≤ b + n)

/-- Does a row of `n` bytes at `b` touch a line? -/
def rowTouches (b n line : Nat) : Bool := decide (b < (line + 1) * 128) && decide (line * 128 < b + n)

/-- The lines a row of `n` bytes at `b` touches. -/
def rowLines (b n : Nat) : List Nat := (List.range ((b % 128 + n + 127) / 128)).map fun i => b / 128 + i

/-- The lines that row `m` is the last to read, among those that lie wholly within the bytes of the rows: an instruction drops them
once that row has issued (R185). -/
def lastLines (starts : List Nat) (n m : Nat) : List Nat :=
  (rowLines (starts.getD m 0) n).filter fun l =>
    ((List.range 4).all fun i => rowsCover starts n (l * 128 + i * 32)) && !((starts.drop (m + 1)).any fun b => rowTouches b n l)

/-- The first of the lines whose drop violates R212, as an address with its kind. -/
def State.dropViolation (s : State) (lines : List Nat) : Option (Nat × Nat) :=
  lines.findSome? fun l => (s.violationKind (l * 128) true).map fun k => (l * 128, k)

/-- Lines dropped by an instruction of a block: at their banks, and the tile's L1 copies (R160). A drop that must wait is a request of
the instruction's; its token is not DONE before it is performed (R79). -/
def State.dropLines (s : State) (tile uid : Nat) (lines : List Nat) : State :=
  lines.foldl (fun t l => (t.adjTile tile fun x => x.l1Drop l).submit
    { agent := .engine tile, uid := uid, addr := l * 128, kind := .drop, ack := false }) s

/-- Do drops of a block's instructions wait? -/
def State.dropsWait (s : State) (tile uid : Nat) : Bool :=
  s.felt.waiting.any fun r => r.agent == .engine tile && r.uid == uid

/-! ### Issue of a group's instruction -/

/-- The mark of a sector of device memory as its home bank holds it, read without effect. -/
def State.peekMark (s : State) (sn : Nat) : Option PoisonClass :=
  if s.felt.dead.contains (sn / 4) then some .dead else
  let mem := match s.page (sn / 65536) with
    | none => none
    | some p =>
      if p.lost then some PoisonClass.link
      else if p.zeromask.getLsbD (subOfSect sn) then none
      else (s.tierRead p.tier (physSect p.frame sn)).mark
  match NMap.look s.felt.lines (sn / 4) with
  | some l => (match l.sectors[sn % 4]? with
    | some x => if x.present then x.val.mark else mem
    | none => mem)
  | none => mem

/-- What an instruction of a group does where the group can issue it: its block runs, its path is not parked, its loads have
returned, the block is not being saved and the tile is not changing its clock. A fetch that reads poison faults POISON_TRAP
(R293). Where the group cannot issue, nothing happens. -/
def State.issue (s : State) (g : GroupRef) (k : Block → Group → Path → State) : State :=
  match s.block g.tile g.slot with
  | none => s
  | some b =>
    if b.exiting || b.saving || (s.tile g.tile).retune then s else
    match b.groups[g.group]? with
    | none => s
    | some gr =>
      if 0 < gr.loads then s else
      match gr.running with
      | none => s
      | some p =>
        if (s.peekMark (p.pc / 32)).isSome then s.threadFault g fPoisonTrap (some (0, p.pc)) 0 else k b gr p

/-- An instruction that reads registers, with what the parity check of them found: an error is replayed, and one that recurs in the
replay faults REGFILE_PARITY (R138, R288). -/
def State.regParity (s : State) (g : GroupRef) (hit : ParityHit) (k : State → State) : State :=
  match hit with
  | .none => k s
  | .once => k (s.issue g fun _ _ _ => s.parityReplay g.tile 0)
  | .recurs r => s.issue g fun _ _ _ => (s.parityReplay g.tile 0).threadFault g fRegfileParity none r

/-- An error check of the read of an operand's sector: of the owner's scratchpad, or of the Felt bank that holds it. -/
def State.operandError (s : State) (tile uid : Nat) (dev : Bool) (sn : Nat) (err : ErrHit) : State :=
  if !dev then s.scratchError tile uid sn err
  else match (NMap.look s.felt.lines (sn / 4)).bind fun l => l.sectors[sn % 4]? with
    | some x => if x.present then s.feltError sn tile err else s
    | none => s

/-- Is every one of the group's 32 threads in the mask (R124)? -/
def Path.whole (p : Path) : Bool := p.mask == 0xFFFFFFFF

end Sys2Proof.Machine
end

