-- ==== Sys2Proof/Machine/Matrix.lean ====
section
/-! DEFINITION. The matrix array (ch. 3): descriptors and issue (R75 to R82), weight loads (R60 to R67), activation rows
(R56, R89 to R91, R70 to R73), result banks and their drain (R58, R97 to R100), completion (R79, R80). -/

set_option Elab.async false

namespace Sys2Proof.Machine

open Sys2Proof

/-! ### Descriptors (R76) -/

/-- An address word. -/
def operandOf (w : W64) : Operand := { dev := w.getLsbD 63, addr := fld w 56 0 }

/-- A matrix descriptor from its eight words. -/
def mdescOf (w : List W64) : MDesc :=
  let x (i : Nat) : W64 := w.getD i 0
  { token := fld (x 0) 63 56, op := fld (x 0) 55 52, aFmt := fld (x 0) 51 48, wFmt := fld (x 0) 47 44,
    dFmt := fld (x 0) 43 40, shape := fld (x 0) 39 38, sub := fld (x 0) 37 36, grain := fld (x 0) 35 34,
    acc := (x 0).getLsbD 33, wkeep := (x 0).getLsbD 32, flush := (x 0).getLsbD 31, stats := (x 0).getLsbD 30,
    rnd := (x 0).getLsbD 29, dropA := (x 0).getLsbD 28, dropW := (x 0).getLsbD 27, statsOff := fld (x 0) 20 0,
    a := operandOf (x 1), w := operandOf (x 2), c := operandOf (x 3), d := operandOf (x 4),
    rows := fld (x 5) 63 48, k := fld (x 5) 47 36, n := fld (x 5) 35 27, topkK := fld (x 5) 26 23,
    rowBase := fld (x 5) 22 7, aStride := fld (x 6) 63 48, wStride := fld (x 6) 47 32, cStride := fld (x 6) 31 16,
    dStride := fld (x 6) 15 0, tagBase := fld (x 7) 57 42, wScale := fld (x 7) 41 21, aScale := fld (x 7) 20 0 }

/-- Are the reserved bits of a descriptor's words all zero? (DEDUCED, notes/assumptions/80.md). -/
def mdescRsvOk (w : List W64) : Bool :=
  let x (i : Nat) : W64 := w.getD i 0
  fld (x 0) 26 21 == 0 && fld (x 1) 62 57 == 0 && fld (x 2) 62 57 == 0 && fld (x 3) 62 57 == 0 && fld (x 4) 62 57 == 0 &&
    fld (x 5) 6 0 == 0 && fld (x 7) 63 58 == 0

/-- Sub-arrays, rows of cells, columns and most activation rows of a shape (R54). -/
def shapeSubs (sh : Nat) : Nat := if sh = 0 then 1 else if sh = 1 then 2 else 4
def shapeRows (sh : Nat) : Nat := if sh = 0 then 256 else 128
def shapeCols (sh : Nat) : Nat := if sh = 2 then 128 else 256

/-- Reduction elements per cell of a format's class (R55). -/
def perCell (fmt : Nat) : Nat := if fmt = 0xA then 8 else if fmt = 5 || fmt = 6 || fmt = 7 || fmt = 9 then 2 else 1

/-- Is the operation a top-k? -/
def isTopk (op : Nat) : Bool := op == 5 || op == 6

/-- Is an operand's address good: 32-byte aligned, and within the scratchpad part where it is an offset? -/
def operandOk (part : Nat) (o : Operand) : Bool := o.addr % 32 == 0 && (o.dev || decide (o.addr < part))

/-- Is a scratchpad offset good? -/
def offsetOk (part off align : Nat) : Bool := off % align == 0 && decide (off < part)

/-- The conditions of DESC_MALFORMED, the descriptor's own offset aside (R81). A SUBARRAY at or above the shape's count is one of them
here: the rule does not list it, and names no other fault for it. (DESIGN CHOICE, notes/assumptions/46.md). -/
def mdescOk (part : Nat) (w : List W64) (d : MDesc) : Bool :=
  mdescRsvOk w && decide (d.op ≤ 6) && decide (d.shape ≤ 2) &&
    decide (d.aFmt ≤ 0xB) && decide (d.wFmt ≤ 0xB) && decide (d.dFmt ≤ 0xB) &&
    decide (d.sub < shapeSubs d.shape) &&
    decide (1 ≤ d.rows) && decide (d.rows ≤ shapeRows d.shape) &&
    decide (1 ≤ d.k) && decide (d.k ≤ shapeRows d.shape * perCell d.aFmt) &&
    (d.grain ≠ 3 || d.k % 32 == 0) && (d.aFmt ≠ 0xA || d.k % 8 == 0) &&
    decide (1 ≤ d.n) && decide (d.n ≤ shapeCols d.shape) &&
    (isTopk d.op || (d.topkK == 0 && d.rowBase == 0)) &&
    decide (d.aStride ≠ 0) && decide (d.wStride ≠ 0) && decide (d.cStride ≠ 0) && decide (d.dStride ≠ 0) &&
    operandOk part d.a && operandOk part d.w && operandOk part d.d && (!d.acc || operandOk part d.c) &&
    offsetOk part d.statsOff 32 && (d.grain == 0 || (offsetOk part d.wScale 32 && offsetOk part d.aScale 32)) &&
    (!d.dropA || d.a.dev) && (!d.dropW || d.w.dev)

/-- The combinations of R78. -/
def mFormatsOk (d : MDesc) : Bool :=
  let a := d.aFmt
  let w := d.wFmt
  let fdst := d.dFmt ≤ 4
  if d.op = 0 then
    ((a == w && (a == 1 || a == 2)) && decide (d.grain ≤ 2) && fdst) ||
    ((a == 3 || a == 4) && (w == 3 || w == 4) && fdst) ||
    ((a == 5 || a == 6 || a == 7) && (w == 5 || w == 6 || w == 7) && d.grain == 3 && fdst) ||
    ((a == w && (a == 8 || a == 9)) && decide (d.grain ≤ 2) && (d.dFmt == 0xB || d.dFmt == 8 || d.dFmt == 9))
  else if d.op = 1 || d.op = 2 then a == 1 && w == 1 && d.grain == 0 && (d.dFmt == 0 || d.dFmt == 1)
  else if d.op = 3 then a == 8 && w == 8 && d.grain == 0 && d.dFmt == 0xB
  else if d.op = 4 then a == 0xA && w == 0xA && d.grain == 0 && d.dFmt == 0xB
  else a == 1 && w == 1 && d.grain == 0 && d.dFmt == 0

/-- Is the accumulator an integer? -/
def MDesc.isInt (d : MDesc) : Bool := d.op == 3 || d.op == 4 || (d.op == 0 && (d.aFmt == 8 || d.aFmt == 9))

/-! ### Tokens and faults of instructions -/

/-- A token of an owner's block set. -/
def State.setToken (s : State) (tile uid t : Nat) (v : Token) : State :=
  s.adjOwner tile uid fun b => { b with tokens := NMap.put b.tokens t v }

/-- The log entries and the counter of an execution fault of an instruction, and its token DONE with it (R80, R81). -/
def State.instFault (s : State) (tile uid token off pc code : Nat) (addr : LogAddr) (counter : Nat) : State :=
  let lin := match s.ownerBlock tile uid with
    | some b => b.linear
    | none => 0
  let s := (s.bump counter 1).logFault code tile addr (lin % 2 ^ 32 + token % 256 * 2 ^ 32) (some (0, pc)) off
  s.setToken tile uid token (Token.done (0x80 + code))

/-! ### MISSUE (R75, R125) -/

/-- The encoding check of MISSUE and CONVERT (R125): fields that must be zero, and the register. -/
def asyncOk (b : Block) (w : W64) (convert : Bool) : Bool :=
  let imm := w.getLsbD 39
  fld w 55 48 == 0 && fld w 30 21 == 0 && (convert || fld w 38 31 == 0) &&
    (if imm then fld w 47 40 == 0 else fld w 20 0 == 0 && decide (fld w 47 40 < b.nregs))

/-- The descriptor offset of MISSUE and CONVERT: the immediate, or lane 0 of VS (R126). -/
def asyncOffset (g : Group) (w : W64) : Nat :=
  if w.getLsbD 39 then fld w 20 0 else (g.lane0 (fld w 47 40)).val.toNat

/-- Does MISSUE or CONVERT read a poisoned register? -/
def asyncPoisoned (g : Group) (w : W64) : Bool := !w.getLsbD 39 && (g.lane0 (fld w 47 40)).mark.isSome

/-- An issue-time fault of MISSUE or CONVERT: counted under R81 or R107, logged with the token and the descriptor's offset, and the
block terminated. -/
def State.issueFault (s : State) (g : GroupRef) (token off code : Nat) (addr : LogAddr) (counter : Nat) : State :=
  match s.block g.tile g.slot with
  | none => s
  | some b =>
    let pc := ((b.groups[g.group]?).bind Group.running).map (fun p => (0, p.pc))
    ((s.bump counter 1).logFault code g.tile addr (b.linear % 2 ^ 32 + token % 256 * 2 ^ 32) pc off).terminate b code

/-- MISSUE (R75, R78, R81, R125). A full queue stalls it before its faults are looked for, and where several faults hold the first of the
table of R81 is taken; the rule gives no order. (DESIGN CHOICE, notes/assumptions/46.md). -/
def missue (g : GroupRef) (w : W64) (hit : ParityHit) (s : State) : State :=
  s.regParity g hit fun s => s.issue g fun b gr p =>
    if fld w 63 56 ≠ 0xE0 || !asyncOk b w false then s.threadFault g fIllegal none w.toNat
    else if !p.whole then s.threadFault g fPartialGroup none p.mask.toNat
    else if asyncPoisoned gr w then s.poisonControl g 0 (fld w 47 40)
    else if 0 < gr.stores then s
    else
      let off := asyncOffset gr w
      let part := b.launch.splitKib * 1024
      let t := s.tile g.tile
      let words := bytesWords (b.scratch.readN off 64)
      let d := mdescOf words
      if s.num Obj.matrixQueueDepth ≤ t.matrix.queue.length then s
      else if !offsetOk part off 64 || !mdescOk part words d then
        s.issueFault g d.token off fDescMalformed (some (3, off)) Obj.matrixFaultTotal
      else if !mFormatsOk d then s.issueFault g d.token off fFormatMismatch none Obj.matrixFaultTotal
      else if b.token d.token = some .pending then s.issueFault g d.token off fTokenBusy none Obj.matrixFaultTotal
      else if s.num Obj.matrixTokenCount ≤ d.token then s.issueFault g d.token off fTokenRange none Obj.matrixFaultTotal
      else
        let step := match s.entry b.seq with
          | some e => e.step
          | none => s.det.step
        let i : MInstr :=
          { desc := d, owner := b.uid, slot := b.slot, off := off, pc := p.pc, launch := b.launch, step := step,
            load := .front, useY := false, phase := .waitLoad, bank := none, sat := false, pois := false, satEvt := false,
            hdr := none, seff := [] }
        let s := s.setToken g.tile b.uid d.token .pending
        let s := s.adjTile g.tile fun t => { t with matrix := { t.matrix with queue := t.matrix.queue ++ [i] } }
        s.advanceGroup g

/-- The code a token wait reads, and the register checks of MWAIT and MPOLL (R125, R126). -/
def waitOk (b : Block) (w : W64) : Bool :=
  let imm := w.getLsbD 39
  decide (fld w 55 48 < b.nregs) && fld w 30 21 == 0 && fld w 20 0 == 0 &&
    (if imm then fld w 47 40 == 0 else fld w 38 31 == 0 && decide (fld w 47 40 < b.nregs))

/-- The token of MWAIT and MPOLL. -/
def waitToken (g : Group) (w : W64) : Nat :=
  if w.getLsbD 39 then fld w 38 31 else (g.lane0 (fld w 47 40)).val.toNat

/-- A value written to VD in every lane. -/
def Group.setAll (g : Group) (r : Nat) (v : W32) : Group :=
  (List.range 32).foldl (fun x l => x.setReg l r { val := v, mark := none }) g

/-- MWAIT (poll = false) and MPOLL on a token (R79, R126). (DEDUCED, notes/assumptions/46.md). -/
def tokenWait (opcode : Nat) (poll : Bool) (g : GroupRef) (w : W64) (s : State) : State :=
  s.issue g fun b gr p =>
    if fld w 63 56 ≠ opcode || !waitOk b w then s.threadFault g fIllegal none w.toNat
    else if !p.whole then s.threadFault g fPartialGroup none p.mask.toNat
    else if asyncPoisoned gr w then s.poisonControl g 0 (fld w 47 40)
    else
      let t := waitToken gr w
      let vd := fld w 55 48
      if s.num Obj.matrixTokenCount ≤ t then (s.bump Obj.matrixFaultTotal 1).threadFault g fTokenRange none t
      else
        match b.token t with
        | some .pending =>
          if poll then s.adjGroup g fun x => (x.setAll vd 0x100).advance else s
        | some (Token.done st) =>
          let s := s.adjBlock g.tile g.slot fun b => { b with tokens := NMap.del b.tokens t }
          s.adjGroup g fun x => (x.setAll vd (BitVec.ofNat 32 st)).advance
        | none => s.adjGroup g fun x => (x.setAll vd 0).advance

/-- MWAIT. -/
def mwait (g : GroupRef) (w : W64) (hit : ParityHit) (s : State) : State := s.regParity g hit (tokenWait 0xE1 false g w)

/-- MPOLL. -/
def mpoll (g : GroupRef) (w : W64) (hit : ParityHit) (s : State) : State := s.regParity g hit (tokenWait 0xE2 true g w)

/-! ### Dispatch (R63 to R67) -/

/-- An empty sub-array, and a free bank. -/
def SubArray.empty : SubArray :=
  { x := none, y := none, latestY := false, plan := none, part := [], sectors := [], queue := [] }
def Bank.free : Bank := { instr := none, full := false, drained := false, rows := [], topk := [], stat := none }

/-- The state with a tile's matrix array changed. -/
def State.adjMatrix (s : State) (tile : Nat) (f : Matrix → Matrix) : State :=
  s.adjTile tile fun t => { t with matrix := f t.matrix }

/-- The matrix with a sub-array changed. -/
def Matrix.adjSub (m : Matrix) (n : Nat) (f : SubArray → SubArray) : Matrix := { m with subs := adjAt m.subs n f }

/-- What an instruction's load is. -/
def loadOf (i : MInstr) : LoadInfo :=
  { op := i.desc.op, aFmt := i.desc.aFmt, wFmt := i.desc.wFmt, grain := i.desc.grain, k := i.desc.k, n := i.desc.n,
    owner := i.owner }

/-- The reason counted for a flush load against the latest load (R63, R67): 1 DATATYPE, 2 SEMIRING, 4 GRAIN, 5 DESCRIPTOR,
6 MODE; none for a front. -/
def flushReason (i : MInstr) (l : LoadInfo) (modeFlush : Bool) : Option Nat :=
  if i.desc.aFmt ≠ l.aFmt || i.desc.wFmt ≠ l.wFmt then some 1
  else if i.desc.op ≠ l.op then some 2
  else if i.desc.grain ≠ l.grain then some 4
  else if i.desc.flush then some 5
  else if modeFlush then some 6 else none

/-- A flush load counted (R67). -/
def State.countFlush (s : State) (tile reason : Nat) : State :=
  ((s.bump (Obj.flushLoadCount + tile) 1).bump Obj.flushLoadTotal 1).bump (Obj.flushByReason + (reason - 1)) 1

/-- An instruction joins its sub-array's queue with its load decided: with WKEEP it uses the register of the latest load,
else it loads the other one. -/
def SubArray.accept (a : SubArray) (i : MInstr) (k : LoadKind) : SubArray :=
  if i.desc.wkeep then
    { a with queue := a.queue ++ [{ i with load := .keep, useY := a.latestY, phase := .rows 0 }] }
  else
    { a with queue := a.queue ++ [{ i with load := k, useY := !a.latestY, phase := .waitLoad }]
             latestY := !a.latestY, plan := some (loadOf i) }

/-- The instruction of a sub-array whose load has not ended: the first that waits for its load or is loading. -/
def SubArray.toLoad (a : SubArray) : Option MInstr :=
  a.queue.find? fun i => match i.phase with
    | .waitLoad => true
    | .loading _ => true
    | _ => false

/-- Does a SHAPE change wait or flush (R65)? -/
def Matrix.changing (m : Matrix) : Bool :=
  m.change.isSome || m.subs.any fun a => match a.toLoad with
    | some i => i.load == .shape
    | none => false

/-- The matrix queue dispatches its oldest instruction (R63, R65, R66, R75). The first load of a sub-array that a SHAPE change left empty
is a front and is not counted, whatever FLUSH and `WeightChangeMode` say: R66 says so of the arrays of a new kernel, and no weights are
there to flush. (DESIGN CHOICE, notes/assumptions/46.md). -/
def matrixDispatch (tile : Nat) (s : State) : State :=
  let m := (s.tile tile).matrix
  if m.changing then s else
  match m.queue with
  | [] => s
  | i :: rest =>
    match m.shape with
    | none =>
      -- the kernel's first instruction sets the shape without a flush (R66)
      s.adjMatrix tile fun m =>
        { m with queue := rest, shape := some i.desc.shape
                 subs := adjAt (List.replicate (shapeSubs i.desc.shape) SubArray.empty) i.desc.sub fun a => a.accept i .front
                 banks := [Bank.free, Bank.free] }
    | some sh =>
      if sh ≠ i.desc.shape then s.adjMatrix tile fun m => { m with queue := rest, change := some i }
      else
        s.adjMatrix tile fun m =>
          let m := { m with queue := rest }
          m.adjSub i.desc.sub fun a =>
            match a.plan with
            | none => a.accept i .front
            | some l =>
              match flushReason i l (s.num Obj.weightChangeMode == 1) with
              | some r => a.accept i (.flush r)
              | none => a.accept i .front

/-! ### Scale areas (R92 to R96) -/

/-- A scale stream's entry `j`: its byte, its tag and its sector's mark. -/
def State.scaleEntry (s : State) (tile uid off j : Nat) : Nat × Nat × Option PoisonClass :=
  let sec := off + 32 + 32 * (j / 30)
  let r := s.scratchBytes tile uid sec 32
  let tag0 := leNat (r.1.take 2)
  (((r.1[2 + j % 30]?).map (·.toNat)).getD 0, (tag0 + j % 30) % 65536, r.2)

/-- The address of bits `[b, …)` of a row of an operand. -/
def eltAddr (o : Operand) (stride row fmt col : Nat) : Nat := o.addr + row * stride * 32 + col * fmtBits fmt / 8

/-- The weight scales captured at a load (R92, R96): block scales by column, channel scales, TSCALE and the marks by column;
or the fault SCALE_SKEW, or POISON_HALT with the sector of the first poisoned scale. -/
def State.weightScales (s : State) (tile : Nat) (i : MInstr) :
    State × OpRes (List (List Nat) × List W32 × W32 × List (Option PoisonClass)) :=
  let d := i.desc
  if d.grain = 0 then (s, .ok ([], [], f32One, List.replicate d.n none)) else
  let hdr := s.scratchWord tile i.owner d.wScale
  let kb := d.k / 32
  let chans := if d.grain = 2 then (List.range d.n).map fun n => s.scratchWord tile i.owner (d.wScale + 32 + 4 * n) else []
  let blocks := if d.grain = 3 then
      (List.range d.n).map fun n => (List.range kb).map fun b => (b, s.scaleEntry tile i.owner d.wScale (n * kb + b))
    else []
  let bad := if d.grain = 3 then
      ((List.range kb).flatMap fun b => (List.range d.n).filterMap fun n =>
        if (s.scaleEntry tile i.owner d.wScale (n * kb + b)).2.1 = (d.tagBase + n * kb + b) % 65536 then none
        else some (eltAddr d.w d.wStride (32 * b) d.wFmt n)).head?
    else none
  let used (n : Nat) : List (Option PoisonClass × Nat) :=
    (hdr.2, d.wScale) :: (((chans[n]?).map (·.2)).getD none, d.wScale + 32 + 4 * n / 32 * 32) ::
      ((blocks[n]?).getD []).map fun e => (e.2.2.2, d.wScale + 32 + 32 * ((n * kb + e.1) / 30))
  let marks := (List.range d.n).map fun n => firstMark ((used n).map (·.1))
  match bad with
  | some a => (s, .fault fScaleSkew (opAddr d.w.dev a))
  | none =>
    match ((List.range d.n).flatMap used).find? fun e => e.1.isSome, s.haltOn 1 with
    | some (some c, a), true =>
      (s.poisonHalted tile (some (3, a)) (s.ownerLinear tile i.owner) 1 c, .fault fPoisonHalt (some (3, a)))
    | _, _ => (s, .ok (blocks.map fun l => l.map fun e => e.2.1, chans.map (·.1), hdr.1, marks))

/-! ### Weight loads -/

/-- Weight rows from row `k` on, `n` of them, added to those already there: the rows so far, the sectors read of the row at which the
load waits, and what stopped it. Each sector is read once (R69). -/
def State.weightRows (tile : Nat) (i : MInstr) : Nat → Nat → List (List Elt) → List SectorVal → State →
    State × List (List Elt) × List SectorVal × OpRes Unit
  | 0, _, acc, _, s => (s, acc, [], .ok ())
  | n + 1, k, acc, got, s =>
    let a := (i.desc.w.addr + k * i.desc.wStride * 32) / 32
    match State.gather tile i.owner i.desc.w.dev ((rowBytes i.desc.wFmt i.desc.n + 31) / 32 - got.length) (a + got.length) got s with
    | (s, l, .ok _) => State.weightRows tile i n (k + 1) (acc ++ [eltsOf i.desc.wFmt i.desc.n l]) [] s
    | (s, l, r) => (s, acc, l, r)

/-- Has an instruction all its rows in a result bank? -/
def MInstr.inBank (i : MInstr) : Bool := i.phase == .inBank

/-- Have all rows of an instruction issued? Its rows issue and reach the bank in one command. -/
def SubArray.registerFree (a : SubArray) (i : MInstr) : Bool :=
  (a.queue.takeWhile fun x => !(x.off == i.off && x.desc.token == i.desc.token && x.owner == i.owner)).all fun x =>
    x.useY != i.useY || x.inBank

/-- Have all earlier instructions of a sub-array their last row in a bank? -/
def SubArray.drainedBefore (a : SubArray) (i : MInstr) : Bool :=
  (a.queue.takeWhile fun x => !(x.off == i.off && x.desc.token == i.desc.token && x.owner == i.owner)).all MInstr.inBank

/-- Is it the same instruction? A block has at most one pending instruction per token. -/
def MInstr.same (i j : MInstr) : Bool := i.owner == j.owner && i.desc.token == j.desc.token

/-- The columns of weights from rows. -/
def columnsOf (n : Nat) (rows : List (List Elt)) : List (List Elt) :=
  (List.range n).map fun c => rows.map fun r => r.getD c { code := 0, mark := none }

/-- An instruction removed from its sub-array and its bank. -/
def Matrix.remove (m : Matrix) (i : MInstr) : Matrix :=
  { m with
    subs := m.subs.map fun a => { a with queue := a.queue.filter fun x => !x.same i }
    kept := m.kept.filter fun x => !x.same i
    banks := m.banks.map fun b => match b.instr with
      | some x => if x.same i then Bank.free else b
      | none => b }

/-- A fault of an instruction's weight load: the register it loads, the latest of the sub-array, has no valid weights (R82). -/
def State.loadFault (s : State) (tile : Nat) (i : MInstr) (code : Nat) (addr : LogAddr) : State :=
  let s := s.adjMatrix tile fun m =>
    (m.remove i).adjSub i.desc.sub fun a =>
      { a with part := [], sectors := [], x := if i.useY then a.x else none, y := if i.useY then none else a.y }
  s.instFault tile i.owner i.desc.token i.off i.pc code addr Obj.matrixFaultTotal

/-- The starts of the rows of W and of A. -/
def MDesc.wStarts (d : MDesc) : List Nat := (List.range d.k).map fun r => d.w.addr + r * d.wStride * 32
def MDesc.aStarts (d : MDesc) : List Nat := (List.range d.rows).map fun r => d.a.addr + r * d.aStride * 32

/-- The lines DROP_W drops once the load has read its last sector (R185). -/
def MDesc.wDrops (d : MDesc) : List Nat :=
  if d.dropW then (List.range d.k).flatMap fun r => lastLines d.wStarts (rowBytes d.wFmt d.n) r else []

/-- The lines DROP_A drops once row `m` has issued (R185). -/
def MDesc.aDrops (d : MDesc) (m : Nat) : List Nat := if d.dropA then lastLines d.aStarts (rowBytes d.aFmt d.k) m else []

/-- A load of an instruction from where it stands: the register written and the rows able to issue, the place where it waits, or
its fault. (DEDUCED, notes/assumptions/46.md). -/
def State.runLoad (s : State) (tile : Nat) (i : MInstr) (part : List (List Elt)) (sectors : List SectorVal) : State :=
  match s.weightScales tile i with
  | (s, .fault c a) => s.loadFault tile i c a
  | (s, .wait) => s
  | (s, .ok (bs, cs, ts, ms)) =>
    match State.weightRows tile i (i.desc.k - part.length) part.length part sectors s with
    | (s, rows, got, .wait) =>
      s.adjMatrix tile fun m => m.adjSub i.desc.sub fun a =>
        { a with part := rows, sectors := got
                 queue := a.queue.map fun x => if x.same i then { x with phase := .loading rows.length } else x }
    | (s, _, _, .fault c a) => s.loadFault tile i c a
    | (s, rows, _, .ok _) =>
      match s.dropViolation i.desc.wDrops with
      | some (a, k) => (s.violation a tile k).loadFault tile i fAddress (some (0, a))
      | none =>
        let wts : Weights :=
          { cols := columnsOf i.desc.n rows, blockSc := bs, chanSc := cs, tscale := ts, marks := ms, info := loadOf i }
        let s := s.adjMatrix tile fun m => m.adjSub i.desc.sub fun a =>
          let a := if i.useY then { a with y := some wts } else { a with x := some wts }
          { a with part := [], sectors := []
                   queue := a.queue.map fun x => if x.same i then { x with phase := .rows 0 } else x }
        s.dropLines tile i.owner i.desc.wDrops

/-- The sub-array of a tile. -/
def State.sub (s : State) (tile n : Nat) : Option SubArray := (s.tile tile).matrix.subs[n]?

/-- A Gauze front starts once the previous users of the loading register have passed the cell stage (R61, R62); the issue
slots lost are added to `GauzeWaitCycles` (R67). -/
def gauzeFrontStart (tile sub wait : Nat) (s : State) : State :=
  match s.sub tile sub with
  | none => s
  | some a =>
    match a.toLoad with
    | none => s
    | some i =>
      if i.load = .front && i.phase = .waitLoad && a.registerFree i then
        (s.bump Obj.gauzeWaitCycles wait).runLoad tile i [] []
      else s

/-- A load that waits at a cell row goes on; for a front the issue slots lost are added to `GauzeWaitCycles` (R62, R67). -/
def gauzeFrontResume (tile sub wait : Nat) (s : State) : State :=
  match s.sub tile sub with
  | none => s
  | some a =>
    match a.toLoad with
    | none => s
    | some i =>
      match i.phase with
      | .loading _ => (if i.load = .front then s.bump Obj.gauzeWaitCycles wait else s).runLoad tile i a.part a.sectors
      | _ => s

/-- A flush load: once every earlier instruction of the sub-array is in a bank, both registers are discarded and the load
writes its register (R64); counted with its reason (R67). -/
def flushLoad (tile sub : Nat) (s : State) : State :=
  match s.sub tile sub with
  | none => s
  | some a =>
    match a.toLoad with
    | none => s
    | some i =>
      match i.load, i.phase with
      | .flush r, .waitLoad =>
        if a.drainedBefore i then
          let s := s.countFlush tile r
          let s := s.adjMatrix tile fun m => m.adjSub sub fun a => { a with x := none, y := none }
          s.runLoad tile i [] []
        else s
      | _, _ => s

/-- A change of shape once every instruction is in a bank: the new shape's sub-arrays have no weights but the instruction's
own, loaded during the flush (R65). A load with reason SHAPE is counted unless a datatype or semiring change comes first
(R67): for that the load is compared with the latest one of the first sub-array that has had one. (DESIGN CHOICE,
notes/assumptions/46.md). -/
def shapeChange (tile : Nat) (s : State) : State :=
  let m := (s.tile tile).matrix
  match m.change with
  | none => s
  | some i =>
    if m.subs.all fun a => a.queue.all MInstr.inBank then
      let old := (m.subs.findSome? fun a => a.plan)
      let reason := match old with
        | none => 3
        | some l => (match flushReason i l false with
          | some 1 => 1
          | some 2 => 2
          | _ => 3)
      let s := if i.desc.wkeep then s else s.countFlush tile reason
      let s := s.adjMatrix tile fun m =>
        { m with change := none, shape := some i.desc.shape
                 kept := m.kept ++ m.subs.flatMap fun a => a.queue
                 subs := adjAt (List.replicate (shapeSubs i.desc.shape) SubArray.empty) i.desc.sub fun a => a.accept i .shape }
      match ((s.sub tile i.desc.sub).bind SubArray.toLoad) with
      | some j => s.runLoad tile j [] []
      | none => s
    else s

/-! ### Arithmetic of one row (R89 to R91, R70 to R73) -/

/-- The sum of contributions of R89, aligned to the largest and cut 64 places below its leading bit; NaN and infinities as
R90 says. -/
def columnSum (l : List FVal) : FVal :=
  if l.any FVal.isNan then .nan
  else if l.any (fun v => v == .inf false) && l.any (fun v => v == .inf true) then .nan
  else if l.any (fun v => v == .inf false) then .inf false
  else if l.any (fun v => v == .inf true) then .inf true
  else
    let ds := l.filterMap fun v => match v with
      | .fin d => some d
      | _ => none
    let nz := ds.filter fun d => decide (d.m ≠ 0)
    match nz with
    | [] => .fin { neg := ds.all fun d => d.neg, m := 0, e := 0 }
    | d0 :: _ =>
      let top := nz.foldl (fun (t : Int) d => max t (d.e + (Nat.log2 d.m : Int))) (d0.e + (Nat.log2 d0.m : Int))
      let cut := top - 64
      let units (d : Dy) : Int :=
        let n : Nat := if cut ≤ d.e then d.m * pow2 (d.e - cut) else d.m / pow2 (cut - d.e)
        if d.neg then -(n : Int) else n
      .fin (dyOfInt (nz.foldl (fun (t : Int) d => t + units d) 0) cut false)

/-- RN(T × s + C) or RN(T × s); an exact zero is +0 unless every contribution and C are −0 (R89, R90). An infinity accumulated onto the
other one gives the canonical NaN, as in a sum of contributions; R90 does not name C there. (DEDUCED, notes/assumptions/47.md). -/
def scaleAcc (t s : FVal) (c : Option FVal) : W32 :=
  let p := FVal.mul t s
  let v := match c with
    | some c => FVal.add p c
    | none => p
  match v with
  | .fin d =>
    if d.m = 0 then
      let neg := t == .fin { neg := true, m := 0, e := 0 } && (match c with
        | some c => c.isZero && c.sign
        | none => true)
      f32Of (.fin { neg := neg, m := 0, e := 0 })
    else f32Of v
  | _ => f32Of v

/-- A block scale's value (R94). -/
def blockScale (e : Nat) : FVal := if e = 255 then .nan else twoTo ((e : Int) - 127)

/-- T of a column: products of elements and weights, with the block scales at BLOCK grain; masked elements give +0. -/
def floatColumn (d : MDesc) (a : List Elt) (aSc : List Nat) (w : List Elt) (wSc : List Nat) (cap : Nat) : FVal :=
  let prods := (List.range d.k).map fun k =>
    let p := FVal.mul (fmtVal d.aFmt ((a[k]?).map (·.code) |>.getD 0)) (fmtVal d.wFmt ((w[k]?).map (·.code) |>.getD 0))
    if d.grain = 3 then FVal.mul p (FVal.mul (blockScale (aSc.getD (k / 32) 0)) (blockScale (wSc.getD (k / 32) 0))) else p
  columnSum (if d.k < cap then fZero :: prods else prods)

/-- The integer sum of a column: products, absolute differences, or differing bits. -/
def intColumn (d : MDesc) (a w : List Elt) : Int :=
  let f (x y : Nat) : Int :=
    if d.op = 0 then sInt (fmtBits d.aFmt) x * sInt (fmtBits d.wFmt) y
    else if d.op = 3 then ((sInt 8 x - sInt 8 y).natAbs : Int)
    else if x = y then 0 else 1
  ((List.zipWith (fun (x y : Elt) => f x.code y.code) a w).foldl (· + ·) 0)

/-- x + w of the semirings in FP32: the absorbing infinity absorbs (R71); with `nanFirst`, in min-plus and max-plus, a NaN comes before
it, in top-k it does not. -/
def semiAdd (nanFirst minLike : Bool) (x w : FVal) : FVal :=
  if nanFirst && (x.isNan || w.isNan) then .nan
  else if minLike && (x == .inf false || w == .inf false) then .inf false
  else if !minLike && (x == .inf true || w == .inf true) then .inf true
  else rn32 (FVal.add x w)

/-- The min-plus or max-plus result of a column. Of +0 and −0 the smaller is −0 and the larger +0, as R187 has it for reductions; R70 is
silent. (DEDUCED, notes/assumptions/47.md). -/
def semiColumn (d : MDesc) (a w : List Elt) : FVal :=
  let minLike := d.op == 1
  (List.zipWith (fun (x y : Elt) => semiAdd true minLike (fmtVal d.aFmt x.code) (fmtVal d.wFmt y.code)) a w).foldl
    (fun t v => if minLike then FVal.min t v else FVal.max t v) (.inf (!minLike))

/-- The best value of a column for top-k with its reduction element; NaN never wins, a tie keeps the smaller (R73). -/
def topColumn (d : MDesc) (a w : List Elt) : Option (FVal × Nat) :=
  let minLike := d.op == 6
  let vs := (List.zipWith (fun (x y : Elt) => semiAdd false minLike (fmtVal d.aFmt x.code) (fmtVal d.wFmt y.code)) a w).zip
    (List.range d.k)
  vs.foldl (fun b v =>
    if v.1.isNan then b else
    match b with
    | none => some v
    | some c => if (if minLike then FVal.lt v.1 c.1 else FVal.lt c.1 v.1) then some v else some c) none

/-- Does record `x` come before `y`: better value, then smaller index (R73)? -/
def topBefore (minLike : Bool) (x y : W32 × W32) : Bool :=
  let a := f32Val x.1
  let b := f32Val y.1
  if (if minLike then FVal.lt a b else FVal.lt b a) then true
  else if (if minLike then FVal.lt b a else FVal.lt a b) then false
  else decide (x.2.toNat < y.2.toNat)

/-- A record put into a list kept in order. -/
def topInsert (minLike : Bool) (x : W32 × W32) : List (W32 × W32) → List (W32 × W32)
  | [] => [x]
  | y :: l => if topBefore minLike x y then x :: y :: l else y :: topInsert minLike x l

/-- The mark of a result: its activation elements, its weights, its scales, then C. (DEDUCED, notes/assumptions/46.md). -/
def resultMark (a w : List Elt) (sc : List (Option PoisonClass)) (c : Option PoisonClass) : Option PoisonClass :=
  firstMark (a.map (·.mark) ++ w.map (·.mark) ++ sc ++ [c])

/-- s_eff of every column (R89, R91). -/
def seffOf (d : MDesc) (aT : W32) (wts : Weights) : List W32 :=
  (List.range d.n).map fun n =>
    if d.grain = 0 then f32One
    else f32Of (FVal.mul (f32Val aT) (f32Val (if d.grain = 2 then wts.chanSc.getD n 0 else wts.tscale)))

/-! ### An activation row -/

/-- The block scales of row `m` of A, with the mark and the address of the sector of each, or SCALE_SKEW at the first block whose tag differs (R96). -/
def State.rowScales (s : State) (tile : Nat) (i : MInstr) (m : Nat) : OpRes (List Nat × List (Option PoisonClass × Nat)) :=
  let d := i.desc
  if d.grain ≠ 3 then .ok ([], []) else
  let kb := d.k / 32
  let es := (List.range kb).map fun b => (b, s.scaleEntry tile i.owner d.aScale (m * kb + b))
  match es.find? fun e => e.2.2.1 ≠ (d.tagBase + m * kb + e.1) % 65536 with
  | some e => .fault fScaleSkew (opAddr d.a.dev (eltAddr d.a d.aStride m d.aFmt (32 * e.1)))
  | none => .ok (es.map fun e => e.2.1, es.map fun e => (e.2.2.2, d.aScale + 32 + 32 * ((m * kb + e.1) / 30)))

/-- An execution fault of an instruction past its load: it leaves its sub-array and its bank (R81). -/
def State.rowFault (s : State) (tile : Nat) (i : MInstr) (code : Nat) (addr : LogAddr) : State :=
  let s := s.adjMatrix tile fun m => m.remove i
  s.instFault tile i.owner i.desc.token i.off i.pc code addr Obj.matrixFaultTotal

/-- The pages that the rows of C and D touch checked before C is read or D written (R82). -/
def State.destFault (s : State) (d : MDesc) : Option (Nat × Nat) :=
  let rowsD := if isTopk d.op then d.n else d.rows
  let lenD := if isTopk d.op then 8 * (d.topkK + 1) else rowBytes d.dFmt d.n
  let lenC := if isTopk d.op then 8 * (d.topkK + 1) else 4 * d.n
  let starts (o : Operand) (stride : Nat) : List Nat := (List.range rowsD).map fun r => o.addr + r * stride * 32
  match if d.acc && d.c.dev then s.rowsViolation lenC false (starts d.c d.cStride) else none with
  | some x => some x
  | none => if d.d.dev then s.rowsViolation lenD true (starts d.d d.dStride) else none

/-- The instruction of a sub-array whose next row can issue: the first that has not all its rows in a bank. -/
def SubArray.toIssue (a : SubArray) : Option MInstr := a.queue.find? fun i => !i.inBank

/-- The record that fills a top-k list: −∞, or +∞ in TOPK_MIN, with index 0xFFFF_FFFF (R73). -/
def topFill (op : Nat) : W32 × W32 := (if op = 6 then f32PosInf else f32NegInf, 0xFFFFFFFF)

/-- The list a merge starts from: C's records in the order of R73, without those whose value is a NaN, filled up to `k`. -/
def topOrdered (op k : Nat) (recs : List (W32 × W32)) : List (W32 × W32) :=
  let l := (recs.filter fun r => !(f32Val r.1).isNan).foldl (fun t r => topInsert (op == 6) r t) []
  l ++ List.replicate (k - l.length) (topFill op)

/-- The records of every column read from C, or the wait or fault (R73). -/
def State.topkFromC (tile : Nat) (i : MInstr) : Nat → Nat → State → State × OpRes (List (List (W32 × W32) × Option PoisonClass))
  | 0, _, s => (s, .ok [])
  | n + 1, c, s =>
    match s.opRow tile i.owner i.desc.c.dev (i.desc.c.addr + c * i.desc.cStride * 32) 0 (2 * (i.desc.topkK + 1)) with
    | (s, .ok row) =>
      match State.topkFromC tile i n (c + 1) s with
      | (s, .ok rest) =>
        let recs := (List.range (i.desc.topkK + 1)).map fun j =>
          (BitVec.ofNat 32 ((row[2 * j]?).map (·.code) |>.getD 0), BitVec.ofNat 32 ((row[2 * j + 1]?).map (·.code) |>.getD 0))
        (s, .ok ((topOrdered i.desc.op (i.desc.topkK + 1) recs, firstMark (row.map (·.mark))) :: rest))
      | r => r
    | (s, .wait) => (s, .wait)
    | (s, .fault c a) => (s, .fault c a)

/-- The records a bank starts with: those of C, or the filling record (R73). -/
def State.topkStart (s : State) (tile : Nat) (i : MInstr) : State × OpRes (List (List (W32 × W32) × Option PoisonClass)) :=
  if i.desc.acc then State.topkFromC tile i i.desc.n 0 s
  else (s, .ok (List.replicate i.desc.n (List.replicate (i.desc.topkK + 1) (topFill i.desc.op), none)))

/-- One row of results for a bank, whether an INT32 sum saturated, and the top-k candidates. -/
def rowValues (i : MInstr) (wts : Weights) (seff : List W32) (a : List Elt) (aSc : List Nat)
    (aMarks : List (Option PoisonClass)) (c : Option (List Elt)) : List RegVal × Bool :=
  let d := i.desc
  let cap := shapeRows d.shape * perCell d.aFmt
  let one (n : Nat) : RegVal × Bool :=
    let w := wts.cols.getD n []
    let cv := (c.bind fun l => l[n]?).map (·.code)
    let cm := (c.bind fun l => l[n]?).bind (·.mark)
    let mark := resultMark a w (wts.marks.getD n none :: aMarks) cm
    if d.isInt then
      let r := sat32 (intColumn d a w + (match cv with
        | some x => sInt 32 x
        | none => 0))
      (⟨BitVec.ofInt 32 r.1, mark⟩, r.2)
    else if d.op = 0 then
      (⟨scaleAcc (floatColumn d a aSc w (wts.blockSc.getD n []) cap) (f32Val (seff.getD n f32One)) (cv.map (f32.decode ·)),
        mark⟩, false)
    else if isTopk d.op then
      (match topColumn d a w with
       | some v => ⟨f32Of v.1, mark⟩
       | none => ⟨f32NaN, mark⟩, false)
    else
      let v := semiColumn d a w
      let v := match cv with
        | some x => if d.op = 1 then FVal.min v (f32.decode x) else FVal.max v (f32.decode x)
        | none => v
      (⟨f32Of v, mark⟩, false)
  let rs := (List.range d.n).map one
  (rs.map (·.1), rs.any (·.2))

/-- A bank's records after a row (R73): column `n` gains the row's best value with its index. -/
def topkMerge (i : MInstr) (wts : Weights) (m : Nat) (a : List Elt) (old : List (List (W32 × W32))) : List (List (W32 × W32)) :=
  (List.range i.desc.n).map fun n =>
    let l := old.getD n []
    match topColumn i.desc a (wts.cols.getD n []) with
    | none => l
    | some (v, k) =>
      (topInsert (i.desc.op == 6) (f32Of v, BitVec.ofNat 32 ((i.desc.rowBase + m) * 256 + k)) l).take (i.desc.topkK + 1)

/-- The bank an instruction fills: its own, or a free one. -/
def Matrix.bankFor (m : Matrix) (i : MInstr) : Option Nat :=
  match i.bank with
  | some b => some b
  | none => (List.range m.banks.length).find? fun b => (m.banks[b]?.bind (·.instr)).isNone

/-- The register an instruction's rows use. -/
def SubArray.register (a : SubArray) (i : MInstr) : Option Weights := if i.useY then a.y else a.x

/-- The weights of the register an instruction uses, where they count for it (R75, R81): a load of its own, or with WKEEP those of a
load by the same block with the same OP, formats, GRAIN, K and N. That register is the one of the latest load before the instruction,
whatever later instructions have loaded since (R60). -/
def SubArray.weightsFor (a : SubArray) (i : MInstr) : Option Weights :=
  (a.register i).filter fun w => !i.desc.wkeep || w.info == loadOf i

/-- A's header, read once (R93): A_TSCALE, DSCALE and its mark. -/
def State.headerOf (s : State) (tile : Nat) (i : MInstr) : W32 × W32 × Option PoisonClass :=
  match i.hdr with
  | some h => h
  | none =>
    if i.desc.grain = 0 then (f32One, f32One, none)
    else
      let t := s.scratchWord tile i.owner i.desc.aScale
      let d := s.scratchWord tile i.owner (i.desc.aScale + 4)
      (t.1, d.1, t.2)

/-- Row `m` of an instruction with its weights: C read, results written into the bank, and the lines dropped that no later row reads
(R185). -/
def State.issueRow (s0 : State) (tile m : Nat) (i : MInstr) (wts : Weights) (bank : Nat) (s : State) : State :=
  let d := i.desc
  match (if m = 0 then s.destFault d else none) with
  | some (a, k) => (s.violation a tile k).rowFault tile i fAddress (some (0, a))
  | none =>
  match s.rowScales tile i m with
  | .fault c a => s.rowFault tile i c a
  | .wait => s0
  | .ok (aSc, aMarks) =>
  match s.opRow tile i.owner d.a.dev (d.a.addr + m * d.aStride * 32) d.aFmt d.k with
  | (s, .wait) => s0.keepDefer s
  | (s, .fault c a) => s.rowFault tile i c a
  | (s, .ok a) =>
  let hdr := s.headerOf tile i
  let used := (hdr.2.2, d.aScale) :: aMarks
  let scMarks := used.map (·.1)
  match used.find? fun e => e.1.isSome, s.haltOn 1 with
  | some (some c, x), true =>
    (s.poisonHalted tile (some (3, x)) (s.ownerLinear tile i.owner) 1 c).rowFault tile i fPoisonHalt (some (3, x))
  | _, _ =>
  match (if d.acc && !isTopk d.op then
      (match s.opRow tile i.owner d.c.dev (d.c.addr + m * d.cStride * 32) 0 d.n with
       | (s, .ok l) => (s, OpRes.ok (some l))
       | (s, .wait) => (s, .wait)
       | (s, .fault c a) => (s, .fault c a))
    else (s, OpRes.ok none)) with
  | (s, .wait) => s0.keepDefer s
  | (s, .fault c a) => s.rowFault tile i c a
  | (s, .ok c) =>
  match (if isTopk d.op && m = 0 then s.topkStart tile i else (s, OpRes.ok [])) with
  | (s, .wait) => s0.keepDefer s
  | (s, .fault c a) => s.rowFault tile i c a
  | (s, .ok start) =>
  let seff := if i.seff.isEmpty then seffOf d hdr.1 wts else i.seff
  let r := rowValues i wts seff a aSc scMarks c
  let vals := if m = 0 && !start.isEmpty then
      List.zipWith (fun (v : RegVal) (t : List (W32 × W32) × Option PoisonClass) => { v with mark := orMark v.mark t.2 }) r.1 start
    else r.1
  let last := m + 1 == d.rows
  let i' : MInstr := { i with
    phase := if last then .inBank else .rows (m + 1), bank := some bank, sat := i.sat || r.2,
    pois := i.pois || vals.any fun v => v.mark.isSome, hdr := some hdr, seff := seff }
  let s := s.adjMatrix tile fun mx =>
    let mx := mx.adjSub d.sub fun a => { a with queue := a.queue.map fun x => if x.same i then i' else x }
    { mx with banks := adjAt mx.banks bank fun b =>
        { instr := some i', full := last, drained := false, rows := b.rows ++ [vals],
          topk := if isTopk d.op then topkMerge i wts m a (if m = 0 then start.map (·.1) else b.topk) else [],
          stat := none } }
  match s.dropViolation (d.aDrops m) with
  | some (a, k) => (s.violation a tile k).rowFault tile i fAddress (some (0, a))
  | none => s.dropLines tile i.owner (d.aDrops m)

/-- An activation row issues (R56, R57): the next row of the sub-array's oldest instruction with its weights in place and a
bank to fill. `err` is what the check of the row's first sector found. A parity error that replays cleanly is logged; one that recurs
marks the tile faulted (R288). -/
def activationRowIssue (tile sub : Nat) (hit : ParityHit) (err : ErrHit) (s : State) : State :=
  match s.sub tile sub with
  | none => s
  | some a =>
    match a.toIssue with
    | none => s
    | some i =>
      match i.phase with
      | .rows m =>
        match (s.tile tile).matrix.bankFor i with
        | none => s
        | some bank =>
          let s1 := match hit with
            | .none => s
            | _ => s.parityReplay tile 1
          match hit with
          | .recurs _ => s1.faultService tile
          | _ =>
            match a.weightsFor i with
            | none => s1.rowFault tile i fWeightsAbsent none
            | some wts =>
              State.issueRow s tile m i wts bank
                (s1.operandError tile i.owner i.desc.a.dev ((i.desc.a.addr + m * i.desc.aStride * 32) / 32) err)
      | _ => s

/-! ### Drain and completion -/

/-- The value of an accumulator as the converter's source: the FP32 result, or the integer times RN(A_TSCALE × W_x) (R91). -/
def sourceOf (d : MDesc) (seff : W32) (v : W32) : FVal :=
  if d.isInt then FVal.mul (.fin { neg := decide (v.toInt < 0), m := v.toInt.natAbs, e := 0 }) (f32Val seff) else f32Val v

/-- The element's draw of R99 for the drain. -/
def drainDraw (seed : W64) (tile : Nat) (i : MInstr) (rowAddr n : Nat) : Nat :=
  let addr := rowAddr + eltBit i.desc.dFmt n / 8
  (rngDraw seed i.step (drawPosition i.desc.token i.desc.d.dev addr) tile n 1).toNat % 65536

/-- An element written as FP32 (R97 to R99): y rounded as the settings say; an overflow is an infinity in either OverflowMode, since
R100 has no FP32 row. (DESIGN CHOICE, notes/assumptions/47.md). -/
def fp32Out (e : CElt) : Nat :=
  match e.y with
  | .fin d => (match f32.round e.mode d.m d.e with
    | .code c => f32.signed d.neg c
    | .overflow => f32.ofVal (.inf d.neg))
  | v => f32.ofVal v

/-- A row of a bank converted to D_FMT, and the statistics. -/
def drainRow (seed : W64) (tile : Nat) (i : MInstr) (m : Nat) (vals : List RegVal) (st : CStat) : List Elt × CStat :=
  let d := i.desc
  let rowAddr := d.d.addr + m * d.dStride * 32
  let ds := (i.hdr.map fun h => h.2.1).getD f32One
  let sv := if d.grain = 0 then FVal.fin Dy.one else f32Val ds
  let rv := recip sv
  let stoch := d.rnd && i.launch.stoch
  let els := (vals.zip (List.range d.n)).map fun (v : RegVal × Nat) =>
    ({ x := sourceOf d (i.seff.getD v.2 f32One) v.1.val, mark := v.1.mark, s := sv, o := fZero, r := rv,
       u := if stoch then some (drainDraw seed tile i rowAddr v.2) else none } : CElt)
  if d.dFmt = 0xB then
    (vals.map fun v => { code := v.val.toNat, mark := v.mark },
     els.foldl (fun t e => t.step 0xB true e ⟨0, false, false, false⟩) st)
  else if d.dFmt = 0 then
    (els.map fun e => { code := fp32Out e, mark := e.mark },
     els.foldl (fun t e => t.step 0 true e ⟨0, false, false, false⟩) st)
  else convertRun d.dFmt i.launch.infOvf els st

/-- Rows of a bank written to D, from row `m` on. -/
def State.drainRows (seed : W64) (tile : Nat) (i : MInstr) : Nat → List (List RegVal) → CStat → State → State × Bool × CStat
  | _, [], st, s => (s, true, st)
  | m, vals :: l, st, s =>
    let r := drainRow seed tile i m vals st
    match State.destBytes tile i.owner i.desc.d.dev ((i.desc.d.addr + m * i.desc.dStride * 32) / 32)
        (rowPieces i.desc.dFmt r.1) s with
    | (s, true) => State.drainRows seed tile i (m + 1) l r.2 s
    | (s, false) => (s, false, st)

/-- Top-k records written by column (R74). -/
def State.drainTopk (tile : Nat) (i : MInstr) : Nat → List (List (W32 × W32)) → List (Option PoisonClass) → CStat → State →
    State × Bool × CStat
  | _, [], _, st, s => (s, true, st)
  | n, recs :: l, marks, st, s =>
    let mk := marks.headD none
    let els : List Elt := recs.flatMap fun r => [{ code := r.1.toNat, mark := mk }, { code := r.2.toNat, mark := mk }]
    let st := recs.foldl (fun t r => t.step 0 true
      { x := f32Val r.1, mark := mk, s := .fin Dy.one, o := fZero, r := .fin Dy.one, u := none } ⟨0, false, false, false⟩) st
    match State.destBytes tile i.owner i.desc.d.dev ((i.desc.d.addr + n * i.desc.dStride * 32) / 32) (rowPieces 0 els) s with
    | (s, true) => State.drainTopk tile i (n + 1) l (marks.drop 1) st s
    | (s, false) => (s, false, st)

/-- May every line of D be written now? -/
def State.destOpen (s : State) (d : MDesc) : Bool :=
  let rows := if isTopk d.op then d.n else d.rows
  let len := if isTopk d.op then 8 * (d.topkK + 1) else rowBytes d.dFmt d.n
  !d.d.dev || (List.range rows).all fun r => s.rangeOpen (d.d.addr + r * d.dStride * 32) len

/-- The instructions of an instruction's sub-array that have not completed, oldest first: those kept over a SHAPE change among them. -/
def Matrix.order (m : Matrix) (i : MInstr) : List MInstr :=
  (m.kept ++ ((m.subs[i.desc.sub]?).map (·.queue)).getD []).filter fun x => x.desc.shape == i.desc.shape && x.desc.sub == i.desc.sub

/-- An instruction replaced by its next form wherever it stands, its bank aside. -/
def Matrix.update (m : Matrix) (i : MInstr) : Matrix :=
  let put (l : List MInstr) : List MInstr := l.map fun x => if x.same i then i else x
  { m with kept := put m.kept, subs := m.subs.map fun a => { a with queue := put a.queue } }

/-- A full bank's instruction drained to D. -/
def State.drainBank (s0 : State) (tile bank : Nat) (b : Bank) (i : MInstr) (s : State) : State :=
  match s.destFault i.desc with
  | some (a, k) => (s.violation a tile k).rowFault tile i fAddress (some (0, a))
  | none =>
    if !s.destOpen i.desc then s0 else
    let d := i.desc
    let plain := d.dFmt == 0 || d.dFmt == 0xB
    let stoch := d.rnd && i.launch.stoch && d.dFmt != 0xB
    let seed := BitVec.ofNat 64 (s.num Obj.rngSeed)
    let marks := (List.range d.n).map fun n => firstMark (b.rows.map fun r => (r[n]?).bind (·.mark))
    match (if isTopk d.op then State.drainTopk tile i 0 b.topk marks (CStat.init false) s
           else State.drainRows seed tile i 0 b.rows (CStat.init stoch) s) with
    | (s, false, _) => s0.keepDefer s
    | (s, true, st) =>
      let s := if plain then s else s.bump Obj.conversionTotal 1
      let seq := match s.ownerBlock tile i.owner with
        | some x => x.seq
        | none => 0
      let evt := !plain && s.satEvent st.sat st.elements
      let s := if evt then s.raiseSat tile seq (opAddr d.d.dev d.d.addr) st.sat st.elements else s
      let scale := if d.grain = 0 then f32One.toNat else ((i.hdr.map fun h => h.2.1).getD f32One).toNat
      let i' := { i with satEvt := evt, pois := i.pois || st.poison }
      s.adjMatrix tile fun mx =>
        { mx.update i' with banks := adjAt mx.banks bank fun b =>
            { b with instr := some i', drained := true, stat := some (st.record plain evt d.dFmt scale) } }

/-- A full result bank drains through the converter to D (R58, R97 to R100): in the order of the sub-array's instructions,
with every page of D checked first (R82). A parity error of the bank that replays cleanly is logged; one that recurs marks the tile
faulted (R288). -/
def resultBankDrain (tile bank : Nat) (hit : ParityHit) (s : State) : State :=
  let mx := (s.tile tile).matrix
  match mx.banks[bank]? with
  | none => s
  | some b =>
    match b.instr with
    | none => s
    | some i =>
      if !b.full || b.drained || !(((mx.order i).head?).map (fun x => x.same i) |>.getD false) then s else
      let s1 := match hit with
        | .none => s
        | _ => s.parityReplay tile 2
      match hit with
      | .recurs _ => s1.faultService tile
      | _ => State.drainBank s tile bank b i s1

/-- A drained instruction completes: its statistics record is placed, its token becomes DONE with its status, and its bank
is free (R79, R80, R108). It waits for the drops the instruction has made. -/
def matrixComplete (tile bank : Nat) (s : State) : State :=
  match (s.tile tile).matrix.banks[bank]? with
  | none => s
  | some b =>
    match b.instr with
    | none => s
    | some i =>
      if !b.drained || s.dropsWait tile i.owner then s else
      let s := if i.desc.stats then
          (s.destSector tile i.owner false (i.desc.statsOff / 32) 0 (recordBytes (b.stat.getD [])) none).1
        else s
      let s := if i.sat then s.bump Obj.accSatTotal 1 else s
      let s := s.setToken tile i.owner i.desc.token
        (Token.done (bit01 i.sat + 2 * bit01 i.pois + 4 * bit01 i.satEvt))
      s.adjMatrix tile fun mx => mx.remove i

end Sys2Proof.Machine
end

