-- ==== Sys2Proof/Machine/Convert.lean ====
section
/-! DEFINITION. The asynchronous conversion (ch. 4): descriptors and issue (R105 to R107), derived scales and their areas
(R92 to R95, R101, R102), the amax history (R103, R104), and the start and completion of CONVERT (R128). The core serves
the collective engines too (R97). -/

set_option Elab.async false

namespace Sys2Proof.Machine

open Sys2Proof

/-! ### A whole conversion -/

/-- A conversion with its settings resolved (R97). `source` and `purpose` key its draws. -/
structure CSet where
  fmt       : Nat
  grain     : Nat
  asym      : Bool
  infOvf    : Bool
  stoch     : Bool
  dir       : Bool
  stream    : Nat
  dev       : Bool
  dst       : Nat
  dstStride : Nat
  tagBase   : Nat
  rows      : Nat
  len       : Nat
  seed      : W64
  step      : W64
  source    : Nat
  purpose   : Nat
  deriving DecidableEq, Repr

/-- A source element: its value and mark. -/
abbrev SrcElt := FVal × Option PoisonClass

/-- Address of the destination's row. -/
def CSet.rowAddr (c : CSet) (i : Nat) : Nat := c.dst + i * c.dstStride * 32

/-- The sector that holds bit 0 of an element. -/
def CSet.sectorOf (c : CSet) (i k : Nat) : Nat := (c.rowAddr i + eltBit c.fmt k / 8) / 32

/-- An element's ordinal among those whose bit 0 lies in the same destination sector, in element order (R99). -/
def CSet.ordinal (c : CSet) (i k : Nat) : Nat :=
  let sec := c.sectorOf i k
  let earlier := (List.range i).map fun j =>
    if sec < c.rowAddr j / 32 || c.sectorOf j (c.len - 1) < sec then 0
    else ((List.range c.len).filter fun x => c.sectorOf j x == sec).length
  earlier.foldl (· + ·) 0 + ((List.range k).filter fun x => c.sectorOf i x == sec).length

/-- An element's draw (R99). -/
def CSet.draw (c : CSet) (i k : Nat) : Option Nat :=
  if c.stoch then
    some ((rngDraw c.seed c.step (drawPosition c.stream c.dev (c.sectorOf i k * 32)) c.source (c.ordinal i k)
      c.purpose).toNat % 65536)
  else none

/-- The group whose scale an element takes: its channel, or its block in the entry order of R95. -/
def CSet.groupOf (c : CSet) (i k : Nat) : Nat :=
  if c.grain = 2 then (if c.dir then k else i)
  else if c.grain = 3 then (if c.dir then k * (c.rows / 32) + i / 32 else i * (c.len / 32) + k / 32)
  else 0

/-- The columns of rows of elements. -/
def srcColumns (len : Nat) (rows : List (List SrcElt)) : List (List SrcElt) :=
  (List.range len).map fun k => rows.map fun r => r.getD k (fZero, none)

/-- The groups' elements: channels, or blocks of 32. -/
def CSet.groups (c : CSet) (rows : List (List SrcElt)) : List (List SrcElt) :=
  let lines := if c.dir then srcColumns c.len rows else rows
  if c.grain = 2 then lines else lines.flatMap fun l => chunksN 32 l.length l

/-- The scales of a conversion: by group at CHANNEL and BLOCK grain, else the one whole-tensor scale; with the zero-points
and how many groups had zero range. -/
def CSet.scales (c : CSet) (s : State) (whole : FVal × FVal × Bool) (rows : List (List SrcElt)) :
    List (FVal × FVal × Bool) :=
  if c.grain = 2 then (c.groups rows).map fun g => s.channelScale c.fmt c.asym g
  else if c.grain = 3 then (c.groups rows).map fun g => (twoTo (blockExp c.fmt (finiteAmax g)), fZero, false)
  else [whole]

/-- A row of elements with their scales and draws. -/
def CSet.rowElts (c : CSet) (scales : List (FVal × FVal × FVal)) (i : Nat) (row : List SrcElt) : List CElt :=
  (row.zip (List.range row.length)).map fun e =>
    let g := scales.getD (c.groupOf i e.2) (fZero, fZero, fZero)
    { x := e.1.1, mark := e.1.2, s := g.1, o := g.2.1, r := g.2.2, u := c.draw i e.2 }

/-- Rows converted one after the other. -/
def CSet.rowsOut (c : CSet) (scales : List (FVal × FVal × FVal)) : Nat → List (List SrcElt) → CStat → List (List Elt) × CStat
  | _, [], st => ([], st)
  | i, r :: l, st =>
    let x := convertRun c.fmt c.infOvf (c.rowElts scales i r) st
    let rest := CSet.rowsOut c scales (i + 1) l x.2
    (x.1 :: rest.1, rest.2)

/-- The largest of the scales. -/
def maxScale (l : List (FVal × FVal × Bool)) : FVal := l.foldl (fun a x => if FVal.lt a x.1 then x.1 else a) ((l.map (·.1)).headD fZero)

/-- The bytes of a scale area, sector by sector (R93 to R95): the header, then channel entries or scale sectors. Of the last sector the
bytes beyond the last entry are not written: they keep what they held, since R95 names no value for them.
(DESIGN CHOICE, notes/assumptions/47.md). -/
def CSet.area (c : CSet) (scales : List (FVal × FVal × Bool)) : List Bytes :=
  let word (v : FVal) : Bytes := natLE 4 (w32Nat v)
  let t : FVal × FVal := if c.grain = 1 then (match scales with
      | x :: _ => (x.1, x.2.1)
      | [] => (fZero, fZero)) else (.fin Dy.one, fZero)
  let header := word t.1 ++ word (.fin Dy.one) ++ word t.2 ++ List.replicate 20 0
  let entries : List Bytes :=
    if c.grain = 2 then
      let b := scales.flatMap fun x => if c.asym then word x.1 ++ word x.2.1 else word x.1
      chunksN 32 b.length b
    else if c.grain = 3 then
      let exps : Bytes := scales.map fun x => match x.1 with
        | .fin d => BitVec.ofInt 8 (d.e + 127)
        | _ => 0
      let cs := chunksN 30 exps.length exps
      (cs.zip (List.range cs.length)).map fun e => natLE 2 (c.tagBase + 30 * e.2) ++ e.1
    else []
  header :: entries

/-- What a conversion computes: destination rows, statistics, the scale area, the scale for the record, zero ranges. -/
structure COutput where
  rows  : List (List Elt)
  stat  : CStat
  area  : List Bytes
  scale : FVal
  zeros : Nat
  deriving DecidableEq, Repr

/-- A whole conversion of source rows, with the whole-tensor scale and zero-point at NONE and TENSOR grain. -/
def CSet.run (c : CSet) (s : State) (whole : FVal × FVal × Bool) (empty : Bool) (src : List (List SrcElt)) : COutput :=
  let scales := c.scales s whole src
  let zeros := (scales.filter fun x => x.2.2).length
  let st : CStat := { CStat.init c.stoch with zero := decide (0 < zeros), empty := empty }
  let r := c.rowsOut (scales.map fun x => (x.1, x.2.1, recip x.1)) 0 src st
  { rows := r.1, stat := r.2, area := if c.grain = 0 then [] else c.area scales,
    scale := if c.grain = 0 then .fin Dy.one else maxScale scales, zeros := zeros }

/-! ### Descriptors and issue (R105 to R107) -/

/-- A conversion descriptor from its eight words. -/
def cdescOf (w : List W64) : CDesc :=
  let x (i : Nat) : W64 := w.getD i 0
  { srcFmt := fld (x 0) 63 60, dstFmt := fld (x 0) 59 56, grain := fld (x 0) 55 54, rnd := (x 0).getLsbD 53,
    zpm := fld (x 0) 52 51, ovf := fld (x 0) 50 49, hist := (x 0).getLsbD 48, stats := (x 0).getLsbD 47,
    dir := (x 0).getLsbD 46, stream := fld (x 0) 45 34, statsOff := fld (x 0) 20 0,
    src := operandOf (x 1), dst := operandOf (x 2), dstScale := operandOf (x 3), histAddr := operandOf (x 4),
    rows := fld (x 5) 63 44, rowLen := fld (x 5) 43 24, tagBase := fld (x 5) 23 8,
    srcStride := fld (x 6) 63 32, dstStride := fld (x 6) 31 0,
    scale := BitVec.ofNat 32 (fld (x 7) 63 32), offset := BitVec.ofNat 32 (fld (x 7) 31 0) }

/-- Are the reserved bits of a conversion descriptor zero? (DEDUCED, notes/assumptions/80.md). -/
def cdescRsvOk (w : List W64) : Bool :=
  let x (i : Nat) : W64 := w.getD i 0
  fld (x 0) 33 21 == 0 && fld (x 1) 62 57 == 0 && fld (x 2) 62 57 == 0 && fld (x 3) 62 57 == 0 && fld (x 4) 62 57 == 0 &&
    fld (x 5) 7 0 == 0

/-- The conditions of CVT_MALFORMED, the descriptor's own offset aside (R107); scratchpad offsets lie within the part (R76).
(DEDUCED, notes/assumptions/47.md). -/
def cdescOk (part : Nat) (w : List W64) (d : CDesc) : Bool :=
  cdescRsvOk w && decide (d.srcFmt ≤ 0xB) && decide (d.dstFmt ≤ 0xB) && d.zpm != 3 && d.ovf != 3 &&
    operandOk part d.src && operandOk part d.dst && decide (d.srcStride ≠ 0) && decide (d.dstStride ≠ 0) &&
    decide (d.rows ≠ 0) && decide (d.rowLen ≠ 0) &&
    (d.grain ≠ 3 || (if d.dir then d.rows else d.rowLen) % 32 == 0) &&
    (d.grain == 0 || (!d.dstScale.dev && offsetOk part d.dstScale.addr 32)) &&
    (!d.hist || (d.histAddr.dev && d.histAddr.addr % 128 == 0)) && offsetOk part d.statsOff 32

/-- Is the zero-point asymmetric once ZPM is resolved (R97)? An explicit ZPM = 2 stays asymmetric for a floating destination too, and no
row of the format table then holds: it faults CVT_FORMAT. The rule's "symmetric for floating destinations" is read of the launch setting.
(DEDUCED, notes/assumptions/47.md). -/
def CDesc.asymIn (d : CDesc) (l : Launch) : Bool :=
  d.zpm == 2 || (d.zpm == 0 && l.asym && (d.dstFmt == 8 || d.dstFmt == 9))

/-- The combinations of R106. -/
def cFormatsOk (src dst grain : Nat) (asym hist : Bool) : Bool :=
  let narrow := dst == 8 || dst == 9
  (((src == 0 || src == 1 || src == 2) &&
      (((dst == 1 || dst == 2) && decide (grain ≤ 1)) || dst == 3 || dst == 4 ||
        ((dst == 5 || dst == 6 || dst == 7) && grain == 3))) ||
    ((src == 0 || src == 1 || src == 2 || src == 0xB) && narrow && decide (grain ≤ 2))) &&
    (!asym || (narrow && (grain == 1 || grain == 2))) && (!hist || (grain == 1 && !asym))

/-- CONVERT (R105 to R107, R125, R127, R128). Where several issue-time faults hold the first of the table of R107 is taken, after a full
queue has stalled it. (DESIGN CHOICE, notes/assumptions/46.md). -/
def convert (g : GroupRef) (w : W64) (hit : ParityHit) (s : State) : State :=
  s.regParity g hit fun s => s.issue g fun b gr p =>
    if fld w 63 56 ≠ 0xE3 || !asyncOk b w true then s.threadFault g fIllegal none w.toNat
    else if !p.whole then s.threadFault g fPartialGroup none p.mask.toNat
    else if asyncPoisoned gr w then s.poisonControl g 0 (fld w 47 40)
    else if 0 < gr.stores then s
    else
      let off := asyncOffset gr w
      let part := b.launch.splitKib * 1024
      let words := bytesWords (b.scratch.readN off 64)
      let d := cdescOf words
      let token := fld w 38 31
      if 8 ≤ (s.tile g.tile).matrix.cqueue.length then s
      else if !offsetOk part off 64 || !cdescOk part words d then
        s.issueFault g token off fCvtMalformed (some (3, off)) Obj.convertFaultTotal
      else if !cFormatsOk d.srcFmt d.dstFmt d.grain (d.asymIn b.launch) d.hist then
        s.issueFault g token off fCvtFormat none Obj.convertFaultTotal
      else if b.token token = some .pending then s.issueFault g token off fTokenBusy none Obj.convertFaultTotal
      else if s.num Obj.matrixTokenCount ≤ token then s.issueFault g token off fTokenRange none Obj.convertFaultTotal
      else
        let step := match s.entry b.seq with
          | some e => e.step
          | none => s.det.step
        let i : CInstr :=
          { desc := d, token := token, owner := b.uid, slot := b.slot, off := off, pc := p.pc, launch := b.launch,
            step := step, out := [], scales := [], stat := none, amax := 0, usedS := 0, sats := 0, elems := 0,
            pois := false, satEvt := false }
        let s := s.setToken g.tile b.uid token .pending
        let s := s.adjTile g.tile fun t => { t with matrix := { t.matrix with cqueue := t.matrix.cqueue ++ [i] } }
        s.advanceGroup g

/-! ### The history record (R103, R104) -/

/-- FILL, HEAD, STEP and the AMAX slots of a record's 128 bytes. -/
def histFill (b : Bytes) : Nat := leNat ((b.drop 77).take 1)
def histHead (b : Bytes) : Nat := leNat ((b.drop 76).take 1)
def histStep (b : Bytes) : Nat := leNat ((b.drop 64).take 8)
def histAmax (b : Bytes) (i : Nat) : Nat := leNat ((b.drop (4 * i)).take 4)

/-- Is the record valid (R103)? -/
def histOk (b : Bytes) : Bool := (b.drop 78).all (· == 0) && decide (histHead b ≤ 15) && decide (histFill b ≤ 16)

/-- The slots that count at a step, newest first: those of the current step left out. (DEDUCED, notes/assumptions/47.md). -/
def histSlots (b : Bytes) (step : Nat) : List Nat :=
  let l := (List.range (histFill b)).map fun k => (histHead b + 31 - k) % 16
  if 0 < histFill b && histStep b == step then l.drop 1 else l

/-- h: the largest AMAX of the slots that count, NaNs left out; none where no entry remains. -/
def histMax (b : Bytes) (step : Nat) : Option FVal :=
  match (histSlots b step).map fun i => f32.decode (histAmax b i) with
  | [] => none
  | l => some ((l.filter fun v => !v.isNan).foldl (fun a v => if a.isNan || FVal.lt a v then v else a) .nan)

/-- Slot `i` of the record replaced. -/
def histPut (b : Bytes) (i v : Nat) : Bytes := b.take (4 * i) ++ natLE 4 v ++ b.drop (4 * i + 4)

/-- The record after a conversion at a step with finite amax `a` and scale `sc` (R104). -/
def histUpdate (b : Bytes) (step a sc : Nat) : Bytes :=
  let newest := (histHead b + 15) % 16
  if 0 < histFill b && histStep b == step then
    let b := if FVal.lt (f32.decode (histAmax b newest)) (f32.decode a) then histPut b newest a else b
    b.take 72 ++ natLE 4 sc ++ b.drop 76
  else
    let head := histHead b % 16
    (histPut b head a).take 64 ++ natLE 8 step ++ natLE 4 sc ++ natLE 1 ((head + 1) % 16) ++
      natLE 1 (min (histFill b + 1) 16) ++ b.drop 78

/-! ### Start -/

/-- Source rows from row `i` on. -/
def State.sourceRows (tile uid : Nat) (d : CDesc) : Nat → Nat → State → State × OpRes (List (List SrcElt))
  | 0, _, s => (s, .ok [])
  | n + 1, i, s =>
    match s.opRow tile uid d.src.dev (d.src.addr + i * d.srcStride * 32) d.srcFmt d.rowLen with
    | (s, .ok row) =>
      match State.sourceRows tile uid d n (i + 1) s with
      | (s, .ok l) => (s, .ok ((row.map fun e => (fmtVal d.srcFmt e.code, e.mark)) :: l))
      | r => r
    | (s, .wait) => (s, .wait)
    | (s, .fault c a) => (s, .fault c a)

/-- The first violation of the pages that the rows of DST touch, and of the history record, checked before anything is written (R107). -/
def State.cdestFault (s : State) (d : CDesc) : Option (Nat × Nat) :=
  let starts := (List.range d.rows).map fun r => d.dst.addr + r * d.dstStride * 32
  match if d.dst.dev then s.rowsViolation (rowBytes d.dstFmt d.rowLen) true starts else none with
  | some x => some x
  | none => if d.hist then s.rangeViolation d.histAddr.addr 128 true else none

/-- The whole-tensor scale, zero-point and zero range, HIST_EMPTY, and the history's mark (R101, R104). -/
def State.wholeScale (s : State) (tile : Nat) (i : CInstr) : State × OpRes ((FVal × FVal × Bool) × Bool × Option PoisonClass) :=
  let d := i.desc
  if d.hist then
    match State.gather tile i.owner true 4 (d.histAddr.addr / 32) [] s with
    | (s, _, .wait) => (s, .wait)
    | (s, _, .fault c a) => (s, .fault c a)
    | (s, l, .ok _) =>
      let b := l.flatMap fun v => sectorBytes v.data
      let mark := firstMark (l.map (·.mark))
      if !histOk b then (s, .fault fHistInvalid (some (0, d.histAddr.addr)))
      else match histMax b i.step.toNat with
        | none => (s, .ok ((.fin Dy.one, fZero, false), true, mark))
        | some h =>
          if h.isZero then (s, .ok ((.fin Dy.one, fZero, true), false, mark))
          else (s, .ok ((s.symScale d.dstFmt h, fZero, false), false, mark))
  else if d.grain = 1 then
    (s, .ok ((f32Val d.scale, if d.asymIn i.launch then f32Val d.offset else fZero, false), false, none))
  else (s, .ok ((.fin Dy.one, fZero, false), false, none))

/-- The settings of CONVERT (R97). -/
def CInstr.settings (i : CInstr) (seed : W64) (tile : Nat) : CSet :=
  let d := i.desc
  { fmt := d.dstFmt, grain := d.grain, asym := d.asymIn i.launch,
    infOvf := if d.ovf = 0 then i.launch.infOvf else d.ovf == 2,
    stoch := d.rnd && i.launch.stoch, dir := d.dir, stream := d.stream, dev := d.dst.dev, dst := d.dst.addr,
    dstStride := d.dstStride, tagBase := d.tagBase, rows := d.rows, len := d.rowLen, seed := seed, step := i.step,
    source := tile, purpose := 2 }

/-- An execution-time fault of the running conversion: it leaves the queue and writes nothing (R107). -/
def State.convFault (s : State) (tile : Nat) (i : CInstr) (code : Nat) (addr : LogAddr) : State :=
  let s := s.adjMatrix tile fun m => { m with crun := none }
  s.instFault tile i.owner i.token i.off i.pc code addr Obj.convertFaultTotal

/-- The destination sectors of converted rows; `mark` is a mark every sector takes. -/
def outPieces (fmt base stride : Nat) (mark : Option PoisonClass) : Nat → List (List Elt) → List (Nat × Bytes × Option PoisonClass)
  | _, [] => []
  | i, r :: l =>
    let ps := rowPieces fmt r
    ((ps.zip (List.range ps.length)).map fun e => ((base + i * stride * 32) / 32 + e.2, e.1.1, orMark e.1.2 mark)) ++
      outPieces fmt base stride mark (i + 1) l

/-- The conversion at the head of the queue runs: its source is read and its results are computed (R97 to R102). -/
def State.runConversion (s0 : State) (tile : Nat) (i : CInstr) (s : State) : State :=
  let d := i.desc
  match s.cdestFault d with
  | some (a, k) => (s.violation a tile k).convFault tile i fAddress (some (0, a))
  | none =>
  match State.sourceRows tile i.owner d d.rows 0 s with
  | (s, .wait) => s0.keepDefer s
  | (s, .fault c a) => s.convFault tile i c a
  | (s, .ok src) =>
  match s.wholeScale tile i with
  | (s, .wait) => s0.keepDefer s
  | (s, .fault c a) => s.convFault tile i c a
  | (s, .ok (whole, empty, mark)) =>
  let c := i.settings (BitVec.ofNat 64 (s.num Obj.rngSeed)) tile
  let o := c.run s whole empty src
  let evt := s.satEvent o.stat.sat o.stat.elements
  let area := (o.area.zip (List.range o.area.length)).map fun e => (d.dstScale.addr / 32 + e.2, e.1)
  let i' : CInstr := { i with
    out := outPieces d.dstFmt d.dst.addr d.dstStride mark 0 o.rows
    scales := area
    stat := some (o.stat.record false evt d.dstFmt (w32Nat o.scale))
    amax := f32Of o.stat.fAmax, usedS := f32Of o.scale, sats := o.stat.sat, elems := o.stat.elements,
    pois := o.stat.poison || mark.isSome, satEvt := evt }
  (s.adjMatrix tile fun m => { m with crun := some i' }).bump Obj.zeroRangeTotal o.zeros

/-- A tile's converter takes its oldest conversion (R128). `err` is what the check of its first source sector found. -/
def conversionStart (tile : Nat) (err : ErrHit) (s : State) : State :=
  let m := (s.tile tile).matrix
  match m.crun, m.cqueue with
  | none, i :: rest =>
    State.runConversion s tile i ((s.operandError tile i.owner i.desc.src.dev (i.desc.src.addr / 32) err).adjMatrix tile fun m =>
      { m with cqueue := rest, crun := some i })
  | _, _ => s

/-! ### Completion -/

/-- Sector pieces written to a destination. -/
def State.writePieces (tile uid : Nat) (dev : Bool) : List (Nat × Bytes × Option PoisonClass) → State → State × Bool
  | [], s => (s, true)
  | (sn, bs, mark) :: l, s =>
    match s.destSector tile uid dev sn 0 bs mark with
    | (s, true) => State.writePieces tile uid dev l s
    | (s, false) => (s, false)

/-- The history record's update, one indivisible operation at its home bank (R104). -/
def State.updateHist (s : State) (tile : Nat) (i : CInstr) : State × Bool :=
  if !i.desc.hist then (s, true) else
  let sn := i.desc.histAddr.addr / 32
  match State.gather tile i.owner true 4 sn [] s with
  | (s, l, .ok _) =>
    let b := histUpdate (l.flatMap fun v => sectorBytes v.data) i.step.toNat i.amax.toNat i.usedS.toNat
    State.writePieces tile i.owner true
      ((List.range 4).map fun k => (sn + k, (b.drop (32 * k)).take 32, (l[k]?).bind (·.mark))) s
  | (s, _, .wait) => (s, false)
  | (s, _, .fault _ _) => (s, true)

/-- Every line the running conversion writes can be written now. -/
def State.convOpen (s : State) (i : CInstr) : Bool :=
  (!i.desc.dst.dev || i.out.all fun e => s.bankOpen (e.1 / 4)) && (!i.desc.hist || s.bankOpen (i.desc.histAddr.addr / 128))

/-- The running conversion completes: destination, scale area, history and statistics records are written, its saturation
event is raised, and its token becomes DONE (R79, R80, R104, R108, R110). -/
def conversionComplete (tile : Nat) (s : State) : State :=
  match (s.tile tile).matrix.crun with
  | none => s
  | some i =>
    match i.stat with
    | none => s
    | some rec =>
      if !s.convOpen i then s else
      match State.writePieces tile i.owner i.desc.dst.dev i.out s with
      | (t, false) => s.keepDefer t
      | (t, true) =>
        let t := (State.writePieces tile i.owner false (i.scales.map fun e => (e.1, e.2, none)) t).1
        match t.updateHist tile i with
        | (t, false) => s.keepDefer t
        | (t, true) =>
          let t := if i.desc.stats then
              (t.destSector tile i.owner false (i.desc.statsOff / 32) 0 (recordBytes rec) none).1
            else t
          let seq := match t.ownerBlock tile i.owner with
            | some x => x.seq
            | none => 0
          let t := if i.satEvt then t.raiseSat tile seq (opAddr i.desc.dst.dev i.desc.dst.addr) i.sats i.elems else t
          let t := (t.bump Obj.conversionTotal 1).setToken tile i.owner i.token
            (Token.done (2 * bit01 i.pois + 4 * bit01 i.satEvt))
          t.adjMatrix tile fun m => { m with crun := none }

end Sys2Proof.Machine
end

