-- ==== Sys2Proof/Machine/Threads.lean ====
section
/-! DEFINITION. The instructions of a thread group (ch. 5, 6, 7, 11): branches and EXIT (R121, R122), FP32 and group-wide
operations (R123, R124), scratchpad and device-memory accesses (R135, R143, R166), barriers (R130 to R133), fences (R151 to
R159), drops and reduction contributions (R182, R186), and RNG (R273). -/

set_option Elab.async false

namespace Sys2Proof.Machine

open Sys2Proof

/-! ### Checks every instruction makes -/

/-- ILLEGAL_INSTRUCTION of an instruction whose word the spec does not encode: the word logged is open.
(DEDUCED, notes/assumptions/49.md). -/
def State.illegalOp (s : State) (g : GroupRef) : State :=
  (s.drawn).threadFault g fIllegal none (Config.free64 s.dict.freeCount).toNat

/-- Registers beyond the launch allocation are illegal; a poisoned register of `ctl` in an active lane cannot control an
instruction (R138). -/
def State.checked (s : State) (g : GroupRef) (b : Block) (gr : Group) (lanes regs ctl : List Nat) (k : State) : State :=
  if regs.any fun r => decide (b.nregs ≤ r) then s.illegalOp g
  else match lanes.findSome? fun l => (gr.poisonedReg l ctl).map fun r => (l, r) with
    | some (l, r) => s.poisonControl g l r
    | none => k

/-- The same for an instruction with a word. -/
def State.checkedWord (s : State) (g : GroupRef) (b : Block) (gr : Group) (w : W64) (ok : Bool) (lanes regs ctl : List Nat)
    (k : State) : State :=
  if !ok || regs.any (fun r => decide (b.nregs ≤ r)) then s.threadFault g fIllegal none w.toNat
  else match lanes.findSome? fun l => (gr.poisonedReg l ctl).map fun r => (l, r) with
    | some (l, r) => s.poisonControl g l r
    | none => k

/-! ### Barriers: completion (R131) -/

/-- The parked paths of a kind resume after their barrier instruction. -/
def Group.resume (g : Group) (k : BarKind) : Group :=
  ({ g with stack := g.stack.map fun p => if p.parked = some k then { p with parked := none, pc := pcNext p.pc } else p }
    : Group).settled

/-- The expected count of a BAR instance: the live threads, or COUNT × 32 where that is smaller (R131). -/
def BarInst.expected (i : BarInst) (live : Nat) : Nat := if i.count = 0 then live else min (i.count * 32) live

/-- A block's barrier instances that have all their arrivals complete. -/
def Block.settleBars (b : Block) : Block :=
  let full := b.bars.filter fun e => decide (e.2.expected b.live ≤ e.2.arrived)
  { b with
    bars := b.bars.filter fun e => !(decide (e.2.expected b.live ≤ e.2.arrived))
    groups := full.foldl (fun gs e => gs.map fun g => g.resume (.block e.1)) b.groups }

/-- Live threads of a cluster: its blocks, and those still owed an admission. -/
def State.clusterLive (s : State) (seq cl : Nat) : Nat :=
  let here := ((s.residents ++ s.ledger.saved).filter fun b => b.seq == seq && b.cluster == cl).map Block.live
  let owed := match (s.entry seq).bind (·.kern) with
    | some k => ((k.plan.filter fun p => p.1 / (max 1 k.clSize) == cl).length) * k.threads
    | none => 0
  here.foldl (· + ·) owed

/-- Live threads of a grid. -/
def State.gridLive (s : State) (seq : Nat) : Nat :=
  let here := ((s.residents ++ s.ledger.saved).filter fun b => b.seq == seq).map Block.live
  let owed := match (s.entry seq).bind (·.kern) with
    | some k => k.plan.length * k.threads
    | none => 0
  here.foldl (· + ·) owed

/-- Every resident block with `p` changed. -/
def State.adjBlocks (s : State) (p : Block → Bool) (f : Block → Block) : State :=
  { s with tiles := s.tiles.map fun t => (t.1, { t.2 with blocks := t.2.blocks.map fun b => if p b then f b else b }) }

/-- Cluster barrier instances of a kernel that have all their arrivals complete. -/
def State.settleCbars (s : State) (seq : Nat) : State :=
  match (s.entry seq).bind (·.kern) with
  | none => s
  | some k =>
    let full := k.cbars.filter fun e => decide (s.clusterLive seq (e.1 / 2) ≤ e.2.arrived)
    let s := s.adjKernel seq fun k => { k with cbars := k.cbars.filter fun e => !(full.any fun f => f.1 == e.1) }
    full.foldl (fun (t : State) e => t.adjBlocks (fun b => b.seq == seq && b.cluster == e.1 / 2) fun b =>
      { b with groups := b.groups.map fun g => g.resume (.cluster (e.1 % 2)) }) s

/-- The grid barrier has its last arrival: its completion is under way (R132). -/
def State.settleGbar (s : State) (seq : Nat) : State :=
  match (s.entry seq).bind (·.kern) with
  | none => s
  | some k =>
    match k.gbar with
    | none => s
    | some i =>
      if s.gridLive seq ≤ i.arrived then s.adjKernel seq fun k => { k with gbar := some { i with complete := true } } else s

/-- Barriers after threads have exited or arrived. -/
def State.settleBarriers (s : State) (tile slot seq : Nat) : State :=
  ((s.adjBlock tile slot Block.settleBars).settleCbars seq).settleGbar seq

/-! ### Branches and EXIT -/

/-- The next PC of each active lane. -/
def nextPcs (gr : Group) (p : Path) (kind : BranchKind) : List (Nat × Nat) :=
  (lanesOf p.mask).map fun l => match kind with
    | .cond r t => (l, if (gr.reg l r).val = 0 then pcNext p.pc else t % 2 ^ 57)
    | .indirect r => (l, (gr.reg l r).val.toNat)

/-- The register a branch reads. -/
def branchReg : BranchKind → Nat
  | .cond r _ => r
  | .indirect r => r

/-- A list of numbers put in ascending order. -/
def sortNat (l : List Nat) : List Nat := l.foldl insertNat []

/-- The paths a split gives, in ascending order of next PC (R121). -/
def splitPaths (lanes : List (Nat × Nat)) (ipdom : Nat) : List Path :=
  (sortNat (lanes.map (·.2))).map fun pc =>
    { mask := lanes.foldl (fun m e => if e.2 = pc then m ||| (1#32 <<< e.1) else m) 0, pc := pc, rpc := some ipdom,
      parked := none, id := 0, parent := none }

/-- The stack with children numbered from `n` on, put over the path they are split from, which waits for them at the reconvergence PC.
(DEDUCED, notes/assumptions/49.md). -/
def splitStack (children : List Path) (ipdom n parent : Nat) : List Path → List Path
  | [] => []
  | p :: l =>
    if p.id = parent then
      ((children.zip (List.range children.length)).map fun e => { e.1 with id := n + e.2, parent := some parent }) ++
        { p with pc := ipdom } :: l
    else p :: splitStack children ipdom n parent l

/-- A number no path of a stack has, nor any above it. -/
def freshId (l : List Path) : Nat := (l.map (·.id)).foldl max 0 + 1

/-- A conditional or indirect branch (R121). -/
def branch (g : GroupRef) (kind : BranchKind) (ipdom : Nat) (hit : ParityHit) (s : State) : State :=
  s.regParity g hit fun s => s.issue g fun b gr p =>
    s.checked g b gr (lanesOf p.mask) [branchReg kind] [branchReg kind] <|
      let next := nextPcs gr p kind
      match sortNat (next.map (·.2)) with
      | [] => s
      | [pc] => s.adjGroup g fun x => (x.adjRunning fun q => { q with pc := pc }).settled
      | pcs =>
        if 32 < gr.stack.length - 1 + pcs.length then s.threadFault g fReconvOverflow none p.pc
        else s.adjGroup g fun x =>
          ({ x with stack := splitStack (splitPaths next ipdom) ipdom (freshId x.stack) p.id x.stack } : Group).settled

/-- EXIT: the active threads leave every mask and every barrier (R121, R131); a block whose threads have all exited is
exiting. -/
def exit (g : GroupRef) (s : State) : State :=
  s.issue g fun b _ p =>
    let s := s.adjGroup g fun x =>
      ({ x with exited := x.exited ||| p.mask
                stack := x.stack.map fun q => { q with mask := q.mask &&& ~~~p.mask } } : Group).settled
    let s := s.adjBlock g.tile g.slot fun b => { b with exiting := b.groups.all fun x => x.live == 0 }
    s.settleBarriers g.tile g.slot b.seq

/-! ### Arithmetic and group-wide operations -/

/-- The source registers an operation reads. -/
def fpSources (op : FpOp) (va vb vc : Nat) : List Nat := [va, vb, vc].take (fpArity op)

/-- An FP32 operation in each active lane; a result carries the first mark of its sources (R123, R138). -/
def fp32Arith (g : GroupRef) (op : FpOp) (vd va vb vc : Nat) (hit : ParityHit) (s : State) : State :=
  s.regParity g hit fun s => s.issue g fun b gr p =>
    let src := fpSources op va vb vc
    s.checked g b gr [] (vd :: src) [] <| s.adjGroup g fun x =>
      ((lanesOf p.mask).foldl (fun (y : Group) l =>
        y.setReg l vd { val := fpOp op (gr.reg l va).val (gr.reg l vb).val (gr.reg l vc).val,
                        mark := firstMark (src.map fun r => (gr.reg l r).mark) }) x).advance

/-- A group-wide operation: every thread of the group must be in the mask (R124). -/
def State.groupWide (s : State) (g : GroupRef) (b : Block) (gr : Group) (p : Path) (regs : List Nat)
    (f : Group → Group) : State :=
  s.checked g b gr [] regs [] <|
    if !p.whole then s.threadFault g fPartialGroup none p.mask.toNat
    else s.adjGroup g fun x => (f x).advance

/-- SHFL: each lane reads a register of lane (index mod 32) (R124). -/
def shfl (g : GroupRef) (vd va vi : Nat) (hit : ParityHit) (s : State) : State :=
  s.regParity g hit fun s => s.issue g fun b gr p => s.groupWide g b gr p [vd, va, vi] fun x =>
    (List.range 32).foldl (fun (y : Group) l =>
      let i := gr.reg l vi
      let v := gr.reg (i.val.toNat % 32) va
      y.setReg l vd { val := v.val, mark := orMark i.mark v.mark }) x

/-- The value of a vote over the predicates of a register: a lane's is true where the register is not zero. -/
def voteOf (gr : Group) (kind : VoteKind) (vp : Nat) : W32 :=
  let t := (List.range 32).filter fun l => (gr.reg l vp).val ≠ 0
  match kind with
  | .all => if t.length = 32 then 1 else 0
  | .any => if t.isEmpty then 0 else 1
  | .ballot => BitVec.ofNat 32 (maskOf t)

/-- VOTE: all, any and ballot over the 32 predicates (R124). -/
def vote (g : GroupRef) (kind : VoteKind) (vd vp : Nat) (hit : ParityHit) (s : State) : State :=
  s.regParity g hit fun s => s.issue g fun b gr p => s.groupWide g b gr p [vd, vp] fun x =>
    (List.range 32).foldl (fun (y : Group) l =>
      y.setReg l vd { val := voteOf gr kind vp, mark := firstMark ((List.range 32).map fun k => (gr.reg k vp).mark) }) x

/-- The operation of REDUX in the codes of R186. -/
def reduxCode : ReduxOp → Nat
  | .sumF32 => 0
  | .maxF32 => 3
  | .minF32 => 4

/-- REDUX: the lanes combined in the fixed binary tree (R123, R124). -/
def redux (g : GroupRef) (op : ReduxOp) (vd va : Nat) (hit : ParityHit) (s : State) : State :=
  s.regParity g hit fun s => s.issue g fun b gr p => s.groupWide g b gr p [vd, va] fun x =>
    let v := (redTree (reduxCode op) 5 ((List.range 32).map fun l => [(gr.reg l va).val])).1.headD 0
    let m := firstMark ((List.range 32).map fun l => (gr.reg l va).mark)
    (List.range 32).foldl (fun (y : Group) l => y.setReg l vd { val := v, mark := m }) x

/-! ### Scratchpad accesses (R135) -/

/-- Widths of an access in bytes: what one to four registers hold, naturally aligned. (DEDUCED, notes/assumptions/50.md). -/
def widthOk (w : Nat) : Bool := w == 1 || w == 2 || w == 4 || w == 8 || w == 16

/-- The registers from `r` on that an access of a width uses. (DEDUCED, notes/assumptions/50.md). -/
def widthRegs (r w : Nat) : List Nat := (List.range ((w + 3) / 4)).map fun i => r + i

/-- The bytes of a lane's data registers, and their mark. -/
def Group.laneBytes (g : Group) (lane r w : Nat) : Bytes × Option PoisonClass :=
  (((widthRegs r w).flatMap fun x => natLE 4 (g.reg lane x).val.toNat).take w,
    firstMark ((widthRegs r w).map fun x => (g.reg lane x).mark))

/-- Offsets of the active lanes. -/
def laneOffsets (gr : Group) (p : Path) (va : Nat) : List (Nat × Nat) :=
  (lanesOf p.mask).map fun l => (l, (gr.reg l va).val.toNat)

/-- A lane's load from a block's scratchpad into the group's registers, with POISON_HALT under DATA = HALT (R293). -/
def State.scratchLoad (g : GroupRef) (tile uid width vd : Nat) : List (Nat × Nat) → State → State
  | [], s => s
  | (lane, off) :: l, s =>
    match s.ownerBlock tile uid with
    | none => s
    | some t =>
      let v := t.scratch.sector (off / 32)
      let bs := ((sectorBytes v.data).drop (off % 32)).take width
      match v.mark, s.haltOn 1 with
      | some c, true => (s.poisonHalted g.tile (some (3, off)) t.linear 1 c).threadFault g fPoisonHalt (some (3, off)) 0
      | _, _ => State.scratchLoad g tile uid width vd l (s.loadRegs g lane vd width bs v.mark)

/-- A lane's store to a block's scratchpad. -/
def State.scratchStore (gr : Group) (tile uid width vd : Nat) : List (Nat × Nat) → State → State
  | [], s => s
  | (lane, off) :: l, s =>
    let d := gr.laneBytes lane vd width
    State.scratchStore gr tile uid width vd l (s.adjOwner tile uid fun b =>
      { b with scratch := b.scratch.setSector (off / 32) (storedSector (b.scratch.sector (off / 32)) (off % 32) d.1 d.2) })

/-- An access of the active lanes to the scratchpad of a block: range, alignment, then the accesses in lane order. `err` is what the
check of the first lane's sector found. -/
def State.scratchAccess (s : State) (g : GroupRef) (gr : Group) (p : Path) (dir : Dir) (t : Block) (rank width va vd : Nat)
    (err : ErrHit) : State :=
  let offs := laneOffsets gr p va
  match offs.find? fun e => decide (t.scratchB < e.2 + width) with
  | some e => s.threadFault g fScratchRange (some (3, e.2)) (ctxFields [rank, e.2])
  | none =>
    match offs.find? fun e => e.2 % width != 0 with
    | some e => s.threadFault g fMisaligned (some (3, e.2)) (ctxFields [rank, e.2])
    | none =>
      let s := match offs.head? with
        | some e => s.scratchError t.tile t.uid (e.2 / 32) err
        | none => s
      match dir with
      | .load => (State.scratchLoad g t.tile t.uid width vd offs s).advanceGroup g
      | .store => (State.scratchStore gr t.tile t.uid width vd offs s).advanceGroup g

/-- LDS and STS: the thread's own block's scratchpad (R135). -/
def ldsSts (g : GroupRef) (dir : Dir) (width va vd : Nat) (err : ErrHit) (hit : ParityHit) (s : State) : State :=
  s.regParity g hit fun s => s.issue g fun b gr p =>
    if !widthOk width then s.illegalOp g
    else s.checked g b gr (lanesOf p.mask) (va :: widthRegs vd width) [va] <|
      s.scratchAccess g gr p dir b b.rank width va vd err

/-- LDC and STC: a cluster block's scratchpad, by rank (R135 to R137). (DEDUCED, notes/assumptions/50.md). -/
def ldcStc (g : GroupRef) (dir : Dir) (width rank va vd : Nat) (err : ErrHit) (hit : ParityHit) (s : State) : State :=
  s.regParity g hit fun s => s.issue g fun b gr p =>
    if !widthOk width then s.illegalOp g
    else s.checked g b gr (lanesOf p.mask) (va :: widthRegs vd width) [va] <|
      if b.clSize ≤ rank then
        s.threadFault g fClusterRange (some (3, ((laneOffsets gr p va).head?.map (·.2)).getD 0))
          (ctxFields [rank, ((laneOffsets gr p va).head?.map (·.2)).getD 0])
      else
        match s.residents.find? fun t => t.seq == b.seq && t.cluster == b.cluster && t.rank == rank with
        | none => s
        | some t => s.scratchAccess g gr p dir t rank width va vd err

/-! ### Barriers: arrivals (R130, R131) -/

/-- The running path parks at a barrier; the group has then no path it has begun. -/
def State.park (s : State) (g : GroupRef) (k : BarKind) : State :=
  s.adjGroup g fun x => { x.adjRunning (fun p => { p with parked := some k }) with cur := none }

/-- After an arrival that may have completed its barrier, the group goes on with the next path of its stack (R122). -/
def State.goOn (s : State) (g : GroupRef) : State := s.adjGroup g Group.settled

/-- A new instance with the arrivals of a path. -/
def newInst (s : State) (g : GroupRef) (p : Path) (count : Nat) : BarInst :=
  { count := count, arrived := popCount p.mask.toNat 32, pc := p.pc, tile := g.tile, slot := g.slot, group := g.group,
    lawn := 0, since := s.now, complete := false, uid := ((s.block g.tile g.slot).map (·.uid)).getD 0 }

/-- The instance after one more path has arrived. -/
def BarInst.arrive (i : BarInst) (p : Path) : BarInst := { i with arrived := i.arrived + popCount p.mask.toNat 32 }

/-- BAR: a path arrives once its device-memory stores are performed (R131, R146). -/
def bar (g : GroupRef) (w : W64) (s : State) : State :=
  s.issue g fun b gr p =>
    let count := fld w 55 50
    let n := fld w 49 46
    s.checkedWord g b gr w (fld w 63 56 == 0xD0 && fld w 45 0 == 0 && decide (count ≤ 32)) [] [] [] <|
      let old := NMap.look b.bars n
      if b.groups.length < count then
        s.threadFault g fBarrierCount none (ctxFields [count, (old.map (·.count)).getD count])
      else match old with
        | some i =>
          if i.count ≠ count then s.threadFault g fBarrierCount none (ctxFields [count, i.count])
          else if 0 < gr.stores then s
          else (((s.park g (.block n)).adjBlock g.tile g.slot fun b =>
            { b with bars := NMap.put b.bars n (i.arrive p) }).adjBlock g.tile g.slot Block.settleBars).goOn g
        | none =>
          if 0 < gr.stores then s
          else (((s.park g (.block n)).adjBlock g.tile g.slot fun b =>
            { b with bars := NMap.put b.bars n (newInst s g p count) }).adjBlock g.tile g.slot Block.settleBars).goOn g

/-- CBAR: a path arrives at a cluster barrier (R131). -/
def cbar (g : GroupRef) (w : W64) (s : State) : State :=
  s.issue g fun b gr p =>
    let n := fld w 49 46
    s.checkedWord g b gr w (fld w 63 56 == 0xD1 && fld w 45 0 == 0 && fld w 55 50 == 0 && decide (n ≤ 1)) [] [] [] <|
      if b.clSize ≤ 1 then s.threadFault g fClusterRange none (ctxFields [b.rank, 0])
      else
        let key := b.cluster * 2 + n
        let s := s.park g (.cluster n)
        let s := s.adjKernel b.seq fun k =>
          { k with cbars := NMap.put k.cbars key (match NMap.look k.cbars key with
              | some i => i.arrive p
              | none => newInst s g p 0) }
        (s.settleCbars b.seq).goOn g

/-- GBAR: a path of a COOP kernel arrives at the grid barrier, a DEVICE release first (R131, R150). -/
def gbar (g : GroupRef) (w : W64) (s : State) : State :=
  s.issue g fun b gr p =>
    s.checkedWord g b gr w (fld w 63 56 == 0xD2 && fld w 55 0 == 0 && b.launch.coop) [] [] [] <|
      if 0 < gr.stores then s
      else
        let s := s.park g .grid
        let s := s.adjKernel b.seq fun k =>
          { k with gbar := some (match k.gbar with
              | some i => i.arrive p
              | none => newInst s g p 0) }
        (s.settleGbar b.seq).goOn g

/-- The half managers complete the grid barrier: every path resumes, and the L1 parts are invalidated, as an acquire at
DEVICE scope does (R132, R150). -/
def gbarComplete (seq : Nat) (s : State) : State :=
  match ((s.entry seq).bind (·.kern)).bind (·.gbar) with
  | none => s
  | some i =>
    if !i.complete then s else
    let s := s.adjKernel seq fun k => { k with gbar := none }
    let s : State := { s with tiles := s.tiles.map fun t =>
      (t.1, if t.2.blocks.any fun b => b.seq == seq then { t.2 with l1 := [] } else t.2) }
    s.adjBlocks (fun b => b.seq == seq) fun b => { b with groups := b.groups.map fun g => g.resume .grid }

/-! ### The barrier watchdog (R133) -/

/-- Twelfths of a Lawn cycle that a tile has run in a span of the timestamp: none while its clock is stopped. -/
def Tile.lawnTwelfths (t : Tile) (span : Nat) : Nat := if t.retune then 0 else span * (12 - t.step)

/-- An instance's count brought up to now. -/
def BarInst.tick (i : BarInst) (t : Tile) (now : Nat) : BarInst :=
  { i with lawn := i.lawn + (if now < i.since then 0 else t.lawnTwelfths (now - i.since)), since := now }

/-- An instance whose first arrival was on a tile, brought up to now: it counts while that block is resident there and is not being
saved (R133). -/
def BarInst.count1 (i : BarInst) (tile : Nat) (t : Tile) (now : Nat) : BarInst :=
  if i.tile ≠ tile then i else
  match t.blocks.find? fun b => b.uid == i.uid with
  | none => i
  | some b => if b.saving then { i with since := now } else i.tick t now

/-- The counts of every instance whose first arrival was on a tile brought up to now. -/
def State.tickBars (s : State) (tile : Nat) : State :=
  let t := s.tile tile
  let s := s.adjTile tile fun t => { t with blocks := t.blocks.map fun b =>
    { b with bars := b.bars.map fun e => (e.1, e.2.count1 tile t s.now) } }
  { s with ledger := { s.ledger with entries := s.ledger.entries.map fun e => { e with kern := e.kern.map fun k =>
      { k with gbar := k.gbar.map fun i => i.count1 tile t s.now
               cbars := k.cbars.map fun c => (c.1, c.2.count1 tile t s.now) } } } }

/-- An instance that has been incomplete for `BarrierTimeout` Lawn cycles. (DEDUCED, notes/assumptions/50.md). -/
def State.stalled (s : State) (i : BarInst) : Bool := !i.complete && decide (s.num Obj.barrierTimeout * 12 ≤ i.lawn)

/-- A stalled instance: the block of its first arrival, the barrier's kind and number, the expected count, the instance. -/
structure Stall where
  block    : Block
  kind     : Nat
  number   : Nat
  expected : Nat
  inst     : BarInst
  deriving DecidableEq, Repr

/-- BARRIER_STALL in the block of an instance's first arrival. -/
def State.barrierStall (s : State) (x : Stall) : State :=
  match s.blockByUid x.block.tile x.block.uid with
  | none => s
  | some b =>
    if b.exiting || b.saving then s
    else (s.reportFault b x.inst.group fBarrierStall none (some (0, x.inst.pc))
      (ctxFields [x.kind, x.number, x.inst.arrived, x.expected])).terminate b fBarrierStall

/-- The stall of an instance, where it has stalled and the block of its first arrival is resident. -/
def State.stallOf (s : State) (kind number expected : Nat) (i : BarInst) : Option Stall :=
  if !s.stalled i then none else
  (s.blockByUid i.tile i.uid).map fun b => { block := b, kind := kind, number := number, expected := expected, inst := i }

/-- The stalls of the barriers there are. -/
def State.stallsFound (s : State) : List Stall :=
  (s.residents.flatMap fun b => b.bars.filterMap fun e => s.stallOf 0 e.1 (e.2.expected b.live) e.2) ++
  s.ledger.entries.flatMap fun e => match e.kern with
    | none => []
    | some k =>
      (k.cbars.filterMap fun c => s.stallOf 1 (c.1 % 2) (s.clusterLive e.seq (c.1 / 2)) c.2) ++
      (k.gbar.bind fun i => s.stallOf 2 0 (s.gridLive e.seq) i).toList

/-- Where a fault ranks among those of one Lawn cycle: by tile, then linear index, then group (R140). -/
def Stall.rank (x : Stall) : Nat := (x.block.tile * 2 ^ 48 + x.block.linear) * 2 ^ 8 + x.inst.group

/-- A stall put in its place among ranked ones. -/
def insertStall (x : Stall) : List Stall → List Stall
  | [] => [x]
  | y :: l => if x.rank < y.rank then x :: y :: l else y :: insertStall x l

/-- The stalls in the order of R140. -/
def State.stalls (s : State) : List Stall := s.stallsFound.foldl (fun l x => insertStall x l) []

/-- A check pulse of the BARRIER_WD timers: every tile's instances are counted up to now, and those that have reached
`BarrierTimeout` fault, ranked as R140 ranks the faults of one Lawn cycle (R133). -/
def barrierWdPulse (s : State) : State :=
  let s := s.tiles.foldl (fun (t : State) e => t.tickBars e.1) s
  s.stalls.foldl (fun (t : State) x => t.barrierStall x) s

/-! ### Device memory (R143, R166) -/

/-- Addresses of the active lanes. (DEDUCED, notes/assumptions/50.md). -/
def laneAddrs (gr : Group) (p : Path) (va : Nat) : List (Nat × Nat) := (lanesOf p.mask).map fun l => (l, gr.pair l va)

/-- The faults of device-memory addresses: alignment, then translation (R138, R212). -/
def State.addrFault (s : State) (g : GroupRef) (addrs : List (Nat × Nat)) (align : Nat) (write : Bool) (k : State) : State :=
  match addrs.find? fun e => e.2 % align != 0 with
  | some e => s.threadFault g fMisaligned (some (0, e.2 % 2 ^ 57)) (ctxFields [e.2])
  | none =>
    match addrs.findSome? fun e => (s.violationKind e.2 write).map fun v => (e.2, v) with
    | some (a, v) => (s.violation a g.tile v).threadFault g fAddress (some (0, a % 2 ^ 57)) 0
    | none => k

/-- One lane's load: from the L1 copy, or a request to the home bank (R143, R166). -/
def State.laneLoad (g : GroupRef) (uid width vd : Nat) : List (Nat × Nat) → State → State
  | [], s => s
  | (lane, a) :: l, s =>
    let s := match (s.tile g.tile).l1Look (a / 32) with
      | some v => ((s.adjTile g.tile fun t => t.l1Use (a / 128)).deliverLoad g lane vd width a v).laneDone g
      | none => s.missLoad g.tile
          { agent := .thread g, uid := uid, addr := a, kind := .load lane vd width, ack := true }
    State.laneLoad g uid width vd l s

/-- An error check of the read of a sector, at the place that serves it. -/
def State.readError (s : State) (tile sn : Nat) (err : ErrHit) : State :=
  if ((s.tile tile).l1Look sn).isSome then s.l1Error tile sn err
  else match (NMap.look s.felt.lines (sn / 4)).bind fun l => l.sectors[sn % 4]? with
    | some x => if x.present then s.feltError sn tile err else s
    | none => s

/-- LD: a thread loads from device memory through L1 or the home bank (R166). -/
def ld (g : GroupRef) (width va vd : Nat) (err : ErrHit) (hit : ParityHit) (s : State) : State :=
  s.regParity g hit fun s => s.issue g fun b gr p =>
    if !widthOk width then s.illegalOp g
    else s.checked g b gr (lanesOf p.mask) (va :: (va + 1) :: widthRegs vd width) [va, va + 1] <|
      let addrs := laneAddrs gr p va
      s.addrFault g addrs width false <|
        let s := match addrs.head? with
          | some e => s.readError g.tile (e.2 / 32) err
          | none => s
        State.laneLoad g b.uid width vd addrs (s.adjGroup g fun x => { x with loads := addrs.length })

/-- One lane's store: the L1 copy is updated where present, and the store goes to the home bank (R143). -/
def State.laneStore (g : GroupRef) (gr : Group) (uid width vd : Nat) : List (Nat × Nat) → State → State
  | [], s => s
  | (lane, a) :: l, s =>
    let d := gr.laneBytes lane vd width
    let s := s.adjTile g.tile fun t => t.l1Update (a / 32) fun old => storedSector old (a % 32) d.1 d.2
    let s := (s.adjGroup g fun x => { x with stores := x.stores + 1 }).submit
      { agent := .thread g, uid := uid, addr := a, kind := .store d.1 d.2, ack := true }
    State.laneStore g gr uid width vd l s

/-- ST: a thread stores to device memory (R143). -/
def st (g : GroupRef) (width va vd : Nat) (hit : ParityHit) (s : State) : State :=
  s.regParity g hit fun s => s.issue g fun b gr p =>
    if !widthOk width then s.illegalOp g
    else s.checked g b gr (lanesOf p.mask) (va :: (va + 1) :: widthRegs vd width) [va, va + 1] <|
      let addrs := laneAddrs gr p va
      s.addrFault g addrs width true <| State.laneStore g gr b.uid width vd addrs (s.advanceGroup g)

/-! ### Fences (R148 to R159) -/

/-- Scopes as the field codes them: 1 GROUP, 2 BLOCK, 3 DEVICE, 4 SYSTEM. The scope a fence resolves to, or none where it is
illegal. (DEDUCED, notes/assumptions/71.md). -/
def State.fenceScope (s : State) (coop : Bool) (code : Nat) : Option Nat :=
  let dflt := s.num Obj.fenceScopeDefault + 1
  let x := if code = 0 then (if coop then dflt else min dflt 2) else code
  if 5 ≤ code || (!coop && decide (3 ≤ x)) || decide (s.num Obj.orderScopeMax + 2 < x) then none else some x

/-- FENCE: REL and FULL wait until the group's stores are performed; ACQ and FULL at DEVICE and SYSTEM scope invalidate the
tile's L1 part (R151, R152). With the host link down a SYSTEM fence acts as a DEVICE fence (R159).
(DESIGN CHOICE, notes/assumptions/51.md). -/
def fence (g : GroupRef) (w : W64) (s : State) : State :=
  s.issue g fun b gr _ =>
    let kind := fld w 52 51
    let scope := s.fenceScope b.launch.coop (fld w 55 53)
    s.checkedWord g b gr w (fld w 63 56 == 0xD8 && fld w 50 0 == 0 && kind != 3 && scope.isSome) [] [] [] <|
      let sc := scope.getD 0
      if kind ≠ 1 && 0 < gr.stores then s
      else if sc ≤ 2 then s.advanceGroup g
      else
        let s := s.bump (if sc = 4 && !s.iface.orderLost then Obj.fenceSystemTotal else Obj.fenceDeviceTotal) 1
        let acq := if kind = 2 then 0 else ((1536 - (s.tile g.tile).splitKib) / 128) * 32
        let rel := if kind = 1 then 0 else Config.freeNat s.dict.freeCount
        let s := if kind = 1 then s else s.drawn
        let s := s.bump Obj.fenceWaitCycles (acq + rel)
        let s := if kind = 2 then s else s.adjTile g.tile fun t => { t with l1 := [] }
        s.advanceGroup g

/-! ### Drops and contributions (R182, R186) -/

/-- A line address from a register pair: bits [31:0], then bits [56:32]. -/
def Group.lineAddr (g : Group) (lane va : Nat) : Nat :=
  (g.reg lane va).val.toNat + 2 ^ 32 * ((g.reg lane (va + 1)).val.toNat % 2 ^ 25)

/-- Lines dropped by a group, each once. -/
def State.laneDrops (g : GroupRef) (uid : Nat) : List Nat → State → State
  | [], s => s
  | a :: l, s =>
    let s := s.adjTile g.tile fun t => t.l1Drop (a / 128)
    State.laneDrops g uid l ((s.adjGroup g fun x => { x with stores := x.stores + 1 }).submit
      { agent := .thread g, uid := uid, addr := a, kind := .drop, ack := true })

/-- LLDROP: each active lane drops a line (R182). -/
def lldrop (g : GroupRef) (w : W64) (hit : ParityHit) (s : State) : State :=
  s.regParity g hit fun s => s.issue g fun b gr p =>
    let va := fld w 55 48
    s.checkedWord g b gr w (fld w 63 56 == 0xDA && fld w 47 0 == 0) (lanesOf p.mask) [va, va + 1] [va, va + 1] <|
      let addrs := (lanesOf p.mask).map fun l => (l, gr.lineAddr l va)
      s.addrFault g addrs 128 true <|
        State.laneDrops g b.uid ((addrs.map (·.2)).eraseDups) (s.advanceGroup g)

/-- The sectors of a contribution: lane i supplies word i, an inactive lane the identity (R186). -/
def contribData (gr : Group) (p : Path) (vd rop : Nat) : List SectorVal :=
  (List.range 4).map fun i =>
    let lanes := (List.range 8).map fun k => 8 * i + k
    { data := wordsSector (lanes.map fun l => if p.mask.getLsbD l then (gr.reg l vd).val else redIdentity rop)
      mark := firstMark (lanes.map fun l => if p.mask.getLsbD l then (gr.reg l vd).mark else none) }

/-- REDL: a group contributes a line to a reduction at its home bank (R186 to R190). -/
def redl (g : GroupRef) (w : W64) (hit : ParityHit) (s : State) : State :=
  s.regParity g hit fun s => s.issue g fun b gr p =>
    let va := fld w 55 48
    let vd := fld w 47 40
    let rop := fld w 39 36
    let idxr := w.getLsbD 35
    let vi := fld w 34 27
    let ok := fld w 63 56 == 0xD9 && fld w 18 0 == 0 && decide (rop ≤ 8) &&
      (if idxr then fld w 26 19 == 0 else vi == 0)
    let low := lowestLane p.mask
    s.checkedWord g b gr w ok [low] ([va, va + 1, vd] ++ if idxr then [vi] else [])
        ([va, va + 1] ++ if idxr then [vi] else []) <|
      let a := gr.lineAddr low va
      s.addrFault g [(low, a)] 128 true <|
        let iv := (gr.reg low vi).val.toNat
        let idx := if idxr then iv % 16 else fld w 26 23
        let count := (if idxr then iv / 16 % 16 else fld w 22 19) + 1
        let data := contribData gr p vd rop
        match firstMark (data.map (·.mark)), s.haltOn 1 with
        | some c, true => (s.poisonHalted g.tile (some (0, a)) 0 1 c).threadFault g fPoisonHalt (some (0, a)) 0
        | _, _ =>
          let s := (s.advanceGroup g).adjTile g.tile fun t => t.l1Drop (a / 128)
          (s.adjGroup g fun x => { x with stores := x.stores + 1 }).submit
            { agent := .thread g, uid := b.uid, addr := a, kind := .contrib rop idx count data, ack := true }

/-! ### RNG (R273) -/

/-- RNG: each active lane writes its 64-bit draw to VD and VD+1. -/
def rng (g : GroupRef) (w : W64) (hit : ParityHit) (s : State) : State :=
  s.regParity g hit fun s => s.issue g fun b gr p =>
    let vd := fld w 55 48
    let vp := fld w 47 40
    let purpose := fld w 39 24
    let tsrc := w.getLsbD 23
    let vt := fld w 22 15
    let ok := fld w 63 56 == 0xDC && fld w 14 0 == 0 && decide (0x100 ≤ purpose) && (tsrc || vt == 0)
    s.checkedWord g b gr w ok [] ([vd, vd + 1, vp, vp + 1] ++ if tsrc then [vt] else []) [] <|
      let step := match s.entry b.seq with
        | some e => e.step
        | none => s.det.step
      let src := if tsrc then (gr.lane0 vt).val.toNat % 64 else g.tile
      let seed := BitVec.ofNat 64 (s.num Obj.rngSeed)
      s.adjGroup g fun x =>
        ((lanesOf p.mask).foldl (fun (y : Group) l =>
          let d := (rngDraw seed step (gr.pair l vp) src l purpose).toNat
          let m := orMark (gr.pairMark l vp) (if tsrc then (gr.lane0 vt).mark else none)
          (y.setReg l vd { val := BitVec.ofNat 32 d, mark := m }).setReg l (vd + 1)
            { val := BitVec.ofNat 32 (d / 2 ^ 32), mark := m }) x).advance

end Sys2Proof.Machine
end

