-- ==== Sys2Proof/Machine/Bandwidth.lean ====
section
/-! DEFINITION. Bandwidth regulation (ch. 9): the derated bandwidth of each target (R229, R236), proportional scaling and its
events (R237), shortfalls, quotas and caps at an interval boundary (R232 to R235, R238). -/

set_option Elab.async false

namespace Sys2Proof.Machine

open Sys2Proof

/-! ### Derated bandwidth (R236) -/

/-- Bank groups retired or retiring do not count once their retirement has completed: present banks of Felt. -/
def State.presentBanks (s : State) : Nat := 2 * s.banksPerHalf - 4 * s.felt.retired.length

/-- The stacks of a group that are present (R214). -/
def State.groupStacks (s : State) (g : Nat) : List Nat := s.stacks.filter fun k => k / 4 == g

/-- A stack's channels in use. -/
def State.channelsOf (s : State) (stack : Nat) : Nat := 16 - (s.mem.channels.filter fun c => c.1 == stack).length

/-- The thermal factor of a stack in hundredths: NORMAL, HOT, THROTTLED. -/
def thermalFactor (state : Nat) : Nat := if state = 0 then 100 else if state = 1 then 96 else 50

/-- Is a second-tier port in the linked state: trained, not lost, its link up? -/
def State.portLinked (s : State) (port : Nat) : Bool :=
  NMap.has s.iface.t2width port && !s.iface.t2down.contains port && s.func (.tier2 port) != .heldDown

/-- D of a target in hundredths of a MB/s, exactly (R229, R236); 0 for a port that is not linked. -/
def State.bwD100 (s : State) (t : Nat) : Nat :=
  if t = 0 then s.presentBanks * 4608000
  else if t ≤ 4 then
    ((s.groupStacks (t - 1)).map fun k => s.channelsOf k * 69120 * thermalFactor (NMap.lookD s.thermal.hbm k 0)).foldl (· + ·) 0
  else if s.portLinked (t - 5) then
    let d := 225 * NMap.lookD s.iface.t2width (t - 5) 0 * NMap.lookD s.iface.t2rate (t - 5) 0
    let adv := NMap.lookD s.iface.t2bw (t - 5) 0
    100 * if adv = 0 then d else min d adv
  else 0

/-- D as `BwSustainable` shows it, in whole MB/s. (DEDUCED, notes/assumptions/59.md). -/
def State.bwD (s : State) (t : Nat) : Nat := s.bwD100 t / 100

/-- `BwMin` and `BwWeight` of a class on a target. -/
def keyMin (t c : Nat) : Nat := (0x3210 + t) * 256 + c
def keyWeight (t c : Nat) : Nat := (0x3220 + t) * 256 + c

/-- Σ `BwMin` of a target. -/
def State.minSum (s : State) (t : Nat) : Nat := ((List.range 6).map fun c => s.num (keyMin t (c + 1))).foldl (· + ·) 0

/-- Is a target present? -/
def State.targetPresent (s : State) (t : Nat) : Bool := decide (t ≤ 4) || s.portLinked (t - 5)

/-! ### The interval boundary (R232 to R235, R237) -/

/-- f of a target now, as numerator and denominator: min(1, 0.9 × D / Σ). -/
def State.scaleOf (s : State) (t : Nat) : Nat × Nat :=
  let n := 9 * s.bwD100 t
  let d := 1000 * s.minSum t
  if d ≤ n then (1, 1) else (n, d)

/-- A ratio below another. -/
def ratioLt (a b : Nat × Nat) : Bool := decide (a.1 * b.2 < b.1 * a.2)

/-- A ratio as a binary32. -/
def ratioF32 (a : Nat × Nat) : Nat := f32.ofVal (FVal.div (.fin ⟨false, a.1, 0⟩) (.fin ⟨false, a.2, 0⟩))

/-- The effective minima of a target under f. -/
def State.setEffective (s : State) (t : Nat) (f : Nat × Nat) : State :=
  { s with bw := { s.bw with
      scale := if f = (1, 1) then NMap.del s.bw.scale t else NMap.put s.bw.scale t f
      effective := (List.range 6).foldl (fun m c =>
        NMap.put m (t * 8 + c + 1) (s.num (keyMin t (c + 1)) * f.1 / f.2)) s.bw.effective } }

/-- The bit of a target cleared in `BwOvercommitMask`. -/
def clearBit (m t : Nat) : Nat := if natBit m t then m - 2 ^ t else m

/-- One target at a boundary (R237). The minima of a port that is not linked are suspended: it is not scaled.
(DEDUCED, notes/assumptions/59.md). -/
def State.scaleTarget (s : State) (t : Nat) : State :=
  if !s.targetPresent t then
    { s with bw := { s.bw with
        scale := NMap.del s.bw.scale t
        effective := (List.range 6).foldl (fun m c => NMap.put m (t * 8 + c + 1) 0) s.bw.effective
        overMask := clearBit s.bw.overMask t } }
  else
  let old := NMap.lookD s.bw.scale t (1, 1)
  let f := s.scaleOf t
  let s := s.setEffective t f
  if ratioLt f old then
    let s := (s.bump Obj.bwOvercommitTotal 1).log 0x3201 sevInfo agentNone none (t + ratioF32 f * 2 ^ 32)
    { s with bw := { s.bw with overMask := if natBit s.bw.overMask t then s.bw.overMask else s.bw.overMask + 2 ^ t } }
  else if f = (1, 1) && natBit s.bw.overMask t then
    let s := s.log 0x3202 sevInfo agentNone none t
    { s with bw := { s.bw with overMask := clearBit s.bw.overMask t } }
  else s

/-- Present instances of a class (R230). -/
def State.instances (s : State) (c : Nat) : Nat :=
  if c = 1 then ((List.range s.tileCount).filter s.tileBound).length else if c = 2 then 1 else 2

/-- The unloaded latency of a target in ns (R235). (DEDUCED, notes/assumptions/59.md). -/
def unloadedNs (t : Nat) : Nat := if t = 0 then 50 else if t ≤ 4 then 300 else 600

/-- The key of an instance at a target in `Bw.latency`, `Bw.ownCaps` and `Bw.waiting`. -/
def loadKey (l : BwLoad) : Nat := (l.target * 8 + l.cls) * 64 + l.number

/-- Did an instance with requests pending throughout the interval receive less than its quota: its equal part of the class's effective
minimum × `BwInterval` (R232 to R234)? -/
def State.fellShort (s : State) (l : BwLoad) : Bool :=
  s.targetPresent l.target && l.pending &&
    decide (l.served * s.sharers l.cls < NMap.lookD s.bw.effective (l.target * 8 + l.cls) 0 * s.num Obj.bwInterval)

/-- What the targets measured of the interval that ends: its shortfalls (R234), and the latencies and the backlogged instances that the caps
are set from (R235). (DEDUCED, notes/assumptions/84.md). -/
def State.noteLoads (s : State) (loads : List BwLoad) : State :=
  let n := (loads.filter s.fellShort).length
  let s := if n = 0 then s else s.bump Obj.bwShortfallTotal n
  { s with bw := { s.bw with
      tiles := s.instances 1
      latency := loads.foldl (fun m l => match l.latency with
        | some ns => NMap.put m (loadKey l) ns
        | none => m) s.bw.latency
      waiting := (loads.filter fun l => l.waited).map loadKey } }

/-- An instance's quantum (R233): its class weight divided by the class's present instances, over the common denominator 2 × tiles. -/
def State.quantum (s : State) (t c : Nat) : Nat :=
  s.num (keyWeight t c) * (2 * max 1 s.bw.tiles) / s.sharers c

/-- d of a target (R235): D less the effective minima, in hundredths of a MB/s. -/
def State.remainder (s : State) (t : Nat) : Nat :=
  s.bwD100 t - 100 * ((List.range 6).map fun c => NMap.lookD s.bw.effective (t * 8 + c + 1) 0).foldl (· + ·) 0

/-- The sum of the backlogged quanta of a target. -/
def State.waitingQuanta (s : State) (t : Nat) : Nat :=
  ((s.bw.waiting.filter fun k => k / 512 == t).map fun k => s.quantum t (k / 64 % 8)).foldl (· + ·) 0

/-- An instance's share of the remainder, as numerator and denominator in MB/s (R235). (DESIGN CHOICE, notes/assumptions/84.md). -/
def State.shareOf (s : State) (t c : Nat) : Nat × Nat :=
  let q := s.quantum t c
  if s.waitingQuanta t = 0 then (Config.idleShare t (s.remainder t) q, 1) else (s.remainder t * q, 100 * s.waitingQuanta t)

/-- The cap on outstanding sectors of an instance of a class with a mean latency (R235): 32 bytes to the sector, and 1,000 MB/s to the
byte per ns. -/
def State.capOf (s : State) (t c ns : Nat) : Nat :=
  let n := s.sharers c
  let f := s.shareOf t c
  let x := (NMap.lookD s.bw.effective (t * 8 + c) 0 * f.2 + f.1 * n) * ns
  max 4 (min 1024 ((x + n * f.2 * 32000 - 1) / (n * f.2 * 32000)))

/-- Quotas and caps of a target for the next interval: the quotas of the classes, of which each instance has its part (R232, R233), nothing
served yet, and the caps, those of measured instances apart. -/
def State.setQuotas (s : State) (t : Nat) : State :=
  let own := (s.bw.latency.filter fun e => e.1 / 512 == t).foldl
    (fun m e => NMap.put m e.1 (s.capOf t (e.1 / 64 % 8) e.2)) s.bw.ownCaps
  let caps := (List.range 6).foldl (fun m i => NMap.put m (t * 8 + i + 1) (s.capOf t (i + 1) (unloadedNs t))) s.bw.caps
  let quota := (List.range 6).foldl (fun m i =>
    NMap.put m (t * 8 + i + 1) (NMap.lookD s.bw.effective (t * 8 + i + 1) 0 * s.num Obj.bwInterval)) s.bw.quota
  { s with bw := { s.bw with quota := quota, caps := caps, ownCaps := own
                             served := s.bw.served.filter fun e => e.1 / 512 != t } }

/-- A change of `BwInterval` at an apply: caps and quotas restart with the last measured latencies (R238). -/
def State.restartQuotas (s : State) : State := (List.range 7).foldl State.setQuotas s

/-- A regulation interval ends: what it measured, then f, the effective minima, and the quotas and caps of the next one
(R233 to R235, R237). -/
def bwIntervalBoundary (loads : List BwLoad) (s : State) : State :=
  (List.range 7).foldl (fun (t : State) k => (t.scaleTarget k).setQuotas k) (s.noteLoads loads)

end Sys2Proof.Machine
end

