-- ==== Sys2Proof/Machine/Memory.lean ====
section
/-! DEFINITION. Memory tiers and placement (ch. 8) and the events of the Felt banks (ch. 7): frames and regions (R213, R215),
MAP, UNMAP and PROTECT (R207 to R210), migration (R218 to R226), withdrawal (R226, R301), fills and walks, spills (R192 to
R194), flush (R196), bank-group retirement (R198), and host accesses to the window (R216). -/

set_option Elab.async false

namespace Sys2Proof.Machine

open Sys2Proof

/-! ### Readiness of an entry (R250) -/

/-- Is dispatch held: by a pause, a flush, a unit-map change, a clock holdover, a low input, a module state other
than Active, a reset or a power-off? -/
def State.held (s : State) : Bool :=
  s.ledger.sched != .running || s.felt.flush != 0 || s.det.mapChanged || s.thermal.holdover ||
    s.power.input == .holdup || s.thermal.modSt != .active || s.boot.phase != .ready || s.boot.pwrOff

/-- The status with which an entry of SEQ `n` has completed, where it has. -/
def State.doneStatus (s : State) (n : Nat) : Option Nat := NMap.look s.ledger.closed n

/-- Does an accepted entry that waits meet the conditions of R250? -/
def State.ready (s : State) (e : Entry) : Bool :=
  e.status == .waiting && !s.held &&
    (e.deps.all fun d => s.doneStatus (e.seq - d) == some stOk) &&
    (!e.afterAll || !(s.ledger.entries.any fun x => decide (x.seq < e.seq))) &&
    !(s.ledger.ends.any fun n => decide (n < e.seq))

/-! ### Frames of HBM (R213, R215) -/

/-- First frame of the module region: the top 192 frames. (DEDUCED, notes/assumptions/56.md). -/
def State.poolTop (s : State) : Nat := s.hbmFrames - 192

/-- The channels with a retired member: frames with these numbers modulo 16 are withdrawn (R301). -/
def State.deadChannels (s : State) : List Nat := (s.mem.channels.map (·.2)).eraseDups

/-- Is a frame withdrawn? -/
def State.frameWithdrawn (s : State) (f : Nat) : Bool := s.mem.withdrawn.contains f || s.deadChannels.contains (f % 16)

/-- Every run a region holds. -/
def Regions.runs (r : Regions) : List (Nat × Nat) := r.spill ++ r.save ++ r.window

/-- The run that holds a frame. -/
def runOf (l : List (Nat × Nat)) (f : Nat) : Option (Nat × Nat) := l.find? fun r => decide (r.1 ≤ f) && decide (f < r.1 + r.2)

/-- The lowest free frame from `f` on: not used by a page, not in a region, not withdrawn. -/
def State.freeFrom (s : State) : Nat → Nat → Option Nat
  | 0, _ => none
  | fuel + 1, f =>
    if s.poolTop ≤ f then none
    else match runOf s.mem.regions.runs f with
      | some r => State.freeFrom s fuel (r.1 + r.2)
      | none => if s.mem.used0.contains f || s.frameWithdrawn f then State.freeFrom s fuel (f + 1) else some f

/-- Enough steps to pass every frame that is not free. -/
def State.scanFuel (s : State) : Nat :=
  16 * (s.mem.used0.length + s.mem.withdrawn.length + s.mem.regions.runs.length + 2)

/-- The lowest free HBM frame. -/
def State.freeHbm (s : State) : Option Nat := s.freeFrom s.scanFuel 0

/-- Frames below `n` of a channel. -/
def channelBelow (c n : Nat) : Nat := (n + 15 - c) / 16

/-- Free frames of the general pool: frames below the module region less those in use, in regions, and withdrawn. -/
def State.hbmFree (s : State) : Nat :=
  let runs := s.mem.regions.runs
  let other (f : Nat) : Bool := s.mem.used0.contains f || (runOf runs f).isSome
  let single := s.mem.withdrawn.filter fun f => decide (f < s.poolTop) && !other f && !s.deadChannels.contains (f % 16)
  let chan := (s.deadChannels.map fun c =>
    channelBelow c s.poolTop - (s.mem.used0.filter fun f => f % 16 == c).length -
      (runs.map fun r => channelBelow c (r.1 + r.2) - channelBelow c r.1).foldl (· + ·) 0).foldl (· + ·) 0
  s.poolTop - s.mem.used0.length - runFrames runs - single.length - chan

/-- Runs extended by a frame, which takes the next offset: it joins the last run where it lies just below it. -/
def addToRuns (l : List (Nat × Nat)) (f : Nat) : List (Nat × Nat) :=
  match l.getLast? with
  | some r => if r.1 = f + 1 then l.dropLast ++ [(f, r.2 + 1)] else l ++ [(f, 1)]
  | none => [(f, 1)]

/-- The state with the regions changed. -/
def State.setRegions (s : State) (f : Regions → Regions) : State :=
  { s with mem := { s.mem with regions := f s.mem.regions } }

/-- A frame joins region 0 spill, 1 save or 2 window. -/
def Regions.add (r : Regions) (reg f : Nat) : Regions :=
  if reg = 0 then { r with spill := addToRuns r.spill f }
  else if reg = 1 then { r with save := addToRuns r.save f } else { r with window := addToRuns r.window f }

/-- An HBM frame freed by a page: it joins the region it is due to, or the pool. -/
def State.freeFrame0 (s : State) (f : Nat) : State :=
  let s : State := { s with mem := { s.mem with used0 := s.mem.used0.filter fun x => x != f } }
  match s.mem.regions.pending.find? fun p => p.2 == f with
  | some p => s.setRegions fun r =>
      { (r.add p.1 f) with pending := r.pending.filter fun q => q.2 != f, stalled := false }
  | none => s.setRegions fun r => { r with stalled := false }

/-! ### Frames of every tier -/

/-- Frames of a second-tier port in use, and its capacity in frames. -/
def State.usedOf (s : State) (tier : Nat) : List Nat :=
  if tier = 0 then s.mem.used0 else if tier = 1 then s.mem.used1 else s.mem.used2
def State.capOf2 (s : State) (tier : Nat) : Nat := if tier = 1 then s.mem.cap0 else s.mem.cap1

/-- Does a port take pages: enabled and linked? -/
def State.portTakes (s : State) (port : Nat) : Bool := s.portLinked port && s.func (.tier2 port) == .on

/-- Free frames of a tier. -/
def State.freeCount (s : State) (tier : Nat) : Nat :=
  if tier = 0 then s.hbmFree
  else if s.portTakes (tier - 1) then s.capOf2 tier - (s.usedOf tier).length else 0

/-- The lowest free frame of a tier. -/
def State.freeIn (s : State) (tier : Nat) : Option Nat :=
  if tier = 0 then s.freeHbm
  else if s.freeCount tier = 0 then none
  else
    let f := lowestFree (s.usedOf tier) 0
    if f < s.capOf2 tier then some f else none

/-- A frame taken. -/
def State.takeFrame (s : State) (tier f : Nat) : State :=
  if tier = 0 then { s with mem := { s.mem with used0 := insertNat s.mem.used0 f } }
  else if tier = 1 then { s with mem := { s.mem with used1 := insertNat s.mem.used1 f } }
  else { s with mem := { s.mem with used2 := insertNat s.mem.used2 f } }

/-- A frame freed; the growth of a region that has stalled goes on (R215). -/
def State.freeFrame (s : State) (tier f : Nat) : State :=
  if tier = 0 then s.freeFrame0 f
  else
    let s := s.setRegions fun r => { r with stalled := false }
    if tier = 1 then { s with mem := { s.mem with used1 := s.mem.used1.filter fun x => x != f } }
    else { s with mem := { s.mem with used2 := s.mem.used2.filter fun x => x != f } }

/-! ### Page tables (R202, R203) -/

/-- The number of the 4 KiB table after those there are, as bits [39:12] of its HBM physical address: the root is the first of the module
region. (DESIGN CHOICE, notes/assumptions/56.md). -/
def State.nextTable (s : State) : Nat := (s.poolTop * 512 + 1 + s.mem.tables.length) % 2 ^ 28

/-- The tables on the way to a page's level-0 entry, made where they are missing (R202). A table is never given back.
(DESIGN CHOICE, notes/assumptions/56.md). -/
def State.makeTables (s : State) (vpn : Nat) : State :=
  [3, 2, 1].foldl (fun (t : State) l =>
    if NMap.has t.mem.tables (tableKey l vpn) then t
    else { t with mem := { t.mem with tables := NMap.put t.mem.tables (tableKey l vpn) t.nextTable } }) s

/-- The HBM physical address of a page's level-0 entry, in the copy of the west stack groups or of the east: each takes half of the 256 MiB.
(DESIGN CHOICE, notes/assumptions/56.md). -/
def State.entryAddr (s : State) (vpn : Nat) (east : Bool) : Nat :=
  NMap.lookD s.mem.tables (tableKey 1 vpn) 0 * 4096 + vpn % 512 * 8 + bit01 east * 2 ^ 27

/-- The enabled second-tier port with more free frames, port 0 on a tie, as a tier; none where neither has one (R207, R220). -/
def State.roomierPort (s : State) : Option Nat :=
  let a := s.freeCount 1
  let b := s.freeCount 2
  if a = 0 && b = 0 then none else if b ≤ a then some 1 else some 2

/-! ### Migration (R221 to R226) -/

/-- The lowest subpage a migration has still to copy. -/
def Page.nextCopy (p : Page) : Option Nat :=
  (List.range 32).find? fun i => !p.copied.getLsbD i && !p.zeromask.getLsbD i

/-- The flip of a migration that has nothing left to copy (R223). -/
def Page.stepCopy (p : Page) : Page :=
  match p.mig with
  | none => p
  | some m =>
    match p.nextCopy with
    | some i => { p with mig := some { m with copying := some i } }
    | none => { p with tier := p.destTier, frame := p.destFrame, migrating := false, copied := 0,
                       mig := some { m with copying := none, flipped := true } }

/-- A page's migration starts: the entry names the destination, and the first subpage is COPYING (R223). -/
def State.beginMigration (s : State) (vpn : Nat) (p : Page) (tier frame : Nat) (withdraw : Bool) : State :=
  let s := s.takeFrame tier frame
  let p : Page := { p with
    migrating := true, destTier := tier, destFrame := frame, copied := 0,
    mig := some { copying := none, flipped := false, srcTier := p.tier, srcFrame := p.frame, bytes := 0,
                  withdraw := withdraw, held := [] } }
  s.setPage vpn p.stepCopy

/-- Held writes performed, each for the master that made it (R231). -/
def State.releaseHeld (s : State) (vpn : Nat) (l : List (Nat × Nat × SectorVal)) : State :=
  l.foldl (fun (t : State) h => t.writeMem (vpn * 65536 + h.1) h.2.2 h.2.1) s

/-- A migration aborted: held writes go to the source, the destination frame is freed (R224). (DEDUCED, notes/assumptions/58.md). -/
def State.abortMigration (s : State) (vpn : Nat) : State :=
  match NMap.look s.mem.pages vpn with
  | none => s
  | some p =>
    match p.mig with
    | none => s
    | some m =>
      if m.flipped then s else
      let s := s.setPage vpn { p with migrating := false, copied := 0, mig := none, lastEnd := some s.mem.epoch }
      let s := (s.releaseHeld vpn m.held).freeFrame p.destTier p.destFrame
      (s.bump Obj.migrationAbortTotal 1).log 0x3103 sevInfo (0x42 + (if p.destTier = 2 || p.tier = 2 then 1 else 0)) none p.destTier

/-- Migrations under way that an engine makes: of H1 for those of port 1, of H0 for the others and for withdrawals (R220). -/
def migEngine (src dst : Nat) (withdraw : Bool) : Nat := if !withdraw && (src == 2 || dst == 2) then 1 else 0

/-- How many migrations an engine runs. -/
def State.runningMigs (s : State) (engine : Nat) : Nat :=
  (s.mem.pages.filter fun e => match e.2.mig with
    | some m => migEngine m.srcTier e.2.destTier m.withdraw == engine
    | none => false).length

/-- Does the engine of a half own a staging unit (R48)? -/
def State.ownsStage (s : State) (half : Nat) : Bool :=
  (if half = 0 then s.dict.claims.stage0 else s.dict.claims.stage1).contains .tiering

/-- A move of R226 starts where a frame is free; else its stall is logged once. -/
def State.startMove (s : State) (vpn : Nat) (p : Page) : State :=
  if p.migrating || p.mig.isSome || 4 ≤ s.runningMigs 0 then s else
  let dst := match s.freeHbm with
    | some f => some (0, f)
    | none => if windowVpn ≤ vpn then none else
        s.roomierPort.bind fun t => (s.freeIn t).map fun f => (t, f)
  match dst with
  | some (t, f) =>
    let s := s.beginMigration vpn p t f true
    { s with mem := { s.mem with moves := s.mem.moves.filter fun v => v != vpn
                                 stallLog := false } }
  | none =>
    if s.mem.regions.pending.any fun q => q.2 == p.frame then
      if s.mem.regions.stalled then s else
      (s.setRegions fun r => { r with stalled := true }).log 0x3104 sevError 0x42 none
        (((s.mem.regions.pending.find? fun q => q.2 == p.frame).map (·.1)).getD 0)
    else if s.mem.stallLog then s
    else ({ s with mem := { s.mem with stallLog := true } } : State).log 0x3105 sevError 0x42 none 0

/-- May a listed candidate still start: its page may move, a destination frame is free, and the policy and `HbmFreeTarget` in force allow
it (R219)? (DEDUCED, notes/assumptions/58.md). -/
def State.candOpen (s : State) (c : Nat × Nat × Bool) : Bool :=
  match s.page c.1 with
  | none => false
  | some p =>
    !p.pin && !p.lost && p.mig.isNone && (s.freeIn c.2.1).isSome &&
      (if c.2.2 then s.num Obj.tieringPolicy == 2 && p.tier != 0 && decide (s.num Obj.hbmFreeTarget + 1 ≤ s.hbmFree)
       else s.num Obj.tieringPolicy != 0 && p.tier == 0 && decide (s.hbmFree < s.num Obj.hbmFreeTarget))

/-- The engine of a candidate: that of the half that holds the second-tier port (R220). -/
def State.candEngine (s : State) (c : Nat × Nat × Bool) : Nat := migEngine (((s.page c.1).map (·.tier)).getD 0) c.2.1 false

/-- The candidate an engine starts next: the first in the order of R220 that may still start. A promotion waits for every demotion that
may. (DEDUCED, notes/assumptions/58.md). -/
def State.nextCandidate (s : State) (engine : Nat) : Option (Nat × Nat × Bool) :=
  let l := s.mem.cand.filter s.candOpen
  match l.find? fun c => s.candEngine c == engine with
  | some c => if c.2.2 && l.any (fun d => !d.2.2) then none else some c
  | none => none

/-- A candidate of the last epoch starts, where it is its engine's next (R220, R221). -/
def State.startCandidate (s : State) (vpn : Nat) (p : Page) (c : Nat × Nat × Bool) : State :=
  let e := s.candEngine c
  if s.nextCandidate e != some c || decide (4 ≤ s.runningMigs e) || !s.ownsStage e || (e == 0 && !s.mem.moves.isEmpty) then s
  else match s.freeIn c.2.1 with
    | none => s
    | some f =>
      ({ s with mem := { s.mem with cand := s.mem.cand.filter fun c => c.1 != vpn } } : State).beginMigration vpn p c.2.1 f false

/-- A tiering engine starts to move a page: a move of R226 before any candidate; none while the engines are OFF (R225). -/
def migrationStart (page : Nat) (s : State) : State :=
  if s.func .tiering != .on then s else
  match s.page page with
  | none => s
  | some p =>
    if s.mem.moves.contains page then s.startMove page p
    else match s.mem.cand.find? fun c => c.1 == page with
      | some c => s.startCandidate page p c
      | none => s

/-- The sectors of a subpage copied from the source to the destination with their marks, charged to TIERING (R221); `bad`: the first sector
was uncorrectable in the staging unit, and takes MEM (R290). -/
def State.copySubpage (s : State) (p : Page) (m : Migration) (sub : Nat) (bad : Bool) : State :=
  let c := mTiering (migEngine m.srcTier p.destTier m.withdraw)
  (List.range 2048).foldl (fun (t : State) i =>
    let a := m.srcFrame * 65536 + sub * 2048 + i
    let b := p.destFrame * 65536 + sub * 2048 + i
    let v := t.tierRead m.srcTier a
    let v : SectorVal := if bad && i == 0 then { v with mark := some .mem } else v
    ((t.tierWrite p.destTier b v).charge (t.tierTarget m.srcTier (a * 32)) c).charge
      (t.tierTarget p.destTier (b * 32)) c) s

/-- The copy of the COPYING subpage ends: it is DONE, held writes go to both frames, and the next subpage or the flip
follows (R222, R223). `err` is what the staging unit's check of the first sector found. -/
def subpageCopyComplete (page : Nat) (err : ErrHit) (s : State) : State :=
  match NMap.look s.mem.pages page with
  | none => s
  | some p =>
    match p.mig with
    | none => s
    | some m =>
      match m.copying with
      | none => s
      | some sub =>
        if m.flipped || s.tierDown m.srcTier || s.tierDown p.destTier then s else
        let e := migEngine m.srcTier p.destTier m.withdraw
        let a := page * 2 ^ 21 + sub * 65536
        let s := (s.canvasError e (0x42 + e) (some (0, a)) (a / 32) true err).copySubpage p m sub (errBad err)
        let p1 : Page := { p with copied := p.copied ||| (1#32 <<< sub)
                                  mig := some { m with copying := none, bytes := m.bytes + 65536, held := [] } }
        let s := (s.setPage page p1).releaseHeld page m.held
        match NMap.look s.mem.pages page with
        | some p2 => s.setPage page p2.stepCopy
        | none => s

/-- The source frame of a flipped migration is freed, and the migration is counted (R223). -/
def migrationSourceFree (page : Nat) (s : State) : State :=
  match NMap.look s.mem.pages page with
  | none => s
  | some p =>
    match p.mig with
    | none => s
    | some m =>
      if !m.flipped then s else
      let s := s.setPage page { p with mig := none, migrations := min 65535 (p.migrations + 1),
                                       lastEnd := some s.mem.epoch, destTier := 0, destFrame := 0 }
      let s := s.freeFrame m.srcTier m.srcFrame
      let s := s.bump (if m.withdraw then Obj.migrationsWithdrawn
        else if p.tier = 0 then Obj.migrationsPromoted else Obj.migrationsDemoted) 1
      s.bump Obj.migrationBytes m.bytes

/-! ### Epochs (R218 to R220) -/

/-- May a page be a candidate? -/
def State.mayMove (s : State) (p : Page) : Bool :=
  !p.pin && !p.lost && p.mig.isNone && (match p.lastEnd with
    | some e => decide (e + 4 ≤ s.mem.epoch)
    | none => true)

/-- Insertion of a candidate by a key, lower first, then lower page. -/
def insertBy (key : Nat × Page → Nat) (x : Nat × Page) : List (Nat × Page) → List (Nat × Page)
  | [] => [x]
  | y :: l => if key x < key y || (key x = key y && x.1 < y.1) then x :: y :: l else y :: insertBy key x l

/-- Demotions chosen while HBM free frames are below the target; `a` and `b` are the ports' free frames.
(DEDUCED, notes/assumptions/58.md). -/
def pickDemotions (target : Nat) : Nat → Nat → Nat → List (Nat × Page) → List (Nat × Nat × Bool)
  | _, _, _, [] => []
  | free, a, b, x :: l =>
    if target ≤ free || (a = 0 && b = 0) then []
    else if b ≤ a then (x.1, 1, false) :: pickDemotions target (free + 1) (a - 1) b l
    else (x.1, 2, false) :: pickDemotions target (free + 1) a (b - 1) l

/-- Promotions chosen while each leaves the target free. (DEDUCED, notes/assumptions/58.md). -/
def pickPromotions (target : Nat) : Nat → List (Nat × Page) → List (Nat × Nat × Bool)
  | _, [] => []
  | free, x :: l => if free < target + 1 then [] else (x.1, 0, true) :: pickPromotions target (free - 1) l

/-- The candidates of an epoch end (R219, R220). (DEDUCED, notes/assumptions/58.md). -/
def State.candidates (s : State) : List (Nat × Nat × Bool) :=
  let pol := s.num Obj.tieringPolicy
  if pol = 0 || s.func .tiering != .on then [] else
  let target := s.num Obj.hbmFreeTarget
  let ok := s.mem.pages.filter fun e => s.mayMove e.2 && !s.tableLost e.1
  let cold := (ok.filter fun e => e.2.tier == 0 && decide (e.2.heat ≤ s.num Obj.migrationColdThreshold)).foldl
    (fun l x => insertBy (fun y => y.2.heat) x l) []
  let dem := pickDemotions target s.hbmFree (s.freeCount 1) (s.freeCount 2) cold
  let hot := if pol = 2 then
      (ok.filter fun e => e.2.tier != 0 && s.portTakes (e.2.tier - 1) && decide (s.num Obj.migrationHotThreshold ≤ e.2.heat)).foldl
        (fun l x => insertBy (fun y => 65535 - y.2.heat) x l) []
    else []
  dem ++ pickPromotions target (s.hbmFree + dem.length) hot

/-- An epoch ends: candidates are chosen anew, HEAT is halved and TOUCHED cleared for every page (R218 to R220). -/
def migrationEpochEnd (s : State) : State :=
  let c := s.candidates
  { s with mem := { s.mem with
      cand := c
      epoch := s.mem.epoch + 1
      pages := s.mem.pages.map fun e => (e.1, { e.2 with heat := e.2.heat / 2, touched := 0 }) } }

/-! ### Withdrawal (R226, R301) -/

/-- The page whose entry names an HBM frame, and whether it is its current frame. -/
def State.pageOnFrame (s : State) (f : Nat) : Option (Nat × Bool) :=
  match s.mem.pages.find? fun e => (e.2.tier == 0 && e.2.frame == f) || (e.2.migrating && e.2.destTier == 0 && e.2.destFrame == f) ||
      (match e.2.mig with
       | some m => m.srcTier == 0 && m.srcFrame == f
       | none => false) with
  | some e => some (e.1, e.2.tier == 0 && e.2.frame == f)
  | none =>
    -- a page of the window that is still where its region put it
    let rec find : List (Nat × Nat) → Nat → Option Nat
      | [], _ => none
      | r :: l, base => if r.1 ≤ f && f < r.1 + r.2 then some (base + (r.1 + r.2 - 1 - f)) else find l (base + r.2)
    (find s.mem.regions.window 0).bind fun i =>
      if NMap.has s.mem.pages (windowVpn + i) then none else some (windowVpn + i, true)

/-- A page to be moved under R226. -/
def State.addMove (s : State) (vpn : Nat) : State :=
  if s.mem.moves.contains vpn then s else
  match s.page vpn with
  | none => s
  | some p =>
    let t := s.setPage vpn p
    { t with mem := { t.mem with moves := t.mem.moves ++ [vpn] } }

/-- What the withdrawal of a frame does to the page on it: an abort of its migration, and a move where it is current. -/
def State.vacate (s : State) (f : Nat) : State :=
  match s.pageOnFrame f with
  | none => s
  | some (vpn, _) =>
    let s := s.abortMigration vpn
    match s.page vpn with
    | some p => if p.tier = 0 && p.frame = f then s.addMove vpn else s
    | none => s

/-- The lowest frame any region or the module region holds: a growing region takes frames below it. -/
def State.regionFloor (s : State) : Nat :=
  let held := (s.mem.regions.runs.map (·.1)) ++ s.mem.regions.pending.map (·.2)
  held.foldl min s.poolTop

/-- `n` more frames for a region from the frames below `top` downwards: free ones, and those that hold pages as due; withdrawn ones are
passed over. (DEDUCED, notes/assumptions/56.md). -/
def State.growRegion (reg : Nat) : Nat → Nat → State → State
  | 0, _, s => s
  | f + 1, n, s =>
    if n = 0 then s
    else if s.frameWithdrawn f then State.growRegion reg f n s
    else if s.mem.used0.contains f then
      State.growRegion reg f (n - 1) ((s.setRegions fun r => { r with pending := r.pending ++ [(reg, f)] }).vacate f)
    else State.growRegion reg f (n - 1) (s.setRegions fun r => r.add reg f)

/-- Frames due to regions that have been withdrawn are given up, and others take their places. -/
def State.replaceDue (s : State) : State :=
  let lost := s.mem.regions.pending.filter fun q => s.frameWithdrawn q.2
  let s := s.setRegions fun r => { r with pending := r.pending.filter fun q => !lost.contains q }
  lost.foldl (fun (t : State) q => State.growRegion q.1 t.regionFloor 1 t) s

/-- A frame withdrawn for an uncorrectable error (R301). -/
def State.withdrawFrame (s : State) (f : Nat) : State :=
  if s.frameWithdrawn f then s else
  let s := s.log 0x4038 sevError agentNone none f
  (({ s with mem := { s.mem with withdrawn := insertNat s.mem.withdrawn f } } : State).vacate f).replaceDue

/-- `HbmFramesWithdrawn`. -/
def State.withdrawnCount (s : State) : Nat :=
  ((s.mem.withdrawn.filter fun f => !s.deadChannels.contains (f % 16)).length) +
    (s.deadChannels.map fun c => channelBelow c s.hbmFrames).foldl (· + ·) 0

/-- A channel of a stack retires: its frames are withdrawn, and the group's D falls (R301). (DEDUCED, notes/assumptions/60.md). -/
def State.retireChannel (s : State) (stack ch : Nat) : State :=
  if s.mem.channels.contains (stack, ch) then s else
  let before := s.withdrawnCount
  let s : State := { s with mem := { s.mem with channels := s.mem.channels ++ [(stack, ch)] } }
  let n := if s.deadChannels.length = 0 then 0 else s.withdrawnCount - before
  let s := s.log 0x4037 sevFatal agentNone none (stack + ch * 256 + n * 2 ^ 32)
  (((s.mem.used0 ++ (s.mem.regions.window.flatMap fun r => (List.range r.2).map fun i => r.1 + i)).filter fun f => f % 16 == ch).foldl
    (fun (t : State) f => t.vacate f) s).replaceDue

/-- The stack of an HBM physical address (R213). -/
def State.stackOf (s : State) (addr : Nat) : Nat := s.stacks.getD (addr / 256 % s.stacks.length) 0

/-- An HBM hard fault: recorded; its channel retires where its repair resources are used up, or the store is full (R299,
R301). (DEDUCED, notes/assumptions/60.md). -/
def State.hbmHardFault (s : State) (granule position : Nat) : State :=
  let stack := s.stackOf (granule * 64)
  let ch := granule * 64 / 2 ^ 21 % 16
  match s.recordFault { hbm := true, place := granule, position := position, applied := false } agentNone
      (some (1, granule * 64)) with
  | (s, ok) =>
    let same := s.integ.store.filter fun f => f.hbm && s.stackOf (f.place * 64) == stack && f.place * 64 / 2 ^ 21 % 16 == ch
    if ok && decide (same.length ≤ Config.hbmRepairs) then s else s.retireChannel stack ch

/-- An uncorrectable error counted for its channel: the eighth within 24 h retires it (R301). -/
def State.countChannelError (s : State) (granule : Nat) : State :=
  let stack := s.stackOf (granule * 64)
  let ch := granule * 64 / 2 ^ 21 % 16
  let key := stack * 16 + ch
  let l := ((NMap.lookD s.mem.chanErr key []).filter fun t => !s.passed t (86400 * ticksPerS)) ++ [s.now]
  let s : State := { s with mem := { s.mem with chanErr := NMap.put s.mem.chanErr key l } }
  if 8 ≤ l.length then s.retireChannel stack ch else s

/-- The marks of both sectors of an HBM granule made MEM; a mark already there stays. -/
def State.poisonGranule (s : State) (granule : Nat) : State :=
  [2 * granule, 2 * granule + 1].foldl (fun (t : State) n =>
    let v := t.mem.hbm.sector n
    t.tierWrite 0 n { v with mark := orMark v.mark (some .mem) }) s

/-- An error found where an HBM granule is read (R287 to R290, R301). -/
def State.hbmError (s : State) (granule agent : Nat) (err : ErrHit) : State :=
  let addr : LogAddr := some (1, granule * 64)
  match err with
  | .none => s
  | .corrected pos again =>
    let s := s.corrected Obj.ceHbmTotal (unitHbm (s.stackOf (granule * 64))) 0x4003 agent addr pos
    if again then s.hbmHardFault granule pos else s
  | .uncorrectable pos again =>
    let s := ((s.bump Obj.ueHbmTotal 1).log 0x4013 sevError agent addr 1).poisonGranule granule
    let s := if again then s.hbmHardFault granule pos else s
    (s.countChannelError granule).withdrawFrame (granule * 64 / 2 ^ 21)

/-! ### Regions at an apply (R215) -/

/-- Frames a region is to have: spill area, save area, window. -/
def State.regionWant (s : State) (reg : Nat) : Nat :=
  if reg = 0 then s.num Obj.reduceSpillSize / 2
  else if reg = 1 then s.num Obj.preemptSaveSize / 2 else s.num Obj.hdmWindowSize * 512

/-- Frames a region holds and is due. -/
def Regions.ofRegion (r : Regions) (reg : Nat) : List (Nat × Nat) := if reg = 0 then r.spill else if reg = 1 then r.save else r.window
def Regions.setRegion (r : Regions) (reg : Nat) (l : List (Nat × Nat)) : Regions :=
  if reg = 0 then { r with spill := l } else if reg = 1 then { r with save := l } else { r with window := l }
def Regions.due (r : Regions) (reg : Nat) : Nat := (r.pending.filter fun p => p.1 == reg).length

/-- The first `n` frames of a list of runs. (DEDUCED, notes/assumptions/56.md). -/
def takeRuns : List (Nat × Nat) → Nat → List (Nat × Nat)
  | [], _ => []
  | r :: l, n => if n = 0 then [] else if n < r.2 then [(r.1 + r.2 - n, n)] else r :: takeRuns l (n - r.2)

/-- A whole run of `n` frames below `top`, where none of them holds a page or is withdrawn. -/
def State.growWhole (s : State) (reg n top : Nat) : Option State :=
  if n ≤ top && !(s.mem.used0.any fun f => decide (top - n ≤ f) && decide (f < top)) && s.mem.withdrawn.isEmpty &&
      s.deadChannels.isEmpty then
    some (s.setRegions fun r => r.setRegion reg (r.ofRegion reg ++ [(top - n, n)]))
  else none

/-! ### MAP, UNMAP, PROTECT (R207 to R210, R249) -/

/-- Base and length of a mapping entry, in pages; none where they break the rules of R249. -/
def Entry.mapRange (e : Entry) : Option (Nat × Nat) :=
  let b := fld (e.word 3) 56 0
  let l := fld (e.word 4) 56 0
  if b % 2 ^ 21 = 0 && l % 2 ^ 21 = 0 && l ≠ 0 && b + l ≤ 2 ^ 56 then some (b / 2 ^ 21, l / 2 ^ 21) else none

/-- A new mapping (R207). -/
def newPage (tier frame : Nat) (write pin : Bool) : Page :=
  { write := write, tier := tier, pin := pin, lost := false, frame := frame, destTier := 0, destFrame := 0,
    migrating := false, zeromask := 0xFFFFFFFF, touched := 0, heat := 0, migrations := 0, copied := 0, lastEnd := none,
    mig := none }

/-- Pages mapped one after the other. (DEDUCED, notes/assumptions/57.md). -/
def State.mapPages (tier : Nat) (write pin : Bool) : Nat → Nat → State → State
  | 0, _, s => s
  | n + 1, vpn, s =>
    match s.freeIn tier with
    | none => s
    | some f => State.mapPages tier write pin n (vpn + 1) (((s.makeTables vpn).takeFrame tier f).setPage vpn (newPage tier f write pin))

/-- The tier a placement gives a range of `n` pages (R207). -/
def State.placeTier (s : State) (placement n : Nat) : Option Nat :=
  if placement = 0 then (if n ≤ s.freeCount 0 then some 0 else none)
  else if placement ≤ 2 then (if n ≤ s.freeCount placement then some placement else none)
  else if n + s.num Obj.hbmFreeTarget ≤ s.freeCount 0 then some 0
  else
    let first := if s.freeCount 2 ≤ s.freeCount 1 then 1 else 2
    let second := 3 - first
    if n ≤ s.freeCount first then some first
    else if n ≤ s.freeCount second then some second
    else if n ≤ s.freeCount 0 then some 0 else none

/-- Is this mapping entry the next of its kinds: ready, with no earlier one still to be performed, ready or not (R249)? -/
def State.mapTurn (s : State) (e : Entry) : Bool :=
  s.ready e && !(s.ledger.entries.any fun x => decide (x.seq < e.seq) && !x.isFinished &&
    (x.kind == .map || x.kind == .unmap || x.kind == .protect))

/-- An entry marked as run in the present step. -/
def State.ranNow (s : State) (seq : Nat) : State := s.adjEntry seq fun e => { e with ran := true, step := s.det.step }

/-- MAP (R207). (DEDUCED, notes/assumptions/57.md). -/
def map (seq : Nat) (s : State) : State :=
  match s.entry seq with
  | none => s
  | some e =>
    if e.kind != .map || !s.mapTurn e then s else
    match e.mapRange with
    | none => s.finish seq stMapInvalid 0 0
    | some (vpn, n) =>
      match s.mem.pages.find? fun p => decide (vpn ≤ p.1) && decide (p.1 < vpn + n) with
      | some p => s.finish seq stMapOverlap 0 (p.1 * 2 ^ 21)
      | none =>
        match s.placeTier (fld (e.word 5) 63 62) n with
        | none => s.finish seq stNoFrame 0 0
        | some t =>
          ((State.mapPages t ((e.word 5).getLsbD 61) ((e.word 5).getLsbD 60) n vpn s).ranNow seq).finish seq stOk 0 0

/-- Frames of an unmapped page freed: its own, and the destination or source of a migration (R208). -/
def State.freePage (s : State) (p : Page) : State :=
  let s := s.freeFrame p.tier p.frame
  match p.mig with
  | none => s
  | some m => if m.flipped then s.freeFrame m.srcTier m.srcFrame else s.freeFrame p.destTier p.destFrame

/-- Records of a half's share of the spill area that it has frames for: the share's records are split equally. -/
def State.spillRecords (s : State) : Nat :=
  min (s.num Obj.reduceSpillSize * 2 ^ 20 / 2 / 2304) (runFrames s.mem.regions.spill * 2 ^ 21 / 2 / 2304)

/-- The lowest free record of a half. (DEDUCED, notes/assumptions/55.md). -/
def State.freeRecord (s : State) (half : Nat) : Option Nat :=
  let used := (s.felt.spilled.filter fun e => homeHalf e.1 == half).foldl (fun l e => insertNat l e.2.record) []
  let r := lowestFree used 0
  if r < s.spillRecords then some r else none

/-- The space a spill takes in its bank's spilled-tag store of 16 lines. -/
def State.spillTags (s : State) (line : Nat) : Nat := (s.felt.spilled.filter fun e => s.bankOf e.1 == s.bankOf line).length

/-- A deferred line is spilled, where its half has a free record and its bank a free tag; else it waits, logged at most once
per millisecond per half and counted once (R192, R194). -/
def State.spillLine (s : State) (line : Nat) : State :=
  match (NMap.look s.felt.lines line).bind fun l => l.red.map fun r => (l, r) with
  | none => s
  | some (l, r) =>
    if !r.deferred then s else
    match (if s.spillTags line < 16 then s.freeRecord (homeHalf line) else none) with
    | some rec =>
      let r' := { r with deferred := false }
      let s := s.writeRecord line rec (recordSectors line (l.sectors.map (·.val)) r')
      let tag : Reduce := { r' with slots := r.slots.map fun e => (e.1, []) }
      let s : State := { s with felt := { s.felt with
        lines := NMap.del s.felt.lines line
        spilled := NMap.put s.felt.spilled line { record := rec, red := tag, full := false } } }
      s.bump Obj.reduceSpillTotal 1
    | none =>
      let half := homeHalf line
      let last := if half = 0 then s.felt.spillLog0 else s.felt.spillLog1
      let openNow := match last with
        | some t => s.passed t ticksPerMs
        | none => true
      let s := if r.fullSeen then s
        else (s.setLine line { l with red := some { r with fullSeen := true } }).bump Obj.reduceSpillFullTotal 1
      if openNow then
        let s : State := { s with felt := if half = 0 then { s.felt with spillLog0 := some s.now }
          else { s.felt with spillLog1 := some s.now } }
        s.log 0x3003 sevInfo (0x4C) (some (0, line * 128)) half
      else s

/-- The delayed spills retried when a record or a tag is freed (R194). -/
def State.retrySpills (s : State) : State :=
  s.felt.lines.foldl (fun (t : State) e => match e.2.red with
    | some r => if r.deferred && r.fullSeen then t.spillLine e.1 else t
    | none => t) s

/-- A range of pages unmapped: reductions closed, lines and tags invalidated, migrations abandoned, frames freed (R208). -/
def State.unmapRange (s : State) (vpn n : Nat) : State :=
  let inside (line : Nat) : Bool := decide (vpn ≤ line / 16384) && decide (line / 16384 < vpn + n)
  let s := s.closeWhere inside
  let gone := s.mem.pages.filter fun e => decide (vpn ≤ e.1) && decide (e.1 < vpn + n)
  let s : State := { s with
    felt := { s.felt with
      lines := s.felt.lines.filter fun e => !inside e.1
      leaving := s.felt.leaving.filter fun e => !inside e.1
      dead := s.felt.dead.filter fun l => !inside l
      spilled := s.felt.spilled.filter fun e => !inside e.1 }
    mem := { s.mem with
      pages := s.mem.pages.filter fun e => decide (e.1 < vpn) || decide (vpn + n ≤ e.1)
      portWait := s.mem.portWait.filter fun e => !inside (e.1 / 4)
      cand := s.mem.cand.filter fun c => decide (c.1 < vpn) || decide (vpn + n ≤ c.1)
      moves := s.mem.moves.filter fun v => decide (v < vpn) || decide (vpn + n ≤ v)
      tlb0 := s.mem.tlb0.filter fun v => decide (v < vpn) || decide (vpn + n ≤ v)
      tlb1 := s.mem.tlb1.filter fun v => decide (v < vpn) || decide (vpn + n ≤ v) } }
  (gone.foldl (fun (t : State) e => t.freePage e.2) s).retrySpills.retry

/-- The tables of the window's pages, which R216 keeps mapped. -/
def State.windowTables (s : State) : State :=
  (List.range ((s.regionWant 2 + 511) / 512)).foldl (fun (t : State) i => t.makeTables (windowVpn + 512 * i)) s

/-- Moves of R226 that nothing asks for any more: their frames are neither withdrawn nor due to a region. -/
def State.pruneMoves (s : State) : State :=
  let due (v : Nat) : Bool := match s.page v with
    | some p => p.tier == 0 && (s.frameWithdrawn p.frame || s.mem.regions.pending.any fun q => q.2 == p.frame)
    | none => false
  { s with mem := { s.mem with moves := s.mem.moves.filter due } }

/-- A region brought to its size after an apply: frames beyond it return to the pool, the pages of a smaller window go, and missing frames
are taken (R215). Frames still due are given up first, then the last ones held. -/
def State.fitRegion (s : State) (reg : Nat) : State :=
  let want := s.regionWant reg
  let have_ := runFrames (s.mem.regions.ofRegion reg)
  let due := s.mem.regions.due reg
  if want < have_ + due then
    let s := s.setRegions fun r =>
      { r.setRegion reg (takeRuns (r.ofRegion reg) want) with
        pending := (r.pending.filter fun p => p.1 != reg) ++ ((r.pending.filter fun p => p.1 == reg).take (want - have_)) }
    (if reg = 2 then s.unmapRange (windowVpn + want) (have_ + due - want) else s).pruneMoves
  else if have_ + due < want then
    let n := want - (have_ + due)
    match s.growWhole reg n s.regionFloor with
    | some t => t
    | none => State.growRegion reg s.regionFloor n s
  else s

/-- Every region after an apply, in the table's order. -/
def State.fitRegions (s : State) : State := (((s.fitRegion 0).fitRegion 1).fitRegion 2).windowTables

/-- Does a bundle change a spare, or a port move to half width? A flush and a closure wait for it (R305). -/
def State.bundleChange (s : State) : Bool := !s.integ.stopped.isEmpty || !s.integ.moving.isEmpty

/-- UNMAP (R208); its closure waits for a bundle change (R305). -/
def unmap (seq : Nat) (s : State) : State :=
  match s.entry seq with
  | none => s
  | some e =>
    if e.kind != .unmap || !s.mapTurn e || s.bundleChange then s else
    match e.mapRange with
    | none => s.finish seq stMapInvalid 0 0
    | some (vpn, n) => ((s.unmapRange vpn n).ranNow seq).finish seq stOk 0 0

/-- PROTECT: WRITE of every mapped page of the range, and of the lines of those pages (R209). -/
def protect (seq : Nat) (s : State) : State :=
  match s.entry seq with
  | none => s
  | some e =>
    if e.kind != .protect || !s.mapTurn e then s else
    match e.mapRange with
    | none => s.finish seq stMapInvalid 0 0
    | some (vpn, n) =>
      let w := (e.word 5).getLsbD 61
      let inside (v : Nat) : Bool := decide (vpn ≤ v) && decide (v < vpn + n)
      let s : State := { s with
        mem := { s.mem with pages := s.mem.pages.map fun p => if inside p.1 then (p.1, { p.2 with write := w }) else p }
        felt := { s.felt with
          lines := s.felt.lines.map fun l => if inside (l.1 / 16384) then (l.1, { l.2 with write := w }) else l
          leaving := s.felt.leaving.map fun l => if inside (l.1 / 16384) then (l.1, { l.2 with write := w }) else l } }
      (s.ranNow seq).finish seq stOk 0 0

/-! ### Fills and walks -/

/-- A granule of a second-tier port that its expander cannot correct: it reads as MEM poison from then on (R295). -/
def State.markGranule (s : State) (tier granule : Nat) : State :=
  if tier = 1 then
    { s with mem := { s.mem with tier0 := { s.mem.tier0 with marks := NMap.put s.mem.tier0.marks granule .mem } } }
  else { s with mem := { s.mem with tier1 := { s.mem.tier1 with marks := NMap.put s.mem.tier1.marks granule .mem } } }

/-- Does the fill of a sector cross the half-link: does its memory lie in the other half than its home bank (R18, R171, R214)? -/
def State.fillCrosses (s : State) (sn : Nat) : Bool :=
  match s.page (sn / 65536) with
  | some p => !p.lost && !p.zeromask.getLsbD (subOfSect sn) &&
      (if p.tier = 0 then s.stackOf (physSect p.frame sn * 32) / 8 else p.tier - 1) != homeHalf (sn / 4)
  | none => false

/-- A sector brought by a frame of the half-link that took `replays` replays: they are counted, and one that still fails after 16 delivers
poison class LINK and is logged (R418). (DEDUCED, notes/assumptions/64.md, DESIGN CHOICE, notes/assumptions/53.md). -/
def State.halfFrame (s : State) (replays : Nat) (v : SectorVal) : State × SectorVal :=
  if replays = 0 then (s, v)
  else
    let s := s.bump Obj.halfLinkReplayTotal (min replays 16)
    if replays ≤ 16 then (s, v)
    else ((s.log 0x7205 sevFatal agentHalfLink none 16).drawn, { data := Config.freeSector s.dict.freeCount, mark := some .link })

/-- A sector being fetched arrives at its home bank: its error check, the fill, and the requests that wait (R176). `replays` is what the
half-link needed where the fill crosses it, 17 for a frame that still fails (R418). -/
def feltFillReturn (sector : Nat) (err : ErrHit) (replays : Nat) (s : State) : State :=
  match (NMap.look s.felt.lines (sector / 4)).bind fun l => (l.sectors[sector % 4]?).map fun x => (l, x) with
  | none => s
  | some (l, x) =>
    if !x.fetching || x.present || !s.fetchable sector || s.bundleStopped (sector / 4) then s else
    let zero := match s.page (sector / 65536) with
      | some p => p.lost || p.zeromask.getLsbD (subOfSect sector)
      | none => true
    let s := match s.page (sector / 65536), zero with
      | some p, false =>
        if p.tier = 0 then s.hbmError (physSect p.frame sector / 2) (0x4C) err
        else (match err with
          | .uncorrectable _ _ =>
            s.markGranule p.tier (physSect p.frame sector / 2)
          | _ => s)
      | _, _ => s
    let r := s.fetch sector x.master
    let q := if s.fillCrosses sector then r.1.halfFrame replays r.2 else r
    ((q.1.setLine (sector / 4) (filled l (sector % 4) q.2)).touch (sector / 4)).retry

/-- Does a request wait for a translation of a page in a half? -/
def State.walkWanted (s : State) (half page : Nat) : Bool :=
  !s.tlbHit half page && s.felt.waiting.any fun r => r.addr / 2 ^ 21 == page && homeHalf (r.addr / 128) == half

/-- An uncorrectable read of one copy of a level-0 entry: counted for its granule, and its frame is withdrawn; no poison is made, for the
other copy serves and the bad one is rewritten (R296, R301). (DEDUCED, notes/assumptions/56.md). -/
def State.copyError (s : State) (page : Nat) (east : Bool) : State :=
  let a := s.entryAddr page east
  let s := (s.bump Obj.ueHbmTotal 1).log 0x4013 sevError agentHalfManagers (some (1, a)) 0
  (s.countChannelError (a / 64)).withdrawFrame (a / 2 ^ 21)

/-- The read of a page's level-0 entry, where its west or its east copy is uncorrectable; with both, the entry is lost (R296). -/
def State.readEntry (s : State) (page : Nat) (west east : Bool) : State :=
  let s := if west then s.copyError page false else s
  let s := if east then s.copyError page true else s
  if west && east then
    let s := s.log 0x4015 sevFatal agentHalfManagers (some (0, page * 2 ^ 21)) 0
    { s with mem := { s.mem with badWest := insertNat s.mem.badWest page, badEast := insertNat s.mem.badEast page }
             boot := { s.boot with lost := true } }
  else s

/-- A table walk of a half returns the entry of a page a request waits for (R205). `west` and `east` say which copies of the level-0 entry
could not be read (R296). `err` is what the check of the cached entry read found: of the page's translation-cache entry, where the half
holds one, else of the walk-cache entry of its level-1 entry; one that is uncorrectable is discarded and walked again (R291). -/
def tableWalkReturn (half page : Nat) (west east : Bool) (err : ErrHit) (s : State) : State :=
  let addr : LogAddr := some (0, page * 2 ^ 21)
  if 2 ≤ half then s
  else if s.tlbHit half page then
    let s := s.canvasError half agentHalfManagers addr (2 ^ 50 + page) false err
    if errBad err then (((s.bump Obj.walkTotal 1).readEntry page west east).tlbFill half page).retry else s
  else if s.walkWanted half page then
    let s := if s.walkHit half page then s.canvasError half agentHalfManagers addr (2 ^ 51 + page / 512) false err else s
    ((((s.walkFill half page).bump Obj.walkTotal 1).readEntry page west east).tlbFill half page).retry
  else s

/-! ### Spills (R192 to R194) -/

/-- The 4,096 Felt cycles of a deferred line have passed (R192). -/
def reduceSpill (line : Nat) (s : State) : State := (s.spillLine line).retry

/-- The spill unit returns a combined reduction; the bank installs it as Dirty (R193). `err` is what the check of the record's first slot
in HBM found, `unit` what the spill unit's own check found; an uncorrectable one marks MEM (R290, R305). The record and the tag it frees let a delayed spill
go on (R194). -/
def spillCombineReturn (line : Nat) (err unit : ErrHit) (s : State) : State :=
  match NMap.look s.felt.spilled line with
  | none => s
  | some sp =>
    if !sp.full || s.retiringHome line then s else
    let s := match s.recordAddr (homeHalf line) sp.record 256 with
      | some a => s.hbmError (a / 64) (0x4C) err
      | none => s
    let s := s.canvasError (homeHalf line) agentHalfManagers (some (0, line * 128)) (2 ^ 52 + line) true unit
    let rec_ := s.recalled line sp
    let base := if errBad unit then adjAt rec_.1 0 fun v => { v with mark := some .mem } else rec_.1
    let res := reduceResult base rec_.2 false
    match (s.chargeRecall line sp).installSpill line res.1 with
    | (t, false) => s.keepDefer t
    | (s, true) => ((s.bump Obj.reduceSatTotal res.2).bump Obj.reduceCompleteTotal 1).retrySpills.retry

/-! ### Flush (R196) -/

/-- Is compute idle (R29)? -/
def State.computeIdle (s : State) : Bool :=
  (s.ledger.entries.all Entry.refused) && s.ledger.saved.isEmpty && s.tiles.all fun t => t.2.blocks.isEmpty

/-- May a flush start: compute idle, no line Reduce-busy or Spilled, none under way? -/
def State.flushable (s : State) : Bool :=
  s.felt.flush == 0 && s.computeIdle && s.felt.spilled.isEmpty && s.felt.lines.all fun l => l.2.red.isNone

/-- The flush under way ends: every line and tag is written, and `FeltFlushState` reads IDLE (R196).
(DEDUCED, notes/assumptions/11.md). -/
def feltFlushComplete (s : State) : State :=
  if s.felt.flush = 0 || s.bundleChange then s else
  let t := s.flushAll (s.felt.flush == 2)
  ({ t with felt := { t.felt with flush := 0 } } : State).retry

/-! ### Bank-group retirement (R198) -/

/-- The lines a retiring group still holds move; once the last has, requests resume at the new homes and the retirement is logged (R198). -/
def bankRetireMovesComplete (half group : Nat) (s : State) : State :=
  if !s.felt.retiring.contains (half, group) then s else
  let s := s.moveLeaving
  if s.leavingOf half group then s else (s.endRetire half group).retry

/-! ### Host accesses to the window (R216, R294) -/

/-- Data of all ones with the poison indication: the answer to a read that violates or bites. -/
def hostOnes : Bytes × Bool := (List.replicate 64 0xFF, true)

/-- A CXL.mem answer. -/
def State.answerHost (s : State) (r : Bytes × Bool) : State := { s with mem := { s.mem with hostResp := s.mem.hostResp ++ [r] } }

/-- One host access tried; false where it must wait. -/
def State.hostAccess (s : State) (offset : Nat) (data : Option Bytes) : State × Bool :=
  let a := windowBase + offset
  let outside := s.mem.hdmSize != 0 && decide (s.mem.hdmSize * 2 ^ 30 ≤ offset)
  if !s.felt.accepts then (s, false) else
  match (if outside then some vOutside else s.violationKind a data.isSome), data with
  | some k, none => ((s.violation a agentHost k).answerHost hostOnes, true)
  | some k, some _ => (s.violation a agentHost k, true)
  | none, none =>
    match s.bankRead (a / 32) mHost agentHost with
    | (t, none) => (s.keepDefer t, false)
    | (t, some x) =>
      match t.bankRead (a / 32 + 1) mHost agentHost with
      | (u, none) => (s.keepDefer u, false)
      | (t, some y) =>
        match firstMark [x.mark, y.mark] with
        | some c =>
          let bad := if x.mark.isSome then a else a + 32
          (((t.bump Obj.poisonBiteTotal 1).log 0x4021 sevError agentHost (some (0, bad)) c.code).answerHost hostOnes, true)
        | none => (t.answerHost (sectorBytes x.data ++ sectorBytes y.data, false), true)
  | none, some bs =>
    match s.bankStore (a / 32) 0 (bs.take 32) none mHost with
    | (t, false) => (s.keepDefer t, false)
    | (t, true) =>
      match t.bankStore (a / 32 + 1) 0 ((bs.drop 32).take 32) none mHost with
      | (u, false) => (s.keepDefer u, false)
      | (t, true) => (t, true)

/-- The waiting host accesses tried in order; those after one that waits wait too. -/
def State.hostRetry : List (Nat × Option Bytes) → State → State
  | [], s => s
  | r :: l, s =>
    match s.hostAccess r.1 r.2 with
    | (s, true) => State.hostRetry l s
    | (s, false) => { s with mem := { s.mem with hostWait := r :: l } }

/-- Every waiting host access tried. -/
def State.retryHost (s : State) : State :=
  State.hostRetry s.mem.hostWait { s with mem := { s.mem with hostWait := [] } }

/-- A host access: served in order; nothing happens while the host link is not linked. (DEDUCED, notes/assumptions/57.md). -/
def State.hostMem (s : State) (offset : Nat) (data : Option Bytes) : State :=
  if s.iface.hostLink ≠ 2 then s else
  { s with mem := { s.mem with hostWait := s.mem.hostWait ++ [(offset / 64 * 64, data)] } }.retryHost

/-- The host reads a line of the window through CXL.mem (R216). -/
def hostMemRead (offset : Nat) (s : State) : State := s.hostMem offset none

/-- The host writes a line of the window (R216). -/
def hostMemWrite (offset : Nat) (data : Bytes) (s : State) : State := s.hostMem offset (some data)

/-! ### A lost second tier (R217) -/

/-- The pages of a port become LOST: their migrations abort, and waiting writes are discarded. -/
def State.losePages (s : State) (port : Nat) : State :=
  let tier := port + 1
  let aborts := s.mem.pages.filter fun e => e.2.migrating && (e.2.tier == tier || e.2.destTier == tier)
  let s := aborts.foldl (fun (t : State) e => t.abortMigration e.1) s
  let n := (s.mem.pages.filter fun e => e.2.tier == tier && !e.2.lost).length
  let s : State := { s with mem := { s.mem with
    pages := s.mem.pages.map fun e => if e.2.tier = tier then (e.1, { e.2 with lost := true }) else e } }
  let gone := s.mem.portWait.filter fun e => match s.page (e.1 / 65536) with
    | some p => p.tier == tier
    | none => true
  let s : State := { s with mem := { s.mem with portWait := s.mem.portWait.filter fun e => !(gone.any fun g => g.1 == e.1) } }
  (s.bump Obj.tier2WritesDiscarded gone.length).log 0x3102 sevFatal (0x47 + port) none (port + n * 2 ^ 32)

end Sys2Proof.Machine
end

