-- ==== Sys2Proof/Machine/Validate.lean ====
section
/-! DEFINITION. The configuration validator and the claim check (ch. 2): the rules V1 to V64 of R46 on a resulting
configuration (R41), those marked L on an entry's resolved launch settings (R258), and the claims on shared resources
(R47 to R49). -/

set_option Elab.async false

namespace Sys2Proof.Machine

open Sys2Proof

/-! ### Firmware versions (R429) -/

/-- The slot a component runs. -/
def Comp.running (c : Comp) : Slot := if c.runB then c.b else c.a

/-- Major and minor of a version, as 16 bits. -/
def majorMinor (v : Nat) : Nat := v / 65536 % 65536

/-- The major.minor the running components share; none in the mixed state. -/
def State.sharedVersion (s : State) : Option Nat :=
  match s.fw.comps.map fun c => majorMinor c.running.version with
  | [] => none
  | v :: l => if l.all fun w => w == v then some v else none

/-- `FirmwareVersion` (R429): the shared major.minor, 0xFFFF in the mixed state, with the patch of component 0. -/
def State.firmwareVersion (s : State) : Nat :=
  (s.sharedVersion.getD 0xFFFF) * 65536 + (s.fw.comps.head?.map fun c => c.running.version % 65536).getD 0

/-! ### The resulting configuration -/

/-- What the validator judges: the state, the staged values, the committing session, and whether the module itself makes
the commit at bring-up (R45). -/
structure Cfg where
  st     : State
  staged : NMap Bytes
  sid    : Nat
  self   : Bool
  deriving DecidableEq, Repr

/-- A value of the resulting configuration. -/
def Cfg.n (c : Cfg) (key : Nat) : Nat := c.st.numWith c.staged key
def Cfg.is (c : Cfg) (key v : Nat) : Bool := c.n key == v
def Cfg.imp (a b : Bool) : Bool := !a || b

/-- The logical tiles that have a tile bound, or every one of the variant at bring-up (R45). -/
def Cfg.bound (c : Cfg) (t : Nat) : Bool := decide (t < c.st.tileCount) && (c.self || NMap.has c.st.boot.binding t)

/-- The masks of `FixedPartition`. -/
def masksOf (b : Bytes) : List Nat := (chunksN 8 16 b).map leNat
def Cfg.parts (c : Cfg) : List Nat := masksOf (c.st.valueWith c.staged Obj.fixedPartition)

/-- The tiles of a mask. -/
def tilesOf (m : Nat) : List Nat := (List.range 64).filter fun i => natBit m i

/-- The squares of R134, as lists of logical numbers. -/
def State.squares (s : State) : List (List Nat) :=
  (List.range (s.tileCount / 4)).map fun q => [4 * q, 4 * q + 1, 4 * q + 2, 4 * q + 3]

/-- Has `RngSeed` been applied since the last full reset, or is it staged (V7, V21)? -/
def Cfg.seeded (c : Cfg) : Bool := c.st.det.seedSet || NMap.has c.staged Obj.rngSeed

/-- V1 for the bounds that name another object: `SlotIndex` below `SlotCount`, and `FleeceHoldMax` 0 with SCHEDULE only.
(DEDUCED, notes/assumptions/17.md). -/
def Cfg.v1 (c : Cfg) : Bool :=
  decide (c.n Obj.slotIndex < c.n Obj.slotCount) &&
    (c.n Obj.fleeceHoldMax != 0 || c.is Obj.fleeceRelease 1)

def Cfg.v2 (c : Cfg) : Bool := c.parts.all fun m => (tilesOf m).all c.bound

/-- Is the field lock open for a session? -/
def State.lockOpenFor (s : State) (sid : Nat) : Bool :=
  match s.dict.lock with
  | .opened o _ => o == sid
  | _ => false

def Cfg.v3 (c : Cfg) : Bool :=
  c.self || c.st.lockOpenFor c.sid || c.staged.all fun e => match objRow e.1 with
    | some r => r.acc != .lck
    | none => true

/-- Do two masks share a tile? -/
def overlap (a b : Nat) : Bool := (tilesOf a).any fun t => natBit b t

/-- Are the masks of a list disjoint? -/
def disjoint : List Nat → Bool
  | [] => true
  | m :: l => (l.all fun x => !overlap m x) && disjoint l

def Cfg.v8 (c : Cfg) : Bool := Cfg.imp (c.is Obj.schedPolicy 1) ((c.parts.any fun m => m != 0) && disjoint c.parts)

/-- A mask of whole squares. -/
def State.wholeSquares (s : State) (m : Nat) : Bool :=
  (tilesOf m).all fun t => s.squares.any fun q => q.contains t && q.all fun u => natBit m u

def Cfg.v9 (c : Cfg) : Bool :=
  ((List.range 16).zip c.parts).all fun p =>
    Cfg.imp (natBit (c.n Obj.fixedPartitionClusters) p.1) (c.st.wholeSquares p.2 && (tilesOf p.2).all c.bound)

def Cfg.v19 (c : Cfg) : Bool :=
  let half (h : Nat) : Nat := ((List.range c.st.tileCount).filter fun t => c.bound t && c.st.halfOfTile t == h).length
  Cfg.imp (c.is Obj.clusterEnable 1) (decide (4 ≤ half 0) && decide (4 ≤ half 1))

/-- Ways reserved by the reduction buffer: none under ARRIVAL (R178). (DEDUCED, notes/assumptions/17.md). -/
def Cfg.v30 (c : Cfg) : Bool :=
  decide ((if c.is Obj.reduceOrder 0 then c.n Obj.reduceBufferLines / 128 else 0) + c.n Obj.feltPinWays ≤ 12)

/-- Minimum of a class on a target in the resulting configuration, and their sum. -/
def Cfg.min (c : Cfg) (t cl : Nat) : Nat := c.n (keyMin t cl)
def classes : List Nat := [1, 2, 3, 4, 5, 6]
def Cfg.sum (c : Cfg) (t : Nat) : Nat := (classes.map (c.min t)).foldl (· + ·) 0

def Cfg.v31 (c : Cfg) : Bool :=
  (List.range 7).all fun t => !c.st.targetPresent t || decide (1000 * c.sum t ≤ 9 * c.st.bwD100 t)

def Cfg.v32 (c : Cfg) : Bool := (List.range 7).all fun t => classes.any fun cl => c.n (keyWeight t cl) != 0

/-- `FeltCapacity` in bytes. -/
def State.feltBytes (s : State) : Nat := s.presentBanks * 2 ^ 22

/-- V33 with the figures of R239, in bytes per second. -/
def Cfg.v33 (c : Cfg) : Bool :=
  decide (c.st.feltBytes ≤ c.min 0 6 * 1000000 * c.n Obj.scrubPeriodFelt) &&
    [1, 2, 3, 4].all fun t => decide (c.st.hbmBytes ≤ c.min t 6 * 1000000 * c.n Obj.scrubPeriodHbm * 4)

def Cfg.tier2On (c : Cfg) (p : Nat) : Bool := c.is (Obj.tier2Enable0 + p) 1
def Cfg.static (c : Cfg) : Bool := c.is Obj.tieringPolicy 0

def Cfg.v34 (c : Cfg) : Bool := c.static || [0, 1].all fun p => Cfg.imp (c.tier2On p) (c.min (5 + p) 4 != 0)

/-- HOST peak in MB/s: that of the last trained link, or the full figure before any (R230). -/
def State.hostPeak (s : State) : Nat := if s.bw.lastLink = 0 then 512000 else s.bw.lastLink

/-- A class's peak on a target over its instances (R230, V35). -/
def Cfg.peak (c : Cfg) (t cl : Nat) : Nat :=
  if cl = 1 then 1638400 * ((List.range c.st.tileCount).filter fun n => c.bound n && !c.st.ledger.faultMask.contains n).length
  else if cl = 2 then c.st.hostPeak
  else if cl = 3 then 2 * 2048000
  else if cl = 4 then (if t = 0 then 0 else 2 * 512000)
  else if cl = 5 then 2 * 1800000
  else 2 * 64000

def Cfg.v35 (c : Cfg) : Bool := (List.range 7).all fun t => classes.all fun cl => decide (c.min t cl ≤ c.peak t cl)

def Cfg.v36 (c : Cfg) : Bool := [0, 1].all fun p => c.st.portLinked p || classes.all fun cl => c.min (5 + p) cl == 0

/-- Is a peer port of a half enabled in the resulting configuration? -/
def Cfg.peerOn (c : Cfg) (half : Nat) : Bool := (List.range 9).any fun i => c.is (Obj.peerPortEnable + 9 * half + i) 1

/-- Staging units the collective and tiering engines of a half need (V38, V39). -/
def Cfg.collUnits (c : Cfg) (half : Nat) : Nat := if c.peerOn half then 2 else 0
def Cfg.tierUnits (c : Cfg) : Nat := if c.static then 0 else 1

def Cfg.v38 (c : Cfg) : Bool := c.static || [0, 1].all fun h => decide (c.collUnits h + 1 ≤ 6)
def Cfg.v39 (c : Cfg) : Bool := [0, 1].all fun h => !c.peerOn h || decide (c.tierUnits + 2 ≤ 6)

def Cfg.v40 (c : Cfg) : Bool :=
  let need := c.n Obj.migrationRateLimit * 1000
  c.static || (([1, 2, 3, 4].all fun t => decide (need ≤ c.min t 4)) &&
    ([0, 1].all fun p => Cfg.imp (c.is Obj.tieringPolicy 2 && c.tier2On p) (decide (need ≤ c.min (5 + p) 4))))

def Cfg.v41 (c : Cfg) : Bool :=
  decide (2 * ((c.n Obj.reduceSpillSize + c.n Obj.preemptSaveSize) * 2 ^ 20 + c.n Obj.hdmWindowSize * 2 ^ 30) ≤ c.st.hbmBytes)

/-- The physical tile of a logical number where no tile of the variant fails: the tiles of each half that are not fused off, in row-major
order (R14). -/
def State.plannedTile (s : State) (t : Nat) : Option Nat :=
  let h := s.halfOfTile t
  (((List.range 36).map (36 * h + ·)).filter fun p => !s.fuses.fused.contains p)[t - h * Config.tilesPerHalf s.fuses.variant]?

/-- V52: the row of a logical tile is that of the tile bound to it; at bring-up, before binding, that of the tile planned for it (R45).
(DEDUCED, notes/assumptions/17.md). -/
def Cfg.v52 (c : Cfg) : Bool :=
  c.parts.all fun m => (tilesOf m).all fun t => match if c.self then c.st.plannedTile t else NMap.look c.st.boot.binding t with
    | some p => !natBit (c.n Obj.domainForceOff) (rowDomain p)
    | none => true

/-- The steps of the tile clock table in MHz: 1,200 down to 500 by 100 (R349). -/
def clockSteps : List Nat := (List.range 8).map fun i => 1200 - 100 * i

def Cfg.v61 (c : Cfg) : Bool := [0, 1].all fun h => !c.peerOn h || !natBit (c.n Obj.domainForceOff) (18 + h)

/-- MuslinEnable is committed OFF by the host session only, or by the module's own commit (R45). -/
def Cfg.v63 (c : Cfg) : Bool :=
  c.self || c.sid == 1 || !(match NMap.look c.staged Obj.muslinEnable with
    | some b => leNat b == 0
    | none => false)

def Cfg.v64 (c : Cfg) : Bool :=
  !(c.is Obj.firmwarePin 1) || (c.st.sharedVersion == some (c.n Obj.firmwarePinVersion))

/-- The rules of R46 in ascending order. -/
def Cfg.rules (c : Cfg) : List Bool :=
  let det := c.is Obj.determinismMode 1
  let fixed := c.is Obj.schedPolicy 1
  let coop := c.is Obj.launchModeDefault 1
  let split := c.n Obj.localArraySplit
  let pp (i : Nat) : Nat := c.n (Obj.poisonPolicy + i)
  [ c.v1, c.v2, c.v3,
    Cfg.imp det (c.is Obj.reduceOrder 0),
    Cfg.imp det fixed,
    Cfg.imp det (c.is Obj.collectiveOrder 1),
    Cfg.imp det c.seeded,
    c.v8, c.v9,
    Cfg.imp fixed (c.is Obj.preemptEnable 0),
    Cfg.imp (c.is Obj.resumeTolerant 1) det,
    decide (split % 128 = 0) && decide (256 ≤ split) && decide (split ≤ 1280),
    (List.range 15).any fun i => c.is Obj.barrierTimeout (2 ^ (16 + i)),
    decide (4 ≤ c.n Obj.tileMaxPerKernel),
    Cfg.imp (c.is Obj.preemptEnable 1) (decide (96 ≤ c.n Obj.preemptSaveSize)),
    Cfg.imp coop (decide (1 ≤ c.n Obj.orderScopeMax)),
    Cfg.imp coop (decide (1024 ≤ split)),
    Cfg.imp coop (c.is Obj.preemptEnable 0),
    c.v19,
    decide (c.n Obj.matrixQueueDepth ≤ c.n Obj.matrixTokenCount),
    Cfg.imp (c.is Obj.roundingMode 1) c.seeded,
    Cfg.imp (decide (2 ≤ c.n Obj.defaultNarrowFormat)) (c.is Obj.scaleGrain 2),
    Cfg.imp (c.is Obj.zeroPointMode 1) (decide (c.n Obj.scaleGrain ≤ 1)),
    Cfg.imp (c.is Obj.satEventEnable 1) (c.is Obj.completionEventEnable 1),
    decide (c.n Obj.fenceScopeDefault ≤ c.n Obj.orderScopeMax + 1),
    Cfg.imp (c.is Obj.orderScopeMax 2) (c.st.iface.hostLink == 2),
    Cfg.imp coop (decide (1 ≤ c.n Obj.fenceScopeDefault)),
    Cfg.imp (c.is Obj.reduceOrder 0) (decide (16 ≤ c.n Obj.reduceSpillSize) && decide (c.n Obj.reduceSpillSize % 2 = 0)),
    decide (c.n Obj.feltPinWays ≤ 8),
    c.v30, c.v31, c.v32, c.v33, c.v34, c.v35, c.v36,
    c.static || c.tier2On 0 || c.tier2On 1,
    c.v38, c.v39, c.v40, c.v41,
    decide (c.n Obj.migrationColdThreshold < c.n Obj.migrationHotThreshold),
    pp 0 == 0,
    pp 2 != 0 && pp 3 != 0,
    pp 1 != 0,
    Cfg.imp (c.is Obj.fleeceEnable 1) (decide (10 ≤ c.n Obj.fleeceFloor) && decide (c.n Obj.fleeceFloor ≤ 90)),
    Cfg.imp (c.is Obj.fleeceEnable 1) (c.is Obj.idleTileState 0),
    Cfg.imp (c.is Obj.fleeceRelease 1) (c.n Obj.rampCoordination != 0),
    Cfg.imp (c.is Obj.rampCoordination 1) (c.is Obj.muslinEnable 1),
    Cfg.imp (c.is Obj.rampCoordination 2) (c.n Obj.rampSyncPin != 0),
    decide (2 * c.n Obj.slotThreshold ≤ c.n Obj.powerCap),
    c.v52,
    Cfg.imp (c.is Obj.clockPolicy 1) (clockSteps.contains (c.n Obj.tileClockFixed)),
    (decide (10 ≤ c.n Obj.thermalGrace) && decide (c.n Obj.thermalGrace ≤ 200)) ||
      (c.is Obj.thermalGrace 0 && c.is Obj.throttleAsk 0),
    Cfg.imp (c.is Obj.timeSource 1) (c.n Obj.ppsPin != 0),
    Cfg.imp (c.is Obj.timeSource 2) (c.is Obj.muslinEnable 1),
    Cfg.imp (c.is Obj.debugTriggerEnable 1) (c.n Obj.debugTriggerPin != 0),
    Cfg.imp (c.is Obj.perfSampleEnable 1) (decide (10 ≤ c.n Obj.perfSamplePeriod)),
    Cfg.imp (c.is Obj.tracePortEnable 1) (c.n Obj.traceSource != 0),
    Cfg.imp (c.is Obj.idleTileState 2) (decide (10 ≤ c.n Obj.idleOffDelay)),
    c.v61,
    decide (1024 ≤ c.n Obj.muslinPort) && decide (c.n Obj.muslinPort ≤ 65535),
    c.v63, c.v64 ]

/-- The number of the first rule of a list that fails, counting from `n`; 0 where none does. -/
def firstFail (n : Nat) : List Bool → Nat
  | [] => 0
  | b :: l => if b then firstFail (n + 1) l else n

/-- The validator (R41): 0, or the lowest-numbered rule that fails. -/
def Cfg.validate (c : Cfg) : Nat := firstFail 1 c.rules

/-! ### Claims (R47 to R49) -/

/-- Units kept: those an owner holds, up to the number it still needs. -/
def keepUnits {α : Type} [DecidableEq α] (free : α) : List (α × Nat) → List α → List α
  | _, [] => []
  | need, x :: l =>
    match need.find? fun e => decide (e.1 = x) && decide (0 < e.2) with
    | some _ => x :: keepUnits free (need.map fun e => if e.1 = x then (e.1, e.2 - 1) else e) l
    | none => free :: keepUnits free need l

/-- One unit claimed: the lowest free one. -/
def claimUnit {α : Type} [DecidableEq α] (free o : α) : List α → Option (List α)
  | [] => none
  | x :: l => if x = free then some (o :: l) else (claimUnit free o l).map fun r => x :: r

/-- Units claimed for owners one after the other. -/
def claimUnits {α : Type} [DecidableEq α] (free : α) : List α → List α → Option (List α)
  | [], l => some l
  | o :: os, l => (claimUnit free o l).bind (claimUnits free os)

/-- The owners of units under a need: releases before claims (R44). -/
def placeUnits {α : Type} [DecidableEq α] (free : α) (need : List (α × Nat)) (own : List α) : Option (List α) :=
  let kept := keepUnits free need own
  claimUnits free (need.flatMap fun e => List.replicate (e.2 - kept.count e.1) e.1) kept

/-- The owner a pin is to have; none where two claim it. (DEDUCED, notes/assumptions/71.md). -/
def Cfg.pinOwner (c : Cfg) (pin : Nat) : Option PinOwner :=
  let want : List PinOwner :=
    (if c.is Obj.ppsPin pin then [.pps] else []) ++ (if c.is Obj.rampSyncPin pin then [.rampSync] else []) ++
      (if c.is Obj.debugTriggerEnable 1 && c.is Obj.debugTriggerPin pin then [.debugTrigger] else [])
  match want with
  | [] => some .none
  | [o] => some o
  | _ => none

/-- Timers needed in each half (R49). -/
def Cfg.timerNeed (c : Cfg) : List (TimerOwner × Nat) :=
  [(.thermalGrace, 1), (.barrierWd, 1), (.rampSched, if c.is Obj.rampCoordination 0 then 0 else 1),
   (.scrubPace, if c.is Obj.scrubEnable 1 then 1 else 0), (.perfSample, if c.is Obj.perfSampleEnable 1 then 1 else 0)]

/-- Staging units needed in a half (R48). -/
def Cfg.stageNeed (c : Cfg) (half : Nat) : List (StageOwner × Nat) :=
  [(.collective, c.collUnits half), (.tiering, c.tierUnits)]

/-- The owners under the resulting configuration; none where a resource would have a second owner (R47).
(DEDUCED, notes/assumptions/12.md, DEDUCED, notes/assumptions/17.md). -/
def Cfg.claims (c : Cfg) : Option Claims :=
  let o := c.st.dict.claims
  match c.pinOwner 1, c.pinOwner 2, placeUnits .free (c.stageNeed 0) o.stage0, placeUnits .free (c.stageNeed 1) o.stage1,
      placeUnits .free c.timerNeed o.timer0, placeUnits .free c.timerNeed o.timer1 with
  | some a0, some a1, some s0, some s1, some t0, some t1 =>
    some { aux0 := a0, aux1 := a1, stage0 := s0, stage1 := s1, timer0 := t0, timer1 := t1,
           trace := if c.is Obj.tracePortEnable 1 then c.n Obj.traceSource else 0 }
  | _, _, _, _, _, _ => none

/-! ### Launch settings (R97, R117, R247, R258) -/

/-- The format code of R77 of `DefaultNarrowFormat`: FP8_E4M3, FP8_E5M2, FP6_E3M2, FP6_E2M3, FP4_E2M1. -/
def narrowCode (v : Nat) : Nat := 3 + v

/-- The resolved launch settings of word 7. -/
def State.launchOf (s : State) (w : W64) : Launch :=
  let pick (hi lo key : Nat) : Nat := if fld w hi lo = 0 then s.num key else fld w hi lo - 1
  { coop := pick 59 58 Obj.launchModeDefault == 1
    splitKib := if fld w 63 60 = 0 then s.num Obj.localArraySplit else fld w 63 60 * 128
    stoch := pick 57 56 Obj.roundingMode == 1
    infOvf := pick 55 54 Obj.overflowMode == 1
    asym := pick 53 52 Obj.zeroPointMode == 1
    grain := pick 51 50 Obj.scaleGrain + 1
    narrow := if fld w 49 46 = 0 then narrowCode (s.num Obj.defaultNarrowFormat) else fld w 49 46 }

/-- The rules marked L with an entry's resolved settings, in ascending order; 0 where all hold. V2 holds: an entry names no
tile, stack, bank or port, and an unbound tile of a partition is unavailable (R45, R260). -/
def State.launchRule (s : State) (l : Launch) : Nat :=
  let fp46 := decide (5 ≤ l.narrow)
  if l.splitKib % 128 ≠ 0 || l.splitKib < 256 || 1280 < l.splitKib then 12
  else if l.coop && s.num Obj.orderScopeMax = 0 then 16
  else if l.coop && l.splitKib < 1024 then 17
  else if l.coop && s.isOn Obj.preemptEnable then 18
  else if l.stoch && !s.det.seedSet then 21
  else if fp46 && l.grain ≠ 3 then 22
  else if l.asym && l.grain = 3 then 23
  else if l.coop && s.num Obj.fenceScopeDefault = 0 then 27
  else 0

/-- The rules of a COLLECTIVE entry: V2, V21, V22, V23 (R258). -/
def State.collRule (s : State) (l : Launch) : Nat :=
  if l.stoch && !s.det.seedSet then 21
  else if decide (5 ≤ l.narrow) && l.grain ≠ 3 then 22
  else if l.asym && l.grain = 3 then 23
  else 0

end Sys2Proof.Machine
end

