-- ==== Sys2Proof/Machine/Determinism.lean ====
section
/-! DEFINITION. Determinism, checkpoint and replay (ch. 11): the unit map (R277), the run (R280, R281), the checkpoint record
(R282), the resume (R283) and the probe of the generator (R274). -/

set_option Elab.async false

namespace Sys2Proof.Machine

open Sys2Proof

/-- The pairs of logical numbers whose tiles are both bound (R134). -/
def State.pairDone (s : State) (p : Nat) : Bool := NMap.has s.boot.binding (2 * p) && NMap.has s.boot.binding (2 * p + 1)

/-- The bits of the complete squares of R277: bit 8h + q. -/
def State.squareBits (s : State) : Nat :=
  let per := Config.tilesPerHalf s.fuses.variant / 4
  maskOf ((List.range (2 * per)).filterMap fun q =>
    if (s.squares.getD q []).all fun t => NMap.has s.boot.binding t then some (8 * (q / per) + q % per) else none)

/-- The unit map of the binding and the capacity at a binding (R277). -/
def State.unitMapNow (s : State) (capacity : Nat) : BitVec 256 :=
  let pres := (s.boot.binding.map (·.1)).filter fun t => decide (t < 64)
  BitVec.ofNat 256 (capacity * 2 ^ 192 + maskOf pres * 2 ^ 128 + maskOf ((List.range 32).filter s.pairDone) * 2 ^ 96 +
    s.squareBits * 2 ^ 80 + pres.length * 2 ^ 72)

/-- CRC-32C of the 32 bytes of a unit map. -/
def unitMapId (m : BitVec 256) : Nat := (crc32c (natLE 32 m.toNat)).toNat

/-- The result-bearing settings of R278, in order, and their CRC. -/
def resultKeys : List Nat :=
  [Obj.roundingMode, Obj.defaultNarrowFormat, Obj.scaleGrain, Obj.zeroPointMode, Obj.overflowMode, Obj.scaleMargin,
   Obj.reduceOrder, Obj.fixedPartition, Obj.determinismMode, Obj.collectiveOrder]
def State.settingsCrc (s : State) : Nat := (crc32c (resultKeys.flatMap s.value)).toNat

/-- The running major.minor; 0xFFFF in the mixed state (R429). -/
def State.fwMajorMinor (s : State) : Nat := s.sharedVersion.getD 0xFFFF

/-- The run starts at an apply that sets `DeterminismMode` to ON or writes `RngSeed` (R280). -/
def State.startRun (s : State) : State :=
  { s with det := { s.det with runMap := s.det.unitMap, runFw := s.firmwareVersion, repro := true } }

/-- `RunReproducible`: OFF while `DeterminismMode` = OFF. -/
def State.reproducible (s : State) : Bool := s.isOn Obj.determinismMode && s.det.repro

/-- `CheckpointRecord` (R282): the 64 bytes with the CRC of bytes 4 to 63 in the lowest word. -/
def State.checkpoint (s : State) : Bytes :=
  let body := natLE 60 ((s.dict.configGen % 2 ^ 32) * 2 ^ 8 + s.det.step.toNat * 2 ^ 40 + s.num Obj.rngSeed * 2 ^ 104 +
    bit01 (s.isOn Obj.determinismMode) * 2 ^ 168 + bit01 s.reproducible * 2 ^ 169 + s.fwMajorMinor * 2 ^ 176 +
    s.settingsCrc * 2 ^ 192 + s.det.runMap.toNat * 2 ^ 224)
  natLE 4 (crc32c body).toNat ++ body

/-- `ResumeResult` codes (R285). -/
def resMatch : Nat := 0
def resBadRecord : Nat := 1
def resNotDet : Nat := 2
def resFw : Nat := 3
def resSeed : Nat := 4
def resSettings : Nat := 5
def resUnitMap : Nat := 6
def resTolerated : Nat := 7

/-- The outcome of the checks of R283 on a 64-byte record. -/
def State.resumeCheck (s : State) (r : Bytes) : Nat :=
  let v := leNat r
  let f (lo n : Nat) : Nat := v / 2 ^ lo % 2 ^ n
  if f 0 32 ≠ (crc32c (r.drop 4)).toNat then resBadRecord
  else if f 200 1 = 0 || !s.isOn Obj.determinismMode then resNotDet
  else if s.sharedVersion ≠ some (f 208 16) then resFw
  else if f 136 64 ≠ s.num Obj.rngSeed then resSeed
  else if f 224 32 ≠ s.settingsCrc then resSettings
  else if f 256 256 ≠ s.det.unitMap.toNat then (if s.isOn Obj.resumeTolerant then resTolerated else resUnitMap)
  else resMatch

/-- A checkpoint record applied while compute is idle; true where it is accepted (R283). -/
def State.resumeWith (s : State) (r : Bytes) : State × Bool :=
  let res := s.resumeCheck r
  let step := BitVec.ofNat 64 (leNat r / 2 ^ 72)
  let s : State := { s with det := { s.det with resume := res } }
  if res = resMatch then
    ({ s with det := { s.det with step := step, repro := natBit (leNat r) 201 } }, true)
  else if res = resTolerated then
    ({ s with det := { s.det with step := step, repro := false, runMap := s.det.unitMap } }, true)
  else (s, false)

/-- `RngProbeOutput` (R274): the draw of R270 for the input's key and message. -/
def State.probeOut (s : State) : W64 :=
  sipHash24 (BitVec.ofNat 64 (s.num Obj.rngSeed)) (BitVec.ofNat 64 (leNat (s.det.probe.take 8))) ((s.det.probe.drop 8).take 16)

/-- Logical numbers have been bound anew: the unit map follows (R277). (DEDUCED, notes/assumptions/26.md). -/
def State.bindUnitMap (s : State) : State :=
  { s with felt := { s.felt with capacity := s.feltBytes }, det := { s.det with unitMap := s.unitMapNow s.feltBytes } }

/-- A compute reset has left a unit map: where it differs from the run's under `DeterminismMode` = ON, the change is logged
and the scheduler stays paused (R281). -/
def State.checkRunMap (s : State) : State :=
  if s.isOn Obj.determinismMode && s.det.unitMap != s.det.runMap then
    let s : State := { s with det := { s.det with mapChanged := true }, ledger := { s.ledger with sched := .paused } }
    s.log 0x3401 sevFatal agentNone none (unitMapId s.det.runMap + unitMapId s.det.unitMap * 2 ^ 32)
  else { s with det := { s.det with mapChanged := false } }

end Sys2Proof.Machine
end

