-- ==== Sys2Proof/Machine/Peer.lean ====
section
/-! DEFINITION. Peer ports and the Brodide fabric protocol (ch. 16): flits and messages (R408, R409), credits (R410), replay and
retraining (R411), HELD_DOWN (R412), remote access (R413), the schedules of collectives (R415), and lane sparing (R417). -/

set_option Elab.async false

namespace Sys2Proof.Machine

open Sys2Proof

/-! ### Schedules of collectives (R414, R415) -/

/-- One step of a collective at a rank: what it sends and to whom, what it receives and from whom, the first sectors of both
within the collective's data, how many, and how the received data is used: 0 it replaces, 1 it combines before the rank's
own, 2 after it. -/
structure CStep where
  no    : Nat
  send  : Option Nat
  recv  : Option Nat
  sBase : Nat
  rBase : Nat
  len   : Nat
  mode  : Nat
  deriving DecidableEq, Repr

/-- The exchange of a rank at level `l` of the tree: with rank XOR 2^l, where that rank exists (R415). -/
def exchange (r n len l : Nat) : List CStep :=
  let p := r ^^^ 2 ^ l
  if p < n then
    [{ no := l * (l + 1) / 2, send := some p, recv := some p, sBase := 0, rBase := 0, len := len,
       mode := if p < r then 1 else 2 }]
  else []

/-- After level `l`: the ranks of the lower block whose partner does not exist get the combination from those that have it,
along partners of lower levels, higher levels first. -/
def handOn (r n len l : Nat) : List CStep :=
  let base := r / 2 ^ (l + 1) * 2 ^ (l + 1)
  let q := r - base
  let m := n - (base + 2 ^ l)
  if 2 ^ l ≤ q || m = 0 then []
  else ((List.range l).reverse.flatMap fun j =>
    let no := l * (l + 1) / 2 + l - j
    if q % 2 ^ (j + 1) = 2 ^ j && m ≤ q then
      [{ no := no, send := none, recv := some (r - 2 ^ j), sBase := 0, rBase := 0, len := len, mode := 0 : CStep }]
    else if q % 2 ^ (j + 1) = 0 && m ≤ q + 2 ^ j && q + 2 ^ j < 2 ^ l then
      [{ no := no, send := some (r + 2 ^ j), recv := none, sBase := 0, rBase := 0, len := len, mode := 0 : CStep }]
    else [])

/-- The steps of a reduction in the fixed tree: 17 levels reach 65,535 ranks. -/
def treeSteps (r n len : Nat) : List CStep :=
  (List.range 17).flatMap fun l => if 2 ^ l < n then exchange r n len l ++ handOn r n len l else []

/-- The steps of a ring that hands every rank's part to every rank: part `k` lies from sector `k * len` on. -/
def ringSteps (r n len : Nat) : List CStep :=
  (List.range (n - 1)).map fun k =>
    { no := k, send := some ((r + 1) % n), recv := some ((r + n - 1) % n), sBase := (r + n - k) % n * len,
      rBase := (r + 2 * n - 1 - k) % n * len, len := len, mode := 0 }

/-- A step that only receives, and one that only sends. -/
def recvStep (p len : Nat) : CStep := { no := 0, send := none, recv := some p, sBase := 0, rBase := 0, len := len, mode := 0 }
def sendStep (p len : Nat) : CStep := { no := 0, send := some p, recv := none, sBase := 0, rBase := 0, len := len, mode := 0 }

/-- The steps of a broadcast: each rank gets the data from the one before it and hands it to the one after. -/
def castSteps (r n root len : Nat) : List CStep :=
  (if r = root then [] else [recvStep ((r + n - 1) % n) len]) ++
    (if (r + 1) % n = root then [] else [sendStep ((r + 1) % n) len])

/-- Fields of a collective request (R414). -/
def Channel.w (c : Channel) (i : Nat) : W64 := c.words.getD i 0
def Channel.cop (c : Channel) : Nat := fld (c.w 0) 63 60
def Channel.rop (c : Channel) : Nat := fld (c.w 0) 59 56
def Channel.cvt (c : Channel) : Bool := (c.w 0).getLsbD 55
def Channel.rank (c : Channel) : Nat := fld (c.w 1) 63 48
def Channel.nranks (c : Channel) : Nat := fld (c.w 1) 47 32
def Channel.root (c : Channel) : Nat := fld (c.w 1) 31 16
def Channel.src (c : Channel) : Nat := fld (c.w 2) 56 0
def Channel.dst (c : Channel) : Nat := fld (c.w 3) 56 0
/-- LENGTH in sectors. -/
def Channel.sectors (c : Channel) : Nat := fld (c.w 4) 39 0 / 32
def Channel.collId (c : Channel) : Nat := (c.w 6).toNat

/-- Is it a reduction? -/
def Channel.reduces (c : Channel) : Bool := decide (c.cop ≤ 1)

/-- Sectors of a rank's contribution: a REDUCE_SCATTER contributes a part for every rank. -/
def Channel.part (c : Channel) : Nat := if c.cop = 1 then c.nranks * c.sectors else c.sectors

/-- The steps of a channel: the tree for a reduction under TREE, else the ring or the chain. -/
def Channel.steps (c : Channel) (tree : Bool) : List CStep :=
  if c.cop = 4 then [sendStep c.root c.sectors]
  else if c.cop = 5 then [recvStep c.root c.sectors]
  else if c.nranks ≤ 1 then []
  else if c.cop = 3 then castSteps c.rank c.nranks c.root c.sectors
  else if c.reduces && tree then treeSteps c.rank c.nranks c.part
  else ringSteps c.rank c.nranks c.part

/-- The ranks a channel needs a port to. -/
def Channel.partners (c : Channel) (tree : Bool) : List Nat :=
  ((c.steps tree).flatMap fun x => x.send.toList ++ x.recv.toList).eraseDups

/-- Is `CollectiveOrder` TREE? -/
def State.treeOrder (s : State) : Bool := s.isOn Obj.collectiveOrder

/-! ### Ports -/

/-- A port that has not trained. -/
def Peer.idle : Peer :=
  { lanes := 0, pair := 0, partner := 0xFFFF, txSeq := 0, rxSeq := 0, anyRx := false, nakSent := false, replay := [],
    replays := 0, retrains := [], training := false, credits := [0, 0, 0], owed := [0, 0, 0], rx := [], tx := [],
    ctl := [], failedL := [], spared := [], swapQ := [], swap := none, outst := [] }

/-- A port. -/
def State.peer (s : State) (p : Nat) : Peer := NMap.lookD s.iface.peers p Peer.idle

/-- The state with a port changed. -/
def State.adjPeer (s : State) (p : Nat) (f : Peer → Peer) : State :=
  { s with iface := { s.iface with peers := NMap.put s.iface.peers p (f (s.peer p)) } }

/-- The agent code of a port's group, and the agent code of a collective engine (R306). -/
def peerAgent (p : Nat) : Nat := 0x49 + p / 9
def collAgent (half : Nat) : Nat := 0x40 + half

/-- Does the port run flits: trained, and neither off nor held down nor retraining? -/
def State.peerLive (s : State) (p : Nat) : Bool :=
  decide (p < 18) && (s.peer p).lanes != 0 && !(s.peer p).training && s.func (.peer p) != .off && s.func (.peer p) != .heldDown

/-- May new messages be sent: the port is ON and no spare is being steered? -/
def State.peerSends (s : State) (p : Nat) : Bool := s.peerLive p && s.func (.peer p) == .on && (s.peer p).swap.isNone

/-! ### Messages (R409) -/

/-- The VC of a message type: REQUEST, RESPONSE, COLLECTIVE. -/
def vcOf (mtype : Nat) : Nat := if mtype ≤ 1 then 0 else if mtype = 4 then 2 else 1

/-- Sectors of data that follow a message's header: a READ carries none. -/
def dataSectors (mtype len : Nat) : Nat := if mtype = 1 then 0 else len

/-- The POISON field of a message's sectors. -/
def poisonBits : List SectorVal → Nat
  | [] => 0
  | v :: l => (match v.mark with
      | some c => 1 + 2 * c.code
      | none => 0) + 8 * poisonBits l

/-- A poison class from its code. -/
def classOf (n : Nat) : PoisonClass := if n = 0 then .mem else if n = 1 then .dead else if n = 2 then .link else .xfer

/-- The bytes of a message. -/
def PMsg.bytes (m : PMsg) : Bytes :=
  natLE 16 (m.addr % 2 ^ 57 + m.step % 2 ^ 21 * 2 ^ 57 + m.tag % 65536 * 2 ^ 78 + m.node % 65536 * 2 ^ 94 +
    poisonBits m.data % 4096 * 2 ^ 110 + (m.len + 3) % 4 * 2 ^ 122 + m.mtype % 16 * 2 ^ 124) ++
    m.data.flatMap fun v => sectorBytes v.data

/-- The messages of a payload, and whether the parse ended at a reserved MTYPE. An all-zero header is unused payload. -/
def parseMsgs (vc : Nat) : Nat → Bytes → List PMsg × Bool
  | 0, _ => ([], false)
  | fuel + 1, bs =>
    let h := leNat (bs.take 16)
    let mtype := h / 2 ^ 124 % 16
    let len := h / 2 ^ 122 % 4 + 1
    let n := dataSectors mtype len
    if bs.length < 16 || h = 0 then ([], false)
    else if 6 ≤ mtype then ([], true)
    else if bs.length < 16 + 32 * n then ([], false)
    else
      let mark (i : Nat) : Option PoisonClass :=
        if natBit h (110 + 3 * i) then some (classOf (h / 2 ^ (111 + 3 * i) % 4)) else none
      let d : List SectorVal := (List.range n).map fun i =>
        { data := bytesSector ((bs.drop (16 + 32 * i)).take 32), mark := mark i }
      let r := parseMsgs vc fuel (bs.drop (16 + 32 * n))
      ({ vc := vc, mtype := mtype, len := len, node := h / 2 ^ 94 % 65536, tag := h / 2 ^ 78 % 65536,
         step := h / 2 ^ 57 % 2 ^ 21, addr := h % 2 ^ 57, data := d, last := false } :: r.1, r.2)

/-- The last message of a flit marked: its leaving returns the flit's credit. -/
def markLast : List PMsg → List PMsg
  | [] => []
  | [m] => [{ m with last := true }]
  | m :: l => m :: markLast l

/-! ### Sending -/

/-- One message sent in a flit of its own, if the port holds a credit and the replay buffer has room (R410, R411). -/
def State.sendOne (s : State) (p : Nat) : State :=
  let x := s.peer p
  match x.tx with
  | [] => s
  | m :: l =>
    if s.peerSends p && decide (0 < x.credits.getD m.vc 0) && decide (x.replay.length < 1024) then
      s.adjPeer p fun x =>
        { x with tx := l, txSeq := (x.txSeq + 1) % 4096, replay := x.replay ++ [(x.txSeq, BitVec.ofNat 8 m.vc :: m.bytes)],
                 credits := adjAt x.credits m.vc (· - 1), owed := [0, 0, 0] }
    else s

/-- Messages sent while they can be. (DEDUCED, notes/assumptions/64.md). -/
def State.pump (p : Nat) : Nat → State → State
  | 0, s => s
  | n + 1, s => State.pump p n (s.sendOne p)

/-- A message queued and sent as soon as it can be. -/
def State.sendMsg (s : State) (p : Nat) (m : PMsg) : State :=
  let s := s.adjPeer p fun x => { x with tx := x.tx ++ [m] }
  State.pump p (s.peer p).tx.length s

/-- A control flit sent. -/
def State.sendCtl (s : State) (p ctype carg : Nat) : State := s.adjPeer p fun x => { x with ctl := x.ctl ++ [(ctype, carg)] }

/-! ### HELD_DOWN (R412) -/

/-- A collective or copy entry fails with a fault code (R255, R416). -/
def State.collFault (s : State) (e : Entry) (code : Nat) : State :=
  let half := (e.chan.map (·.half)).getD 0
  (s.logFault code (collAgent half) none 0 none 0).finish e.seq stFault 0 (code * 2 ^ 56)

/-- Does a running collective use a port? -/
def State.usesPort (s : State) (p : Nat) (e : Entry) : Bool :=
  e.status == .running && (match e.chan with
    | some c => c.coll && (c.partners s.treeOrder).any fun r => match c.ranks[r]? with
      | some x => natBit x.2 p
      | none => false
    | none => false)

/-- The work outstanding on a port ends: reads with poison of class LINK, writes with an error, collectives with COLL_PEER;
the port's link state is gone. -/
def State.endPeerWork (s : State) (p : Nat) : State :=
  let free : SectorVal := { data := Config.freeSector s.dict.freeCount, mark := some .link }
  let s := (s.ledger.entries.filter (s.usesPort p)).foldl (fun (t : State) e => t.collFault e 0x22) s
  let x := s.peer p
  (s.adjPeer p fun _ => { Peer.idle with
    failedL := x.failedL
    outst := x.outst.map fun r => if r.isRead then { r with answer := some [free] } else { r with failed := true } }).drawn

/-- A port goes to HELD_DOWN. Where a sequence of its runs, that is not cut short (R51): a shut-down completes, and an enable fails when it
ends, for its link is gone. -/
def State.peerHeldDown (s : State) (p : Nat) : State :=
  let s : State := { s.endPeerWork p with boot := { (s.endPeerWork p).boot with links := NMap.del (s.endPeerWork p).boot.links (p + 1) } }
  if s.func (.peer p) == .on then (s.setFunc (.peer p) .heldDown).log 0x7204 sevError (peerAgent p) none p else s

/-! ### Acknowledgements, replays and retraining (R411) -/

/-- How far `a` lies behind `b`, modulo 2^12. -/
def behind (a b : Nat) : Nat := (b + 4096 - a) % 4096

/-- The acknowledgement and the credits of a flit taken. (DEDUCED, notes/assumptions/64.md). -/
def State.takeAck (s : State) (p : Nat) (h : Nat) : State :=
  let ack := h / 2 ^ 36 % 4096
  let s := if natBit h 35 then
      let x := s.peer p
      let left := x.replay.filter fun e => 2048 ≤ behind e.1 ack
      if left.length < x.replay.length then s.adjPeer p fun x => { x with replay := left, replays := 0, retrains := [] } else s
    else s
  let vc := h / 2 ^ 31 % 4
  let s := s.adjPeer p fun x => { x with credits := adjAt x.credits vc (· + h / 2 ^ 23 % 256) }
  State.pump p (s.peer p).tx.length s

/-- The port retrains; after 3 retrains within 1 s without an acknowledgement that advances it is held down. -/
def State.retrainPort (s : State) (p : Nat) (tell : Bool) : State :=
  let recent := (s.peer p).retrains.filter fun t => !s.passed t ticksPerS
  if 3 ≤ recent.length then s.peerHeldDown p
  else
    let s := s.adjPeer p fun x => { x with training := true, replays := 0, retrains := recent ++ [s.now] }
    let s := if tell then s.sendCtl p 4 0 else s
    (s.bump Obj.peerRetrainTotal 1).log 0x7203 sevInfo (peerAgent p) none p

/-- The sender replays from the oldest unacknowledged flit; after 16 replays without an acknowledgement that advances, it
retrains. (DEDUCED, notes/assumptions/64.md). -/
def State.replayPort (s : State) (p : Nat) : State :=
  if (s.peer p).replay.isEmpty then s
  else if 16 ≤ (s.peer p).replays then s.retrainPort p true
  else (s.adjPeer p fun x => { x with replays := x.replays + 1 }).bump Obj.peerReplayTotal 1

/-! ### Receiving (R408, R411) -/

/-- A flit discarded: the receiver asks for the flit it expects. -/
def State.discardFlit (s : State) (p : Nat) : State :=
  (s.sendCtl p 0 (s.peer p).rxSeq).adjPeer p fun x => { x with nakSent := true }

/-- A protocol error counted, and logged at most once per second per port; `kind` 0 a flit, 1 a message. -/
def State.protocolError (s : State) (p kind h : Nat) : State :=
  let s := s.bump Obj.peerProtocolErrorTotal 1
  let cause := 0x720600 + p
  if s.limitOpen cause ticksPerS then
    (s.limitMark cause).log 0x7206 sevError (peerAgent p) none (p + kind * 256 + h / 2 ^ 32 % 2 ^ 32 * 2 ^ 32)
  else s

/-- Does a flit's CRC match? -/
def flitCrcOk (f : Bytes) : Bool := decide (f.length = 256) && leNat ((f.drop 252).take 4) == (crc32c (f.take 248)).toNat

/-- Is a flit with a good CRC a protocol error: a reserved code, a reserved trailer bit, or a CARG that must be zero? -/
def flitBad (f : Bytes) : Bool :=
  let h := leNat (f.take 8)
  let ftype := h / 2 ^ 60
  let ctype := h / 2 ^ 19 % 16
  let carg := h % 2 ^ 19
  let most := if ftype = 2 then
      (if ctype = 0 then 4096 else if ctype = 1 then 32 else if ctype = 3 then 2 else 1)
    else 1
  decide (2 < ftype) || (ftype == 1 && h / 2 ^ 33 % 4 == 3) || (ftype == 2 && decide (4 < ctype)) ||
    leNat ((f.drop 248).take 4) != 0 || decide (most ≤ carg)

/-- A flit arrives on a port: discarded where its codeword or CRC fails or it breaks the protocol; else what it is, if it is
of the type and control type named. -/
def State.receiveFlit (s : State) (p : Nat) (f : Bytes) (ok : Bool) (ftype ctype : Nat) (k : State → Nat → State) : State :=
  if !s.peerLive p then s
  else if !ok || !flitCrcOk f then s.discardFlit p
  else
    let h := leNat (f.take 8)
    if flitBad f then (s.protocolError p 0 h).discardFlit p
    else if h / 2 ^ 60 ≠ ftype || (ftype = 2 && h / 2 ^ 19 % 16 ≠ ctype) then s
    else k s h

/-- A DATA flit accepted in FSEQ order, its messages placed in the receive buffer; a reserved MTYPE ends the parse. -/
def State.acceptData (s : State) (p : Nat) (f : Bytes) (h : Nat) : State :=
  let vc := h / 2 ^ 33 % 4
  let r := parseMsgs vc 15 ((f.drop 8).take 240)
  let s := s.adjPeer p fun x =>
    { x with rxSeq := (x.rxSeq + 1) % 4096, anyRx := true, nakSent := false, rx := x.rx ++ markLast r.1
             owed := if r.1.isEmpty then adjAt x.owed vc (· + 1) else x.owed }
  if r.2 then s.protocolError p 1 h else s

/-- A DATA flit (R408, R409, R411): a copy is discarded, a later flit is dropped, the expected one is accepted. -/
def dataFlit (p : Nat) (f : Bytes) (ok : Bool) (s : State) : State :=
  s.receiveFlit p f ok 1 0 fun s h =>
    let fseq := h / 2 ^ 48 % 4096
    let want := (s.peer p).rxSeq
    let s := s.takeAck p h
    if fseq = want then s.acceptData p f h
    else if behind fseq want < 2048 then s
    else if (s.peer p).nakSent then s
    else s.discardFlit p

/-- An IDLE flit carries acknowledgements and credits. -/
def idleFlit (p : Nat) (f : Bytes) (ok : Bool) (s : State) : State :=
  s.receiveFlit p f ok 0 0 fun s h => s.takeAck p h

/-- A NAK: the sender replays (R411). The flits before the one it names have arrived. -/
def nak (p : Nat) (f : Bytes) (ok : Bool) (s : State) : State :=
  s.receiveFlit p f ok 2 0 fun s h =>
    let s := s.takeAck p h
    let want := h % 4096
    let x := s.peer p
    let left := x.replay.filter fun e => e.1 == want || 2048 ≤ behind e.1 want
    let s := if left.length < x.replay.length then
        s.adjPeer p fun x => { x with replay := left, replays := 0, retrains := [] }
      else s
    s.replayPort p

/-! ### Lanes (R417) -/

/-- The spare lanes of a port's half that `PeerSpareAssign` gives it and that it has not steered. -/
def State.freeSpares (s : State) (p : Nat) : List Nat :=
  (List.range 2).filterMap fun i =>
    let k := 2 * (p / 9) + i
    if leNat (((s.value Obj.peerSpareAssign).drop k).take 1) = p && !((s.peer p).spared.any fun e => e.2 == k) then some k
    else none

/-- The lowest lane pair without a failed lane. -/
def Peer.goodPair (x : Peer) : Option Nat :=
  [0, 1].find? fun q => !x.failedL.contains (2 * q) && !x.failedL.contains (2 * q + 1)

/-- A failed lane with no spare left: the port moves to a healthy pair, or is held down. -/
def State.narrowPort (s : State) (p : Nat) : State :=
  let x := s.peer p
  if x.lanes = 2 && !x.failedL.contains (2 * x.pair) && !x.failedL.contains (2 * x.pair + 1) then s
  else match x.goodPair with
    | some q =>
      ((s.adjPeer p fun x => { x with lanes := 2, pair := q }).sendCtl p 3 q).log 0x7202 sevError (peerAgent p) none (p + q * 256)
    | none => s.peerHeldDown p

/-- The next failed lane is spared, in ascending order, while no LANE_SWAP is under way and the port does not retrain. -/
def State.spareNext (p : Nat) : Nat → State → State
  | 0, s => s
  | n + 1, s =>
    let x := s.peer p
    match x.swapQ with
    | [] => s
    | lane :: l =>
      if x.swap.isSome || !s.peerLive p then s else
      match s.freeSpares p with
      | k :: _ => (s.adjPeer p fun x => { x with swapQ := l, swap := some (lane, k) }).sendCtl p 1 (lane + 8 * k)
      | [] => State.spareNext p n ((s.adjPeer p fun x => { x with swapQ := l }).narrowPort p)

/-- A lane has failed: it is spared, or the 2-lane rule applies (R417). -/
def laneFailed (p lane : Nat) (s : State) : State :=
  if decide (18 ≤ p) || (s.peer p).lanes = 0 || decide (4 ≤ lane) || (s.peer p).failedL.contains lane then s
  else
    let s := s.adjPeer p fun x => { x with failedL := insertNat x.failedL lane, swapQ := insertNat x.swapQ lane }
    State.spareNext p (s.peer p).swapQ.length s

/-- A spare steered in place of a lane. -/
def State.steered (s : State) (p lane k : Nat) : State :=
  let s := s.adjPeer p fun x =>
    { x with spared := x.spared ++ [(lane, k)], failedL := x.failedL.filter fun l => l != lane, swap := none }
  let s := (s.bump Obj.peerLaneSparedTotal 1).log 0x7201 sevInfo (peerAgent p) none (p + lane * 256 + k * 2048)
  let s := State.spareNext p (s.peer p).swapQ.length s
  State.pump p (s.peer p).tx.length s

/-- LANE_SWAP: this end steers the spare and names the flit boundary with LANE_SWAP_ACK. -/
def laneSwap (p : Nat) (f : Bytes) (ok : Bool) (s : State) : State :=
  s.receiveFlit p f ok 2 1 fun s h =>
    let s := (s.takeAck p h).sendCtl p 2 0
    let own := (s.peer p).swap
    let t := s.steered p (h % 8) (h / 8 % 4)
    if own.isSome then t.adjPeer p fun x => { x with swap := own } else t

/-- LANE_SWAP_ACK: the spare is steered at the boundary, and lost flits are replayed. -/
def laneSwapAck (p : Nat) (f : Bytes) (ok : Bool) (s : State) : State :=
  s.receiveFlit p f ok 2 2 fun s h =>
    let s := s.takeAck p h
    match (s.peer p).swap with
    | some (lane, k) => s.steered p lane k
    | none => s

/-- WIDTH: the port moves to the lane pair named. -/
def width (p : Nat) (f : Bytes) (ok : Bool) (s : State) : State :=
  s.receiveFlit p f ok 2 3 fun s h =>
    ((s.takeAck p h).adjPeer p fun x => { x with lanes := 2, pair := h % 2 }).log 0x7202 sevError (peerAgent p) none (p + h % 2 * 256)

/-- RETRAIN: the port retrains. -/
def retrain (p : Nat) (f : Bytes) (ok : Bool) (s : State) : State :=
  s.receiveFlit p f ok 2 4 fun s h => (s.takeAck p h).retrainPort p false

/-- The oldest flit has gone 2 µs without acknowledgement. -/
def replayTimeout (p : Nat) (s : State) : State := if s.peerLive p then s.replayPort p else s

/-- A retrain ends: traffic resumes from the replay buffer, and lanes that failed meanwhile are spared (R411, R425). -/
def peerRetrainComplete (p : Nat) (s : State) : State :=
  if !(s.peer p).training then s
  else
    let s := s.adjPeer p fun x => { x with training := false, nakSent := false }
    let s := State.spareNext p (s.peer p).swapQ.length s
    State.pump p (s.peer p).tx.length s

/-! ### Remote access (R413) -/

/-- The first message of a VC in a port's buffer. -/
def State.headMsg (s : State) (p vc : Nat) : Option PMsg := (s.peer p).rx.find? fun m => m.vc == vc

/-- A message leaves the buffer: the last of its flit returns the credit. -/
def State.popMsg (s : State) (p vc : Nat) : State :=
  match s.headMsg p vc with
  | none => s
  | some m => s.adjPeer p fun x =>
      { x with rx := dropFirst (fun y => y.vc == vc) x.rx, owed := if m.last then adjAt x.owed vc (· + 1) else x.owed }

/-- Do remote messages act: not while a reset withholds credits (R391)? -/
def State.peerServed (s : State) (p : Nat) : Bool :=
  decide (p < 18) && s.boot.phase == .ready && s.func (.peer p) != .off && s.func (.peer p) != .heldDown

/-- An answer to a request. -/
def State.answer (s : State) (p : Nat) (q : PMsg) (mtype : Nat) (addr : Nat) (data : List SectorVal) : State :=
  s.sendMsg p { vc := 1, mtype := mtype, len := max 1 data.length, node := s.num Obj.peerNodeId, tag := q.tag, step := 0,
                addr := addr, data := data, last := true }

/-- The data of an answer that has none to give. -/
def blankSector : SectorVal := { data := 0, mark := none }

/-- Why a remote access to a sector may not be made: outside `PeerAccessRange`, a violation of R212, or a LOST page; the
first two are violations. -/
def State.peerViolation (s : State) (addr : Nat) (write : Bool) : Option (Option Nat) :=
  if !inRanges (s.value Obj.peerAccessRange) addr then some (some vOutside)
  else match s.violationKind addr write with
    | some k => some (some k)
    | none => match s.page (addr / 2 ^ 21) with
      | some pg => if pg.lost then some none else none
      | none => none

/-- The first sector of a request that may not be accessed. -/
def State.peerBad (s : State) (addr n : Nat) (write : Bool) : Option (Nat × Option Nat) :=
  ((List.range n).filterMap fun i => (s.peerViolation (addr + 32 * i) write).map fun k => (addr + 32 * i, k)).head?

/-- Sectors stored one after the other for a port; false where a bank must wait. -/
def State.peerStore (p addr : Nat) : List SectorVal → State → State × Bool
  | [], s => (s, true)
  | v :: l, s =>
    match s.bankStore (addr / 32) 0 (sectorBytes v.data) v.mark (mPeer (p / 9)) with
    | (s, true) => State.peerStore p (addr + 32) l s
    | (s, false) => (s, false)

/-- Sectors read one after the other for a port. -/
def State.peerLoad (p : Nat) : Nat → Nat → State → State × Option (List SectorVal)
  | 0, _, s => (s, some [])
  | n + 1, addr, s =>
    match s.bankRead (addr / 32) (mPeer (p / 9)) (peerAgent p) with
    | (s, none) => (s, none)
    | (s, some v) =>
      match State.peerLoad p n (addr + 32) s with
      | (s, some l) => (s, some (v :: l))
      | r => r

/-- The first poisoned sector of a list from an address on. -/
def firstPoison (addr : Nat) : List SectorVal → Option (Nat × PoisonClass)
  | [] => none
  | v :: l => match v.mark with
    | some c => some (addr, c)
    | none => firstPoison (addr + 32) l

/-- A request refused with an ERROR message; a violation is logged and counted (R212). (DESIGN CHOICE, notes/assumptions/53.md). -/
def State.refuseMsg (s : State) (p : Nat) (m : PMsg) (addr : Nat) (kind : Option Nat) : State :=
  let s := match kind with
    | some k => s.violation addr (peerAgent p) k
    | none => s
  (s.popMsg p 0).answer p m 5 addr [blankSector]

/-- A remote WRITE acts on this module's device memory (R413). -/
def write (p : Nat) (s : State) : State :=
  match s.headMsg p 0 with
  | none => s
  | some m =>
    if m.mtype ≠ 0 || !s.peerServed p then s else
    let addr := m.addr / 32 * 32
    match s.peerBad addr m.len true with
    | some (a, k) => s.refuseMsg p m a k
    | none =>
      let bad := if s.haltOn 2 then firstPoison addr m.data else none
      -- under HALT the sectors before the poisoned one are written (R293)
      let data := match bad with
        | some (a, _) => m.data.take ((a - addr) / 32)
        | none => m.data
      match State.peerStore p addr data s, bad with
      | (t, false), _ => s.keepDefer t
      | (t, true), some (a, c) => ((t.poisonHalted (peerAgent p) (some (0, a)) 0 2 c).refuseMsg p m a none).retry
      | (t, true), none => ((t.popMsg p 0).answer p m 3 m.addr [blankSector]).retry

/-- A remote READ is answered with READ_DATA (R413). -/
def read (p : Nat) (s : State) : State :=
  match s.headMsg p 0 with
  | none => s
  | some m =>
    if m.mtype ≠ 1 || !s.peerServed p then s else
    let addr := m.addr / 32 * 32
    match s.peerBad addr m.len false with
    | some (a, k) => s.refuseMsg p m a k
    | none =>
      match State.peerLoad p m.len addr s with
      | (t, none) => s.keepDefer t
      | (t, some l) =>
        match (if t.haltOn 2 then firstPoison addr l else none) with
        | some (a, c) => (t.poisonHalted (peerAgent p) (some (0, a)) 0 2 c).refuseMsg p m a none
        | none => (t.popMsg p 0).answer p m 2 m.addr l

/-- The outstanding request with a tag answered. -/
def State.settleReq (s : State) (p : Nat) (ok : PReq → Bool) (f : PReq → PReq) : State :=
  s.adjPeer p fun x => { x with outst := adjFirst ok f x.outst }

/-- READ_DATA completes an outstanding read. -/
def readData (p : Nat) (s : State) : State :=
  match s.headMsg p 1 with
  | none => s
  | some m =>
    if m.mtype ≠ 2 then s
    else (s.popMsg p 1).settleReq p (fun r => r.tag == m.tag && r.isRead && r.answer.isNone) fun r => { r with answer := some m.data }

/-- WRITE_ACK completes an outstanding write. -/
def writeAck (p : Nat) (s : State) : State :=
  match s.headMsg p 1 with
  | none => s
  | some m =>
    if m.mtype ≠ 3 then s
    else (s.popMsg p 1).adjPeer p fun x => { x with outst := dropFirst (fun r => r.tag == m.tag && !r.isRead && !r.failed) x.outst }

/-- ERROR ends the request it names. -/
def error (p : Nat) (s : State) : State :=
  match s.headMsg p 1 with
  | none => s
  | some m =>
    if m.mtype ≠ 5 then s
    else (s.popMsg p 1).settleReq p (fun r => r.tag == m.tag && !r.failed) fun r => { r with failed := true }

end Sys2Proof.Machine
end

