-- ==== Sys2Proof/Machine/Collective.lean ====
section
/-! DEFINITION. The collective engines (R248): COPY entries, and collectives over peer ports (R414 to R416). -/

set_option Elab.async false

namespace Sys2Proof.Machine

open Sys2Proof

/-- Violations, halts and faults of a channel end its entry; a wait leaves everything as it was. -/
inductive ChanRes (α : Type) where
  | ok (v : α)
  | wait
  | ends (status : Nat) (detail : Nat)
  deriving DecidableEq, Repr

/-- DETAIL of VIOLATION (R255). -/
def violDetail (kind addr : Nat) : Nat := kind * 2 ^ 62 + addr % 2 ^ 57

/-- Entries that run on the channels of a half. -/
def State.channelsUsed (s : State) (half : Nat) : Nat :=
  (s.ledger.entries.filter fun e => e.status == .running && (match e.chan with
    | some c => c.half == half
    | none => false)).length

/-- The half whose channel an entry takes: the less loaded one, H0 on a tie; none where both are full (R248). -/
def State.channelHalf (s : State) : Option Nat :=
  let a := s.channelsUsed 0
  let b := s.channelsUsed 1
  if a ≤ b then (if a < 4 then some 0 else none) else (if b < 4 then some 1 else none)

/-- An entry takes a channel and runs in the present step. -/
def State.startChannel (s : State) (seq : Nat) (c : Channel) : State :=
  s.adjEntry seq fun e => { e with status := .running, ran := true, step := s.det.step, chan := some c }

/-- A channel with nothing in it. -/
def Channel.fresh (half : Nat) (coll : Bool) (l : Launch) : Channel :=
  { half := half, coll := coll, launch := l, words := [], ranks := [], pos := 0, acc := [], got := [], wait := false }

/-! ### Device and host sectors -/

/-- A sector of device memory read by an engine under a consumer class (R293): DMA 2, COLLECTIVE 3. -/
def State.engineRead (s : State) (agent cls consumer sn : Nat) : State × ChanRes SectorVal :=
  match s.violationKind (sn * 32) false with
  | some k => (s.violation (sn * 32) agent k, .ends stViolation (violDetail k (sn * 32)))
  | none =>
    match s.bankRead sn cls agent with
    | (s, none) => (s, .wait)
    | (s, some v) =>
      match v.mark with
      | some c =>
        if s.haltOn consumer then (s.poisonHalted agent (some (0, sn * 32)) 0 consumer c, .ends stChannelHalt (sn * 32 % 2 ^ 57))
        else (s, .ok v)
      | none => (s, .ok v)

/-- Sectors read one after the other. -/
def State.engineReads (agent cls consumer : Nat) : Nat → Nat → State → State × ChanRes (List SectorVal)
  | 0, _, s => (s, .ok [])
  | n + 1, sn, s =>
    match s.engineRead agent cls consumer sn with
    | (s, .ok v) =>
      match State.engineReads agent cls consumer n (sn + 1) s with
      | (s, .ok l) => (s, .ok (v :: l))
      | r => r
    | (s, .wait) => (s, .wait)
    | (s, .ends a b) => (s, .ends a b)

/-- Bytes of a sector of device memory written by an engine, and the L1 copies of every tile updated (R146, R168). -/
def State.engineWrite (s : State) (agent cls sn : Nat) (bs : Bytes) (mark : Option PoisonClass) : State × ChanRes Unit :=
  match s.violationKind (sn * 32) true with
  | some k => (s.violation (sn * 32) agent k, .ends stViolation (violDetail k (sn * 32)))
  | none =>
    match s.bankStore sn 0 bs mark cls with
    | (s, false) => (s, .wait)
    | (s, true) =>
      ({ s with tiles := NMap.mapVals s.tiles fun _ t => t.l1Update sn fun old => storedSector old 0 bs mark }, .ok ())

/-- Sector pieces written one after the other. -/
def State.engineWrites (agent cls : Nat) : List (Nat × Bytes × Option PoisonClass) → State → State × ChanRes Unit
  | [], s => (s, .ok ())
  | (sn, bs, m) :: l, s =>
    match s.engineWrite agent cls sn bs m with
    | (s, .ok _) => State.engineWrites agent cls l s
    | r => r

/-! ### COPY (R248, R293, R294) -/

/-- Fields of a COPY entry. -/
def Entry.srcHost (e : Entry) : Bool := (e.word 3).getLsbD 63
def Entry.dstHost (e : Entry) : Bool := (e.word 4).getLsbD 63
def Entry.copySrc (e : Entry) : Nat := fld (e.word 3) 56 0
def Entry.copyDst (e : Entry) : Nat := fld (e.word 4) 56 0
def Entry.copyLen (e : Entry) : Nat := fld (e.word 5) 39 0

/-- A sector of host memory written; poison bites: all ones with the poison indication (R294). The first address bitten. -/
def State.hostWriteSector (s : State) (agent addr : Nat) (v : SectorVal) : State × Option Nat :=
  match v.mark with
  | none => ({ s with mem := { s.mem with host := s.mem.host.setSector (addr / 32) v } }, none)
  | some c =>
    let s := (s.bump Obj.poisonBiteTotal 1).log 0x4021 sevError agent (some (2, addr)) c.code
    ({ s with mem := { s.mem with host := s.mem.host.setSector (addr / 32) { data := BitVec.allOnes 256, mark := some c } } }, some addr)

/-- What meets a copy besides its data: the sector whose host access returns a CXL error, and an error of a staging unit at a sector. -/
structure CopyHits where
  host  : Option Nat
  stage : Nat × ErrHit
  deriving DecidableEq, Repr

/-- A sector that passes a staging unit, where an error may meet it: an uncorrectable one marks it MEM (R287, R290). -/
def State.staged (s : State) (half : Nat) (addr : LogAddr) (hit : Nat × ErrHit) (i : Nat) (v : SectorVal) : State × SectorVal :=
  if hit.1 ≠ i then (s, v)
  else
    (s.canvasError half (collAgent half) addr (2 ^ 53 + (addr.map (·.2)).getD 0 / 32) true hit.2,
      if errBad hit.2 then { v with mark := some .mem } else v)

/-- A sector of host memory read by a copy: data with the poison indication takes MEM (R290). -/
def State.hostSector (s : State) (src : Nat) : SectorVal :=
  let v := s.mem.host.sector (src / 32)
  { v with mark := v.mark.map fun _ => PoisonClass.mem }

/-- The sectors of a copy moved in ascending order; `bit` is the first host address that poison has bitten. -/
def State.copySectors (e : Entry) (half : Nat) (hits : CopyHits) :
    Nat → Nat → Option Nat → State → State × ChanRes (Option Nat)
  | 0, _, bit, s => (s, .ok bit)
  | n + 1, i, bit, s =>
    let src := e.copySrc + 32 * i
    let dst := e.copyDst + 32 * i
    let agent := collAgent half
    let addr : LogAddr := some (if e.srcHost then 2 else 0, src)
    if hits.host = some i && (e.srcHost || e.dstHost) then (s, .ends stHostAccess (if e.srcHost then src else dst)) else
    let got : State × ChanRes SectorVal :=
      if e.srcHost then (s, .ok (s.hostSector src)) else s.engineRead agent mHost 2 (src / 32)
    match got with
    | (s, .wait) => (s, .wait)
    | (s, .ends a b) => (s, .ends a b)
    | (s, .ok v0) =>
      let p := s.staged half addr hits.stage i v0
      let s := p.1
      let v := p.2
      match (if s.haltOn 2 then v.mark else none) with
      | some c => (s.poisonHalted agent addr 0 2 c, .ends stChannelHalt (src % 2 ^ 57))
      | none =>
      if e.dstHost then
        let r := s.hostWriteSector agent dst v
        State.copySectors e half hits n (i + 1) (if bit.isSome then bit else r.2) r.1
      else
        match s.engineWrite agent mHost (dst / 32) (sectorBytes v.data) v.mark with
        | (s, .ok _) => State.copySectors e half hits n (i + 1) bit s
        | (s, .wait) => (s, .wait)
        | (s, .ends a b) => (s, .ends a b)

/-- A copy on its channel performed; where a bank must wait, nothing is done yet. -/
def State.runCopy (s0 : State) (e : Entry) (half : Nat) (hits : CopyHits) : State :=
  match State.copySectors e half hits (e.copyLen / 32) 0 none s0 with
  | (s, .wait) => s0.keepDefer s
  | (s, .ends st d) => (s.finish e.seq st 0 d).retry
  | (s, .ok none) => (s.finish e.seq stOk 0 0).retry
  | (s, .ok (some a)) =>
    ((s.logFault 0x20 (collAgent half) (some (2, a)) 0 none 0).finish e.seq stFault 0 (0x20 * 2 ^ 56 + a % 2 ^ 56)).retry

/-- Does a copy touch host memory while the host link is down? -/
def State.copyBlocked (s : State) (e : Entry) : Bool := (e.srcHost || e.dstHost) && s.iface.hostLink != 2

/-- A COPY entry takes a channel and runs, or waits for the host link; a copy that waited runs once the link is back. `host` is the sector
whose host access returns a CXL error (R255), `stage` an error of a staging unit. -/
def copyDispatch (seq : Nat) (host : Option Nat) (stage : Nat × ErrHit) (s : State) : State :=
  let hits : CopyHits := { host := host, stage := stage }
  match s.entry seq with
  | none => s
  | some e =>
    if e.kind != .copy then s else
    match e.status, e.chan with
    | .running, some c => if c.wait && !s.copyBlocked e then s.runCopy e c.half hits else s
    | .waiting, _ =>
      if !s.ready e then s else
      match s.channelHalf with
      | none => s
      | some h =>
        let c := { Channel.fresh h false (s.launchOf 0) with wait := true }
        let s := s.startChannel seq c
        if s.copyBlocked e then s else s.runCopy e h hits
    | _, _ => s

/-- The copies that waited for the host link run. -/
def State.resumeCopies (s : State) : State :=
  s.ledger.entries.foldl (fun (t : State) e => if e.kind = .copy && e.status == .running then copyDispatch e.seq none (0, .none) t else t) s

/-- A COPY access to host memory has waited 1 s on a down host link: the entry completes HOST_ACCESS (R404, R255). -/
def copyHostAccessWaitExpiry (seq : Nat) (s : State) : State :=
  match s.entry seq with
  | none => s
  | some e =>
    match e.status, e.chan with
    | .running, some c =>
      if c.wait && !c.coll && s.copyBlocked e then
        s.finish seq stHostAccess 0 (if e.srcHost then e.copySrc else e.copyDst)
      else s
    | _, _ => s

/-! ### Collective requests (R414, R416) -/

/-- The format an operation of R186 implies: FP32, BF16 or INT32. -/
def ropFormat (rop : Nat) : Nat := if rop = 1 || rop = 5 || rop = 6 then 1 else if rop = 2 || rop = 7 || rop = 8 then 0xB else 0

/-- The conversion descriptor of a request. -/
def Channel.cdesc (c : Channel) : CDesc := cdescOf (c.words.drop 8)

/-- Does a request meet the field rules of R414? Its device addresses fit their 57 bits by the reserved bits.
(DEDUCED, notes/assumptions/80.md). -/
def Channel.formOk (c : Channel) : Bool :=
  let d := c.cdesc
  let conv := cdescRsvOk (c.words.drop 8) && d.dstFmt == 0 && d.grain == 0 && !d.rnd && d.zpm == 0 && d.ovf == 0 &&
    d.srcFmt == ropFormat c.rop && d.dst.dev && d.dst.addr % 32 == 0 && d.srcStride != 0 && d.dstStride != 0 &&
    d.rows != 0 && d.rowLen != 0 && (!d.hist || (d.histAddr.dev && d.histAddr.addr % 128 == 0)) &&
    (c.launch.grain != 3 || (if d.dir then d.rows else d.rowLen) % 32 == 0)
  decide (c.cop ≤ 5) && fld (c.w 0) 54 0 == 0 && (if c.reduces then decide (c.rop ≤ 8) else c.rop == 0) &&
    fld (c.w 1) 15 0 == 0 && c.nranks != 0 && decide (c.rank < c.nranks) &&
    (if 3 ≤ c.cop then decide (c.root < c.nranks) else c.root == 0) &&
    fld (c.w 2) 63 57 == 0 && fld (c.w 3) 63 57 == 0 && c.src % 128 == 0 && c.dst % 128 == 0 &&
    fld (c.w 4) 63 40 == 0 && fld (c.w 4) 39 0 % 128 == 0 &&
    fld (c.w 5) 63 57 == 0 && fld (c.w 5) 56 0 % 64 == 0 && (c.w 7) == 0 &&
    (if c.cvt then conv else (c.words.drop 8).all fun w => w == 0)

/-- The rank table's entries from its bytes; is a reserved bit of one of them set? -/
def rankEntry (w : W64) : Nat × Nat := (fld w 63 48, fld w 47 30)
def rankTabOk (ws : List W64) : Bool := ws.all fun w => fld w 29 0 == 0

/-- The ON port of a mask with the fewest waiting messages, the lowest on a tie. -/
def State.portOf (s : State) (mask : Nat) : Option Nat :=
  ((List.range 18).filter fun p => natBit mask p && s.func (.peer p) == .on).foldl (fun b p => match b with
    | none => some p
    | some q => if (s.peer p).tx.length < (s.peer q).tx.length then some p else some q) none

/-- Why a partner cannot be reached (R416). -/
def State.partnerFault (s : State) (c : Channel) (r : Nat) : Option Nat :=
  match c.ranks[r]? with
  | none => some 0x23
  | some (node, mask) =>
    if mask = 0 then some 0x23
    else match s.portOf mask with
      | none => some 0x22
      | some p => if (s.peer p).partner = node then none else some 0x23

/-! ### Steps of a collective -/

/-- Two sectors combined (R187), and the saturating combinations. -/
def combineSectors (rop : Nat) (a b : SectorVal) : SectorVal × Nat :=
  let words (v : SectorVal) : List W32 := (chunksN 4 8 (sectorBytes v.data)).map fun c => BitVec.ofNat 32 (leNat c)
  let r := redWords rop (words a) (words b)
  ({ data := wordsSector r.1, mark := orMark a.mark b.mark }, r.2)

/-- A sector of a channel's data. -/
def Channel.at (c : Channel) (i : Nat) : SectorVal := NMap.lookD c.acc i blankSector

/-- The messages of a step: chunks of up to 128 bytes. -/
def Channel.messages (c : Channel) (node : Nat) (x : CStep) : List PMsg :=
  (List.range ((x.len + 3) / 4)).map fun k =>
    let d := (List.range (min 4 (x.len - 4 * k))).map fun i => c.at (x.sBase + 4 * k + i)
    { vc := 2, mtype := 4, len := d.length, node := node, tag := c.collId % 65536, step := x.no,
      addr := (x.sBase + 4 * k) * 32, data := d, last := true }

/-- What a step sends. -/
def State.sendStep (s : State) (c : Channel) (x : CStep) : State :=
  match x.send with
  | none => s
  | some r =>
    match (c.ranks[r]?).bind fun e => s.portOf e.2 with
    | none => s
    | some p => (c.messages (s.num Obj.peerNodeId) x).foldl (fun (t : State) m => t.sendMsg p m) s

/-- The key of a received sector. -/
def gotKey (step i : Nat) : Nat := step * 2 ^ 48 + i

/-- Has everything a step receives arrived? -/
def Channel.arrived (c : Channel) (x : CStep) : Bool :=
  x.recv.isNone || (List.range x.len).all fun i => NMap.has c.got (gotKey x.no (x.rBase + i))

/-- The received data used, and the saturating combinations. -/
def Channel.absorb (c : Channel) (x : CStep) : Channel × Nat :=
  if x.recv.isNone then (c, 0) else
  let r := (List.range x.len).foldl (fun (a : NMap SectorVal × Nat) i =>
    let v := NMap.lookD c.got (gotKey x.no (x.rBase + i)) blankSector
    let own := c.at (x.rBase + i)
    let y := if x.mode = 0 then (v, 0) else if x.mode = 1 then combineSectors c.rop v own else combineSectors c.rop own v
    (NMap.put a.1 (x.rBase + i) y.1, a.2 + y.2)) (c.acc, 0)
  ({ c with acc := r.1, got := NMap.delRange c.got (gotKey x.no 0) (gotKey (x.no + 1) 0) }, r.2)

/-- Steps taken while their data has arrived; the next step's data is sent as it begins. -/
def State.stepColl (steps : List CStep) : Nat → Channel → State → Channel × State
  | 0, c, s => (c, s)
  | n + 1, c, s =>
    match steps[c.pos]? with
    | none => (c, s)
    | some x =>
      if !c.arrived x then (c, s) else
      let r := c.absorb x
      let s := s.bump Obj.reduceSatTotal r.2
      let c := { r.1 with pos := c.pos + 1 }
      let s := match steps[c.pos]? with
        | some y => s.sendStep c y
        | none => s
      State.stepColl steps n c s

/-- The ring's combination of every rank's part at a sector, from the rank where it starts (R415).
(DESIGN CHOICE, notes/assumptions/75.md). -/
def Channel.ringSector (c : Channel) (start i : Nat) : SectorVal × Nat :=
  (List.range (c.nranks - 1)).foldl (fun (a : SectorVal × Nat) k =>
    let y := combineSectors c.rop a.1 (c.at ((start + k + 1) % c.nranks * c.part + i))
    (y.1, a.2 + y.2)) (c.at (start * c.part + i), 0)

/-- The result of a collective, sector by sector; the starting ranks of a ring are open. (DESIGN CHOICE, notes/assumptions/75.md). -/
def State.collResult (s : State) (c : Channel) : State × List SectorVal :=
  let n := c.sectors
  let base := if c.cop = 1 then c.rank * n else 0
  if c.reduces && !s.treeOrder then
    (List.range n).foldl (fun (a : State × List SectorVal) i =>
      let start := Config.freeNat a.1.dict.freeCount % max 1 c.nranks
      let y := c.ringSector start (base + i)
      ((a.1.drawn.bump Obj.reduceSatTotal y.2), a.2 ++ [y.1])) (s, [])
  else if c.cop = 2 then (s, (List.range (c.nranks * n)).map c.at)
  else (s, (List.range n).map fun i => c.at (base + i))

/-- Is the zero-point of a collective's conversion asymmetric: the launch's `ZeroPointMode`, for an integer destination (R97)? -/
def Channel.asym (c : Channel) : Bool := c.launch.asym && (c.launch.narrow == 8 || c.launch.narrow == 9)

/-- The settings of a collective's conversion (R97). -/
def Channel.settings (c : Channel) (seed step : W64) : CSet :=
  let d := c.cdesc
  { fmt := c.launch.narrow, grain := c.launch.grain, asym := c.asym, infOvf := c.launch.infOvf, stoch := c.launch.stoch,
    dir := d.dir, stream := d.stream, dev := true, dst := d.dst.addr, dstStride := d.dstStride, tagBase := d.tagBase,
    rows := d.rows, len := d.rowLen, seed := seed, step := step, source := collAgent c.half, purpose := 3 }

/-- Source rows of a collective's conversion, from its result. -/
def Channel.sourceRows (c : Channel) (res : List SectorVal) : List (List SrcElt) :=
  let d := c.cdesc
  (List.range d.rows).map fun i =>
    (eltsOf d.srcFmt d.rowLen (res.drop (i * d.srcStride))).map fun e => (fmtVal d.srcFmt e.code, e.mark)

/-- The tensor scale of a collective's conversion, HIST_EMPTY, and the history's bytes and mark. -/
def State.collScale (s : State) (c : Channel) (step : W64) :
    State × ChanRes ((FVal × FVal × Bool) × Bool × Option (Bytes × Option PoisonClass)) :=
  let d := c.cdesc
  if d.hist && c.launch.grain = 1 then
    match State.engineReads (collAgent c.half) (mColl c.half) 3 4 (d.histAddr.addr / 32) s with
    | (s, .wait) => (s, .wait)
    | (s, .ends a b) => (s, .ends a b)
    | (s, .ok l) =>
      let b := l.flatMap fun v => sectorBytes v.data
      let h : Option (Bytes × Option PoisonClass) := some (b, firstMark (l.map (·.mark)))
      if !histOk b then
        (s.logFault fHistInvalid (collAgent c.half) (some (0, d.histAddr.addr)) 0 none 0,
          .ends stFault (fHistInvalid * 2 ^ 56 + d.histAddr.addr % 2 ^ 56))
      else match histMax b step.toNat with
        | none => (s, .ok ((.fin Dy.one, fZero, false), true, h))
        | some m =>
          if m.isZero then (s, .ok ((.fin Dy.one, fZero, true), false, h))
          else (s, .ok ((s.symScale c.launch.narrow m, fZero, false), false, h))
  else if c.launch.grain = 1 then (s, .ok ((f32Val d.scale, if c.asym then f32Val d.offset else fZero, false), false, none))
  else (s, .ok ((.fin Dy.one, fZero, false), false, none))

/-- A result converted and written where the descriptor says, with its scale area and its history record (R97, R104), and its
saturation event (R110). -/
def State.collConvert (s : State) (seq : Nat) (c : Channel) (step : W64) (res : List SectorVal) : State × ChanRes Unit :=
  let d := c.cdesc
  if !cFormatsOk d.srcFmt c.launch.narrow c.launch.grain c.asym d.hist then
    (s.logFault fCvtFormat (collAgent c.half) none 0 none 0, .ends stFault (fCvtFormat * 2 ^ 56))
  else
  match s.collScale c step with
  | (s, .wait) => (s, .wait)
  | (s, .ends a b) => (s, .ends a b)
  | (s, .ok (whole, empty, hist)) =>
    let o := (c.settings (BitVec.ofNat 64 (s.num Obj.rngSeed)) step).run s whole empty (c.sourceRows res)
    let out := outPieces c.launch.narrow d.dst.addr d.dstStride (hist.bind (·.2)) 0 o.rows
    let area := if d.dstScale.dev then
        (o.area.zip (List.range o.area.length)).map fun e => (d.dstScale.addr / 32 + e.2, e.1, (none : Option PoisonClass))
      else []
    let rec_ := match hist with
      | some (b, m) =>
        let b := histUpdate b step.toNat (f32Of o.stat.fAmax).toNat (w32Nat o.scale)
        (List.range 4).map fun k => (d.histAddr.addr / 32 + k, (b.drop (32 * k)).take 32, m)
      | none => []
    match State.engineWrites (collAgent c.half) (mColl c.half) (out ++ area ++ rec_) s with
    | (s, .ok _) =>
      let s := (s.bump Obj.conversionTotal 1).bump Obj.zeroRangeTotal o.zeros
      (if s.satEvent o.stat.sat o.stat.elements then
        s.raiseSat (collAgent c.half) seq (some (0, d.dst.addr)) o.stat.sat o.stat.elements else s, .ok ())
    | r => r

/-- A collective whose steps are done writes its result and finishes; where a bank must wait, what stays is that of R192. -/
def State.endColl (s : State) (e : Entry) (c : Channel) : State :=
  if c.cop = 4 then s.finish e.seq stOk 0 0 else
  let r := s.collResult c
  let w := if c.cvt then r.1.collConvert e.seq c e.step r.2
    else State.engineWrites (collAgent c.half) (mColl c.half)
      ((r.2.zip (List.range r.2.length)).map fun x => (c.dst / 32 + x.2, sectorBytes x.1.data, x.1.mark)) r.1
  match w with
  | (t, .wait) => s.keepDefer t
  | (s, .ends st d) => (s.finish e.seq st 0 d).retry
  | (s, .ok _) => (s.finish e.seq stOk 0 0).retry

/-- A collective goes on as far as its data allows. -/
def State.runColl (s : State) (seq : Nat) (c : Channel) : State :=
  let steps := c.steps s.treeOrder
  let r := State.stepColl steps (steps.length + 1) c s
  let s := r.2.adjEntry seq fun e => { e with chan := some r.1 }
  match s.entry seq with
  | none => s
  | some e => if steps.length ≤ r.1.pos then s.endColl e r.1 else s

/-- The sectors of a collective's own data pass a staging unit: where the error that meets one makes poison, COLLECTIVE poison halts it (R293). -/
def State.stagedAll (s : State) (c : Channel) (stage : Nat × ErrHit) (d : List SectorVal) : State × ChanRes (List SectorVal) :=
  match d[stage.1]? with
  | none => (s, .ok d)
  | some v0 =>
    let a := c.src + 32 * stage.1
    let p := s.staged c.half (some (0, a)) stage stage.1 v0
    if errBad stage.2 && p.1.haltOn 3 then
      (p.1.poisonHalted (collAgent c.half) (some (0, a)) 0 3 .mem, .ends stChannelHalt (a % 2 ^ 57))
    else (p.1, .ok (adjAt d stage.1 fun _ => p.2))

/-- A collective's request is read and checked, and its own data read (R414, R416). -/
def State.loadColl (s : State) (e : Entry) (c : Channel) (stage : Nat × ErrHit) : State × ChanRes Channel :=
  let agent := collAgent c.half
  let bad (s : State) (code : Nat) : State × ChanRes Channel :=
    (s.logFault code agent none 0 none 0, .ends stFault (code * 2 ^ 56))
  match State.engineReads agent (mColl c.half) 3 4 (fld (e.word 3) 56 0 / 32) s with
  | (s, .wait) => (s, .wait)
  | (s, .ends a b) => (s, .ends a b)
  | (s, .ok l) =>
    let c : Channel := { c with words := bytesWords (l.flatMap fun v => sectorBytes v.data) }
    if !c.formOk then bad s 0x21 else
    match State.engineReads agent (mColl c.half) 3 ((c.nranks * 8 + 31) / 32) (fld (c.w 5) 56 0 / 32) s with
    | (s, .wait) => (s, .wait)
    | (s, .ends a b) => (s, .ends a b)
    | (s, .ok t) =>
      let tab := (bytesWords (t.flatMap fun v => sectorBytes v.data)).take c.nranks
      if !rankTabOk tab then bad s 0x21 else
      let c : Channel := { c with ranks := tab.map rankEntry }
      match ((c.partners s.treeOrder).filterMap (s.partnerFault c)).head? with
      | some code => bad s code
      | none =>
        let own := c.reduces || c.cop = 2 || c.cop = 4 || (c.cop = 3 && c.rank = c.root)
        let base := if c.cop = 2 || (c.reduces && !s.treeOrder) then c.rank * c.part else 0
        if !own then (s, .ok c) else
        match State.engineReads agent (mColl c.half) 3 c.part (c.src / 32) s with
        | (s, .wait) => (s, .wait)
        | (s, .ends a b) => (s, .ends a b)
        | (s, .ok d0) =>
        match s.stagedAll c stage d0 with
        | (s, .wait) => (s, .wait)
        | (s, .ends a b) => (s, .ends a b)
        | (s, .ok d) =>
          (s, .ok { c with acc := (d.zip (List.range d.length)).foldl (fun m x => NMap.put m (base + x.2) x.1) c.acc })

/-- A COLLECTIVE entry takes a channel: it is checked against V2, V21, V22 and V23 (R258), its request is read, and its first
step begins. A collective that had to wait for a bank goes on. `stage` is an error of a staging unit at a sector of its own data. -/
def collectiveDispatch (seq : Nat) (stage : Nat × ErrHit) (s : State) : State :=
  match s.entry seq with
  | none => s
  | some e =>
    if e.kind != .collective then s else
    match e.status, e.chan with
    | .running, some c => s.runColl seq c
    | .waiting, _ =>
      if !s.ready e then s else
      let l := s.launchOf (e.word 7)
      if s.collRule l ≠ 0 then s.finish seq stLaunchRule (s.collRule l) 0 else
      match s.channelHalf with
      | none => s
      | some h =>
        let c := Channel.fresh h true l
        match (s.startChannel seq c).loadColl e c stage with
        | (t, .wait) => s.keepDefer t
        | (t, .ends st d) => t.finish seq st 0 d
        | (t, .ok c) =>
          let t := t.startChannel seq c
          let t := match (c.steps t.treeOrder)[0]? with
            | some x => t.sendStep c x
            | none => t
          t.runColl seq c
    | _, _ => s

/-- The running collective a COLL_DATA message belongs to. -/
def State.collFor (s : State) (m : PMsg) : Option (Entry × Channel) :=
  (s.ledger.entries.filterMap fun e => match e.chan with
    | some c => if e.status == .running && c.coll && c.collId % 65536 == m.tag &&
        (c.ranks.any fun r => r.1 == m.node) then some (e, c) else none
    | none => none).head?

/-- A COLL_DATA message delivers a chunk of a collective step to its engine (R409, R415). -/
def collData (p : Nat) (s : State) : State :=
  match s.headMsg p 2 with
  | none => s
  | some m =>
    if m.mtype ≠ 4 || !s.peerServed p then s else
    match s.collFor m with
    | none => s
    | some (e, c) =>
      let got := (m.data.zip (List.range m.data.length)).foldl
        (fun g x => NMap.put g (gotKey m.step (m.addr / 32 + x.2)) x.1) c.got
      let c : Channel := { c with got := got }
      let t := (s.popMsg p 2).adjEntry e.seq fun e => { e with chan := some c }
      t.runColl e.seq c

end Sys2Proof.Machine
end

