-- ==== Sys2Proof/Machine/Functions.lean ====
section
/-! DEFINITION. The functions whose requests follow R50 and R51: the tiering engines, the patrol scrubbers, the second-tier and
peer ports, and the switched power domains (R319 to R324): requests, the ends of their sequences, and the log entries of
R464. -/

set_option Elab.async false

namespace Sys2Proof.Machine

open Sys2Proof

/-! ### Status codes of dictionary requests (R30) -/

def dOk : Nat := 0x00
def dStaged : Nat := 0x01
def dQueued : Nat := 0x02
def dBusy : Nat := 0x03
def dDenied : Nat := 0x04
def dLocked : Nat := 0x05
def dNoObj : Nat := 0x06
def dType : Nat := 0x07
def dRange : Nat := 0x08
def dConflict : Nat := 0x09
def dInvalid : Nat := 0x0A

/-! ### Rows (R12, R315, R319) -/

/-- The physical tiles of a row's domain: codes 0 to 11 are 6 × half + row. -/
def rowTiles (domain : Nat) : List Nat := (List.range 6).map fun c => 6 * domain + c

/-- The logical number bound to a physical tile. -/
def State.logicalOf (s : State) (p : Nat) : Option Nat := (s.boot.binding.find? fun e => e.2 == p).map (·.1)

/-- The logical tiles of a row. -/
def State.rowLogical (s : State) (domain : Nat) : List Nat := (rowTiles domain).filterMap s.logicalOf

/-- Is the row shed: 7 or more failed cells in one of its two VCMP groups (R316, R318)? -/
def State.rowShed (s : State) (domain : Nat) : Bool :=
  decide (domain < 12) && (decide (7 ≤ NMap.lookD s.power.cells (2 * domain) 0) ||
    decide (7 ≤ NMap.lookD s.power.cells (2 * domain + 1) 0))

/-- The sleep state of a physical tile; unlisted: Idle. -/
def State.sleepOf (s : State) (p : Nat) : Sleep := NMap.lookD s.thermal.sleep p .idle


/-- Where a tile without work rests: Idle where it may be allocated; faulted tiles and unbound spares rest in Nap (R352). -/
def State.restOf (s : State) (p : Nat) : Sleep :=
  match s.logicalOf p with
  | some n => if s.ledger.faultMask.contains n then .nap else .idle
  | none => .nap

/-! ### Log entries (R464) -/

/-- The gates of a domain; those of an unlisted one are open. -/
def State.gate (s : State) (c : Nat) : Gate := NMap.lookD s.power.gates c { steps := 0, since := 0 }

/-- The state with a domain's gates at a number of steps from now on. -/
def State.setGate (s : State) (c steps : Nat) : State :=
  { s with power := { s.power with gates := NMap.put s.power.gates c { steps := steps, since := s.now } } }

/-- The code, agent and DETAIL of the entry a function writes in its present state. (DEDUCED, notes/assumptions/63.md). -/
def State.logFunc (s : State) (f : Func) : State :=
  let x := s.func f
  let sev := if x = .heldDown then sevError else sevInfo
  match f with
  | .tiering => s.log 0x3106 sev agentNone none x.code
  | .scrub => s.log 0x4042 sev agentNone none x.code
  | .tier2 p => s.log 0x7103 sev (0x47 + p) none (p + x.code * 256)
  | .peer p =>
    if x = .heldDown then s.log 0x7204 sevError (peerAgent p) none p
    else s.log 0x7207 sevInfo (peerAgent p) none (p + x.code * 256)
  | .domain c =>
    if x = .heldDown then s.log 0x500B sevError agentRegulators none (c + (s.gate c).steps * 256)
    else s.log (if x = .on then 0x5009 else 0x500A) sevInfo agentRegulators none c

/-- A function reaches a state and logs it. -/
def State.reach (s : State) (f : Func) (x : FState) : State := (s.setFunc f x).logFunc f

/-! ### Sequences start -/

/-- An enable sequence starts; a domain's gates are all open. -/
def State.startEnable (s : State) (f : Func) : State :=
  let s := s.setFunc f .enabling
  match f with
  | .domain c => s.setGate c 0
  | _ => s

/-- The migrations to a port abort as it leaves the linked state (R224). -/
def State.abortTo (s : State) (tier : Nat) : State :=
  (s.mem.pages.filter fun e => e.2.migrating && e.2.destTier == tier).foldl (fun (t : State) e => t.abortMigration e.1) s

/-- A shut-down starts; a domain's gates are all closed. -/
def State.startShutdown (s : State) (f : Func) : State :=
  let s := s.setFunc f .disabling
  match f with
  | .tier2 p => s.abortTo (p + 1)
  | .domain c => s.setGate c 8
  | _ => s

/-! ### Requests (R50) -/

/-- An enable request, and its answer. -/
def State.enableFunc (s : State) (f : Func) : State × Nat :=
  match s.func f with
  | .off => (s.startEnable f, dOk)
  | .enabling => (s, dOk)
  | .on => (s, dOk)
  | .disabling => (s.setFunc f .disablingEnableQueued, dQueued)
  | .disablingEnableQueued => (s, dBusy)
  | .enablingDisableQueued => (s.setFunc f .enabling, dOk)
  | .heldDown => (s, dBusy)

/-- Does a function stay held down for good: a shed row (R318)? (DEDUCED, notes/assumptions/62.md). -/
def State.heldForGood (s : State) (f : Func) : Bool :=
  match f with
  | .domain c => s.rowShed c
  | _ => false

/-- A disable request, and its answer. -/
def State.disableFunc (s : State) (f : Func) : State × Nat :=
  match s.func f with
  | .off => (s, dOk)
  | .enabling => (s.setFunc f .enablingDisableQueued, dQueued)
  | .on => (s.startShutdown f, dOk)
  | .disabling => (s, dOk)
  | .disablingEnableQueued => (s.setFunc f .disabling, dOk)
  | .enablingDisableQueued => (s, dBusy)
  | .heldDown => (if s.heldForGood f then s else s.reach f .off, dOk)

/-- An enable or a disable request. (DEDUCED, notes/assumptions/12.md). -/
def State.requestFunc (s : State) (f : Func) (on : Bool) : State × Nat := if on then s.enableFunc f else s.disableFunc f

/-! ### The end of an enable sequence (R51, R322) -/

/-- The subindex of 0x6003 of a port. -/
def portSub (f : Func) : Nat :=
  match f with
  | .peer p => p + 1
  | .tier2 p => 20 + p
  | _ => 0

/-- Has a port's link trained and passed its qualification window? -/
def State.linkPassed (s : State) (sub : Nat) : Bool :=
  match NMap.look s.boot.links sub with
  | some l => l.trained && !l.window && l.result == 0
  | none => false

/-- May the sequence end with success: a row's 8 gate steps are granted and its PLLs can start (R322, R348), a port's link has
qualified (R377), and a peer port's group is on? (DEDUCED, notes/assumptions/62.md). -/
def State.sequenceDone (s : State) (f : Func) : Bool :=
  match f with
  | .tiering => true
  | .scrub => true
  | .tier2 p => s.linkPassed (portSub (.tier2 p))
  | .peer p => s.linkPassed (portSub (.peer p)) && s.func (.domain (18 + p / 9)) == .on
  | .domain c => (s.gate c).steps == 8 && !s.thermal.holdover

/-- What reaching ON does besides the log entry: a row's tiles wake. -/
def State.turnedOn (s : State) (f : Func) : State :=
  match f with
  | .domain c => if c < 12 then (rowTiles c).foldl (fun (t : State) p => t.setSleep p (t.restOf p)) s else s
  | _ => s

/-- Rows that may be on: neither forced off nor shed. -/
def State.rowWanted (s : State) (c : Nat) : Bool := !natBit (s.num Obj.domainForceOff) c && !s.rowShed c

/-- On the way from Standby to Active the tile rows turn on once the Felt domains are on; a row that is held down stays so (R355, R50). -/
def State.wakeRows (s : State) : State :=
  if s.thermal.modSt == .changing 0 && [12, 13, 14, 15].all fun c => s.func (.domain c) == .on then
    ((List.range 12).filter s.rowWanted).foldl (fun (t : State) c => (t.enableFunc (.domain c)).1) s
  else s

/-- The state with ON reached or the failure logged, and the disable that was queued behind the sequence taken. -/
def State.endEnable (s : State) (f : Func) (ok : Bool) : State :=
  let queued := s.func f == .enablingDisableQueued
  let s := if ok then (s.reach f .on).turnedOn f else s.reach f .heldDown
  (if queued then (s.disableFunc f).1 else s).wakeRows

/-- Is an enable sequence under way? -/
def FState.turningOn (x : FState) : Bool := x == .enabling || x == .enablingDisableQueued

/-- A function's enable sequence ends: ON, or HELD_DOWN where the sequence failed (R51). (DEDUCED, notes/assumptions/62.md). -/
def enableSequenceComplete (f : Func) (ok : Bool) (s : State) : State :=
  if !(s.func f).turningOn || (ok && !s.sequenceDone f) then s else s.endEnable f ok

/-- A turn-on fails to reach its voltage within 2 ms: HELD_DOWN (R324). -/
def domainEnableFailed (c : Nat) (s : State) : State :=
  if c < 20 && (s.func (.domain c)).turningOn then s.endEnable (.domain c) false else s

/-! ### The end of a shut-down (R51, R324, R406, R412) -/

/-- May the shut-down end: migrations have ended, a row is idle, and a group's ports are off? -/
def State.shutdownReady (s : State) (f : Func) : Bool :=
  match f with
  | .tiering => s.mem.pages.all fun e => e.2.mig.isNone
  | .scrub => true
  | .tier2 p => s.mem.pages.all fun e => match e.2.mig with
      | some m => m.srcTier != p + 1 && !(e.2.migrating && e.2.destTier == p + 1)
      | none => true
  | .peer _ => true
  | .domain c =>
    if c < 12 then (s.rowLogical c).all fun n => (s.tile n).blocks.isEmpty
    else if 18 ≤ c then (List.range 9).all fun i =>
      s.func (.peer (9 * (c - 18) + i)) == .off || s.func (.peer (9 * (c - 18) + i)) == .heldDown
    else true

/-! ### Gate steps (R322 to R324) -/

/-- Is a shut-down under way? -/
def FState.turningOff (x : FState) : Bool := x == .disabling || x == .disablingEnableQueued

/-- Has a domain a gate step to take: to close while it turns on, to open while it turns off and its load is gone? -/
def State.gateWaits (s : State) (c : Nat) : Bool :=
  ((s.func (.domain c)).turningOn && decide ((s.gate c).steps < 8)) ||
    ((s.func (.domain c)).turningOff && decide (0 < (s.gate c).steps) && s.shutdownReady (.domain c))

/-- Has the domain's step waited 200 µs, so that it takes precedence (R323)? -/
def State.gateLate (s : State) (c : Nat) : Bool := s.gateWaits c && s.passed (s.gate c).since (200 * ticksPerUs)

/-- Does the domain's step wait for certain: none granted yet, or the one before has settled, which takes 12 µs at most? -/
def State.gateSure (s : State) (c : Nat) : Bool :=
  s.gateWaits c && ((s.gate c).steps == 0 || s.passed (s.gate c).since (12 * ticksPerUs))

/-- Does the step of another domain go first: one that has waited 200 µs, and of those that wait together the lowest code (R323)? -/
def State.gateBehind (s : State) (c : Nat) : Bool :=
  (List.range 20).any fun d => if s.gateLate c then decide (d < c) && s.gateLate d
    else (decide (d != c) && s.gateLate d) || (decide (d < c) && s.gateSure d)

/-- A gate step is asked for: `offset` is the distance of VCMP, or of the domain's rail, from its set point at the domain, mV, and `amps`
the step's in-rush. It is granted within 10 mV and within the 300 A of R314 (R323). (DEDUCED, notes/assumptions/62.md). -/
def domainGateStepGrant (c offset amps : Nat) (s : State) : State :=
  if c < 20 && s.gateWaits c && !s.gateBehind c && decide (offset ≤ 10) && decide (s.power.rise + amps ≤ 300) then
    let n := (s.gate c).steps
    let s : State := { s with power := { s.power with rise := s.power.rise + amps } }
    s.setGate c (if (s.func (.domain c)).turningOn then n + 1 else n - 1)
  else s

/-- Dirty lines of the pages of a tier written back; they stay Valid (R406). -/
def State.cleanTier (s : State) (tier : Nat) : State :=
  let mine := s.felt.lines.filter fun e => e.2.red.isNone && (e.2.sectors.any fun x => x.dirty) &&
    (match s.page (e.1 / 16384) with
     | some p => p.tier == tier
     | none => false)
  let s := mine.foldl (fun (t : State) e => t.writeBack e.1 e.2 (mScrub (homeHalf e.1))) s
  mine.foldl (fun (t : State) e => t.setLine e.1 e.2.cleaned) s

/-- A second-tier link is taken down: its port is not trained; accesses to its pages wait (R217). -/
def State.tier2Drop (s : State) (p : Nat) : State :=
  let s : State := { s with iface := { s.iface with
    t2down := if s.iface.t2down.contains p then s.iface.t2down else s.iface.t2down ++ [p]
    t2width := NMap.del s.iface.t2width p
    t2rate := NMap.del s.iface.t2rate p
    t2bw := NMap.del s.iface.t2bw p } }
  let s : State := if p = 0 then { s with mem := { s.mem with cap0 := 0 } } else { s with mem := { s.mem with cap1 := 0 } }
  { s with boot := { s.boot with links := NMap.del s.boot.links (20 + p) } }

/-- The scrub of a row's tile state; half width stays with the tile (R303). -/
def State.scrubRow (s : State) (c : Nat) : State :=
  let s := (s.rowLogical c).foldl (fun (t : State) n => t.adjTile n fun x =>
    { Tile.empty with halfPort := x.halfPort, step := x.step, thermal := x.thermal }) s
  (rowTiles c).foldl (fun (t : State) p => t.setSleep p .off) s

/-- What a shut-down does before the function is OFF. -/
def State.turnOff (s : State) (f : Func) : State :=
  match f with
  | .tiering => s
  | .scrub => s
  | .tier2 p => (if s.portLinked p then s.cleanTier (p + 1) else s).tier2Drop p
  | .peer p => { (s.endPeerWork p) with
      boot := { (s.endPeerWork p).boot with links := NMap.del s.boot.links (p + 1) } }
  | .domain c =>
    let s : State := { s with power := { s.power with gates := NMap.del s.power.gates c } }
    if c < 12 then s.scrubRow c else s

/-- Are all gates open of a function that is a domain (R324)? -/
def State.gatesOpen (s : State) (f : Func) : Bool :=
  match f with
  | .domain c => (s.gate c).steps == 0
  | _ => true

/-! ### The descent to Standby and Dormant (R337, R354, R355) -/

/-- The typical draw while compute is idle, in Standby, and in Dormant, W (R337). -/
def drawIdle : Nat := 640
def drawStandby : Nat := 380
def drawDormant : Nat := 30

/-- The typical draw of a module state, 0 Active, 1 Standby, 2 Dormant, W (R337, R354). -/
def drawOf (target : Nat) : Nat := if target = 1 then drawStandby else if target = 2 then drawDormant else drawIdle

/-- The tile rows and Felt domains, and what Dormant turns off besides them. -/
def standbyFuncs : List Func := (List.range 16).map .domain
def dormantFuncs : List Func := [.tier2 0, .tier2 1] ++ (List.range 18).map .peer ++ [.domain 16, .domain 17, .domain 18, .domain 19]

/-- Is a function without power? -/
def State.isDown (s : State) (f : Func) : Bool := s.func f == .off || s.func f == .heldDown

/-- Functions asked off; one that is held down stays so. -/
def State.askOff (s : State) (l : List Func) : State :=
  l.foldl (fun (t : State) f => if t.isDown f then t else (t.disableFunc f).1) s

/-- Towards Standby or Dormant, once A has come down to the state's draw: closure and the INVALIDATE flush, then the tile rows and Felt
domains turn off; towards Dormant the HBM and peer groups and the ports follow (R197, R324, R355). -/
def State.downTurn (s : State) : State :=
  match s.thermal.modSt with
  | .changing t =>
    if t = 0 || drawOf t * 1000 < s.power.allowance || s.bundleChange then s
    else if s.felt.accepts then
      let s := s.closure.flushAll true
      ({ s with felt := { s.felt with flush := 0, accepts := false } } : State).askOff standbyFuncs
    else if t = 2 && standbyFuncs.all s.isDown && !(dormantFuncs.any fun f => (s.func f).turningOff) then s.askOff dormantFuncs
    else s
  | _ => s

/-- A function's shut-down ends: OFF, and the enable that was queued behind it starts (R51). -/
def shutdownComplete (f : Func) (s : State) : State :=
  let x := s.func f
  if x.turningOff && s.shutdownReady f && s.gatesOpen f then
    let s := (s.turnOff f).reach f .off
    (if x = .disablingEnableQueued then s.startEnable f else s).downTurn
  else s

/-! ### A link that comes back or stays down (R217) -/

/-- A port's link serves again: what waited for it proceeds, and nothing is lost. -/
def State.portBack (s : State) (p : Nat) : State :=
  let mine := s.mem.portWait.filter fun e => match s.page (e.1 / 65536) with
    | some x => x.tier == p + 1
    | none => false
  let s : State := { s with
    iface := { s.iface with t2down := s.iface.t2down.filter fun q => q != p }
    mem := { s.mem with portWait := s.mem.portWait.filter fun e => !(mine.any fun g => g.1 == e.1) } }
  (mine.foldl (fun (t : State) e => t.writeMem e.1 e.2.2 e.2.1) s).retry

/-- A port whose link has stayed down for `Tier2LinkWait`: HELD_DOWN, its pages LOST; what waited for it goes on (R217). A port that is OFF
stays so, and a sequence under way is not cut short (R51, R425). -/
def tier2LinkWaitExpiry (port : Nat) (s : State) : State :=
  let x := s.func (.tier2 port)
  if !s.iface.t2down.contains port then s else
  let s := if x == .on then s.reach (.tier2 port) .heldDown else s
  let s := (s.losePages port).tier2Drop port
  ({ s with iface := { s.iface with t2down := s.iface.t2down.filter fun p => p != port } } : State).retry

end Sys2Proof.Machine
end

