-- ==== Sys2Proof/Machine/Scheduler.lean ====
section
/-! DEFINITION. The hardware scheduler (R257 to R264): checks at dispatch, tiles and places, admission of blocks (R113 to R119,
R137), preemption (R261), the run-time limit (R262), and the end of kernels. -/

set_option Elab.async false

namespace Sys2Proof.Machine

open Sys2Proof

/-! ### Launches (R117, R134, R247) -/

/-- Fields of a KERNEL entry. -/
def Entry.code (e : Entry) : Nat := fld (e.word 3) 56 0
def Entry.gridX (e : Entry) : Nat := fld (e.word 5) 63 48
def Entry.gridY (e : Entry) : Nat := fld (e.word 5) 47 32
def Entry.gridZ (e : Entry) : Nat := fld (e.word 5) 31 16
def Entry.gridBlocks (e : Entry) : Nat := e.gridX * e.gridY * e.gridZ
def Entry.groups (e : Entry) : Nat := fld (e.word 5) 15 11 + 1
def Entry.clusterSize (e : Entry) : Nat := 2 ^ fld (e.word 5) 10 9
def Entry.nregs (e : Entry) : Nat := 8 * (fld (e.word 5) 8 4 + 1)
def Entry.scratchB (e : Entry) : Nat := fld (e.word 6) 63 53 * 1024
def Entry.partition (e : Entry) : Nat := fld (e.word 6) 45 42

/-- The tile limit under DYNAMIC: the smaller of TILE_MAX and `TileMaxPerKernel` (R247). (DEDUCED, notes/assumptions/44.md). -/
def State.tileLimit (s : State) (e : Entry) : Nat :=
  let own := fld (e.word 6) 52 46
  let most := s.num Obj.tileMaxPerKernel
  if own = 0 then most else min own most

/-- Blocks of a kernel a tile holds by groups, registers, threads and the limit of 8 (R113): group g runs on scheduler
g mod 4, so scheduler 0 carries the most. -/
def residentLimit (groups nregs : Nat) : Nat :=
  min 8 (min (2048 / (32 * groups)) (min 16 (65536 / (32 * nregs)) / ((groups + 3) / 4)))

/-- Blocks of a kernel an empty tile holds (R113). -/
def tileCapacity (groups nregs scratchB partB : Nat) : Nat :=
  let n := residentLimit groups nregs
  if scratchB = 0 then n else min n (partB / scratchB)

/-- Units of a kernel: its blocks, or its clusters. -/
def unitsOf (grid cl : Nat) : Nat := (grid + cl - 1) / cl

/-! ### Tiles and places (R134, R259, R260) -/

/-- Is SchedPolicy FIXED? -/
def State.fixedPolicy (s : State) : Bool := s.num Obj.schedPolicy == 1

/-- Is a tile available: bound, not faulted, its row neither forced off nor held down (R259)? -/
def State.tileAvail (s : State) (n : Nat) : Bool :=
  !s.ledger.faultMask.contains n && (match NMap.look s.boot.binding n with
    | some p => !natBit (s.num Obj.domainForceOff) (rowDomain p) && s.func (.domain (rowDomain p)) != .heldDown
    | none => false)

/-- The places of a size, lowest first: single tiles, pairs and squares of consecutive logical numbers (R134). -/
def State.places (s : State) (size : Nat) : List (List Nat) :=
  (List.range (s.tileCount / size)).map fun i => (List.range size).map fun r => size * i + r

/-- Complete places whose tiles are all available. -/
def State.availPlaces (s : State) (size : Nat) : List (List Nat) := (s.places size).filter fun l => l.all s.tileAvail

/-- Is a tile free for an entry: available, allocated to nothing, not being saved, and not reserved for another entry? -/
def State.tileFree (s : State) (seq n : Nat) : Bool :=
  s.tileAvail n && (s.tile n).alloc.isNone && (s.tile n).blocks.isEmpty && !(s.ledger.victims.any fun v => v.1 == n) &&
    !(s.ledger.reserve.any fun r => r.1 == n && r.2 != seq)

/-- Free places of a size for an entry. -/
def State.freePlaces (s : State) (seq size : Nat) : List (List Nat) :=
  (s.places size).filter fun l => l.all (s.tileFree seq)

/-- The places of an entry's partition: complete places whose tiles lie in it and are available (R260). -/
def State.partPlaces (s : State) (e : Entry) : List (List Nat) :=
  let m := (masksOf (s.value Obj.fixedPartition)).getD e.partition 0
  (s.availPlaces e.clusterSize).filter fun l => l.all fun n => natBit m n

/-- May work start on a tile: it is awake (R353)? -/
def State.tileAwake (s : State) (n : Nat) : Bool :=
  match NMap.look s.boot.binding n with
  | some p => (s.sleepOf p == .run || s.sleepOf p == .idle) && s.func (.domain (rowDomain p)) == .on
  | none => false

/-! ### Checks at dispatch (R258) -/

/-- Capacity of a tile for an entry's blocks. -/
def Entry.capacity (e : Entry) (l : Launch) : Nat := tileCapacity e.groups e.nregs e.scratchB (l.splitKib * 1024)

/-- Places a COOP grid needs (R119). -/
def Entry.coopNeed (e : Entry) (l : Launch) : Nat :=
  (unitsOf e.gridBlocks e.clusterSize + e.capacity l - 1) / max 1 (e.capacity l)

/-- Is the launch outside the ranges of R117, R134, R259 and R260? (DEDUCED, notes/assumptions/44.md). -/
def State.launchInvalid (s : State) (e : Entry) (l : Launch) : Bool :=
  e.gridX == 0 || e.gridY == 0 || e.gridZ == 0 || decide (l.splitKib * 1024 < e.scratchB) ||
    (decide (1 < e.clusterSize) && !s.isOn Obj.clusterEnable) ||
    (if s.fixedPolicy then
      (s.partPlaces e).isEmpty ||
        (decide (1 < e.clusterSize) && !natBit (s.num Obj.fixedPartitionClusters) e.partition)
     else decide (s.tileLimit e < e.clusterSize))

/-- Can a COOP entry be placed at all (R259)? -/
def State.coopFits (s : State) (e : Entry) (l : Launch) : Bool :=
  if s.fixedPolicy then decide (e.coopNeed l ≤ (s.partPlaces e).length)
  else decide (e.coopNeed l * e.clusterSize ≤ s.tileLimit e) && decide (e.coopNeed l ≤ (s.availPlaces e.clusterSize).length)

/-- The status and rule with which a KERNEL entry is refused at dispatch, in the order of R258; none where it may run. -/
def State.launchRefusal (s : State) (e : Entry) (l : Launch) : Option (Nat × Nat) :=
  if s.launchInvalid e l then some (stLaunchInvalid, 0)
  else if s.launchRule l ≠ 0 then some (stLaunchRule, s.launchRule l)
  else if e.capacity l = 0 then some (stLaunchFit, 0)
  else if l.coop && !s.coopFits e l then some (stCoopCapacity, 0)
  else none

/-! ### Allocation (R116, R118, R259) -/

/-- A tile is woken: one in Nap finishes with TILE_WAKE_COMPLETE, one that is off asks its row on (R321, R353). -/
def State.wakeTile (s : State) (n : Nat) : State :=
  match NMap.look s.boot.binding n with
  | some p => if s.func (.domain (rowDomain p)) = .on then s else (s.enableFunc (.domain (rowDomain p))).1
  | none => s

/-- A tile allocated to an entry: its split is set, its L1 part is invalidated (R118), and its matrix array starts with no shape, no
weights and no plan (R66). -/
def State.allocTile (s : State) (seq split n : Nat) : State :=
  (s.adjTile n fun t => { t with alloc := some seq, splitKib := split, l1 := [], matrix := Tile.empty.matrix }).wakeTile n

/-- Places allocated to a running kernel entry. -/
def State.takePlaces (s : State) (seq split : Nat) (l : List (List Nat)) : State :=
  let ts := l.flatten
  let s := ts.foldl (fun (t : State) n => t.allocTile seq split n) s
  let s : State := { s with ledger := { s.ledger with
    reserve := s.ledger.reserve.filter fun r => !(ts.contains r.1) } }
  s.adjKernel seq fun k => { k with tiles := k.tiles ++ ts }

/-- A kernel entry starts to run in the present step. -/
def State.startKernel (s : State) (e : Entry) (l : Launch) : State :=
  let s : State := { s with ledger := { s.ledger with
    coopWait := s.ledger.coopWait.filter fun x => x != e.seq
    reserve := s.ledger.reserve.filter fun r => r.2 != e.seq } }
  s.adjEntry e.seq fun x => { x with
    status := .running, ran := true, step := s.det.step
    kern := some { launch := l, clSize := e.clusterSize, grid := e.gridBlocks, threads := 32 * e.groups, nregs := e.nregs,
                   scratchB := e.scratchB, tiles := [], places := [], next := 0, plan := [], firstFault := none,
                   halted := false, tileMax := s.tileLimit e, timedOut := false, limitDue := false, gbar := none, cbars := [] } }

/-- The admissions of a whole grid on places in turn. -/
def gridPlan (grid cl : Nat) (places : List (List Nat)) : List (Nat × Nat) :=
  (List.range grid).map fun b => (b, (places.getD (b / cl % max 1 places.length) []).getD (b % cl) 0)

/-- Does an entry come before another: the higher PRIORITY, then the lower SEQ (R259)? -/
def Entry.before (f e : Entry) : Bool :=
  decide (e.priority < f.priority) || (f.priority == e.priority && decide (f.seq < e.seq))

/-- Could an entry use free tiles: a free place of its size that is not reserved for it already (R259)? -/
def State.canUse (s : State) (f : Entry) : Bool :=
  (s.freePlaces f.seq f.clusterSize).any fun l => l.any fun n => !s.ledger.reserve.contains (n, f.seq)

/-- Does another ready entry come first and could it use free tiles (R259)? (DEDUCED, notes/assumptions/44.md). -/
def State.yields (s : State) (e : Entry) : Bool :=
  s.ledger.entries.any fun f => f.kind == .kernel && f.seq != e.seq && s.ready f && f.before e && s.canUse f

/-! ### Preemption (R261) -/

/-- The running NORMAL kernels of lower priority, the lowest priority first, then the highest SEQ. -/
def insertVictim (x : Entry) : List Entry → List Entry
  | [] => [x]
  | y :: l => if x.priority < y.priority || (x.priority = y.priority && y.seq < x.seq) then x :: y :: l
      else y :: insertVictim x l
def State.victimKernels (s : State) (e : Entry) : List Entry :=
  (s.ledger.entries.filter fun v => v.kind == .kernel && v.status == .running && decide (v.priority < e.priority) &&
    (match v.kern with
     | some k => !k.launch.coop && !k.timedOut
     | none => false)).foldl (fun l x => insertVictim x l) []

/-- Bytes the save area holds (R215). -/
def State.saveArea (s : State) : Nat := 2 ^ 21 * runFrames s.mem.regions.save

/-- Bytes of saves under way. -/
def State.savingBytes (s : State) : Nat :=
  ((s.residents.filter fun b => b.saving).map Block.saveBytes).foldl (· + ·) 0

/-- Does a save take a block: one that runs, or one that exits or has ended in a cluster that runs on, which is saved whole? -/
def State.goesOn (s : State) (b : Block) : Bool :=
  !b.exiting || s.residents.any fun x => x.seq == b.seq && x.cluster == b.cluster && !x.exiting

/-- Blocks of a tile that a save takes. -/
def State.toSave (s : State) (n : Nat) : List Block := (s.tile n).blocks.filter s.goesOn

/-- A place of a victim is taken where the save area has room for its blocks: their saves begin. -/
def State.savePlace (s : State) (seq : Nat) (l : List Nat) : State × Bool :=
  let need := ((l.flatMap s.toSave).map Block.saveBytes).foldl (· + ·) 0
  if s.saveArea < s.ledger.savedB + s.savingBytes + need then (s, false)
  else
    (l.foldl (fun (t : State) n =>
      let t := t.tickBars n
      let t : State := t.adjTile n fun x => { x with blocks := x.blocks.map fun b => if s.goesOn b then { b with saving := true } else b }
      { t with ledger := { t.ledger with victims := t.ledger.victims ++ [(n, seq)] } }) s, true)

/-- Places a victim gives up for an entry: of the larger of both cluster sizes, each tile its own or free. -/
def State.victimPlaces (s : State) (e v : Entry) : List (List Nat) :=
  (s.availPlaces (max e.clusterSize v.clusterSize)).filter fun l =>
    (l.any fun n => (s.tile n).alloc == some v.seq && !(s.ledger.victims.any fun x => x.1 == n)) &&
    l.all fun n => s.tileFree e.seq n || ((s.tile n).alloc == some v.seq && !(s.ledger.victims.any fun x => x.1 == n))

/-- One more place taken where tiles are still wanted; the first that cannot be saved ends it. -/
def State.takeVictim (seq : Nat) (p : State × Nat) (l : List Nat) : State × Nat :=
  if p.2 = 0 then p else
  let r := p.1.savePlace seq (l.filter fun n => !(p.1.tile n).alloc.isNone)
  (r.1, if r.2 then p.2 - l.length else 0)

/-- Places taken one after the other, up to `want` tiles. -/
def State.takeVictims (seq : Nat) (ls : List (List Nat)) (want : Nat) (s : State) : State :=
  (ls.foldl (State.takeVictim seq) (s, want)).1

/-- Tiles taken from lower-priority kernels for an entry that obtained none. (DEDUCED, notes/assumptions/44.md). -/
def State.preempt (s : State) (e : Entry) (want : Nat) : State :=
  if !s.isOn Obj.preemptEnable || s.ledger.victims.any (fun v => v.2 == e.seq) then s
  else State.takeVictims e.seq ((s.victimKernels e).flatMap (s.victimPlaces e)) want s

/-! ### Dispatch -/

/-- A ready NORMAL entry under DYNAMIC: it starts on the free places it can use, or preempts. (DEDUCED, notes/assumptions/44.md). -/
def State.dispatchNormal (s : State) (e : Entry) (l : Launch) : State :=
  let most := min (s.tileLimit e / e.clusterSize) (unitsOf e.gridBlocks e.clusterSize)
  match (s.freePlaces e.seq e.clusterSize).take most with
  | [] => s.preempt e (most * e.clusterSize)
  | ps => (s.startKernel e l).takePlaces e.seq l.splitKib ps

/-- A running NORMAL kernel takes further places as they are freed, until its last block is dispatched. -/
def State.growKernel (s : State) (e : Entry) (k : Kernel) : State :=
  if k.halted || k.launch.coop || k.grid ≤ k.next || s.fixedPolicy then s else
  let most := min (k.tileMax / k.clSize - k.tiles.length / k.clSize) (unitsOf (k.grid - k.next) k.clSize)
  s.takePlaces e.seq k.launch.splitKib ((s.freePlaces e.seq k.clSize).take most)

/-- Tiles reserved for a COOP entry that waits. -/
def State.reserveFor (s : State) (seq : Nat) (ts : List Nat) : State :=
  { s with ledger := { s.ledger with
      reserve := s.ledger.reserve ++ (ts.filter fun n => !(s.ledger.reserve.any fun r => r.1 == n)).map fun n => (n, seq)
      coopWait := if s.ledger.coopWait.contains seq then s.ledger.coopWait else s.ledger.coopWait ++ [seq] } }

/-- A ready COOP entry under DYNAMIC: it starts as a whole, or waits with free tiles reserved (R119, R259). -/
def State.dispatchCoop (s : State) (e : Entry) (l : Launch) : State :=
  let need := e.coopNeed l
  let ps := (s.freePlaces e.seq e.clusterSize).take need
  if ps.length < need then s.reserveFor e.seq ps.flatten
  else ((s.startKernel e l).takePlaces e.seq l.splitKib ps).adjKernel e.seq fun k =>
    { k with places := ps, next := k.grid, plan := gridPlan k.grid k.clSize ps }

/-- Is it the turn of an entry on its partition: no accepted kernel of a lower SEQ on it is unfinished (R260)? -/
def State.partTurn (s : State) (e : Entry) : Bool :=
  !(s.ledger.entries.any fun f => f.kind == .kernel && decide (f.seq < e.seq) && f.partition == e.partition && !f.isFinished)

/-- A ready entry under FIXED: it runs on every available place of its partition. -/
def State.dispatchFixed (s : State) (e : Entry) (l : Launch) : State :=
  let ps := s.partPlaces e
  if !s.partTurn e || !(ps.all fun p => p.all (s.tileFree e.seq)) then s
  else ((s.startKernel e l).takePlaces e.seq l.splitKib ps).adjKernel e.seq fun k =>
    { k with places := ps, next := if l.coop then k.grid else 0
             plan := if l.coop then gridPlan k.grid k.clSize ps else [] }

/-- A KERNEL entry is checked and given tiles; for a kernel that runs, further tiles (R258 to R261). -/
def kernelDispatch (seq : Nat) (s : State) : State :=
  match s.entry seq with
  | none => s
  | some e =>
    if e.kind != .kernel then s else
    match e.status, e.kern with
    | .running, some k => if s.held || s.yields e then s else s.growKernel e k
    | .waiting, _ =>
      if !s.ready e then s else
      let l := s.launchOf (e.word 7)
      match s.launchRefusal e l with
      | some (st, rule) => s.finish seq st rule 0
      | none =>
        if s.fixedPolicy then s.dispatchFixed e l
        else if s.yields e then s
        else if l.coop then s.dispatchCoop e l else s.dispatchNormal e l
    | _, _ => s

/-! ### The end of tiles and kernels -/

/-- Is anything of a kernel left to dispatch or restore? -/
def State.kernelOwes (s : State) (seq : Nat) (k : Kernel) : Bool :=
  !k.plan.isEmpty || (!k.halted && decide (k.next < k.grid)) || s.ledger.saved.any fun b => b.seq == seq

/-- The COOP entry that waits for tiles and comes first (R259). -/
def State.firstCoop (s : State) : Option Entry :=
  (s.ledger.coopWait.filterMap s.entry).foldl (fun (b : Option Entry) e => match b with
    | none => some e
    | some x => if e.before x then some e else some x) none

/-- Tiles have become unavailable: a COOP entry that waits and can no longer be placed is refused at that moment (R259). -/
def State.refuseCoops (s : State) : State :=
  (s.ledger.coopWait.filterMap s.entry).foldl (fun (t : State) e =>
    if e.status == .waiting && !t.coopFits e (t.launchOf (e.word 7)) then t.finish e.seq stCoopCapacity 0 0 else t) s

/-- A tile whose kernel has nothing left for it is freed; the COOP entry that waits and comes first may reserve it. -/
def State.releaseTile (s : State) (seq n : Nat) : State :=
  let s : State := s.adjTile n fun t => { t with alloc := none }
  let s : State := match NMap.look s.boot.binding n with
    | some p => if s.sleepOf p = .run then s.setSleep p (s.restOf p) else s
    | none => s
  let s := s.adjKernel seq fun k => { k with tiles := k.tiles.filter fun x => x != n }
  match s.firstCoop with
  | none => s
  | some e =>
    if s.tileAvail n && decide ((s.ledger.reserve.filter fun r => r.2 == e.seq).length <
        e.coopNeed (s.launchOf (e.word 7)) * e.clusterSize) then s.reserveFor e.seq [n] else s

/-- The kernel's outcome (R140, R255, R262). -/
def State.kernelOutcome (s : State) (seq : Nat) (k : Kernel) : State :=
  if k.timedOut then s.finish seq stRuntimeLimit 0 0
  else match k.firstFault with
    | some (code, tile, linear) => s.finish seq stFault 0 (code * 2 ^ 56 + tile % 64 * 2 ^ 50 + linear % 2 ^ 32)
    | none => s.finish seq stOk 0 0

/-- Tiles of a kernel that hold no block are freed once nothing is left to dispatch, and a kernel without blocks ends.
(DEDUCED, notes/assumptions/45.md). -/
def State.settleKernel (s : State) (seq : Nat) : State :=
  match s.entry seq with
  | none => s
  | some e =>
    match e.status, e.kern with
    | .running, some k =>
      if s.kernelOwes seq k then s else
      let idle := k.tiles.filter fun n => (s.tile n).blocks.isEmpty && !(s.ledger.victims.any fun v => v.1 == n)
      let s := idle.foldl (fun (t : State) n => t.releaseTile seq n) s
      if k.tiles.all (fun n => idle.contains n) then s.kernelOutcome seq k else s
    | _, _ => s

/-! ### Admission of blocks (R113, R115, R260) -/

/-- Has a tile of a running kernel room for one more block? -/
def State.hasRoom (s : State) (k : Kernel) (n : Nat) : Bool :=
  let bs := (s.tile n).blocks
  decide ((bs.filter fun b => !b.ended).length < residentLimit (k.threads / 32) k.nregs) &&
    decide ((bs.length + 1) * k.scratchB ≤ k.launch.splitKib * 1024) &&
    s.tileAwake n && !s.ledger.faultMask.contains n && !(s.ledger.victims.any fun v => v.1 == n)

/-- Resident blocks on the first tile of a place. -/
def State.placeLoad (s : State) (l : List Nat) : Nat := ((s.tile (l.headD 0)).blocks.filter fun b => !b.ended).length

/-- Of the places with room, the one with the fewest resident blocks, the lower on a tie. -/
def State.fewest (s : State) : List (List Nat) → Option (List Nat)
  | [] => none
  | l :: ls => match State.fewest s ls with
    | some m => if s.placeLoad m < s.placeLoad l then some m else some l
    | none => some l

/-- The place the next unit goes to. -/
def State.nextPlace (s : State) (k : Kernel) : Option (List Nat) :=
  if k.places.isEmpty then
    s.fewest ((s.places k.clSize).filter fun l => l.all fun n => k.tiles.contains n && s.hasRoom k n)
  else
    let ps := k.places.filter fun l => l.all fun n => s.tileAvail n
    let l := ps.getD (k.next / k.clSize % max 1 ps.length) []
    if !l.isEmpty && l.all (s.hasRoom k) then some l else none

/-- A slot no block of a tile has. -/
def Tile.freeSlot (t : Tile) : Nat := lowestFree ((t.blocks.map (·.slot)).foldl insertNat []) 0

/-- A group before its first instruction: every register zero, one path at the code's start (R115, R120). -/
def Group.start (code : Nat) : Group :=
  { regs := [], stack := [{ mask := 0xFFFFFFFF, pc := code, rpc := none, parked := none, id := 0, parent := none }], exited := 0,
    cur := none, stores := 0, loads := 0, fetchStop := false }

/-- A block admitted to a tile, its registers, scratchpad, barriers and tokens cleared (R113, R115). -/
def State.seat (s : State) (e : Entry) (k : Kernel) (linear n : Nat) : State :=
  let cl := linear / k.clSize
  let b : Block :=
    { uid := s.ledger.uid, seq := e.seq, linear := linear, cluster := cl, rank := linear % k.clSize,
      clSize := min k.clSize (k.grid - cl * k.clSize), tile := n, slot := (s.tile n).freeSlot, nregs := k.nregs,
      scratchB := k.scratchB, launch := k.launch, groups := List.replicate (k.threads / 32) (Group.start e.code),
      scratch := { bytes := [], marks := [] }, tokens := [], bars := [], exiting := false, ended := false, fault := none,
      saving := false }
  let s := s.adjTile n fun t => { t with blocks := t.blocks ++ [b] }
  let s : State := { s with ledger := { s.ledger with uid := s.ledger.uid + 1 } }
  match NMap.look s.boot.binding n with
  | some p => s.setSleep p .run
  | none => s

/-- The scheduler admits a block of a running kernel to a tile: one still owed to the tile, or the next of the grid where its
place holds the tile; saved blocks come first (R261). -/
def blockAdmit (seq tile : Nat) (s : State) : State :=
  match s.entry seq with
  | none => s
  | some e =>
    match e.status, e.kern with
    | .running, some k =>
      if s.ledger.saved.any (fun b => b.seq == seq) || (s.tile tile).alloc != some seq then s
      else match k.plan.find? fun p => p.2 == tile with
        | some (linear, _) =>
          if s.hasRoom k tile then
            (s.adjKernel seq fun k => { k with plan := k.plan.filter fun p => p.1 != linear }).seat e k linear tile
          else s
        | none =>
          if k.halted || !k.plan.isEmpty || k.grid ≤ k.next then s else
          match s.nextPlace k with
          | none => s
          | some l =>
            if !l.contains tile then s else
            let unit := (List.range (min k.clSize (k.grid - k.next))).map fun r => (k.next + r, l.getD r 0)
            match unit.find? fun p => p.2 == tile with
            | none => s
            | some (linear, _) =>
              (s.adjKernel seq fun k => { k with next := k.next + unit.length
                                                 plan := unit.filter fun p => p.1 != linear }).seat e k linear tile
    | _, _ => s

/-! ### The end of blocks (R79, R137, R139) -/

/-- A block that has finished exiting: its registers, barriers and tokens are released; its scratchpad stays for its
cluster. -/
def Block.ends (b : Block) : Block := { b with groups := [], tokens := [], bars := [], ended := true }

/-- Does every block of a cluster have finished exiting? -/
def State.clusterOver (s : State) (seq cl : Nat) : Bool :=
  (s.residents.all fun b => !(b.seq == seq && b.cluster == cl) || b.ended) &&
    !(s.ledger.saved.any fun b => b.seq == seq && b.cluster == cl) &&
    (match (s.entry seq).bind (·.kern) with
     | some k => !(k.plan.any fun p => p.1 / max 1 k.clSize == cl)
     | none => true)

/-- Is a save under way of a tile of a kernel, or for it (R266)? -/
def State.limitHeld (s : State) (seq : Nat) (k : Kernel) : Bool :=
  (k.tiles.any fun n => s.ledger.victims.any fun v => v.1 == n) || (s.ledger.victims.any fun v => v.2 == seq)

/-- A kernel is stopped by its run-time limit: no fault, its saved blocks discarded (R262). -/
def State.stopForLimit (s : State) (seq : Nat) : State :=
  let s := s.adjKernel seq fun k => { k with timedOut := true, limitDue := false, halted := true, plan := [] }
  let gone := s.ledger.saved.filter fun b => b.seq == seq
  let s : State := { s with ledger := { s.ledger with
    saved := s.ledger.saved.filter fun b => b.seq != seq
    savedB := s.ledger.savedB - (gone.map Block.saveBytes).foldl (· + ·) 0 } }
  let s := (s.residents.filter fun b => b.seq == seq && !b.exiting).foldl
    (fun (t : State) b => t.stopBlock b.tile b.slot none) s
  s.settleKernel seq

/-- Limits that expired during a save apply once no save holds them (R266). -/
def State.settleLimits (s : State) : State :=
  s.ledger.entries.foldl (fun (t : State) e => match e.status, e.kern with
    | .running, some k => if k.limitDue && !t.limitHeld e.seq k then t.stopForLimit e.seq else t
    | _, _ => t) s

/-- An exiting block whose tokens are done and whose stores are performed finishes exiting; its cluster's last one releases
the scratchpads, and the tile and the kernel may end with it. -/
def blockExitComplete (r : BlockRef) (s : State) : State :=
  match s.block r.tile r.slot with
  | none => s
  | some b =>
    if !b.exiting || b.ended || b.pendingTokens || (s.felt.waiting.any fun q => q.uid == b.uid) then s else
    let s := s.adjBlock r.tile r.slot Block.ends
    let s := s.settleBarriers r.tile r.slot b.seq
    let s : State := if s.clusterOver b.seq b.cluster then
        { s with tiles := s.tiles.map fun t =>
            (t.1, { t.2 with blocks := t.2.blocks.filter fun x => !(x.seq == b.seq && x.cluster == b.cluster) }) }
      else s
    (s.settleKernel b.seq).settleLimits

/-! ### Saves and restores (R261) -/

/-- Traffic of the save area charged to SCRUB, sector by sector (R231). -/
def State.chargeSave (s : State) (half bytes : Nat) : State :=
  match s.mem.regions.save.head? with
  | none => s
  | some r => (List.range ((bytes + 31) / 32)).foldl (fun (t : State) i => t.charge (t.hbmTarget (r.1 * 2 ^ 21 + 32 * i)) (mScrub half)) s

/-- A tile's blocks have been saved: its dispatched matrix instructions and conversions have completed. -/
def State.saved (s : State) (n : Nat) : State :=
  let s := s.tickBars n
  let bs := (s.tile n).blocks
  let bytes := (bs.map Block.saveBytes).foldl (· + ·) 0
  let owner := (s.tile n).alloc
  let s := s.chargeSave (s.halfOfTile n) bytes
  let s : State := { s with ledger := { s.ledger with
    saved := s.ledger.saved ++ bs, savedB := s.ledger.savedB + bytes
    victims := s.ledger.victims.filter fun v => v.1 != n } }
  let s := (s.bump Obj.preemptTotal bs.length).adjTile n fun t => { t with blocks := [], alloc := none }
  match owner with
  | some v => s.adjKernel v fun k => { k with tiles := k.tiles.filter fun x => x != n }
  | none => s

/-- May a tile's save end? -/
def State.saveReady (s : State) (n : Nat) : Bool :=
  let t := s.tile n
  (t.blocks.all fun b => b.saving && (!b.exiting || b.ended) && !(s.felt.waiting.any fun q => q.uid == b.uid) &&
    b.groups.all fun g => g.loads == 0 && g.stores == 0) && t.matrix.work.isEmpty && t.matrix.convWork.isEmpty

/-- The blocks of a victim's tile are saved, and the tile goes to the preempting entry; a whole place goes at once. -/
def preemptSaveComplete (seq tile : Nat) (s : State) : State :=
  if !s.ledger.victims.contains (tile, seq) || !s.saveReady tile then s else
  let s := (s.saved tile).settleLimits
  match s.entry seq with
  | none => s
  | some e =>
    if e.isFinished then s else
    let s : State := { s with ledger := { s.ledger with reserve := s.ledger.reserve ++ [(tile, seq)] } }
    let l := s.launchOf (e.word 7)
    match e.status, (s.places e.clusterSize).find? fun p => p.contains tile && p.all (s.tileFree seq) with
    | .waiting, some p => if s.ready e then (s.startKernel e l).takePlaces seq l.splitKib [p] else s
    | .running, some p => s.takePlaces seq ((e.kern.map fun k => k.launch.splitKib).getD l.splitKib) [p]
    | _, none => s
    | _, _ => s

/-- A barrier instance whose first arrival was in a block that has moved. -/
def BarInst.moved (i : BarInst) (old new : Block) (now : Nat) : BarInst :=
  if i.uid = old.uid then { i with tile := new.tile, slot := new.slot, since := now } else i

/-- A saved block put back on a tile. -/
def State.restoreBlock (s : State) (b : Block) (n : Nat) : State :=
  let nb : Block := { b with tile := n, slot := (s.tile n).freeSlot, saving := false }
  let nb := { nb with bars := nb.bars.map fun e => (e.1, { e.2.moved b nb s.now with since := s.now }) }
  let s := s.adjKernel b.seq fun k => { k with cbars := k.cbars.map fun c =>
    if c.1 / 2 = b.cluster then (c.1, c.2.moved b nb s.now) else c }
  let s := (s.chargeSave (s.halfOfTile n) b.saveBytes).adjTile n fun t => { t with blocks := t.blocks ++ [nb] }
  let s : State := { s with ledger := { s.ledger with
    saved := s.ledger.saved.filter fun x => x.uid != b.uid, savedB := s.ledger.savedB - b.saveBytes } }
  match NMap.look s.boot.binding n with
  | some p => s.setSleep p .run
  | none => s

/-- The saved block of the lowest linear index. -/
def lowestBlock : List Block → Option Block
  | [] => none
  | b :: l => match lowestBlock l with
    | some c => if c.linear < b.linear then some c else some b
    | none => some b

/-- The lowest saved block of a kernel, with its cluster, is restored onto a place that holds the tile: free, or the kernel's
own with room. -/
def blockRestore (seq tile : Nat) (s : State) : State :=
  match s.entry seq with
  | none => s
  | some e =>
    match e.kern, lowestBlock (s.ledger.saved.filter fun b => b.seq == seq) with
    | some k, some b =>
      if s.held || s.yields e then s else
      match (s.places k.clSize).find? fun p => p.contains tile with
      | none => s
      | some p =>
        let own := p.all fun n => (s.tile n).alloc == some seq
        let s := if own then s else if p.all (s.tileFree seq) then s.takePlaces seq k.launch.splitKib [p] else s
        if !(p.all fun n => (s.tile n).alloc == some seq && s.hasRoom k n) then s else
        (s.ledger.saved.filter fun x => x.seq == seq && x.cluster == b.cluster).foldl
          (fun (t : State) x => t.restoreBlock x (p.getD x.rank 0)) s
    | _, _ => s

/-! ### The run-time limit (R262) -/

/-- An entry's run-time limit expires: its blocks are terminated without a fault, saved ones are discarded, and a channel
halts. While a save of one of its tiles is under way, the save finishes first (R266). (DEDUCED, notes/assumptions/45.md). -/
def runtimeLimitExpiry (seq : Nat) (s : State) : State :=
  match s.entry seq with
  | none => s
  | some e =>
    if e.status != .running then s else
    match e.kern with
    | none => s.finish seq stRuntimeLimit 0 0
    | some k =>
      if s.limitHeld seq k then s.adjKernel seq fun k => { k with limitDue := true } else s.stopForLimit seq

end Sys2Proof.Machine
end

