-- ==== Sys2Proof/Machine/Ledger.lean ====
section
/-! DEFINITION. The work ledger and the completion ring (R242 to R256, R265), pauses and resumption (R257), the start of a
compute reset (R388), and the cancellation of entries (R264). -/

set_option Elab.async false

namespace Sys2Proof.Machine

open Sys2Proof

/-! ### Slots (R245 to R249) -/

/-- A KIND of R246. -/
def kindOf (n : Nat) : Option Kind :=
  if n = 0 then some .nop else if n = 1 then some .kernel else if n = 2 then some .collective else if n = 3 then some .copy
  else if n = 4 then some .map else if n = 5 then some .unmap else if n = 6 then some .protect else none

/-- Words `a` to `b` of a slot are zero. -/
def zeroWords (w : List W64) (a b : Nat) : Bool := ((w.drop a).take (b + 1 - a)).all fun x => x == 0

/-- Word 7's launch settings hold no reserved code (R247). -/
def settingsOk (w : W64) : Bool :=
  fld w 63 60 != 1 && decide (fld w 63 60 ≤ 10) && fld w 59 58 != 3 && fld w 57 56 != 3 && fld w 55 54 != 3 &&
    fld w 53 52 != 3 && (fld w 49 46 == 0 || (decide (3 ≤ fld w 49 46) && decide (fld w 49 46 ≤ 7))) && fld w 45 0 == 0

/-- The payload of a kind meets R246 to R249. (DEDUCED, notes/assumptions/80.md). -/
def payloadOk (k : Kind) (w : List W64) : Bool :=
  let x (i : Nat) : W64 := w.getD i 0
  match k with
  | .nop => zeroWords w 3 14
  | .kernel => fld (x 3) 63 57 == 0 && fld (x 4) 63 57 == 0 && fld (x 5) 3 0 == 0 && fld (x 5) 10 9 != 3 &&
      fld (x 6) 41 0 == 0 && settingsOk (x 7) && zeroWords w 8 14
  | .collective => fld (x 3) 63 57 == 0 && fld (x 3) 5 0 == 0 && settingsOk (x 7) && fld (x 7) 63 58 == 0 &&
      zeroWords w 4 6 && zeroWords w 8 14
  | .copy => fld (x 3) 62 57 == 0 && fld (x 4) 62 57 == 0 && fld (x 3) 4 0 == 0 && fld (x 4) 4 0 == 0 &&
      !((x 3).getLsbD 63 && (x 4).getLsbD 63) && fld (x 5) 63 40 == 0 && decide (32 ≤ fld (x 5) 39 0) &&
      fld (x 5) 4 0 == 0 && zeroWords w 6 14
  | .map => fld (x 3) 63 57 == 0 && fld (x 4) 63 57 == 0 && fld (x 5) 59 0 == 0 && zeroWords w 6 14
  | .unmap => fld (x 3) 63 57 == 0 && fld (x 4) 63 57 == 0 && zeroWords w 5 14
  | .protect => fld (x 3) 63 57 == 0 && fld (x 4) 63 57 == 0 && fld (x 5) 59 0 == 0 && fld (x 5) 63 62 == 0 &&
      fld (x 5) 60 60 == 0 && zeroWords w 6 14

/-- The DEP fields of a header. -/
def depsOf (w : W64) : List Nat := [fld w 47 40, fld w 39 32].filter fun d => decide (d ≠ 0)

/-- Check 4 of R245. (DEDUCED, notes/assumptions/80.md). -/
def slotOk (seq : Nat) (w : List W64) : Bool :=
  let h := w.getD 0 0
  fld h 25 0 == 0 && fld (w.getD 2 0) 31 0 == 0 && fld (w.getD 15 0) 31 0 == 0 && (depsOf h).all (fun d => decide (d ≤ seq)) &&
    (match kindOf (fld h 63 56) with
     | some k => payloadOk k w
     | none => false)

/-! ### Errors of the rings (R265) -/

/-- A CXL.cache error on an access to a ring: ERROR, logged with the host address. -/
def State.ringError (s : State) (addr : Nat) : State :=
  ({ s with ledger := { s.ledger with st := .error, fetched := none } } : State).log 0x3301 sevError agentHost
    (some (2, addr % 2 ^ 57)) 0

/-- The address of the next slot. -/
def State.slotAddr (s : State) : Nat := s.num Obj.ledgerBase + 128 * (s.ledger.seq % max 1 (s.num Obj.ledgerEntries))

/-- Bytes of host memory written whole; they carry no poison. -/
def State.hostWrite (s : State) (addr : Nat) (bs : Bytes) : State :=
  { s with mem := { s.mem with host := s.mem.host.writeRaw addr bs } }

/-! ### Taking a slot (R243 to R245, R251, R263) -/

/-- The module holds the head line: where it finds KIND other than 0xFF in it, at acquisition or after losing it, the whole slot is fetched,
128 bytes as host memory then holds them (R244). Nothing is taken while the host link is down (R265). -/
def State.lookHead (s : State) : State :=
  if !s.ledger.enable || (s.ledger.st != .running && s.ledger.st != .stalled) || s.iface.hostLink != 2 ||
      s.ledger.fetched.isSome then s
  else
    let bs := s.mem.host.readN s.slotAddr 128
    if bs.getD 7 0 = 0xFF then s else { s with ledger := { s.ledger with fetched := some bs } }

/-- The host writes its memory, the head line among it: the module loses the line and fetches the slot. Writes beside the line fill the
slots behind it, or prepare the rings before an enable (R242, R243). `cacheError`: the module's access to the line ends in a
CXL.cache error. (DEDUCED, notes/assumptions/42.md). -/
def headLineLoss (writes : List (Nat × Bytes)) (cacheError : Bool) (s : State) : State :=
  let s := writes.foldl (fun (t : State) w => t.hostWrite w.1 w.2) s
  if cacheError && s.ledger.enable && s.iface.hostLink == 2 then s.ringError s.slotAddr else s.lookHead

/-- The slot is taken: 0xFF goes to its KIND, `LedgerSeq` increases, an entry with its SEQ is held, and the next head line is acquired.
(DEDUCED, notes/assumptions/42.md, DEDUCED, notes/assumptions/45.md). -/
def State.takeSlot (s : State) (e : Entry) (alive : Nat) : State :=
  let s := s.hostWrite (s.slotAddr + 7) [0xFF]
  (({ s with ledger := { s.ledger with
      fetched := none, seq := s.ledger.seq + 1, alive := alive % 256, entries := s.ledger.entries ++ [e] } } : State).noteEnds).lookHead

/-- An entry with a status from the start; of a refused slot only USER_TAG is taken. -/
def slotEntry (seq : Nat) (kind : Kind) (w : List W64) (st : EState) : Entry :=
  { seq := seq, kind := kind, words := w, status := st, ran := false, sats := 0, kern := none, chan := none, step := 0 }

/-- A refused slot (R245). (DEDUCED, notes/assumptions/42.md). -/
def State.refuseSlot (s : State) (w : List W64) (status detail alive : Nat) : State :=
  s.takeSlot (slotEntry s.ledger.seq .nop [0, w.getD 1 0] (.finished status 0 (BitVec.ofNat 64 detail))) alive

/-- The first dependency that has completed with a status other than OK (R251). -/
def State.failedDep (s : State) (seq : Nat) (w : List W64) : Option Nat :=
  (depsOf (w.getD 0 0)).findSome? fun d => match s.doneStatus (seq - d) with
    | some st => if st = stOk then none else some (seq - d)
    | none => none

/-- An accepted slot: cancelled while a faulted step ends (R263), failed by its dependency (R251), or waiting. -/
def State.acceptSlot (s : State) (kind : Kind) (w : List W64) (alive : Nat) : State :=
  let n := s.ledger.seq
  let ends := (w.getD 0 0).getLsbD 27
  let st : EState :=
    if s.ledger.cancelTo then .finished stCancelled 0 0
    else match s.failedDep n w with
      | some d => .finished stDepFailed 0 (BitVec.ofNat 64 (d % 2 ^ 32))
      | none => .waiting
  let s := s.takeSlot (slotEntry n kind w st) alive
  { s with ledger := { s.ledger with
      ends := if ends then s.ledger.ends ++ [n] else s.ledger.ends
      cancelTo := s.ledger.cancelTo && !ends } }

/-- The fetched slot is checked in the order of R245, and refused or accepted. Nothing is taken while the host link is down
(R265) or during a compute reset (R264). (DEDUCED, notes/assumptions/42.md). -/
def State.intake (s : State) (kinds : Nat → Bool) : State :=
  match s.ledger.fetched with
  | none => s
  | some bs =>
    let w := bytesWords bs
    let h := w.getD 0 0
    let alive := fld h 55 48
    let want := s.ledger.alive
    let crc := (crc32c (bs.take 124)).toNat
    if !kinds (fld h 63 56) || s.iface.hostLink != 2 || s.boot.phase != .ready then s
    else if crc ≠ leNat ((bs.drop 124).take 4) then (s.bump Obj.crcErrorTotal 1).refuseSlot w stCrc crc (want + 1)
    else if alive = (want + 255) % 256 then (s.bump Obj.aliveErrorTotal 1).refuseSlot w stAliveRepeat alive want
    else if alive ≠ want then (s.bump Obj.aliveErrorTotal 1).refuseSlot w stAliveSkip (alive + 256 * want) (alive + 1)
    else if !slotOk s.ledger.seq w then s.refuseSlot w stMalformed 0 (want + 1)
    else match kindOf (fld h 63 56) with
      | some k => s.acceptSlot k w (want + 1)
      | none => s

/-- A fetched NOP slot; a slot of an undefined KIND is checked with it. -/
def ledgerNop (s : State) : State := s.intake fun k => k == 0 || decide (7 ≤ k)
/-- A fetched KERNEL slot. -/
def ledgerKernel (s : State) : State := s.intake fun k => k == 1
/-- A fetched COLLECTIVE slot. -/
def ledgerCollective (s : State) : State := s.intake fun k => k == 2
/-- A fetched COPY slot. -/
def ledgerCopy (s : State) : State := s.intake fun k => k == 3
/-- A fetched MAP slot. -/
def ledgerMap (s : State) : State := s.intake fun k => k == 4
/-- A fetched UNMAP slot. -/
def ledgerUnmap (s : State) : State := s.intake fun k => k == 5
/-- A fetched PROTECT slot. -/
def ledgerProtect (s : State) : State := s.intake fun k => k == 6

/-! ### The consumed count (R253) -/

/-- Records the ring has room for. -/
def State.ringRoom (s : State) : Bool := decide (s.ledger.produced - s.ledger.consumed < s.num Obj.completionEntries)

/-- A consumed count that the module reads: an invalid one is logged and counted, a valid one may free room. -/
def State.takeCount (s : State) (n : Nat) : State :=
  let s : State := { s with ledger := { s.ledger with countDue := false } }
  if n < s.ledger.consumed || s.ledger.produced < n then
    (s.bump Obj.consumedInvalidTotal 1).log 0x3302 sevError agentHost none n
  else
    let s : State := { s with ledger := { s.ledger with consumed := n } }
    if s.ledger.st = .stalled && s.ringRoom then { s with ledger := { s.ledger with st := .running } } else s

/-- The consumed-count line is acquired: a count in it other than the last one is taken; while the link is down this waits (R253, R265). -/
def State.lookCount (s : State) : State :=
  if s.iface.hostLink ≠ 2 then { s with ledger := { s.ledger with countDue := true } }
  else
    let n := leNat (s.mem.host.readN (s.num Obj.completionConsumedAddr) 8)
    if n = s.ledger.consumed then { s with ledger := { s.ledger with countDue := false } } else s.takeCount n

/-- The host writes its read count to the line. -/
def consumedCountWrite (count : Nat) (cacheError : Bool) (s : State) : State :=
  let addr := s.num Obj.completionConsumedAddr
  let n := count % 2 ^ 64
  let s := s.hostWrite addr (natLE 8 n)
  if s.ledger.st = .off || s.ledger.st = .error then s
  else if s.iface.hostLink ≠ 2 then { s with ledger := { s.ledger with countDue := true } }
  else if cacheError then s.ringError addr
  else s.takeCount n

/-- The host link is back: the lines are acquired again (R265). -/
def State.resumeRings (s : State) : State :=
  (if s.ledger.countDue && s.ledger.st != .off && s.ledger.st != .error then s.lookCount else s).lookHead

/-! ### Boundaries and pauses (R257) -/

/-- Is a step boundary due: every entry up to the first STEP_END entry has completed (R42)? -/
def State.boundaryDue (s : State) : Bool :=
  match s.ledger.ends with
  | [] => false
  | n :: _ => s.ledger.entries.all fun e => decide (n < e.seq)

/-- The scheduler reaches PAUSED, and RUN_PAUSED is written. A fault pause stays due until the boundary has taken it (R257). -/
def State.pauseNow (s : State) : State :=
  ({ s with ledger := { s.ledger with sched := .paused } } : State).event 0x04 0 s.det.step.toNat

/-- `SchedPause` is written: PAUSING, and PAUSED at once where compute is idle and no boundary is due. -/
def State.pauseRequest (s : State) : State :=
  if s.ledger.sched != .running then s
  else
    let s : State := { s with ledger := { s.ledger with sched := .pausing } }
    if s.computeIdle && !s.boundaryDue then s.pauseNow else s

/-- `SchedResume` is written: dispatch resumes, a pause is cancelled, or the unit-map change forbids it (R257, R281). -/
def State.resumeRequest (s : State) : State × Nat :=
  let run : State := { s with ledger := { s.ledger with sched := .running } }
  match s.ledger.sched with
  | .running => (s, dOk)
  | .pausing => (run, dOk)
  | .paused =>
    if !s.det.mapChanged then (run, dOk)
    else if s.isOn Obj.resumeTolerant then
      ({ run with det := { run.det with mapChanged := false, runMap := run.det.unitMap, repro := false } }, dOk)
    else (s, dDenied)

/-! ### The start of a compute reset (R264, R388) -/

/-- Every accepted entry that has not completed completes with CANCELLED: blocks, saved blocks and channels end (R264).
(DEDUCED, notes/assumptions/43.md). -/
def State.cancelAll (s : State) : State :=
  ({ s with
    tiles := s.tiles.map fun t => (t.1, { t.2 with alloc := none, blocks := [], matrix := Tile.empty.matrix, l1 := [] })
    felt := { s.felt with waiting := s.felt.waiting.filter fun r => match r.agent with
      | .thread _ => false
      | _ => true }
    ledger := { s.ledger with
      entries := s.ledger.entries.map fun e =>
        if e.refused then e else { e with status := .finished stCancelled 0 0, kern := none, chan := none }
      saved := [], savedB := 0, victims := [], reserve := [], coopWait := [], cancelTo := false } } : State).noteEnds

/-- The Fleece floor that is holding is released (R332). -/
def State.releaseFloor (s : State) : State :=
  if s.power.fleece = .holding then { s with power := { s.power with fleece := .releasing } } else s

/-- A queued commit is withdrawn, and `CommitResult` records BUSY (R43). -/
def State.withdrawCommit (s : State) : State :=
  match s.dict.queued with
  | none => s
  | some _ => { s with dict := { s.dict with queued := none, commitRes := dBusy } }

/-- A compute reset starts: entries are cancelled, a queued commit is withdrawn, the floor is released, and the allowance
descends to the compute-idle draw (R388). A cancelled STEP_END entry ends no step: `StepCounter` is kept (R390).
(DEDUCED, notes/assumptions/21.md). -/
def State.startComputeReset (s : State) (unplanned : Bool) : State :=
  let ends := if s.boundaryDue then s.ledger.ends.take 1 else []
  let s := (s.cancelAll.withdrawCommit).releaseFloor
  { s with
    boot := { s.boot with phase := .computeReset, crPhase := 1, unplanned := unplanned }
    power := { s.power with descend := some drawIdle }
    ledger := { s.ledger with
      autoReset := false, ends := ends } }

/-- What happens once entries have completed or the scheduler has paused: a pause takes effect when compute is idle (R257),
and a compute reset that a tile fault asks for starts (R393). -/
def State.idleActions (s : State) : State :=
  let s := if s.ledger.sched = .pausing && s.computeIdle && !s.boundaryDue then s.pauseNow else s
  if s.ledger.autoReset && s.isOn Obj.autoComputeReset && s.boot.phase == .ready &&
      (if s.isOn Obj.determinismMode then s.ledger.sched == .paused else s.computeIdle) then s.startComputeReset true
  else s

/-! ### Completions (R252 to R255) -/

/-- Entries that wait on an entry which completed with a status other than OK complete with DEP_FAILED (R251).
(DEDUCED, notes/assumptions/43.md). -/
def State.failDependants (s : State) (seq : Nat) : State :=
  ({ s with ledger := { s.ledger with entries := s.ledger.entries.map fun e =>
      if e.status == .waiting && e.deps.any (fun d => e.seq == seq + d) then
        { e with status := .finished stDepFailed 0 (BitVec.ofNat 64 (seq % 2 ^ 32)) }
      else e } } : State).noteEnds

/-- Does a status belong to an entry that never ran (R267)? -/
def neverRan (e : Entry) (st : Nat) : Bool :=
  (decide (stMalformed ≤ st) && decide (st ≤ stNoFrame)) || (st == stCancelled && !e.ran)

/-- DRAINING ends when every accepted entry has completed; events still queued are dropped (R256, R265). -/
def State.settleLedger (s : State) : State :=
  if s.ledger.st = .draining && s.ledger.entries.isEmpty then
    let n := s.ledger.events.length
    ({ s with ledger := { s.ledger with st := .off, events := [], discard := false } } : State).bump Obj.eventsDropped n
  else s

/-- What follows at once where a command may have marked a tile faulted: COOP entries that can no longer be placed are refused (R259),
and with compute idle the compute reset that the fault asks for starts (R393). -/
def State.afterFault (s : State) : State := (s.refuseCoops).idleActions

/-- An entry completes, with a record or without: it is counted, and dependants and boundaries see its status (R252, R255). -/
def State.closeEntry (s : State) (e : Entry) (st : Nat) : State :=
  let s : State := { s with ledger := { s.ledger with
    entries := s.ledger.entries.filter fun x => x.seq != e.seq
    order := s.ledger.order.filter fun x => x != e.seq
    closed := (NMap.put s.ledger.closed e.seq st).filter fun c => decide (s.ledger.seq ≤ c.1 + 256)
    reserve := s.ledger.reserve.filter fun r => r.2 != e.seq
    coopWait := s.ledger.coopWait.filter fun x => x != e.seq } }
  let s := if st = stOk then s else s.failDependants e.seq
  let s := s.bump Obj.entriesCompleted 1
  let s := if neverRan e st then s.bump Obj.entriesRefused 1 else s
  (s.settleLedger).idleActions

/-- The bytes of a record (R254). -/
def Record.bytes (r : Record) : Bytes :=
  natLE 8 (bit01 r.phase * 2 ^ 63 + r.type % 128 * 2 ^ 56 + r.code % 256 * 2 ^ 48 + r.rule % 256 * 2 ^ 40 +
    min 255 r.sats * 2 ^ 32 + r.seq % 2 ^ 32) ++ natLE 8 r.tag.toNat ++ natLE 8 r.detail.toNat ++ natLE 8 r.time

/-- The address of the next record. -/
def State.recordAddrNext (s : State) : Nat :=
  s.num Obj.completionBase + 32 * (s.ledger.produced % max 1 (s.num Obj.completionEntries))

/-- The ring is full: the state reads STALLED, counted at each entry into it (R253). -/
def State.stall (s : State) : State :=
  if s.ledger.st = .running then
    ({ s with ledger := { s.ledger with st := .stalled } } : State).bump Obj.completionStallTotal 1
  else s

/-- A record is written whole, with the phase and the time of its writing; the ring may be full with it. -/
def State.putRecord (s : State) (r : Record) : State :=
  let phase := s.ledger.produced / max 1 (s.num Obj.completionEntries) % 2 == 0
  let s := s.hostWrite s.recordAddrNext { r with phase := phase, time := s.now }.bytes
  let s : State := { s with ledger := { s.ledger with produced := s.ledger.produced + 1 } }
  if s.ringRoom then s else s.stall

/-- Vector 0: not before `CompletionIrqHoldoff` has elapsed since the last send (R403). -/
def State.irqEntry (s : State) : State :=
  let ok := match s.ledger.irqLast with
    | none => true
    | some t => s.passed t (s.num Obj.completionIrqHoldoff * ticksPerUs)
  if ok then ({ s with ledger := { s.ledger with irqLast := some s.now, irqMore := false } } : State).sendIrq 0
  else { s with ledger := { s.ledger with irqMore := true } }

/-- `CompletionIrqHoldoff` has elapsed with records written meanwhile: vector 0 is sent (R403). -/
def irqHoldoffExpiry (s : State) : State :=
  if s.ledger.irqMore then
    ({ s with ledger := { s.ledger with irqLast := some s.now, irqMore := false } } : State).sendIrq 0
  else s

/-- May a record be written: the ledger is neither in ERROR nor off, and the host link is linked? -/
def State.ringOpen (s : State) : Bool := s.ledger.st != .error && s.ledger.st != .off && s.iface.hostLink == 2

/-- A NOP that has become ready finishes, and a waiting COOP entry that can no longer be placed is refused (R246, R259). -/
def State.settleEntry (s : State) (e : Entry) : State :=
  if e.status != .waiting then s
  else if e.kind = .nop && s.ready e then
    (s.adjEntry e.seq fun x => { x with ran := true, step := s.det.step, status := .finished stOk 0 0 }).noteEnds
  else if s.ledger.coopWait.contains e.seq && !s.coopFits e (s.launchOf (e.word 7)) then s.finish e.seq stCoopCapacity 0 0
  else s

/-- A finished entry completes: its record is written once those of the entries that finished before it are, and the ring has room;
after an ERROR it completes without a record (R252, R253, R265). -/
def entryComplete (seq : Nat) (cacheError : Bool) (s : State) : State :=
  match s.entry seq with
  | none => s
  | some e0 =>
    let s := s.settleEntry e0
    match s.entry seq with
    | none => s
    | some e =>
      match e.status with
      | .finished st rule detail =>
        if s.ledger.discard then s.closeEntry e st
        else if !s.ringOpen || s.ledger.order.head? != some seq then s
        else if !s.ringRoom then s.stall
        else if cacheError then s.ringError s.recordAddrNext
        else
          let s := s.putRecord { phase := true, type := 0, code := st, rule := rule, sats := e.sats, seq := seq,
                                 tag := e.word 1, detail := detail, time := 0 }
          (s.irqEntry).closeEntry e st
      | _ => s

/-- The oldest queued event record is written once the ring has room, and vector 1 is sent; with `CompletionEventEnable` OFF it is dropped
(R256, R403). (DEDUCED, notes/assumptions/43.md). -/
def eventRecord (cacheError : Bool) (s : State) : State :=
  match s.ledger.events with
  | [] => s
  | r :: l =>
    if !s.isOn Obj.completionEventEnable then
      ({ s with ledger := { s.ledger with events := l } } : State).bump Obj.eventsDropped 1
    else if !s.ringOpen then s
    else if !s.ringRoom then s.stall
    else if cacheError then s.ringError s.recordAddrNext
    else
      let s := s.putRecord r
      ({ s with ledger := { s.ledger with events := l } } : State).sendIrq 1

/-! ### Enabling and stopping (R244, R265) -/

/-- Writing `LedgerEnable` = ON: the head line and the consumed-count line are acquired (R244, R253). An ERROR ends only by OFF (R265). -/
def State.ledgerStart (s : State) : State × Nat :=
  if s.num Obj.ledgerBase = 0 || s.num Obj.completionBase = 0 || s.num Obj.completionConsumedAddr = 0 then (s, dRange)
  else if s.ledger.st = .draining then (s, dBusy)
  else if s.ledger.enable then (s, dOk)
  else if s.ledger.st = .error then (s, dBusy)
  else
    ((({ s with ledger := { s.ledger with
        enable := true, st := .running, seq := 0, alive := 1, fetched := none, produced := 0, consumed := 0, closed := [],
        ends := [], cancelTo := false, discard := false, order := [], events := [], irqMore := false } } : State).lookCount).lookHead, dOk)

/-- Every finished entry of a list completes without a record. -/
def State.discardAll : List Nat → State → State
  | [], s => s
  | n :: l, s => State.discardAll l (match s.entry n with
      | some e => match e.status with
        | .finished st _ _ => s.closeEntry e st
        | _ => s
      | none => s)

/-- Writing `LedgerEnable` = OFF: slots are taken no more, and the state drains; after an ERROR completions are discarded in the order in
which entries finished. -/
def State.ledgerStop (s : State) : State :=
  let bad := s.ledger.st == .error
  if !s.ledger.enable && !bad then s
  else
    let s : State := { s with ledger := { s.ledger with
      enable := false, st := .draining, fetched := none, discard := bad } }
    (if bad then State.discardAll s.ledger.order s else s).settleLedger

end Sys2Proof.Machine
end

