-- ==== Sys2Proof/Machine/Integrity.lean ====
section
/-! DEFINITION. Data integrity (ch. 12): patrol scrub (R297, R298), vertical bundles (R302 to R304), repairs at a reset (R300,
R301), and the acknowledgement of the error log (R308, R453). -/

set_option Elab.async false

namespace Sys2Proof.Machine

open Sys2Proof

/-! ### Patrol scrub (R297) -/

/-- The line at a Felt location. -/
def State.lineAt (s : State) (place : Nat) : Option (Nat × FLine) :=
  s.felt.lines.find? fun e => s.linePlace e.1 e.2 == place / 2 ^ 31 * 2 ^ 31

/-- The scrub read of a Felt sector: the place is a location of SPACE 4 (R306) with the sector in [30:29]; one that a store has rewritten
since the pass began is skipped. A location without data, in a line that lacks the sector too, has its errors counted and logged (R287,
R291). -/
def State.scrubFelt (s : State) (agent place : Nat) (err : ErrHit) : State :=
  let i := place / 2 ^ 29 % 4
  match (s.lineAt place).filter fun e => ((e.2.sectors[i]?).map (·.present)).getD false with
  | some (line, _) =>
    if s.felt.fresh.contains (line * 4 + i) then s
    else (s.charge 0 (mScrub (agent - 0x44))).feltError (line * 4 + i) agent err
  | none =>
    let s := s.charge 0 (mScrub (agent - 0x44))
    let at_ := place / 2 ^ 31 * 2 ^ 31
    match err with
    | .none => s
    | .corrected pos again =>
      let s := s.corrected Obj.ceFeltTotal (unitFelt ((placeBank place).1 * 1024 + (placeBank place).2)) 0x4001 agent
        (some (4, at_)) pos
      if again then s.feltHardFault at_ pos else s
    | .uncorrectable pos again =>
      let s := (s.bump Obj.ueFeltTotal 1).log 0x4011 sevError agent (some (4, at_)) 0
      if again then s.feltHardFault at_ pos else s

/-- The scrub read of an HBM granule; one that has been written since the pass began is skipped. -/
def State.scrubHbm (s : State) (agent granule : Nat) (err : ErrHit) : State :=
  let fresh := if agent = 0x44 then s.mem.fresh0 else s.mem.fresh1
  if fresh.any fun r => decide (r.1 ≤ granule) && decide (granule < r.2) then s else
  let t := s.hbmTarget (granule * 64)
  ((s.charge t (mScrub (agent - 0x44))).charge t (mScrub (agent - 0x44))).hbmError granule agent err

/-- Locations of a half in one pass: every sector of every way of its present banks, or every granule of its stacks (R297). -/
def State.scrubTotal (s : State) (half : Nat) (hbm : Bool) : Nat :=
  if hbm then s.hbmBytes / 256 / s.stacks.length * (s.stacks.length / 2) * 4 else (s.keptBanks half).length * 131072

/-- The `i`-th location of a pass over Felt: by bank, set, way and sector. (DESIGN CHOICE, notes/assumptions/61.md). -/
def State.scrubPlace (s : State) (half i : Nat) : Nat :=
  feltPlace half ((s.keptBanks half).getD (i / 131072) 0) (i / 64 % 2048) (i / 4 % 16) + i % 4 * 2 ^ 29

/-- The `i`-th granule of a pass over the stacks of a half, in ascending order of address. (DESIGN CHOICE, notes/assumptions/61.md). -/
def State.scrubGranule (s : State) (half i : Nat) : Nat :=
  let n := s.stacks.length
  let u := i / 4
  (u / (n / 2) * n + half * (n / 2) + u % (n / 2)) * 4 + i % 4

/-- `n` locations of a pass read from the `i`-th on; `errs` are the errors found, by their place in the batch. -/
def State.scrubBatch (half : Nat) (hbm : Bool) (errs : NMap ErrHit) (first : Nat) : Nat → Nat → State → State
  | 0, _, s => s
  | n + 1, i, s =>
    let err := NMap.lookD errs (i - first) .none
    State.scrubBatch half hbm errs first n (i + 1)
      (if hbm then s.scrubHbm (0x44 + half) (s.scrubGranule half i) err else s.scrubFelt (0x44 + half) (s.scrubPlace half i) err)

/-- A pass of a half begins: everything is to be read anew. -/
def State.passBegins (s : State) (half : Nat) (hbm : Bool) : State :=
  if !hbm then { s with felt := { s.felt with fresh := s.felt.fresh.filter fun sn => homeHalf (sn / 4) != half } }
  else if half = 0 then { s with mem := { s.mem with fresh0 := [] } }
  else { s with mem := { s.mem with fresh1 := [] } }

/-- A SCRUB_PACE tick: the next `count` locations of the half's pass are read, from the position recorded; a pass that ends is counted, and
the next begins; one that has fallen behind is logged once (R297, R298). Nothing is read while the scrubbers are not ON. How many reads make
a batch is the tick's: the spec gives no tick length. (DEDUCED, notes/assumptions/61.md). -/
def scrubPaceTick (half : Nat) (hbm : Bool) (count : Nat) (errs : NMap ErrHit) (behind : Bool) (s : State) : State :=
  if 2 ≤ half || s.func .scrub != .on then s
  else
    let key := half * 2 + bit01 hbm
    let i := NMap.lookD s.integ.pass key 0
    let n := min count (s.scrubTotal half hbm - i)
    let s := State.scrubBatch half hbm errs i n i s
    let s := if behind && NMap.lookD s.integ.behind key 0 == 0 then
        ({ s with integ := { s.integ with behind := NMap.put s.integ.behind key 1 } } : State).log 0x4041 sevInfo (0x44 + half) none
          (bit01 hbm)
      else s
    if s.scrubTotal half hbm ≤ i + n then
      let s : State := { s with integ := { s.integ with
        pass := NMap.del s.integ.pass key, behind := NMap.del s.integ.behind key } }
      (s.passBegins half hbm).bump (if hbm then Obj.scrubPassesHbm else Obj.scrubPassesFelt) 1
    else { s with integ := { s.integ with pass := NMap.put s.integ.pass key (i + n) } }

/-! ### Vertical bundles (R302 to R304) -/

/-- The number of a bundle: 128 × physical tile + bundle, + 64 for a write bundle; from 0x8000 on, 0x1000 × half + group. -/
def bundleKey : Bundle → Nat
  | .portRead p b => 128 * p + b
  | .portWrite p b => 128 * p + 64 + b
  | .bank h g => 0x8000 + 0x1000 * h + g

/-- Is it a bundle of the module? -/
def State.bundleOk (s : State) : Bundle → Bool
  | .portRead p b => decide (p < 72) && decide (b < 64)
  | .portWrite p b => decide (p < 72) && decide (b < 64)
  | .bank h g => decide (h < 2) && decide (4 * g < s.banksPerHalf)

/-- Spares a bundle has left of its 4. -/
def State.sparesLeft (s : State) (k : Nat) : Nat := 4 - NMap.lookD s.integ.bundles k 0

/-- Spares steered in place of failed signals, each logged; the bundle stops for the change. -/
def State.steer (k : Nat) : Nat → State → State
  | 0, s => s
  | n + 1, s =>
    let s : State := { s with integ := { s.integ with
      bundles := NMap.upd s.integ.bundles k 0 (· + 1)
      stopped := if s.integ.stopped.contains k then s.integ.stopped else s.integ.stopped ++ [k] } }
    State.steer k n ((s.bump Obj.bundleSpareTotal 1).log 0x4034 sevInfo agentHalfManagers none (k % 65536 + s.sparesLeft k * 65536))

/-- Does the port of a physical tile run, or move to, half width? (DEDUCED, notes/assumptions/61.md). -/
def State.halfWidth (s : State) (p : Nat) : Bool :=
  s.integ.moving.contains p || (match s.logicalOf p with
    | some n => (s.tile n).halfPort
    | none => false)

/-- The other bundle of a pair. (DEDUCED, notes/assumptions/61.md). -/
def pairMate (k : Nat) : Nat := if k % 2 = 0 then k + 1 else k - 1

/-- The tile bound to a physical tile is marked faulted. -/
def State.faultPhys (s : State) (p : Nat) : State :=
  match s.logicalOf p with
  | some n => s.faultService n
  | none => s

/-- A port bundle that has no spare left for a failed signal: the port moves to half width, or its tile is marked faulted
(R303). At half width an intact pair carries its traffic on its even bundle. -/
def State.portFails (s : State) (p k : Nat) : State :=
  let mate := s.integ.failedB.contains (pairMate k)
  let inUse := mate || k % 2 == 0
  let half := s.halfWidth p
  let s : State := { s with integ := { s.integ with
    failedB := if s.integ.failedB.contains k then s.integ.failedB else s.integ.failedB ++ [k] } }
  if mate || (half && inUse) then s.faultPhys p
  else if half then s
  else { s with integ := { s.integ with moving := s.integ.moving ++ [p] } }

/-- Failed signals of a port bundle: spares while they last. -/
def State.portSignals (s : State) (p k n : Nat) : State :=
  if s.integ.failedB.contains k then s
  else if n ≤ s.sparesLeft k then State.steer k n s
  else (State.steer k (s.sparesLeft k) s).portFails p k

/-- Failed signals of a bundle (R302 to R304). -/
def bundleSignalFailed (b : Bundle) (signals : Nat) (s : State) : State :=
  if !s.bundleOk b || signals = 0 then s else
  let k := bundleKey b
  match b with
  | .portRead p _ => s.portSignals p k signals
  | .portWrite p _ => s.portSignals p k signals
  | .bank h g =>
    if s.sparesLeft k < signals then s.retireGroup h g
    else
      let t := State.steer k signals s
      if t.sparesLeft k = 0 then t.retireGroup h g else t

/-- The bundle resumes on its steered spare, 512 Felt cycles after the change began; the transfers that waited for it go on, those that were
received uncorrectable sent again (R302). -/
def bundleSpareComplete (b : Bundle) (s : State) : State :=
  if !s.integ.stopped.contains (bundleKey b) then s
  else ({ s with integ := { s.integ with stopped := s.integ.stopped.filter fun k => k != bundleKey b } } : State).retry

/-- A port's move to half width ends (R303). -/
def halfWidthMoveComplete (p : Nat) (s : State) : State :=
  if !s.integ.moving.contains p then s else
  let s : State := { s with integ := { s.integ with moving := s.integ.moving.filter fun x => x != p } }
  let s := match s.logicalOf p with
    | some n => s.adjTile n fun t => { t with halfPort := true }
    | none => s
  s.log 0x4035 sevFatal agentHalfManagers none p

/-! ### Repairs at a reset (R300, R301) -/

/-- May a recorded fault be repaired: a Felt fault that spares cover and whose group is neither retiring nor retired, or an
HBM fault whose channel is in use? (DEDUCED, notes/assumptions/48.md). -/
def State.repairable (s : State) (f : HardFault) : Bool :=
  if f.hbm then !s.mem.channels.contains (s.stackOf (f.place * 64), f.place * 64 / 2 ^ 21 % 16)
  else
    let hb := placeBank f.place
    decide (f.place < 2 ^ 57) && !s.felt.retired.contains (hb.1, hb.2 / 4) && !s.felt.retiring.contains (hb.1, hb.2 / 4) &&
      sparesCover (s.integ.store.filter fun x => !x.hbm && placeBank x.place == hb && placeSub x.place == placeSub f.place)

/-- The recorded faults repaired, and REPAIR_APPLIED logged. -/
def State.applyRepairs (s : State) : State :=
  let n := (s.integ.store.filter fun f => !f.applied && s.repairable f).length
  let st := s.integ.store.map fun f => if s.repairable f then { f with applied := true } else f
  let s : State := { s with integ := { s.integ with store := st } }
  (s.bump Obj.repairsApplied n).log 0x4032 sevInfo agentHalfManagers none (n % 65536)

/-! ### The error log (R308, R453) -/

/-- `ErrorLogAck` is written: it records what has been read, and the hold of FATAL entries on ALERT_N ends. -/
def State.ackLog (s : State) (v : Nat) : State :=
  { s with integ := { s.integ with ack := v % 2 ^ 32, alertHold := false } }

end Sys2Proof.Machine
end

