-- ==== Sys2Proof/Machine/Power.lean ====
section
/-! DEFINITION. Power delivery and load shaping (ch. 13): the caps, the allowance and the governor's tick (R325 to R333), the
Fleece floor, ramp slots (R334 to R336), phase cells (R315 to R318), board stages (R312), and the input states (R339, R341). -/

set_option Elab.async false

namespace Sys2Proof.Machine

open Sys2Proof

/-! ### Caps and draws -/

/-- The working board stages (R312). -/
def State.stagesWorking (s : State) : Nat := 24 - s.power.stages.length

/-- `PowerCapEffective`, W (R312). (DEDUCED, notes/assumptions/34.md). -/
def State.capEffective (s : State) : Nat :=
  min (s.num Obj.powerCap) (if 2150 ≤ s.stagesWorking * 95 then 3600 else 3600 * (s.stagesWorking * 95) / 2150)

/-- May a logical tile carry ballast: bound, its row on, and the tile in Run or Idle (R328, R353)? -/
def State.ballastTile (s : State) (n : Nat) : Bool :=
  match NMap.look s.boot.binding n with
  | some p => s.func (.domain (rowDomain p)) == .on && (s.sleepOf p == .idle || s.sleepOf p == .run) &&
      !s.ledger.faultMask.contains n
  | none => false

/-- The part of a tile's array on which ballast may run, in quarters: the sub-arrays with no instruction dispatched; none while a SHAPE
change loads (R84). -/
def Tile.ballastQuarters (t : Tile) : Nat :=
  let l := t.matrix.subs
  if t.matrix.change.isSome || !t.matrix.kept.isEmpty then 0
  else if l.isEmpty then 4
  else 4 * (l.filter fun a => a.queue.isEmpty).length / l.length

/-- `BallastCapacity`, W: 40 W a tile at VCMP and 1.20 GHz, scaled by its clock and by the sub-arrays that are idle, brought to the input
by the ratio of the input to the rails of R311 (R84, R328). (DEDUCED, notes/assumptions/34.md). -/
def State.ballastCapacity (s : State) : Nat :=
  (((List.range s.tileCount).filter s.ballastTile).map fun n => (12 - (s.tile n).step) * (s.tile n).ballastQuarters).foldl
    (· + ·) 0 * 40 * 3552 / (4 * 12 * 3052)

/-- Ballast that a dispatched instruction, a load or a sleeping tile displaces stops at once (R84). -/
def State.displaceBallast (s : State) : State :=
  { s with power := { s.power with ballast := min s.power.ballast s.ballastCapacity } }

/-- Is a throttle enforced on any scope (R361)? -/
def State.throttled (s : State) : Bool := s.thermal.asks.any fun a => a.enforced

/-- The floor in force, W: within the cap, and within what the throttled clocks can draw (R330, R333).
(DEDUCED, notes/assumptions/36.md). -/
def State.floorNow (s : State) : Nat :=
  let f := min s.power.floor s.capEffective
  if s.throttled then min f (drawIdle + s.ballastCapacity) else f

/-! ### Ramp slots (R334 to R336) -/

/-- Is slot timing in use? -/
def State.slotted (s : State) : Bool := s.num Obj.rampCoordination != 0

/-- Is the module's slot open? Frames follow one another from the last frame start. -/
def State.slotOpen (s : State) : Bool :=
  let len := s.num Obj.slotLength * ticksPerUs
  let d := (s.now - s.power.frame) % max 1 (s.num Obj.slotCount * len)
  let i := s.num Obj.slotIndex
  s.slotted && decide (i * len ≤ d) && decide (d < (i + 1) * len)

/-- The level a rise outside the slot may reach, mW: R + `SlotThreshold` (R335). -/
def State.slotLevel (s : State) : Nat := s.power.slotRef + s.num Obj.slotThreshold * 1000

/-- The slot opens or closes; its start records the demand. (DEDUCED, notes/assumptions/35.md). -/
def State.slotTurn (s : State) (demand : Nat) : State :=
  let o := s.slotOpen
  { s with power := { s.power with slotOn := o, slotDem := if o && !s.power.slotOn then demand else s.power.slotDem } }

/-- A rise that starts within the slot is granted by it. (DEDUCED, notes/assumptions/35.md). -/
def State.slotGrant (s : State) (target : Nat) : State :=
  if s.slotted && s.power.slotOn && s.power.slotRise.isNone && decide (s.power.allowance < target) &&
      s.power.input != .holdup then
    { s with power := { s.power with slotRise := some s.power.slotDem } }
  else s

/-- The highest allowance the slots let a rise reach. -/
def State.slotLimit (s : State) (target : Nat) : Nat :=
  if !s.slotted then target
  else match s.power.slotRise with
    | some d => if s.power.slotOn then target else max (d * 1000) s.slotLevel
    | none => s.slotLevel

/-- The reference level after a move: A where a slot-granted rise ends, else A's minimum (R334).
(DEDUCED, notes/assumptions/35.md). -/
def State.slotAfter (s : State) (target : Nat) : State :=
  let a := s.power.allowance
  if !s.slotted then { s with power := { s.power with slotRise := none, slotRef := a } }
  else match s.power.slotRise with
    | some d =>
      if decide (target ≤ a) || (!s.power.slotOn && decide (d * 1000 ≤ a)) then
        { s with power := { s.power with slotRise := none, slotRef := a } }
      else s
    | none =>
      let s : State := { s with power := { s.power with slotRef := min s.power.slotRef a } }
      if s.power.input != .holdup && decide (s.slotLevel < target) && decide (s.slotLevel ≤ a) then s.bump Obj.slotWaitTime 10 else s

/-! ### The governor (R325 to R331) -/

/-- The level A moves towards, mW. (DEDUCED, notes/assumptions/34.md). -/
def State.powerTarget (s : State) (demand : Nat) : Nat :=
  let p := s.power
  if p.input = .holdup then min p.allowance (drawIdle * 1000)
  else match p.descend with
    | some d => min p.allowance (d * 1000)
    | none =>
      if s.thermal.holdover then min p.allowance (drawStandby * 1000)
      else
        let cap := if p.input = .low then min (s.capEffective * 1000) (75 * p.mv) else s.capEffective * 1000
        let f := s.floorNow * 1000
        let held := p.fleece == .holding || (p.fleece == .armed && decide (f ≤ p.allowance))
        let low := if s.thermal.modSt = .active && s.computeIdle then drawIdle * 1000 else 0
        min cap (max (demand * 1000) (max (if held then f else 0) low))

/-- `RampUp` and `RampDown` in effect, mW in 10 µs (R329). -/
def State.rampUp10 (s : State) : Nat := s.power.nextRate / 65536 * 10
def State.rampDown10 (s : State) : Nat :=
  if s.power.input = .holdup || s.power.fast then s.num Obj.brownoutRampDown * 10 else s.power.nextRate % 65536 * 10

/-- A after 10 µs (R325, R335). (DEDUCED, notes/assumptions/34.md). -/
def State.nextAllowance (s : State) (target : Nat) : Nat :=
  let a := s.power.allowance
  if a ≤ target then max a (min (min target (a + s.rampUp10)) (s.slotLimit target)) else max target (a - s.rampDown10)

/-- The states of the floor after a move (R331). (DEDUCED, notes/assumptions/36.md). -/
def State.fleeceTurn (s : State) (demand : Nat) : State :=
  let a := s.power.allowance
  let f := s.floorNow * 1000
  let x : FleeceSt := match s.power.fleece with
    | .off => .off
    | .armed => if decide (a = f) && decide (demand * 1000 ≤ f) && s.power.descend.isNone && s.power.input != .holdup then
        .holding else .armed
    | .holding => if f < demand * 1000 then .armed else .holding
    | .releasing => if a < demand * 1000 then .armed else .releasing
  { s with power := { s.power with fleece := x } }

/-- k of 64: the fraction of the demand that A covers, to the nearest (R327). (DEDUCED, notes/assumptions/34.md). -/
def paceOf (a demand : Nat) : Nat :=
  if demand * 1000 ≤ a then 64 else (64 * a + demand * 500) / (demand * 1000)

/-- Does ballast fill the gap: in Active, and through the descent to Standby or Dormant (R337); not in HOLDUP (R341)? -/
def State.fills (s : State) : Bool :=
  s.power.input != .holdup && s.thermal.modSt != .standby && s.thermal.modSt != .dormant && s.felt.accepts

/-- Pacing and ballast for the allowance; a gap beyond the capacity is a shortfall (R327, R328, R338).
(DEDUCED, notes/assumptions/34.md). -/
def State.paceAndFill (s : State) (demand : Nat) : State :=
  let a := s.power.allowance
  let s : State := { s with power := { s.power with k := paceOf a demand } }
  if !s.fills then { s with power := { s.power with ballast := 0 } }
  else
    let gap := a / 1000 - demand
    let cap := s.ballastCapacity
    let s : State := { s with power := { s.power with ballast := min gap cap } }
    if gap ≤ cap then s
    else
      let s : State := { s with power := { s.power with allowance := (demand + cap) * 1000 } }
      let s := (s.bump Obj.rampShortfallTotal 1).departure 3 (gap - cap)
      if s.limitOpen 0x5001 ticksPerS then (s.limitMark 0x5001).log 0x5001 sevInfo agentRegulators none ((gap - cap) % 2 ^ 32)
      else s

/-- The means of power and ballast over a millisecond; new ramp rates take effect at its end (R329, R343). -/
def State.sampleMeans (s : State) (power : Nat) : State :=
  let p := s.power
  let n := p.msN + 1
  let sum := p.msSum + power
  let bal := p.msBallast + p.ballast
  if n < 100 then
    { s with power := { p with stepSum := p.stepSum + power, stepN := p.stepN + 1, msSum := sum, msBallast := bal, msN := n } }
  else
    { s with power := { p with
        stepSum := p.stepSum + power, stepN := p.stepN + 1, msSum := 0, msBallast := 0, msN := 0
        inputW := sum / 100, ballastMs := bal / 100, nextRate := s.num Obj.rampUp * 65536 + s.num Obj.rampDown } }

/-- The draw that the allowance, pacing and ballast give, W: the paced work and the ballast (R325). -/
def State.drawNow (s : State) (demand : Nat) : Nat := min demand (s.power.allowance / 1000) + s.power.ballast

/-- The input power held at the draw: the sensors' estimate strays from it by 15 W at most, so that the difference of two means stays
within the 30 W of R326. (DEDUCED, notes/assumptions/34.md). -/
def State.heldPower (s : State) (power demand : Nat) : Nat :=
  max (s.drawNow demand - 15) (min power (s.drawNow demand + 15))

/-- The VCMP current rise of the next 10 µs that pacing, ballast and clock steps ask for, within the 300 A of R314; none while a gate step
has waited 200 µs (R323). -/
def State.scheduleRise (s : State) (amps : Nat) : State :=
  let r := if (List.range 20).any s.gateLate then 0 else min 300 amps
  { s with power := { s.power with rise := r } }

/-- Every 10 µs: `power` is the sensors' estimate of the input power and `demand` what the work would draw, both in W, and `amps` the VCMP
current rise that they ask for (R314, R325). -/
def governorTick (power demand amps : Nat) (s : State) : State :=
  let s := (s.scheduleRise amps).slotTurn demand
  let t := s.powerTarget demand
  let s := s.slotGrant t
  let s : State := { s with power := { s.power with allowance := s.nextAllowance t } }
  let s := ((s.slotAfter t).fleeceTurn demand).paceAndFill demand
  (s.sampleMeans (s.heldPower power demand)).downTurn

/-! ### The floor at a step boundary (R330), and its release (R332) -/

/-- A step boundary: the mean of the step that ends, and the floor from the first full step on. (DEDUCED, notes/assumptions/36.md). -/
def State.floorBoundary (s : State) : State :=
  let p := s.power
  let mean := if p.stepN = 0 then p.stepMean else p.stepSum / p.stepN
  let on := s.isOn Obj.fleeceEnable
  let n := if on then min 2 (p.steps + 1) else 0
  { s with power := { p with
      stepSum := 0, stepN := 0, stepMean := mean, steps := n
      floor := if n = 2 then s.num Obj.fleeceFloor * mean / 100 else 0
      fleece := if n = 2 then (if p.fleece = .off then .armed else p.fleece) else .off } }

/-- `FleeceHoldMax` of continuous HOLDING has passed; 0 is no limit. (DEDUCED, notes/assumptions/77.md). -/
def fleeceHoldMaxExpiry (s : State) : State :=
  if s.num Obj.fleeceHoldMax = 0 then s else s.releaseFloor

/-- A scheduled release, by message or by pulse: with `FleeceRelease` = SCHEDULE only (R332). -/
def State.scheduledRelease (s : State) : State := if s.isOn Obj.fleeceRelease then s.releaseFloor else s

/-! ### Frames (R336) -/

/-- Does this module send beacons? -/
def State.coordinates (s : State) : Bool :=
  s.num Obj.rampCoordination == 1 && s.isOn Obj.slotCoordinator && !s.power.coordOff

/-- A frame starts now. -/
def State.startFrame (s : State) : State := { s with power := { s.power with frame := s.now } }

/-- A frame starts on the module's own timing: the coordinator's frames, and those after a loss of the external timing. The
coordinator multicasts a beacon. -/
def slotFrameStart (s : State) : State :=
  if !s.slotted || !(s.coordinates || s.power.syncLost) then s
  else
    let s := s.startFrame
    let n := (s.power.frameNo + 1) % 2 ^ 32
    let s : State := { s with power := { s.power with frameNo := n } }
    if s.coordinates && s.isOn Obj.muslinEnable then { s with power := { s.power with beacons := s.power.beacons ++ [n] } } else s

/-- No beacon or edge for 3 frame lengths: the module times its frames itself, and logs it once. -/
def slotSyncLost (s : State) : State :=
  if !s.slotted || s.coordinates || s.power.syncLost then s
  else
    ({ s with power := { s.power with syncLost := true } } : State).log 0x500F sevInfo agentRegulators none
      (s.num Obj.rampCoordination - 1)

/-- Is the pin the sync line in use? -/
def State.syncPin (s : State) (pin : Nat) : Bool :=
  s.num Obj.rampCoordination == 2 && s.num Obj.rampSyncPin == pin + 1 &&
    (if pin = 0 then s.dict.claims.aux0 else s.dict.claims.aux1) == .rampSync

/-- A pulse of 1 µs to 20 µs on the sync line starts a frame. -/
def syncLineFramePulse (pin : Nat) (s : State) : State :=
  if pin < 2 && s.syncPin pin then
    let t := s.startFrame
    { t with power := { t.power with syncLost := false, frameExt := true } }
  else s

/-- A pulse of 50 µs or longer on the sync line is a release and starts no frame. -/
def syncLineReleasePulse (pin : Nat) (s : State) : State := if pin < 2 && s.syncPin pin then s.scheduledRelease else s

/-! ### Tile clock steps (R350, R351) -/

/-- The VCMP group of a physical tile (R315). -/
def cellGroup (p : Nat) : Nat := 12 * physHalf p + 2 * physRow p + (if p % 6 < 3 then 0 else 1)

/-- Is a region derated: 4 or more failed cells, or a regulator core of its group without an image (R316, R383)? -/
def State.derated (s : State) (g : Nat) : Bool :=
  decide (4 ≤ NMap.lookD s.power.cells g 0) || (List.range 4).any fun i => s.boot.loadFail.contains (1240 + 4 * g + i)

/-- The policy step: 0, or the step of `TileClockFixed`. -/
def State.policyStep (s : State) : Nat := if s.num Obj.clockPolicy = 1 then (1200 - s.num Obj.tileClockFixed) / 100 else 0

/-- The step a logical tile is to run at (R350). -/
def State.stepOf (s : State) (n : Nat) : Nat :=
  match NMap.look s.boot.binding n with
  | some p => min 7 (max s.policyStep (s.tile n).thermal + bit01 (s.derated (cellGroup p)))
  | none => (s.tile n).step

/-- A tile changes its step: it stops issuing until its PLL has retuned; one whose PLL is off changes at once. -/
def State.changeStep (s : State) (n : Nat) : State :=
  let k := s.stepOf n
  if (s.tile n).step = k then s
  else
    let awake := match NMap.look s.boot.binding n with
      | some p => s.sleepOf p == .idle || s.sleepOf p == .run
      | none => false
    ((s.tickBars n).adjTile n fun t => { t with step := k, retune := t.retune || awake }).bump Obj.clockStepChanges 1

/-- Every tile brought to the step it is to run at. -/
def State.applySteps (s : State) : State :=
  (List.range s.tileCount).foldl (fun (t : State) n => if NMap.has t.boot.binding n then t.changeStep n else t) s

/-! ### Transitions that the module makes itself (R312, R317, R341, R348) -/

/-- A transition to a module state starts: the floor is released, and A descends to the state's draw; towards Active the Felt domains turn
on (R322, R332, R337, R355).
(DEDUCED, notes/assumptions/31.md). -/
def State.startState (s : State) (target : Nat) (fast : Bool) : State :=
  let s := s.releaseFloor
  let s : State := { s with
    thermal := { s.thermal with modSt := .changing target, forced := none }
    power := { s.power with descend := if target = 0 then none else some (drawOf target), fast := fast } }
  if target = 0 then [12, 13, 14, 15].foldl (fun (t : State) c => (t.enableFunc (.domain c)).1) s else s

/-- The module itself enters Standby or Dormant: work is cancelled; a transition under way ends first (R355).
(DEDUCED, notes/assumptions/31.md). -/
def State.forceState (s : State) (target : Nat) (fast : Bool) : State :=
  match s.thermal.modSt with
  | .active => s.cancelAll.startState target fast
  | .standby => if target = 2 then s.startState 2 fast else s
  | .dormant => s
  | .changing t =>
    if t = 0 || t < target then
      { s with thermal := { s.thermal with forced := some (max target (s.thermal.forced.getD 0)) } }
    else s

/-! ### Board stages (R312) -/

/-- A board stage fails. Below 12 working stages the module enters Standby and stays there. (DEDUCED, notes/assumptions/38.md). -/
def stageFailed (stage : Nat) (s : State) : State :=
  if 24 ≤ stage || s.power.stages.contains stage then s
  else
    let s : State := { s with power := { s.power with stages := insertNat s.power.stages stage } }
    let n := s.stagesWorking
    let s := s.log 0x5006 (if n < 12 then sevFatal else sevError) agentRegulators none (stage + n * 256)
    if n < 12 then ({ s with power := { s.power with stageLock := true } } : State).forceState 1 false else s

/-! ### Phase cells (R315 to R318) -/

/-- A row is shed: its tiles stop at once and are marked faulted, and its domain is HELD_DOWN (R316, R338).
(DESIGN CHOICE, notes/assumptions/37.md, DEDUCED, notes/assumptions/62.md). -/
def State.shedRow (s : State) (domain : Nat) : State :=
  let x := s.func (.domain domain)
  let s := s.log 0x5005 sevFatal agentRegulators none domain
  if x = .heldDown then (s.rowLogical domain).foldl (fun (t : State) n => t.faultTile n) s
  else
    let s := if x = .off then s else s.drawn.departure 1 (Config.freeNat s.dict.freeCount % 211)
    let s := (s.rowLogical domain).foldl (fun (t : State) n => t.faultTile n) s
    let s := s.setFunc (.domain domain) .heldDown
    let s : State := { s with power := { s.power with gates := NMap.del s.power.gates domain } }
    (rowTiles domain).foldl (fun (t : State) p => t.setSleep p .off) s

/-- A VCMP cell fails (R316). (DESIGN CHOICE, notes/assumptions/37.md). -/
def cellFailed (g : Nat) (s : State) : State :=
  let n := NMap.lookD s.power.cells g 0 + 1
  if 24 ≤ g || 48 < n then s
  else
    let s : State := { s with power := { s.power with cells := NMap.put s.power.cells g n } }
    let s := s.log 0x5003 sevInfo agentRegulators none (g * 256 + n * 65536)
    if n = 4 then (s.log 0x5004 sevError agentRegulators none g).applySteps
    else if n = 7 then s.shedRow (g / 2)
    else s

/-- The subindex of 0x5021 of a rail group, less 1. -/
def railIndex (g : RailGroup) : Option Nat :=
  match g.rail with
  | 1 => if g.group < 8 then some g.group else none
  | 2 => if g.group < 6 then some (8 + g.group) else none
  | 3 => if g.group < 6 then some (14 + g.group) else none
  | 4 => if g.group < 16 then some (20 + g.group) else none
  | _ => none

/-- A cell of another rail fails: margin at the 3rd, the group and the module's state at the 4th (R317). -/
def railCellFailed (g : RailGroup) (s : State) : State :=
  match railIndex g with
  | none => s
  | some i =>
    let n := NMap.lookD s.power.rails i 0 + 1
    if 16 < n then s
    else
      let d := g.rail + g.group * 256 + n * 65536
      let s : State := { s with power := { s.power with rails := NMap.put s.power.rails i n } }
      let s := s.log 0x5003 sevInfo agentRegulators none d
      if n = 3 then s.log 0x5007 sevFatal agentRegulators none d
      else if n = 4 then
        ({ s with boot := { s.boot with lost := true } } : State).log 0x5008 sevFatal agentRegulators none d |>.forceState 2 true
      else s

end Sys2Proof.Machine
end

