-- ==== Sys2Proof/Machine/Thermal.lean ====
section
/-! DEFINITION. Clocks, sleep states, sensors, thermal control, time and samples (ch. 14): the reference clock (R347, R348),
tile clocks and sleep (R351 to R353), suspect sensors (R358, R359), throttling (R360 to R363), stacks and trips (R364, R365),
the timestamp's sources (R369) and performance samples (R370). -/

set_option Elab.async false

namespace Sys2Proof.Machine

open Sys2Proof

/-! ### Bring-up's waits (R395) -/

/-- Is bring-up under way? -/
def State.bringingUp (s : State) : Bool :=
  s.boot.powered && s.boot.phase != .ready && s.boot.phase != .computeReset && s.boot.phase != .failed

/-! ### Sensors and their neighbours (R357) -/

/-- Distances of 1 in a row of `n` places. -/
def stepsTo (n i : Nat) : List Nat := (if i = 0 then [] else [i - 1]) ++ (if i + 1 < n then [i + 1] else [])

/-- The neighbours of a sensor. Quadrants: 0 NW, 1 NE, 2 SW, 3 SE; row 0 is the northern row. (DEDUCED, notes/assumptions/39.md). -/
def neighbours (k : Nat) : List Nat :=
  if k < 288 then
    let p := k / 4
    let v := k % 4 / 2
    let h := k % 2
    let r := physRow p
    let c := p % 6
    ((List.range 4).filter fun q => q != k % 4).map (4 * p + ·) ++
      (if c = 0 then [] else [4 * (p - 1) + 2 * v + 1]) ++ (if c = 5 then [] else [4 * (p + 1) + 2 * v]) ++
      (if r = 0 then [] else [4 * (p - 6) + 2 + h]) ++ (if r = 5 then [] else [4 * (p + 6) + h])
  else if k < 352 then
    let die := (k - 288) / 16
    let r := (k - 288) % 16 / 4
    let c := (k - 288) % 4
    (stepsTo 4 r).map (288 + 16 * die + 4 * · + c) ++ (stepsTo 4 c).map (288 + 16 * die + 4 * r + ·) ++
      [288 + 16 * (if die % 2 = 0 then die + 1 else die - 1) + 4 * r + c]
  else if k < 416 then
    let half := (k - 352) / 32
    let r := (k - 352) % 32 / 8
    let c := (k - 352) % 8
    (stepsTo 4 r).map (352 + 32 * half + 8 * · + c) ++ (stepsTo 8 c).map (352 + 32 * half + 8 * r + ·)
  else []

/-- The half a sensor lies in; stacks lie in none here. -/
def sensorHalf (k : Nat) : Option Nat :=
  if k < 288 then some (physHalf (k / 4)) else if k < 352 then some ((k - 288) / 32)
  else if k < 416 then some ((k - 352) / 32) else none

/-- A sensor before its first reading. -/
def Sensor.fresh : Sensor :=
  { reading := 0, gov := 0, sum := 0, n := 0, prevMean := none, rate := 0, warnMs := 0, hotRun := 1000, disagree := 0,
    low := 0, agree := 0, suspect := false, byEst := false, est := none }

/-- A sorted list with one more number. -/
def insertInt (x : Int) : List Int → List Int
  | [] => [x]
  | y :: l => if x ≤ y then x :: y :: l else y :: insertInt x l

/-- The median of a list of at least 2; of an even number of readings, the mean of the two in the middle.
(DEDUCED, notes/assumptions/39.md). -/
def medianOf (l : List Int) : Option Int :=
  let m := l.foldr insertInt []
  let n := m.length
  if n < 2 then none
  else if n % 2 = 1 then some (m.getD (n / 2) 0)
  else some ((m.getD (n / 2 - 1) 0 + m.getD (n / 2) 0) / 2)

/-- The median of the non-suspect neighbours of a sensor. (DEDUCED, notes/assumptions/39.md). -/
def medianAt (m : NMap Sensor) (k : Nat) : Option Int :=
  medianOf ((neighbours k).filterMap fun j => match NMap.look m j with
    | some x => if x.suspect then none else some x.reading
    | none => none)

/-- The absolute difference. -/
def gapOf (a b : Int) : Nat := (a - b).natAbs

/-- Where it holds: one more; else 0. -/
def runOn (b : Bool) (n : Nat) : Nat := if b then n + 1 else 0

/-- A sensor judged on a sample: 20 samples of disagreement with the median (R358) or 100 below the estimate (R359) make it
suspect, 10,000 within 4 °C let it recover. (DEDUCED, notes/assumptions/39.md). -/
def judge (m : NMap Sensor) (k : Nat) (x : Sensor) : Sensor :=
  let med := medianAt m k
  let dis := match med with
    | some v => runOn (decide (800 < gapOf x.reading v)) x.disagree
    | none => 0
  let low := match x.est with
    | some e => runOn (decide (288 ≤ k) && decide (k < 352) && decide (600 < e - x.reading)) x.low
    | none => 0
  let byEst := (x.suspect && x.byEst) || decide (100 ≤ low)
  let ref := if byEst then x.est else med
  let y := { x with disagree := min dis 20, low := min low 100 }
  if x.suspect then
    let agree := match ref with
      | some v => runOn (decide (gapOf x.reading v ≤ 400)) x.agree
      | none => 0
    if 10000 ≤ agree then
      { y with suspect := false, byEst := false, disagree := 0, low := 0, agree := 0, gov := x.reading }
    else { y with agree := agree, byEst := byEst, gov := ref.getD x.gov }
  else if byEst || decide (20 ≤ dis) then { y with suspect := true, byEst := byEst, agree := 0, gov := ref.getD x.gov }
  else { y with gov := x.reading }

/-- The rate of rise between the means of two milliseconds, 0.01 °C (R360); `full` at the end of a millisecond. -/
def Sensor.rated (full : Bool) (x : Sensor) : Sensor :=
  let sum := x.sum + x.gov
  let n := x.n + 1
  if !full then { x with sum := sum, n := n, hotRun := min 1000 (x.hotRun + 1) }
  else
    let mean := sum / (n : Int)
    let rate := match x.prevMean with
      | some p => mean - p
      | none => 0
    { x with sum := 0, n := 0, prevMean := some mean, rate := rate, warnMs := runOn (decide (150 ≤ rate)) x.warnMs
             hotRun := if 150 ≤ rate then 0 else min 1000 (x.hotRun + 1) }

/-! ### Throttling (R360 to R363) -/

/-- A throttle condition: scope as in R362, logical tile, cause. -/
structure Hot where
  scope : Nat
  tile  : Nat
  cause : Nat
  deriving DecidableEq, Repr

/-- `ThrottleTempLevel` in 0.01 °C. -/
def State.levelC (s : State) : Int := (s.num Obj.throttleTempLevel : Int) * 100

/-- The condition a sensor raises, with its scope. -/
def State.hotOf (s : State) (k : Nat) (x : Sensor) : Option Hot :=
  let rate := decide (300 ≤ x.rate)
  if rate || decide (s.levelC ≤ x.gov) then
    let cause := if rate then 0 else 1
    if k < 288 then (s.logicalOf (k / 4)).map fun n => { scope := 0, tile := n, cause := cause }
    else (sensorHalf k).map fun h => { scope := h + 1, tile := 0, cause := cause }
  else none

/-- Does an ask cover a logical tile? -/
def State.askCovers (s : State) (a : Ask) (n : Nat) : Bool :=
  if a.scope = 0 then a.tile == n else a.scope == 3 || a.scope == s.halfOfTile n + 1

/-- The logical tiles of a scope. -/
def State.askTiles (s : State) (a : Ask) : List Nat :=
  ((List.range s.tileCount).filter fun n => NMap.has s.boot.binding n).filter (s.askCovers a)

/-- Does a sensor lie in an ask's scope? -/
def State.askSensor (s : State) (a : Ask) (k : Nat) : Bool :=
  if a.scope = 0 then k < 288 && s.logicalOf (k / 4) == some a.tile
  else match sensorHalf k with
    | some h => a.scope == 3 || a.scope == h + 1
    | none => false

/-- Does the whole scope of a condition lie in an ask's? -/
def State.askHolds (s : State) (a : Ask) (h : Hot) : Bool :=
  if h.scope = 0 then s.askCovers a h.tile else a.scope == 3 || a.scope == h.scope

/-- Does an open ask take a condition in: the scopes meet, or both are halves (R367, R362)? -/
def State.askMeets (s : State) (a : Ask) (h : Hot) : Bool :=
  s.askHolds a h || (decide (0 < h.scope) && (if a.scope = 0 then s.halfOfTile a.tile + 1 == h.scope else true))

/-- The union of the scopes of an ask and a condition. (DEDUCED, notes/assumptions/39.md). -/
def Ask.join (a : Ask) (h : Hot) : Ask :=
  if h.scope = 0 || a.scope = h.scope then a else { a with scope := if a.scope = 0 then h.scope else 3 }

/-- DETAIL of R362. -/
def State.askDetail (s : State) (a : Ask) : Nat :=
  a.target + a.scope * 256 + (if a.scope = 0 then a.tile * 1024 else 0) + a.cause * 65536 + s.num Obj.thermalGrace * 2 ^ 32

/-- One step below the slowest step in force among a scope's tiles. -/
def State.targetStep (s : State) (a : Ask) : Nat :=
  min 7 (((s.askTiles a).map fun n => (s.tile n).step).foldl max 0 + 1)

/-- Thermal steps follow the asks that are enforced, and tiles change their clocks. -/
def State.thermalSteps (s : State) : State :=
  let s := (List.range s.tileCount).foldl (fun (t : State) n =>
    let k := ((t.thermal.asks.filter fun a => a.enforced && t.askCovers a n).map (·.target)).foldl max 0
    if (t.tile n).thermal = k then t else t.adjTile n fun x => { x with thermal := k }) s
  s.applySteps

/-- The asks replaced. (DEDUCED, notes/assumptions/39.md). -/
def State.setAsks (s : State) (l : List Ask) : State := { s with thermal := { s.thermal with asks := l } }

/-- Does the enforcement test find heat in a scope (R361 step 4)? -/
def State.stillHot (s : State) (a : Ask) : Bool :=
  s.thermal.sensors.any fun e => s.askSensor a e.1 && (decide (s.levelC - 1000 < e.2.gov) || decide (e.2.hotRun ≤ 100))

/-- The grace of the first open ask ends: enforced, or withdrawn (R361). -/
def State.endGrace (s : State) : State :=
  match s.thermal.asks.find? fun a => !a.enforced with
  | none => s
  | some a =>
    if s.stillHot a then
      let s := s.setAsks (adjFirst (fun x => !x.enforced) (fun x => { x with enforced := true, hot := 0, cool := 0 }) s.thermal.asks)
      ((s.log 0x5103 sevError agentThermal none (s.askDetail a)).bump Obj.throttleEnforceTotal 1).thermalSteps
    else
      (s.setAsks (dropFirst (fun x => !x.enforced) s.thermal.asks)).log 0x5104 sevInfo agentThermal none (s.askDetail a)

/-- A throttle condition: nothing where a throttle is enforced on its scope, joined to an open ask, or an ask of its own. -/
def State.addHot (s : State) (h : Hot) : State :=
  let new : Ask := { scope := h.scope, tile := h.tile, target := 0, cause := h.cause, enforced := false, hot := 0, cool := 0 }
  let new := { new with target := s.targetStep new }
  if s.thermal.asks.any fun a => a.enforced && s.askHolds a h then s
  else if s.thermal.asks.any fun a => !a.enforced && s.askMeets a h then
    s.setAsks (adjFirst (fun a => !a.enforced && s.askMeets a h)
      (fun a => { a.join h with target := max a.target new.target }) s.thermal.asks)
  else
    let s := s.setAsks (s.thermal.asks ++ [new])
    let s := (s.log 0x5102 sevError agentThermal none (s.askDetail new)).event 0x02 0 (s.askDetail new)
    let s := s.bump Obj.throttleAskTotal 1
    if s.num Obj.thermalGrace = 0 || !s.isOn Obj.throttleAsk then s.endGrace else s

/-- One sample of an enforced ask: a condition that persists 10 ms lowers the step, 100 ms of cool raise it; none when the
thermal step has come to 0 (R363). -/
def State.askSample (s : State) (hots : List Hot) (a : Ask) : Option Ask :=
  if !a.enforced then some a
  else
    let hotNow := hots.any (s.askHolds a)
    let settled := (s.askTiles a).all fun n => !(s.tile n).retune
    let coolNow := s.thermal.sensors.all fun e =>
      !s.askSensor a e.1 || (decide (e.2.gov ≤ s.levelC - 1000) && decide (e.2.rate < 150))
    let hot := runOn (hotNow && settled) a.hot
    let cool := runOn coolNow a.cool
    if 100 ≤ hot then some { a with target := min 7 (a.target + 1), hot := 0, cool := 0 }
    else if 1000 ≤ cool then (if a.target ≤ 1 then none else some { a with target := a.target - 1, hot := 0, cool := 0 })
    else some { a with hot := hot, cool := cool }

/-! ### Stacks and trips (R364 to R366) -/

/-- The state of a stack temperature: NORMAL, HOT, THROTTLED, TRIP. -/
def stackClass (t : Int) : Nat := if t < 8500 then 0 else if t < 9500 then 1 else if t < 10500 then 2 else 3

/-- The next state of a stack: a fall takes place only 3 °C below the entry threshold. -/
def stackNext (old : Nat) (t : Int) : Nat := max (stackClass t) (min old (stackClass (t + 300)))

/-- The state of a stack. -/
def State.stackState (s : State) (k : Nat) : Nat := NMap.lookD s.thermal.hbm k 0

/-- The stacks' states follow their sensors; changes are logged. -/
def State.stackSample (s : State) : State :=
  s.stacks.foldl (fun (t : State) k =>
    match NMap.look t.thermal.sensors (416 + k) with
    | none => t
    | some x =>
      let n := stackNext (t.stackState k) x.gov
      if n = t.stackState k then t
      else
        let u : State := { t with thermal := { t.thermal with
          hbm := if n = 0 then NMap.del t.thermal.hbm k else NMap.put t.thermal.hbm k n } }
        u.log 0x5108 sevInfo agentThermal none (k + n * 256)) s

/-- A domain loses power at once: by a trip, without the sequence of R324 (R365). -/
def State.dropDomain (s : State) (c : Nat) : State :=
  match s.func (.domain c) with
  | .off => s
  | .heldDown => s
  | _ => (s.turnOff (.domain c)).reach (.domain c) .off

/-- Closure and the INVALIDATE flush, then tile rows and Felt domains off (R197, R355); the banks take no request. -/
def State.quietDown (s : State) : State :=
  let s := s.closure.flushAll true
  let s : State := { s with felt := { s.felt with flush := 0, accepts := false } }
  (List.range 16).foldl State.dropDomain s

/-- An absolute trip: rows stop without the ramp, work is cancelled, Felt is flushed, and the module is in Standby (R365). During
bring-up it holds bring-up (R395). (DEDUCED, notes/assumptions/28.md). -/
def State.trip (s : State) (sensor : Nat) (gov : Int) : State :=
  let a := s.power.allowance / 1000
  let s := (s.departure 0 (a - drawStandby)).bump Obj.thermalTripTotal 1
  let s := s.log 0x5105 sevFatal agentThermal none (sensor + (gov / 10).toNat % 65536 * 65536)
  let s : State := { s with board := { s.board with tripCoolant := s.board.coolant } }
  if s.bringingUp then { s with thermal := { s.thermal with hotBoot := true } }
  else
    let s := (s.setAsks []).thermalSteps
    let s := s.cancelAll.releaseFloor.quietDown
    { s with
      thermal := { s.thermal with
        modSt := .standby, forced := none, tripped := true, tripAt := if s.board.coolant = 0 then some s.now else none }
      power := { s.power with
        allowance := min s.power.allowance (drawStandby * 1000), descend := some drawStandby, fast := false, ballast := 0 } }

/-- Is every governing value at or below 95 °C and every stack NORMAL (R366)? -/
def State.coolEnough (s : State) : Bool :=
  (s.thermal.sensors.all fun e => decide (e.2.gov ≤ 9500)) && s.thermal.hbm.isEmpty

/-- The sensor that trips: a Lawn, Felt or Canvas sensor at 110 °C, or a stack in TRIP. -/
def State.tripper (s : State) : Option (Nat × Int) :=
  (s.thermal.sensors.find? fun e => if e.1 < 416 then decide (11000 ≤ e.2.gov) else s.stackState (e.1 - 416) == 3).map
    fun e => (e.1, e.2.gov)

/-! ### The sample (R357) -/

/-- A reading taken. -/
def State.takeReading (s : State) (r : Reading) : State :=
  if 432 ≤ r.sensor then s
  else
    let m := NMap.upd s.thermal.sensors r.sensor Sensor.fresh fun x => { x with reading := r.centi }
    { s with thermal := { s.thermal with sensors := m } }

/-- A model estimate of a Felt place taken. -/
def State.takeEstimate (s : State) (r : Reading) : State :=
  if r.sensor < 288 || 352 ≤ r.sensor then s
  else
    let m := NMap.adj s.thermal.sensors r.sensor fun x => { x with est := some r.centi }
    { s with thermal := { s.thermal with sensors := m } }

/-- Suspect states judged, and their changes logged. -/
def State.judgeAll (s : State) : State :=
  let old := s.thermal.sensors
  let new := NMap.mapVals old (judge old)
  let s : State := { s with thermal := { s.thermal with sensors := new } }
  new.foldl (fun (t : State) e =>
    let was := match NMap.look old e.1 with
      | some x => x.suspect
      | none => false
    if e.2.suspect && !was then t.log 0x5106 sevError agentThermal none (e.1 + bit01 e.2.byEst * 65536)
    else if was && !e.2.suspect then t.log 0x5107 sevInfo agentThermal none e.1
    else t) s

/-- Warnings at the end of a millisecond: at most one a second and sensor. -/
def State.warnAll (s : State) : State :=
  s.thermal.sensors.foldl (fun (t : State) e =>
    if 2 ≤ e.2.warnMs && t.limitOpen (0x51010000 + e.1) ticksPerS then
      (t.limitMark (0x51010000 + e.1)).log 0x5101 sevInfo agentThermal none (e.1 + e.2.rate.toNat % 65536 * 65536)
    else t) s

/-- The conditions evaluated and the asks moved on. -/
def State.throttleSample (s : State) : State :=
  let hots := (s.thermal.sensors.filterMap fun e => s.hotOf e.1 e.2).eraseDups
  if s.bringingUp then
    let hot := s.thermal.sensors.any fun e => decide (e.1 < 416) && (decide (300 ≤ e.2.rate) || decide (s.levelC ≤ e.2.gov))
    { s with thermal := { s.thermal with hotBoot := hot || (s.thermal.hotBoot && !s.coolEnough) } }
  else
    let asks := s.thermal.asks.filterMap (s.askSample hots)
    let moved := asks.map (·.target) != s.thermal.asks.map (·.target)
    let s := s.setAsks asks
    let s := if moved then s.thermalSteps else s
    hots.foldl State.addHot s

/-- The state once a sample's readings are held and judged, rates taken, warnings logged, and the stacks classed (R357 to R360, R364):
`readings` are the sensors' and `estimates` the model's, in 0.01 °C. -/
def State.sampled (s : State) (readings estimates : List Reading) : State :=
  let s := estimates.foldl State.takeEstimate (readings.foldl State.takeReading s)
  let s := s.judgeAll
  let full := s.thermal.samples % 10 == 9
  let s : State := { s with thermal := { s.thermal with
    samples := (s.thermal.samples + 1) % 10
    sensors := NMap.mapVals s.thermal.sensors fun _ x => x.rated full } }
  let s := if full then s.warnAll else s
  s.stackSample

/-- Every 100 µs the sensors are read: a trip where one calls for it (R365), else the throttle conditions (R360 to R364). -/
def sensorSample (readings estimates : List Reading) (s : State) : State :=
  if !s.boot.powered || s.thermal.modSt = .dormant then s
  else
    let s := s.sampled readings estimates
    match (if s.thermal.tripped || s.thermal.hotBoot then none else s.tripper) with
    | some k => s.trip k.1 k.2
    | none => s.throttleSample

/-- `ThermalGrace` of the first open ask ends (R361). (DEDUCED, notes/assumptions/39.md). -/
def thermalGraceExpiry (s : State) : State := s.endGrace

/-- `ThermalAccept` ends the grace of every open ask at once. (DEDUCED, notes/assumptions/39.md). -/
def State.acceptThermal (s : State) : State := s.thermal.asks.foldl (fun (t : State) _ => t.endGrace) s

/-- `ThermalState`: NORMAL, ASKED, ENFORCED. -/
def State.thermalState (s : State) : Nat :=
  if s.throttled then 2 else if s.thermal.asks.isEmpty then 0 else 1

/-! ### The reference clock (R347, R348) -/

/-- REFCLK has had no edge for 1 µs: holdover. -/
def refclkLost (s : State) : State :=
  if s.thermal.holdover then s
  else ({ s with thermal := { s.thermal with holdover := true } } : State).log 0x5201 sevFatal agentThermal none 0

/-- 100 ms of holdover: the module enters Standby; bring-up waits instead (R395). (DEDUCED, notes/assumptions/31.md). -/
def refclkHoldoverExpiry (s : State) : State :=
  if s.thermal.holdover && !s.bringingUp && s.boot.powered then s.forceState 1 false else s

/-- REFCLK returns. -/
def refclkReturn (s : State) : State := { s with thermal := { s.thermal with holdover := false } }

/-- The AON oscillator is trimmed while REFCLK is present. -/
def aonTrim (s : State) : State :=
  if s.thermal.holdover then s else { s with thermal := { s.thermal with trims := s.thermal.trims + 1 } }

/-! ### Tile clocks and sleep (R351 to R353) -/

/-- A tile's PLL has retuned. -/
def clockStepComplete (tile : Nat) (s : State) : State :=
  if (s.tile tile).retune then (s.tickBars tile).adjTile tile fun t => { t with retune := false } else s

/-- Is a physical tile without work: no block resident, no allocation? -/
def State.tileRests (s : State) (p : Nat) : Bool :=
  match s.logicalOf p with
  | some n => (s.tile n).blocks.isEmpty && (s.tile n).alloc.isNone
  | none => true

/-- An idle tile reaches `IdleNapDelay` (R352). It keeps its load while ballast still fills A's descent (R337).
(DEDUCED, notes/assumptions/34.md). -/
def idleNapDelayExpiry (p : Nat) (s : State) : State :=
  if 72 ≤ p || s.num Obj.idleTileState = 0 || s.func (.domain (rowDomain p)) != .on || s.sleepOf p != .idle || !s.tileRests p ||
      s.power.ballast != 0 then s
  else s.setSleep p .nap

/-- Does a tile not hold its row back: it qualifies for Off, or is fused off? -/
def State.offReady (s : State) (p : Nat) : Bool := s.sleepOf p == .napOff || s.fuses.fused.contains p

/-- A tile reaches `IdleOffDelay`: held in Nap until its whole row qualifies; then the row turns off (R353, R320). It keeps its load while
ballast still fills A's descent (R337). (DEDUCED, notes/assumptions/34.md). -/
def idleOffDelayExpiry (p : Nat) (s : State) : State :=
  if 72 ≤ p || s.num Obj.idleTileState != 2 || s.func (.domain (rowDomain p)) != .on || !s.tileRests p ||
      !(s.sleepOf p == .idle || s.sleepOf p == .nap) || s.power.ballast != 0 then s
  else
    let s := s.setSleep p .napOff
    if (rowTiles (rowDomain p)).all s.offReady then (s.disableFunc (.domain (rowDomain p))).1 else s

/-- A tile woken for its allocation is awake; no PLL starts in holdover (R348, R353). -/
def tileWakeComplete (p : Nat) (s : State) : State :=
  let woken := match s.logicalOf p with
    | some n => (s.tile n).alloc.isSome && !s.ledger.faultMask.contains n
    | none => false
  if woken && s.func (.domain (rowDomain p)) == .on && (s.sleepOf p == .nap || s.sleepOf p == .napOff) && !s.thermal.holdover then
    s.setSleep p .idle
  else s

/-! ### Time (R369) -/

/-- The rate corrected towards a source that has seen `span` ticks pass in `true` ticks, by at most 100 ppm in all; locked where
that correction suffices. (DEDUCED, notes/assumptions/41.md, DEDUCED, notes/assumptions/71.md). -/
def State.discipline (s : State) (span real : Nat) : State :=
  if real = 0 then s
  else
    let err : Int := ((real : Int) - (span : Int)) * 1000000 / (real : Int)
    let want := s.thermal.slew + err
    { s with thermal := { s.thermal with
        slew := max (-100) (min 100 want), locked := decide (-100 ≤ want) && decide (want ≤ 100), timeLost := false } }

/-- A rising edge on the PPS pin (R369, R452). (DEDUCED, notes/assumptions/41.md). -/
def ppsEdge (pin : Nat) (s : State) : State :=
  let owner := if pin = 0 then s.dict.claims.aux0 else s.dict.claims.aux1
  if 2 ≤ pin || owner != .pps || s.num Obj.ppsPin != pin + 1 then s
  else
    let last := s.thermal.pps
    let s : State := { s with thermal := { s.thermal with pps := s.now } }
    if s.num Obj.timeSource = 1 then
      let s : State := { s with thermal := { s.thermal with timeLost := false } }
      if last = 0 then s else s.discipline (s.now - last) ticksPerS
    else s

/-- No edge or message for 3 s (R369). -/
def timeSourceLost (s : State) : State :=
  let src := s.num Obj.timeSource
  if src = 0 || s.thermal.timeLost then s
  else ({ s with thermal := { s.thermal with locked := false, timeLost := true } } : State).log 0x5202 sevInfo agentThermal none
    (src - 1)

/-! ### Performance samples (R370) -/

/-- The sum over the classes of `BwBytes` COUNT of a target. -/
def State.bwUnits (s : State) (target : Nat) : Nat :=
  ((List.range 6).map fun c => s.counter (Obj.bwBytes + target * 256 + c)).foldl (· + ·) 0 % 2 ^ 48

/-- The bound tiles' steps. -/
def State.boundSteps (s : State) : List Nat :=
  ((List.range s.tileCount).filter fun n => NMap.has s.boot.binding n).map fun n => (s.tile n).step

/-- The tiles in Run: a block is resident, or ballast runs (R352). (DEDUCED, notes/assumptions/34.md). -/
def State.runMask (s : State) : Nat :=
  maskOf ((List.range s.tileCount).filter fun n => !(s.tile n).blocks.isEmpty || (s.power.ballast != 0 && s.ballastTile n))

/-- The highest governing value, 0.1 °C. -/
def State.tempMax (s : State) : Int :=
  match s.thermal.sensors with
  | [] => 0
  | e :: l => (l.foldl (fun m x => max m x.2.gov) e.2.gov) / 10

/-- The 64-byte record. -/
def State.perfRecord (s : State) : Bytes :=
  natLE 64 (s.now + s.det.step.toNat * 2 ^ 128 + s.power.allowance / 1000 * 2 ^ 192 + s.power.inputW * 2 ^ 224 +
    s.bwUnits 7 * 2 ^ 272 + s.bwUnits 0 * 2 ^ 336 + s.runMask * 2 ^ 384 + s.thermalState * 2 ^ 448 + s.power.k * 2 ^ 456 +
    s.boundSteps.foldl max 0 * 2 ^ 464 + s.boundSteps.foldl min 7 * 2 ^ 472 + (s.tempMax % 65536).toNat * 2 ^ 480)

/-- The PERF_SAMPLE timer: one record is written; a violation discards it (R370). (DEDUCED, notes/assumptions/41.md). -/
def perfSample (s : State) : State :=
  if !s.isOn Obj.perfSampleEnable || s.boot.phase != .ready then s
  else
    let a := s.num Obj.perfSampleBase + 64 * (s.thermal.perfIdx % max 1 (s.num Obj.perfSampleEntries))
    let r := s.perfRecord
    let next (t : State) : State := { t with thermal := { t.thermal with perfIdx := t.thermal.perfIdx + 1 } }
    match s.engineWrites agentHalfManagers (mScrub 0) [(a / 32, r.take 32, none), (a / 32 + 1, r.drop 32, none)] with
    | (t, .ok _) => next t
    | (t, .wait) => s.keepDefer t
    | (t, .ends _ _) =>
      if t.thermal.perfFault then next t
      else (next { t with thermal := { t.thermal with perfFault := true } }).log 0x5203 sevError agentThermal none 0

end Sys2Proof.Machine
end

