-- ==== Sys2Proof/Machine/Package.lean ====
section
/-! DEFINITION. Firmware packages (ch. 17): the checks of secure boot (R430, R431) and of an update (R434), what boots at a
full reset (R430, R436, R437), and the end of an update (R435, R438). -/

set_option Elab.async false

namespace Sys2Proof.Machine

open Sys2Proof

/-- `UpdateResult` codes (R444). -/
def urOk : Nat := 0
def urHeader : Nat := 1
def urSignature : Nat := 2
def urRevoked : Nat := 3
def urSvn : Nat := 4
def urVariant : Nat := 5
def urDigest : Nat := 6
def urComponent : Nat := 7
def urOrder : Nat := 8
def urCompat : Nat := 9
def urAborted : Nat := 10

/-- A little-endian field of a header: first byte and number of bytes. -/
def hdrAt (h : Bytes) (a n : Nat) : Nat := leNat ((h.drop a).take n)

/-- The greatest length of a slot, 64 MiB (R428). -/
def slotBytes : Nat := 2 ^ 26

/-- Is a header malformed (R431)? (DEDUCED, notes/assumptions/80.md). -/
def hdrBad (h : Bytes) : Bool :=
  hdrAt h 0 4 != 0x57465A50 || hdrAt h 4 2 != 1 || hdrAt h 7 1 != 0 || decide (8 ≤ hdrAt h 14 1) || hdrAt h 100 24 != 0 ||
    decide (slotBytes - 256 < hdrAt h 16 4)

/-- The header of a slot. -/
def Slot.head (x : Slot) : Bytes := Memory.readN x.bytes 0 256

/-- The checks of R430 on a slot against a floor, in order; an `UpdateResult` code. (DESIGN CHOICE, notes/assumptions/69.md). -/
def State.checkSlot (s : State) (floor : Nat) (x : Slot) : Nat :=
  let h := x.head
  let key := hdrAt h 15 1
  if hdrBad h then urHeader
  else if 4 ≤ key || !ecdsaVerify (Config.releaseKey key) (h.take 124) (h.drop 124) then urSignature
  else if s.fuses.revoked.contains key then urRevoked
  else if hdrAt h 12 2 < floor then urSvn
  else if !natBit (hdrAt h 14 1) s.fuses.variant then urVariant
  else if sha512 (Memory.readN x.bytes 256 (hdrAt h 16 4)) ≠ (h.drop 36).take 64 then urDigest
  else urOk

/-! ### Components -/

/-- The slot a component does not run. -/
def Comp.inactive (c : Comp) : Slot := if c.runB then c.a else c.b

/-- A component with its inactive slot changed. -/
def Comp.setInactive (c : Comp) (f : Slot → Slot) : Comp := if c.runB then { c with a := f c.a } else { c with b := f c.b }

/-- A component with both slots' roles exchanged. -/
def Comp.swapped (c : Comp) : Comp := { c with runB := !c.runB }

/-- A component. -/
def State.comp (s : State) (k : Nat) : Option Comp := s.fw.comps[k]?

/-- The state with a component changed. -/
def State.adjComp (s : State) (k : Nat) (f : Comp → Comp) : State := { s with fw := { s.fw with comps := adjAt s.fw.comps k f } }

/-- The header of the image a component runs; a delivered image's is not given. -/
def Comp.header (k : Nat) (c : Comp) : Bytes := if c.running.header.isEmpty then Config.deliveredHeader k else c.running.header

/-- The COMPAT entry of the image a component runs for another. -/
def Comp.compatFor (k : Nat) (c : Comp) (j : Nat) : Nat :=
  if c.running.header.isEmpty then Config.deliveredCompat k j else c.running.compat.getD j 0

/-- Does a COMPAT entry take in a major.minor? -/
def compatHas (e v : Nat) : Bool := decide (e % 65536 ≤ v) && decide (v ≤ e / 65536 % 65536)

/-- The checks of R434 on the inactive slot of the component being updated. -/
def State.checkUpdate (s : State) : Nat :=
  let k := s.fw.comp
  match s.comp k with
  | none => urHeader
  | some c =>
    let x := c.inactive
    let h := x.head
    let mm := majorMinor (hdrAt h 8 4)
    let others := (List.range 4).filter fun j => j != k
    let first := s.checkSlot c.svnFloor x
    let runs (j : Nat) : Nat := match s.comp j with
      | some d => majorMinor d.running.version
      | none => 0
    if first ≠ urOk then first
    else if hdrAt h 6 1 ≠ k then urComponent
    else if mm ≠ runs k && (List.range k).any (fun j => runs j != mm) then urOrder
    else if others.all (fun j => compatHas (hdrAt h (20 + 4 * j) 4) (runs j) && (match s.comp j with
        | some d => compatHas (d.compatFor j k) mm
        | none => false)) then urOk
    else urCompat

/-! ### The end of an update (R435, R438) -/

/-- The inactive slot is marked invalid, and the state returns to IDLE. -/
def State.abortUpdate (s : State) : State :=
  let s := s.adjComp s.fw.comp fun c => c.setInactive fun x => { x with valid := false }
  { s with fw := { s.fw with upd := .idle, busy := false } }

/-- An update is aborted: `UpdateResult` says so. -/
def State.abortedUpdate (s : State) : State :=
  let t := s.abortUpdate
  { t with fw := { t.fw with result := urAborted } }

/-- Is an update in ERASING to VERIFIED? -/
def State.updating (s : State) : Bool := s.fw.upd != .idle && s.fw.upd != .committing

/-- An update ends because its lease, the input or the reset takes it away (R438). (DEDUCED, notes/assumptions/68.md). -/
def State.dropUpdate (s : State) : State :=
  if s.updating then
    let k := s.fw.comp
    s.abortedUpdate.log 0x8005 sevError agentHalfManagers none k
  else s

/-! ### What boots (R430, R436, R437) -/

/-- A slot that was verified as it was written boots while its key and security version stand.
(DESIGN CHOICE, notes/assumptions/69.md). -/
def State.slotBoots (s : State) (c : Comp) (x : Slot) : Bool :=
  x.valid && decide (c.svnFloor ≤ x.svn) && (x.header.isEmpty || !s.fuses.revoked.contains (hdrAt x.header 15 1))

/-- The code that IMAGE_INVALID gives for a slot. -/
def State.slotFault (s : State) (c : Comp) (x : Slot) : Nat :=
  if !x.valid then urAborted else if x.svn < c.svnFloor then urSvn else if s.slotBoots c x then urOk else urRevoked

/-- A trial has failed: the previous slot boots, the new one is invalid, and the PRIOR blob is current again (R437).
(DEDUCED, notes/assumptions/29.md). -/
def State.rollBack (s : State) (k : Nat) : State :=
  match s.comp k with
  | none => s
  | some c =>
    let v := c.running.version
    let s := s.adjComp k fun c => { c.swapped.setInactive (fun x => { x with valid := false }) with status := .confirmed }
    let s : State := match s.dict.blobPrior with
      | some b => { s with dict := { s.dict with blobCur := some b, blobPrior := none } }
      | none => s
    s.log 0x8004 sevFatal agentHalfManagers none (k + v * 2 ^ 32)

/-- One component at a full reset: a failed trial is rolled back, a pending slot starts its trial, and a slot that is invalid
gives way to the other. -/
def State.bootComp (failed : Bool) (s : State) (k : Nat) : State :=
  match s.comp k with
  | none => s
  | some c =>
    let s := if c.status = .trial && failed then s.rollBack k
      else if c.status = .pending then s.adjComp k fun c => { c.swapped with status := .trial }
      else s
    match s.comp k with
    | none => s
    | some c =>
      if s.slotBoots c c.running then s
      else
        let s := s.log 0x8001 sevError agentHalfManagers none (k + bit01 c.runB * 256 + s.slotFault c c.running * 4096)
        if s.slotBoots c c.inactive then s.adjComp k fun c => { c.swapped with status := .confirmed } else s

/-- `DictionaryVersion` of the image as delivered. -/
def deliveredDictVersion : Nat := 1

/-- The boot ROM selects the image of each component. -/
def State.secureBoot (s : State) (failed : Bool) : State :=
  let s := (List.range 4).foldl (State.bootComp failed) s
  match s.comp 0 with
  | some c =>
    { s with fw := { s.fw with dictVersion :=
      if c.running.header.isEmpty then deliveredDictVersion else Config.dictVersionOf c.running.header % 65536 } }
  | none => s

end Sys2Proof.Machine
end

