-- ==== Sys2Proof/Machine/Commit.lean ====
section
/-! DEFINITION. What a commit does (R36, R41 to R45): the checks, the apply and its consequences; sessions and the lease as other
parts of the module end them (R35); and the settings blob (R439, R440). -/

set_option Elab.async false

namespace Sys2Proof.Machine

open Sys2Proof

/-! ### The lease, the lock and sessions (R35, R37) -/

/-- The field lock closes if it is open for a session. -/
def State.closeLock (s : State) (sid : Nat) : State :=
  if s.lockOpenFor sid then { s with dict := { s.dict with lock := .closed } } else s

/-- A session that holds the lease loses it: the staged set is discarded, its open lock closes, and its update ends (R35, R438). -/
def State.loseLease (s : State) (sid : Nat) : State :=
  if s.dict.lease = some sid then
    (({ s with dict := { s.dict with lease := none, staged := [] } } : State).closeLock sid).dropUpdate
  else s

/-- A session ends: as for a release where it held the lease; its lock closes and its partial write is discarded. -/
def State.endSession (s : State) (sid : Nat) : State :=
  let s := (s.loseLease sid).closeLock sid
  { s with dict := { s.dict with parts := NMap.del s.dict.parts sid } }

/-- A Muslin session closes. -/
def State.closeMuslin (s : State) (sid : Nat) : State :=
  let s := s.endSession sid
  { s with dict := { s.dict with sessions := NMap.del s.dict.sessions sid } }

/-- Every Muslin session closes. -/
def State.closeAllMuslin (s : State) : State := s.dict.sessions.foldl (fun (t : State) e => t.closeMuslin e.1) s

/-- The host session closes; the window's registers read their reset values when the link returns (R425). -/
def State.closeHost (s : State) : State :=
  let s := s.endSession 1
  { s with dict := { s.dict with hostOpen := false, req := DictState.reset.req, resp := DictState.reset.resp, buffer := DictState.reset.buffer } }

/-! ### The settings blob (R439) -/

/-- Is an object held in a blob? -/
def inBlob (r : ObjRow) : Bool :=
  if r.acc = .stg || r.acc = .lck then r.first != Obj.fatalLogClear && r.first != Obj.faultedTileClear
  else r.acc == .rw && [Obj.leaseTimeout, Obj.sessionIdleTimeout, Obj.tieringEnable, Obj.scrubEnable, Obj.completionIrqHoldoff,
    Obj.tier2Enable0, Obj.peerPortEnable].contains r.first

/-- The keys a row names. -/
def ObjRow.keys (r : ObjRow) : List Nat := (List.range (r.last + 1 - r.first)).map (r.first + ·)

/-- The keys of a blob, in ascending index and subindex. -/
def blobKeys : List Nat := (objTable.filter inBlob).flatMap ObjRow.keys

/-- The value a blob holds for an object: `LockPasswordNew` as its salted digest. -/
def State.blobValue (s : State) (key : Nat) : Bytes := if key = Obj.lockPasswordNew then s.dict.password else s.value key

/-- The place of a type in the table of R27. -/
def OType.place : OType → Nat
  | .u8 => 0
  | .u16 => 1
  | .u32 => 2
  | .u64 => 3
  | .s32 => 4
  | .f32 => 5
  | .bool => 6
  | .enum => 7
  | .bits => 8
  | .str => 9
  | .blob => 10

/-- The type code of an object in a blob; R439 does not give the codes. -/
def typeCode (key : Nat) : Nat :=
  match objRow key with
  | some r => Config.blobType r.ty.place % 256
  | none => 0

/-- The bytes of an entry. -/
def BlobEntry.bytes (e : BlobEntry) : Bytes :=
  natLE 8 (e.key / 256 + e.key % 256 * 2 ^ 16 + e.type % 256 * 2 ^ 24 + e.value.length % 65536 * 2 ^ 32 + e.rsv % 65536 * 2 ^ 48) ++
    e.value ++ e.pad

/-- The bytes of a blob that its CRC covers: header bytes 0 to 27, and the entries. -/
def Blob.head (b : Blob) : Bytes :=
  natLE 4 b.magic ++ natLE 2 b.dictVersion ++ natLE 2 b.count ++ natLE 4 b.length ++ natLE 4 b.configGen ++ natLE 4 b.fwVersion ++
    natLE 8 b.rsv
def Blob.body (b : Blob) : Bytes := b.entries.flatMap BlobEntry.bytes

/-- The bytes of a blob. -/
def Blob.bytes (b : Blob) : Bytes := b.head ++ natLE 4 b.crc ++ b.body

/-- Is a blob malformed (R439, R8): a reserved field or a pad byte that is not zero, or a wrong CRC or MAGIC? -/
def Blob.malformed (b : Blob) : Bool :=
  b.magic != 0x53544750 || b.rsv != 0 || (b.entries.any fun e => e.rsv != 0 || e.pad.any fun x => x != 0) ||
    b.crc != (crc32c (b.head ++ b.body)).toNat

/-- The objects' values in a blob. -/
def Blob.values (b : Blob) : NMap Bytes := b.entries.map fun e => (e.key, e.value)

/-- A blob of this firmware with values, and its CRC. -/
def State.blobOf (s : State) (values : NMap Bytes) (configGen : Nat) : Blob :=
  let l := values.map fun e : Nat × Bytes => (⟨e.1, typeCode e.1, 0, e.2, List.replicate ((8 - e.2.length % 8) % 8) 0⟩ : BlobEntry)
  let b : Blob :=
    { entries := l, magic := 0x53544750, dictVersion := s.fw.dictVersion, count := l.length
      length := 32 + (l.flatMap BlobEntry.bytes).length, configGen := configGen, fwVersion := s.firmwareVersion, rsv := 0, crc := 0 }
  { b with crc := (crc32c (b.head ++ b.body)).toNat }

/-- The blob that `SettingsSave` writes. (DEDUCED, notes/assumptions/18.md). -/
def State.blobNow (s : State) : Blob := s.blobOf (blobKeys.map fun k => (k, s.blobValue k)) s.dict.configGen

/-! ### Static ranges (R27) -/

/-- The ranges of a `FeltPinRange`-like value: bases and lengths multiples of 2 MiB, none overlapping. -/
def rangesOk (b : Bytes) : Bool :=
  let l := rangesOf b
  (l.all fun r => r.1 % 2 ^ 21 == 0 && r.2 % 2 ^ 21 == 0) &&
    (List.range l.length).all fun i => (List.range i).all fun j =>
      let x := l.getD i (0, 0)
      let y := l.getD j (0, 0)
      x.2 == 0 || y.2 == 0 || decide (x.1 + x.2 ≤ y.1) || decide (y.1 + y.2 ≤ x.1)

/-- Does a value lie in an object's static range? -/
def State.inRange (s : State) (r : ORange) (v : Bytes) : Bool :=
  let n := leNat v
  match r with
  | .any => true
  | .span lo hi step => decide (lo ≤ n) && decide (n ≤ hi) && (n - lo) % max 1 step == 0
  | .spanOr lo hi other => (decide (lo ≤ n) && decide (n ≤ hi)) || n == other
  | .pow2 lo hi => decide (lo ≤ n) && decide (n ≤ hi) && (List.range 64).any fun i => n == 2 ^ i
  | .s32 bound => decide (n ≤ bound) || decide (2 ^ 32 - bound ≤ n)
  | .f32 lo hi => decide (lo ≤ n) && decide (n ≤ hi)
  | .codes _ => true
  | .bits mask => (List.range 64).all fun i => !natBit n i || natBit mask i
  | .tileMax => decide (4 ≤ n) && decide (n ≤ s.tileCount)
  | .ranges => rangesOk v
  | .spares => ((List.range 4).zip v).all fun e => decide (9 * (e.1 / 2) ≤ e.2.toNat) && decide (e.2.toNat < 9 * (e.1 / 2) + 9)

/-- Is a value of an object's type: the length, and for an ENUM or a BOOL a defined value? -/
def typeOk (r : ObjRow) (v : Bytes) : Bool :=
  decide (r.lenLo ≤ v.length) && decide (v.length ≤ r.lenHi) && (match r.range with
    | .codes n => decide (leNat v < n)
    | _ => true)

/-! ### The checks of a commit (R41, R42) -/

/-- The status and rule of a commit, and the claims it makes where it is accepted. -/
def Cfg.outcome (c : Cfg) : Nat × Nat × Option Claims :=
  match c.validate with
  | 0 => match c.claims with
    | some cl => (dOk, 0, some cl)
    | none => (dConflict, 0, none)
  | r => (dInvalid, r, none)

/-- `CommitResult`, and a conflict counted (R47). -/
def State.commitEnds (s : State) (status rule : Nat) : State :=
  let s : State := { s with dict := { s.dict with commitRes := rule * 256 + status } }
  if status = dConflict then s.bump Obj.claimConflicts 1 else s

/-! ### The apply -/

/-- A password's digest under a salt (R52). (DESIGN CHOICE, notes/assumptions/15.md). -/
def saltedDigest (salt pw : Bytes) : Bytes := salt ++ sha512 (salt ++ pw)

/-- One object takes effect: triggers act once, a new password is stored as its salted digest, other values are in force. -/
def State.applyOne (own : Bool) (s : State) (e : Nat × Bytes) : State :=
  if e.1 = Obj.fatalLogClear then { s with integ := { s.integ with fatal := [] } }
  else if e.1 = Obj.faultedTileClear then
    { s with boot := { s.boot with record := s.boot.record.filter fun p => !natBit (leNat e.2) p } }
  else if e.1 = Obj.lockPasswordNew then
    if own then { s with dict := { s.dict with password := e.2 } }
    else
      let salt := natLE 16 (Config.salt s.dict.freeCount).toNat
      let d := saltedDigest salt e.2
      let t := s.drawn
      { t with dict := { t.dict with password := d } }
  else s.setValue e.1 e.2

/-- The domains that `DomainForceOff` has forced off or released: ports before a group's shut-down (R321). -/
def State.forceDomains (s : State) (old : Nat) : State :=
  let new := s.num Obj.domainForceOff
  (List.range 20).foldl (fun (t : State) c =>
    if natBit new c && !natBit old c then
      let t := if 18 ≤ c then (List.range 9).foldl (fun (u : State) i => (u.disableFunc (.peer (9 * (c - 18) + i))).1) t else t
      (t.disableFunc (.domain c)).1
    else if natBit old c && !natBit new c then (t.enableFunc (.domain c)).1
    else t) s

/-- What follows from a set of values having taken effect, `old` being the state before. -/
def State.afterApply (s old : State) (set : NMap Bytes) : State :=
  let has (k : Nat) : Bool := NMap.has set k
  let changed (k : Nat) : Bool := has k && s.value k != old.value k
  let s : State := if has Obj.rngSeed then { s with det := { s.det with seedSet := true } } else s
  let s := if has Obj.rngSeed || (has Obj.determinismMode && s.isOn Obj.determinismMode) then s.startRun else s
  let s := if has Obj.muslinEnable && !s.isOn Obj.muslinEnable then s.closeAllMuslin else s
  let s := if changed Obj.reduceSpillSize || changed Obj.preemptSaveSize || changed Obj.hdmWindowSize then s.fitRegions else s
  let s : State :=
    if !s.isOn Obj.fleeceEnable then { s with power := { s.power with fleece := .off, floor := 0, steps := 0 } } else s
  let s := if changed Obj.domainForceOff then s.forceDomains (old.num Obj.domainForceOff) else s
  let s : State :=
    if has Obj.perfSampleEnable && s.isOn Obj.perfSampleEnable then { s with thermal := { s.thermal with perfFault := false } }
    else s
  let s := if changed Obj.clockPolicy || changed Obj.tileClockFixed then s.applySteps else s
  let s := if changed Obj.bwInterval then s.restartQuotas else s
  let s : State :=
    if changed Obj.timeSource then
      { s with thermal := { s.thermal with locked := false, timeLost := false, lastTime := none } }
    else s
  if changed Obj.rampCoordination || changed Obj.slotCoordinator then
    { s with power := { s.power with
        syncLost := false, coordOff := false, frameExt := false, frame := s.now, slotRise := none, slotRef := s.power.allowance } }
  else s

/-- Values and claims take effect in one step; the set is emptied, and `ConfigGeneration` increases (R40, R42, R52). -/
def State.applySet (s : State) (own : Bool) (set : NMap Bytes) (cl : Claims) : State :=
  let t := set.foldl (State.applyOne own) s
  let t : State := { t with dict := { t.dict with
    claims := cl, configGen := (t.dict.configGen + 1) % 2 ^ 32, staged := [], queued := none } }
  (t.afterApply s set).commitEnds dOk 0

/-! ### The bring-up commit (R45, R440) -/

/-- A blob's entries as this firmware takes them: those whose object exists with the same type, with values out of range replaced by the
default; with the counts of dropped entries and of defaults. (DEDUCED, notes/assumptions/18.md). -/
def State.migrate (s : State) (b : Blob) : NMap Bytes × Nat × Nat :=
  b.entries.foldl (fun (acc : NMap Bytes × Nat × Nat) e =>
    match objRow e.key with
    | none => (acc.1, acc.2.1 + 1, acc.2.2)
    | some r =>
      if !inBlob r || e.type != typeCode e.key then (acc.1, acc.2.1 + 1, acc.2.2)
      else if e.key = Obj.lockPasswordNew || (typeOk r e.value && s.inRange r.range e.value) then
        (NMap.put acc.1 e.key e.value, acc.2)
      else (acc.1, acc.2.1, acc.2.2 + 1)) ([], 0, 0)

/-- What bring-up finds in flash: no blob, values to take effect, or nothing it can take, with the status it logs. -/
inductive BootSet where
  | absent
  | values (set : NMap Bytes)
  | bad (status : Nat)
  deriving DecidableEq, Repr

/-- The blob that bring-up reads: CURRENT, migrated where the firmware's dictionary is newer, or PRIOR where CURRENT is too new and
PRIOR's version matches (R440); a malformed blob is refused whole (R439). -/
def State.bootBlob (s : State) : BootSet :=
  match s.dict.blobCur with
  | none => .absent
  | some b =>
    if b.malformed then .bad 0x07
    else if b.dictVersion = s.fw.dictVersion then .values b.values
    else if b.dictVersion < s.fw.dictVersion then .values (s.migrate b).1
    else match s.dict.blobPrior with
      | some p =>
        if p.dictVersion != s.fw.dictVersion then .bad 0x08 else if p.malformed then .bad 0x07 else .values p.values
      | none => .bad 0x08

/-- SETTINGS_INVALID. -/
def State.settingsInvalid (s : State) (rule status : Nat) : State :=
  (s.log 0x1201 sevError agentDictionary none (rule + status * 256)).commitEnds status rule

/-- Everything at its default: the claims the defaults make, and no value in force but theirs. -/
def State.takeDefaults (s : State) : State :=
  let s : State := { s with dict := { s.dict with values := [] } }
  match ({ st := s, staged := [], sid := 1, self := true } : Cfg).claims with
  | some cl => { s with dict := { s.dict with claims := cl } }
  | none => s

/-- The blob is migrated where the firmware's dictionary is newer than the blob's. -/
def State.migrates (s : State) : Option Blob :=
  match s.dict.blobCur with
  | some b => if !b.malformed && decide (b.dictVersion < s.fw.dictVersion) then some b else none
  | none => none

/-- SETTINGS_MIGRATED, with the counts of dropped entries and of defaults (R440). -/
def State.logMigration (s : State) : State :=
  match s.migrates with
  | some b => s.log 0x8006 sevInfo agentHalfManagers none ((s.migrate b).2.1 % 65536 + (s.migrate b).2.2 % 65536 * 65536)
  | none => s

/-- A migrated set that passes becomes CURRENT, and the old blob PRIOR. -/
def State.keepMigrated (s : State) (set : NMap Bytes) : State :=
  match s.migrates with
  | some b =>
    { s with dict := { s.dict with blobCur := some (s.blobOf set b.configGen), blobPrior := some b } }
  | none => s

/-- The settings blob passes the validator and the claim check as one commit of the module's own, or the module starts with
defaults: `ConfigGeneration` is then 0 (R45). -/
def State.bringupCommit (s : State) : State :=
  let s : State := { s with dict := { s.dict with values := [], configGen := 0 } }
  let s := s.logMigration
  match s.bootBlob with
  | .absent => s.takeDefaults
  | .bad status => (s.takeDefaults).settingsInvalid 0 status
  | .values set =>
    match ({ st := s, staged := set, sid := 1, self := true } : Cfg).outcome with
    | (_, _, some cl) =>
      let s := s.keepMigrated set
      let s := s.applySet true set cl
      { s with dict := { s.dict with configGen := 1 } }
    | (status, rule, none) => (s.takeDefaults).settingsInvalid rule status

/-- The early settings: read from the blob, each checked against its range (R376). -/
def State.earlySettings (s : State) : State :=
  match s.bootBlob with
  | .values set =>
    ([Obj.powerCap, Obj.rampUp, Obj.rampDown, Obj.brownoutRampDown, Obj.tier2Enable0, Obj.tier2Enable0 + 1] ++
      (List.range 18).map (Obj.peerPortEnable + ·)).foldl (fun (t : State) k =>
        match NMap.look set k, objRow k with
        | some v, some r => if typeOk r v && t.inRange r.range v then t.setValue k v else t
        | _, _ => t) s
  | _ => s

end Sys2Proof.Machine
end

