-- ==== Sys2Proof/Machine/Boot.lean ====
section
/-! DEFINITION. Bring-up and recovery (ch. 15): what a full reset keeps (R387), the start of bring-up (R375, R376), links and
their qualification (R377, R378), the fill (R379), the firmware broadcast (R380 to R383), self-test and binding (R384 to R386),
and the compute reset (R388 to R393). -/

set_option Elab.async false

namespace Sys2Proof.Machine

open Sys2Proof

/-! ### What a full reset keeps (R387) -/

/-- The counters kept in module flash (R397). -/
def flashCounters (m : NMap Nat) : NMap Nat := m.filter fun e => e.1 == Obj.fullResetTotal || e.1 == Obj.unavailableTime

/-- Is the field lock BLOCKED? -/
def LockSt.isBlocked : LockSt → Bool
  | .blocked _ => true
  | _ => false

/-- The dictionary after a full reset: the blobs, the password's digest, a BLOCKED lock and the flash counters. -/
def DictState.restarted (d : DictState) : DictState :=
  { DictState.reset with
    counters := flashCounters d.counters
    lock := if d.lock.isBlocked then d.lock else .closed
    failCount := if d.lock.isBlocked then 5 else 0
    password := d.password, blobCur := d.blobCur, blobPrior := d.blobPrior, freeCount := d.freeCount }

/-- The bank map of a half without its retired groups: entry H names the present bank of rank H mod P (R172).
(DEDUCED, notes/assumptions/27.md, DEDUCED, notes/assumptions/55.md). -/
def bankMapOf (half : Nat) (live : List Nat) : NMap Nat :=
  (List.range 4096).map fun h => (half * 4096 + h, live.getD (h % live.length) 0)

/-- The bank map of a half after a full reset, where it differs from the map without retirements.
(DEDUCED, notes/assumptions/27.md). -/
def State.remap (s : State) (half : Nat) : NMap Nat :=
  if s.felt.retired.any fun r => r.1 == half then bankMapOf half (s.keptBanks half) else []

/-- Felt after a full reset: retired groups stay retired. -/
def State.feltRestarted (s : State) : Felt :=
  { Felt.reset with retired := s.felt.retired, bankOver := s.remap 0 ++ s.remap 1 }

/-- The memories after a full reset: every mapping is discarded; retired channels stay in the repair store (R301).
(DEDUCED, notes/assumptions/27.md). -/
def Mem.restarted (m : Mem) : Mem :=
  { Mem.reset with tier0 := m.tier0, tier1 := m.tier1, host := m.host, channels := m.channels, chanErr := m.chanErr }

/-- The error log after a full reset: the ring starts again; what module flash holds stays. (DEDUCED, notes/assumptions/27.md). -/
def Integ.restarted (x : Integ) : Integ :=
  { Integ.reset with
    fatal := x.fatal, store := x.store, alertHold := x.alertHold, bundles := x.bundles, failedB := x.failedB }

/-- The governor after a full reset: the input and the cell-failure record stay.
(DEDUCED, notes/assumptions/27.md, DEDUCED, notes/assumptions/38.md). -/
def Power.restarted (p : Power) : Power :=
  { Power.reset with input := p.input, mv := p.mv, cells := p.cells, rails := p.rails }

/-- Time after a full reset: the timestamp counts on unless power is lost (R368). -/
def Thermal.restarted (t : Thermal) (power : Bool) : Thermal :=
  { Thermal.reset with
    timestamp := if power then 0 else t.timestamp
    holdover := t.holdover, trims := t.trims, tripAt := if power then none else t.tripAt
    hotBoot := t.tripped || t.hotBoot }

/-- Bring-up after a full reset: the record, the latched trip and the pins stay. -/
def Boot.restarted (b : Boot) (power : Bool) : Boot :=
  { Boot.reset with
    powered := b.powered, pwrEn := b.pwrEn, pwrOff := b.pwrOff, record := b.record, tripCause := b.tripCause
    tripLatched := b.tripLatched, tripLog := b.tripLog, unready := b.unready, lost := b.lost, lastMs := if power then 0 else b.lastMs
    cold := b.cold || power }

/-- Firmware after a full reset: no update is under way. -/
def Fw.restarted (f : Fw) (power : Bool) : Fw :=
  { f with
    upd := .idle, busy := false, offset := 0
    refusal := if power then 0 else f.refusal, result := if power then 0 else f.result }

/-- Everything a full reset discards is at its reset value (R387); `power`: by a loss of power. (DEDUCED, notes/assumptions/27.md). -/
def State.restart (s : State) (power : Bool) : State :=
  { State.reset with
    pending := s.pending, dict := s.dict.restarted, felt := s.feltRestarted, mem := s.mem.restarted, integ := s.integ.restarted
    power := s.power.restarted, thermal := s.thermal.restarted power, boot := s.boot.restarted power, fuses := s.fuses
    fw := s.fw.restarted power, board := s.board }

/-! ### The start of bring-up (R375, R376) -/

/-- The enable objects of the ports. -/
def tier2Key (p : Nat) : Nat := Obj.tier2Enable0 + p
def peerKey (p : Nat) : Nat := Obj.peerPortEnable + p

/-- The ports and the keys of their enable objects. -/
def portEnables : List (Func × Nat) :=
  [(.tier2 0, tier2Key 0), (.tier2 1, tier2Key 1)] ++ (List.range 18).map fun p => (.peer p, peerKey p)

/-- The domains start to turn on at step 4, each by the sequence of R322; shed rows stay held down (R318).
(DEDUCED, notes/assumptions/62.md). -/
def State.startDomains (s : State) : State :=
  (List.range 20).foldl (fun (t : State) c =>
    if t.rowShed c then t.setFunc (.domain c) .heldDown else t.startEnable (.domain c)) s

/-- INPUT_TRIPPED of the bring-up that follows a trip (R454). -/
def State.logTrip (s : State) : State :=
  if s.boot.tripLog then
    ({ s with boot := { s.boot with tripLog := false } } : State).log 0x9001 sevFatal agentRegulators none s.boot.tripCause
  else s

/-- Steps 1 to 5: the images are selected, the early settings read, the domains powered, and link training starts. `failed`: the
previous bring-up did not come to Ready (R437). (DESIGN CHOICE, notes/assumptions/22.md, DEDUCED, notes/assumptions/38.md). -/
def State.startBringup (s : State) (failed : Bool) : State :=
  let s := ((s.secureBoot failed).earlySettings).logTrip
  let s : State := { s with
    boot := { s.boot with phase := .training, unready := true }
    power := { s.power with allowance := drawDormant * 1000 }
    iface := { s.iface with hostLink := 1 } }
  portEnables.foldl (fun (t : State) e => if t.isOn e.2 then t.startEnable e.1 else t) s.startDomains

/-- Has bring-up been begun and not yet come to Ready? -/
def State.beforeReady (s : State) : Bool := s.boot.phase != .ready && s.boot.phase != .computeReset

/-- A full reset (R387); `failed`: it fails a trial (R437). An update that it interrupts is aborted (R438).
(DEDUCED, notes/assumptions/28.md). -/
def State.fullResetWith (s : State) (failed : Bool) : State :=
  if !s.boot.powered then s
  else
    let upd := s.updating
    let comp := s.fw.comp
    let s := if upd then s.abortedUpdate else s
    let s := (s.restart false).bump Obj.fullResetTotal 1
    let s := if upd then s.log 0x8005 sevError agentHalfManagers none comp else s
    s.startBringup failed

/-- A full reset; a trial that has not come to Ready fails. -/
def State.fullReset (s : State) : State := s.fullResetWith s.boot.unready

/-- The module loses power: everything outside module flash is lost (R340, R387). -/
def State.losePower (s : State) : State :=
  let s := if s.updating then s.abortUpdate else s
  let s := s.restart true
  { s with boot := { s.boot with powered := false, pwrOff := false } }

/-- Power is in window with the enable asserted and no trip latched: bring-up from power-on (R375, R455). -/
def State.powerUp (s : State) : State :=
  let s : State := { s with
    boot := { s.boot with powered := true }, power := { s.power with input := .normal, mv := max 48000 (min 59500 s.power.mv) } }
  (s.bump Obj.fullResetTotal 1).startBringup s.boot.unready

/-- May the module power up? -/
def State.mayPowerUp (s : State) : Bool := !s.boot.powered && s.boot.pwrEn && !s.boot.tripLatched && !s.boot.pwrOff

/-- The input is in window, and the input capacitance is charged. (DESIGN CHOICE, notes/assumptions/22.md). -/
def powerOn (s : State) : State := if s.mayPowerUp then s.powerUp else s

/-- The island's watchdog on the half managers (R387): it counts as unavailability (R396). -/
def halfManagerWatchdog (s : State) : State :=
  if s.boot.powered then ({ s with boot := { s.boot with lost := true } } : State).fullReset else s

/-! ### Links (R377, R378) -/

/-- Does bring-up wait at its step: throttled or tripped, without REFCLK, in HOLDUP, or being powered off (R395)?
(DESIGN CHOICE, notes/assumptions/22.md). -/
def State.bringupHeld (s : State) : Bool := s.thermal.hotBoot || s.thermal.holdover || s.power.input == .holdup || s.boot.pwrOff

/-- The functions of R50. -/
def allFuncs : List Func := [.tiering, .scrub] ++ standbyFuncs ++ dormantFuncs

/-- Every function loses power: each that was not off reaches OFF and writes its entry (R464); one that is held down stays so. -/
def State.allOff (s : State) : State :=
  let s := allFuncs.foldl (fun (t : State) f => if t.isDown f then t else t.reach f .off) s
  { s with power := { s.power with gates := [] } }

/-- Bring-up ends FAILED: the module holds little more than its island, and A descends to the Dormant draw (R325, R386).
(DEDUCED, notes/assumptions/23.md, DEDUCED, notes/assumptions/29.md). -/
def State.bringupFailed (s : State) (cause unit : Nat) : State :=
  let s := (s.log 0x6002 sevFatal agentHalfManagers none (cause % 256 + unit % 256 * 256)).allOff
  { s with
    boot := { s.boot with phase := .failed }, iface := { s.iface with peers := [], t2width := [], t2rate := [], t2bw := [] }
    mem := { s.mem with cap0 := 0, cap1 := 0 }, power := { s.power with descend := some drawDormant } }

/-- A link's record. -/
def State.link (s : State) (sub : Nat) : Link :=
  NMap.lookD s.boot.links sub { trained := false, window := false, result := 2, rate := 0 }

/-- The state with a link's record replaced. -/
def State.setLink (s : State) (sub : Nat) (l : Link) : State := { s with boot := { s.boot with links := NMap.put s.boot.links sub l } }

/-- The function of a port's link. -/
def linkFunc (sub : Nat) : Option Func :=
  if 1 ≤ sub && sub ≤ 18 then some (.peer (sub - 1)) else if sub = 20 then some (.tier2 0) else if sub = 21 then some (.tier2 1)
  else none

/-- May a link train: its port is being enabled and a peer port's group is on, the host port is training, or the half-link's
turn has come? No PLL starts in holdover. -/
def State.mayTrain (s : State) (sub : Nat) : Bool :=
  !s.thermal.holdover && !(s.link sub).trained && (match linkFunc sub with
    | some (.peer p) => (s.func (.peer p)).turningOn && s.func (.domain (18 + p / 9)) == .on
    | some f => (s.func f).turningOn
    | none => (sub == 19 && s.iface.hostLink == 1) || (sub == 22 && s.boot.phase == .training))

/-- The host link is linked at a width and rate, with the IDE streams the host has set up, 0 OFF, 1 IO, 2 IO_CACHEMEM (R399): its session
opens, and the HOST peak follows (R230, R378). (DEDUCED, notes/assumptions/66.md). -/
def State.hostLinked (s : State) (width rate ide : Nat) : State :=
  { s with
    iface := { s.iface with hostLink := 2, hostWidth := width, hostRate := rate, hostIde := ide }
    dict := { s.dict with hostOpen := true }
    bw := { s.bw with lastLink := 512000 * width * rate / 2048 } }

/-- What a port knows once its link is trained: lanes and partner (R407), the expander's capacity and bandwidth (R405). -/
def State.portTrained (s : State) (sub width rate node capacityMiB bandwidth ide : Nat) : State :=
  match linkFunc sub with
  | some (.peer p) => s.adjPeer p fun x => { Peer.idle with
      lanes := if width = 2 then 2 else 4, pair := x.pair, partner := node % 65536, credits := [256, 256, 512], failedL := x.failedL }
  | some (.tier2 p) =>
    let cap := min (2 ^ 21) (capacityMiB / 2)
    let s : State := { s with iface := { s.iface with
      t2width := NMap.put s.iface.t2width p width, t2rate := NMap.put s.iface.t2rate p rate
      t2bw := NMap.put s.iface.t2bw p bandwidth } }
    (if p = 0 then { s with mem := { s.mem with cap0 := cap } } else { s with mem := { s.mem with cap1 := cap } } : State).portBack p
  | _ => if sub = 19 then s.hostLinked width rate ide else s

/-- Are the half-link and every stack trained, so that the fill may run (R375)? -/
def State.memoryTrained (s : State) : Bool := (s.link 22).trained && s.stacks.all fun k => s.boot.hbmTrained.contains k

/-- Step 6 starts once the half-link and every stack are trained. (DESIGN CHOICE, notes/assumptions/22.md). -/
def State.fillTurn (s : State) : State :=
  if s.boot.phase = .training && s.memoryTrained then { s with boot := { s.boot with phase := .fill } } else s

/-- A link's training ends well; its qualification window starts. A stack has no window. -/
def linkTrained (link : LinkId) (width rate node capacityMiB bandwidth ide : Nat) (s : State) : State :=
  match link with
  | .port sub =>
    if !s.mayTrain sub then s
    else ((s.setLink sub { trained := true, window := true, result := 2, rate := 0 }).portTrained sub width rate node capacityMiB
      bandwidth ide).fillTurn
  | .hbm k =>
    if s.boot.phase = .training && s.stacks.contains k && !s.thermal.holdover && s.func (.domain (16 + k / 8)) == .on then
      ({ s with boot := { s.boot with hbmTrained := insertNat s.boot.hbmTrained k } } : State).fillTurn
    else s

/-- A port's link does not serve: HELD_DOWN, with nothing trained, and pages a second-tier port holds LOST (R217). -/
def State.portDown (s : State) (f : Func) : State :=
  let s := if (s.func f).turningOn then s.endEnable f false else s
  match f with
  | .peer p => s.adjPeer p fun x => { Peer.idle with failedL := x.failedL }
  | .tier2 p =>
    let s : State := { s with iface := { s.iface with
      t2width := NMap.del s.iface.t2width p, t2rate := NMap.del s.iface.t2rate p, t2bw := NMap.del s.iface.t2bw p } }
    let s : State := if p = 0 then { s with mem := { s.mem with cap0 := 0 } } else { s with mem := { s.mem with cap1 := 0 } }
    if s.mem.pages.any fun e => e.2.tier == p + 1 && !e.2.lost then
      let s := s.losePages p
      ({ s with iface := { s.iface with t2down := s.iface.t2down.filter fun q => q != p } } : State).retry
    else s
  | _ => s

/-- A link fails its training or its window. (DEDUCED, notes/assumptions/23.md). -/
def State.linkFails (s : State) (sub : Nat) (l : Link) : State :=
  let s := s.setLink sub l
  if sub = 22 then s.bringupFailed 0 0
  else
    let s := s.log 0x6004 sevError agentHalfManagers none (sub + l.rate.toNat * 2 ^ 32)
    match linkFunc sub with
    | some f => s.portDown f
    | none => s

/-- The FEC of a link: symbols in a codeword, symbols corrected, bits in a codeword (R377, R407, R418).
(DESIGN CHOICE, notes/assumptions/70.md). -/
def fecOf (sub : Nat) : Nat × Nat × Nat := if sub ≤ 18 then (544, 15, 5140) else if sub = 22 then (68, 2, 512) else Config.cxlFec

/-- binom(n, k). -/
def binom (n k : Nat) : Nat := (List.range k).foldl (fun c i => c * (n - i) / (i + 1)) 1

/-- The predicted rate of R377 as numerator and denominator, exact; p is at most 1. (DESIGN CHOICE, notes/assumptions/70.md). -/
def linkRate (sub errors received : Nat) : Nat × Nat :=
  let f := fecOf sub
  let b := max 1 received
  let a := if received = 0 then b else min b (errors + 3)
  let terms := (List.range (f.1 + 1)).filter fun k => decide (f.2.1 < k)
  ((terms.map fun k => binom f.1 k * a ^ k * (b - a) ^ (f.1 - k)).foldl (· + ·) 0, b ^ f.1 * max 1 f.2.2)

/-- A link's qualification window ends. -/
def linkQualWindowEnd (link : LinkId) (errors received uncorrectable : Nat) (s : State) : State :=
  match link with
  | .hbm _ => s
  | .port sub =>
    let l := s.link sub
    if !l.trained || !l.window then s
    else
      let r := linkRate sub errors received
      let rate : W32 := BitVec.ofNat 32 (ratioF32 r)
      if r.1 * 10 ^ 15 < r.2 && uncorrectable == 0 then s.setLink sub { trained := true, window := false, result := 0, rate := rate }
      else s.linkFails sub { trained := sub == 19, window := false, result := 1, rate := rate }

/-- A link's training deadline passes without a trained link. (DEDUCED, notes/assumptions/23.md). -/
def linkTrainingDeadline (link : LinkId) (s : State) : State :=
  match link with
  | .hbm k =>
    if s.boot.phase = .training && s.stacks.contains k && !s.boot.hbmTrained.contains k && !s.bringupHeld then s.bringupFailed 1 k
    else s
  | .port sub =>
    if (s.link sub).trained || s.bringupHeld then s
    else
      let due : Bool := match linkFunc sub with
        | some f => (s.func f).turningOn
        | none => (sub == 19 && s.iface.hostLink == 1) || (sub == 22 && s.boot.phase == .training)
      if due then s.linkFails sub { trained := false, window := false, result := 2, rate := 0 } else s

/-! ### The fill (R379) -/

/-- A granule that reads back uncorrectable: a hard fault is recorded and its frame withdrawn; its position is not given.
(DESIGN CHOICE, notes/assumptions/78.md). -/
def State.fillBad (s : State) (granule : Nat) : State :=
  if s.hbmBytes ≤ granule * 64 then s
  else
    let n := s.dict.freeCount
    (s.drawn.hbmHardFault granule (Config.freeNat n)).withdrawFrame (granule * 64 / 2 ^ 21)

/-- The fill ends: every HBM granule and every Felt sector holds zeros with valid check bits; repairs were applied before it. -/
def hbmFillComplete (badGranules : List Nat) (s : State) : State :=
  if s.boot.phase != .fill || s.bringupHeld || !([12, 13, 14, 15].all fun c => s.func (.domain c) == .on) then s
  else
    let s := s.applyRepairs
    let s : State := { s with
      mem := { s.mem with hbm := .empty }, felt := { s.felt with lines := [], accepts := true }
      boot := { s.boot with phase := .broadcast, round := 0, stage := 0 } }
    badGranules.foldl State.fillBad s

/-! ### The firmware broadcast (R380 to R383) -/

/-- The physical tile of a tile control core or issue sequencer. -/
def coreTile (c : Nat) : Option Nat := if c < 72 then some c else if c < 1224 then some ((c - 72) / 16) else none

/-- The image of a core. -/
def coreImage (c : Nat) : Nat :=
  if c < 72 then 1 else if c < 1224 then 2 else if c < 1240 then 0 else if c < 1336 then 3 else if c < 1344 then 4
  else if c < 1376 then 5 else if c < 1394 then 6 else if c < 1400 then 7 else 8

/-- The half a core lies in: its check-value unit snoops the stream. -/
def coreHalf (c : Nat) : Nat :=
  if c < 1224 then physHalf ((coreTile c).getD 0) else if c < 1240 then (c - 1224) / 8 else if c < 1336 then (c - 1240) / 48
  else if c < 1344 then (c - 1336) / 4 else if c < 1376 then (c - 1344) / 16 else if c < 1394 then (c - 1376) / 9
  else if c < 1398 then 0 else if c < 1400 then 1 else c - 1400

/-- Is a core expected to load? -/
def State.coreExpected (s : State) (c : Nat) : Bool :=
  if c < 1224 then !s.fuses.fused.contains ((coreTile c).getD 0)
  else if 1344 ≤ c && c < 1376 then s.stacks.contains ((c - 1344) / 2)
  else decide (c < 1402)

/-- A core that has received nothing. -/
def Core.empty : Core := { bitmap := [], last := [], image := [], verified := false }

/-- A core's receiver. -/
def State.core (s : State) (c : Nat) : Core := NMap.lookD s.boot.cores c Core.empty

/-- A packet as a core keeps it: its bit in the bitmap, LAST and the payload. (DEDUCED, notes/assumptions/24.md). -/
def Core.keep (x : Core) (image pkt last : Nat) (payload : Bytes) : Core :=
  { x with
    bitmap := NMap.upd x.bitmap image [] (insertNat · pkt), last := NMap.put x.last image last
    image := NMap.put x.image (image * 65536 + pkt) payload }

/-- Has the core every packet of an image? -/
def Core.complete (x : Core) (image : Nat) : Bool :=
  match NMap.look x.last image with
  | some n => (List.range (n + 1)).all fun k => (NMap.lookD x.bitmap image []).contains k
  | none => false

/-- The payload of an image held whole. -/
def Core.payload (x : Core) (image : Nat) : Bytes :=
  (List.range (NMap.lookD x.last image 0 + 1)).flatMap fun k => NMap.lookD x.image (image * 65536 + k) []

/-- The image code of the manifest. -/
def manifest : Nat := 0xF

/-- The core checks its image: a digest that differs clears its bitmap. (DEDUCED, notes/assumptions/24.md). -/
def Core.checked (x : Core) (image : Nat) : Core :=
  if x.verified || !x.complete manifest || !x.complete image then x
  else if sha512 (x.payload image) = ((x.payload manifest).drop (64 * image)).take 64 then { x with verified := true }
  else { x with bitmap := NMap.del x.bitmap image }

/-- The unit of a half counts a repeat or a skip; true where the packet goes on to the core. (DEDUCED, notes/assumptions/24.md). -/
def State.snooped (s : State) (half seq core : Nat) : State × Bool :=
  let put (l : List Nat) (t : State) : State := { t with boot := { t.boot with snoop := NMap.put t.boot.snoop half (seq, l) } }
  match NMap.look s.boot.snoop half with
  | none => (put [core] s, true)
  | some (q, taken) =>
    if seq = q then
      if taken.contains core then (put [core] (s.bump Obj.broadcastRepeatDropped 1), false) else (put (core :: taken) s, true)
    else if seq = (q + 1) % 65536 then (put [core] s, true)
    else (put [core] (s.bump Obj.broadcastSkipTotal 1), true)

/-- A receiver takes a packet (R381, R382). While the half managers load, only their image and the manifest are sent.
(DEDUCED, notes/assumptions/24.md). -/
def broadcastPacket (c : Nat) (packet : Bytes) (s : State) : State :=
  let h := leNat (packet.take 16)
  let image := h / 2 ^ 76 % 16
  let pkt := h / 2 ^ 56 % 65536
  let round := h / 2 ^ 38 % 4
  if s.boot.phase != .broadcast || !s.coreExpected c || (s.boot.stage = 0 && image ≠ 0 && image ≠ manifest) then s
  else
    let r := s.snooped (coreHalf c) (h / 2 ^ 80 % 65536) c
    let s := if 1 ≤ round && r.2 then r.1.bump Obj.broadcastRepairPackets 1 else r.1
    let bad := packet.length ≠ 272 || h / 2 ^ 96 ≠ (crc32c (packet.take 12 ++ packet.drop 16)).toNat || h / 2 ^ 72 % 16 ≠ 0 ||
      h % 2 ^ 27 ≠ 0
    let mine := (image == coreImage c || image == manifest) && h / 2 ^ 27 % 2048 == (if round = 0 then 0 else c)
    if r.2 && !bad && mine then
      { s with boot := { s.boot with
        cores := NMap.upd s.boot.cores c Core.empty fun x => x.keep image pkt (h / 2 ^ 40 % 65536) (packet.drop 16) } }
    else s

/-- The cores of a stage that are expected to load. -/
def State.stageCores (s : State) : List Nat :=
  ((List.range 1402).filter s.coreExpected).filter fun c => (coreImage c == 0) == (s.boot.stage == 0)

/-- The cores of the stage check their images. -/
def State.checkCores (s : State) : State :=
  let l := s.stageCores
  { s with boot := { s.boot with
    cores := NMap.mapVals s.boot.cores fun c x => if l.contains c then x.checked (coreImage c) else x } }

/-- CORE_LOAD_FAILED of a core. (DEDUCED, notes/assumptions/25.md). -/
def State.coreFails (s : State) (c : Nat) : State :=
  ({ s with boot := { s.boot with loadFail := insertNat s.boot.loadFail c } } : State).log 0x6003 sevError agentHalfManagers none c

/-- A port whose PHY core has no image is held down. (DEDUCED, notes/assumptions/24.md). -/
def State.phyDown (s : State) (f : Func) : State :=
  match s.func f with
  | .off => s
  | .heldDown => s
  | .on => (s.reach f .heldDown).portDown f
  | _ => s.portDown f

/-- What follows for a core without an image (R383); tiles and VCMP groups read `CoreLoadFailedMask`.
(DEDUCED, notes/assumptions/24.md). -/
def State.coreOutcome (s : State) (c : Nat) : State :=
  if 1336 ≤ c && c < 1344 then s.drawn.log 0x5007 sevFatal agentRegulators none (Config.freeNat s.dict.freeCount % 2 ^ 32)
  else if 1376 ≤ c && c < 1394 then s.phyDown (.peer (c - 1376))
  else if 1394 ≤ c && c < 1396 then
    let s := s.closeHost
    { s with iface := { s.iface with hostLink := 0, hostWidth := 0, hostRate := 0 } }
  else if 1396 ≤ c && c < 1400 then s.phyDown (.tier2 ((c - 1396) / 2))
  else s

/-- Step 8: the settings become one commit, regions are reserved, and the functions are requested as the values say. -/
def State.startManagers (s : State) : State :=
  let s := (s.bringupCommit).fitRegions
  let s := (s.requestFunc .tiering (s.isOn Obj.tieringEnable)).1
  let s := (s.requestFunc .scrub (s.isOn Obj.scrubEnable)).1
  let s := portEnables.foldl (fun (t : State) e => (t.requestFunc e.1 (t.isOn e.2)).1) s
  { s with boot := { s.boot with phase := .selftest } }

/-- A stage of the broadcast is over, `missing` being the cores without a verified image. -/
def State.stageOver (s : State) (missing : List Nat) : State :=
  let s := missing.foldl State.coreFails s
  if s.boot.stage = 0 then
    match missing with
    | [] => { s with boot := { s.boot with stage := 1, round := 0 } }
    | c :: _ => s.bringupFailed 2 (c - 1224)
  else
    let s := missing.foldl State.coreOutcome s
    match missing.find? fun c => decide (1400 ≤ c) with
    | some c => s.bringupFailed 3 (c - 1400)
    | none => s.startManagers

/-- The broadcast pass or a repair round ends: digests are checked, and another round follows while cores miss packets and fewer
than 3 have run. -/
def broadcastRoundEnd (s : State) : State :=
  if s.boot.phase != .broadcast || s.bringupHeld then s
  else
    let s := s.checkCores
    let missing := s.stageCores.filter fun c => !(s.core c).verified
    if !missing.isEmpty && s.boot.round < 3 then { s with boot := { s.boot with round := s.boot.round + 1 } }
    else s.stageOver missing

/-! ### Self-test and binding (R384 to R386) -/

/-- Did a core of a physical tile stay without an image? -/
def State.tileCoreFailed (s : State) (p : Nat) : Bool := s.boot.loadFail.any fun c => coreTile c == some p

/-- May a physical tile be bound or kept as a spare? -/
def State.tileGood (s : State) (p : Nat) : Bool :=
  !s.fuses.fused.contains p && !s.boot.record.contains p && !s.boot.failed.contains p && !s.rowShed (rowDomain p) &&
    !s.tileCoreFailed p && s.func (.domain (rowDomain p)) != .heldDown

/-- The good tiles of a half in row-major order. -/
def State.goodTiles (s : State) (half : Nat) : List Nat := ((List.range 36).map (36 * half + ·)).filter s.tileGood

/-- A half's logical numbers bound to its first good tiles (R14). -/
def State.bindHalf (s : State) (half : Nat) : NMap Nat :=
  let n := Config.tilesPerHalf s.fuses.variant
  ((s.goodTiles half).take n).zipIdx.map fun e => (half * n + e.2, e.1)

/-- A half's spares: up to 4. -/
def State.sparesOf (s : State) (half : Nat) : List Nat := ((s.goodTiles half).drop (Config.tilesPerHalf s.fuses.variant)).take 4

/-- The tiles of the rows that are on rest as R352 states. -/
def State.restAll (s : State) : State :=
  (List.range 72).foldl (fun (t : State) p =>
    t.setSleep p (if t.fuses.fused.contains p || t.func (.domain (rowDomain p)) != .on then .off else t.restOf p)) s

/-- Every bound tile takes its step as its PLL locks. (DEDUCED, notes/assumptions/26.md). -/
def State.lockSteps (s : State) : State :=
  (List.range s.tileCount).foldl (fun (t : State) n =>
    if NMap.has t.boot.binding n && t.stepOf n != (t.tile n).step then t.adjTile n fun x => { x with step := t.stepOf n } else t) s

/-- Logical numbers bound after a full reset, and the unit map computed. (DEDUCED, notes/assumptions/26.md). -/
def State.bindAll (s : State) : State :=
  let s : State := { s with boot := { s.boot with
    binding := s.bindHalf 0 ++ s.bindHalf 1, spares := s.sparesOf 0 ++ s.sparesOf 1, phase := .qualify } }
  let s := s.bindUnitMap
  let s : State := { s with det := { s.det with runMap := s.det.unitMap } }
  s.restAll.lockSteps

/-- The full self-test ends; `failed` are the physical tiles that failed it. -/
def selftestComplete (failed : List Nat) (s : State) : State :=
  if s.boot.phase != .selftest || s.bringupHeld || (List.range 12).any (fun c => (s.func (.domain c)).turningOn) then s
  else
    let bad := (failed.foldl insertNat []).filter fun p => decide (p < 72) && !s.fuses.fused.contains p && !s.boot.record.contains p
    let s := bad.foldl (fun (t : State) p => t.log 0x6005 sevError agentHalfManagers none p) s
    let s : State := { s with boot := { s.boot with failed := bad } }
    match [0, 1].find? fun h => decide ((s.goodTiles h).length < 4) with
    | some h => ({ s with boot := { s.boot with phase := .bind } } : State).bringupFailed 4 h
    | none => s.bindAll

/-! ### Ready (R375, R436) -/

/-- A trial image is confirmed (R436): its security version becomes the floor, and the PRIOR blob is discarded. -/
def State.confirm (s : State) (k : Nat) : State :=
  match s.comp k with
  | none => s
  | some c =>
    if c.status != .trial || !s.slotBoots c c.running then s
    else
      let v := c.running.version
      let svn := c.running.svn
      let s := s.adjComp k fun c => { c with status := .confirmed, svnFloor := svn }
      ({ s with dict := { s.dict with blobPrior := none } } : State).log 0x8003 sevInfo agentHalfManagers none (k + v * 2 ^ 32)

/-- Are all port links qualified or held down? -/
def State.linksSettled (s : State) : Bool := portEnables.all fun e => !(s.func e.1).turningOn

/-- The module is Ready, `elapsedMs` after the origin, once A has come up along the ramp to the compute-idle draw (R325, R379).
(DEDUCED, notes/assumptions/28.md). -/
def bringupComplete (elapsedMs : Nat) (s : State) : State :=
  if s.boot.phase != .qualify || s.bringupHeld || !s.linksSettled || !(s.link 22).trained || (s.link 22).window ||
      s.power.allowance < drawIdle * 1000 then s
  else
    let cold := s.boot.cold
    let down := match s.thermal.tripAt with
      | some t => (s.now - t) / ticksPerMs
      | none => if s.boot.lost then elapsedMs else 0
    let s : State := { s with
      thermal := { s.thermal with tripAt := none }
      boot := { s.boot with phase := .ready, lastMs := elapsedMs, unready := false, cold := false, lost := false }
      dict := if cold && s.dict.lock.isBlocked then { s.dict with lock := .blocked s.now } else s.dict }
    let s := if down = 0 then s else s.bump Obj.unavailableTime down
    let s := s.log 0x6001 sevInfo agentHalfManagers none (elapsedMs % 2 ^ 32)
    let s := if s.num Obj.updateConfirmMode = 0 then (List.range 4).foldl State.confirm s else s
    bwIntervalBoundary [] s

/-! ### The compute reset (R388 to R393) -/

/-- Writing `ComputeReset`: BUSY during bring-up, another compute reset, or an update's flash writes, and outside Active. -/
def State.requestComputeReset (s : State) : State × Nat :=
  if s.boot.phase != .ready || s.fw.upd == .erasing || s.fw.upd == .writing || s.fw.upd == .committing || s.thermal.modSt != .active
  then (s, dBusy)
  else (s.startComputeReset false, dOk)

/-- A tile's state after Lawn has been reset: its port's width and its steps stay. -/
def Tile.restarted (t : Tile) : Tile := { Tile.empty with halfPort := t.halfPort, step := t.step, thermal := t.thermal }

/-- Felt state reset and filled: the bank map and the requests that wait stay; the banks accept requests again. -/
def State.resetFelt (s : State) : State :=
  { s with felt := { Felt.reset with
    retired := s.felt.retired, bankOver := s.felt.bankOver, capacity := s.felt.capacity, waiting := s.felt.waiting, accepts := true } }

/-- The allowance has reached the compute-idle draw: steps 1 to 5 of R389.
(DEDUCED, notes/assumptions/21.md, DEDUCED, notes/assumptions/31.md). -/
def computeResetBegin (s : State) : State :=
  if s.boot.phase != .computeReset || s.boot.crPhase ≠ 1 || drawIdle * 1000 < s.power.allowance || s.bundleChange ||
      s.thermal.modSt != .active then s
  else
    let s := (s.closure.flushAll true).resetFelt
    let s : State := { s with
      tiles := NMap.mapVals s.tiles fun _ t => t.restarted, boot := { s.boot with crPhase := 2 } }
    (s.applyRepairs.retryHost).retry

/-- The place of a physical tile: row and column of the Lawn mesh of its half. -/
def meshHops (p q : Nat) : Nat :=
  ((physRow p - physRow q) + (physRow q - physRow p)) + ((p % 6 - q % 6) + (q % 6 - p % 6))

/-- The physical tiles of the other numbers of a number's square, faulted ones left out. -/
def State.squareTiles (s : State) (n : Nat) : List Nat :=
  ((List.range 4).map (n / 4 * 4 + ·)).filterMap fun m =>
    if m = n || s.ledger.faultMask.contains m then none else NMap.look s.boot.binding m

/-- The sum of a spare's hops to a number's square. -/
def State.hopSum (s : State) (n p : Nat) : Nat := ((s.squareTiles n).map (meshHops p)).foldl (· + ·) 0

/-- The spare with the smallest sum, the first of them in row-major order. -/
def bestSpare (sum : Nat → Nat) : List Nat → Option Nat
  | [] => none
  | p :: l => match bestSpare sum l with
    | none => some p
    | some q => if sum p ≤ sum q then some p else some q

/-- The spare a number receives. -/
def State.spareFor (s : State) (n : Nat) : Option Nat :=
  bestSpare (s.hopSum n) (s.boot.spares.filter fun p => physHalf p == s.halfOfTile n && !s.rowShed (rowDomain p))

/-- A spare bound to a number. -/
def State.bindSpare (s : State) (n p : Nat) : State :=
  let s := s.setTile n Tile.empty
  let s : State := { s with
    boot := { s.boot with
      binding := NMap.put s.boot.binding n p, spares := s.boot.spares.filter fun q => q != p }
    ledger := { s.ledger with faultMask := s.ledger.faultMask.filter fun m => m != n } }
  s.log 0x6006 sevInfo agentHalfManagers none (n + p * 256)

/-- A faulted number served: a spare, or no tile. -/
def State.serveFaulted (s : State) (n : Nat) : State :=
  match s.spareFor n with
  | some p => s.bindSpare n p
  | none =>
    let s : State := { s with
      boot := { s.boot with binding := NMap.del s.boot.binding n }
      ledger := { s.ledger with faultMask := s.ledger.faultMask.filter fun m => m != n } }
    s.log 0x6007 sevFatal agentHalfManagers none n

/-- A tile at half width replaced while spares remain. -/
def State.serveHalfWidth (s : State) (n : Nat) : State :=
  if !(s.tile n).halfPort then s
  else match s.spareFor n, NMap.look s.boot.binding n with
    | some p, some old => ({ s with boot := { s.boot with record := insertNat s.boot.record old } } : State).bindSpare n p
    | _, _ => s

/-- The binding of one half at a compute reset (R392). -/
def State.rebindHalf (s : State) (half : Nat) : State :=
  let mine := (List.range s.tileCount).filter fun n => s.halfOfTile n == half
  let s := (mine.filter fun n => s.ledger.faultMask.contains n).foldl State.serveFaulted s
  mine.foldl State.serveHalfWidth s

/-- A physical tile that fails the short self-test: its number is marked faulted, or the spare leaves the spares. -/
def State.shortFails (s : State) (p : Nat) : State :=
  if 72 ≤ p then s
  else
    let bound := s.logicalOf p
    let spare := s.boot.spares.contains p
    if bound.isNone && !spare then s
    else
      let s : State := { s with boot := { s.boot with
        record := insertNat s.boot.record p, spares := s.boot.spares.filter fun q => q != p } }
      match bound with
      | some n => s.faultTile n
      | none => s

/-- The short self-test ends: binding, the unit map, and Ready, `elapsedMs` after the request. -/
def shortSelftestComplete (failed : List Nat) (elapsedMs : Nat) (s : State) : State :=
  if s.boot.phase != .computeReset || s.boot.crPhase ≠ 2 || s.thermal.modSt != .active then s
  else
    let s := (failed.foldl insertNat []).foldl State.shortFails s
    let s := ((s.rebindHalf 0).rebindHalf 1).bindUnitMap
    let s := s.checkRunMap.restAll
    let unplanned := s.boot.unplanned
    let s : State := { s with
      boot := { s.boot with phase := .ready, crPhase := 0, resetMs := elapsedMs, unplanned := false }
      ledger := { s.ledger with autoReset := false }
      power := { s.power with descend := none } }
    let s := s.applySteps.bump Obj.computeResetTotal 1
    let s := if unplanned then s.bump Obj.unavailableTime elapsedMs else s
    s.log 0x6008 sevInfo agentHalfManagers none (elapsedMs % 2 ^ 32)

end Sys2Proof.Machine
end

