-- ==== Sys2Proof/Machine/Modes.lean ====
section
/-! DEFINITION. Module states (R354 to R356, R366), the input's states and the brown-out sequence (R339 to R341), and the power-off
(R453). -/

set_option Elab.async false

namespace Sys2Proof.Machine

open Sys2Proof

/-! ### Requests (R355, R356, R366) -/

/-- The code of a module state: ACTIVE, STANDBY, DORMANT, CHANGING. -/
def ModSt.code : ModSt → Nat
  | .active => 0
  | .standby => 1
  | .dormant => 2
  | .changing _ => 3

/-- May the module leave Standby: input in window, enough board stages, and cool after a trip? (DEDUCED, notes/assumptions/30.md). -/
def State.mayWake (s : State) : Bool :=
  s.power.input == .normal && !s.power.stageLock && !(s.thermal.tripped && !s.coolEnough)

/-- Writing `ModuleStateRequest`: 0 ACTIVE, 1 STANDBY, 2 DORMANT. (DEDUCED, notes/assumptions/30.md). -/
def State.requestState (s : State) (target : Nat) : State × Nat :=
  if s.beforeReady || s.boot.pwrOff then (s, dBusy)
  else match s.thermal.modSt with
    | .changing _ => (s, dBusy)
    | .active =>
      if target = 0 then (s, dOk)
      else if s.computeIdle && s.boot.phase == .ready then (s.startState target false, dOk)
      else (s, dBusy)
    | .standby =>
      if target = 1 then (s, dOk)
      else if target = 0 then (if s.mayWake then (s.startState 0 false, dOk) else (s, dBusy))
      else if s.computeIdle then (s.startState target false, dOk)
      else (s, dBusy)
    | .dormant =>
      if target = 2 then (s, dOk)
      else if target = 0 then (if s.power.input == .normal then (s.fullReset, dOk) else (s, dBusy))
      else (s, dBusy)

/-! ### Transitions end (R355) -/

/-- A state that was forced during a transition follows it. (DEDUCED, notes/assumptions/31.md). -/
def State.followForced (s : State) : State :=
  match s.thermal.forced with
  | none => s
  | some t =>
    let s : State := { s with thermal := { s.thermal with forced := none } }
    if t = s.thermal.modSt.code then s else (if t = 1 || t = 2 then s.forceState t (t == 2) else s)

/-- Standby is reached: rows and Felt are off, HBM is in self-refresh. -/
def State.enterStandby (s : State) : State := { s with thermal := { s.thermal with modSt := .standby } }

/-- Dormant is reached: the HBM and peer groups and the ports are off too; mappings are discarded, and `LedgerEnable` is OFF (R356). -/
def State.enterDormant (s : State) : State :=
  let s := s.ledgerStop
  { s with mem := s.mem.restarted, thermal := { s.thermal with modSt := .dormant } }

/-- Is everything off that a state turns off: the flush done, rows and Felt off, and for Dormant the groups and ports (R354, R355)? -/
def State.downReady (s : State) (t : Nat) : Bool :=
  !s.felt.accepts && standbyFuncs.all s.isDown && (t != 2 || dormantFuncs.all s.isDown)

/-- Is everything on that Active needs: the Felt domains, and every row that is to be on, unless it is held down (R322, R355)?
(DEDUCED, notes/assumptions/30.md). -/
def State.upReady (s : State) : Bool :=
  ([12, 13, 14, 15].all fun c => s.func (.domain c) == .on) &&
    ((List.range 12).filter s.rowWanted).all fun c => s.func (.domain c) == .on || s.func (.domain c) == .heldDown

/-- Active is reached from Standby: Felt is filled, and its banks accept requests; a compute reset that waited goes on (R388).
(DEDUCED, notes/assumptions/30.md). -/
def State.enterActive (s : State) : State :=
  let down := match s.thermal.tripAt with
    | some t => (s.now - t) / ticksPerMs
    | none => 0
  let s : State := { s with
    thermal := { s.thermal with modSt := .active, tripped := false, tripAt := none }
    felt := { s.felt with lines := [], accepts := true }
    power := { s.power with descend := if s.boot.phase = .computeReset then some drawIdle else none, fast := false } }
  let s := if down = 0 then s else s.bump Obj.unavailableTime down
  (s.applySteps.retryHost).retry

/-- The transition under way ends: towards a lower state once A has come down to its draw and what it turns off is off; towards Active
once what it turns on is on, with REFCLK and the input in window. -/
def moduleStateChangeComplete (s : State) : State :=
  match s.thermal.modSt with
  | .changing t =>
    if s.beforeReady then s
    else if t = 0 then (if s.thermal.holdover || s.power.input != .normal || !s.upReady then s else s.enterActive.followForced)
    else if drawOf t * 1000 < s.power.allowance || !s.downReady t then s
    else (if t = 1 then s.enterStandby else s.enterDormant).followForced
  | _ => s

/-! ### The input (R339 to R341) -/

/-- The input state entered at a voltage; leaving NORMAL ends an update (R438). -/
def State.setInput (s : State) (x : InputSt) (mv : Nat) : State :=
  let s := if x = .normal then s else s.dropUpdate
  { s with power := { s.power with input := x, mv := mv } }

/-- The input is below 48.0 V for 1 ms. -/
def inputLow (mv : Nat) (s : State) : State :=
  if !s.boot.powered || 48000 ≤ mv || s.power.input = .holdup then s
  else
    let new := s.power.input != .low
    let s := s.setInput .low mv
    if new then s.log 0x500C sevError agentRegulators none (mv / 10) else s

/-- Bring-up stops; it starts again at step 1 (R395). -/
def State.stopBringup (s : State) : State :=
  let s := s.closeHost.allOff
  { s with
    boot := { s.boot with phase := .rom, links := [], hbmTrained := [], cores := [], snoop := [], loadFail := [], round := 0, stage := 0 }
    iface := { s.iface with hostLink := 0, peers := [], t2width := [], t2rate := [], t2bw := [] }
    mem := { s.mem with cap0 := 0, cap1 := 0 } }

/-- The input is below 44.0 V for 200 µs: the brown-out sequence starts. The floor and slot waits end. -/
def inputHoldup (mv : Nat) (s : State) : State :=
  if !s.boot.powered || 44000 ≤ mv || s.power.input = .holdup then s
  else
    let s := ((s.setInput .holdup mv).log 0x500D sevFatal agentRegulators none (mv / 10)).releaseFloor
    if s.bringingUp then s.stopBringup
    else
      let a := s.power.allowance
      let s : State := { s with power := { s.power with slotRise := none, slotRef := a, ballast := 0 } }
      if drawIdle * 1000 < a then s.departure 4 (a / 1000 - drawIdle) else s

/-- The input is above 59.5 V for 1 ms. -/
def inputHigh (mv : Nat) (s : State) : State :=
  if !s.boot.powered || mv ≤ 59500 || s.power.input = .holdup then s
  else
    let new := s.power.input != .high
    let s := s.setInput .high mv
    if new then s.log 0x500E sevError agentRegulators none (mv / 10) else s

/-- The input is NORMAL again: a bring-up that a brown-out stopped starts at step 1. -/
def State.inputBack (s : State) (mv : Nat) : State :=
  let s := s.setInput .normal mv
  if s.boot.powered && s.boot.phase == .rom then s.startBringup false else s

/-- The input has been back within the window for 10 ms. -/
def inputNormal (mv : Nat) (s : State) : State :=
  match s.power.input with
  | .normal => s
  | .high => if mv ≤ 59000 then s.inputBack mv else s
  | _ => if 48500 ≤ mv then s.inputBack mv else s

/-- `BrownoutHold` has passed in HOLDUP: work is cancelled, and the module enters Standby, whatever transition was under way. -/
def brownoutHoldExpiry (s : State) : State :=
  if s.power.input != .holdup || !s.boot.powered || s.beforeReady then s
  else match s.thermal.modSt with
    | .standby => s
    | .dormant => s
    | .changing 2 => s.cancelAll
    | _ => s.cancelAll.startState 1 true

/-- The FATAL entries that module flash holds once power is gone: those written at least 10 ms before; of younger ones any may be
lost (R309, R340). (DEDUCED, notes/assumptions/32.md). -/
def keepFatal (now : Nat) : List LogEntry → Nat → List LogEntry
  | [], _ => []
  | e :: l, n => if e.time + 10 * ticksPerMs ≤ now || Config.freeBool n then e :: keepFatal now l (n + 1) else keepFatal now l (n + 1)

/-- Power goes without warning. (DEDUCED, notes/assumptions/32.md). -/
def State.cutPower (s : State) : State :=
  let l := s.integ.fatal
  let kept := keepFatal s.now l s.dict.freeCount
  let s : State := { s with
    integ := { s.integ with fatal := kept }, dict := { s.dict with freeCount := s.dict.freeCount + l.length } }
  s.losePower

/-- The input falls below 40 V: the board stages stop, and the module loses power. -/
def inputBelow40V (s : State) : State := if s.boot.powered then s.cutPower else s

/-! ### The power-off (R453) -/

/-- PWR_EN is deasserted for 1 ms: POWER_OFF_REQUEST is logged, work is cancelled, and A descends to the Dormant draw. -/
def pwrEnDeassert (s : State) : State :=
  let s : State := { s with boot := { s.boot with pwrEn := false } }
  if !s.boot.powered || s.boot.pwrOff then s
  else
    let s := (s.cancelAll.releaseFloor).log 0x9007 sevInfo agentRegulators none 0
    { s with boot := { s.boot with pwrOff := true }, power := { s.power with descend := some drawDormant } }

/-- May the stages stop: A has come down, no bundle change and no flash write is under way? -/
def State.offReadyNow (s : State) : Bool :=
  s.boot.powered && s.boot.pwrOff && decide (s.power.allowance ≤ drawDormant * 1000) && !s.bundleChange && !s.fw.busy &&
    s.fw.upd != .erasing && s.fw.upd != .committing

/-- The flush and the flash writes are done: the stages stop. With PWR_EN asserted meanwhile, bring-up starts.
(DEDUCED, notes/assumptions/32.md). -/
def powerOffComplete (s : State) : State :=
  if !s.offReadyNow then s
  else
    let s := (s.closure.flushAll true).losePower
    if s.mayPowerUp then s.powerUp else s

/-- PWR_EN is asserted; a power-off under way is not cut short. (DEDUCED, notes/assumptions/33.md). -/
def pwrEnAssert (s : State) : State :=
  let s : State := { s with boot := { s.boot with pwrEn := true } }
  if s.mayPowerUp && decide (48000 ≤ s.power.mv) && decide (s.power.mv ≤ 59500) then s.powerUp else s

end Sys2Proof.Machine
end

