-- ==== Sys2Proof/Machine/Iface.lean ====
section
/-! DEFINITION. The external interfaces (ch. 16) besides the peer ports: the host link (R401 to R404, R425), the second-tier links
(R405, R406, R217), the half-link (R418), and Muslin's own messages (R419 to R424). -/

set_option Elab.async false

namespace Sys2Proof.Machine

open Sys2Proof

/-! ### The host link (R404, R453) -/

/-- `OrderScopeMax` = SYSTEM is in force as the link goes: fences of SYSTEM scope degrade, and it is logged once (R159). -/
def State.loseOrder (s : State) : State :=
  if s.num Obj.orderScopeMax = 2 then
    (({ s with iface := { s.iface with orderLost := true } } : State).bump Obj.orderHostLostTotal 1).log 0x2301 sevError agentHost none 0
  else s

/-- The host link leaves the linked state: its session closes, waiting CXL.mem requests are dropped, and the SPDM connection of its
mailbox ends. `unplanned`: the time until its return counts as unavailability (R396). -/
def State.hostGone (s : State) (unplanned : Bool) : State :=
  let s : State := { s with
    iface := { s.iface with hostLink := 0, hostIde := 0, spdmHost := .none, downSince := if unplanned then some s.now else none }
    mem := { s.mem with hostWait := [] } }
  (((s.bump Obj.hostLinkDownTotal 1).log 0x7001 sevError agentHost none 0).loseOrder).closeHost

/-- The host link goes down. -/
def hostLinkDown (s : State) : State := if s.iface.hostLink = 2 then s.hostGone true else s

/-- The host link returns at a width and rate; a lower one than before is logged. COPY entries that wait go on.
(DEDUCED, notes/assumptions/28.md). -/
def hostLinkUp (width rate ide : Nat) (s : State) : State :=
  if !s.boot.powered || s.iface.hostLink = 2 || !(s.link 19).trained then s
  else
    let low := decide (width < s.iface.hostWidth) || decide (rate < s.iface.hostRate)
    let down := match s.iface.downSince with
      | some t => (s.now - t) / ticksPerMs
      | none => 0
    let s := s.hostLinked width rate ide
    let s : State := { s with iface := { s.iface with downSince := none, orderLost := false } }
    let s := if down = 0 then s else s.bump Obj.unavailableTime down
    let d := width + rate * 256
    let s := s.log 0x7002 sevInfo agentHost none d
    let s := if low then s.log 0x7003 sevError agentHost none d else s
    (s.resumeCopies).resumeRings

/-- HOST_PERST_N: the host port is reset, and its link trains again. (DEDUCED, notes/assumptions/28.md). -/
def hostPerstN (s : State) : State :=
  if !s.boot.powered || s.boot.phase == .rom then s
  else
    let s := if s.iface.hostLink = 2 then s.hostGone false else s
    { s with iface := { s.iface with hostLink := 1 } }

/-- Host software commits the HDM decoder with a size in GiB (R401). -/
def hdmDecoderCommit (gib : Nat) (s : State) : State :=
  if s.iface.hostLink = 2 then { s with mem := { s.mem with hdmSize := gib } } else s

/-! ### Second-tier links (R405, R406) -/

/-- A second-tier link drops in service: migrations to the port abort, and accesses to its pages wait (R217, R224).
(DEDUCED, notes/assumptions/66.md). -/
def tier2LinkDown (port : Nat) (s : State) : State :=
  if 2 ≤ port || !NMap.has s.iface.t2width port || s.iface.t2down.contains port then s
  else
    let s : State := { s with iface := { s.iface with t2down := s.iface.t2down ++ [port] } }
    (s.log 0x7101 sevError (0x47 + port) none port).abortTo (port + 1)

/-- The link returns within `Tier2LinkWait`: what waited proceeds. -/
def tier2LinkUp (port : Nat) (s : State) : State :=
  if s.iface.t2down.contains port && NMap.has s.iface.t2width port then s.portBack port else s

/-- The expander's event log is read: each uncorrectable event is counted and logged. -/
def expanderEventPoll (port : Nat) (uncorrectable : List Nat) (s : State) : State :=
  if 2 ≤ port || !s.portLinked port then s
  else uncorrectable.foldl (fun (t : State) code =>
    (t.bump Obj.tier2ExpanderEvents 1).log 0x7102 sevError (0x47 + port) none (port + code % 2 ^ 32 * 2 ^ 32)) s

/-! ### The half-link (R418) -/

/-- A retrain of the half-link fails in service: a full reset starts. (DEDUCED, notes/assumptions/65.md). -/
def halfLinkRetrainFailed (s : State) : State :=
  if !s.boot.powered || s.beforeReady then s
  else ({ s with boot := { s.boot with lost := true } } : State).fullReset

/-! ### Muslin (R419 to R424) -/

/-- Does the port answer Muslin frames? -/
def State.muslinOn (s : State) : Bool := s.boot.powered && s.isOn Obj.muslinEnable

/-- A frame sent. -/
def State.muslinSend (s : State) (type session status : Nat) (dst : Udp) : State :=
  { s with iface := { s.iface with
    muslinTx := s.iface.muslinTx ++ [{ type := type, session := session, status := status, dst := dst }] } }

/-- OPEN: the lowest free session number, or BUSY. (DEDUCED, notes/assumptions/19.md). -/
def muslinOpen (src : Udp) (s : State) : State :=
  if !s.muslinOn then s
  else if s.num Obj.muslinSessionMax ≤ s.dict.sessions.length then s.muslinSend 2 0 dBusy src
  else
    let n := lowestFree (s.dict.sessions.map (·.1)) 0x10
    let s : State := { s with dict := { s.dict with
      sessions := NMap.put s.dict.sessions n { src := src, lastSeq := none, saved := none } } }
    s.muslinSend 2 n dOk src

/-- CLOSE, from the address that opened the session. (DEDUCED, notes/assumptions/19.md). -/
def muslinClose (src : Udp) (session : Nat) (s : State) : State :=
  match NMap.look s.dict.sessions session with
  | some m => if s.muslinOn && m.src == src then s.closeMuslin session else s
  | none => s

/-- The module's IPv6 link-local address: modified EUI-64 of its MAC address (R419). -/
def State.ownAddr (s : State) : Nat :=
  let m := s.fuses.mac
  let at_ (i : Nat) : Nat := (m.getD i 0).toNat
  0xFE80 * 2 ^ 112 + (at_ 0 ^^^ 2) * 2 ^ 56 + at_ 1 * 2 ^ 48 + at_ 2 * 2 ^ 40 + 0xFFFE * 2 ^ 24 + at_ 3 * 2 ^ 16 + at_ 4 * 2 ^ 8 + at_ 5

/-- Is this coordinator's pair of node ID and address the higher one (R336)? (DEDUCED, notes/assumptions/35.md). -/
def State.yieldsTo (s : State) (node addr : Nat) : Bool :=
  let own := s.num Obj.plcaNodeId
  decide (node < own) || (node == own && decide (addr < s.ownAddr))

/-- A frame is timed from outside. (DEDUCED, notes/assumptions/35.md). -/
def State.extFrame (s : State) : State :=
  let t := s.startFrame
  { t with power := { t.power with syncLost := false, frameExt := true, mismatch := false } }

/-- BEACON: it starts a frame where its slots agree with the module's own; between two coordinators the higher pair yields.
(DEDUCED, notes/assumptions/35.md). -/
def beacon (src : Udp) (slotCount slotLength node : Nat) (s : State) : State :=
  if !s.muslinOn || s.num Obj.rampCoordination ≠ 1 then s
  else if s.coordinates && !s.yieldsTo node src.addr then s
  else
    let s : State := if s.coordinates then { s with power := { s.power with coordOff := true } } else s
    if slotCount = s.num Obj.slotCount && slotLength = s.num Obj.slotLength then s.extFrame
    else if s.power.mismatch then s
    else
      ({ s with power := { s.power with mismatch := true } } : State).log 0x7301 sevInfo agentDictionary none
        (slotCount % 256 + slotLength % 65536 * 65536)

/-- RELEASE, whatever its sender. -/
def release (s : State) : State := if s.muslinOn then s.scheduledRelease else s

/-- TIME disciplines the timestamp by its arrival, under `TimeSource` = MUSLIN; `tai` is in ns. (DEDUCED, notes/assumptions/41.md). -/
def time (tai : Nat) (s : State) : State :=
  if !s.muslinOn || s.num Obj.timeSource ≠ 2 then s
  else
    let last := s.thermal.lastTime
    let s : State := { s with thermal := { s.thermal with lastTime := some (tai, s.now), timeLost := false } }
    match last with
    | none => s
    | some (t0, n0) => if t0 < tai && n0 < s.now then s.discipline (s.now - n0) ((tai - t0) * 12 / 10) else s

/-- A frame is discarded and counted (R420, R422). -/
def muslinFrameDiscard (s : State) : State := if s.muslinOn then s.bump Obj.muslinFramesBad 1 else s

end Sys2Proof.Machine
end

