-- ==== Sys2Proof/Machine/Firmware.lean ====
section
/-! DEFINITION. Updates (R432 to R438) and attestation (R441 to R443). The codes and flags of SPDM messages are DMTF's, which the
spec names by its standard. -/

set_option Elab.async false

namespace Sys2Proof.Machine

open Sys2Proof

/-! ### Updates (R432 to R437) -/

/-- `UpdateRefusal` codes: NONE and the reasons of R432 in their order. -/
def refusalBlock : Nat := 1
def refusalPinned : Nat := 2
def refusalBringup : Nat := 3
def refusalRun : Nat := 4
def refusalInput : Nat := 5
def refusalThermal : Nat := 6
def refusalOrder : Nat := 7

/-- The status and reason that refuse a step of an update of component `k`; the first condition that holds decides (R432). -/
def State.updateRefused (s : State) (k : Nat) : Option (Nat × Nat) :=
  if s.isOn Obj.updateBlock then some (dDenied, refusalBlock)
  else if s.isOn Obj.firmwarePin then some (dDenied, refusalPinned)
  else if s.boot.phase != .ready && s.boot.phase != .failed then some (dBusy, refusalBringup)
  else if s.ledger.enable || s.ledger.st != .off then some (dBusy, refusalRun)
  else if s.power.input != .normal then some (dBusy, refusalInput)
  else if s.thermalState ≠ 0 || !s.thermal.hbm.isEmpty then some (dBusy, refusalThermal)
  else if (List.range 4).any (fun j => j != k && (match s.comp j with
      | some c => c.status != .confirmed
      | none => false)) then some (dDenied, refusalOrder)
  else none

/-- A step that R432 refuses or that goes on. -/
def State.unlessRefused (s : State) (k : Nat) (go : State → State × Nat) : State × Nat :=
  match s.updateRefused k with
  | some r => ({ s with fw := { s.fw with refusal := r.2 } }, r.1)
  | none => go s

/-- `UpdateBegin`: the inactive slot is erased (R433). (DEDUCED, notes/assumptions/68.md). -/
def State.beginUpdate (s : State) (k : Nat) : State × Nat :=
  s.unlessRefused k fun s =>
    if s.fw.upd != .idle then (s, dBusy)
    else
      let s := s.adjComp k fun c => c.setInactive fun _ => Slot.blank
      ({ s with fw := { s.fw with upd := .erasing, comp := k, offset := 0, busy := false } }, dOk)

/-- The erase ends. -/
def updateEraseComplete (s : State) : State :=
  if s.fw.upd = .erasing then { s with fw := { s.fw with upd := .writing } } else s

/-- `UpdateData`: 4,096 bytes are placed at `UpdateOffset` and programmed in the background. -/
def State.updateBytes (s : State) (data : Bytes) : State × Nat :=
  if s.fw.upd != .writing || s.fw.busy then (s, dBusy)
  else if slotBytes < s.fw.offset + 4096 then (s, dRange)
  else
    let s := s.adjComp s.fw.comp fun c => c.setInactive fun x =>
      { x with bytes := Memory.writeL x.bytes s.fw.offset data, length := s.fw.offset + 4096 }
    ({ s with fw := { s.fw with offset := s.fw.offset + 4096, busy := true } }, dOk)

/-- A block has been programmed. -/
def updateProgramComplete (s : State) : State := { s with fw := { s.fw with busy := false } }

/-- `UpdateVerify` (R434). -/
def State.verifyUpdate (s : State) : State × Nat :=
  s.unlessRefused s.fw.comp fun s =>
    if s.fw.upd != .writing || s.fw.busy then (s, dBusy) else ({ s with fw := { s.fw with upd := .verifying } }, dOk)

/-- The written slot counts as valid, with the fields of its header. -/
def Slot.verified (x : Slot) : Slot :=
  let h := x.head
  { x with
    valid := true, version := hdrAt h 8 4, svn := hdrAt h 12 2, header := h
    compat := (List.range 4).map fun j => hdrAt h (20 + 4 * j) 4 }

/-- Verification ends: VERIFIED, or IDLE with the slot invalid. -/
def updateVerifyComplete (s : State) : State :=
  if s.fw.upd != .verifying then s
  else
    let r := s.checkUpdate
    let t : State := { s with fw := { s.fw with result := r } }
    if r = urOk then
      let t := t.adjComp t.fw.comp fun c => c.setInactive Slot.verified
      { t with fw := { t.fw with upd := .verified } }
    else t.abortUpdate

/-- The new slot is marked as the next to boot (R435). -/
def State.markPending (s : State) : State :=
  let k := s.fw.comp
  let v := match s.comp k with
    | some c => c.inactive.version
    | none => 0
  let s := s.adjComp k fun c => { c with status := .pending }
  ({ s with fw := { s.fw with upd := .idle } } : State).log 0x8002 sevInfo agentHalfManagers none (k + v * 2 ^ 32)

/-- `UpdateCommit`: the refusals are checked again, and the mark is written; with `reset`, a full reset follows.
(DEDUCED, notes/assumptions/68.md). -/
def State.commitUpdate (s : State) (reset : Bool) : State × Nat :=
  s.unlessRefused s.fw.comp fun s =>
    if s.fw.upd != .verified then (s, dBusy)
    else
      let s := s.markPending
      (if reset then s.fullReset else s, dOk)

/-- `UpdateAbort`. (DEDUCED, notes/assumptions/68.md). -/
def State.stopUpdate (s : State) : State × Nat :=
  if s.fw.upd = .idle then (s, dOk)
  else (s.abortedUpdate, dOk)

/-- `UpdateConfirm`: every TRIAL image is confirmed (R436). (DEDUCED, notes/assumptions/68.md). -/
def State.confirmAll (s : State) : State × Nat :=
  if s.boot.phase != .ready then (s, dBusy) else ((List.range 4).foldl State.confirm s, dOk)

/-- `UpdateTrialTime` lapses under HOST: the trial fails, and a full reset starts (R437). -/
def updateTrialTimeout (s : State) : State :=
  if s.boot.phase = .ready && s.num Obj.updateConfirmMode = 1 && s.fw.comps.any (fun c => c.status == .trial) then
    s.fullResetWith true
  else s

/-! ### SPDM (R441 to R443) -/

/-- The connection of a path. -/
def State.spdm (s : State) (p : SpdmPath) : Spdm :=
  match p with
  | .host => s.iface.spdmHost
  | .muslin => s.iface.spdmMus

/-- The state with the connection of a path replaced. -/
def State.setSpdm (s : State) (p : SpdmPath) (x : Spdm) : State :=
  match p with
  | .host => { s with iface := { s.iface with spdmHost := x } }
  | .muslin => { s with iface := { s.iface with spdmMus := x } }

/-- Is the path open: the host link is linked, or Muslin is on? -/
def State.spdmOpen (s : State) (p : SpdmPath) : Bool :=
  match p with
  | .host => s.boot.powered && s.iface.hostLink == 2
  | .muslin => s.muslinOn

/-- An SPDM error code: INVALID_REQUEST, UNEXPECTED_REQUEST, UNSUPPORTED_REQUEST, LARGE_RESPONSE.
(PRESUMED, notes/assumptions/14.md). -/
def spdmInvalid : Nat := 0x01
def spdmUnexpected : Nat := 0x04
def spdmUnsupported : Nat := 0x07
def spdmLarge : Nat := 0x0F

/-- ERROR. -/
def Spdm.error (x : Spdm) (code : Nat) : Spdm := { x with resp := 0x7F, body := natLE 1 code }

/-- A response: one that is longer than a chunk is kept for CHUNK_GET, and ERROR names its handle. -/
def Spdm.respond (x : Spdm) (code : Nat) (body req : Bytes) : Spdm :=
  let x := { x with log := x.log ++ req ++ body }
  if body.length ≤ 1024 then { x with resp := code, body := body }
  else
    let h := (lowestFree (x.large.map (·.1)) 0) % 256
    { x with large := NMap.put x.large h body, resp := 0x7F, body := natLE 1 spdmLarge ++ natLE 1 h }

/-- A request served on its path. -/
def State.serveSpdm (s : State) (p : SpdmPath) (f : Spdm → Spdm) : State :=
  if s.spdmOpen p then s.setSpdm p (f (s.spdm p)) else s

/-- A request that needs the connection to have come to a phase. -/
def Spdm.needs (x : Spdm) (phase : Nat) (f : Spdm → Spdm) : Spdm := if x.phase < phase then x.error spdmUnexpected else f x

/-- GET_VERSION: the connection starts anew; the version is 1.3. (PRESUMED, notes/assumptions/14.md). -/
def getVersion (p : SpdmPath) (s : State) : State :=
  s.serveSpdm p fun _ => ({ Spdm.none with phase := 1 } : Spdm).respond 0x04 (natLE 1 0x13) (natLE 1 0x84)

/-- The capability flags: certificates, challenge, signed measurements and chunks; on the host path encryption, MAC and key
exchange too. (PRESUMED, notes/assumptions/14.md). -/
def spdmFlags (p : SpdmPath) : Nat := 2 ^ 1 + 2 ^ 2 + 2 ^ 4 + 2 ^ 17 + (match p with
  | .host => 2 ^ 6 + 2 ^ 7 + 2 ^ 9
  | .muslin => 0)

/-- GET_CAPABILITIES. -/
def getCapabilities (p : SpdmPath) (s : State) : State :=
  s.serveSpdm p fun x => x.needs 1 fun x => ({ x with phase := 2 } : Spdm).respond 0x61 (natLE 4 (spdmFlags p)) (natLE 1 0xE1)

/-- NEGOTIATE_ALGORITHMS: ECDSA P-521 and SHA-512 must be offered; secp521r1 and AES-256-GCM are taken where they are. -/
def negotiateAlgorithms (p : SpdmPath) (asym hash dhe aead : Nat) (s : State) : State :=
  s.serveSpdm p fun x => x.needs 2 fun x =>
    if !natBit asym 8 || !natBit hash 2 then x.error spdmInvalid
    else
      let pick (v b : Nat) : Nat := if natBit v b then 2 ^ b else 0
      ({ x with phase := 3 } : Spdm).respond 0x63
        (natLE 4 (2 ^ 8) ++ natLE 4 (2 ^ 2) ++ natLE 2 (pick dhe 5) ++ natLE 2 (pick aead 1)) (natLE 1 0xE3)

/-- GET_DIGESTS: slot 0 alone is provisioned. -/
def getDigests (p : SpdmPath) (s : State) : State :=
  s.serveSpdm p fun x => x.needs 3 fun x => x.respond 0x01 (natLE 1 1 ++ sha512 (Config.certChain 0)) (natLE 1 0x81)

/-- GET_CERTIFICATE: a portion of the chain of slot 0, and how much remains. -/
def getCertificate (p : SpdmPath) (slot offset length : Nat) (s : State) : State :=
  s.serveSpdm p fun x => x.needs 3 fun x =>
    let chain := Config.certChain 0
    if slot ≠ 0 || chain.length < offset then x.error spdmInvalid
    else
      let part := (chain.drop offset).take length
      x.respond 0x02 (natLE 2 part.length ++ natLE 2 (chain.length - offset - part.length) ++ part) (natLE 1 0x82)

/-- CHALLENGE: the chain's digest and a fresh nonce, signed with the transcript. -/
def challenge (p : SpdmPath) (slot : Nat) (nonce : Bytes) (s : State) : State :=
  let fresh := natLE 32 (Config.nonce s.dict.freeCount).toNat
  s.drawn.serveSpdm p fun x => x.needs 3 fun x =>
    if slot ≠ 0 then x.error spdmInvalid
    else
      let body := sha512 (Config.certChain 0) ++ fresh
      x.respond 0x03 (body ++ Config.deviceSign (x.log ++ natLE 1 0x83 ++ nonce ++ body)) (natLE 1 0x83 ++ nonce)

/-- The part number of a variant (R25). -/
def partNumber (variant : Nat) : Bytes :=
  ("PZX-72" ++ (if variant = 0 then "64" else if variant = 1 then "56" else "48") ++ "-LM").toList.map fun c =>
    BitVec.ofNat 8 c.toNat

/-- The value of a measurement block (R443). -/
def State.measurement (s : State) (i : Nat) : Bytes :=
  if i = 1 then s.fuses.romHash
  else if i ≤ 5 then (match s.comp (i - 2) with
    | some c => sha512 (c.header (i - 2))
    | none => [])
  else if i = 6 then sha512 (partNumber s.fuses.variant ++ s.fuses.serial ++ natLE 2 s.fuses.hwRev)
  else if i = 7 then sha512 s.blobNow.bytes
  else natLE 32 s.det.unitMap.toNat

/-- A block in DMTF measurement format: block 8 is raw, the others are digests. -/
def State.measureBlock (s : State) (i : Nat) : Bytes :=
  let v := s.measurement i
  natLE 1 i ++ natLE 1 1 ++ natLE 2 (3 + v.length) ++ natLE 1 (if i = 8 then 0x80 else 0) ++ natLE 2 v.length ++ v

/-- Signed GET_MEASUREMENTS: the number of blocks, one block, or all. -/
def getMeasurements (p : SpdmPath) (index : Nat) (nonce : Bytes) (s : State) : State :=
  let fresh := natLE 32 (Config.nonce s.dict.freeCount).toNat
  s.drawn.serveSpdm p fun x => x.needs 3 fun x =>
    let blocks := if index = 0 then natLE 1 8 else if index = 0xFF then (List.range 8).flatMap fun i => s.measureBlock (i + 1)
      else s.measureBlock index
    if 8 < index && index ≠ 0xFF then x.error spdmInvalid
    else
      let body := blocks ++ fresh
      x.respond 0x60 (body ++ Config.deviceSign (x.log ++ natLE 1 0xE0 ++ natLE 1 index ++ nonce ++ body))
        (natLE 1 0xE0 ++ natLE 1 index ++ nonce)

/-- CHUNK_SEND: chunks of at most 1,024 bytes, in order from 0. -/
def chunkSend (p : SpdmPath) (handle seq : Nat) (last : Bool) (data : Bytes) (s : State) : State :=
  s.serveSpdm p fun x => x.needs 3 fun x =>
    if seq ≠ (if seq = 0 then 0 else x.chunkNo) || 1024 < data.length || (!last && data.length ≠ 1024) then x.error spdmInvalid
    else
      let old := if seq = 0 then [] else NMap.lookD x.chunks handle []
      { x with
        chunks := NMap.put x.chunks handle (old ++ data), chunkNo := if last then 0 else seq + 1, resp := 0x05
        body := natLE 1 handle ++ natLE 4 seq }

/-- CHUNK_GET: a chunk of a large response that is kept. -/
def chunkGet (p : SpdmPath) (handle seq : Nat) (s : State) : State :=
  s.serveSpdm p fun x => x.needs 3 fun x =>
    match NMap.look x.large handle with
    | none => x.error spdmInvalid
    | some b =>
      if b.length ≤ 1024 * seq then x.error spdmInvalid
      else
        let part := (b.drop (1024 * seq)).take 1024
        let final := decide (b.length ≤ 1024 * (seq + 1))
        { x with
          large := if final then NMap.del x.large handle else x.large, resp := 0x06
          body := natLE 1 (bit01 final) ++ natLE 1 handle ++ natLE 4 seq ++ part }

/-- A request of the host path only. -/
def Spdm.hostOnly (x : Spdm) (p : SpdmPath) (f : Spdm → Spdm) : Spdm :=
  match p with
  | .host => x.needs 3 f
  | .muslin => x.error spdmUnsupported

/-- KEY_EX: a session is offered; the responder's exchange data are fresh, and signed. -/
def keyEx (p : SpdmPath) (exchange : Bytes) (s : State) : State :=
  let fresh := (Config.freeBytes s.dict.freeCount).take 132
  s.drawn.serveSpdm p fun x => x.hostOnly p fun x =>
    let x := { x with session := true, keyed := false }
    x.respond 0x64 (fresh ++ Config.deviceSign (x.log ++ natLE 1 0xE4 ++ exchange ++ fresh)) (natLE 1 0xE4 ++ exchange)

/-- FINISH: the requester's MAC over the transcript completes the session. -/
def finish (p : SpdmPath) (mac : Bytes) (s : State) : State :=
  s.serveSpdm p fun x => x.hostOnly p fun x =>
    if !x.session || x.keyed then x.error spdmUnexpected
    else if mac = Config.sessionMac x.log then ({ x with keyed := true } : Spdm).respond 0x65 [] (natLE 1 0xE5)
    else ({ x with session := false } : Spdm).error spdmInvalid

/-- END_SESSION. (PRESUMED, notes/assumptions/14.md). -/
def endSession (p : SpdmPath) (s : State) : State :=
  s.serveSpdm p fun x => x.hostOnly p fun x =>
    if x.session then ({ x with session := false, keyed := false } : Spdm).respond 0x6C [] (natLE 1 0xEC)
    else x.error spdmUnexpected

end Sys2Proof.Machine
end

