-- ==== Sys2Proof/Machine/Board.lean ====
section
/-! DEFINITION. The board (ch. 18): RESET_N and the MGMT_AUX pins (R451 to R453), the input protection (R454), the coolant
(R458, R459), and the ALERT_N output. -/

set_option Elab.async false

namespace Sys2Proof.Machine

open Sys2Proof

/-! ### Pins (R452, R453) -/

/-- RESET_N low for 10 µs or longer. -/
def resetN (s : State) : State := s.fullReset

/-- The owner of a MGMT_AUX pin. -/
def State.pinOwner (s : State) (pin : Nat) : PinOwner :=
  if pin = 0 then s.dict.claims.aux0 else if pin = 1 then s.dict.claims.aux1 else .none

/-- A pulse of at least 100 ns on the pin that DEBUG_TRIGGER owns: the trace stream is marked where the trace port runs.
(DEDUCED, notes/assumptions/74.md). -/
def debugTrigger (pin : Nat) (s : State) : State :=
  if !s.boot.powered || s.pinOwner pin != .debugTrigger then s
  else
    let s : State := if s.dict.claims.trace = 0 then s else { s with board := { s.board with marks := s.board.marks + 1 } }
    (s.bump Obj.debugTriggerTotal 1).log 0x9006 sevInfo agentHalfManagers none pin

/-- A pulse of another width on an owned pin: counted, and logged at most once a second. (DEDUCED, notes/assumptions/74.md). -/
def auxPulseInvalid (pin micros : Nat) (s : State) : State :=
  if !s.boot.powered || s.pinOwner pin == .none then s
  else
    let s := s.bump Obj.auxPulseInvalidTotal 1
    if s.limitOpen 0x90050000 ticksPerS then
      (s.limitMark 0x90050000).log 0x9005 sevInfo agentHalfManagers none (pin + micros % 2 ^ 24 * 256)
    else s

/-- Is ALERT_N driven low? (DEDUCED, notes/assumptions/74.md). -/
def State.alert (s : State) : Bool :=
  s.boot.powered && (s.integ.alertHold || s.power.input != .normal || s.throttled || s.board.coolant != 0)

/-! ### The input protection (R454) -/

/-- `InputTripCause` codes. -/
def tripCode : TripCause → Nat
  | .overcurrent => 1
  | .overvoltage => 2

/-- The protection trips and disconnects the module; the cause stays latched. (DEDUCED, notes/assumptions/33.md). -/
def inputTripped (cause : TripCause) (s : State) : State :=
  if !s.boot.powered then s
  else
    let s := s.cutPower
    { s with boot := { s.boot with tripCause := tripCode cause, tripLatched := true, tripLog := true } }

/-- PWR_EN has been deasserted for 100 ms: the trip is re-armed. (DEDUCED, notes/assumptions/33.md). -/
def inputTripRearm (s : State) : State :=
  if s.boot.pwrEn then s else { s with boot := { s.boot with tripLatched := false } }

/-! ### The coolant (R459) -/

/-- The flow estimate in 0.01 L/min: 6.0 × √(ΔP / 35 kPa), ΔP in 0.1 kPa. -/
def flowCenti (deltaP : Int) : Nat := Nat.sqrt (360000 * deltaP.toNat / 350)

/-- A bit of `CoolantState` follows its condition: it sets once the condition has held 10 s, logging its event, and clears once
it has been absent for 60 s. -/
def State.coolantBit (s : State) (bit : Nat) (now held : Bool) (detail : Nat) : State :=
  let set := natBit s.board.coolant bit
  if now then
    let s : State := { s with board := { s.board with absent := NMap.del s.board.absent bit } }
    if held && !set then
      ({ s with board := { s.board with coolant := s.board.coolant + 2 ^ bit } } : State).log (0x9002 + bit) sevError agentThermal
        none detail
    else s
  else if !set then s
  else match NMap.look s.board.absent bit with
    | none => { s with board := { s.board with absent := NMap.put s.board.absent bit s.now } }
    | some t =>
      if s.passed t (60 * ticksPerS) then
        { s with board := { s.board with coolant := s.board.coolant - 2 ^ bit, absent := NMap.del s.board.absent bit } }
      else s

/-- The board's coolant sensors are read, in 0.1 °C and 0.1 kPa; the flags say which conditions have held for 10 s. Flow is below
5.0 L/min where ΔP is below 35 kPa × 25 / 36. -/
def coolantCheck (inlet deltaP dew : Int) (inletHigh flowLow dewLow : Bool) (s : State) : State :=
  if !s.boot.powered then s
  else
    let s : State := { s with board := { s.board with inlet := inlet, deltaP := deltaP, dew := dew } }
    let t (x : Int) : Nat := (x % 65536).toNat
    let s := s.coolantBit 0 (decide (450 < inlet)) inletHigh (t inlet)
    let s := s.coolantBit 1 (decide (36 * deltaP < 8750)) flowLow (flowCenti deltaP % 65536)
    s.coolantBit 2 (decide (inlet < dew + 20)) dewLow (t inlet + t dew * 65536)

end Sys2Proof.Machine
end

