-- ==== Sys2Proof/Machine/Reads.lean ====
section
/-! DEFINITION. What a read of each dictionary object returns (the object tables of chapters 2 to 18). Objects that a write sets
hold their value in force; counters hold their count; every other object is read from the state it reports. -/

set_option Elab.async false

namespace Sys2Proof.Machine

open Sys2Proof

/-! ### Encodings -/

/-- A text as its bytes. -/
def textBytes (x : String) : Bytes := x.toList.map fun c => BitVec.ofNat 8 c.toNat

/-- A number in hundredths, or another fraction, as a binary32. -/
def ratioBytes (n : Int) (d : Nat) : Bytes :=
  natLE 4 (f32.ofVal (FVal.div (.fin ⟨decide (n < 0), n.natAbs, 0⟩) (.fin ⟨false, d, 0⟩)))

/-- Fields of one width packed from bit 0 on. -/
def packFields (width : Nat) : List Nat → Nat
  | [] => 0
  | x :: l => x % 2 ^ width + 2 ^ width * packFields width l

/-- Owner codes (R48, R52). -/
def PinOwner.code : PinOwner → Nat
  | .none => 0
  | .pps => 1
  | .rampSync => 2
  | .debugTrigger => 3
def StageOwner.code : StageOwner → Nat
  | .free => 0
  | .tiering => 1
  | .collective => 2
def TimerOwner.code : TimerOwner → Nat
  | .free => 0
  | .thermalGrace => 1
  | .rampSched => 2
  | .barrierWd => 3
  | .scrubPace => 4
  | .perfSample => 5

/-- `LockState`. -/
def LockSt.code : LockSt → Nat
  | .closed => 0
  | .opened _ _ => 1
  | .blocked _ => 2

/-- `LedgerState`. -/
def LedgerSt.code : LedgerSt → Nat
  | .off => 0
  | .running => 1
  | .draining => 2
  | .stalled => 3
  | .error => 4

/-- `SchedState`. -/
def SchedSt.code : SchedSt → Nat
  | .running => 0
  | .pausing => 1
  | .paused => 2

/-- `FleeceState`. -/
def FleeceSt.code : FleeceSt → Nat
  | .off => 0
  | .armed => 1
  | .holding => 2
  | .releasing => 3

/-- `InputState`. -/
def InputSt.code : InputSt → Nat
  | .normal => 0
  | .low => 1
  | .holdup => 2
  | .high => 3

/-- `BringupState`. -/
def Bringup.code : Bringup → Nat
  | .rom => 0
  | .regulators => 1
  | .training => 2
  | .fill => 3
  | .broadcast => 4
  | .selftest => 5
  | .bind => 6
  | .qualify => 7
  | .ready => 8
  | .computeReset => 9
  | .failed => 10

/-- `UpdateState`. -/
def UpdSt.code : UpdSt → Nat
  | .idle => 0
  | .erasing => 1
  | .writing => 2
  | .verifying => 3
  | .verified => 4
  | .committing => 5

/-- `ComponentStatus`. -/
def CompSt.code : CompSt → Nat
  | .confirmed => 0
  | .pending => 1
  | .trial => 2

/-- The 32 bytes of a log entry (R306). -/
def LogEntry.bytes (e : LogEntry) : Bytes :=
  natLE 8 e.time ++ natLE 8 (e.seq % 2 ^ 32 + e.agent % 256 * 2 ^ 32 + e.sev % 4 * 2 ^ 46 + e.code % 2 ^ 16 * 2 ^ 48) ++
    natLE 8 (e.addr % 2 ^ 57 + e.space % 8 * 2 ^ 60 + bit01 e.valid * 2 ^ 63) ++ natLE 8 e.detail.toNat

/-- The level-0 entry of a page (R203). -/
def Page.entryWord (p : Page) : Nat :=
  2 ^ 63 + bit01 p.write * 2 ^ 62 + p.tier % 4 * 2 ^ 60 + bit01 p.pin * 2 ^ 59 + bit01 p.migrating * 2 ^ 58 +
    bit01 p.lost * 2 ^ 57 + p.frame % 2 ^ 22 * 2 ^ 32 +
    (if p.migrating then p.destTier % 4 * 2 ^ 30 + p.destFrame % 2 ^ 22 * 2 ^ 8 else 0)

/-- The tracking record of a page (R204). -/
def Page.record (p : Page) : Nat :=
  p.copied.toNat + p.migrations % 2 ^ 16 * 2 ^ 32 + p.heat % 2 ^ 16 * 2 ^ 48 + p.touched.toNat * 2 ^ 64 + p.zeromask.toNat * 2 ^ 96

/-! ### Readings the spec does not fix -/

/-- A reading that is a free value at each read. (DESIGN CHOICE, notes/assumptions/10.md). -/
def State.freeReading (s : State) (n : Nat) : Bytes := natLE n (Config.free32 s.dict.freeCount).toNat

/-- A temperature in 0.01 °C as a binary32; a sensor without a reading yet gives a free value. -/
def State.centiF32 (s : State) (t : Option Int) : Bytes :=
  match t with
  | some c => ratioBytes c 100
  | none => s.freeReading 4

/-- The governing value of a sensor. -/
def State.govOf (s : State) (k : Nat) : Option Int := (NMap.look s.thermal.sensors k).map fun x => x.gov

/-- The highest of a list of temperatures. -/
def hottest : List Int → Option Int
  | [] => none
  | x :: l => some (l.foldl max x)

/-- `VcmpSetPoint`, mV (R349): the step voltage of the fastest tile in Run or Idle with the wear margin; with no such tile the
spec states none. -/
def stepMv : List Nat := [750, 720, 690, 665, 640, 620, 600, 600]
def State.vcmpMv (s : State) : Nat :=
  let live := (List.range s.tileCount).filter fun n => match NMap.look s.boot.binding n with
    | some p => s.sleepOf p == .run || s.sleepOf p == .idle || !(s.tile n).blocks.isEmpty
    | none => false
  match live.map fun n => (s.tile n).step with
  | [] => 600 + (Config.free32 s.dict.freeCount).toNat % 221
  | x :: l => stepMv.getD (l.foldl min x) 600 + min 70 (Config.wearMargin s.now)

/-- The objects whose reading may be a free value: each read draws one. (DESIGN CHOICE, notes/assumptions/10.md). -/
def readDraws (key : Nat) : Bool :=
  key == Obj.lockNonce || key == Obj.vcmpSetPoint || (decide (0x511001 ≤ key) && decide (key ≤ 0x511340)) ||
    key == Obj.coolantOutletTemp || key == Obj.boardHumidity || key == Obj.auxPinLevel ||
    (decide (Obj.boardTemp ≤ key) && decide (key < Obj.boardTemp + 4))

/-! ### Objects by chapter -/

/-- Chapter 2. -/
def State.readCh2 (s : State) (sid key : Nat) : Bytes :=
  let c := s.dict.claims
  if key = Obj.vendorName then textBytes "Parzipor"
  else if key = Obj.partNumber then partNumber s.fuses.variant
  else if key = Obj.serialNumber then s.fuses.serial
  else if key = Obj.hardwareRevision then natLE 2 s.fuses.hwRev
  else if key = Obj.firmwareVersion then natLE 4 s.firmwareVersion
  else if key = Obj.dictionaryVersion then natLE 2 s.fw.dictVersion
  else if key = Obj.sessionId then natLE 2 sid
  else if key = Obj.leaseHolder then natLE 2 (s.dict.lease.getD 0)
  else if key = Obj.lockState then natLE 1 s.dict.lock.code
  else if key = Obj.lockNonce then natLE 32 (Config.nonce s.dict.freeCount).toNat
  else if key = Obj.lockFailCount then natLE 1 s.dict.failCount
  else if key = Obj.sessionCount then natLE 1 (bit01 s.dict.hostOpen + s.dict.sessions.length)
  else if key = Obj.stageCount then natLE 2 s.dict.staged.length
  else if key = Obj.commitState then natLE 1 (bit01 s.dict.queued.isSome)
  else if key = Obj.commitResult then natLE 2 s.dict.commitRes
  else if key = Obj.configGeneration then natLE 4 s.dict.configGen
  else if key = Obj.stagedList then s.dict.staged.flatMap fun e => natLE 4 (e.1 / 256 * 65536 + e.1 % 256 * 256)
  else if key = Obj.aux0Owner then natLE 1 c.aux0.code
  else if key = Obj.aux1Owner then natLE 1 c.aux1.code
  else if key = Obj.stagingOwnerH0 then natLE 2 (packFields 2 (c.stage0.map StageOwner.code))
  else if key = Obj.stagingOwnerH1 then natLE 2 (packFields 2 (c.stage1.map StageOwner.code))
  else if key = Obj.timerOwnerH0 then natLE 2 (packFields 4 (c.timer0.map TimerOwner.code))
  else if key = Obj.timerOwnerH1 then natLE 2 (packFields 4 (c.timer1.map TimerOwner.code))
  else if key = Obj.tracePortOwner then natLE 1 c.trace
  else natLE 4 (s.counter key)

/-- `FeltRetiredMap`: banks fused or retired in service. -/
def State.retiredMap (s : State) : Nat :=
  maskOf ((List.range 2048).filter fun b =>
    decide (s.banksPerHalf ≤ b % 1024) || s.felt.retired.contains (b / 1024, b % 1024 / 4))

/-- Chapter 7. -/
def State.readFelt (s : State) (key : Nat) : Bytes :=
  if key = Obj.feltCapacity then natLE 8 s.feltBytes
  else if key = Obj.feltBanksRetired then natLE 2 (4 * s.felt.retired.length)
  else if key = Obj.feltRetiredMap then natLE 256 s.retiredMap
  else if key = Obj.feltHomeHalfMask then natLE 8 0x2020202000
  else if key = Obj.feltFlushState then natLE 1 (bit01 (s.felt.flush != 0))
  else natLE 8 (s.counter key)

/-- Mapped pages, window included. -/
def State.pagesMappedNow (s : State) : Nat :=
  (s.mem.pages.filter fun e => decide (e.1 < windowVpn)).length + runFrames s.mem.regions.window

/-- `PageQueryResult` of the page at `PageQueryAddress`. -/
def State.pageQuery (s : State) : Bytes :=
  match s.page (s.num Obj.pageQueryAddress / 2 ^ 21) with
  | some p => natLE 8 p.entryWord ++ natLE 16 p.record
  | none => natLE 24 0

/-- Chapter 8. (DEDUCED, notes/assumptions/56.md). -/
def State.readTier (s : State) (key : Nat) : Bytes :=
  let up (p : Nat) : Bool := s.portLinked p
  if key = Obj.tieringState then natLE 1 (s.func .tiering).code
  else if key = Obj.hbmCapacity then natLE 8 s.hbmBytes
  else if key = Obj.hbmFramesTotal then natLE 4 s.hbmFrames
  else if key = Obj.hbmFramesFree then natLE 4 s.hbmFree
  else if key = Obj.hbmFramesReserved then natLE 4 (192 + runFrames s.mem.regions.runs)
  else if key = Obj.hbmFramesWithdrawn then natLE 4 s.withdrawnCount
  else if key = Obj.regionFramesPending then natLE 4 s.mem.regions.pending.length
  else if key = Obj.tier2Capacity0 then natLE 8 (if up 0 then s.mem.cap0 * 2 ^ 21 else 0)
  else if key = Obj.tier2Capacity1 then natLE 8 (if up 1 then s.mem.cap1 * 2 ^ 21 else 0)
  else if key = Obj.tier2FramesFree0 then natLE 4 (s.freeCount 1)
  else if key = Obj.tier2FramesFree1 then natLE 4 (s.freeCount 2)
  else if key = Obj.pagesMapped then natLE 4 s.pagesMappedNow
  else if key = Obj.pageQueryResult then s.pageQuery
  else natLE 8 (s.counter key)

/-- Chapter 9: target t at index 0x3230 + t, 0x3240 + t; subindex t + 1 of 0x3250 and 0x3251. -/
def State.readBw (s : State) (index sub : Nat) : Bytes :=
  let key := index * 256 + sub
  if key = Obj.bwOvercommitMask then natLE 1 s.bw.overMask
  else if 0x3230 ≤ index && index ≤ 0x3236 then
    let t := index - 0x3230
    natLE 4 (NMap.lookD s.bw.effective (t * 8 + sub) (if s.targetPresent t then s.num (keyMin t sub) else 0))
  else if 0x3240 ≤ index && index ≤ 0x3247 then
    natLE 8 (s.counter key + (if s.bw.wrapped.contains key then 2 ^ 63 else 0))
  else if index = 0x3250 then natLE 4 (s.bwD (sub - 1))
  else if index = 0x3251 then natLE 4 (ratioF32 (NMap.lookD s.bw.scale (sub - 1) (1, 1)))
  else natLE 8 (s.counter key)

/-- Chapter 10. -/
def State.readLedger (s : State) (key : Nat) : Bytes :=
  if key = Obj.ledgerState then natLE 1 s.ledger.st.code
  else if key = Obj.ledgerSeq then natLE 8 s.ledger.seq
  else if key = Obj.aliveExpected then natLE 1 s.ledger.alive
  else if key = Obj.completionProduced then natLE 8 s.ledger.produced
  else if key = Obj.schedState then natLE 1 s.ledger.sched.code
  else if key = Obj.tileFaultedMask then natLE 8 (maskOf s.ledger.faultMask)
  else natLE 8 (s.counter key)

/-- Chapter 11. -/
def State.readDet (s : State) (key : Nat) : Bytes :=
  if key = Obj.rngSeedWritten then natLE 1 (bit01 s.det.seedSet)
  else if key = Obj.stepCounter then natLE 8 s.det.step.toNat
  else if key = Obj.unitMap then natLE 32 s.det.unitMap.toNat
  else if key = Obj.unitMapId then natLE 4 (unitMapId s.det.unitMap)
  else if key = Obj.runReproducible then natLE 1 (bit01 s.reproducible)
  else if key = Obj.checkpointRecord then s.checkpoint
  else if key = Obj.resumeResult then natLE 1 s.det.resume
  else if key = Obj.rngProbeInput then s.det.probe
  else if key = Obj.rngProbeOutput then natLE 8 s.probeOut.toNat
  else natLE 8 s.det.faultStep.toNat

/-- 1,024 slots of the ring from a slot on; a slot never written reads as zero. -/
def State.ringBytes (s : State) (first : Nat) : Bytes :=
  (List.range 1024).flatMap fun i => match NMap.look s.integ.ring (first + i) with
    | some e => e.bytes
    | none => natLE 32 0

/-- The flash ring: the entries kept, oldest first, and zeros. -/
def State.fatalBytes (s : State) : Bytes :=
  s.integ.fatal.flatMap LogEntry.bytes ++ List.replicate (32 * (1024 - s.integ.fatal.length)) 0

/-- Chapter 12. -/
def State.readInteg (s : State) (key len : Nat) : Bytes :=
  if key = Obj.scrubState then natLE 1 (s.func .scrub).code
  else if key = Obj.repairPending then natLE 2 (s.integ.store.filter fun f => !f.applied).length
  else if key = Obj.repairStoreFree then natLE 2 (1024 - s.integ.store.length)
  else if key = Obj.tilePortHalfMask then natLE 8 (maskOf ((List.range s.tileCount).filter fun n => (s.tile n).halfPort))
  else if key = Obj.hbmChannelsRetired then natLE 32 (maskOf (s.mem.channels.map fun c => 16 * c.1 + c.2))
  else if key = Obj.errorLogHead then natLE 4 s.integ.head
  else if key = Obj.errorLogAck then natLE 4 s.integ.ack
  else if key = Obj.fatalLogCount then natLE 2 s.integ.fatal.length
  else if Obj.errorLogRing ≤ key && key ≤ Obj.errorLogRing + 3 then s.ringBytes (1024 * (key - Obj.errorLogRing))
  else if key = Obj.fatalLogRing then s.fatalBytes
  else natLE len (s.counter key)

/-- Chapter 13. (DEDUCED, notes/assumptions/59.md). -/
def State.readPower (s : State) (index sub len : Nat) : Bytes :=
  let key := index * 256 + sub
  if key = Obj.powerCapEffective then natLE 4 s.capEffective
  else if key = Obj.fleeceState then natLE 1 s.power.fleece.code
  else if key = Obj.inputState then natLE 1 s.power.input.code
  else if key = Obj.inputPower then natLE 4 s.power.inputW
  else if key = Obj.stepMeanPower then natLE 4 s.power.stepMean
  else if key = Obj.powerAllowance then natLE 4 (s.power.allowance / 1000)
  else if key = Obj.ballastPower then natLE 4 s.power.ballastMs
  else if key = Obj.ballastCapacity then natLE 4 s.ballastCapacity
  else if key = Obj.boardStagesWorking then natLE 1 s.stagesWorking
  else if key = Obj.vcmpSetPoint then natLE 2 s.vcmpMv
  else if index = 0x5010 then natLE 1 (s.func (.domain (sub - 1))).code
  else if index = 0x5020 then natLE 1 (NMap.lookD s.power.cells (sub - 1) 0)
  else if index = 0x5021 then natLE 1 (NMap.lookD s.power.rails (sub - 1) 0)
  else natLE len (s.counter key)

/-- Chapter 14. -/
def State.readThermal (s : State) (index sub len : Nat) : Bytes :=
  let key := index * 256 + sub
  if key = Obj.thermalState then natLE 1 s.thermalState
  else if key = Obj.sensorSuspectMask then
    natLE 56 (maskOf ((s.thermal.sensors.filter fun e => e.2.suspect).map (·.1)))
  else if index = 0x5110 then s.centiF32 (hottest ((List.range 4).filterMap fun q => s.govOf (4 * (sub - 1) + q)))
  else if index = 0x5111 then s.centiF32 (s.govOf (288 + (sub - 1)))
  else if index = 0x5112 then s.centiF32 ((NMap.look s.thermal.sensors (288 + (sub - 1))).bind fun x => x.est)
  else if index = 0x5113 then s.centiF32 (s.govOf (352 + (sub - 1)))
  else if index = 0x5114 then natLE 1 (s.stackState (sub - 1))
  else if key = Obj.moduleState then natLE 1 s.thermal.modSt.code
  else if key = Obj.timestamp then natLE 8 s.now
  else if key = Obj.ppsTimestamp then natLE 8 s.thermal.pps
  else if key = Obj.timeLocked then natLE 1 (bit01 s.thermal.locked)
  else if key = Obj.refclkState then natLE 1 (bit01 s.thermal.holdover)
  else if key = Obj.perfSampleIndex then natLE 8 s.thermal.perfIdx
  else if index = 0x5210 then natLE 1 (s.tile (sub - 1)).step
  else natLE len (s.counter key)

/-- The spares of a half that are not bound and passed self-test. -/
def State.sparesFree (s : State) (half : Nat) : Nat :=
  (s.boot.spares.filter fun p => physHalf p == half && !s.boot.failed.contains p && !s.boot.record.contains p).length

/-- `PhysTileState`. -/
def State.physState (s : State) (p : Nat) : Nat :=
  if s.fuses.fused.contains p then 4
  else if s.boot.record.contains p then 2
  else if s.boot.failed.contains p then 3
  else if (s.logicalOf p).isSome then 0 else 1

/-- `LinkQualResult`: DISABLED for a port that is OFF. -/
def State.qualResult (s : State) (sub : Nat) : Nat :=
  match linkFunc sub with
  | some f => if s.func f = .off then 3 else (s.link sub).result
  | none => (s.link sub).result

/-- Chapter 15. -/
def State.readBoot (s : State) (index sub len : Nat) : Bytes :=
  let key := index * 256 + sub
  if key = Obj.bringupState then natLE 1 s.boot.phase.code
  else if key = Obj.lastBringupTime then natLE 4 s.boot.lastMs
  else if key = Obj.lastComputeResetTime then natLE 4 s.boot.resetMs
  else if key = Obj.coreLoadFailedMask then natLE 176 (maskOf s.boot.loadFail)
  else if key = Obj.sparesFreeH0 then natLE 1 (s.sparesFree 0)
  else if key = Obj.sparesFreeH1 then natLE 1 (s.sparesFree 1)
  else if key = Obj.faultedTileRecord then natLE 9 (maskOf s.boot.record)
  else if index = 0x6001 then natLE 1 (s.physState (sub - 1))
  else if index = 0x6002 then natLE 1 ((s.logicalOf (sub - 1)).getD 0xFF)
  else if index = 0x6003 then natLE 1 (s.qualResult sub)
  else if index = 0x6004 then natLE 4 (s.link sub).rate.toNat
  else natLE len (s.counter key)

/-- A peer port's state. -/
def State.peerOf (s : State) (p : Nat) : Option Peer := NMap.look s.iface.peers p

/-- Chapter 16. (DEDUCED, notes/assumptions/66.md). -/
def State.readIface (s : State) (index sub len : Nat) : Bytes :=
  let key := index * 256 + sub
  let linked := s.iface.hostLink == 2
  let t2 (m : NMap Nat) (p : Nat) : Nat := if s.iface.t2down.contains p then 0 else NMap.lookD m p 0
  if key = Obj.hostLinkState then natLE 1 s.iface.hostLink
  else if key = Obj.hostLinkWidth then natLE 1 (if linked then s.iface.hostWidth else 0)
  else if key = Obj.hostLinkRate then natLE 1 (if linked then s.iface.hostRate else 0)
  else if key = Obj.hostIdeState then natLE 1 s.iface.hostIde
  else if key = Obj.tier2State0 then natLE 1 (s.func (.tier2 0)).code
  else if key = Obj.tier2State1 then natLE 1 (s.func (.tier2 1)).code
  else if key = Obj.tier2Width0 then natLE 1 (t2 s.iface.t2width 0)
  else if key = Obj.tier2Width1 then natLE 1 (t2 s.iface.t2width 1)
  else if key = Obj.tier2ExpanderBw0 then natLE 4 (t2 s.iface.t2bw 0)
  else if key = Obj.tier2ExpanderBw1 then natLE 4 (t2 s.iface.t2bw 1)
  else if index = 0x7211 then natLE 1 (s.func (.peer (sub - 1))).code
  else if index = 0x7212 then natLE 1 (((s.peerOf (sub - 1)).map fun x => x.lanes).getD 0)
  else if index = 0x7213 then natLE 2 (((s.peerOf (sub - 1)).map fun x => x.partner).getD 0xFFFF)
  else if key = Obj.mgmtMacAddress then s.fuses.mac
  else natLE len (s.counter key)

/-- Chapter 17. -/
def State.readFw (s : State) (index sub : Nat) : Bytes :=
  let key := index * 256 + sub
  let of (f : Comp → Nat) : Nat := match s.comp (sub - 1) with
    | some c => f c
    | none => 0
  if key = Obj.updateOffset then natLE 4 s.fw.offset
  else if key = Obj.updateState then natLE 1 s.fw.upd.code
  else if key = Obj.updateRefusal then natLE 1 s.fw.refusal
  else if key = Obj.updateResult then natLE 1 s.fw.result
  else if index = 0x8010 then natLE 4 (of fun c => c.running.version)
  else if index = 0x8011 then natLE 1 (of fun c => bit01 c.runB)
  else if index = 0x8012 then natLE 1 (of fun c => c.status.code)
  else if index = 0x8013 then natLE 2 (of fun c => c.svnFloor)
  else natLE 4 (of fun c => if c.inactive.valid then c.inactive.version else 0)

/-- Chapter 18: the input current follows from the input power and voltage. -/
def State.readBoard (s : State) (index sub len : Nat) : Bytes :=
  let key := index * 256 + sub
  if key = Obj.inputVoltage then natLE 4 s.power.mv
  else if key = Obj.inputCurrent then natLE 4 (s.power.inputW * 1000000 / s.power.mv)
  else if key = Obj.inputTripCause then natLE 1 s.boot.tripCause
  else if key = Obj.coolantInletTemp then ratioBytes s.board.inlet 10
  else if key = Obj.coolantOutletTemp then s.freeReading 4
  else if key = Obj.coolantDeltaP then ratioBytes s.board.deltaP 10
  else if key = Obj.coolantFlowEstimate then ratioBytes (flowCenti s.board.deltaP) 100
  else if key = Obj.coolantState then natLE 1 s.board.coolant
  else if key = Obj.boardHumidity then s.freeReading 4
  else if key = Obj.boardDewPoint then ratioBytes s.board.dew 10
  else if key = Obj.auxPinLevel then natLE 1 ((Config.free32 s.dict.freeCount).toNat % 4)
  else if index = 0x9010 then s.freeReading 4
  else natLE len (s.counter key)

/-- A read-only object, by the chapter of its index; the counters of chapters 3 to 6 need no more. -/
def State.readRo (s : State) (sid key len : Nat) : Bytes :=
  let index := key / 256
  let sub := key % 256
  if index < 0x2000 then s.readCh2 sid key
  else if index < 0x3000 then natLE len (s.counter key)
  else if index < 0x3100 then s.readFelt key
  else if index < 0x3200 then s.readTier key
  else if index < 0x3300 then s.readBw index sub
  else if index < 0x3400 then s.readLedger key
  else if index < 0x4000 then s.readDet key
  else if index < 0x5000 then s.readInteg key len
  else if index < 0x5100 then s.readPower index sub len
  else if index < 0x6000 then s.readThermal index sub len
  else if index < 0x7000 then s.readBoot index sub len
  else if index < 0x8000 then s.readIface index sub len
  else if index < 0x9000 then s.readFw index sub
  else s.readBoard index sub len

/-- The value in force of an object, as a session reads it (R28, R29). (DESIGN CHOICE, notes/assumptions/10.md). -/
def State.objValue (s : State) (sid : Nat) (key : Nat) : Bytes :=
  match objRow key with
  | none => []
  | some r =>
    if r.acc = .ro then s.readRo sid key r.lenLo
    else if key = Obj.ledgerEnable then natLE 1 (bit01 s.ledger.enable)
    else if key = Obj.stepCounter || key = Obj.rngProbeInput then s.readDet key
    else if key = Obj.errorLogAck then s.readInteg key 4
    else s.value key

end Sys2Proof.Machine
end

