-- ==== Sys2Proof/Machine/Dictionary.lean ====
section
/-! DEFINITION. The parameter dictionary as sessions use it (ch. 2): requests and their answers (R26 to R33, R423), the write
lease (R34, R35), the field lock (R37 to R39), staging and commits (R40 to R43), step boundaries (R257), and the writes that
act as triggers. -/

set_option Elab.async false

namespace Sys2Proof.Machine

open Sys2Proof

/-! ### The write lease (R35) -/

/-- Writing 1 to `LeaseRequest`. -/
def State.takeLease (s : State) (sid : Nat) : State × Nat :=
  match s.dict.lease with
  | none => ({ s with dict := { s.dict with lease := some sid } }, dOk)
  | some h => (s, if h = sid then dOk else dBusy)

/-- Writing 0 to `LeaseRequest`. -/
def State.giveLease (s : State) (sid : Nat) : State × Nat := (s.loseLease sid, dOk)

/-- Writing `LeaseBreak`. -/
def State.breakLease (s : State) (sid : Nat) : State × Nat :=
  if s.dict.lease = some sid then (s, dOk)
  else if !s.lockOpenFor sid then (s, dLocked)
  else
    let t := match s.dict.lease with
      | some h => (s.loseLease h).log 0x1102 sevInfo agentDictionary none (h + sid * 65536)
      | none => s
    ({ t with dict := { t.dict with lease := some sid } }, dOk)

/-- `LeaseTimeout` has passed without a request from the holder. (DEDUCED, notes/assumptions/76.md). -/
def leaseExpired (s : State) : State :=
  match s.dict.lease with
  | some h => (s.loseLease h).log 0x1101 sevInfo agentDictionary none h
  | none => s

/-- A Muslin session has been idle for `SessionIdleTimeout`. -/
def sessionIdleTimeout (sid : Nat) (s : State) : State :=
  if NMap.has s.dict.sessions sid then s.closeMuslin sid else s

/-! ### The field lock (R37 to R39) -/

/-- The answer to an attempt to open a lock that is not closed. -/
def State.lockGate (s : State) (sid : Nat) : Option Nat :=
  match s.dict.lock with
  | .closed => none
  | .opened o _ => some (if o = sid then dOk else dBusy)
  | .blocked _ => some dLocked

/-- The lock opens for a session; the open time in force times this opening. -/
def State.openLock (s : State) (sid : Nat) : State :=
  { s with dict := { s.dict with lock := .opened sid (s.num Obj.lockOpenTime), failCount := 0 } }

/-- A failed attempt; the fifth blocks the lock. -/
def State.failLock (s : State) (sid : Nat) : State :=
  let n := s.dict.failCount + 1
  let t : State := { s with dict := { s.dict with failCount := n } }
  if n < 5 then t
  else ({ t with dict := { t.dict with lock := .blocked t.now } } : State).log 0x1103 sevError agentDictionary none sid

/-- The outcome of an attempt that was evaluated. -/
def State.lockAttempt (s : State) (sid : Nat) (good : Bool) : State × Nat :=
  if good then (s.openLock sid, dOk) else (s.failLock sid, dDenied)

/-- Is this the owner password? (DESIGN CHOICE, notes/assumptions/15.md). -/
def State.passwordOk (s : State) (pw : Bytes) : Bool := saltedDigest (s.dict.password.take 16) pw == s.dict.password

/-- A write to `LockPassword`. -/
def State.tryPassword (s : State) (sid : Nat) (pw : Bytes) : State × Nat :=
  match s.lockGate sid with
  | some st => (s, st)
  | none => if !s.isOn Obj.lockPasswordEnable then (s, dLocked) else s.lockAttempt sid (s.passwordOk pw)

/-- The 50-byte message of R39. -/
def State.lockMessage (s : State) (sid : Nat) (nonce : SectorData) : Bytes :=
  natLE 32 nonce.toNat ++ s.fuses.serial ++ natLE 2 sid

/-- Does a response answer the outstanding nonce within 60 s? (DEDUCED, notes/assumptions/16.md). -/
def State.responseOk (s : State) (sid : Nat) (sig : Bytes) : Bool :=
  match s.dict.nonce with
  | some (n, t) => !s.passed t (60 * ticksPerS) && ecdsaVerify (s.value Obj.ownerKey) (s.lockMessage sid n) sig
  | none => false

/-- A write to `LockResponse`: the nonce is used. (DEDUCED, notes/assumptions/16.md). -/
def State.tryResponse (s : State) (sid : Nat) (sig : Bytes) : State × Nat :=
  match s.lockGate sid with
  | some st => (s, st)
  | none => ({ s with dict := { s.dict with nonce := none } } : State).lockAttempt sid (s.responseOk sid sig)

/-- A write to `LockClose`. -/
def State.shutLock (s : State) (sid : Nat) : State × Nat :=
  match s.dict.lock with
  | .opened o _ => if o = sid then ({ s with dict := { s.dict with lock := .closed } }, dOk) else (s, dLocked)
  | _ => (s, dOk)

/-- `LockOpenTime` has elapsed. -/
def lockOpenTimeExpiry (s : State) : State :=
  match s.dict.lock with
  | .opened _ _ => { s with dict := { s.dict with lock := .closed } }
  | _ => s

/-- 900 s have passed since the lock was blocked. -/
def lockBlockExpiry (s : State) : State :=
  match s.dict.lock with
  | .blocked _ => { s with dict := { s.dict with lock := .closed, failCount := 0 } }
  | _ => s

/-! ### Staging and commits (R40 to R43) -/

/-- A value staged. -/
def State.stage (s : State) (key : Nat) (v : Bytes) : State :=
  { s with dict := { s.dict with staged := NMap.put s.dict.staged key v } }

/-- A write to an STG or LCK object: BUSY while a commit is queued, and for a 513th object. -/
def State.stageWrite (s : State) (key : Nat) (v : Bytes) : State × Nat :=
  if s.dict.queued.isSome || (!NMap.has s.dict.staged key && decide (512 ≤ s.dict.staged.length)) then (s, dBusy)
  else (s.stage key v, dStaged)

/-- A write to `Commit`: status and rule. -/
def State.commitNow (s : State) (sid : Nat) : State × Nat × Nat :=
  if s.dict.queued.isSome then (s, dBusy, 0)
  else match ({ st := s, staged := s.dict.staged, sid := sid, self := false } : Cfg).outcome with
    | (_, _, some cl) =>
      if s.computeIdle then (s.applySet false s.dict.staged cl, dOk, 0)
      else
        let t : State := { s with dict := { s.dict with queued := some { sid := sid, copy := s.dict.staged } } }
        (t.commitEnds dQueued 0, dQueued, 0)
    | (st, rule, none) => (s.commitEnds st rule, st, rule)

/-- A write to `StageDiscard`. -/
def State.discardStage (s : State) : State :=
  let t := s.withdrawCommit
  { t with dict := { t.dict with staged := [] } }

/-- A write to `SettingsSave` (R439). (DEDUCED, notes/assumptions/18.md). -/
def State.saveSettings (s : State) : State := { s with dict := { s.dict with blobCur := some s.blobNow } }

/-- `CommitWait` has passed without a step boundary; 0 is no limit.
(DEDUCED, notes/assumptions/76.md, DEDUCED, notes/assumptions/77.md). -/
def commitWaitExpiry (s : State) : State := if s.num Obj.commitWait = 0 then s else s.withdrawCommit

/-! ### Step boundaries (R42, R257) -/

/-- The queued commit is checked again with its own copy, and applied or refused. -/
def State.boundaryCommit (s : State) : State :=
  match s.dict.queued with
  | none => s
  | some q =>
    match ({ st := s, staged := q.copy, sid := q.sid, self := false } : Cfg).outcome with
    | (_, _, some cl) => s.applySet false q.copy cl
    | (st, rule, none) => ({ s with dict := { s.dict with queued := none } } : State).commitEnds st rule

/-- May the boundary be taken: every spilled reduction with its last contribution has returned, and no spare change is under
way (R195, R305)? (DEDUCED, notes/assumptions/21.md). -/
def State.boundaryReady (s : State) : Bool :=
  s.boundaryDue && !s.bundleChange && s.felt.spilled.all fun e => !e.2.full

/-- Actions 4 and 5: the scheduler pauses or goes on. -/
def State.boundaryPause (s : State) : State :=
  if s.ledger.sched = .pausing || s.ledger.faultPause then
    ({ s with ledger := { s.ledger with faultPause := false } } : State).pauseNow
  else s

/-- A step boundary. (DEDUCED, notes/assumptions/21.md). -/
def stepBoundary (s : State) : State :=
  if !s.boundaryReady then s
  else
    let s := (s.closure).boundaryCommit
    let s : State := { s with det := { s.det with step := s.det.step + 1 } }
    let s := s.floorBoundary
    let s : State := { s with ledger := { s.ledger with ends := s.ledger.ends.drop 1 } }
    ((s.boundaryPause).idleActions).refuseCoops

/-! ### Writes to RW objects that request a function (R50) -/

/-- The function an RW object enables. -/
def funcOf (key : Nat) : Option Func :=
  if key = Obj.tieringEnable then some .tiering
  else if key = Obj.scrubEnable then some .scrub
  else if key = Obj.tier2Enable0 then some (.tier2 0)
  else if key = Obj.tier2Enable1 then some (.tier2 1)
  else if Obj.peerPortEnable ≤ key && key < Obj.peerPortEnable + 18 then some (.peer (key - Obj.peerPortEnable))
  else none

/-- An enable or disable request: CONFLICT where it needs a resource that another function owns (R47), and otherwise the answer of
R50; an accepted value is in force at once. (DEDUCED, notes/assumptions/12.md). -/
def State.funcWrite (s : State) (f : Func) (key : Nat) (on : Bool) : State × Nat :=
  let v := natLE 1 (bit01 on)
  match ({ st := s, staged := [(key, v)], sid := 1, self := true } : Cfg).claims with
  | none => (s.bump Obj.claimConflicts 1, dConflict)
  | some cl =>
    match s.requestFunc f on with
    | (t, st) =>
      if st = dBusy then (t, st)
      else (({ t with dict := { t.dict with claims := cl } } : State).setValue key v, st)

/-- A write to `LedgerEnable`: ON is not taken during an update (R438), and R244 and R265 decide the rest.
(DEDUCED, notes/assumptions/12.md). -/
def State.ledgerWrite (s : State) (on : Bool) : State × Nat :=
  if on then (if s.fw.upd != .idle then (s, dBusy) else s.ledgerStart) else (s.ledgerStop, dOk)

/-! ### Counter clears -/

/-- `BwCounterClear`: the event counters, and every `BwBytes` with its half and WRAP. -/
def State.clearBw (s : State) : State :=
  let t := (s.clearCounters 0x320003 0x320004).clearCounters 0x324001 0x324706
  { t with bw := { t.bw with half := [], wrapped := [] } }

/-- The counters a clear object sets to 0. (DEDUCED, notes/assumptions/72.md). -/
def State.clearFor (s : State) (key : Nat) : State :=
  if key = Obj.matrixCounterClear then
    ((s.clearCounters 0x200004 0x200007).clearCounters 0x201001 0x201040).clearCounters 0x201101 0x201106
  else if key = Obj.formatCounterClear then s.clearCounters 0x210009 0x21000D
  else if key = Obj.execCounterClear then s.clearCounters 0x220005 0x220008
  else if key = Obj.orderCounterClear then s.clearCounters 0x230003 0x230006
  else if key = Obj.feltCounterClear then s.clearCounters 0x30000C 0x300018
  else if key = Obj.tierCounterClear then s.clearCounters 0x310018 0x310020
  else if key = Obj.bwCounterClear then s.clearBw
  else if key = Obj.schedCounterClear then (s.clearCounters 0x330016 0x33001C).clearCounters 0x33001E 0x33001E
  else if key = Obj.integrityCounterClear then (s.clearCounters 0x400005 0x400011).clearCounters 0x400014 0x400015
  else if key = Obj.powerCounterClear then s.clearCounters 0x50001C 0x50001E
  else if key = Obj.thermalCounterClear then s.clearCounters 0x510007 0x510009
  else if key = Obj.interfaceCounterClear then
    (((s.clearCounters 0x700006 0x700006).clearCounters 0x710009 0x710009).clearCounters 0x720004 0x720007).clearCounters
      0x720009 0x720009
  else if key = Obj.boardCounterClear then s.clearCounters 0x900010 0x900011
  else s

/-- The objects that clear counters. (DEDUCED, notes/assumptions/72.md). -/
def clearObjects : List Nat :=
  [Obj.matrixCounterClear, Obj.formatCounterClear, Obj.execCounterClear, Obj.orderCounterClear, Obj.feltCounterClear,
   Obj.tierCounterClear, Obj.bwCounterClear, Obj.schedCounterClear, Obj.integrityCounterClear, Obj.powerCounterClear,
   Obj.thermalCounterClear, Obj.interfaceCounterClear, Obj.boardCounterClear]

/-! ### Triggers (WO objects) -/

/-- `FeltFlush` (R196): 1 CLEAN, 2 INVALIDATE. (DEDUCED, notes/assumptions/11.md). -/
def State.startFlush (s : State) (v : Nat) : State × Nat :=
  if s.flushable then ({ s with felt := { s.felt with flush := v } }, dOk) else (s, dBusy)

/-- `ResumeApply` (R283). -/
def State.applyResume (s : State) (r : Bytes) : State × Nat :=
  if !s.computeIdle then (s, dBusy)
  else match s.resumeWith r with
    | (t, true) => (t, dOk)
    | (t, false) => (t, dDenied)

/-- A trigger with a value within its range: status. -/
def State.trigger (s : State) (sid key : Nat) (v : Bytes) : State × Nat :=
  let n := leNat v
  if key = Obj.leaseRequest then (if n = 1 then s.takeLease sid else s.giveLease sid)
  else if key = Obj.leaseBreak then s.breakLease sid
  else if key = Obj.lockResponse then s.tryResponse sid v
  else if key = Obj.lockPassword then s.tryPassword sid v
  else if key = Obj.lockClose then s.shutLock sid
  else if key = Obj.stageDiscard then (s.discardStage, dOk)
  else if key = Obj.settingsSave then (s.saveSettings, dOk)
  else if key = Obj.feltFlush then s.startFlush n
  else if key = Obj.schedPause then (s.pauseRequest, dOk)
  else if key = Obj.schedResume then s.resumeRequest
  else if key = Obj.resumeApply then s.applyResume v
  else if key = Obj.thermalAccept then (s.acceptThermal, dOk)
  else if key = Obj.moduleStateRequest then s.requestState n
  else if key = Obj.computeReset then s.requestComputeReset
  else if key = Obj.fullReset then (s.fullReset, dOk)
  else if key = Obj.updateBegin then s.beginUpdate n
  else if key = Obj.updateData then s.updateBytes v
  else if key = Obj.updateVerify then s.verifyUpdate
  else if key = Obj.updateCommit then s.commitUpdate (n == 2)
  else if key = Obj.updateAbort then s.stopUpdate
  else if key = Obj.updateConfirm then s.confirmAll
  else if clearObjects.contains key then (s.clearFor key, dOk)
  else (s, dOk)

/-- An RW or RWI object takes a value at once. (DEDUCED, notes/assumptions/76.md). -/
def State.writeNow (s : State) (key : Nat) (v : Bytes) : State × Nat :=
  match funcOf key with
  | some f => s.funcWrite f key (leNat v == 1)
  | none =>
    if key = Obj.ledgerEnable then s.ledgerWrite (leNat v == 1)
    else if key = Obj.stepCounter then ({ s with det := { s.det with step := BitVec.ofNat 64 (leNat v) } }, dOk)
    else if key = Obj.rngProbeInput then ({ s with det := { s.det with probe := v } }, dOk)
    else if key = Obj.errorLogAck then (s.ackLog (leNat v), dOk)
    else (s.setValue key v, dOk)

/-! ### Requests (R26 to R32) -/

/-- Which requests are answered before step 8 of bring-up (R378) and in FAILED (R386). (DEDUCED, notes/assumptions/20.md). -/
def State.served (s : State) (op index key : Nat) : Bool :=
  match s.boot.phase with
  | .failed => [0x1000, 0x1100, 0x6000, 0x8000, 0x4010, 0x4011].contains index ||
      (decide (Obj.errorLogHead ≤ key) && decide (key ≤ Obj.errorLogOverruns))
  | .rom => op == 0 && [0x1000, 0x6000].contains index
  | .regulators => op == 0 && [0x1000, 0x6000].contains index
  | .training => op == 0 && [0x1000, 0x6000].contains index
  | .fill => op == 0 && [0x1000, 0x6000].contains index
  | .broadcast => op == 0 && [0x1000, 0x6000].contains index
  | _ => true

/-- The writes that need no lease (R34). -/
def leaseFree (key : Nat) : Bool :=
  [Obj.leaseRequest, Obj.lockPassword, Obj.lockResponse, Obj.lockClose, Obj.leaseBreak].contains key

/-- Is a type transferred in pieces? -/
def OType.long : OType → Bool
  | .str => true
  | .blob => true
  | _ => false

/-- How many continuation bytes a UTF-8 lead byte asks for, and the range of the first of them. -/
def utf8Lead (b : Nat) : Option (Nat × Nat × Nat) :=
  if b < 0x80 then some (0, 0x80, 0xBF)
  else if b < 0xC2 then none
  else if b < 0xE0 then some (1, 0x80, 0xBF)
  else if b = 0xE0 then some (2, 0xA0, 0xBF)
  else if b = 0xED then some (2, 0x80, 0x9F)
  else if b < 0xF0 then some (2, 0x80, 0xBF)
  else if b = 0xF0 then some (3, 0x90, 0xBF)
  else if b < 0xF4 then some (3, 0x80, 0xBF)
  else if b = 0xF4 then some (3, 0x80, 0x8F)
  else none

/-- Is a byte string UTF-8, `need` continuation bytes being due and the next one within a range? (DEDUCED, notes/assumptions/9.md). -/
def utf8From : Nat → Nat → Nat → Bytes → Bool
  | need, _, _, [] => need == 0
  | 0, _, _, b :: l =>
    match utf8Lead b.toNat with
    | some (n, lo, hi) => utf8From n lo hi l
    | none => false
  | need + 1, lo, hi, b :: l => decide (lo ≤ b.toNat) && decide (b.toNat ≤ hi) && utf8From need 0x80 0xBF l

/-- Is a value of an object's type: length, defined value, and UTF-8 for a text? (DEDUCED, notes/assumptions/9.md). -/
def valueOk (r : ObjRow) (v : Bytes) : Bool := typeOk r v && (r.ty != .str || utf8From 0 0 0 v)

/-- Is a value within an object's static range? Bytes 20 to 23 of `RngProbeInput` are reserved (R274). -/
def State.rangeOk (s : State) (r : ObjRow) (key : Nat) (v : Bytes) : Bool :=
  s.inRange r.range v && (key != Obj.rngProbeInput || leNat (v.drop 20) == 0)

/-- Why the object does not take a write now, whatever the value: LOCKED for an LCK object (R28), BUSY for an STG or LCK object or `Commit`
while a commit is queued (R43) and for an RWI object while compute is not idle, and for the ring objects while `LedgerEnable` = ON
(R265). -/
def State.closedTo (s : State) (sid : Nat) (r : ObjRow) (key : Nat) : Option Nat :=
  match r.acc with
  | .lck => if !s.lockOpenFor sid then some dLocked else if s.dict.queued.isSome then some dBusy else none
  | .stg => if s.dict.queued.isSome then some dBusy else none
  | .wo => if key = Obj.commit && s.dict.queued.isSome then some dBusy else none
  | .rwi =>
    if !s.computeIdle || (s.ledger.enable && decide (Obj.ledgerBase ≤ key) && decide (key ≤ Obj.completionConsumedAddr)) then
      some dBusy
    else none
  | _ => none

/-- A whole value of the right type and range written: status and rule. While `LedgerEnable` = ON the ring objects return BUSY
(R265). (DEDUCED, notes/assumptions/9.md). -/
def State.writeValue (s : State) (sid : Nat) (r : ObjRow) (key : Nat) (v : Bytes) : State × Nat × Nat :=
  let bare (x : State × Nat) : State × Nat × Nat := (x.1, x.2, 0)
  match r.acc with
  | .ro => (s, dDenied, 0)
  | .lck => if !s.lockOpenFor sid then (s, dLocked, 0) else bare (s.stageWrite key v)
  | .stg => bare (s.stageWrite key v)
  | .wo => if key = Obj.commit then s.commitNow sid else bare (s.trigger sid key v)
  | .rwi =>
    if !s.computeIdle || (s.ledger.enable && decide (Obj.ledgerBase ≤ key) && decide (key ≤ Obj.completionConsumedAddr)) then
      (s, dBusy, 0)
    else bare (s.writeNow key v)
  | .rw => bare (s.writeNow key v)

/-- The answer that a write to `LockPassword` or `LockResponse` gets without its value being evaluated (R37, R38). -/
def State.lockAnswer (s : State) (sid key : Nat) : Option Nat :=
  if key = Obj.lockPassword || key = Obj.lockResponse then
    match s.lockGate sid with
    | some st => some st
    | none => if key = Obj.lockPassword && !s.isOn Obj.lockPasswordEnable then some dLocked else none
  else none

/-- TYPE or RANGE for a value that is not one of the object's (R27). -/
def State.valueFault (s : State) (r : ObjRow) (key : Nat) (v : Bytes) : Option Nat :=
  if !valueOk r v then some dType else if !s.rangeOk r key v then some dRange else none

/-- A value complete: it is refused for itself, or because the object does not take a write now; where both hold, the rules do not say
which status is returned, and it is one of the two. (DESIGN CHOICE, notes/assumptions/8.md). -/
def State.writeWhole (s : State) (sid : Nat) (r : ObjRow) (key : Nat) (v : Bytes) : State × Nat × Nat :=
  match s.valueFault r key v, s.closedTo sid r key with
  | none, _ => s.writeValue sid r key v
  | some a, none => (s, a, 0)
  | some a, some b => (s.drawn, if Config.freeBool s.dict.freeCount then a else b, 0)

/-- A WRITE: class and lease are checked first, then what the lock answers of itself, the order of pieces, and the whole value.
(DEDUCED, notes/assumptions/8.md, DEDUCED, notes/assumptions/9.md). -/
def State.serveWrite (s : State) (sid : Nat) (r : ObjRow) (key offset : Nat) (more : Bool) (data : Bytes)
    (prior : Option PartialWrite) : State × Nat × Nat :=
  let before := match prior with
    | some p => if p.key = key then p.data else []
    | none => []
  let whole := if offset = 0 then data else before ++ data
  if r.acc = .ro then (s, dDenied, 0)
  else if !leaseFree key && s.dict.lease ≠ some sid then (s, dDenied, 0)
  else match s.lockAnswer sid key with
  | some st => (s, st, 0)
  | none =>
    if (!r.ty.long && (offset ≠ 0 || more)) || (offset ≠ 0 && offset ≠ before.length) then (s, dType, 0)
    else if more then
      if data.length = 256 then
        ({ s with dict := { s.dict with parts := NMap.put s.dict.parts sid { key := key, data := whole } } }, dOk, 0)
      else (s, dType, 0)
    else s.writeWhole sid r key whole

/-- A READ: status and value; a refused one shows no value and a TOTAL of 0. A read of `LockNonce` issues a nonce.
(DEDUCED, notes/assumptions/8.md, DESIGN CHOICE, notes/assumptions/9.md). -/
def State.serveRead (s : State) (sid : Nat) (r : ObjRow) (key : Nat) : State × Nat × Bytes :=
  if r.acc = .wo || key = Obj.lockPasswordNew then (s, dDenied, [])
  else
    let v := s.objValue sid key
    let t : State :=
      if key = Obj.lockNonce then { s with dict := { s.dict with nonce := some (Config.nonce s.dict.freeCount, s.now) } } else s
    (if readDraws key then t.drawn else t, dOk, v)

/-- A READ_STAGED: status and value (R29). (DEDUCED, notes/assumptions/8.md). -/
def State.serveStaged (s : State) (sid : Nat) (r : ObjRow) (key : Nat) : Nat × Bytes :=
  if s.dict.lease ≠ some sid || key = Obj.lockPasswordNew then (dDenied, [])
  else if r.acc ≠ .stg && r.acc ≠ .lck then (dType, [])
  else match NMap.look s.dict.staged key with
    | some v => (dStaged, v)
    | none => (dOk, s.value key)

/-- The length of an object's value in force. (DEDUCED, notes/assumptions/9.md). -/
def State.totalOf (s : State) (sid key : Nat) : Nat := (s.objValue sid key).length

/-- The answer to a read of a value: a piece of at most 256 bytes. -/
def readAnswer (sid st offset : Nat) (v : Bytes) : DictResp :=
  { sid := sid, status := st, rule := 0, total := v.length, data := (v.drop offset).take 256 }

/-- One request served: the state and the answer. `piece`: its data came through a buffer of 256 bytes. Subindex 0 has no access class: a
WRITE of it is DENIED and a READ_STAGED of it TYPE, as for an RO object. (DEDUCED, notes/assumptions/8.md). -/
def State.dictServe (s : State) (sid op index sub offset : Nat) (more piece : Bool) (data : Bytes) : State × DictResp :=
  let key := index * 256 + sub
  let prior := NMap.look s.dict.parts sid
  let s : State := { s with dict := { s.dict with parts := NMap.del s.dict.parts sid } }
  let no (st total : Nat) : DictResp := { sid := sid, status := st, rule := 0, total := total, data := [] }
  if !s.served op index key then (s, no dBusy 0)
  else if 3 ≤ op || (more && op ≠ 1) || offset % 256 ≠ 0 || (op = 1 && (data.isEmpty || (piece && 256 < data.length))) then (s, no dType 0)
  else if sub = 0 then
    if highestSub index = 0 then (s, no dNoObj 0)
    else if op = 1 then (s, no dDenied 1)
    else if op = 2 then (s, no (if s.dict.lease = some sid then dType else dDenied) 1)
    else if offset ≠ 0 then (s, no dType 1)
    else (s, readAnswer sid dOk 0 (natLE 1 (highestSub index)))
  else match objRow key with
    | none => (s, no dNoObj 0)
    | some r =>
      if op = 1 then
        match s.serveWrite sid r key offset more data prior with
        | (t, st, rule) => (t, { no st (t.totalOf sid key) with rule := rule })
      else if !r.ty.long && offset ≠ 0 then (s, no dType (s.totalOf sid key))
      else if op = 2 then
        match s.serveStaged sid r key with
        | (st, v) => (s, readAnswer sid st offset v)
      else match s.serveRead sid r key with
        | (t, st, v) => (t, readAnswer sid st offset v)

/-- Does a session exist: the host's while its link is up, a Muslin session while it is open? -/
def State.sessionOpen (s : State) (sid : Nat) : Bool :=
  if sid = 1 then s.boot.powered && s.dict.hostOpen && s.iface.hostLink == 2
  else s.muslinOn && NMap.has s.dict.sessions sid

/-- The answer reaches the session, if the request has not closed it. -/
def State.respond (s : State) (r : DictResp) : State :=
  if !s.sessionOpen r.sid then s
  else if r.sid = 1 then
    { s with dict := { s.dict with resp := r, buffer := r.data ++ s.dict.buffer.drop r.data.length } }
  else { s with dict := { s.dict with replies := s.dict.replies ++ [r] } }

/-- What the data buffer holds of data the host has written for a request: a value longer than 256 bytes came in pieces, and the last of
them stands there (R32). -/
def State.fillBuffer (s : State) (data : Bytes) : Bytes :=
  let piece := data.drop ((data.length - 1) / 256 * 256)
  piece ++ s.dict.buffer.drop piece.length

/-- A request of a session: the host's stands in DICT_REQ and the buffer, and its answer in DICT_RESP and the buffer. A session that does not
exist makes none. (DEDUCED, notes/assumptions/73.md). -/
def State.dictRequest (s : State) (sid op index sub offset : Nat) (more piece : Bool) (data : Bytes) : State :=
  if !s.sessionOpen sid then s
  else
    let s : State :=
      if sid = 1 then { s with dict := { s.dict with
        req := { op := op, more := more, index := index, sub := sub, offset := offset, length := data.length % 512 }
        buffer := s.fillBuffer data } }
      else s
    match s.dictServe sid op index sub offset more piece data with
    | (t, r) => t.respond r

/-- A write of a whole value to an object, as the rows that name one object make it. -/
def State.dictPut (s : State) (sid key : Nat) (v : Bytes) : State :=
  s.dictRequest sid 1 (key / 256) (key % 256) 0 false false v

/-- The same with a number. -/
def State.dictPutNum (s : State) (sid key len n : Nat) : State := s.dictPut sid key (natLE len n)

/-- The enable object of one of `n` ports; a port the module does not have has none, and subindex 0xFF is in no table.
(DEDUCED, notes/assumptions/20.md). -/
def portKey (base n port : Nat) : Nat := if port < n then base + port else base / 256 * 256 + 255

/-! ### Muslin requests (R421, R423) -/

/-- A malformed frame: discarded and counted. (DEDUCED, notes/assumptions/19.md). -/
def State.muslinBad (s : State) : State := s.bump Obj.muslinFramesBad 1

/-- Does a REQUEST agree with its own length, with GO set? (DEDUCED, notes/assumptions/19.md). -/
def muslinWordOk (w : W64) (data : Bytes) : Bool :=
  w.getLsbD 63 && (if fld w 62 61 = 1 then data.length == fld w 8 0 else data.isEmpty)

/-- The session records the request it executed and the answer. -/
def State.muslinRecord (s : State) (session seq : Nat) (r : DictResp) : State :=
  { s with dict := { s.dict with
    sessions := NMap.adj s.dict.sessions session fun m => { m with lastSeq := some seq, saved := some r } } }

/-- A REQUEST that is executed. -/
def State.muslinServe (s : State) (session seq : Nat) (w : W64) (data : Bytes) : State :=
  match s.dictServe session (fld w 62 61) (fld w 47 32) (fld w 55 48) (fld w 31 16) (w.getLsbD 60) true data with
  | (t, r) => (t.respond r).muslinRecord session seq r

/-- REQUEST: executed when its SEQ is the next one or the first; the last SEQ again gets the saved answer; any other is
discarded. (DEDUCED, notes/assumptions/19.md). -/
def request (src : Udp) (session seq : Nat) (w : W64) (data : Bytes) (s : State) : State :=
  if !s.muslinOn then s
  else if !muslinWordOk w data then s.muslinBad
  else match NMap.look s.dict.sessions session with
    | none => s
    | some m =>
      if m.src != src then s
      else match m.lastSeq with
        | none => s.muslinServe session seq w data
        | some n =>
          if seq = (n + 1) % 65536 then s.muslinServe session seq w data
          else if seq = n then
            match m.saved with
            | some r => (s.bump Obj.muslinDuplicateTotal 1).respond r
            | none => s
          else s

/-! ### The rows that name a request -/

/-- DICT_READ. -/
def dictRead (sid index sub offset : Nat) (s : State) : State := s.dictRequest sid 0 index sub offset false true []

/-- DICT_WRITE. -/
def dictWrite (sid index sub offset : Nat) (more : Bool) (data : Bytes) (s : State) : State :=
  s.dictRequest sid 1 index sub offset more true data

/-- DICT_READ_STAGED. -/
def dictReadStaged (sid index sub offset : Nat) (s : State) : State := s.dictRequest sid 2 index sub offset false true []

/-- A read of `LockNonce`. (DEDUCED, notes/assumptions/16.md). -/
def lockNonce (sid : Nat) (s : State) : State := s.dictRequest sid 0 (Obj.lockNonce / 256) (Obj.lockNonce % 256) 0 false true []

end Sys2Proof.Machine
end

