-- ==== Sys2Proof/Machine/ExecBoot.lean ====
section
/-! DEFINITION. The meanings of the commands of bring-up, resets and links (ch. 15, 16): one definition for each command, over the shared
operations of its chapter. -/

set_option Elab.async false

namespace Sys2Proof.Machine

open Sys2Proof

/-- TIER2_LINK_UP (R217). -/
def execTier2LinkUp (port : Nat) (s : State) : Out := .next (tier2LinkUp port s)

/-- EXPANDER_EVENT_POLL (R405). -/
def execExpanderEventPoll (port : Nat) (uncorrectable : List Nat) (s : State) : Out :=
  .next (expanderEventPoll port uncorrectable s)

/-- DATA_FLIT (R411). -/
def execDataFlit (port : Nat) (flit : Bytes) (codewordOk : Bool) (s : State) : Out := .next (dataFlit port flit codewordOk s)

/-- IDLE_FLIT (R408). -/
def execIdleFlit (port : Nat) (flit : Bytes) (codewordOk : Bool) (s : State) : Out := .next (idleFlit port flit codewordOk s)

/-- NAK (R411). -/
def execNak (port : Nat) (flit : Bytes) (codewordOk : Bool) (s : State) : Out := .next (nak port flit codewordOk s)

/-- LANE_SWAP (R417). -/
def execLaneSwap (port : Nat) (flit : Bytes) (codewordOk : Bool) (s : State) : Out := .next (laneSwap port flit codewordOk s)

/-- LANE_SWAP_ACK (R417). -/
def execLaneSwapAck (port : Nat) (flit : Bytes) (codewordOk : Bool) (s : State) : Out :=
  .next (laneSwapAck port flit codewordOk s)

/-- WIDTH (R417). -/
def execWidth (port : Nat) (flit : Bytes) (codewordOk : Bool) (s : State) : Out := .next (width port flit codewordOk s)

/-- RETRAIN (R411). -/
def execRetrain (port : Nat) (flit : Bytes) (codewordOk : Bool) (s : State) : Out := .next (retrain port flit codewordOk s)

/-- REPLAY_TIMEOUT (R411). -/
def execReplayTimeout (port : Nat) (s : State) : Out := .next (replayTimeout port s)

/-- PEER_RETRAIN_COMPLETE (R411). -/
def execPeerRetrainComplete (port : Nat) (s : State) : Out := .next (peerRetrainComplete port s)

/-- LANE_FAILED (R417). -/
def execLaneFailed (port : Nat) (lane : Nat) (s : State) : Out := .next (laneFailed port lane s)

/-- WRITE (R413). -/
def execWrite (port : Nat) (s : State) : Out := .next (write port s)

/-- READ (R413). -/
def execRead (port : Nat) (s : State) : Out := .next (read port s)

/-- READ_DATA (R409). -/
def execReadData (port : Nat) (s : State) : Out := .next (readData port s)

/-- WRITE_ACK (R409). -/
def execWriteAck (port : Nat) (s : State) : Out := .next (writeAck port s)

/-- COLL_DATA (R415). -/
def execCollData (port : Nat) (s : State) : Out := .next (collData port s)

/-- ERROR (R413). -/
def execError (port : Nat) (s : State) : Out := .next (error port s)

/-- HALF_LINK_RETRAIN_FAILED (R418). -/
def execHalfLinkRetrainFailed (s : State) : Out := .next (halfLinkRetrainFailed s)

/-- OPEN (R421). -/
def execMuslinOpen (src : Udp) (s : State) : Out := .next (muslinOpen src s)

/-- CLOSE (R421). -/
def execMuslinClose (src : Udp) (session : Nat) (s : State) : Out := .next (muslinClose src session s)

end Sys2Proof.Machine
end

