-- ==== Sys2Proof/Machine/ExecDict.lean ====
section
/-! DEFINITION. The meanings of the commands of sessions, the lock, commits and functions (ch. 2): one definition for each command, over the shared
operations of its chapter. -/

set_option Elab.async false

namespace Sys2Proof.Machine

open Sys2Proof

/-- DICT_READ (R26). -/
def execDictRead (sid : Nat) (index : Nat) (sub : Nat) (offset : Nat) (s : State) : Out :=
  .next (dictRead sid index sub offset s)

/-- DICT_WRITE (R28). -/
def execDictWrite (sid : Nat) (index : Nat) (sub : Nat) (offset : Nat) (more : Bool) (data : Bytes) (s : State) : Out :=
  .next (dictWrite sid index sub offset more data s)

/-- DICT_READ_STAGED (R29). -/
def execDictReadStaged (sid : Nat) (index : Nat) (sub : Nat) (offset : Nat) (s : State) : Out :=
  .next (dictReadStaged sid index sub offset s)

/-- LEASE_REQUEST_ACQUIRE (R35). -/
def execLeaseRequestAcquire (sid : Nat) (s : State) : Out := .next (s.dictPutNum sid Obj.leaseRequest 1 1)

/-- LEASE_REQUEST_RELEASE (R35). -/
def execLeaseRequestRelease (sid : Nat) (s : State) : Out := .next (s.dictPutNum sid Obj.leaseRequest 1 0)

/-- LEASE_BREAK (R35). -/
def execLeaseBreak (sid : Nat) (s : State) : Out := .next (s.dictPutNum sid Obj.leaseBreak 1 1)

/-- LEASE_EXPIRED (R35). -/
def execLeaseExpired (s : State) : Out := .next (leaseExpired s)

/-- SESSION_IDLE_TIMEOUT (R35). -/
def execSessionIdleTimeout (sid : Nat) (s : State) : Out := .next (sessionIdleTimeout sid s)

/-- LOCK_PASSWORD (R37). -/
def execLockPassword (sid : Nat) (password : Bytes) (s : State) : Out := .next (s.dictPut sid Obj.lockPassword password)

/-- LOCK_RESPONSE (R39). -/
def execLockResponse (sid : Nat) (sig : Bytes) (s : State) : Out := .next (s.dictPut sid Obj.lockResponse sig)

/-- LOCK_NONCE (R39). -/
def execLockNonce (sid : Nat) (s : State) : Out := .next (lockNonce sid s)

/-- LOCK_CLOSE (R37). -/
def execLockClose (sid : Nat) (s : State) : Out := .next (s.dictPutNum sid Obj.lockClose 1 1)

/-- LOCK_OPEN_TIME_EXPIRY (R37). -/
def execLockOpenTimeExpiry (s : State) : Out := .next (lockOpenTimeExpiry s)

/-- LOCK_BLOCK_EXPIRY (R37). -/
def execLockBlockExpiry (s : State) : Out := .next (lockBlockExpiry s)

/-- COMMIT (R41). -/
def execCommit (sid : Nat) (s : State) : Out := .next (s.dictPutNum sid Obj.commit 1 1)

/-- STAGE_DISCARD (R40). -/
def execStageDiscard (sid : Nat) (s : State) : Out := .next (s.dictPutNum sid Obj.stageDiscard 1 1)

/-- SETTINGS_SAVE (R439). -/
def execSettingsSave (sid : Nat) (s : State) : Out := .next (s.dictPutNum sid Obj.settingsSave 1 1)

/-- COMMIT_WAIT_EXPIRY (R43). -/
def execCommitWaitExpiry (s : State) : Out := .next (commitWaitExpiry s)

/-- STEP_BOUNDARY (R257). -/
def execStepBoundary (s : State) : Out := .next (stepBoundary s)

/-- TIERING_ENABLE (R225). -/
def execTieringEnable (sid : Nat) (s : State) : Out := .next (s.dictPutNum sid Obj.tieringEnable 1 1)

/-- TIERING_DISABLE (R225). -/
def execTieringDisable (sid : Nat) (s : State) : Out := .next (s.dictPutNum sid Obj.tieringEnable 1 0)

/-- SCRUB_ENABLE (R298). -/
def execScrubEnable (sid : Nat) (s : State) : Out := .next (s.dictPutNum sid Obj.scrubEnable 1 1)

/-- SCRUB_DISABLE (R298). -/
def execScrubDisable (sid : Nat) (s : State) : Out := .next (s.dictPutNum sid Obj.scrubEnable 1 0)

/-- TIER2_ENABLE (R406). -/
def execTier2Enable (sid : Nat) (port : Nat) (s : State) : Out := .next (s.dictPutNum sid (portKey Obj.tier2Enable0 2 port) 1 1)

/-- TIER2_DISABLE (R406). -/
def execTier2Disable (sid : Nat) (port : Nat) (s : State) : Out := .next (s.dictPutNum sid (portKey Obj.tier2Enable0 2 port) 1 0)

/-- PEER_PORT_ENABLE (R412). -/
def execPeerPortEnable (sid : Nat) (port : Nat) (s : State) : Out := .next (s.dictPutNum sid (portKey Obj.peerPortEnable 18 port) 1 1)

/-- PEER_PORT_DISABLE (R412). -/
def execPeerPortDisable (sid : Nat) (port : Nat) (s : State) : Out := .next (s.dictPutNum sid (portKey Obj.peerPortEnable 18 port) 1 0)

/-- ENABLE_SEQUENCE_COMPLETE (R51). -/
def execEnableSequenceComplete (fn : Func) (ok : Bool) (s : State) : Out := .next (enableSequenceComplete fn ok s).afterFault

/-- SHUTDOWN_COMPLETE (R51). -/
def execShutdownComplete (fn : Func) (s : State) : Out := .next (shutdownComplete fn s)

/-- DOMAIN_GATE_STEP_GRANT (R323). -/
def execDomainGateStepGrant (domain offset amps : Nat) (s : State) : Out :=
  .next (domainGateStepGrant domain offset amps s)

/-- DOMAIN_ENABLE_FAILED (R324). -/
def execDomainEnableFailed (domain : Nat) (s : State) : Out := .next (domainEnableFailed domain s).afterFault

end Sys2Proof.Machine
end

