-- ==== Sys2Proof/Machine/ExecIface.lean ====
section
/-! DEFINITION. The meanings of the commands of peer ports, Muslin, updates, attestation and the board (ch. 16 to 18): one definition for each command, over the shared
operations of its chapter. -/

set_option Elab.async false

namespace Sys2Proof.Machine

open Sys2Proof

/-- REQUEST (R423). -/
def execRequest (src : Udp) (session : Nat) (seq : Nat) (word : W64) (data : Bytes) (s : State) : Out :=
  .next (request src session seq word data s)

/-- BEACON (R424). -/
def execBeacon (src : Udp) (slotCount : Nat) (slotLength : Nat) (node : Nat) (s : State) : Out :=
  .next (beacon src slotCount slotLength node s)

/-- RELEASE (R424). -/
def execRelease (s : State) : Out := .next (release s)

/-- TIME (R424). -/
def execTime (tai : Nat) (s : State) : Out := .next (time tai s)

/-- MUSLIN_FRAME_DISCARD (R422). -/
def execMuslinFrameDiscard (s : State) : Out := .next (muslinFrameDiscard s)

/-- INTERFACE_COUNTER_CLEAR (R426). -/
def execInterfaceCounterClear (sid : Nat) (s : State) : Out := .next (s.dictPutNum sid Obj.interfaceCounterClear 1 1)

/-- UPDATE_BEGIN (R433). -/
def execUpdateBegin (sid : Nat) (component : Nat) (s : State) : Out := .next (s.dictPutNum sid Obj.updateBegin 1 component)

/-- UPDATE_ERASE_COMPLETE (R433). -/
def execUpdateEraseComplete (s : State) : Out := .next (updateEraseComplete s)

/-- UPDATE_DATA (R433). -/
def execUpdateData (sid : Nat) (data : Bytes) (s : State) : Out := .next (s.dictPut sid Obj.updateData data)

/-- UPDATE_PROGRAM_COMPLETE (R433). -/
def execUpdateProgramComplete (s : State) : Out := .next (updateProgramComplete s)

/-- UPDATE_VERIFY (R434). -/
def execUpdateVerify (sid : Nat) (s : State) : Out := .next (s.dictPutNum sid Obj.updateVerify 1 1)

/-- UPDATE_VERIFY_COMPLETE (R434). -/
def execUpdateVerifyComplete (s : State) : Out := .next (updateVerifyComplete s)

/-- UPDATE_COMMIT (R435). -/
def execUpdateCommit (sid : Nat) (s : State) : Out := .next (s.dictPutNum sid Obj.updateCommit 1 1)

/-- UPDATE_COMMIT_RESET (R435). -/
def execUpdateCommitReset (sid : Nat) (s : State) : Out := .next (s.dictPutNum sid Obj.updateCommit 1 2)

/-- UPDATE_ABORT (R435). -/
def execUpdateAbort (sid : Nat) (s : State) : Out := .next (s.dictPutNum sid Obj.updateAbort 1 1)

/-- UPDATE_CONFIRM (R436). -/
def execUpdateConfirm (sid : Nat) (s : State) : Out := .next (s.dictPutNum sid Obj.updateConfirm 1 1)

/-- UPDATE_TRIAL_TIMEOUT (R437). -/
def execUpdateTrialTimeout (s : State) : Out := .next (updateTrialTimeout s)

/-- GET_VERSION (R441). -/
def execGetVersion (path : SpdmPath) (s : State) : Out := .next (getVersion path s)

/-- GET_CAPABILITIES (R441). -/
def execGetCapabilities (path : SpdmPath) (s : State) : Out := .next (getCapabilities path s)

/-- NEGOTIATE_ALGORITHMS (R441). -/
def execNegotiateAlgorithms (path : SpdmPath) (asym : Nat) (hash : Nat) (dhe : Nat) (aead : Nat) (s : State) : Out :=
  .next (negotiateAlgorithms path asym hash dhe aead s)

/-- GET_DIGESTS (R441). -/
def execGetDigests (path : SpdmPath) (s : State) : Out := .next (getDigests path s)

/-- GET_CERTIFICATE (R442). -/
def execGetCertificate (path : SpdmPath) (slot : Nat) (offset : Nat) (length : Nat) (s : State) : Out :=
  .next (getCertificate path slot offset length s)

/-- CHALLENGE (R441). -/
def execChallenge (path : SpdmPath) (slot : Nat) (nonce : Bytes) (s : State) : Out := .next (challenge path slot nonce s)

/-- GET_MEASUREMENTS (R443). -/
def execGetMeasurements (path : SpdmPath) (index : Nat) (nonce : Bytes) (s : State) : Out :=
  .next (getMeasurements path index nonce s)

/-- CHUNK_SEND (R441). -/
def execChunkSend (path : SpdmPath) (handle : Nat) (seq : Nat) (last : Bool) (data : Bytes) (s : State) : Out :=
  .next (chunkSend path handle seq last data s)

/-- CHUNK_GET (R441). -/
def execChunkGet (path : SpdmPath) (handle : Nat) (seq : Nat) (s : State) : Out := .next (chunkGet path handle seq s)

/-- KEY_EX (R441). -/
def execKeyEx (path : SpdmPath) (exchange : Bytes) (s : State) : Out := .next (keyEx path exchange s)

/-- FINISH (R441). -/
def execFinish (path : SpdmPath) (mac : Bytes) (s : State) : Out := .next (finish path mac s)

/-- END_SESSION (R441). -/
def execEndSession (path : SpdmPath) (s : State) : Out := .next (endSession path s)

/-- PWR_EN_DEASSERT (R453). -/
def execPwrEnDeassert (s : State) : Out := .next (pwrEnDeassert s)

/-- POWER_OFF_COMPLETE (R453). -/
def execPowerOffComplete (s : State) : Out := .next (powerOffComplete s)

/-- PWR_EN_ASSERT (R453). -/
def execPwrEnAssert (s : State) : Out := .next (pwrEnAssert s)

/-- RESET_N (R453). -/
def execResetN (s : State) : Out := .next (resetN s)

/-- HOST_PERST_N (R453). -/
def execHostPerstN (s : State) : Out := .next (hostPerstN s)

/-- DEBUG_TRIGGER (R452). -/
def execDebugTrigger (pin : Nat) (s : State) : Out := .next (debugTrigger pin s)

/-- AUX_PULSE_INVALID (R452). -/
def execAuxPulseInvalid (pin : Nat) (micros : Nat) (s : State) : Out := .next (auxPulseInvalid pin micros s)

/-- INPUT_TRIPPED (R454). -/
def execInputTripped (cause : TripCause) (s : State) : Out := .next (inputTripped cause s)

/-- COOLANT_CHECK (R459). -/
def execCoolantCheck (inletDeci : Int) (deltaPDeci : Int) (dewDeci : Int) (inletHigh : Bool) (flowLow : Bool) (dewLow : Bool) (s : State) : Out :=
  .next (coolantCheck inletDeci deltaPDeci dewDeci inletHigh flowLow dewLow s)

/-- BOARD_COUNTER_CLEAR (R462). -/
def execBoardCounterClear (sid : Nat) (s : State) : Out := .next (s.dictPutNum sid Obj.boardCounterClear 1 1)

/-- COPY_HOST_ACCESS_WAIT_EXPIRY (R404). -/
def execCopyHostAccessWaitExpiry (seq : Nat) (s : State) : Out := .next (copyHostAccessWaitExpiry seq s)

/-- HDM_DECODER_COMMIT (R401). -/
def execHdmDecoderCommit (gib : Nat) (s : State) : Out := .next (hdmDecoderCommit gib s)

/-- INPUT_TRIP_REARM (R454). -/
def execInputTripRearm (s : State) : Out := .next (inputTripRearm s)

/-- HALF_WIDTH_MOVE_COMPLETE (R303). -/
def execHalfWidthMoveComplete (ptile : Nat) (s : State) : Out := .next (halfWidthMoveComplete ptile s)

end Sys2Proof.Machine
end

