-- ==== Sys2Proof/Machine/ExecLedger.lean ====
section
/-! DEFINITION. The meanings of the commands of the ledger, the scheduler, determinism and integrity (ch. 10 to 12): one definition for each command, over the shared
operations of its chapter. -/

set_option Elab.async false

namespace Sys2Proof.Machine

open Sys2Proof

/-- LEDGER_KERNEL (R247). -/
def execLedgerKernel (s : State) : Out := .next (ledgerKernel s)

/-- LEDGER_COLLECTIVE (R248). -/
def execLedgerCollective (s : State) : Out := .next (ledgerCollective s)

/-- LEDGER_COPY (R248). -/
def execLedgerCopy (s : State) : Out := .next (ledgerCopy s)

/-- LEDGER_MAP (R249). -/
def execLedgerMap (s : State) : Out := .next (ledgerMap s)

/-- LEDGER_UNMAP (R249). -/
def execLedgerUnmap (s : State) : Out := .next (ledgerUnmap s)

/-- LEDGER_PROTECT (R249). -/
def execLedgerProtect (s : State) : Out := .next (ledgerProtect s)

/-- CONSUMED_COUNT_WRITE (R253). -/
def execConsumedCountWrite (count : Nat) (cacheError : Bool) (s : State) : Out := .next (consumedCountWrite count cacheError s)

/-- KERNEL_DISPATCH (R258). -/
def execKernelDispatch (seq : Nat) (s : State) : Out := .next (kernelDispatch seq s)

/-- COLLECTIVE_DISPATCH (R248). -/
def execCollectiveDispatch (seq : Nat) (stage : Nat × ErrHit) (s : State) : Out :=
  .next (collectiveDispatch seq stage s)

/-- COPY_DISPATCH (R248). -/
def execCopyDispatch (seq : Nat) (host : Option Nat) (stage : Nat × ErrHit) (s : State) : Out :=
  .next (copyDispatch seq host stage s)

/-- ENTRY_COMPLETE (R252). -/
def execEntryComplete (seq : Nat) (cacheError : Bool) (s : State) : Out := .next (entryComplete seq cacheError s)

/-- EVENT_RECORD (R256). -/
def execEventRecord (cacheError : Bool) (s : State) : Out := .next (eventRecord cacheError s)

/-- SCHED_PAUSE (R257). -/
def execSchedPause (sid : Nat) (s : State) : Out := .next (s.dictPutNum sid Obj.schedPause 1 1)

/-- SCHED_RESUME (R257). -/
def execSchedResume (sid : Nat) (s : State) : Out := .next (s.dictPutNum sid Obj.schedResume 1 1)

/-- PREEMPT_SAVE_COMPLETE (R261). -/
def execPreemptSaveComplete (seq : Nat) (tile : Nat) (s : State) : Out := .next (preemptSaveComplete seq tile s)

/-- BLOCK_RESTORE (R261). -/
def execBlockRestore (seq : Nat) (tile : Nat) (s : State) : Out := .next (blockRestore seq tile s)

/-- RUNTIME_LIMIT_EXPIRY (R262). -/
def execRuntimeLimitExpiry (seq : Nat) (s : State) : Out := .next (runtimeLimitExpiry seq s)

/-- SCHED_COUNTER_CLEAR (R267). -/
def execSchedCounterClear (sid : Nat) (s : State) : Out := .next (s.dictPutNum sid Obj.schedCounterClear 1 1)

/-- STEP_COUNTER_WRITE (R269). -/
def execStepCounterWrite (sid : Nat) (value : Nat) (s : State) : Out := .next (s.dictPutNum sid Obj.stepCounter 8 value)

/-- RNG (R273). -/
def execRng (g : GroupRef) (word : W64) (hit : ParityHit) (s : State) : Out :=
  .next (rng g word hit s)

/-- RNG_PROBE (R274). -/
def execRngProbe (sid : Nat) (input : Bytes) (s : State) : Out := .next (s.dictPut sid Obj.rngProbeInput input)

/-- RESUME_APPLY (R283). -/
def execResumeApply (sid : Nat) (record : Bytes) (s : State) : Out := .next (s.dictPut sid Obj.resumeApply record)

/-- SCRUB_PACE_TICK (R297). -/
def execScrubPaceTick (half : Nat) (hbm : Bool) (count : Nat) (errs : List (Nat × ErrHit)) (behind : Bool) (s : State) : Out :=
  .next (scrubPaceTick half hbm count errs behind s)

/-- BUNDLE_SIGNAL_FAILED (R302). -/
def execBundleSignalFailed (b : Bundle) (signals : Nat) (s : State) : Out := .next (bundleSignalFailed b signals s).afterFault

/-- BUNDLE_SPARE_COMPLETE (R302). -/
def execBundleSpareComplete (b : Bundle) (s : State) : Out := .next (bundleSpareComplete b s)

/-- ERROR_LOG_ACK (R308). -/
def execErrorLogAck (sid : Nat) (value : Nat) (s : State) : Out := .next (s.dictPutNum sid Obj.errorLogAck 4 value)

/-- INTEGRITY_COUNTER_CLEAR (R310). -/
def execIntegrityCounterClear (sid : Nat) (s : State) : Out := .next (s.dictPutNum sid Obj.integrityCounterClear 1 1)

/-- GOVERNOR_TICK (R325). -/
def execGovernorTick (power demand amps : Nat) (s : State) : Out := .next (governorTick power demand amps s)

/-- STAGE_FAILED (R312). -/
def execStageFailed (stage : Nat) (s : State) : Out := .next (stageFailed stage s)

/-- CELL_FAILED (R316). -/
def execCellFailed (group : Nat) (s : State) : Out := .next (cellFailed group s).afterFault

/-- RAIL_CELL_FAILED (R317). -/
def execRailCellFailed (g : RailGroup) (s : State) : Out := .next (railCellFailed g s)

/-- FLEECE_HOLD_MAX_EXPIRY (R332). -/
def execFleeceHoldMaxExpiry (s : State) : Out := .next (fleeceHoldMaxExpiry s)

/-- SLOT_FRAME_START (R336). -/
def execSlotFrameStart (s : State) : Out := .next (slotFrameStart s)

/-- SLOT_SYNC_LOST (R336). -/
def execSlotSyncLost (s : State) : Out := .next (slotSyncLost s)

/-- SYNC_LINE_FRAME_PULSE (R336). -/
def execSyncLineFramePulse (pin : Nat) (s : State) : Out := .next (syncLineFramePulse pin s)

/-- SYNC_LINE_RELEASE_PULSE (R332). -/
def execSyncLineReleasePulse (pin : Nat) (s : State) : Out := .next (syncLineReleasePulse pin s)

end Sys2Proof.Machine
end

