-- ==== Sys2Proof/Machine/ExecMemory.lean ====
section
/-! DEFINITION. The meanings of the commands of Felt, memory tiers and bandwidth (ch. 6 to 9): one definition for each command, over the shared
operations of its chapter. -/

set_option Elab.async false

namespace Sys2Proof.Machine

open Sys2Proof

/-- ST (R143). -/
def execSt (g : GroupRef) (width : Nat) (va : Nat) (vd : Nat) (hit : ParityHit) (s : State) : Out :=
  .next (st g width va vd hit s)

/-- FENCE (R152). -/
def execFence (g : GroupRef) (word : W64) (s : State) : Out := .next (fence g word s)

/-- LLDROP (R182). -/
def execLldrop (g : GroupRef) (word : W64) (hit : ParityHit) (s : State) : Out :=
  .next (lldrop g word hit s)

/-- REDL (R186). -/
def execRedl (g : GroupRef) (word : W64) (hit : ParityHit) (s : State) : Out :=
  .next (redl g word hit s)

/-- REDUCE_SPILL (R192). -/
def execReduceSpill (line : Nat) (s : State) : Out := .next (reduceSpill line s)

/-- SPILL_COMBINE_RETURN (R193). -/
def execSpillCombineReturn (line : Nat) (err unit : ErrHit) (s : State) : Out := .next (spillCombineReturn line err unit s)

/-- FELT_FILL_RETURN (R176). -/
def execFeltFillReturn (sector : Nat) (err : ErrHit) (replays : Nat) (s : State) : Out := .next (feltFillReturn sector err replays s)

/-- TABLE_WALK_RETURN (R205). -/
def execTableWalkReturn (half : Nat) (page : Nat) (west east : Bool) (err : ErrHit) (s : State) : Out :=
  .next (tableWalkReturn half page west east err s)

/-- FELT_FLUSH_CLEAN (R196). -/
def execFeltFlushClean (sid : Nat) (s : State) : Out := .next (s.dictPutNum sid Obj.feltFlush 1 1)

/-- FELT_FLUSH_INVALIDATE (R196). -/
def execFeltFlushInvalidate (sid : Nat) (s : State) : Out := .next (s.dictPutNum sid Obj.feltFlush 1 2)

/-- FELT_FLUSH_COMPLETE (R196). -/
def execFeltFlushComplete (s : State) : Out := .next (feltFlushComplete s)

/-- BANK_RETIRE_MOVES_COMPLETE (R198). -/
def execBankRetireMovesComplete (half : Nat) (group : Nat) (s : State) : Out := .next (bankRetireMovesComplete half group s)

/-- FELT_COUNTER_CLEAR (R199). -/
def execFeltCounterClear (sid : Nat) (s : State) : Out := .next (s.dictPutNum sid Obj.feltCounterClear 1 1)

/-- MAP (R207). -/
def execMap (seq : Nat) (s : State) : Out := .next (map seq s)

/-- UNMAP (R208). -/
def execUnmap (seq : Nat) (s : State) : Out := .next (unmap seq s)

/-- PROTECT (R209). -/
def execProtect (seq : Nat) (s : State) : Out := .next (protect seq s)

/-- HOST_MEM_READ (R216). -/
def execHostMemRead (offset : Nat) (s : State) : Out := .next (hostMemRead offset s)

/-- HOST_MEM_WRITE (R216). -/
def execHostMemWrite (offset : Nat) (data : Bytes) (s : State) : Out := .next (hostMemWrite offset data s)

/-- TIER2_LINK_WAIT_EXPIRY (R217). -/
def execTier2LinkWaitExpiry (port : Nat) (s : State) : Out := .next (tier2LinkWaitExpiry port s)

/-- MIGRATION_EPOCH_END (R218). -/
def execMigrationEpochEnd (s : State) : Out := .next (migrationEpochEnd s)

/-- MIGRATION_START (R223). -/
def execMigrationStart (page : Nat) (s : State) : Out := .next (migrationStart page s)

/-- SUBPAGE_COPY_COMPLETE (R223). -/
def execSubpageCopyComplete (page : Nat) (err : ErrHit) (s : State) : Out := .next (subpageCopyComplete page err s)

/-- MIGRATION_SOURCE_FREE (R223). -/
def execMigrationSourceFree (page : Nat) (s : State) : Out := .next (migrationSourceFree page s)

/-- TIER_COUNTER_CLEAR (R228). -/
def execTierCounterClear (sid : Nat) (s : State) : Out := .next (s.dictPutNum sid Obj.tierCounterClear 1 1)

/-- BW_INTERVAL_BOUNDARY (R233). -/
def execBwIntervalBoundary (loads : List BwLoad) (s : State) : Out := .next (bwIntervalBoundary loads s)

/-- BW_COUNTER_CLEAR (R241). -/
def execBwCounterClear (sid : Nat) (s : State) : Out := .next (s.dictPutNum sid Obj.bwCounterClear 1 1)

/-- LEDGER_ENABLE_ON (R244). -/
def execLedgerEnableOn (sid : Nat) (s : State) : Out := .next (s.dictPutNum sid Obj.ledgerEnable 1 1)

/-- LEDGER_ENABLE_OFF (R265). -/
def execLedgerEnableOff (sid : Nat) (s : State) : Out := .next (s.dictPutNum sid Obj.ledgerEnable 1 0)

/-- HEAD_LINE_LOSS (R243). -/
def execHeadLineLoss (writes : List (Nat × Bytes)) (cacheError : Bool) (s : State) : Out :=
  .next (headLineLoss writes cacheError s)

/-- LEDGER_NOP (R246). -/
def execLedgerNop (s : State) : Out := .next (ledgerNop s)

end Sys2Proof.Machine
end

