-- ==== Sys2Proof/Machine/ExecPower.lean ====
section
/-! DEFINITION. The meanings of the commands of power, clocks, thermal control and samples (ch. 13, 14): one definition for each command, over the shared
operations of its chapter. -/

set_option Elab.async false

namespace Sys2Proof.Machine

open Sys2Proof

/-- INPUT_LOW (R339). -/
def execInputLow (millivolts : Nat) (s : State) : Out := .next (inputLow millivolts s)

/-- INPUT_HOLDUP (R341). -/
def execInputHoldup (millivolts : Nat) (s : State) : Out := .next (inputHoldup millivolts s)

/-- INPUT_HIGH (R339). -/
def execInputHigh (millivolts : Nat) (s : State) : Out := .next (inputHigh millivolts s)

/-- INPUT_NORMAL (R339). -/
def execInputNormal (millivolts : Nat) (s : State) : Out := .next (inputNormal millivolts s)

/-- BROWNOUT_HOLD_EXPIRY (R341). -/
def execBrownoutHoldExpiry (s : State) : Out := .next (brownoutHoldExpiry s)

/-- INPUT_BELOW_40V (R340). -/
def execInputBelow40V (s : State) : Out := .next (inputBelow40V s)

/-- POWER_COUNTER_CLEAR (R343). -/
def execPowerCounterClear (sid : Nat) (s : State) : Out := .next (s.dictPutNum sid Obj.powerCounterClear 1 1)

/-- REFCLK_LOST (R348). -/
def execRefclkLost (s : State) : Out := .next (refclkLost s)

/-- REFCLK_HOLDOVER_EXPIRY (R348). -/
def execRefclkHoldoverExpiry (s : State) : Out := .next (refclkHoldoverExpiry s)

/-- REFCLK_RETURN (R348). -/
def execRefclkReturn (s : State) : Out := .next (refclkReturn s)

/-- AON_TRIM (R347). -/
def execAonTrim (s : State) : Out := .next (aonTrim s)

/-- CLOCK_STEP_COMPLETE (R351). -/
def execClockStepComplete (tile : Nat) (s : State) : Out := .next (clockStepComplete tile s)

/-- IDLE_NAP_DELAY_EXPIRY (R352). -/
def execIdleNapDelayExpiry (ptile : Nat) (s : State) : Out := .next (idleNapDelayExpiry ptile s)

/-- IDLE_OFF_DELAY_EXPIRY (R352). -/
def execIdleOffDelayExpiry (ptile : Nat) (s : State) : Out := .next (idleOffDelayExpiry ptile s)

/-- TILE_WAKE_COMPLETE (R353). -/
def execTileWakeComplete (ptile : Nat) (s : State) : Out := .next (tileWakeComplete ptile s)

/-- MODULE_STATE_ACTIVE (R355). -/
def execModuleStateActive (sid : Nat) (s : State) : Out := .next (s.dictPutNum sid Obj.moduleStateRequest 1 0)

/-- MODULE_STATE_STANDBY (R355). -/
def execModuleStateStandby (sid : Nat) (s : State) : Out := .next (s.dictPutNum sid Obj.moduleStateRequest 1 1)

/-- MODULE_STATE_DORMANT (R355). -/
def execModuleStateDormant (sid : Nat) (s : State) : Out := .next (s.dictPutNum sid Obj.moduleStateRequest 1 2)

/-- MODULE_STATE_CHANGE_COMPLETE (R355). -/
def execModuleStateChangeComplete (s : State) : Out := .next (moduleStateChangeComplete s)

/-- SENSOR_SAMPLE (R357). -/
def execSensorSample (readings : List Reading) (estimates : List Reading) (s : State) : Out :=
  .next (sensorSample readings estimates s)

/-- THERMAL_GRACE_EXPIRY (R361). -/
def execThermalGraceExpiry (s : State) : Out := .next (thermalGraceExpiry s)

/-- THERMAL_ACCEPT (R361). -/
def execThermalAccept (sid : Nat) (s : State) : Out := .next (s.dictPutNum sid Obj.thermalAccept 1 1)

/-- THERMAL_COUNTER_CLEAR (R372). -/
def execThermalCounterClear (sid : Nat) (s : State) : Out := .next (s.dictPutNum sid Obj.thermalCounterClear 1 1)

/-- PPS_EDGE (R369). -/
def execPpsEdge (pin : Nat) (s : State) : Out := .next (ppsEdge pin s)

/-- TIME_SOURCE_LOST (R369). -/
def execTimeSourceLost (s : State) : Out := .next (timeSourceLost s)

/-- PERF_SAMPLE (R370). -/
def execPerfSample (s : State) : Out := .next (perfSample s)

/-- POWER_ON (R375). -/
def execPowerOn (s : State) : Out := .next (powerOn s)

/-- LINK_TRAINED (R377). -/
def execLinkTrained (link : LinkId) (width : Nat) (rate : Nat) (node : Nat) (capacityMiB : Nat) (bandwidth : Nat) (ide : Nat)
    (s : State) : Out :=
  .next (linkTrained link width rate node capacityMiB bandwidth ide s)

/-- LINK_QUAL_WINDOW_END (R377). -/
def execLinkQualWindowEnd (link : LinkId) (errors : Nat) (received : Nat) (uncorrectable : Nat) (s : State) : Out :=
  .next (linkQualWindowEnd link errors received uncorrectable s)

/-- LINK_TRAINING_DEADLINE (R377). -/
def execLinkTrainingDeadline (link : LinkId) (s : State) : Out := .next (linkTrainingDeadline link s)

/-- HBM_FILL_COMPLETE (R379). -/
def execHbmFillComplete (badGranules : List Nat) (s : State) : Out := .next (hbmFillComplete badGranules s)

/-- BROADCAST_PACKET (R382). -/
def execBroadcastPacket (core : Nat) (packet : Bytes) (s : State) : Out := .next (broadcastPacket core packet s)

/-- BROADCAST_ROUND_END (R382). -/
def execBroadcastRoundEnd (s : State) : Out := .next (broadcastRoundEnd s)

/-- SELFTEST_COMPLETE (R384). -/
def execSelftestComplete (failed : List Nat) (s : State) : Out := .next (selftestComplete failed s)

/-- BRINGUP_COMPLETE (R375). -/
def execBringupComplete (elapsedMs : Nat) (s : State) : Out := .next (bringupComplete elapsedMs s)

/-- HALF_MANAGER_WATCHDOG (R387). -/
def execHalfManagerWatchdog (s : State) : Out := .next (halfManagerWatchdog s)

/-- FULL_RESET (R387). -/
def execFullReset (sid : Nat) (s : State) : Out := .next (s.dictPutNum sid Obj.fullReset 1 1)

/-- COMPUTE_RESET (R388). -/
def execComputeReset (sid : Nat) (s : State) : Out := .next (s.dictPutNum sid Obj.computeReset 1 1)

/-- COMPUTE_RESET_BEGIN (R389). -/
def execComputeResetBegin (s : State) : Out := .next (computeResetBegin s)

/-- SHORT_SELFTEST_COMPLETE (R392). -/
def execShortSelftestComplete (failed : List Nat) (elapsedMs : Nat) (s : State) : Out :=
  .next (shortSelftestComplete failed elapsedMs s)

/-- HOST_LINK_DOWN (R404). -/
def execHostLinkDown (s : State) : Out := .next (hostLinkDown s)

/-- HOST_LINK_UP (R404). -/
def execHostLinkUp (width : Nat) (rate : Nat) (ide : Nat) (s : State) : Out := .next (hostLinkUp width rate ide s)

/-- IRQ_HOLDOFF_EXPIRY (R403). -/
def execIrqHoldoffExpiry (s : State) : Out := .next (irqHoldoffExpiry s)

/-- TIER2_LINK_DOWN (R406). -/
def execTier2LinkDown (port : Nat) (s : State) : Out := .next (tier2LinkDown port s)

end Sys2Proof.Machine
end

