-- ==== Sys2Proof/Machine/ExecTile.lean ====
section
/-! DEFINITION. The meanings of the commands of the matrix array, conversions and thread groups (ch. 3 to 6): one definition for each command, over the shared
operations of its chapter. -/

set_option Elab.async false

namespace Sys2Proof.Machine

open Sys2Proof

/-- MISSUE (R75). -/
def execMissue (g : GroupRef) (word : W64) (hit : ParityHit) (s : State) : Out :=
  .next (missue g word hit s)

/-- MWAIT (R79). -/
def execMwait (g : GroupRef) (word : W64) (hit : ParityHit) (s : State) : Out :=
  .next (mwait g word hit s)

/-- MPOLL (R126). -/
def execMpoll (g : GroupRef) (word : W64) (hit : ParityHit) (s : State) : Out :=
  .next (mpoll g word hit s)

/-- CONVERT (R105). -/
def execConvert (g : GroupRef) (word : W64) (hit : ParityHit) (s : State) : Out :=
  .next (convert g word hit s)

/-- MATRIX_DISPATCH (R75). -/
def execMatrixDispatch (tile : Nat) (s : State) : Out := .next (matrixDispatch tile s).displaceBallast

/-- GAUZE_FRONT_START (R62). -/
def execGauzeFrontStart (tile : Nat) (sub : Nat) (wait : Nat) (s : State) : Out := .next (gauzeFrontStart tile sub wait s)

/-- GAUZE_FRONT_RESUME (R62). -/
def execGauzeFrontResume (tile : Nat) (sub : Nat) (wait : Nat) (s : State) : Out := .next (gauzeFrontResume tile sub wait s)

/-- FLUSH_LOAD (R64). -/
def execFlushLoad (tile : Nat) (sub : Nat) (s : State) : Out := .next (flushLoad tile sub s).displaceBallast

/-- SHAPE_CHANGE (R65). -/
def execShapeChange (tile : Nat) (s : State) : Out := .next (shapeChange tile s).displaceBallast

/-- ACTIVATION_ROW_ISSUE (R56). -/
def execActivationRowIssue (tile : Nat) (sub : Nat) (hit : ParityHit) (err : ErrHit) (s : State) : Out :=
  .next (activationRowIssue tile sub hit err s).afterFault

/-- RESULT_BANK_DRAIN (R58). -/
def execResultBankDrain (tile : Nat) (bank : Nat) (hit : ParityHit) (s : State) : Out := .next (resultBankDrain tile bank hit s).afterFault

/-- MATRIX_COMPLETE (R79). -/
def execMatrixComplete (tile : Nat) (bank : Nat) (s : State) : Out := .next (matrixComplete tile bank s)

/-- MATRIX_COUNTER_CLEAR (R86). -/
def execMatrixCounterClear (sid : Nat) (s : State) : Out := .next (s.dictPutNum sid Obj.matrixCounterClear 1 1)

/-- CONVERSION_START (R128). -/
def execConversionStart (tile : Nat) (err : ErrHit) (s : State) : Out :=
  .next (conversionStart tile err s)

/-- CONVERSION_COMPLETE (R108). -/
def execConversionComplete (tile : Nat) (s : State) : Out := .next (conversionComplete tile s)

/-- FORMAT_COUNTER_CLEAR (R111). -/
def execFormatCounterClear (sid : Nat) (s : State) : Out := .next (s.dictPutNum sid Obj.formatCounterClear 1 1)

/-- BLOCK_ADMIT (R113). -/
def execBlockAdmit (seq : Nat) (tile : Nat) (s : State) : Out := .next (blockAdmit seq tile s)

/-- BRANCH (R121). -/
def execBranch (g : GroupRef) (kind : BranchKind) (ipdom : Nat) (hit : ParityHit) (s : State) : Out :=
  .next (branch g kind ipdom hit s)

/-- EXIT (R121). -/
def execExit (g : GroupRef) (s : State) : Out := .next (exit g s)

/-- FP32_ARITH (R123). -/
def execFp32Arith (g : GroupRef) (op : FpOp) (vd : Nat) (va : Nat) (vb : Nat) (vc : Nat) (hit : ParityHit) (s : State) : Out :=
  .next (fp32Arith g op vd va vb vc hit s)

/-- SHFL (R124). -/
def execShfl (g : GroupRef) (vd : Nat) (va : Nat) (vi : Nat) (hit : ParityHit) (s : State) : Out :=
  .next (shfl g vd va vi hit s)

/-- VOTE (R124). -/
def execVote (g : GroupRef) (kind : VoteKind) (vd : Nat) (vp : Nat) (hit : ParityHit) (s : State) : Out :=
  .next (vote g kind vd vp hit s)

/-- REDUX (R123). -/
def execRedux (g : GroupRef) (op : ReduxOp) (vd : Nat) (va : Nat) (hit : ParityHit) (s : State) : Out :=
  .next (redux g op vd va hit s)

/-- LDS_STS (R135). -/
def execLdsSts (g : GroupRef) (dir : Dir) (width : Nat) (va : Nat) (vd : Nat) (err : ErrHit) (hit : ParityHit) (s : State) : Out :=
  .next (ldsSts g dir width va vd err hit s)

/-- LDC_STC (R136). -/
def execLdcStc (g : GroupRef) (dir : Dir) (width : Nat) (rank : Nat) (va : Nat) (vd : Nat) (err : ErrHit) (hit : ParityHit) (s : State) : Out :=
  .next (ldcStc g dir width rank va vd err hit s)

/-- BAR (R131). -/
def execBar (g : GroupRef) (word : W64) (s : State) : Out := .next (bar g word s)

/-- CBAR (R131). -/
def execCbar (g : GroupRef) (word : W64) (s : State) : Out := .next (cbar g word s)

/-- GBAR (R131). -/
def execGbar (g : GroupRef) (word : W64) (s : State) : Out := .next (gbar g word s)

/-- GBAR_COMPLETE (R132). -/
def execGbarComplete (seq : Nat) (s : State) : Out := .next (gbarComplete seq s)

/-- BARRIER_WD_PULSE (R133). -/
def execBarrierWdPulse (s : State) : Out := .next (barrierWdPulse s)

/-- BLOCK_EXIT_COMPLETE (R79). -/
def execBlockExitComplete (b : BlockRef) (s : State) : Out := .next (blockExitComplete b s)

/-- EXEC_COUNTER_CLEAR (R141). -/
def execExecCounterClear (sid : Nat) (s : State) : Out := .next (s.dictPutNum sid Obj.execCounterClear 1 1)

/-- LD (R166). -/
def execLd (g : GroupRef) (width : Nat) (va : Nat) (vd : Nat) (err : ErrHit) (hit : ParityHit) (s : State) : Out :=
  .next (ld g width va vd err hit s)

end Sys2Proof.Machine
end

