-- ==== Sys2Proof/Machine/Dispatch.lean ====
section
/-! DEFINITION. `exec`: what each command does to everything but the queue. -/

namespace Sys2Proof.Machine

open Sys2Proof

/-- One command's effect. -/
def exec (i : Instr) (s : State) : Host.Outcome State Fault Refusal :=
  match i with
  | .dictRead sid index sub offset => Sys2Proof.Machine.execDictRead sid index sub offset s
  | .dictWrite sid index sub offset more data => Sys2Proof.Machine.execDictWrite sid index sub offset more data s
  | .dictReadStaged sid index sub offset => Sys2Proof.Machine.execDictReadStaged sid index sub offset s
  | .leaseRequestAcquire sid => Sys2Proof.Machine.execLeaseRequestAcquire sid s
  | .leaseRequestRelease sid => Sys2Proof.Machine.execLeaseRequestRelease sid s
  | .leaseBreak sid => Sys2Proof.Machine.execLeaseBreak sid s
  | .leaseExpired => Sys2Proof.Machine.execLeaseExpired s
  | .sessionIdleTimeout sid => Sys2Proof.Machine.execSessionIdleTimeout sid s
  | .lockPassword sid password => Sys2Proof.Machine.execLockPassword sid password s
  | .lockResponse sid sig => Sys2Proof.Machine.execLockResponse sid sig s
  | .lockNonce sid => Sys2Proof.Machine.execLockNonce sid s
  | .lockClose sid => Sys2Proof.Machine.execLockClose sid s
  | .lockOpenTimeExpiry => Sys2Proof.Machine.execLockOpenTimeExpiry s
  | .lockBlockExpiry => Sys2Proof.Machine.execLockBlockExpiry s
  | .commit sid => Sys2Proof.Machine.execCommit sid s
  | .stageDiscard sid => Sys2Proof.Machine.execStageDiscard sid s
  | .settingsSave sid => Sys2Proof.Machine.execSettingsSave sid s
  | .commitWaitExpiry => Sys2Proof.Machine.execCommitWaitExpiry s
  | .stepBoundary => Sys2Proof.Machine.execStepBoundary s
  | .tieringEnable sid => Sys2Proof.Machine.execTieringEnable sid s
  | .tieringDisable sid => Sys2Proof.Machine.execTieringDisable sid s
  | .scrubEnable sid => Sys2Proof.Machine.execScrubEnable sid s
  | .scrubDisable sid => Sys2Proof.Machine.execScrubDisable sid s
  | .tier2Enable sid port => Sys2Proof.Machine.execTier2Enable sid port s
  | .tier2Disable sid port => Sys2Proof.Machine.execTier2Disable sid port s
  | .peerPortEnable sid port => Sys2Proof.Machine.execPeerPortEnable sid port s
  | .peerPortDisable sid port => Sys2Proof.Machine.execPeerPortDisable sid port s
  | .enableSequenceComplete fn ok => Sys2Proof.Machine.execEnableSequenceComplete fn ok s
  | .shutdownComplete fn => Sys2Proof.Machine.execShutdownComplete fn s
  | .domainGateStepGrant domain offset amps => Sys2Proof.Machine.execDomainGateStepGrant domain offset amps s
  | .domainEnableFailed domain => Sys2Proof.Machine.execDomainEnableFailed domain s
  | .missue g word hit => Sys2Proof.Machine.execMissue g word hit s
  | .mwait g word hit => Sys2Proof.Machine.execMwait g word hit s
  | .mpoll g word hit => Sys2Proof.Machine.execMpoll g word hit s
  | .convert g word hit => Sys2Proof.Machine.execConvert g word hit s
  | .matrixDispatch tile => Sys2Proof.Machine.execMatrixDispatch tile s
  | .gauzeFrontStart tile sub wait => Sys2Proof.Machine.execGauzeFrontStart tile sub wait s
  | .gauzeFrontResume tile sub wait => Sys2Proof.Machine.execGauzeFrontResume tile sub wait s
  | .flushLoad tile sub => Sys2Proof.Machine.execFlushLoad tile sub s
  | .shapeChange tile => Sys2Proof.Machine.execShapeChange tile s
  | .activationRowIssue tile sub hit err => Sys2Proof.Machine.execActivationRowIssue tile sub hit err s
  | .resultBankDrain tile bank hit => Sys2Proof.Machine.execResultBankDrain tile bank hit s
  | .matrixComplete tile bank => Sys2Proof.Machine.execMatrixComplete tile bank s
  | .matrixCounterClear sid => Sys2Proof.Machine.execMatrixCounterClear sid s
  | .conversionStart tile err => Sys2Proof.Machine.execConversionStart tile err s
  | .conversionComplete tile => Sys2Proof.Machine.execConversionComplete tile s
  | .formatCounterClear sid => Sys2Proof.Machine.execFormatCounterClear sid s
  | .blockAdmit seq tile => Sys2Proof.Machine.execBlockAdmit seq tile s
  | .branch g kind ipdom hit => Sys2Proof.Machine.execBranch g kind ipdom hit s
  | .exit g => Sys2Proof.Machine.execExit g s
  | .fp32Arith g op vd va vb vc hit => Sys2Proof.Machine.execFp32Arith g op vd va vb vc hit s
  | .shfl g vd va vi hit => Sys2Proof.Machine.execShfl g vd va vi hit s
  | .vote g kind vd vp hit => Sys2Proof.Machine.execVote g kind vd vp hit s
  | .redux g op vd va hit => Sys2Proof.Machine.execRedux g op vd va hit s
  | .ldsSts g dir width va vd err hit => Sys2Proof.Machine.execLdsSts g dir width va vd err hit s
  | .ldcStc g dir width rank va vd err hit => Sys2Proof.Machine.execLdcStc g dir width rank va vd err hit s
  | .bar g word => Sys2Proof.Machine.execBar g word s
  | .cbar g word => Sys2Proof.Machine.execCbar g word s
  | .gbar g word => Sys2Proof.Machine.execGbar g word s
  | .gbarComplete seq => Sys2Proof.Machine.execGbarComplete seq s
  | .barrierWdPulse => Sys2Proof.Machine.execBarrierWdPulse s
  | .blockExitComplete b => Sys2Proof.Machine.execBlockExitComplete b s
  | .execCounterClear sid => Sys2Proof.Machine.execExecCounterClear sid s
  | .ld g width va vd err hit => Sys2Proof.Machine.execLd g width va vd err hit s
  | .st g width va vd hit => Sys2Proof.Machine.execSt g width va vd hit s
  | .fence g word => Sys2Proof.Machine.execFence g word s
  | .lldrop g word hit => Sys2Proof.Machine.execLldrop g word hit s
  | .redl g word hit => Sys2Proof.Machine.execRedl g word hit s
  | .reduceSpill line => Sys2Proof.Machine.execReduceSpill line s
  | .spillCombineReturn line err unit => Sys2Proof.Machine.execSpillCombineReturn line err unit s
  | .feltFillReturn sector err replays => Sys2Proof.Machine.execFeltFillReturn sector err replays s
  | .tableWalkReturn half page west east err => Sys2Proof.Machine.execTableWalkReturn half page west east err s
  | .feltFlushClean sid => Sys2Proof.Machine.execFeltFlushClean sid s
  | .feltFlushInvalidate sid => Sys2Proof.Machine.execFeltFlushInvalidate sid s
  | .feltFlushComplete => Sys2Proof.Machine.execFeltFlushComplete s
  | .bankRetireMovesComplete half group => Sys2Proof.Machine.execBankRetireMovesComplete half group s
  | .feltCounterClear sid => Sys2Proof.Machine.execFeltCounterClear sid s
  | .map seq => Sys2Proof.Machine.execMap seq s
  | .unmap seq => Sys2Proof.Machine.execUnmap seq s
  | .protect seq => Sys2Proof.Machine.execProtect seq s
  | .hostMemRead offset => Sys2Proof.Machine.execHostMemRead offset s
  | .hostMemWrite offset data => Sys2Proof.Machine.execHostMemWrite offset data s
  | .tier2LinkWaitExpiry port => Sys2Proof.Machine.execTier2LinkWaitExpiry port s
  | .migrationEpochEnd => Sys2Proof.Machine.execMigrationEpochEnd s
  | .migrationStart page => Sys2Proof.Machine.execMigrationStart page s
  | .subpageCopyComplete page err => Sys2Proof.Machine.execSubpageCopyComplete page err s
  | .migrationSourceFree page => Sys2Proof.Machine.execMigrationSourceFree page s
  | .tierCounterClear sid => Sys2Proof.Machine.execTierCounterClear sid s
  | .bwIntervalBoundary loads => Sys2Proof.Machine.execBwIntervalBoundary loads s
  | .bwCounterClear sid => Sys2Proof.Machine.execBwCounterClear sid s
  | .ledgerEnableOn sid => Sys2Proof.Machine.execLedgerEnableOn sid s
  | .ledgerEnableOff sid => Sys2Proof.Machine.execLedgerEnableOff sid s
  | .headLineLoss writes cacheError => Sys2Proof.Machine.execHeadLineLoss writes cacheError s
  | .ledgerNop => Sys2Proof.Machine.execLedgerNop s
  | .ledgerKernel => Sys2Proof.Machine.execLedgerKernel s
  | .ledgerCollective => Sys2Proof.Machine.execLedgerCollective s
  | .ledgerCopy => Sys2Proof.Machine.execLedgerCopy s
  | .ledgerMap => Sys2Proof.Machine.execLedgerMap s
  | .ledgerUnmap => Sys2Proof.Machine.execLedgerUnmap s
  | .ledgerProtect => Sys2Proof.Machine.execLedgerProtect s
  | .consumedCountWrite count cacheError => Sys2Proof.Machine.execConsumedCountWrite count cacheError s
  | .kernelDispatch seq => Sys2Proof.Machine.execKernelDispatch seq s
  | .collectiveDispatch seq stage => Sys2Proof.Machine.execCollectiveDispatch seq stage s
  | .copyDispatch seq host stage => Sys2Proof.Machine.execCopyDispatch seq host stage s
  | .entryComplete seq cacheError => Sys2Proof.Machine.execEntryComplete seq cacheError s
  | .eventRecord cacheError => Sys2Proof.Machine.execEventRecord cacheError s
  | .schedPause sid => Sys2Proof.Machine.execSchedPause sid s
  | .schedResume sid => Sys2Proof.Machine.execSchedResume sid s
  | .preemptSaveComplete seq tile => Sys2Proof.Machine.execPreemptSaveComplete seq tile s
  | .blockRestore seq tile => Sys2Proof.Machine.execBlockRestore seq tile s
  | .runtimeLimitExpiry seq => Sys2Proof.Machine.execRuntimeLimitExpiry seq s
  | .schedCounterClear sid => Sys2Proof.Machine.execSchedCounterClear sid s
  | .stepCounterWrite sid value => Sys2Proof.Machine.execStepCounterWrite sid value s
  | .rng g word hit => Sys2Proof.Machine.execRng g word hit s
  | .rngProbe sid input => Sys2Proof.Machine.execRngProbe sid input s
  | .resumeApply sid record => Sys2Proof.Machine.execResumeApply sid record s
  | .scrubPaceTick half hbm count errs behind => Sys2Proof.Machine.execScrubPaceTick half hbm count errs behind s
  | .bundleSignalFailed b signals => Sys2Proof.Machine.execBundleSignalFailed b signals s
  | .bundleSpareComplete b => Sys2Proof.Machine.execBundleSpareComplete b s
  | .errorLogAck sid value => Sys2Proof.Machine.execErrorLogAck sid value s
  | .integrityCounterClear sid => Sys2Proof.Machine.execIntegrityCounterClear sid s
  | .governorTick power demand amps => Sys2Proof.Machine.execGovernorTick power demand amps s
  | .stageFailed stage => Sys2Proof.Machine.execStageFailed stage s
  | .cellFailed group => Sys2Proof.Machine.execCellFailed group s
  | .railCellFailed g => Sys2Proof.Machine.execRailCellFailed g s
  | .fleeceHoldMaxExpiry => Sys2Proof.Machine.execFleeceHoldMaxExpiry s
  | .slotFrameStart => Sys2Proof.Machine.execSlotFrameStart s
  | .slotSyncLost => Sys2Proof.Machine.execSlotSyncLost s
  | .syncLineFramePulse pin => Sys2Proof.Machine.execSyncLineFramePulse pin s
  | .syncLineReleasePulse pin => Sys2Proof.Machine.execSyncLineReleasePulse pin s
  | .inputLow millivolts => Sys2Proof.Machine.execInputLow millivolts s
  | .inputHoldup millivolts => Sys2Proof.Machine.execInputHoldup millivolts s
  | .inputHigh millivolts => Sys2Proof.Machine.execInputHigh millivolts s
  | .inputNormal millivolts => Sys2Proof.Machine.execInputNormal millivolts s
  | .brownoutHoldExpiry => Sys2Proof.Machine.execBrownoutHoldExpiry s
  | .inputBelow40V => Sys2Proof.Machine.execInputBelow40V s
  | .powerCounterClear sid => Sys2Proof.Machine.execPowerCounterClear sid s
  | .refclkLost => Sys2Proof.Machine.execRefclkLost s
  | .refclkHoldoverExpiry => Sys2Proof.Machine.execRefclkHoldoverExpiry s
  | .refclkReturn => Sys2Proof.Machine.execRefclkReturn s
  | .aonTrim => Sys2Proof.Machine.execAonTrim s
  | .clockStepComplete tile => Sys2Proof.Machine.execClockStepComplete tile s
  | .idleNapDelayExpiry ptile => Sys2Proof.Machine.execIdleNapDelayExpiry ptile s
  | .idleOffDelayExpiry ptile => Sys2Proof.Machine.execIdleOffDelayExpiry ptile s
  | .tileWakeComplete ptile => Sys2Proof.Machine.execTileWakeComplete ptile s
  | .moduleStateActive sid => Sys2Proof.Machine.execModuleStateActive sid s
  | .moduleStateStandby sid => Sys2Proof.Machine.execModuleStateStandby sid s
  | .moduleStateDormant sid => Sys2Proof.Machine.execModuleStateDormant sid s
  | .moduleStateChangeComplete => Sys2Proof.Machine.execModuleStateChangeComplete s
  | .sensorSample readings estimates => Sys2Proof.Machine.execSensorSample readings estimates s
  | .thermalGraceExpiry => Sys2Proof.Machine.execThermalGraceExpiry s
  | .thermalAccept sid => Sys2Proof.Machine.execThermalAccept sid s
  | .thermalCounterClear sid => Sys2Proof.Machine.execThermalCounterClear sid s
  | .ppsEdge pin => Sys2Proof.Machine.execPpsEdge pin s
  | .timeSourceLost => Sys2Proof.Machine.execTimeSourceLost s
  | .perfSample => Sys2Proof.Machine.execPerfSample s
  | .powerOn => Sys2Proof.Machine.execPowerOn s
  | .linkTrained link width rate node capacityMiB bandwidth ide => Sys2Proof.Machine.execLinkTrained link width rate node capacityMiB bandwidth ide s
  | .linkQualWindowEnd link errors received uncorrectable => Sys2Proof.Machine.execLinkQualWindowEnd link errors received uncorrectable s
  | .linkTrainingDeadline link => Sys2Proof.Machine.execLinkTrainingDeadline link s
  | .hbmFillComplete badGranules => Sys2Proof.Machine.execHbmFillComplete badGranules s
  | .broadcastPacket core packet => Sys2Proof.Machine.execBroadcastPacket core packet s
  | .broadcastRoundEnd => Sys2Proof.Machine.execBroadcastRoundEnd s
  | .selftestComplete failed => Sys2Proof.Machine.execSelftestComplete failed s
  | .bringupComplete elapsedMs => Sys2Proof.Machine.execBringupComplete elapsedMs s
  | .halfManagerWatchdog => Sys2Proof.Machine.execHalfManagerWatchdog s
  | .fullReset sid => Sys2Proof.Machine.execFullReset sid s
  | .computeReset sid => Sys2Proof.Machine.execComputeReset sid s
  | .computeResetBegin => Sys2Proof.Machine.execComputeResetBegin s
  | .shortSelftestComplete failed elapsedMs => Sys2Proof.Machine.execShortSelftestComplete failed elapsedMs s
  | .hostLinkDown => Sys2Proof.Machine.execHostLinkDown s
  | .hostLinkUp width rate ide => Sys2Proof.Machine.execHostLinkUp width rate ide s
  | .irqHoldoffExpiry => Sys2Proof.Machine.execIrqHoldoffExpiry s
  | .tier2LinkDown port => Sys2Proof.Machine.execTier2LinkDown port s
  | .tier2LinkUp port => Sys2Proof.Machine.execTier2LinkUp port s
  | .expanderEventPoll port uncorrectable => Sys2Proof.Machine.execExpanderEventPoll port uncorrectable s
  | .dataFlit port flit codewordOk => Sys2Proof.Machine.execDataFlit port flit codewordOk s
  | .idleFlit port flit codewordOk => Sys2Proof.Machine.execIdleFlit port flit codewordOk s
  | .nak port flit codewordOk => Sys2Proof.Machine.execNak port flit codewordOk s
  | .laneSwap port flit codewordOk => Sys2Proof.Machine.execLaneSwap port flit codewordOk s
  | .laneSwapAck port flit codewordOk => Sys2Proof.Machine.execLaneSwapAck port flit codewordOk s
  | .width port flit codewordOk => Sys2Proof.Machine.execWidth port flit codewordOk s
  | .retrain port flit codewordOk => Sys2Proof.Machine.execRetrain port flit codewordOk s
  | .replayTimeout port => Sys2Proof.Machine.execReplayTimeout port s
  | .peerRetrainComplete port => Sys2Proof.Machine.execPeerRetrainComplete port s
  | .laneFailed port lane => Sys2Proof.Machine.execLaneFailed port lane s
  | .write port => Sys2Proof.Machine.execWrite port s
  | .read port => Sys2Proof.Machine.execRead port s
  | .readData port => Sys2Proof.Machine.execReadData port s
  | .writeAck port => Sys2Proof.Machine.execWriteAck port s
  | .collData port => Sys2Proof.Machine.execCollData port s
  | .error port => Sys2Proof.Machine.execError port s
  | .halfLinkRetrainFailed => Sys2Proof.Machine.execHalfLinkRetrainFailed s
  | .muslinOpen src => Sys2Proof.Machine.execMuslinOpen src s
  | .muslinClose src session => Sys2Proof.Machine.execMuslinClose src session s
  | .request src session seq word data => Sys2Proof.Machine.execRequest src session seq word data s
  | .beacon src _ slotCount slotLength node _ => Sys2Proof.Machine.execBeacon src slotCount slotLength node s
  | .release _ => Sys2Proof.Machine.execRelease s
  | .time tai _ _ => Sys2Proof.Machine.execTime tai s
  | .muslinFrameDiscard => Sys2Proof.Machine.execMuslinFrameDiscard s
  | .interfaceCounterClear sid => Sys2Proof.Machine.execInterfaceCounterClear sid s
  | .updateBegin sid component => Sys2Proof.Machine.execUpdateBegin sid component s
  | .updateEraseComplete => Sys2Proof.Machine.execUpdateEraseComplete s
  | .updateData sid data => Sys2Proof.Machine.execUpdateData sid data s
  | .updateProgramComplete => Sys2Proof.Machine.execUpdateProgramComplete s
  | .updateVerify sid => Sys2Proof.Machine.execUpdateVerify sid s
  | .updateVerifyComplete => Sys2Proof.Machine.execUpdateVerifyComplete s
  | .updateCommit sid => Sys2Proof.Machine.execUpdateCommit sid s
  | .updateCommitReset sid => Sys2Proof.Machine.execUpdateCommitReset sid s
  | .updateAbort sid => Sys2Proof.Machine.execUpdateAbort sid s
  | .updateConfirm sid => Sys2Proof.Machine.execUpdateConfirm sid s
  | .updateTrialTimeout => Sys2Proof.Machine.execUpdateTrialTimeout s
  | .getVersion path => Sys2Proof.Machine.execGetVersion path s
  | .getCapabilities path => Sys2Proof.Machine.execGetCapabilities path s
  | .negotiateAlgorithms path asym hash dhe aead => Sys2Proof.Machine.execNegotiateAlgorithms path asym hash dhe aead s
  | .getDigests path => Sys2Proof.Machine.execGetDigests path s
  | .getCertificate path slot offset length => Sys2Proof.Machine.execGetCertificate path slot offset length s
  | .challenge path slot nonce => Sys2Proof.Machine.execChallenge path slot nonce s
  | .getMeasurements path index nonce => Sys2Proof.Machine.execGetMeasurements path index nonce s
  | .chunkSend path handle seq last data => Sys2Proof.Machine.execChunkSend path handle seq last data s
  | .chunkGet path handle seq => Sys2Proof.Machine.execChunkGet path handle seq s
  | .keyEx path exchange => Sys2Proof.Machine.execKeyEx path exchange s
  | .finish path mac => Sys2Proof.Machine.execFinish path mac s
  | .endSession path => Sys2Proof.Machine.execEndSession path s
  | .pwrEnDeassert => Sys2Proof.Machine.execPwrEnDeassert s
  | .powerOffComplete => Sys2Proof.Machine.execPowerOffComplete s
  | .pwrEnAssert => Sys2Proof.Machine.execPwrEnAssert s
  | .resetN => Sys2Proof.Machine.execResetN s
  | .hostPerstN => Sys2Proof.Machine.execHostPerstN s
  | .debugTrigger pin => Sys2Proof.Machine.execDebugTrigger pin s
  | .auxPulseInvalid pin micros => Sys2Proof.Machine.execAuxPulseInvalid pin micros s
  | .inputTripped cause => Sys2Proof.Machine.execInputTripped cause s
  | .coolantCheck inletDeci deltaPDeci dewDeci inletHigh flowLow dewLow => Sys2Proof.Machine.execCoolantCheck inletDeci deltaPDeci dewDeci inletHigh flowLow dewLow s
  | .boardCounterClear sid => Sys2Proof.Machine.execBoardCounterClear sid s
  | .copyHostAccessWaitExpiry seq => Sys2Proof.Machine.execCopyHostAccessWaitExpiry seq s
  | .hdmDecoderCommit gib => Sys2Proof.Machine.execHdmDecoderCommit gib s
  | .inputTripRearm => Sys2Proof.Machine.execInputTripRearm s
  | .halfWidthMoveComplete ptile => Sys2Proof.Machine.execHalfWidthMoveComplete ptile s

end Sys2Proof.Machine
end

