-- ==== Sys2Proof/Machine/Flags.lean ====
section
/-! DEFINITION. The status words and lines that the module shows without a command: the registers of the host window (R31) and
the interrupt pending bits; and what passes while no command waits. -/

set_option Elab.async false

namespace Sys2Proof.Machine

open Sys2Proof

/-- DICT_REQ as it reads: GO reads 0 (R31). (DEDUCED, notes/assumptions/73.md). -/
def State.dictReqWord (s : State) : W64 :=
  let r := s.dict.req
  BitVec.ofNat 64 (r.length % 512 + r.offset % 65536 * 2 ^ 16 + r.index % 65536 * 2 ^ 32 + r.sub % 256 * 2 ^ 48 +
    bit01 r.more * 2 ^ 60 + r.op % 4 * 2 ^ 61)

/-- DICT_RESP: DONE reads 1, since a request is one whole command (R31). (DEDUCED, notes/assumptions/73.md). -/
def State.dictRespWord (s : State) : W64 :=
  let r := s.dict.resp
  BitVec.ofNat 64 (r.data.length % 512 + r.total % 65536 * 2 ^ 16 + r.rule % 256 * 2 ^ 32 + r.status % 256 * 2 ^ 48 + 2 ^ 63)

/-- DICT_SESSION (R31). -/
def State.dictSessionWord (s : State) : W64 :=
  BitVec.ofNat 64 (1 + bit01 (s.dict.lease == some 1) * 2 ^ 16 + bit01 (s.lockOpenFor 1) * 2 ^ 32)

/-- What passes while no command waits: one AON tick, which moves the timestamp on by 150 (R368).
(DESIGN CHOICE, notes/assumptions/1.md). -/
def State.idle (s : State) : State := if s.boot.powered then s.advance 150 else s

end Sys2Proof.Machine
end

