-- ==== Sys2Proof/Safety.lean ====
section
/-! DEFINITION. What counts as a safe outcome, what every command keeps (the canonical form of the memories, the field lock's
count of failures, the SVN floors of the components), and the terms in which statements speak of commands and of what they leave
unchanged. -/

namespace Sys2Proof.Machine

open Sys2Proof

/-- An outcome that is a next state: neither a fault nor a refusal. -/
def Goes (o : Host.Outcome State Fault Refusal) : Prop := ∃ t, o = .next t

/-- The bytes of a memory with marks are in canonical form: addresses strictly rising, no entry that reads as an unlisted one. -/
def MarkedMem.wf (m : MarkedMem) : Bool := Memory.wf m.bytes

/-- The memories of the module and of its host are in canonical form. -/
def State.memWf (s : State) : Bool := s.mem.hbm.wf && s.mem.tier0.wf && s.mem.tier1.wf && s.mem.host.wf

/-- The field lock and its count of failed attempts agree (R38): five failures where it is BLOCKED, fewer otherwise. -/
def DictState.lockOk (d : DictState) : Bool :=
  match d.lock with
  | .blocked _ => d.failCount == 5
  | _ => decide (d.failCount ≤ 4)

/-- No component's SVN floor is lower in the second list than in the first (R428). -/
def floorsRise : List Comp → List Comp → Bool
  | [], [] => true
  | c :: l, d :: m => decide (c.svnFloor ≤ d.svnFloor) && floorsRise l m
  | _, _ => false

/-! ### Requests to the dictionary, as statements speak of them -/

/-- Is a request of a session for an object served: the session exists, and the dictionary answers (R31, R378, R386)? `op`: 0 READ,
1 WRITE, 2 READ_STAGED. -/
def State.serves (s : State) (op sid key : Nat) : Bool := s.sessionOpen sid && s.served op (key / 256) key

/-- May a session write an object: its request is served, and it holds the lease (R34)? -/
def State.mayWrite (s : State) (sid key : Nat) : Bool := s.serves 1 sid key && s.dict.lease == some sid

/-- The last answer a session has been given: in DICT_RESP and its buffer, or in the last response sent (R31, R423). -/
def State.lastAnswer (s : State) (sid : Nat) : Option DictResp := if sid = 1 then some s.dict.resp else s.dict.replies.getLast?

/-- Has a session been answered with a status and a rule number? -/
def State.answered (s : State) (sid status rule : Nat) : Prop := ∃ r, s.lastAnswer sid = some r ∧ r.sid = sid ∧ r.status = status ∧ r.rule = rule

/-! ### Instructions, as statements speak of them -/

/-- Group `g` can issue an instruction: its block `b` runs, its tile is not changing its clock, no load of the group is
outstanding, `p` is its running path, and its instruction's sector carries no mark. -/
structure State.Issues (s : State) (g : GroupRef) (b : Block) (gr : Group) (p : Path) : Prop where
  block   : s.block g.tile g.slot = some b
  alive   : b.exiting = false
  here    : b.saving = false
  clock   : (s.tile g.tile).retune = false
  group   : b.groups[g.group]? = some gr
  loads   : gr.loads = 0
  running : gr.running = some p
  fetch   : s.peekMark (p.pc / 32) = none

/-- The state once the registers of an instruction of a tile have been checked: an error whose replay runs clean is counted and logged
(R288). -/
def State.replayed (s : State) (tile : Nat) (hit : ParityHit) : State :=
  match hit with
  | .none => s
  | _ => s.parityReplay tile 0

/-- The state once the first sector that a group's scratchpad access reads has been checked (R287). -/
def State.firstError (s : State) (gr : Group) (p : Path) (va : Nat) (t : Block) (err : ErrHit) : State :=
  match (laneOffsets gr p va).head? with
  | some e => s.scratchError t.tile t.uid (e.2 / 32) err
  | none => s

/-- The objects that a clear object sets to 0, as first and last keys: the counters of its chapter's object table. -/
def clearedBy (key : Nat) : List (Nat × Nat) :=
  if key = Obj.matrixCounterClear then [(0x200004, 0x200007), (0x201001, 0x201040), (0x201101, 0x201106)]
  else if key = Obj.formatCounterClear then [(0x210009, 0x21000D)]
  else if key = Obj.execCounterClear then [(0x220005, 0x220008)]
  else if key = Obj.orderCounterClear then [(0x230003, 0x230006)]
  else if key = Obj.feltCounterClear then [(0x30000C, 0x300018)]
  else if key = Obj.tierCounterClear then [(0x310018, 0x310020)]
  else if key = Obj.bwCounterClear then [(0x320003, 0x320004), (0x324001, 0x324706)]
  else if key = Obj.schedCounterClear then [(0x330016, 0x33001C), (0x33001E, 0x33001E)]
  else if key = Obj.integrityCounterClear then [(0x400005, 0x400011), (0x400014, 0x400015)]
  else if key = Obj.powerCounterClear then [(0x50001C, 0x50001E)]
  else if key = Obj.thermalCounterClear then [(0x510007, 0x510009)]
  else if key = Obj.interfaceCounterClear then
    [(0x700006, 0x700006), (0x710009, 0x710009), (0x720004, 0x720007), (0x720009, 0x720009)]
  else if key = Obj.boardCounterClear then [(0x900010, 0x900011)]
  else []

/-- The table of R50: the state a request leads to and its status. -/
def switchTable : FState → Bool → FState × Nat
  | .off, true => (.enabling, dOk)
  | .off, false => (.off, dOk)
  | .enabling, true => (.enabling, dOk)
  | .enabling, false => (.enablingDisableQueued, dQueued)
  | .on, true => (.on, dOk)
  | .on, false => (.disabling, dOk)
  | .disabling, true => (.disablingEnableQueued, dQueued)
  | .disabling, false => (.disabling, dOk)
  | .disablingEnableQueued, true => (.disablingEnableQueued, dBusy)
  | .disablingEnableQueued, false => (.disabling, dOk)
  | .enablingDisableQueued, true => (.enabling, dOk)
  | .enablingDisableQueued, false => (.enablingDisableQueued, dBusy)
  | .heldDown, true => (.heldDown, dBusy)
  | .heldDown, false => (.off, dOk)

/-- A slot was taken as one more entry, last, with a status, and the next ALIVE expected (R245); the next slot may be in hand at once (R244). -/
def State.took (s t : State) (st : EState) (alive : Nat) : Prop :=
  ∃ e, t.ledger.entries = s.ledger.entries ++ [e] ∧ e.seq = s.ledger.seq ∧ e.status = st ∧ t.ledger.seq = s.ledger.seq + 1 ∧
    t.ledger.alive = alive % 256 ∧
    (t.ledger.fetched = none ∨ t.ledger.fetched = some (t.mem.host.readN t.slotAddr 128))

/-- A flit that port `p` receives whole and without a protocol error: live port, good CRC, header `h`, and the type and control type named (R408). -/
def State.takesFlit (s : State) (p : Nat) (f : Bytes) (ftype ctype h : Nat) : Bool :=
  s.peerLive p && flitCrcOk f && decide (leNat (f.take 8) = h) && !flitBad f && decide (h / 2 ^ 60 = ftype) &&
    (decide (ftype ≠ 2) || decide (h / 2 ^ 19 % 16 = ctype))

/-- A group `b` is group `a` after an instruction that writes registers: `w` says what a register of a lane is given, every register it
says nothing of is unchanged, and the path goes to the next instruction. -/
def Group.wrote (a b : Group) (w : Nat → Nat → Option RegVal) : Prop :=
  (∀ l, l < 32 → ∀ r, r < 256 → b.reg l r = (w l r).getD (a.reg l r)) ∧ b.stack = a.advance.stack ∧ b.exited = a.exited ∧
    b.stores = a.stores ∧ b.loads = a.loads

/-! ### Data at hand: what a command reads or writes without waiting (R176, R181, R212) -/

/-- The sector of the scratchpad of an owner's block on a tile; beyond the block's allocation it is open. -/
def State.padSector (s : State) (tile uid sn : Nat) : SectorVal :=
  match s.ownerBlock tile uid with
  | none => { data := 0, mark := none }
  | some b => if b.scratchB ≤ sn * 32 then { data := Config.freeScratch sn, mark := none } else b.scratch.sector sn

/-- A sector as Felt holds it, where it is present. -/
def State.feltSector (s : State) (sn : Nat) : Option FSector :=
  ((NMap.look s.felt.lines (sn / 4)).bind fun l => l.sectors[sn % 4]?).filter (·.present)

/-- Is a sector in Felt, without poison, and served to a master at once: its bank serves, its line is not dead, and no port of the master
stops? -/
def State.holds (s : State) (sn master : Nat) : Bool :=
  s.bankOpen (sn / 4) && !s.portStopped master && !s.felt.dead.contains (sn / 4) && (s.feltSector sn).any fun x => x.val.mark.isNone

/-- May a sector that Felt holds be written by a master at once? -/
def State.writable (s : State) (sn master : Nat) : Bool :=
  s.bankOpen (sn / 4) && !s.portStopped master && (s.feltSector sn).any fun x => !x.fetching

/-- The data of `n` sectors that Felt holds, from `sn` on. -/
def State.heldBytes (s : State) (sn n : Nat) : Bytes :=
  (List.range n).flatMap fun k => sectorBytes (((s.feltSector (sn + k)).map (·.val.data)).getD 0)

/-- A sector of an operand that the array or the converter of a tile reads without waiting and without a fault: in the owner's scratchpad,
its poison carried, or held by Felt for the tile, in a page that may be read. -/
def State.sectorHere (s : State) (tile uid : Nat) (dev : Bool) (sn : Nat) : Option SectorVal :=
  if dev then
    (if s.violationKind (sn * 32) false = none && s.holds sn (mTile tile) then (s.feltSector sn).map (·.val) else none)
  else if s.haltOn 1 && (s.padSector tile uid sn).mark.isSome then none
  else some (s.padSector tile uid sn)

/-- A row of `n` elements of a format at an address, where every sector of it is at hand. -/
def State.rowHere (s : State) (tile uid : Nat) (dev : Bool) (addr fmt n : Nat) : Option (List Elt) :=
  ((List.range ((rowBytes fmt n + 31) / 32)).mapM fun j => s.sectorHere tile uid dev (addr / 32 + j)).map (eltsOf fmt n)

/-- May a destination's rows of `n` bytes be written at once: in the scratchpad, or Felt holds every sector of them? -/
def State.rowsWritable (s : State) (tile : Nat) (o : Operand) (stride n rows : Nat) : Bool :=
  !o.dev || (List.range rows).all fun r => (List.range ((n + 31) / 32)).all fun k =>
    s.writable ((o.addr + r * stride * 32) / 32 + k) (mTile tile)

/-! ### Weight loads, as statements speak of them -/

/-- The scales of a load without a fault: the policy for DATA carries poison, and at BLOCK grain every entry has its tag (R96, R293). -/
def State.scalesGood (s : State) (tile : Nat) (i : MInstr) : Bool :=
  !s.haltOn 1 && (decide (i.desc.grain ≠ 3) || (List.range i.desc.n).all fun n => (List.range (i.desc.k / 32)).all fun b =>
    decide ((s.scaleEntry tile i.owner i.desc.wScale (n * (i.desc.k / 32) + b)).2.1 =
      (i.desc.tagBase + n * (i.desc.k / 32) + b) % 65536))

/-- Row `r` of an instruction's weights, where it is at hand. -/
def State.weightRow (s : State) (tile : Nat) (i : MInstr) (r : Nat) : Option (List Elt) :=
  s.rowHere tile i.owner i.desc.w.dev (i.desc.w.addr + r * i.desc.wStride * 32) i.desc.wFmt i.desc.n

/-- The weights of an instruction stand in its register, as rows `rows`, marked as its own load, and its rows can issue (R62, R75). -/
def State.Loaded (t : State) (tile : Nat) (i : MInstr) (rows : List (List Elt)) : Prop :=
  ∃ a w, t.sub tile i.desc.sub = some a ∧ a.register i = some w ∧ w.cols = columnsOf i.desc.n rows ∧ w.info = loadOf i ∧
    a.part = [] ∧ ∀ x ∈ a.queue, x.same i = true → x.phase = .rows 0

/-- A weight load of an instruction that reads its scales and its rows without stopping, the rows `part` and the sectors `got` of the next
row being there already (R62, R64, R75): the register the instruction uses holds the weights, marked as its own load, the other one is
unchanged, and the instruction's rows can issue. `o` is the outcome of the command that loads from state `s`. -/
def State.LoadsFrom (s : State) (tile : Nat) (i : MInstr) (part : List (List Elt)) (got : List SectorVal)
    (o : Host.Outcome State Fault Refusal) : Prop :=
  ∀ (s1 s2 : State) (bs : List (List Nat)) (cs : List W32) (ts : W32) (ms : List (Option PoisonClass)) (rows : List (List Elt))
    (rest : List SectorVal) (a : SubArray),
    s.weightScales tile i = (s1, .ok (bs, cs, ts, ms)) →
    State.weightRows tile i (i.desc.k - part.length) part.length part got s1 = (s2, rows, rest, .ok ()) →
    s2.dropViolation i.desc.wDrops = none → s2.sub tile i.desc.sub = some a →
    ∃ t a', o = .next t ∧ t.sub tile i.desc.sub = some a' ∧
      a'.register i = some { cols := columnsOf i.desc.n rows, blockSc := bs, chanSc := cs, tscale := ts, marks := ms, info := loadOf i } ∧
      (if i.useY then a'.x = a.x else a'.y = a.y) ∧
      a'.queue = a.queue.map (fun x => if x.same i then { x with phase := .rows 0 } else x)

/-! ### Frames -/

/-- The facets of the state that frames speak of. -/
inductive Facet where
  | queue     -- the queue of commands
  | settings  -- the values in force of the dictionary objects
  | counters  -- the counters of the dictionary
  | window    -- the request and response registers with the data buffer, and the responses to Muslin sessions
  | sessions  -- sessions and their partial writes
  | lease     -- the configuration lease
  | lock      -- the field lock, its count of failures and the nonce
  | password  -- the password digest
  | staging   -- the staged set and the queued commit
  | commits   -- the commit result, ConfigGeneration and the claims
  | blobs     -- the settings blobs
  | draws     -- the count of free values drawn
  | tiles     -- the tiles, their blocks and matrix arrays
  | felt      -- Felt
  | hbm       -- HBM
  | tier      -- the second tier
  | host      -- host memory
  | tables    -- page tables, frames, regions and memory queues
  | bw        -- bandwidth regulation
  | ledger    -- ledger, scheduler and messages sent
  | det       -- the run
  | integ     -- error log, repair store, bundles
  | funcs     -- the functions of R50
  | power     -- the governor
  | thermal   -- clocks, sensors and module state
  | boot      -- bring-up and binding
  | fuses     -- the fused values
  | iface     -- the interfaces
  | images    -- the firmware images
  | update    -- the update machine
  | board     -- board sensors
  deriving DecidableEq, Repr

/-- A facet is the same in two states; `tables` is everything the memory system holds but the contents of the memories. -/
def Facet.same : Facet → State → State → Prop
  | .queue, s, t => t.pending = s.pending
  | .settings, s, t => t.dict.values = s.dict.values
  | .counters, s, t => t.dict.counters = s.dict.counters
  | .window, s, t => (t.dict.req, t.dict.resp, t.dict.buffer, t.dict.replies) = (s.dict.req, s.dict.resp, s.dict.buffer, s.dict.replies)
  | .sessions, s, t => (t.dict.parts, t.dict.hostOpen, t.dict.sessions) = (s.dict.parts, s.dict.hostOpen, s.dict.sessions)
  | .lease, s, t => t.dict.lease = s.dict.lease
  | .lock, s, t => (t.dict.lock, t.dict.failCount, t.dict.nonce) = (s.dict.lock, s.dict.failCount, s.dict.nonce)
  | .password, s, t => t.dict.password = s.dict.password
  | .staging, s, t => (t.dict.staged, t.dict.queued) = (s.dict.staged, s.dict.queued)
  | .commits, s, t => (t.dict.commitRes, t.dict.configGen, t.dict.claims) = (s.dict.commitRes, s.dict.configGen, s.dict.claims)
  | .blobs, s, t => (t.dict.blobCur, t.dict.blobPrior) = (s.dict.blobCur, s.dict.blobPrior)
  | .draws, s, t => t.dict.freeCount = s.dict.freeCount
  | .tiles, s, t => t.tiles = s.tiles
  | .felt, s, t => t.felt = s.felt
  | .hbm, s, t => t.mem.hbm = s.mem.hbm
  | .tier, s, t => (t.mem.tier0, t.mem.tier1) = (s.mem.tier0, s.mem.tier1)
  | .host, s, t => t.mem.host = s.mem.host
  | .tables, s, t => { t.mem with hbm := .empty, tier0 := .empty, tier1 := .empty, host := .empty } =
      { s.mem with hbm := .empty, tier0 := .empty, tier1 := .empty, host := .empty }
  | .bw, s, t => t.bw = s.bw
  | .ledger, s, t => t.ledger = s.ledger
  | .det, s, t => t.det = s.det
  | .integ, s, t => t.integ = s.integ
  | .funcs, s, t => t.funcs = s.funcs
  | .power, s, t => t.power = s.power
  | .thermal, s, t => t.thermal = s.thermal
  | .boot, s, t => t.boot = s.boot
  | .fuses, s, t => t.fuses = s.fuses
  | .iface, s, t => t.iface = s.iface
  | .images, s, t => t.fw.comps = s.fw.comps
  | .update, s, t => { t.fw with comps := [] } = { s.fw with comps := [] }
  | .board, s, t => t.board = s.board

/-- Every facet but those listed is the same. -/
def SameBut (l : List Facet) (s t : State) : Prop := ∀ p, p ∉ l → p.same s t

/-- What a command may change (the frame of every command): every other facet stays as it is. -/
def touches : Instr → List Facet
  | .dictRead .. | .lockNonce .. =>
    [.window, .sessions, .lock, .draws]
  | .dictWrite .. | .broadcastRoundEnd | .request .. =>
    [.settings, .counters, .window, .sessions, .lease, .lock, .password, .staging, .commits, .blobs, .draws, .tiles,
    .felt, .hbm, .tier, .tables, .bw, .ledger, .det, .integ, .funcs, .power, .thermal, .boot, .iface, .images, .update]
  | .dictReadStaged .. =>
    [.window, .sessions]
  | .leaseRequestAcquire .. =>
    [.window, .sessions, .lease]
  | .leaseRequestRelease .. | .leaseBreak .. =>
    [.counters, .window, .sessions, .lease, .lock, .staging, .ledger, .integ, .images, .update]
  | .leaseExpired =>
    [.counters, .lease, .lock, .staging, .ledger, .integ, .images, .update]
  | .sessionIdleTimeout .. | .muslinClose .. =>
    [.counters, .sessions, .lease, .lock, .staging, .ledger, .integ, .images, .update]
  | .lockPassword .. | .lockResponse .. =>
    [.counters, .window, .sessions, .lock, .ledger, .integ]
  | .lockClose .. =>
    [.window, .sessions, .lock]
  | .lockOpenTimeExpiry | .lockBlockExpiry =>
    [.lock]
  | .commit .. =>
    [.settings, .counters, .window, .sessions, .lease, .lock, .password, .staging, .commits, .draws, .tiles, .felt,
    .hbm, .tier, .tables, .bw, .ledger, .det, .integ, .funcs, .power, .thermal, .boot, .images, .update]
  | .stageDiscard .. =>
    [.window, .sessions, .staging, .commits]
  | .settingsSave .. =>
    [.window, .sessions, .blobs]
  | .commitWaitExpiry =>
    [.staging, .commits]
  | .stepBoundary =>
    [.settings, .counters, .sessions, .lease, .lock, .password, .staging, .commits, .draws, .tiles, .felt, .hbm, .tier,
    .tables, .bw, .ledger, .det, .integ, .funcs, .power, .thermal, .boot, .images, .update]
  | .tieringEnable .. | .tieringDisable .. | .scrubEnable .. | .scrubDisable .. | .tier2Enable .. | .tier2Disable ..
    | .peerPortEnable .. | .peerPortDisable .. =>
    [.settings, .counters, .window, .sessions, .commits, .hbm, .tier, .tables, .bw, .ledger, .integ, .funcs, .power]
  | .enableSequenceComplete .. | .domainEnableFailed .. =>
    [.counters, .staging, .commits, .tiles, .felt, .hbm, .tier, .tables, .bw, .ledger, .integ, .funcs, .power, .thermal,
    .boot]
  | .shutdownComplete .. | .linkQualWindowEnd .. | .linkTrainingDeadline .. =>
    [.counters, .draws, .tiles, .felt, .hbm, .tier, .tables, .bw, .ledger, .integ, .funcs, .power, .thermal, .boot,
    .iface]
  | .domainGateStepGrant .. | .fleeceHoldMaxExpiry | .slotFrameStart | .syncLineFramePulse .. | .syncLineReleasePulse ..
    | .release .. =>
    [.power]
  | .missue .. | .mwait .. | .mpoll .. | .convert .. | .exit .. | .bar .. | .cbar .. | .gbar .. | .barrierWdPulse
    | .rng .. =>
    [.counters, .tiles, .felt, .ledger, .integ]
  | .matrixDispatch .. =>
    [.tiles, .power]
  | .gauzeFrontStart .. | .gauzeFrontResume .. | .conversionStart .. | .conversionComplete .. | .ld .. | .st ..
    | .lldrop .. | .redl .. | .reduceSpill .. | .spillCombineReturn .. | .feltFillReturn .. | .feltFlushComplete
    | .bankRetireMovesComplete .. | .unmap .. | .bundleSpareComplete .. =>
    [.counters, .draws, .tiles, .felt, .hbm, .tier, .tables, .bw, .ledger, .integ]
  | .flushLoad .. | .shapeChange .. =>
    [.counters, .draws, .tiles, .felt, .hbm, .tier, .tables, .bw, .ledger, .integ, .power]
  | .activationRowIssue .. | .resultBankDrain .. | .bundleSignalFailed .. =>
    [.counters, .staging, .commits, .draws, .tiles, .felt, .hbm, .tier, .tables, .bw, .ledger, .det, .integ, .power,
    .thermal, .boot]
  | .matrixComplete .. =>
    [.counters, .draws, .tiles, .felt, .hbm, .tier, .tables, .bw]
  | .matrixCounterClear .. | .formatCounterClear .. | .execCounterClear .. | .feltCounterClear .. | .tierCounterClear ..
    | .schedCounterClear .. | .integrityCounterClear .. | .powerCounterClear .. | .thermalCounterClear ..
    | .interfaceCounterClear .. | .boardCounterClear .. =>
    [.counters, .window, .sessions]
  | .blockAdmit .. =>
    [.tiles, .ledger, .thermal]
  | .branch .. | .fp32Arith .. | .shfl .. | .vote .. | .redux .. | .ldsSts .. | .ldcStc .. | .fence .. =>
    [.counters, .draws, .tiles, .felt, .ledger, .integ]
  | .gbarComplete .. | .clockStepComplete .. =>
    [.tiles, .ledger]
  | .blockExitComplete .. | .runtimeLimitExpiry .. =>
    [.tiles, .felt, .ledger, .thermal]
  | .tableWalkReturn .. | .computeResetBegin =>
    [.counters, .draws, .tiles, .felt, .hbm, .tier, .tables, .bw, .ledger, .integ, .boot]
  | .feltFlushClean .. | .feltFlushInvalidate .. =>
    [.window, .sessions, .felt]
  | .map .. =>
    [.tables, .ledger]
  | .protect .. =>
    [.felt, .tables, .ledger]
  | .hostMemRead .. | .hostMemWrite .. =>
    [.counters, .draws, .felt, .hbm, .tier, .tables, .bw, .ledger, .integ]
  | .tier2LinkWaitExpiry .. =>
    [.counters, .draws, .tiles, .felt, .hbm, .tier, .tables, .bw, .ledger, .integ, .funcs, .boot, .iface]
  | .migrationEpochEnd | .hdmDecoderCommit .. =>
    [.tables]
  | .migrationStart .. =>
    [.counters, .tables, .ledger, .integ]
  | .subpageCopyComplete .. =>
    [.counters, .hbm, .tier, .tables, .bw, .ledger, .integ]
  | .migrationSourceFree .. =>
    [.counters, .tables]
  | .bwIntervalBoundary .. =>
    [.counters, .bw, .ledger, .integ]
  | .bwCounterClear .. =>
    [.counters, .window, .sessions, .bw]
  | .ledgerEnableOn .. =>
    [.counters, .window, .sessions, .ledger, .integ]
  | .ledgerEnableOff .. =>
    [.counters, .window, .sessions, .staging, .commits, .tiles, .felt, .ledger, .power, .boot]
  | .headLineLoss .. | .consumedCountWrite .. | .eventRecord .. =>
    [.counters, .host, .ledger, .integ]
  | .ledgerNop | .ledgerKernel | .ledgerCollective | .ledgerCopy | .ledgerMap | .ledgerUnmap | .ledgerProtect =>
    [.counters, .host, .ledger]
  | .kernelDispatch .. =>
    [.tiles, .ledger, .funcs, .power]
  | .collectiveDispatch .. | .tier2LinkUp .. | .write .. | .collData .. =>
    [.counters, .draws, .tiles, .felt, .hbm, .tier, .tables, .bw, .ledger, .integ, .iface]
  | .copyDispatch .. =>
    [.counters, .draws, .tiles, .felt, .hbm, .tier, .host, .tables, .bw, .ledger, .integ]
  | .entryComplete .. =>
    [.counters, .staging, .commits, .tiles, .felt, .host, .ledger, .integ, .power, .boot]
  | .schedPause .. =>
    [.counters, .window, .sessions, .ledger]
  | .schedResume .. =>
    [.window, .sessions, .ledger, .det]
  | .preemptSaveComplete .. =>
    [.counters, .tiles, .felt, .bw, .ledger, .funcs, .power, .thermal]
  | .blockRestore .. =>
    [.counters, .tiles, .bw, .ledger, .funcs, .power, .thermal]
  | .stepCounterWrite .. | .rngProbe .. | .resumeApply .. =>
    [.window, .sessions, .det]
  | .scrubPaceTick .. =>
    [.counters, .felt, .hbm, .tier, .tables, .bw, .ledger, .integ]
  | .errorLogAck .. =>
    [.window, .sessions, .integ]
  | .governorTick .. =>
    [.counters, .felt, .hbm, .tier, .tables, .bw, .ledger, .integ, .funcs, .power]
  | .stageFailed .. =>
    [.counters, .tiles, .felt, .ledger, .integ, .funcs, .power, .thermal]
  | .cellFailed .. =>
    [.counters, .staging, .commits, .draws, .tiles, .felt, .ledger, .det, .integ, .funcs, .power, .thermal, .boot]
  | .railCellFailed .. =>
    [.counters, .tiles, .felt, .ledger, .integ, .funcs, .power, .thermal, .boot]
  | .slotSyncLost | .beacon .. =>
    [.counters, .ledger, .integ, .power]
  | .inputLow .. | .inputHigh .. =>
    [.counters, .ledger, .integ, .power, .images, .update]
  | .inputHoldup .. =>
    [.counters, .window, .sessions, .lease, .lock, .staging, .tables, .ledger, .integ, .funcs, .power, .boot, .iface,
    .images, .update]
  | .inputNormal .. | .powerOn | .pwrEnAssert =>
    [.settings, .counters, .blobs, .ledger, .integ, .funcs, .power, .boot, .iface, .images, .update]
  | .brownoutHoldExpiry | .refclkHoldoverExpiry =>
    [.tiles, .felt, .ledger, .funcs, .power, .thermal]
  | .inputBelow40V | .inputTripped .. =>
    [.settings, .counters, .window, .sessions, .lease, .lock, .staging, .commits, .draws, .tiles, .felt, .hbm, .tables,
    .bw, .ledger, .det, .integ, .funcs, .power, .thermal, .boot, .iface, .images, .update]
  | .refclkLost | .timeSourceLost =>
    [.counters, .ledger, .integ, .thermal]
  | .refclkReturn | .aonTrim | .idleNapDelayExpiry .. | .tileWakeComplete .. | .ppsEdge .. | .time .. =>
    [.thermal]
  | .idleOffDelayExpiry .. =>
    [.counters, .hbm, .tier, .tables, .bw, .ledger, .integ, .funcs, .power, .thermal]
  | .moduleStateActive .. | .moduleStateStandby .. | .moduleStateDormant .. | .halfManagerWatchdog | .fullReset ..
    | .halfLinkRetrainFailed | .updateCommit .. | .updateCommitReset .. | .updateTrialTimeout | .resetN =>
    [.settings, .counters, .window, .sessions, .lease, .lock, .staging, .commits, .blobs, .tiles, .felt, .hbm, .tables,
    .bw, .ledger, .det, .integ, .funcs, .power, .thermal, .boot, .iface, .images, .update]
  | .moduleStateChangeComplete =>
    [.counters, .staging, .commits, .draws, .tiles, .felt, .hbm, .tier, .tables, .bw, .ledger, .integ, .funcs, .power,
    .thermal, .boot]
  | .sensorSample .. =>
    [.counters, .draws, .tiles, .felt, .hbm, .tier, .tables, .bw, .ledger, .integ, .funcs, .power, .thermal, .boot,
    .iface, .board]
  | .thermalGraceExpiry =>
    [.counters, .tiles, .ledger, .integ, .thermal]
  | .thermalAccept .. =>
    [.counters, .window, .sessions, .tiles, .ledger, .integ, .thermal]
  | .perfSample =>
    [.counters, .draws, .tiles, .felt, .hbm, .tier, .tables, .bw, .ledger, .integ, .thermal]
  | .linkTrained .. =>
    [.counters, .sessions, .draws, .tiles, .felt, .hbm, .tier, .tables, .bw, .ledger, .integ, .boot, .iface]
  | .hbmFillComplete .. =>
    [.counters, .draws, .felt, .hbm, .tier, .tables, .bw, .ledger, .integ, .boot]
  | .broadcastPacket .. =>
    [.counters, .boot]
  | .selftestComplete .. =>
    [.counters, .tiles, .felt, .tables, .ledger, .det, .integ, .funcs, .power, .thermal, .boot, .iface]
  | .bringupComplete .. =>
    [.counters, .lock, .blobs, .bw, .ledger, .integ, .thermal, .boot, .images]
  | .computeReset .. =>
    [.window, .sessions, .staging, .commits, .tiles, .felt, .ledger, .power, .boot]
  | .shortSelftestComplete .. =>
    [.counters, .tiles, .felt, .ledger, .det, .integ, .power, .thermal, .boot]
  | .hostLinkDown | .hostPerstN =>
    [.counters, .window, .sessions, .lease, .lock, .staging, .tables, .ledger, .integ, .iface, .images, .update]
  | .hostLinkUp .. =>
    [.counters, .sessions, .draws, .tiles, .felt, .hbm, .tier, .host, .tables, .bw, .ledger, .integ, .iface]
  | .irqHoldoffExpiry | .copyHostAccessWaitExpiry .. =>
    [.ledger]
  | .tier2LinkDown .. =>
    [.counters, .hbm, .tier, .tables, .bw, .ledger, .integ, .iface]
  | .expanderEventPoll .. | .auxPulseInvalid .. =>
    [.counters, .ledger, .integ]
  | .dataFlit .. | .idleFlit .. | .width .. =>
    [.counters, .ledger, .integ, .iface]
  | .nak .. | .laneSwap .. | .laneSwapAck .. | .retrain .. | .replayTimeout .. | .peerRetrainComplete ..
    | .laneFailed .. =>
    [.counters, .draws, .ledger, .integ, .funcs, .boot, .iface]
  | .read .. =>
    [.counters, .draws, .felt, .hbm, .tier, .tables, .bw, .ledger, .integ, .iface]
  | .readData .. | .writeAck .. | .error .. | .getVersion .. | .getCapabilities .. | .negotiateAlgorithms ..
    | .getDigests .. | .getCertificate .. | .chunkSend .. | .chunkGet .. | .finish .. | .endSession .. =>
    [.iface]
  | .muslinOpen .. =>
    [.sessions, .iface]
  | .muslinFrameDiscard =>
    [.counters]
  | .updateBegin .. | .updateData .. | .updateAbort .. =>
    [.window, .sessions, .images, .update]
  | .updateEraseComplete | .updateProgramComplete =>
    [.update]
  | .updateVerify .. =>
    [.window, .sessions, .update]
  | .updateVerifyComplete =>
    [.images, .update]
  | .updateConfirm .. =>
    [.counters, .window, .sessions, .blobs, .ledger, .integ, .images]
  | .challenge .. | .getMeasurements .. | .keyEx .. =>
    [.draws, .iface]
  | .pwrEnDeassert =>
    [.counters, .tiles, .felt, .ledger, .integ, .power, .boot]
  | .powerOffComplete =>
    [.settings, .counters, .window, .sessions, .lease, .lock, .staging, .commits, .blobs, .tiles, .felt, .hbm, .tier,
    .tables, .bw, .ledger, .det, .integ, .funcs, .power, .thermal, .boot, .iface, .images, .update]
  | .debugTrigger .. | .coolantCheck .. =>
    [.counters, .ledger, .integ, .board]
  | .inputTripRearm =>
    [.boot]
  | .halfWidthMoveComplete .. =>
    [.counters, .tiles, .ledger, .integ]

end Sys2Proof.Machine
end

