-- ==== Sys2Proof/WellFormed.lean ====
section
/-! DEFINITION. Which commands are well formed: every operand lies in the range of the thing it names. -/

set_option Elab.async false

namespace Sys2Proof

/-- A group: 64 logical tiles, 8 blocks and 64 groups on a tile (R13, R113). -/
def GroupRef.wf (g : GroupRef) : Bool := decide (g.tile < 64) && decide (g.slot < 8) && decide (g.group < 64)

/-- A block. -/
def BlockRef.wf (b : BlockRef) : Bool := decide (b.tile < 64) && decide (b.slot < 8)

/-- A function of R50: 2 second-tier ports, 18 peer ports, 20 domains (R319). -/
def Func.wf : Func → Bool
  | .tiering => true
  | .scrub => true
  | .tier2 p => decide (p < 2)
  | .peer p => decide (p < 18)
  | .domain c => decide (c < 20)

/-- A bundle of R302: 72 physical tiles with 64 bundles each way, 256 bank groups a half. -/
def Bundle.wf : Bundle → Bool
  | .portRead t b => decide (t < 72) && decide (b < 64)
  | .portWrite t b => decide (t < 72) && decide (b < 64)
  | .bank h g => decide (h < 2) && decide (g < 256)

/-- A link of R377. -/
def LinkId.wf : LinkId → Bool
  | .port n => decide (1 ≤ n) && decide (n ≤ 22)
  | .hbm k => decide (k < 16)

/-- A rail group of R317. -/
def RailGroup.wf (g : RailGroup) : Bool :=
  match g.rail with
  | 1 => decide (g.group < 8)
  | 2 => decide (g.group < 6)
  | 3 => decide (g.group < 6)
  | 4 => decide (g.group < 16)
  | _ => false

/-- An IPv6 address and a UDP port. -/
def Udp.wf (u : Udp) : Bool := decide (u.addr < 2 ^ 128) && decide (u.port < 65536)

/-- A parity hit names a register of R114. -/
def ParityHit.wf : ParityHit → Bool
  | .none => true
  | .once => true
  | .recurs r => decide (r < 256)

/-- A branch's register and target: a device virtual address (R121). -/
def BranchKind.wf : BranchKind → Bool
  | .cond r t => decide (r < 256) && decide (t < 2 ^ 57)
  | .indirect r => decide (r < 256)

/-- A sensor of R357. -/
def Reading.wf (r : Reading) : Bool := decide (r.sensor < 432)

/-- A width of a memory access in bytes (R143). -/
def widthWf (w : Nat) : Bool := [1, 2, 4, 8, 16].contains w

/-- Is a command well formed? -/
def Instr.wf : Instr → Bool
  | .dictRead sid index sub offset => decide (sid < 65536) && decide (index < 65536) && decide (sub < 256) && decide (offset < 65536)
  | .dictWrite sid index sub offset _ data => decide (sid < 65536) && decide (index < 65536) && decide (sub < 256) && decide (offset < 65536) && decide (data.length ≤ 511)
  | .dictReadStaged sid index sub offset => decide (sid < 65536) && decide (index < 65536) && decide (sub < 256) && decide (offset < 65536)
  | .leaseRequestAcquire sid => decide (sid < 65536)
  | .leaseRequestRelease sid => decide (sid < 65536)
  | .leaseBreak sid => decide (sid < 65536)
  | .leaseExpired => true
  | .sessionIdleTimeout sid => decide (sid < 65536)
  | .lockPassword sid password => decide (sid < 65536) && (decide (8 ≤ password.length) && decide (password.length ≤ 64))
  | .lockResponse sid sig => decide (sid < 65536) && sig.length == 132
  | .lockNonce sid => decide (sid < 65536)
  | .lockClose sid => decide (sid < 65536)
  | .lockOpenTimeExpiry => true
  | .lockBlockExpiry => true
  | .commit sid => decide (sid < 65536)
  | .stageDiscard sid => decide (sid < 65536)
  | .settingsSave sid => decide (sid < 65536)
  | .commitWaitExpiry => true
  | .stepBoundary => true
  | .tieringEnable sid => decide (sid < 65536)
  | .tieringDisable sid => decide (sid < 65536)
  | .scrubEnable sid => decide (sid < 65536)
  | .scrubDisable sid => decide (sid < 65536)
  | .tier2Enable sid port => decide (sid < 65536) && decide (port < 2)
  | .tier2Disable sid port => decide (sid < 65536) && decide (port < 2)
  | .peerPortEnable sid port => decide (sid < 65536) && decide (port < 18)
  | .peerPortDisable sid port => decide (sid < 65536) && decide (port < 18)
  | .enableSequenceComplete fn _ => fn.wf
  | .shutdownComplete fn => fn.wf
  | .domainGateStepGrant domain _ _ => decide (domain < 20)
  | .domainEnableFailed domain => decide (domain < 20)
  | .missue g _ hit => g.wf && hit.wf
  | .mwait g _ hit => g.wf && hit.wf
  | .mpoll g _ hit => g.wf && hit.wf
  | .convert g _ hit => g.wf && hit.wf
  | .matrixDispatch tile => decide (tile < 64)
  | .gauzeFrontStart tile sub _ => decide (tile < 64) && decide (sub < 4)
  | .gauzeFrontResume tile sub _ => decide (tile < 64) && decide (sub < 4)
  | .flushLoad tile sub => decide (tile < 64) && decide (sub < 4)
  | .shapeChange tile => decide (tile < 64)
  | .activationRowIssue tile sub hit _ => decide (tile < 64) && decide (sub < 4) && hit.wf
  | .resultBankDrain tile bank hit => decide (tile < 64) && decide (bank < 2) && hit.wf
  | .matrixComplete tile bank => decide (tile < 64) && decide (bank < 2)
  | .matrixCounterClear sid => decide (sid < 65536)
  | .conversionStart tile _ => decide (tile < 64)
  | .conversionComplete tile => decide (tile < 64)
  | .formatCounterClear sid => decide (sid < 65536)
  | .blockAdmit _ tile => decide (tile < 64)
  | .branch g kind _ hit => g.wf && kind.wf && hit.wf
  | .exit g => g.wf
  | .fp32Arith g _ vd va vb vc hit => g.wf && decide (vd < 256) && decide (va < 256) && decide (vb < 256) && decide (vc < 256) && hit.wf
  | .shfl g vd va vi hit => g.wf && decide (vd < 256) && decide (va < 256) && decide (vi < 256) && hit.wf
  | .vote g _ vd vp hit => g.wf && decide (vd < 256) && decide (vp < 256) && hit.wf
  | .redux g _ vd va hit => g.wf && decide (vd < 256) && decide (va < 256) && hit.wf
  | .ldsSts g _ bytes va vd _ hit => g.wf && widthWf bytes && decide (va < 256) && decide (vd < 256) && hit.wf
  | .ldcStc g _ bytes rank va vd _ hit => g.wf && widthWf bytes && decide (rank < 16) && decide (va < 256) && decide (vd < 256) && hit.wf
  | .bar g _ => g.wf
  | .cbar g _ => g.wf
  | .gbar g _ => g.wf
  | .gbarComplete _ => true
  | .barrierWdPulse => true
  | .blockExitComplete b => b.wf
  | .execCounterClear sid => decide (sid < 65536)
  | .ld g bytes va vd _ hit => g.wf && widthWf bytes && decide (va < 256) && decide (vd < 256) && hit.wf
  | .st g bytes va vd hit => g.wf && widthWf bytes && decide (va < 256) && decide (vd < 256) && hit.wf
  | .fence g _ => g.wf
  | .lldrop g _ hit => g.wf && hit.wf
  | .redl g _ hit => g.wf && hit.wf
  | .reduceSpill _ => true
  | .spillCombineReturn _ _ _ => true
  | .feltFillReturn _ _ replays => decide (replays < 18)
  | .tableWalkReturn half _ _ _ _ => decide (half < 2)
  | .feltFlushClean sid => decide (sid < 65536)
  | .feltFlushInvalidate sid => decide (sid < 65536)
  | .feltFlushComplete => true
  | .bankRetireMovesComplete half group => decide (half < 2) && decide (group < 256)
  | .feltCounterClear sid => decide (sid < 65536)
  | .map _ => true
  | .unmap _ => true
  | .protect _ => true
  | .hostMemRead offset => offset % 64 == 0
  | .hostMemWrite offset data => offset % 64 == 0 && data.length == 64
  | .tier2LinkWaitExpiry port => decide (port < 2)
  | .migrationEpochEnd => true
  | .migrationStart _ => true
  | .subpageCopyComplete _ _ => true
  | .migrationSourceFree _ => true
  | .tierCounterClear sid => decide (sid < 65536)
  | .bwIntervalBoundary loads =>
    (loads.all fun l => decide (l.target < 7) && decide (1 ≤ l.cls) && decide (l.cls ≤ 6) && decide (l.number < 64)) &&
      decide (loads.map fun l => (l.target, l.cls, l.number)).Nodup
  | .bwCounterClear sid => decide (sid < 65536)
  | .ledgerEnableOn sid => decide (sid < 65536)
  | .ledgerEnableOff sid => decide (sid < 65536)
  | .headLineLoss writes _ => writes.all fun w => decide (w.1 + w.2.length ≤ 2 ^ 64)
  | .ledgerNop => true
  | .ledgerKernel => true
  | .ledgerCollective => true
  | .ledgerCopy => true
  | .ledgerMap => true
  | .ledgerUnmap => true
  | .ledgerProtect => true
  | .consumedCountWrite _ _ => true
  | .kernelDispatch _ => true
  | .collectiveDispatch _ _ => true
  | .copyDispatch _ _ _ => true
  | .entryComplete _ _ => true
  | .eventRecord _ => true
  | .schedPause sid => decide (sid < 65536)
  | .schedResume sid => decide (sid < 65536)
  | .preemptSaveComplete _ tile => decide (tile < 64)
  | .blockRestore _ tile => decide (tile < 64)
  | .runtimeLimitExpiry _ => true
  | .schedCounterClear sid => decide (sid < 65536)
  | .stepCounterWrite sid _ => decide (sid < 65536)
  | .rng g _ hit => g.wf && hit.wf
  | .rngProbe sid input => decide (sid < 65536) && input.length == 24
  | .resumeApply sid record => decide (sid < 65536) && record.length == 64
  | .scrubPaceTick half _ _ _ _ => decide (half < 2)
  | .bundleSignalFailed b _ => b.wf
  | .bundleSpareComplete b => b.wf
  | .errorLogAck sid _ => decide (sid < 65536)
  | .integrityCounterClear sid => decide (sid < 65536)
  | .governorTick _ _ _ => true
  | .stageFailed stage => decide (stage < 24)
  | .cellFailed group => decide (group < 24)
  | .railCellFailed g => g.wf
  | .fleeceHoldMaxExpiry => true
  | .slotFrameStart => true
  | .slotSyncLost => true
  | .syncLineFramePulse pin => decide (pin < 2)
  | .syncLineReleasePulse pin => decide (pin < 2)
  | .inputLow _ => true
  | .inputHoldup _ => true
  | .inputHigh _ => true
  | .inputNormal _ => true
  | .brownoutHoldExpiry => true
  | .inputBelow40V => true
  | .powerCounterClear sid => decide (sid < 65536)
  | .refclkLost => true
  | .refclkHoldoverExpiry => true
  | .refclkReturn => true
  | .aonTrim => true
  | .clockStepComplete tile => decide (tile < 64)
  | .idleNapDelayExpiry ptile => decide (ptile < 72)
  | .idleOffDelayExpiry ptile => decide (ptile < 72)
  | .tileWakeComplete ptile => decide (ptile < 72)
  | .moduleStateActive sid => decide (sid < 65536)
  | .moduleStateStandby sid => decide (sid < 65536)
  | .moduleStateDormant sid => decide (sid < 65536)
  | .moduleStateChangeComplete => true
  | .sensorSample readings estimates => readings.all Reading.wf && estimates.all Reading.wf
  | .thermalGraceExpiry => true
  | .thermalAccept sid => decide (sid < 65536)
  | .thermalCounterClear sid => decide (sid < 65536)
  | .ppsEdge pin => decide (pin < 2)
  | .timeSourceLost => true
  | .perfSample => true
  | .powerOn => true
  | .linkTrained link _ _ _ _ _ ide => link.wf && decide (ide < 3)
  | .linkQualWindowEnd link _ _ _ => link.wf
  | .linkTrainingDeadline link => link.wf
  | .hbmFillComplete _ => true
  | .broadcastPacket core packet => decide (core < 1402) && decide (packet.length ≤ 4096)
  | .broadcastRoundEnd => true
  | .selftestComplete failed => (failed.all fun p => decide (p < 72))
  | .bringupComplete _ => true
  | .halfManagerWatchdog => true
  | .fullReset sid => decide (sid < 65536)
  | .computeReset sid => decide (sid < 65536)
  | .computeResetBegin => true
  | .shortSelftestComplete failed _ => (failed.all fun p => decide (p < 72))
  | .hostLinkDown => true
  | .hostLinkUp _ _ ide => decide (ide < 3)
  | .irqHoldoffExpiry => true
  | .tier2LinkDown port => decide (port < 2)
  | .tier2LinkUp port => decide (port < 2)
  | .expanderEventPoll port _ => decide (port < 2)
  | .dataFlit port flit _ => decide (port < 18) && flit.length == 256
  | .idleFlit port flit _ => decide (port < 18) && flit.length == 256
  | .nak port flit _ => decide (port < 18) && flit.length == 256
  | .laneSwap port flit _ => decide (port < 18) && flit.length == 256
  | .laneSwapAck port flit _ => decide (port < 18) && flit.length == 256
  | .width port flit _ => decide (port < 18) && flit.length == 256
  | .retrain port flit _ => decide (port < 18) && flit.length == 256
  | .replayTimeout port => decide (port < 18)
  | .peerRetrainComplete port => decide (port < 18)
  | .laneFailed port lane => decide (port < 18) && decide (lane < 4)
  | .write port => decide (port < 18)
  | .read port => decide (port < 18)
  | .readData port => decide (port < 18)
  | .writeAck port => decide (port < 18)
  | .collData port => decide (port < 18)
  | .error port => decide (port < 18)
  | .halfLinkRetrainFailed => true
  | .muslinOpen src => src.wf
  | .muslinClose src session => src.wf && decide (session < 65536)
  | .request src session seq _ data => src.wf && decide (session < 65536) && decide (seq < 65536) && decide (data.length ≤ 511)
  | .beacon src _ _ _ _ _ => src.wf
  | .release _ => true
  | .time _ _ _ => true
  | .muslinFrameDiscard => true
  | .interfaceCounterClear sid => decide (sid < 65536)
  | .updateBegin sid component => decide (sid < 65536) && decide (component < 4)
  | .updateEraseComplete => true
  | .updateData sid data => decide (sid < 65536) && data.length == 4096
  | .updateProgramComplete => true
  | .updateVerify sid => decide (sid < 65536)
  | .updateVerifyComplete => true
  | .updateCommit sid => decide (sid < 65536)
  | .updateCommitReset sid => decide (sid < 65536)
  | .updateAbort sid => decide (sid < 65536)
  | .updateConfirm sid => decide (sid < 65536)
  | .updateTrialTimeout => true
  | .getVersion _ => true
  | .getCapabilities _ => true
  | .negotiateAlgorithms _ _ _ _ _ => true
  | .getDigests _ => true
  | .getCertificate _ slot _ _ => decide (slot < 8)
  | .challenge _ slot nonce => decide (slot < 8) && nonce.length == 32
  | .getMeasurements _ index nonce => decide (index < 256) && nonce.length == 32
  | .chunkSend _ _ _ _ _ => true
  | .chunkGet _ _ _ => true
  | .keyEx _ _ => true
  | .finish _ _ => true
  | .endSession _ => true
  | .pwrEnDeassert => true
  | .powerOffComplete => true
  | .pwrEnAssert => true
  | .resetN => true
  | .hostPerstN => true
  | .debugTrigger pin => decide (pin < 2)
  | .auxPulseInvalid pin _ => decide (pin < 2)
  | .inputTripped _ => true
  | .coolantCheck _ _ _ _ _ _ => true
  | .boardCounterClear sid => decide (sid < 65536)
  | .copyHostAccessWaitExpiry _ => true
  | .hdmDecoderCommit _ => true
  | .inputTripRearm => true
  | .halfWidthMoveComplete ptile => decide (ptile < 72)

end Sys2Proof
end

