-- ==== Sys2Proof/Certificates/Slice0/Obligations.lean ====
section
/-! DEFINITION. Statements for the provers. -/

open Sys2Proof Sys2Proof.Machine

/-! ### The queue, reset, and what every command keeps -/

/-- A step runs the front command on the state with the queue's rest. -/
def Obligations.StepRunsFront : Prop :=
  ∀ (c : Instr) (s : State), step { s with pending := c :: s.pending } = exec c s

/-- With no command waiting a step is one AON tick: the timestamp of a powered module moves on by 150 and wraps at 2^64, and nothing
else changes. That an empty queue ticks is the model's choice (notes/assumptions/1.md); 150 is R368's. -/
def Obligations.TimePassesOnAnEmptyQueue : Prop :=
  ∀ (s : State), s.pending = [] → ∃ t, step s = .next t ∧ SameBut [.thermal] s t ∧ t.thermal = { s.thermal with
    timestamp := if s.boot.powered then (s.thermal.timestamp + 150) % 2 ^ 64 else s.thermal.timestamp }

/-- At reset no command waits, no session is open and nobody holds the lease (R35), the field lock is CLOSED with no failed attempt
(R37), nothing is staged or queued (R40), every object that a write sets has its default in force (R52 and the object tables), every
counter is 0, nothing is mapped (R211), the ledger is OFF and expects ALIVE 1 (R244), and the timestamp is 0 (R368). The values the
spec does not give are the model's (notes/assumptions/3.md) and are not stated. -/
def Obligations.ResetHasTheSpecsValues : Prop :=
  State.reset.pending = [] ∧ State.reset.dict.hostOpen = false ∧ State.reset.dict.sessions = [] ∧ State.reset.dict.lease = none ∧
  State.reset.dict.lock = .closed ∧ State.reset.dict.failCount = 0 ∧ State.reset.dict.staged = [] ∧ State.reset.dict.queued = none ∧
  (∀ key, State.reset.value key = State.reset.defaultOf key ∧ State.reset.counter key = 0) ∧ State.reset.mem.pages = [] ∧
  State.reset.ledger.enable = false ∧ State.reset.ledger.st = .off ∧ State.reset.ledger.alive = 1 ∧ State.reset.thermal.timestamp = 0

/-- The state at reset has its memories in canonical form, and a field lock that agrees with its count of failures. -/
def Obligations.ResetMeetsTheInvariants : Prop :=
 State.reset.memWf = true ∧ State.reset.dict.lockOk = true

/-- Every step keeps the memories of the module and of its host in canonical form: addresses strictly rising, and no entry that reads as
an unlisted address. -/
def Obligations.MemoriesKeepTheirForm : Prop :=
  ∀ (s t : State), s.memWf = true → step s = .next t → t.memWf = true

/-- Every step keeps the count of failed attempts and the state of the field lock in agreement (R37, R38): the lock is BLOCKED exactly with
five failures, and with at most four it is not. -/
def Obligations.TheLockAgreesWithItsCount : Prop :=
  ∀ (s t : State), s.dict.lockOk = true → step s = .next t → t.dict.lockOk = true

/-- No step lowers the SVN floor of a component (R434, R436), changes how many components there are (R428), or changes a fused value. -/
def Obligations.FloorsAndFusesStand : Prop :=
  ∀ (s t : State), step s = .next t → floorsRise s.fw.comps t.fw.comps = true ∧ t.fuses = s.fuses

/-- Frames: every command changes at most the facets of the state that `touches` names for it; in particular none touches the queue, and
one that names no memory leaves every byte of HBM, of the second tier and of the host as it was. -/
def Obligations.CommandsChangeOnlyTheirFacets : Prop :=
  ∀ (c : Instr) (s t : State), exec c s = .next t → SameBut (touches c) s t

/-! ### Rules stated whole -/

/-- R26: an object is addressed by an index of 16 bits and a subindex of 8. Subindex 0 of an index that has an object reads as one byte, the
highest subindex in use there; an index or a subindex that does not exist reads NOOBJ, and an object that exists does not. -/
def Obligations.ObjectsAreAddressedByIndexAndSubindex : Prop :=
  ∀ (s : State) (sid index sub : Nat), index < 65536 → sub < 256 → s.serves 0 sid (index * 256 + sub) = true →
    (∀ n, sub = 0 → 0 < n → n < 256 → objRow (index * 256 + n) ≠ none → (∀ k, n < k → k < 256 → objRow (index * 256 + k) = none) →
      ∃ t, exec (.dictRead sid index sub 0) s = .next t ∧ t.lastAnswer sid = some (readAnswer sid dOk 0 (natLE 1 n))) ∧
    ((sub ≠ 0 → objRow (index * 256 + sub) = none) → (sub = 0 → ∀ n, 0 < n → n < 256 → objRow (index * 256 + n) = none) →
      ∃ t, exec (.dictRead sid index sub 0) s = .next t ∧ t.answered sid dNoObj 0) ∧
    (sub ≠ 0 → objRow (index * 256 + sub) ≠ none →
      ∃ t r, exec (.dictRead sid index sub 0) s = .next t ∧ t.lastAnswer sid = some r ∧ r.sid = sid ∧ r.status ≠ dNoObj)

/-- R171: the home half of an address's line is the parity of the address bits that `FeltHomeHalfMask` selects, and the mask reads
0x0000_0020_2020_2000 on every variant. -/
def Obligations.TheHomeHalfIsTheParityOfTheMask : Prop :=
  (∀ (a : Nat), homeHalf (a / 128) = ((List.range 64).countP fun b => (a &&& 0x2020202000).testBit b) % 2) ∧
  (∀ (b : Nat), (0x2020202000 : Nat).testBit b = true ↔ b ∈ [13, 21, 29, 37]) ∧
  (∀ (s : State) (sid : Nat), s.serves 0 sid Obj.feltHomeHalfMask = true →
    ∃ t, exec (.dictRead sid (Obj.feltHomeHalfMask / 256) (Obj.feltHomeHalfMask % 256) 0) s = .next t ∧
      t.lastAnswer sid = some (readAnswer sid dOk 0 (natLE 8 0x2020202000)))

/-- R209: a PROTECT entry in its turn sets or clears WRITE for every mapped page of its range and in every Felt line of those pages, as its
WRITE bit says; every other page and line is as it was, and so is everything else of a page (its tier, its frame, a migration in
progress) and of a line (its dirty sectors). -/
def Obligations.ProtectChangesOnlyWrite : Prop :=
  ∀ (s : State) (seq vpn n : Nat) (e : Entry), s.entry seq = some e → e.kind = .protect → e.isFinished = false → s.mapTurn e = true →
    e.mapRange = some (vpn, n) →
    ∃ t, exec (.protect seq) s = .next t ∧ SameBut [.tables, .felt, .ledger] s t ∧ (t.entry seq).map (·.status) = some (.finished stOk 0 0) ∧
      (∀ v, NMap.look t.mem.pages v = (NMap.look s.mem.pages v).map fun p =>
        if vpn ≤ v ∧ v < vpn + n then { p with write := (e.word 5).getLsbD 61 } else p) ∧
      { t.mem with pages := [] } = { s.mem with pages := [] } ∧
      (∀ k, NMap.look t.felt.lines k = (NMap.look s.felt.lines k).map fun l =>
        if vpn ≤ k / 16384 ∧ k / 16384 < vpn + n then { l with write := (e.word 5).getLsbD 61 } else l) ∧
      { t.felt with lines := [] } = { s.felt with lines := [] }

/-- R304: failed signals of a bank-group bundle retire the bank group when they consume its last unused spare, or arrive together in greater
number than the spares left; with spares to spare they do not. -/
def Obligations.SpentBundlesRetireTheirBankGroup : Prop :=
  ∀ (s : State) (h g n : Nat), s.bundleOk (.bank h g) = true → 0 < n →
    ∃ t, exec (.bundleSignalFailed (.bank h g) n) s = .next t ∧
      (n = s.sparesLeft (bundleKey (.bank h g)) ∨ s.sparesLeft (bundleKey (.bank h g)) < n →
        (h, g) ∈ t.felt.retiring ∨ (h, g) ∈ t.felt.retired) ∧
      (n < s.sparesLeft (bundleKey (.bank h g)) → t.felt.retiring = s.felt.retiring ∧ t.felt.retired = s.felt.retired ∧
        t.felt.lines = s.felt.lines)

/-! ### The dictionary (ch. 2) -/

/-- DICT_READ (R26, R29): a read of an object of a configuration class returns the value in force in pieces of at most 256 bytes; a
counter of chapters 3 to 6 returns its count; a write-only object and `LockPasswordNew` are DENIED. -/
def Obligations.ReadReturnsTheValueInForce : Prop :=
  (∀ (s : State) (sid index sub offset : Nat) (r : ObjRow), s.serves 0 sid (index * 256 + sub) = true → 0 < sub → sub < 256 →
    objRow (index * 256 + sub) = some r → r.acc ≠ .ro → r.acc ≠ .wo → offset % 256 = 0 → (offset = 0 ∨ r.ty.long = true) →
    index * 256 + sub ∉ [Obj.lockPasswordNew, Obj.ledgerEnable, Obj.stepCounter, Obj.rngProbeInput, Obj.errorLogAck] →
    ∃ t, exec (.dictRead sid index sub offset) s = .next t ∧
      t.lastAnswer sid = some (readAnswer sid dOk offset (s.value (index * 256 + sub)))) ∧
  (∀ (s : State) (sid index sub : Nat) (r : ObjRow), s.serves 0 sid (index * 256 + sub) = true → 0 < sub → sub < 256 →
    objRow (index * 256 + sub) = some r → r.acc = .ro → 0x2000 ≤ index → index < 0x3000 →
    ∃ t, exec (.dictRead sid index sub 0) s = .next t ∧
      t.lastAnswer sid = some (readAnswer sid dOk 0 (natLE r.lenLo (s.counter (index * 256 + sub))))) ∧
  (∀ (s : State) (sid index sub : Nat) (r : ObjRow), s.serves 0 sid (index * 256 + sub) = true → 0 < sub → sub < 256 →
    objRow (index * 256 + sub) = some r → (r.acc = .wo ∨ index * 256 + sub = Obj.lockPasswordNew) →
    ∃ t, exec (.dictRead sid index sub 0) s = .next t ∧ t.answered sid dDenied 0)

/-- DICT_READ_STAGED (R29): the lease holder reads the staged value with STAGED, and the value in force with OK where nothing is
staged; an object of another class is TYPE; a session without the lease is DENIED. -/
def Obligations.ReadStagedReturnsTheStagedValue : Prop :=
  (∀ (s : State) (sid index sub offset : Nat) (r : ObjRow), s.serves 2 sid (index * 256 + sub) = true → 0 < sub → sub < 256 →
    objRow (index * 256 + sub) = some r → offset % 256 = 0 → (offset = 0 ∨ r.ty.long = true) → s.dict.lease = some sid →
    (r.acc = .stg ∨ r.acc = .lck) → index * 256 + sub ≠ Obj.lockPasswordNew →
    ∃ t, exec (.dictReadStaged sid index sub offset) s = .next t ∧
      t.lastAnswer sid = some (match NMap.look s.dict.staged (index * 256 + sub) with
        | some v => readAnswer sid dStaged offset v
        | none => readAnswer sid dOk offset (s.value (index * 256 + sub)))) ∧
  (∀ (s : State) (sid index sub : Nat) (r : ObjRow), s.serves 2 sid (index * 256 + sub) = true → 0 < sub → sub < 256 →
    objRow (index * 256 + sub) = some r → s.dict.lease = some sid → r.acc ≠ .stg → r.acc ≠ .lck →
    ∃ t, exec (.dictReadStaged sid index sub 0) s = .next t ∧ t.answered sid dType 0) ∧
  (∀ (s : State) (sid index sub : Nat) (r : ObjRow), s.serves 2 sid (index * 256 + sub) = true → 0 < sub → sub < 256 →
    objRow (index * 256 + sub) = some r → s.dict.lease ≠ some sid →
    ∃ t, exec (.dictReadStaged sid index sub 0) s = .next t ∧ t.answered sid dDenied 0)

/-- DICT_WRITE of an STG object, or of an LCK object with the field lock open for the session (R28, R40): the value is staged in place
of an earlier one, no other staged value changes, nothing is in force, and the status is STAGED. -/
def Obligations.WriteStages : Prop :=
  ∀ (s : State) (sid index sub : Nat) (v : Bytes) (r : ObjRow), s.mayWrite sid (index * 256 + sub) = true → 0 < sub → sub < 256 →
    objRow (index * 256 + sub) = some r → (r.acc = .stg ∨ (r.acc = .lck ∧ s.lockOpenFor sid = true)) →
    v ≠ [] → v.length ≤ 256 → valueOk r v = true → s.rangeOk r (index * 256 + sub) v = true → s.dict.queued = none →
    (NMap.has s.dict.staged (index * 256 + sub) = true ∨ s.dict.staged.length < 512) →
    ∃ t, exec (.dictWrite sid index sub 0 false v) s = .next t ∧ t.answered sid dStaged 0 ∧
      t.dict.staged = NMap.put s.dict.staged (index * 256 + sub) v ∧ SameBut [.window, .sessions, .staging] s t

/-- DICT_WRITE turned away (R27, R28, R34, R40, R43): a write without the lease is DENIED, of an RO object is DENIED, of the wrong
length or encoding is TYPE, outside the static range is RANGE, of an LCK object while the lock is not open for the session is LOCKED,
and of a 513th object, or while a commit is queued, is BUSY; nothing changes but the answer and the session's partial write. A value that
is TYPE or RANGE of an object that takes no write now gets one of the two statuses; which, the rules leave open (the model's choice,
notes/assumptions/8.md). -/
def Obligations.WriteTurnedAway : Prop :=
  (∀ (s : State) (sid index sub : Nat) (v : Bytes) (r : ObjRow) (st : Nat), s.serves 1 sid (index * 256 + sub) = true → 0 < sub →
    sub < 256 → objRow (index * 256 + sub) = some r → v ≠ [] → v.length ≤ 256 →
    ((r.acc = .ro ∧ st = dDenied) ∨
     (r.acc ≠ .ro ∧ leaseFree (index * 256 + sub) = false ∧ s.dict.lease ≠ some sid ∧ st = dDenied) ∨
     (r.acc ≠ .ro ∧ s.dict.lease = some sid ∧ s.lockAnswer sid (index * 256 + sub) = none ∧ s.closedTo sid r (index * 256 + sub) = none ∧
       valueOk r v = false ∧ st = dType) ∨
     (r.acc ≠ .ro ∧ s.dict.lease = some sid ∧ s.lockAnswer sid (index * 256 + sub) = none ∧ s.closedTo sid r (index * 256 + sub) = none ∧
       valueOk r v = true ∧ s.rangeOk r (index * 256 + sub) v = false ∧ st = dRange) ∨
     (r.acc = .lck ∧ s.dict.lease = some sid ∧ valueOk r v = true ∧ s.rangeOk r (index * 256 + sub) v = true ∧
       s.lockOpenFor sid = false ∧ st = dLocked) ∨
     ((r.acc = .stg ∨ (r.acc = .lck ∧ s.lockOpenFor sid = true)) ∧ s.dict.lease = some sid ∧ valueOk r v = true ∧
       s.rangeOk r (index * 256 + sub) v = true ∧
       (s.dict.queued ≠ none ∨ (NMap.has s.dict.staged (index * 256 + sub) = false ∧ 512 ≤ s.dict.staged.length)) ∧ st = dBusy)) →
    ∃ t, exec (.dictWrite sid index sub 0 false v) s = .next t ∧ t.answered sid st 0 ∧ SameBut [.window, .sessions] s t) ∧
  (∀ (s : State) (sid index sub : Nat) (v : Bytes) (r : ObjRow) (a b : Nat), s.serves 1 sid (index * 256 + sub) = true → 0 < sub →
    sub < 256 → objRow (index * 256 + sub) = some r → v ≠ [] → v.length ≤ 256 → r.acc ≠ .ro → s.dict.lease = some sid →
    s.lockAnswer sid (index * 256 + sub) = none → s.valueFault r (index * 256 + sub) v = some a →
    s.closedTo sid r (index * 256 + sub) = some b →
    ∃ t, exec (.dictWrite sid index sub 0 false v) s = .next t ∧ (t.answered sid a 0 ∨ t.answered sid b 0) ∧
      SameBut [.window, .sessions, .draws] s t)

/-- The write lease (R35): LEASE_REQUEST_ACQUIRE takes a lease that nobody holds and is BUSY where another session holds it;
LEASE_REQUEST_RELEASE of the holder, LEASE_EXPIRED and SESSION_IDLE_TIMEOUT of the holder end it, empty the staged set and close a
field lock that is open for that session; LEASE_BREAK of a session for which the field lock is open gives it the lease, and is
LOCKED without. -/
def Obligations.LeaseFollowsItsTable : Prop :=
  (∀ (s : State) (sid : Nat), s.serves 1 sid Obj.leaseRequest = true → s.dict.lease = none →
    ∃ t, exec (.leaseRequestAcquire sid) s = .next t ∧ t.dict.lease = some sid ∧ t.answered sid dOk 0 ∧
      SameBut [.window, .sessions, .lease] s t) ∧
  (∀ (s : State) (sid h : Nat), s.serves 1 sid Obj.leaseRequest = true → s.dict.lease = some h → h ≠ sid →
    ∃ t, exec (.leaseRequestAcquire sid) s = .next t ∧ t.answered sid dBusy 0 ∧ SameBut [.window, .sessions] s t) ∧
  (∀ (s : State) (sid : Nat), s.serves 1 sid Obj.leaseRequest = true → s.dict.lease = some sid →
    ∃ t, exec (.leaseRequestRelease sid) s = .next t ∧ t.dict.lease = none ∧ t.dict.staged = [] ∧ t.lockOpenFor sid = false) ∧
  (∀ (s : State) (sid h : Nat), s.serves 1 sid Obj.leaseBreak = true → s.dict.lease = some h → s.lockOpenFor sid = true →
    ∃ t, exec (.leaseBreak sid) s = .next t ∧ t.dict.lease = some sid ∧ (h ≠ sid → t.dict.staged = [])) ∧
  (∀ (s : State) (sid : Nat), s.serves 1 sid Obj.leaseBreak = true → s.dict.lease ≠ some sid → s.lockOpenFor sid = false →
    ∃ t, exec (.leaseBreak sid) s = .next t ∧ t.answered sid dLocked 0 ∧ SameBut [.window, .sessions] s t) ∧
  (∀ (s : State) (h : Nat), s.dict.lease = some h →
    ∃ t, exec .leaseExpired s = .next t ∧ t.dict.lease = none ∧ t.dict.staged = [] ∧ t.lockOpenFor h = false) ∧
  (∀ (s : State) (sid : Nat), NMap.has s.dict.sessions sid = true →
    ∃ t, exec (.sessionIdleTimeout sid) s = .next t ∧ NMap.look t.dict.sessions sid = none ∧ t.lockOpenFor sid = false ∧
      t.dict.lease ≠ some sid ∧ (s.dict.lease = some sid → t.dict.staged = []))

/-- The field lock (R37, R38, R39): while it is CLOSED, the right password with `LockPasswordEnable` = ON, or a response that answers the
nonce, opens it for the session and sets the count of failures to 0; a wrong one is DENIED and counted, and the fifth blocks it; while
it is BLOCKED every attempt is LOCKED, and while it is OPEN an attempt of its session is OK and one of another session BUSY, whatever is
written, and none of these changes anything; with `LockPasswordEnable` = OFF a write to `LockPassword` while it is CLOSED is LOCKED, its
value unread; LOCK_NONCE issues a fresh nonce and returns its 32 bytes; LOCK_CLOSE of the
session for which the lock is open closes it, and of another session is LOCKED; LOCK_OPEN_TIME_EXPIRY closes an open lock, and LOCK_BLOCK_EXPIRY a blocked one, with
the count at 0. -/
def Obligations.LockFollowsItsTable : Prop :=
  (∀ (s : State) (sid : Nat) (pw : Bytes), s.serves 1 sid Obj.lockPassword = true → s.dict.lock = .closed →
    8 ≤ pw.length → pw.length ≤ 64 → utf8From 0 0 0 pw = true → s.isOn Obj.lockPasswordEnable = true →
    ∃ t, exec (.lockPassword sid pw) s = .next t ∧
      (if s.passwordOk pw then
        t.dict.lock = .opened sid (s.num Obj.lockOpenTime) ∧ t.dict.failCount = 0 ∧ t.answered sid dOk 0
      else t.dict.failCount = s.dict.failCount + 1 ∧ t.answered sid dDenied 0 ∧
        t.dict.lock = if s.dict.failCount + 1 < 5 then .closed else .blocked s.now)) ∧
  (∀ (s : State) (sid : Nat) (sig : Bytes), s.serves 1 sid Obj.lockResponse = true → s.dict.lock = .closed → sig.length = 132 →
    ∃ t, exec (.lockResponse sid sig) s = .next t ∧ t.dict.nonce = none ∧
      (if s.responseOk sid sig then
        t.dict.lock = .opened sid (s.num Obj.lockOpenTime) ∧ t.dict.failCount = 0 ∧ t.answered sid dOk 0
      else t.dict.failCount = s.dict.failCount + 1 ∧ t.answered sid dDenied 0 ∧
        t.dict.lock = if s.dict.failCount + 1 < 5 then .closed else .blocked s.now)) ∧
  (∀ (s : State) (sid st : Nat) (pw sig : Bytes), s.serves 1 sid Obj.lockPassword = true → s.serves 1 sid Obj.lockResponse = true →
    pw ≠ [] → sig ≠ [] →
    ((∃ b, s.dict.lock = .blocked b) ∧ st = dLocked ∨
      (∃ o n, s.dict.lock = .opened o n ∧ st = if o = sid then dOk else dBusy)) →
    ∃ t u, exec (.lockPassword sid pw) s = .next t ∧ t.answered sid st 0 ∧ SameBut [.window, .sessions] s t ∧
      exec (.lockResponse sid sig) s = .next u ∧ u.answered sid st 0 ∧ SameBut [.window, .sessions] s u) ∧
  (∀ (s : State) (sid : Nat) (pw : Bytes), s.serves 1 sid Obj.lockPassword = true → s.dict.lock = .closed → pw ≠ [] →
    s.isOn Obj.lockPasswordEnable = false →
    ∃ t, exec (.lockPassword sid pw) s = .next t ∧ t.answered sid dLocked 0 ∧ SameBut [.window, .sessions] s t) ∧
  (∀ (s : State) (sid : Nat), s.serves 0 sid Obj.lockNonce = true →
    ∃ t, exec (.lockNonce sid) s = .next t ∧ t.dict.nonce = some (Config.nonce s.dict.freeCount, s.now) ∧
      t.lastAnswer sid = some (readAnswer sid dOk 0 (natLE 32 (Config.nonce s.dict.freeCount).toNat))) ∧
  (∀ (s : State) (sid o n : Nat), s.serves 1 sid Obj.lockClose = true → s.dict.lock = .opened o n →
    ∃ t, exec (.lockClose sid) s = .next t ∧
      (if o = sid then t.dict.lock = .closed ∧ t.answered sid dOk 0
      else t.answered sid dLocked 0 ∧ SameBut [.window, .sessions] s t)) ∧
  (∀ (s : State) (sid o : Nat), s.dict.lock = .opened sid o →
    ∃ t, exec .lockOpenTimeExpiry s = .next t ∧ t.dict.lock = .closed ∧ SameBut [.lock] s t) ∧
  (∀ (s : State) (b : Nat), s.dict.lock = .blocked b →
    ∃ t, exec .lockBlockExpiry s = .next t ∧ t.dict.lock = .closed ∧ t.dict.failCount = 0 ∧ SameBut [.lock] s t)

/-- COMMIT (R41, R42, R43): a set that the validator and the claim check accept takes effect at once where compute is idle: every staged
value but those of `FatalLogClear`, `FaultedTileClear` and `LockPasswordNew` (which act once and hold no value) is in force, the claims
are those of the resulting configuration, the staged set is empty and `ConfigGeneration` is one more; where compute is not idle it is
QUEUED with a copy of the set and nothing else changes; a set that is refused leaves the staged set and the values in force, and the
answer carries the status and the rule; while a commit is queued another is BUSY. -/
def Obligations.CommitAppliesQueuesOrRefuses : Prop :=
  (∀ (s : State) (sid : Nat) (cl : Claims), s.mayWrite sid Obj.commit = true → s.dict.queued = none →
    ({ st := s, staged := s.dict.staged, sid := sid, self := false } : Cfg).outcome = (dOk, 0, some cl) → s.computeIdle = true →
    (s.dict.staged.map (·.1)).Nodup →
    ∃ t, exec (.commit sid) s = .next t ∧ t.dict.staged = [] ∧ t.dict.queued = none ∧ t.dict.claims = cl ∧
      t.dict.configGen = (s.dict.configGen + 1) % 2 ^ 32 ∧ t.dict.commitRes = dOk ∧
      ∀ k v, NMap.look s.dict.staged k = some v → k ∉ [Obj.fatalLogClear, Obj.faultedTileClear, Obj.lockPasswordNew] →
        t.value k = v) ∧
  (∀ (s : State) (sid : Nat) (cl : Claims), s.mayWrite sid Obj.commit = true → s.dict.queued = none →
    ({ st := s, staged := s.dict.staged, sid := sid, self := false } : Cfg).outcome = (dOk, 0, some cl) → s.computeIdle = false →
    ∃ t, exec (.commit sid) s = .next t ∧ t.dict.queued = some { sid := sid, copy := s.dict.staged } ∧
      t.dict.staged = s.dict.staged ∧ t.answered sid dQueued 0 ∧ SameBut [.window, .sessions, .staging, .commits] s t) ∧
  (∀ (s : State) (sid st rule : Nat), s.mayWrite sid Obj.commit = true → s.dict.queued = none →
    ({ st := s, staged := s.dict.staged, sid := sid, self := false } : Cfg).outcome = (st, rule, none) →
    ∃ t, exec (.commit sid) s = .next t ∧ t.answered sid st rule ∧ t.dict.commitRes = rule * 256 + st ∧
      t.dict.configGen = s.dict.configGen ∧ SameBut [.window, .sessions, .commits, .counters] s t) ∧
  (∀ (s : State) (sid : Nat) (q : QueuedCommit), s.mayWrite sid Obj.commit = true → s.dict.queued = some q →
    ∃ t, exec (.commit sid) s = .next t ∧ t.answered sid dBusy 0 ∧ SameBut [.window, .sessions] s t)

/-- STAGE_DISCARD empties the staged set and withdraws a queued commit (R40); SETTINGS_SAVE writes the configuration in force to the
blob (R439); COMMIT_WAIT_EXPIRY withdraws a queued commit, `CommitResult` records BUSY, and the staged set stays (R43). -/
def Obligations.StagedSetAndBlob : Prop :=
  (∀ (s : State) (sid : Nat), s.mayWrite sid Obj.stageDiscard = true →
    ∃ t, exec (.stageDiscard sid) s = .next t ∧ t.dict.staged = [] ∧ t.dict.queued = none ∧ t.answered sid dOk 0) ∧
  (∀ (s : State) (sid : Nat), s.mayWrite sid Obj.settingsSave = true →
    ∃ t, exec (.settingsSave sid) s = .next t ∧ t.dict.blobCur = some s.blobNow ∧ t.answered sid dOk 0 ∧
      SameBut [.window, .sessions, .blobs] s t) ∧
  (∀ (s : State) (q : QueuedCommit), s.num Obj.commitWait ≠ 0 → s.dict.queued = some q →
    ∃ t, exec .commitWaitExpiry s = .next t ∧ t.dict.queued = none ∧ t.dict.commitRes = dBusy ∧ t.dict.staged = s.dict.staged ∧
      SameBut [.staging, .commits] s t)

/-- STEP_BOUNDARY (R42, R257): once every entry up to the step end has completed, no commit stays queued past it; where none was queued the
step counter is one more and no setting changes. -/
def Obligations.StepBoundaryCounts : Prop :=
  ∀ (s : State), s.boundaryReady = true →
    ∃ t, exec .stepBoundary s = .next t ∧ t.dict.queued = none ∧
      (s.dict.queued = none → t.det.step = s.det.step + 1 ∧ t.dict.values = s.dict.values)

/-- Each counter clear sets the counters of its chapter to 0 and no other (the objects tables; R23). -/
def Obligations.CounterClearsClearTheirCounters : Prop :=
  ∀ (s : State) (sid key k : Nat) (c : Instr),
    (c, key) ∈ [(Instr.matrixCounterClear sid, Obj.matrixCounterClear), (.formatCounterClear sid, Obj.formatCounterClear),
      (.execCounterClear sid, Obj.execCounterClear), (.feltCounterClear sid, Obj.feltCounterClear),
      (.tierCounterClear sid, Obj.tierCounterClear), (.bwCounterClear sid, Obj.bwCounterClear),
      (.schedCounterClear sid, Obj.schedCounterClear), (.integrityCounterClear sid, Obj.integrityCounterClear),
      (.powerCounterClear sid, Obj.powerCounterClear), (.thermalCounterClear sid, Obj.thermalCounterClear),
      (.interfaceCounterClear sid, Obj.interfaceCounterClear), (.boardCounterClear sid, Obj.boardCounterClear)] →
    s.mayWrite sid key = true →
    ∃ t, exec c s = .next t ∧ t.answered sid dOk 0 ∧ SameBut [.window, .sessions, .counters, .bw] s t ∧
      t.counter k = if (clearedBy key).any (fun r => decide (r.1 ≤ k) && decide (k ≤ r.2)) then 0 else s.counter k

/-- The enable and disable rows of tiering, the patrol scrubbers, the second-tier ports and the peer ports answer and act as the table
of R50 states, in every state of the function, where the shared resources are free; a request that is not BUSY has its value in force.

ENABLE_SEQUENCE_COMPLETE ends in ON, or in HELD_DOWN where the sequence failed, and a disable that was queued then starts (R51);
SHUTDOWN_COMPLETE ends in OFF, a domain's gates being open, and an enable that was queued then starts (R51, R324);
DOMAIN_GATE_STEP_GRANT closes one more gate of a domain that turns on, and opens one of a domain that turns off, within 10 mV and the
300 A of the in-rush, when no other domain's step goes first, and is not granted otherwise (R322, R323); DOMAIN_ENABLE_FAILED holds the
domain down (R324). -/
def Obligations.FunctionsFollowTheirTable : Prop :=
  (∀ (s : State) (sid key p q : Nat) (f : Func) (on off : Instr) (up : Bool) (cl : Claims), p < 2 → q < 18 →
    (on, off, f, key) ∈ [(.tieringEnable sid, .tieringDisable sid, .tiering, Obj.tieringEnable),
      (.scrubEnable sid, .scrubDisable sid, .scrub, Obj.scrubEnable),
      (.tier2Enable sid p, .tier2Disable sid p, .tier2 p, Obj.tier2Enable0 + p),
      (.peerPortEnable sid q, .peerPortDisable sid q, .peer q, Obj.peerPortEnable + q)] →
    s.mayWrite sid key = true →
    ({ st := s, staged := [(key, natLE 1 (bit01 up))], sid := 1, self := true } : Cfg).claims = some cl →
    ∃ t, exec (if up then on else off) s = .next t ∧ t.func f = (switchTable (s.func f) up).1 ∧
      t.answered sid (switchTable (s.func f) up).2 0 ∧
      (if (switchTable (s.func f) up).2 = dBusy then t.value key = s.value key else t.value key = natLE 1 (bit01 up))) ∧
  ((∀ (s : State) (f : Func), s.func f = .enabling → s.sequenceDone f = true →
    ∃ t, exec (.enableSequenceComplete f true) s = .next t ∧ t.func f = .on) ∧
  (∀ (s : State) (f : Func), f.wf = true → s.func f = .enablingDisableQueued → s.sequenceDone f = true →
    (∀ c, f = .domain c → s.thermal.modSt = .changing 0 → s.rowWanted c = false) →
    ∃ t, exec (.enableSequenceComplete f true) s = .next t ∧ t.func f = .disabling) ∧
  (∀ (s : State) (f : Func), s.func f = .enabling →
    ∃ t, exec (.enableSequenceComplete f false) s = .next t ∧ t.func f = .heldDown) ∧
  (∀ (s : State) (f : Func), s.func f = .disabling → s.shutdownReady f = true → s.gatesOpen f = true →
    ∃ t, exec (.shutdownComplete f) s = .next t ∧ t.func f = .off) ∧
  (∀ (s : State) (f : Func), s.func f = .disablingEnableQueued → s.shutdownReady f = true → s.gatesOpen f = true →
    (∀ n, s.thermal.modSt = .changing n → n = 0) →
    ∃ t, exec (.shutdownComplete f) s = .next t ∧ t.func f = .enabling) ∧
  (∀ (s : State) (c offset amps : Nat), c < 20 → s.gateWaits c = true → s.gateBehind c = false → offset ≤ 10 →
    s.power.rise + amps ≤ 300 →
    ∃ t, exec (.domainGateStepGrant c offset amps) s = .next t ∧ t.power.rise = s.power.rise + amps ∧ SameBut [.power] s t ∧
      (t.gate c).steps = (if (s.func (.domain c)).turningOn then (s.gate c).steps + 1 else (s.gate c).steps - 1)) ∧
  (∀ (s : State) (c offset amps : Nat), (10 < offset ∨ 300 < s.power.rise + amps ∨ s.gateBehind c = true) →
    exec (.domainGateStepGrant c offset amps) s = .next s) ∧
  (∀ (s : State) (c : Nat), c < 20 → s.func (.domain c) = .enabling →
    ∃ t, exec (.domainEnableFailed c) s = .next t ∧ t.func (.domain c) = .heldDown))

/-- The ledger and scheduler triggers: LEDGER_ENABLE_ON starts an empty ledger whose rings have addresses, and a slot that stands in the head
line is fetched with it (R244); LEDGER_ENABLE_OFF takes no more slots and drains (R265), and after an ERROR ends it, its completions
discarded; SCHED_PAUSE pauses at once where compute is idle and no boundary is due, and otherwise at the next boundary, and
SCHED_RESUME lets dispatch go on unless the unit map has changed without `ResumeTolerant` (R257, R281). -/
def Obligations.LedgerAndSchedulerTriggers : Prop :=
  (∀ (s : State) (sid : Nat), s.mayWrite sid Obj.ledgerEnable = true → s.fw.upd = .idle → s.num Obj.ledgerBase ≠ 0 →
    s.num Obj.completionBase ≠ 0 → s.num Obj.completionConsumedAddr ≠ 0 → s.ledger.st = .off → s.ledger.enable = false →
    ∃ t, exec (.ledgerEnableOn sid) s = .next t ∧ t.ledger.enable = true ∧ t.ledger.st = .running ∧ t.ledger.seq = 0 ∧
      t.ledger.produced = 0 ∧ t.ledger.consumed = 0 ∧ t.answered sid dOk 0 ∧
      (s.iface.hostLink = 2 → t.ledger.fetched = (let bs := s.mem.host.readN (s.num Obj.ledgerBase) 128
        if bs.getD 7 0 = 0xFF then none else some bs)) ∧
      SameBut [.window, .sessions, .ledger, .counters, .integ] s t) ∧
  (∀ (s : State) (sid : Nat), s.mayWrite sid Obj.ledgerEnable = true → s.ledger.enable = true → s.ledger.st ≠ .error →
    ∃ t, exec (.ledgerEnableOff sid) s = .next t ∧ t.ledger.enable = false ∧
      t.ledger.st = (if s.ledger.entries.isEmpty then .off else .draining)) ∧
  (∀ (s : State) (sid : Nat), s.mayWrite sid Obj.ledgerEnable = true → s.ledger.st = .error →
    ∃ t, exec (.ledgerEnableOff sid) s = .next t ∧ t.ledger.enable = false ∧ t.ledger.st ≠ .error ∧ t.answered sid dOk 0) ∧
  (∀ (s : State) (sid : Nat), s.mayWrite sid Obj.schedPause = true → s.ledger.sched = .running →
    ∃ t, exec (.schedPause sid) s = .next t ∧ t.answered sid dOk 0 ∧
      t.ledger.sched = (if s.computeIdle = true ∧ s.boundaryDue = false then .paused else .pausing)) ∧
  (∀ (s : State) (sid : Nat), s.mayWrite sid Obj.schedResume = true →
    (s.ledger.sched = .pausing ∨ (s.ledger.sched = .paused ∧ (s.det.mapChanged = false ∨ s.isOn Obj.resumeTolerant = true))) →
    ∃ t, exec (.schedResume sid) s = .next t ∧ t.ledger.sched = .running ∧ t.answered sid dOk 0) ∧
  (∀ (s : State) (sid : Nat), s.mayWrite sid Obj.schedResume = true → s.ledger.sched = .paused → s.det.mapChanged = true →
    s.isOn Obj.resumeTolerant = false →
    ∃ t, exec (.schedResume sid) s = .next t ∧ t.answered sid dDenied 0 ∧ SameBut [.window, .sessions] s t)

/-- Triggers of one register: FELT_FLUSH_CLEAN and FELT_FLUSH_INVALIDATE start a flush where one may start and are BUSY otherwise (R196);
STEP_COUNTER_WRITE sets the step counter while compute is idle and is BUSY otherwise (R28, R257); RNG_PROBE sets the probe input, its
reserved bytes zero (R274); ERROR_LOG_ACK records what has been read and ends the hold on ALERT_N (R309).

RESUME_APPLY (R283): while compute is idle a record that agrees sets the step counter and the reproducibility of the run; a record of another unit map is
taken with `ResumeTolerant` and ends reproducibility; any other is DENIED; while compute is not idle it is BUSY. THERMAL_ACCEPT leaves
no ask open (R361). -/
def Obligations.TriggersAnswerAtOnce : Prop :=
  ((∀ (s : State) (sid : Nat), s.mayWrite sid Obj.feltFlush = true →
    ∃ t u, exec (.feltFlushClean sid) s = .next t ∧ exec (.feltFlushInvalidate sid) s = .next u ∧
      (if s.flushable then t.felt.flush = 1 ∧ u.felt.flush = 2 ∧ t.answered sid dOk 0 ∧ u.answered sid dOk 0
      else t.answered sid dBusy 0 ∧ u.answered sid dBusy 0 ∧ t.felt = s.felt ∧ u.felt = s.felt) ∧
      SameBut [.window, .sessions, .felt] s t ∧ SameBut [.window, .sessions, .felt] s u) ∧
  (∀ (s : State) (sid v : Nat), s.mayWrite sid Obj.stepCounter = true →
    ∃ t, exec (.stepCounterWrite sid v) s = .next t ∧
      (if s.computeIdle then t.det.step = BitVec.ofNat 64 v ∧ t.answered sid dOk 0 else t.answered sid dBusy 0 ∧ t.det = s.det)) ∧
  (∀ (s : State) (sid : Nat) (v : Bytes), s.mayWrite sid Obj.rngProbeInput = true → v.length = 24 → leNat (v.drop 20) = 0 →
    ∃ t, exec (.rngProbe sid v) s = .next t ∧ t.det.probe = v ∧ t.answered sid dOk 0) ∧
  (∀ (s : State) (sid v : Nat), s.mayWrite sid Obj.errorLogAck = true →
    ∃ t, exec (.errorLogAck sid v) s = .next t ∧ t.integ.ack = v % 2 ^ 32 ∧ t.integ.alertHold = false ∧ t.answered sid dOk 0 ∧
      SameBut [.window, .sessions, .integ] s t)) ∧
  ((∀ (s : State) (sid : Nat) (r : Bytes), s.mayWrite sid Obj.resumeApply = true → r.length = 64 → s.computeIdle = true →
    ∃ t, exec (.resumeApply sid r) s = .next t ∧ t.det.resume = s.resumeCheck r ∧
      (if s.resumeCheck r = resMatch ∨ s.resumeCheck r = resTolerated then
        t.answered sid dOk 0 ∧ t.det.step = BitVec.ofNat 64 (leNat r / 2 ^ 72) ∧
          t.det.repro = (decide (s.resumeCheck r = resMatch) && natBit (leNat r) 201)
      else t.answered sid dDenied 0 ∧ t.det.step = s.det.step)) ∧
  (∀ (s : State) (sid : Nat) (r : Bytes), s.mayWrite sid Obj.resumeApply = true → r.length = 64 → s.computeIdle = false →
    ∃ t, exec (.resumeApply sid r) s = .next t ∧ t.answered sid dBusy 0 ∧ SameBut [.window, .sessions] s t) ∧
  (∀ (s : State) (sid : Nat), s.mayWrite sid Obj.thermalAccept = true →
    ∃ t, exec (.thermalAccept sid) s = .next t ∧ ∀ a ∈ t.thermal.asks, a.enforced = true))

/-- Module state and resets: MODULE_STATE_STANDBY and MODULE_STATE_DORMANT start a transition from Active with compute idle, and
MODULE_STATE_ACTIVE one from Standby where the module may wake (R354, R355); COMPUTE_RESET in Ready starts a compute reset with every
entry finished and no commit queued (R388); FULL_RESET restarts bring-up with no lease, nothing staged and no tile state (R387). -/
def Obligations.ModuleStateAndResetTriggers : Prop :=
  (∀ (s : State) (sid : Nat), s.mayWrite sid Obj.moduleStateRequest = true → s.boot.phase = .ready → s.boot.pwrOff = false →
    s.thermal.modSt = .active → s.computeIdle = true →
    ∃ t u, exec (.moduleStateStandby sid) s = .next t ∧ t.thermal.modSt = .changing 1 ∧ t.answered sid dOk 0 ∧
      exec (.moduleStateDormant sid) s = .next u ∧ u.thermal.modSt = .changing 2 ∧ u.answered sid dOk 0) ∧
  (∀ (s : State) (sid : Nat), s.mayWrite sid Obj.moduleStateRequest = true → s.boot.phase = .ready → s.boot.pwrOff = false →
    s.thermal.modSt = .standby → s.mayWake = true →
    ∃ t, exec (.moduleStateActive sid) s = .next t ∧ t.thermal.modSt = .changing 0 ∧ t.answered sid dOk 0) ∧
  (∀ (s : State) (sid : Nat), s.mayWrite sid Obj.computeReset = true → s.boot.phase = .ready → s.thermal.modSt = .active →
    s.fw.upd = .idle →
    ∃ t, exec (.computeReset sid) s = .next t ∧ t.boot.phase = .computeReset ∧ t.dict.queued = none ∧ t.ledger.entries.all Entry.isFinished = true ∧
      t.answered sid dOk 0) ∧
  (∀ (s : State) (sid : Nat), s.mayWrite sid Obj.fullReset = true → s.boot.powered = true →
    ∃ t, exec (.fullReset sid) s = .next t ∧ t.boot.phase = .training ∧ t.dict.lease = none ∧ t.dict.staged = [] ∧ t.tiles = [])

/-! ### Thread groups and the matrix array (ch. 3 to 6, 11) -/

/-- FP32_ARITH (R123, R138, R288): each active lane gets the operation's result on its own sources, with the first mark of the sources;
the other lanes and registers are unchanged and the path goes on. A parity error whose replay runs clean changes no result, and one that
recurs faults REGFILE_PARITY with the register. -/
def Obligations.Fp32ArithWritesActiveLanes : Prop :=
  ∀ (s : State) (g : GroupRef) (b : Block) (gr : Group) (p : Path) (op : FpOp) (vd va vb vc : Nat) (hit : ParityHit),
    s.Issues g b gr p → (∀ r ∈ vd :: fpSources op va vb vc, r < b.nregs) → b.nregs ≤ 256 →
    (∀ r, exec (.fp32Arith g op vd va vb vc (.recurs r)) s = .next ((s.parityReplay g.tile 0).threadFault g fRegfileParity none r)) ∧
    ((∀ r, hit ≠ .recurs r) →
    ∃ t gr', exec (.fp32Arith g op vd va vb vc hit) s = .next t ∧ t.group g = some gr' ∧
      gr.wrote gr' (fun l r => if r = vd ∧ p.mask.getLsbD l = true then
        some { val := fpOp op (gr.reg l va).val (gr.reg l vb).val (gr.reg l vc).val,
               mark := firstMark ((fpSources op va vb vc).map fun x => (gr.reg l x).mark) } else none) ∧
      SameBut [.tiles] (s.replayed g.tile hit) t)

/-- SHFL, VOTE and REDUX (R123, R124) with all 32 threads in the mask: a lane gets the register of the lane that its index names,
modulo 32; every lane gets the vote over the 32 predicates; every lane gets the 32 values combined in the fixed binary tree. The
other registers are unchanged and the path goes on. A parity error whose replay runs clean changes no result (R288). -/
def Obligations.GroupWideOperations : Prop :=
  ∀ (s : State) (g : GroupRef) (b : Block) (gr : Group) (p : Path) (vd va vi : Nat) (kind : VoteKind) (op : ReduxOp) (hit : ParityHit),
    s.Issues g b gr p → p.mask = 0xFFFFFFFF → vd < b.nregs → va < b.nregs → vi < b.nregs → b.nregs ≤ 256 → (∀ r, hit ≠ .recurs r) →
    (∃ t gr', exec (.shfl g vd va vi hit) s = .next t ∧ t.group g = some gr' ∧ SameBut [.tiles] (s.replayed g.tile hit) t ∧
      gr.wrote gr' (fun l r => if r = vd then
        some { val := (gr.reg ((gr.reg l vi).val.toNat % 32) va).val,
               mark := orMark (gr.reg l vi).mark (gr.reg ((gr.reg l vi).val.toNat % 32) va).mark } else none)) ∧
    (∃ t gr', exec (.vote g kind vd va hit) s = .next t ∧ t.group g = some gr' ∧ SameBut [.tiles] (s.replayed g.tile hit) t ∧
      gr.wrote gr' (fun _ r => if r = vd then
        some { val := voteOf gr kind va, mark := firstMark ((List.range 32).map fun k => (gr.reg k va).mark) } else none)) ∧
    (∃ t gr', exec (.redux g op vd va hit) s = .next t ∧ t.group g = some gr' ∧ SameBut [.tiles] (s.replayed g.tile hit) t ∧
      gr.wrote gr' (fun _ r => if r = vd then
        some { val := (redTree (reduxCode op) 5 ((List.range 32).map fun l => [(gr.reg l va).val])).1.headD 0,
               mark := firstMark ((List.range 32).map fun l => (gr.reg l va).mark) } else none))

/-- RNG (R273): each active lane gets the 64-bit draw of Philox on the seed, the step of its entry, its position, its source (the tile, or
VT of lane 0 modulo 64), its lane and the purpose: the low word in VD and the high word in VD+1, with the marks of what it read. A parity
error whose replay runs clean changes no result (R288). -/
def Obligations.RngWritesTheDraw : Prop :=
  ∀ (s : State) (g : GroupRef) (b : Block) (gr : Group) (p : Path) (e : Entry) (w : W64) (vd vp vt : Nat) (hit : ParityHit),
    s.Issues g b gr p → s.entry b.seq = some e → fld w 63 56 = 0xDC → fld w 14 0 = 0 → 0x100 ≤ fld w 39 24 → fld w 22 15 = vt →
    (if w.getLsbD 23 then vt < b.nregs else vt = 0) → fld w 55 48 = vd → fld w 47 40 = vp → vd + 1 < b.nregs → vp + 1 < b.nregs →
    b.nregs ≤ 256 → (∀ r, hit ≠ .recurs r) →
    ∃ t gr', exec (.rng g w hit) s = .next t ∧ t.group g = some gr' ∧ SameBut [.tiles] (s.replayed g.tile hit) t ∧
      gr.wrote gr' (fun l r => if p.mask.getLsbD l = true ∧ (r = vd ∨ r = vd + 1) then
        some { val := BitVec.ofNat 32 ((rngDraw (BitVec.ofNat 64 (s.num Obj.rngSeed)) e.step (gr.pair l vp)
                 (if w.getLsbD 23 then (gr.lane0 vt).val.toNat % 64 else g.tile) l (fld w 39 24)).toNat / (if r = vd then 1 else 2 ^ 32)),
               mark := orMark (gr.pairMark l vp) (if w.getLsbD 23 then (gr.lane0 vt).mark else none) } else none)

/-- MWAIT and MPOLL (R79, R126) of a token below `MatrixTokenCount`, with all 32 threads in the mask: a DONE token becomes FREE and VD of
every lane gets its status; a FREE token gives 0; of a PENDING token MPOLL gives 0x100, and MWAIT waits: nothing changes. -/
def Obligations.TokenWaitsFollowTheToken : Prop :=
  ∀ (s : State) (g : GroupRef) (b : Block) (gr : Group) (p : Path) (w : W64) (poll : Bool) (hit : ParityHit),
    s.Issues g b gr p → p.mask = 0xFFFFFFFF → (∀ r, hit ≠ .recurs r) → fld w 63 56 = (if poll then 0xE2 else 0xE1) → waitOk b w = true → b.nregs ≤ 256 →
    asyncPoisoned gr w = false → waitToken gr w < s.num Obj.matrixTokenCount →
    match b.token (waitToken gr w) with
    | none => ∃ t gr', exec (if poll then .mpoll g w hit else .mwait g w hit) s = .next t ∧ t.group g = some gr' ∧ SameBut [.tiles] (s.replayed g.tile hit) t ∧
        gr.wrote gr' (fun _ r => if r = fld w 55 48 then some { val := 0, mark := none } else none)
    | some .pending => ∃ t gr', exec (if poll then .mpoll g w hit else .mwait g w hit) s = .next t ∧ t.group g = some gr' ∧
        (if poll then SameBut [.tiles] (s.replayed g.tile hit) t ∧
          gr.wrote gr' (fun _ r => if r = fld w 55 48 then some { val := 0x100, mark := none } else none)
        else t = s.replayed g.tile hit)
    | some (.done st) => ∃ t gr' b', exec (if poll then .mpoll g w hit else .mwait g w hit) s = .next t ∧ t.group g = some gr' ∧
        t.block g.tile g.slot = some b' ∧ b'.token (waitToken gr w) = none ∧ SameBut [.tiles] (s.replayed g.tile hit) t ∧
        gr.wrote gr' (fun _ r => if r = fld w 55 48 then some { val := BitVec.ofNat 32 st, mark := none } else none)

/-- MISSUE (R75, R78, R79): an instruction that passes its checks, with the group's stores performed and a place in the queue, is queued
last on its tile with its descriptor and its owner, and its token is PENDING.

CONVERT (R105, R128): a conversion that passes its checks is queued last at its tile's converter with its descriptor and its owner, and
its token is PENDING. -/
def Obligations.AsyncInstructionsAreQueued : Prop :=
  (∀ (s : State) (g : GroupRef) (b : Block) (gr : Group) (p : Path) (w : W64) (words : List W64) (d : MDesc) (hit : ParityHit),
    s.Issues g b gr p → (∀ r, hit ≠ .recurs r) → p.mask = 0xFFFFFFFF → fld w 63 56 = 0xE0 → asyncOk b w false = true → asyncPoisoned gr w = false →
    gr.stores = 0 → bytesWords (b.scratch.readN (asyncOffset gr w) 64) = words → mdescOf words = d →
    (s.tile g.tile).matrix.queue.length < s.num Obj.matrixQueueDepth →
    offsetOk (b.launch.splitKib * 1024) (asyncOffset gr w) 64 = true → mdescOk (b.launch.splitKib * 1024) words d = true →
    mFormatsOk d = true → b.token d.token ≠ some .pending → d.token < s.num Obj.matrixTokenCount →
    ∃ t i b', exec (.missue g w hit) s = .next t ∧ (t.tile g.tile).matrix.queue = (s.tile g.tile).matrix.queue ++ [i] ∧ i.desc = d ∧
      i.owner = b.uid ∧ i.pc = p.pc ∧ t.block g.tile g.slot = some b' ∧ b'.token d.token = some .pending ∧ SameBut [.tiles] (s.replayed g.tile hit) t) ∧
  (∀ (s : State) (g : GroupRef) (b : Block) (gr : Group) (p : Path) (w : W64) (words : List W64) (d : CDesc) (hit : ParityHit),
    s.Issues g b gr p → (∀ r, hit ≠ .recurs r) → p.mask = 0xFFFFFFFF → fld w 63 56 = 0xE3 → asyncOk b w true = true → asyncPoisoned gr w = false →
    gr.stores = 0 → bytesWords (b.scratch.readN (asyncOffset gr w) 64) = words → cdescOf words = d →
    (s.tile g.tile).matrix.cqueue.length < 8 →
    offsetOk (b.launch.splitKib * 1024) (asyncOffset gr w) 64 = true → cdescOk (b.launch.splitKib * 1024) words d = true →
    cFormatsOk d.srcFmt d.dstFmt d.grain (d.asymIn b.launch) d.hist = true → b.token (fld w 38 31) ≠ some .pending →
    fld w 38 31 < s.num Obj.matrixTokenCount →
    ∃ t i b', exec (.convert g w hit) s = .next t ∧ (t.tile g.tile).matrix.cqueue = (s.tile g.tile).matrix.cqueue ++ [i] ∧ i.desc = d ∧
      i.token = fld w 38 31 ∧ i.owner = b.uid ∧ t.block g.tile g.slot = some b' ∧ b'.token (fld w 38 31) = some .pending ∧
      SameBut [.tiles] (s.replayed g.tile hit) t)

/-- MATRIX_DISPATCH (R63, R64, R65, R66, R75): with no change of shape waiting or flushing the oldest instruction leaves the queue. The kernel's first
one sets the shape; one of another shape waits as a change of shape; one of the same shape joins its sub-array last: with WKEEP it
uses the register of the latest load and its rows can issue, else it loads the other register, as a flush where R63 says so and
through a front where not. -/
def Obligations.MatrixDispatchFollowsTheShape : Prop :=
  ∀ (s : State) (tile : Nat) (i : MInstr) (rest : List MInstr),
    (s.tile tile).matrix.changing = false → (s.tile tile).matrix.queue = i :: rest →
    ∃ t, exec (.matrixDispatch tile) s = .next t ∧ (t.tile tile).matrix.queue = rest ∧ SameBut [.tiles, .power] s t ∧
      ((s.tile tile).matrix.shape = none → (t.tile tile).matrix.shape = some i.desc.shape ∧ (t.tile tile).matrix.change = none) ∧
      (∀ sh, (s.tile tile).matrix.shape = some sh → sh ≠ i.desc.shape →
        (t.tile tile).matrix.change = some i ∧ (t.tile tile).matrix.subs = (s.tile tile).matrix.subs) ∧
      (∀ a, (s.tile tile).matrix.shape = some i.desc.shape → s.sub tile i.desc.sub = some a →
        ∃ a', t.sub tile i.desc.sub = some a' ∧ a'.x = a.x ∧ a'.y = a.y ∧
          a'.queue = a.queue ++ [if i.desc.wkeep then { i with load := .keep, useY := a.latestY, phase := .rows 0 }
            else { i with load := (match a.plan.bind fun l => flushReason i l (s.num Obj.weightChangeMode == 1) with
                           | some r => .flush r
                           | none => .front), useY := !a.latestY, phase := .waitLoad }])

/-- GAUZE_FRONT_START, GAUZE_FRONT_RESUME and FLUSH_LOAD (R62, R64, R67): a front whose register no earlier instruction still reads loads
it from row 0; a load that waited at a row goes on there with the rows and the sectors it has read; a flush load whose earlier
instructions are all in a bank discards both registers and loads its own. Where the scales are good and every row is at hand, the load
ends: its register holds the rows, and the instruction's rows can issue.

SHAPE_CHANGE (R65, R67): once every instruction is in a bank, the new shape's sub-arrays have no weights; an instruction with WKEEP
then has its rows to issue with the weights absent, and every other loads its own weights. -/
def Obligations.WeightLoadsAndShapeChanges : Prop :=
  (∀ (s : State) (tile sub : Nat) (a : SubArray) (i : MInstr), s.sub tile sub = some a → a.toLoad = some i → i.desc.sub = sub →
    (∀ wait, i.load = .front → i.phase = .waitLoad → a.registerFree i = true →
      (s.bump Obj.gauzeWaitCycles wait).LoadsFrom tile i [] [] (exec (.gauzeFrontStart tile sub wait) s)) ∧
    (∀ wait k, i.phase = .loading k → (if i.load = .front then s.bump Obj.gauzeWaitCycles wait else s).LoadsFrom tile i a.part a.sectors
      (exec (.gauzeFrontResume tile sub wait) s)) ∧
    (∀ r, i.load = .flush r → i.phase = .waitLoad → a.drainedBefore i = true →
      ((s.countFlush tile r).adjMatrix tile fun m => m.adjSub sub fun a => { a with x := none, y := none }).LoadsFrom tile i [] []
        (exec (.flushLoad tile sub) s)) ∧
    (∀ rows, s.scalesGood tile i = true → i.desc.dropW = false → (List.range i.desc.k).mapM (s.weightRow tile i) = some rows →
      (∀ wait, i.load = .front → i.phase = .waitLoad → a.registerFree i = true →
        ∃ t, exec (.gauzeFrontStart tile sub wait) s = .next t ∧ t.Loaded tile i rows) ∧
      (∀ wait k, i.phase = .loading k → a.part = rows.take k → k ≤ i.desc.k → a.sectors = [] →
        ∃ t, exec (.gauzeFrontResume tile sub wait) s = .next t ∧ t.Loaded tile i rows) ∧
      (∀ r, i.load = .flush r → i.phase = .waitLoad → a.drainedBefore i = true →
        ∃ t a', exec (.flushLoad tile sub) s = .next t ∧ t.Loaded tile i rows ∧ t.sub tile sub = some a' ∧
          (if i.useY then a'.x else a'.y) = none))) ∧
  (∀ (s : State) (tile : Nat) (i : MInstr), (s.tile tile).matrix.change = some i → i.desc.sub < shapeSubs i.desc.shape →
    ((s.tile tile).matrix.subs.all fun a => a.queue.all MInstr.inBank) = true →
    (i.desc.wkeep = true → ∃ t, exec (.shapeChange tile) s = .next t ∧ SameBut [.tiles, .power] s t ∧ (t.tile tile).matrix.change = none ∧
      (t.tile tile).matrix.shape = some i.desc.shape ∧ (t.tile tile).matrix.subs.length = shapeSubs i.desc.shape ∧
      ∀ n, n < shapeSubs i.desc.shape → ∃ a, t.sub tile n = some a ∧ a.x = none ∧ a.y = none) ∧
    (i.desc.wkeep = false → ∃ s1 : State, SameBut [.tiles, .counters] s s1 ∧ (s1.tile tile).matrix.change = none ∧
      (s1.tile tile).matrix.shape = some i.desc.shape ∧ (s1.tile tile).matrix.subs.length = shapeSubs i.desc.shape ∧
      (∀ n, n < shapeSubs i.desc.shape → ∃ a, s1.sub tile n = some a ∧ a.x = none ∧ a.y = none) ∧
      s1.LoadsFrom tile { i with load := .shape, useY := true, phase := .waitLoad } [] [] (exec (.shapeChange tile) s)) ∧
    (∀ rows, i.desc.wkeep = false → s.scalesGood tile i = true → i.desc.dropW = false →
      (List.range i.desc.k).mapM (s.weightRow tile i) = some rows →
      ∃ t, exec (.shapeChange tile) s = .next t ∧ (t.tile tile).matrix.change = none ∧ (t.tile tile).matrix.shape = some i.desc.shape ∧
        t.Loaded tile { i with load := .shape, useY := true, phase := .waitLoad } rows))

/-- ACTIVATION_ROW_ISSUE (R56, R57, R82, R89): the next row of the sub-array's oldest instruction issues from its state, its weights and a
bank; a parity error that replays clean is counted and logged and changes nothing else (R288). A row past the first, of an instruction
with no C and no top-k, whose elements are at hand adds to its bank the row of results that the arithmetic gives; the bank is full after
the last row. -/
def Obligations.ActivationRowFillsTheBank : Prop :=
  ∀ (s : State) (tile sub m bank : Nat) (a : SubArray) (i : MInstr) (wts : Weights) (hit : ParityHit) (err : ErrHit),
    s.sub tile sub = some a → a.toIssue = some i → i.phase = .rows m → (s.tile tile).matrix.bankFor i = some bank →
    a.weightsFor i = some wts →
    ((∀ r, hit ≠ .recurs r) → exec (.activationRowIssue tile sub hit err) s = .next (State.issueRow s tile m i wts bank
      (((if hit = .none then s else s.parityReplay tile 1)).operandError tile i.owner i.desc.a.dev
        ((i.desc.a.addr + m * i.desc.aStride * 32) / 32) err)).afterFault) ∧
    (∀ (aSc : List Nat) (aMarks : List (Option PoisonClass × Nat)) (row : List Elt) (hdr : W32 × W32 × Option PoisonClass) (b : Bank),
      m ≠ 0 → i.desc.acc = false → isTopk i.desc.op = false → i.hdr = some hdr → s.rowScales tile i m = .ok (aSc, aMarks) →
      firstMark (hdr.2.2 :: aMarks.map (·.1)) = none → i.desc.dropA = false → s.ledger.autoReset = false →
      s.rowHere tile i.owner i.desc.a.dev (i.desc.a.addr + m * i.desc.aStride * 32) i.desc.aFmt i.desc.k = some row →
      (s.tile tile).matrix.banks[bank]? = some b →
      ∃ t b', exec (.activationRowIssue tile sub .none .none) s = .next t ∧ (t.tile tile).matrix.banks[bank]? = some b' ∧
        b'.rows = b.rows ++
          [(rowValues i wts (if i.seff.isEmpty then seffOf i.desc hdr.1 wts else i.seff) row aSc (hdr.2.2 :: aMarks.map (·.1)) none).1] ∧
        b'.full = (m + 1 == i.desc.rows) ∧ b'.drained = false)

/-- RESULT_BANK_DRAIN (R58, R80, R97 to R100): a full bank of its sub-array's oldest instruction, kept over a change of shape or not, whose
pages of D are all present and open, writes its rows to D and is drained, with the record of its statistics; it does so at once where
every sector of D can be written. MATRIX_COMPLETE (R79): a drained bank is free once the instruction's drops are performed, and the token of
its instruction is DONE with bit 0 saturation, bit 1 poison and bit 2 the saturation event. -/
def Obligations.BanksDrainAndComplete : Prop :=
  (∀ (s : State) (tile bank : Nat) (b : Bank) (i j : MInstr),
    (s.tile tile).matrix.banks[bank]? = some b → b.instr = some i → b.full = true → b.drained = false →
    ((s.tile tile).matrix.order i).head? = some j → j.same i = true → s.destFault i.desc = none → s.destOpen i.desc = true →
    (∀ (s1 : State) (b1 : Bank) (st : CStat),
      (if isTopk i.desc.op then
         State.drainTopk tile i 0 b.topk ((List.range i.desc.n).map fun n => firstMark (b.rows.map fun r => (r[n]?).bind (·.mark)))
           (CStat.init false) s
       else State.drainRows (BitVec.ofNat 64 (s.num Obj.rngSeed)) tile i 0 b.rows
         (CStat.init (i.desc.rnd && i.launch.stoch && i.desc.dFmt != 0xB)) s) = (s1, true, st) →
      (s1.tile tile).matrix.banks[bank]? = some b1 → s1.ledger.autoReset = false →
      ∃ t b', exec (.resultBankDrain tile bank .none) s = .next t ∧ (t.tile tile).matrix.banks[bank]? = some b' ∧ b'.drained = true ∧
        b'.rows = b1.rows ∧ ∃ evt scale, b'.stat = some (st.record (i.desc.dFmt == 0 || i.desc.dFmt == 0xB) evt i.desc.dFmt scale)) ∧
    (s.ledger.autoReset = false → isTopk i.desc.op = false → b.rows.length = i.desc.rows → (∀ r ∈ b.rows, r.length ≤ i.desc.n) →
      s.rowsWritable tile i.desc.d i.desc.dStride (rowBytes i.desc.dFmt i.desc.n) i.desc.rows = true →
      ∃ t b', exec (.resultBankDrain tile bank .none) s = .next t ∧ (t.tile tile).matrix.banks[bank]? = some b' ∧ b'.drained = true ∧
        b'.rows = b.rows)) ∧
  (∀ (s : State) (tile bank : Nat) (b : Bank) (i : MInstr) (x : Block),
    (s.tile tile).matrix.banks[bank]? = some b → b.instr = some i → b.drained = true → s.dropsWait tile i.owner = false →
    s.ownerBlock tile i.owner = some x →
    ∃ t x' b', exec (.matrixComplete tile bank) s = .next t ∧ (t.tile tile).matrix.banks[bank]? = some b' ∧ b'.instr = none ∧
      t.ownerBlock tile i.owner = some x' ∧
      x'.token i.desc.token = some (.done (bit01 i.sat + 2 * bit01 i.pois + 4 * bit01 i.satEvt)))

/-- CONVERSION_START (R97 to R102, R128): a free converter takes its oldest conversion; where the pages of its destination and its
source are readable, its results, its scales and its record of statistics are those of the converter's run, and so at once where every
source row is at hand. CONVERSION_COMPLETE (R79, R80): where the destination, the scale area and the history can be written, the token is
DONE with its status and the converter is free. -/
def Obligations.ConversionsRunAndComplete : Prop :=
  (∀ (s s0 s1 s2 : State) (tile : Nat) (i : CInstr) (rest : List CInstr) (src : List (List SrcElt)) (whole : FVal × FVal × Bool) (empty : Bool)
    (mark : Option PoisonClass) (o : COutput) (err : ErrHit),
    (s.tile tile).matrix.crun = none → (s.tile tile).matrix.cqueue = i :: rest →
    ((s.operandError tile i.owner i.desc.src.dev (i.desc.src.addr / 32) err).adjMatrix tile fun m =>
      { m with cqueue := rest, crun := some i }) = s0 → s0.cdestFault i.desc = none →
    State.sourceRows tile i.owner i.desc i.desc.rows 0 s0 = (s1, .ok src) → s1.wholeScale tile i = (s2, .ok (whole, empty, mark)) →
    (i.settings (BitVec.ofNat 64 (s2.num Obj.rngSeed)) tile).run s2 whole empty src = o →
    ∃ t i', exec (.conversionStart tile err) s = .next t ∧ (t.tile tile).matrix.crun = some i' ∧
      i'.out = outPieces i.desc.dstFmt i.desc.dst.addr i.desc.dstStride mark 0 o.rows ∧
      i'.stat = some (o.stat.record false (s2.satEvent o.stat.sat o.stat.elements) i.desc.dstFmt (w32Nat o.scale)) ∧
      i'.scales.map (·.2) = o.area ∧ i'.token = i.token) ∧
  (∀ (s : State) (tile : Nat) (i : CInstr) (rest : List CInstr) (rows : List (List Elt)) (whole : FVal × FVal × Bool) (o : COutput),
    (s.tile tile).matrix.crun = none → (s.tile tile).matrix.cqueue = i :: rest → s.cdestFault i.desc = none → i.desc.hist = false →
    ((List.range i.desc.rows).mapM fun r => s.rowHere tile i.owner i.desc.src.dev (i.desc.src.addr + r * i.desc.srcStride * 32) i.desc.srcFmt
      i.desc.rowLen) = some rows →
    whole = (if i.desc.grain = 1 then (f32Val i.desc.scale, if i.desc.asymIn i.launch then f32Val i.desc.offset else fZero, false)
      else (.fin Dy.one, fZero, false)) →
    (i.settings (BitVec.ofNat 64 (s.num Obj.rngSeed)) tile).run s whole false
      (rows.map fun row => row.map fun e => (fmtVal i.desc.srcFmt e.code, e.mark)) = o →
    ∃ t i', exec (.conversionStart tile .none) s = .next t ∧ (t.tile tile).matrix.crun = some i' ∧ (t.tile tile).matrix.cqueue = rest ∧
      i'.out = outPieces i.desc.dstFmt i.desc.dst.addr i.desc.dstStride none 0 o.rows ∧ i'.stat ≠ none ∧
      i'.scales.map (·.2) = o.area ∧ i'.token = i.token) ∧
  (∀ (s : State) (tile : Nat) (i : CInstr) (rec : List Nat) (x : Block),
    (s.tile tile).matrix.crun = some i → i.stat = some rec → s.convOpen i = true → s.ownerBlock tile i.owner = some x →
    (i.desc.dst.dev = false ∨ ∀ e ∈ i.out, s.writable e.1 (mTile tile) = true) →
    (i.desc.hist = true → ∀ k, k < 4 → s.writable (i.desc.histAddr.addr / 32 + k) (mTile tile) = true) →
    ∃ t x', exec (.conversionComplete tile) s = .next t ∧ (t.tile tile).matrix.crun = none ∧ t.ownerBlock tile i.owner = some x' ∧
      x'.token i.token = some (.done (2 * bit01 i.pois + 4 * bit01 i.satEvt)))

/-- A branch (R121): where every active lane goes to one PC the path goes there, and where the lanes differ the running path waits at the
reconvergence PC under one new path for each next PC, in ascending order, within the 32 entries of the stack; each new path holds
exactly the active lanes that go to its PC. -/
def Obligations.BranchesSplitPathsByPc : Prop :=
  (∀ (s : State) (g : GroupRef) (b : Block) (gr : Group) (p : Path) (kind : BranchKind) (ipdom : Nat) (hit : ParityHit),
    s.Issues g b gr p → (∀ r, hit ≠ .recurs r) → branchReg kind < b.nregs → (∀ l ∈ lanesOf p.mask, gr.poisonedReg l [branchReg kind] = none) → p.mask ≠ 0 →
    (∀ pc, (∀ e ∈ nextPcs gr p kind, e.2 = pc) → ∃ t, exec (.branch g kind ipdom hit) s = .next t ∧ SameBut [.tiles] (s.replayed g.tile hit) t ∧
      t.group g = some (gr.adjRunning fun q => { q with pc := pc }).settled) ∧
    ((∃ d ∈ nextPcs gr p kind, ∃ e ∈ nextPcs gr p kind, d.2 ≠ e.2) →
      gr.stack.length - 1 + (sortNat ((nextPcs gr p kind).map (·.2))).length ≤ 32 →
      ∃ t, exec (.branch g kind ipdom hit) s = .next t ∧ SameBut [.tiles] (s.replayed g.tile hit) t ∧
        t.group g = some ({ gr with stack := splitStack (splitPaths (nextPcs gr p kind) ipdom) ipdom (freshId gr.stack) p.id gr.stack } : Group).settled)) ∧
  (∀ (gr : Group) (p : Path) (kind : BranchKind) (ipdom : Nat), ∀ q ∈ splitPaths (nextPcs gr p kind) ipdom, ∀ l,
    q.mask.getLsbD l = true ↔ (l, q.pc) ∈ nextPcs gr p kind)

/-- EXIT (R121, R131): the active threads have exited and are in no path of the group any more, and the block is exiting exactly where every
thread of it has exited. -/
def Obligations.ExitRemovesTheActiveThreads : Prop :=
  ∀ (s : State) (g : GroupRef) (b : Block) (gr : Group) (p : Path), s.Issues g b gr p →
    ∃ t b' gr', exec (.exit g) s = .next t ∧ SameBut [.tiles, .ledger] s t ∧ t.block g.tile g.slot = some b' ∧
      b'.groups[g.group]? = some gr' ∧ gr'.exited = gr.exited ||| p.mask ∧ (∀ q ∈ gr'.stack, q.mask &&& p.mask = 0) ∧
      (b'.exiting = true ↔ ∀ x ∈ b'.groups, x.live = 0)

/-- BAR, CBAR and GBAR (R130, R131, R146, R150) of a group whose stores are performed: the path parks and its threads are counted in the
barrier's instance, a new one with the instruction's COUNT where there is none; instances that have all their arrivals complete, and the
grid's waits for the half managers; the group goes on with the next path of its stack (R122). -/
def Obligations.BarrierArrivalsAreCounted : Prop :=
  ∀ (s : State) (g : GroupRef) (b : Block) (gr : Group) (p : Path) (w : W64), s.Issues g b gr p → gr.stores = 0 →
    (∀ count n, fld w 63 56 = 0xD0 → fld w 45 0 = 0 → fld w 55 50 = count → fld w 49 46 = n → count ≤ b.groups.length → count ≤ 32 →
      (∀ i, NMap.look b.bars n = some i → i.count = count) →
      ∃ t, exec (.bar g w) s = .next t ∧ SameBut [.tiles] s t ∧ t.block g.tile g.slot = some (
        let c := Block.settleBars { b with
          groups := adjAt b.groups g.group fun x => { x.adjRunning (fun q => { q with parked := some (.block n) }) with cur := none }
          bars := NMap.put b.bars n (match NMap.look b.bars n with
            | some i => i.arrive p
            | none => newInst s g p count) }
        { c with groups := adjAt c.groups g.group Group.settled })) ∧
    (∀ n, fld w 63 56 = 0xD1 → fld w 45 0 = 0 → fld w 55 50 = 0 → fld w 49 46 = n → n ≤ 1 → 1 < b.clSize →
      exec (.cbar g w) s = .next ((((s.park g (.cluster n)).adjKernel b.seq fun k => { k with
        cbars := NMap.put k.cbars (b.cluster * 2 + n) (match NMap.look k.cbars (b.cluster * 2 + n) with
          | some i => i.arrive p
          | none => newInst (s.park g (.cluster n)) g p 0) }).settleCbars b.seq).goOn g)) ∧
    (fld w 63 56 = 0xD2 → fld w 55 0 = 0 → b.launch.coop = true →
      exec (.gbar g w) s = .next ((((s.park g .grid).adjKernel b.seq fun k => { k with gbar := some (match k.gbar with
        | some i => i.arrive p
        | none => newInst (s.park g .grid) g p 0) }).settleGbar b.seq).goOn g))

/-- GBAR_COMPLETE (R132, R150): a grid barrier with its last arrival ends: its instance is gone, the L1 parts of the kernel's tiles are
empty, and every path of the kernel parked there resumes. BARRIER_WD_PULSE (R133): every instance's count is brought up to now, and each
that has reached `BarrierTimeout` faults BARRIER_STALL, in the order of the tile, the block and the group of its first arrival (R140). -/
def Obligations.GridBarriersEndAndStallsFault : Prop :=
  (∀ (s : State) (seq : Nat) (e : Entry) (k : Kernel) (i : BarInst),
    s.entry seq = some e → e.kern = some k → k.gbar = some i → i.complete = true →
    ∃ t, exec (.gbarComplete seq) s = .next t ∧ SameBut [.tiles, .ledger] s t ∧
      t.entry seq = some { e with kern := some { k with gbar := none } } ∧
      ∀ n, (t.tile n).blocks = (s.tile n).blocks.map (fun b =>
          if b.seq = seq then { b with groups := b.groups.map fun g => g.resume .grid } else b) ∧
        (((s.tile n).blocks.any fun b => b.seq == seq) = true → (t.tile n).l1 = [])) ∧
  (∀ (s u : State), s.tiles.foldl (fun (t : State) e => t.tickBars e.1) s = u →
    exec .barrierWdPulse s = .next (u.stalls.foldl (fun (t : State) x => t.barrierStall x) u) ∧
    u.stalls.Pairwise (fun x y => x.rank ≤ y.rank) ∧
    (u.stalls = [] → exec .barrierWdPulse s = .next u))

/-- LDS, STS, LDC, STC, LD and ST (R135, R136, R143, R166) with a width of 1 to 16 bytes, allocated registers, unmarked addresses, and
every lane's address in range and aligned: the active lanes' accesses are made in lane order, to the scratchpad of the block or of the
cluster's block of the rank named, or to device memory, and a store or a scratchpad access lets the path go on. An error that a check
finds of the first sector read, or a parity error whose replay runs clean, comes before the accesses (R287, R288). -/
def Obligations.GroupAccessesAreMadeInLaneOrder : Prop :=
  ∀ (s : State) (g : GroupRef) (b : Block) (gr : Group) (p : Path) (dir : Dir) (width va vd : Nat) (err : ErrHit) (hit : ParityHit)
    (u : State), s.Issues g b gr p → (∀ r, hit ≠ .recurs r) → s.replayed g.tile hit = u → width ∈ [1, 2, 4, 8, 16] → (∀ r ∈ va :: (va + 1) :: widthRegs vd width, r < b.nregs) →
    (∀ l ∈ lanesOf p.mask, (gr.reg l va).mark = none ∧ (gr.reg l (va + 1)).mark = none) →
    ((∀ e ∈ laneOffsets gr p va, e.2 + width ≤ b.scratchB ∧ e.2 % width = 0) →
      exec (.ldsSts g dir width va vd err hit) s = .next ((match dir with
        | .load => State.scratchLoad g b.tile b.uid width vd (laneOffsets gr p va) (u.firstError gr p va b err)
        | .store => State.scratchStore gr b.tile b.uid width vd (laneOffsets gr p va) (u.firstError gr p va b err)).advanceGroup g)) ∧
    (∀ (rank : Nat) (t : Block), rank < b.clSize →
      s.residents.find? (fun t => t.seq == b.seq && t.cluster == b.cluster && t.rank == rank) = some t →
      (∀ e ∈ laneOffsets gr p va, e.2 + width ≤ t.scratchB ∧ e.2 % width = 0) →
      exec (.ldcStc g dir width rank va vd err hit) s = .next ((match dir with
        | .load => State.scratchLoad g t.tile t.uid width vd (laneOffsets gr p va) (u.firstError gr p va t err)
        | .store => State.scratchStore gr t.tile t.uid width vd (laneOffsets gr p va) (u.firstError gr p va t err)).advanceGroup g)) ∧
    ((∀ e ∈ laneAddrs gr p va, e.2 % width = 0 ∧ s.violationKind e.2 false = none) →
      exec (.ld g width va vd err hit) s =
        .next (State.laneLoad g b.uid width vd (laneAddrs gr p va)
          ((match (laneAddrs gr p va).head? with
            | some e => u.readError g.tile (e.2 / 32) err
            | none => u).adjGroup g fun x => { x with loads := (laneAddrs gr p va).length }))) ∧
    ((∀ e ∈ laneAddrs gr p va, e.2 % width = 0 ∧ s.violationKind e.2 true = none) →
      exec (.st g width va vd hit) s = .next (State.laneStore g gr b.uid width vd (laneAddrs gr p va) (u.advanceGroup g)))

/-- FENCE (R151, R152) that does not wait: at GROUP and BLOCK scope the path goes on and nothing else changes; at DEVICE and SYSTEM scope
it is counted, and ACQ (kind 1) and FULL (kind 0) empty the tile's L1 part, while REL (kind 2) leaves it. LLDROP (R182) drops each line named
once, in the L1 part and at its home bank; REDL (R186) drops the L1 copy and sends the group's contribution to the line's home bank. -/
def Obligations.FencesDropsAndContributions : Prop :=
  ∀ (s : State) (g : GroupRef) (b : Block) (gr : Group) (p : Path) (w : W64) (hit : ParityHit) (u : State), s.Issues g b gr p →
    (∀ r, hit ≠ .recurs r) → s.replayed g.tile hit = u →
    (∀ sc, fld w 63 56 = 0xD8 → fld w 50 0 = 0 → fld w 52 51 ≠ 3 → s.fenceScope b.launch.coop (fld w 55 53) = some sc →
      (fld w 52 51 = 1 ∨ gr.stores = 0) →
      ∃ t, exec (.fence g w) s = .next t ∧ t.group g = some gr.advance ∧ SameBut [.tiles, .counters, .draws] s t ∧
        (sc ≤ 2 → SameBut [.tiles] s t ∧ (t.tile g.tile).l1 = (s.tile g.tile).l1) ∧
        (3 ≤ sc → (t.tile g.tile).l1 = if fld w 52 51 = 2 then (s.tile g.tile).l1 else [])) ∧
    (∀ va, fld w 63 56 = 0xDA → fld w 47 0 = 0 → fld w 55 48 = va → va + 1 < b.nregs →
      (∀ l ∈ lanesOf p.mask, gr.poisonedReg l [va, va + 1] = none) →
      (∀ l ∈ lanesOf p.mask, gr.lineAddr l va % 128 = 0 ∧ s.violationKind (gr.lineAddr l va) true = none) →
      exec (.lldrop g w hit) s =
        .next (State.laneDrops g b.uid (((lanesOf p.mask).map fun l => gr.lineAddr l va).eraseDups) (u.advanceGroup g))) ∧
    (∀ va vd vi rop idx count a, fld w 63 56 = 0xD9 → fld w 18 0 = 0 → fld w 39 36 = rop → rop ≤ 8 → fld w 55 48 = va → fld w 47 40 = vd →
      fld w 34 27 = vi → va + 1 < b.nregs → vd < b.nregs → gr.poisonedReg (lowestLane p.mask) [va, va + 1] = none →
      (if w.getLsbD 35 then fld w 26 19 = 0 ∧ vi < b.nregs ∧ gr.poisonedReg (lowestLane p.mask) [vi] = none ∧
          idx = (gr.reg (lowestLane p.mask) vi).val.toNat % 16 ∧ count = (gr.reg (lowestLane p.mask) vi).val.toNat / 16 % 16
        else vi = 0 ∧ idx = fld w 26 23 ∧ count = fld w 22 19) →
      gr.lineAddr (lowestLane p.mask) va = a → a % 128 = 0 → s.violationKind a true = none →
      (firstMark ((contribData gr p vd rop).map (·.mark)) = none ∨ s.haltOn 1 = false) →
      exec (.redl g w hit) s = .next ((((u.advanceGroup g).adjTile g.tile fun t => t.l1Drop (a / 128)).adjGroup g fun x =>
        { x with stores := x.stores + 1 }).submit
          { agent := .thread g, uid := b.uid, addr := a, kind := .contrib rop idx (count + 1) (contribData gr p vd rop), ack := true }))

/-- BLOCK_ADMIT (R113, R115): a block still owed to a tile with room, or the next block of the grid where its place holds the tile, is on the
tile after, last, with its number, its registers and its scratchpad clear. BLOCK_EXIT_COMPLETE (R139): an exiting block whose tokens are
done and whose stores are performed has ended, with no group and no token, and the blocks of a cluster leave the tiles once the last of
them has ended; then the kernel is settled, and a run-time limit that was due after a save applies. -/
def Obligations.BlocksAreAdmittedAndLeave : Prop :=
  (∀ (s : State) (seq tile linear : Nat) (e : Entry) (k : Kernel), s.entry seq = some e → e.seq = seq → e.status = .running →
    e.kern = some k → (s.ledger.saved.any fun b => b.seq == seq) = false → (s.tile tile).alloc = some seq →
    ((k.plan.find? fun p => p.2 == tile) = some (linear, tile) ∧ s.hasRoom k tile = true ∨
     k.plan = [] ∧ k.halted = false ∧ k.next < k.grid ∧ k.clSize = 1 ∧ linear = k.next ∧ s.nextPlace k = some [tile]) →
    ∃ t b, exec (.blockAdmit seq tile) s = .next t ∧ (t.tile tile).blocks = (s.tile tile).blocks ++ [b] ∧ b.seq = seq ∧
      b.linear = linear ∧ b.nregs = k.nregs ∧ b.scratchB = k.scratchB ∧ b.groups = List.replicate (k.threads / 32) (Group.start e.code) ∧
      b.scratch = { bytes := [], marks := [] } ∧ b.tokens = [] ∧ b.exiting = false) ∧
  (∀ (s u : State) (r : BlockRef) (b : Block), s.block r.tile r.slot = some b → b.exiting = true → b.ended = false →
    b.pendingTokens = false → (s.felt.waiting.any fun q => q.uid == b.uid) = false →
    (s.adjBlock r.tile r.slot Block.ends).settleBarriers r.tile r.slot b.seq = u →
    (∃ t, exec (.blockExitComplete r) s = .next t ∧ ∀ x ∈ (t.tile r.tile).blocks, x.slot = r.slot →
      x.ended = true ∧ x.groups = [] ∧ x.tokens = []) ∧
    (∃ b', u.block r.tile r.slot = some b' ∧ b'.ended = true ∧ b'.groups = [] ∧ b'.tokens = []) ∧
    (u.clusterOver b.seq b.cluster = false → exec (.blockExitComplete r) s = .next (u.settleKernel b.seq).settleLimits) ∧
    (u.clusterOver b.seq b.cluster = true → ∃ t1 : State, exec (.blockExitComplete r) s = .next (t1.settleKernel b.seq).settleLimits ∧
      ∀ n, (t1.tile n).blocks = (u.tile n).blocks.filter fun x => !(x.seq == b.seq && x.cluster == b.cluster)))

/-! ### Felt and memory (ch. 7 to 9) -/

/-- The Felt services (R176, R192, R193, R196, R198, R205, R291, R296). REDUCE_SPILL of a deferred line whose half has a free record and whose
bank a free tag: the line leaves Felt, its tag names the record that holds it. SPILL_COMBINE_RETURN without an error: a
full spilled reduction whose set has a way is installed at its bank, Dirty, with the values combined from its record, and its tag is free.
FELT_FILL_RETURN without an error: the sector is present with what the memory holds for the master that fetched it, but for a fill that crosses
the half-link in a frame that still fails after 16 replays (R418): that one is present with poison class LINK. FELT_FLUSH_COMPLETE: the
flush ends and `FeltFlushState` reads IDLE. BANK_RETIRE_MOVES_COMPLETE: the group is retired once none of its lines is left. TABLE_WALK_RETURN:
the walk is counted and the page's entry is in the half's translation cache; with both copies bad the entry is lost; a cached entry that is
uncorrectable is walked again. Then every request that waits is tried again. -/
def Obligations.FeltServicesServeTheirLines : Prop :=
  (∀ (s : State) (line rec : Nat) (l : FLine) (r : Reduce), NMap.look s.felt.lines line = some l → l.red = some r → r.deferred = true →
    s.spillTags line < 16 → s.freeRecord (homeHalf line) = some rec →
    ∃ u : State, exec (.reduceSpill line) s = .next u.retry ∧ NMap.look u.felt.lines line = none ∧
      NMap.look u.felt.spilled line =
        some { record := rec, red := { r with deferred := false, slots := r.slots.map fun e => (e.1, []) }, full := false }) ∧
  (∀ (s : State) (line : Nat) (sp : Spill) (w : Nat), NMap.look s.felt.spilled line = some sp → sp.full = true →
    s.retiringHome line = false → ((s.chargeRecall line sp).findWay line (mScrub (homeHalf line))).2 = some w →
    ∃ u : State, exec (.spillCombineReturn line .none .none) s =
        .next ((u.bump Obj.reduceSatTotal (reduceResult (s.recalled line sp).1 (s.recalled line sp).2 false).2).bump
          Obj.reduceCompleteTotal 1).retrySpills.retry ∧
      NMap.look u.felt.spilled line = none ∧
      ∃ l, NMap.look u.felt.lines line = some l ∧ l.way = w ∧ l.red = none ∧
        l.sectors.map (·.val) = (reduceResult (s.recalled line sp).1 (s.recalled line sp).2 false).1 ∧ ∀ x ∈ l.sectors, x.dirty = true) ∧
  (∀ (s : State) (sector : Nat) (l : FLine) (x : FSector), NMap.look s.felt.lines (sector / 4) = some l → l.sectors[sector % 4]? = some x →
    x.fetching = true → x.present = false → s.fetchable sector = true → s.bundleStopped (sector / 4) = false →
    ∀ replays, ∃ u : State, exec (.feltFillReturn sector .none replays) s = .next u.retry ∧
      ∃ l' x', NMap.look u.felt.lines (sector / 4) = some l' ∧ l'.sectors[sector % 4]? = some x' ∧ x'.present = true ∧ x'.dirty = false ∧
        (replays ≤ 16 → x'.val = (s.fetch sector x.master).2) ∧
        (s.fillCrosses sector = false → x'.val = (s.fetch sector x.master).2) ∧
        (s.fillCrosses sector = true → 16 < replays → x'.val.mark = some .link)) ∧
  (∀ (s : State), s.felt.flush ≠ 0 → s.bundleChange = false →
    ∃ u : State, exec .feltFlushComplete s = .next u.retry ∧ u.felt.flush = 0 ∧ u.felt.lines = (s.flushAll (s.felt.flush == 2)).felt.lines) ∧
  (∀ (s : State) (half group : Nat), s.felt.retiring.contains (half, group) = true → s.moveLeaving.leavingOf half group = false →
    ∃ u : State, exec (.bankRetireMovesComplete half group) s = .next u.retry ∧ (half, group) ∈ u.felt.retired ∧
      (half, group) ∉ u.felt.retiring) ∧
  (∀ (s : State) (half page : Nat), half ≤ 1 → s.walkWanted half page = true →
    exec (.tableWalkReturn half page false false .none) s = .next (((s.walkFill half page).bump Obj.walkTotal 1).tlbFill half page).retry ∧
    ∃ u : State, exec (.tableWalkReturn half page true true .none) s = .next u.retry ∧ u.tableLost page = true ∧ u.boot.lost = true) ∧
  (∀ (s : State) (half page pos : Nat) (again : Bool), half ≤ 1 → s.tlbHit half page = true →
    exec (.tableWalkReturn half page false false (.uncorrectable pos again)) s =
      .next (((s.canvasError half agentHalfManagers (some (0, page * 2 ^ 21)) (2 ^ 50 + page) false (.uncorrectable pos again)).bump
        Obj.walkTotal 1).tlbFill half page).retry)

/-- MAP and UNMAP (R207, R208) in their turn: a MAP whose range is unmapped and has frames completes with status 0 and maps it in the tier it
is placed in, and an UNMAP takes every page of its range out. HOST_MEM_READ and HOST_MEM_WRITE (R216, R401) wait their turn in order, and
HDM_DECODER_COMMIT sets the size, while the host link is up; with none before it and the line open in Felt, a read is answered at once with the
64 bytes and a write stores them. -/
def Obligations.MappingEntriesAndHostAccesses : Prop :=
  (∀ (s : State) (seq vpn n : Nat) (e : Entry), s.entry seq = some e → e.isFinished = false → s.mapTurn e = true →
    e.mapRange = some (vpn, n) →
    (∀ tier, e.kind = .map → (∀ p ∈ s.mem.pages, ¬ (vpn ≤ p.1 ∧ p.1 < vpn + n)) → s.placeTier (fld (e.word 5) 63 62) n = some tier →
      ∃ t, exec (.map seq) s = .next t ∧ t.mem = (State.mapPages tier ((e.word 5).getLsbD 61) ((e.word 5).getLsbD 60) n vpn s).mem ∧
        (t.entry seq).map (·.status) = some (.finished stOk 0 0)) ∧
    (e.kind = .unmap → s.bundleChange = false → ∃ t, exec (.unmap seq) s = .next t ∧ t.mem = (s.unmapRange vpn n).mem ∧
      (t.entry seq).map (·.status) = some (.finished stOk 0 0))) ∧
  (∀ (s : State) (offset gib : Nat) (data : Bytes), s.iface.hostLink = 2 →
    exec (.hostMemRead offset) s =
      .next ({ s with mem := { s.mem with hostWait := s.mem.hostWait ++ [(offset / 64 * 64, none)] } } : State).retryHost ∧
    exec (.hostMemWrite offset data) s =
      .next ({ s with mem := { s.mem with hostWait := s.mem.hostWait ++ [(offset / 64 * 64, some data)] } } : State).retryHost ∧
    exec (.hdmDecoderCommit gib) s = .next { s with mem := { s.mem with hdmSize := gib } }) ∧
  (∀ (s : State) (offset sn : Nat) (data : Bytes), s.iface.hostLink = 2 → s.mem.hostWait = [] →
    (s.mem.hdmSize = 0 ∨ offset / 64 * 64 < s.mem.hdmSize * 2 ^ 30) → sn = (windowBase + offset / 64 * 64) / 32 →
    (s.violationKind (windowBase + offset / 64 * 64) false = none → s.holds sn mHost = true → s.holds (sn + 1) mHost = true →
      ∃ t, exec (.hostMemRead offset) s = .next t ∧ t.mem.hostWait = [] ∧
        t.mem.hostResp = s.mem.hostResp ++ [(s.heldBytes sn 2, false)]) ∧
    (s.violationKind (windowBase + offset / 64 * 64) true = none → s.writable sn mHost = true → s.writable (sn + 1) mHost = true →
      data.length = 64 →
      ∃ t, exec (.hostMemWrite offset data) s = .next t ∧ t.mem.hostWait = [] ∧ t.mem.hostResp = s.mem.hostResp ∧
        ∀ k, k < 2 → ∃ x, t.feltSector (sn + k) = some x ∧ x.dirty = true ∧
          x.val = { data := bytesSector ((data.drop (32 * k)).take 32), mark := none }))

/-- The tiering engines and the links they use (R217 to R226, R233 to R237, R404). TIER2_LINK_WAIT_EXPIRY of a port that is down: the port
of a function that is ON is HELD_DOWN (a sequence under way is not cut short: R51), its pages are LOST, and the port no longer waits. MIGRATION_EPOCH_END: every page's HEAT is halved and its
TOUCHED is 0, and the candidates are chosen from the epoch's. MIGRATION_START of the candidate
its engine starts next, with the engine free, its stage owned and a frame free: the migration to that frame begins. SUBPAGE_COPY_COMPLETE: the subpage is copied and the next one or the flip follows.
MIGRATION_SOURCE_FREE: a flipped migration ends and is counted in MIGRATIONS. BW_INTERVAL_BOUNDARY: every target is scaled and has its
quotas and caps. COPY_HOST_ACCESS_WAIT_EXPIRY: the entry finishes HOST_ACCESS. -/
def Obligations.MigrationsAndIntervalsGoOn : Prop :=
  (∀ (s : State) (port : Nat), s.iface.t2down.contains port = true →
    ∃ u : State, exec (.tier2LinkWaitExpiry port) s = .next u.retry ∧ port ∉ u.iface.t2down ∧
      u.func (.tier2 port) = (if s.func (.tier2 port) = .on then .heldDown else s.func (.tier2 port)) ∧
      u.mem.pages = ((if s.func (.tier2 port) = .on then s.reach (.tier2 port) .heldDown else s).losePages port).mem.pages) ∧
  (∀ (s : State), ∃ t, exec .migrationEpochEnd s = .next t ∧ t.mem.cand = s.candidates ∧
    (∀ v, NMap.look t.mem.pages v = (NMap.look s.mem.pages v).map fun p => { p with heat := p.heat / 2, touched := 0 }) ∧
    SameBut [.tables] s t) ∧
  (∀ (s : State) (page dst f : Nat) (p : Page) (c : Nat × Nat × Bool), s.func .tiering = .on → s.page page = some p →
    s.mem.moves = [] → s.mem.cand.find? (fun c => c.1 == page) = some c → c.2.1 = dst →
    s.nextCandidate (s.candEngine c) = some c → s.runningMigs (s.candEngine c) < 4 → s.ownsStage (s.candEngine c) = true →
    s.freeIn dst = some f →
    exec (.migrationStart page) s = .next (({ s with mem := { s.mem with cand := s.mem.cand.filter fun c => c.1 != page } } : State).beginMigration
      page p dst f false)) ∧
  (∀ (s : State) (page : Nat) (p : Page) (m : Migration) (sub : Nat), NMap.look s.mem.pages page = some p → p.mig = some m →
    m.copying = some sub → m.held = [] → m.flipped = false → s.tierDown m.srcTier = false → s.tierDown p.destTier = false →
    ∃ t, exec (.subpageCopyComplete page .none) s = .next t ∧
      NMap.look t.mem.pages page = some (Page.stepCopy
        { p with copied := p.copied ||| (1#32 <<< sub), mig := some { m with copying := none, bytes := m.bytes + 65536, held := [] } })) ∧
  (∀ (s : State) (page : Nat) (p : Page) (m : Migration), NMap.look s.mem.pages page = some p → p.mig = some m → m.flipped = true →
    ∃ t, exec (.migrationSourceFree page) s = .next t ∧ NMap.look t.mem.pages page = some
        { p with mig := none, migrations := min 65535 (p.migrations + 1), lastEnd := some s.mem.epoch, destTier := 0, destFrame := 0 } ∧
      SameBut [.counters, .tables] s t) ∧
  (∀ (s : State) (loads : List BwLoad), ∃ t, exec (.bwIntervalBoundary loads) s = .next t ∧ SameBut [.counters, .bw, .ledger, .integ] s t ∧
    t = (List.range 7).foldl (fun (t : State) k => (t.scaleTarget k).setQuotas k) (s.noteLoads loads)) ∧
  (∀ (s : State) (seq : Nat) (e : Entry) (c : Channel), s.entry seq = some e → e.status = .running → e.chan = some c → c.wait = true →
    c.coll = false → s.copyBlocked e = true → ∃ t, exec (.copyHostAccessWaitExpiry seq) s = .next t ∧
      (t.entry seq).map (·.status) =
        some (.finished stHostAccess 0 (BitVec.ofNat 64 (if e.srcHost then e.copySrc else e.copyDst))) ∧ SameBut [.ledger] s t)

/-! ### Ledger and scheduler (ch. 10) -/

/-- HEAD_LINE_LOSS (R243, R244): the host's writes stand in host memory, and a running ledger with its link up and no slot in hand fetches the
slot at its head where that holds a KIND. The seven KIND rows (R245, R251, R263): a fetched slot whose CRC, ALIVE value and fields are good is taken as a waiting entry of
its KIND with its words where no dependency has failed and no step is being cancelled; a slot with a bad CRC, a repeated or skipped ALIVE, or
malformed fields is taken as one that has finished with that status. CONSUMED_COUNT_WRITE (R253): the count stands in host memory and in
the ledger, and a ring with room is no longer stalled. -/
def Obligations.SlotsAreFetchedCheckedAndTaken : Prop :=
  (∀ (s : State) (writes : List (Nat × Bytes)) (h : MarkedMem), s.ledger.enable = true →
    (s.ledger.st = .running ∨ s.ledger.st = .stalled) → s.iface.hostLink = 2 → s.ledger.fetched = none →
    writes.foldl (fun (m : MarkedMem) w => m.writeRaw w.1 w.2) s.mem.host = h →
    ∃ t, exec (.headLineLoss writes false) s = .next t ∧ t.mem.host = h ∧ SameBut [.host, .ledger] s t ∧
      t.ledger.fetched = (if (h.readN s.slotAddr 128).getD 7 0 = 0xFF then none else some (h.readN s.slotAddr 128))) ∧
  (∀ (s : State) (bs : Bytes) (k : Kind) (c : Instr) (w : List W64),
    (k, c) ∈ [(Kind.nop, Instr.ledgerNop), (.kernel, .ledgerKernel), (.collective, .ledgerCollective), (.copy, .ledgerCopy),
      (.map, .ledgerMap), (.unmap, .ledgerUnmap), (.protect, .ledgerProtect)] →
    s.ledger.fetched = some bs → s.iface.hostLink = 2 → s.boot.phase = .ready →
    bytesWords bs = w → kindOf (fld (w.getD 0 0) 63 56) = some k →
    ((crc32c (bs.take 124)).toNat = leNat ((bs.drop 124).take 4) → fld (w.getD 0 0) 55 48 = s.ledger.alive → s.ledger.alive < 256 →
      slotOk s.ledger.seq w = true → s.ledger.cancelTo = false → s.failedDep s.ledger.seq w = none →
      ∃ t e, exec c s = .next t ∧ s.took t .waiting (s.ledger.alive + 1) ∧ t.ledger.entries = s.ledger.entries ++ [e] ∧
        e.kind = k ∧ e.words = w ∧ t.ledger.ends = (if (w.getD 0 0).getLsbD 27 then s.ledger.ends ++ [s.ledger.seq] else s.ledger.ends)) ∧
    ((crc32c (bs.take 124)).toNat ≠ leNat ((bs.drop 124).take 4) →
      ∃ t, exec c s = .next t ∧
        s.took t (.finished stCrc 0 (BitVec.ofNat 64 (crc32c (bs.take 124)).toNat)) (s.ledger.alive + 1)) ∧
    ((crc32c (bs.take 124)).toNat = leNat ((bs.drop 124).take 4) → fld (w.getD 0 0) 55 48 = (s.ledger.alive + 255) % 256 →
      ∃ t, exec c s = .next t ∧
        s.took t (.finished stAliveRepeat 0 (BitVec.ofNat 64 (fld (w.getD 0 0) 55 48))) s.ledger.alive) ∧
    ((crc32c (bs.take 124)).toNat = leNat ((bs.drop 124).take 4) → fld (w.getD 0 0) 55 48 ≠ (s.ledger.alive + 255) % 256 →
      fld (w.getD 0 0) 55 48 ≠ s.ledger.alive →
      ∃ t, exec c s = .next t ∧
        s.took t (.finished stAliveSkip 0 (BitVec.ofNat 64 (fld (w.getD 0 0) 55 48 + 256 * s.ledger.alive))) (fld (w.getD 0 0) 55 48 + 1)) ∧
    ((crc32c (bs.take 124)).toNat = leNat ((bs.drop 124).take 4) → fld (w.getD 0 0) 55 48 = s.ledger.alive → s.ledger.alive < 256 →
      slotOk s.ledger.seq w = false →
      ∃ t, exec c s = .next t ∧ s.took t (.finished stMalformed 0 0) (s.ledger.alive + 1))) ∧
  (∀ (s : State) (n : Nat), (s.ledger.st = .running ∨ s.ledger.st = .stalled) → s.iface.hostLink = 2 → s.ledger.consumed ≤ n →
    n ≤ s.ledger.produced → n < 2 ^ 64 →
    ∃ t, exec (.consumedCountWrite n false) s = .next t ∧ t.ledger.consumed = n ∧
      t.mem.host = s.mem.host.writeRaw (s.num Obj.completionConsumedAddr) (natLE 8 n) ∧
      t.ledger.st = (if s.ledger.produced - n < s.num Obj.completionEntries then .running else s.ledger.st))

/-- Dispatch and completion (R246, R252 to R256, R258 to R262). KERNEL_DISPATCH of a ready entry that the rules accept: under DYNAMIC a
NORMAL kernel starts on the free places it can use and a COOP kernel on all it needs, under FIXED a kernel whose turn it is starts on its
partition's places; a running kernel grows. COLLECTIVE_DISPATCH and COPY_DISPATCH of a ready entry start it on a free channel; a copy whose sectors are all at hand finishes with status 0, a
RECV whose request and rank table are good runs, and a running collective goes on.
ENTRY_COMPLETE of the entry that finished first, with the ring open and room in it, writes its record, sends vector 0 and closes the entry;
EVENT_RECORD writes the oldest event record and takes it from the queue. PREEMPT_SAVE_COMPLETE saves a tile whose blocks are quiet, with their
barrier counts up to date, and gives it to the entry that preempts;
BLOCK_RESTORE puts the cluster of the lowest saved block on its kernel's place; RUNTIME_LIMIT_EXPIRY ends an entry that has no
kernel with RUNTIME_LIMIT, and stops and settles a kernel. -/
def Obligations.EntriesRunAndComplete : Prop :=
  (∀ (s : State) (seq : Nat) (e : Entry) (l : Launch), s.entry seq = some e → e.kind = .kernel → s.launchOf (e.word 7) = l →
    (e.status = .waiting → s.ready e = true → s.launchRefusal e l = none →
      (s.fixedPolicy = false → s.yields e = false → l.coop = false →
        ∀ p ps, (s.freePlaces e.seq e.clusterSize).take (min (s.tileLimit e / e.clusterSize) (unitsOf e.gridBlocks e.clusterSize)) = p :: ps →
          exec (.kernelDispatch seq) s = .next ((s.startKernel e l).takePlaces e.seq l.splitKib (p :: ps))) ∧
      (s.fixedPolicy = false → s.yields e = false → l.coop = true →
        ∀ ps, (s.freePlaces e.seq e.clusterSize).take (e.coopNeed l) = ps → e.coopNeed l ≤ ps.length →
          exec (.kernelDispatch seq) s = .next (((s.startKernel e l).takePlaces e.seq l.splitKib ps).adjKernel e.seq fun k =>
            { k with places := ps, next := k.grid, plan := gridPlan k.grid k.clSize ps })) ∧
      (s.fixedPolicy = true → s.partTurn e = true → (s.partPlaces e).all (fun p => p.all (s.tileFree e.seq)) = true →
        exec (.kernelDispatch seq) s = .next (((s.startKernel e l).takePlaces e.seq l.splitKib (s.partPlaces e)).adjKernel e.seq fun k =>
          { k with places := s.partPlaces e, next := if l.coop then k.grid else 0, plan := if l.coop then gridPlan k.grid k.clSize (s.partPlaces e) else [] }))) ∧
    (∀ k, e.status = .running → e.kern = some k → s.held = false → s.yields e = false →
      exec (.kernelDispatch seq) s = .next (s.growKernel e k))) ∧
  (∀ (s : State) (seq h : Nat) (e : Entry), s.entry seq = some e → e.status = .waiting → s.ready e = true → s.channelHalf = some h →
    (∀ (host : Option Nat) (stage : Nat × ErrHit), e.kind = .copy → s.copyBlocked e = false →
      exec (.copyDispatch seq host stage) s =
        .next ((s.startChannel seq { Channel.fresh h false (s.launchOf 0) with wait := true }).runCopy e h { host := host, stage := stage })) ∧
    (e.kind = .copy → s.copyBlocked e = false →
      (∀ k, k < e.copyLen / 32 →
        (if e.srcHost then (s.hostSector (e.copySrc + 32 * k)).mark = none
         else s.violationKind ((e.copySrc + 32 * k) / 32 * 32) false = none ∧ s.holds ((e.copySrc + 32 * k) / 32) mHost = true) ∧
        (e.dstHost = true ∨ s.violationKind ((e.copyDst + 32 * k) / 32 * 32) true = none ∧
          s.writable ((e.copyDst + 32 * k) / 32) mHost = true)) →
      ∃ u : State, exec (.copyDispatch seq none (0, .none)) s = .next u.retry ∧
        (u.entry seq).map (·.status) = some (.finished stOk 0 0)) ∧
    (∀ (t u : State) (c : Channel) (stage : Nat × ErrHit), e.kind = .collective → s.collRule (s.launchOf (e.word 7)) = 0 →
      (s.startChannel seq (Channel.fresh h true (s.launchOf (e.word 7)))).loadColl e (Channel.fresh h true (s.launchOf (e.word 7))) stage =
        (t, .ok c) →
      (match (c.steps (t.startChannel seq c).treeOrder)[0]? with
        | some x => (t.startChannel seq c).sendStep c x
        | none => t.startChannel seq c) = u →
      exec (.collectiveDispatch seq stage) s = .next (u.runColl seq c)) ∧
    (∀ (c : Channel) (a : Nat) (tab : List W64), e.kind = .collective → s.collRule (s.launchOf (e.word 7)) = 0 →
      c = { Channel.fresh h true (s.launchOf (e.word 7)) with words := bytesWords (s.heldBytes (fld (e.word 3) 56 0 / 32) 4) } →
      c.formOk = true → c.cop = 5 → a = fld (c.w 5) 56 0 / 32 →
      tab = (bytesWords (s.heldBytes a ((c.nranks * 8 + 31) / 32))).take c.nranks → rankTabOk tab = true →
      (∀ r ∈ ({ c with ranks := tab.map rankEntry } : Channel).partners s.treeOrder,
        s.partnerFault { c with ranks := tab.map rankEntry } r = none) →
      (∀ sn, (fld (e.word 3) 56 0 / 32 ≤ sn ∧ sn < fld (e.word 3) 56 0 / 32 + 4) ∨ (a ≤ sn ∧ sn < a + (c.nranks * 8 + 31) / 32) →
        s.violationKind (sn * 32) false = none ∧ s.holds sn (mColl h) = true) →
      ∃ t e', exec (.collectiveDispatch seq (0, .none)) s = .next t ∧ t.entry seq = some e' ∧ e'.ran = true ∧ e'.status ≠ .waiting)) ∧
  (∀ (s : State) (seq : Nat) (e : Entry) (c : Channel) (stage : Nat × ErrHit), s.entry seq = some e → e.status = .running →
    e.kind = .collective → e.chan = some c → exec (.collectiveDispatch seq stage) s = .next (s.runColl seq c)) ∧
  (∀ (s : State) (seq st rule : Nat) (detail : W64) (e : Entry), s.entry seq = some e → e.status = .finished st rule detail →
    s.ledger.discard = false → s.ringOpen = true → s.ringRoom = true →
    s.ledger.order.head? = some seq →
    exec (.entryComplete seq false) s = .next (((s.putRecord
      { phase := true, type := 0, code := st, rule := rule, sats := e.sats, seq := seq, tag := e.word 1, detail := detail, time := 0 }).irqEntry).closeEntry
        e st)) ∧
  (∀ (s : State) (r : Record) (l : List Record), s.ledger.events = r :: l → s.isOn Obj.completionEventEnable = true → s.ringOpen = true →
    s.ringRoom = true →
    ∃ t, exec (.eventRecord false) s = .next t ∧ t.ledger.events = l ∧ t.ledger.produced = s.ledger.produced + 1 ∧
      t.mem.host = s.mem.host.writeRaw s.recordAddrNext
        ({ r with phase := s.ledger.produced / max 1 (s.num Obj.completionEntries) % 2 == 0, time := s.now } : Record).bytes) ∧
  (∀ (s v u : State) (seq tile : Nat) (e : Entry) (p : List Nat), s.ledger.victims.contains (tile, seq) = true → s.saveReady tile = true →
    (s.saved tile).settleLimits = v → v.entry seq = some e → e.isFinished = false →
    ({ v with ledger := { v.ledger with reserve := v.ledger.reserve ++ [(tile, seq)] } } : State) = u →
    ((u.places e.clusterSize).find? fun p => p.contains tile && p.all (u.tileFree seq)) = some p → e.status = .waiting → u.ready e = true →
    exec (.preemptSaveComplete seq tile) s =
      .next ((u.startKernel e (u.launchOf (e.word 7))).takePlaces seq (u.launchOf (e.word 7)).splitKib [p])) ∧
  (∀ (s : State) (seq tile : Nat), s.ledger.victims.contains (tile, seq) = true → s.saveReady tile = true →
    (∀ e ∈ s.ledger.entries, ∀ k, e.kern = some k → k.limitDue = false) →
    ∃ t, exec (.preemptSaveComplete seq tile) s = .next t ∧ (t.tile tile).blocks = [] ∧ (tile, seq) ∉ t.ledger.victims ∧
      ∀ b ∈ ((s.tickBars tile).tile tile).blocks, b ∈ t.ledger.saved) ∧
  (∀ (s : State) (seq tile : Nat) (e : Entry) (k : Kernel) (b : Block) (p : List Nat), s.entry seq = some e → e.kern = some k →
    lowestBlock (s.ledger.saved.filter fun b => b.seq == seq) = some b → s.held = false → s.yields e = false →
    ((s.places k.clSize).find? fun p => p.contains tile) = some p →
    (∀ n ∈ p, (s.tile n).alloc = some seq ∧ s.hasRoom k n = true) →
    exec (.blockRestore seq tile) s = .next ((s.ledger.saved.filter fun x => x.seq == seq && x.cluster == b.cluster).foldl
      (fun (t : State) x => t.restoreBlock x (p.getD x.rank 0)) s)) ∧
  (∀ (s : State) (seq : Nat) (e : Entry), s.entry seq = some e → e.status = .running →
    (e.kern = none → ∃ t, exec (.runtimeLimitExpiry seq) s = .next t ∧
      (t.entry seq).map (·.status) = some (.finished stRuntimeLimit 0 0) ∧ SameBut [.ledger] s t) ∧
    (∀ k, e.kern = some k → (∀ v ∈ s.ledger.victims, v.1 ∉ k.tiles ∧ v.2 ≠ seq) → ∃ u : State,
      exec (.runtimeLimitExpiry seq) s = .next (u.settleKernel seq) ∧ ∀ b ∈ u.ledger.saved, b.seq ≠ seq))

/-! ### Integrity, power, clocks and thermal control (ch. 12 to 14) -/

/-- SCRUB_PACE_TICK (R297) with the scrubbers on: the pass of its half and memory goes on by the locations read, or ends. BUNDLE_SIGNAL_FAILED
(R302 to R304): a port bundle or a bank bundle with spares enough steers one for each failed signal and stops for the change; a port
bundle without is at half width or its tile faulted after its spares are used, and a bank bundle whose spares are used retires its
group. BUNDLE_SPARE_COMPLETE: the bundle runs again. HALF_WIDTH_MOVE_COMPLETE: the port runs at half width.

STAGE_FAILED, CELL_FAILED and RAIL_CELL_FAILED (R312, R316, R317): the failure is held and logged. Below 12 working stages the module
goes to Standby and stays; the 4th failed cell of a VCMP group derates its tiles and the 7th sheds its row; the 3rd of another rail's group is
logged and the 4th loses the module's state and takes it to Dormant. -/
def Obligations.ScrubBundlesAndRegulators : Prop :=
  ((∀ (s : State) (half count i : Nat) (hbm behind : Bool) (errs : List (Nat × ErrHit)), half < 2 → s.func .scrub = .on →
    NMap.lookD s.integ.pass (half * 2 + bit01 hbm) 0 = i → i ≤ s.scrubTotal half hbm →
    ∃ t, exec (.scrubPaceTick half hbm count errs behind) s = .next t ∧
      NMap.look t.integ.pass (half * 2 + bit01 hbm) = if s.scrubTotal half hbm ≤ i + count then none else some (i + count)) ∧
  (∀ (s : State) (b : Bundle) (n : Nat), s.bundleOk b = true → 0 < n → s.integ.failedB.contains (bundleKey b) = false →
    (n ≤ s.sparesLeft (bundleKey b) → (n < s.sparesLeft (bundleKey b) ∨ ∀ h g, b ≠ .bank h g) →
      ∃ t, exec (.bundleSignalFailed b n) s = .next t ∧
        NMap.lookD t.integ.bundles (bundleKey b) 0 = NMap.lookD s.integ.bundles (bundleKey b) 0 + n ∧ bundleKey b ∈ t.integ.stopped) ∧
    (s.sparesLeft (bundleKey b) < n → (∀ p k, b = .portRead p k ∨ b = .portWrite p k →
        exec (.bundleSignalFailed b n) s =
          .next ((State.steer (bundleKey b) (s.sparesLeft (bundleKey b)) s).portFails p (bundleKey b)).afterFault) ∧
      (∀ h g, b = .bank h g → exec (.bundleSignalFailed b n) s = .next (s.retireGroup h g).afterFault))) ∧
  (∀ (s : State) (b : Bundle), s.integ.stopped.contains (bundleKey b) = true →
    ∃ u : State, exec (.bundleSpareComplete b) s = .next u.retry ∧ SameBut [.integ] s u ∧
      ∀ k, k ∈ u.integ.stopped ↔ k ∈ s.integ.stopped ∧ k ≠ bundleKey b) ∧
  (∀ (s : State) (p : Nat), s.integ.moving.contains p = true →
    ∃ t, exec (.halfWidthMoveComplete p) s = .next t ∧ p ∉ t.integ.moving ∧ ∀ n, s.logicalOf p = some n → (t.tile n).halfPort = true)) ∧
  ((∀ (s : State) (k : Nat), k < 24 → s.power.stages.contains k = false →
    let u : State := { s with power := { s.power with stages := insertNat s.power.stages k } }
    (∃ t, exec (.stageFailed k) s = .next t ∧ t.power.stages = insertNat s.power.stages k ∧
      t.power.stageLock = (decide (u.stagesWorking < 12) || s.power.stageLock)) ∧
    (12 ≤ u.stagesWorking →
      exec (.stageFailed k) s = .next (u.log 0x5006 sevError agentRegulators none (k + u.stagesWorking * 256))) ∧
    (u.stagesWorking < 12 → ∃ v : State, v.power.stageLock = true ∧ v.power.stages = u.power.stages ∧
      exec (.stageFailed k) s = .next (v.forceState 1 false))) ∧
  (∀ (s : State) (g : Nat), g < 24 → NMap.lookD s.power.cells g 0 < 48 →
    let n := NMap.lookD s.power.cells g 0 + 1
    let u := ({ s with power := { s.power with cells := NMap.put s.power.cells g n } } : State).log 0x5003 sevInfo agentRegulators none
      (g * 256 + n * 65536)
    (∃ t, exec (.cellFailed g) s = .next t ∧ NMap.lookD t.power.cells g 0 = n) ∧
    (n = 4 → exec (.cellFailed g) s = .next (u.log 0x5004 sevError agentRegulators none g).applySteps.afterFault) ∧
    (n = 7 → exec (.cellFailed g) s = .next (u.shedRow (g / 2)).afterFault) ∧
    (n ≠ 4 → n ≠ 7 → exec (.cellFailed g) s = .next u.afterFault)) ∧
  (∀ (s : State) (g : RailGroup) (i : Nat), railIndex g = some i → NMap.lookD s.power.rails i 0 < 16 →
    let n := NMap.lookD s.power.rails i 0 + 1
    let u := ({ s with power := { s.power with rails := NMap.put s.power.rails i n } } : State).log 0x5003 sevInfo agentRegulators none
      (g.rail + g.group * 256 + n * 65536)
    (∃ t, exec (.railCellFailed g) s = .next t ∧ NMap.lookD t.power.rails i 0 = n) ∧
    (n = 3 → exec (.railCellFailed g) s = .next (u.log 0x5007 sevFatal agentRegulators none (g.rail + g.group * 256 + n * 65536))) ∧
    (n = 4 → ∃ v : State, v.boot.lost = true ∧ v.power.rails = u.power.rails ∧ exec (.railCellFailed g) s = .next (v.forceState 2 true)) ∧
    (n ≠ 3 → n ≠ 4 → exec (.railCellFailed g) s = .next u)))

/-- GOVERNOR_TICK (R325, R328, R329): whatever the demand, the allowance rises by at most `RampUp` and never past the level it moves to,
ballast stays within its capacity, the pace is at most 64 of 64, and the current rise scheduled for the next 10 µs at most 300 A (R314). -/
def Obligations.TheAllowanceKeepsItsRamp : Prop :=
  ∀ (s : State) (power demand amps : Nat), ∃ t, exec (.governorTick power demand amps) s = .next t ∧
    t.power.allowance ≤ s.power.allowance + s.rampUp10 ∧
    t.power.allowance ≤ max s.power.allowance (((s.scheduleRise amps).slotTurn demand).powerTarget demand) ∧
    t.power.ballast ≤ s.ballastCapacity ∧ t.power.k ≤ 64 ∧ t.power.rise ≤ 300 ∧
    SameBut [.counters, .felt, .hbm, .tier, .tables, .bw, .ledger, .integ, .funcs, .power] s t

/-- Slots, releases and the input (R332, R335, R336, R339 to R341). FLEECE_HOLD_MAX_EXPIRY with a limit and the RELEASE rows with
`FleeceRelease` = SCHEDULE release a floor that holds. A SLOT_FRAME_START of the module's own timing, a frame pulse on the sync line and a
BEACON with the module's slots start a frame now; SLOT_SYNC_LOST puts the frames on the module's timing. INPUT_LOW, INPUT_HIGH,
INPUT_HOLDUP and INPUT_NORMAL enter their state with the voltage; BROWNOUT_HOLD_EXPIRY cancels the work of an Active module and starts
Standby; INPUT_BELOW_40V takes the power. -/
def Obligations.FloorsFramesAndInputStates : Prop :=
  (∀ (s : State), s.power.fleece = .holding → s.num Obj.fleeceHoldMax ≠ 0 →
    exec .fleeceHoldMaxExpiry s = .next { s with power := { s.power with fleece := .releasing } }) ∧
  (∀ (s : State) (pin number : Nat), s.power.fleece = .holding → s.isOn Obj.fleeceRelease = true →
    (s.muslinOn = true → exec (.release number) s = .next { s with power := { s.power with fleece := .releasing } }) ∧
    (pin < 2 → s.syncPin pin = true →
      exec (.syncLineReleasePulse pin) s = .next { s with power := { s.power with fleece := .releasing } })) ∧
  (∀ (s : State), s.slotted = true → (s.coordinates = true ∨ s.power.syncLost = true) →
    ∃ t, exec .slotFrameStart s = .next t ∧ t.power.frame = s.now ∧ t.power.frameNo = (s.power.frameNo + 1) % 2 ^ 32 ∧ SameBut [.power] s t) ∧
  (∀ (s : State), s.slotted = true → s.coordinates = false → s.power.syncLost = false →
    ∃ t, exec .slotSyncLost s = .next t ∧ t.power.syncLost = true) ∧
  (∀ (s : State) (pin : Nat), pin < 2 → s.syncPin pin = true →
    ∃ t, exec (.syncLineFramePulse pin) s = .next t ∧ t.power.frame = s.now ∧ t.power.syncLost = false ∧ SameBut [.power] s t) ∧
  (∀ (s : State) (src : Udp) (frame node time : Nat), s.muslinOn = true → s.num Obj.rampCoordination = 1 →
    (s.coordinates = true → s.yieldsTo node src.addr = true) →
    ∃ t, exec (.beacon src frame (s.num Obj.slotCount) (s.num Obj.slotLength) node time) s = .next t ∧ t.power.frame = s.now ∧
      t.power.syncLost = false ∧ t.power.coordOff = (s.coordinates || s.power.coordOff)) ∧
  (∀ (s : State) (mv : Nat), s.boot.powered = true → s.power.input ≠ .holdup →
    (mv < 48000 → ∃ t, exec (.inputLow mv) s = .next t ∧ t.power.input = .low ∧ t.power.mv = mv) ∧
    (59500 < mv → ∃ t, exec (.inputHigh mv) s = .next t ∧ t.power.input = .high ∧ t.power.mv = mv) ∧
    (mv < 44000 → s.power.fleece = .holding → ∃ t, exec (.inputHoldup mv) s = .next t ∧ t.power.input = .holdup ∧ t.power.mv = mv ∧
      t.power.fleece = .releasing)) ∧
  (∀ (s : State) (mv : Nat), s.boot.phase ≠ .rom → (s.power.input = .high ∧ mv ≤ 59000 ∨ (s.power.input = .low ∨ s.power.input = .holdup) ∧ 48500 ≤ mv) →
    exec (.inputNormal mv) s = .next { s with power := { s.power with input := .normal, mv := mv } }) ∧
  (∀ (s : State), s.power.input = .holdup → s.boot.powered = true → s.beforeReady = false → s.thermal.modSt = .active →
    ∃ t, exec .brownoutHoldExpiry s = .next t ∧ t.thermal.modSt = .changing 1 ∧ t.power.descend = some drawStandby ∧
      ∀ e ∈ t.ledger.entries, e.isFinished = true) ∧
  (∀ (s : State), s.boot.powered = true → ∃ t, exec .inputBelow40V s = .next t ∧ t.boot.powered = false)

/-- The reference clock (R347, R348): REFCLK_LOST starts holdover; 100 ms of it force Standby once bring-up is over; AON_TRIM
counts while REFCLK is present; REFCLK_RETURN ends holdover. Tiles (R351 to R353): CLOCK_STEP_COMPLETE lets the tile issue; an idle tile
naps, is held in Nap for Off where another tile of its row is not ready, and a woken tile is Idle.

Transitions, time and samples (R355, R369, R370). MODULE_STATE_CHANGE_COMPLETE ends the transition under way once A has come down to the
lower state's draw and what the state turns off is off, or towards Active with REFCLK and the input in window and what it needs on. A PPS edge and a TIME message under `TimeSource`
move the timestamp's rate within 100 ppm and never its count; TIME_SOURCE_LOST unlocks it; a sample that is written advances `PerfSampleIndex`. -/
def Obligations.ClocksSleepAndTransitions : Prop :=
  ((∀ (s : State), s.thermal.holdover = false →
    ∃ t, exec .refclkLost s = .next t ∧ t.thermal = { s.thermal with holdover := true } ∧ SameBut [.counters, .ledger, .integ, .thermal] s t ∧
      exec .aonTrim s = .next { s with thermal := { s.thermal with trims := s.thermal.trims + 1 } }) ∧
  (∀ (s : State), s.thermal.holdover = true → s.bringingUp = false → s.boot.powered = true →
    exec .refclkHoldoverExpiry s = .next (s.forceState 1 false) ∧ (s.thermal.modSt = .active → (s.forceState 1 false).thermal.modSt = .changing 1)) ∧
  (∀ (s : State), exec .refclkReturn s = .next { s with thermal := { s.thermal with holdover := false } }) ∧
  (∀ (s : State) (n : Nat), (s.tile n).retune = true →
    ∃ t, exec (.clockStepComplete n) s = .next t ∧ (t.tile n).retune = false ∧ (t.tile n).step = (s.tile n).step ∧ ∀ m, m ≠ n → t.tile m = s.tile m) ∧
  (∀ (s : State) (p : Nat), p < 72 → s.func (.domain (rowDomain p)) = .on → s.tileRests p = true → s.sleepOf p = .idle → s.power.ballast = 0 →
    (s.num Obj.idleTileState ≠ 0 → ∃ t, exec (.idleNapDelayExpiry p) s = .next t ∧ t.sleepOf p = .nap ∧
      SameBut [.thermal] s t ∧ ∀ q, q ≠ p → t.sleepOf q = s.sleepOf q) ∧
    (s.num Obj.idleTileState = 2 → ((rowTiles (rowDomain p)).all ((s.setSleep p .napOff).offReady)) = false →
      ∃ t, exec (.idleOffDelayExpiry p) s = .next t ∧ t.sleepOf p = .napOff ∧ SameBut [.thermal] s t)) ∧
  (∀ (s : State) (p n : Nat), s.logicalOf p = some n → (s.tile n).alloc.isSome = true → s.ledger.faultMask.contains n = false →
    s.func (.domain (rowDomain p)) = .on → s.sleepOf p = .nap → s.thermal.holdover = false →
    ∃ t, exec (.tileWakeComplete p) s = .next t ∧ t.sleepOf p = .idle ∧ SameBut [.thermal] s t)) ∧
  ((∀ (s : State), s.beforeReady = false → s.thermal.forced = none →
    (s.thermal.modSt = .changing 1 → s.power.allowance ≤ drawStandby * 1000 → s.downReady 1 = true →
      ∃ t, exec .moduleStateChangeComplete s = .next t ∧ t.thermal.modSt = .standby) ∧
    (s.thermal.modSt = .changing 2 → s.power.allowance ≤ drawDormant * 1000 → s.downReady 2 = true →
      ∃ t, exec .moduleStateChangeComplete s = .next t ∧ t.thermal.modSt = .dormant)) ∧
  (∀ (s : State), s.beforeReady = false → s.thermal.forced = none → s.thermal.modSt = .changing 0 → s.thermal.holdover = false →
    s.power.input = .normal → s.upReady = true →
    ∃ t, exec .moduleStateChangeComplete s = .next t ∧ t.thermal.modSt = .active ∧ t.thermal.tripped = false) ∧
  (∀ (s : State) (pin : Nat), pin < 2 → (if pin = 0 then s.dict.claims.aux0 else s.dict.claims.aux1) = .pps → s.num Obj.ppsPin = pin + 1 →
    ∃ t, exec (.ppsEdge pin) s = .next t ∧ t.thermal.pps = s.now ∧ t.now = s.now ∧ SameBut [.thermal] s t ∧
      (t.thermal.slew = s.thermal.slew ∨ -100 ≤ t.thermal.slew ∧ t.thermal.slew ≤ 100)) ∧
  (∀ (s : State) (tai seq node : Nat), s.muslinOn = true → s.num Obj.timeSource = 2 →
    ∃ t, exec (.time tai seq node) s = .next t ∧ t.thermal.lastTime = some (tai, s.now) ∧ t.thermal.timeLost = false ∧ t.now = s.now ∧ SameBut [.thermal] s t ∧
      (t.thermal.slew = s.thermal.slew ∨ -100 ≤ t.thermal.slew ∧ t.thermal.slew ≤ 100)) ∧
  (∀ (s : State), s.num Obj.timeSource ≠ 0 → s.thermal.timeLost = false →
    ∃ t, exec .timeSourceLost s = .next t ∧ t.thermal = { s.thermal with locked := false, timeLost := true }) ∧
  (∀ (s v : State) (a : Nat), s.isOn Obj.perfSampleEnable = true → s.boot.phase = .ready →
    s.num Obj.perfSampleBase + 64 * (s.thermal.perfIdx % max 1 (s.num Obj.perfSampleEntries)) = a →
    (s.engineWrites agentHalfManagers (mScrub 0) [(a / 32, s.perfRecord.take 32, none), (a / 32 + 1, s.perfRecord.drop 32, none)] = (v, .ok ()) →
      exec .perfSample s = .next { v with thermal := { v.thermal with perfIdx := v.thermal.perfIdx + 1 } }) ∧
    ((∀ k, k < 2 → s.violationKind ((a / 32 + k) * 32) true = none ∧ s.writable (a / 32 + k) (mScrub 0) = true) →
      ∃ t, exec .perfSample s = .next t ∧ t.thermal.perfIdx = s.thermal.perfIdx + 1 ∧
        ∀ k, k < 2 → ∃ x, t.feltSector (a / 32 + k) = some x ∧ x.dirty = true ∧
          x.val = { data := bytesSector ((s.perfRecord.drop (32 * k)).take 32), mark := none })))

/-- Sensors and throttling (R357 to R361, R365). A sample with an over-temperature governing value trips: after bring-up the module is in Standby,
tripped, with the allowance at most its draw and no ballast; else the throttle conditions are evaluated. A sensor that has differed by more than 8 °C from the median of its
neighbours for 20 samples is suspect, and the median governs. THERMAL_GRACE_EXPIRY enforces the first open ask where its scope is still hot, and
withdraws it where it is not. -/
def Obligations.SensorsTripAndThrottle : Prop :=
  (∀ (s : State) (rs es : List Reading), s.boot.powered = true → s.thermal.modSt ≠ .dormant →
    (∀ k, (s.sampled rs es).thermal.tripped = false → (s.sampled rs es).thermal.hotBoot = false → (s.sampled rs es).tripper = some k →
      exec (.sensorSample rs es) s = .next ((s.sampled rs es).trip k.1 k.2)) ∧
    ((s.sampled rs es).thermal.tripped = true ∨ (s.sampled rs es).thermal.hotBoot = true ∨ (s.sampled rs es).tripper = none →
      exec (.sensorSample rs es) s = .next (s.sampled rs es).throttleSample)) ∧
  (∀ (u : State) (k : Nat) (v : Int), u.bringingUp = false →
    (u.trip k v).thermal.modSt = .standby ∧ (u.trip k v).thermal.tripped = true ∧ (u.trip k v).power.allowance ≤ drawStandby * 1000 ∧
      (u.trip k v).power.ballast = 0) ∧
  (∀ (m : NMap Sensor) (k : Nat) (x : Sensor) (v : Int), x.suspect = false → medianAt m k = some v → 800 < gapOf x.reading v → 19 ≤ x.disagree →
    (judge m k x).suspect = true ∧ ((judge m k x).byEst = false → (judge m k x).gov = v)) ∧
  (∀ (m : NMap Sensor) (k : Nat) (x : Sensor) (v : Int), x.suspect = false → medianAt m k = some v → gapOf x.reading v ≤ 800 → x.est = none →
    (judge m k x).suspect = false ∧ (judge m k x).gov = x.reading) ∧
  (∀ (s : State) (a : Ask), (s.thermal.asks.find? fun x => !x.enforced) = some a →
    (s.stillHot a = true → ∃ t, exec .thermalGraceExpiry s = .next t ∧ SameBut [.counters, .tiles, .ledger, .integ, .thermal] s t ∧
      t.thermal = { s.thermal with
        asks := adjFirst (fun x => !x.enforced) (fun x => { x with enforced := true, hot := 0, cool := 0 }) s.thermal.asks }) ∧
    (s.stillHot a = false → ∃ t, exec .thermalGraceExpiry s = .next t ∧ t.tiles = s.tiles ∧
      t.thermal = { s.thermal with asks := dropFirst (fun x => !x.enforced) s.thermal.asks }))

/-! ### Bring-up and recovery (ch. 15) -/

/-- Bring-up (R375 to R386). POWER_ON starts link training. LINK_TRAINED opens a port's qualification window, and the fill's turn comes with the
half-link and every stack. A window whose predicted rate stays below 10⁻¹⁵ with no uncorrectable codeword qualifies its link; any other fails it. A
deadline passed by a stack or the half-link ends bring-up FAILED. The fill, with the Felt domains on, leaves HBM empty and starts the broadcast; a core keeps a good packet meant
for it; a round ends with another round, the next stage or self-test; a self-test that leaves 4 good tiles in each half binds the numbers; and with
every link settled and A at the compute-idle draw the module is Ready, and A stays. -/
def Obligations.BringUpRunsStepByStep : Prop :=
  (∀ (s : State), s.mayPowerUp = true →
    ∃ t, exec .powerOn s = .next t ∧ t.boot.powered = true ∧ t.boot.phase = .training ∧ t.power.input = .normal ∧ t.iface.hostLink = 1) ∧
  (∀ (s : State) (sub width rate node cap bw ide : Nat), s.mayTrain sub = true →
    ∃ t, exec (.linkTrained (.port sub) width rate node cap bw ide) s = .next t ∧
      t.link sub = { trained := true, window := true, result := 2, rate := 0 }) ∧
  (∀ (s : State) (k width rate node cap bw ide : Nat), s.boot.phase = .training → s.stacks.contains k = true → s.thermal.holdover = false →
    s.func (.domain (16 + k / 8)) = .on →
    ∃ t, exec (.linkTrained (.hbm k) width rate node cap bw ide) s = .next t ∧ t.boot.hbmTrained = insertNat s.boot.hbmTrained k ∧
      (t.memoryTrained = true → t.boot.phase = .fill) ∧ SameBut [.boot] s t) ∧
  (∀ (s : State) (sub errors received bad : Nat), (s.link sub).trained = true → (s.link sub).window = true →
    ((linkRate sub errors received).1 * 10 ^ 15 < (linkRate sub errors received).2 → bad = 0 →
      exec (.linkQualWindowEnd (.port sub) errors received bad) s = .next (s.setLink sub
        { trained := true, window := false, result := 0, rate := BitVec.ofNat 32 (ratioF32 (linkRate sub errors received)) })) ∧
    (bad ≠ 0 ∨ (linkRate sub errors received).2 ≤ (linkRate sub errors received).1 * 10 ^ 15 →
      exec (.linkQualWindowEnd (.port sub) errors received bad) s = .next (s.linkFails sub
        { trained := sub == 19, window := false, result := 1, rate := BitVec.ofNat 32 (ratioF32 (linkRate sub errors received)) }))) ∧
  (∀ (s : State), s.boot.phase = .training → s.bringupHeld = false →
    (∀ k, s.stacks.contains k = true → s.boot.hbmTrained.contains k = false →
      ∃ t, exec (.linkTrainingDeadline (.hbm k)) s = .next t ∧ t.boot.phase = .failed) ∧
    ((s.link 22).trained = false → ∃ t, exec (.linkTrainingDeadline (.port 22)) s = .next t ∧ t.boot.phase = .failed)) ∧
  (∀ (s : State) (bad : List Nat), s.boot.phase = .fill → s.bringupHeld = false →
    (∀ c, 12 ≤ c → c ≤ 15 → s.func (.domain c) = .on) →
    ∃ t, exec (.hbmFillComplete bad) s = .next t ∧ t.boot.phase = .broadcast ∧ t.boot.round = 0 ∧ (bad = [] → t.mem.hbm = .empty ∧ t.felt.lines = [])) ∧
  (∀ (s : State) (c h : Nat) (packet : Bytes), s.boot.phase = .broadcast → s.coreExpected c = true →
    (s.boot.stage ≠ 0 ∨ h / 2 ^ 76 % 16 = 0 ∨ h / 2 ^ 76 % 16 = manifest) → NMap.look s.boot.snoop (coreHalf c) = none → leNat (packet.take 16) = h →
    packet.length = 272 → h / 2 ^ 96 = (crc32c (packet.take 12 ++ packet.drop 16)).toNat → h / 2 ^ 72 % 16 = 0 → h % 2 ^ 27 = 0 →
    (h / 2 ^ 76 % 16 = coreImage c ∨ h / 2 ^ 76 % 16 = manifest) → h / 2 ^ 27 % 2048 = (if h / 2 ^ 38 % 4 = 0 then 0 else c) →
    ∃ t, exec (.broadcastPacket c packet) s = .next t ∧
      t.core c = (s.core c).keep (h / 2 ^ 76 % 16) (h / 2 ^ 56 % 65536) (h / 2 ^ 40 % 65536) (packet.drop 16)) ∧
  (∀ (s : State), s.boot.phase = .broadcast → s.bringupHeld = false →
    let u := s.checkCores
    let missing := u.stageCores.filter fun c => !(u.core c).verified
    (missing ≠ [] → u.boot.round < 3 →
      exec .broadcastRoundEnd s = .next { u with boot := { u.boot with round := u.boot.round + 1 } }) ∧
    (missing = [] → u.boot.stage = 0 → exec .broadcastRoundEnd s = .next { u with boot := { u.boot with stage := 1, round := 0 } }) ∧
    (missing = [] → u.boot.stage ≠ 0 → ∃ t, exec .broadcastRoundEnd s = .next t ∧ t.boot.phase = .selftest)) ∧
  (∀ (s : State) (failed : List Nat), s.boot.phase = .selftest → s.bringupHeld = false →
    (∀ c, c < 12 → (s.func (.domain c)).turningOn = false) →
    let bad := (failed.foldl insertNat []).filter fun p => decide (p < 72) && !s.fuses.fused.contains p && !s.boot.record.contains p
    let u : State := { (bad.foldl (fun (t : State) p => t.log 0x6005 sevError agentHalfManagers none p) s) with
      boot := { s.boot with failed := bad } }
    4 ≤ (u.goodTiles 0).length → 4 ≤ (u.goodTiles 1).length →
    ∃ t, exec (.selftestComplete failed) s = .next t ∧ t.boot.phase = .qualify ∧ t.boot.binding = u.bindHalf 0 ++ u.bindHalf 1 ∧
      t.boot.spares = u.sparesOf 0 ++ u.sparesOf 1) ∧
  (∀ (s : State) (ms : Nat), s.boot.phase = .qualify → s.bringupHeld = false → s.linksSettled = true → (s.link 22).trained = true →
    (s.link 22).window = false → drawIdle * 1000 ≤ s.power.allowance →
    ∃ t, exec (.bringupComplete ms) s = .next t ∧ t.boot.phase = .ready ∧ t.boot.lastMs = ms ∧ t.power = s.power)

/-- Resets and power (R387 to R392, R418, R453 to R455). A watchdog expiry, RESET_N and a failed half-link retrain start a full reset: link training again, with the timestamp, the password, the module's record and the stored fuses kept and nothing bound.
A compute reset begins once A has come down, and ends Ready; PWR_EN deasserted cancels the work and lets A descend; the power-off completes with the
stages stopped, or with bring-up where PWR_EN came back; a trip latches its cause until it is re-armed. -/
def Obligations.ResetsAndPowerOff : Prop :=
  (∀ (s : State), s.boot.powered = true → s.updating = false →
    ∃ t, (exec .resetN s = .next t ∧ t.boot.phase = .training ∧ t.thermal.timestamp = s.thermal.timestamp ∧ t.dict.password = s.dict.password ∧
      t.boot.record = s.boot.record ∧ t.fuses = s.fuses ∧ t.tiles = [] ∧ t.boot.binding = [] ∧ t.pending = s.pending)) ∧
  (∀ (s : State), s.boot.powered = true →
    let u : State := { s with boot := { s.boot with lost := true } }
    exec .halfManagerWatchdog s = .next u.fullReset ∧ exec .resetN s = .next s.fullReset ∧
      (s.beforeReady = false → exec .halfLinkRetrainFailed s = .next u.fullReset)) ∧
  (∀ (s : State), s.boot.phase = .computeReset → s.boot.crPhase = 1 → s.power.allowance ≤ drawIdle * 1000 → s.bundleChange = false →
    s.thermal.modSt = .active → ∃ t, exec .computeResetBegin s = .next t ∧ t.boot.crPhase = 2 ∧ t.boot.phase = .computeReset) ∧
  (∀ (s : State) (failed : List Nat) (ms : Nat), s.boot.phase = .computeReset → s.boot.crPhase = 2 → s.thermal.modSt = .active →
    ∃ t, exec (.shortSelftestComplete failed ms) s = .next t ∧ t.boot.phase = .ready ∧ t.boot.crPhase = 0 ∧ t.boot.resetMs = ms) ∧
  (∀ (s : State), s.boot.powered = true → s.boot.pwrOff = false →
    ∃ t, exec .pwrEnDeassert s = .next t ∧ t.boot = { s.boot with pwrEn := false, pwrOff := true } ∧ t.power.descend = some drawDormant) ∧
  (∀ (s : State), s.offReadyNow = true → (s.boot.pwrEn = false → ∃ t, exec .powerOffComplete s = .next t ∧ t.boot.powered = false ∧ t.boot.pwrOff = false) ∧
    (s.boot.pwrEn = true → s.boot.tripLatched = false → ∃ t, exec .powerOffComplete s = .next t ∧ t.boot.powered = true ∧ t.boot.phase = .training)) ∧
  (∀ (s : State), s.boot.powered = false → s.boot.tripLatched = false → s.boot.pwrOff = false → 48000 ≤ s.power.mv → s.power.mv ≤ 59500 →
    ∃ t, exec .pwrEnAssert s = .next t ∧ t.boot.pwrEn = true ∧ t.boot.powered = true ∧ t.boot.phase = .training) ∧
  (∀ (s : State) (c : TripCause), s.boot.powered = true →
    ∃ t, exec (.inputTripped c) s = .next t ∧ t.boot.powered = false ∧ t.boot.tripLatched = true ∧ t.boot.tripCause = tripCode c) ∧
  (∀ (s : State), s.boot.pwrEn = false → exec .inputTripRearm s = .next { s with boot := { s.boot with tripLatched := false } })

/-! ### Interfaces, firmware and the board (ch. 16 to 18) -/

/-- The host link (R403, R404, R453): down closes the host session and drops the accesses that waited; up opens it with the width and rate;
HOST_PERST_N starts training; the holdoff's end sends vector 0. Second-tier links (R217, R405, R406): lost and back; each uncorrectable
expander event is counted and logged. Muslin (R420 to R423): OPEN takes the lowest free number or answers BUSY; CLOSE by the opener ends
the session; a REQUEST with the next SEQ is served, the last SEQ again gets the saved answer, another is dropped, and a discarded frame is
counted. A trigger is marked where a trace port is owned, and an invalid pulse of an owned pin is counted, and logged once a second at most (R452); a coolant check holds its
readings, and a condition that is new sets its bit (R459). -/
def Obligations.HostMuslinAndBoardEvents : Prop :=
  (∀ (s : State), s.iface.hostLink = 2 →
    ∃ t, exec .hostLinkDown s = .next t ∧ t.iface.hostLink = 0 ∧ t.iface.downSince = some s.now ∧ t.mem.hostWait = [] ∧ t.dict.hostOpen = false) ∧
  (∀ (s : State) (width rate ide : Nat), s.boot.powered = true → s.iface.hostLink ≠ 2 → (s.link 19).trained = true →
    ∃ t, exec (.hostLinkUp width rate ide) s = .next t ∧ t.iface.hostLink = 2 ∧ t.iface.hostWidth = width ∧ t.iface.hostRate = rate ∧
      t.iface.hostIde = ide ∧ t.iface.downSince = none ∧ t.dict.hostOpen = true) ∧
  (∀ (s : State), s.boot.powered = true → s.boot.phase ≠ .rom → ∃ t, exec .hostPerstN s = .next t ∧ t.iface.hostLink = 1) ∧
  (∀ (s : State), s.ledger.irqMore = true → s.iface.hostLink = 2 →
    ∃ t, exec .irqHoldoffExpiry s = .next t ∧ t.ledger.msix = s.ledger.msix ++ [0] ∧ t.ledger.irqMore = false ∧ SameBut [.ledger] s t) ∧
  (∀ (s : State) (port : Nat), port < 2 → NMap.has s.iface.t2width port = true →
    (s.iface.t2down.contains port = false → ∃ t, exec (.tier2LinkDown port) s = .next t ∧ t.iface.t2down = s.iface.t2down ++ [port]) ∧
    (s.iface.t2down.contains port = true → ∃ t, exec (.tier2LinkUp port) s = .next t ∧ port ∉ t.iface.t2down)) ∧
  (∀ (s : State) (port : Nat) (l : List Nat), port < 2 → s.portLinked port = true →
    exec (.expanderEventPoll port l) s = .next (l.foldl (fun (u : State) c =>
      (u.bump Obj.tier2ExpanderEvents 1).log 0x7102 sevError (0x47 + port) none (port + c % 2 ^ 32 * 2 ^ 32)) s)) ∧
  (∀ (s : State) (src : Udp), s.muslinOn = true →
    (s.dict.sessions.length < s.num Obj.muslinSessionMax →
      ∃ t n, exec (.muslinOpen src) s = .next t ∧ n = lowestFree (s.dict.sessions.map (·.1)) 0x10 ∧
        NMap.look t.dict.sessions n = some { src := src, lastSeq := none, saved := none } ∧
        t.iface.muslinTx = s.iface.muslinTx ++ [{ type := 2, session := n, status := dOk, dst := src }]) ∧
    (s.num Obj.muslinSessionMax ≤ s.dict.sessions.length → exec (.muslinOpen src) s = .next (s.muslinSend 2 0 dBusy src)) ∧
    exec .muslinFrameDiscard s = .next (s.bump Obj.muslinFramesBad 1)) ∧
  (∀ (s : State) (src : Udp) (n : Nat) (m : MuslinSession), s.muslinOn = true → NMap.look s.dict.sessions n = some m → m.src = src →
    (∃ t, exec (.muslinClose src n) s = .next t ∧ NMap.look t.dict.sessions n = none) ∧
    ∀ (w : W64) (data : Bytes) (seq : Nat), muslinWordOk w data = true →
      ((m.lastSeq = none ∨ ∃ k, m.lastSeq = some k ∧ seq = (k + 1) % 65536) → exec (.request src n seq w data) s = .next (s.muslinServe n seq w data)) ∧
      (∀ r, m.lastSeq = some seq → m.saved = some r → exec (.request src n seq w data) s = .next ((s.bump Obj.muslinDuplicateTotal 1).respond r)) ∧
      (∀ k, m.lastSeq = some k → seq ≠ (k + 1) % 65536 → seq ≠ k → exec (.request src n seq w data) s = .next s)) ∧
  (∀ (s : State) (pin micros : Nat), s.boot.powered = true →
    (s.pinOwner pin = .debugTrigger →
      ∃ t, exec (.debugTrigger pin) s = .next t ∧ t.board.marks = (if s.dict.claims.trace = 0 then s.board.marks else s.board.marks + 1) ∧
        SameBut [.counters, .ledger, .integ, .board] s t) ∧
    (s.pinOwner pin ≠ .none → ∃ t, exec (.auxPulseInvalid pin micros) s = .next t ∧
      t.counter Obj.auxPulseInvalidTotal = (s.bump Obj.auxPulseInvalidTotal 1).counter Obj.auxPulseInvalidTotal ∧
      ((s.bump Obj.auxPulseInvalidTotal 1).limitOpen 0x90050000 ticksPerS = false → t = s.bump Obj.auxPulseInvalidTotal 1))) ∧
  (∀ (s : State) (inlet deltaP dew : Int) (a b c : Bool), s.boot.powered = true →
    ∃ t, exec (.coolantCheck inlet deltaP dew a b c) s = .next t ∧ t.board.inlet = inlet ∧ t.board.deltaP = deltaP ∧ t.board.dew = dew ∧
      SameBut [.counters, .ledger, .integ, .board] s t) ∧
  (∀ (s : State) (bit detail : Nat), natBit s.board.coolant bit = false →
    (s.coolantBit bit true true detail).board.coolant = s.board.coolant + 2 ^ bit)

/-- Peer ports (R408 to R417). A flit whose codeword fails is discarded, and the receiver asks for the flit it expects. The expected DATA flit
is accepted: RXSEQ advances and its messages stand in the receive buffer; a copy is dropped. An IDLE flit carries its acknowledgement; a NAK
replays from the flit it names; LANE_SWAP, LANE_SWAP_ACK, WIDTH and RETRAIN act on the port. REPLAY_TIMEOUT replays, PEER_RETRAIN_COMPLETE
ends a retrain, and LANE_FAILED asks for a swap to a free spare.

Remote access (R409, R413, R415). A WRITE whose sectors may be accessed is stored and acknowledged, and a READ is answered with the sectors read; a
refused sector gets an ERROR. READ_DATA, WRITE_ACK and ERROR end the outstanding request with their tag. A chunk goes to the collective it names. -/
def Obligations.PeerPortsAndRemoteAccess : Prop :=
  ((∀ (s : State) (p : Nat) (f : Bytes), s.peerLive p = true →
    ∀ c ∈ [Instr.dataFlit p f false, .idleFlit p f false, .nak p f false, .laneSwap p f false, .laneSwapAck p f false, .width p f false, .retrain p f false],
      exec c s = .next (s.discardFlit p)) ∧
  (∀ (s : State) (p h : Nat) (f : Bytes), s.takesFlit p f 1 0 h = true →
    (h / 2 ^ 48 % 4096 = (s.peer p).rxSeq →
      ∃ t, exec (.dataFlit p f true) s = .next t ∧ (t.peer p).rxSeq = (((s.takeAck p h).peer p).rxSeq + 1) % 4096 ∧ (t.peer p).nakSent = false ∧
        (t.peer p).rx = ((s.takeAck p h).peer p).rx ++ markLast (parseMsgs (h / 2 ^ 33 % 4) 15 ((f.drop 8).take 240)).1) ∧
    (h / 2 ^ 48 % 4096 ≠ (s.peer p).rxSeq → behind (h / 2 ^ 48 % 4096) (s.peer p).rxSeq < 2048 →
      exec (.dataFlit p f true) s = .next (s.takeAck p h))) ∧
  (∀ (s : State) (p h : Nat) (f : Bytes), s.takesFlit p f 0 0 h = true → exec (.idleFlit p f true) s = .next (s.takeAck p h)) ∧
  (∀ (s : State) (p h : Nat) (f : Bytes), s.takesFlit p f 2 0 h = true →
    let u := s.takeAck p h
    (u.peer p).replay.any (fun e => e.1 == h % 4096 || decide (2048 ≤ behind e.1 (h % 4096))) = true →
    (u.peer p).replay.any (fun e => !(e.1 == h % 4096 || decide (2048 ≤ behind e.1 (h % 4096)))) = true →
    ∃ t, exec (.nak p f true) s = .next t ∧ (t.peer p).replays = 1 ∧
      (t.peer p).replay = (u.peer p).replay.filter fun e => e.1 == h % 4096 || decide (2048 ≤ behind e.1 (h % 4096))) ∧
  (∀ (s : State) (p h : Nat) (f : Bytes), s.takesFlit p f 2 1 h = true →
    let u := (s.takeAck p h).sendCtl p 2 0
    (u.peer p).swap = none → exec (.laneSwap p f true) s = .next (u.steered p (h % 8) (h / 8 % 4))) ∧
  (∀ (s : State) (p h : Nat) (f : Bytes), s.takesFlit p f 2 2 h = true →
    exec (.laneSwapAck p f true) s = .next (match ((s.takeAck p h).peer p).swap with
      | some (lane, k) => (s.takeAck p h).steered p lane k
      | none => s.takeAck p h)) ∧
  (∀ (s : State) (p h : Nat) (f : Bytes), s.takesFlit p f 2 3 h = true →
    ∃ t, exec (.width p f true) s = .next t ∧ (t.peer p).lanes = 2 ∧ (t.peer p).pair = h % 2) ∧
  (∀ (s : State) (p h : Nat) (f : Bytes), s.takesFlit p f 2 4 h = true →
    let u := s.takeAck p h
    ((u.peer p).retrains.filter fun t => !u.passed t ticksPerS).length < 3 →
    ∃ t, exec (.retrain p f true) s = .next t ∧ (t.peer p).training = true) ∧
  (∀ (s : State) (p : Nat), s.peerLive p = true → (s.peer p).replay ≠ [] → (s.peer p).replays < 16 →
    ∃ t, exec (.replayTimeout p) s = .next t ∧ (t.peer p).replays = (s.peer p).replays + 1 ∧ (t.peer p).replay = (s.peer p).replay) ∧
  (∀ (s : State) (p : Nat), (s.peer p).training = true → (s.peer p).swapQ = [] →
    ∃ t, exec (.peerRetrainComplete p) s = .next t ∧ (t.peer p).training = false) ∧
  (∀ (s : State) (p lane k : Nat) (l : List Nat), s.peerLive p = true → lane < 4 → (s.peer p).failedL.contains lane = false → (s.peer p).swapQ = [] →
    (s.peer p).swap = none → s.freeSpares p = k :: l →
    ∃ t, exec (.laneFailed p lane) s = .next t ∧ (t.peer p).swap = some (lane, k) ∧ (t.peer p).ctl = (s.peer p).ctl ++ [(1, lane + 8 * k)])) ∧
  ((∀ (s t : State) (p : Nat) (m : PMsg), s.headMsg p 0 = some m → s.peerServed p = true → m.mtype = 0 →
    s.peerBad (m.addr / 32 * 32) m.len true = none → s.haltOn 2 = false → State.peerStore p (m.addr / 32 * 32) m.data s = (t, true) →
    exec (.write p) s = .next (((t.popMsg p 0).answer p m 3 m.addr [blankSector]).retry)) ∧
  (∀ (s : State) (p : Nat) (m : PMsg), s.headMsg p 0 = some m → s.peerServed p = true → m.mtype = 0 →
    s.peerBad (m.addr / 32 * 32) m.len true = none → (s.haltOn 2 = false ∨ ∀ v ∈ m.data, v.mark = none) →
    (∀ k, k < m.data.length → s.writable (m.addr / 32 + k) (mPeer (p / 9)) = true) →
    ∃ u : State, exec (.write p) s = .next (((u.popMsg p 0).answer p m 3 m.addr [blankSector]).retry) ∧
      ∀ k, k < m.data.length → ∃ x, u.feltSector (m.addr / 32 + k) = some x ∧ x.dirty = true ∧ m.data[k]? = some x.val) ∧
  (∀ (s t : State) (p : Nat) (m : PMsg) (l : List SectorVal), s.headMsg p 0 = some m → s.peerServed p = true → m.mtype = 1 →
    s.peerBad (m.addr / 32 * 32) m.len false = none → State.peerLoad p m.len (m.addr / 32 * 32) s = (t, some l) → t.haltOn 2 = false →
    exec (.read p) s = .next ((t.popMsg p 0).answer p m 2 m.addr l)) ∧
  (∀ (s : State) (p : Nat) (m : PMsg), s.headMsg p 0 = some m → s.peerServed p = true → m.mtype = 1 →
    s.peerBad (m.addr / 32 * 32) m.len false = none → (∀ k, k < m.len → s.holds (m.addr / 32 + k) (mPeer (p / 9)) = true) →
    ∃ (u : State) (l : List SectorVal), exec (.read p) s = .next ((u.popMsg p 0).answer p m 2 m.addr l) ∧
      l.map some = (List.range m.len).map fun k => (s.feltSector (m.addr / 32 + k)).map (·.val)) ∧
  (∀ (s : State) (p a : Nat) (m : PMsg) (k : Option Nat), s.headMsg p 0 = some m → s.peerServed p = true → m.mtype ≤ 1 →
    s.peerBad (m.addr / 32 * 32) m.len (m.mtype == 0) = some (a, k) →
    exec (if m.mtype = 0 then .write p else .read p) s = .next (s.refuseMsg p m a k)) ∧
  (∀ (s : State) (p : Nat) (m : PMsg), s.headMsg p 1 = some m →
    (m.mtype = 2 → ∃ t, exec (.readData p) s = .next t ∧ (t.peer p).rx = dropFirst (fun y => y.vc == 1) (s.peer p).rx ∧
      (t.peer p).outst = adjFirst (fun r => r.tag == m.tag && r.isRead && r.answer.isNone) (fun r => { r with answer := some m.data }) (s.peer p).outst) ∧
    (m.mtype = 3 → ∃ t, exec (.writeAck p) s = .next t ∧ (t.peer p).rx = dropFirst (fun y => y.vc == 1) (s.peer p).rx ∧
      (t.peer p).outst = dropFirst (fun r => r.tag == m.tag && !r.isRead && !r.failed) (s.peer p).outst) ∧
    (m.mtype = 5 → ∃ t, exec (.error p) s = .next t ∧ (t.peer p).rx = dropFirst (fun y => y.vc == 1) (s.peer p).rx ∧
      (t.peer p).outst = adjFirst (fun r => r.tag == m.tag && !r.failed) (fun r => { r with failed := true }) (s.peer p).outst)) ∧
  (∀ (s : State) (p : Nat) (m : PMsg) (e : Entry) (c : Channel), s.headMsg p 2 = some m → s.peerServed p = true → m.mtype = 4 →
    s.collFor m = some (e, c) →
    let d : Channel := { c with got :=
      (m.data.zip (List.range m.data.length)).foldl (fun g x => NMap.put g (gotKey m.step (m.addr / 32 + x.2)) x.1) c.got }
    exec (.collData p) s = .next (((s.popMsg p 2).adjEntry e.seq (fun e => { e with chan := some d })).runColl e.seq d)))

/-- Updates (R432 to R438). UPDATE_BEGIN erases the inactive slot unless a condition of R432 refuses it, and records which; data of 4,096 bytes
advance `UpdateOffset`; verification leaves VERIFIED, or IDLE with the reason; UPDATE_COMMIT marks the slot as the next to boot and
UPDATE_COMMIT_RESET restarts bring-up as well; UPDATE_ABORT ends in IDLE with ABORTED; UPDATE_CONFIRM confirms every trial image whose slot boots; a
trial that times out under HOST starts a full reset. -/
def Obligations.UpdatesGoThroughTheirStates : Prop :=
  (∀ (s : State) (sid k : Nat), s.mayWrite sid Obj.updateBegin = true → k < 4 →
    (s.updateRefused k = none → s.fw.upd = .idle →
      ∃ t, exec (.updateBegin sid k) s = .next t ∧ t.fw.upd = .erasing ∧ t.fw.comp = k ∧ t.fw.offset = 0 ∧ t.fw.busy = false ∧ t.answered sid dOk 0 ∧
        ∀ c, s.comp k = some c → ∃ d, t.comp k = some d ∧ d.inactive = Slot.blank ∧ d.running = c.running) ∧
    (∀ r, s.updateRefused k = some r →
      ∃ t, exec (.updateBegin sid k) s = .next t ∧ t.fw = { s.fw with refusal := r.2 } ∧ t.answered sid r.1 0)) ∧
  (∀ (s : State), s.fw.upd = .erasing → exec .updateEraseComplete s = .next { s with fw := { s.fw with upd := .writing } }) ∧
  (∀ (s : State), exec .updateProgramComplete s = .next { s with fw := { s.fw with busy := false } }) ∧
  (∀ (s : State) (sid : Nat) (data : Bytes), s.mayWrite sid Obj.updateData = true → data.length = 4096 → s.fw.upd = .writing → s.fw.busy = false →
    s.fw.offset + 4096 ≤ slotBytes →
    ∃ t, exec (.updateData sid data) s = .next t ∧ t.fw.offset = s.fw.offset + 4096 ∧ t.fw.busy = true ∧ t.answered sid dOk 0) ∧
  (∀ (s : State) (sid : Nat), s.mayWrite sid Obj.updateVerify = true → s.updateRefused s.fw.comp = none → s.fw.upd = .writing → s.fw.busy = false →
    ∃ t, exec (.updateVerify sid) s = .next t ∧ t.fw = { s.fw with upd := .verifying } ∧ t.answered sid dOk 0) ∧
  (∀ (s : State), s.fw.upd = .verifying → ∃ t, exec .updateVerifyComplete s = .next t ∧ t.fw.result = s.checkUpdate ∧
    t.fw.upd = (if s.checkUpdate = urOk then .verified else .idle)) ∧
  (∀ (s : State) (sid : Nat) (c : Comp), s.mayWrite sid Obj.updateCommit = true → s.updateRefused s.fw.comp = none → s.fw.upd = .verified →
    s.comp s.fw.comp = some c →
    (∃ t, exec (.updateCommit sid) s = .next t ∧ t.fw.upd = .idle ∧ t.comp s.fw.comp = some { c with status := .pending } ∧ t.answered sid dOk 0) ∧
    (s.boot.powered = true → ∃ t, exec (.updateCommitReset sid) s = .next t ∧ t.boot.phase = .training ∧ t.tiles = [])) ∧
  (∀ (s : State) (sid : Nat), s.mayWrite sid Obj.updateAbort = true → s.fw.upd ≠ .idle →
    ∃ t, exec (.updateAbort sid) s = .next t ∧ t.fw.upd = .idle ∧ t.fw.result = urAborted ∧ t.answered sid dOk 0) ∧
  (∀ (s : State) (sid : Nat), s.mayWrite sid Obj.updateConfirm = true → s.boot.phase = .ready →
    ∃ t, exec (.updateConfirm sid) s = .next t ∧ t.answered sid dOk 0 ∧
      ∀ k c, k < 4 → s.comp k = some c → c.status = .trial → s.slotBoots c c.running = true →
        t.comp k = some { c with status := .confirmed, svnFloor := c.running.svn }) ∧
  (∀ (s : State), s.boot.phase = .ready → s.num Obj.updateConfirmMode = 1 → (∃ c ∈ s.fw.comps, c.status = .trial) →
    exec .updateTrialTimeout s = .next (s.fullResetWith true))

/-- SPDM (R441 to R443) on an open path. GET_VERSION starts the connection anew; capabilities and algorithms follow in order; digests,
certificates, challenges and measurements are answered from the provisioned slot 0 with the device's signature; chunks are taken and given;
sessions are for the host path only, and FINISH keys one whose MAC agrees. The message codes are DMTF's (notes/assumptions/14.md). -/
def Obligations.AttestationAnswers : Prop :=
  (∀ (s : State) (p : SpdmPath), s.spdmOpen p = true →
    (∃ t, exec (.getVersion p) s = .next t ∧ (t.spdm p).phase = 1 ∧ (t.spdm p).resp = 0x04 ∧ (t.spdm p).body = natLE 1 0x13 ∧ SameBut [.iface] s t) ∧
    (1 ≤ (s.spdm p).phase → ∃ t, exec (.getCapabilities p) s = .next t ∧ (t.spdm p).phase = 2 ∧ (t.spdm p).resp = 0x61 ∧
      (t.spdm p).body = natLE 4 (spdmFlags p) ∧ SameBut [.iface] s t) ∧
    (∀ asym hash dhe aead, 2 ≤ (s.spdm p).phase → natBit asym 8 = true → natBit hash 2 = true →
      ∃ t, exec (.negotiateAlgorithms p asym hash dhe aead) s = .next t ∧ (t.spdm p).phase = 3 ∧ (t.spdm p).resp = 0x63 ∧ SameBut [.iface] s t) ∧
    ((s.spdm p).phase < 3 → ∃ t, exec (.getDigests p) s = .next t ∧ (t.spdm p).resp = 0x7F ∧ (t.spdm p).body = natLE 1 spdmUnexpected)) ∧
  (∀ (s : State) (p : SpdmPath), s.spdmOpen p = true → 3 ≤ (s.spdm p).phase →
    (∃ t, exec (.getDigests p) s = .next t ∧ t.spdm p = (s.spdm p).respond 0x01 (natLE 1 1 ++ sha512 (Config.certChain 0)) (natLE 1 0x81) ∧
      SameBut [.iface] s t) ∧
    (∀ (o n : Nat) (part : Bytes), o ≤ (Config.certChain 0).length → ((Config.certChain 0).drop o).take n = part →
      ∃ t, exec (.getCertificate p 0 o n) s = .next t ∧ SameBut [.iface] s t ∧ t.spdm p = (s.spdm p).respond 0x02
        (natLE 2 part.length ++ natLE 2 ((Config.certChain 0).length - o - part.length) ++ part) (natLE 1 0x82)) ∧
    (∀ nonce body : Bytes, sha512 (Config.certChain 0) ++ natLE 32 (Config.nonce s.dict.freeCount).toNat = body →
      ∃ t, exec (.challenge p 0 nonce) s = .next t ∧ SameBut [.draws, .iface] s t ∧ t.spdm p = (s.spdm p).respond 0x03
        (body ++ Config.deviceSign ((s.spdm p).log ++ natLE 1 0x83 ++ nonce ++ body)) (natLE 1 0x83 ++ nonce)) ∧
    (∀ (k : Nat) (nonce body : Bytes), 1 ≤ k → k ≤ 8 → s.measureBlock k ++ natLE 32 (Config.nonce s.dict.freeCount).toNat = body →
      ∃ t, exec (.getMeasurements p k nonce) s = .next t ∧ SameBut [.draws, .iface] s t ∧ t.spdm p = (s.spdm p).respond 0x60
        (body ++ Config.deviceSign ((s.spdm p).log ++ natLE 1 0xE0 ++ natLE 1 k ++ nonce ++ body)) (natLE 1 0xE0 ++ natLE 1 k ++ nonce)) ∧
    (∀ (h : Nat) (last : Bool) (data : Bytes), data.length ≤ 1024 → (last = true ∨ data.length = 1024) →
      ∃ t, exec (.chunkSend p h 0 last data) s = .next t ∧ NMap.look (t.spdm p).chunks h = some data ∧ (t.spdm p).resp = 0x05 ∧ SameBut [.iface] s t) ∧
    (∀ (h n : Nat) (b : Bytes), NMap.look (s.spdm p).large h = some b → 1024 * n < b.length →
      ∃ t, exec (.chunkGet p h n) s = .next t ∧ (t.spdm p).resp = 0x06 ∧ (t.spdm p).body = natLE 1 (bit01 (decide (b.length ≤ 1024 * (n + 1)))) ++
        natLE 1 h ++ natLE 4 n ++ (b.drop (1024 * n)).take 1024 ∧ SameBut [.iface] s t)) ∧
  (∀ (s : State), s.spdmOpen .host = true → 3 ≤ (s.spdm .host).phase →
    (∀ x : Bytes, ∃ t, exec (.keyEx .host x) s = .next t ∧ (t.spdm .host).session = true ∧ (t.spdm .host).keyed = false) ∧
    ((s.spdm .host).session = true → (s.spdm .host).keyed = false →
      (∃ t, exec (.finish .host (Config.sessionMac (s.spdm .host).log)) s = .next t ∧ (t.spdm .host).keyed = true ∧ (t.spdm .host).resp = 0x65) ∧
      ∀ mac, mac ≠ Config.sessionMac (s.spdm .host).log → ∃ t, exec (.finish .host mac) s = .next t ∧ (t.spdm .host).session = false) ∧
    ((s.spdm .host).session = true → ∃ t, exec (.endSession .host) s = .next t ∧ (t.spdm .host).session = false ∧ (t.spdm .host).resp = 0x6C)) ∧
  (∀ (s : State) (x : Bytes), s.spdmOpen .muslin = true →
    ∀ c ∈ [Instr.keyEx .muslin x, .finish .muslin x, .endSession .muslin],
      ∃ t, exec c s = .next t ∧ (t.spdm .muslin).resp = 0x7F ∧ (t.spdm .muslin).body = natLE 1 spdmUnsupported)
end

