-- ==== Sys2Proof/Laws/Frame.lean ====
section
/-! SUPPORT. Frames: what an operation leaves unchanged, by the parts of the state (`SameBut`), and the sets of parts that
operations change. -/

set_option Elab.async false
set_option linter.all false

namespace Sys2Proof.Laws

open Sys2Proof Sys2Proof.Machine

/-- Is every part of the first list in the second? -/
def subL (a b : List Facet) : Bool := a.all fun p => b.contains p

theorem subL_trans {a b c : List Facet} (h : subL a b = true) (k : subL b c = true) : subL a c = true := by
  simp only [subL, List.all_eq_true, List.contains_iff_mem] at *
  exact fun p hp => k p (h p hp)

theorem subL_mem {a b : List Facet} (h : subL a b = true) {p : Facet} (hp : p ∉ b) : p ∉ a := by
  simp only [subL, List.all_eq_true, List.contains_iff_mem] at h
  exact fun q => hp (h p q)

theorem subL_refl (a : List Facet) : subL a a = true := by
  simp [subL, List.all_eq_true]

theorem facet_refl (p : Facet) (s : State) : p.same s s := by cases p <;> exact rfl

theorem facet_trans (p : Facet) {s t u : State} (h : p.same s t) (k : p.same t u) : p.same s u := by
  cases p <;> exact Eq.trans k h

theorem SameBut.refl (l : List Facet) (s : State) : SameBut l s s := fun p _ => facet_refl p s

theorem SameBut.trans {l : List Facet} {s t u : State} (h : SameBut l s t) (k : SameBut l t u) : SameBut l s u :=
  fun p hp => facet_trans p (h p hp) (k p hp)

theorem SameBut.mono {a b : List Facet} {s t : State} (hl : subL a b = true) (h : SameBut a s t) : SameBut b s t :=
  fun p hp => h p (subL_mem hl hp)

/-- Every facet is listed or the same. -/
def Covers (T : List Facet) (s t : State) : Prop :=
  (T.contains .queue = true ∨ Facet.same .queue s t) ∧
  (T.contains .settings = true ∨ Facet.same .settings s t) ∧
  (T.contains .counters = true ∨ Facet.same .counters s t) ∧
  (T.contains .window = true ∨ Facet.same .window s t) ∧
  (T.contains .sessions = true ∨ Facet.same .sessions s t) ∧
  (T.contains .lease = true ∨ Facet.same .lease s t) ∧
  (T.contains .lock = true ∨ Facet.same .lock s t) ∧
  (T.contains .password = true ∨ Facet.same .password s t) ∧
  (T.contains .staging = true ∨ Facet.same .staging s t) ∧
  (T.contains .commits = true ∨ Facet.same .commits s t) ∧
  (T.contains .blobs = true ∨ Facet.same .blobs s t) ∧
  (T.contains .draws = true ∨ Facet.same .draws s t) ∧
  (T.contains .tiles = true ∨ Facet.same .tiles s t) ∧
  (T.contains .felt = true ∨ Facet.same .felt s t) ∧
  (T.contains .hbm = true ∨ Facet.same .hbm s t) ∧
  (T.contains .tier = true ∨ Facet.same .tier s t) ∧
  (T.contains .host = true ∨ Facet.same .host s t) ∧
  (T.contains .tables = true ∨ Facet.same .tables s t) ∧
  (T.contains .bw = true ∨ Facet.same .bw s t) ∧
  (T.contains .ledger = true ∨ Facet.same .ledger s t) ∧
  (T.contains .det = true ∨ Facet.same .det s t) ∧
  (T.contains .integ = true ∨ Facet.same .integ s t) ∧
  (T.contains .funcs = true ∨ Facet.same .funcs s t) ∧
  (T.contains .power = true ∨ Facet.same .power s t) ∧
  (T.contains .thermal = true ∨ Facet.same .thermal s t) ∧
  (T.contains .boot = true ∨ Facet.same .boot s t) ∧
  (T.contains .fuses = true ∨ Facet.same .fuses s t) ∧
  (T.contains .iface = true ∨ Facet.same .iface s t) ∧
  (T.contains .images = true ∨ Facet.same .images s t) ∧
  (T.contains .update = true ∨ Facet.same .update s t) ∧
  (T.contains .board = true ∨ Facet.same .board s t)

theorem Covers.same {T : List Facet} {s t : State} (h : Covers T s t) : SameBut T s t := by
  intro p hp
  have hp' : ¬ T.contains p = true := by simpa using hp
  unfold Covers at h
  obtain ⟨h0, h1, h2, h3, h4, h5, h6, h7, h8, h9, h10, h11, h12, h13, h14, h15, h16, h17, h18, h19, h20, h21, h22, h23, h24, h25, h26, h27, h28, h29, h30⟩ := h
  cases p
  · exact h0.resolve_left hp'
  · exact h1.resolve_left hp'
  · exact h2.resolve_left hp'
  · exact h3.resolve_left hp'
  · exact h4.resolve_left hp'
  · exact h5.resolve_left hp'
  · exact h6.resolve_left hp'
  · exact h7.resolve_left hp'
  · exact h8.resolve_left hp'
  · exact h9.resolve_left hp'
  · exact h10.resolve_left hp'
  · exact h11.resolve_left hp'
  · exact h12.resolve_left hp'
  · exact h13.resolve_left hp'
  · exact h14.resolve_left hp'
  · exact h15.resolve_left hp'
  · exact h16.resolve_left hp'
  · exact h17.resolve_left hp'
  · exact h18.resolve_left hp'
  · exact h19.resolve_left hp'
  · exact h20.resolve_left hp'
  · exact h21.resolve_left hp'
  · exact h22.resolve_left hp'
  · exact h23.resolve_left hp'
  · exact h24.resolve_left hp'
  · exact h25.resolve_left hp'
  · exact h26.resolve_left hp'
  · exact h27.resolve_left hp'
  · exact h28.resolve_left hp'
  · exact h29.resolve_left hp'
  · exact h30.resolve_left hp'

/-- `SameBut` for a state written out. -/
def FrameAt (l : List Facet) (s : State) (pending : List Instr) (dict : DictState) (tiles : NMap Tile) (felt : Felt) (mem : Mem)
    (bw : Bw) (ledger : Ledger) (det : Det) (integ : Integ) (funcs : NMap FState) (power : Power) (thermal : Thermal) (boot : Boot)
    (fuses : Fuses) (iface : Iface) (fw : Fw) (board : Board) : Prop :=
  SameBut l s (State.mk pending dict tiles felt mem bw ledger det integ funcs power thermal boot fuses iface fw board)

theorem frame_mk {l : List Facet} {s : State} {pending : List Instr} {dict : DictState} {tiles : NMap Tile} {felt : Felt}
    {mem : Mem} {bw : Bw} {ledger : Ledger} {det : Det} {integ : Integ} {funcs : NMap FState} {power : Power} {thermal : Thermal}
    {boot : Boot} {fuses : Fuses} {iface : Iface} {fw : Fw} {board : Board} :
    SameBut l s (State.mk pending dict tiles felt mem bw ledger det integ funcs power thermal boot fuses iface fw board) ↔
      FrameAt l s pending dict tiles felt mem bw ledger det integ funcs power thermal boot fuses iface fw board := Iff.rfl

/-- A state written out from `t`: what it takes over from `t` is unchanged. -/
theorem frame_lit {l : List Facet} {s₀ t : State} (T : List Facet) {dict : DictState} {tiles : NMap Tile} {felt : Felt} {mem : Mem}
    {bw : Bw} {ledger : Ledger} {det : Det} {integ : Integ} {funcs : NMap FState} {power : Power} {thermal : Thermal} {boot : Boot}
    {fuses : Fuses} {iface : Iface} {fw : Fw} {board : Board} (h : SameBut l s₀ t) (hl : subL T l = true)
    (hs : Covers T t (State.mk t.pending dict tiles felt mem bw ledger det integ funcs power thermal boot fuses iface fw board)) :
    FrameAt l s₀ t.pending dict tiles felt mem bw ledger det integ funcs power thermal boot fuses iface fw board :=
  SameBut.trans h (SameBut.mono hl hs.same)

/-- What an operation that answers a state and more leaves unchanged, the state it answered does. -/
theorem pair_same {α : Type} {l : List Facet} {s₀ s : State} {p : State × α} {r : α} (e : p = (s, r)) (h : SameBut l s₀ p.1) :
    SameBut l s₀ s := by
  rw [e] at h
  exact h

/-- The same where the state comes second. -/
theorem pair_same₂ {α : Type} {l : List Facet} {s₀ s : State} {p : α × State} {r : α} (e : p = (r, s)) (h : SameBut l s₀ p.2) :
    SameBut l s₀ s := by
  rw [e] at h
  exact h

/-- What an operation that may answer no state leaves unchanged. -/
def OptSame (l : List Facet) (s : State) (o : Option State) : Prop := ∀ t, o = some t → SameBut l s t

theorem OptSame.some {l : List Facet} {s t : State} (h : SameBut l s t) : OptSame l s (some t) := by
  intro u e
  cases e
  exact h

theorem OptSame.none {l : List Facet} {s : State} : OptSame l s none := fun _ e => nomatch e

theorem opt_same {l : List Facet} {s t : State} {o : Option State} (e : o = Option.some t) (h : OptSame l s o) : SameBut l s t :=
  h t e

theorem opt_getD_same {l : List Facet} {s d : State} {o : Option State} (h : OptSame l s o) (hd : SameBut l s d) :
    SameBut l s (o.getD d) := by
  cases o with
  | none => exact hd
  | some t => exact h t rfl

/-- What each round of a fold leaves unchanged, the fold does. -/
theorem foldl_same {α : Type} {l : List Facet} {s₀ s : State} (xs : List α) (f : State → α → State) (h : SameBut l s₀ s)
    (hf : ∀ t x, SameBut l s₀ t → SameBut l s₀ (f t x)) : SameBut l s₀ (xs.foldl f s) := by
  induction xs generalizing s with
  | nil => exact h
  | cons x xs ih => exact ih (hf s x h)

/-- The same for a fold that carries more than the state. -/
theorem foldl_same₂ {α β : Type} {l : List Facet} {s₀ : State} (xs : List α) (f : State × β → α → State × β) (p : State × β)
    (h : SameBut l s₀ p.1) (hf : ∀ t b x, SameBut l s₀ t → SameBut l s₀ (f (t, b) x).1) : SameBut l s₀ (xs.foldl f p).1 := by
  induction xs generalizing p with
  | nil => exact h
  | cons x xs ih => exact ih (f p x) (hf p.1 p.2 x h)

theorem SameBut.ite {l : List Facet} {s₀ a b : State} {p : Prop} [Decidable p] (ha : SameBut l s₀ a) (hb : SameBut l s₀ b) :
    SameBut l s₀ (if p then a else b) := by
  split <;> assumption

theorem SameBut.ite_fst {α : Type} {l : List Facet} {s₀ : State} {a b : State × α} {p : Prop} [Decidable p]
    (ha : SameBut l s₀ a.1) (hb : SameBut l s₀ b.1) : SameBut l s₀ (if p then a else b).1 := by
  split <;> assumption

/-! ### Sets of parts -/

abbrev ps0 : List Facet := []
abbrev ps1 : List Facet := [.blobs]
abbrev ps2 : List Facet := [.board]
abbrev ps3 : List Facet := [.boot]
abbrev ps4 : List Facet := [.bw]
abbrev ps5 : List Facet := [.commits]
abbrev ps6 : List Facet := [.counters]
abbrev ps7 : List Facet := [.det]
abbrev ps8 : List Facet := [.draws]
abbrev ps9 : List Facet := [.felt]
abbrev ps10 : List Facet := [.funcs]
abbrev ps11 : List Facet := [.host]
abbrev ps12 : List Facet := [.iface]
abbrev ps13 : List Facet := [.images]
abbrev ps14 : List Facet := [.integ]
abbrev ps15 : List Facet := [.lease]
abbrev ps16 : List Facet := [.ledger]
abbrev ps17 : List Facet := [.lock]
abbrev ps18 : List Facet := [.power]
abbrev ps19 : List Facet := [.sessions]
abbrev ps20 : List Facet := [.settings]
abbrev ps21 : List Facet := [.staging]
abbrev ps22 : List Facet := [.tables]
abbrev ps23 : List Facet := [.thermal]
abbrev ps24 : List Facet := [.tier]
abbrev ps25 : List Facet := [.tiles]
abbrev ps26 : List Facet := [.update]
abbrev ps27 : List Facet := [.window]
abbrev ps28 : List Facet := [.counters, .boot]
abbrev ps29 : List Facet := [.counters, .bw]
abbrev ps30 : List Facet := [.counters, .commits]
abbrev ps31 : List Facet := [.counters, .draws]
abbrev ps32 : List Facet := [.counters, .felt]
abbrev ps33 : List Facet := [.counters, .iface]
abbrev ps34 : List Facet := [.counters, .ledger]
abbrev ps35 : List Facet := [.counters, .power]
abbrev ps36 : List Facet := [.counters, .tables]
abbrev ps37 : List Facet := [.det, .boot]
abbrev ps38 : List Facet := [.draws, .iface]
abbrev ps39 : List Facet := [.draws, .integ]
abbrev ps40 : List Facet := [.felt, .det]
abbrev ps41 : List Facet := [.felt, .tables]
abbrev ps42 : List Facet := [.funcs, .power]
abbrev ps43 : List Facet := [.host, .ledger]
abbrev ps44 : List Facet := [.images, .update]
abbrev ps45 : List Facet := [.lease, .staging]
abbrev ps46 : List Facet := [.ledger, .boot]
abbrev ps47 : List Facet := [.ledger, .det]
abbrev ps48 : List Facet := [.lock, .draws]
abbrev ps49 : List Facet := [.power, .boot]
abbrev ps50 : List Facet := [.power, .thermal]
abbrev ps51 : List Facet := [.sessions, .iface]
abbrev ps52 : List Facet := [.settings, .commits]
abbrev ps53 : List Facet := [.staging, .commits]
abbrev ps54 : List Facet := [.tables, .boot]
abbrev ps55 : List Facet := [.tables, .iface]
abbrev ps56 : List Facet := [.tables, .ledger]
abbrev ps57 : List Facet := [.tiles, .boot]
abbrev ps58 : List Facet := [.tiles, .felt]
abbrev ps59 : List Facet := [.tiles, .ledger]
abbrev ps60 : List Facet := [.tiles, .thermal]
abbrev ps61 : List Facet := [.window, .sessions]
abbrev ps62 : List Facet := [.counters, .host, .ledger]
abbrev ps63 : List Facet := [.counters, .ledger, .integ]
abbrev ps64 : List Facet := [.counters, .tiles, .ledger]
abbrev ps65 : List Facet := [.det, .power, .thermal]
abbrev ps66 : List Facet := [.felt, .hbm, .boot]
abbrev ps67 : List Facet := [.felt, .power, .thermal]
abbrev ps68 : List Facet := [.felt, .tables, .ledger]
abbrev ps69 : List Facet := [.funcs, .power, .thermal]
abbrev ps70 : List Facet := [.hbm, .tables, .thermal]
abbrev ps71 : List Facet := [.hbm, .tier, .tables]
abbrev ps72 : List Facet := [.ledger, .det, .boot]
abbrev ps73 : List Facet := [.ledger, .power, .boot]
abbrev ps74 : List Facet := [.lock, .thermal, .boot]
abbrev ps75 : List Facet := [.password, .integ, .boot]
abbrev ps76 : List Facet := [.power, .boot, .iface]
abbrev ps77 : List Facet := [.power, .thermal, .board]
abbrev ps78 : List Facet := [.sessions, .bw, .iface]
abbrev ps79 : List Facet := [.tables, .boot, .iface]
abbrev ps80 : List Facet := [.tiles, .felt, .ledger]
abbrev ps81 : List Facet := [.tiles, .funcs, .power]
abbrev ps82 : List Facet := [.tiles, .ledger, .thermal]
abbrev ps83 : List Facet := [.counters, .bw, .ledger, .integ]
abbrev ps84 : List Facet := [.counters, .commits, .ledger, .integ]
abbrev ps85 : List Facet := [.counters, .draws, .ledger, .integ]
abbrev ps86 : List Facet := [.counters, .draws, .tables, .bw]
abbrev ps87 : List Facet := [.counters, .felt, .ledger, .integ]
abbrev ps88 : List Facet := [.counters, .host, .ledger, .integ]
abbrev ps89 : List Facet := [.counters, .ledger, .det, .integ]
abbrev ps90 : List Facet := [.counters, .ledger, .integ, .board]
abbrev ps91 : List Facet := [.counters, .ledger, .integ, .boot]
abbrev ps92 : List Facet := [.counters, .ledger, .integ, .funcs]
abbrev ps93 : List Facet := [.counters, .ledger, .integ, .iface]
abbrev ps94 : List Facet := [.counters, .ledger, .integ, .power]
abbrev ps95 : List Facet := [.counters, .ledger, .integ, .thermal]
abbrev ps96 : List Facet := [.counters, .lock, .ledger, .integ]
abbrev ps97 : List Facet := [.counters, .tables, .ledger, .integ]
abbrev ps98 : List Facet := [.counters, .tiles, .bw, .ledger]
abbrev ps99 : List Facet := [.counters, .tiles, .felt, .ledger]
abbrev ps100 : List Facet := [.counters, .tiles, .ledger, .integ]
abbrev ps101 : List Facet := [.tables, .power, .boot, .iface]
abbrev ps102 : List Facet := [.tiles, .felt, .ledger, .thermal]
abbrev ps103 : List Facet := [.tiles, .ledger, .funcs, .power]
abbrev ps104 : List Facet := [.counters, .blobs, .ledger, .integ, .images]
abbrev ps105 : List Facet := [.counters, .draws, .felt, .tables, .bw]
abbrev ps106 : List Facet := [.counters, .draws, .ledger, .integ, .iface]
abbrev ps107 : List Facet := [.counters, .hbm, .tier, .tables, .bw]
abbrev ps108 : List Facet := [.counters, .ledger, .integ, .funcs, .power]
abbrev ps109 : List Facet := [.counters, .ledger, .integ, .images, .update]
abbrev ps110 : List Facet := [.counters, .tiles, .bw, .ledger, .thermal]
abbrev ps111 : List Facet := [.counters, .tiles, .felt, .ledger, .integ]
abbrev ps112 : List Facet := [.counters, .tiles, .ledger, .integ, .boot]
abbrev ps113 : List Facet := [.counters, .tiles, .ledger, .integ, .thermal]
abbrev ps114 : List Facet := [.felt, .integ, .power, .thermal, .boot]
abbrev ps115 : List Facet := [.settings, .password, .draws, .integ, .boot]
abbrev ps116 : List Facet := [.tiles, .felt, .det, .thermal, .boot]
abbrev ps117 : List Facet := [.counters, .blobs, .ledger, .integ, .images, .update]
abbrev ps118 : List Facet := [.counters, .draws, .felt, .bw, .ledger, .integ]
abbrev ps119 : List Facet := [.counters, .draws, .tiles, .felt, .ledger, .integ]
abbrev ps120 : List Facet := [.counters, .felt, .hbm, .tier, .tables, .bw]
abbrev ps121 : List Facet := [.counters, .ledger, .integ, .power, .images, .update]
abbrev ps122 : List Facet := [.tiles, .felt, .ledger, .funcs, .power, .thermal]
abbrev ps123 : List Facet := [.counters, .draws, .felt, .hbm, .tier, .tables, .bw]
abbrev ps124 : List Facet := [.counters, .draws, .felt, .tables, .bw, .ledger, .integ]
abbrev ps125 : List Facet := [.counters, .draws, .ledger, .integ, .funcs, .boot, .iface]
abbrev ps126 : List Facet := [.counters, .hbm, .tier, .tables, .bw, .ledger, .integ]
abbrev ps127 : List Facet := [.counters, .tiles, .bw, .ledger, .funcs, .power, .thermal]
abbrev ps128 : List Facet := [.counters, .tiles, .felt, .ledger, .integ, .power, .boot]
abbrev ps129 : List Facet := [.staging, .commits, .tiles, .felt, .ledger, .power, .boot]
abbrev ps130 : List Facet := [.counters, .draws, .hbm, .tier, .tables, .bw, .ledger, .integ]
abbrev ps131 : List Facet := [.counters, .draws, .tiles, .felt, .hbm, .tier, .tables, .bw]
abbrev ps132 : List Facet := [.counters, .felt, .hbm, .tier, .tables, .bw, .ledger, .integ]
abbrev ps133 : List Facet := [.counters, .hbm, .tier, .tables, .bw, .ledger, .integ, .boot]
abbrev ps134 : List Facet := [.counters, .hbm, .tier, .tables, .bw, .ledger, .integ, .iface]
abbrev ps135 : List Facet := [.counters, .lease, .lock, .staging, .ledger, .integ, .images, .update]
abbrev ps136 : List Facet := [.counters, .staging, .commits, .tiles, .felt, .ledger, .power, .boot]
abbrev ps137 : List Facet := [.counters, .tables, .ledger, .integ, .funcs, .power, .boot, .iface]
abbrev ps138 : List Facet := [.counters, .tiles, .felt, .bw, .ledger, .funcs, .power, .thermal]
abbrev ps139 : List Facet := [.counters, .tiles, .felt, .ledger, .det, .integ, .thermal, .boot]
abbrev ps140 : List Facet := [.counters, .tiles, .felt, .ledger, .integ, .funcs, .power, .thermal]
abbrev ps141 : List Facet := [.counters, .draws, .felt, .hbm, .tier, .tables, .bw, .ledger, .integ]
abbrev ps142 : List Facet := [.counters, .draws, .tiles, .felt, .ledger, .det, .integ, .thermal, .boot]
abbrev ps143 : List Facet := [.counters, .hbm, .tier, .tables, .bw, .ledger, .integ, .funcs, .power]
abbrev ps144 : List Facet := [.counters, .lock, .blobs, .bw, .ledger, .integ, .thermal, .boot, .images]
abbrev ps145 : List Facet := [.counters, .sessions, .lease, .lock, .staging, .ledger, .integ, .images, .update]
abbrev ps146 : List Facet := [.counters, .staging, .commits, .tiles, .felt, .ledger, .integ, .power, .boot]
abbrev ps147 : List Facet := [.counters, .tiles, .felt, .hbm, .tier, .tables, .bw, .ledger, .integ]
abbrev ps148 : List Facet := [.counters, .tiles, .felt, .ledger, .det, .integ, .power, .thermal, .boot]
abbrev ps149 : List Facet := [.counters, .tiles, .felt, .ledger, .integ, .funcs, .power, .thermal, .boot]
abbrev ps150 : List Facet := [.counters, .draws, .felt, .hbm, .tier, .tables, .bw, .ledger, .integ, .boot]
abbrev ps151 : List Facet := [.counters, .draws, .felt, .hbm, .tier, .tables, .bw, .ledger, .integ, .iface]
abbrev ps152 : List Facet := [.counters, .draws, .tiles, .felt, .hbm, .tier, .tables, .bw, .ledger, .integ]
abbrev ps153 : List Facet := [.counters, .felt, .hbm, .tier, .tables, .bw, .ledger, .integ, .funcs, .power]
abbrev ps154 : List Facet := [.counters, .hbm, .tier, .tables, .bw, .ledger, .integ, .funcs, .power, .thermal]
abbrev ps155 : List Facet := [.counters, .staging, .commits, .tiles, .felt, .host, .ledger, .integ, .power, .boot]
abbrev ps156 : List Facet := [.counters, .window, .sessions, .lease, .lock, .staging, .ledger, .integ, .images, .update]
abbrev ps157 : List Facet := [.counters, .draws, .tiles, .felt, .hbm, .tier, .host, .tables, .bw, .ledger, .integ]
abbrev ps158 : List Facet := [.counters, .draws, .tiles, .felt, .hbm, .tier, .tables, .bw, .ledger, .integ, .boot]
abbrev ps159 : List Facet := [.counters, .draws, .tiles, .felt, .hbm, .tier, .tables, .bw, .ledger, .integ, .iface]
abbrev ps160 : List Facet := [.counters, .draws, .tiles, .felt, .hbm, .tier, .tables, .bw, .ledger, .integ, .thermal]
abbrev ps161 : List Facet := [.counters, .draws, .tiles, .felt, .ledger, .det, .integ, .funcs, .power, .thermal, .boot]
abbrev ps162 : List Facet := [.counters, .staging, .commits, .tiles, .felt, .hbm, .tables, .ledger, .power, .thermal, .boot]
abbrev ps163 : List Facet := [.settings, .counters, .blobs, .ledger, .integ, .funcs, .power, .boot, .iface, .images, .update]
abbrev ps164 : List Facet := [.settings, .counters, .commits, .hbm, .tier, .tables, .bw, .ledger, .integ, .funcs, .power]
abbrev ps165 : List Facet := [.counters, .draws, .tiles, .felt, .hbm, .tier, .tables, .bw, .ledger, .integ, .power, .thermal]
abbrev ps166 : List Facet := [.counters, .sessions, .draws, .tiles, .felt, .hbm, .tier, .tables, .bw, .ledger, .integ, .iface]
abbrev ps167 : List Facet := [.counters, .tiles, .felt, .tables, .ledger, .det, .integ, .funcs, .power, .thermal, .boot, .iface]
abbrev ps168 : List Facet := [.counters, .window, .sessions, .lease, .lock, .staging, .tables, .ledger, .integ, .iface, .images, .update]
abbrev ps169 : List Facet := [.counters, .draws, .tiles, .felt, .hbm, .tier, .tables, .bw, .ledger, .det, .integ, .thermal, .boot]
abbrev ps170 : List Facet := [.counters, .draws, .tiles, .felt, .hbm, .tier, .tables, .bw, .ledger, .integ, .funcs, .boot, .iface]
abbrev ps171 : List Facet := [.counters, .sessions, .draws, .tiles, .felt, .hbm, .tier, .host, .tables, .bw, .ledger, .integ, .iface]
abbrev ps172 : List Facet := [.counters, .sessions, .draws, .tiles, .felt, .hbm, .tier, .tables, .bw, .ledger, .integ, .boot, .iface]
abbrev ps173 : List Facet := [.counters, .draws, .tiles, .felt, .hbm, .tier, .tables, .bw, .ledger, .integ, .funcs, .power, .thermal, .iface]
abbrev ps174 : List Facet := [.counters, .draws, .tiles, .felt, .hbm, .tier, .tables, .bw, .ledger, .integ, .power, .thermal, .boot, .iface]
abbrev ps175 : List Facet := [.counters, .draws, .tiles, .felt, .hbm, .tier, .tables, .bw, .ledger, .integ, .funcs, .power, .thermal, .boot, .iface]
abbrev ps176 : List Facet := [.counters, .window, .sessions, .lease, .lock, .staging, .tables, .ledger, .integ, .funcs, .power, .boot, .iface, .images, .update]
abbrev ps177 : List Facet := [.counters, .draws, .tiles, .felt, .hbm, .tier, .tables, .bw, .ledger, .integ, .funcs, .power, .thermal, .boot, .iface, .board]
abbrev ps178 : List Facet := [.counters, .staging, .commits, .draws, .tiles, .felt, .hbm, .tier, .tables, .bw, .ledger, .integ, .funcs, .power, .thermal, .boot]
abbrev ps179 : List Facet := [.settings, .counters, .staging, .commits, .tiles, .felt, .hbm, .tier, .tables, .bw, .ledger, .det, .integ, .funcs, .power, .boot]
abbrev ps180 : List Facet := [.counters, .sessions, .lease, .lock, .staging, .draws, .tiles, .felt, .hbm, .tier, .tables, .bw, .ledger, .det, .integ, .funcs, .power, .thermal, .images, .update]
abbrev ps181 : List Facet := [.counters, .window, .sessions, .lease, .lock, .staging, .draws, .tiles, .felt, .hbm, .tier, .tables, .bw, .ledger, .integ, .funcs, .power, .thermal, .iface, .images, .update]
abbrev ps182 : List Facet := [.settings, .counters, .window, .sessions, .lease, .lock, .staging, .commits, .tiles, .felt, .hbm, .tables, .bw, .ledger, .det, .integ, .funcs, .power, .thermal, .boot, .iface, .update]
abbrev ps183 : List Facet := [.settings, .counters, .window, .sessions, .lease, .lock, .staging, .commits, .tiles, .felt, .hbm, .tables, .bw, .ledger, .det, .integ, .funcs, .power, .thermal, .boot, .iface, .images, .update]
abbrev ps184 : List Facet := [.settings, .counters, .sessions, .lease, .lock, .password, .staging, .commits, .draws, .tiles, .felt, .hbm, .tier, .tables, .bw, .ledger, .det, .integ, .funcs, .power, .thermal, .boot, .images, .update]
abbrev ps185 : List Facet := [.settings, .counters, .window, .sessions, .lease, .lock, .staging, .commits, .blobs, .tiles, .felt, .hbm, .tables, .bw, .ledger, .det, .integ, .funcs, .power, .thermal, .boot, .iface, .images, .update]
abbrev ps186 : List Facet := [.settings, .counters, .window, .sessions, .lease, .lock, .staging, .commits, .draws, .tiles, .felt, .hbm, .tables, .bw, .ledger, .det, .integ, .funcs, .power, .thermal, .boot, .iface, .images, .update]
abbrev ps187 : List Facet := [.settings, .counters, .sessions, .lease, .lock, .password, .staging, .commits, .blobs, .draws, .tiles, .felt, .hbm, .tier, .tables, .bw, .ledger, .det, .integ, .funcs, .power, .thermal, .boot, .images, .update]
abbrev ps188 : List Facet := [.settings, .counters, .window, .sessions, .lease, .lock, .staging, .commits, .blobs, .tiles, .felt, .hbm, .tier, .tables, .bw, .ledger, .det, .integ, .funcs, .power, .thermal, .boot, .iface, .images, .update]
abbrev ps189 : List Facet := [.settings, .counters, .window, .sessions, .lease, .lock, .password, .staging, .commits, .blobs, .draws, .tiles, .felt, .hbm, .tier, .tables, .bw, .ledger, .det, .integ, .funcs, .power, .thermal, .boot, .iface, .images, .update]

end Sys2Proof.Laws
end

