-- ==== Sys2Proof/Laws/FrameOps.lean ====
section
/-! SUPPORT. What the operations of Machine/Ops.lean leave unchanged (`SameBut`): one lemma for each. -/

set_option Elab.async false
set_option linter.all false

namespace Sys2Proof.Laws

open Sys2Proof Sys2Proof.Machine

theorem State_setValue_same {fl : List Facet} {s₀ : State} (hl : subL ps20 fl = true) (a0 : State) (a1 : Nat) (a2 : Bytes) (h0 : SameBut fl s₀ a0) :
    SameBut fl s₀ (State.setValue a0 a1 a2) := by
  have kd : subL ps20 fl = true := subL_trans rfl hl
  unfold State.setValue
  repeat' first
    | with_reducible assumption
    | (extract_lets +onlyGivenNames v; first | (have w : Mem := v; clear w) | (have w : DictState := v; clear w) | (have w : Fw := v; clear w) | clear_value v)
    | ((simp -zeta only [frame_mk]; with_reducible refine frame_lit ps20 ?_ kd ?_); on_goal 2 => exact ⟨.inr rfl, .inl rfl, .inr rfl, .inr rfl, .inr rfl, .inr rfl, .inr rfl, .inr rfl, .inr rfl, .inr rfl, .inr rfl, .inr rfl, .inr rfl, .inr rfl, .inr rfl, .inr rfl, .inr rfl, .inr rfl, .inr rfl, .inr rfl, .inr rfl, .inr rfl, .inr rfl, .inr rfl, .inr rfl, .inr rfl, .inr rfl, .inr rfl, .inr rfl, .inr rfl, .inr rfl⟩)

theorem State_bump_same {fl : List Facet} {s₀ : State} (hl : subL ps6 fl = true) (a0 : State) (a1 : Nat) (a2 : Nat) (h0 : SameBut fl s₀ a0) :
    SameBut fl s₀ (State.bump a0 a1 a2) := by
  have kd : subL ps6 fl = true := subL_trans rfl hl
  unfold State.bump
  repeat' first
    | with_reducible assumption
    | (extract_lets +onlyGivenNames v; first | (have w : Mem := v; clear w) | (have w : DictState := v; clear w) | (have w : Fw := v; clear w) | clear_value v)
    | ((simp -zeta only [frame_mk]; with_reducible refine frame_lit ps6 ?_ kd ?_); on_goal 2 => exact ⟨.inr rfl, .inr rfl, .inl rfl, .inr rfl, .inr rfl, .inr rfl, .inr rfl, .inr rfl, .inr rfl, .inr rfl, .inr rfl, .inr rfl, .inr rfl, .inr rfl, .inr rfl, .inr rfl, .inr rfl, .inr rfl, .inr rfl, .inr rfl, .inr rfl, .inr rfl, .inr rfl, .inr rfl, .inr rfl, .inr rfl, .inr rfl, .inr rfl, .inr rfl, .inr rfl, .inr rfl⟩)

theorem State_clearCounters_same {fl : List Facet} {s₀ : State} (hl : subL ps6 fl = true) (a0 : State) (a1 : Nat) (a2 : Nat) (h0 : SameBut fl s₀ a0) :
    SameBut fl s₀ (State.clearCounters a0 a1 a2) := by
  have kd : subL ps6 fl = true := subL_trans rfl hl
  unfold State.clearCounters
  repeat' first
    | with_reducible assumption
    | (extract_lets +onlyGivenNames v; first | (have w : Mem := v; clear w) | (have w : DictState := v; clear w) | (have w : Fw := v; clear w) | clear_value v)
    | ((simp -zeta only [frame_mk]; with_reducible refine frame_lit ps6 ?_ kd ?_); on_goal 2 => exact ⟨.inr rfl, .inr rfl, .inl rfl, .inr rfl, .inr rfl, .inr rfl, .inr rfl, .inr rfl, .inr rfl, .inr rfl, .inr rfl, .inr rfl, .inr rfl, .inr rfl, .inr rfl, .inr rfl, .inr rfl, .inr rfl, .inr rfl, .inr rfl, .inr rfl, .inr rfl, .inr rfl, .inr rfl, .inr rfl, .inr rfl, .inr rfl, .inr rfl, .inr rfl, .inr rfl, .inr rfl⟩)

theorem State_drawn_same {fl : List Facet} {s₀ : State} (hl : subL ps8 fl = true) (a0 : State) (h0 : SameBut fl s₀ a0) :
    SameBut fl s₀ (State.drawn a0) := by
  have kd : subL ps8 fl = true := subL_trans rfl hl
  unfold State.drawn
  repeat' first
    | with_reducible assumption
    | (extract_lets +onlyGivenNames v; first | (have w : Mem := v; clear w) | (have w : DictState := v; clear w) | (have w : Fw := v; clear w) | clear_value v)
    | ((simp -zeta only [frame_mk]; with_reducible refine frame_lit ps8 ?_ kd ?_); on_goal 2 => exact ⟨.inr rfl, .inr rfl, .inr rfl, .inr rfl, .inr rfl, .inr rfl, .inr rfl, .inr rfl, .inr rfl, .inr rfl, .inr rfl, .inl rfl, .inr rfl, .inr rfl, .inr rfl, .inr rfl, .inr rfl, .inr rfl, .inr rfl, .inr rfl, .inr rfl, .inr rfl, .inr rfl, .inr rfl, .inr rfl, .inr rfl, .inr rfl, .inr rfl, .inr rfl, .inr rfl, .inr rfl⟩)

theorem State_advance_same {fl : List Facet} {s₀ : State} (hl : subL ps23 fl = true) (a0 : State) (a1 : Nat) (h0 : SameBut fl s₀ a0) :
    SameBut fl s₀ (State.advance a0 a1) := by
  have kd : subL ps23 fl = true := subL_trans rfl hl
  unfold State.advance
  repeat' first
    | with_reducible assumption
    | (extract_lets +onlyGivenNames v; first | (have w : Mem := v; clear w) | (have w : DictState := v; clear w) | (have w : Fw := v; clear w) | clear_value v)
    | ((simp -zeta only [frame_mk]; with_reducible refine frame_lit ps23 ?_ kd ?_); on_goal 2 => exact ⟨.inr rfl, .inr rfl, .inr rfl, .inr rfl, .inr rfl, .inr rfl, .inr rfl, .inr rfl, .inr rfl, .inr rfl, .inr rfl, .inr rfl, .inr rfl, .inr rfl, .inr rfl, .inr rfl, .inr rfl, .inr rfl, .inr rfl, .inr rfl, .inr rfl, .inr rfl, .inr rfl, .inr rfl, .inl rfl, .inr rfl, .inr rfl, .inr rfl, .inr rfl, .inr rfl, .inr rfl⟩)

theorem State_sendIrq_same {fl : List Facet} {s₀ : State} (hl : subL ps16 fl = true) (a0 : State) (a1 : Nat) (h0 : SameBut fl s₀ a0) :
    SameBut fl s₀ (State.sendIrq a0 a1) := by
  have kd : subL ps16 fl = true := subL_trans rfl hl
  unfold State.sendIrq
  repeat' first
    | with_reducible assumption
    | (extract_lets +onlyGivenNames v; first | (have w : Mem := v; clear w) | (have w : DictState := v; clear w) | (have w : Fw := v; clear w) | clear_value v)
    | ((simp -zeta only [frame_mk]; with_reducible refine frame_lit ps16 ?_ kd ?_); on_goal 2 => exact ⟨.inr rfl, .inr rfl, .inr rfl, .inr rfl, .inr rfl, .inr rfl, .inr rfl, .inr rfl, .inr rfl, .inr rfl, .inr rfl, .inr rfl, .inr rfl, .inr rfl, .inr rfl, .inr rfl, .inr rfl, .inr rfl, .inr rfl, .inl rfl, .inr rfl, .inr rfl, .inr rfl, .inr rfl, .inr rfl, .inr rfl, .inr rfl, .inr rfl, .inr rfl, .inr rfl, .inr rfl⟩)
    | split

theorem State_logIrq_same {fl : List Facet} {s₀ : State} (hl : subL ps16 fl = true) (a0 : State) (a1 : Nat) (h0 : SameBut fl s₀ a0) :
    SameBut fl s₀ (State.logIrq a0 a1) := by
  have kd : subL ps16 fl = true := subL_trans rfl hl
  unfold State.logIrq
  repeat' first
    | with_reducible assumption
    | (extract_lets +onlyGivenNames v; first | (have w : Mem := v; clear w) | (have w : DictState := v; clear w) | (have w : Fw := v; clear w) | clear_value v)
    | with_reducible apply State_sendIrq_same hl
    | ((simp -zeta only [frame_mk]; with_reducible refine frame_lit ps16 ?_ kd ?_); on_goal 2 => exact ⟨.inr rfl, .inr rfl, .inr rfl, .inr rfl, .inr rfl, .inr rfl, .inr rfl, .inr rfl, .inr rfl, .inr rfl, .inr rfl, .inr rfl, .inr rfl, .inr rfl, .inr rfl, .inr rfl, .inr rfl, .inr rfl, .inr rfl, .inl rfl, .inr rfl, .inr rfl, .inr rfl, .inr rfl, .inr rfl, .inr rfl, .inr rfl, .inr rfl, .inr rfl, .inr rfl, .inr rfl⟩)
    | split

theorem State_log_same {fl : List Facet} {s₀ : State} (hl : subL ps63 fl = true) (a0 : State) (a1 : Nat) (a2 : Nat) (a3 : Nat) (a4 : LogAddr) (a5 : Nat) (h0 : SameBut fl s₀ a0) :
    SameBut fl s₀ (State.log a0 a1 a2 a3 a4 a5) := by
  have k_ps16 : subL ps16 fl = true := subL_trans rfl hl
  have k_ps6 : subL ps6 fl = true := subL_trans rfl hl
  have kd : subL ps14 fl = true := subL_trans rfl hl
  unfold State.log
  repeat' first
    | with_reducible assumption
    | (extract_lets +onlyGivenNames v; refine (fun (hv : SameBut fl s₀ v) => ?_) ?_; (on_goal 1 => clear_value v); (on_goal 2 => (dsimp -zeta only [v]; try clear v)))
    | (extract_lets +onlyGivenNames v; first | (have w : Mem := v; clear w) | (have w : DictState := v; clear w) | (have w : Fw := v; clear w) | clear_value v)
    | with_reducible apply State_logIrq_same k_ps16
    | with_reducible apply State_bump_same k_ps6
    | ((simp -zeta only [frame_mk]; with_reducible refine frame_lit ps14 ?_ kd ?_); on_goal 2 => exact ⟨.inr rfl, .inr rfl, .inr rfl, .inr rfl, .inr rfl, .inr rfl, .inr rfl, .inr rfl, .inr rfl, .inr rfl, .inr rfl, .inr rfl, .inr rfl, .inr rfl, .inr rfl, .inr rfl, .inr rfl, .inr rfl, .inr rfl, .inr rfl, .inr rfl, .inl rfl, .inr rfl, .inr rfl, .inr rfl, .inr rfl, .inr rfl, .inr rfl, .inr rfl, .inr rfl, .inr rfl⟩)
    | split

theorem State_logFault_same {fl : List Facet} {s₀ : State} (hl : subL ps63 fl = true) (a0 : State) (a1 : Nat) (a2 : Nat) (a3 : LogAddr) (a4 : Nat) (a5 : LogAddr) (a6 : Nat) (h0 : SameBut fl s₀ a0) :
    SameBut fl s₀ (State.logFault a0 a1 a2 a3 a4 a5 a6) := by
  unfold State.logFault
  repeat' first
    | with_reducible assumption
    | with_reducible apply State_log_same hl

theorem State_limitMark_same {fl : List Facet} {s₀ : State} (hl : subL ps14 fl = true) (a0 : State) (a1 : Nat) (h0 : SameBut fl s₀ a0) :
    SameBut fl s₀ (State.limitMark a0 a1) := by
  have kd : subL ps14 fl = true := subL_trans rfl hl
  unfold State.limitMark
  repeat' first
    | with_reducible assumption
    | (extract_lets +onlyGivenNames v; first | (have w : Mem := v; clear w) | (have w : DictState := v; clear w) | (have w : Fw := v; clear w) | clear_value v)
    | ((simp -zeta only [frame_mk]; with_reducible refine frame_lit ps14 ?_ kd ?_); on_goal 2 => exact ⟨.inr rfl, .inr rfl, .inr rfl, .inr rfl, .inr rfl, .inr rfl, .inr rfl, .inr rfl, .inr rfl, .inr rfl, .inr rfl, .inr rfl, .inr rfl, .inr rfl, .inr rfl, .inr rfl, .inr rfl, .inr rfl, .inr rfl, .inr rfl, .inr rfl, .inl rfl, .inr rfl, .inr rfl, .inr rfl, .inr rfl, .inr rfl, .inr rfl, .inr rfl, .inr rfl, .inr rfl⟩)

theorem State_event_same {fl : List Facet} {s₀ : State} (hl : subL ps34 fl = true) (a0 : State) (a1 : Nat) (a2 : Nat) (a3 : Nat) (h0 : SameBut fl s₀ a0) :
    SameBut fl s₀ (State.event a0 a1 a2 a3) := by
  have k_ps6 : subL ps6 fl = true := subL_trans rfl hl
  have kd : subL ps16 fl = true := subL_trans rfl hl
  unfold State.event
  repeat' first
    | with_reducible assumption
    | (with_reducible intro x; try beta_reduce)
    | (extract_lets +onlyGivenNames v; refine (fun (hv : SameBut fl s₀ v) => ?_) ?_; (on_goal 1 => clear_value v); (on_goal 2 => (dsimp -zeta only [v]; try clear v)))
    | (extract_lets +onlyGivenNames v; refine (fun (hv : SameBut fl s₀ v.1) => ?_) ?_; (on_goal 1 => clear_value v); (on_goal 2 => (dsimp -zeta only [v]; try clear v)))
    | (extract_lets +onlyGivenNames v; first | (have w : Mem := v; clear w) | (have w : DictState := v; clear w) | (have w : Fw := v; clear w) | clear_value v)
    | with_reducible apply State_bump_same k_ps6
    | (with_reducible refine foldl_same _ _ ?_ ?_; on_goal 2 => (intro t x ht; try beta_reduce))
    | (with_reducible refine foldl_same₂ _ _ _ ?_ ?_; on_goal 2 => (intro t b x ht; try dsimp -zeta only))
    | ((simp -zeta only [frame_mk]; with_reducible refine frame_lit ps16 ?_ kd ?_); on_goal 2 => exact ⟨.inr rfl, .inr rfl, .inr rfl, .inr rfl, .inr rfl, .inr rfl, .inr rfl, .inr rfl, .inr rfl, .inr rfl, .inr rfl, .inr rfl, .inr rfl, .inr rfl, .inr rfl, .inr rfl, .inr rfl, .inr rfl, .inr rfl, .inl rfl, .inr rfl, .inr rfl, .inr rfl, .inr rfl, .inr rfl, .inr rfl, .inr rfl, .inr rfl, .inr rfl, .inr rfl, .inr rfl⟩)
    | with_reducible refine pair_same (by with_reducible assumption) ?_
    | split
    | (dsimp -zeta only)

theorem State_departure_same {fl : List Facet} {s₀ : State} (hl : subL ps63 fl = true) (a0 : State) (a1 : Nat) (a2 : Nat) (h0 : SameBut fl s₀ a0) :
    SameBut fl s₀ (State.departure a0 a1 a2) := by
  have k_ps6 : subL ps6 fl = true := subL_trans rfl hl
  unfold State.departure
  repeat' first
    | with_reducible assumption
    | with_reducible apply State_log_same hl
    | with_reducible apply State_bump_same k_ps6

theorem State_setFunc_same {fl : List Facet} {s₀ : State} (hl : subL ps10 fl = true) (a0 : State) (a1 : Func) (a2 : FState) (h0 : SameBut fl s₀ a0) :
    SameBut fl s₀ (State.setFunc a0 a1 a2) := by
  have kd : subL ps10 fl = true := subL_trans rfl hl
  unfold State.setFunc
  repeat' first
    | with_reducible assumption
    | ((simp -zeta only [frame_mk]; with_reducible refine frame_lit ps10 ?_ kd ?_); on_goal 2 => exact ⟨.inr rfl, .inr rfl, .inr rfl, .inr rfl, .inr rfl, .inr rfl, .inr rfl, .inr rfl, .inr rfl, .inr rfl, .inr rfl, .inr rfl, .inr rfl, .inr rfl, .inr rfl, .inr rfl, .inr rfl, .inr rfl, .inr rfl, .inr rfl, .inr rfl, .inr rfl, .inl rfl, .inr rfl, .inr rfl, .inr rfl, .inr rfl, .inr rfl, .inr rfl, .inr rfl, .inr rfl⟩)

theorem State_setTile_same {fl : List Facet} {s₀ : State} (hl : subL ps25 fl = true) (a0 : State) (a1 : Nat) (a2 : Tile) (h0 : SameBut fl s₀ a0) :
    SameBut fl s₀ (State.setTile a0 a1 a2) := by
  have kd : subL ps25 fl = true := subL_trans rfl hl
  unfold State.setTile
  repeat' first
    | with_reducible assumption
    | ((simp -zeta only [frame_mk]; with_reducible refine frame_lit ps25 ?_ kd ?_); on_goal 2 => exact ⟨.inr rfl, .inr rfl, .inr rfl, .inr rfl, .inr rfl, .inr rfl, .inr rfl, .inr rfl, .inr rfl, .inr rfl, .inr rfl, .inr rfl, .inl rfl, .inr rfl, .inr rfl, .inr rfl, .inr rfl, .inr rfl, .inr rfl, .inr rfl, .inr rfl, .inr rfl, .inr rfl, .inr rfl, .inr rfl, .inr rfl, .inr rfl, .inr rfl, .inr rfl, .inr rfl, .inr rfl⟩)

theorem State_adjTile_same {fl : List Facet} {s₀ : State} (hl : subL ps25 fl = true) (a0 : State) (a1 : Nat) (a2 : Tile → Tile) (h0 : SameBut fl s₀ a0) :
    SameBut fl s₀ (State.adjTile a0 a1 a2) := by
  unfold State.adjTile
  repeat' first
    | with_reducible assumption
    | with_reducible apply State_setTile_same hl

end Sys2Proof.Laws
end

