-- ==== Sys2Proof/Laws/FrameBlocks.lean ====
section
/-! SUPPORT. What the operations of Machine/Blocks.lean leave unchanged (`SameBut`): one lemma for each. -/

set_option Elab.async false
set_option linter.all false

namespace Sys2Proof.Laws

open Sys2Proof Sys2Proof.Machine

theorem State_adjEntry_same {fl : List Facet} {s₀ : State} (hl : subL ps16 fl = true) (a0 : State) (a1 : Nat) (a2 : Entry → Entry) (h0 : SameBut fl s₀ a0) :
    SameBut fl s₀ (State.adjEntry a0 a1 a2) := by
  have kd : subL ps16 fl = true := subL_trans rfl hl
  unfold State.adjEntry
  repeat' first
    | with_reducible assumption
    | (extract_lets +onlyGivenNames v; first | (have w : Mem := v; clear w) | (have w : DictState := v; clear w) | (have w : Fw := v; clear w) | clear_value v)
    | ((simp -zeta only [frame_mk]; with_reducible refine frame_lit ps16 ?_ kd ?_); on_goal 2 => exact ⟨.inr rfl, .inr rfl, .inr rfl, .inr rfl, .inr rfl, .inr rfl, .inr rfl, .inr rfl, .inr rfl, .inr rfl, .inr rfl, .inr rfl, .inr rfl, .inr rfl, .inr rfl, .inr rfl, .inr rfl, .inr rfl, .inr rfl, .inl rfl, .inr rfl, .inr rfl, .inr rfl, .inr rfl, .inr rfl, .inr rfl, .inr rfl, .inr rfl, .inr rfl, .inr rfl, .inr rfl⟩)

theorem State_adjKernel_same {fl : List Facet} {s₀ : State} (hl : subL ps16 fl = true) (a0 : State) (a1 : Nat) (a2 : Kernel → Kernel) (h0 : SameBut fl s₀ a0) :
    SameBut fl s₀ (State.adjKernel a0 a1 a2) := by
  unfold State.adjKernel
  repeat' first
    | with_reducible assumption
    | with_reducible apply State_adjEntry_same hl

theorem State_noteEnds_same {fl : List Facet} {s₀ : State} (hl : subL ps16 fl = true) (a0 : State) (h0 : SameBut fl s₀ a0) :
    SameBut fl s₀ (State.noteEnds a0) := by
  have kd : subL ps16 fl = true := subL_trans rfl hl
  unfold State.noteEnds
  repeat' first
    | with_reducible assumption
    | (with_reducible intro x; try beta_reduce)
    | (extract_lets +onlyGivenNames v; refine (fun (hv : SameBut fl s₀ v) => ?_) ?_; (on_goal 1 => clear_value v); (on_goal 2 => (dsimp -zeta only [v]; try clear v)))
    | (extract_lets +onlyGivenNames v; refine (fun (hv : SameBut fl s₀ v.1) => ?_) ?_; (on_goal 1 => clear_value v); (on_goal 2 => (dsimp -zeta only [v]; try clear v)))
    | (extract_lets +onlyGivenNames v; first | (have w : Mem := v; clear w) | (have w : DictState := v; clear w) | (have w : Fw := v; clear w) | clear_value v)
    | (with_reducible refine foldl_same _ _ ?_ ?_; on_goal 2 => (intro t x ht; try beta_reduce))
    | (with_reducible refine foldl_same₂ _ _ _ ?_ ?_; on_goal 2 => (intro t b x ht; try dsimp -zeta only))
    | ((simp -zeta only [frame_mk]; with_reducible refine frame_lit ps16 ?_ kd ?_); on_goal 2 => exact ⟨.inr rfl, .inr rfl, .inr rfl, .inr rfl, .inr rfl, .inr rfl, .inr rfl, .inr rfl, .inr rfl, .inr rfl, .inr rfl, .inr rfl, .inr rfl, .inr rfl, .inr rfl, .inr rfl, .inr rfl, .inr rfl, .inr rfl, .inl rfl, .inr rfl, .inr rfl, .inr rfl, .inr rfl, .inr rfl, .inr rfl, .inr rfl, .inr rfl, .inr rfl, .inr rfl, .inr rfl⟩)
    | with_reducible refine pair_same (by with_reducible assumption) ?_
    | split
    | (dsimp -zeta only)

theorem State_finish_same {fl : List Facet} {s₀ : State} (hl : subL ps16 fl = true) (a0 : State) (a1 : Nat) (a2 : Nat) (a3 : Nat) (a4 : Nat) (h0 : SameBut fl s₀ a0) :
    SameBut fl s₀ (State.finish a0 a1 a2 a3 a4) := by
  have kd : subL ps0 fl = true := subL_trans rfl hl
  unfold State.finish
  repeat' first
    | with_reducible assumption
    | (with_reducible intro x; try beta_reduce)
    | (extract_lets +onlyGivenNames v; refine (fun (hv : SameBut fl s₀ v) => ?_) ?_; (on_goal 1 => clear_value v); (on_goal 2 => (dsimp -zeta only [v]; try clear v)))
    | (extract_lets +onlyGivenNames v; refine (fun (hv : SameBut fl s₀ v.1) => ?_) ?_; (on_goal 1 => clear_value v); (on_goal 2 => (dsimp -zeta only [v]; try clear v)))
    | (extract_lets +onlyGivenNames v; first | (have w : Mem := v; clear w) | (have w : DictState := v; clear w) | (have w : Fw := v; clear w) | clear_value v)
    | with_reducible apply State_noteEnds_same hl
    | with_reducible apply State_adjEntry_same hl
    | (with_reducible refine foldl_same _ _ ?_ ?_; on_goal 2 => (intro t x ht; try beta_reduce))
    | (with_reducible refine foldl_same₂ _ _ _ ?_ ?_; on_goal 2 => (intro t b x ht; try dsimp -zeta only))
    | ((simp -zeta only [frame_mk]; with_reducible refine frame_lit ps0 ?_ kd ?_); on_goal 2 => exact ⟨.inr rfl, .inr rfl, .inr rfl, .inr rfl, .inr rfl, .inr rfl, .inr rfl, .inr rfl, .inr rfl, .inr rfl, .inr rfl, .inr rfl, .inr rfl, .inr rfl, .inr rfl, .inr rfl, .inr rfl, .inr rfl, .inr rfl, .inr rfl, .inr rfl, .inr rfl, .inr rfl, .inr rfl, .inr rfl, .inr rfl, .inr rfl, .inr rfl, .inr rfl, .inr rfl, .inr rfl⟩)
    | with_reducible refine pair_same (by with_reducible assumption) ?_
    | split
    | (dsimp -zeta only)

theorem State_adjBlock_same {fl : List Facet} {s₀ : State} (hl : subL ps25 fl = true) (a0 : State) (a1 : Nat) (a2 : Nat) (a3 : Block → Block) (h0 : SameBut fl s₀ a0) :
    SameBut fl s₀ (State.adjBlock a0 a1 a2 a3) := by
  unfold State.adjBlock
  repeat' first
    | with_reducible assumption
    | with_reducible apply State_adjTile_same hl

theorem State_adjGroup_same {fl : List Facet} {s₀ : State} (hl : subL ps25 fl = true) (a0 : State) (a1 : GroupRef) (a2 : Group → Group) (h0 : SameBut fl s₀ a0) :
    SameBut fl s₀ (State.adjGroup a0 a1 a2) := by
  unfold State.adjGroup
  repeat' first
    | with_reducible assumption
    | with_reducible apply State_adjBlock_same hl

theorem State_advanceGroup_same {fl : List Facet} {s₀ : State} (hl : subL ps25 fl = true) (a0 : State) (a1 : GroupRef) (h0 : SameBut fl s₀ a0) :
    SameBut fl s₀ (State.advanceGroup a0 a1) := by
  unfold State.advanceGroup
  repeat' first
    | with_reducible assumption
    | with_reducible apply State_adjGroup_same hl

theorem State_noteFault_same {fl : List Facet} {s₀ : State} (hl : subL ps16 fl = true) (a0 : State) (a1 : Nat) (a2 : Nat) (a3 : Nat) (a4 : Nat) (h0 : SameBut fl s₀ a0) :
    SameBut fl s₀ (State.noteFault a0 a1 a2 a3 a4) := by
  unfold State.noteFault
  repeat' first
    | with_reducible assumption
    | with_reducible apply State_adjKernel_same hl

theorem State_countFault_same {fl : List Facet} {s₀ : State} (hl : subL ps6 fl = true) (a0 : State) (a1 : Nat) (h0 : SameBut fl s₀ a0) :
    SameBut fl s₀ (State.countFault a0 a1) := by
  unfold State.countFault
  repeat' first
    | with_reducible assumption
    | (extract_lets +onlyGivenNames v; refine (fun (hv : SameBut fl s₀ v) => ?_) ?_; (on_goal 1 => clear_value v); (on_goal 2 => (dsimp -zeta only [v]; try clear v)))
    | with_reducible apply State_bump_same hl
    | split

theorem State_stopBlock_same {fl : List Facet} {s₀ : State} (hl : subL ps58 fl = true) (a0 : State) (a1 : Nat) (a2 : Nat) (a3 : Option Nat) (h0 : SameBut fl s₀ a0) :
    SameBut fl s₀ (State.stopBlock a0 a1 a2 a3) := by
  have k_ps25 : subL ps25 fl = true := subL_trans rfl hl
  have kd : subL ps9 fl = true := subL_trans rfl hl
  unfold State.stopBlock
  repeat' first
    | with_reducible assumption
    | (extract_lets +onlyGivenNames v; refine (fun (hv : SameBut fl s₀ v) => ?_) ?_; (on_goal 1 => clear_value v); (on_goal 2 => (dsimp -zeta only [v]; try clear v)))
    | (extract_lets +onlyGivenNames v; first | (have w : Mem := v; clear w) | (have w : DictState := v; clear w) | (have w : Fw := v; clear w) | clear_value v)
    | with_reducible apply State_adjBlock_same k_ps25
    | with_reducible apply State_adjTile_same k_ps25
    | ((simp -zeta only [frame_mk]; with_reducible refine frame_lit ps9 ?_ kd ?_); on_goal 2 => exact ⟨.inr rfl, .inr rfl, .inr rfl, .inr rfl, .inr rfl, .inr rfl, .inr rfl, .inr rfl, .inr rfl, .inr rfl, .inr rfl, .inr rfl, .inr rfl, .inl rfl, .inr rfl, .inr rfl, .inr rfl, .inr rfl, .inr rfl, .inr rfl, .inr rfl, .inr rfl, .inr rfl, .inr rfl, .inr rfl, .inr rfl, .inr rfl, .inr rfl, .inr rfl, .inr rfl, .inr rfl⟩)
    | split

theorem State_endBlock_same {fl : List Facet} {s₀ : State} (hl : subL ps99 fl = true) (a0 : State) (a1 : Nat) (a2 : Nat) (a3 : Nat) (h0 : SameBut fl s₀ a0) :
    SameBut fl s₀ (State.endBlock a0 a1 a2 a3) := by
  have k_ps16 : subL ps16 fl = true := subL_trans rfl hl
  have k_ps58 : subL ps58 fl = true := subL_trans rfl hl
  have k_ps6 : subL ps6 fl = true := subL_trans rfl hl
  unfold State.endBlock
  repeat' first
    | with_reducible assumption
    | with_reducible apply State_bump_same k_ps6
    | with_reducible apply State_noteFault_same k_ps16
    | with_reducible apply State_stopBlock_same k_ps58
    | split

theorem State_endSaved_same {fl : List Facet} {s₀ : State} (hl : subL ps34 fl = true) (a0 : State) (a1 : Block) (a2 : Nat) (h0 : SameBut fl s₀ a0) :
    SameBut fl s₀ (State.endSaved a0 a1 a2) := by
  have k_ps16 : subL ps16 fl = true := subL_trans rfl hl
  have k_ps6 : subL ps6 fl = true := subL_trans rfl hl
  have kd : subL ps16 fl = true := subL_trans rfl hl
  unfold State.endSaved
  repeat' first
    | with_reducible assumption
    | (with_reducible intro x; try beta_reduce)
    | (extract_lets +onlyGivenNames v; refine (fun (hv : SameBut fl s₀ v) => ?_) ?_; (on_goal 1 => clear_value v); (on_goal 2 => (dsimp -zeta only [v]; try clear v)))
    | (extract_lets +onlyGivenNames v; refine (fun (hv : SameBut fl s₀ v.1) => ?_) ?_; (on_goal 1 => clear_value v); (on_goal 2 => (dsimp -zeta only [v]; try clear v)))
    | (extract_lets +onlyGivenNames v; first | (have w : Mem := v; clear w) | (have w : DictState := v; clear w) | (have w : Fw := v; clear w) | clear_value v)
    | with_reducible apply State_bump_same k_ps6
    | with_reducible apply State_noteFault_same k_ps16
    | (with_reducible refine foldl_same _ _ ?_ ?_; on_goal 2 => (intro t x ht; try beta_reduce))
    | (with_reducible refine foldl_same₂ _ _ _ ?_ ?_; on_goal 2 => (intro t b x ht; try dsimp -zeta only))
    | ((simp -zeta only [frame_mk]; with_reducible refine frame_lit ps16 ?_ kd ?_); on_goal 2 => exact ⟨.inr rfl, .inr rfl, .inr rfl, .inr rfl, .inr rfl, .inr rfl, .inr rfl, .inr rfl, .inr rfl, .inr rfl, .inr rfl, .inr rfl, .inr rfl, .inr rfl, .inr rfl, .inr rfl, .inr rfl, .inr rfl, .inr rfl, .inl rfl, .inr rfl, .inr rfl, .inr rfl, .inr rfl, .inr rfl, .inr rfl, .inr rfl, .inr rfl, .inr rfl, .inr rfl, .inr rfl⟩)
    | with_reducible refine pair_same (by with_reducible assumption) ?_
    | split
    | (dsimp -zeta only)

theorem State_reportFault_same {fl : List Facet} {s₀ : State} (hl : subL ps63 fl = true) (a0 : State) (a1 : Block) (a2 : Nat) (a3 : Nat) (a4 : LogAddr) (a5 : LogAddr) (a6 : Nat) (h0 : SameBut fl s₀ a0) :
    SameBut fl s₀ (State.reportFault a0 a1 a2 a3 a4 a5 a6) := by
  have k_ps6 : subL ps6 fl = true := subL_trans rfl hl
  unfold State.reportFault
  repeat' first
    | with_reducible assumption
    | with_reducible apply State_logFault_same hl
    | with_reducible apply State_countFault_same k_ps6

theorem State_abortBlocks_same {fl : List Facet} {s₀ : State} (hl : subL ps111 fl = true) (a0 : Nat) (a1 : Nat) (a2 : List Block) (a3 : State) (h3 : SameBut fl s₀ a3) :
    SameBut fl s₀ (State.abortBlocks a0 a1 a2 a3) := by
  have k_ps34 : subL ps34 fl = true := subL_trans rfl hl
  have k_ps63 : subL ps63 fl = true := subL_trans rfl hl
  have k_ps99 : subL ps99 fl = true := subL_trans rfl hl
  induction a2 generalizing a0 a1 a3 with
  | nil =>
    rw [State.abortBlocks]
    repeat' with_reducible assumption
  | cons x l ih =>
    rw [State.abortBlocks]
    repeat' first
      | with_reducible assumption
      | with_reducible apply ih
      | with_reducible apply State_endBlock_same k_ps99
      | with_reducible apply State_endSaved_same k_ps34
      | with_reducible apply State_reportFault_same k_ps63
      | split

theorem State_terminate_same {fl : List Facet} {s₀ : State} (hl : subL ps111 fl = true) (a0 : State) (a1 : Block) (a2 : Nat) (h0 : SameBut fl s₀ a0) :
    SameBut fl s₀ (State.terminate a0 a1 a2) := by
  have k_ps99 : subL ps99 fl = true := subL_trans rfl hl
  have kd : subL ps0 fl = true := subL_trans rfl hl
  unfold State.terminate
  repeat' first
    | with_reducible assumption
    | (with_reducible intro x; try beta_reduce)
    | (extract_lets +onlyGivenNames v; refine (fun (hv : SameBut fl s₀ v) => ?_) ?_; (on_goal 1 => clear_value v); (on_goal 2 => (dsimp -zeta only [v]; try clear v)))
    | (extract_lets +onlyGivenNames v; refine (fun (hv : SameBut fl s₀ v.1) => ?_) ?_; (on_goal 1 => clear_value v); (on_goal 2 => (dsimp -zeta only [v]; try clear v)))
    | (extract_lets +onlyGivenNames v; first | (have w : Mem := v; clear w) | (have w : DictState := v; clear w) | (have w : Fw := v; clear w) | clear_value v)
    | with_reducible apply State_endBlock_same k_ps99
    | with_reducible apply State_abortBlocks_same hl
    | (with_reducible refine foldl_same _ _ ?_ ?_; on_goal 2 => (intro t x ht; try beta_reduce))
    | (with_reducible refine foldl_same₂ _ _ _ ?_ ?_; on_goal 2 => (intro t b x ht; try dsimp -zeta only))
    | ((simp -zeta only [frame_mk]; with_reducible refine frame_lit ps0 ?_ kd ?_); on_goal 2 => exact ⟨.inr rfl, .inr rfl, .inr rfl, .inr rfl, .inr rfl, .inr rfl, .inr rfl, .inr rfl, .inr rfl, .inr rfl, .inr rfl, .inr rfl, .inr rfl, .inr rfl, .inr rfl, .inr rfl, .inr rfl, .inr rfl, .inr rfl, .inr rfl, .inr rfl, .inr rfl, .inr rfl, .inr rfl, .inr rfl, .inr rfl, .inr rfl, .inr rfl, .inr rfl, .inr rfl, .inr rfl⟩)
    | with_reducible refine pair_same (by with_reducible assumption) ?_
    | split
    | (dsimp -zeta only)

theorem State_threadFault_same {fl : List Facet} {s₀ : State} (hl : subL ps111 fl = true) (a0 : State) (a1 : GroupRef) (a2 : Nat) (a3 : LogAddr) (a4 : Nat) (h0 : SameBut fl s₀ a0) :
    SameBut fl s₀ (State.threadFault a0 a1 a2 a3 a4) := by
  have k_ps63 : subL ps63 fl = true := subL_trans rfl hl
  unfold State.threadFault
  repeat' first
    | with_reducible assumption
    | (extract_lets +onlyGivenNames v; first | (have w : Mem := v; clear w) | (have w : DictState := v; clear w) | (have w : Fw := v; clear w) | clear_value v)
    | with_reducible apply State_terminate_same hl
    | with_reducible apply State_reportFault_same k_ps63
    | split

theorem State_poisonControl_same {fl : List Facet} {s₀ : State} (hl : subL ps111 fl = true) (a0 : State) (a1 : GroupRef) (a2 : Nat) (a3 : Nat) (h0 : SameBut fl s₀ a0) :
    SameBut fl s₀ (State.poisonControl a0 a1 a2 a3) := by
  have k_ps6 : subL ps6 fl = true := subL_trans rfl hl
  have k_ps63 : subL ps63 fl = true := subL_trans rfl hl
  have kd : subL ps0 fl = true := subL_trans rfl hl
  unfold State.poisonControl
  repeat' first
    | with_reducible assumption
    | (with_reducible intro x; try beta_reduce)
    | (extract_lets +onlyGivenNames v; refine (fun (hv : SameBut fl s₀ v) => ?_) ?_; (on_goal 1 => clear_value v); (on_goal 2 => (dsimp -zeta only [v]; try clear v)))
    | (extract_lets +onlyGivenNames v; refine (fun (hv : SameBut fl s₀ v.1) => ?_) ?_; (on_goal 1 => clear_value v); (on_goal 2 => (dsimp -zeta only [v]; try clear v)))
    | (extract_lets +onlyGivenNames v; first | (have w : Mem := v; clear w) | (have w : DictState := v; clear w) | (have w : Fw := v; clear w) | clear_value v)
    | with_reducible apply State_threadFault_same hl
    | with_reducible apply State_log_same k_ps63
    | with_reducible apply State_bump_same k_ps6
    | (with_reducible refine foldl_same _ _ ?_ ?_; on_goal 2 => (intro t x ht; try beta_reduce))
    | (with_reducible refine foldl_same₂ _ _ _ ?_ ?_; on_goal 2 => (intro t b x ht; try dsimp -zeta only))
    | ((simp -zeta only [frame_mk]; with_reducible refine frame_lit ps0 ?_ kd ?_); on_goal 2 => exact ⟨.inr rfl, .inr rfl, .inr rfl, .inr rfl, .inr rfl, .inr rfl, .inr rfl, .inr rfl, .inr rfl, .inr rfl, .inr rfl, .inr rfl, .inr rfl, .inr rfl, .inr rfl, .inr rfl, .inr rfl, .inr rfl, .inr rfl, .inr rfl, .inr rfl, .inr rfl, .inr rfl, .inr rfl, .inr rfl, .inr rfl, .inr rfl, .inr rfl, .inr rfl, .inr rfl, .inr rfl⟩)
    | with_reducible refine pair_same (by with_reducible assumption) ?_
    | split
    | (dsimp -zeta only)

theorem State_cancelStep_same {fl : List Facet} {s₀ : State} (hl : subL ps16 fl = true) (a0 : State) (h0 : SameBut fl s₀ a0) :
    SameBut fl s₀ (State.cancelStep a0) := by
  have kd : subL ps16 fl = true := subL_trans rfl hl
  unfold State.cancelStep
  repeat' first
    | with_reducible assumption
    | (with_reducible intro x; try beta_reduce)
    | (extract_lets +onlyGivenNames v; refine (fun (hv : SameBut fl s₀ v) => ?_) ?_; (on_goal 1 => clear_value v); (on_goal 2 => (dsimp -zeta only [v]; try clear v)))
    | (extract_lets +onlyGivenNames v; refine (fun (hv : SameBut fl s₀ v.1) => ?_) ?_; (on_goal 1 => clear_value v); (on_goal 2 => (dsimp -zeta only [v]; try clear v)))
    | (extract_lets +onlyGivenNames v; first | (have w : Mem := v; clear w) | (have w : DictState := v; clear w) | (have w : Fw := v; clear w) | clear_value v)
    | with_reducible apply State_noteEnds_same hl
    | (with_reducible refine foldl_same _ _ ?_ ?_; on_goal 2 => (intro t x ht; try beta_reduce))
    | (with_reducible refine foldl_same₂ _ _ _ ?_ ?_; on_goal 2 => (intro t b x ht; try dsimp -zeta only))
    | ((simp -zeta only [frame_mk]; with_reducible refine frame_lit ps16 ?_ kd ?_); on_goal 2 => exact ⟨.inr rfl, .inr rfl, .inr rfl, .inr rfl, .inr rfl, .inr rfl, .inr rfl, .inr rfl, .inr rfl, .inr rfl, .inr rfl, .inr rfl, .inr rfl, .inr rfl, .inr rfl, .inr rfl, .inr rfl, .inr rfl, .inr rfl, .inl rfl, .inr rfl, .inr rfl, .inr rfl, .inr rfl, .inr rfl, .inr rfl, .inr rfl, .inr rfl, .inr rfl, .inr rfl, .inr rfl⟩)
    | with_reducible refine pair_same (by with_reducible assumption) ?_
    | split
    | (dsimp -zeta only)

theorem State_logWork_same {fl : List Facet} {s₀ : State} (hl : subL ps63 fl = true) (a0 : Nat) (a1 : Nat) (a2 : List (Nat × Nat × Nat × Nat)) (a3 : State) (h3 : SameBut fl s₀ a3) :
    SameBut fl s₀ (State.logWork a0 a1 a2 a3) := by
  have k_ps6 : subL ps6 fl = true := subL_trans rfl hl
  induction a2 generalizing a0 a1 a3 with
  | nil =>
    rw [State.logWork]
    repeat' with_reducible assumption
  | cons x l ih =>
    rw [State.logWork]
    repeat' first
      | with_reducible assumption
      | with_reducible apply ih
      | with_reducible apply State_bump_same k_ps6
      | with_reducible apply State_logFault_same hl

theorem State_faultBlocks_same {fl : List Facet} {s₀ : State} (hl : subL ps111 fl = true) (a0 : List Block) (a1 : State) (h1 : SameBut fl s₀ a1) :
    SameBut fl s₀ (State.faultBlocks a0 a1) := by
  have k_ps63 : subL ps63 fl = true := subL_trans rfl hl
  have kd : subL ps111 fl = true := subL_trans rfl hl
  induction a0 generalizing a1 with
  | nil =>
    rw [State.faultBlocks]
    repeat' first
      | with_reducible assumption
      | (with_reducible intro x; try beta_reduce)
      | (extract_lets +onlyGivenNames v; refine (fun (hv : SameBut fl s₀ v) => ?_) ?_; (on_goal 1 => clear_value v); (on_goal 2 => (dsimp -zeta only [v]; try clear v)))
      | (extract_lets +onlyGivenNames v; refine (fun (hv : SameBut fl s₀ v.1) => ?_) ?_; (on_goal 1 => clear_value v); (on_goal 2 => (dsimp -zeta only [v]; try clear v)))
      | (extract_lets +onlyGivenNames v; first | (have w : Mem := v; clear w) | (have w : DictState := v; clear w) | (have w : Fw := v; clear w) | clear_value v)
      | with_reducible apply ih
      | with_reducible apply State_reportFault_same k_ps63
      | with_reducible apply State_terminate_same hl
      | (with_reducible refine foldl_same _ _ ?_ ?_; on_goal 2 => (intro t x ht; try beta_reduce))
      | (with_reducible refine foldl_same₂ _ _ _ ?_ ?_; on_goal 2 => (intro t b x ht; try dsimp -zeta only))
      | ((simp -zeta only [frame_mk]; with_reducible refine frame_lit ps111 ?_ kd ?_); on_goal 2 => exact ⟨.inr rfl, .inr rfl, .inl rfl, .inr rfl, .inr rfl, .inr rfl, .inr rfl, .inr rfl, .inr rfl, .inr rfl, .inr rfl, .inr rfl, .inl rfl, .inl rfl, .inr rfl, .inr rfl, .inr rfl, .inr rfl, .inr rfl, .inl rfl, .inr rfl, .inl rfl, .inr rfl, .inr rfl, .inr rfl, .inr rfl, .inr rfl, .inr rfl, .inr rfl, .inr rfl, .inr rfl⟩)
      | with_reducible refine pair_same (by with_reducible assumption) ?_
      | split
      | (dsimp -zeta only)
  | cons x l ih =>
    rw [State.faultBlocks]
    repeat' first
      | with_reducible assumption
      | (with_reducible intro x; try beta_reduce)
      | (extract_lets +onlyGivenNames v; refine (fun (hv : SameBut fl s₀ v) => ?_) ?_; (on_goal 1 => clear_value v); (on_goal 2 => (dsimp -zeta only [v]; try clear v)))
      | (extract_lets +onlyGivenNames v; refine (fun (hv : SameBut fl s₀ v.1) => ?_) ?_; (on_goal 1 => clear_value v); (on_goal 2 => (dsimp -zeta only [v]; try clear v)))
      | (extract_lets +onlyGivenNames v; first | (have w : Mem := v; clear w) | (have w : DictState := v; clear w) | (have w : Fw := v; clear w) | clear_value v)
      | with_reducible apply ih
      | with_reducible apply State_reportFault_same k_ps63
      | with_reducible apply State_terminate_same hl
      | (with_reducible refine foldl_same _ _ ?_ ?_; on_goal 2 => (intro t x ht; try beta_reduce))
      | (with_reducible refine foldl_same₂ _ _ _ ?_ ?_; on_goal 2 => (intro t b x ht; try dsimp -zeta only))
      | ((simp -zeta only [frame_mk]; with_reducible refine frame_lit ps111 ?_ kd ?_); on_goal 2 => exact ⟨.inr rfl, .inr rfl, .inl rfl, .inr rfl, .inr rfl, .inr rfl, .inr rfl, .inr rfl, .inr rfl, .inr rfl, .inr rfl, .inr rfl, .inl rfl, .inl rfl, .inr rfl, .inr rfl, .inr rfl, .inr rfl, .inr rfl, .inl rfl, .inr rfl, .inl rfl, .inr rfl, .inr rfl, .inr rfl, .inr rfl, .inr rfl, .inr rfl, .inr rfl, .inr rfl, .inr rfl⟩)
      | with_reducible refine pair_same (by with_reducible assumption) ?_
      | split
      | (dsimp -zeta only)

theorem State_setSleep_same {fl : List Facet} {s₀ : State} (hl : subL ps23 fl = true) (a0 : State) (a1 : Nat) (a2 : Sleep) (h0 : SameBut fl s₀ a0) :
    SameBut fl s₀ (State.setSleep a0 a1 a2) := by
  have kd : subL ps23 fl = true := subL_trans rfl hl
  unfold State.setSleep
  repeat' first
    | with_reducible assumption
    | (extract_lets +onlyGivenNames v; first | (have w : Mem := v; clear w) | (have w : DictState := v; clear w) | (have w : Fw := v; clear w) | clear_value v)
    | ((simp -zeta only [frame_mk]; with_reducible refine frame_lit ps23 ?_ kd ?_); on_goal 2 => exact ⟨.inr rfl, .inr rfl, .inr rfl, .inr rfl, .inr rfl, .inr rfl, .inr rfl, .inr rfl, .inr rfl, .inr rfl, .inr rfl, .inr rfl, .inr rfl, .inr rfl, .inr rfl, .inr rfl, .inr rfl, .inr rfl, .inr rfl, .inr rfl, .inr rfl, .inr rfl, .inr rfl, .inr rfl, .inl rfl, .inr rfl, .inr rfl, .inr rfl, .inr rfl, .inr rfl, .inr rfl⟩)

theorem State_napFaulted_same {fl : List Facet} {s₀ : State} (hl : subL ps23 fl = true) (a0 : State) (a1 : Option Nat) (h0 : SameBut fl s₀ a0) :
    SameBut fl s₀ (State.napFaulted a0 a1) := by
  have kd : subL ps0 fl = true := subL_trans rfl hl
  unfold State.napFaulted
  repeat' first
    | with_reducible assumption
    | (with_reducible intro x; try beta_reduce)
    | (extract_lets +onlyGivenNames v; refine (fun (hv : SameBut fl s₀ v) => ?_) ?_; (on_goal 1 => clear_value v); (on_goal 2 => (dsimp -zeta only [v]; try clear v)))
    | (extract_lets +onlyGivenNames v; refine (fun (hv : SameBut fl s₀ v.1) => ?_) ?_; (on_goal 1 => clear_value v); (on_goal 2 => (dsimp -zeta only [v]; try clear v)))
    | (extract_lets +onlyGivenNames v; first | (have w : Mem := v; clear w) | (have w : DictState := v; clear w) | (have w : Fw := v; clear w) | clear_value v)
    | with_reducible apply State_setSleep_same hl
    | (with_reducible refine foldl_same _ _ ?_ ?_; on_goal 2 => (intro t x ht; try beta_reduce))
    | (with_reducible refine foldl_same₂ _ _ _ ?_ ?_; on_goal 2 => (intro t b x ht; try dsimp -zeta only))
    | ((simp -zeta only [frame_mk]; with_reducible refine frame_lit ps0 ?_ kd ?_); on_goal 2 => exact ⟨.inr rfl, .inr rfl, .inr rfl, .inr rfl, .inr rfl, .inr rfl, .inr rfl, .inr rfl, .inr rfl, .inr rfl, .inr rfl, .inr rfl, .inr rfl, .inr rfl, .inr rfl, .inr rfl, .inr rfl, .inr rfl, .inr rfl, .inr rfl, .inr rfl, .inr rfl, .inr rfl, .inr rfl, .inr rfl, .inr rfl, .inr rfl, .inr rfl, .inr rfl, .inr rfl, .inr rfl⟩)
    | with_reducible refine pair_same (by with_reducible assumption) ?_
    | split
    | (dsimp -zeta only)

theorem State_faultTile_same {fl : List Facet} {s₀ : State} (hl : subL ps139 fl = true) (a0 : State) (a1 : Nat) (h0 : SameBut fl s₀ a0) :
    SameBut fl s₀ (State.faultTile a0 a1) := by
  have k_ps111 : subL ps111 fl = true := subL_trans rfl hl
  have k_ps16 : subL ps16 fl = true := subL_trans rfl hl
  have k_ps23 : subL ps23 fl = true := subL_trans rfl hl
  have k_ps25 : subL ps25 fl = true := subL_trans rfl hl
  have k_ps34 : subL ps34 fl = true := subL_trans rfl hl
  have k_ps63 : subL ps63 fl = true := subL_trans rfl hl
  have kd : subL ps72 fl = true := subL_trans rfl hl
  unfold State.faultTile
  repeat' first
    | with_reducible assumption
    | (with_reducible intro x; try beta_reduce)
    | (extract_lets +onlyGivenNames v; refine (fun (hv : SameBut fl s₀ v) => ?_) ?_; (on_goal 1 => clear_value v); (on_goal 2 => (dsimp -zeta only [v]; try clear v)))
    | (extract_lets +onlyGivenNames v; refine (fun (hv : SameBut fl s₀ v.1) => ?_) ?_; (on_goal 1 => clear_value v); (on_goal 2 => (dsimp -zeta only [v]; try clear v)))
    | (extract_lets +onlyGivenNames v; first | (have w : Mem := v; clear w) | (have w : DictState := v; clear w) | (have w : Fw := v; clear w) | clear_value v)
    | with_reducible apply State_log_same k_ps63
    | with_reducible apply State_event_same k_ps34
    | with_reducible apply State_logWork_same k_ps63
    | with_reducible apply State_adjTile_same k_ps25
    | with_reducible apply State_faultBlocks_same k_ps111
    | with_reducible apply State_napFaulted_same k_ps23
    | with_reducible apply State_cancelStep_same k_ps16
    | (with_reducible refine foldl_same _ _ ?_ ?_; on_goal 2 => (intro t x ht; try beta_reduce))
    | (with_reducible refine foldl_same₂ _ _ _ ?_ ?_; on_goal 2 => (intro t b x ht; try dsimp -zeta only))
    | ((simp -zeta only [frame_mk]; with_reducible refine frame_lit ps72 ?_ kd ?_); on_goal 2 => exact ⟨.inr rfl, .inr rfl, .inr rfl, .inr rfl, .inr rfl, .inr rfl, .inr rfl, .inr rfl, .inr rfl, .inr rfl, .inr rfl, .inr rfl, .inr rfl, .inr rfl, .inr rfl, .inr rfl, .inr rfl, .inr rfl, .inr rfl, .inl rfl, .inl rfl, .inr rfl, .inr rfl, .inr rfl, .inr rfl, .inl rfl, .inr rfl, .inr rfl, .inr rfl, .inr rfl, .inr rfl⟩)
    | with_reducible refine pair_same (by with_reducible assumption) ?_
    | split
    | (dsimp -zeta only)

theorem State_faultService_same {fl : List Facet} {s₀ : State} (hl : subL ps142 fl = true) (a0 : State) (a1 : Nat) (h0 : SameBut fl s₀ a0) :
    SameBut fl s₀ (State.faultService a0 a1) := by
  have k_ps139 : subL ps139 fl = true := subL_trans rfl hl
  have k_ps63 : subL ps63 fl = true := subL_trans rfl hl
  have k_ps8 : subL ps8 fl = true := subL_trans rfl hl
  unfold State.faultService
  repeat' first
    | with_reducible assumption
    | (extract_lets +onlyGivenNames v; refine (fun (hv : SameBut fl s₀ v) => ?_) ?_; (on_goal 1 => clear_value v); (on_goal 2 => (dsimp -zeta only [v]; try clear v)))
    | (extract_lets +onlyGivenNames v; first | (have w : Mem := v; clear w) | (have w : DictState := v; clear w) | (have w : Fw := v; clear w) | clear_value v)
    | with_reducible apply State_faultTile_same k_ps139
    | with_reducible apply State_drawn_same k_ps8
    | with_reducible apply State_departure_same k_ps63
    | split

end Sys2Proof.Laws
end

