-- ==== Sys2Proof/Laws/FrameFelt.lean ====
section
/-! SUPPORT. What the operations of Machine/Felt.lean leave unchanged (`SameBut`): one lemma for each. -/

set_option Elab.async false
set_option linter.all false

namespace Sys2Proof.Laws

open Sys2Proof Sys2Proof.Machine

theorem State_setPage_same {fl : List Facet} {s₀ : State} (hl : subL ps22 fl = true) (a0 : State) (a1 : Nat) (a2 : Page) (h0 : SameBut fl s₀ a0) :
    SameBut fl s₀ (State.setPage a0 a1 a2) := by
  have kd : subL ps22 fl = true := subL_trans rfl hl
  unfold State.setPage
  repeat' first
    | with_reducible assumption
    | (extract_lets +onlyGivenNames v; first | (have w : Mem := v; clear w) | (have w : DictState := v; clear w) | (have w : Fw := v; clear w) | clear_value v)
    | ((simp -zeta only [frame_mk]; with_reducible refine frame_lit ps22 ?_ kd ?_); on_goal 2 => exact ⟨.inr rfl, .inr rfl, .inr rfl, .inr rfl, .inr rfl, .inr rfl, .inr rfl, .inr rfl, .inr rfl, .inr rfl, .inr rfl, .inr rfl, .inr rfl, .inr rfl, .inr rfl, .inr rfl, .inr rfl, .inl rfl, .inr rfl, .inr rfl, .inr rfl, .inr rfl, .inr rfl, .inr rfl, .inr rfl, .inr rfl, .inr rfl, .inr rfl, .inr rfl, .inr rfl, .inr rfl⟩)

theorem State_violation_same {fl : List Facet} {s₀ : State} (hl : subL ps63 fl = true) (a0 : State) (a1 : Nat) (a2 : Nat) (a3 : Nat) (h0 : SameBut fl s₀ a0) :
    SameBut fl s₀ (State.violation a0 a1 a2 a3) := by
  have k_ps6 : subL ps6 fl = true := subL_trans rfl hl
  unfold State.violation
  repeat' first
    | with_reducible assumption
    | with_reducible apply State_log_same hl
    | with_reducible apply State_bump_same k_ps6

theorem State_charge1_same {fl : List Facet} {s₀ : State} (hl : subL ps29 fl = true) (a0 : State) (a1 : Nat) (a2 : Nat) (h0 : SameBut fl s₀ a0) :
    SameBut fl s₀ (State.charge1 a0 a1 a2) := by
  have kd : subL ps29 fl = true := subL_trans rfl hl
  unfold State.charge1
  repeat' first
    | with_reducible assumption
    | (with_reducible intro x; try beta_reduce)
    | (extract_lets +onlyGivenNames v; refine (fun (hv : SameBut fl s₀ v) => ?_) ?_; (on_goal 1 => clear_value v); (on_goal 2 => (dsimp -zeta only [v]; try clear v)))
    | (extract_lets +onlyGivenNames v; refine (fun (hv : SameBut fl s₀ v.1) => ?_) ?_; (on_goal 1 => clear_value v); (on_goal 2 => (dsimp -zeta only [v]; try clear v)))
    | (extract_lets +onlyGivenNames v; first | (have w : Mem := v; clear w) | (have w : DictState := v; clear w) | (have w : Fw := v; clear w) | clear_value v)
    | (with_reducible refine foldl_same _ _ ?_ ?_; on_goal 2 => (intro t x ht; try beta_reduce))
    | (with_reducible refine foldl_same₂ _ _ _ ?_ ?_; on_goal 2 => (intro t b x ht; try dsimp -zeta only))
    | ((simp -zeta only [frame_mk]; with_reducible refine frame_lit ps29 ?_ kd ?_); on_goal 2 => exact ⟨.inr rfl, .inr rfl, .inl rfl, .inr rfl, .inr rfl, .inr rfl, .inr rfl, .inr rfl, .inr rfl, .inr rfl, .inr rfl, .inr rfl, .inr rfl, .inr rfl, .inr rfl, .inr rfl, .inr rfl, .inr rfl, .inl rfl, .inr rfl, .inr rfl, .inr rfl, .inr rfl, .inr rfl, .inr rfl, .inr rfl, .inr rfl, .inr rfl, .inr rfl, .inr rfl, .inr rfl⟩)
    | with_reducible refine pair_same (by with_reducible assumption) ?_
    | split
    | (dsimp -zeta only)

theorem State_charge_same {fl : List Facet} {s₀ : State} (hl : subL ps29 fl = true) (a0 : State) (a1 : Nat) (a2 : Nat) (h0 : SameBut fl s₀ a0) :
    SameBut fl s₀ (State.charge a0 a1 a2) := by
  have kd : subL ps0 fl = true := subL_trans rfl hl
  unfold State.charge
  repeat' first
    | with_reducible assumption
    | (with_reducible intro x; try beta_reduce)
    | (extract_lets +onlyGivenNames v; refine (fun (hv : SameBut fl s₀ v) => ?_) ?_; (on_goal 1 => clear_value v); (on_goal 2 => (dsimp -zeta only [v]; try clear v)))
    | (extract_lets +onlyGivenNames v; refine (fun (hv : SameBut fl s₀ v.1) => ?_) ?_; (on_goal 1 => clear_value v); (on_goal 2 => (dsimp -zeta only [v]; try clear v)))
    | (extract_lets +onlyGivenNames v; first | (have w : Mem := v; clear w) | (have w : DictState := v; clear w) | (have w : Fw := v; clear w) | clear_value v)
    | with_reducible apply State_charge1_same hl
    | (with_reducible refine foldl_same _ _ ?_ ?_; on_goal 2 => (intro t x ht; try beta_reduce))
    | (with_reducible refine foldl_same₂ _ _ _ ?_ ?_; on_goal 2 => (intro t b x ht; try dsimp -zeta only))
    | ((simp -zeta only [frame_mk]; with_reducible refine frame_lit ps0 ?_ kd ?_); on_goal 2 => exact ⟨.inr rfl, .inr rfl, .inr rfl, .inr rfl, .inr rfl, .inr rfl, .inr rfl, .inr rfl, .inr rfl, .inr rfl, .inr rfl, .inr rfl, .inr rfl, .inr rfl, .inr rfl, .inr rfl, .inr rfl, .inr rfl, .inr rfl, .inr rfl, .inr rfl, .inr rfl, .inr rfl, .inr rfl, .inr rfl, .inr rfl, .inr rfl, .inr rfl, .inr rfl, .inr rfl, .inr rfl⟩)
    | with_reducible refine pair_same (by with_reducible assumption) ?_
    | split
    | (dsimp -zeta only)

theorem State_tierWrite_same {fl : List Facet} {s₀ : State} (hl : subL ps71 fl = true) (a0 : State) (a1 : Nat) (a2 : Nat) (a3 : SectorVal) (h0 : SameBut fl s₀ a0) :
    SameBut fl s₀ (State.tierWrite a0 a1 a2 a3) := by
  have kd : subL ps71 fl = true := subL_trans rfl hl
  unfold State.tierWrite
  repeat' first
    | with_reducible assumption
    | (with_reducible intro x; try beta_reduce)
    | (extract_lets +onlyGivenNames v; refine (fun (hv : SameBut fl s₀ v) => ?_) ?_; (on_goal 1 => clear_value v); (on_goal 2 => (dsimp -zeta only [v]; try clear v)))
    | (extract_lets +onlyGivenNames v; refine (fun (hv : SameBut fl s₀ v.1) => ?_) ?_; (on_goal 1 => clear_value v); (on_goal 2 => (dsimp -zeta only [v]; try clear v)))
    | (extract_lets +onlyGivenNames v; first | (have w : Mem := v; clear w) | (have w : DictState := v; clear w) | (have w : Fw := v; clear w) | clear_value v)
    | (with_reducible refine foldl_same _ _ ?_ ?_; on_goal 2 => (intro t x ht; try beta_reduce))
    | (with_reducible refine foldl_same₂ _ _ _ ?_ ?_; on_goal 2 => (intro t b x ht; try dsimp -zeta only))
    | ((simp -zeta only [frame_mk]; with_reducible refine frame_lit ps71 ?_ kd ?_); on_goal 2 => exact ⟨.inr rfl, .inr rfl, .inr rfl, .inr rfl, .inr rfl, .inr rfl, .inr rfl, .inr rfl, .inr rfl, .inr rfl, .inr rfl, .inr rfl, .inr rfl, .inr rfl, .inl rfl, .inl rfl, .inr rfl, .inl rfl, .inr rfl, .inr rfl, .inr rfl, .inr rfl, .inr rfl, .inr rfl, .inr rfl, .inr rfl, .inr rfl, .inr rfl, .inr rfl, .inr rfl, .inr rfl⟩)
    | with_reducible refine pair_same (by with_reducible assumption) ?_
    | split
    | (dsimp -zeta only)

theorem State_tierZero_same {fl : List Facet} {s₀ : State} (hl : subL ps71 fl = true) (a0 : State) (a1 : Nat) (a2 : Nat) (a3 : Nat) (h0 : SameBut fl s₀ a0) :
    SameBut fl s₀ (State.tierZero a0 a1 a2 a3) := by
  have kd : subL ps71 fl = true := subL_trans rfl hl
  unfold State.tierZero
  repeat' first
    | with_reducible assumption
    | (with_reducible intro x; try beta_reduce)
    | (extract_lets +onlyGivenNames v; refine (fun (hv : SameBut fl s₀ v) => ?_) ?_; (on_goal 1 => clear_value v); (on_goal 2 => (dsimp -zeta only [v]; try clear v)))
    | (extract_lets +onlyGivenNames v; refine (fun (hv : SameBut fl s₀ v.1) => ?_) ?_; (on_goal 1 => clear_value v); (on_goal 2 => (dsimp -zeta only [v]; try clear v)))
    | (extract_lets +onlyGivenNames v; first | (have w : Mem := v; clear w) | (have w : DictState := v; clear w) | (have w : Fw := v; clear w) | clear_value v)
    | (with_reducible refine foldl_same _ _ ?_ ?_; on_goal 2 => (intro t x ht; try beta_reduce))
    | (with_reducible refine foldl_same₂ _ _ _ ?_ ?_; on_goal 2 => (intro t b x ht; try dsimp -zeta only))
    | ((simp -zeta only [frame_mk]; with_reducible refine frame_lit ps71 ?_ kd ?_); on_goal 2 => exact ⟨.inr rfl, .inr rfl, .inr rfl, .inr rfl, .inr rfl, .inr rfl, .inr rfl, .inr rfl, .inr rfl, .inr rfl, .inr rfl, .inr rfl, .inr rfl, .inr rfl, .inl rfl, .inl rfl, .inr rfl, .inl rfl, .inr rfl, .inr rfl, .inr rfl, .inr rfl, .inr rfl, .inr rfl, .inr rfl, .inr rfl, .inr rfl, .inr rfl, .inr rfl, .inr rfl, .inr rfl⟩)
    | with_reducible refine pair_same (by with_reducible assumption) ?_
    | split
    | (dsimp -zeta only)

theorem State_fetch_same {fl : List Facet} {s₀ : State} (hl : subL ps86 fl = true) (a0 : State) (a1 : Nat) (a2 : Nat) (h0 : SameBut fl s₀ a0) :
    SameBut fl s₀ (State.fetch a0 a1 a2).1 := by
  have k_ps22 : subL ps22 fl = true := subL_trans rfl hl
  have k_ps29 : subL ps29 fl = true := subL_trans rfl hl
  have k_ps6 : subL ps6 fl = true := subL_trans rfl hl
  have k_ps8 : subL ps8 fl = true := subL_trans rfl hl
  have kd : subL ps0 fl = true := subL_trans rfl hl
  unfold State.fetch
  repeat' first
    | with_reducible assumption
    | (with_reducible intro x; try beta_reduce)
    | (extract_lets +onlyGivenNames v; refine (fun (hv : SameBut fl s₀ v) => ?_) ?_; (on_goal 1 => clear_value v); (on_goal 2 => (dsimp -zeta only [v]; try clear v)))
    | (extract_lets +onlyGivenNames v; refine (fun (hv : SameBut fl s₀ v.1) => ?_) ?_; (on_goal 1 => clear_value v); (on_goal 2 => (dsimp -zeta only [v]; try clear v)))
    | (extract_lets +onlyGivenNames v; first | (have w : Mem := v; clear w) | (have w : DictState := v; clear w) | (have w : Fw := v; clear w) | clear_value v)
    | with_reducible apply State_drawn_same k_ps8
    | with_reducible apply State_setPage_same k_ps22
    | with_reducible apply State_charge_same k_ps29
    | with_reducible apply State_bump_same k_ps6
    | (with_reducible refine foldl_same _ _ ?_ ?_; on_goal 2 => (intro t x ht; try beta_reduce))
    | (with_reducible refine foldl_same₂ _ _ _ ?_ ?_; on_goal 2 => (intro t b x ht; try dsimp -zeta only))
    | ((simp -zeta only [frame_mk]; with_reducible refine frame_lit ps0 ?_ kd ?_); on_goal 2 => exact ⟨.inr rfl, .inr rfl, .inr rfl, .inr rfl, .inr rfl, .inr rfl, .inr rfl, .inr rfl, .inr rfl, .inr rfl, .inr rfl, .inr rfl, .inr rfl, .inr rfl, .inr rfl, .inr rfl, .inr rfl, .inr rfl, .inr rfl, .inr rfl, .inr rfl, .inr rfl, .inr rfl, .inr rfl, .inr rfl, .inr rfl, .inr rfl, .inr rfl, .inr rfl, .inr rfl, .inr rfl⟩)
    | with_reducible refine pair_same (by with_reducible assumption) ?_
    | split
    | (dsimp -zeta only)

theorem State_zeroFill_same {fl : List Facet} {s₀ : State} (hl : subL ps107 fl = true) (a0 : State) (a1 : Nat) (a2 : Nat) (a3 : Page) (a4 : Nat) (h0 : SameBut fl s₀ a0) :
    SameBut fl s₀ (State.zeroFill a0 a1 a2 a3 a4).1 := by
  have k_ps22 : subL ps22 fl = true := subL_trans rfl hl
  have k_ps29 : subL ps29 fl = true := subL_trans rfl hl
  have k_ps71 : subL ps71 fl = true := subL_trans rfl hl
  unfold State.zeroFill
  repeat' first
    | with_reducible assumption
    | (extract_lets +onlyGivenNames v; refine (fun (hv : SameBut fl s₀ v) => ?_) ?_; (on_goal 1 => clear_value v); (on_goal 2 => (dsimp -zeta only [v]; try clear v)))
    | (extract_lets +onlyGivenNames v; first | (have w : Mem := v; clear w) | (have w : DictState := v; clear w) | (have w : Fw := v; clear w) | clear_value v)
    | with_reducible apply State_tierZero_same k_ps71
    | with_reducible apply State_charge_same k_ps29
    | with_reducible apply State_setPage_same k_ps22
    | (with_reducible refine foldl_same _ _ ?_ ?_; on_goal 2 => (intro t x ht; try beta_reduce))
    | split

theorem State_writeMem_same {fl : List Facet} {s₀ : State} (hl : subL ps107 fl = true) (a0 : State) (a1 : Nat) (a2 : SectorVal) (a3 : Nat) (h0 : SameBut fl s₀ a0) :
    SameBut fl s₀ (State.writeMem a0 a1 a2 a3) := by
  have k_ps22 : subL ps22 fl = true := subL_trans rfl hl
  have k_ps29 : subL ps29 fl = true := subL_trans rfl hl
  have k_ps6 : subL ps6 fl = true := subL_trans rfl hl
  have k_ps71 : subL ps71 fl = true := subL_trans rfl hl
  have kd : subL ps22 fl = true := subL_trans rfl hl
  unfold State.writeMem
  repeat' first
    | with_reducible assumption
    | (with_reducible intro x; try beta_reduce)
    | (extract_lets +onlyGivenNames v; refine (fun (hv : SameBut fl s₀ v) => ?_) ?_; (on_goal 1 => clear_value v); (on_goal 2 => (dsimp -zeta only [v]; try clear v)))
    | (extract_lets +onlyGivenNames v; refine (fun (hv : SameBut fl s₀ v.1) => ?_) ?_; (on_goal 1 => clear_value v); (on_goal 2 => (dsimp -zeta only [v]; try clear v)))
    | (extract_lets +onlyGivenNames v; first | (have w : Mem := v; clear w) | (have w : DictState := v; clear w) | (have w : Fw := v; clear w) | clear_value v)
    | with_reducible apply State_bump_same k_ps6
    | with_reducible apply State_setPage_same k_ps22
    | with_reducible apply State_zeroFill_same hl
    | with_reducible apply State_tierWrite_same k_ps71
    | with_reducible apply State_charge_same k_ps29
    | (with_reducible refine foldl_same _ _ ?_ ?_; on_goal 2 => (intro t x ht; try beta_reduce))
    | (with_reducible refine foldl_same₂ _ _ _ ?_ ?_; on_goal 2 => (intro t b x ht; try dsimp -zeta only))
    | ((simp -zeta only [frame_mk]; with_reducible refine frame_lit ps22 ?_ kd ?_); on_goal 2 => exact ⟨.inr rfl, .inr rfl, .inr rfl, .inr rfl, .inr rfl, .inr rfl, .inr rfl, .inr rfl, .inr rfl, .inr rfl, .inr rfl, .inr rfl, .inr rfl, .inr rfl, .inr rfl, .inr rfl, .inr rfl, .inl rfl, .inr rfl, .inr rfl, .inr rfl, .inr rfl, .inr rfl, .inr rfl, .inr rfl, .inr rfl, .inr rfl, .inr rfl, .inr rfl, .inr rfl, .inr rfl⟩)
    | with_reducible refine pair_same (by with_reducible assumption) ?_
    | split
    | (dsimp -zeta only)

theorem State_touch_same {fl : List Facet} {s₀ : State} (hl : subL ps9 fl = true) (a0 : State) (a1 : Nat) (h0 : SameBut fl s₀ a0) :
    SameBut fl s₀ (State.touch a0 a1) := by
  have kd : subL ps9 fl = true := subL_trans rfl hl
  unfold State.touch
  repeat' first
    | with_reducible assumption
    | (extract_lets +onlyGivenNames v; first | (have w : Mem := v; clear w) | (have w : DictState := v; clear w) | (have w : Fw := v; clear w) | clear_value v)
    | ((simp -zeta only [frame_mk]; with_reducible refine frame_lit ps9 ?_ kd ?_); on_goal 2 => exact ⟨.inr rfl, .inr rfl, .inr rfl, .inr rfl, .inr rfl, .inr rfl, .inr rfl, .inr rfl, .inr rfl, .inr rfl, .inr rfl, .inr rfl, .inr rfl, .inl rfl, .inr rfl, .inr rfl, .inr rfl, .inr rfl, .inr rfl, .inr rfl, .inr rfl, .inr rfl, .inr rfl, .inr rfl, .inr rfl, .inr rfl, .inr rfl, .inr rfl, .inr rfl, .inr rfl, .inr rfl⟩)
    | split

theorem State_setLine_same {fl : List Facet} {s₀ : State} (hl : subL ps9 fl = true) (a0 : State) (a1 : Nat) (a2 : FLine) (h0 : SameBut fl s₀ a0) :
    SameBut fl s₀ (State.setLine a0 a1 a2) := by
  have kd : subL ps9 fl = true := subL_trans rfl hl
  unfold State.setLine
  repeat' first
    | with_reducible assumption
    | (extract_lets +onlyGivenNames v; first | (have w : Mem := v; clear w) | (have w : DictState := v; clear w) | (have w : Fw := v; clear w) | clear_value v)
    | ((simp -zeta only [frame_mk]; with_reducible refine frame_lit ps9 ?_ kd ?_); on_goal 2 => exact ⟨.inr rfl, .inr rfl, .inr rfl, .inr rfl, .inr rfl, .inr rfl, .inr rfl, .inr rfl, .inr rfl, .inr rfl, .inr rfl, .inr rfl, .inr rfl, .inl rfl, .inr rfl, .inr rfl, .inr rfl, .inr rfl, .inr rfl, .inr rfl, .inr rfl, .inr rfl, .inr rfl, .inr rfl, .inr rfl, .inr rfl, .inr rfl, .inr rfl, .inr rfl, .inr rfl, .inr rfl⟩)

theorem State_delLine_same {fl : List Facet} {s₀ : State} (hl : subL ps9 fl = true) (a0 : State) (a1 : Nat) (h0 : SameBut fl s₀ a0) :
    SameBut fl s₀ (State.delLine a0 a1) := by
  have kd : subL ps9 fl = true := subL_trans rfl hl
  unfold State.delLine
  repeat' first
    | with_reducible assumption
    | (extract_lets +onlyGivenNames v; first | (have w : Mem := v; clear w) | (have w : DictState := v; clear w) | (have w : Fw := v; clear w) | clear_value v)
    | ((simp -zeta only [frame_mk]; with_reducible refine frame_lit ps9 ?_ kd ?_); on_goal 2 => exact ⟨.inr rfl, .inr rfl, .inr rfl, .inr rfl, .inr rfl, .inr rfl, .inr rfl, .inr rfl, .inr rfl, .inr rfl, .inr rfl, .inr rfl, .inr rfl, .inl rfl, .inr rfl, .inr rfl, .inr rfl, .inr rfl, .inr rfl, .inr rfl, .inr rfl, .inr rfl, .inr rfl, .inr rfl, .inr rfl, .inr rfl, .inr rfl, .inr rfl, .inr rfl, .inr rfl, .inr rfl⟩)

theorem State_writeBack_same {fl : List Facet} {s₀ : State} (hl : subL ps107 fl = true) (a0 : State) (a1 : Nat) (a2 : FLine) (a3 : Nat) (h0 : SameBut fl s₀ a0) :
    SameBut fl s₀ (State.writeBack a0 a1 a2 a3) := by
  unfold State.writeBack
  repeat' first
    | with_reducible assumption
    | with_reducible apply State_writeMem_same hl
    | (with_reducible refine foldl_same _ _ ?_ ?_; on_goal 2 => (intro t x ht; try beta_reduce))
    | split

theorem State_deferOldest_same {fl : List Facet} {s₀ : State} (hl : subL ps32 fl = true) (a0 : State) (a1 : List (Nat × FLine)) (h0 : SameBut fl s₀ a0) :
    SameBut fl s₀ (State.deferOldest a0 a1) := by
  have k_ps6 : subL ps6 fl = true := subL_trans rfl hl
  have k_ps9 : subL ps9 fl = true := subL_trans rfl hl
  unfold State.deferOldest
  repeat' first
    | with_reducible assumption
    | (extract_lets +onlyGivenNames v; first | (have w : Mem := v; clear w) | (have w : DictState := v; clear w) | (have w : Fw := v; clear w) | clear_value v)
    | with_reducible apply State_bump_same k_ps6
    | with_reducible apply State_setLine_same k_ps9
    | split

theorem State_keepDefer_same {fl : List Facet} {s₀ : State} (hl : subL ps32 fl = true) (a0 : State) (a1 : State) (h0 : SameBut fl s₀ a0) (h1 : SameBut fl s₀ a1) :
    SameBut fl s₀ (State.keepDefer a0 a1) := by
  have k_ps6 : subL ps6 fl = true := subL_trans rfl hl
  have k_ps9 : subL ps9 fl = true := subL_trans rfl hl
  have kd : subL ps0 fl = true := subL_trans rfl hl
  unfold State.keepDefer
  repeat' first
    | with_reducible assumption
    | (with_reducible intro x; try beta_reduce)
    | (extract_lets +onlyGivenNames v; refine (fun (hv : SameBut fl s₀ v) => ?_) ?_; (on_goal 1 => clear_value v); (on_goal 2 => (dsimp -zeta only [v]; try clear v)))
    | (extract_lets +onlyGivenNames v; refine (fun (hv : SameBut fl s₀ v.1) => ?_) ?_; (on_goal 1 => clear_value v); (on_goal 2 => (dsimp -zeta only [v]; try clear v)))
    | (extract_lets +onlyGivenNames v; first | (have w : Mem := v; clear w) | (have w : DictState := v; clear w) | (have w : Fw := v; clear w) | clear_value v)
    | with_reducible apply State_bump_same k_ps6
    | with_reducible apply State_setLine_same k_ps9
    | (with_reducible refine foldl_same _ _ ?_ ?_; on_goal 2 => (intro t x ht; try beta_reduce))
    | (with_reducible refine foldl_same₂ _ _ _ ?_ ?_; on_goal 2 => (intro t b x ht; try dsimp -zeta only))
    | ((simp -zeta only [frame_mk]; with_reducible refine frame_lit ps0 ?_ kd ?_); on_goal 2 => exact ⟨.inr rfl, .inr rfl, .inr rfl, .inr rfl, .inr rfl, .inr rfl, .inr rfl, .inr rfl, .inr rfl, .inr rfl, .inr rfl, .inr rfl, .inr rfl, .inr rfl, .inr rfl, .inr rfl, .inr rfl, .inr rfl, .inr rfl, .inr rfl, .inr rfl, .inr rfl, .inr rfl, .inr rfl, .inr rfl, .inr rfl, .inr rfl, .inr rfl, .inr rfl, .inr rfl, .inr rfl⟩)
    | with_reducible refine pair_same (by with_reducible assumption) ?_
    | split
    | (dsimp -zeta only)

theorem State_findWay_same {fl : List Facet} {s₀ : State} (hl : subL ps120 fl = true) (a0 : State) (a1 : Nat) (a2 : Nat) (h0 : SameBut fl s₀ a0) :
    SameBut fl s₀ (State.findWay a0 a1 a2).1 := by
  have k_ps107 : subL ps107 fl = true := subL_trans rfl hl
  have k_ps32 : subL ps32 fl = true := subL_trans rfl hl
  have k_ps9 : subL ps9 fl = true := subL_trans rfl hl
  unfold State.findWay
  repeat' first
    | with_reducible assumption
    | (extract_lets +onlyGivenNames v; first | (have w : Mem := v; clear w) | (have w : DictState := v; clear w) | (have w : Fw := v; clear w) | clear_value v)
    | with_reducible apply State_delLine_same k_ps9
    | with_reducible apply State_writeBack_same k_ps107
    | with_reducible apply State_deferOldest_same k_ps32
    | split

theorem State_allocate_same {fl : List Facet} {s₀ : State} (hl : subL ps120 fl = true) (a0 : State) (a1 : Nat) (a2 : Nat) (a3 : List FSector) (h0 : SameBut fl s₀ a0) :
    SameBut fl s₀ (State.allocate a0 a1 a2 a3).1 := by
  have k_ps9 : subL ps9 fl = true := subL_trans rfl hl
  unfold State.allocate
  repeat' first
    | with_reducible assumption
    | (extract_lets +onlyGivenNames v; first | (have w : Mem := v; clear w) | (have w : DictState := v; clear w) | (have w : Fw := v; clear w) | clear_value v)
    | with_reducible apply State_findWay_same hl
    | with_reducible apply State_setLine_same k_ps9
    | with_reducible refine pair_same (by with_reducible assumption) ?_
    | split

theorem State_tlbFill_same {fl : List Facet} {s₀ : State} (hl : subL ps22 fl = true) (a0 : State) (a1 : Nat) (a2 : Nat) (h0 : SameBut fl s₀ a0) :
    SameBut fl s₀ (State.tlbFill a0 a1 a2) := by
  have kd : subL ps22 fl = true := subL_trans rfl hl
  unfold State.tlbFill
  repeat' first
    | with_reducible assumption
    | (extract_lets +onlyGivenNames v; first | (have w : Mem := v; clear w) | (have w : DictState := v; clear w) | (have w : Fw := v; clear w) | clear_value v)
    | ((simp -zeta only [frame_mk]; with_reducible refine frame_lit ps22 ?_ kd ?_); on_goal 2 => exact ⟨.inr rfl, .inr rfl, .inr rfl, .inr rfl, .inr rfl, .inr rfl, .inr rfl, .inr rfl, .inr rfl, .inr rfl, .inr rfl, .inr rfl, .inr rfl, .inr rfl, .inr rfl, .inr rfl, .inr rfl, .inl rfl, .inr rfl, .inr rfl, .inr rfl, .inr rfl, .inr rfl, .inr rfl, .inr rfl, .inr rfl, .inr rfl, .inr rfl, .inr rfl, .inr rfl, .inr rfl⟩)
    | split

theorem State_walkFill_same {fl : List Facet} {s₀ : State} (hl : subL ps22 fl = true) (a0 : State) (a1 : Nat) (a2 : Nat) (h0 : SameBut fl s₀ a0) :
    SameBut fl s₀ (State.walkFill a0 a1 a2) := by
  have kd : subL ps22 fl = true := subL_trans rfl hl
  unfold State.walkFill
  repeat' first
    | with_reducible assumption
    | (with_reducible intro x; try beta_reduce)
    | (extract_lets +onlyGivenNames v; refine (fun (hv : SameBut fl s₀ v) => ?_) ?_; (on_goal 1 => clear_value v); (on_goal 2 => (dsimp -zeta only [v]; try clear v)))
    | (extract_lets +onlyGivenNames v; refine (fun (hv : SameBut fl s₀ v.1) => ?_) ?_; (on_goal 1 => clear_value v); (on_goal 2 => (dsimp -zeta only [v]; try clear v)))
    | (extract_lets +onlyGivenNames v; first | (have w : Mem := v; clear w) | (have w : DictState := v; clear w) | (have w : Fw := v; clear w) | clear_value v)
    | (with_reducible refine foldl_same _ _ ?_ ?_; on_goal 2 => (intro t x ht; try beta_reduce))
    | (with_reducible refine foldl_same₂ _ _ _ ?_ ?_; on_goal 2 => (intro t b x ht; try dsimp -zeta only))
    | ((simp -zeta only [frame_mk]; with_reducible refine frame_lit ps22 ?_ kd ?_); on_goal 2 => exact ⟨.inr rfl, .inr rfl, .inr rfl, .inr rfl, .inr rfl, .inr rfl, .inr rfl, .inr rfl, .inr rfl, .inr rfl, .inr rfl, .inr rfl, .inr rfl, .inr rfl, .inr rfl, .inr rfl, .inr rfl, .inl rfl, .inr rfl, .inr rfl, .inr rfl, .inr rfl, .inr rfl, .inr rfl, .inr rfl, .inr rfl, .inr rfl, .inr rfl, .inr rfl, .inr rfl, .inr rfl⟩)
    | with_reducible refine pair_same (by with_reducible assumption) ?_
    | split
    | (dsimp -zeta only)

theorem State_translate_same {fl : List Facet} {s₀ : State} (hl : subL ps36 fl = true) (a0 : State) (a1 : Nat) (a2 : Nat) (h0 : SameBut fl s₀ a0) :
    SameBut fl s₀ (State.translate a0 a1 a2) := by
  have k_ps22 : subL ps22 fl = true := subL_trans rfl hl
  have k_ps6 : subL ps6 fl = true := subL_trans rfl hl
  have kd : subL ps0 fl = true := subL_trans rfl hl
  unfold State.translate
  repeat' first
    | with_reducible assumption
    | (with_reducible intro x; try beta_reduce)
    | (extract_lets +onlyGivenNames v; refine (fun (hv : SameBut fl s₀ v) => ?_) ?_; (on_goal 1 => clear_value v); (on_goal 2 => (dsimp -zeta only [v]; try clear v)))
    | (extract_lets +onlyGivenNames v; refine (fun (hv : SameBut fl s₀ v.1) => ?_) ?_; (on_goal 1 => clear_value v); (on_goal 2 => (dsimp -zeta only [v]; try clear v)))
    | (extract_lets +onlyGivenNames v; first | (have w : Mem := v; clear w) | (have w : DictState := v; clear w) | (have w : Fw := v; clear w) | clear_value v)
    | with_reducible apply State_tlbFill_same k_ps22
    | with_reducible apply State_bump_same k_ps6
    | with_reducible apply State_walkFill_same k_ps22
    | (with_reducible refine foldl_same _ _ ?_ ?_; on_goal 2 => (intro t x ht; try beta_reduce))
    | (with_reducible refine foldl_same₂ _ _ _ ?_ ?_; on_goal 2 => (intro t b x ht; try dsimp -zeta only))
    | ((simp -zeta only [frame_mk]; with_reducible refine frame_lit ps0 ?_ kd ?_); on_goal 2 => exact ⟨.inr rfl, .inr rfl, .inr rfl, .inr rfl, .inr rfl, .inr rfl, .inr rfl, .inr rfl, .inr rfl, .inr rfl, .inr rfl, .inr rfl, .inr rfl, .inr rfl, .inr rfl, .inr rfl, .inr rfl, .inr rfl, .inr rfl, .inr rfl, .inr rfl, .inr rfl, .inr rfl, .inr rfl, .inr rfl, .inr rfl, .inr rfl, .inr rfl, .inr rfl, .inr rfl, .inr rfl⟩)
    | with_reducible refine pair_same (by with_reducible assumption) ?_
    | split
    | (dsimp -zeta only)

theorem State_deadRead_same {fl : List Facet} {s₀ : State} (hl : subL ps63 fl = true) (a0 : State) (a1 : Nat) (a2 : Nat) (h0 : SameBut fl s₀ a0) :
    SameBut fl s₀ (State.deadRead a0 a1 a2) := by
  have k_ps14 : subL ps14 fl = true := subL_trans rfl hl
  have k_ps6 : subL ps6 fl = true := subL_trans rfl hl
  unfold State.deadRead
  repeat' first
    | with_reducible assumption
    | (extract_lets +onlyGivenNames v; refine (fun (hv : SameBut fl s₀ v) => ?_) ?_; (on_goal 1 => clear_value v); (on_goal 2 => (dsimp -zeta only [v]; try clear v)))
    | with_reducible apply State_bump_same k_ps6
    | with_reducible apply State_log_same hl
    | with_reducible apply State_limitMark_same k_ps14
    | split

theorem State_deadMarkers_same {fl : List Facet} {s₀ : State} (hl : subL ps107 fl = true) (a0 : State) (a1 : Nat) (h0 : SameBut fl s₀ a0) :
    SameBut fl s₀ (State.deadMarkers a0 a1) := by
  have kd : subL ps0 fl = true := subL_trans rfl hl
  unfold State.deadMarkers
  repeat' first
    | with_reducible assumption
    | (with_reducible intro x; try beta_reduce)
    | (extract_lets +onlyGivenNames v; refine (fun (hv : SameBut fl s₀ v) => ?_) ?_; (on_goal 1 => clear_value v); (on_goal 2 => (dsimp -zeta only [v]; try clear v)))
    | (extract_lets +onlyGivenNames v; refine (fun (hv : SameBut fl s₀ v.1) => ?_) ?_; (on_goal 1 => clear_value v); (on_goal 2 => (dsimp -zeta only [v]; try clear v)))
    | (extract_lets +onlyGivenNames v; first | (have w : Mem := v; clear w) | (have w : DictState := v; clear w) | (have w : Fw := v; clear w) | clear_value v)
    | with_reducible apply State_writeMem_same hl
    | (with_reducible refine foldl_same _ _ ?_ ?_; on_goal 2 => (intro t x ht; try beta_reduce))
    | (with_reducible refine foldl_same₂ _ _ _ ?_ ?_; on_goal 2 => (intro t b x ht; try dsimp -zeta only))
    | ((simp -zeta only [frame_mk]; with_reducible refine frame_lit ps0 ?_ kd ?_); on_goal 2 => exact ⟨.inr rfl, .inr rfl, .inr rfl, .inr rfl, .inr rfl, .inr rfl, .inr rfl, .inr rfl, .inr rfl, .inr rfl, .inr rfl, .inr rfl, .inr rfl, .inr rfl, .inr rfl, .inr rfl, .inr rfl, .inr rfl, .inr rfl, .inr rfl, .inr rfl, .inr rfl, .inr rfl, .inr rfl, .inr rfl, .inr rfl, .inr rfl, .inr rfl, .inr rfl, .inr rfl, .inr rfl⟩)
    | with_reducible refine pair_same (by with_reducible assumption) ?_
    | split
    | (dsimp -zeta only)

theorem State_undead_same {fl : List Facet} {s₀ : State} (hl : subL ps9 fl = true) (a0 : State) (a1 : Nat) (h0 : SameBut fl s₀ a0) :
    SameBut fl s₀ (State.undead a0 a1) := by
  have kd : subL ps9 fl = true := subL_trans rfl hl
  unfold State.undead
  repeat' first
    | with_reducible assumption
    | (extract_lets +onlyGivenNames v; first | (have w : Mem := v; clear w) | (have w : DictState := v; clear w) | (have w : Fw := v; clear w) | clear_value v)
    | ((simp -zeta only [frame_mk]; with_reducible refine frame_lit ps9 ?_ kd ?_); on_goal 2 => exact ⟨.inr rfl, .inr rfl, .inr rfl, .inr rfl, .inr rfl, .inr rfl, .inr rfl, .inr rfl, .inr rfl, .inr rfl, .inr rfl, .inr rfl, .inr rfl, .inl rfl, .inr rfl, .inr rfl, .inr rfl, .inr rfl, .inr rfl, .inr rfl, .inr rfl, .inr rfl, .inr rfl, .inr rfl, .inr rfl, .inr rfl, .inr rfl, .inr rfl, .inr rfl, .inr rfl, .inr rfl⟩)

theorem State_makeDead_same {fl : List Facet} {s₀ : State} (hl : subL ps120 fl = true) (a0 : State) (a1 : Nat) (h0 : SameBut fl s₀ a0) :
    SameBut fl s₀ (State.makeDead a0 a1) := by
  have k_ps107 : subL ps107 fl = true := subL_trans rfl hl
  have k_ps9 : subL ps9 fl = true := subL_trans rfl hl
  have kd : subL ps9 fl = true := subL_trans rfl hl
  unfold State.makeDead
  repeat' first
    | with_reducible assumption
    | (extract_lets +onlyGivenNames v; refine (fun (hv : SameBut fl s₀ v) => ?_) ?_; (on_goal 1 => clear_value v); (on_goal 2 => (dsimp -zeta only [v]; try clear v)))
    | (extract_lets +onlyGivenNames v; first | (have w : Mem := v; clear w) | (have w : DictState := v; clear w) | (have w : Fw := v; clear w) | clear_value v)
    | with_reducible apply State_undead_same k_ps9
    | with_reducible apply State_deadMarkers_same k_ps107
    | ((simp -zeta only [frame_mk]; with_reducible refine frame_lit ps9 ?_ kd ?_); on_goal 2 => exact ⟨.inr rfl, .inr rfl, .inr rfl, .inr rfl, .inr rfl, .inr rfl, .inr rfl, .inr rfl, .inr rfl, .inr rfl, .inr rfl, .inr rfl, .inr rfl, .inl rfl, .inr rfl, .inr rfl, .inr rfl, .inr rfl, .inr rfl, .inr rfl, .inr rfl, .inr rfl, .inr rfl, .inr rfl, .inr rfl, .inr rfl, .inr rfl, .inr rfl, .inr rfl, .inr rfl, .inr rfl⟩)
    | split

theorem State_delivered_same {fl : List Facet} {s₀ : State} (hl : subL ps85 fl = true) (a0 : State) (a1 : Nat) (a2 : Nat) (a3 : SectorVal) (h0 : SameBut fl s₀ a0) :
    SameBut fl s₀ (State.delivered a0 a1 a2 a3).1 := by
  have k_ps63 : subL ps63 fl = true := subL_trans rfl hl
  have k_ps8 : subL ps8 fl = true := subL_trans rfl hl
  unfold State.delivered
  repeat' first
    | with_reducible assumption
    | with_reducible apply State_drawn_same k_ps8
    | with_reducible apply State_deadRead_same k_ps63
    | split

theorem State_sectorServed_same {fl : List Facet} {s₀ : State} (hl : subL ps118 fl = true) (a0 : State) (a1 : Nat) (a2 : Nat) (a3 : Nat) (a4 : SectorVal) (h0 : SameBut fl s₀ a0) :
    SameBut fl s₀ (State.sectorServed a0 a1 a2 a3 a4).1 := by
  have k_ps29 : subL ps29 fl = true := subL_trans rfl hl
  have k_ps6 : subL ps6 fl = true := subL_trans rfl hl
  have k_ps85 : subL ps85 fl = true := subL_trans rfl hl
  have k_ps9 : subL ps9 fl = true := subL_trans rfl hl
  have kd : subL ps0 fl = true := subL_trans rfl hl
  unfold State.sectorServed
  repeat' first
    | with_reducible assumption
    | (with_reducible intro x; try beta_reduce)
    | (extract_lets +onlyGivenNames v; refine (fun (hv : SameBut fl s₀ v) => ?_) ?_; (on_goal 1 => clear_value v); (on_goal 2 => (dsimp -zeta only [v]; try clear v)))
    | (extract_lets +onlyGivenNames v; refine (fun (hv : SameBut fl s₀ v.1) => ?_) ?_; (on_goal 1 => clear_value v); (on_goal 2 => (dsimp -zeta only [v]; try clear v)))
    | (extract_lets +onlyGivenNames v; first | (have w : Mem := v; clear w) | (have w : DictState := v; clear w) | (have w : Fw := v; clear w) | clear_value v)
    | with_reducible apply State_delivered_same k_ps85
    | with_reducible apply State_touch_same k_ps9
    | with_reducible apply State_bump_same k_ps6
    | with_reducible apply State_charge_same k_ps29
    | (with_reducible refine foldl_same _ _ ?_ ?_; on_goal 2 => (intro t x ht; try beta_reduce))
    | (with_reducible refine foldl_same₂ _ _ _ ?_ ?_; on_goal 2 => (intro t b x ht; try dsimp -zeta only))
    | ((simp -zeta only [frame_mk]; with_reducible refine frame_lit ps0 ?_ kd ?_); on_goal 2 => exact ⟨.inr rfl, .inr rfl, .inr rfl, .inr rfl, .inr rfl, .inr rfl, .inr rfl, .inr rfl, .inr rfl, .inr rfl, .inr rfl, .inr rfl, .inr rfl, .inr rfl, .inr rfl, .inr rfl, .inr rfl, .inr rfl, .inr rfl, .inr rfl, .inr rfl, .inr rfl, .inr rfl, .inr rfl, .inr rfl, .inr rfl, .inr rfl, .inr rfl, .inr rfl, .inr rfl, .inr rfl⟩)
    | with_reducible refine pair_same (by with_reducible assumption) ?_
    | split
    | (dsimp -zeta only)

theorem State_fetchRead_same {fl : List Facet} {s₀ : State} (hl : subL ps124 fl = true) (a0 : State) (a1 : Nat) (a2 : Nat) (a3 : Nat) (h0 : SameBut fl s₀ a0) :
    SameBut fl s₀ (State.fetchRead a0 a1 a2 a3).1 := by
  have k_ps118 : subL ps118 fl = true := subL_trans rfl hl
  have k_ps36 : subL ps36 fl = true := subL_trans rfl hl
  have k_ps86 : subL ps86 fl = true := subL_trans rfl hl
  have k_ps9 : subL ps9 fl = true := subL_trans rfl hl
  have kd : subL ps0 fl = true := subL_trans rfl hl
  unfold State.fetchRead
  repeat' first
    | with_reducible assumption
    | (with_reducible intro x; try beta_reduce)
    | (extract_lets +onlyGivenNames v; refine (fun (hv : SameBut fl s₀ v) => ?_) ?_; (on_goal 1 => clear_value v); (on_goal 2 => (dsimp -zeta only [v]; try clear v)))
    | (extract_lets +onlyGivenNames v; refine (fun (hv : SameBut fl s₀ v.1) => ?_) ?_; (on_goal 1 => clear_value v); (on_goal 2 => (dsimp -zeta only [v]; try clear v)))
    | (extract_lets +onlyGivenNames v; first | (have w : Mem := v; clear w) | (have w : DictState := v; clear w) | (have w : Fw := v; clear w) | clear_value v)
    | with_reducible apply State_translate_same k_ps36
    | with_reducible apply State_fetch_same k_ps86
    | with_reducible apply State_sectorServed_same k_ps118
    | with_reducible apply State_setLine_same k_ps9
    | (with_reducible refine foldl_same _ _ ?_ ?_; on_goal 2 => (intro t x ht; try beta_reduce))
    | (with_reducible refine foldl_same₂ _ _ _ ?_ ?_; on_goal 2 => (intro t b x ht; try dsimp -zeta only))
    | ((simp -zeta only [frame_mk]; with_reducible refine frame_lit ps0 ?_ kd ?_); on_goal 2 => exact ⟨.inr rfl, .inr rfl, .inr rfl, .inr rfl, .inr rfl, .inr rfl, .inr rfl, .inr rfl, .inr rfl, .inr rfl, .inr rfl, .inr rfl, .inr rfl, .inr rfl, .inr rfl, .inr rfl, .inr rfl, .inr rfl, .inr rfl, .inr rfl, .inr rfl, .inr rfl, .inr rfl, .inr rfl, .inr rfl, .inr rfl, .inr rfl, .inr rfl, .inr rfl, .inr rfl, .inr rfl⟩)
    | with_reducible refine pair_same (by with_reducible assumption) ?_
    | split
    | (dsimp -zeta only)

theorem State_bankRead_same {fl : List Facet} {s₀ : State} (hl : subL ps141 fl = true) (a0 : State) (a1 : Nat) (a2 : Nat) (a3 : Nat) (h0 : SameBut fl s₀ a0) :
    SameBut fl s₀ (State.bankRead a0 a1 a2 a3).1 := by
  have k_ps118 : subL ps118 fl = true := subL_trans rfl hl
  have k_ps120 : subL ps120 fl = true := subL_trans rfl hl
  have k_ps124 : subL ps124 fl = true := subL_trans rfl hl
  have kd : subL ps0 fl = true := subL_trans rfl hl
  unfold State.bankRead
  repeat' first
    | with_reducible assumption
    | (with_reducible intro x; try beta_reduce)
    | (extract_lets +onlyGivenNames v; refine (fun (hv : SameBut fl s₀ v) => ?_) ?_; (on_goal 1 => clear_value v); (on_goal 2 => (dsimp -zeta only [v]; try clear v)))
    | (extract_lets +onlyGivenNames v; refine (fun (hv : SameBut fl s₀ v.1) => ?_) ?_; (on_goal 1 => clear_value v); (on_goal 2 => (dsimp -zeta only [v]; try clear v)))
    | (extract_lets +onlyGivenNames v; first | (have w : Mem := v; clear w) | (have w : DictState := v; clear w) | (have w : Fw := v; clear w) | clear_value v)
    | with_reducible apply State_sectorServed_same k_ps118
    | with_reducible apply State_fetchRead_same k_ps124
    | with_reducible apply State_allocate_same k_ps120
    | (with_reducible refine foldl_same _ _ ?_ ?_; on_goal 2 => (intro t x ht; try beta_reduce))
    | (with_reducible refine foldl_same₂ _ _ _ ?_ ?_; on_goal 2 => (intro t b x ht; try dsimp -zeta only))
    | ((simp -zeta only [frame_mk]; with_reducible refine frame_lit ps0 ?_ kd ?_); on_goal 2 => exact ⟨.inr rfl, .inr rfl, .inr rfl, .inr rfl, .inr rfl, .inr rfl, .inr rfl, .inr rfl, .inr rfl, .inr rfl, .inr rfl, .inr rfl, .inr rfl, .inr rfl, .inr rfl, .inr rfl, .inr rfl, .inr rfl, .inr rfl, .inr rfl, .inr rfl, .inr rfl, .inr rfl, .inr rfl, .inr rfl, .inr rfl, .inr rfl, .inr rfl, .inr rfl, .inr rfl, .inr rfl⟩)
    | with_reducible refine pair_same (by with_reducible assumption) ?_
    | split
    | (dsimp -zeta only)

theorem State_lineForStore_same {fl : List Facet} {s₀ : State} (hl : subL ps120 fl = true) (a0 : State) (a1 : Nat) (a2 : Nat) (h0 : SameBut fl s₀ a0) :
    SameBut fl s₀ (State.lineForStore a0 a1 a2).1 := by
  have k_ps36 : subL ps36 fl = true := subL_trans rfl hl
  have k_ps9 : subL ps9 fl = true := subL_trans rfl hl
  unfold State.lineForStore
  repeat' first
    | with_reducible assumption
    | (extract_lets +onlyGivenNames v; refine (fun (hv : SameBut fl s₀ v) => ?_) ?_; (on_goal 1 => clear_value v); (on_goal 2 => (dsimp -zeta only [v]; try clear v)))
    | (extract_lets +onlyGivenNames v; first | (have w : Mem := v; clear w) | (have w : DictState := v; clear w) | (have w : Fw := v; clear w) | clear_value v)
    | with_reducible apply State_translate_same k_ps36
    | with_reducible apply State_allocate_same hl
    | with_reducible apply State_undead_same k_ps9
    | with_reducible refine pair_same (by with_reducible assumption) ?_
    | split

theorem State_stored_same {fl : List Facet} {s₀ : State} (hl : subL ps9 fl = true) (a0 : State) (a1 : Nat) (h0 : SameBut fl s₀ a0) :
    SameBut fl s₀ (State.stored a0 a1) := by
  have kd : subL ps9 fl = true := subL_trans rfl hl
  unfold State.stored
  repeat' first
    | with_reducible assumption
    | (with_reducible intro x; try beta_reduce)
    | (extract_lets +onlyGivenNames v; refine (fun (hv : SameBut fl s₀ v) => ?_) ?_; (on_goal 1 => clear_value v); (on_goal 2 => (dsimp -zeta only [v]; try clear v)))
    | (extract_lets +onlyGivenNames v; refine (fun (hv : SameBut fl s₀ v.1) => ?_) ?_; (on_goal 1 => clear_value v); (on_goal 2 => (dsimp -zeta only [v]; try clear v)))
    | (extract_lets +onlyGivenNames v; first | (have w : Mem := v; clear w) | (have w : DictState := v; clear w) | (have w : Fw := v; clear w) | clear_value v)
    | (with_reducible refine foldl_same _ _ ?_ ?_; on_goal 2 => (intro t x ht; try beta_reduce))
    | (with_reducible refine foldl_same₂ _ _ _ ?_ ?_; on_goal 2 => (intro t b x ht; try dsimp -zeta only))
    | ((simp -zeta only [frame_mk]; with_reducible refine frame_lit ps9 ?_ kd ?_); on_goal 2 => exact ⟨.inr rfl, .inr rfl, .inr rfl, .inr rfl, .inr rfl, .inr rfl, .inr rfl, .inr rfl, .inr rfl, .inr rfl, .inr rfl, .inr rfl, .inr rfl, .inl rfl, .inr rfl, .inr rfl, .inr rfl, .inr rfl, .inr rfl, .inr rfl, .inr rfl, .inr rfl, .inr rfl, .inr rfl, .inr rfl, .inr rfl, .inr rfl, .inr rfl, .inr rfl, .inr rfl, .inr rfl⟩)
    | with_reducible refine pair_same (by with_reducible assumption) ?_
    | split
    | (dsimp -zeta only)

theorem State_bankStore_same {fl : List Facet} {s₀ : State} (hl : subL ps123 fl = true) (a0 : State) (a1 : Nat) (a2 : Nat) (a3 : Bytes) (a4 : Option PoisonClass) (a5 : Nat) (h0 : SameBut fl s₀ a0) :
    SameBut fl s₀ (State.bankStore a0 a1 a2 a3 a4 a5).1 := by
  have k_ps120 : subL ps120 fl = true := subL_trans rfl hl
  have k_ps29 : subL ps29 fl = true := subL_trans rfl hl
  have k_ps86 : subL ps86 fl = true := subL_trans rfl hl
  have k_ps9 : subL ps9 fl = true := subL_trans rfl hl
  have kd : subL ps0 fl = true := subL_trans rfl hl
  unfold State.bankStore
  repeat' first
    | with_reducible assumption
    | (with_reducible intro x; try beta_reduce)
    | (extract_lets +onlyGivenNames v; refine (fun (hv : SameBut fl s₀ v) => ?_) ?_; (on_goal 1 => clear_value v); (on_goal 2 => (dsimp -zeta only [v]; try clear v)))
    | (extract_lets +onlyGivenNames v; refine (fun (hv : SameBut fl s₀ v.1) => ?_) ?_; (on_goal 1 => clear_value v); (on_goal 2 => (dsimp -zeta only [v]; try clear v)))
    | (extract_lets +onlyGivenNames v; first | (have w : Mem := v; clear w) | (have w : DictState := v; clear w) | (have w : Fw := v; clear w) | clear_value v)
    | with_reducible apply State_lineForStore_same k_ps120
    | with_reducible apply State_fetch_same k_ps86
    | with_reducible apply State_charge_same k_ps29
    | with_reducible apply State_touch_same k_ps9
    | with_reducible apply State_stored_same k_ps9
    | with_reducible apply State_setLine_same k_ps9
    | (with_reducible refine foldl_same _ _ ?_ ?_; on_goal 2 => (intro t x ht; try beta_reduce))
    | (with_reducible refine foldl_same₂ _ _ _ ?_ ?_; on_goal 2 => (intro t b x ht; try dsimp -zeta only))
    | ((simp -zeta only [frame_mk]; with_reducible refine frame_lit ps0 ?_ kd ?_); on_goal 2 => exact ⟨.inr rfl, .inr rfl, .inr rfl, .inr rfl, .inr rfl, .inr rfl, .inr rfl, .inr rfl, .inr rfl, .inr rfl, .inr rfl, .inr rfl, .inr rfl, .inr rfl, .inr rfl, .inr rfl, .inr rfl, .inr rfl, .inr rfl, .inr rfl, .inr rfl, .inr rfl, .inr rfl, .inr rfl, .inr rfl, .inr rfl, .inr rfl, .inr rfl, .inr rfl, .inr rfl, .inr rfl⟩)
    | with_reducible refine pair_same (by with_reducible assumption) ?_
    | split
    | (dsimp -zeta only)

theorem State_bankDrop_same {fl : List Facet} {s₀ : State} (hl : subL ps120 fl = true) (a0 : State) (a1 : Nat) (h0 : SameBut fl s₀ a0) :
    SameBut fl s₀ (State.bankDrop a0 a1).1 := by
  have k_ps6 : subL ps6 fl = true := subL_trans rfl hl
  have k_ps9 : subL ps9 fl = true := subL_trans rfl hl
  have kd : subL ps0 fl = true := subL_trans rfl hl
  unfold State.bankDrop
  repeat' first
    | with_reducible assumption
    | (with_reducible intro x; try beta_reduce)
    | (extract_lets +onlyGivenNames v; refine (fun (hv : SameBut fl s₀ v) => ?_) ?_; (on_goal 1 => clear_value v); (on_goal 2 => (dsimp -zeta only [v]; try clear v)))
    | (extract_lets +onlyGivenNames v; refine (fun (hv : SameBut fl s₀ v.1) => ?_) ?_; (on_goal 1 => clear_value v); (on_goal 2 => (dsimp -zeta only [v]; try clear v)))
    | (extract_lets +onlyGivenNames v; first | (have w : Mem := v; clear w) | (have w : DictState := v; clear w) | (have w : Fw := v; clear w) | clear_value v)
    | with_reducible apply State_bump_same k_ps6
    | with_reducible apply State_makeDead_same hl
    | with_reducible apply State_delLine_same k_ps9
    | (with_reducible refine foldl_same _ _ ?_ ?_; on_goal 2 => (intro t x ht; try beta_reduce))
    | (with_reducible refine foldl_same₂ _ _ _ ?_ ?_; on_goal 2 => (intro t b x ht; try dsimp -zeta only))
    | ((simp -zeta only [frame_mk]; with_reducible refine frame_lit ps0 ?_ kd ?_); on_goal 2 => exact ⟨.inr rfl, .inr rfl, .inr rfl, .inr rfl, .inr rfl, .inr rfl, .inr rfl, .inr rfl, .inr rfl, .inr rfl, .inr rfl, .inr rfl, .inr rfl, .inr rfl, .inr rfl, .inr rfl, .inr rfl, .inr rfl, .inr rfl, .inr rfl, .inr rfl, .inr rfl, .inr rfl, .inr rfl, .inr rfl, .inr rfl, .inr rfl, .inr rfl, .inr rfl, .inr rfl, .inr rfl⟩)
    | with_reducible refine pair_same (by with_reducible assumption) ?_
    | split
    | (dsimp -zeta only)

theorem State_mismatch_same {fl : List Facet} {s₀ : State} (hl : subL ps63 fl = true) (a0 : State) (a1 : Nat) (a2 : Nat) (a3 : Nat) (a4 : Nat) (a5 : Nat) (a6 : Bool) (h0 : SameBut fl s₀ a0) :
    SameBut fl s₀ (State.mismatch a0 a1 a2 a3 a4 a5 a6) := by
  have k_ps6 : subL ps6 fl = true := subL_trans rfl hl
  unfold State.mismatch
  repeat' first
    | with_reducible assumption
    | (extract_lets +onlyGivenNames v; refine (fun (hv : SameBut fl s₀ v) => ?_) ?_; (on_goal 1 => clear_value v); (on_goal 2 => (dsimp -zeta only [v]; try clear v)))
    | with_reducible apply State_log_same hl
    | with_reducible apply State_bump_same k_ps6
    | split

theorem State_combine_same {fl : List Facet} {s₀ : State} (hl : subL ps32 fl = true) (a0 : State) (a1 : Nat) (a2 : FLine) (a3 : Reduce) (h0 : SameBut fl s₀ a0) :
    SameBut fl s₀ (State.combine a0 a1 a2 a3) := by
  have k_ps6 : subL ps6 fl = true := subL_trans rfl hl
  have k_ps9 : subL ps9 fl = true := subL_trans rfl hl
  unfold State.combine
  repeat' first
    | with_reducible assumption
    | (extract_lets +onlyGivenNames v; first | (have w : Mem := v; clear w) | (have w : DictState := v; clear w) | (have w : Fw := v; clear w) | clear_value v)
    | with_reducible apply State_bump_same k_ps6
    | with_reducible apply State_setLine_same k_ps9

theorem State_fillLine_same {fl : List Facet} {s₀ : State} (hl : subL ps105 fl = true) (a0 : State) (a1 : Nat) (a2 : Nat) (h0 : SameBut fl s₀ a0) :
    SameBut fl s₀ (State.fillLine a0 a1 a2).1 := by
  have k_ps86 : subL ps86 fl = true := subL_trans rfl hl
  have k_ps9 : subL ps9 fl = true := subL_trans rfl hl
  have kd : subL ps0 fl = true := subL_trans rfl hl
  unfold State.fillLine
  repeat' first
    | with_reducible assumption
    | (with_reducible intro x; try beta_reduce)
    | (extract_lets +onlyGivenNames v; refine (fun (hv : SameBut fl s₀ v) => ?_) ?_; (on_goal 1 => clear_value v); (on_goal 2 => (dsimp -zeta only [v]; try clear v)))
    | (extract_lets +onlyGivenNames v; refine (fun (hv : SameBut fl s₀ v.1) => ?_) ?_; (on_goal 1 => clear_value v); (on_goal 2 => (dsimp -zeta only [v]; try clear v)))
    | (extract_lets +onlyGivenNames v; first | (have w : Mem := v; clear w) | (have w : DictState := v; clear w) | (have w : Fw := v; clear w) | clear_value v)
    | with_reducible apply State_fetch_same k_ps86
    | with_reducible apply State_setLine_same k_ps9
    | (with_reducible refine foldl_same _ _ ?_ ?_; on_goal 2 => (intro t x ht; try beta_reduce))
    | (with_reducible refine foldl_same₂ _ _ _ ?_ ?_; on_goal 2 => (intro t b x ht; try dsimp -zeta only))
    | ((simp -zeta only [frame_mk]; with_reducible refine frame_lit ps0 ?_ kd ?_); on_goal 2 => exact ⟨.inr rfl, .inr rfl, .inr rfl, .inr rfl, .inr rfl, .inr rfl, .inr rfl, .inr rfl, .inr rfl, .inr rfl, .inr rfl, .inr rfl, .inr rfl, .inr rfl, .inr rfl, .inr rfl, .inr rfl, .inr rfl, .inr rfl, .inr rfl, .inr rfl, .inr rfl, .inr rfl, .inr rfl, .inr rfl, .inr rfl, .inr rfl, .inr rfl, .inr rfl, .inr rfl, .inr rfl⟩)
    | with_reducible refine pair_same (by with_reducible assumption) ?_
    | split
    | (dsimp -zeta only)

theorem State_charge4_same {fl : List Facet} {s₀ : State} (hl : subL ps29 fl = true) (a0 : State) (a1 : Nat) (h0 : SameBut fl s₀ a0) :
    SameBut fl s₀ (State.charge4 a0 a1) := by
  unfold State.charge4
  repeat' first
    | with_reducible assumption
    | with_reducible apply State_charge_same hl
    | (with_reducible refine foldl_same _ _ ?_ ?_; on_goal 2 => (intro t x ht; try beta_reduce))

theorem State_writeRecord_same {fl : List Facet} {s₀ : State} (hl : subL ps107 fl = true) (a0 : State) (a1 : Nat) (a2 : Nat) (a3 : List (Nat × SectorVal)) (h0 : SameBut fl s₀ a0) :
    SameBut fl s₀ (State.writeRecord a0 a1 a2 a3) := by
  have k_ps29 : subL ps29 fl = true := subL_trans rfl hl
  have k_ps71 : subL ps71 fl = true := subL_trans rfl hl
  have kd : subL ps0 fl = true := subL_trans rfl hl
  unfold State.writeRecord
  repeat' first
    | with_reducible assumption
    | (with_reducible intro x; try beta_reduce)
    | (extract_lets +onlyGivenNames v; refine (fun (hv : SameBut fl s₀ v) => ?_) ?_; (on_goal 1 => clear_value v); (on_goal 2 => (dsimp -zeta only [v]; try clear v)))
    | (extract_lets +onlyGivenNames v; refine (fun (hv : SameBut fl s₀ v.1) => ?_) ?_; (on_goal 1 => clear_value v); (on_goal 2 => (dsimp -zeta only [v]; try clear v)))
    | (extract_lets +onlyGivenNames v; first | (have w : Mem := v; clear w) | (have w : DictState := v; clear w) | (have w : Fw := v; clear w) | clear_value v)
    | with_reducible apply State_charge_same k_ps29
    | with_reducible apply State_tierWrite_same k_ps71
    | (with_reducible refine foldl_same _ _ ?_ ?_; on_goal 2 => (intro t x ht; try beta_reduce))
    | (with_reducible refine foldl_same₂ _ _ _ ?_ ?_; on_goal 2 => (intro t b x ht; try dsimp -zeta only))
    | ((simp -zeta only [frame_mk]; with_reducible refine frame_lit ps0 ?_ kd ?_); on_goal 2 => exact ⟨.inr rfl, .inr rfl, .inr rfl, .inr rfl, .inr rfl, .inr rfl, .inr rfl, .inr rfl, .inr rfl, .inr rfl, .inr rfl, .inr rfl, .inr rfl, .inr rfl, .inr rfl, .inr rfl, .inr rfl, .inr rfl, .inr rfl, .inr rfl, .inr rfl, .inr rfl, .inr rfl, .inr rfl, .inr rfl, .inr rfl, .inr rfl, .inr rfl, .inr rfl, .inr rfl, .inr rfl⟩)
    | with_reducible refine pair_same (by with_reducible assumption) ?_
    | split
    | (dsimp -zeta only)

theorem State_chargeRecord_same {fl : List Facet} {s₀ : State} (hl : subL ps29 fl = true) (a0 : State) (a1 : Nat) (a2 : Nat) (a3 : Nat) (h0 : SameBut fl s₀ a0) :
    SameBut fl s₀ (State.chargeRecord a0 a1 a2 a3) := by
  have kd : subL ps0 fl = true := subL_trans rfl hl
  unfold State.chargeRecord
  repeat' first
    | with_reducible assumption
    | (with_reducible intro x; try beta_reduce)
    | (extract_lets +onlyGivenNames v; refine (fun (hv : SameBut fl s₀ v) => ?_) ?_; (on_goal 1 => clear_value v); (on_goal 2 => (dsimp -zeta only [v]; try clear v)))
    | (extract_lets +onlyGivenNames v; refine (fun (hv : SameBut fl s₀ v.1) => ?_) ?_; (on_goal 1 => clear_value v); (on_goal 2 => (dsimp -zeta only [v]; try clear v)))
    | (extract_lets +onlyGivenNames v; first | (have w : Mem := v; clear w) | (have w : DictState := v; clear w) | (have w : Fw := v; clear w) | clear_value v)
    | with_reducible apply State_charge_same hl
    | (with_reducible refine foldl_same _ _ ?_ ?_; on_goal 2 => (intro t x ht; try beta_reduce))
    | (with_reducible refine foldl_same₂ _ _ _ ?_ ?_; on_goal 2 => (intro t b x ht; try dsimp -zeta only))
    | ((simp -zeta only [frame_mk]; with_reducible refine frame_lit ps0 ?_ kd ?_); on_goal 2 => exact ⟨.inr rfl, .inr rfl, .inr rfl, .inr rfl, .inr rfl, .inr rfl, .inr rfl, .inr rfl, .inr rfl, .inr rfl, .inr rfl, .inr rfl, .inr rfl, .inr rfl, .inr rfl, .inr rfl, .inr rfl, .inr rfl, .inr rfl, .inr rfl, .inr rfl, .inr rfl, .inr rfl, .inr rfl, .inr rfl, .inr rfl, .inr rfl, .inr rfl, .inr rfl, .inr rfl, .inr rfl⟩)
    | with_reducible refine pair_same (by with_reducible assumption) ?_
    | split
    | (dsimp -zeta only)

theorem State_chargeRecall_same {fl : List Facet} {s₀ : State} (hl : subL ps29 fl = true) (a0 : State) (a1 : Nat) (a2 : Spill) (h0 : SameBut fl s₀ a0) :
    SameBut fl s₀ (State.chargeRecall a0 a1 a2) := by
  have kd : subL ps0 fl = true := subL_trans rfl hl
  unfold State.chargeRecall
  repeat' first
    | with_reducible assumption
    | (with_reducible intro x; try beta_reduce)
    | (extract_lets +onlyGivenNames v; refine (fun (hv : SameBut fl s₀ v) => ?_) ?_; (on_goal 1 => clear_value v); (on_goal 2 => (dsimp -zeta only [v]; try clear v)))
    | (extract_lets +onlyGivenNames v; refine (fun (hv : SameBut fl s₀ v.1) => ?_) ?_; (on_goal 1 => clear_value v); (on_goal 2 => (dsimp -zeta only [v]; try clear v)))
    | (extract_lets +onlyGivenNames v; first | (have w : Mem := v; clear w) | (have w : DictState := v; clear w) | (have w : Fw := v; clear w) | clear_value v)
    | with_reducible apply State_chargeRecord_same hl
    | (with_reducible refine foldl_same _ _ ?_ ?_; on_goal 2 => (intro t x ht; try beta_reduce))
    | (with_reducible refine foldl_same₂ _ _ _ ?_ ?_; on_goal 2 => (intro t b x ht; try dsimp -zeta only))
    | ((simp -zeta only [frame_mk]; with_reducible refine frame_lit ps0 ?_ kd ?_); on_goal 2 => exact ⟨.inr rfl, .inr rfl, .inr rfl, .inr rfl, .inr rfl, .inr rfl, .inr rfl, .inr rfl, .inr rfl, .inr rfl, .inr rfl, .inr rfl, .inr rfl, .inr rfl, .inr rfl, .inr rfl, .inr rfl, .inr rfl, .inr rfl, .inr rfl, .inr rfl, .inr rfl, .inr rfl, .inr rfl, .inr rfl, .inr rfl, .inr rfl, .inr rfl, .inr rfl, .inr rfl, .inr rfl⟩)
    | with_reducible refine pair_same (by with_reducible assumption) ?_
    | split
    | (dsimp -zeta only)

theorem State_noteSpilled_same {fl : List Facet} {s₀ : State} (hl : subL ps120 fl = true) (a0 : State) (a1 : Nat) (a2 : Spill) (a3 : List (Nat × SectorVal)) (h0 : SameBut fl s₀ a0) :
    SameBut fl s₀ (State.noteSpilled a0 a1 a2 a3) := by
  have k_ps107 : subL ps107 fl = true := subL_trans rfl hl
  have kd : subL ps9 fl = true := subL_trans rfl hl
  unfold State.noteSpilled
  repeat' first
    | with_reducible assumption
    | (with_reducible intro x; try beta_reduce)
    | (extract_lets +onlyGivenNames v; refine (fun (hv : SameBut fl s₀ v) => ?_) ?_; (on_goal 1 => clear_value v); (on_goal 2 => (dsimp -zeta only [v]; try clear v)))
    | (extract_lets +onlyGivenNames v; refine (fun (hv : SameBut fl s₀ v.1) => ?_) ?_; (on_goal 1 => clear_value v); (on_goal 2 => (dsimp -zeta only [v]; try clear v)))
    | (extract_lets +onlyGivenNames v; first | (have w : Mem := v; clear w) | (have w : DictState := v; clear w) | (have w : Fw := v; clear w) | clear_value v)
    | with_reducible apply State_writeRecord_same k_ps107
    | (with_reducible refine foldl_same _ _ ?_ ?_; on_goal 2 => (intro t x ht; try beta_reduce))
    | (with_reducible refine foldl_same₂ _ _ _ ?_ ?_; on_goal 2 => (intro t b x ht; try dsimp -zeta only))
    | ((simp -zeta only [frame_mk]; with_reducible refine frame_lit ps9 ?_ kd ?_); on_goal 2 => exact ⟨.inr rfl, .inr rfl, .inr rfl, .inr rfl, .inr rfl, .inr rfl, .inr rfl, .inr rfl, .inr rfl, .inr rfl, .inr rfl, .inr rfl, .inr rfl, .inl rfl, .inr rfl, .inr rfl, .inr rfl, .inr rfl, .inr rfl, .inr rfl, .inr rfl, .inr rfl, .inr rfl, .inr rfl, .inr rfl, .inr rfl, .inr rfl, .inr rfl, .inr rfl, .inr rfl, .inr rfl⟩)
    | with_reducible refine pair_same (by with_reducible assumption) ?_
    | split
    | (dsimp -zeta only)

theorem State_contribOrdered_same {fl : List Facet} {s₀ : State} (hl : subL ps141 fl = true) (a0 : State) (a1 : Nat) (a2 : Nat) (a3 : Nat) (a4 : Nat) (a5 : List SectorVal) (a6 : Nat) (a7 : Nat) (h0 : SameBut fl s₀ a0) :
    SameBut fl s₀ (State.contribOrdered a0 a1 a2 a3 a4 a5 a6 a7).1 := by
  have k_ps105 : subL ps105 fl = true := subL_trans rfl hl
  have k_ps120 : subL ps120 fl = true := subL_trans rfl hl
  have k_ps29 : subL ps29 fl = true := subL_trans rfl hl
  have k_ps32 : subL ps32 fl = true := subL_trans rfl hl
  have k_ps63 : subL ps63 fl = true := subL_trans rfl hl
  have k_ps9 : subL ps9 fl = true := subL_trans rfl hl
  have kd : subL ps9 fl = true := subL_trans rfl hl
  unfold State.contribOrdered
  repeat' first
    | with_reducible assumption
    | (with_reducible intro x; try beta_reduce)
    | (extract_lets +onlyGivenNames v; refine (fun (hv : SameBut fl s₀ v) => ?_) ?_; (on_goal 1 => clear_value v); (on_goal 2 => (dsimp -zeta only [v]; try clear v)))
    | (extract_lets +onlyGivenNames v; refine (fun (hv : SameBut fl s₀ v.1) => ?_) ?_; (on_goal 1 => clear_value v); (on_goal 2 => (dsimp -zeta only [v]; try clear v)))
    | (extract_lets +onlyGivenNames v; first | (have w : Mem := v; clear w) | (have w : DictState := v; clear w) | (have w : Fw := v; clear w) | clear_value v)
    | with_reducible apply State_noteSpilled_same k_ps120
    | with_reducible apply State_charge4_same k_ps29
    | with_reducible apply State_mismatch_same k_ps63
    | with_reducible apply State_combine_same k_ps32
    | with_reducible apply State_setLine_same k_ps9
    | with_reducible apply State_deferOldest_same k_ps32
    | with_reducible apply State_lineForStore_same k_ps120
    | with_reducible apply State_fillLine_same k_ps105
    | with_reducible apply State_touch_same k_ps9
    | (with_reducible refine foldl_same _ _ ?_ ?_; on_goal 2 => (intro t x ht; try beta_reduce))
    | (with_reducible refine foldl_same₂ _ _ _ ?_ ?_; on_goal 2 => (intro t b x ht; try dsimp -zeta only))
    | ((simp -zeta only [frame_mk]; with_reducible refine frame_lit ps9 ?_ kd ?_); on_goal 2 => exact ⟨.inr rfl, .inr rfl, .inr rfl, .inr rfl, .inr rfl, .inr rfl, .inr rfl, .inr rfl, .inr rfl, .inr rfl, .inr rfl, .inr rfl, .inr rfl, .inl rfl, .inr rfl, .inr rfl, .inr rfl, .inr rfl, .inr rfl, .inr rfl, .inr rfl, .inr rfl, .inr rfl, .inr rfl, .inr rfl, .inr rfl, .inr rfl, .inr rfl, .inr rfl, .inr rfl, .inr rfl⟩)
    | with_reducible refine pair_same (by with_reducible assumption) ?_
    | split
    | (dsimp -zeta only)

theorem State_contribArrival_same {fl : List Facet} {s₀ : State} (hl : subL ps123 fl = true) (a0 : State) (a1 : Nat) (a2 : Nat) (a3 : List SectorVal) (a4 : Nat) (h0 : SameBut fl s₀ a0) :
    SameBut fl s₀ (State.contribArrival a0 a1 a2 a3 a4).1 := by
  have k_ps105 : subL ps105 fl = true := subL_trans rfl hl
  have k_ps120 : subL ps120 fl = true := subL_trans rfl hl
  have k_ps29 : subL ps29 fl = true := subL_trans rfl hl
  have k_ps6 : subL ps6 fl = true := subL_trans rfl hl
  have k_ps9 : subL ps9 fl = true := subL_trans rfl hl
  have kd : subL ps0 fl = true := subL_trans rfl hl
  unfold State.contribArrival
  repeat' first
    | with_reducible assumption
    | (with_reducible intro x; try beta_reduce)
    | (extract_lets +onlyGivenNames v; refine (fun (hv : SameBut fl s₀ v) => ?_) ?_; (on_goal 1 => clear_value v); (on_goal 2 => (dsimp -zeta only [v]; try clear v)))
    | (extract_lets +onlyGivenNames v; refine (fun (hv : SameBut fl s₀ v.1) => ?_) ?_; (on_goal 1 => clear_value v); (on_goal 2 => (dsimp -zeta only [v]; try clear v)))
    | (extract_lets +onlyGivenNames v; first | (have w : Mem := v; clear w) | (have w : DictState := v; clear w) | (have w : Fw := v; clear w) | clear_value v)
    | with_reducible apply State_lineForStore_same k_ps120
    | with_reducible apply State_fillLine_same k_ps105
    | with_reducible apply State_charge4_same k_ps29
    | with_reducible apply State_touch_same k_ps9
    | with_reducible apply State_setLine_same k_ps9
    | with_reducible apply State_stored_same k_ps9
    | with_reducible apply State_bump_same k_ps6
    | (with_reducible refine foldl_same _ _ ?_ ?_; on_goal 2 => (intro t x ht; try beta_reduce))
    | (with_reducible refine foldl_same₂ _ _ _ ?_ ?_; on_goal 2 => (intro t b x ht; try dsimp -zeta only))
    | ((simp -zeta only [frame_mk]; with_reducible refine frame_lit ps0 ?_ kd ?_); on_goal 2 => exact ⟨.inr rfl, .inr rfl, .inr rfl, .inr rfl, .inr rfl, .inr rfl, .inr rfl, .inr rfl, .inr rfl, .inr rfl, .inr rfl, .inr rfl, .inr rfl, .inr rfl, .inr rfl, .inr rfl, .inr rfl, .inr rfl, .inr rfl, .inr rfl, .inr rfl, .inr rfl, .inr rfl, .inr rfl, .inr rfl, .inr rfl, .inr rfl, .inr rfl, .inr rfl, .inr rfl, .inr rfl⟩)
    | with_reducible refine pair_same (by with_reducible assumption) ?_
    | split
    | (dsimp -zeta only)

theorem State_contribute_same {fl : List Facet} {s₀ : State} (hl : subL ps141 fl = true) (a0 : State) (a1 : Nat) (a2 : Nat) (a3 : Nat) (a4 : Nat) (a5 : List SectorVal) (a6 : Nat) (a7 : Nat) (h0 : SameBut fl s₀ a0) :
    SameBut fl s₀ (State.contribute a0 a1 a2 a3 a4 a5 a6 a7).1 := by
  have k_ps123 : subL ps123 fl = true := subL_trans rfl hl
  unfold State.contribute
  repeat' first
    | with_reducible assumption
    | with_reducible apply State_contribOrdered_same hl
    | with_reducible apply State_contribArrival_same k_ps123
    | split

theorem State_logIncomplete_same {fl : List Facet} {s₀ : State} (hl : subL ps63 fl = true) (a0 : State) (a1 : Nat) (a2 : Reduce) (h0 : SameBut fl s₀ a0) :
    SameBut fl s₀ (State.logIncomplete a0 a1 a2) := by
  have k_ps6 : subL ps6 fl = true := subL_trans rfl hl
  unfold State.logIncomplete
  repeat' first
    | with_reducible assumption
    | (extract_lets +onlyGivenNames v; refine (fun (hv : SameBut fl s₀ v) => ?_) ?_; (on_goal 1 => clear_value v); (on_goal 2 => (dsimp -zeta only [v]; try clear v)))
    | with_reducible apply State_log_same hl
    | with_reducible apply State_bump_same k_ps6
    | split

theorem State_installSpill_same {fl : List Facet} {s₀ : State} (hl : subL ps120 fl = true) (a0 : State) (a1 : Nat) (a2 : List SectorVal) (h0 : SameBut fl s₀ a0) :
    SameBut fl s₀ (State.installSpill a0 a1 a2).1 := by
  have k_ps9 : subL ps9 fl = true := subL_trans rfl hl
  have kd : subL ps9 fl = true := subL_trans rfl hl
  unfold State.installSpill
  repeat' first
    | with_reducible assumption
    | (with_reducible intro x; try beta_reduce)
    | (extract_lets +onlyGivenNames v; refine (fun (hv : SameBut fl s₀ v) => ?_) ?_; (on_goal 1 => clear_value v); (on_goal 2 => (dsimp -zeta only [v]; try clear v)))
    | (extract_lets +onlyGivenNames v; refine (fun (hv : SameBut fl s₀ v.1) => ?_) ?_; (on_goal 1 => clear_value v); (on_goal 2 => (dsimp -zeta only [v]; try clear v)))
    | (extract_lets +onlyGivenNames v; first | (have w : Mem := v; clear w) | (have w : DictState := v; clear w) | (have w : Fw := v; clear w) | clear_value v)
    | with_reducible apply State_allocate_same hl
    | with_reducible apply State_touch_same k_ps9
    | with_reducible apply State_setLine_same k_ps9
    | (with_reducible refine foldl_same _ _ ?_ ?_; on_goal 2 => (intro t x ht; try beta_reduce))
    | (with_reducible refine foldl_same₂ _ _ _ ?_ ?_; on_goal 2 => (intro t b x ht; try dsimp -zeta only))
    | ((simp -zeta only [frame_mk]; with_reducible refine frame_lit ps9 ?_ kd ?_); on_goal 2 => exact ⟨.inr rfl, .inr rfl, .inr rfl, .inr rfl, .inr rfl, .inr rfl, .inr rfl, .inr rfl, .inr rfl, .inr rfl, .inr rfl, .inr rfl, .inr rfl, .inl rfl, .inr rfl, .inr rfl, .inr rfl, .inr rfl, .inr rfl, .inr rfl, .inr rfl, .inr rfl, .inr rfl, .inr rfl, .inr rfl, .inr rfl, .inr rfl, .inr rfl, .inr rfl, .inr rfl, .inr rfl⟩)
    | with_reducible refine pair_same (by with_reducible assumption) ?_
    | split
    | (dsimp -zeta only)

theorem State_closeBusy_same {fl : List Facet} {s₀ : State} (hl : subL ps87 fl = true) (a0 : State) (a1 : Nat) (a2 : FLine) (a3 : Reduce) (h0 : SameBut fl s₀ a0) :
    SameBut fl s₀ (State.closeBusy a0 a1 a2 a3) := by
  have k_ps6 : subL ps6 fl = true := subL_trans rfl hl
  have k_ps63 : subL ps63 fl = true := subL_trans rfl hl
  have k_ps9 : subL ps9 fl = true := subL_trans rfl hl
  unfold State.closeBusy
  repeat' first
    | with_reducible assumption
    | (extract_lets +onlyGivenNames v; first | (have w : Mem := v; clear w) | (have w : DictState := v; clear w) | (have w : Fw := v; clear w) | clear_value v)
    | with_reducible apply State_logIncomplete_same k_ps63
    | with_reducible apply State_bump_same k_ps6
    | with_reducible apply State_setLine_same k_ps9

theorem State_closeLeaving_same {fl : List Facet} {s₀ : State} (hl : subL ps87 fl = true) (a0 : State) (a1 : Nat) (a2 : FLine) (a3 : Reduce) (h0 : SameBut fl s₀ a0) :
    SameBut fl s₀ (State.closeLeaving a0 a1 a2 a3) := by
  have k_ps6 : subL ps6 fl = true := subL_trans rfl hl
  have k_ps63 : subL ps63 fl = true := subL_trans rfl hl
  have kd : subL ps9 fl = true := subL_trans rfl hl
  unfold State.closeLeaving
  repeat' first
    | with_reducible assumption
    | (with_reducible intro x; try beta_reduce)
    | (extract_lets +onlyGivenNames v; refine (fun (hv : SameBut fl s₀ v) => ?_) ?_; (on_goal 1 => clear_value v); (on_goal 2 => (dsimp -zeta only [v]; try clear v)))
    | (extract_lets +onlyGivenNames v; refine (fun (hv : SameBut fl s₀ v.1) => ?_) ?_; (on_goal 1 => clear_value v); (on_goal 2 => (dsimp -zeta only [v]; try clear v)))
    | (extract_lets +onlyGivenNames v; first | (have w : Mem := v; clear w) | (have w : DictState := v; clear w) | (have w : Fw := v; clear w) | clear_value v)
    | with_reducible apply State_logIncomplete_same k_ps63
    | with_reducible apply State_bump_same k_ps6
    | (with_reducible refine foldl_same _ _ ?_ ?_; on_goal 2 => (intro t x ht; try beta_reduce))
    | (with_reducible refine foldl_same₂ _ _ _ ?_ ?_; on_goal 2 => (intro t b x ht; try dsimp -zeta only))
    | ((simp -zeta only [frame_mk]; with_reducible refine frame_lit ps9 ?_ kd ?_); on_goal 2 => exact ⟨.inr rfl, .inr rfl, .inr rfl, .inr rfl, .inr rfl, .inr rfl, .inr rfl, .inr rfl, .inr rfl, .inr rfl, .inr rfl, .inr rfl, .inr rfl, .inl rfl, .inr rfl, .inr rfl, .inr rfl, .inr rfl, .inr rfl, .inr rfl, .inr rfl, .inr rfl, .inr rfl, .inr rfl, .inr rfl, .inr rfl, .inr rfl, .inr rfl, .inr rfl, .inr rfl, .inr rfl⟩)
    | with_reducible refine pair_same (by with_reducible assumption) ?_
    | split
    | (dsimp -zeta only)

theorem State_closeSpilled_same {fl : List Facet} {s₀ : State} (hl : subL ps132 fl = true) (a0 : State) (a1 : Nat) (a2 : Spill) (h0 : SameBut fl s₀ a0) :
    SameBut fl s₀ (State.closeSpilled a0 a1 a2) := by
  have k_ps107 : subL ps107 fl = true := subL_trans rfl hl
  have k_ps120 : subL ps120 fl = true := subL_trans rfl hl
  have k_ps29 : subL ps29 fl = true := subL_trans rfl hl
  have k_ps6 : subL ps6 fl = true := subL_trans rfl hl
  have k_ps63 : subL ps63 fl = true := subL_trans rfl hl
  have kd : subL ps9 fl = true := subL_trans rfl hl
  unfold State.closeSpilled
  repeat' first
    | with_reducible assumption
    | (with_reducible intro x; try beta_reduce)
    | (extract_lets +onlyGivenNames v; refine (fun (hv : SameBut fl s₀ v) => ?_) ?_; (on_goal 1 => clear_value v); (on_goal 2 => (dsimp -zeta only [v]; try clear v)))
    | (extract_lets +onlyGivenNames v; refine (fun (hv : SameBut fl s₀ v.1) => ?_) ?_; (on_goal 1 => clear_value v); (on_goal 2 => (dsimp -zeta only [v]; try clear v)))
    | (extract_lets +onlyGivenNames v; first | (have w : Mem := v; clear w) | (have w : DictState := v; clear w) | (have w : Fw := v; clear w) | clear_value v)
    | with_reducible apply State_chargeRecall_same k_ps29
    | with_reducible apply State_installSpill_same k_ps120
    | with_reducible apply State_writeMem_same k_ps107
    | with_reducible apply State_bump_same k_ps6
    | with_reducible apply State_logIncomplete_same k_ps63
    | (with_reducible refine foldl_same _ _ ?_ ?_; on_goal 2 => (intro t x ht; try beta_reduce))
    | (with_reducible refine foldl_same₂ _ _ _ ?_ ?_; on_goal 2 => (intro t b x ht; try dsimp -zeta only))
    | ((simp -zeta only [frame_mk]; with_reducible refine frame_lit ps9 ?_ kd ?_); on_goal 2 => exact ⟨.inr rfl, .inr rfl, .inr rfl, .inr rfl, .inr rfl, .inr rfl, .inr rfl, .inr rfl, .inr rfl, .inr rfl, .inr rfl, .inr rfl, .inr rfl, .inl rfl, .inr rfl, .inr rfl, .inr rfl, .inr rfl, .inr rfl, .inr rfl, .inr rfl, .inr rfl, .inr rfl, .inr rfl, .inr rfl, .inr rfl, .inr rfl, .inr rfl, .inr rfl, .inr rfl, .inr rfl⟩)
    | with_reducible refine pair_same (by with_reducible assumption) ?_
    | split
    | (dsimp -zeta only)

theorem State_closeWhere_same {fl : List Facet} {s₀ : State} (hl : subL ps132 fl = true) (a0 : State) (a1 : Nat → Bool) (h0 : SameBut fl s₀ a0) :
    SameBut fl s₀ (State.closeWhere a0 a1) := by
  have k_ps87 : subL ps87 fl = true := subL_trans rfl hl
  have kd : subL ps0 fl = true := subL_trans rfl hl
  unfold State.closeWhere
  repeat' first
    | with_reducible assumption
    | (with_reducible intro x; try beta_reduce)
    | (extract_lets +onlyGivenNames v; refine (fun (hv : SameBut fl s₀ v) => ?_) ?_; (on_goal 1 => clear_value v); (on_goal 2 => (dsimp -zeta only [v]; try clear v)))
    | (extract_lets +onlyGivenNames v; refine (fun (hv : SameBut fl s₀ v.1) => ?_) ?_; (on_goal 1 => clear_value v); (on_goal 2 => (dsimp -zeta only [v]; try clear v)))
    | (extract_lets +onlyGivenNames v; first | (have w : Mem := v; clear w) | (have w : DictState := v; clear w) | (have w : Fw := v; clear w) | clear_value v)
    | with_reducible apply State_closeBusy_same k_ps87
    | with_reducible apply State_closeLeaving_same k_ps87
    | with_reducible apply State_closeSpilled_same hl
    | (with_reducible refine foldl_same _ _ ?_ ?_; on_goal 2 => (intro t x ht; try beta_reduce))
    | (with_reducible refine foldl_same₂ _ _ _ ?_ ?_; on_goal 2 => (intro t b x ht; try dsimp -zeta only))
    | ((simp -zeta only [frame_mk]; with_reducible refine frame_lit ps0 ?_ kd ?_); on_goal 2 => exact ⟨.inr rfl, .inr rfl, .inr rfl, .inr rfl, .inr rfl, .inr rfl, .inr rfl, .inr rfl, .inr rfl, .inr rfl, .inr rfl, .inr rfl, .inr rfl, .inr rfl, .inr rfl, .inr rfl, .inr rfl, .inr rfl, .inr rfl, .inr rfl, .inr rfl, .inr rfl, .inr rfl, .inr rfl, .inr rfl, .inr rfl, .inr rfl, .inr rfl, .inr rfl, .inr rfl, .inr rfl⟩)
    | with_reducible refine pair_same (by with_reducible assumption) ?_
    | split
    | (dsimp -zeta only)

theorem State_reassign_same {fl : List Facet} {s₀ : State} (hl : subL ps9 fl = true) (a0 : State) (a1 : Nat) (a2 : Nat) (h0 : SameBut fl s₀ a0) :
    SameBut fl s₀ (State.reassign a0 a1 a2) := by
  have kd : subL ps9 fl = true := subL_trans rfl hl
  unfold State.reassign
  repeat' first
    | with_reducible assumption
    | (with_reducible intro x; try beta_reduce)
    | (extract_lets +onlyGivenNames v; refine (fun (hv : SameBut fl s₀ v) => ?_) ?_; (on_goal 1 => clear_value v); (on_goal 2 => (dsimp -zeta only [v]; try clear v)))
    | (extract_lets +onlyGivenNames v; refine (fun (hv : SameBut fl s₀ v.1) => ?_) ?_; (on_goal 1 => clear_value v); (on_goal 2 => (dsimp -zeta only [v]; try clear v)))
    | (extract_lets +onlyGivenNames v; first | (have w : Mem := v; clear w) | (have w : DictState := v; clear w) | (have w : Fw := v; clear w) | clear_value v)
    | (with_reducible refine foldl_same _ _ ?_ ?_; on_goal 2 => (intro t x ht; try beta_reduce))
    | (with_reducible refine foldl_same₂ _ _ _ ?_ ?_; on_goal 2 => (intro t b x ht; try dsimp -zeta only))
    | ((simp -zeta only [frame_mk]; with_reducible refine frame_lit ps9 ?_ kd ?_); on_goal 2 => exact ⟨.inr rfl, .inr rfl, .inr rfl, .inr rfl, .inr rfl, .inr rfl, .inr rfl, .inr rfl, .inr rfl, .inr rfl, .inr rfl, .inr rfl, .inr rfl, .inl rfl, .inr rfl, .inr rfl, .inr rfl, .inr rfl, .inr rfl, .inr rfl, .inr rfl, .inr rfl, .inr rfl, .inr rfl, .inr rfl, .inr rfl, .inr rfl, .inr rfl, .inr rfl, .inr rfl, .inr rfl⟩)
    | with_reducible refine pair_same (by with_reducible assumption) ?_
    | split
    | (dsimp -zeta only)

theorem State_moveLine_same {fl : List Facet} {s₀ : State} (hl : subL ps120 fl = true) (a0 : State) (a1 : Nat) (a2 : FLine) (h0 : SameBut fl s₀ a0) :
    SameBut fl s₀ (State.moveLine a0 a1 a2) := by
  have k_ps29 : subL ps29 fl = true := subL_trans rfl hl
  have k_ps32 : subL ps32 fl = true := subL_trans rfl hl
  have k_ps9 : subL ps9 fl = true := subL_trans rfl hl
  have kd : subL ps9 fl = true := subL_trans rfl hl
  unfold State.moveLine
  repeat' first
    | with_reducible assumption
    | (with_reducible intro x; try beta_reduce)
    | (extract_lets +onlyGivenNames v; refine (fun (hv : SameBut fl s₀ v) => ?_) ?_; (on_goal 1 => clear_value v); (on_goal 2 => (dsimp -zeta only [v]; try clear v)))
    | (extract_lets +onlyGivenNames v; refine (fun (hv : SameBut fl s₀ v.1) => ?_) ?_; (on_goal 1 => clear_value v); (on_goal 2 => (dsimp -zeta only [v]; try clear v)))
    | (extract_lets +onlyGivenNames v; first | (have w : Mem := v; clear w) | (have w : DictState := v; clear w) | (have w : Fw := v; clear w) | clear_value v)
    | with_reducible apply State_deferOldest_same k_ps32
    | with_reducible apply State_findWay_same hl
    | with_reducible apply State_charge_same k_ps29
    | with_reducible apply State_setLine_same k_ps9
    | (with_reducible refine foldl_same _ _ ?_ ?_; on_goal 2 => (intro t x ht; try beta_reduce))
    | (with_reducible refine foldl_same₂ _ _ _ ?_ ?_; on_goal 2 => (intro t b x ht; try dsimp -zeta only))
    | ((simp -zeta only [frame_mk]; with_reducible refine frame_lit ps9 ?_ kd ?_); on_goal 2 => exact ⟨.inr rfl, .inr rfl, .inr rfl, .inr rfl, .inr rfl, .inr rfl, .inr rfl, .inr rfl, .inr rfl, .inr rfl, .inr rfl, .inr rfl, .inr rfl, .inl rfl, .inr rfl, .inr rfl, .inr rfl, .inr rfl, .inr rfl, .inr rfl, .inr rfl, .inr rfl, .inr rfl, .inr rfl, .inr rfl, .inr rfl, .inr rfl, .inr rfl, .inr rfl, .inr rfl, .inr rfl⟩)
    | with_reducible refine pair_same (by with_reducible assumption) ?_
    | split
    | (dsimp -zeta only)

theorem State_moveLeaving_same {fl : List Facet} {s₀ : State} (hl : subL ps120 fl = true) (a0 : State) (h0 : SameBut fl s₀ a0) :
    SameBut fl s₀ (State.moveLeaving a0) := by
  have kd : subL ps0 fl = true := subL_trans rfl hl
  unfold State.moveLeaving
  repeat' first
    | with_reducible assumption
    | (with_reducible intro x; try beta_reduce)
    | (extract_lets +onlyGivenNames v; refine (fun (hv : SameBut fl s₀ v) => ?_) ?_; (on_goal 1 => clear_value v); (on_goal 2 => (dsimp -zeta only [v]; try clear v)))
    | (extract_lets +onlyGivenNames v; refine (fun (hv : SameBut fl s₀ v.1) => ?_) ?_; (on_goal 1 => clear_value v); (on_goal 2 => (dsimp -zeta only [v]; try clear v)))
    | (extract_lets +onlyGivenNames v; first | (have w : Mem := v; clear w) | (have w : DictState := v; clear w) | (have w : Fw := v; clear w) | clear_value v)
    | with_reducible apply State_moveLine_same hl
    | (with_reducible refine foldl_same _ _ ?_ ?_; on_goal 2 => (intro t x ht; try beta_reduce))
    | (with_reducible refine foldl_same₂ _ _ _ ?_ ?_; on_goal 2 => (intro t b x ht; try dsimp -zeta only))
    | ((simp -zeta only [frame_mk]; with_reducible refine frame_lit ps0 ?_ kd ?_); on_goal 2 => exact ⟨.inr rfl, .inr rfl, .inr rfl, .inr rfl, .inr rfl, .inr rfl, .inr rfl, .inr rfl, .inr rfl, .inr rfl, .inr rfl, .inr rfl, .inr rfl, .inr rfl, .inr rfl, .inr rfl, .inr rfl, .inr rfl, .inr rfl, .inr rfl, .inr rfl, .inr rfl, .inr rfl, .inr rfl, .inr rfl, .inr rfl, .inr rfl, .inr rfl, .inr rfl, .inr rfl, .inr rfl⟩)
    | with_reducible refine pair_same (by with_reducible assumption) ?_
    | split
    | (dsimp -zeta only)

theorem State_trimDead_same {fl : List Facet} {s₀ : State} (hl : subL ps120 fl = true) (a0 : State) (a1 : Nat) (h0 : SameBut fl s₀ a0) :
    SameBut fl s₀ (State.trimDead a0 a1) := by
  have k_ps107 : subL ps107 fl = true := subL_trans rfl hl
  have k_ps9 : subL ps9 fl = true := subL_trans rfl hl
  have kd : subL ps0 fl = true := subL_trans rfl hl
  unfold State.trimDead
  repeat' first
    | with_reducible assumption
    | (with_reducible intro x; try beta_reduce)
    | (extract_lets +onlyGivenNames v; refine (fun (hv : SameBut fl s₀ v) => ?_) ?_; (on_goal 1 => clear_value v); (on_goal 2 => (dsimp -zeta only [v]; try clear v)))
    | (extract_lets +onlyGivenNames v; refine (fun (hv : SameBut fl s₀ v.1) => ?_) ?_; (on_goal 1 => clear_value v); (on_goal 2 => (dsimp -zeta only [v]; try clear v)))
    | (extract_lets +onlyGivenNames v; first | (have w : Mem := v; clear w) | (have w : DictState := v; clear w) | (have w : Fw := v; clear w) | clear_value v)
    | with_reducible apply State_undead_same k_ps9
    | with_reducible apply State_deadMarkers_same k_ps107
    | (with_reducible refine foldl_same _ _ ?_ ?_; on_goal 2 => (intro t x ht; try beta_reduce))
    | (with_reducible refine foldl_same₂ _ _ _ ?_ ?_; on_goal 2 => (intro t b x ht; try dsimp -zeta only))
    | ((simp -zeta only [frame_mk]; with_reducible refine frame_lit ps0 ?_ kd ?_); on_goal 2 => exact ⟨.inr rfl, .inr rfl, .inr rfl, .inr rfl, .inr rfl, .inr rfl, .inr rfl, .inr rfl, .inr rfl, .inr rfl, .inr rfl, .inr rfl, .inr rfl, .inr rfl, .inr rfl, .inr rfl, .inr rfl, .inr rfl, .inr rfl, .inr rfl, .inr rfl, .inr rfl, .inr rfl, .inr rfl, .inr rfl, .inr rfl, .inr rfl, .inr rfl, .inr rfl, .inr rfl, .inr rfl⟩)
    | with_reducible refine pair_same (by with_reducible assumption) ?_
    | split
    | (dsimp -zeta only)

theorem State_startRetire_same {fl : List Facet} {s₀ : State} (hl : subL ps120 fl = true) (a0 : State) (a1 : Nat) (a2 : Nat) (h0 : SameBut fl s₀ a0) :
    SameBut fl s₀ (State.startRetire a0 a1 a2) := by
  have k_ps9 : subL ps9 fl = true := subL_trans rfl hl
  have kd : subL ps9 fl = true := subL_trans rfl hl
  unfold State.startRetire
  repeat' first
    | with_reducible assumption
    | (with_reducible intro x; try beta_reduce)
    | (extract_lets +onlyGivenNames v; refine (fun (hv : SameBut fl s₀ v) => ?_) ?_; (on_goal 1 => clear_value v); (on_goal 2 => (dsimp -zeta only [v]; try clear v)))
    | (extract_lets +onlyGivenNames v; refine (fun (hv : SameBut fl s₀ v.1) => ?_) ?_; (on_goal 1 => clear_value v); (on_goal 2 => (dsimp -zeta only [v]; try clear v)))
    | (extract_lets +onlyGivenNames v; first | (have w : Mem := v; clear w) | (have w : DictState := v; clear w) | (have w : Fw := v; clear w) | clear_value v)
    | with_reducible apply State_moveLeaving_same hl
    | with_reducible apply State_trimDead_same hl
    | with_reducible apply State_reassign_same k_ps9
    | (with_reducible refine foldl_same _ _ ?_ ?_; on_goal 2 => (intro t x ht; try beta_reduce))
    | (with_reducible refine foldl_same₂ _ _ _ ?_ ?_; on_goal 2 => (intro t b x ht; try dsimp -zeta only))
    | ((simp -zeta only [frame_mk]; with_reducible refine frame_lit ps9 ?_ kd ?_); on_goal 2 => exact ⟨.inr rfl, .inr rfl, .inr rfl, .inr rfl, .inr rfl, .inr rfl, .inr rfl, .inr rfl, .inr rfl, .inr rfl, .inr rfl, .inr rfl, .inr rfl, .inl rfl, .inr rfl, .inr rfl, .inr rfl, .inr rfl, .inr rfl, .inr rfl, .inr rfl, .inr rfl, .inr rfl, .inr rfl, .inr rfl, .inr rfl, .inr rfl, .inr rfl, .inr rfl, .inr rfl, .inr rfl⟩)
    | with_reducible refine pair_same (by with_reducible assumption) ?_
    | split
    | (dsimp -zeta only)

theorem State_evictLeaving_same {fl : List Facet} {s₀ : State} (hl : subL ps120 fl = true) (a0 : State) (h0 : SameBut fl s₀ a0) :
    SameBut fl s₀ (State.evictLeaving a0) := by
  have k_ps107 : subL ps107 fl = true := subL_trans rfl hl
  have kd : subL ps9 fl = true := subL_trans rfl hl
  unfold State.evictLeaving
  repeat' first
    | with_reducible assumption
    | (with_reducible intro x; try beta_reduce)
    | (extract_lets +onlyGivenNames v; refine (fun (hv : SameBut fl s₀ v) => ?_) ?_; (on_goal 1 => clear_value v); (on_goal 2 => (dsimp -zeta only [v]; try clear v)))
    | (extract_lets +onlyGivenNames v; refine (fun (hv : SameBut fl s₀ v.1) => ?_) ?_; (on_goal 1 => clear_value v); (on_goal 2 => (dsimp -zeta only [v]; try clear v)))
    | (extract_lets +onlyGivenNames v; first | (have w : Mem := v; clear w) | (have w : DictState := v; clear w) | (have w : Fw := v; clear w) | clear_value v)
    | with_reducible apply State_writeBack_same k_ps107
    | (with_reducible refine foldl_same _ _ ?_ ?_; on_goal 2 => (intro t x ht; try beta_reduce))
    | (with_reducible refine foldl_same₂ _ _ _ ?_ ?_; on_goal 2 => (intro t b x ht; try dsimp -zeta only))
    | ((simp -zeta only [frame_mk]; with_reducible refine frame_lit ps9 ?_ kd ?_); on_goal 2 => exact ⟨.inr rfl, .inr rfl, .inr rfl, .inr rfl, .inr rfl, .inr rfl, .inr rfl, .inr rfl, .inr rfl, .inr rfl, .inr rfl, .inr rfl, .inr rfl, .inl rfl, .inr rfl, .inr rfl, .inr rfl, .inr rfl, .inr rfl, .inr rfl, .inr rfl, .inr rfl, .inr rfl, .inr rfl, .inr rfl, .inr rfl, .inr rfl, .inr rfl, .inr rfl, .inr rfl, .inr rfl⟩)
    | with_reducible refine pair_same (by with_reducible assumption) ?_
    | split
    | (dsimp -zeta only)

theorem State_endRetire_same {fl : List Facet} {s₀ : State} (hl : subL ps87 fl = true) (a0 : State) (a1 : Nat) (a2 : Nat) (h0 : SameBut fl s₀ a0) :
    SameBut fl s₀ (State.endRetire a0 a1 a2) := by
  have k_ps63 : subL ps63 fl = true := subL_trans rfl hl
  have kd : subL ps9 fl = true := subL_trans rfl hl
  unfold State.endRetire
  repeat' first
    | with_reducible assumption
    | (with_reducible intro x; try beta_reduce)
    | (extract_lets +onlyGivenNames v; refine (fun (hv : SameBut fl s₀ v) => ?_) ?_; (on_goal 1 => clear_value v); (on_goal 2 => (dsimp -zeta only [v]; try clear v)))
    | (extract_lets +onlyGivenNames v; refine (fun (hv : SameBut fl s₀ v.1) => ?_) ?_; (on_goal 1 => clear_value v); (on_goal 2 => (dsimp -zeta only [v]; try clear v)))
    | (extract_lets +onlyGivenNames v; first | (have w : Mem := v; clear w) | (have w : DictState := v; clear w) | (have w : Fw := v; clear w) | clear_value v)
    | with_reducible apply State_log_same k_ps63
    | (with_reducible refine foldl_same _ _ ?_ ?_; on_goal 2 => (intro t x ht; try beta_reduce))
    | (with_reducible refine foldl_same₂ _ _ _ ?_ ?_; on_goal 2 => (intro t b x ht; try dsimp -zeta only))
    | ((simp -zeta only [frame_mk]; with_reducible refine frame_lit ps9 ?_ kd ?_); on_goal 2 => exact ⟨.inr rfl, .inr rfl, .inr rfl, .inr rfl, .inr rfl, .inr rfl, .inr rfl, .inr rfl, .inr rfl, .inr rfl, .inr rfl, .inr rfl, .inr rfl, .inl rfl, .inr rfl, .inr rfl, .inr rfl, .inr rfl, .inr rfl, .inr rfl, .inr rfl, .inr rfl, .inr rfl, .inr rfl, .inr rfl, .inr rfl, .inr rfl, .inr rfl, .inr rfl, .inr rfl, .inr rfl⟩)
    | with_reducible refine pair_same (by with_reducible assumption) ?_
    | split
    | (dsimp -zeta only)

theorem State_closeRetire_same {fl : List Facet} {s₀ : State} (hl : subL ps132 fl = true) (a0 : State) (h0 : SameBut fl s₀ a0) :
    SameBut fl s₀ (State.closeRetire a0) := by
  have k_ps120 : subL ps120 fl = true := subL_trans rfl hl
  have k_ps87 : subL ps87 fl = true := subL_trans rfl hl
  have kd : subL ps0 fl = true := subL_trans rfl hl
  unfold State.closeRetire
  repeat' first
    | with_reducible assumption
    | (with_reducible intro x; try beta_reduce)
    | (extract_lets +onlyGivenNames v; refine (fun (hv : SameBut fl s₀ v) => ?_) ?_; (on_goal 1 => clear_value v); (on_goal 2 => (dsimp -zeta only [v]; try clear v)))
    | (extract_lets +onlyGivenNames v; refine (fun (hv : SameBut fl s₀ v.1) => ?_) ?_; (on_goal 1 => clear_value v); (on_goal 2 => (dsimp -zeta only [v]; try clear v)))
    | (extract_lets +onlyGivenNames v; first | (have w : Mem := v; clear w) | (have w : DictState := v; clear w) | (have w : Fw := v; clear w) | clear_value v)
    | with_reducible apply State_endRetire_same k_ps87
    | with_reducible apply State_evictLeaving_same k_ps120
    | with_reducible apply State_moveLeaving_same k_ps120
    | (with_reducible refine foldl_same _ _ ?_ ?_; on_goal 2 => (intro t x ht; try beta_reduce))
    | (with_reducible refine foldl_same₂ _ _ _ ?_ ?_; on_goal 2 => (intro t b x ht; try dsimp -zeta only))
    | ((simp -zeta only [frame_mk]; with_reducible refine frame_lit ps0 ?_ kd ?_); on_goal 2 => exact ⟨.inr rfl, .inr rfl, .inr rfl, .inr rfl, .inr rfl, .inr rfl, .inr rfl, .inr rfl, .inr rfl, .inr rfl, .inr rfl, .inr rfl, .inr rfl, .inr rfl, .inr rfl, .inr rfl, .inr rfl, .inr rfl, .inr rfl, .inr rfl, .inr rfl, .inr rfl, .inr rfl, .inr rfl, .inr rfl, .inr rfl, .inr rfl, .inr rfl, .inr rfl, .inr rfl, .inr rfl⟩)
    | with_reducible refine pair_same (by with_reducible assumption) ?_
    | split
    | (dsimp -zeta only)

theorem State_closure_same {fl : List Facet} {s₀ : State} (hl : subL ps132 fl = true) (a0 : State) (h0 : SameBut fl s₀ a0) :
    SameBut fl s₀ (State.closure a0) := by
  have kd : subL ps0 fl = true := subL_trans rfl hl
  unfold State.closure
  repeat' first
    | with_reducible assumption
    | (with_reducible intro x; try beta_reduce)
    | (extract_lets +onlyGivenNames v; refine (fun (hv : SameBut fl s₀ v) => ?_) ?_; (on_goal 1 => clear_value v); (on_goal 2 => (dsimp -zeta only [v]; try clear v)))
    | (extract_lets +onlyGivenNames v; refine (fun (hv : SameBut fl s₀ v.1) => ?_) ?_; (on_goal 1 => clear_value v); (on_goal 2 => (dsimp -zeta only [v]; try clear v)))
    | (extract_lets +onlyGivenNames v; first | (have w : Mem := v; clear w) | (have w : DictState := v; clear w) | (have w : Fw := v; clear w) | clear_value v)
    | with_reducible apply State_closeRetire_same hl
    | with_reducible apply State_closeWhere_same hl
    | (with_reducible refine foldl_same _ _ ?_ ?_; on_goal 2 => (intro t x ht; try beta_reduce))
    | (with_reducible refine foldl_same₂ _ _ _ ?_ ?_; on_goal 2 => (intro t b x ht; try dsimp -zeta only))
    | ((simp -zeta only [frame_mk]; with_reducible refine frame_lit ps0 ?_ kd ?_); on_goal 2 => exact ⟨.inr rfl, .inr rfl, .inr rfl, .inr rfl, .inr rfl, .inr rfl, .inr rfl, .inr rfl, .inr rfl, .inr rfl, .inr rfl, .inr rfl, .inr rfl, .inr rfl, .inr rfl, .inr rfl, .inr rfl, .inr rfl, .inr rfl, .inr rfl, .inr rfl, .inr rfl, .inr rfl, .inr rfl, .inr rfl, .inr rfl, .inr rfl, .inr rfl, .inr rfl, .inr rfl, .inr rfl⟩)
    | with_reducible refine pair_same (by with_reducible assumption) ?_
    | split
    | (dsimp -zeta only)

theorem State_flushAll_same {fl : List Facet} {s₀ : State} (hl : subL ps120 fl = true) (a0 : State) (a1 : Bool) (h0 : SameBut fl s₀ a0) :
    SameBut fl s₀ (State.flushAll a0 a1) := by
  have k_ps107 : subL ps107 fl = true := subL_trans rfl hl
  have kd : subL ps9 fl = true := subL_trans rfl hl
  unfold State.flushAll
  repeat' first
    | with_reducible assumption
    | (with_reducible intro x; try beta_reduce)
    | (extract_lets +onlyGivenNames v; refine (fun (hv : SameBut fl s₀ v) => ?_) ?_; (on_goal 1 => clear_value v); (on_goal 2 => (dsimp -zeta only [v]; try clear v)))
    | (extract_lets +onlyGivenNames v; refine (fun (hv : SameBut fl s₀ v.1) => ?_) ?_; (on_goal 1 => clear_value v); (on_goal 2 => (dsimp -zeta only [v]; try clear v)))
    | (extract_lets +onlyGivenNames v; first | (have w : Mem := v; clear w) | (have w : DictState := v; clear w) | (have w : Fw := v; clear w) | clear_value v)
    | with_reducible apply State_writeBack_same k_ps107
    | with_reducible apply State_deadMarkers_same k_ps107
    | (with_reducible refine foldl_same _ _ ?_ ?_; on_goal 2 => (intro t x ht; try beta_reduce))
    | (with_reducible refine foldl_same₂ _ _ _ ?_ ?_; on_goal 2 => (intro t b x ht; try dsimp -zeta only))
    | ((simp -zeta only [frame_mk]; with_reducible refine frame_lit ps9 ?_ kd ?_); on_goal 2 => exact ⟨.inr rfl, .inr rfl, .inr rfl, .inr rfl, .inr rfl, .inr rfl, .inr rfl, .inr rfl, .inr rfl, .inr rfl, .inr rfl, .inr rfl, .inr rfl, .inl rfl, .inr rfl, .inr rfl, .inr rfl, .inr rfl, .inr rfl, .inr rfl, .inr rfl, .inr rfl, .inr rfl, .inr rfl, .inr rfl, .inr rfl, .inr rfl, .inr rfl, .inr rfl, .inr rfl, .inr rfl⟩)
    | with_reducible refine pair_same (by with_reducible assumption) ?_
    | split
    | (dsimp -zeta only)

theorem State_loadReg_same {fl : List Facet} {s₀ : State} (hl : subL ps25 fl = true) (a0 : State) (a1 : GroupRef) (a2 : Nat) (a3 : Nat) (a4 : RegVal) (h0 : SameBut fl s₀ a0) :
    SameBut fl s₀ (State.loadReg a0 a1 a2 a3 a4) := by
  unfold State.loadReg
  repeat' first
    | with_reducible assumption
    | with_reducible apply State_adjGroup_same hl

theorem State_loadRegs_same {fl : List Facet} {s₀ : State} (hl : subL ps25 fl = true) (a0 : State) (a1 : GroupRef) (a2 : Nat) (a3 : Nat) (a4 : Nat) (a5 : Bytes) (a6 : Option PoisonClass) (h0 : SameBut fl s₀ a0) :
    SameBut fl s₀ (State.loadRegs a0 a1 a2 a3 a4 a5 a6) := by
  unfold State.loadRegs
  repeat' first
    | with_reducible assumption
    | with_reducible apply State_loadReg_same hl
    | (with_reducible refine foldl_same _ _ ?_ ?_; on_goal 2 => (intro t x ht; try beta_reduce))

theorem State_poisonHalted_same {fl : List Facet} {s₀ : State} (hl : subL ps63 fl = true) (a0 : State) (a1 : Nat) (a2 : LogAddr) (a3 : Nat) (a4 : Nat) (a5 : PoisonClass) (h0 : SameBut fl s₀ a0) :
    SameBut fl s₀ (State.poisonHalted a0 a1 a2 a3 a4 a5) := by
  have k_ps6 : subL ps6 fl = true := subL_trans rfl hl
  have kd : subL ps0 fl = true := subL_trans rfl hl
  unfold State.poisonHalted
  repeat' first
    | with_reducible assumption
    | (with_reducible intro x; try beta_reduce)
    | (extract_lets +onlyGivenNames v; refine (fun (hv : SameBut fl s₀ v) => ?_) ?_; (on_goal 1 => clear_value v); (on_goal 2 => (dsimp -zeta only [v]; try clear v)))
    | (extract_lets +onlyGivenNames v; refine (fun (hv : SameBut fl s₀ v.1) => ?_) ?_; (on_goal 1 => clear_value v); (on_goal 2 => (dsimp -zeta only [v]; try clear v)))
    | (extract_lets +onlyGivenNames v; first | (have w : Mem := v; clear w) | (have w : DictState := v; clear w) | (have w : Fw := v; clear w) | clear_value v)
    | with_reducible apply State_log_same hl
    | with_reducible apply State_bump_same k_ps6
    | (with_reducible refine foldl_same _ _ ?_ ?_; on_goal 2 => (intro t x ht; try beta_reduce))
    | (with_reducible refine foldl_same₂ _ _ _ ?_ ?_; on_goal 2 => (intro t b x ht; try dsimp -zeta only))
    | ((simp -zeta only [frame_mk]; with_reducible refine frame_lit ps0 ?_ kd ?_); on_goal 2 => exact ⟨.inr rfl, .inr rfl, .inr rfl, .inr rfl, .inr rfl, .inr rfl, .inr rfl, .inr rfl, .inr rfl, .inr rfl, .inr rfl, .inr rfl, .inr rfl, .inr rfl, .inr rfl, .inr rfl, .inr rfl, .inr rfl, .inr rfl, .inr rfl, .inr rfl, .inr rfl, .inr rfl, .inr rfl, .inr rfl, .inr rfl, .inr rfl, .inr rfl, .inr rfl, .inr rfl, .inr rfl⟩)
    | with_reducible refine pair_same (by with_reducible assumption) ?_
    | split
    | (dsimp -zeta only)

theorem State_deliverLoad_same {fl : List Facet} {s₀ : State} (hl : subL ps111 fl = true) (a0 : State) (a1 : GroupRef) (a2 : Nat) (a3 : Nat) (a4 : Nat) (a5 : Nat) (a6 : SectorVal) (h0 : SameBut fl s₀ a0) :
    SameBut fl s₀ (State.deliverLoad a0 a1 a2 a3 a4 a5 a6) := by
  have k_ps25 : subL ps25 fl = true := subL_trans rfl hl
  have k_ps63 : subL ps63 fl = true := subL_trans rfl hl
  have kd : subL ps0 fl = true := subL_trans rfl hl
  unfold State.deliverLoad
  repeat' first
    | with_reducible assumption
    | (with_reducible intro x; try beta_reduce)
    | (extract_lets +onlyGivenNames v; refine (fun (hv : SameBut fl s₀ v) => ?_) ?_; (on_goal 1 => clear_value v); (on_goal 2 => (dsimp -zeta only [v]; try clear v)))
    | (extract_lets +onlyGivenNames v; refine (fun (hv : SameBut fl s₀ v.1) => ?_) ?_; (on_goal 1 => clear_value v); (on_goal 2 => (dsimp -zeta only [v]; try clear v)))
    | (extract_lets +onlyGivenNames v; first | (have w : Mem := v; clear w) | (have w : DictState := v; clear w) | (have w : Fw := v; clear w) | clear_value v)
    | with_reducible apply State_threadFault_same hl
    | with_reducible apply State_poisonHalted_same k_ps63
    | with_reducible apply State_loadRegs_same k_ps25
    | (with_reducible refine foldl_same _ _ ?_ ?_; on_goal 2 => (intro t x ht; try beta_reduce))
    | (with_reducible refine foldl_same₂ _ _ _ ?_ ?_; on_goal 2 => (intro t b x ht; try dsimp -zeta only))
    | ((simp -zeta only [frame_mk]; with_reducible refine frame_lit ps0 ?_ kd ?_); on_goal 2 => exact ⟨.inr rfl, .inr rfl, .inr rfl, .inr rfl, .inr rfl, .inr rfl, .inr rfl, .inr rfl, .inr rfl, .inr rfl, .inr rfl, .inr rfl, .inr rfl, .inr rfl, .inr rfl, .inr rfl, .inr rfl, .inr rfl, .inr rfl, .inr rfl, .inr rfl, .inr rfl, .inr rfl, .inr rfl, .inr rfl, .inr rfl, .inr rfl, .inr rfl, .inr rfl, .inr rfl, .inr rfl⟩)
    | with_reducible refine pair_same (by with_reducible assumption) ?_
    | split
    | (dsimp -zeta only)

theorem State_laneDone_same {fl : List Facet} {s₀ : State} (hl : subL ps25 fl = true) (a0 : State) (a1 : GroupRef) (h0 : SameBut fl s₀ a0) :
    SameBut fl s₀ (State.laneDone a0 a1) := by
  unfold State.laneDone
  repeat' first
    | with_reducible assumption
    | with_reducible apply State_adjGroup_same hl

theorem State_bankLoad_same {fl : List Facet} {s₀ : State} (hl : subL ps141 fl = true) (a0 : State) (a1 : Nat) (a2 : Nat) (a3 : Nat) (h0 : SameBut fl s₀ a0) :
    SameBut fl s₀ (State.bankLoad a0 a1 a2 a3).1 := by
  have k_ps120 : subL ps120 fl = true := subL_trans rfl hl
  have k_ps9 : subL ps9 fl = true := subL_trans rfl hl
  have kd : subL ps0 fl = true := subL_trans rfl hl
  unfold State.bankLoad
  repeat' first
    | with_reducible assumption
    | (with_reducible intro x; try beta_reduce)
    | (extract_lets +onlyGivenNames v; refine (fun (hv : SameBut fl s₀ v) => ?_) ?_; (on_goal 1 => clear_value v); (on_goal 2 => (dsimp -zeta only [v]; try clear v)))
    | (extract_lets +onlyGivenNames v; refine (fun (hv : SameBut fl s₀ v.1) => ?_) ?_; (on_goal 1 => clear_value v); (on_goal 2 => (dsimp -zeta only [v]; try clear v)))
    | (extract_lets +onlyGivenNames v; first | (have w : Mem := v; clear w) | (have w : DictState := v; clear w) | (have w : Fw := v; clear w) | clear_value v)
    | with_reducible apply State_bankRead_same hl
    | with_reducible apply State_allocate_same k_ps120
    | with_reducible apply State_setLine_same k_ps9
    | (with_reducible refine foldl_same _ _ ?_ ?_; on_goal 2 => (intro t x ht; try beta_reduce))
    | (with_reducible refine foldl_same₂ _ _ _ ?_ ?_; on_goal 2 => (intro t b x ht; try dsimp -zeta only))
    | ((simp -zeta only [frame_mk]; with_reducible refine frame_lit ps0 ?_ kd ?_); on_goal 2 => exact ⟨.inr rfl, .inr rfl, .inr rfl, .inr rfl, .inr rfl, .inr rfl, .inr rfl, .inr rfl, .inr rfl, .inr rfl, .inr rfl, .inr rfl, .inr rfl, .inr rfl, .inr rfl, .inr rfl, .inr rfl, .inr rfl, .inr rfl, .inr rfl, .inr rfl, .inr rfl, .inr rfl, .inr rfl, .inr rfl, .inr rfl, .inr rfl, .inr rfl, .inr rfl, .inr rfl, .inr rfl⟩)
    | with_reducible refine pair_same (by with_reducible assumption) ?_
    | split
    | (dsimp -zeta only)

theorem State_l1Supply_same {fl : List Facet} {s₀ : State} (hl : subL ps25 fl = true) (a0 : State) (a1 : Nat) (a2 : Nat) (a3 : SectorVal) (h0 : SameBut fl s₀ a0) :
    SameBut fl s₀ (State.l1Supply a0 a1 a2 a3) := by
  have kd : subL ps0 fl = true := subL_trans rfl hl
  unfold State.l1Supply
  repeat' first
    | with_reducible assumption
    | (with_reducible intro x; try beta_reduce)
    | (extract_lets +onlyGivenNames v; refine (fun (hv : SameBut fl s₀ v) => ?_) ?_; (on_goal 1 => clear_value v); (on_goal 2 => (dsimp -zeta only [v]; try clear v)))
    | (extract_lets +onlyGivenNames v; refine (fun (hv : SameBut fl s₀ v.1) => ?_) ?_; (on_goal 1 => clear_value v); (on_goal 2 => (dsimp -zeta only [v]; try clear v)))
    | (extract_lets +onlyGivenNames v; first | (have w : Mem := v; clear w) | (have w : DictState := v; clear w) | (have w : Fw := v; clear w) | clear_value v)
    | with_reducible apply State_adjTile_same hl
    | (with_reducible refine foldl_same _ _ ?_ ?_; on_goal 2 => (intro t x ht; try beta_reduce))
    | (with_reducible refine foldl_same₂ _ _ _ ?_ ?_; on_goal 2 => (intro t b x ht; try dsimp -zeta only))
    | ((simp -zeta only [frame_mk]; with_reducible refine frame_lit ps0 ?_ kd ?_); on_goal 2 => exact ⟨.inr rfl, .inr rfl, .inr rfl, .inr rfl, .inr rfl, .inr rfl, .inr rfl, .inr rfl, .inr rfl, .inr rfl, .inr rfl, .inr rfl, .inr rfl, .inr rfl, .inr rfl, .inr rfl, .inr rfl, .inr rfl, .inr rfl, .inr rfl, .inr rfl, .inr rfl, .inr rfl, .inr rfl, .inr rfl, .inr rfl, .inr rfl, .inr rfl, .inr rfl, .inr rfl, .inr rfl⟩)
    | with_reducible refine pair_same (by with_reducible assumption) ?_
    | split
    | (dsimp -zeta only)

theorem State_storeDone_same {fl : List Facet} {s₀ : State} (hl : subL ps25 fl = true) (a0 : State) (a1 : Agent) (h0 : SameBut fl s₀ a0) :
    SameBut fl s₀ (State.storeDone a0 a1) := by
  have kd : subL ps0 fl = true := subL_trans rfl hl
  unfold State.storeDone
  repeat' first
    | with_reducible assumption
    | (with_reducible intro x; try beta_reduce)
    | (extract_lets +onlyGivenNames v; refine (fun (hv : SameBut fl s₀ v) => ?_) ?_; (on_goal 1 => clear_value v); (on_goal 2 => (dsimp -zeta only [v]; try clear v)))
    | (extract_lets +onlyGivenNames v; refine (fun (hv : SameBut fl s₀ v.1) => ?_) ?_; (on_goal 1 => clear_value v); (on_goal 2 => (dsimp -zeta only [v]; try clear v)))
    | (extract_lets +onlyGivenNames v; first | (have w : Mem := v; clear w) | (have w : DictState := v; clear w) | (have w : Fw := v; clear w) | clear_value v)
    | with_reducible apply State_adjGroup_same hl
    | (with_reducible refine foldl_same _ _ ?_ ?_; on_goal 2 => (intro t x ht; try beta_reduce))
    | (with_reducible refine foldl_same₂ _ _ _ ?_ ?_; on_goal 2 => (intro t b x ht; try dsimp -zeta only))
    | ((simp -zeta only [frame_mk]; with_reducible refine frame_lit ps0 ?_ kd ?_); on_goal 2 => exact ⟨.inr rfl, .inr rfl, .inr rfl, .inr rfl, .inr rfl, .inr rfl, .inr rfl, .inr rfl, .inr rfl, .inr rfl, .inr rfl, .inr rfl, .inr rfl, .inr rfl, .inr rfl, .inr rfl, .inr rfl, .inr rfl, .inr rfl, .inr rfl, .inr rfl, .inr rfl, .inr rfl, .inr rfl, .inr rfl, .inr rfl, .inr rfl, .inr rfl, .inr rfl, .inr rfl, .inr rfl⟩)
    | with_reducible refine pair_same (by with_reducible assumption) ?_
    | split
    | (dsimp -zeta only)

theorem State_serve_same {fl : List Facet} {s₀ : State} (hl : subL ps152 fl = true) (a0 : State) (a1 : Req) (h0 : SameBut fl s₀ a0) :
    SameBut fl s₀ (State.serve a0 a1).1 := by
  have k_ps111 : subL ps111 fl = true := subL_trans rfl hl
  have k_ps120 : subL ps120 fl = true := subL_trans rfl hl
  have k_ps123 : subL ps123 fl = true := subL_trans rfl hl
  have k_ps141 : subL ps141 fl = true := subL_trans rfl hl
  have k_ps25 : subL ps25 fl = true := subL_trans rfl hl
  have k_ps63 : subL ps63 fl = true := subL_trans rfl hl
  have kd : subL ps0 fl = true := subL_trans rfl hl
  unfold State.serve
  repeat' first
    | with_reducible assumption
    | (with_reducible intro x; try beta_reduce)
    | (extract_lets +onlyGivenNames v; refine (fun (hv : SameBut fl s₀ v) => ?_) ?_; (on_goal 1 => clear_value v); (on_goal 2 => (dsimp -zeta only [v]; try clear v)))
    | (extract_lets +onlyGivenNames v; refine (fun (hv : SameBut fl s₀ v.1) => ?_) ?_; (on_goal 1 => clear_value v); (on_goal 2 => (dsimp -zeta only [v]; try clear v)))
    | (extract_lets +onlyGivenNames v; first | (have w : Mem := v; clear w) | (have w : DictState := v; clear w) | (have w : Fw := v; clear w) | clear_value v)
    | with_reducible apply State_threadFault_same k_ps111
    | with_reducible apply State_violation_same k_ps63
    | with_reducible apply State_bankLoad_same k_ps141
    | with_reducible apply State_laneDone_same k_ps25
    | with_reducible apply State_deliverLoad_same k_ps111
    | with_reducible apply State_l1Supply_same k_ps25
    | with_reducible apply State_bankStore_same k_ps123
    | with_reducible apply State_storeDone_same k_ps25
    | with_reducible apply State_bankDrop_same k_ps120
    | with_reducible apply State_contribute_same k_ps141
    | (with_reducible refine foldl_same _ _ ?_ ?_; on_goal 2 => (intro t x ht; try beta_reduce))
    | (with_reducible refine foldl_same₂ _ _ _ ?_ ?_; on_goal 2 => (intro t b x ht; try dsimp -zeta only))
    | ((simp -zeta only [frame_mk]; with_reducible refine frame_lit ps0 ?_ kd ?_); on_goal 2 => exact ⟨.inr rfl, .inr rfl, .inr rfl, .inr rfl, .inr rfl, .inr rfl, .inr rfl, .inr rfl, .inr rfl, .inr rfl, .inr rfl, .inr rfl, .inr rfl, .inr rfl, .inr rfl, .inr rfl, .inr rfl, .inr rfl, .inr rfl, .inr rfl, .inr rfl, .inr rfl, .inr rfl, .inr rfl, .inr rfl, .inr rfl, .inr rfl, .inr rfl, .inr rfl, .inr rfl, .inr rfl⟩)
    | with_reducible refine pair_same (by with_reducible assumption) ?_
    | split
    | (dsimp -zeta only)

theorem State_serveList_same {fl : List Facet} {s₀ : State} (hl : subL ps152 fl = true) (a0 : List Req) (a1 : State) (h1 : SameBut fl s₀ a1) :
    SameBut fl s₀ (State.serveList a0 a1) := by
  have kd : subL ps152 fl = true := subL_trans rfl hl
  induction a0 generalizing a1 with
  | nil =>
    rw [State.serveList]
    repeat' first
      | with_reducible assumption
      | (with_reducible intro x; try beta_reduce)
      | (extract_lets +onlyGivenNames v; refine (fun (hv : SameBut fl s₀ v) => ?_) ?_; (on_goal 1 => clear_value v); (on_goal 2 => (dsimp -zeta only [v]; try clear v)))
      | (extract_lets +onlyGivenNames v; refine (fun (hv : SameBut fl s₀ v.1) => ?_) ?_; (on_goal 1 => clear_value v); (on_goal 2 => (dsimp -zeta only [v]; try clear v)))
      | (extract_lets +onlyGivenNames v; first | (have w : Mem := v; clear w) | (have w : DictState := v; clear w) | (have w : Fw := v; clear w) | clear_value v)
      | with_reducible apply ih
      | with_reducible apply State_serve_same hl
      | (with_reducible refine foldl_same _ _ ?_ ?_; on_goal 2 => (intro t x ht; try beta_reduce))
      | (with_reducible refine foldl_same₂ _ _ _ ?_ ?_; on_goal 2 => (intro t b x ht; try dsimp -zeta only))
      | ((simp -zeta only [frame_mk]; with_reducible refine frame_lit ps152 ?_ kd ?_); on_goal 2 => exact ⟨.inr rfl, .inr rfl, .inl rfl, .inr rfl, .inr rfl, .inr rfl, .inr rfl, .inr rfl, .inr rfl, .inr rfl, .inr rfl, .inl rfl, .inl rfl, .inl rfl, .inl rfl, .inl rfl, .inr rfl, .inl rfl, .inl rfl, .inl rfl, .inr rfl, .inl rfl, .inr rfl, .inr rfl, .inr rfl, .inr rfl, .inr rfl, .inr rfl, .inr rfl, .inr rfl, .inr rfl⟩)
      | with_reducible refine pair_same (by with_reducible assumption) ?_
      | split
      | (dsimp -zeta only)
  | cons x l ih =>
    rw [State.serveList]
    repeat' first
      | with_reducible assumption
      | (with_reducible intro x; try beta_reduce)
      | (extract_lets +onlyGivenNames v; refine (fun (hv : SameBut fl s₀ v) => ?_) ?_; (on_goal 1 => clear_value v); (on_goal 2 => (dsimp -zeta only [v]; try clear v)))
      | (extract_lets +onlyGivenNames v; refine (fun (hv : SameBut fl s₀ v.1) => ?_) ?_; (on_goal 1 => clear_value v); (on_goal 2 => (dsimp -zeta only [v]; try clear v)))
      | (extract_lets +onlyGivenNames v; first | (have w : Mem := v; clear w) | (have w : DictState := v; clear w) | (have w : Fw := v; clear w) | clear_value v)
      | with_reducible apply ih
      | with_reducible apply State_serve_same hl
      | (with_reducible refine foldl_same _ _ ?_ ?_; on_goal 2 => (intro t x ht; try beta_reduce))
      | (with_reducible refine foldl_same₂ _ _ _ ?_ ?_; on_goal 2 => (intro t b x ht; try dsimp -zeta only))
      | ((simp -zeta only [frame_mk]; with_reducible refine frame_lit ps152 ?_ kd ?_); on_goal 2 => exact ⟨.inr rfl, .inr rfl, .inl rfl, .inr rfl, .inr rfl, .inr rfl, .inr rfl, .inr rfl, .inr rfl, .inr rfl, .inr rfl, .inl rfl, .inl rfl, .inl rfl, .inl rfl, .inl rfl, .inr rfl, .inl rfl, .inl rfl, .inl rfl, .inr rfl, .inl rfl, .inr rfl, .inr rfl, .inr rfl, .inr rfl, .inr rfl, .inr rfl, .inr rfl, .inr rfl, .inr rfl⟩)
      | with_reducible refine pair_same (by with_reducible assumption) ?_
      | split
      | (dsimp -zeta only)

theorem State_retryN_same {fl : List Facet} {s₀ : State} (hl : subL ps152 fl = true) (a0 : Nat) (a1 : State) (h1 : SameBut fl s₀ a1) :
    SameBut fl s₀ (State.retryN a0 a1) := by
  have kd : subL ps152 fl = true := subL_trans rfl hl
  induction a0 generalizing a1 with
  | zero =>
    rw [State.retryN]
    repeat' first
      | with_reducible assumption
      | (with_reducible intro x; try beta_reduce)
      | (extract_lets +onlyGivenNames v; refine (fun (hv : SameBut fl s₀ v) => ?_) ?_; (on_goal 1 => clear_value v); (on_goal 2 => (dsimp -zeta only [v]; try clear v)))
      | (extract_lets +onlyGivenNames v; refine (fun (hv : SameBut fl s₀ v.1) => ?_) ?_; (on_goal 1 => clear_value v); (on_goal 2 => (dsimp -zeta only [v]; try clear v)))
      | (extract_lets +onlyGivenNames v; first | (have w : Mem := v; clear w) | (have w : DictState := v; clear w) | (have w : Fw := v; clear w) | clear_value v)
      | with_reducible apply ih
      | with_reducible apply State_serveList_same hl
      | (with_reducible refine foldl_same _ _ ?_ ?_; on_goal 2 => (intro t x ht; try beta_reduce))
      | (with_reducible refine foldl_same₂ _ _ _ ?_ ?_; on_goal 2 => (intro t b x ht; try dsimp -zeta only))
      | ((simp -zeta only [frame_mk]; with_reducible refine frame_lit ps152 ?_ kd ?_); on_goal 2 => exact ⟨.inr rfl, .inr rfl, .inl rfl, .inr rfl, .inr rfl, .inr rfl, .inr rfl, .inr rfl, .inr rfl, .inr rfl, .inr rfl, .inl rfl, .inl rfl, .inl rfl, .inl rfl, .inl rfl, .inr rfl, .inl rfl, .inl rfl, .inl rfl, .inr rfl, .inl rfl, .inr rfl, .inr rfl, .inr rfl, .inr rfl, .inr rfl, .inr rfl, .inr rfl, .inr rfl, .inr rfl⟩)
      | with_reducible refine pair_same (by with_reducible assumption) ?_
      | split
      | (dsimp -zeta only)
  | succ n ih =>
    rw [State.retryN]
    repeat' first
      | with_reducible assumption
      | (with_reducible intro x; try beta_reduce)
      | (extract_lets +onlyGivenNames v; refine (fun (hv : SameBut fl s₀ v) => ?_) ?_; (on_goal 1 => clear_value v); (on_goal 2 => (dsimp -zeta only [v]; try clear v)))
      | (extract_lets +onlyGivenNames v; refine (fun (hv : SameBut fl s₀ v.1) => ?_) ?_; (on_goal 1 => clear_value v); (on_goal 2 => (dsimp -zeta only [v]; try clear v)))
      | (extract_lets +onlyGivenNames v; first | (have w : Mem := v; clear w) | (have w : DictState := v; clear w) | (have w : Fw := v; clear w) | clear_value v)
      | with_reducible apply ih
      | with_reducible apply State_serveList_same hl
      | (with_reducible refine foldl_same _ _ ?_ ?_; on_goal 2 => (intro t x ht; try beta_reduce))
      | (with_reducible refine foldl_same₂ _ _ _ ?_ ?_; on_goal 2 => (intro t b x ht; try dsimp -zeta only))
      | ((simp -zeta only [frame_mk]; with_reducible refine frame_lit ps152 ?_ kd ?_); on_goal 2 => exact ⟨.inr rfl, .inr rfl, .inl rfl, .inr rfl, .inr rfl, .inr rfl, .inr rfl, .inr rfl, .inr rfl, .inr rfl, .inr rfl, .inl rfl, .inl rfl, .inl rfl, .inl rfl, .inl rfl, .inr rfl, .inl rfl, .inl rfl, .inl rfl, .inr rfl, .inl rfl, .inr rfl, .inr rfl, .inr rfl, .inr rfl, .inr rfl, .inr rfl, .inr rfl, .inr rfl, .inr rfl⟩)
      | with_reducible refine pair_same (by with_reducible assumption) ?_
      | split
      | (dsimp -zeta only)

theorem State_retry_same {fl : List Facet} {s₀ : State} (hl : subL ps152 fl = true) (a0 : State) (h0 : SameBut fl s₀ a0) :
    SameBut fl s₀ (State.retry a0) := by
  have kd : subL ps0 fl = true := subL_trans rfl hl
  unfold State.retry
  repeat' first
    | with_reducible assumption
    | (with_reducible intro x; try beta_reduce)
    | (extract_lets +onlyGivenNames v; refine (fun (hv : SameBut fl s₀ v) => ?_) ?_; (on_goal 1 => clear_value v); (on_goal 2 => (dsimp -zeta only [v]; try clear v)))
    | (extract_lets +onlyGivenNames v; refine (fun (hv : SameBut fl s₀ v.1) => ?_) ?_; (on_goal 1 => clear_value v); (on_goal 2 => (dsimp -zeta only [v]; try clear v)))
    | (extract_lets +onlyGivenNames v; first | (have w : Mem := v; clear w) | (have w : DictState := v; clear w) | (have w : Fw := v; clear w) | clear_value v)
    | with_reducible apply State_retryN_same hl
    | (with_reducible refine foldl_same _ _ ?_ ?_; on_goal 2 => (intro t x ht; try beta_reduce))
    | (with_reducible refine foldl_same₂ _ _ _ ?_ ?_; on_goal 2 => (intro t b x ht; try dsimp -zeta only))
    | ((simp -zeta only [frame_mk]; with_reducible refine frame_lit ps0 ?_ kd ?_); on_goal 2 => exact ⟨.inr rfl, .inr rfl, .inr rfl, .inr rfl, .inr rfl, .inr rfl, .inr rfl, .inr rfl, .inr rfl, .inr rfl, .inr rfl, .inr rfl, .inr rfl, .inr rfl, .inr rfl, .inr rfl, .inr rfl, .inr rfl, .inr rfl, .inr rfl, .inr rfl, .inr rfl, .inr rfl, .inr rfl, .inr rfl, .inr rfl, .inr rfl, .inr rfl, .inr rfl, .inr rfl, .inr rfl⟩)
    | with_reducible refine pair_same (by with_reducible assumption) ?_
    | split
    | (dsimp -zeta only)

theorem State_submit_same {fl : List Facet} {s₀ : State} (hl : subL ps152 fl = true) (a0 : State) (a1 : Req) (h0 : SameBut fl s₀ a0) :
    SameBut fl s₀ (State.submit a0 a1) := by
  have kd : subL ps9 fl = true := subL_trans rfl hl
  unfold State.submit
  repeat' first
    | with_reducible assumption
    | (with_reducible intro x; try beta_reduce)
    | (extract_lets +onlyGivenNames v; refine (fun (hv : SameBut fl s₀ v) => ?_) ?_; (on_goal 1 => clear_value v); (on_goal 2 => (dsimp -zeta only [v]; try clear v)))
    | (extract_lets +onlyGivenNames v; refine (fun (hv : SameBut fl s₀ v.1) => ?_) ?_; (on_goal 1 => clear_value v); (on_goal 2 => (dsimp -zeta only [v]; try clear v)))
    | (extract_lets +onlyGivenNames v; first | (have w : Mem := v; clear w) | (have w : DictState := v; clear w) | (have w : Fw := v; clear w) | clear_value v)
    | with_reducible apply State_serve_same hl
    | with_reducible apply State_retry_same hl
    | (with_reducible refine foldl_same _ _ ?_ ?_; on_goal 2 => (intro t x ht; try beta_reduce))
    | (with_reducible refine foldl_same₂ _ _ _ ?_ ?_; on_goal 2 => (intro t b x ht; try dsimp -zeta only))
    | ((simp -zeta only [frame_mk]; with_reducible refine frame_lit ps9 ?_ kd ?_); on_goal 2 => exact ⟨.inr rfl, .inr rfl, .inr rfl, .inr rfl, .inr rfl, .inr rfl, .inr rfl, .inr rfl, .inr rfl, .inr rfl, .inr rfl, .inr rfl, .inr rfl, .inl rfl, .inr rfl, .inr rfl, .inr rfl, .inr rfl, .inr rfl, .inr rfl, .inr rfl, .inr rfl, .inr rfl, .inr rfl, .inr rfl, .inr rfl, .inr rfl, .inr rfl, .inr rfl, .inr rfl, .inr rfl⟩)
    | with_reducible refine pair_same (by with_reducible assumption) ?_
    | split
    | (dsimp -zeta only)

theorem State_missLoad_same {fl : List Facet} {s₀ : State} (hl : subL ps152 fl = true) (a0 : State) (a1 : Nat) (a2 : Req) (h0 : SameBut fl s₀ a0) :
    SameBut fl s₀ (State.missLoad a0 a1 a2) := by
  have k_ps25 : subL ps25 fl = true := subL_trans rfl hl
  have kd : subL ps0 fl = true := subL_trans rfl hl
  unfold State.missLoad
  repeat' first
    | with_reducible assumption
    | (with_reducible intro x; try beta_reduce)
    | (extract_lets +onlyGivenNames v; refine (fun (hv : SameBut fl s₀ v) => ?_) ?_; (on_goal 1 => clear_value v); (on_goal 2 => (dsimp -zeta only [v]; try clear v)))
    | (extract_lets +onlyGivenNames v; refine (fun (hv : SameBut fl s₀ v.1) => ?_) ?_; (on_goal 1 => clear_value v); (on_goal 2 => (dsimp -zeta only [v]; try clear v)))
    | (extract_lets +onlyGivenNames v; first | (have w : Mem := v; clear w) | (have w : DictState := v; clear w) | (have w : Fw := v; clear w) | clear_value v)
    | with_reducible apply State_submit_same hl
    | with_reducible apply State_adjTile_same k_ps25
    | (with_reducible refine foldl_same _ _ ?_ ?_; on_goal 2 => (intro t x ht; try beta_reduce))
    | (with_reducible refine foldl_same₂ _ _ _ ?_ ?_; on_goal 2 => (intro t b x ht; try dsimp -zeta only))
    | ((simp -zeta only [frame_mk]; with_reducible refine frame_lit ps0 ?_ kd ?_); on_goal 2 => exact ⟨.inr rfl, .inr rfl, .inr rfl, .inr rfl, .inr rfl, .inr rfl, .inr rfl, .inr rfl, .inr rfl, .inr rfl, .inr rfl, .inr rfl, .inr rfl, .inr rfl, .inr rfl, .inr rfl, .inr rfl, .inr rfl, .inr rfl, .inr rfl, .inr rfl, .inr rfl, .inr rfl, .inr rfl, .inr rfl, .inr rfl, .inr rfl, .inr rfl, .inr rfl, .inr rfl, .inr rfl⟩)
    | with_reducible refine pair_same (by with_reducible assumption) ?_
    | split
    | (dsimp -zeta only)

end Sys2Proof.Laws
end

