-- ==== Sys2Proof/Laws/FrameConverter.lean ====
section
/-! SUPPORT. What the operations of Machine/Converter.lean leave unchanged (`SameBut`): one lemma for each. -/

set_option Elab.async false
set_option linter.all false

namespace Sys2Proof.Laws

open Sys2Proof Sys2Proof.Machine

theorem State_raiseSat_same {fl : List Facet} {s₀ : State} (hl : subL ps100 fl = true) (a0 : State) (a1 : Nat) (a2 : Nat) (a3 : LogAddr) (a4 : Nat) (a5 : Nat) (h0 : SameBut fl s₀ a0) :
    SameBut fl s₀ (State.raiseSat a0 a1 a2 a3 a4 a5) := by
  have k_ps14 : subL ps14 fl = true := subL_trans rfl hl
  have k_ps16 : subL ps16 fl = true := subL_trans rfl hl
  have k_ps25 : subL ps25 fl = true := subL_trans rfl hl
  have k_ps34 : subL ps34 fl = true := subL_trans rfl hl
  have k_ps6 : subL ps6 fl = true := subL_trans rfl hl
  have k_ps63 : subL ps63 fl = true := subL_trans rfl hl
  have kd : subL ps0 fl = true := subL_trans rfl hl
  unfold State.raiseSat
  repeat' first
    | with_reducible assumption
    | (with_reducible intro x; try beta_reduce)
    | (extract_lets +onlyGivenNames v; refine (fun (hv : SameBut fl s₀ v) => ?_) ?_; (on_goal 1 => clear_value v); (on_goal 2 => (dsimp -zeta only [v]; try clear v)))
    | (extract_lets +onlyGivenNames v; refine (fun (hv : SameBut fl s₀ v.1) => ?_) ?_; (on_goal 1 => clear_value v); (on_goal 2 => (dsimp -zeta only [v]; try clear v)))
    | (extract_lets +onlyGivenNames v; first | (have w : Mem := v; clear w) | (have w : DictState := v; clear w) | (have w : Fw := v; clear w) | clear_value v)
    | with_reducible apply State_bump_same k_ps6
    | with_reducible apply State_event_same k_ps34
    | with_reducible apply State_adjEntry_same k_ps16
    | with_reducible apply State_adjTile_same k_ps25
    | with_reducible apply State_limitMark_same k_ps14
    | with_reducible apply State_log_same k_ps63
    | (with_reducible refine foldl_same _ _ ?_ ?_; on_goal 2 => (intro t x ht; try beta_reduce))
    | (with_reducible refine foldl_same₂ _ _ _ ?_ ?_; on_goal 2 => (intro t b x ht; try dsimp -zeta only))
    | ((simp -zeta only [frame_mk]; with_reducible refine frame_lit ps0 ?_ kd ?_); on_goal 2 => exact ⟨.inr rfl, .inr rfl, .inr rfl, .inr rfl, .inr rfl, .inr rfl, .inr rfl, .inr rfl, .inr rfl, .inr rfl, .inr rfl, .inr rfl, .inr rfl, .inr rfl, .inr rfl, .inr rfl, .inr rfl, .inr rfl, .inr rfl, .inr rfl, .inr rfl, .inr rfl, .inr rfl, .inr rfl, .inr rfl, .inr rfl, .inr rfl, .inr rfl, .inr rfl, .inr rfl, .inr rfl⟩)
    | with_reducible refine pair_same (by with_reducible assumption) ?_
    | split
    | (dsimp -zeta only)

end Sys2Proof.Laws
end

