-- ==== Sys2Proof/Laws/FrameErrors.lean ====
section
/-! SUPPORT. What the operations of Machine/Errors.lean leave unchanged (`SameBut`): one lemma for each. -/

set_option Elab.async false
set_option linter.all false

namespace Sys2Proof.Laws

open Sys2Proof Sys2Proof.Machine

theorem State_corrected_same {fl : List Facet} {s₀ : State} (hl : subL ps63 fl = true) (a0 : State) (a1 : Nat) (a2 : Nat) (a3 : Nat) (a4 : Nat) (a5 : LogAddr) (a6 : Nat) (h0 : SameBut fl s₀ a0) :
    SameBut fl s₀ (State.corrected a0 a1 a2 a3 a4 a5 a6) := by
  have k_ps6 : subL ps6 fl = true := subL_trans rfl hl
  have kd : subL ps14 fl = true := subL_trans rfl hl
  unfold State.corrected
  repeat' first
    | with_reducible assumption
    | (extract_lets +onlyGivenNames v; refine (fun (hv : SameBut fl s₀ v) => ?_) ?_; (on_goal 1 => clear_value v); (on_goal 2 => (dsimp -zeta only [v]; try clear v)))
    | (extract_lets +onlyGivenNames v; first | (have w : Mem := v; clear w) | (have w : DictState := v; clear w) | (have w : Fw := v; clear w) | clear_value v)
    | with_reducible apply State_bump_same k_ps6
    | with_reducible apply State_log_same hl
    | ((simp -zeta only [frame_mk]; with_reducible refine frame_lit ps14 ?_ kd ?_); on_goal 2 => exact ⟨.inr rfl, .inr rfl, .inr rfl, .inr rfl, .inr rfl, .inr rfl, .inr rfl, .inr rfl, .inr rfl, .inr rfl, .inr rfl, .inr rfl, .inr rfl, .inr rfl, .inr rfl, .inr rfl, .inr rfl, .inr rfl, .inr rfl, .inr rfl, .inr rfl, .inl rfl, .inr rfl, .inr rfl, .inr rfl, .inr rfl, .inr rfl, .inr rfl, .inr rfl, .inr rfl, .inr rfl⟩)
    | split

theorem State_retireGroup_same {fl : List Facet} {s₀ : State} (hl : subL ps120 fl = true) (a0 : State) (a1 : Nat) (a2 : Nat) (h0 : SameBut fl s₀ a0) :
    SameBut fl s₀ (State.retireGroup a0 a1 a2) := by
  have kd : subL ps0 fl = true := subL_trans rfl hl
  unfold State.retireGroup
  repeat' first
    | with_reducible assumption
    | (with_reducible intro x; try beta_reduce)
    | (extract_lets +onlyGivenNames v; refine (fun (hv : SameBut fl s₀ v) => ?_) ?_; (on_goal 1 => clear_value v); (on_goal 2 => (dsimp -zeta only [v]; try clear v)))
    | (extract_lets +onlyGivenNames v; refine (fun (hv : SameBut fl s₀ v.1) => ?_) ?_; (on_goal 1 => clear_value v); (on_goal 2 => (dsimp -zeta only [v]; try clear v)))
    | (extract_lets +onlyGivenNames v; first | (have w : Mem := v; clear w) | (have w : DictState := v; clear w) | (have w : Fw := v; clear w) | clear_value v)
    | with_reducible apply State_startRetire_same hl
    | (with_reducible refine foldl_same _ _ ?_ ?_; on_goal 2 => (intro t x ht; try beta_reduce))
    | (with_reducible refine foldl_same₂ _ _ _ ?_ ?_; on_goal 2 => (intro t b x ht; try dsimp -zeta only))
    | ((simp -zeta only [frame_mk]; with_reducible refine frame_lit ps0 ?_ kd ?_); on_goal 2 => exact ⟨.inr rfl, .inr rfl, .inr rfl, .inr rfl, .inr rfl, .inr rfl, .inr rfl, .inr rfl, .inr rfl, .inr rfl, .inr rfl, .inr rfl, .inr rfl, .inr rfl, .inr rfl, .inr rfl, .inr rfl, .inr rfl, .inr rfl, .inr rfl, .inr rfl, .inr rfl, .inr rfl, .inr rfl, .inr rfl, .inr rfl, .inr rfl, .inr rfl, .inr rfl, .inr rfl, .inr rfl⟩)
    | with_reducible refine pair_same (by with_reducible assumption) ?_
    | split
    | (dsimp -zeta only)

theorem State_recordFault_same {fl : List Facet} {s₀ : State} (hl : subL ps63 fl = true) (a0 : State) (a1 : HardFault) (a2 : Nat) (a3 : LogAddr) (h0 : SameBut fl s₀ a0) :
    SameBut fl s₀ (State.recordFault a0 a1 a2 a3).1 := by
  have kd : subL ps14 fl = true := subL_trans rfl hl
  unfold State.recordFault
  repeat' first
    | with_reducible assumption
    | (with_reducible intro x; try beta_reduce)
    | (extract_lets +onlyGivenNames v; refine (fun (hv : SameBut fl s₀ v) => ?_) ?_; (on_goal 1 => clear_value v); (on_goal 2 => (dsimp -zeta only [v]; try clear v)))
    | (extract_lets +onlyGivenNames v; refine (fun (hv : SameBut fl s₀ v.1) => ?_) ?_; (on_goal 1 => clear_value v); (on_goal 2 => (dsimp -zeta only [v]; try clear v)))
    | (extract_lets +onlyGivenNames v; first | (have w : Mem := v; clear w) | (have w : DictState := v; clear w) | (have w : Fw := v; clear w) | clear_value v)
    | with_reducible apply State_log_same hl
    | (with_reducible refine foldl_same _ _ ?_ ?_; on_goal 2 => (intro t x ht; try beta_reduce))
    | (with_reducible refine foldl_same₂ _ _ _ ?_ ?_; on_goal 2 => (intro t b x ht; try dsimp -zeta only))
    | ((simp -zeta only [frame_mk]; with_reducible refine frame_lit ps14 ?_ kd ?_); on_goal 2 => exact ⟨.inr rfl, .inr rfl, .inr rfl, .inr rfl, .inr rfl, .inr rfl, .inr rfl, .inr rfl, .inr rfl, .inr rfl, .inr rfl, .inr rfl, .inr rfl, .inr rfl, .inr rfl, .inr rfl, .inr rfl, .inr rfl, .inr rfl, .inr rfl, .inr rfl, .inl rfl, .inr rfl, .inr rfl, .inr rfl, .inr rfl, .inr rfl, .inr rfl, .inr rfl, .inr rfl, .inr rfl⟩)
    | with_reducible refine pair_same (by with_reducible assumption) ?_
    | split
    | (dsimp -zeta only)

theorem State_feltHardFault_same {fl : List Facet} {s₀ : State} (hl : subL ps132 fl = true) (a0 : State) (a1 : Nat) (a2 : Nat) (h0 : SameBut fl s₀ a0) :
    SameBut fl s₀ (State.feltHardFault a0 a1 a2) := by
  have k_ps120 : subL ps120 fl = true := subL_trans rfl hl
  have k_ps63 : subL ps63 fl = true := subL_trans rfl hl
  unfold State.feltHardFault
  repeat' first
    | with_reducible assumption
    | (extract_lets +onlyGivenNames v; first | (have w : Mem := v; clear w) | (have w : DictState := v; clear w) | (have w : Fw := v; clear w) | clear_value v)
    | with_reducible apply State_recordFault_same k_ps63
    | with_reducible apply State_retireGroup_same k_ps120
    | with_reducible refine pair_same (by with_reducible assumption) ?_
    | split

theorem State_feltError_same {fl : List Facet} {s₀ : State} (hl : subL ps132 fl = true) (a0 : State) (a1 : Nat) (a2 : Nat) (a3 : ErrHit) (h0 : SameBut fl s₀ a0) :
    SameBut fl s₀ (State.feltError a0 a1 a2 a3) := by
  have k_ps6 : subL ps6 fl = true := subL_trans rfl hl
  have k_ps63 : subL ps63 fl = true := subL_trans rfl hl
  have k_ps9 : subL ps9 fl = true := subL_trans rfl hl
  unfold State.feltError
  repeat' first
    | with_reducible assumption
    | (extract_lets +onlyGivenNames v; refine (fun (hf : ∀ y0 y1 y2, SameBut fl s₀ y0 → SameBut fl s₀ (v y0 y1 y2)) => ?_) ?_; (on_goal 1 => clear_value v); (on_goal 2 => (dsimp -zeta only [v]; intro y0 y1 y2 hy; try dsimp -zeta only)))
    | with_reducible apply hf
    | (extract_lets +onlyGivenNames v; refine (fun (hv : SameBut fl s₀ v) => ?_) ?_; (on_goal 1 => clear_value v); (on_goal 2 => (dsimp -zeta only [v]; try clear v)))
    | (extract_lets +onlyGivenNames v; first | (have w : Mem := v; clear w) | (have w : DictState := v; clear w) | (have w : Fw := v; clear w) | clear_value v)
    | with_reducible apply State_feltHardFault_same hl
    | with_reducible apply State_corrected_same k_ps63
    | with_reducible apply State_log_same k_ps63
    | with_reducible apply State_bump_same k_ps6
    | with_reducible apply State_setLine_same k_ps9
    | split

theorem State_l1Error_same {fl : List Facet} {s₀ : State} (hl : subL ps100 fl = true) (a0 : State) (a1 : Nat) (a2 : Nat) (a3 : ErrHit) (h0 : SameBut fl s₀ a0) :
    SameBut fl s₀ (State.l1Error a0 a1 a2 a3) := by
  have k_ps25 : subL ps25 fl = true := subL_trans rfl hl
  have k_ps6 : subL ps6 fl = true := subL_trans rfl hl
  have k_ps63 : subL ps63 fl = true := subL_trans rfl hl
  unfold State.l1Error
  repeat' first
    | with_reducible assumption
    | (extract_lets +onlyGivenNames v; refine (fun (hf : ∀ y0 y1 y2, SameBut fl s₀ y0 → SameBut fl s₀ (v y0 y1 y2)) => ?_) ?_; (on_goal 1 => clear_value v); (on_goal 2 => (dsimp -zeta only [v]; intro y0 y1 y2 hy; try dsimp -zeta only)))
    | with_reducible apply hf
    | (extract_lets +onlyGivenNames v; refine (fun (hv : SameBut fl s₀ v) => ?_) ?_; (on_goal 1 => clear_value v); (on_goal 2 => (dsimp -zeta only [v]; try clear v)))
    | with_reducible apply State_recordFault_same k_ps63
    | with_reducible apply State_corrected_same k_ps63
    | with_reducible apply State_log_same k_ps63
    | with_reducible apply State_bump_same k_ps6
    | with_reducible apply State_adjTile_same k_ps25
    | split

theorem State_scratchError_same {fl : List Facet} {s₀ : State} (hl : subL ps100 fl = true) (a0 : State) (a1 : Nat) (a2 : Nat) (a3 : Nat) (a4 : ErrHit) (h0 : SameBut fl s₀ a0) :
    SameBut fl s₀ (State.scratchError a0 a1 a2 a3 a4) := by
  have k_ps25 : subL ps25 fl = true := subL_trans rfl hl
  have k_ps6 : subL ps6 fl = true := subL_trans rfl hl
  have k_ps63 : subL ps63 fl = true := subL_trans rfl hl
  have kd : subL ps0 fl = true := subL_trans rfl hl
  unfold State.scratchError
  repeat' first
    | with_reducible assumption
    | (with_reducible intro x; try beta_reduce)
    | (extract_lets +onlyGivenNames v; refine (fun (hf : ∀ y0 y1 y2, SameBut fl s₀ y0 → SameBut fl s₀ (v y0 y1 y2)) => ?_) ?_; (on_goal 1 => clear_value v); (on_goal 2 => (dsimp -zeta only [v]; intro y0 y1 y2 hy; try dsimp -zeta only)))
    | with_reducible apply hf
    | (extract_lets +onlyGivenNames v; refine (fun (hv : SameBut fl s₀ v) => ?_) ?_; (on_goal 1 => clear_value v); (on_goal 2 => (dsimp -zeta only [v]; try clear v)))
    | (extract_lets +onlyGivenNames v; refine (fun (hv : SameBut fl s₀ v.1) => ?_) ?_; (on_goal 1 => clear_value v); (on_goal 2 => (dsimp -zeta only [v]; try clear v)))
    | (extract_lets +onlyGivenNames v; first | (have w : Mem := v; clear w) | (have w : DictState := v; clear w) | (have w : Fw := v; clear w) | clear_value v)
    | with_reducible apply State_recordFault_same k_ps63
    | with_reducible apply State_corrected_same k_ps63
    | with_reducible apply State_log_same k_ps63
    | with_reducible apply State_bump_same k_ps6
    | with_reducible apply State_adjBlock_same k_ps25
    | (with_reducible refine foldl_same _ _ ?_ ?_; on_goal 2 => (intro t x ht; try beta_reduce))
    | (with_reducible refine foldl_same₂ _ _ _ ?_ ?_; on_goal 2 => (intro t b x ht; try dsimp -zeta only))
    | ((simp -zeta only [frame_mk]; with_reducible refine frame_lit ps0 ?_ kd ?_); on_goal 2 => exact ⟨.inr rfl, .inr rfl, .inr rfl, .inr rfl, .inr rfl, .inr rfl, .inr rfl, .inr rfl, .inr rfl, .inr rfl, .inr rfl, .inr rfl, .inr rfl, .inr rfl, .inr rfl, .inr rfl, .inr rfl, .inr rfl, .inr rfl, .inr rfl, .inr rfl, .inr rfl, .inr rfl, .inr rfl, .inr rfl, .inr rfl, .inr rfl, .inr rfl, .inr rfl, .inr rfl, .inr rfl⟩)
    | with_reducible refine pair_same (by with_reducible assumption) ?_
    | split
    | (dsimp -zeta only)

theorem State_canvasError_same {fl : List Facet} {s₀ : State} (hl : subL ps63 fl = true) (a0 : State) (a1 : Nat) (a2 : Nat) (a3 : LogAddr) (a4 : Nat) (a5 : Bool) (a6 : ErrHit) (h0 : SameBut fl s₀ a0) :
    SameBut fl s₀ (State.canvasError a0 a1 a2 a3 a4 a5 a6) := by
  have k_ps6 : subL ps6 fl = true := subL_trans rfl hl
  have kd : subL ps0 fl = true := subL_trans rfl hl
  unfold State.canvasError
  repeat' first
    | with_reducible assumption
    | (with_reducible intro x; try beta_reduce)
    | (extract_lets +onlyGivenNames v; refine (fun (hf : ∀ y0 y1 y2, SameBut fl s₀ y0 → SameBut fl s₀ (v y0 y1 y2)) => ?_) ?_; (on_goal 1 => clear_value v); (on_goal 2 => (dsimp -zeta only [v]; intro y0 y1 y2 hy; try dsimp -zeta only)))
    | with_reducible apply hf
    | (extract_lets +onlyGivenNames v; refine (fun (hv : SameBut fl s₀ v) => ?_) ?_; (on_goal 1 => clear_value v); (on_goal 2 => (dsimp -zeta only [v]; try clear v)))
    | (extract_lets +onlyGivenNames v; refine (fun (hv : SameBut fl s₀ v.1) => ?_) ?_; (on_goal 1 => clear_value v); (on_goal 2 => (dsimp -zeta only [v]; try clear v)))
    | (extract_lets +onlyGivenNames v; first | (have w : Mem := v; clear w) | (have w : DictState := v; clear w) | (have w : Fw := v; clear w) | clear_value v)
    | with_reducible apply State_recordFault_same hl
    | with_reducible apply State_corrected_same hl
    | with_reducible apply State_log_same hl
    | with_reducible apply State_bump_same k_ps6
    | (with_reducible refine foldl_same _ _ ?_ ?_; on_goal 2 => (intro t x ht; try beta_reduce))
    | (with_reducible refine foldl_same₂ _ _ _ ?_ ?_; on_goal 2 => (intro t b x ht; try dsimp -zeta only))
    | ((simp -zeta only [frame_mk]; with_reducible refine frame_lit ps0 ?_ kd ?_); on_goal 2 => exact ⟨.inr rfl, .inr rfl, .inr rfl, .inr rfl, .inr rfl, .inr rfl, .inr rfl, .inr rfl, .inr rfl, .inr rfl, .inr rfl, .inr rfl, .inr rfl, .inr rfl, .inr rfl, .inr rfl, .inr rfl, .inr rfl, .inr rfl, .inr rfl, .inr rfl, .inr rfl, .inr rfl, .inr rfl, .inr rfl, .inr rfl, .inr rfl, .inr rfl, .inr rfl, .inr rfl, .inr rfl⟩)
    | with_reducible refine pair_same (by with_reducible assumption) ?_
    | split
    | (dsimp -zeta only)

theorem State_parityReplay_same {fl : List Facet} {s₀ : State} (hl : subL ps63 fl = true) (a0 : State) (a1 : Nat) (a2 : Nat) (h0 : SameBut fl s₀ a0) :
    SameBut fl s₀ (State.parityReplay a0 a1 a2) := by
  have k_ps6 : subL ps6 fl = true := subL_trans rfl hl
  unfold State.parityReplay
  repeat' first
    | with_reducible assumption
    | with_reducible apply State_log_same hl
    | with_reducible apply State_bump_same k_ps6

end Sys2Proof.Laws
end

