-- ==== Sys2Proof/Laws/FrameOperands.lean ====
section
/-! SUPPORT. What the operations of Machine/Operands.lean leave unchanged (`SameBut`): one lemma for each. -/

set_option Elab.async false
set_option linter.all false

namespace Sys2Proof.Laws

open Sys2Proof Sys2Proof.Machine

theorem State_adjOwner_same {fl : List Facet} {s₀ : State} (hl : subL ps25 fl = true) (a0 : State) (a1 : Nat) (a2 : Nat) (a3 : Block → Block) (h0 : SameBut fl s₀ a0) :
    SameBut fl s₀ (State.adjOwner a0 a1 a2 a3) := by
  unfold State.adjOwner
  repeat' first
    | with_reducible assumption
    | with_reducible apply State_adjTile_same hl

theorem State_opSector_same {fl : List Facet} {s₀ : State} (hl : subL ps141 fl = true) (a0 : State) (a1 : Nat) (a2 : Nat) (a3 : Bool) (a4 : Nat) (a5 : Nat) (h0 : SameBut fl s₀ a0) :
    SameBut fl s₀ (State.opSector a0 a1 a2 a3 a4 a5).1 := by
  have k_ps63 : subL ps63 fl = true := subL_trans rfl hl
  have kd : subL ps0 fl = true := subL_trans rfl hl
  unfold State.opSector
  repeat' first
    | with_reducible assumption
    | (with_reducible intro x; try beta_reduce)
    | (extract_lets +onlyGivenNames v; refine (fun (hv : SameBut fl s₀ v) => ?_) ?_; (on_goal 1 => clear_value v); (on_goal 2 => (dsimp -zeta only [v]; try clear v)))
    | (extract_lets +onlyGivenNames v; refine (fun (hv : SameBut fl s₀ v.1) => ?_) ?_; (on_goal 1 => clear_value v); (on_goal 2 => (dsimp -zeta only [v]; try clear v)))
    | (extract_lets +onlyGivenNames v; first | (have w : Mem := v; clear w) | (have w : DictState := v; clear w) | (have w : Fw := v; clear w) | clear_value v)
    | with_reducible apply State_violation_same k_ps63
    | with_reducible apply State_bankRead_same hl
    | (with_reducible refine foldl_same _ _ ?_ ?_; on_goal 2 => (intro t x ht; try beta_reduce))
    | (with_reducible refine foldl_same₂ _ _ _ ?_ ?_; on_goal 2 => (intro t b x ht; try dsimp -zeta only))
    | ((simp -zeta only [frame_mk]; with_reducible refine frame_lit ps0 ?_ kd ?_); on_goal 2 => exact ⟨.inr rfl, .inr rfl, .inr rfl, .inr rfl, .inr rfl, .inr rfl, .inr rfl, .inr rfl, .inr rfl, .inr rfl, .inr rfl, .inr rfl, .inr rfl, .inr rfl, .inr rfl, .inr rfl, .inr rfl, .inr rfl, .inr rfl, .inr rfl, .inr rfl, .inr rfl, .inr rfl, .inr rfl, .inr rfl, .inr rfl, .inr rfl, .inr rfl, .inr rfl, .inr rfl, .inr rfl⟩)
    | with_reducible refine pair_same (by with_reducible assumption) ?_
    | split
    | (dsimp -zeta only)

theorem State_dataSector_same {fl : List Facet} {s₀ : State} (hl : subL ps141 fl = true) (a0 : State) (a1 : Nat) (a2 : Nat) (a3 : Bool) (a4 : Nat) (h0 : SameBut fl s₀ a0) :
    SameBut fl s₀ (State.dataSector a0 a1 a2 a3 a4).1 := by
  have k_ps63 : subL ps63 fl = true := subL_trans rfl hl
  have kd : subL ps0 fl = true := subL_trans rfl hl
  unfold State.dataSector
  repeat' first
    | with_reducible assumption
    | (with_reducible intro x; try beta_reduce)
    | (extract_lets +onlyGivenNames v; refine (fun (hv : SameBut fl s₀ v) => ?_) ?_; (on_goal 1 => clear_value v); (on_goal 2 => (dsimp -zeta only [v]; try clear v)))
    | (extract_lets +onlyGivenNames v; refine (fun (hv : SameBut fl s₀ v.1) => ?_) ?_; (on_goal 1 => clear_value v); (on_goal 2 => (dsimp -zeta only [v]; try clear v)))
    | (extract_lets +onlyGivenNames v; first | (have w : Mem := v; clear w) | (have w : DictState := v; clear w) | (have w : Fw := v; clear w) | clear_value v)
    | with_reducible apply State_opSector_same hl
    | with_reducible apply State_poisonHalted_same k_ps63
    | (with_reducible refine foldl_same _ _ ?_ ?_; on_goal 2 => (intro t x ht; try beta_reduce))
    | (with_reducible refine foldl_same₂ _ _ _ ?_ ?_; on_goal 2 => (intro t b x ht; try dsimp -zeta only))
    | ((simp -zeta only [frame_mk]; with_reducible refine frame_lit ps0 ?_ kd ?_); on_goal 2 => exact ⟨.inr rfl, .inr rfl, .inr rfl, .inr rfl, .inr rfl, .inr rfl, .inr rfl, .inr rfl, .inr rfl, .inr rfl, .inr rfl, .inr rfl, .inr rfl, .inr rfl, .inr rfl, .inr rfl, .inr rfl, .inr rfl, .inr rfl, .inr rfl, .inr rfl, .inr rfl, .inr rfl, .inr rfl, .inr rfl, .inr rfl, .inr rfl, .inr rfl, .inr rfl, .inr rfl, .inr rfl⟩)
    | with_reducible refine pair_same (by with_reducible assumption) ?_
    | split
    | (dsimp -zeta only)

theorem State_gather_same {fl : List Facet} {s₀ : State} (hl : subL ps141 fl = true) (a0 : Nat) (a1 : Nat) (a2 : Bool) (a3 : Nat) (a4 : Nat) (a5 : List SectorVal) (a6 : State) (h6 : SameBut fl s₀ a6) :
    SameBut fl s₀ (State.gather a0 a1 a2 a3 a4 a5 a6).1 := by
  have kd : subL ps141 fl = true := subL_trans rfl hl
  induction a3 generalizing a0 a1 a2 a4 a5 a6 with
  | zero =>
    rw [State.gather]
    repeat' first
      | with_reducible assumption
      | (with_reducible intro x; try beta_reduce)
      | (extract_lets +onlyGivenNames v; refine (fun (hv : SameBut fl s₀ v) => ?_) ?_; (on_goal 1 => clear_value v); (on_goal 2 => (dsimp -zeta only [v]; try clear v)))
      | (extract_lets +onlyGivenNames v; refine (fun (hv : SameBut fl s₀ v.1) => ?_) ?_; (on_goal 1 => clear_value v); (on_goal 2 => (dsimp -zeta only [v]; try clear v)))
      | (extract_lets +onlyGivenNames v; first | (have w : Mem := v; clear w) | (have w : DictState := v; clear w) | (have w : Fw := v; clear w) | clear_value v)
      | with_reducible apply ih
      | with_reducible apply State_dataSector_same hl
      | (with_reducible refine foldl_same _ _ ?_ ?_; on_goal 2 => (intro t x ht; try beta_reduce))
      | (with_reducible refine foldl_same₂ _ _ _ ?_ ?_; on_goal 2 => (intro t b x ht; try dsimp -zeta only))
      | ((simp -zeta only [frame_mk]; with_reducible refine frame_lit ps141 ?_ kd ?_); on_goal 2 => exact ⟨.inr rfl, .inr rfl, .inl rfl, .inr rfl, .inr rfl, .inr rfl, .inr rfl, .inr rfl, .inr rfl, .inr rfl, .inr rfl, .inl rfl, .inr rfl, .inl rfl, .inl rfl, .inl rfl, .inr rfl, .inl rfl, .inl rfl, .inl rfl, .inr rfl, .inl rfl, .inr rfl, .inr rfl, .inr rfl, .inr rfl, .inr rfl, .inr rfl, .inr rfl, .inr rfl, .inr rfl⟩)
      | with_reducible refine pair_same (by with_reducible assumption) ?_
      | split
      | (dsimp -zeta only)
  | succ n ih =>
    rw [State.gather]
    repeat' first
      | with_reducible assumption
      | (with_reducible intro x; try beta_reduce)
      | (extract_lets +onlyGivenNames v; refine (fun (hv : SameBut fl s₀ v) => ?_) ?_; (on_goal 1 => clear_value v); (on_goal 2 => (dsimp -zeta only [v]; try clear v)))
      | (extract_lets +onlyGivenNames v; refine (fun (hv : SameBut fl s₀ v.1) => ?_) ?_; (on_goal 1 => clear_value v); (on_goal 2 => (dsimp -zeta only [v]; try clear v)))
      | (extract_lets +onlyGivenNames v; first | (have w : Mem := v; clear w) | (have w : DictState := v; clear w) | (have w : Fw := v; clear w) | clear_value v)
      | with_reducible apply ih
      | with_reducible apply State_dataSector_same hl
      | (with_reducible refine foldl_same _ _ ?_ ?_; on_goal 2 => (intro t x ht; try beta_reduce))
      | (with_reducible refine foldl_same₂ _ _ _ ?_ ?_; on_goal 2 => (intro t b x ht; try dsimp -zeta only))
      | ((simp -zeta only [frame_mk]; with_reducible refine frame_lit ps141 ?_ kd ?_); on_goal 2 => exact ⟨.inr rfl, .inr rfl, .inl rfl, .inr rfl, .inr rfl, .inr rfl, .inr rfl, .inr rfl, .inr rfl, .inr rfl, .inr rfl, .inl rfl, .inr rfl, .inl rfl, .inl rfl, .inl rfl, .inr rfl, .inl rfl, .inl rfl, .inl rfl, .inr rfl, .inl rfl, .inr rfl, .inr rfl, .inr rfl, .inr rfl, .inr rfl, .inr rfl, .inr rfl, .inr rfl, .inr rfl⟩)
      | with_reducible refine pair_same (by with_reducible assumption) ?_
      | split
      | (dsimp -zeta only)

theorem State_opRow_same {fl : List Facet} {s₀ : State} (hl : subL ps141 fl = true) (a0 : State) (a1 : Nat) (a2 : Nat) (a3 : Bool) (a4 : Nat) (a5 : Nat) (a6 : Nat) (h0 : SameBut fl s₀ a0) :
    SameBut fl s₀ (State.opRow a0 a1 a2 a3 a4 a5 a6).1 := by
  have kd : subL ps0 fl = true := subL_trans rfl hl
  unfold State.opRow
  repeat' first
    | with_reducible assumption
    | (with_reducible intro x; try beta_reduce)
    | (extract_lets +onlyGivenNames v; refine (fun (hv : SameBut fl s₀ v) => ?_) ?_; (on_goal 1 => clear_value v); (on_goal 2 => (dsimp -zeta only [v]; try clear v)))
    | (extract_lets +onlyGivenNames v; refine (fun (hv : SameBut fl s₀ v.1) => ?_) ?_; (on_goal 1 => clear_value v); (on_goal 2 => (dsimp -zeta only [v]; try clear v)))
    | (extract_lets +onlyGivenNames v; first | (have w : Mem := v; clear w) | (have w : DictState := v; clear w) | (have w : Fw := v; clear w) | clear_value v)
    | with_reducible apply State_gather_same hl
    | (with_reducible refine foldl_same _ _ ?_ ?_; on_goal 2 => (intro t x ht; try beta_reduce))
    | (with_reducible refine foldl_same₂ _ _ _ ?_ ?_; on_goal 2 => (intro t b x ht; try dsimp -zeta only))
    | ((simp -zeta only [frame_mk]; with_reducible refine frame_lit ps0 ?_ kd ?_); on_goal 2 => exact ⟨.inr rfl, .inr rfl, .inr rfl, .inr rfl, .inr rfl, .inr rfl, .inr rfl, .inr rfl, .inr rfl, .inr rfl, .inr rfl, .inr rfl, .inr rfl, .inr rfl, .inr rfl, .inr rfl, .inr rfl, .inr rfl, .inr rfl, .inr rfl, .inr rfl, .inr rfl, .inr rfl, .inr rfl, .inr rfl, .inr rfl, .inr rfl, .inr rfl, .inr rfl, .inr rfl, .inr rfl⟩)
    | with_reducible refine pair_same (by with_reducible assumption) ?_
    | split
    | (dsimp -zeta only)

theorem State_destSector_same {fl : List Facet} {s₀ : State} (hl : subL ps131 fl = true) (a0 : State) (a1 : Nat) (a2 : Nat) (a3 : Bool) (a4 : Nat) (a5 : Nat) (a6 : Bytes) (a7 : Option PoisonClass) (h0 : SameBut fl s₀ a0) :
    SameBut fl s₀ (State.destSector a0 a1 a2 a3 a4 a5 a6 a7).1 := by
  have k_ps123 : subL ps123 fl = true := subL_trans rfl hl
  have k_ps25 : subL ps25 fl = true := subL_trans rfl hl
  have kd : subL ps0 fl = true := subL_trans rfl hl
  unfold State.destSector
  repeat' first
    | with_reducible assumption
    | (with_reducible intro x; try beta_reduce)
    | (extract_lets +onlyGivenNames v; refine (fun (hv : SameBut fl s₀ v) => ?_) ?_; (on_goal 1 => clear_value v); (on_goal 2 => (dsimp -zeta only [v]; try clear v)))
    | (extract_lets +onlyGivenNames v; refine (fun (hv : SameBut fl s₀ v.1) => ?_) ?_; (on_goal 1 => clear_value v); (on_goal 2 => (dsimp -zeta only [v]; try clear v)))
    | (extract_lets +onlyGivenNames v; first | (have w : Mem := v; clear w) | (have w : DictState := v; clear w) | (have w : Fw := v; clear w) | clear_value v)
    | with_reducible apply State_bankStore_same k_ps123
    | with_reducible apply State_adjTile_same k_ps25
    | with_reducible apply State_adjOwner_same k_ps25
    | (with_reducible refine foldl_same _ _ ?_ ?_; on_goal 2 => (intro t x ht; try beta_reduce))
    | (with_reducible refine foldl_same₂ _ _ _ ?_ ?_; on_goal 2 => (intro t b x ht; try dsimp -zeta only))
    | ((simp -zeta only [frame_mk]; with_reducible refine frame_lit ps0 ?_ kd ?_); on_goal 2 => exact ⟨.inr rfl, .inr rfl, .inr rfl, .inr rfl, .inr rfl, .inr rfl, .inr rfl, .inr rfl, .inr rfl, .inr rfl, .inr rfl, .inr rfl, .inr rfl, .inr rfl, .inr rfl, .inr rfl, .inr rfl, .inr rfl, .inr rfl, .inr rfl, .inr rfl, .inr rfl, .inr rfl, .inr rfl, .inr rfl, .inr rfl, .inr rfl, .inr rfl, .inr rfl, .inr rfl, .inr rfl⟩)
    | with_reducible refine pair_same (by with_reducible assumption) ?_
    | split
    | (dsimp -zeta only)

theorem State_destBytes_same {fl : List Facet} {s₀ : State} (hl : subL ps131 fl = true) (a0 : Nat) (a1 : Nat) (a2 : Bool) (a3 : Nat) (a4 : List (Bytes × Option PoisonClass)) (a5 : State) (h5 : SameBut fl s₀ a5) :
    SameBut fl s₀ (State.destBytes a0 a1 a2 a3 a4 a5).1 := by
  induction a4 generalizing a0 a1 a2 a3 a5 with
  | nil =>
    rw [State.destBytes]
    repeat' with_reducible assumption
  | cons x l ih =>
    rw [State.destBytes]
    repeat' first
      | with_reducible assumption
      | with_reducible apply ih
      | with_reducible apply State_destSector_same hl
      | with_reducible refine pair_same (by with_reducible assumption) ?_
      | split

theorem State_dropLines_same {fl : List Facet} {s₀ : State} (hl : subL ps152 fl = true) (a0 : State) (a1 : Nat) (a2 : Nat) (a3 : List Nat) (h0 : SameBut fl s₀ a0) :
    SameBut fl s₀ (State.dropLines a0 a1 a2 a3) := by
  have k_ps25 : subL ps25 fl = true := subL_trans rfl hl
  have kd : subL ps0 fl = true := subL_trans rfl hl
  unfold State.dropLines
  repeat' first
    | with_reducible assumption
    | (with_reducible intro x; try beta_reduce)
    | (extract_lets +onlyGivenNames v; refine (fun (hv : SameBut fl s₀ v) => ?_) ?_; (on_goal 1 => clear_value v); (on_goal 2 => (dsimp -zeta only [v]; try clear v)))
    | (extract_lets +onlyGivenNames v; refine (fun (hv : SameBut fl s₀ v.1) => ?_) ?_; (on_goal 1 => clear_value v); (on_goal 2 => (dsimp -zeta only [v]; try clear v)))
    | (extract_lets +onlyGivenNames v; first | (have w : Mem := v; clear w) | (have w : DictState := v; clear w) | (have w : Fw := v; clear w) | clear_value v)
    | with_reducible apply State_submit_same hl
    | with_reducible apply State_adjTile_same k_ps25
    | (with_reducible refine foldl_same _ _ ?_ ?_; on_goal 2 => (intro t x ht; try beta_reduce))
    | (with_reducible refine foldl_same₂ _ _ _ ?_ ?_; on_goal 2 => (intro t b x ht; try dsimp -zeta only))
    | ((simp -zeta only [frame_mk]; with_reducible refine frame_lit ps0 ?_ kd ?_); on_goal 2 => exact ⟨.inr rfl, .inr rfl, .inr rfl, .inr rfl, .inr rfl, .inr rfl, .inr rfl, .inr rfl, .inr rfl, .inr rfl, .inr rfl, .inr rfl, .inr rfl, .inr rfl, .inr rfl, .inr rfl, .inr rfl, .inr rfl, .inr rfl, .inr rfl, .inr rfl, .inr rfl, .inr rfl, .inr rfl, .inr rfl, .inr rfl, .inr rfl, .inr rfl, .inr rfl, .inr rfl, .inr rfl⟩)
    | with_reducible refine pair_same (by with_reducible assumption) ?_
    | split
    | (dsimp -zeta only)

theorem State_issue_same {fl : List Facet} {s₀ : State} (hl : subL ps111 fl = true) (a0 : State) (a1 : GroupRef) (a2 : Block → Group → Path → State) (h0 : SameBut fl s₀ a0) (h2 : ∀ x0 x1 x2, SameBut fl s₀ (a2 x0 x1 x2)) :
    SameBut fl s₀ (State.issue a0 a1 a2) := by
  unfold State.issue
  repeat' first
    | with_reducible assumption
    | with_reducible apply h2
    | with_reducible apply State_threadFault_same hl
    | split

theorem State_regParity_same {fl : List Facet} {s₀ : State} (hl : subL ps111 fl = true) (a0 : State) (a1 : GroupRef) (a2 : ParityHit) (a3 : State → State) (h0 : SameBut fl s₀ a0) (h3 : ∀ x0, SameBut fl s₀ x0 → SameBut fl s₀ (a3 x0)) :
    SameBut fl s₀ (State.regParity a0 a1 a2 a3) := by
  have k_ps63 : subL ps63 fl = true := subL_trans rfl hl
  have kd : subL ps0 fl = true := subL_trans rfl hl
  unfold State.regParity
  repeat' first
    | with_reducible assumption
    | (with_reducible intro x; try beta_reduce)
    | (extract_lets +onlyGivenNames v; refine (fun (hv : SameBut fl s₀ v) => ?_) ?_; (on_goal 1 => clear_value v); (on_goal 2 => (dsimp -zeta only [v]; try clear v)))
    | (extract_lets +onlyGivenNames v; refine (fun (hv : SameBut fl s₀ v.1) => ?_) ?_; (on_goal 1 => clear_value v); (on_goal 2 => (dsimp -zeta only [v]; try clear v)))
    | (extract_lets +onlyGivenNames v; first | (have w : Mem := v; clear w) | (have w : DictState := v; clear w) | (have w : Fw := v; clear w) | clear_value v)
    | with_reducible apply h3
    | with_reducible apply State_issue_same hl
    | with_reducible apply State_parityReplay_same k_ps63
    | with_reducible apply State_threadFault_same hl
    | (with_reducible refine foldl_same _ _ ?_ ?_; on_goal 2 => (intro t x ht; try beta_reduce))
    | (with_reducible refine foldl_same₂ _ _ _ ?_ ?_; on_goal 2 => (intro t b x ht; try dsimp -zeta only))
    | ((simp -zeta only [frame_mk]; with_reducible refine frame_lit ps0 ?_ kd ?_); on_goal 2 => exact ⟨.inr rfl, .inr rfl, .inr rfl, .inr rfl, .inr rfl, .inr rfl, .inr rfl, .inr rfl, .inr rfl, .inr rfl, .inr rfl, .inr rfl, .inr rfl, .inr rfl, .inr rfl, .inr rfl, .inr rfl, .inr rfl, .inr rfl, .inr rfl, .inr rfl, .inr rfl, .inr rfl, .inr rfl, .inr rfl, .inr rfl, .inr rfl, .inr rfl, .inr rfl, .inr rfl, .inr rfl⟩)
    | with_reducible refine pair_same (by with_reducible assumption) ?_
    | split
    | (dsimp -zeta only)

theorem State_operandError_same {fl : List Facet} {s₀ : State} (hl : subL ps147 fl = true) (a0 : State) (a1 : Nat) (a2 : Nat) (a3 : Bool) (a4 : Nat) (a5 : ErrHit) (h0 : SameBut fl s₀ a0) :
    SameBut fl s₀ (State.operandError a0 a1 a2 a3 a4 a5) := by
  have k_ps100 : subL ps100 fl = true := subL_trans rfl hl
  have k_ps132 : subL ps132 fl = true := subL_trans rfl hl
  have kd : subL ps0 fl = true := subL_trans rfl hl
  unfold State.operandError
  repeat' first
    | with_reducible assumption
    | (with_reducible intro x; try beta_reduce)
    | (extract_lets +onlyGivenNames v; refine (fun (hv : SameBut fl s₀ v) => ?_) ?_; (on_goal 1 => clear_value v); (on_goal 2 => (dsimp -zeta only [v]; try clear v)))
    | (extract_lets +onlyGivenNames v; refine (fun (hv : SameBut fl s₀ v.1) => ?_) ?_; (on_goal 1 => clear_value v); (on_goal 2 => (dsimp -zeta only [v]; try clear v)))
    | (extract_lets +onlyGivenNames v; first | (have w : Mem := v; clear w) | (have w : DictState := v; clear w) | (have w : Fw := v; clear w) | clear_value v)
    | with_reducible apply State_scratchError_same k_ps100
    | with_reducible apply State_feltError_same k_ps132
    | (with_reducible refine foldl_same _ _ ?_ ?_; on_goal 2 => (intro t x ht; try beta_reduce))
    | (with_reducible refine foldl_same₂ _ _ _ ?_ ?_; on_goal 2 => (intro t b x ht; try dsimp -zeta only))
    | ((simp -zeta only [frame_mk]; with_reducible refine frame_lit ps0 ?_ kd ?_); on_goal 2 => exact ⟨.inr rfl, .inr rfl, .inr rfl, .inr rfl, .inr rfl, .inr rfl, .inr rfl, .inr rfl, .inr rfl, .inr rfl, .inr rfl, .inr rfl, .inr rfl, .inr rfl, .inr rfl, .inr rfl, .inr rfl, .inr rfl, .inr rfl, .inr rfl, .inr rfl, .inr rfl, .inr rfl, .inr rfl, .inr rfl, .inr rfl, .inr rfl, .inr rfl, .inr rfl, .inr rfl, .inr rfl⟩)
    | with_reducible refine pair_same (by with_reducible assumption) ?_
    | split
    | (dsimp -zeta only)

end Sys2Proof.Laws
end

