-- ==== Sys2Proof/Laws/FrameConvert.lean ====
section
/-! SUPPORT. What the operations of Machine/Convert.lean leave unchanged (`SameBut`): one lemma for each. -/

set_option Elab.async false
set_option linter.all false

namespace Sys2Proof.Laws

open Sys2Proof Sys2Proof.Machine

theorem convert_same {fl : List Facet} {s₀ : State} (hl : subL ps111 fl = true) (a0 : GroupRef) (a1 : W64) (a2 : ParityHit) (a3 : State) (h3 : SameBut fl s₀ a3) :
    SameBut fl s₀ (Machine.convert a0 a1 a2 a3) := by
  have k_ps25 : subL ps25 fl = true := subL_trans rfl hl
  have kd : subL ps0 fl = true := subL_trans rfl hl
  unfold Machine.convert
  repeat' first
    | with_reducible assumption
    | (with_reducible intro x; try beta_reduce)
    | (extract_lets +onlyGivenNames v; refine (fun (hv : SameBut fl s₀ v) => ?_) ?_; (on_goal 1 => clear_value v); (on_goal 2 => (dsimp -zeta only [v]; try clear v)))
    | (extract_lets +onlyGivenNames v; refine (fun (hv : SameBut fl s₀ v.1) => ?_) ?_; (on_goal 1 => clear_value v); (on_goal 2 => (dsimp -zeta only [v]; try clear v)))
    | (extract_lets +onlyGivenNames v; first | (have w : Mem := v; clear w) | (have w : DictState := v; clear w) | (have w : Fw := v; clear w) | clear_value v)
    | with_reducible apply State_regParity_same hl
    | with_reducible apply State_issue_same hl
    | with_reducible apply State_threadFault_same hl
    | with_reducible apply State_poisonControl_same hl
    | with_reducible apply State_issueFault_same hl
    | with_reducible apply State_setToken_same k_ps25
    | with_reducible apply State_adjTile_same k_ps25
    | with_reducible apply State_advanceGroup_same k_ps25
    | (with_reducible refine foldl_same _ _ ?_ ?_; on_goal 2 => (intro t x ht; try beta_reduce))
    | (with_reducible refine foldl_same₂ _ _ _ ?_ ?_; on_goal 2 => (intro t b x ht; try dsimp -zeta only))
    | ((simp -zeta only [frame_mk]; with_reducible refine frame_lit ps0 ?_ kd ?_); on_goal 2 => exact ⟨.inr rfl, .inr rfl, .inr rfl, .inr rfl, .inr rfl, .inr rfl, .inr rfl, .inr rfl, .inr rfl, .inr rfl, .inr rfl, .inr rfl, .inr rfl, .inr rfl, .inr rfl, .inr rfl, .inr rfl, .inr rfl, .inr rfl, .inr rfl, .inr rfl, .inr rfl, .inr rfl, .inr rfl, .inr rfl, .inr rfl, .inr rfl, .inr rfl, .inr rfl, .inr rfl, .inr rfl⟩)
    | with_reducible refine pair_same (by with_reducible assumption) ?_
    | split
    | (dsimp -zeta only)

theorem State_sourceRows_same {fl : List Facet} {s₀ : State} (hl : subL ps141 fl = true) (a0 : Nat) (a1 : Nat) (a2 : CDesc) (a3 : Nat) (a4 : Nat) (a5 : State) (h5 : SameBut fl s₀ a5) :
    SameBut fl s₀ (State.sourceRows a0 a1 a2 a3 a4 a5).1 := by
  induction a3 generalizing a0 a1 a2 a4 a5 with
  | zero =>
    rw [State.sourceRows]
    repeat' with_reducible assumption
  | succ n ih =>
    rw [State.sourceRows]
    repeat' first
      | with_reducible assumption
      | with_reducible apply ih
      | with_reducible apply State_opRow_same hl
      | with_reducible refine pair_same (by with_reducible assumption) ?_
      | split

theorem State_wholeScale_same {fl : List Facet} {s₀ : State} (hl : subL ps141 fl = true) (a0 : State) (a1 : Nat) (a2 : CInstr) (h0 : SameBut fl s₀ a0) :
    SameBut fl s₀ (State.wholeScale a0 a1 a2).1 := by
  have kd : subL ps0 fl = true := subL_trans rfl hl
  unfold State.wholeScale
  repeat' first
    | with_reducible assumption
    | (with_reducible intro x; try beta_reduce)
    | (extract_lets +onlyGivenNames v; refine (fun (hv : SameBut fl s₀ v) => ?_) ?_; (on_goal 1 => clear_value v); (on_goal 2 => (dsimp -zeta only [v]; try clear v)))
    | (extract_lets +onlyGivenNames v; refine (fun (hv : SameBut fl s₀ v.1) => ?_) ?_; (on_goal 1 => clear_value v); (on_goal 2 => (dsimp -zeta only [v]; try clear v)))
    | (extract_lets +onlyGivenNames v; first | (have w : Mem := v; clear w) | (have w : DictState := v; clear w) | (have w : Fw := v; clear w) | clear_value v)
    | with_reducible apply State_gather_same hl
    | (with_reducible refine foldl_same _ _ ?_ ?_; on_goal 2 => (intro t x ht; try beta_reduce))
    | (with_reducible refine foldl_same₂ _ _ _ ?_ ?_; on_goal 2 => (intro t b x ht; try dsimp -zeta only))
    | ((simp -zeta only [frame_mk]; with_reducible refine frame_lit ps0 ?_ kd ?_); on_goal 2 => exact ⟨.inr rfl, .inr rfl, .inr rfl, .inr rfl, .inr rfl, .inr rfl, .inr rfl, .inr rfl, .inr rfl, .inr rfl, .inr rfl, .inr rfl, .inr rfl, .inr rfl, .inr rfl, .inr rfl, .inr rfl, .inr rfl, .inr rfl, .inr rfl, .inr rfl, .inr rfl, .inr rfl, .inr rfl, .inr rfl, .inr rfl, .inr rfl, .inr rfl, .inr rfl, .inr rfl, .inr rfl⟩)
    | with_reducible refine pair_same (by with_reducible assumption) ?_
    | split
    | (dsimp -zeta only)

theorem State_convFault_same {fl : List Facet} {s₀ : State} (hl : subL ps100 fl = true) (a0 : State) (a1 : Nat) (a2 : CInstr) (a3 : Nat) (a4 : LogAddr) (h0 : SameBut fl s₀ a0) :
    SameBut fl s₀ (State.convFault a0 a1 a2 a3 a4) := by
  have k_ps25 : subL ps25 fl = true := subL_trans rfl hl
  unfold State.convFault
  repeat' first
    | with_reducible assumption
    | (extract_lets +onlyGivenNames v; refine (fun (hv : SameBut fl s₀ v) => ?_) ?_; (on_goal 1 => clear_value v); (on_goal 2 => (dsimp -zeta only [v]; try clear v)))
    | with_reducible apply State_adjMatrix_same k_ps25
    | with_reducible apply State_instFault_same hl

theorem State_runConversion_same {fl : List Facet} {s₀ : State} (hl : subL ps152 fl = true) (a0 : State) (a1 : Nat) (a2 : CInstr) (a3 : State) (h0 : SameBut fl s₀ a0) (h3 : SameBut fl s₀ a3) :
    SameBut fl s₀ (State.runConversion a0 a1 a2 a3) := by
  have k_ps100 : subL ps100 fl = true := subL_trans rfl hl
  have k_ps141 : subL ps141 fl = true := subL_trans rfl hl
  have k_ps25 : subL ps25 fl = true := subL_trans rfl hl
  have k_ps32 : subL ps32 fl = true := subL_trans rfl hl
  have k_ps6 : subL ps6 fl = true := subL_trans rfl hl
  have k_ps63 : subL ps63 fl = true := subL_trans rfl hl
  have kd : subL ps0 fl = true := subL_trans rfl hl
  unfold State.runConversion
  repeat' first
    | with_reducible assumption
    | (with_reducible intro x; try beta_reduce)
    | (extract_lets +onlyGivenNames v; refine (fun (hv : SameBut fl s₀ v) => ?_) ?_; (on_goal 1 => clear_value v); (on_goal 2 => (dsimp -zeta only [v]; try clear v)))
    | (extract_lets +onlyGivenNames v; refine (fun (hv : SameBut fl s₀ v.1) => ?_) ?_; (on_goal 1 => clear_value v); (on_goal 2 => (dsimp -zeta only [v]; try clear v)))
    | (extract_lets +onlyGivenNames v; first | (have w : Mem := v; clear w) | (have w : DictState := v; clear w) | (have w : Fw := v; clear w) | clear_value v)
    | with_reducible apply State_convFault_same k_ps100
    | with_reducible apply State_violation_same k_ps63
    | with_reducible apply State_sourceRows_same k_ps141
    | with_reducible apply State_keepDefer_same k_ps32
    | with_reducible apply State_wholeScale_same k_ps141
    | with_reducible apply State_bump_same k_ps6
    | with_reducible apply State_adjMatrix_same k_ps25
    | (with_reducible refine foldl_same _ _ ?_ ?_; on_goal 2 => (intro t x ht; try beta_reduce))
    | (with_reducible refine foldl_same₂ _ _ _ ?_ ?_; on_goal 2 => (intro t b x ht; try dsimp -zeta only))
    | ((simp -zeta only [frame_mk]; with_reducible refine frame_lit ps0 ?_ kd ?_); on_goal 2 => exact ⟨.inr rfl, .inr rfl, .inr rfl, .inr rfl, .inr rfl, .inr rfl, .inr rfl, .inr rfl, .inr rfl, .inr rfl, .inr rfl, .inr rfl, .inr rfl, .inr rfl, .inr rfl, .inr rfl, .inr rfl, .inr rfl, .inr rfl, .inr rfl, .inr rfl, .inr rfl, .inr rfl, .inr rfl, .inr rfl, .inr rfl, .inr rfl, .inr rfl, .inr rfl, .inr rfl, .inr rfl⟩)
    | with_reducible refine pair_same (by with_reducible assumption) ?_
    | split
    | (dsimp -zeta only)

theorem conversionStart_same {fl : List Facet} {s₀ : State} (hl : subL ps152 fl = true) (a0 : Nat) (a1 : ErrHit) (a2 : State) (h2 : SameBut fl s₀ a2) :
    SameBut fl s₀ (Machine.conversionStart a0 a1 a2) := by
  have k_ps147 : subL ps147 fl = true := subL_trans rfl hl
  have k_ps25 : subL ps25 fl = true := subL_trans rfl hl
  have kd : subL ps0 fl = true := subL_trans rfl hl
  unfold Machine.conversionStart
  repeat' first
    | with_reducible assumption
    | (with_reducible intro x; try beta_reduce)
    | (extract_lets +onlyGivenNames v; refine (fun (hv : SameBut fl s₀ v) => ?_) ?_; (on_goal 1 => clear_value v); (on_goal 2 => (dsimp -zeta only [v]; try clear v)))
    | (extract_lets +onlyGivenNames v; refine (fun (hv : SameBut fl s₀ v.1) => ?_) ?_; (on_goal 1 => clear_value v); (on_goal 2 => (dsimp -zeta only [v]; try clear v)))
    | (extract_lets +onlyGivenNames v; first | (have w : Mem := v; clear w) | (have w : DictState := v; clear w) | (have w : Fw := v; clear w) | clear_value v)
    | with_reducible apply State_runConversion_same hl
    | with_reducible apply State_adjMatrix_same k_ps25
    | with_reducible apply State_operandError_same k_ps147
    | (with_reducible refine foldl_same _ _ ?_ ?_; on_goal 2 => (intro t x ht; try beta_reduce))
    | (with_reducible refine foldl_same₂ _ _ _ ?_ ?_; on_goal 2 => (intro t b x ht; try dsimp -zeta only))
    | ((simp -zeta only [frame_mk]; with_reducible refine frame_lit ps0 ?_ kd ?_); on_goal 2 => exact ⟨.inr rfl, .inr rfl, .inr rfl, .inr rfl, .inr rfl, .inr rfl, .inr rfl, .inr rfl, .inr rfl, .inr rfl, .inr rfl, .inr rfl, .inr rfl, .inr rfl, .inr rfl, .inr rfl, .inr rfl, .inr rfl, .inr rfl, .inr rfl, .inr rfl, .inr rfl, .inr rfl, .inr rfl, .inr rfl, .inr rfl, .inr rfl, .inr rfl, .inr rfl, .inr rfl, .inr rfl⟩)
    | with_reducible refine pair_same (by with_reducible assumption) ?_
    | split
    | (dsimp -zeta only)

theorem State_writePieces_same {fl : List Facet} {s₀ : State} (hl : subL ps131 fl = true) (a0 : Nat) (a1 : Nat) (a2 : Bool) (a3 : List (Nat × Bytes × Option PoisonClass)) (a4 : State) (h4 : SameBut fl s₀ a4) :
    SameBut fl s₀ (State.writePieces a0 a1 a2 a3 a4).1 := by
  induction a3 generalizing a0 a1 a2 a4 with
  | nil =>
    rw [State.writePieces]
    repeat' with_reducible assumption
  | cons x l ih =>
    rw [State.writePieces]
    repeat' first
      | with_reducible assumption
      | with_reducible apply ih
      | with_reducible apply State_destSector_same hl
      | with_reducible refine pair_same (by with_reducible assumption) ?_
      | split

theorem State_updateHist_same {fl : List Facet} {s₀ : State} (hl : subL ps152 fl = true) (a0 : State) (a1 : Nat) (a2 : CInstr) (h0 : SameBut fl s₀ a0) :
    SameBut fl s₀ (State.updateHist a0 a1 a2).1 := by
  have k_ps131 : subL ps131 fl = true := subL_trans rfl hl
  have k_ps141 : subL ps141 fl = true := subL_trans rfl hl
  have kd : subL ps0 fl = true := subL_trans rfl hl
  unfold State.updateHist
  repeat' first
    | with_reducible assumption
    | (with_reducible intro x; try beta_reduce)
    | (extract_lets +onlyGivenNames v; refine (fun (hv : SameBut fl s₀ v) => ?_) ?_; (on_goal 1 => clear_value v); (on_goal 2 => (dsimp -zeta only [v]; try clear v)))
    | (extract_lets +onlyGivenNames v; refine (fun (hv : SameBut fl s₀ v.1) => ?_) ?_; (on_goal 1 => clear_value v); (on_goal 2 => (dsimp -zeta only [v]; try clear v)))
    | (extract_lets +onlyGivenNames v; first | (have w : Mem := v; clear w) | (have w : DictState := v; clear w) | (have w : Fw := v; clear w) | clear_value v)
    | with_reducible apply State_gather_same k_ps141
    | with_reducible apply State_writePieces_same k_ps131
    | (with_reducible refine foldl_same _ _ ?_ ?_; on_goal 2 => (intro t x ht; try beta_reduce))
    | (with_reducible refine foldl_same₂ _ _ _ ?_ ?_; on_goal 2 => (intro t b x ht; try dsimp -zeta only))
    | ((simp -zeta only [frame_mk]; with_reducible refine frame_lit ps0 ?_ kd ?_); on_goal 2 => exact ⟨.inr rfl, .inr rfl, .inr rfl, .inr rfl, .inr rfl, .inr rfl, .inr rfl, .inr rfl, .inr rfl, .inr rfl, .inr rfl, .inr rfl, .inr rfl, .inr rfl, .inr rfl, .inr rfl, .inr rfl, .inr rfl, .inr rfl, .inr rfl, .inr rfl, .inr rfl, .inr rfl, .inr rfl, .inr rfl, .inr rfl, .inr rfl, .inr rfl, .inr rfl, .inr rfl, .inr rfl⟩)
    | with_reducible refine pair_same (by with_reducible assumption) ?_
    | split
    | (dsimp -zeta only)

theorem conversionComplete_same {fl : List Facet} {s₀ : State} (hl : subL ps152 fl = true) (a0 : Nat) (a1 : State) (h1 : SameBut fl s₀ a1) :
    SameBut fl s₀ (Machine.conversionComplete a0 a1) := by
  have k_ps100 : subL ps100 fl = true := subL_trans rfl hl
  have k_ps131 : subL ps131 fl = true := subL_trans rfl hl
  have k_ps25 : subL ps25 fl = true := subL_trans rfl hl
  have k_ps32 : subL ps32 fl = true := subL_trans rfl hl
  have k_ps6 : subL ps6 fl = true := subL_trans rfl hl
  have kd : subL ps0 fl = true := subL_trans rfl hl
  unfold Machine.conversionComplete
  repeat' first
    | with_reducible assumption
    | (with_reducible intro x; try beta_reduce)
    | (extract_lets +onlyGivenNames v; refine (fun (hv : SameBut fl s₀ v) => ?_) ?_; (on_goal 1 => clear_value v); (on_goal 2 => (dsimp -zeta only [v]; try clear v)))
    | (extract_lets +onlyGivenNames v; refine (fun (hv : SameBut fl s₀ v.1) => ?_) ?_; (on_goal 1 => clear_value v); (on_goal 2 => (dsimp -zeta only [v]; try clear v)))
    | (extract_lets +onlyGivenNames v; first | (have w : Mem := v; clear w) | (have w : DictState := v; clear w) | (have w : Fw := v; clear w) | clear_value v)
    | with_reducible apply State_writePieces_same k_ps131
    | with_reducible apply State_keepDefer_same k_ps32
    | with_reducible apply State_updateHist_same hl
    | with_reducible apply State_destSector_same k_ps131
    | with_reducible apply State_raiseSat_same k_ps100
    | with_reducible apply State_setToken_same k_ps25
    | with_reducible apply State_bump_same k_ps6
    | with_reducible apply State_adjMatrix_same k_ps25
    | (with_reducible refine foldl_same _ _ ?_ ?_; on_goal 2 => (intro t x ht; try beta_reduce))
    | (with_reducible refine foldl_same₂ _ _ _ ?_ ?_; on_goal 2 => (intro t b x ht; try dsimp -zeta only))
    | ((simp -zeta only [frame_mk]; with_reducible refine frame_lit ps0 ?_ kd ?_); on_goal 2 => exact ⟨.inr rfl, .inr rfl, .inr rfl, .inr rfl, .inr rfl, .inr rfl, .inr rfl, .inr rfl, .inr rfl, .inr rfl, .inr rfl, .inr rfl, .inr rfl, .inr rfl, .inr rfl, .inr rfl, .inr rfl, .inr rfl, .inr rfl, .inr rfl, .inr rfl, .inr rfl, .inr rfl, .inr rfl, .inr rfl, .inr rfl, .inr rfl, .inr rfl, .inr rfl, .inr rfl, .inr rfl⟩)
    | with_reducible refine pair_same (by with_reducible assumption) ?_
    | split
    | (dsimp -zeta only)

end Sys2Proof.Laws
end

