-- ==== Sys2Proof/Laws/FrameThreads.lean ====
section
/-! SUPPORT. What the operations of Machine/Threads.lean leave unchanged (`SameBut`): one lemma for each. -/

set_option Elab.async false
set_option linter.all false

namespace Sys2Proof.Laws

open Sys2Proof Sys2Proof.Machine

theorem State_illegalOp_same {fl : List Facet} {s₀ : State} (hl : subL ps119 fl = true) (a0 : State) (a1 : GroupRef) (h0 : SameBut fl s₀ a0) :
    SameBut fl s₀ (State.illegalOp a0 a1) := by
  have k_ps111 : subL ps111 fl = true := subL_trans rfl hl
  have k_ps8 : subL ps8 fl = true := subL_trans rfl hl
  unfold State.illegalOp
  repeat' first
    | with_reducible assumption
    | with_reducible apply State_threadFault_same k_ps111
    | with_reducible apply State_drawn_same k_ps8

theorem State_checked_same {fl : List Facet} {s₀ : State} (hl : subL ps119 fl = true) (a0 : State) (a1 : GroupRef) (a2 : Block) (a3 : Group) (a4 : List Nat) (a5 : List Nat) (a6 : List Nat) (a7 : State) (h0 : SameBut fl s₀ a0) (h7 : SameBut fl s₀ a7) :
    SameBut fl s₀ (State.checked a0 a1 a2 a3 a4 a5 a6 a7) := by
  have k_ps111 : subL ps111 fl = true := subL_trans rfl hl
  unfold State.checked
  repeat' first
    | with_reducible assumption
    | with_reducible apply State_illegalOp_same hl
    | with_reducible apply State_poisonControl_same k_ps111
    | split

theorem State_checkedWord_same {fl : List Facet} {s₀ : State} (hl : subL ps111 fl = true) (a0 : State) (a1 : GroupRef) (a2 : Block) (a3 : Group) (a4 : W64) (a5 : Bool) (a6 : List Nat) (a7 : List Nat) (a8 : List Nat) (a9 : State) (h0 : SameBut fl s₀ a0) (h9 : SameBut fl s₀ a9) :
    SameBut fl s₀ (State.checkedWord a0 a1 a2 a3 a4 a5 a6 a7 a8 a9) := by
  unfold State.checkedWord
  repeat' first
    | with_reducible assumption
    | with_reducible apply State_threadFault_same hl
    | with_reducible apply State_poisonControl_same hl
    | split

theorem State_adjBlocks_same {fl : List Facet} {s₀ : State} (hl : subL ps25 fl = true) (a0 : State) (a1 : Block → Bool) (a2 : Block → Block) (h0 : SameBut fl s₀ a0) :
    SameBut fl s₀ (State.adjBlocks a0 a1 a2) := by
  have kd : subL ps25 fl = true := subL_trans rfl hl
  unfold State.adjBlocks
  repeat' first
    | with_reducible assumption
    | ((simp -zeta only [frame_mk]; with_reducible refine frame_lit ps25 ?_ kd ?_); on_goal 2 => exact ⟨.inr rfl, .inr rfl, .inr rfl, .inr rfl, .inr rfl, .inr rfl, .inr rfl, .inr rfl, .inr rfl, .inr rfl, .inr rfl, .inr rfl, .inl rfl, .inr rfl, .inr rfl, .inr rfl, .inr rfl, .inr rfl, .inr rfl, .inr rfl, .inr rfl, .inr rfl, .inr rfl, .inr rfl, .inr rfl, .inr rfl, .inr rfl, .inr rfl, .inr rfl, .inr rfl, .inr rfl⟩)

theorem State_settleCbars_same {fl : List Facet} {s₀ : State} (hl : subL ps59 fl = true) (a0 : State) (a1 : Nat) (h0 : SameBut fl s₀ a0) :
    SameBut fl s₀ (State.settleCbars a0 a1) := by
  have k_ps16 : subL ps16 fl = true := subL_trans rfl hl
  have k_ps25 : subL ps25 fl = true := subL_trans rfl hl
  unfold State.settleCbars
  repeat' first
    | with_reducible assumption
    | (extract_lets +onlyGivenNames v; refine (fun (hv : SameBut fl s₀ v) => ?_) ?_; (on_goal 1 => clear_value v); (on_goal 2 => (dsimp -zeta only [v]; try clear v)))
    | (extract_lets +onlyGivenNames v; first | (have w : Mem := v; clear w) | (have w : DictState := v; clear w) | (have w : Fw := v; clear w) | clear_value v)
    | with_reducible apply State_adjKernel_same k_ps16
    | with_reducible apply State_adjBlocks_same k_ps25
    | (with_reducible refine foldl_same _ _ ?_ ?_; on_goal 2 => (intro t x ht; try beta_reduce))
    | split

theorem State_settleGbar_same {fl : List Facet} {s₀ : State} (hl : subL ps16 fl = true) (a0 : State) (a1 : Nat) (h0 : SameBut fl s₀ a0) :
    SameBut fl s₀ (State.settleGbar a0 a1) := by
  unfold State.settleGbar
  repeat' first
    | with_reducible assumption
    | with_reducible apply State_adjKernel_same hl
    | split

theorem State_settleBarriers_same {fl : List Facet} {s₀ : State} (hl : subL ps59 fl = true) (a0 : State) (a1 : Nat) (a2 : Nat) (a3 : Nat) (h0 : SameBut fl s₀ a0) :
    SameBut fl s₀ (State.settleBarriers a0 a1 a2 a3) := by
  have k_ps16 : subL ps16 fl = true := subL_trans rfl hl
  have k_ps25 : subL ps25 fl = true := subL_trans rfl hl
  unfold State.settleBarriers
  repeat' first
    | with_reducible assumption
    | with_reducible apply State_settleGbar_same k_ps16
    | with_reducible apply State_settleCbars_same hl
    | with_reducible apply State_adjBlock_same k_ps25

theorem branch_same {fl : List Facet} {s₀ : State} (hl : subL ps119 fl = true) (a0 : GroupRef) (a1 : BranchKind) (a2 : Nat) (a3 : ParityHit) (a4 : State) (h4 : SameBut fl s₀ a4) :
    SameBut fl s₀ (Machine.branch a0 a1 a2 a3 a4) := by
  have k_ps111 : subL ps111 fl = true := subL_trans rfl hl
  have k_ps25 : subL ps25 fl = true := subL_trans rfl hl
  have kd : subL ps0 fl = true := subL_trans rfl hl
  unfold Machine.branch
  repeat' first
    | with_reducible assumption
    | (with_reducible intro x; try beta_reduce)
    | (extract_lets +onlyGivenNames v; refine (fun (hv : SameBut fl s₀ v) => ?_) ?_; (on_goal 1 => clear_value v); (on_goal 2 => (dsimp -zeta only [v]; try clear v)))
    | (extract_lets +onlyGivenNames v; refine (fun (hv : SameBut fl s₀ v.1) => ?_) ?_; (on_goal 1 => clear_value v); (on_goal 2 => (dsimp -zeta only [v]; try clear v)))
    | (extract_lets +onlyGivenNames v; first | (have w : Mem := v; clear w) | (have w : DictState := v; clear w) | (have w : Fw := v; clear w) | clear_value v)
    | with_reducible apply State_regParity_same k_ps111
    | with_reducible apply State_issue_same k_ps111
    | with_reducible apply State_checked_same hl
    | with_reducible apply State_adjGroup_same k_ps25
    | with_reducible apply State_threadFault_same k_ps111
    | (with_reducible refine foldl_same _ _ ?_ ?_; on_goal 2 => (intro t x ht; try beta_reduce))
    | (with_reducible refine foldl_same₂ _ _ _ ?_ ?_; on_goal 2 => (intro t b x ht; try dsimp -zeta only))
    | ((simp -zeta only [frame_mk]; with_reducible refine frame_lit ps0 ?_ kd ?_); on_goal 2 => exact ⟨.inr rfl, .inr rfl, .inr rfl, .inr rfl, .inr rfl, .inr rfl, .inr rfl, .inr rfl, .inr rfl, .inr rfl, .inr rfl, .inr rfl, .inr rfl, .inr rfl, .inr rfl, .inr rfl, .inr rfl, .inr rfl, .inr rfl, .inr rfl, .inr rfl, .inr rfl, .inr rfl, .inr rfl, .inr rfl, .inr rfl, .inr rfl, .inr rfl, .inr rfl, .inr rfl, .inr rfl⟩)
    | with_reducible refine pair_same (by with_reducible assumption) ?_
    | split
    | (dsimp -zeta only)

theorem exit_same {fl : List Facet} {s₀ : State} (hl : subL ps111 fl = true) (a0 : GroupRef) (a1 : State) (h1 : SameBut fl s₀ a1) :
    SameBut fl s₀ (Machine.exit a0 a1) := by
  have k_ps25 : subL ps25 fl = true := subL_trans rfl hl
  have k_ps59 : subL ps59 fl = true := subL_trans rfl hl
  unfold Machine.exit
  repeat' first
    | with_reducible assumption
    | (with_reducible intro x; try beta_reduce)
    | (extract_lets +onlyGivenNames v; refine (fun (hv : SameBut fl s₀ v) => ?_) ?_; (on_goal 1 => clear_value v); (on_goal 2 => (dsimp -zeta only [v]; try clear v)))
    | with_reducible apply State_issue_same hl
    | with_reducible apply State_adjGroup_same k_ps25
    | with_reducible apply State_adjBlock_same k_ps25
    | with_reducible apply State_settleBarriers_same k_ps59

theorem fp32Arith_same {fl : List Facet} {s₀ : State} (hl : subL ps119 fl = true) (a0 : GroupRef) (a1 : FpOp) (a2 : Nat) (a3 : Nat) (a4 : Nat) (a5 : Nat) (a6 : ParityHit) (a7 : State) (h7 : SameBut fl s₀ a7) :
    SameBut fl s₀ (Machine.fp32Arith a0 a1 a2 a3 a4 a5 a6 a7) := by
  have k_ps111 : subL ps111 fl = true := subL_trans rfl hl
  have k_ps25 : subL ps25 fl = true := subL_trans rfl hl
  have kd : subL ps0 fl = true := subL_trans rfl hl
  unfold Machine.fp32Arith
  repeat' first
    | with_reducible assumption
    | (with_reducible intro x; try beta_reduce)
    | (extract_lets +onlyGivenNames v; refine (fun (hv : SameBut fl s₀ v) => ?_) ?_; (on_goal 1 => clear_value v); (on_goal 2 => (dsimp -zeta only [v]; try clear v)))
    | (extract_lets +onlyGivenNames v; refine (fun (hv : SameBut fl s₀ v.1) => ?_) ?_; (on_goal 1 => clear_value v); (on_goal 2 => (dsimp -zeta only [v]; try clear v)))
    | (extract_lets +onlyGivenNames v; first | (have w : Mem := v; clear w) | (have w : DictState := v; clear w) | (have w : Fw := v; clear w) | clear_value v)
    | with_reducible apply State_regParity_same k_ps111
    | with_reducible apply State_issue_same k_ps111
    | with_reducible apply State_checked_same hl
    | with_reducible apply State_adjGroup_same k_ps25
    | (with_reducible refine foldl_same _ _ ?_ ?_; on_goal 2 => (intro t x ht; try beta_reduce))
    | (with_reducible refine foldl_same₂ _ _ _ ?_ ?_; on_goal 2 => (intro t b x ht; try dsimp -zeta only))
    | ((simp -zeta only [frame_mk]; with_reducible refine frame_lit ps0 ?_ kd ?_); on_goal 2 => exact ⟨.inr rfl, .inr rfl, .inr rfl, .inr rfl, .inr rfl, .inr rfl, .inr rfl, .inr rfl, .inr rfl, .inr rfl, .inr rfl, .inr rfl, .inr rfl, .inr rfl, .inr rfl, .inr rfl, .inr rfl, .inr rfl, .inr rfl, .inr rfl, .inr rfl, .inr rfl, .inr rfl, .inr rfl, .inr rfl, .inr rfl, .inr rfl, .inr rfl, .inr rfl, .inr rfl, .inr rfl⟩)
    | with_reducible refine pair_same (by with_reducible assumption) ?_
    | split
    | (dsimp -zeta only)

theorem State_groupWide_same {fl : List Facet} {s₀ : State} (hl : subL ps119 fl = true) (a0 : State) (a1 : GroupRef) (a2 : Block) (a3 : Group) (a4 : Path) (a5 : List Nat) (a6 : Group → Group) (h0 : SameBut fl s₀ a0) :
    SameBut fl s₀ (State.groupWide a0 a1 a2 a3 a4 a5 a6) := by
  have k_ps111 : subL ps111 fl = true := subL_trans rfl hl
  have k_ps25 : subL ps25 fl = true := subL_trans rfl hl
  unfold State.groupWide
  repeat' first
    | with_reducible assumption
    | with_reducible apply State_checked_same hl
    | with_reducible apply State_threadFault_same k_ps111
    | with_reducible apply State_adjGroup_same k_ps25
    | split

theorem shfl_same {fl : List Facet} {s₀ : State} (hl : subL ps119 fl = true) (a0 : GroupRef) (a1 : Nat) (a2 : Nat) (a3 : Nat) (a4 : ParityHit) (a5 : State) (h5 : SameBut fl s₀ a5) :
    SameBut fl s₀ (Machine.shfl a0 a1 a2 a3 a4 a5) := by
  have k_ps111 : subL ps111 fl = true := subL_trans rfl hl
  have kd : subL ps0 fl = true := subL_trans rfl hl
  unfold Machine.shfl
  repeat' first
    | with_reducible assumption
    | (with_reducible intro x; try beta_reduce)
    | (extract_lets +onlyGivenNames v; refine (fun (hv : SameBut fl s₀ v) => ?_) ?_; (on_goal 1 => clear_value v); (on_goal 2 => (dsimp -zeta only [v]; try clear v)))
    | (extract_lets +onlyGivenNames v; refine (fun (hv : SameBut fl s₀ v.1) => ?_) ?_; (on_goal 1 => clear_value v); (on_goal 2 => (dsimp -zeta only [v]; try clear v)))
    | (extract_lets +onlyGivenNames v; first | (have w : Mem := v; clear w) | (have w : DictState := v; clear w) | (have w : Fw := v; clear w) | clear_value v)
    | with_reducible apply State_regParity_same k_ps111
    | with_reducible apply State_issue_same k_ps111
    | with_reducible apply State_groupWide_same hl
    | (with_reducible refine foldl_same _ _ ?_ ?_; on_goal 2 => (intro t x ht; try beta_reduce))
    | (with_reducible refine foldl_same₂ _ _ _ ?_ ?_; on_goal 2 => (intro t b x ht; try dsimp -zeta only))
    | ((simp -zeta only [frame_mk]; with_reducible refine frame_lit ps0 ?_ kd ?_); on_goal 2 => exact ⟨.inr rfl, .inr rfl, .inr rfl, .inr rfl, .inr rfl, .inr rfl, .inr rfl, .inr rfl, .inr rfl, .inr rfl, .inr rfl, .inr rfl, .inr rfl, .inr rfl, .inr rfl, .inr rfl, .inr rfl, .inr rfl, .inr rfl, .inr rfl, .inr rfl, .inr rfl, .inr rfl, .inr rfl, .inr rfl, .inr rfl, .inr rfl, .inr rfl, .inr rfl, .inr rfl, .inr rfl⟩)
    | with_reducible refine pair_same (by with_reducible assumption) ?_
    | split
    | (dsimp -zeta only)

theorem vote_same {fl : List Facet} {s₀ : State} (hl : subL ps119 fl = true) (a0 : GroupRef) (a1 : VoteKind) (a2 : Nat) (a3 : Nat) (a4 : ParityHit) (a5 : State) (h5 : SameBut fl s₀ a5) :
    SameBut fl s₀ (Machine.vote a0 a1 a2 a3 a4 a5) := by
  have k_ps111 : subL ps111 fl = true := subL_trans rfl hl
  have kd : subL ps0 fl = true := subL_trans rfl hl
  unfold Machine.vote
  repeat' first
    | with_reducible assumption
    | (with_reducible intro x; try beta_reduce)
    | (extract_lets +onlyGivenNames v; refine (fun (hv : SameBut fl s₀ v) => ?_) ?_; (on_goal 1 => clear_value v); (on_goal 2 => (dsimp -zeta only [v]; try clear v)))
    | (extract_lets +onlyGivenNames v; refine (fun (hv : SameBut fl s₀ v.1) => ?_) ?_; (on_goal 1 => clear_value v); (on_goal 2 => (dsimp -zeta only [v]; try clear v)))
    | (extract_lets +onlyGivenNames v; first | (have w : Mem := v; clear w) | (have w : DictState := v; clear w) | (have w : Fw := v; clear w) | clear_value v)
    | with_reducible apply State_regParity_same k_ps111
    | with_reducible apply State_issue_same k_ps111
    | with_reducible apply State_groupWide_same hl
    | (with_reducible refine foldl_same _ _ ?_ ?_; on_goal 2 => (intro t x ht; try beta_reduce))
    | (with_reducible refine foldl_same₂ _ _ _ ?_ ?_; on_goal 2 => (intro t b x ht; try dsimp -zeta only))
    | ((simp -zeta only [frame_mk]; with_reducible refine frame_lit ps0 ?_ kd ?_); on_goal 2 => exact ⟨.inr rfl, .inr rfl, .inr rfl, .inr rfl, .inr rfl, .inr rfl, .inr rfl, .inr rfl, .inr rfl, .inr rfl, .inr rfl, .inr rfl, .inr rfl, .inr rfl, .inr rfl, .inr rfl, .inr rfl, .inr rfl, .inr rfl, .inr rfl, .inr rfl, .inr rfl, .inr rfl, .inr rfl, .inr rfl, .inr rfl, .inr rfl, .inr rfl, .inr rfl, .inr rfl, .inr rfl⟩)
    | with_reducible refine pair_same (by with_reducible assumption) ?_
    | split
    | (dsimp -zeta only)

theorem redux_same {fl : List Facet} {s₀ : State} (hl : subL ps119 fl = true) (a0 : GroupRef) (a1 : ReduxOp) (a2 : Nat) (a3 : Nat) (a4 : ParityHit) (a5 : State) (h5 : SameBut fl s₀ a5) :
    SameBut fl s₀ (Machine.redux a0 a1 a2 a3 a4 a5) := by
  have k_ps111 : subL ps111 fl = true := subL_trans rfl hl
  have kd : subL ps0 fl = true := subL_trans rfl hl
  unfold Machine.redux
  repeat' first
    | with_reducible assumption
    | (with_reducible intro x; try beta_reduce)
    | (extract_lets +onlyGivenNames v; refine (fun (hv : SameBut fl s₀ v) => ?_) ?_; (on_goal 1 => clear_value v); (on_goal 2 => (dsimp -zeta only [v]; try clear v)))
    | (extract_lets +onlyGivenNames v; refine (fun (hv : SameBut fl s₀ v.1) => ?_) ?_; (on_goal 1 => clear_value v); (on_goal 2 => (dsimp -zeta only [v]; try clear v)))
    | (extract_lets +onlyGivenNames v; first | (have w : Mem := v; clear w) | (have w : DictState := v; clear w) | (have w : Fw := v; clear w) | clear_value v)
    | with_reducible apply State_regParity_same k_ps111
    | with_reducible apply State_issue_same k_ps111
    | with_reducible apply State_groupWide_same hl
    | (with_reducible refine foldl_same _ _ ?_ ?_; on_goal 2 => (intro t x ht; try beta_reduce))
    | (with_reducible refine foldl_same₂ _ _ _ ?_ ?_; on_goal 2 => (intro t b x ht; try dsimp -zeta only))
    | ((simp -zeta only [frame_mk]; with_reducible refine frame_lit ps0 ?_ kd ?_); on_goal 2 => exact ⟨.inr rfl, .inr rfl, .inr rfl, .inr rfl, .inr rfl, .inr rfl, .inr rfl, .inr rfl, .inr rfl, .inr rfl, .inr rfl, .inr rfl, .inr rfl, .inr rfl, .inr rfl, .inr rfl, .inr rfl, .inr rfl, .inr rfl, .inr rfl, .inr rfl, .inr rfl, .inr rfl, .inr rfl, .inr rfl, .inr rfl, .inr rfl, .inr rfl, .inr rfl, .inr rfl, .inr rfl⟩)
    | with_reducible refine pair_same (by with_reducible assumption) ?_
    | split
    | (dsimp -zeta only)

theorem State_scratchLoad_same {fl : List Facet} {s₀ : State} (hl : subL ps111 fl = true) (a0 : GroupRef) (a1 : Nat) (a2 : Nat) (a3 : Nat) (a4 : Nat) (a5 : List (Nat × Nat)) (a6 : State) (h6 : SameBut fl s₀ a6) :
    SameBut fl s₀ (State.scratchLoad a0 a1 a2 a3 a4 a5 a6) := by
  have k_ps25 : subL ps25 fl = true := subL_trans rfl hl
  have k_ps63 : subL ps63 fl = true := subL_trans rfl hl
  have kd : subL ps111 fl = true := subL_trans rfl hl
  induction a5 generalizing a0 a1 a2 a3 a4 a6 with
  | nil =>
    rw [State.scratchLoad]
    repeat' first
      | with_reducible assumption
      | (with_reducible intro x; try beta_reduce)
      | (extract_lets +onlyGivenNames v; refine (fun (hv : SameBut fl s₀ v) => ?_) ?_; (on_goal 1 => clear_value v); (on_goal 2 => (dsimp -zeta only [v]; try clear v)))
      | (extract_lets +onlyGivenNames v; refine (fun (hv : SameBut fl s₀ v.1) => ?_) ?_; (on_goal 1 => clear_value v); (on_goal 2 => (dsimp -zeta only [v]; try clear v)))
      | (extract_lets +onlyGivenNames v; first | (have w : Mem := v; clear w) | (have w : DictState := v; clear w) | (have w : Fw := v; clear w) | clear_value v)
      | with_reducible apply ih
      | with_reducible apply State_threadFault_same hl
      | with_reducible apply State_loadRegs_same k_ps25
      | with_reducible apply State_poisonHalted_same k_ps63
      | (with_reducible refine foldl_same _ _ ?_ ?_; on_goal 2 => (intro t x ht; try beta_reduce))
      | (with_reducible refine foldl_same₂ _ _ _ ?_ ?_; on_goal 2 => (intro t b x ht; try dsimp -zeta only))
      | ((simp -zeta only [frame_mk]; with_reducible refine frame_lit ps111 ?_ kd ?_); on_goal 2 => exact ⟨.inr rfl, .inr rfl, .inl rfl, .inr rfl, .inr rfl, .inr rfl, .inr rfl, .inr rfl, .inr rfl, .inr rfl, .inr rfl, .inr rfl, .inl rfl, .inl rfl, .inr rfl, .inr rfl, .inr rfl, .inr rfl, .inr rfl, .inl rfl, .inr rfl, .inl rfl, .inr rfl, .inr rfl, .inr rfl, .inr rfl, .inr rfl, .inr rfl, .inr rfl, .inr rfl, .inr rfl⟩)
      | with_reducible refine pair_same (by with_reducible assumption) ?_
      | split
      | (dsimp -zeta only)
  | cons x l ih =>
    rw [State.scratchLoad]
    repeat' first
      | with_reducible assumption
      | (with_reducible intro x; try beta_reduce)
      | (extract_lets +onlyGivenNames v; refine (fun (hv : SameBut fl s₀ v) => ?_) ?_; (on_goal 1 => clear_value v); (on_goal 2 => (dsimp -zeta only [v]; try clear v)))
      | (extract_lets +onlyGivenNames v; refine (fun (hv : SameBut fl s₀ v.1) => ?_) ?_; (on_goal 1 => clear_value v); (on_goal 2 => (dsimp -zeta only [v]; try clear v)))
      | (extract_lets +onlyGivenNames v; first | (have w : Mem := v; clear w) | (have w : DictState := v; clear w) | (have w : Fw := v; clear w) | clear_value v)
      | with_reducible apply ih
      | with_reducible apply State_threadFault_same hl
      | with_reducible apply State_loadRegs_same k_ps25
      | with_reducible apply State_poisonHalted_same k_ps63
      | (with_reducible refine foldl_same _ _ ?_ ?_; on_goal 2 => (intro t x ht; try beta_reduce))
      | (with_reducible refine foldl_same₂ _ _ _ ?_ ?_; on_goal 2 => (intro t b x ht; try dsimp -zeta only))
      | ((simp -zeta only [frame_mk]; with_reducible refine frame_lit ps111 ?_ kd ?_); on_goal 2 => exact ⟨.inr rfl, .inr rfl, .inl rfl, .inr rfl, .inr rfl, .inr rfl, .inr rfl, .inr rfl, .inr rfl, .inr rfl, .inr rfl, .inr rfl, .inl rfl, .inl rfl, .inr rfl, .inr rfl, .inr rfl, .inr rfl, .inr rfl, .inl rfl, .inr rfl, .inl rfl, .inr rfl, .inr rfl, .inr rfl, .inr rfl, .inr rfl, .inr rfl, .inr rfl, .inr rfl, .inr rfl⟩)
      | with_reducible refine pair_same (by with_reducible assumption) ?_
      | split
      | (dsimp -zeta only)

theorem State_scratchStore_same {fl : List Facet} {s₀ : State} (hl : subL ps25 fl = true) (a0 : Group) (a1 : Nat) (a2 : Nat) (a3 : Nat) (a4 : Nat) (a5 : List (Nat × Nat)) (a6 : State) (h6 : SameBut fl s₀ a6) :
    SameBut fl s₀ (State.scratchStore a0 a1 a2 a3 a4 a5 a6) := by
  induction a5 generalizing a0 a1 a2 a3 a4 a6 with
  | nil =>
    rw [State.scratchStore]
    repeat' with_reducible assumption
  | cons x l ih =>
    rw [State.scratchStore]
    repeat' first
      | with_reducible assumption
      | with_reducible apply ih
      | with_reducible apply State_adjOwner_same hl

theorem State_scratchAccess_same {fl : List Facet} {s₀ : State} (hl : subL ps111 fl = true) (a0 : State) (a1 : GroupRef) (a2 : Group) (a3 : Path) (a4 : Dir) (a5 : Block) (a6 : Nat) (a7 : Nat) (a8 : Nat) (a9 : Nat) (a10 : ErrHit) (h0 : SameBut fl s₀ a0) :
    SameBut fl s₀ (State.scratchAccess a0 a1 a2 a3 a4 a5 a6 a7 a8 a9 a10) := by
  have k_ps100 : subL ps100 fl = true := subL_trans rfl hl
  have k_ps25 : subL ps25 fl = true := subL_trans rfl hl
  have kd : subL ps0 fl = true := subL_trans rfl hl
  unfold State.scratchAccess
  repeat' first
    | with_reducible assumption
    | (with_reducible intro x; try beta_reduce)
    | (extract_lets +onlyGivenNames v; refine (fun (hv : SameBut fl s₀ v) => ?_) ?_; (on_goal 1 => clear_value v); (on_goal 2 => (dsimp -zeta only [v]; try clear v)))
    | (extract_lets +onlyGivenNames v; refine (fun (hv : SameBut fl s₀ v.1) => ?_) ?_; (on_goal 1 => clear_value v); (on_goal 2 => (dsimp -zeta only [v]; try clear v)))
    | (extract_lets +onlyGivenNames v; first | (have w : Mem := v; clear w) | (have w : DictState := v; clear w) | (have w : Fw := v; clear w) | clear_value v)
    | with_reducible apply State_threadFault_same hl
    | with_reducible apply State_scratchError_same k_ps100
    | with_reducible apply State_advanceGroup_same k_ps25
    | with_reducible apply State_scratchLoad_same hl
    | with_reducible apply State_scratchStore_same k_ps25
    | (with_reducible refine foldl_same _ _ ?_ ?_; on_goal 2 => (intro t x ht; try beta_reduce))
    | (with_reducible refine foldl_same₂ _ _ _ ?_ ?_; on_goal 2 => (intro t b x ht; try dsimp -zeta only))
    | ((simp -zeta only [frame_mk]; with_reducible refine frame_lit ps0 ?_ kd ?_); on_goal 2 => exact ⟨.inr rfl, .inr rfl, .inr rfl, .inr rfl, .inr rfl, .inr rfl, .inr rfl, .inr rfl, .inr rfl, .inr rfl, .inr rfl, .inr rfl, .inr rfl, .inr rfl, .inr rfl, .inr rfl, .inr rfl, .inr rfl, .inr rfl, .inr rfl, .inr rfl, .inr rfl, .inr rfl, .inr rfl, .inr rfl, .inr rfl, .inr rfl, .inr rfl, .inr rfl, .inr rfl, .inr rfl⟩)
    | with_reducible refine pair_same (by with_reducible assumption) ?_
    | split
    | (dsimp -zeta only)

theorem ldsSts_same {fl : List Facet} {s₀ : State} (hl : subL ps119 fl = true) (a0 : GroupRef) (a1 : Dir) (a2 : Nat) (a3 : Nat) (a4 : Nat) (a5 : ErrHit) (a6 : ParityHit) (a7 : State) (h7 : SameBut fl s₀ a7) :
    SameBut fl s₀ (Machine.ldsSts a0 a1 a2 a3 a4 a5 a6 a7) := by
  have k_ps111 : subL ps111 fl = true := subL_trans rfl hl
  have kd : subL ps0 fl = true := subL_trans rfl hl
  unfold Machine.ldsSts
  repeat' first
    | with_reducible assumption
    | (with_reducible intro x; try beta_reduce)
    | (extract_lets +onlyGivenNames v; refine (fun (hv : SameBut fl s₀ v) => ?_) ?_; (on_goal 1 => clear_value v); (on_goal 2 => (dsimp -zeta only [v]; try clear v)))
    | (extract_lets +onlyGivenNames v; refine (fun (hv : SameBut fl s₀ v.1) => ?_) ?_; (on_goal 1 => clear_value v); (on_goal 2 => (dsimp -zeta only [v]; try clear v)))
    | (extract_lets +onlyGivenNames v; first | (have w : Mem := v; clear w) | (have w : DictState := v; clear w) | (have w : Fw := v; clear w) | clear_value v)
    | with_reducible apply State_regParity_same k_ps111
    | with_reducible apply State_issue_same k_ps111
    | with_reducible apply State_illegalOp_same hl
    | with_reducible apply State_checked_same hl
    | with_reducible apply State_scratchAccess_same k_ps111
    | (with_reducible refine foldl_same _ _ ?_ ?_; on_goal 2 => (intro t x ht; try beta_reduce))
    | (with_reducible refine foldl_same₂ _ _ _ ?_ ?_; on_goal 2 => (intro t b x ht; try dsimp -zeta only))
    | ((simp -zeta only [frame_mk]; with_reducible refine frame_lit ps0 ?_ kd ?_); on_goal 2 => exact ⟨.inr rfl, .inr rfl, .inr rfl, .inr rfl, .inr rfl, .inr rfl, .inr rfl, .inr rfl, .inr rfl, .inr rfl, .inr rfl, .inr rfl, .inr rfl, .inr rfl, .inr rfl, .inr rfl, .inr rfl, .inr rfl, .inr rfl, .inr rfl, .inr rfl, .inr rfl, .inr rfl, .inr rfl, .inr rfl, .inr rfl, .inr rfl, .inr rfl, .inr rfl, .inr rfl, .inr rfl⟩)
    | with_reducible refine pair_same (by with_reducible assumption) ?_
    | split
    | (dsimp -zeta only)

theorem ldcStc_same {fl : List Facet} {s₀ : State} (hl : subL ps119 fl = true) (a0 : GroupRef) (a1 : Dir) (a2 : Nat) (a3 : Nat) (a4 : Nat) (a5 : Nat) (a6 : ErrHit) (a7 : ParityHit) (a8 : State) (h8 : SameBut fl s₀ a8) :
    SameBut fl s₀ (Machine.ldcStc a0 a1 a2 a3 a4 a5 a6 a7 a8) := by
  have k_ps111 : subL ps111 fl = true := subL_trans rfl hl
  have kd : subL ps0 fl = true := subL_trans rfl hl
  unfold Machine.ldcStc
  repeat' first
    | with_reducible assumption
    | (with_reducible intro x; try beta_reduce)
    | (extract_lets +onlyGivenNames v; refine (fun (hv : SameBut fl s₀ v) => ?_) ?_; (on_goal 1 => clear_value v); (on_goal 2 => (dsimp -zeta only [v]; try clear v)))
    | (extract_lets +onlyGivenNames v; refine (fun (hv : SameBut fl s₀ v.1) => ?_) ?_; (on_goal 1 => clear_value v); (on_goal 2 => (dsimp -zeta only [v]; try clear v)))
    | (extract_lets +onlyGivenNames v; first | (have w : Mem := v; clear w) | (have w : DictState := v; clear w) | (have w : Fw := v; clear w) | clear_value v)
    | with_reducible apply State_regParity_same k_ps111
    | with_reducible apply State_issue_same k_ps111
    | with_reducible apply State_illegalOp_same hl
    | with_reducible apply State_checked_same hl
    | with_reducible apply State_threadFault_same k_ps111
    | with_reducible apply State_scratchAccess_same k_ps111
    | (with_reducible refine foldl_same _ _ ?_ ?_; on_goal 2 => (intro t x ht; try beta_reduce))
    | (with_reducible refine foldl_same₂ _ _ _ ?_ ?_; on_goal 2 => (intro t b x ht; try dsimp -zeta only))
    | ((simp -zeta only [frame_mk]; with_reducible refine frame_lit ps0 ?_ kd ?_); on_goal 2 => exact ⟨.inr rfl, .inr rfl, .inr rfl, .inr rfl, .inr rfl, .inr rfl, .inr rfl, .inr rfl, .inr rfl, .inr rfl, .inr rfl, .inr rfl, .inr rfl, .inr rfl, .inr rfl, .inr rfl, .inr rfl, .inr rfl, .inr rfl, .inr rfl, .inr rfl, .inr rfl, .inr rfl, .inr rfl, .inr rfl, .inr rfl, .inr rfl, .inr rfl, .inr rfl, .inr rfl, .inr rfl⟩)
    | with_reducible refine pair_same (by with_reducible assumption) ?_
    | split
    | (dsimp -zeta only)

theorem State_park_same {fl : List Facet} {s₀ : State} (hl : subL ps25 fl = true) (a0 : State) (a1 : GroupRef) (a2 : BarKind) (h0 : SameBut fl s₀ a0) :
    SameBut fl s₀ (State.park a0 a1 a2) := by
  have kd : subL ps0 fl = true := subL_trans rfl hl
  unfold State.park
  repeat' first
    | with_reducible assumption
    | (with_reducible intro x; try beta_reduce)
    | (extract_lets +onlyGivenNames v; refine (fun (hv : SameBut fl s₀ v) => ?_) ?_; (on_goal 1 => clear_value v); (on_goal 2 => (dsimp -zeta only [v]; try clear v)))
    | (extract_lets +onlyGivenNames v; refine (fun (hv : SameBut fl s₀ v.1) => ?_) ?_; (on_goal 1 => clear_value v); (on_goal 2 => (dsimp -zeta only [v]; try clear v)))
    | (extract_lets +onlyGivenNames v; first | (have w : Mem := v; clear w) | (have w : DictState := v; clear w) | (have w : Fw := v; clear w) | clear_value v)
    | with_reducible apply State_adjGroup_same hl
    | (with_reducible refine foldl_same _ _ ?_ ?_; on_goal 2 => (intro t x ht; try beta_reduce))
    | (with_reducible refine foldl_same₂ _ _ _ ?_ ?_; on_goal 2 => (intro t b x ht; try dsimp -zeta only))
    | ((simp -zeta only [frame_mk]; with_reducible refine frame_lit ps0 ?_ kd ?_); on_goal 2 => exact ⟨.inr rfl, .inr rfl, .inr rfl, .inr rfl, .inr rfl, .inr rfl, .inr rfl, .inr rfl, .inr rfl, .inr rfl, .inr rfl, .inr rfl, .inr rfl, .inr rfl, .inr rfl, .inr rfl, .inr rfl, .inr rfl, .inr rfl, .inr rfl, .inr rfl, .inr rfl, .inr rfl, .inr rfl, .inr rfl, .inr rfl, .inr rfl, .inr rfl, .inr rfl, .inr rfl, .inr rfl⟩)
    | with_reducible refine pair_same (by with_reducible assumption) ?_
    | split
    | (dsimp -zeta only)

theorem State_goOn_same {fl : List Facet} {s₀ : State} (hl : subL ps25 fl = true) (a0 : State) (a1 : GroupRef) (h0 : SameBut fl s₀ a0) :
    SameBut fl s₀ (State.goOn a0 a1) := by
  have kd : subL ps0 fl = true := subL_trans rfl hl
  unfold State.goOn
  repeat' first
    | with_reducible assumption
    | (with_reducible intro x; try beta_reduce)
    | (extract_lets +onlyGivenNames v; refine (fun (hv : SameBut fl s₀ v) => ?_) ?_; (on_goal 1 => clear_value v); (on_goal 2 => (dsimp -zeta only [v]; try clear v)))
    | (extract_lets +onlyGivenNames v; refine (fun (hv : SameBut fl s₀ v.1) => ?_) ?_; (on_goal 1 => clear_value v); (on_goal 2 => (dsimp -zeta only [v]; try clear v)))
    | (extract_lets +onlyGivenNames v; first | (have w : Mem := v; clear w) | (have w : DictState := v; clear w) | (have w : Fw := v; clear w) | clear_value v)
    | with_reducible apply State_adjGroup_same hl
    | (with_reducible refine foldl_same _ _ ?_ ?_; on_goal 2 => (intro t x ht; try beta_reduce))
    | (with_reducible refine foldl_same₂ _ _ _ ?_ ?_; on_goal 2 => (intro t b x ht; try dsimp -zeta only))
    | ((simp -zeta only [frame_mk]; with_reducible refine frame_lit ps0 ?_ kd ?_); on_goal 2 => exact ⟨.inr rfl, .inr rfl, .inr rfl, .inr rfl, .inr rfl, .inr rfl, .inr rfl, .inr rfl, .inr rfl, .inr rfl, .inr rfl, .inr rfl, .inr rfl, .inr rfl, .inr rfl, .inr rfl, .inr rfl, .inr rfl, .inr rfl, .inr rfl, .inr rfl, .inr rfl, .inr rfl, .inr rfl, .inr rfl, .inr rfl, .inr rfl, .inr rfl, .inr rfl, .inr rfl, .inr rfl⟩)
    | with_reducible refine pair_same (by with_reducible assumption) ?_
    | split
    | (dsimp -zeta only)

theorem bar_same {fl : List Facet} {s₀ : State} (hl : subL ps111 fl = true) (a0 : GroupRef) (a1 : W64) (a2 : State) (h2 : SameBut fl s₀ a2) :
    SameBut fl s₀ (Machine.bar a0 a1 a2) := by
  have k_ps25 : subL ps25 fl = true := subL_trans rfl hl
  have kd : subL ps0 fl = true := subL_trans rfl hl
  unfold Machine.bar
  repeat' first
    | with_reducible assumption
    | (with_reducible intro x; try beta_reduce)
    | (extract_lets +onlyGivenNames v; refine (fun (hv : SameBut fl s₀ v) => ?_) ?_; (on_goal 1 => clear_value v); (on_goal 2 => (dsimp -zeta only [v]; try clear v)))
    | (extract_lets +onlyGivenNames v; refine (fun (hv : SameBut fl s₀ v.1) => ?_) ?_; (on_goal 1 => clear_value v); (on_goal 2 => (dsimp -zeta only [v]; try clear v)))
    | (extract_lets +onlyGivenNames v; first | (have w : Mem := v; clear w) | (have w : DictState := v; clear w) | (have w : Fw := v; clear w) | clear_value v)
    | with_reducible apply State_issue_same hl
    | with_reducible apply State_checkedWord_same hl
    | with_reducible apply State_threadFault_same hl
    | with_reducible apply State_goOn_same k_ps25
    | with_reducible apply State_adjBlock_same k_ps25
    | with_reducible apply State_park_same k_ps25
    | (with_reducible refine foldl_same _ _ ?_ ?_; on_goal 2 => (intro t x ht; try beta_reduce))
    | (with_reducible refine foldl_same₂ _ _ _ ?_ ?_; on_goal 2 => (intro t b x ht; try dsimp -zeta only))
    | ((simp -zeta only [frame_mk]; with_reducible refine frame_lit ps0 ?_ kd ?_); on_goal 2 => exact ⟨.inr rfl, .inr rfl, .inr rfl, .inr rfl, .inr rfl, .inr rfl, .inr rfl, .inr rfl, .inr rfl, .inr rfl, .inr rfl, .inr rfl, .inr rfl, .inr rfl, .inr rfl, .inr rfl, .inr rfl, .inr rfl, .inr rfl, .inr rfl, .inr rfl, .inr rfl, .inr rfl, .inr rfl, .inr rfl, .inr rfl, .inr rfl, .inr rfl, .inr rfl, .inr rfl, .inr rfl⟩)
    | with_reducible refine pair_same (by with_reducible assumption) ?_
    | split
    | (dsimp -zeta only)

theorem cbar_same {fl : List Facet} {s₀ : State} (hl : subL ps111 fl = true) (a0 : GroupRef) (a1 : W64) (a2 : State) (h2 : SameBut fl s₀ a2) :
    SameBut fl s₀ (Machine.cbar a0 a1 a2) := by
  have k_ps16 : subL ps16 fl = true := subL_trans rfl hl
  have k_ps25 : subL ps25 fl = true := subL_trans rfl hl
  have k_ps59 : subL ps59 fl = true := subL_trans rfl hl
  have kd : subL ps0 fl = true := subL_trans rfl hl
  unfold Machine.cbar
  repeat' first
    | with_reducible assumption
    | (with_reducible intro x; try beta_reduce)
    | (extract_lets +onlyGivenNames v; refine (fun (hv : SameBut fl s₀ v) => ?_) ?_; (on_goal 1 => clear_value v); (on_goal 2 => (dsimp -zeta only [v]; try clear v)))
    | (extract_lets +onlyGivenNames v; refine (fun (hv : SameBut fl s₀ v.1) => ?_) ?_; (on_goal 1 => clear_value v); (on_goal 2 => (dsimp -zeta only [v]; try clear v)))
    | (extract_lets +onlyGivenNames v; first | (have w : Mem := v; clear w) | (have w : DictState := v; clear w) | (have w : Fw := v; clear w) | clear_value v)
    | with_reducible apply State_issue_same hl
    | with_reducible apply State_checkedWord_same hl
    | with_reducible apply State_threadFault_same hl
    | with_reducible apply State_park_same k_ps25
    | with_reducible apply State_adjKernel_same k_ps16
    | with_reducible apply State_goOn_same k_ps25
    | with_reducible apply State_settleCbars_same k_ps59
    | (with_reducible refine foldl_same _ _ ?_ ?_; on_goal 2 => (intro t x ht; try beta_reduce))
    | (with_reducible refine foldl_same₂ _ _ _ ?_ ?_; on_goal 2 => (intro t b x ht; try dsimp -zeta only))
    | ((simp -zeta only [frame_mk]; with_reducible refine frame_lit ps0 ?_ kd ?_); on_goal 2 => exact ⟨.inr rfl, .inr rfl, .inr rfl, .inr rfl, .inr rfl, .inr rfl, .inr rfl, .inr rfl, .inr rfl, .inr rfl, .inr rfl, .inr rfl, .inr rfl, .inr rfl, .inr rfl, .inr rfl, .inr rfl, .inr rfl, .inr rfl, .inr rfl, .inr rfl, .inr rfl, .inr rfl, .inr rfl, .inr rfl, .inr rfl, .inr rfl, .inr rfl, .inr rfl, .inr rfl, .inr rfl⟩)
    | with_reducible refine pair_same (by with_reducible assumption) ?_
    | split
    | (dsimp -zeta only)

theorem gbar_same {fl : List Facet} {s₀ : State} (hl : subL ps111 fl = true) (a0 : GroupRef) (a1 : W64) (a2 : State) (h2 : SameBut fl s₀ a2) :
    SameBut fl s₀ (Machine.gbar a0 a1 a2) := by
  have k_ps16 : subL ps16 fl = true := subL_trans rfl hl
  have k_ps25 : subL ps25 fl = true := subL_trans rfl hl
  have kd : subL ps0 fl = true := subL_trans rfl hl
  unfold Machine.gbar
  repeat' first
    | with_reducible assumption
    | (with_reducible intro x; try beta_reduce)
    | (extract_lets +onlyGivenNames v; refine (fun (hv : SameBut fl s₀ v) => ?_) ?_; (on_goal 1 => clear_value v); (on_goal 2 => (dsimp -zeta only [v]; try clear v)))
    | (extract_lets +onlyGivenNames v; refine (fun (hv : SameBut fl s₀ v.1) => ?_) ?_; (on_goal 1 => clear_value v); (on_goal 2 => (dsimp -zeta only [v]; try clear v)))
    | (extract_lets +onlyGivenNames v; first | (have w : Mem := v; clear w) | (have w : DictState := v; clear w) | (have w : Fw := v; clear w) | clear_value v)
    | with_reducible apply State_issue_same hl
    | with_reducible apply State_checkedWord_same hl
    | with_reducible apply State_park_same k_ps25
    | with_reducible apply State_adjKernel_same k_ps16
    | with_reducible apply State_goOn_same k_ps25
    | with_reducible apply State_settleGbar_same k_ps16
    | (with_reducible refine foldl_same _ _ ?_ ?_; on_goal 2 => (intro t x ht; try beta_reduce))
    | (with_reducible refine foldl_same₂ _ _ _ ?_ ?_; on_goal 2 => (intro t b x ht; try dsimp -zeta only))
    | ((simp -zeta only [frame_mk]; with_reducible refine frame_lit ps0 ?_ kd ?_); on_goal 2 => exact ⟨.inr rfl, .inr rfl, .inr rfl, .inr rfl, .inr rfl, .inr rfl, .inr rfl, .inr rfl, .inr rfl, .inr rfl, .inr rfl, .inr rfl, .inr rfl, .inr rfl, .inr rfl, .inr rfl, .inr rfl, .inr rfl, .inr rfl, .inr rfl, .inr rfl, .inr rfl, .inr rfl, .inr rfl, .inr rfl, .inr rfl, .inr rfl, .inr rfl, .inr rfl, .inr rfl, .inr rfl⟩)
    | with_reducible refine pair_same (by with_reducible assumption) ?_
    | split
    | (dsimp -zeta only)

theorem gbarComplete_same {fl : List Facet} {s₀ : State} (hl : subL ps59 fl = true) (a0 : Nat) (a1 : State) (h1 : SameBut fl s₀ a1) :
    SameBut fl s₀ (Machine.gbarComplete a0 a1) := by
  have k_ps16 : subL ps16 fl = true := subL_trans rfl hl
  have k_ps25 : subL ps25 fl = true := subL_trans rfl hl
  have kd : subL ps25 fl = true := subL_trans rfl hl
  unfold Machine.gbarComplete
  repeat' first
    | with_reducible assumption
    | (extract_lets +onlyGivenNames v; refine (fun (hv : SameBut fl s₀ v) => ?_) ?_; (on_goal 1 => clear_value v); (on_goal 2 => (dsimp -zeta only [v]; try clear v)))
    | with_reducible apply State_adjKernel_same k_ps16
    | with_reducible apply State_adjBlocks_same k_ps25
    | ((simp -zeta only [frame_mk]; with_reducible refine frame_lit ps25 ?_ kd ?_); on_goal 2 => exact ⟨.inr rfl, .inr rfl, .inr rfl, .inr rfl, .inr rfl, .inr rfl, .inr rfl, .inr rfl, .inr rfl, .inr rfl, .inr rfl, .inr rfl, .inl rfl, .inr rfl, .inr rfl, .inr rfl, .inr rfl, .inr rfl, .inr rfl, .inr rfl, .inr rfl, .inr rfl, .inr rfl, .inr rfl, .inr rfl, .inr rfl, .inr rfl, .inr rfl, .inr rfl, .inr rfl, .inr rfl⟩)
    | split

theorem State_tickBars_same {fl : List Facet} {s₀ : State} (hl : subL ps59 fl = true) (a0 : State) (a1 : Nat) (h0 : SameBut fl s₀ a0) :
    SameBut fl s₀ (State.tickBars a0 a1) := by
  have k_ps25 : subL ps25 fl = true := subL_trans rfl hl
  have kd : subL ps16 fl = true := subL_trans rfl hl
  unfold State.tickBars
  repeat' first
    | with_reducible assumption
    | (with_reducible intro x; try beta_reduce)
    | (extract_lets +onlyGivenNames v; refine (fun (hv : SameBut fl s₀ v) => ?_) ?_; (on_goal 1 => clear_value v); (on_goal 2 => (dsimp -zeta only [v]; try clear v)))
    | (extract_lets +onlyGivenNames v; refine (fun (hv : SameBut fl s₀ v.1) => ?_) ?_; (on_goal 1 => clear_value v); (on_goal 2 => (dsimp -zeta only [v]; try clear v)))
    | (extract_lets +onlyGivenNames v; first | (have w : Mem := v; clear w) | (have w : DictState := v; clear w) | (have w : Fw := v; clear w) | clear_value v)
    | with_reducible apply State_adjTile_same k_ps25
    | (with_reducible refine foldl_same _ _ ?_ ?_; on_goal 2 => (intro t x ht; try beta_reduce))
    | (with_reducible refine foldl_same₂ _ _ _ ?_ ?_; on_goal 2 => (intro t b x ht; try dsimp -zeta only))
    | ((simp -zeta only [frame_mk]; with_reducible refine frame_lit ps16 ?_ kd ?_); on_goal 2 => exact ⟨.inr rfl, .inr rfl, .inr rfl, .inr rfl, .inr rfl, .inr rfl, .inr rfl, .inr rfl, .inr rfl, .inr rfl, .inr rfl, .inr rfl, .inr rfl, .inr rfl, .inr rfl, .inr rfl, .inr rfl, .inr rfl, .inr rfl, .inl rfl, .inr rfl, .inr rfl, .inr rfl, .inr rfl, .inr rfl, .inr rfl, .inr rfl, .inr rfl, .inr rfl, .inr rfl, .inr rfl⟩)
    | with_reducible refine pair_same (by with_reducible assumption) ?_
    | split
    | (dsimp -zeta only)

theorem State_barrierStall_same {fl : List Facet} {s₀ : State} (hl : subL ps111 fl = true) (a0 : State) (a1 : Stall) (h0 : SameBut fl s₀ a0) :
    SameBut fl s₀ (State.barrierStall a0 a1) := by
  have k_ps63 : subL ps63 fl = true := subL_trans rfl hl
  have kd : subL ps0 fl = true := subL_trans rfl hl
  unfold State.barrierStall
  repeat' first
    | with_reducible assumption
    | (with_reducible intro x; try beta_reduce)
    | (extract_lets +onlyGivenNames v; refine (fun (hv : SameBut fl s₀ v) => ?_) ?_; (on_goal 1 => clear_value v); (on_goal 2 => (dsimp -zeta only [v]; try clear v)))
    | (extract_lets +onlyGivenNames v; refine (fun (hv : SameBut fl s₀ v.1) => ?_) ?_; (on_goal 1 => clear_value v); (on_goal 2 => (dsimp -zeta only [v]; try clear v)))
    | (extract_lets +onlyGivenNames v; first | (have w : Mem := v; clear w) | (have w : DictState := v; clear w) | (have w : Fw := v; clear w) | clear_value v)
    | with_reducible apply State_terminate_same hl
    | with_reducible apply State_reportFault_same k_ps63
    | (with_reducible refine foldl_same _ _ ?_ ?_; on_goal 2 => (intro t x ht; try beta_reduce))
    | (with_reducible refine foldl_same₂ _ _ _ ?_ ?_; on_goal 2 => (intro t b x ht; try dsimp -zeta only))
    | ((simp -zeta only [frame_mk]; with_reducible refine frame_lit ps0 ?_ kd ?_); on_goal 2 => exact ⟨.inr rfl, .inr rfl, .inr rfl, .inr rfl, .inr rfl, .inr rfl, .inr rfl, .inr rfl, .inr rfl, .inr rfl, .inr rfl, .inr rfl, .inr rfl, .inr rfl, .inr rfl, .inr rfl, .inr rfl, .inr rfl, .inr rfl, .inr rfl, .inr rfl, .inr rfl, .inr rfl, .inr rfl, .inr rfl, .inr rfl, .inr rfl, .inr rfl, .inr rfl, .inr rfl, .inr rfl⟩)
    | with_reducible refine pair_same (by with_reducible assumption) ?_
    | split
    | (dsimp -zeta only)

theorem barrierWdPulse_same {fl : List Facet} {s₀ : State} (hl : subL ps111 fl = true) (a0 : State) (h0 : SameBut fl s₀ a0) :
    SameBut fl s₀ (Machine.barrierWdPulse a0) := by
  have k_ps59 : subL ps59 fl = true := subL_trans rfl hl
  have kd : subL ps0 fl = true := subL_trans rfl hl
  unfold Machine.barrierWdPulse
  repeat' first
    | with_reducible assumption
    | (with_reducible intro x; try beta_reduce)
    | (extract_lets +onlyGivenNames v; refine (fun (hv : SameBut fl s₀ v) => ?_) ?_; (on_goal 1 => clear_value v); (on_goal 2 => (dsimp -zeta only [v]; try clear v)))
    | (extract_lets +onlyGivenNames v; refine (fun (hv : SameBut fl s₀ v.1) => ?_) ?_; (on_goal 1 => clear_value v); (on_goal 2 => (dsimp -zeta only [v]; try clear v)))
    | (extract_lets +onlyGivenNames v; first | (have w : Mem := v; clear w) | (have w : DictState := v; clear w) | (have w : Fw := v; clear w) | clear_value v)
    | with_reducible apply State_tickBars_same k_ps59
    | with_reducible apply State_barrierStall_same hl
    | (with_reducible refine foldl_same _ _ ?_ ?_; on_goal 2 => (intro t x ht; try beta_reduce))
    | (with_reducible refine foldl_same₂ _ _ _ ?_ ?_; on_goal 2 => (intro t b x ht; try dsimp -zeta only))
    | ((simp -zeta only [frame_mk]; with_reducible refine frame_lit ps0 ?_ kd ?_); on_goal 2 => exact ⟨.inr rfl, .inr rfl, .inr rfl, .inr rfl, .inr rfl, .inr rfl, .inr rfl, .inr rfl, .inr rfl, .inr rfl, .inr rfl, .inr rfl, .inr rfl, .inr rfl, .inr rfl, .inr rfl, .inr rfl, .inr rfl, .inr rfl, .inr rfl, .inr rfl, .inr rfl, .inr rfl, .inr rfl, .inr rfl, .inr rfl, .inr rfl, .inr rfl, .inr rfl, .inr rfl, .inr rfl⟩)
    | with_reducible refine pair_same (by with_reducible assumption) ?_
    | split
    | (dsimp -zeta only)

theorem State_addrFault_same {fl : List Facet} {s₀ : State} (hl : subL ps111 fl = true) (a0 : State) (a1 : GroupRef) (a2 : List (Nat × Nat)) (a3 : Nat) (a4 : Bool) (a5 : State) (h0 : SameBut fl s₀ a0) (h5 : SameBut fl s₀ a5) :
    SameBut fl s₀ (State.addrFault a0 a1 a2 a3 a4 a5) := by
  have k_ps63 : subL ps63 fl = true := subL_trans rfl hl
  unfold State.addrFault
  repeat' first
    | with_reducible assumption
    | with_reducible apply State_threadFault_same hl
    | with_reducible apply State_violation_same k_ps63
    | split

theorem State_laneLoad_same {fl : List Facet} {s₀ : State} (hl : subL ps152 fl = true) (a0 : GroupRef) (a1 : Nat) (a2 : Nat) (a3 : Nat) (a4 : List (Nat × Nat)) (a5 : State) (h5 : SameBut fl s₀ a5) :
    SameBut fl s₀ (State.laneLoad a0 a1 a2 a3 a4 a5) := by
  have k_ps111 : subL ps111 fl = true := subL_trans rfl hl
  have k_ps25 : subL ps25 fl = true := subL_trans rfl hl
  have kd : subL ps152 fl = true := subL_trans rfl hl
  induction a4 generalizing a0 a1 a2 a3 a5 with
  | nil =>
    rw [State.laneLoad]
    repeat' first
      | with_reducible assumption
      | (with_reducible intro x; try beta_reduce)
      | (extract_lets +onlyGivenNames v; refine (fun (hv : SameBut fl s₀ v) => ?_) ?_; (on_goal 1 => clear_value v); (on_goal 2 => (dsimp -zeta only [v]; try clear v)))
      | (extract_lets +onlyGivenNames v; refine (fun (hv : SameBut fl s₀ v.1) => ?_) ?_; (on_goal 1 => clear_value v); (on_goal 2 => (dsimp -zeta only [v]; try clear v)))
      | (extract_lets +onlyGivenNames v; first | (have w : Mem := v; clear w) | (have w : DictState := v; clear w) | (have w : Fw := v; clear w) | clear_value v)
      | with_reducible apply ih
      | with_reducible apply State_adjTile_same k_ps25
      | with_reducible apply State_deliverLoad_same k_ps111
      | with_reducible apply State_laneDone_same k_ps25
      | with_reducible apply State_missLoad_same hl
      | (with_reducible refine foldl_same _ _ ?_ ?_; on_goal 2 => (intro t x ht; try beta_reduce))
      | (with_reducible refine foldl_same₂ _ _ _ ?_ ?_; on_goal 2 => (intro t b x ht; try dsimp -zeta only))
      | ((simp -zeta only [frame_mk]; with_reducible refine frame_lit ps152 ?_ kd ?_); on_goal 2 => exact ⟨.inr rfl, .inr rfl, .inl rfl, .inr rfl, .inr rfl, .inr rfl, .inr rfl, .inr rfl, .inr rfl, .inr rfl, .inr rfl, .inl rfl, .inl rfl, .inl rfl, .inl rfl, .inl rfl, .inr rfl, .inl rfl, .inl rfl, .inl rfl, .inr rfl, .inl rfl, .inr rfl, .inr rfl, .inr rfl, .inr rfl, .inr rfl, .inr rfl, .inr rfl, .inr rfl, .inr rfl⟩)
      | with_reducible refine pair_same (by with_reducible assumption) ?_
      | split
      | (dsimp -zeta only)
  | cons x l ih =>
    rw [State.laneLoad]
    repeat' first
      | with_reducible assumption
      | (with_reducible intro x; try beta_reduce)
      | (extract_lets +onlyGivenNames v; refine (fun (hv : SameBut fl s₀ v) => ?_) ?_; (on_goal 1 => clear_value v); (on_goal 2 => (dsimp -zeta only [v]; try clear v)))
      | (extract_lets +onlyGivenNames v; refine (fun (hv : SameBut fl s₀ v.1) => ?_) ?_; (on_goal 1 => clear_value v); (on_goal 2 => (dsimp -zeta only [v]; try clear v)))
      | (extract_lets +onlyGivenNames v; first | (have w : Mem := v; clear w) | (have w : DictState := v; clear w) | (have w : Fw := v; clear w) | clear_value v)
      | with_reducible apply ih
      | with_reducible apply State_adjTile_same k_ps25
      | with_reducible apply State_deliverLoad_same k_ps111
      | with_reducible apply State_laneDone_same k_ps25
      | with_reducible apply State_missLoad_same hl
      | (with_reducible refine foldl_same _ _ ?_ ?_; on_goal 2 => (intro t x ht; try beta_reduce))
      | (with_reducible refine foldl_same₂ _ _ _ ?_ ?_; on_goal 2 => (intro t b x ht; try dsimp -zeta only))
      | ((simp -zeta only [frame_mk]; with_reducible refine frame_lit ps152 ?_ kd ?_); on_goal 2 => exact ⟨.inr rfl, .inr rfl, .inl rfl, .inr rfl, .inr rfl, .inr rfl, .inr rfl, .inr rfl, .inr rfl, .inr rfl, .inr rfl, .inl rfl, .inl rfl, .inl rfl, .inl rfl, .inl rfl, .inr rfl, .inl rfl, .inl rfl, .inl rfl, .inr rfl, .inl rfl, .inr rfl, .inr rfl, .inr rfl, .inr rfl, .inr rfl, .inr rfl, .inr rfl, .inr rfl, .inr rfl⟩)
      | with_reducible refine pair_same (by with_reducible assumption) ?_
      | split
      | (dsimp -zeta only)

theorem State_readError_same {fl : List Facet} {s₀ : State} (hl : subL ps147 fl = true) (a0 : State) (a1 : Nat) (a2 : Nat) (a3 : ErrHit) (h0 : SameBut fl s₀ a0) :
    SameBut fl s₀ (State.readError a0 a1 a2 a3) := by
  have k_ps100 : subL ps100 fl = true := subL_trans rfl hl
  have k_ps132 : subL ps132 fl = true := subL_trans rfl hl
  unfold State.readError
  repeat' first
    | with_reducible assumption
    | with_reducible apply State_l1Error_same k_ps100
    | with_reducible apply State_feltError_same k_ps132
    | split

theorem ld_same {fl : List Facet} {s₀ : State} (hl : subL ps152 fl = true) (a0 : GroupRef) (a1 : Nat) (a2 : Nat) (a3 : Nat) (a4 : ErrHit) (a5 : ParityHit) (a6 : State) (h6 : SameBut fl s₀ a6) :
    SameBut fl s₀ (Machine.ld a0 a1 a2 a3 a4 a5 a6) := by
  have k_ps111 : subL ps111 fl = true := subL_trans rfl hl
  have k_ps119 : subL ps119 fl = true := subL_trans rfl hl
  have k_ps147 : subL ps147 fl = true := subL_trans rfl hl
  have k_ps25 : subL ps25 fl = true := subL_trans rfl hl
  have kd : subL ps0 fl = true := subL_trans rfl hl
  unfold Machine.ld
  repeat' first
    | with_reducible assumption
    | (with_reducible intro x; try beta_reduce)
    | (extract_lets +onlyGivenNames v; refine (fun (hv : SameBut fl s₀ v) => ?_) ?_; (on_goal 1 => clear_value v); (on_goal 2 => (dsimp -zeta only [v]; try clear v)))
    | (extract_lets +onlyGivenNames v; refine (fun (hv : SameBut fl s₀ v.1) => ?_) ?_; (on_goal 1 => clear_value v); (on_goal 2 => (dsimp -zeta only [v]; try clear v)))
    | (extract_lets +onlyGivenNames v; first | (have w : Mem := v; clear w) | (have w : DictState := v; clear w) | (have w : Fw := v; clear w) | clear_value v)
    | with_reducible apply State_regParity_same k_ps111
    | with_reducible apply State_issue_same k_ps111
    | with_reducible apply State_illegalOp_same k_ps119
    | with_reducible apply State_checked_same k_ps119
    | with_reducible apply State_addrFault_same k_ps111
    | with_reducible apply State_readError_same k_ps147
    | with_reducible apply State_laneLoad_same hl
    | with_reducible apply State_adjGroup_same k_ps25
    | (with_reducible refine foldl_same _ _ ?_ ?_; on_goal 2 => (intro t x ht; try beta_reduce))
    | (with_reducible refine foldl_same₂ _ _ _ ?_ ?_; on_goal 2 => (intro t b x ht; try dsimp -zeta only))
    | ((simp -zeta only [frame_mk]; with_reducible refine frame_lit ps0 ?_ kd ?_); on_goal 2 => exact ⟨.inr rfl, .inr rfl, .inr rfl, .inr rfl, .inr rfl, .inr rfl, .inr rfl, .inr rfl, .inr rfl, .inr rfl, .inr rfl, .inr rfl, .inr rfl, .inr rfl, .inr rfl, .inr rfl, .inr rfl, .inr rfl, .inr rfl, .inr rfl, .inr rfl, .inr rfl, .inr rfl, .inr rfl, .inr rfl, .inr rfl, .inr rfl, .inr rfl, .inr rfl, .inr rfl, .inr rfl⟩)
    | with_reducible refine pair_same (by with_reducible assumption) ?_
    | split
    | (dsimp -zeta only)

theorem State_laneStore_same {fl : List Facet} {s₀ : State} (hl : subL ps152 fl = true) (a0 : GroupRef) (a1 : Group) (a2 : Nat) (a3 : Nat) (a4 : Nat) (a5 : List (Nat × Nat)) (a6 : State) (h6 : SameBut fl s₀ a6) :
    SameBut fl s₀ (State.laneStore a0 a1 a2 a3 a4 a5 a6) := by
  have k_ps25 : subL ps25 fl = true := subL_trans rfl hl
  induction a5 generalizing a0 a1 a2 a3 a4 a6 with
  | nil =>
    rw [State.laneStore]
    repeat' with_reducible assumption
  | cons x l ih =>
    rw [State.laneStore]
    repeat' first
      | with_reducible assumption
      | with_reducible apply ih
      | with_reducible apply State_adjTile_same k_ps25
      | with_reducible apply State_adjGroup_same k_ps25
      | with_reducible apply State_submit_same hl

theorem st_same {fl : List Facet} {s₀ : State} (hl : subL ps152 fl = true) (a0 : GroupRef) (a1 : Nat) (a2 : Nat) (a3 : Nat) (a4 : ParityHit) (a5 : State) (h5 : SameBut fl s₀ a5) :
    SameBut fl s₀ (Machine.st a0 a1 a2 a3 a4 a5) := by
  have k_ps111 : subL ps111 fl = true := subL_trans rfl hl
  have k_ps119 : subL ps119 fl = true := subL_trans rfl hl
  have k_ps25 : subL ps25 fl = true := subL_trans rfl hl
  have kd : subL ps0 fl = true := subL_trans rfl hl
  unfold Machine.st
  repeat' first
    | with_reducible assumption
    | (with_reducible intro x; try beta_reduce)
    | (extract_lets +onlyGivenNames v; refine (fun (hv : SameBut fl s₀ v) => ?_) ?_; (on_goal 1 => clear_value v); (on_goal 2 => (dsimp -zeta only [v]; try clear v)))
    | (extract_lets +onlyGivenNames v; refine (fun (hv : SameBut fl s₀ v.1) => ?_) ?_; (on_goal 1 => clear_value v); (on_goal 2 => (dsimp -zeta only [v]; try clear v)))
    | (extract_lets +onlyGivenNames v; first | (have w : Mem := v; clear w) | (have w : DictState := v; clear w) | (have w : Fw := v; clear w) | clear_value v)
    | with_reducible apply State_regParity_same k_ps111
    | with_reducible apply State_issue_same k_ps111
    | with_reducible apply State_illegalOp_same k_ps119
    | with_reducible apply State_checked_same k_ps119
    | with_reducible apply State_addrFault_same k_ps111
    | with_reducible apply State_laneStore_same hl
    | with_reducible apply State_advanceGroup_same k_ps25
    | (with_reducible refine foldl_same _ _ ?_ ?_; on_goal 2 => (intro t x ht; try beta_reduce))
    | (with_reducible refine foldl_same₂ _ _ _ ?_ ?_; on_goal 2 => (intro t b x ht; try dsimp -zeta only))
    | ((simp -zeta only [frame_mk]; with_reducible refine frame_lit ps0 ?_ kd ?_); on_goal 2 => exact ⟨.inr rfl, .inr rfl, .inr rfl, .inr rfl, .inr rfl, .inr rfl, .inr rfl, .inr rfl, .inr rfl, .inr rfl, .inr rfl, .inr rfl, .inr rfl, .inr rfl, .inr rfl, .inr rfl, .inr rfl, .inr rfl, .inr rfl, .inr rfl, .inr rfl, .inr rfl, .inr rfl, .inr rfl, .inr rfl, .inr rfl, .inr rfl, .inr rfl, .inr rfl, .inr rfl, .inr rfl⟩)
    | with_reducible refine pair_same (by with_reducible assumption) ?_
    | split
    | (dsimp -zeta only)

theorem fence_same {fl : List Facet} {s₀ : State} (hl : subL ps119 fl = true) (a0 : GroupRef) (a1 : W64) (a2 : State) (h2 : SameBut fl s₀ a2) :
    SameBut fl s₀ (Machine.fence a0 a1 a2) := by
  have k_ps111 : subL ps111 fl = true := subL_trans rfl hl
  have k_ps25 : subL ps25 fl = true := subL_trans rfl hl
  have k_ps6 : subL ps6 fl = true := subL_trans rfl hl
  have k_ps8 : subL ps8 fl = true := subL_trans rfl hl
  unfold Machine.fence
  repeat' first
    | with_reducible assumption
    | (with_reducible intro x; try beta_reduce)
    | (extract_lets +onlyGivenNames v; refine (fun (hv : SameBut fl s₀ v) => ?_) ?_; (on_goal 1 => clear_value v); (on_goal 2 => (dsimp -zeta only [v]; try clear v)))
    | (extract_lets +onlyGivenNames v; first | (have w : Mem := v; clear w) | (have w : DictState := v; clear w) | (have w : Fw := v; clear w) | clear_value v)
    | with_reducible apply State_issue_same k_ps111
    | with_reducible apply State_checkedWord_same k_ps111
    | with_reducible apply State_advanceGroup_same k_ps25
    | with_reducible apply State_bump_same k_ps6
    | with_reducible apply State_drawn_same k_ps8
    | with_reducible apply State_adjTile_same k_ps25
    | split

theorem State_laneDrops_same {fl : List Facet} {s₀ : State} (hl : subL ps152 fl = true) (a0 : GroupRef) (a1 : Nat) (a2 : List Nat) (a3 : State) (h3 : SameBut fl s₀ a3) :
    SameBut fl s₀ (State.laneDrops a0 a1 a2 a3) := by
  have k_ps25 : subL ps25 fl = true := subL_trans rfl hl
  induction a2 generalizing a0 a1 a3 with
  | nil =>
    rw [State.laneDrops]
    repeat' with_reducible assumption
  | cons x l ih =>
    rw [State.laneDrops]
    repeat' first
      | with_reducible assumption
      | with_reducible apply ih
      | with_reducible apply State_adjTile_same k_ps25
      | with_reducible apply State_adjGroup_same k_ps25
      | with_reducible apply State_submit_same hl

theorem lldrop_same {fl : List Facet} {s₀ : State} (hl : subL ps152 fl = true) (a0 : GroupRef) (a1 : W64) (a2 : ParityHit) (a3 : State) (h3 : SameBut fl s₀ a3) :
    SameBut fl s₀ (Machine.lldrop a0 a1 a2 a3) := by
  have k_ps111 : subL ps111 fl = true := subL_trans rfl hl
  have k_ps25 : subL ps25 fl = true := subL_trans rfl hl
  have kd : subL ps0 fl = true := subL_trans rfl hl
  unfold Machine.lldrop
  repeat' first
    | with_reducible assumption
    | (with_reducible intro x; try beta_reduce)
    | (extract_lets +onlyGivenNames v; refine (fun (hv : SameBut fl s₀ v) => ?_) ?_; (on_goal 1 => clear_value v); (on_goal 2 => (dsimp -zeta only [v]; try clear v)))
    | (extract_lets +onlyGivenNames v; refine (fun (hv : SameBut fl s₀ v.1) => ?_) ?_; (on_goal 1 => clear_value v); (on_goal 2 => (dsimp -zeta only [v]; try clear v)))
    | (extract_lets +onlyGivenNames v; first | (have w : Mem := v; clear w) | (have w : DictState := v; clear w) | (have w : Fw := v; clear w) | clear_value v)
    | with_reducible apply State_regParity_same k_ps111
    | with_reducible apply State_issue_same k_ps111
    | with_reducible apply State_checkedWord_same k_ps111
    | with_reducible apply State_addrFault_same k_ps111
    | with_reducible apply State_laneDrops_same hl
    | with_reducible apply State_advanceGroup_same k_ps25
    | (with_reducible refine foldl_same _ _ ?_ ?_; on_goal 2 => (intro t x ht; try beta_reduce))
    | (with_reducible refine foldl_same₂ _ _ _ ?_ ?_; on_goal 2 => (intro t b x ht; try dsimp -zeta only))
    | ((simp -zeta only [frame_mk]; with_reducible refine frame_lit ps0 ?_ kd ?_); on_goal 2 => exact ⟨.inr rfl, .inr rfl, .inr rfl, .inr rfl, .inr rfl, .inr rfl, .inr rfl, .inr rfl, .inr rfl, .inr rfl, .inr rfl, .inr rfl, .inr rfl, .inr rfl, .inr rfl, .inr rfl, .inr rfl, .inr rfl, .inr rfl, .inr rfl, .inr rfl, .inr rfl, .inr rfl, .inr rfl, .inr rfl, .inr rfl, .inr rfl, .inr rfl, .inr rfl, .inr rfl, .inr rfl⟩)
    | with_reducible refine pair_same (by with_reducible assumption) ?_
    | split
    | (dsimp -zeta only)

theorem redl_same {fl : List Facet} {s₀ : State} (hl : subL ps152 fl = true) (a0 : GroupRef) (a1 : W64) (a2 : ParityHit) (a3 : State) (h3 : SameBut fl s₀ a3) :
    SameBut fl s₀ (Machine.redl a0 a1 a2 a3) := by
  have k_ps111 : subL ps111 fl = true := subL_trans rfl hl
  have k_ps25 : subL ps25 fl = true := subL_trans rfl hl
  have k_ps63 : subL ps63 fl = true := subL_trans rfl hl
  have kd : subL ps0 fl = true := subL_trans rfl hl
  unfold Machine.redl
  repeat' first
    | with_reducible assumption
    | (with_reducible intro x; try beta_reduce)
    | (extract_lets +onlyGivenNames v; refine (fun (hv : SameBut fl s₀ v) => ?_) ?_; (on_goal 1 => clear_value v); (on_goal 2 => (dsimp -zeta only [v]; try clear v)))
    | (extract_lets +onlyGivenNames v; refine (fun (hv : SameBut fl s₀ v.1) => ?_) ?_; (on_goal 1 => clear_value v); (on_goal 2 => (dsimp -zeta only [v]; try clear v)))
    | (extract_lets +onlyGivenNames v; first | (have w : Mem := v; clear w) | (have w : DictState := v; clear w) | (have w : Fw := v; clear w) | clear_value v)
    | with_reducible apply State_regParity_same k_ps111
    | with_reducible apply State_issue_same k_ps111
    | with_reducible apply State_checkedWord_same k_ps111
    | with_reducible apply State_addrFault_same k_ps111
    | with_reducible apply State_threadFault_same k_ps111
    | with_reducible apply State_poisonHalted_same k_ps63
    | with_reducible apply State_adjTile_same k_ps25
    | with_reducible apply State_advanceGroup_same k_ps25
    | with_reducible apply State_submit_same hl
    | with_reducible apply State_adjGroup_same k_ps25
    | (with_reducible refine foldl_same _ _ ?_ ?_; on_goal 2 => (intro t x ht; try beta_reduce))
    | (with_reducible refine foldl_same₂ _ _ _ ?_ ?_; on_goal 2 => (intro t b x ht; try dsimp -zeta only))
    | ((simp -zeta only [frame_mk]; with_reducible refine frame_lit ps0 ?_ kd ?_); on_goal 2 => exact ⟨.inr rfl, .inr rfl, .inr rfl, .inr rfl, .inr rfl, .inr rfl, .inr rfl, .inr rfl, .inr rfl, .inr rfl, .inr rfl, .inr rfl, .inr rfl, .inr rfl, .inr rfl, .inr rfl, .inr rfl, .inr rfl, .inr rfl, .inr rfl, .inr rfl, .inr rfl, .inr rfl, .inr rfl, .inr rfl, .inr rfl, .inr rfl, .inr rfl, .inr rfl, .inr rfl, .inr rfl⟩)
    | with_reducible refine pair_same (by with_reducible assumption) ?_
    | split
    | (dsimp -zeta only)

theorem rng_same {fl : List Facet} {s₀ : State} (hl : subL ps111 fl = true) (a0 : GroupRef) (a1 : W64) (a2 : ParityHit) (a3 : State) (h3 : SameBut fl s₀ a3) :
    SameBut fl s₀ (Machine.rng a0 a1 a2 a3) := by
  have k_ps25 : subL ps25 fl = true := subL_trans rfl hl
  have kd : subL ps0 fl = true := subL_trans rfl hl
  unfold Machine.rng
  repeat' first
    | with_reducible assumption
    | (with_reducible intro x; try beta_reduce)
    | (extract_lets +onlyGivenNames v; refine (fun (hv : SameBut fl s₀ v) => ?_) ?_; (on_goal 1 => clear_value v); (on_goal 2 => (dsimp -zeta only [v]; try clear v)))
    | (extract_lets +onlyGivenNames v; refine (fun (hv : SameBut fl s₀ v.1) => ?_) ?_; (on_goal 1 => clear_value v); (on_goal 2 => (dsimp -zeta only [v]; try clear v)))
    | (extract_lets +onlyGivenNames v; first | (have w : Mem := v; clear w) | (have w : DictState := v; clear w) | (have w : Fw := v; clear w) | clear_value v)
    | with_reducible apply State_regParity_same hl
    | with_reducible apply State_issue_same hl
    | with_reducible apply State_checkedWord_same hl
    | with_reducible apply State_adjGroup_same k_ps25
    | (with_reducible refine foldl_same _ _ ?_ ?_; on_goal 2 => (intro t x ht; try beta_reduce))
    | (with_reducible refine foldl_same₂ _ _ _ ?_ ?_; on_goal 2 => (intro t b x ht; try dsimp -zeta only))
    | ((simp -zeta only [frame_mk]; with_reducible refine frame_lit ps0 ?_ kd ?_); on_goal 2 => exact ⟨.inr rfl, .inr rfl, .inr rfl, .inr rfl, .inr rfl, .inr rfl, .inr rfl, .inr rfl, .inr rfl, .inr rfl, .inr rfl, .inr rfl, .inr rfl, .inr rfl, .inr rfl, .inr rfl, .inr rfl, .inr rfl, .inr rfl, .inr rfl, .inr rfl, .inr rfl, .inr rfl, .inr rfl, .inr rfl, .inr rfl, .inr rfl, .inr rfl, .inr rfl, .inr rfl, .inr rfl⟩)
    | with_reducible refine pair_same (by with_reducible assumption) ?_
    | split
    | (dsimp -zeta only)

end Sys2Proof.Laws
end

