-- ==== Sys2Proof/Laws/FramePeer.lean ====
section
/-! SUPPORT. What the operations of Machine/Peer.lean leave unchanged (`SameBut`): one lemma for each. -/

set_option Elab.async false
set_option linter.all false

namespace Sys2Proof.Laws

open Sys2Proof Sys2Proof.Machine

theorem State_adjPeer_same {fl : List Facet} {s₀ : State} (hl : subL ps12 fl = true) (a0 : State) (a1 : Nat) (a2 : Peer → Peer) (h0 : SameBut fl s₀ a0) :
    SameBut fl s₀ (State.adjPeer a0 a1 a2) := by
  have kd : subL ps12 fl = true := subL_trans rfl hl
  unfold State.adjPeer
  repeat' first
    | with_reducible assumption
    | (extract_lets +onlyGivenNames v; first | (have w : Mem := v; clear w) | (have w : DictState := v; clear w) | (have w : Fw := v; clear w) | clear_value v)
    | ((simp -zeta only [frame_mk]; with_reducible refine frame_lit ps12 ?_ kd ?_); on_goal 2 => exact ⟨.inr rfl, .inr rfl, .inr rfl, .inr rfl, .inr rfl, .inr rfl, .inr rfl, .inr rfl, .inr rfl, .inr rfl, .inr rfl, .inr rfl, .inr rfl, .inr rfl, .inr rfl, .inr rfl, .inr rfl, .inr rfl, .inr rfl, .inr rfl, .inr rfl, .inr rfl, .inr rfl, .inr rfl, .inr rfl, .inr rfl, .inr rfl, .inl rfl, .inr rfl, .inr rfl, .inr rfl⟩)

theorem State_sendOne_same {fl : List Facet} {s₀ : State} (hl : subL ps12 fl = true) (a0 : State) (a1 : Nat) (h0 : SameBut fl s₀ a0) :
    SameBut fl s₀ (State.sendOne a0 a1) := by
  unfold State.sendOne
  repeat' first
    | with_reducible assumption
    | (extract_lets +onlyGivenNames v; first | (have w : Mem := v; clear w) | (have w : DictState := v; clear w) | (have w : Fw := v; clear w) | clear_value v)
    | with_reducible apply State_adjPeer_same hl
    | split

theorem State_pump_same {fl : List Facet} {s₀ : State} (hl : subL ps12 fl = true) (a0 : Nat) (a1 : Nat) (a2 : State) (h2 : SameBut fl s₀ a2) :
    SameBut fl s₀ (State.pump a0 a1 a2) := by
  induction a1 generalizing a0 a2 with
  | zero =>
    rw [State.pump]
    repeat' with_reducible assumption
  | succ n ih =>
    rw [State.pump]
    repeat' first
      | with_reducible assumption
      | with_reducible apply ih
      | with_reducible apply State_sendOne_same hl

theorem State_sendMsg_same {fl : List Facet} {s₀ : State} (hl : subL ps12 fl = true) (a0 : State) (a1 : Nat) (a2 : PMsg) (h0 : SameBut fl s₀ a0) :
    SameBut fl s₀ (State.sendMsg a0 a1 a2) := by
  unfold State.sendMsg
  repeat' first
    | with_reducible assumption
    | (extract_lets +onlyGivenNames v; refine (fun (hv : SameBut fl s₀ v) => ?_) ?_; (on_goal 1 => clear_value v); (on_goal 2 => (dsimp -zeta only [v]; try clear v)))
    | with_reducible apply State_adjPeer_same hl
    | with_reducible apply State_pump_same hl

theorem State_sendCtl_same {fl : List Facet} {s₀ : State} (hl : subL ps12 fl = true) (a0 : State) (a1 : Nat) (a2 : Nat) (a3 : Nat) (h0 : SameBut fl s₀ a0) :
    SameBut fl s₀ (State.sendCtl a0 a1 a2 a3) := by
  unfold State.sendCtl
  repeat' first
    | with_reducible assumption
    | with_reducible apply State_adjPeer_same hl

theorem State_collFault_same {fl : List Facet} {s₀ : State} (hl : subL ps63 fl = true) (a0 : State) (a1 : Entry) (a2 : Nat) (h0 : SameBut fl s₀ a0) :
    SameBut fl s₀ (State.collFault a0 a1 a2) := by
  have k_ps16 : subL ps16 fl = true := subL_trans rfl hl
  unfold State.collFault
  repeat' first
    | with_reducible assumption
    | (extract_lets +onlyGivenNames v; first | (have w : Mem := v; clear w) | (have w : DictState := v; clear w) | (have w : Fw := v; clear w) | clear_value v)
    | with_reducible apply State_finish_same k_ps16
    | with_reducible apply State_logFault_same hl

theorem State_endPeerWork_same {fl : List Facet} {s₀ : State} (hl : subL ps106 fl = true) (a0 : State) (a1 : Nat) (h0 : SameBut fl s₀ a0) :
    SameBut fl s₀ (State.endPeerWork a0 a1) := by
  have k_ps12 : subL ps12 fl = true := subL_trans rfl hl
  have k_ps63 : subL ps63 fl = true := subL_trans rfl hl
  have k_ps8 : subL ps8 fl = true := subL_trans rfl hl
  unfold State.endPeerWork
  repeat' first
    | with_reducible assumption
    | (extract_lets +onlyGivenNames v; refine (fun (hv : SameBut fl s₀ v) => ?_) ?_; (on_goal 1 => clear_value v); (on_goal 2 => (dsimp -zeta only [v]; try clear v)))
    | (extract_lets +onlyGivenNames v; first | (have w : Mem := v; clear w) | (have w : DictState := v; clear w) | (have w : Fw := v; clear w) | clear_value v)
    | with_reducible apply State_collFault_same k_ps63
    | with_reducible apply State_drawn_same k_ps8
    | with_reducible apply State_adjPeer_same k_ps12
    | (with_reducible refine foldl_same _ _ ?_ ?_; on_goal 2 => (intro t x ht; try beta_reduce))

theorem State_peerHeldDown_same {fl : List Facet} {s₀ : State} (hl : subL ps125 fl = true) (a0 : State) (a1 : Nat) (h0 : SameBut fl s₀ a0) :
    SameBut fl s₀ (State.peerHeldDown a0 a1) := by
  have k_ps10 : subL ps10 fl = true := subL_trans rfl hl
  have k_ps106 : subL ps106 fl = true := subL_trans rfl hl
  have k_ps63 : subL ps63 fl = true := subL_trans rfl hl
  have kd : subL ps3 fl = true := subL_trans rfl hl
  unfold State.peerHeldDown
  repeat' first
    | with_reducible assumption
    | (with_reducible intro x; try beta_reduce)
    | (extract_lets +onlyGivenNames v; refine (fun (hv : SameBut fl s₀ v) => ?_) ?_; (on_goal 1 => clear_value v); (on_goal 2 => (dsimp -zeta only [v]; try clear v)))
    | (extract_lets +onlyGivenNames v; refine (fun (hv : SameBut fl s₀ v.1) => ?_) ?_; (on_goal 1 => clear_value v); (on_goal 2 => (dsimp -zeta only [v]; try clear v)))
    | (extract_lets +onlyGivenNames v; first | (have w : Mem := v; clear w) | (have w : DictState := v; clear w) | (have w : Fw := v; clear w) | clear_value v)
    | with_reducible apply State_endPeerWork_same k_ps106
    | with_reducible apply State_log_same k_ps63
    | with_reducible apply State_setFunc_same k_ps10
    | (with_reducible refine foldl_same _ _ ?_ ?_; on_goal 2 => (intro t x ht; try beta_reduce))
    | (with_reducible refine foldl_same₂ _ _ _ ?_ ?_; on_goal 2 => (intro t b x ht; try dsimp -zeta only))
    | ((simp -zeta only [frame_mk]; with_reducible refine frame_lit ps3 ?_ kd ?_); on_goal 2 => exact ⟨.inr rfl, .inr rfl, .inr rfl, .inr rfl, .inr rfl, .inr rfl, .inr rfl, .inr rfl, .inr rfl, .inr rfl, .inr rfl, .inr rfl, .inr rfl, .inr rfl, .inr rfl, .inr rfl, .inr rfl, .inr rfl, .inr rfl, .inr rfl, .inr rfl, .inr rfl, .inr rfl, .inr rfl, .inr rfl, .inl rfl, .inr rfl, .inr rfl, .inr rfl, .inr rfl, .inr rfl⟩)
    | with_reducible refine pair_same (by with_reducible assumption) ?_
    | split
    | (dsimp -zeta only)

theorem State_takeAck_same {fl : List Facet} {s₀ : State} (hl : subL ps12 fl = true) (a0 : State) (a1 : Nat) (a2 : Nat) (h0 : SameBut fl s₀ a0) :
    SameBut fl s₀ (State.takeAck a0 a1 a2) := by
  unfold State.takeAck
  repeat' first
    | with_reducible assumption
    | (extract_lets +onlyGivenNames v; refine (fun (hv : SameBut fl s₀ v) => ?_) ?_; (on_goal 1 => clear_value v); (on_goal 2 => (dsimp -zeta only [v]; try clear v)))
    | (extract_lets +onlyGivenNames v; first | (have w : Mem := v; clear w) | (have w : DictState := v; clear w) | (have w : Fw := v; clear w) | clear_value v)
    | with_reducible apply State_adjPeer_same hl
    | with_reducible apply State_pump_same hl
    | split

theorem State_retrainPort_same {fl : List Facet} {s₀ : State} (hl : subL ps125 fl = true) (a0 : State) (a1 : Nat) (a2 : Bool) (h0 : SameBut fl s₀ a0) :
    SameBut fl s₀ (State.retrainPort a0 a1 a2) := by
  have k_ps12 : subL ps12 fl = true := subL_trans rfl hl
  have k_ps6 : subL ps6 fl = true := subL_trans rfl hl
  have k_ps63 : subL ps63 fl = true := subL_trans rfl hl
  unfold State.retrainPort
  repeat' first
    | with_reducible assumption
    | (extract_lets +onlyGivenNames v; refine (fun (hv : SameBut fl s₀ v) => ?_) ?_; (on_goal 1 => clear_value v); (on_goal 2 => (dsimp -zeta only [v]; try clear v)))
    | (extract_lets +onlyGivenNames v; first | (have w : Mem := v; clear w) | (have w : DictState := v; clear w) | (have w : Fw := v; clear w) | clear_value v)
    | with_reducible apply State_peerHeldDown_same hl
    | with_reducible apply State_adjPeer_same k_ps12
    | with_reducible apply State_sendCtl_same k_ps12
    | with_reducible apply State_log_same k_ps63
    | with_reducible apply State_bump_same k_ps6
    | split

theorem State_replayPort_same {fl : List Facet} {s₀ : State} (hl : subL ps125 fl = true) (a0 : State) (a1 : Nat) (h0 : SameBut fl s₀ a0) :
    SameBut fl s₀ (State.replayPort a0 a1) := by
  have k_ps12 : subL ps12 fl = true := subL_trans rfl hl
  have k_ps6 : subL ps6 fl = true := subL_trans rfl hl
  unfold State.replayPort
  repeat' first
    | with_reducible assumption
    | with_reducible apply State_retrainPort_same hl
    | with_reducible apply State_bump_same k_ps6
    | with_reducible apply State_adjPeer_same k_ps12
    | split

theorem State_discardFlit_same {fl : List Facet} {s₀ : State} (hl : subL ps12 fl = true) (a0 : State) (a1 : Nat) (h0 : SameBut fl s₀ a0) :
    SameBut fl s₀ (State.discardFlit a0 a1) := by
  unfold State.discardFlit
  repeat' first
    | with_reducible assumption
    | with_reducible apply State_adjPeer_same hl
    | with_reducible apply State_sendCtl_same hl

theorem State_protocolError_same {fl : List Facet} {s₀ : State} (hl : subL ps63 fl = true) (a0 : State) (a1 : Nat) (a2 : Nat) (a3 : Nat) (h0 : SameBut fl s₀ a0) :
    SameBut fl s₀ (State.protocolError a0 a1 a2 a3) := by
  have k_ps14 : subL ps14 fl = true := subL_trans rfl hl
  have k_ps6 : subL ps6 fl = true := subL_trans rfl hl
  unfold State.protocolError
  repeat' first
    | with_reducible assumption
    | (extract_lets +onlyGivenNames v; refine (fun (hv : SameBut fl s₀ v) => ?_) ?_; (on_goal 1 => clear_value v); (on_goal 2 => (dsimp -zeta only [v]; try clear v)))
    | (extract_lets +onlyGivenNames v; first | (have w : Mem := v; clear w) | (have w : DictState := v; clear w) | (have w : Fw := v; clear w) | clear_value v)
    | with_reducible apply State_bump_same k_ps6
    | with_reducible apply State_log_same hl
    | with_reducible apply State_limitMark_same k_ps14
    | split

theorem State_receiveFlit_same {fl : List Facet} {s₀ : State} (hl : subL ps93 fl = true) (a0 : State) (a1 : Nat) (a2 : Bytes) (a3 : Bool) (a4 : Nat) (a5 : Nat) (a6 : State → Nat → State) (h0 : SameBut fl s₀ a0) (h6 : ∀ x0 x1, SameBut fl s₀ x0 → SameBut fl s₀ (a6 x0 x1)) :
    SameBut fl s₀ (State.receiveFlit a0 a1 a2 a3 a4 a5 a6) := by
  have k_ps12 : subL ps12 fl = true := subL_trans rfl hl
  have k_ps63 : subL ps63 fl = true := subL_trans rfl hl
  unfold State.receiveFlit
  repeat' first
    | with_reducible assumption
    | (extract_lets +onlyGivenNames v; first | (have w : Mem := v; clear w) | (have w : DictState := v; clear w) | (have w : Fw := v; clear w) | clear_value v)
    | with_reducible apply h6
    | with_reducible apply State_discardFlit_same k_ps12
    | with_reducible apply State_protocolError_same k_ps63
    | split

theorem State_acceptData_same {fl : List Facet} {s₀ : State} (hl : subL ps93 fl = true) (a0 : State) (a1 : Nat) (a2 : Bytes) (a3 : Nat) (h0 : SameBut fl s₀ a0) :
    SameBut fl s₀ (State.acceptData a0 a1 a2 a3) := by
  have k_ps12 : subL ps12 fl = true := subL_trans rfl hl
  have k_ps63 : subL ps63 fl = true := subL_trans rfl hl
  unfold State.acceptData
  repeat' first
    | with_reducible assumption
    | (extract_lets +onlyGivenNames v; refine (fun (hv : SameBut fl s₀ v) => ?_) ?_; (on_goal 1 => clear_value v); (on_goal 2 => (dsimp -zeta only [v]; try clear v)))
    | (extract_lets +onlyGivenNames v; first | (have w : Mem := v; clear w) | (have w : DictState := v; clear w) | (have w : Fw := v; clear w) | clear_value v)
    | with_reducible apply State_adjPeer_same k_ps12
    | with_reducible apply State_protocolError_same k_ps63
    | split

theorem dataFlit_same {fl : List Facet} {s₀ : State} (hl : subL ps93 fl = true) (a0 : Nat) (a1 : Bytes) (a2 : Bool) (a3 : State) (h3 : SameBut fl s₀ a3) :
    SameBut fl s₀ (Machine.dataFlit a0 a1 a2 a3) := by
  have k_ps12 : subL ps12 fl = true := subL_trans rfl hl
  unfold Machine.dataFlit
  repeat' first
    | with_reducible assumption
    | (with_reducible intro x; try beta_reduce)
    | (extract_lets +onlyGivenNames v; refine (fun (hv : SameBut fl s₀ v) => ?_) ?_; (on_goal 1 => clear_value v); (on_goal 2 => (dsimp -zeta only [v]; try clear v)))
    | (extract_lets +onlyGivenNames v; first | (have w : Mem := v; clear w) | (have w : DictState := v; clear w) | (have w : Fw := v; clear w) | clear_value v)
    | with_reducible apply State_receiveFlit_same hl
    | with_reducible apply State_takeAck_same k_ps12
    | with_reducible apply State_acceptData_same hl
    | with_reducible apply State_discardFlit_same k_ps12
    | split

theorem idleFlit_same {fl : List Facet} {s₀ : State} (hl : subL ps93 fl = true) (a0 : Nat) (a1 : Bytes) (a2 : Bool) (a3 : State) (h3 : SameBut fl s₀ a3) :
    SameBut fl s₀ (Machine.idleFlit a0 a1 a2 a3) := by
  have k_ps12 : subL ps12 fl = true := subL_trans rfl hl
  unfold Machine.idleFlit
  repeat' first
    | with_reducible assumption
    | (with_reducible intro x; try beta_reduce)
    | with_reducible apply State_receiveFlit_same hl
    | with_reducible apply State_takeAck_same k_ps12

theorem nak_same {fl : List Facet} {s₀ : State} (hl : subL ps125 fl = true) (a0 : Nat) (a1 : Bytes) (a2 : Bool) (a3 : State) (h3 : SameBut fl s₀ a3) :
    SameBut fl s₀ (Machine.nak a0 a1 a2 a3) := by
  have k_ps12 : subL ps12 fl = true := subL_trans rfl hl
  have k_ps93 : subL ps93 fl = true := subL_trans rfl hl
  unfold Machine.nak
  repeat' first
    | with_reducible assumption
    | (with_reducible intro x; try beta_reduce)
    | (extract_lets +onlyGivenNames v; refine (fun (hv : SameBut fl s₀ v) => ?_) ?_; (on_goal 1 => clear_value v); (on_goal 2 => (dsimp -zeta only [v]; try clear v)))
    | (extract_lets +onlyGivenNames v; first | (have w : Mem := v; clear w) | (have w : DictState := v; clear w) | (have w : Fw := v; clear w) | clear_value v)
    | with_reducible apply State_receiveFlit_same k_ps93
    | with_reducible apply State_takeAck_same k_ps12
    | with_reducible apply State_adjPeer_same k_ps12
    | with_reducible apply State_replayPort_same hl
    | split

theorem State_narrowPort_same {fl : List Facet} {s₀ : State} (hl : subL ps125 fl = true) (a0 : State) (a1 : Nat) (h0 : SameBut fl s₀ a0) :
    SameBut fl s₀ (State.narrowPort a0 a1) := by
  have k_ps12 : subL ps12 fl = true := subL_trans rfl hl
  have k_ps63 : subL ps63 fl = true := subL_trans rfl hl
  unfold State.narrowPort
  repeat' first
    | with_reducible assumption
    | (extract_lets +onlyGivenNames v; first | (have w : Mem := v; clear w) | (have w : DictState := v; clear w) | (have w : Fw := v; clear w) | clear_value v)
    | with_reducible apply State_log_same k_ps63
    | with_reducible apply State_sendCtl_same k_ps12
    | with_reducible apply State_adjPeer_same k_ps12
    | with_reducible apply State_peerHeldDown_same hl
    | split

theorem State_spareNext_same {fl : List Facet} {s₀ : State} (hl : subL ps125 fl = true) (a0 : Nat) (a1 : Nat) (a2 : State) (h2 : SameBut fl s₀ a2) :
    SameBut fl s₀ (State.spareNext a0 a1 a2) := by
  have k_ps12 : subL ps12 fl = true := subL_trans rfl hl
  induction a1 generalizing a0 a2 with
  | zero =>
    rw [State.spareNext]
    repeat' with_reducible assumption
  | succ n ih =>
    rw [State.spareNext]
    repeat' first
      | with_reducible assumption
      | with_reducible apply ih
      | with_reducible apply State_adjPeer_same k_ps12
      | with_reducible apply State_sendCtl_same k_ps12
      | with_reducible apply State_narrowPort_same hl
      | split

theorem laneFailed_same {fl : List Facet} {s₀ : State} (hl : subL ps125 fl = true) (a0 : Nat) (a1 : Nat) (a2 : State) (h2 : SameBut fl s₀ a2) :
    SameBut fl s₀ (Machine.laneFailed a0 a1 a2) := by
  have k_ps12 : subL ps12 fl = true := subL_trans rfl hl
  unfold Machine.laneFailed
  repeat' first
    | with_reducible assumption
    | (extract_lets +onlyGivenNames v; refine (fun (hv : SameBut fl s₀ v) => ?_) ?_; (on_goal 1 => clear_value v); (on_goal 2 => (dsimp -zeta only [v]; try clear v)))
    | with_reducible apply State_adjPeer_same k_ps12
    | with_reducible apply State_spareNext_same hl
    | split

theorem State_steered_same {fl : List Facet} {s₀ : State} (hl : subL ps125 fl = true) (a0 : State) (a1 : Nat) (a2 : Nat) (a3 : Nat) (h0 : SameBut fl s₀ a0) :
    SameBut fl s₀ (State.steered a0 a1 a2 a3) := by
  have k_ps12 : subL ps12 fl = true := subL_trans rfl hl
  have k_ps6 : subL ps6 fl = true := subL_trans rfl hl
  have k_ps63 : subL ps63 fl = true := subL_trans rfl hl
  unfold State.steered
  repeat' first
    | with_reducible assumption
    | (extract_lets +onlyGivenNames v; refine (fun (hv : SameBut fl s₀ v) => ?_) ?_; (on_goal 1 => clear_value v); (on_goal 2 => (dsimp -zeta only [v]; try clear v)))
    | with_reducible apply State_adjPeer_same k_ps12
    | with_reducible apply State_log_same k_ps63
    | with_reducible apply State_bump_same k_ps6
    | with_reducible apply State_spareNext_same hl
    | with_reducible apply State_pump_same k_ps12

theorem laneSwap_same {fl : List Facet} {s₀ : State} (hl : subL ps125 fl = true) (a0 : Nat) (a1 : Bytes) (a2 : Bool) (a3 : State) (h3 : SameBut fl s₀ a3) :
    SameBut fl s₀ (Machine.laneSwap a0 a1 a2 a3) := by
  have k_ps12 : subL ps12 fl = true := subL_trans rfl hl
  have k_ps93 : subL ps93 fl = true := subL_trans rfl hl
  unfold Machine.laneSwap
  repeat' first
    | with_reducible assumption
    | (with_reducible intro x; try beta_reduce)
    | (extract_lets +onlyGivenNames v; refine (fun (hv : SameBut fl s₀ v) => ?_) ?_; (on_goal 1 => clear_value v); (on_goal 2 => (dsimp -zeta only [v]; try clear v)))
    | (extract_lets +onlyGivenNames v; first | (have w : Mem := v; clear w) | (have w : DictState := v; clear w) | (have w : Fw := v; clear w) | clear_value v)
    | with_reducible apply State_receiveFlit_same k_ps93
    | with_reducible apply State_sendCtl_same k_ps12
    | with_reducible apply State_takeAck_same k_ps12
    | with_reducible apply State_steered_same hl
    | with_reducible apply State_adjPeer_same k_ps12
    | split

theorem laneSwapAck_same {fl : List Facet} {s₀ : State} (hl : subL ps125 fl = true) (a0 : Nat) (a1 : Bytes) (a2 : Bool) (a3 : State) (h3 : SameBut fl s₀ a3) :
    SameBut fl s₀ (Machine.laneSwapAck a0 a1 a2 a3) := by
  have k_ps12 : subL ps12 fl = true := subL_trans rfl hl
  have k_ps93 : subL ps93 fl = true := subL_trans rfl hl
  unfold Machine.laneSwapAck
  repeat' first
    | with_reducible assumption
    | (with_reducible intro x; try beta_reduce)
    | (extract_lets +onlyGivenNames v; refine (fun (hv : SameBut fl s₀ v) => ?_) ?_; (on_goal 1 => clear_value v); (on_goal 2 => (dsimp -zeta only [v]; try clear v)))
    | with_reducible apply State_receiveFlit_same k_ps93
    | with_reducible apply State_takeAck_same k_ps12
    | with_reducible apply State_steered_same hl
    | split

theorem width_same {fl : List Facet} {s₀ : State} (hl : subL ps93 fl = true) (a0 : Nat) (a1 : Bytes) (a2 : Bool) (a3 : State) (h3 : SameBut fl s₀ a3) :
    SameBut fl s₀ (Machine.width a0 a1 a2 a3) := by
  have k_ps12 : subL ps12 fl = true := subL_trans rfl hl
  have k_ps63 : subL ps63 fl = true := subL_trans rfl hl
  unfold Machine.width
  repeat' first
    | with_reducible assumption
    | (with_reducible intro x; try beta_reduce)
    | with_reducible apply State_receiveFlit_same hl
    | with_reducible apply State_log_same k_ps63
    | with_reducible apply State_adjPeer_same k_ps12
    | with_reducible apply State_takeAck_same k_ps12

theorem retrain_same {fl : List Facet} {s₀ : State} (hl : subL ps125 fl = true) (a0 : Nat) (a1 : Bytes) (a2 : Bool) (a3 : State) (h3 : SameBut fl s₀ a3) :
    SameBut fl s₀ (Machine.retrain a0 a1 a2 a3) := by
  have k_ps12 : subL ps12 fl = true := subL_trans rfl hl
  have k_ps93 : subL ps93 fl = true := subL_trans rfl hl
  unfold Machine.retrain
  repeat' first
    | with_reducible assumption
    | (with_reducible intro x; try beta_reduce)
    | with_reducible apply State_receiveFlit_same k_ps93
    | with_reducible apply State_retrainPort_same hl
    | with_reducible apply State_takeAck_same k_ps12

theorem replayTimeout_same {fl : List Facet} {s₀ : State} (hl : subL ps125 fl = true) (a0 : Nat) (a1 : State) (h1 : SameBut fl s₀ a1) :
    SameBut fl s₀ (Machine.replayTimeout a0 a1) := by
  unfold Machine.replayTimeout
  repeat' first
    | with_reducible assumption
    | with_reducible apply State_replayPort_same hl
    | split

theorem peerRetrainComplete_same {fl : List Facet} {s₀ : State} (hl : subL ps125 fl = true) (a0 : Nat) (a1 : State) (h1 : SameBut fl s₀ a1) :
    SameBut fl s₀ (Machine.peerRetrainComplete a0 a1) := by
  have k_ps12 : subL ps12 fl = true := subL_trans rfl hl
  unfold Machine.peerRetrainComplete
  repeat' first
    | with_reducible assumption
    | (extract_lets +onlyGivenNames v; refine (fun (hv : SameBut fl s₀ v) => ?_) ?_; (on_goal 1 => clear_value v); (on_goal 2 => (dsimp -zeta only [v]; try clear v)))
    | with_reducible apply State_adjPeer_same k_ps12
    | with_reducible apply State_spareNext_same hl
    | with_reducible apply State_pump_same k_ps12
    | split

theorem State_popMsg_same {fl : List Facet} {s₀ : State} (hl : subL ps12 fl = true) (a0 : State) (a1 : Nat) (a2 : Nat) (h0 : SameBut fl s₀ a0) :
    SameBut fl s₀ (State.popMsg a0 a1 a2) := by
  unfold State.popMsg
  repeat' first
    | with_reducible assumption
    | with_reducible apply State_adjPeer_same hl
    | split

theorem State_answer_same {fl : List Facet} {s₀ : State} (hl : subL ps12 fl = true) (a0 : State) (a1 : Nat) (a2 : PMsg) (a3 : Nat) (a4 : Nat) (a5 : List SectorVal) (h0 : SameBut fl s₀ a0) :
    SameBut fl s₀ (State.answer a0 a1 a2 a3 a4 a5) := by
  unfold State.answer
  repeat' first
    | with_reducible assumption
    | with_reducible apply State_sendMsg_same hl

theorem State_peerStore_same {fl : List Facet} {s₀ : State} (hl : subL ps123 fl = true) (a0 : Nat) (a1 : Nat) (a2 : List SectorVal) (a3 : State) (h3 : SameBut fl s₀ a3) :
    SameBut fl s₀ (State.peerStore a0 a1 a2 a3).1 := by
  have kd : subL ps123 fl = true := subL_trans rfl hl
  induction a2 generalizing a0 a1 a3 with
  | nil =>
    rw [State.peerStore]
    repeat' first
      | with_reducible assumption
      | (with_reducible intro x; try beta_reduce)
      | (extract_lets +onlyGivenNames v; refine (fun (hv : SameBut fl s₀ v) => ?_) ?_; (on_goal 1 => clear_value v); (on_goal 2 => (dsimp -zeta only [v]; try clear v)))
      | (extract_lets +onlyGivenNames v; refine (fun (hv : SameBut fl s₀ v.1) => ?_) ?_; (on_goal 1 => clear_value v); (on_goal 2 => (dsimp -zeta only [v]; try clear v)))
      | (extract_lets +onlyGivenNames v; first | (have w : Mem := v; clear w) | (have w : DictState := v; clear w) | (have w : Fw := v; clear w) | clear_value v)
      | with_reducible apply ih
      | with_reducible apply State_bankStore_same hl
      | (with_reducible refine foldl_same _ _ ?_ ?_; on_goal 2 => (intro t x ht; try beta_reduce))
      | (with_reducible refine foldl_same₂ _ _ _ ?_ ?_; on_goal 2 => (intro t b x ht; try dsimp -zeta only))
      | ((simp -zeta only [frame_mk]; with_reducible refine frame_lit ps123 ?_ kd ?_); on_goal 2 => exact ⟨.inr rfl, .inr rfl, .inl rfl, .inr rfl, .inr rfl, .inr rfl, .inr rfl, .inr rfl, .inr rfl, .inr rfl, .inr rfl, .inl rfl, .inr rfl, .inl rfl, .inl rfl, .inl rfl, .inr rfl, .inl rfl, .inl rfl, .inr rfl, .inr rfl, .inr rfl, .inr rfl, .inr rfl, .inr rfl, .inr rfl, .inr rfl, .inr rfl, .inr rfl, .inr rfl, .inr rfl⟩)
      | with_reducible refine pair_same (by with_reducible assumption) ?_
      | split
      | (dsimp -zeta only)
  | cons x l ih =>
    rw [State.peerStore]
    repeat' first
      | with_reducible assumption
      | (with_reducible intro x; try beta_reduce)
      | (extract_lets +onlyGivenNames v; refine (fun (hv : SameBut fl s₀ v) => ?_) ?_; (on_goal 1 => clear_value v); (on_goal 2 => (dsimp -zeta only [v]; try clear v)))
      | (extract_lets +onlyGivenNames v; refine (fun (hv : SameBut fl s₀ v.1) => ?_) ?_; (on_goal 1 => clear_value v); (on_goal 2 => (dsimp -zeta only [v]; try clear v)))
      | (extract_lets +onlyGivenNames v; first | (have w : Mem := v; clear w) | (have w : DictState := v; clear w) | (have w : Fw := v; clear w) | clear_value v)
      | with_reducible apply ih
      | with_reducible apply State_bankStore_same hl
      | (with_reducible refine foldl_same _ _ ?_ ?_; on_goal 2 => (intro t x ht; try beta_reduce))
      | (with_reducible refine foldl_same₂ _ _ _ ?_ ?_; on_goal 2 => (intro t b x ht; try dsimp -zeta only))
      | ((simp -zeta only [frame_mk]; with_reducible refine frame_lit ps123 ?_ kd ?_); on_goal 2 => exact ⟨.inr rfl, .inr rfl, .inl rfl, .inr rfl, .inr rfl, .inr rfl, .inr rfl, .inr rfl, .inr rfl, .inr rfl, .inr rfl, .inl rfl, .inr rfl, .inl rfl, .inl rfl, .inl rfl, .inr rfl, .inl rfl, .inl rfl, .inr rfl, .inr rfl, .inr rfl, .inr rfl, .inr rfl, .inr rfl, .inr rfl, .inr rfl, .inr rfl, .inr rfl, .inr rfl, .inr rfl⟩)
      | with_reducible refine pair_same (by with_reducible assumption) ?_
      | split
      | (dsimp -zeta only)

theorem State_peerLoad_same {fl : List Facet} {s₀ : State} (hl : subL ps141 fl = true) (a0 : Nat) (a1 : Nat) (a2 : Nat) (a3 : State) (h3 : SameBut fl s₀ a3) :
    SameBut fl s₀ (State.peerLoad a0 a1 a2 a3).1 := by
  have kd : subL ps141 fl = true := subL_trans rfl hl
  induction a1 generalizing a0 a2 a3 with
  | zero =>
    rw [State.peerLoad]
    repeat' first
      | with_reducible assumption
      | (with_reducible intro x; try beta_reduce)
      | (extract_lets +onlyGivenNames v; refine (fun (hv : SameBut fl s₀ v) => ?_) ?_; (on_goal 1 => clear_value v); (on_goal 2 => (dsimp -zeta only [v]; try clear v)))
      | (extract_lets +onlyGivenNames v; refine (fun (hv : SameBut fl s₀ v.1) => ?_) ?_; (on_goal 1 => clear_value v); (on_goal 2 => (dsimp -zeta only [v]; try clear v)))
      | (extract_lets +onlyGivenNames v; first | (have w : Mem := v; clear w) | (have w : DictState := v; clear w) | (have w : Fw := v; clear w) | clear_value v)
      | with_reducible apply ih
      | with_reducible apply State_bankRead_same hl
      | (with_reducible refine foldl_same _ _ ?_ ?_; on_goal 2 => (intro t x ht; try beta_reduce))
      | (with_reducible refine foldl_same₂ _ _ _ ?_ ?_; on_goal 2 => (intro t b x ht; try dsimp -zeta only))
      | ((simp -zeta only [frame_mk]; with_reducible refine frame_lit ps141 ?_ kd ?_); on_goal 2 => exact ⟨.inr rfl, .inr rfl, .inl rfl, .inr rfl, .inr rfl, .inr rfl, .inr rfl, .inr rfl, .inr rfl, .inr rfl, .inr rfl, .inl rfl, .inr rfl, .inl rfl, .inl rfl, .inl rfl, .inr rfl, .inl rfl, .inl rfl, .inl rfl, .inr rfl, .inl rfl, .inr rfl, .inr rfl, .inr rfl, .inr rfl, .inr rfl, .inr rfl, .inr rfl, .inr rfl, .inr rfl⟩)
      | with_reducible refine pair_same (by with_reducible assumption) ?_
      | split
      | (dsimp -zeta only)
  | succ n ih =>
    rw [State.peerLoad]
    repeat' first
      | with_reducible assumption
      | (with_reducible intro x; try beta_reduce)
      | (extract_lets +onlyGivenNames v; refine (fun (hv : SameBut fl s₀ v) => ?_) ?_; (on_goal 1 => clear_value v); (on_goal 2 => (dsimp -zeta only [v]; try clear v)))
      | (extract_lets +onlyGivenNames v; refine (fun (hv : SameBut fl s₀ v.1) => ?_) ?_; (on_goal 1 => clear_value v); (on_goal 2 => (dsimp -zeta only [v]; try clear v)))
      | (extract_lets +onlyGivenNames v; first | (have w : Mem := v; clear w) | (have w : DictState := v; clear w) | (have w : Fw := v; clear w) | clear_value v)
      | with_reducible apply ih
      | with_reducible apply State_bankRead_same hl
      | (with_reducible refine foldl_same _ _ ?_ ?_; on_goal 2 => (intro t x ht; try beta_reduce))
      | (with_reducible refine foldl_same₂ _ _ _ ?_ ?_; on_goal 2 => (intro t b x ht; try dsimp -zeta only))
      | ((simp -zeta only [frame_mk]; with_reducible refine frame_lit ps141 ?_ kd ?_); on_goal 2 => exact ⟨.inr rfl, .inr rfl, .inl rfl, .inr rfl, .inr rfl, .inr rfl, .inr rfl, .inr rfl, .inr rfl, .inr rfl, .inr rfl, .inl rfl, .inr rfl, .inl rfl, .inl rfl, .inl rfl, .inr rfl, .inl rfl, .inl rfl, .inl rfl, .inr rfl, .inl rfl, .inr rfl, .inr rfl, .inr rfl, .inr rfl, .inr rfl, .inr rfl, .inr rfl, .inr rfl, .inr rfl⟩)
      | with_reducible refine pair_same (by with_reducible assumption) ?_
      | split
      | (dsimp -zeta only)

theorem State_refuseMsg_same {fl : List Facet} {s₀ : State} (hl : subL ps93 fl = true) (a0 : State) (a1 : Nat) (a2 : PMsg) (a3 : Nat) (a4 : Option Nat) (h0 : SameBut fl s₀ a0) :
    SameBut fl s₀ (State.refuseMsg a0 a1 a2 a3 a4) := by
  have k_ps12 : subL ps12 fl = true := subL_trans rfl hl
  have k_ps63 : subL ps63 fl = true := subL_trans rfl hl
  unfold State.refuseMsg
  repeat' first
    | with_reducible assumption
    | (extract_lets +onlyGivenNames v; refine (fun (hv : SameBut fl s₀ v) => ?_) ?_; (on_goal 1 => clear_value v); (on_goal 2 => (dsimp -zeta only [v]; try clear v)))
    | with_reducible apply State_violation_same k_ps63
    | with_reducible apply State_answer_same k_ps12
    | with_reducible apply State_popMsg_same k_ps12
    | split

theorem write_same {fl : List Facet} {s₀ : State} (hl : subL ps159 fl = true) (a0 : Nat) (a1 : State) (h1 : SameBut fl s₀ a1) :
    SameBut fl s₀ (Machine.write a0 a1) := by
  have k_ps12 : subL ps12 fl = true := subL_trans rfl hl
  have k_ps123 : subL ps123 fl = true := subL_trans rfl hl
  have k_ps152 : subL ps152 fl = true := subL_trans rfl hl
  have k_ps32 : subL ps32 fl = true := subL_trans rfl hl
  have k_ps63 : subL ps63 fl = true := subL_trans rfl hl
  have k_ps93 : subL ps93 fl = true := subL_trans rfl hl
  have kd : subL ps0 fl = true := subL_trans rfl hl
  unfold Machine.write
  repeat' first
    | with_reducible assumption
    | (with_reducible intro x; try beta_reduce)
    | (extract_lets +onlyGivenNames v; refine (fun (hv : SameBut fl s₀ v) => ?_) ?_; (on_goal 1 => clear_value v); (on_goal 2 => (dsimp -zeta only [v]; try clear v)))
    | (extract_lets +onlyGivenNames v; refine (fun (hv : SameBut fl s₀ v.1) => ?_) ?_; (on_goal 1 => clear_value v); (on_goal 2 => (dsimp -zeta only [v]; try clear v)))
    | (extract_lets +onlyGivenNames v; first | (have w : Mem := v; clear w) | (have w : DictState := v; clear w) | (have w : Fw := v; clear w) | clear_value v)
    | with_reducible apply State_refuseMsg_same k_ps93
    | with_reducible apply State_peerStore_same k_ps123
    | with_reducible apply State_keepDefer_same k_ps32
    | with_reducible apply State_retry_same k_ps152
    | with_reducible apply State_poisonHalted_same k_ps63
    | with_reducible apply State_answer_same k_ps12
    | with_reducible apply State_popMsg_same k_ps12
    | (with_reducible refine foldl_same _ _ ?_ ?_; on_goal 2 => (intro t x ht; try beta_reduce))
    | (with_reducible refine foldl_same₂ _ _ _ ?_ ?_; on_goal 2 => (intro t b x ht; try dsimp -zeta only))
    | ((simp -zeta only [frame_mk]; with_reducible refine frame_lit ps0 ?_ kd ?_); on_goal 2 => exact ⟨.inr rfl, .inr rfl, .inr rfl, .inr rfl, .inr rfl, .inr rfl, .inr rfl, .inr rfl, .inr rfl, .inr rfl, .inr rfl, .inr rfl, .inr rfl, .inr rfl, .inr rfl, .inr rfl, .inr rfl, .inr rfl, .inr rfl, .inr rfl, .inr rfl, .inr rfl, .inr rfl, .inr rfl, .inr rfl, .inr rfl, .inr rfl, .inr rfl, .inr rfl, .inr rfl, .inr rfl⟩)
    | with_reducible refine pair_same (by with_reducible assumption) ?_
    | split
    | (dsimp -zeta only)

theorem read_same {fl : List Facet} {s₀ : State} (hl : subL ps151 fl = true) (a0 : Nat) (a1 : State) (h1 : SameBut fl s₀ a1) :
    SameBut fl s₀ (Machine.read a0 a1) := by
  have k_ps12 : subL ps12 fl = true := subL_trans rfl hl
  have k_ps141 : subL ps141 fl = true := subL_trans rfl hl
  have k_ps32 : subL ps32 fl = true := subL_trans rfl hl
  have k_ps63 : subL ps63 fl = true := subL_trans rfl hl
  have k_ps93 : subL ps93 fl = true := subL_trans rfl hl
  have kd : subL ps0 fl = true := subL_trans rfl hl
  unfold Machine.read
  repeat' first
    | with_reducible assumption
    | (with_reducible intro x; try beta_reduce)
    | (extract_lets +onlyGivenNames v; refine (fun (hv : SameBut fl s₀ v) => ?_) ?_; (on_goal 1 => clear_value v); (on_goal 2 => (dsimp -zeta only [v]; try clear v)))
    | (extract_lets +onlyGivenNames v; refine (fun (hv : SameBut fl s₀ v.1) => ?_) ?_; (on_goal 1 => clear_value v); (on_goal 2 => (dsimp -zeta only [v]; try clear v)))
    | (extract_lets +onlyGivenNames v; first | (have w : Mem := v; clear w) | (have w : DictState := v; clear w) | (have w : Fw := v; clear w) | clear_value v)
    | with_reducible apply State_refuseMsg_same k_ps93
    | with_reducible apply State_peerLoad_same k_ps141
    | with_reducible apply State_keepDefer_same k_ps32
    | with_reducible apply State_poisonHalted_same k_ps63
    | with_reducible apply State_answer_same k_ps12
    | with_reducible apply State_popMsg_same k_ps12
    | (with_reducible refine foldl_same _ _ ?_ ?_; on_goal 2 => (intro t x ht; try beta_reduce))
    | (with_reducible refine foldl_same₂ _ _ _ ?_ ?_; on_goal 2 => (intro t b x ht; try dsimp -zeta only))
    | ((simp -zeta only [frame_mk]; with_reducible refine frame_lit ps0 ?_ kd ?_); on_goal 2 => exact ⟨.inr rfl, .inr rfl, .inr rfl, .inr rfl, .inr rfl, .inr rfl, .inr rfl, .inr rfl, .inr rfl, .inr rfl, .inr rfl, .inr rfl, .inr rfl, .inr rfl, .inr rfl, .inr rfl, .inr rfl, .inr rfl, .inr rfl, .inr rfl, .inr rfl, .inr rfl, .inr rfl, .inr rfl, .inr rfl, .inr rfl, .inr rfl, .inr rfl, .inr rfl, .inr rfl, .inr rfl⟩)
    | with_reducible refine pair_same (by with_reducible assumption) ?_
    | split
    | (dsimp -zeta only)

theorem State_settleReq_same {fl : List Facet} {s₀ : State} (hl : subL ps12 fl = true) (a0 : State) (a1 : Nat) (a2 : PReq → Bool) (a3 : PReq → PReq) (h0 : SameBut fl s₀ a0) :
    SameBut fl s₀ (State.settleReq a0 a1 a2 a3) := by
  unfold State.settleReq
  repeat' first
    | with_reducible assumption
    | with_reducible apply State_adjPeer_same hl

theorem readData_same {fl : List Facet} {s₀ : State} (hl : subL ps12 fl = true) (a0 : Nat) (a1 : State) (h1 : SameBut fl s₀ a1) :
    SameBut fl s₀ (Machine.readData a0 a1) := by
  unfold Machine.readData
  repeat' first
    | with_reducible assumption
    | with_reducible apply State_settleReq_same hl
    | with_reducible apply State_popMsg_same hl
    | split

theorem writeAck_same {fl : List Facet} {s₀ : State} (hl : subL ps12 fl = true) (a0 : Nat) (a1 : State) (h1 : SameBut fl s₀ a1) :
    SameBut fl s₀ (Machine.writeAck a0 a1) := by
  unfold Machine.writeAck
  repeat' first
    | with_reducible assumption
    | with_reducible apply State_adjPeer_same hl
    | with_reducible apply State_popMsg_same hl
    | split

theorem error_same {fl : List Facet} {s₀ : State} (hl : subL ps12 fl = true) (a0 : Nat) (a1 : State) (h1 : SameBut fl s₀ a1) :
    SameBut fl s₀ (Machine.error a0 a1) := by
  unfold Machine.error
  repeat' first
    | with_reducible assumption
    | with_reducible apply State_settleReq_same hl
    | with_reducible apply State_popMsg_same hl
    | split

end Sys2Proof.Laws
end

