-- ==== Sys2Proof/Laws/FrameFirmware.lean ====
section
/-! SUPPORT. What the operations of Machine/Firmware.lean leave unchanged (`SameBut`): one lemma for each. -/

set_option Elab.async false
set_option linter.all false

namespace Sys2Proof.Laws

open Sys2Proof Sys2Proof.Machine

theorem State_unlessRefused_same {fl : List Facet} {s₀ : State} (hl : subL ps26 fl = true) (a0 : State) (a1 : Nat)
    (a2 : State → State × Nat) (h0 : SameBut fl s₀ a0) (h2 : ∀ x, SameBut fl s₀ x → SameBut fl s₀ (a2 x).1) :
    SameBut fl s₀ (State.unlessRefused a0 a1 a2).1 := by
  unfold State.unlessRefused
  split
  · extract_lets +onlyGivenNames v
    simp -zeta only [frame_mk]
    exact frame_lit ps26 h0 hl ⟨.inr rfl, .inr rfl, .inr rfl, .inr rfl, .inr rfl, .inr rfl, .inr rfl, .inr rfl, .inr rfl, .inr rfl, .inr rfl, .inr rfl, .inr rfl, .inr rfl, .inr rfl, .inr rfl, .inr rfl, .inr rfl, .inr rfl, .inr rfl, .inr rfl, .inr rfl, .inr rfl, .inr rfl, .inr rfl, .inr rfl, .inr rfl, .inr rfl, .inr rfl, .inl rfl, .inr rfl⟩
  · exact h2 _ h0

theorem State_beginUpdate_same {fl : List Facet} {s₀ : State} (hl : subL ps44 fl = true) (a0 : State) (a1 : Nat) (h0 : SameBut fl s₀ a0) :
    SameBut fl s₀ (State.beginUpdate a0 a1).1 := by
  have k_ps13 : subL ps13 fl = true := subL_trans rfl hl
  have k_ps26 : subL ps26 fl = true := subL_trans rfl hl
  have kd : subL ps26 fl = true := subL_trans rfl hl
  unfold State.beginUpdate
  repeat' first
    | with_reducible assumption
    | (with_reducible intro x; try beta_reduce)
    | (extract_lets +onlyGivenNames v; refine (fun (hv : SameBut fl s₀ v) => ?_) ?_; (on_goal 1 => clear_value v); (on_goal 2 => (dsimp -zeta only [v]; try clear v)))
    | (extract_lets +onlyGivenNames v; first | (have w : Mem := v; clear w) | (have w : DictState := v; clear w) | (have w : Fw := v; clear w) | clear_value v)
    | with_reducible apply State_unlessRefused_same k_ps26
    | with_reducible apply State_adjComp_same k_ps13
    | ((simp -zeta only [frame_mk]; with_reducible refine frame_lit ps26 ?_ kd ?_); on_goal 2 => exact ⟨.inr rfl, .inr rfl, .inr rfl, .inr rfl, .inr rfl, .inr rfl, .inr rfl, .inr rfl, .inr rfl, .inr rfl, .inr rfl, .inr rfl, .inr rfl, .inr rfl, .inr rfl, .inr rfl, .inr rfl, .inr rfl, .inr rfl, .inr rfl, .inr rfl, .inr rfl, .inr rfl, .inr rfl, .inr rfl, .inr rfl, .inr rfl, .inr rfl, .inr rfl, .inl rfl, .inr rfl⟩)
    | split

theorem updateEraseComplete_same {fl : List Facet} {s₀ : State} (hl : subL ps26 fl = true) (a0 : State) (h0 : SameBut fl s₀ a0) :
    SameBut fl s₀ (Machine.updateEraseComplete a0) := by
  have kd : subL ps26 fl = true := subL_trans rfl hl
  unfold Machine.updateEraseComplete
  repeat' first
    | with_reducible assumption
    | (extract_lets +onlyGivenNames v; first | (have w : Mem := v; clear w) | (have w : DictState := v; clear w) | (have w : Fw := v; clear w) | clear_value v)
    | ((simp -zeta only [frame_mk]; with_reducible refine frame_lit ps26 ?_ kd ?_); on_goal 2 => exact ⟨.inr rfl, .inr rfl, .inr rfl, .inr rfl, .inr rfl, .inr rfl, .inr rfl, .inr rfl, .inr rfl, .inr rfl, .inr rfl, .inr rfl, .inr rfl, .inr rfl, .inr rfl, .inr rfl, .inr rfl, .inr rfl, .inr rfl, .inr rfl, .inr rfl, .inr rfl, .inr rfl, .inr rfl, .inr rfl, .inr rfl, .inr rfl, .inr rfl, .inr rfl, .inl rfl, .inr rfl⟩)
    | split

theorem State_updateBytes_same {fl : List Facet} {s₀ : State} (hl : subL ps44 fl = true) (a0 : State) (a1 : Bytes) (h0 : SameBut fl s₀ a0) :
    SameBut fl s₀ (State.updateBytes a0 a1).1 := by
  have k_ps13 : subL ps13 fl = true := subL_trans rfl hl
  have kd : subL ps26 fl = true := subL_trans rfl hl
  unfold State.updateBytes
  repeat' first
    | with_reducible assumption
    | (extract_lets +onlyGivenNames v; refine (fun (hv : SameBut fl s₀ v) => ?_) ?_; (on_goal 1 => clear_value v); (on_goal 2 => (dsimp -zeta only [v]; try clear v)))
    | (extract_lets +onlyGivenNames v; first | (have w : Mem := v; clear w) | (have w : DictState := v; clear w) | (have w : Fw := v; clear w) | clear_value v)
    | with_reducible apply State_adjComp_same k_ps13
    | ((simp -zeta only [frame_mk]; with_reducible refine frame_lit ps26 ?_ kd ?_); on_goal 2 => exact ⟨.inr rfl, .inr rfl, .inr rfl, .inr rfl, .inr rfl, .inr rfl, .inr rfl, .inr rfl, .inr rfl, .inr rfl, .inr rfl, .inr rfl, .inr rfl, .inr rfl, .inr rfl, .inr rfl, .inr rfl, .inr rfl, .inr rfl, .inr rfl, .inr rfl, .inr rfl, .inr rfl, .inr rfl, .inr rfl, .inr rfl, .inr rfl, .inr rfl, .inr rfl, .inl rfl, .inr rfl⟩)
    | split

theorem updateProgramComplete_same {fl : List Facet} {s₀ : State} (hl : subL ps26 fl = true) (a0 : State) (h0 : SameBut fl s₀ a0) :
    SameBut fl s₀ (Machine.updateProgramComplete a0) := by
  have kd : subL ps26 fl = true := subL_trans rfl hl
  unfold Machine.updateProgramComplete
  repeat' first
    | with_reducible assumption
    | (extract_lets +onlyGivenNames v; first | (have w : Mem := v; clear w) | (have w : DictState := v; clear w) | (have w : Fw := v; clear w) | clear_value v)
    | ((simp -zeta only [frame_mk]; with_reducible refine frame_lit ps26 ?_ kd ?_); on_goal 2 => exact ⟨.inr rfl, .inr rfl, .inr rfl, .inr rfl, .inr rfl, .inr rfl, .inr rfl, .inr rfl, .inr rfl, .inr rfl, .inr rfl, .inr rfl, .inr rfl, .inr rfl, .inr rfl, .inr rfl, .inr rfl, .inr rfl, .inr rfl, .inr rfl, .inr rfl, .inr rfl, .inr rfl, .inr rfl, .inr rfl, .inr rfl, .inr rfl, .inr rfl, .inr rfl, .inl rfl, .inr rfl⟩)

theorem State_verifyUpdate_same {fl : List Facet} {s₀ : State} (hl : subL ps26 fl = true) (a0 : State) (h0 : SameBut fl s₀ a0) :
    SameBut fl s₀ (State.verifyUpdate a0).1 := by
  have kd : subL ps26 fl = true := subL_trans rfl hl
  unfold State.verifyUpdate
  repeat' first
    | with_reducible assumption
    | (with_reducible intro x; try beta_reduce)
    | (extract_lets +onlyGivenNames v; first | (have w : Mem := v; clear w) | (have w : DictState := v; clear w) | (have w : Fw := v; clear w) | clear_value v)
    | with_reducible apply State_unlessRefused_same hl
    | ((simp -zeta only [frame_mk]; with_reducible refine frame_lit ps26 ?_ kd ?_); on_goal 2 => exact ⟨.inr rfl, .inr rfl, .inr rfl, .inr rfl, .inr rfl, .inr rfl, .inr rfl, .inr rfl, .inr rfl, .inr rfl, .inr rfl, .inr rfl, .inr rfl, .inr rfl, .inr rfl, .inr rfl, .inr rfl, .inr rfl, .inr rfl, .inr rfl, .inr rfl, .inr rfl, .inr rfl, .inr rfl, .inr rfl, .inr rfl, .inr rfl, .inr rfl, .inr rfl, .inl rfl, .inr rfl⟩)
    | split

theorem updateVerifyComplete_same {fl : List Facet} {s₀ : State} (hl : subL ps44 fl = true) (a0 : State) (h0 : SameBut fl s₀ a0) :
    SameBut fl s₀ (Machine.updateVerifyComplete a0) := by
  have k_ps13 : subL ps13 fl = true := subL_trans rfl hl
  have kd : subL ps26 fl = true := subL_trans rfl hl
  unfold Machine.updateVerifyComplete
  repeat' first
    | with_reducible assumption
    | (extract_lets +onlyGivenNames v; refine (fun (hv : SameBut fl s₀ v) => ?_) ?_; (on_goal 1 => clear_value v); (on_goal 2 => (dsimp -zeta only [v]; try clear v)))
    | (extract_lets +onlyGivenNames v; first | (have w : Mem := v; clear w) | (have w : DictState := v; clear w) | (have w : Fw := v; clear w) | clear_value v)
    | with_reducible apply State_adjComp_same k_ps13
    | with_reducible apply State_abortUpdate_same hl
    | ((simp -zeta only [frame_mk]; with_reducible refine frame_lit ps26 ?_ kd ?_); on_goal 2 => exact ⟨.inr rfl, .inr rfl, .inr rfl, .inr rfl, .inr rfl, .inr rfl, .inr rfl, .inr rfl, .inr rfl, .inr rfl, .inr rfl, .inr rfl, .inr rfl, .inr rfl, .inr rfl, .inr rfl, .inr rfl, .inr rfl, .inr rfl, .inr rfl, .inr rfl, .inr rfl, .inr rfl, .inr rfl, .inr rfl, .inr rfl, .inr rfl, .inr rfl, .inr rfl, .inl rfl, .inr rfl⟩)
    | split

theorem State_markPending_same {fl : List Facet} {s₀ : State} (hl : subL ps109 fl = true) (a0 : State) (h0 : SameBut fl s₀ a0) :
    SameBut fl s₀ (State.markPending a0) := by
  have k_ps13 : subL ps13 fl = true := subL_trans rfl hl
  have k_ps63 : subL ps63 fl = true := subL_trans rfl hl
  have kd : subL ps26 fl = true := subL_trans rfl hl
  unfold State.markPending
  repeat' first
    | with_reducible assumption
    | (extract_lets +onlyGivenNames v; refine (fun (hv : SameBut fl s₀ v) => ?_) ?_; (on_goal 1 => clear_value v); (on_goal 2 => (dsimp -zeta only [v]; try clear v)))
    | (extract_lets +onlyGivenNames v; first | (have w : Mem := v; clear w) | (have w : DictState := v; clear w) | (have w : Fw := v; clear w) | clear_value v)
    | with_reducible apply State_adjComp_same k_ps13
    | with_reducible apply State_log_same k_ps63
    | ((simp -zeta only [frame_mk]; with_reducible refine frame_lit ps26 ?_ kd ?_); on_goal 2 => exact ⟨.inr rfl, .inr rfl, .inr rfl, .inr rfl, .inr rfl, .inr rfl, .inr rfl, .inr rfl, .inr rfl, .inr rfl, .inr rfl, .inr rfl, .inr rfl, .inr rfl, .inr rfl, .inr rfl, .inr rfl, .inr rfl, .inr rfl, .inr rfl, .inr rfl, .inr rfl, .inr rfl, .inr rfl, .inr rfl, .inr rfl, .inr rfl, .inr rfl, .inr rfl, .inl rfl, .inr rfl⟩)

theorem State_commitUpdate_same {fl : List Facet} {s₀ : State} (hl : subL ps185 fl = true) (a0 : State) (a1 : Bool) (h0 : SameBut fl s₀ a0) :
    SameBut fl s₀ (State.commitUpdate a0 a1).1 := by
  have k_ps109 : subL ps109 fl = true := subL_trans rfl hl
  have k_ps26 : subL ps26 fl = true := subL_trans rfl hl
  unfold State.commitUpdate
  repeat' first
    | with_reducible assumption
    | (with_reducible intro x; try beta_reduce)
    | (extract_lets +onlyGivenNames v; refine (fun (hv : SameBut fl s₀ v) => ?_) ?_; (on_goal 1 => clear_value v); (on_goal 2 => (dsimp -zeta only [v]; try clear v)))
    | with_reducible apply State_unlessRefused_same k_ps26
    | with_reducible apply State_markPending_same k_ps109
    | with_reducible apply State_fullReset_same hl
    | split

theorem State_stopUpdate_same {fl : List Facet} {s₀ : State} (hl : subL ps44 fl = true) (a0 : State) (h0 : SameBut fl s₀ a0) :
    SameBut fl s₀ (State.stopUpdate a0).1 := by
  unfold State.stopUpdate
  repeat' first
    | with_reducible assumption
    | with_reducible apply State_abortedUpdate_same hl
    | split

theorem State_confirmAll_same {fl : List Facet} {s₀ : State} (hl : subL ps104 fl = true) (a0 : State) (h0 : SameBut fl s₀ a0) :
    SameBut fl s₀ (State.confirmAll a0).1 := by
  unfold State.confirmAll
  repeat' first
    | with_reducible assumption
    | with_reducible apply State_confirm_same hl
    | (with_reducible refine foldl_same _ _ ?_ ?_; on_goal 2 => (intro t x ht; try beta_reduce))
    | split

theorem updateTrialTimeout_same {fl : List Facet} {s₀ : State} (hl : subL ps185 fl = true) (a0 : State) (h0 : SameBut fl s₀ a0) :
    SameBut fl s₀ (Machine.updateTrialTimeout a0) := by
  unfold Machine.updateTrialTimeout
  repeat' first
    | with_reducible assumption
    | with_reducible apply State_fullResetWith_same hl
    | split

theorem State_setSpdm_same {fl : List Facet} {s₀ : State} (hl : subL ps12 fl = true) (a0 : State) (a1 : SpdmPath) (a2 : Spdm) (h0 : SameBut fl s₀ a0) :
    SameBut fl s₀ (State.setSpdm a0 a1 a2) := by
  have kd : subL ps12 fl = true := subL_trans rfl hl
  unfold State.setSpdm
  repeat' first
    | with_reducible assumption
    | (extract_lets +onlyGivenNames v; first | (have w : Mem := v; clear w) | (have w : DictState := v; clear w) | (have w : Fw := v; clear w) | clear_value v)
    | ((simp -zeta only [frame_mk]; with_reducible refine frame_lit ps12 ?_ kd ?_); on_goal 2 => exact ⟨.inr rfl, .inr rfl, .inr rfl, .inr rfl, .inr rfl, .inr rfl, .inr rfl, .inr rfl, .inr rfl, .inr rfl, .inr rfl, .inr rfl, .inr rfl, .inr rfl, .inr rfl, .inr rfl, .inr rfl, .inr rfl, .inr rfl, .inr rfl, .inr rfl, .inr rfl, .inr rfl, .inr rfl, .inr rfl, .inr rfl, .inr rfl, .inl rfl, .inr rfl, .inr rfl, .inr rfl⟩)
    | split

theorem State_serveSpdm_same {fl : List Facet} {s₀ : State} (hl : subL ps12 fl = true) (a0 : State) (a1 : SpdmPath) (a2 : Spdm → Spdm) (h0 : SameBut fl s₀ a0) :
    SameBut fl s₀ (State.serveSpdm a0 a1 a2) := by
  unfold State.serveSpdm
  repeat' first
    | with_reducible assumption
    | with_reducible apply State_setSpdm_same hl
    | split

theorem getVersion_same {fl : List Facet} {s₀ : State} (hl : subL ps12 fl = true) (a0 : SpdmPath) (a1 : State) (h1 : SameBut fl s₀ a1) :
    SameBut fl s₀ (Machine.getVersion a0 a1) := by
  unfold Machine.getVersion
  repeat' first
    | with_reducible assumption
    | (extract_lets +onlyGivenNames v; first | (have w : Mem := v; clear w) | (have w : DictState := v; clear w) | (have w : Fw := v; clear w) | clear_value v)
    | with_reducible apply State_serveSpdm_same hl

theorem getCapabilities_same {fl : List Facet} {s₀ : State} (hl : subL ps12 fl = true) (a0 : SpdmPath) (a1 : State) (h1 : SameBut fl s₀ a1) :
    SameBut fl s₀ (Machine.getCapabilities a0 a1) := by
  unfold Machine.getCapabilities
  repeat' first
    | with_reducible assumption
    | with_reducible apply State_serveSpdm_same hl

theorem negotiateAlgorithms_same {fl : List Facet} {s₀ : State} (hl : subL ps12 fl = true) (a0 : SpdmPath) (a1 : Nat) (a2 : Nat) (a3 : Nat) (a4 : Nat) (a5 : State) (h5 : SameBut fl s₀ a5) :
    SameBut fl s₀ (Machine.negotiateAlgorithms a0 a1 a2 a3 a4 a5) := by
  unfold Machine.negotiateAlgorithms
  repeat' first
    | with_reducible assumption
    | (extract_lets +onlyGivenNames v; first | (have w : Mem := v; clear w) | (have w : DictState := v; clear w) | (have w : Fw := v; clear w) | clear_value v)
    | with_reducible apply State_serveSpdm_same hl

theorem getDigests_same {fl : List Facet} {s₀ : State} (hl : subL ps12 fl = true) (a0 : SpdmPath) (a1 : State) (h1 : SameBut fl s₀ a1) :
    SameBut fl s₀ (Machine.getDigests a0 a1) := by
  unfold Machine.getDigests
  repeat' first
    | with_reducible assumption
    | with_reducible apply State_serveSpdm_same hl

theorem getCertificate_same {fl : List Facet} {s₀ : State} (hl : subL ps12 fl = true) (a0 : SpdmPath) (a1 : Nat) (a2 : Nat) (a3 : Nat) (a4 : State) (h4 : SameBut fl s₀ a4) :
    SameBut fl s₀ (Machine.getCertificate a0 a1 a2 a3 a4) := by
  unfold Machine.getCertificate
  repeat' first
    | with_reducible assumption
    | (extract_lets +onlyGivenNames v; first | (have w : Mem := v; clear w) | (have w : DictState := v; clear w) | (have w : Fw := v; clear w) | clear_value v)
    | with_reducible apply State_serveSpdm_same hl

theorem challenge_same {fl : List Facet} {s₀ : State} (hl : subL ps38 fl = true) (a0 : SpdmPath) (a1 : Nat) (a2 : Bytes) (a3 : State) (h3 : SameBut fl s₀ a3) :
    SameBut fl s₀ (Machine.challenge a0 a1 a2 a3) := by
  have k_ps12 : subL ps12 fl = true := subL_trans rfl hl
  have k_ps8 : subL ps8 fl = true := subL_trans rfl hl
  unfold Machine.challenge
  repeat' first
    | with_reducible assumption
    | (extract_lets +onlyGivenNames v; first | (have w : Mem := v; clear w) | (have w : DictState := v; clear w) | (have w : Fw := v; clear w) | clear_value v)
    | with_reducible apply State_serveSpdm_same k_ps12
    | with_reducible apply State_drawn_same k_ps8

theorem getMeasurements_same {fl : List Facet} {s₀ : State} (hl : subL ps38 fl = true) (a0 : SpdmPath) (a1 : Nat) (a2 : Bytes) (a3 : State) (h3 : SameBut fl s₀ a3) :
    SameBut fl s₀ (Machine.getMeasurements a0 a1 a2 a3) := by
  have k_ps12 : subL ps12 fl = true := subL_trans rfl hl
  have k_ps8 : subL ps8 fl = true := subL_trans rfl hl
  unfold Machine.getMeasurements
  repeat' first
    | with_reducible assumption
    | (extract_lets +onlyGivenNames v; first | (have w : Mem := v; clear w) | (have w : DictState := v; clear w) | (have w : Fw := v; clear w) | clear_value v)
    | with_reducible apply State_serveSpdm_same k_ps12
    | with_reducible apply State_drawn_same k_ps8

theorem chunkSend_same {fl : List Facet} {s₀ : State} (hl : subL ps12 fl = true) (a0 : SpdmPath) (a1 : Nat) (a2 : Nat) (a3 : Bool) (a4 : Bytes) (a5 : State) (h5 : SameBut fl s₀ a5) :
    SameBut fl s₀ (Machine.chunkSend a0 a1 a2 a3 a4 a5) := by
  unfold Machine.chunkSend
  repeat' first
    | with_reducible assumption
    | with_reducible apply State_serveSpdm_same hl

theorem chunkGet_same {fl : List Facet} {s₀ : State} (hl : subL ps12 fl = true) (a0 : SpdmPath) (a1 : Nat) (a2 : Nat) (a3 : State) (h3 : SameBut fl s₀ a3) :
    SameBut fl s₀ (Machine.chunkGet a0 a1 a2 a3) := by
  unfold Machine.chunkGet
  repeat' first
    | with_reducible assumption
    | with_reducible apply State_serveSpdm_same hl

theorem keyEx_same {fl : List Facet} {s₀ : State} (hl : subL ps38 fl = true) (a0 : SpdmPath) (a1 : Bytes) (a2 : State) (h2 : SameBut fl s₀ a2) :
    SameBut fl s₀ (Machine.keyEx a0 a1 a2) := by
  have k_ps12 : subL ps12 fl = true := subL_trans rfl hl
  have k_ps8 : subL ps8 fl = true := subL_trans rfl hl
  unfold Machine.keyEx
  repeat' first
    | with_reducible assumption
    | (extract_lets +onlyGivenNames v; first | (have w : Mem := v; clear w) | (have w : DictState := v; clear w) | (have w : Fw := v; clear w) | clear_value v)
    | with_reducible apply State_serveSpdm_same k_ps12
    | with_reducible apply State_drawn_same k_ps8

theorem finish_same {fl : List Facet} {s₀ : State} (hl : subL ps12 fl = true) (a0 : SpdmPath) (a1 : Bytes) (a2 : State) (h2 : SameBut fl s₀ a2) :
    SameBut fl s₀ (Machine.finish a0 a1 a2) := by
  unfold Machine.finish
  repeat' first
    | with_reducible assumption
    | with_reducible apply State_serveSpdm_same hl

theorem endSession_same {fl : List Facet} {s₀ : State} (hl : subL ps12 fl = true) (a0 : SpdmPath) (a1 : State) (h1 : SameBut fl s₀ a1) :
    SameBut fl s₀ (Machine.endSession a0 a1) := by
  unfold Machine.endSession
  repeat' first
    | with_reducible assumption
    | with_reducible apply State_serveSpdm_same hl

end Sys2Proof.Laws
end

