-- ==== Sys2Proof/Laws/FrameDictionary.lean ====
section
/-! SUPPORT. What the operations of Machine/Dictionary.lean leave unchanged (`SameBut`): one lemma for each. -/

set_option Elab.async false
set_option linter.all false

namespace Sys2Proof.Laws

open Sys2Proof Sys2Proof.Machine

theorem State_takeLease_same {fl : List Facet} {s₀ : State} (hl : subL ps15 fl = true) (a0 : State) (a1 : Nat) (h0 : SameBut fl s₀ a0) :
    SameBut fl s₀ (State.takeLease a0 a1).1 := by
  have kd : subL ps15 fl = true := subL_trans rfl hl
  unfold State.takeLease
  repeat' first
    | with_reducible assumption
    | (extract_lets +onlyGivenNames v; first | (have w : Mem := v; clear w) | (have w : DictState := v; clear w) | (have w : Fw := v; clear w) | clear_value v)
    | ((simp -zeta only [frame_mk]; with_reducible refine frame_lit ps15 ?_ kd ?_); on_goal 2 => exact ⟨.inr rfl, .inr rfl, .inr rfl, .inr rfl, .inr rfl, .inl rfl, .inr rfl, .inr rfl, .inr rfl, .inr rfl, .inr rfl, .inr rfl, .inr rfl, .inr rfl, .inr rfl, .inr rfl, .inr rfl, .inr rfl, .inr rfl, .inr rfl, .inr rfl, .inr rfl, .inr rfl, .inr rfl, .inr rfl, .inr rfl, .inr rfl, .inr rfl, .inr rfl, .inr rfl, .inr rfl⟩)
    | split

theorem State_giveLease_same {fl : List Facet} {s₀ : State} (hl : subL ps135 fl = true) (a0 : State) (a1 : Nat) (h0 : SameBut fl s₀ a0) :
    SameBut fl s₀ (State.giveLease a0 a1).1 := by
  unfold State.giveLease
  repeat' first
    | with_reducible assumption
    | with_reducible apply State_loseLease_same hl

theorem State_breakLease_same {fl : List Facet} {s₀ : State} (hl : subL ps135 fl = true) (a0 : State) (a1 : Nat) (h0 : SameBut fl s₀ a0) :
    SameBut fl s₀ (State.breakLease a0 a1).1 := by
  have k_ps63 : subL ps63 fl = true := subL_trans rfl hl
  have kd : subL ps15 fl = true := subL_trans rfl hl
  unfold State.breakLease
  repeat' first
    | with_reducible assumption
    | (extract_lets +onlyGivenNames v; refine (fun (hv : SameBut fl s₀ v) => ?_) ?_; (on_goal 1 => clear_value v); (on_goal 2 => (dsimp -zeta only [v]; try clear v)))
    | (extract_lets +onlyGivenNames v; first | (have w : Mem := v; clear w) | (have w : DictState := v; clear w) | (have w : Fw := v; clear w) | clear_value v)
    | with_reducible apply State_log_same k_ps63
    | with_reducible apply State_loseLease_same hl
    | ((simp -zeta only [frame_mk]; with_reducible refine frame_lit ps15 ?_ kd ?_); on_goal 2 => exact ⟨.inr rfl, .inr rfl, .inr rfl, .inr rfl, .inr rfl, .inl rfl, .inr rfl, .inr rfl, .inr rfl, .inr rfl, .inr rfl, .inr rfl, .inr rfl, .inr rfl, .inr rfl, .inr rfl, .inr rfl, .inr rfl, .inr rfl, .inr rfl, .inr rfl, .inr rfl, .inr rfl, .inr rfl, .inr rfl, .inr rfl, .inr rfl, .inr rfl, .inr rfl, .inr rfl, .inr rfl⟩)
    | split

theorem leaseExpired_same {fl : List Facet} {s₀ : State} (hl : subL ps135 fl = true) (a0 : State) (h0 : SameBut fl s₀ a0) :
    SameBut fl s₀ (Machine.leaseExpired a0) := by
  have k_ps63 : subL ps63 fl = true := subL_trans rfl hl
  unfold Machine.leaseExpired
  repeat' first
    | with_reducible assumption
    | with_reducible apply State_log_same k_ps63
    | with_reducible apply State_loseLease_same hl
    | split

theorem sessionIdleTimeout_same {fl : List Facet} {s₀ : State} (hl : subL ps145 fl = true) (a0 : Nat) (a1 : State) (h1 : SameBut fl s₀ a1) :
    SameBut fl s₀ (Machine.sessionIdleTimeout a0 a1) := by
  unfold Machine.sessionIdleTimeout
  repeat' first
    | with_reducible assumption
    | with_reducible apply State_closeMuslin_same hl
    | split

theorem State_openLock_same {fl : List Facet} {s₀ : State} (hl : subL ps17 fl = true) (a0 : State) (a1 : Nat) (h0 : SameBut fl s₀ a0) :
    SameBut fl s₀ (State.openLock a0 a1) := by
  have kd : subL ps17 fl = true := subL_trans rfl hl
  unfold State.openLock
  repeat' first
    | with_reducible assumption
    | (extract_lets +onlyGivenNames v; first | (have w : Mem := v; clear w) | (have w : DictState := v; clear w) | (have w : Fw := v; clear w) | clear_value v)
    | ((simp -zeta only [frame_mk]; with_reducible refine frame_lit ps17 ?_ kd ?_); on_goal 2 => exact ⟨.inr rfl, .inr rfl, .inr rfl, .inr rfl, .inr rfl, .inr rfl, .inl rfl, .inr rfl, .inr rfl, .inr rfl, .inr rfl, .inr rfl, .inr rfl, .inr rfl, .inr rfl, .inr rfl, .inr rfl, .inr rfl, .inr rfl, .inr rfl, .inr rfl, .inr rfl, .inr rfl, .inr rfl, .inr rfl, .inr rfl, .inr rfl, .inr rfl, .inr rfl, .inr rfl, .inr rfl⟩)

theorem State_failLock_same {fl : List Facet} {s₀ : State} (hl : subL ps96 fl = true) (a0 : State) (a1 : Nat) (h0 : SameBut fl s₀ a0) :
    SameBut fl s₀ (State.failLock a0 a1) := by
  have k_ps63 : subL ps63 fl = true := subL_trans rfl hl
  have kd : subL ps17 fl = true := subL_trans rfl hl
  unfold State.failLock
  repeat' first
    | with_reducible assumption
    | (extract_lets +onlyGivenNames v; refine (fun (hv : SameBut fl s₀ v) => ?_) ?_; (on_goal 1 => clear_value v); (on_goal 2 => (dsimp -zeta only [v]; try clear v)))
    | (extract_lets +onlyGivenNames v; first | (have w : Mem := v; clear w) | (have w : DictState := v; clear w) | (have w : Fw := v; clear w) | clear_value v)
    | with_reducible apply State_log_same k_ps63
    | ((simp -zeta only [frame_mk]; with_reducible refine frame_lit ps17 ?_ kd ?_); on_goal 2 => exact ⟨.inr rfl, .inr rfl, .inr rfl, .inr rfl, .inr rfl, .inr rfl, .inl rfl, .inr rfl, .inr rfl, .inr rfl, .inr rfl, .inr rfl, .inr rfl, .inr rfl, .inr rfl, .inr rfl, .inr rfl, .inr rfl, .inr rfl, .inr rfl, .inr rfl, .inr rfl, .inr rfl, .inr rfl, .inr rfl, .inr rfl, .inr rfl, .inr rfl, .inr rfl, .inr rfl, .inr rfl⟩)
    | split

theorem State_lockAttempt_same {fl : List Facet} {s₀ : State} (hl : subL ps96 fl = true) (a0 : State) (a1 : Nat) (a2 : Bool) (h0 : SameBut fl s₀ a0) :
    SameBut fl s₀ (State.lockAttempt a0 a1 a2).1 := by
  have k_ps17 : subL ps17 fl = true := subL_trans rfl hl
  unfold State.lockAttempt
  repeat' first
    | with_reducible assumption
    | with_reducible apply State_openLock_same k_ps17
    | with_reducible apply State_failLock_same hl
    | split

theorem State_tryPassword_same {fl : List Facet} {s₀ : State} (hl : subL ps96 fl = true) (a0 : State) (a1 : Nat) (a2 : Bytes) (h0 : SameBut fl s₀ a0) :
    SameBut fl s₀ (State.tryPassword a0 a1 a2).1 := by
  unfold State.tryPassword
  repeat' first
    | with_reducible assumption
    | with_reducible apply State_lockAttempt_same hl
    | split

theorem State_tryResponse_same {fl : List Facet} {s₀ : State} (hl : subL ps96 fl = true) (a0 : State) (a1 : Nat) (a2 : Bytes) (h0 : SameBut fl s₀ a0) :
    SameBut fl s₀ (State.tryResponse a0 a1 a2).1 := by
  have kd : subL ps17 fl = true := subL_trans rfl hl
  unfold State.tryResponse
  repeat' first
    | with_reducible assumption
    | (extract_lets +onlyGivenNames v; first | (have w : Mem := v; clear w) | (have w : DictState := v; clear w) | (have w : Fw := v; clear w) | clear_value v)
    | with_reducible apply State_lockAttempt_same hl
    | ((simp -zeta only [frame_mk]; with_reducible refine frame_lit ps17 ?_ kd ?_); on_goal 2 => exact ⟨.inr rfl, .inr rfl, .inr rfl, .inr rfl, .inr rfl, .inr rfl, .inl rfl, .inr rfl, .inr rfl, .inr rfl, .inr rfl, .inr rfl, .inr rfl, .inr rfl, .inr rfl, .inr rfl, .inr rfl, .inr rfl, .inr rfl, .inr rfl, .inr rfl, .inr rfl, .inr rfl, .inr rfl, .inr rfl, .inr rfl, .inr rfl, .inr rfl, .inr rfl, .inr rfl, .inr rfl⟩)
    | split

theorem State_shutLock_same {fl : List Facet} {s₀ : State} (hl : subL ps17 fl = true) (a0 : State) (a1 : Nat) (h0 : SameBut fl s₀ a0) :
    SameBut fl s₀ (State.shutLock a0 a1).1 := by
  have kd : subL ps17 fl = true := subL_trans rfl hl
  unfold State.shutLock
  repeat' first
    | with_reducible assumption
    | (extract_lets +onlyGivenNames v; first | (have w : Mem := v; clear w) | (have w : DictState := v; clear w) | (have w : Fw := v; clear w) | clear_value v)
    | ((simp -zeta only [frame_mk]; with_reducible refine frame_lit ps17 ?_ kd ?_); on_goal 2 => exact ⟨.inr rfl, .inr rfl, .inr rfl, .inr rfl, .inr rfl, .inr rfl, .inl rfl, .inr rfl, .inr rfl, .inr rfl, .inr rfl, .inr rfl, .inr rfl, .inr rfl, .inr rfl, .inr rfl, .inr rfl, .inr rfl, .inr rfl, .inr rfl, .inr rfl, .inr rfl, .inr rfl, .inr rfl, .inr rfl, .inr rfl, .inr rfl, .inr rfl, .inr rfl, .inr rfl, .inr rfl⟩)
    | split

theorem lockOpenTimeExpiry_same {fl : List Facet} {s₀ : State} (hl : subL ps17 fl = true) (a0 : State) (h0 : SameBut fl s₀ a0) :
    SameBut fl s₀ (Machine.lockOpenTimeExpiry a0) := by
  have kd : subL ps17 fl = true := subL_trans rfl hl
  unfold Machine.lockOpenTimeExpiry
  repeat' first
    | with_reducible assumption
    | (extract_lets +onlyGivenNames v; first | (have w : Mem := v; clear w) | (have w : DictState := v; clear w) | (have w : Fw := v; clear w) | clear_value v)
    | ((simp -zeta only [frame_mk]; with_reducible refine frame_lit ps17 ?_ kd ?_); on_goal 2 => exact ⟨.inr rfl, .inr rfl, .inr rfl, .inr rfl, .inr rfl, .inr rfl, .inl rfl, .inr rfl, .inr rfl, .inr rfl, .inr rfl, .inr rfl, .inr rfl, .inr rfl, .inr rfl, .inr rfl, .inr rfl, .inr rfl, .inr rfl, .inr rfl, .inr rfl, .inr rfl, .inr rfl, .inr rfl, .inr rfl, .inr rfl, .inr rfl, .inr rfl, .inr rfl, .inr rfl, .inr rfl⟩)
    | split

theorem lockBlockExpiry_same {fl : List Facet} {s₀ : State} (hl : subL ps17 fl = true) (a0 : State) (h0 : SameBut fl s₀ a0) :
    SameBut fl s₀ (Machine.lockBlockExpiry a0) := by
  have kd : subL ps17 fl = true := subL_trans rfl hl
  unfold Machine.lockBlockExpiry
  repeat' first
    | with_reducible assumption
    | (extract_lets +onlyGivenNames v; first | (have w : Mem := v; clear w) | (have w : DictState := v; clear w) | (have w : Fw := v; clear w) | clear_value v)
    | ((simp -zeta only [frame_mk]; with_reducible refine frame_lit ps17 ?_ kd ?_); on_goal 2 => exact ⟨.inr rfl, .inr rfl, .inr rfl, .inr rfl, .inr rfl, .inr rfl, .inl rfl, .inr rfl, .inr rfl, .inr rfl, .inr rfl, .inr rfl, .inr rfl, .inr rfl, .inr rfl, .inr rfl, .inr rfl, .inr rfl, .inr rfl, .inr rfl, .inr rfl, .inr rfl, .inr rfl, .inr rfl, .inr rfl, .inr rfl, .inr rfl, .inr rfl, .inr rfl, .inr rfl, .inr rfl⟩)
    | split

theorem State_stage_same {fl : List Facet} {s₀ : State} (hl : subL ps21 fl = true) (a0 : State) (a1 : Nat) (a2 : Bytes) (h0 : SameBut fl s₀ a0) :
    SameBut fl s₀ (State.stage a0 a1 a2) := by
  have kd : subL ps21 fl = true := subL_trans rfl hl
  unfold State.stage
  repeat' first
    | with_reducible assumption
    | (extract_lets +onlyGivenNames v; first | (have w : Mem := v; clear w) | (have w : DictState := v; clear w) | (have w : Fw := v; clear w) | clear_value v)
    | ((simp -zeta only [frame_mk]; with_reducible refine frame_lit ps21 ?_ kd ?_); on_goal 2 => exact ⟨.inr rfl, .inr rfl, .inr rfl, .inr rfl, .inr rfl, .inr rfl, .inr rfl, .inr rfl, .inl rfl, .inr rfl, .inr rfl, .inr rfl, .inr rfl, .inr rfl, .inr rfl, .inr rfl, .inr rfl, .inr rfl, .inr rfl, .inr rfl, .inr rfl, .inr rfl, .inr rfl, .inr rfl, .inr rfl, .inr rfl, .inr rfl, .inr rfl, .inr rfl, .inr rfl, .inr rfl⟩)

theorem State_stageWrite_same {fl : List Facet} {s₀ : State} (hl : subL ps21 fl = true) (a0 : State) (a1 : Nat) (a2 : Bytes) (h0 : SameBut fl s₀ a0) :
    SameBut fl s₀ (State.stageWrite a0 a1 a2).1 := by
  unfold State.stageWrite
  repeat' first
    | with_reducible assumption
    | with_reducible apply State_stage_same hl
    | split

theorem State_commitNow_same {fl : List Facet} {s₀ : State} (hl : subL ps184 fl = true) (a0 : State) (a1 : Nat) (h0 : SameBut fl s₀ a0) :
    SameBut fl s₀ (State.commitNow a0 a1).1 := by
  have k_ps30 : subL ps30 fl = true := subL_trans rfl hl
  have kd : subL ps21 fl = true := subL_trans rfl hl
  unfold State.commitNow
  repeat' first
    | with_reducible assumption
    | (extract_lets +onlyGivenNames v; refine (fun (hv : SameBut fl s₀ v) => ?_) ?_; (on_goal 1 => clear_value v); (on_goal 2 => (dsimp -zeta only [v]; try clear v)))
    | (extract_lets +onlyGivenNames v; first | (have w : Mem := v; clear w) | (have w : DictState := v; clear w) | (have w : Fw := v; clear w) | clear_value v)
    | with_reducible apply State_applySet_same hl
    | with_reducible apply State_commitEnds_same k_ps30
    | ((simp -zeta only [frame_mk]; with_reducible refine frame_lit ps21 ?_ kd ?_); on_goal 2 => exact ⟨.inr rfl, .inr rfl, .inr rfl, .inr rfl, .inr rfl, .inr rfl, .inr rfl, .inr rfl, .inl rfl, .inr rfl, .inr rfl, .inr rfl, .inr rfl, .inr rfl, .inr rfl, .inr rfl, .inr rfl, .inr rfl, .inr rfl, .inr rfl, .inr rfl, .inr rfl, .inr rfl, .inr rfl, .inr rfl, .inr rfl, .inr rfl, .inr rfl, .inr rfl, .inr rfl, .inr rfl⟩)
    | split

theorem State_discardStage_same {fl : List Facet} {s₀ : State} (hl : subL ps53 fl = true) (a0 : State) (h0 : SameBut fl s₀ a0) :
    SameBut fl s₀ (State.discardStage a0) := by
  have kd : subL ps21 fl = true := subL_trans rfl hl
  unfold State.discardStage
  repeat' first
    | with_reducible assumption
    | (extract_lets +onlyGivenNames v; refine (fun (hv : SameBut fl s₀ v) => ?_) ?_; (on_goal 1 => clear_value v); (on_goal 2 => (dsimp -zeta only [v]; try clear v)))
    | (extract_lets +onlyGivenNames v; first | (have w : Mem := v; clear w) | (have w : DictState := v; clear w) | (have w : Fw := v; clear w) | clear_value v)
    | with_reducible apply State_withdrawCommit_same hl
    | ((simp -zeta only [frame_mk]; with_reducible refine frame_lit ps21 ?_ kd ?_); on_goal 2 => exact ⟨.inr rfl, .inr rfl, .inr rfl, .inr rfl, .inr rfl, .inr rfl, .inr rfl, .inr rfl, .inl rfl, .inr rfl, .inr rfl, .inr rfl, .inr rfl, .inr rfl, .inr rfl, .inr rfl, .inr rfl, .inr rfl, .inr rfl, .inr rfl, .inr rfl, .inr rfl, .inr rfl, .inr rfl, .inr rfl, .inr rfl, .inr rfl, .inr rfl, .inr rfl, .inr rfl, .inr rfl⟩)

theorem State_saveSettings_same {fl : List Facet} {s₀ : State} (hl : subL ps1 fl = true) (a0 : State) (h0 : SameBut fl s₀ a0) :
    SameBut fl s₀ (State.saveSettings a0) := by
  have kd : subL ps1 fl = true := subL_trans rfl hl
  unfold State.saveSettings
  repeat' first
    | with_reducible assumption
    | (extract_lets +onlyGivenNames v; first | (have w : Mem := v; clear w) | (have w : DictState := v; clear w) | (have w : Fw := v; clear w) | clear_value v)
    | ((simp -zeta only [frame_mk]; with_reducible refine frame_lit ps1 ?_ kd ?_); on_goal 2 => exact ⟨.inr rfl, .inr rfl, .inr rfl, .inr rfl, .inr rfl, .inr rfl, .inr rfl, .inr rfl, .inr rfl, .inr rfl, .inl rfl, .inr rfl, .inr rfl, .inr rfl, .inr rfl, .inr rfl, .inr rfl, .inr rfl, .inr rfl, .inr rfl, .inr rfl, .inr rfl, .inr rfl, .inr rfl, .inr rfl, .inr rfl, .inr rfl, .inr rfl, .inr rfl, .inr rfl, .inr rfl⟩)

theorem commitWaitExpiry_same {fl : List Facet} {s₀ : State} (hl : subL ps53 fl = true) (a0 : State) (h0 : SameBut fl s₀ a0) :
    SameBut fl s₀ (Machine.commitWaitExpiry a0) := by
  unfold Machine.commitWaitExpiry
  repeat' first
    | with_reducible assumption
    | with_reducible apply State_withdrawCommit_same hl
    | split

theorem State_boundaryCommit_same {fl : List Facet} {s₀ : State} (hl : subL ps184 fl = true) (a0 : State) (h0 : SameBut fl s₀ a0) :
    SameBut fl s₀ (State.boundaryCommit a0) := by
  have k_ps30 : subL ps30 fl = true := subL_trans rfl hl
  have kd : subL ps21 fl = true := subL_trans rfl hl
  unfold State.boundaryCommit
  repeat' first
    | with_reducible assumption
    | (extract_lets +onlyGivenNames v; first | (have w : Mem := v; clear w) | (have w : DictState := v; clear w) | (have w : Fw := v; clear w) | clear_value v)
    | with_reducible apply State_applySet_same hl
    | with_reducible apply State_commitEnds_same k_ps30
    | ((simp -zeta only [frame_mk]; with_reducible refine frame_lit ps21 ?_ kd ?_); on_goal 2 => exact ⟨.inr rfl, .inr rfl, .inr rfl, .inr rfl, .inr rfl, .inr rfl, .inr rfl, .inr rfl, .inl rfl, .inr rfl, .inr rfl, .inr rfl, .inr rfl, .inr rfl, .inr rfl, .inr rfl, .inr rfl, .inr rfl, .inr rfl, .inr rfl, .inr rfl, .inr rfl, .inr rfl, .inr rfl, .inr rfl, .inr rfl, .inr rfl, .inr rfl, .inr rfl, .inr rfl, .inr rfl⟩)
    | split

theorem State_boundaryPause_same {fl : List Facet} {s₀ : State} (hl : subL ps34 fl = true) (a0 : State) (h0 : SameBut fl s₀ a0) :
    SameBut fl s₀ (State.boundaryPause a0) := by
  have kd : subL ps16 fl = true := subL_trans rfl hl
  unfold State.boundaryPause
  repeat' first
    | with_reducible assumption
    | (with_reducible intro x; try beta_reduce)
    | (extract_lets +onlyGivenNames v; refine (fun (hv : SameBut fl s₀ v) => ?_) ?_; (on_goal 1 => clear_value v); (on_goal 2 => (dsimp -zeta only [v]; try clear v)))
    | (extract_lets +onlyGivenNames v; refine (fun (hv : SameBut fl s₀ v.1) => ?_) ?_; (on_goal 1 => clear_value v); (on_goal 2 => (dsimp -zeta only [v]; try clear v)))
    | (extract_lets +onlyGivenNames v; first | (have w : Mem := v; clear w) | (have w : DictState := v; clear w) | (have w : Fw := v; clear w) | clear_value v)
    | with_reducible apply State_pauseNow_same hl
    | (with_reducible refine foldl_same _ _ ?_ ?_; on_goal 2 => (intro t x ht; try beta_reduce))
    | (with_reducible refine foldl_same₂ _ _ _ ?_ ?_; on_goal 2 => (intro t b x ht; try dsimp -zeta only))
    | ((simp -zeta only [frame_mk]; with_reducible refine frame_lit ps16 ?_ kd ?_); on_goal 2 => exact ⟨.inr rfl, .inr rfl, .inr rfl, .inr rfl, .inr rfl, .inr rfl, .inr rfl, .inr rfl, .inr rfl, .inr rfl, .inr rfl, .inr rfl, .inr rfl, .inr rfl, .inr rfl, .inr rfl, .inr rfl, .inr rfl, .inr rfl, .inl rfl, .inr rfl, .inr rfl, .inr rfl, .inr rfl, .inr rfl, .inr rfl, .inr rfl, .inr rfl, .inr rfl, .inr rfl, .inr rfl⟩)
    | with_reducible refine pair_same (by with_reducible assumption) ?_
    | split
    | (dsimp -zeta only)

theorem stepBoundary_same {fl : List Facet} {s₀ : State} (hl : subL ps184 fl = true) (a0 : State) (h0 : SameBut fl s₀ a0) :
    SameBut fl s₀ (Machine.stepBoundary a0) := by
  have k_ps132 : subL ps132 fl = true := subL_trans rfl hl
  have k_ps136 : subL ps136 fl = true := subL_trans rfl hl
  have k_ps16 : subL ps16 fl = true := subL_trans rfl hl
  have k_ps18 : subL ps18 fl = true := subL_trans rfl hl
  have k_ps34 : subL ps34 fl = true := subL_trans rfl hl
  have kd : subL ps47 fl = true := subL_trans rfl hl
  unfold Machine.stepBoundary
  repeat' first
    | with_reducible assumption
    | (with_reducible intro x; try beta_reduce)
    | (extract_lets +onlyGivenNames v; refine (fun (hv : SameBut fl s₀ v) => ?_) ?_; (on_goal 1 => clear_value v); (on_goal 2 => (dsimp -zeta only [v]; try clear v)))
    | (extract_lets +onlyGivenNames v; refine (fun (hv : SameBut fl s₀ v.1) => ?_) ?_; (on_goal 1 => clear_value v); (on_goal 2 => (dsimp -zeta only [v]; try clear v)))
    | (extract_lets +onlyGivenNames v; first | (have w : Mem := v; clear w) | (have w : DictState := v; clear w) | (have w : Fw := v; clear w) | clear_value v)
    | with_reducible apply State_boundaryCommit_same hl
    | with_reducible apply State_closure_same k_ps132
    | with_reducible apply State_floorBoundary_same k_ps18
    | with_reducible apply State_refuseCoops_same k_ps16
    | with_reducible apply State_idleActions_same k_ps136
    | with_reducible apply State_boundaryPause_same k_ps34
    | (with_reducible refine foldl_same _ _ ?_ ?_; on_goal 2 => (intro t x ht; try beta_reduce))
    | (with_reducible refine foldl_same₂ _ _ _ ?_ ?_; on_goal 2 => (intro t b x ht; try dsimp -zeta only))
    | ((simp -zeta only [frame_mk]; with_reducible refine frame_lit ps47 ?_ kd ?_); on_goal 2 => exact ⟨.inr rfl, .inr rfl, .inr rfl, .inr rfl, .inr rfl, .inr rfl, .inr rfl, .inr rfl, .inr rfl, .inr rfl, .inr rfl, .inr rfl, .inr rfl, .inr rfl, .inr rfl, .inr rfl, .inr rfl, .inr rfl, .inr rfl, .inl rfl, .inl rfl, .inr rfl, .inr rfl, .inr rfl, .inr rfl, .inr rfl, .inr rfl, .inr rfl, .inr rfl, .inr rfl, .inr rfl⟩)
    | with_reducible refine pair_same (by with_reducible assumption) ?_
    | split
    | (dsimp -zeta only)

theorem State_funcWrite_same {fl : List Facet} {s₀ : State} (hl : subL ps164 fl = true) (a0 : State) (a1 : Func) (a2 : Nat) (a3 : Bool) (h0 : SameBut fl s₀ a0) :
    SameBut fl s₀ (State.funcWrite a0 a1 a2 a3).1 := by
  have k_ps143 : subL ps143 fl = true := subL_trans rfl hl
  have k_ps20 : subL ps20 fl = true := subL_trans rfl hl
  have k_ps6 : subL ps6 fl = true := subL_trans rfl hl
  have kd : subL ps5 fl = true := subL_trans rfl hl
  unfold State.funcWrite
  repeat' first
    | with_reducible assumption
    | (extract_lets +onlyGivenNames v; first | (have w : Mem := v; clear w) | (have w : DictState := v; clear w) | (have w : Fw := v; clear w) | clear_value v)
    | with_reducible apply State_bump_same k_ps6
    | with_reducible apply State_requestFunc_same k_ps143
    | with_reducible apply State_setValue_same k_ps20
    | ((simp -zeta only [frame_mk]; with_reducible refine frame_lit ps5 ?_ kd ?_); on_goal 2 => exact ⟨.inr rfl, .inr rfl, .inr rfl, .inr rfl, .inr rfl, .inr rfl, .inr rfl, .inr rfl, .inr rfl, .inl rfl, .inr rfl, .inr rfl, .inr rfl, .inr rfl, .inr rfl, .inr rfl, .inr rfl, .inr rfl, .inr rfl, .inr rfl, .inr rfl, .inr rfl, .inr rfl, .inr rfl, .inr rfl, .inr rfl, .inr rfl, .inr rfl, .inr rfl, .inr rfl, .inr rfl⟩)
    | with_reducible refine pair_same (by with_reducible assumption) ?_
    | split

theorem State_ledgerWrite_same {fl : List Facet} {s₀ : State} (hl : subL ps146 fl = true) (a0 : State) (a1 : Bool) (h0 : SameBut fl s₀ a0) :
    SameBut fl s₀ (State.ledgerWrite a0 a1).1 := by
  have k_ps136 : subL ps136 fl = true := subL_trans rfl hl
  have k_ps63 : subL ps63 fl = true := subL_trans rfl hl
  unfold State.ledgerWrite
  repeat' first
    | with_reducible assumption
    | with_reducible apply State_ledgerStart_same k_ps63
    | with_reducible apply State_ledgerStop_same k_ps136
    | split

theorem State_clearBw_same {fl : List Facet} {s₀ : State} (hl : subL ps29 fl = true) (a0 : State) (h0 : SameBut fl s₀ a0) :
    SameBut fl s₀ (State.clearBw a0) := by
  have k_ps6 : subL ps6 fl = true := subL_trans rfl hl
  have kd : subL ps4 fl = true := subL_trans rfl hl
  unfold State.clearBw
  repeat' first
    | with_reducible assumption
    | (extract_lets +onlyGivenNames v; refine (fun (hv : SameBut fl s₀ v) => ?_) ?_; (on_goal 1 => clear_value v); (on_goal 2 => (dsimp -zeta only [v]; try clear v)))
    | (extract_lets +onlyGivenNames v; first | (have w : Mem := v; clear w) | (have w : DictState := v; clear w) | (have w : Fw := v; clear w) | clear_value v)
    | with_reducible apply State_clearCounters_same k_ps6
    | ((simp -zeta only [frame_mk]; with_reducible refine frame_lit ps4 ?_ kd ?_); on_goal 2 => exact ⟨.inr rfl, .inr rfl, .inr rfl, .inr rfl, .inr rfl, .inr rfl, .inr rfl, .inr rfl, .inr rfl, .inr rfl, .inr rfl, .inr rfl, .inr rfl, .inr rfl, .inr rfl, .inr rfl, .inr rfl, .inr rfl, .inl rfl, .inr rfl, .inr rfl, .inr rfl, .inr rfl, .inr rfl, .inr rfl, .inr rfl, .inr rfl, .inr rfl, .inr rfl, .inr rfl, .inr rfl⟩)

theorem State_clearFor_same {fl : List Facet} {s₀ : State} (hl : subL ps29 fl = true) (a0 : State) (a1 : Nat) (h0 : SameBut fl s₀ a0) :
    SameBut fl s₀ (State.clearFor a0 a1) := by
  have k_ps6 : subL ps6 fl = true := subL_trans rfl hl
  unfold State.clearFor
  repeat' first
    | exact h0
    | with_reducible apply State_clearCounters_same k_ps6
    | with_reducible apply State_clearBw_same hl
    | with_reducible refine SameBut.ite ?_ ?_

theorem State_startFlush_same {fl : List Facet} {s₀ : State} (hl : subL ps9 fl = true) (a0 : State) (a1 : Nat) (h0 : SameBut fl s₀ a0) :
    SameBut fl s₀ (State.startFlush a0 a1).1 := by
  have kd : subL ps9 fl = true := subL_trans rfl hl
  unfold State.startFlush
  repeat' first
    | with_reducible assumption
    | (extract_lets +onlyGivenNames v; first | (have w : Mem := v; clear w) | (have w : DictState := v; clear w) | (have w : Fw := v; clear w) | clear_value v)
    | ((simp -zeta only [frame_mk]; with_reducible refine frame_lit ps9 ?_ kd ?_); on_goal 2 => exact ⟨.inr rfl, .inr rfl, .inr rfl, .inr rfl, .inr rfl, .inr rfl, .inr rfl, .inr rfl, .inr rfl, .inr rfl, .inr rfl, .inr rfl, .inr rfl, .inl rfl, .inr rfl, .inr rfl, .inr rfl, .inr rfl, .inr rfl, .inr rfl, .inr rfl, .inr rfl, .inr rfl, .inr rfl, .inr rfl, .inr rfl, .inr rfl, .inr rfl, .inr rfl, .inr rfl, .inr rfl⟩)
    | split

theorem State_applyResume_same {fl : List Facet} {s₀ : State} (hl : subL ps7 fl = true) (a0 : State) (a1 : Bytes) (h0 : SameBut fl s₀ a0) :
    SameBut fl s₀ (State.applyResume a0 a1).1 := by
  unfold State.applyResume
  repeat' first
    | with_reducible assumption
    | with_reducible apply State_resumeWith_same hl
    | with_reducible refine pair_same (by with_reducible assumption) ?_
    | split

theorem State_trigger_same {fl : List Facet} {s₀ : State} (hl : subL ps185 fl = true) (a0 : State) (a1 : Nat) (a2 : Nat) (a3 : Bytes) (h0 : SameBut fl s₀ a0) :
    SameBut fl s₀ (State.trigger a0 a1 a2 a3).1 := by
  have k_ps1 : subL ps1 fl = true := subL_trans rfl hl
  have k_ps104 : subL ps104 fl = true := subL_trans rfl hl
  have k_ps113 : subL ps113 fl = true := subL_trans rfl hl
  have k_ps129 : subL ps129 fl = true := subL_trans rfl hl
  have k_ps135 : subL ps135 fl = true := subL_trans rfl hl
  have k_ps15 : subL ps15 fl = true := subL_trans rfl hl
  have k_ps17 : subL ps17 fl = true := subL_trans rfl hl
  have k_ps26 : subL ps26 fl = true := subL_trans rfl hl
  have k_ps29 : subL ps29 fl = true := subL_trans rfl hl
  have k_ps34 : subL ps34 fl = true := subL_trans rfl hl
  have k_ps44 : subL ps44 fl = true := subL_trans rfl hl
  have k_ps47 : subL ps47 fl = true := subL_trans rfl hl
  have k_ps53 : subL ps53 fl = true := subL_trans rfl hl
  have k_ps7 : subL ps7 fl = true := subL_trans rfl hl
  have k_ps9 : subL ps9 fl = true := subL_trans rfl hl
  have k_ps96 : subL ps96 fl = true := subL_trans rfl hl
  unfold State.trigger
  repeat' first
    | with_reducible assumption
    | (extract_lets +onlyGivenNames v; first | (have w : Mem := v; clear w) | (have w : DictState := v; clear w) | (have w : Fw := v; clear w) | clear_value v)
    | with_reducible refine SameBut.ite_fst ?_ ?_
    | with_reducible apply State_takeLease_same k_ps15
    | with_reducible apply State_giveLease_same k_ps135
    | with_reducible apply State_breakLease_same k_ps135
    | with_reducible apply State_tryResponse_same k_ps96
    | with_reducible apply State_tryPassword_same k_ps96
    | with_reducible apply State_shutLock_same k_ps17
    | with_reducible apply State_discardStage_same k_ps53
    | with_reducible apply State_saveSettings_same k_ps1
    | with_reducible apply State_startFlush_same k_ps9
    | with_reducible apply State_pauseRequest_same k_ps34
    | with_reducible apply State_resumeRequest_same k_ps47
    | with_reducible apply State_applyResume_same k_ps7
    | with_reducible apply State_acceptThermal_same k_ps113
    | with_reducible apply State_requestState_same hl
    | with_reducible apply State_requestComputeReset_same k_ps129
    | with_reducible apply State_fullReset_same hl
    | with_reducible apply State_beginUpdate_same k_ps44
    | with_reducible apply State_updateBytes_same k_ps44
    | with_reducible apply State_verifyUpdate_same k_ps26
    | with_reducible apply State_commitUpdate_same hl
    | with_reducible apply State_stopUpdate_same k_ps44
    | with_reducible apply State_confirmAll_same k_ps104
    | with_reducible apply State_clearFor_same k_ps29

theorem State_writeNow_same {fl : List Facet} {s₀ : State} (hl : subL ps179 fl = true) (a0 : State) (a1 : Nat) (a2 : Bytes) (h0 : SameBut fl s₀ a0) :
    SameBut fl s₀ (State.writeNow a0 a1 a2).1 := by
  have k_ps14 : subL ps14 fl = true := subL_trans rfl hl
  have k_ps146 : subL ps146 fl = true := subL_trans rfl hl
  have k_ps164 : subL ps164 fl = true := subL_trans rfl hl
  have k_ps20 : subL ps20 fl = true := subL_trans rfl hl
  have kd : subL ps7 fl = true := subL_trans rfl hl
  unfold State.writeNow
  repeat' first
    | with_reducible assumption
    | (extract_lets +onlyGivenNames v; first | (have w : Mem := v; clear w) | (have w : DictState := v; clear w) | (have w : Fw := v; clear w) | clear_value v)
    | with_reducible apply State_funcWrite_same k_ps164
    | with_reducible apply State_ledgerWrite_same k_ps146
    | with_reducible apply State_ackLog_same k_ps14
    | with_reducible apply State_setValue_same k_ps20
    | ((simp -zeta only [frame_mk]; with_reducible refine frame_lit ps7 ?_ kd ?_); on_goal 2 => exact ⟨.inr rfl, .inr rfl, .inr rfl, .inr rfl, .inr rfl, .inr rfl, .inr rfl, .inr rfl, .inr rfl, .inr rfl, .inr rfl, .inr rfl, .inr rfl, .inr rfl, .inr rfl, .inr rfl, .inr rfl, .inr rfl, .inr rfl, .inr rfl, .inl rfl, .inr rfl, .inr rfl, .inr rfl, .inr rfl, .inr rfl, .inr rfl, .inr rfl, .inr rfl, .inr rfl, .inr rfl⟩)
    | split

theorem State_writeValue_same {fl : List Facet} {s₀ : State} (hl : subL ps189 fl = true) (a0 : State) (a1 : Nat) (a2 : ObjRow) (a3 : Nat) (a4 : Bytes) (h0 : SameBut fl s₀ a0) :
    SameBut fl s₀ (State.writeValue a0 a1 a2 a3 a4).1 := by
  have k_ps179 : subL ps179 fl = true := subL_trans rfl hl
  have k_ps184 : subL ps184 fl = true := subL_trans rfl hl
  have k_ps185 : subL ps185 fl = true := subL_trans rfl hl
  have k_ps21 : subL ps21 fl = true := subL_trans rfl hl
  unfold State.writeValue
  repeat' first
    | with_reducible assumption
    | (extract_lets +onlyGivenNames v; refine (fun (hf : ∀ y0, SameBut fl s₀ y0.1 → SameBut fl s₀ (v y0).1) => ?_) ?_; (on_goal 1 => clear_value v); (on_goal 2 => (dsimp -zeta only [v]; intro y0 hy; try dsimp -zeta only)))
    | with_reducible apply hf
    | with_reducible apply State_stageWrite_same k_ps21
    | with_reducible apply State_commitNow_same k_ps184
    | with_reducible apply State_trigger_same k_ps185
    | with_reducible apply State_writeNow_same k_ps179
    | split

theorem State_writeWhole_same {fl : List Facet} {s₀ : State} (hl : subL ps189 fl = true) (a0 : State) (a1 : Nat) (a2 : ObjRow) (a3 : Nat) (a4 : Bytes) (h0 : SameBut fl s₀ a0) :
    SameBut fl s₀ (State.writeWhole a0 a1 a2 a3 a4).1 := by
  have k_ps8 : subL ps8 fl = true := subL_trans rfl hl
  have kd : subL ps0 fl = true := subL_trans rfl hl
  unfold State.writeWhole
  repeat' first
    | with_reducible assumption
    | (with_reducible intro x; try beta_reduce)
    | (extract_lets +onlyGivenNames v; refine (fun (hv : SameBut fl s₀ v) => ?_) ?_; (on_goal 1 => clear_value v); (on_goal 2 => (dsimp -zeta only [v]; try clear v)))
    | (extract_lets +onlyGivenNames v; refine (fun (hv : SameBut fl s₀ v.1) => ?_) ?_; (on_goal 1 => clear_value v); (on_goal 2 => (dsimp -zeta only [v]; try clear v)))
    | (extract_lets +onlyGivenNames v; first | (have w : Mem := v; clear w) | (have w : DictState := v; clear w) | (have w : Fw := v; clear w) | clear_value v)
    | with_reducible apply State_writeValue_same hl
    | with_reducible apply State_drawn_same k_ps8
    | (with_reducible refine foldl_same _ _ ?_ ?_; on_goal 2 => (intro t x ht; try beta_reduce))
    | (with_reducible refine foldl_same₂ _ _ _ ?_ ?_; on_goal 2 => (intro t b x ht; try dsimp -zeta only))
    | ((simp -zeta only [frame_mk]; with_reducible refine frame_lit ps0 ?_ kd ?_); on_goal 2 => exact ⟨.inr rfl, .inr rfl, .inr rfl, .inr rfl, .inr rfl, .inr rfl, .inr rfl, .inr rfl, .inr rfl, .inr rfl, .inr rfl, .inr rfl, .inr rfl, .inr rfl, .inr rfl, .inr rfl, .inr rfl, .inr rfl, .inr rfl, .inr rfl, .inr rfl, .inr rfl, .inr rfl, .inr rfl, .inr rfl, .inr rfl, .inr rfl, .inr rfl, .inr rfl, .inr rfl, .inr rfl⟩)
    | with_reducible refine pair_same (by with_reducible assumption) ?_
    | split
    | (dsimp -zeta only)

theorem State_serveWrite_same {fl : List Facet} {s₀ : State} (hl : subL ps189 fl = true) (a0 : State) (a1 : Nat) (a2 : ObjRow) (a3 : Nat) (a4 : Nat) (a5 : Bool) (a6 : Bytes) (a7 : Option PartialWrite) (h0 : SameBut fl s₀ a0) :
    SameBut fl s₀ (State.serveWrite a0 a1 a2 a3 a4 a5 a6 a7).1 := by
  have kd : subL ps19 fl = true := subL_trans rfl hl
  unfold State.serveWrite
  repeat' first
    | with_reducible assumption
    | (with_reducible intro x; try beta_reduce)
    | (extract_lets +onlyGivenNames v; refine (fun (hv : SameBut fl s₀ v) => ?_) ?_; (on_goal 1 => clear_value v); (on_goal 2 => (dsimp -zeta only [v]; try clear v)))
    | (extract_lets +onlyGivenNames v; refine (fun (hv : SameBut fl s₀ v.1) => ?_) ?_; (on_goal 1 => clear_value v); (on_goal 2 => (dsimp -zeta only [v]; try clear v)))
    | (extract_lets +onlyGivenNames v; first | (have w : Mem := v; clear w) | (have w : DictState := v; clear w) | (have w : Fw := v; clear w) | clear_value v)
    | with_reducible apply State_writeWhole_same hl
    | (with_reducible refine foldl_same _ _ ?_ ?_; on_goal 2 => (intro t x ht; try beta_reduce))
    | (with_reducible refine foldl_same₂ _ _ _ ?_ ?_; on_goal 2 => (intro t b x ht; try dsimp -zeta only))
    | ((simp -zeta only [frame_mk]; with_reducible refine frame_lit ps19 ?_ kd ?_); on_goal 2 => exact ⟨.inr rfl, .inr rfl, .inr rfl, .inr rfl, .inl rfl, .inr rfl, .inr rfl, .inr rfl, .inr rfl, .inr rfl, .inr rfl, .inr rfl, .inr rfl, .inr rfl, .inr rfl, .inr rfl, .inr rfl, .inr rfl, .inr rfl, .inr rfl, .inr rfl, .inr rfl, .inr rfl, .inr rfl, .inr rfl, .inr rfl, .inr rfl, .inr rfl, .inr rfl, .inr rfl, .inr rfl⟩)
    | with_reducible refine pair_same (by with_reducible assumption) ?_
    | split
    | (dsimp -zeta only)

theorem State_serveRead_same {fl : List Facet} {s₀ : State} (hl : subL ps48 fl = true) (a0 : State) (a1 : Nat) (a2 : ObjRow) (a3 : Nat) (h0 : SameBut fl s₀ a0) :
    SameBut fl s₀ (State.serveRead a0 a1 a2 a3).1 := by
  have k_ps8 : subL ps8 fl = true := subL_trans rfl hl
  have kd : subL ps17 fl = true := subL_trans rfl hl
  unfold State.serveRead
  repeat' first
    | with_reducible assumption
    | (extract_lets +onlyGivenNames v; refine (fun (hv : SameBut fl s₀ v) => ?_) ?_; (on_goal 1 => clear_value v); (on_goal 2 => (dsimp -zeta only [v]; try clear v)))
    | (extract_lets +onlyGivenNames v; first | (have w : Mem := v; clear w) | (have w : DictState := v; clear w) | (have w : Fw := v; clear w) | clear_value v)
    | with_reducible apply State_drawn_same k_ps8
    | ((simp -zeta only [frame_mk]; with_reducible refine frame_lit ps17 ?_ kd ?_); on_goal 2 => exact ⟨.inr rfl, .inr rfl, .inr rfl, .inr rfl, .inr rfl, .inr rfl, .inl rfl, .inr rfl, .inr rfl, .inr rfl, .inr rfl, .inr rfl, .inr rfl, .inr rfl, .inr rfl, .inr rfl, .inr rfl, .inr rfl, .inr rfl, .inr rfl, .inr rfl, .inr rfl, .inr rfl, .inr rfl, .inr rfl, .inr rfl, .inr rfl, .inr rfl, .inr rfl, .inr rfl, .inr rfl⟩)
    | split

theorem State_dictServe_same {fl : List Facet} {s₀ : State} (hl : subL ps189 fl = true) (a0 : State) (a1 : Nat) (a2 : Nat) (a3 : Nat) (a4 : Nat) (a5 : Nat) (a6 : Bool) (a7 : Bool) (a8 : Bytes) (h0 : SameBut fl s₀ a0) :
    SameBut fl s₀ (State.dictServe a0 a1 a2 a3 a4 a5 a6 a7 a8).1 := by
  have k_ps48 : subL ps48 fl = true := subL_trans rfl hl
  have kd : subL ps19 fl = true := subL_trans rfl hl
  unfold State.dictServe
  repeat' first
    | with_reducible assumption
    | (with_reducible intro x; try beta_reduce)
    | (extract_lets +onlyGivenNames v; refine (fun (hv : SameBut fl s₀ v) => ?_) ?_; (on_goal 1 => clear_value v); (on_goal 2 => (dsimp -zeta only [v]; try clear v)))
    | (extract_lets +onlyGivenNames v; refine (fun (hv : SameBut fl s₀ v.1) => ?_) ?_; (on_goal 1 => clear_value v); (on_goal 2 => (dsimp -zeta only [v]; try clear v)))
    | (extract_lets +onlyGivenNames v; first | (have w : Mem := v; clear w) | (have w : DictState := v; clear w) | (have w : Fw := v; clear w) | clear_value v)
    | with_reducible apply State_serveWrite_same hl
    | with_reducible apply State_serveRead_same k_ps48
    | (with_reducible refine foldl_same _ _ ?_ ?_; on_goal 2 => (intro t x ht; try beta_reduce))
    | (with_reducible refine foldl_same₂ _ _ _ ?_ ?_; on_goal 2 => (intro t b x ht; try dsimp -zeta only))
    | ((simp -zeta only [frame_mk]; with_reducible refine frame_lit ps19 ?_ kd ?_); on_goal 2 => exact ⟨.inr rfl, .inr rfl, .inr rfl, .inr rfl, .inl rfl, .inr rfl, .inr rfl, .inr rfl, .inr rfl, .inr rfl, .inr rfl, .inr rfl, .inr rfl, .inr rfl, .inr rfl, .inr rfl, .inr rfl, .inr rfl, .inr rfl, .inr rfl, .inr rfl, .inr rfl, .inr rfl, .inr rfl, .inr rfl, .inr rfl, .inr rfl, .inr rfl, .inr rfl, .inr rfl, .inr rfl⟩)
    | with_reducible refine pair_same (by with_reducible assumption) ?_
    | split
    | (dsimp -zeta only)

theorem State_respond_same {fl : List Facet} {s₀ : State} (hl : subL ps27 fl = true) (a0 : State) (a1 : DictResp) (h0 : SameBut fl s₀ a0) :
    SameBut fl s₀ (State.respond a0 a1) := by
  have kd : subL ps27 fl = true := subL_trans rfl hl
  unfold State.respond
  repeat' first
    | with_reducible assumption
    | (with_reducible intro x; try beta_reduce)
    | (extract_lets +onlyGivenNames v; refine (fun (hv : SameBut fl s₀ v) => ?_) ?_; (on_goal 1 => clear_value v); (on_goal 2 => (dsimp -zeta only [v]; try clear v)))
    | (extract_lets +onlyGivenNames v; refine (fun (hv : SameBut fl s₀ v.1) => ?_) ?_; (on_goal 1 => clear_value v); (on_goal 2 => (dsimp -zeta only [v]; try clear v)))
    | (extract_lets +onlyGivenNames v; first | (have w : Mem := v; clear w) | (have w : DictState := v; clear w) | (have w : Fw := v; clear w) | clear_value v)
    | (with_reducible refine foldl_same _ _ ?_ ?_; on_goal 2 => (intro t x ht; try beta_reduce))
    | (with_reducible refine foldl_same₂ _ _ _ ?_ ?_; on_goal 2 => (intro t b x ht; try dsimp -zeta only))
    | ((simp -zeta only [frame_mk]; with_reducible refine frame_lit ps27 ?_ kd ?_); on_goal 2 => exact ⟨.inr rfl, .inr rfl, .inr rfl, .inl rfl, .inr rfl, .inr rfl, .inr rfl, .inr rfl, .inr rfl, .inr rfl, .inr rfl, .inr rfl, .inr rfl, .inr rfl, .inr rfl, .inr rfl, .inr rfl, .inr rfl, .inr rfl, .inr rfl, .inr rfl, .inr rfl, .inr rfl, .inr rfl, .inr rfl, .inr rfl, .inr rfl, .inr rfl, .inr rfl, .inr rfl, .inr rfl⟩)
    | with_reducible refine pair_same (by with_reducible assumption) ?_
    | split
    | (dsimp -zeta only)

theorem State_dictRequest_same {fl : List Facet} {s₀ : State} (hl : subL ps189 fl = true) (a0 : State) (a1 : Nat) (a2 : Nat) (a3 : Nat) (a4 : Nat) (a5 : Nat) (a6 : Bool) (a7 : Bool) (a8 : Bytes) (h0 : SameBut fl s₀ a0) :
    SameBut fl s₀ (State.dictRequest a0 a1 a2 a3 a4 a5 a6 a7 a8) := by
  have k_ps27 : subL ps27 fl = true := subL_trans rfl hl
  have kd : subL ps27 fl = true := subL_trans rfl hl
  unfold State.dictRequest
  repeat' first
    | with_reducible assumption
    | (with_reducible intro x; try beta_reduce)
    | (extract_lets +onlyGivenNames v; refine (fun (hv : SameBut fl s₀ v) => ?_) ?_; (on_goal 1 => clear_value v); (on_goal 2 => (dsimp -zeta only [v]; try clear v)))
    | (extract_lets +onlyGivenNames v; refine (fun (hv : SameBut fl s₀ v.1) => ?_) ?_; (on_goal 1 => clear_value v); (on_goal 2 => (dsimp -zeta only [v]; try clear v)))
    | (extract_lets +onlyGivenNames v; first | (have w : Mem := v; clear w) | (have w : DictState := v; clear w) | (have w : Fw := v; clear w) | clear_value v)
    | with_reducible apply State_dictServe_same hl
    | with_reducible apply State_respond_same k_ps27
    | (with_reducible refine foldl_same _ _ ?_ ?_; on_goal 2 => (intro t x ht; try beta_reduce))
    | (with_reducible refine foldl_same₂ _ _ _ ?_ ?_; on_goal 2 => (intro t b x ht; try dsimp -zeta only))
    | ((simp -zeta only [frame_mk]; with_reducible refine frame_lit ps27 ?_ kd ?_); on_goal 2 => exact ⟨.inr rfl, .inr rfl, .inr rfl, .inl rfl, .inr rfl, .inr rfl, .inr rfl, .inr rfl, .inr rfl, .inr rfl, .inr rfl, .inr rfl, .inr rfl, .inr rfl, .inr rfl, .inr rfl, .inr rfl, .inr rfl, .inr rfl, .inr rfl, .inr rfl, .inr rfl, .inr rfl, .inr rfl, .inr rfl, .inr rfl, .inr rfl, .inr rfl, .inr rfl, .inr rfl, .inr rfl⟩)
    | with_reducible refine pair_same (by with_reducible assumption) ?_
    | split
    | (dsimp -zeta only)

theorem State_dictPut_same {fl : List Facet} {s₀ : State} (hl : subL ps189 fl = true) (a0 : State) (a1 : Nat) (a2 : Nat) (a3 : Bytes) (h0 : SameBut fl s₀ a0) :
    SameBut fl s₀ (State.dictPut a0 a1 a2 a3) := by
  unfold State.dictPut
  repeat' first
    | with_reducible assumption
    | with_reducible apply State_dictRequest_same hl

theorem State_dictPutNum_same {fl : List Facet} {s₀ : State} (hl : subL ps189 fl = true) (a0 : State) (a1 : Nat) (a2 : Nat) (a3 : Nat) (a4 : Nat) (h0 : SameBut fl s₀ a0) :
    SameBut fl s₀ (State.dictPutNum a0 a1 a2 a3 a4) := by
  unfold State.dictPutNum
  repeat' first
    | with_reducible assumption
    | with_reducible apply State_dictPut_same hl

theorem State_muslinBad_same {fl : List Facet} {s₀ : State} (hl : subL ps6 fl = true) (a0 : State) (h0 : SameBut fl s₀ a0) :
    SameBut fl s₀ (State.muslinBad a0) := by
  unfold State.muslinBad
  repeat' first
    | with_reducible assumption
    | with_reducible apply State_bump_same hl

theorem State_muslinRecord_same {fl : List Facet} {s₀ : State} (hl : subL ps19 fl = true) (a0 : State) (a1 : Nat) (a2 : Nat) (a3 : DictResp) (h0 : SameBut fl s₀ a0) :
    SameBut fl s₀ (State.muslinRecord a0 a1 a2 a3) := by
  have kd : subL ps19 fl = true := subL_trans rfl hl
  unfold State.muslinRecord
  repeat' first
    | with_reducible assumption
    | (extract_lets +onlyGivenNames v; first | (have w : Mem := v; clear w) | (have w : DictState := v; clear w) | (have w : Fw := v; clear w) | clear_value v)
    | ((simp -zeta only [frame_mk]; with_reducible refine frame_lit ps19 ?_ kd ?_); on_goal 2 => exact ⟨.inr rfl, .inr rfl, .inr rfl, .inr rfl, .inl rfl, .inr rfl, .inr rfl, .inr rfl, .inr rfl, .inr rfl, .inr rfl, .inr rfl, .inr rfl, .inr rfl, .inr rfl, .inr rfl, .inr rfl, .inr rfl, .inr rfl, .inr rfl, .inr rfl, .inr rfl, .inr rfl, .inr rfl, .inr rfl, .inr rfl, .inr rfl, .inr rfl, .inr rfl, .inr rfl, .inr rfl⟩)

theorem State_muslinServe_same {fl : List Facet} {s₀ : State} (hl : subL ps189 fl = true) (a0 : State) (a1 : Nat) (a2 : Nat) (a3 : W64) (a4 : Bytes) (h0 : SameBut fl s₀ a0) :
    SameBut fl s₀ (State.muslinServe a0 a1 a2 a3 a4) := by
  have k_ps19 : subL ps19 fl = true := subL_trans rfl hl
  have k_ps27 : subL ps27 fl = true := subL_trans rfl hl
  unfold State.muslinServe
  repeat' first
    | with_reducible assumption
    | with_reducible apply State_dictServe_same hl
    | with_reducible apply State_muslinRecord_same k_ps19
    | with_reducible apply State_respond_same k_ps27

theorem request_same {fl : List Facet} {s₀ : State} (hl : subL ps189 fl = true) (a0 : Udp) (a1 : Nat) (a2 : Nat) (a3 : W64) (a4 : Bytes) (a5 : State) (h5 : SameBut fl s₀ a5) :
    SameBut fl s₀ (Machine.request a0 a1 a2 a3 a4 a5) := by
  have k_ps27 : subL ps27 fl = true := subL_trans rfl hl
  have k_ps6 : subL ps6 fl = true := subL_trans rfl hl
  unfold Machine.request
  repeat' first
    | with_reducible assumption
    | with_reducible apply State_muslinBad_same k_ps6
    | with_reducible apply State_muslinServe_same hl
    | with_reducible apply State_respond_same k_ps27
    | with_reducible apply State_bump_same k_ps6
    | split

theorem dictRead_same {fl : List Facet} {s₀ : State} (hl : subL ps189 fl = true) (a0 : Nat) (a1 : Nat) (a2 : Nat) (a3 : Nat) (a4 : State) (h4 : SameBut fl s₀ a4) :
    SameBut fl s₀ (Machine.dictRead a0 a1 a2 a3 a4) := by
  unfold Machine.dictRead
  repeat' first
    | with_reducible assumption
    | with_reducible apply State_dictRequest_same hl

theorem dictWrite_same {fl : List Facet} {s₀ : State} (hl : subL ps189 fl = true) (a0 : Nat) (a1 : Nat) (a2 : Nat) (a3 : Nat) (a4 : Bool) (a5 : Bytes) (a6 : State) (h6 : SameBut fl s₀ a6) :
    SameBut fl s₀ (Machine.dictWrite a0 a1 a2 a3 a4 a5 a6) := by
  unfold Machine.dictWrite
  repeat' first
    | with_reducible assumption
    | with_reducible apply State_dictRequest_same hl

theorem dictReadStaged_same {fl : List Facet} {s₀ : State} (hl : subL ps189 fl = true) (a0 : Nat) (a1 : Nat) (a2 : Nat) (a3 : Nat) (a4 : State) (h4 : SameBut fl s₀ a4) :
    SameBut fl s₀ (Machine.dictReadStaged a0 a1 a2 a3 a4) := by
  unfold Machine.dictReadStaged
  repeat' first
    | with_reducible assumption
    | with_reducible apply State_dictRequest_same hl

theorem lockNonce_same {fl : List Facet} {s₀ : State} (hl : subL ps189 fl = true) (a0 : Nat) (a1 : State) (h1 : SameBut fl s₀ a1) :
    SameBut fl s₀ (Machine.lockNonce a0 a1) := by
  unfold Machine.lockNonce
  repeat' first
    | with_reducible assumption
    | with_reducible apply State_dictRequest_same hl

end Sys2Proof.Laws
end

