-- ==== Sys2Proof/Laws/Objects.lean ====
section
/-! SUPPORT. The rows of the objects that commands name, each looked up once in the object table. -/

set_option Elab.async false
set_option linter.all false

namespace Sys2Proof.Laws

open Sys2Proof Sys2Proof.Machine

theorem row_leaseRequest : objRow Obj.leaseRequest =
    some ⟨0x110002, 0x110002, .u8, .wo, 1, 1, .span 0 1 1, 0⟩ := by decide +kernel

theorem row_leaseBreak : objRow Obj.leaseBreak =
    some ⟨0x110005, 0x110005, .u8, .wo, 1, 1, .span 1 1 1, 0⟩ := by decide +kernel

theorem row_lockResponse : objRow Obj.lockResponse =
    some ⟨0x110008, 0x110008, .blob, .wo, 132, 132, .any, 0⟩ := by decide +kernel

theorem row_lockPassword : objRow Obj.lockPassword =
    some ⟨0x110009, 0x110009, .str, .wo, 8, 64, .any, 0⟩ := by decide +kernel

theorem row_lockClose : objRow Obj.lockClose =
    some ⟨0x11000A, 0x11000A, .u8, .wo, 1, 1, .span 1 1 1, 0⟩ := by decide +kernel

theorem row_commit : objRow Obj.commit =
    some ⟨0x120002, 0x120002, .u8, .wo, 1, 1, .span 1 1 1, 0⟩ := by decide +kernel

theorem row_stageDiscard : objRow Obj.stageDiscard =
    some ⟨0x120003, 0x120003, .u8, .wo, 1, 1, .span 1 1 1, 0⟩ := by decide +kernel

theorem row_settingsSave : objRow Obj.settingsSave =
    some ⟨0x120009, 0x120009, .u8, .wo, 1, 1, .span 1 1 1, 0⟩ := by decide +kernel

theorem row_matrixCounterClear : objRow Obj.matrixCounterClear =
    some ⟨0x200008, 0x200008, .u8, .wo, 1, 1, .span 1 1 1, 0⟩ := by decide +kernel

theorem row_formatCounterClear : objRow Obj.formatCounterClear =
    some ⟨0x21000E, 0x21000E, .u8, .wo, 1, 1, .span 1 1 1, 0⟩ := by decide +kernel

theorem row_execCounterClear : objRow Obj.execCounterClear =
    some ⟨0x220009, 0x220009, .u8, .wo, 1, 1, .span 1 1 1, 0⟩ := by decide +kernel

theorem row_feltFlush : objRow Obj.feltFlush =
    some ⟨0x30000A, 0x30000A, .u8, .wo, 1, 1, .span 1 2 1, 0⟩ := by decide +kernel

theorem row_feltCounterClear : objRow Obj.feltCounterClear =
    some ⟨0x300019, 0x300019, .u8, .wo, 1, 1, .span 1 1 1, 0⟩ := by decide +kernel

theorem row_tieringEnable : objRow Obj.tieringEnable =
    some ⟨0x310002, 0x310002, .bool, .rw, 1, 1, .codes 2, 1⟩ := by decide +kernel

theorem row_tierCounterClear : objRow Obj.tierCounterClear =
    some ⟨0x310021, 0x310021, .u8, .wo, 1, 1, .span 1 1 1, 0⟩ := by decide +kernel

theorem row_bwCounterClear : objRow Obj.bwCounterClear =
    some ⟨0x320005, 0x320005, .u8, .wo, 1, 1, .span 1 1 1, 0⟩ := by decide +kernel

theorem row_ledgerEnable : objRow Obj.ledgerEnable =
    some ⟨0x330006, 0x330006, .bool, .rw, 1, 1, .codes 2, 0⟩ := by decide +kernel

theorem row_schedPause : objRow Obj.schedPause =
    some ⟨0x330012, 0x330012, .u8, .wo, 1, 1, .span 1 1 1, 0⟩ := by decide +kernel

theorem row_schedResume : objRow Obj.schedResume =
    some ⟨0x330013, 0x330013, .u8, .wo, 1, 1, .span 1 1 1, 0⟩ := by decide +kernel

theorem row_schedCounterClear : objRow Obj.schedCounterClear =
    some ⟨0x33001D, 0x33001D, .u8, .wo, 1, 1, .span 1 1 1, 0⟩ := by decide +kernel

theorem row_stepCounter : objRow Obj.stepCounter =
    some ⟨0x340006, 0x340006, .u64, .rwi, 8, 8, .any, 0⟩ := by decide +kernel

theorem row_resumeApply : objRow Obj.resumeApply =
    some ⟨0x34000B, 0x34000B, .blob, .wo, 64, 64, .any, 0⟩ := by decide +kernel

theorem row_rngProbeInput : objRow Obj.rngProbeInput =
    some ⟨0x34000D, 0x34000D, .blob, .rw, 24, 24, .any, 0⟩ := by decide +kernel

theorem row_scrubEnable : objRow Obj.scrubEnable =
    some ⟨0x400001, 0x400001, .bool, .rw, 1, 1, .codes 2, 1⟩ := by decide +kernel

theorem row_errorLogAck : objRow Obj.errorLogAck =
    some ⟨0x400019, 0x400019, .u32, .rw, 4, 4, .any, 0⟩ := by decide +kernel

theorem row_integrityCounterClear : objRow Obj.integrityCounterClear =
    some ⟨0x40001E, 0x40001E, .u8, .wo, 1, 1, .span 1 1 1, 0⟩ := by decide +kernel

theorem row_powerCounterClear : objRow Obj.powerCounterClear =
    some ⟨0x50001F, 0x50001F, .u8, .wo, 1, 1, .span 1 1 1, 0⟩ := by decide +kernel

theorem row_thermalAccept : objRow Obj.thermalAccept =
    some ⟨0x510004, 0x510004, .u8, .wo, 1, 1, .span 1 1 1, 0⟩ := by decide +kernel

theorem row_thermalCounterClear : objRow Obj.thermalCounterClear =
    some ⟨0x51000A, 0x51000A, .u8, .wo, 1, 1, .span 1 1 1, 0⟩ := by decide +kernel

theorem row_moduleStateRequest : objRow Obj.moduleStateRequest =
    some ⟨0x520006, 0x520006, .enum, .wo, 1, 1, .codes 3, 0⟩ := by decide +kernel

theorem row_computeReset : objRow Obj.computeReset =
    some ⟨0x600002, 0x600002, .u8, .wo, 1, 1, .span 1 1 1, 0⟩ := by decide +kernel

theorem row_fullReset : objRow Obj.fullReset =
    some ⟨0x600003, 0x600003, .u8, .wo, 1, 1, .span 1 1 1, 0⟩ := by decide +kernel

theorem row_tier2Enable0 : objRow Obj.tier2Enable0 =
    some ⟨0x710001, 0x710002, .bool, .rw, 1, 1, .codes 2, 1⟩ := by decide +kernel

theorem row_tier2Enable1 : objRow Obj.tier2Enable1 =
    some ⟨0x710001, 0x710002, .bool, .rw, 1, 1, .codes 2, 1⟩ := by decide +kernel

theorem row_interfaceCounterClear : objRow Obj.interfaceCounterClear =
    some ⟨0x720008, 0x720008, .u8, .wo, 1, 1, .span 1 1 1, 0⟩ := by decide +kernel

theorem row_peerPortEnable : objRow Obj.peerPortEnable =
    some ⟨0x721001, 0x721012, .bool, .rw, 1, 1, .codes 2, 1⟩ := by decide +kernel

theorem row_updateBegin : objRow Obj.updateBegin =
    some ⟨0x800001, 0x800001, .u8, .wo, 1, 1, .span 0 3 1, 0⟩ := by decide +kernel

theorem row_updateData : objRow Obj.updateData =
    some ⟨0x800003, 0x800003, .blob, .wo, 4096, 4096, .any, 0⟩ := by decide +kernel

theorem row_updateVerify : objRow Obj.updateVerify =
    some ⟨0x800004, 0x800004, .u8, .wo, 1, 1, .span 1 1 1, 0⟩ := by decide +kernel

theorem row_updateCommit : objRow Obj.updateCommit =
    some ⟨0x800005, 0x800005, .u8, .wo, 1, 1, .span 1 2 1, 0⟩ := by decide +kernel

theorem row_updateAbort : objRow Obj.updateAbort =
    some ⟨0x800006, 0x800006, .u8, .wo, 1, 1, .span 1 1 1, 0⟩ := by decide +kernel

theorem row_updateConfirm : objRow Obj.updateConfirm =
    some ⟨0x80000F, 0x80000F, .u8, .wo, 1, 1, .span 1 1 1, 0⟩ := by decide +kernel

theorem row_boardCounterClear : objRow Obj.boardCounterClear =
    some ⟨0x900012, 0x900012, .u8, .wo, 1, 1, .span 1 1 1, 0⟩ := by decide +kernel

/-- The enable objects of the 18 peer ports share a row. -/
theorem row_peer (p : Nat) (h : p < 18) : objRow (Obj.peerPortEnable + p) =
    some ⟨0x721001, 0x721012, .bool, .rw, 1, 1, .codes 2, 1⟩ := by
  have : ∀ q : Fin 18, objRow (Obj.peerPortEnable + q.val) = some ⟨0x721001, 0x721012, .bool, .rw, 1, 1, .codes 2, 1⟩ := by decide +kernel
  exact this ⟨p, h⟩

/-! ### What a write to each of them does -/

/-- A status with rule number 0. -/
def plain (x : State × Nat) : State × Nat × Nat := (x.1, x.2, 0)

theorem write_leaseRequest (t : State) (sid : Nat) (v : Bytes) : t.writeValue sid
    ⟨0x110002, 0x110002, .u8, .wo, 1, 1, .span 0 1 1, 0⟩ Obj.leaseRequest v =
    plain (if leNat v = 1 then t.takeLease sid else t.giveLease sid) := rfl

theorem write_leaseBreak (t : State) (sid : Nat) (v : Bytes) : t.writeValue sid
    ⟨0x110005, 0x110005, .u8, .wo, 1, 1, .span 1 1 1, 0⟩ Obj.leaseBreak v =
    plain (t.breakLease sid) := rfl

theorem write_lockResponse (t : State) (sid : Nat) (v : Bytes) : t.writeValue sid
    ⟨0x110008, 0x110008, .blob, .wo, 132, 132, .any, 0⟩ Obj.lockResponse v =
    plain (t.tryResponse sid v) := rfl

theorem write_lockPassword (t : State) (sid : Nat) (v : Bytes) : t.writeValue sid
    ⟨0x110009, 0x110009, .str, .wo, 8, 64, .any, 0⟩ Obj.lockPassword v =
    plain (t.tryPassword sid v) := rfl

theorem write_lockClose (t : State) (sid : Nat) (v : Bytes) : t.writeValue sid
    ⟨0x11000A, 0x11000A, .u8, .wo, 1, 1, .span 1 1 1, 0⟩ Obj.lockClose v =
    plain (t.shutLock sid) := rfl

theorem write_stageDiscard (t : State) (sid : Nat) (v : Bytes) : t.writeValue sid
    ⟨0x120003, 0x120003, .u8, .wo, 1, 1, .span 1 1 1, 0⟩ Obj.stageDiscard v =
    plain ((t.discardStage, dOk)) := rfl

theorem write_settingsSave (t : State) (sid : Nat) (v : Bytes) : t.writeValue sid
    ⟨0x120009, 0x120009, .u8, .wo, 1, 1, .span 1 1 1, 0⟩ Obj.settingsSave v =
    plain ((t.saveSettings, dOk)) := rfl

theorem write_matrixCounterClear (t : State) (sid : Nat) (v : Bytes) : t.writeValue sid
    ⟨0x200008, 0x200008, .u8, .wo, 1, 1, .span 1 1 1, 0⟩ Obj.matrixCounterClear v =
    plain ((((t.clearCounters 0x200004 0x200007).clearCounters 0x201001 0x201040).clearCounters 0x201101 0x201106, dOk)) := rfl

theorem write_formatCounterClear (t : State) (sid : Nat) (v : Bytes) : t.writeValue sid
    ⟨0x21000E, 0x21000E, .u8, .wo, 1, 1, .span 1 1 1, 0⟩ Obj.formatCounterClear v =
    plain ((t.clearCounters 0x210009 0x21000D, dOk)) := rfl

theorem write_execCounterClear (t : State) (sid : Nat) (v : Bytes) : t.writeValue sid
    ⟨0x220009, 0x220009, .u8, .wo, 1, 1, .span 1 1 1, 0⟩ Obj.execCounterClear v =
    plain ((t.clearCounters 0x220005 0x220008, dOk)) := rfl

theorem write_feltFlush (t : State) (sid : Nat) (v : Bytes) : t.writeValue sid
    ⟨0x30000A, 0x30000A, .u8, .wo, 1, 1, .span 1 2 1, 0⟩ Obj.feltFlush v =
    plain (t.startFlush (leNat v)) := rfl

theorem write_feltCounterClear (t : State) (sid : Nat) (v : Bytes) : t.writeValue sid
    ⟨0x300019, 0x300019, .u8, .wo, 1, 1, .span 1 1 1, 0⟩ Obj.feltCounterClear v =
    plain ((t.clearCounters 0x30000C 0x300018, dOk)) := rfl

theorem write_tieringEnable (t : State) (sid : Nat) (v : Bytes) : t.writeValue sid
    ⟨0x310002, 0x310002, .bool, .rw, 1, 1, .codes 2, 1⟩ Obj.tieringEnable v =
    plain (t.funcWrite .tiering Obj.tieringEnable (leNat v == 1)) := rfl

theorem write_tierCounterClear (t : State) (sid : Nat) (v : Bytes) : t.writeValue sid
    ⟨0x310021, 0x310021, .u8, .wo, 1, 1, .span 1 1 1, 0⟩ Obj.tierCounterClear v =
    plain ((t.clearCounters 0x310018 0x310020, dOk)) := rfl

theorem write_bwCounterClear (t : State) (sid : Nat) (v : Bytes) : t.writeValue sid
    ⟨0x320005, 0x320005, .u8, .wo, 1, 1, .span 1 1 1, 0⟩ Obj.bwCounterClear v =
    plain ((t.clearBw, dOk)) := rfl

theorem write_schedPause (t : State) (sid : Nat) (v : Bytes) : t.writeValue sid
    ⟨0x330012, 0x330012, .u8, .wo, 1, 1, .span 1 1 1, 0⟩ Obj.schedPause v =
    plain ((t.pauseRequest, dOk)) := rfl

theorem write_schedResume (t : State) (sid : Nat) (v : Bytes) : t.writeValue sid
    ⟨0x330013, 0x330013, .u8, .wo, 1, 1, .span 1 1 1, 0⟩ Obj.schedResume v =
    plain (t.resumeRequest) := rfl

theorem write_schedCounterClear (t : State) (sid : Nat) (v : Bytes) : t.writeValue sid
    ⟨0x33001D, 0x33001D, .u8, .wo, 1, 1, .span 1 1 1, 0⟩ Obj.schedCounterClear v =
    plain (((t.clearCounters 0x330016 0x33001C).clearCounters 0x33001E 0x33001E, dOk)) := rfl

theorem write_resumeApply (t : State) (sid : Nat) (v : Bytes) : t.writeValue sid
    ⟨0x34000B, 0x34000B, .blob, .wo, 64, 64, .any, 0⟩ Obj.resumeApply v =
    plain (t.applyResume v) := rfl

theorem write_scrubEnable (t : State) (sid : Nat) (v : Bytes) : t.writeValue sid
    ⟨0x400001, 0x400001, .bool, .rw, 1, 1, .codes 2, 1⟩ Obj.scrubEnable v =
    plain (t.funcWrite .scrub Obj.scrubEnable (leNat v == 1)) := rfl

theorem write_errorLogAck (t : State) (sid : Nat) (v : Bytes) : t.writeValue sid
    ⟨0x400019, 0x400019, .u32, .rw, 4, 4, .any, 0⟩ Obj.errorLogAck v =
    plain ((t.ackLog (leNat v), dOk)) := rfl

theorem write_integrityCounterClear (t : State) (sid : Nat) (v : Bytes) : t.writeValue sid
    ⟨0x40001E, 0x40001E, .u8, .wo, 1, 1, .span 1 1 1, 0⟩ Obj.integrityCounterClear v =
    plain (((t.clearCounters 0x400005 0x400011).clearCounters 0x400014 0x400015, dOk)) := rfl

theorem write_powerCounterClear (t : State) (sid : Nat) (v : Bytes) : t.writeValue sid
    ⟨0x50001F, 0x50001F, .u8, .wo, 1, 1, .span 1 1 1, 0⟩ Obj.powerCounterClear v =
    plain ((t.clearCounters 0x50001C 0x50001E, dOk)) := rfl

theorem write_thermalAccept (t : State) (sid : Nat) (v : Bytes) : t.writeValue sid
    ⟨0x510004, 0x510004, .u8, .wo, 1, 1, .span 1 1 1, 0⟩ Obj.thermalAccept v =
    plain ((t.acceptThermal, dOk)) := rfl

theorem write_thermalCounterClear (t : State) (sid : Nat) (v : Bytes) : t.writeValue sid
    ⟨0x51000A, 0x51000A, .u8, .wo, 1, 1, .span 1 1 1, 0⟩ Obj.thermalCounterClear v =
    plain ((t.clearCounters 0x510007 0x510009, dOk)) := rfl

theorem write_moduleStateRequest (t : State) (sid : Nat) (v : Bytes) : t.writeValue sid
    ⟨0x520006, 0x520006, .enum, .wo, 1, 1, .codes 3, 0⟩ Obj.moduleStateRequest v =
    plain (t.requestState (leNat v)) := rfl

theorem write_computeReset (t : State) (sid : Nat) (v : Bytes) : t.writeValue sid
    ⟨0x600002, 0x600002, .u8, .wo, 1, 1, .span 1 1 1, 0⟩ Obj.computeReset v =
    plain (t.requestComputeReset) := rfl

theorem write_fullReset (t : State) (sid : Nat) (v : Bytes) : t.writeValue sid
    ⟨0x600003, 0x600003, .u8, .wo, 1, 1, .span 1 1 1, 0⟩ Obj.fullReset v =
    plain ((t.fullReset, dOk)) := rfl

theorem write_tier2Enable0 (t : State) (sid : Nat) (v : Bytes) : t.writeValue sid
    ⟨0x710001, 0x710002, .bool, .rw, 1, 1, .codes 2, 1⟩ Obj.tier2Enable0 v =
    plain (t.funcWrite (.tier2 0) Obj.tier2Enable0 (leNat v == 1)) := rfl

theorem write_tier2Enable1 (t : State) (sid : Nat) (v : Bytes) : t.writeValue sid
    ⟨0x710001, 0x710002, .bool, .rw, 1, 1, .codes 2, 1⟩ Obj.tier2Enable1 v =
    plain (t.funcWrite (.tier2 1) Obj.tier2Enable1 (leNat v == 1)) := rfl

theorem write_interfaceCounterClear (t : State) (sid : Nat) (v : Bytes) : t.writeValue sid
    ⟨0x720008, 0x720008, .u8, .wo, 1, 1, .span 1 1 1, 0⟩ Obj.interfaceCounterClear v =
    plain (((((t.clearCounters 0x700006 0x700006).clearCounters 0x710009 0x710009).clearCounters 0x720004 0x720007).clearCounters
      0x720009 0x720009, dOk)) := rfl

theorem write_updateBegin (t : State) (sid : Nat) (v : Bytes) : t.writeValue sid
    ⟨0x800001, 0x800001, .u8, .wo, 1, 1, .span 0 3 1, 0⟩ Obj.updateBegin v =
    plain (t.beginUpdate (leNat v)) := rfl

theorem write_updateData (t : State) (sid : Nat) (v : Bytes) : t.writeValue sid
    ⟨0x800003, 0x800003, .blob, .wo, 4096, 4096, .any, 0⟩ Obj.updateData v =
    plain (t.updateBytes v) := rfl

theorem write_updateVerify (t : State) (sid : Nat) (v : Bytes) : t.writeValue sid
    ⟨0x800004, 0x800004, .u8, .wo, 1, 1, .span 1 1 1, 0⟩ Obj.updateVerify v =
    plain (t.verifyUpdate) := rfl

theorem write_updateCommit (t : State) (sid : Nat) (v : Bytes) : t.writeValue sid
    ⟨0x800005, 0x800005, .u8, .wo, 1, 1, .span 1 2 1, 0⟩ Obj.updateCommit v =
    plain (t.commitUpdate (leNat v == 2)) := rfl

theorem write_updateAbort (t : State) (sid : Nat) (v : Bytes) : t.writeValue sid
    ⟨0x800006, 0x800006, .u8, .wo, 1, 1, .span 1 1 1, 0⟩ Obj.updateAbort v =
    plain (t.stopUpdate) := rfl

theorem write_updateConfirm (t : State) (sid : Nat) (v : Bytes) : t.writeValue sid
    ⟨0x80000F, 0x80000F, .u8, .wo, 1, 1, .span 1 1 1, 0⟩ Obj.updateConfirm v =
    plain (t.confirmAll) := rfl

theorem write_boardCounterClear (t : State) (sid : Nat) (v : Bytes) : t.writeValue sid
    ⟨0x900012, 0x900012, .u8, .wo, 1, 1, .span 1 1 1, 0⟩ Obj.boardCounterClear v =
    plain ((t.clearCounters 0x900010 0x900011, dOk)) := rfl

theorem write_commit (t : State) (sid : Nat) (v : Bytes) : t.writeValue sid
    ⟨0x120002, 0x120002, .u8, .wo, 1, 1, .span 1 1 1, 0⟩ Obj.commit v = t.commitNow sid := rfl

theorem write_ledgerEnable (t : State) (sid : Nat) (v : Bytes) : t.writeValue sid
    ⟨0x330006, 0x330006, .bool, .rw, 1, 1, .codes 2, 0⟩ Obj.ledgerEnable v =
    plain (t.ledgerWrite (leNat v == 1)) := rfl

theorem write_stepCounter (t : State) (sid : Nat) (v : Bytes) : t.writeValue sid
    ⟨0x340006, 0x340006, .u64, .rwi, 8, 8, .any, 0⟩ Obj.stepCounter v =
    if t.computeIdle then plain (({ t with det := { t.det with step := BitVec.ofNat 64 (leNat v) } }, dOk))
      else (t, dBusy, 0) := by
  cases h : t.computeIdle <;> cases he : t.ledger.enable <;> simp only [State.writeValue, h, he] <;> rfl

theorem write_rngProbeInput (t : State) (sid : Nat) (v : Bytes) : t.writeValue sid
    ⟨0x34000D, 0x34000D, .blob, .rw, 24, 24, .any, 0⟩ Obj.rngProbeInput v =
    plain (({ t with det := { t.det with probe := v } }, dOk)) := rfl

theorem write_peer (t : State) (sid p : Nat) (h : p < 18) (v : Bytes) : t.writeValue sid
    ⟨0x721001, 0x721012, .bool, .rw, 1, 1, .codes 2, 1⟩ (Obj.peerPortEnable + p) v =
    plain (t.funcWrite (.peer p) (Obj.peerPortEnable + p) (leNat v == 1)) := by
  have e : funcOf (Obj.peerPortEnable + p) = some (.peer p) := by
    have : ∀ q : Fin 18, funcOf (Obj.peerPortEnable + q.val) = some (.peer q.val) := by decide +kernel
    exact this ⟨p, h⟩
  simp [State.writeValue, State.writeNow, e, plain]

end Sys2Proof.Laws
end

