-- ==== Sys2Proof/Laws/Dictionary.lean ====
section
/-! SUPPORT. What a write to the dictionary does, said once: `dictPut` of a value that its object admits, from a session that may
write it, is the object's own action between the record of the request and the answer. -/

set_option Elab.async false
set_option linter.all false

namespace Sys2Proof.Laws

open Sys2Proof Sys2Proof.Machine

/-- A state with a request recorded: DICT_REQ of the host session, and the session's partial write gone. -/
def asked (s : State) (sid key : Nat) (v : Bytes) : State :=
  { s with dict := { s.dict with
    req := if sid = 1 then
        { op := 1, more := false, index := key / 256, sub := key % 256, offset := 0, length := v.length % 512 }
      else s.dict.req
    buffer := if sid = 1 then s.fillBuffer v else s.dict.buffer
    parts := NMap.del s.dict.parts sid } }

/-- The answer to a write. -/
def answerOf (t : State) (sid key st rule : Nat) : DictResp :=
  { sid := sid, status := st, rule := rule, total := t.totalOf sid key, data := [] }

/-- What the lock answers of itself is what the object's own action would answer. -/
theorem writeValue_lockAnswer (u : State) (sid key : Nat) (v : Bytes) (r : ObjRow) (hr : objRow key = some r) (st : Nat)
    (h : u.lockAnswer sid key = some st) : u.writeValue sid r key v = (u, st, 0) := by
  unfold State.lockAnswer at h
  split at h
  · rename_i hk
    have hw : r.acc = .wo ∧ (key = Obj.lockPassword ∨ key = Obj.lockResponse) := by
      simp only [Bool.or_eq_true, decide_eq_true_eq] at hk
      rcases hk with hk | hk <;> subst hk <;> cases hr <;> exact ⟨rfl, by simp⟩
    have hc : key ≠ Obj.commit ∧ key ≠ Obj.leaseRequest ∧ key ≠ Obj.leaseBreak := by
      rcases hw.2 with e | e <;> subst e <;> decide
    unfold State.writeValue
    rw [hw.1]
    simp only [hc.1, if_false, State.trigger, hc.2.1, hc.2.2]
    rcases hw.2 with e | e
    · subst e
      rw [if_neg (by decide), if_pos rfl]
      unfold State.tryPassword
      cases hg : u.lockGate sid with
      | some x => simp only [hg, Option.some.injEq] at h; simp [h]
      | none =>
        simp only [hg] at h
        split at h
        · rename_i hx
          simp only [decide_true, Bool.true_and] at hx
          cases h
          simp [hx]
        · cases h
    · subst e
      rw [if_pos rfl]
      unfold State.tryResponse
      cases hg : u.lockGate sid with
      | some x => simp only [hg, Option.some.injEq] at h; simp [h]
      | none =>
        simp only [hg] at h
        split at h
        · rename_i hx
          revert hx
          simp [Obj.lockResponse, Obj.lockPassword]
        · cases h
  · cases h

/-- The checks of a whole write, passed. -/
theorem serveWrite_ok (u : State) (sid key : Nat) (v : Bytes) (r : ObjRow) (p : Option PartialWrite) (hr : objRow key = some r)
    (ha : r.acc ≠ .ro) (hl : leaseFree key = true ∨ u.dict.lease = some sid) (hv : valueOk r v = true)
    (hg : u.rangeOk r key v = true) : u.serveWrite sid r key 0 false v p = u.writeValue sid r key v := by
  have hlease : ¬ (!leaseFree key && decide (u.dict.lease ≠ some sid)) = true := by
    rcases hl with hl | hl <;> simp [hl]
  have hf : u.valueFault r key v = none := by simp [State.valueFault, hv, hg]
  simp only [State.serveWrite, ha, if_false, hlease, if_true, State.writeWhole, hf]
  cases hk : u.lockAnswer sid key with
  | none => simp
  | some st => exact (writeValue_lockAnswer u sid key v r hr st hk).symm

/-- A request served up to the object's own part. -/
theorem dictServe_ok (u : State) (sid key : Nat) (v : Bytes) (r : ObjRow) (hu : u.served 1 (key / 256) key = true)
    (hs : key % 256 ≠ 0) (hr : objRow key = some r) (ha : r.acc ≠ .ro) (hl : leaseFree key = true ∨ u.dict.lease = some sid)
    (hn : v.isEmpty = false) (hv : valueOk r v = true) (hg : u.rangeOk r key v = true) (U : State)
    (hU : U = { u with dict := { u.dict with parts := NMap.del u.dict.parts sid } }) :
    u.dictServe sid 1 (key / 256) (key % 256) 0 false false v =
      ((U.writeValue sid r key v).1,
        answerOf (U.writeValue sid r key v).1 sid key (U.writeValue sid r key v).2.1 (U.writeValue sid r key v).2.2) := by
  have hk : key / 256 * 256 + key % 256 = key := by omega
  have h1 : U.served 1 (key / 256) key = true := by rw [hU]; exact hu
  have h2 : U.rangeOk r key v = true := by rw [hU]; exact hg
  have h3 : leaseFree key = true ∨ U.dict.lease = some sid := by rw [hU]; exact hl
  unfold State.dictServe
  rw [← hU]
  simp only [hk, h1, hs, hr, serveWrite_ok U sid key v r _ hr ha h3 hv h2, hn]
  rfl

/-- A write that passes every check before the object's own. -/
theorem dictPut_served (s : State) (sid key : Nat) (v : Bytes) (r : ObjRow) (ho : s.serves 1 sid key = true)
    (hs : key % 256 ≠ 0) (hr : objRow key = some r) (ha : r.acc ≠ .ro) (hl : leaseFree key = true ∨ s.dict.lease = some sid)
    (hn : v.isEmpty = false) (hv : valueOk r v = true) (hg : s.rangeOk r key v = true) :
    s.dictPut sid key v =
      (((asked s sid key v).writeValue sid r key v).1).respond
        (answerOf ((asked s sid key v).writeValue sid r key v).1 sid key ((asked s sid key v).writeValue sid r key v).2.1
          ((asked s sid key v).writeValue sid r key v).2.2) := by
  simp only [State.serves, Bool.and_eq_true] at ho
  unfold State.dictPut State.dictRequest
  rw [ho.1]
  by_cases h1 : sid = 1
  · subst h1
    simp only [Bool.not_true, Bool.false_eq_true, if_false, if_true]
    have e := dictServe_ok ({ s with dict := { s.dict with
      req := { op := 1, more := false, index := key / 256, sub := key % 256, offset := 0, length := v.length % 512 }
      buffer := s.fillBuffer v } } : State)
      1 key v r ho.2 hs hr ha hl hn hv hg (asked s 1 key v) rfl
    rw [e]
  · simp only [Bool.not_true, Bool.false_eq_true, if_false, h1]
    rw [dictServe_ok _ sid key v r ho.2 hs hr ha hl hn hv hg (asked s sid key v) (by simp only [asked, h1, if_false])]

/-- The answer reaches a session that exists. -/
theorem answer_respond (t : State) (r : DictResp) (h : t.sessionOpen r.sid = true) : (t.respond r).lastAnswer r.sid = some r := by
  unfold State.respond State.lastAnswer
  rw [h]
  by_cases h1 : r.sid = 1
  · simp [h1]
  · simp [h1]

/-! ### Frames of writes to one object -/

theorem respond_frame {fl : List Facet} {s₀ : State} (hb : subL [.window, .sessions] fl = true) (t : State) (r : DictResp)
    (h : SameBut fl s₀ t) : SameBut fl s₀ (t.respond r) :=
  State_respond_same (subL_trans rfl hb) t r h

/-- A whole value: the object's own action, or a status for it, which is drawn where two may be returned. -/
theorem writeWhole_frame {fl : List Facet} {s₀ : State} (sid key : Nat) (v : Bytes) (r : ObjRow)
    (hd : subL [.draws] fl = true ∨ ∀ t : State, t.valueFault r key v = none ∨ t.closedTo sid r key = none) (u : State)
    (h : SameBut fl s₀ u) (hw : SameBut fl s₀ (u.writeValue sid r key v).1) : SameBut fl s₀ (u.writeWhole sid r key v).1 := by
  unfold State.writeWhole
  split
  · exact hw
  · exact h
  · rename_i a b ha hb
    rcases hd with hd | hd
    · exact State_drawn_same (subL_trans rfl hd) u h
    · rcases hd u with hd | hd
      · rw [ha] at hd; cases hd
      · rw [hb] at hd; cases hd

/-- A write served, without the answer. -/
theorem dictServe_frame {fl : List Facet} {s₀ : State} (hb : subL [.window, .sessions] fl = true) (u : State) (sid key : Nat)
    (v : Bytes) (r : ObjRow) (hr : objRow key = some r) (hs : key % 256 ≠ 0)
    (hd : subL [.draws] fl = true ∨ ∀ t : State, t.valueFault r key v = none ∨ t.closedTo sid r key = none) (h : SameBut fl s₀ u)
    (hw : ∀ t, SameBut fl s₀ t → SameBut fl s₀ (t.writeValue sid r key v).1) :
    SameBut fl s₀ (u.dictServe sid 1 (key / 256) (key % 256) 0 false false v).1 := by
  have hk : key / 256 * 256 + key % 256 = key := by omega
  have kd : subL [.sessions] fl = true := subL_trans rfl hb
  have hU : SameBut fl s₀ ({ u with dict := { u.dict with parts := NMap.del u.dict.parts sid } } : State) := by
    simp -zeta only [frame_mk]
    exact frame_lit [.sessions] h kd ⟨.inr rfl, .inr rfl, .inr rfl, .inr rfl, .inl rfl, .inr rfl, .inr rfl, .inr rfl, .inr rfl, .inr rfl, .inr rfl, .inr rfl, .inr rfl, .inr rfl, .inr rfl, .inr rfl, .inr rfl, .inr rfl, .inr rfl, .inr rfl, .inr rfl, .inr rfl, .inr rfl, .inr rfl, .inr rfl, .inr rfl, .inr rfl, .inr rfl, .inr rfl, .inr rfl, .inr rfl⟩
  unfold State.dictServe
  simp only [hk, hr, hs, if_false, if_true]
  generalize ({ u with dict := { u.dict with parts := NMap.del u.dict.parts sid } } : State) = U at hU ⊢
  split
  · exact hU
  · split
    · exact hU
    · have hsw : SameBut fl s₀ (U.serveWrite sid r key 0 false v (NMap.look u.dict.parts sid)).1 := by
        unfold State.serveWrite
        simp only [if_true, if_false, Bool.false_eq_true]
        repeat' first
          | exact hU
          | exact writeWhole_frame sid key v r hd U hU (hw U hU)
          | with_reducible refine SameBut.ite_fst ?_ ?_
          | split
      exact hsw

/-- A row that writes one object changes what the object's own action changes, and the answer and the session's partial write. -/
theorem dictPut_frame {fl : List Facet} {s₀ : State} (hb : subL [.window, .sessions] fl = true) (s : State) (sid key : Nat)
    (v : Bytes) (r : ObjRow) (hr : objRow key = some r) (hs : key % 256 ≠ 0)
    (hd : subL [.draws] fl = true ∨ ∀ t : State, t.valueFault r key v = none ∨ t.closedTo sid r key = none) (h : SameBut fl s₀ s)
    (hw : ∀ t, SameBut fl s₀ t → SameBut fl s₀ (t.writeValue sid r key v).1) : SameBut fl s₀ (s.dictPut sid key v) := by
  unfold State.dictPut State.dictRequest
  split
  · exact h
  · refine respond_frame hb _ _ (dictServe_frame hb _ sid key v r hr hs hd ?_ hw)
    split
    · simp -zeta only [frame_mk]
      exact frame_lit [.window] h (subL_trans rfl hb) ⟨.inr rfl, .inr rfl, .inr rfl, .inl rfl, .inr rfl, .inr rfl, .inr rfl, .inr rfl, .inr rfl, .inr rfl, .inr rfl, .inr rfl, .inr rfl, .inr rfl, .inr rfl, .inr rfl, .inr rfl, .inr rfl, .inr rfl, .inr rfl, .inr rfl, .inr rfl, .inr rfl, .inr rfl, .inr rfl, .inr rfl, .inr rfl, .inr rfl, .inr rfl, .inr rfl, .inr rfl⟩
    · exact h

/-- A write to an object that does not exist changes nothing but the answer and the session's partial write. -/
theorem dictPut_absent {fl : List Facet} {s₀ : State} (hb : subL [.window, .sessions] fl = true) (s : State) (sid key : Nat)
    (v : Bytes) (hr : objRow key = none) (hs : key % 256 ≠ 0) (h : SameBut fl s₀ s) : SameBut fl s₀ (s.dictPut sid key v) := by
  have hk : key / 256 * 256 + key % 256 = key := by omega
  have step : ∀ u : State, SameBut fl s₀ u →
      SameBut fl s₀ (u.dictServe sid 1 (key / 256) (key % 256) 0 false false v).1 := by
    intro u hu
    have hU : SameBut fl s₀ ({ u with dict := { u.dict with parts := NMap.del u.dict.parts sid } } : State) := by
      simp -zeta only [frame_mk]
      exact frame_lit [.sessions] hu (subL_trans rfl hb) ⟨.inr rfl, .inr rfl, .inr rfl, .inr rfl, .inl rfl, .inr rfl, .inr rfl, .inr rfl, .inr rfl, .inr rfl, .inr rfl, .inr rfl, .inr rfl, .inr rfl, .inr rfl, .inr rfl, .inr rfl, .inr rfl, .inr rfl, .inr rfl, .inr rfl, .inr rfl, .inr rfl, .inr rfl, .inr rfl, .inr rfl, .inr rfl, .inr rfl, .inr rfl, .inr rfl, .inr rfl⟩
    unfold State.dictServe
    simp only [hk, hr, hs, if_false]
    split
    · exact hU
    · split <;> exact hU
  unfold State.dictPut State.dictRequest
  split
  · exact h
  · refine respond_frame hb _ _ (step _ ?_)
    split
    · simp -zeta only [frame_mk]
      exact frame_lit [.window] h (subL_trans rfl hb) ⟨.inr rfl, .inr rfl, .inr rfl, .inl rfl, .inr rfl, .inr rfl, .inr rfl, .inr rfl, .inr rfl, .inr rfl, .inr rfl, .inr rfl, .inr rfl, .inr rfl, .inr rfl, .inr rfl, .inr rfl, .inr rfl, .inr rfl, .inr rfl, .inr rfl, .inr rfl, .inr rfl, .inr rfl, .inr rfl, .inr rfl, .inr rfl, .inr rfl, .inr rfl, .inr rfl, .inr rfl⟩
    · exact h

/-! ### Frames of reads -/

/-- A request that is no WRITE: a READ may issue a nonce and draw a free value, a READ_STAGED changes nothing of its own. -/
theorem dictRequest_read {fl : List Facet} {s₀ : State} (hb : subL [.window, .sessions] fl = true) (s : State)
    (sid op index sub offset : Nat) (more piece : Bool) (data : Bytes) (h1 : op ≠ 1) (h : SameBut fl s₀ s)
    (hr : op = 2 ∨ ∀ t r, SameBut fl s₀ t → SameBut fl s₀ (t.serveRead sid r (index * 256 + sub)).1) :
    SameBut fl s₀ (s.dictRequest sid op index sub offset more piece data) := by
  have step : ∀ u : State, SameBut fl s₀ u → SameBut fl s₀ (u.dictServe sid op index sub offset more piece data).1 := by
    intro u hu
    have hU : SameBut fl s₀ ({ u with dict := { u.dict with parts := NMap.del u.dict.parts sid } } : State) := by
      simp -zeta only [frame_mk]
      exact frame_lit [.sessions] hu (subL_trans rfl hb) ⟨.inr rfl, .inr rfl, .inr rfl, .inr rfl, .inl rfl, .inr rfl, .inr rfl, .inr rfl, .inr rfl, .inr rfl, .inr rfl, .inr rfl, .inr rfl, .inr rfl, .inr rfl, .inr rfl, .inr rfl, .inr rfl, .inr rfl, .inr rfl, .inr rfl, .inr rfl, .inr rfl, .inr rfl, .inr rfl, .inr rfl, .inr rfl, .inr rfl, .inr rfl, .inr rfl, .inr rfl⟩
    unfold State.dictServe
    extract_lets +onlyGivenNames k p d U no
    have hU' : SameBut fl s₀ U := hU
    clear_value U
    repeat' first
      | exact hU'
      | exact absurd ‹op = 1› h1
      | split
    rcases hr with hr | hr
    · exact absurd hr ‹¬op = 2›
    · exact pair_same ‹_ = (_, _)› (hr U _ hU')
  unfold State.dictRequest
  split
  · exact h
  · refine respond_frame hb _ _ (step _ ?_)
    split
    · simp -zeta only [frame_mk]
      exact frame_lit [.window] h (subL_trans rfl hb) ⟨.inr rfl, .inr rfl, .inr rfl, .inl rfl, .inr rfl, .inr rfl, .inr rfl, .inr rfl, .inr rfl, .inr rfl, .inr rfl, .inr rfl, .inr rfl, .inr rfl, .inr rfl, .inr rfl, .inr rfl, .inr rfl, .inr rfl, .inr rfl, .inr rfl, .inr rfl, .inr rfl, .inr rfl, .inr rfl, .inr rfl, .inr rfl, .inr rfl, .inr rfl, .inr rfl, .inr rfl⟩
    · exact h

end Sys2Proof.Laws
end

