-- ==== Sys2Proof/Laws/FrameFlags.lean ====
section
/-! SUPPORT. What the operations of Machine/Flags.lean leave unchanged (`SameBut`): one lemma for each. -/

set_option Elab.async false
set_option linter.all false

namespace Sys2Proof.Laws

open Sys2Proof Sys2Proof.Machine

theorem State_idle_same {fl : List Facet} {s₀ : State} (hl : subL ps23 fl = true) (a0 : State) (h0 : SameBut fl s₀ a0) :
    SameBut fl s₀ (State.idle a0) := by
  unfold State.idle
  repeat' first
    | with_reducible assumption
    | with_reducible apply State_advance_same hl
    | split

end Sys2Proof.Laws
end

