-- ==== Sys2Proof/Laws/State.lean ====
section
/-! SUPPORT. Laws of the sparse stores of the state and of the named updates: what a store holds after a change, and what a
changed tile, block or group reads as. -/

set_option Elab.async false
set_option linter.all false

namespace Sys2Proof.Laws

open Sys2Proof Sys2Proof.Machine

/-! ### Number maps -/

@[simp] theorem look_nil {α : Type} (k : Nat) : NMap.look ([] : NMap α) k = none := rfl

@[simp] theorem look_put_same {α : Type} (m : NMap α) (k : Nat) (v : α) : NMap.look (NMap.put m k v) k = some v := by
  induction m with
  | nil => simp [NMap.put, NMap.look]
  | cons e m ih =>
    obtain ⟨j, w⟩ := e
    unfold NMap.put
    split
    · simp [NMap.look]
    · split
      · simp [NMap.look]
      · rename_i h
        simp [NMap.look, h, ih]

theorem look_put_other {α : Type} (m : NMap α) (k j : Nat) (v : α) (h : j ≠ k) :
    NMap.look (NMap.put m k v) j = NMap.look m j := by
  induction m with
  | nil => simp [NMap.put, NMap.look, Ne.symm h]
  | cons e m ih =>
    obtain ⟨i, w⟩ := e
    unfold NMap.put
    split
    · simp [NMap.look, Ne.symm h]
    · split
      · rename_i hi
        simp [NMap.look, Ne.symm h, hi]
      · simp only [NMap.look, ih]

@[simp] theorem lookD_put_same {α : Type} (m : NMap α) (k : Nat) (v d : α) : NMap.lookD (NMap.put m k v) k d = v := by
  simp [NMap.lookD]

theorem lookD_put_other {α : Type} (m : NMap α) (k j : Nat) (v d : α) (h : j ≠ k) :
    NMap.lookD (NMap.put m k v) j d = NMap.lookD m j d := by
  simp [NMap.lookD, look_put_other m k j v h]

theorem look_filter {α : Type} (m : NMap α) (p : Nat → Bool) (k : Nat) (h : p k = true) :
    NMap.look (m.filter fun e => p e.1) k = NMap.look m k := by
  induction m with
  | nil => rfl
  | cons e m ih =>
    obtain ⟨j, w⟩ := e
    simp only [List.filter_cons]
    by_cases hj : j = k
    · subst hj
      simp [h, NMap.look]
    · cases hp : p j <;> simp [NMap.look, hj, ih]

theorem look_filter_out {α : Type} (m : NMap α) (p : Nat → Bool) (k : Nat) (h : p k = false) :
    NMap.look (m.filter fun e => p e.1) k = none := by
  induction m with
  | nil => rfl
  | cons e m ih =>
    obtain ⟨j, w⟩ := e
    simp only [List.filter_cons]
    by_cases hj : j = k
    · subst hj
      simp [h, ih]
    · cases hp : p j <;> simp [NMap.look, hj, ih]

@[simp] theorem look_del_same {α : Type} (m : NMap α) (k : Nat) : NMap.look (NMap.del m k) k = none :=
  look_filter_out m (fun j => !(j == k)) k (by simp)

theorem look_del_other {α : Type} (m : NMap α) (k j : Nat) (h : j ≠ k) : NMap.look (NMap.del m k) j = NMap.look m j :=
  look_filter m (fun i => !(i == k)) j (by simp [h])

theorem look_delRange_in {α : Type} (m : NMap α) (a b k : Nat) (h : a ≤ k) (h' : k < b) :
    NMap.look (NMap.delRange m a b) k = none :=
  look_filter_out m (fun i => decide (i < a) || decide (b ≤ i)) k (by simp; omega)

theorem look_delRange_out {α : Type} (m : NMap α) (a b k : Nat) (h : k < a ∨ b ≤ k) :
    NMap.look (NMap.delRange m a b) k = NMap.look m k :=
  look_filter m (fun i => decide (i < a) || decide (b ≤ i)) k (by simpa using h)

/-! ### Tiles, blocks and groups -/

@[simp] theorem tile_setTile (s : State) (n : Nat) (t : Tile) : (s.setTile n t).tile n = t := by
  simp [State.setTile, State.tile]

@[simp] theorem tile_adjTile (s : State) (n : Nat) (f : Tile → Tile) : (s.adjTile n f).tile n = f (s.tile n) := by
  simp [State.adjTile]

theorem tile_adjTile_other (s : State) (n m : Nat) (f : Tile → Tile) (h : m ≠ n) : (s.adjTile n f).tile m = s.tile m := by
  simp [State.adjTile, State.setTile, State.tile, lookD_put_other _ _ _ _ _ h]

theorem find_map_slot (l : List Block) (slot : Nat) (f : Block → Block) (h : ∀ b, (f b).slot = b.slot) :
    (l.map fun b => if b.slot = slot then f b else b).find? (fun b => b.slot == slot) =
      (l.find? fun b => b.slot == slot).map f := by
  induction l with
  | nil => rfl
  | cons b l ih =>
    by_cases hb : b.slot = slot
    · simp [List.find?_cons, hb, h]
    · simp [List.find?_cons, hb, ih]

/-- A changed block, read back. -/
theorem block_adjBlock (s : State) (tile slot : Nat) (f : Block → Block) (h : ∀ b, (f b).slot = b.slot) :
    (s.adjBlock tile slot f).block tile slot = (s.block tile slot).map f := by
  simp [State.adjBlock, State.block, find_map_slot _ _ _ h]

@[simp] theorem adjAt_getElem? {α : Type} (l : List α) (k : Nat) (f : α → α) : (adjAt l k f)[k]? = l[k]?.map f := by
  induction l generalizing k with
  | nil => simp [adjAt]
  | cons x l ih => cases k <;> simp [adjAt, ih]

theorem adjAt_getElem?_other {α : Type} (l : List α) (k j : Nat) (f : α → α) (h : j ≠ k) : (adjAt l k f)[j]? = l[j]? := by
  induction l generalizing k j with
  | nil => simp [adjAt]
  | cons x l ih =>
    cases k with
    | zero => cases j with
      | zero => exact absurd rfl h
      | succ j => simp [adjAt]
    | succ k => cases j with
      | zero => simp [adjAt]
      | succ j => simp [adjAt, ih k j (by omega)]

/-- A changed group, read back. -/
theorem group_adjGroup (s : State) (g : GroupRef) (f : Group → Group) : (s.adjGroup g f).group g = (s.group g).map f := by
  unfold State.adjGroup State.group
  rw [block_adjBlock s g.tile g.slot (fun b => { b with groups := adjAt b.groups g.group f }) (fun _ => rfl)]
  cases s.block g.tile g.slot <;> simp

/-! ### Registers -/

@[simp] theorem reg_setReg_same (g : Group) (lane r : Nat) (v : RegVal) : (g.setReg lane r v).reg lane r = v := by
  unfold Group.setReg Group.reg
  split
  · rename_i h
    simp only [Bool.and_eq_true, Option.isNone_iff_eq_none, decide_eq_true_eq] at h
    cases v
    simp_all [NMap.lookD]
  · simp

theorem reg_setReg_other (g : Group) (lane r lane' r' : Nat) (v : RegVal) (h : lane' * 256 + r' ≠ lane * 256 + r) :
    (g.setReg lane r v).reg lane' r' = g.reg lane' r' := by
  unfold Group.setReg Group.reg
  split
  · simp [NMap.lookD, look_del_other _ _ _ h]
  · simp [lookD_put_other _ _ _ _ _ h]

@[simp] theorem reg_settled (g : Group) (lane r : Nat) : g.settled.reg lane r = g.reg lane r := rfl

@[simp] theorem reg_advance (g : Group) (lane r : Nat) : g.advance.reg lane r = g.reg lane r := by
  unfold Group.advance Group.adjRunning
  split <;> rfl

/-- A register written in each lane of a list of distinct lanes: the value of the lane where the list has it. -/
theorem reg_foldl_setReg (l : List Nat) (r : Nat) (v : Nat → RegVal) (g : Group) (lane : Nat) (hr : r < 256) :
    (l.foldl (fun (y : Group) k => y.setReg k r (v k)) g).reg lane r = if lane ∈ l then v lane else g.reg lane r := by
  induction l generalizing g with
  | nil => simp
  | cons k l ih =>
    simp only [List.foldl_cons, ih, List.mem_cons]
    by_cases hk : lane = k
    · subst hk
      by_cases hm : lane ∈ l <;> simp [hm]
    · by_cases hm : lane ∈ l
      · simp [hm]
      · simp [hm, hk, reg_setReg_other g k r lane r (v k) (by omega)]

/-- The other registers stay. -/
theorem reg_foldl_setReg_other (l : List Nat) (r r' : Nat) (v : Nat → RegVal) (g : Group) (lane : Nat) (hr : r < 256)
    (hr' : r' < 256) (h : r' ≠ r) :
    (l.foldl (fun (y : Group) k => y.setReg k r (v k)) g).reg lane r' = g.reg lane r' := by
  induction l generalizing g with
  | nil => rfl
  | cons k l ih =>
    simp only [List.foldl_cons, ih]
    exact reg_setReg_other g k r lane r' (v k) (by omega)

end Sys2Proof.Laws
end

