-- ==== Sys2Proof/Laws/Threads.lean ====
section
/-! SUPPORT. What an instruction does where its group can issue it, and the checks it has passed. -/

set_option Elab.async false
set_option linter.all false

namespace Sys2Proof.Laws

open Sys2Proof Sys2Proof.Machine

/-- Where the group can issue, the instruction's own effect happens. -/
theorem issue_ok {s : State} {g : GroupRef} {b : Block} {gr : Group} {p : Path} (h : s.Issues g b gr p)
    (k : Block → Group → Path → State) : s.issue g k = k b gr p := by
  unfold State.issue
  simp [h.block, h.alive, h.here, h.clock, h.group, h.loads, h.running, h.fetch]

theorem group_of {s : State} {g : GroupRef} {b : Block} {gr : Group} {p : Path} (h : s.Issues g b gr p) :
    s.group g = some gr := by
  simp [State.group, h.block, h.group]

/-- The register checks, passed. -/
theorem checked_ok {s : State} (g : GroupRef) (b : Block) (gr : Group) (lanes regs ctl : List Nat) (k : State)
    (hr : ∀ r ∈ regs, r < b.nregs) (hc : ∀ l ∈ lanes, gr.poisonedReg l ctl = none) :
    s.checked g b gr lanes regs ctl k = k := by
  unfold State.checked
  have h1 : (regs.any fun r => decide (b.nregs ≤ r)) = false := by
    simp only [List.any_eq_false, decide_eq_true_eq, Nat.not_le]
    exact hr
  have h2 : (lanes.findSome? fun l => (gr.poisonedReg l ctl).map fun r => (l, r)) = none := by
    simp only [List.findSome?_eq_none_iff, Option.map_eq_none_iff]
    exact hc
  rw [h1, h2]
  rfl

theorem checkedWord_ok {s : State} (g : GroupRef) (b : Block) (gr : Group) (w : W64) (ok : Bool) (lanes regs ctl : List Nat)
    (k : State) (ho : ok = true) (hr : ∀ r ∈ regs, r < b.nregs) (hc : ∀ l ∈ lanes, gr.poisonedReg l ctl = none) :
    s.checkedWord g b gr w ok lanes regs ctl k = k := by
  unfold State.checkedWord
  have h1 : (regs.any fun r => decide (b.nregs ≤ r)) = false := by
    simp only [List.any_eq_false, decide_eq_true_eq, Nat.not_le]
    exact hr
  have h2 : (lanes.findSome? fun l => (gr.poisonedReg l ctl).map fun r => (l, r)) = none := by
    simp only [List.findSome?_eq_none_iff, Option.map_eq_none_iff]
    exact hc
  rw [ho, h1, h2]
  rfl

end Sys2Proof.Laws
end

