-- ==== Sys2Proof/Laws/FactsRequests.lean ====
section
/-! SUPPORT. Facts about the dictionary's requests: what a served write or read does and answers, commits, and counter clears: what the shared operations do, for the provers to cite. -/

set_option Elab.async false
set_option linter.all false

namespace Sys2Proof.Laws

open Sys2Proof Sys2Proof.Machine

theorem next_inj {a b : State} (h : (Host.Outcome.next a : Out) = .next b) : a = b := by injection h

theorem respond_same (t : State) (r : DictResp) : SameBut [.window] t (t.respond r) := State_respond_same rfl t r (SameBut.refl _ _)

theorem asked_same (s : State) (sid key : Nat) (v : Bytes) : SameBut [.window, .sessions] s (asked s sid key v) := by
  unfold asked
  simp -zeta only [frame_mk]
  exact frame_lit [.window, .sessions] (SameBut.refl _ _) rfl ⟨.inr rfl, .inr rfl, .inr rfl, .inl rfl, .inl rfl, .inr rfl, .inr rfl, .inr rfl, .inr rfl, .inr rfl, .inr rfl, .inr rfl, .inr rfl, .inr rfl, .inr rfl, .inr rfl, .inr rfl, .inr rfl, .inr rfl, .inr rfl, .inr rfl, .inr rfl, .inr rfl, .inr rfl, .inr rfl, .inr rfl, .inr rfl, .inr rfl, .inr rfl, .inr rfl, .inr rfl⟩

theorem row_muslinEnable : ∃ r, objRow Obj.muslinEnable = some r ∧ (r.first / 0x1000 = 0x321) = False ∧ (r.first / 0x1000 = 0x322) = False := by
  refine ⟨(objRow Obj.muslinEnable).get (by decide +kernel), ?_, ?_, ?_⟩
  · simp
  · simp; decide +kernel
  · simp; decide +kernel

theorem muslinOn_of {s t : State} (h : t.boot.powered = s.boot.powered) (h1 : t.dict.values = s.dict.values) : t.muslinOn = s.muslinOn := by
  obtain ⟨r, hr, ha, hb⟩ := row_muslinEnable
  unfold State.muslinOn State.isOn State.num State.value State.defaultOf
  rw [h, h1, hr]
  simp only [ha, hb, if_false]
  have : (Obj.muslinEnable = Obj.tileMaxPerKernel) = False := by decide
  simp only [this, if_false]

theorem open_of {s t : State} (sid : Nat) (h : t.boot.powered = s.boot.powered) (h1 : t.dict.hostOpen = s.dict.hostOpen)
   (h2 : NMap.has t.dict.sessions sid = NMap.has s.dict.sessions sid) (h3 : t.iface.hostLink = s.iface.hostLink) (h4 : t.dict.values = s.dict.values) :
    t.sessionOpen sid = s.sessionOpen sid := by
  unfold State.sessionOpen; rw [h, h1, h2, h3, muslinOn_of h h4]

theorem asked_open (s : State) (sid key : Nat) (v : Bytes) (n : Nat) : (asked s sid key v).sessionOpen n = s.sessionOpen n :=
  open_of n rfl rfl rfl rfl rfl

theorem sameOpen {l : List Facet} {s t : State} (h : SameBut l s t) (hl : ([.settings, .sessions, .boot, .iface] : List Facet).all (fun p => !l.contains p) = true) (sid : Nat) :
    t.sessionOpen sid = s.sessionOpen sid := by
  simp only [List.all_cons, List.all_nil, Bool.and_eq_true, Bool.not_eq_true', List.contains_eq_mem, decide_eq_false_iff_not, and_true] at hl
  have h2 := h .sessions hl.2.1
  have h3 := h .boot hl.2.2.1
  have h4 := h .iface hl.2.2.2
  have h5 := h .settings hl.1
  simp only [Facet.same, Prod.mk.injEq] at h2 h3 h4 h5
  exact open_of sid (by rw [h3]) h2.2.1 (by rw [h2.2.2]) (by rw [h4]) h5

/-- A served write. -/
structure Put (s : State) (sid key : Nat) (v : Bytes) (r : ObjRow) : Prop where
  serves : s.serves 1 sid key = true
  sub : key % 256 ≠ 0
  row : objRow key = some r
  acc : r.acc ≠ .ro
  lease : leaseFree key = true ∨ s.dict.lease = some sid
  ne : v.isEmpty = false
  ok : valueOk r v = true
  range : s.rangeOk r key v = true

theorem Put.eq {s sid key v r} (h : Put s sid key v r) {X : State × Nat × Nat} (hX : (asked s sid key v).writeValue sid r key v = X) :
   s.dictPut sid key v = X.1.respond (answerOf X.1 sid key X.2.1 X.2.2) := by
  rw [dictPut_served s sid key v r h.serves h.sub h.row h.acc h.lease h.ne h.ok h.range, hX]

theorem Put.res {s sid key v r} (h : Put s sid key v r) {X : State × Nat × Nat} (hX : (asked s sid key v).writeValue sid r key v = X)
   (ho : X.1.sessionOpen sid = s.sessionOpen sid) :
   SameBut [.window] X.1 (s.dictPut sid key v) ∧ (s.dictPut sid key v).answered sid X.2.1 X.2.2 := by
  rw [h.eq hX]
  refine ⟨respond_same _ _, _, answer_respond X.1 (answerOf X.1 sid key X.2.1 X.2.2) ?_, rfl, rfl, rfl⟩
  have := h.serves
  simp only [State.serves, Bool.and_eq_true] at this
  show X.1.sessionOpen sid = true
  rw [ho, this.1]

theorem Put.same {s sid key v r} (h : Put s sid key v r) {X : State × Nat × Nat} (hX : (asked s sid key v).writeValue sid r key v = X) :
   SameBut [.window] X.1 (s.dictPut sid key v) := by
  rw [h.eq hX]; exact respond_same _ _

theorem Facet.get {l : List Facet} {s t : State} (h : SameBut l s t) (p : Facet) (hp : p ∉ l := by decide) : p.same s t := h p hp

theorem Put.of {s sid key v r} (h : s.mayWrite sid key = true) (sub : key % 256 ≠ 0) (row : objRow key = some r) (acc : r.acc ≠ .ro)
  (ne : v.isEmpty = false) (ok : valueOk r v = true) (range : s.rangeOk r key v = true) : Put s sid key v r := by
  simp only [State.mayWrite, Bool.and_eq_true, beq_iff_eq] at h
  exact ⟨h.1, sub, row, acc, .inr h.2, ne, ok, range⟩

theorem lockOpenFor_of {s t : State} (h : t.dict.lock = s.dict.lock) (sid : Nat) : t.lockOpenFor sid = s.lockOpenFor sid := by
  unfold State.lockOpenFor; rw [h]

theorem closeLock_open (s : State) (sid : Nat) : (s.closeLock sid).lockOpenFor sid = false := by
  unfold State.closeLock
  split
  · rfl
  · simpa using ‹¬ s.lockOpenFor sid = true›

theorem loseLease_held {s : State} {sid : Nat} (h : s.dict.lease = some sid) :
    (s.loseLease sid).dict.lease = none ∧ (s.loseLease sid).dict.staged = [] ∧ (s.loseLease sid).lockOpenFor sid = false := by
  unfold State.loseLease
  rw [if_pos h]
  have k := State_dropUpdate_same (fl := ps109) rfl (({ s with dict := { s.dict with lease := none, staged := [] } } : State).closeLock sid) (SameBut.refl _ _)
  have k2 := State_closeLock_same (fl := [.lock]) rfl ({ s with dict := { s.dict with lease := none, staged := [] } } : State) sid (SameBut.refl _ _)
  refine ⟨?_, ?_, ?_⟩
  · rw [Facet.get k .lease, Facet.get k2 .lease]
  · have a := Facet.get k .staging
    have b := Facet.get k2 .staging
    simp only [Facet.same, Prod.mk.injEq] at a b
    rw [a.1, b.1]
  · have a := Facet.get k .lock
    simp only [Facet.same, Prod.mk.injEq] at a
    rw [lockOpenFor_of a.1, closeLock_open]

theorem log_dict (s : State) (c v a : Nat) (x : LogAddr) (d : Nat) : SameBut ps63 s (s.log c v a x d) :=
  State_log_same rfl s c v a x d (SameBut.refl _ _)

theorem num_asked (s : State) (sid key : Nat) (v : Bytes) (k : Nat) : (asked s sid key v).num k = s.num k := rfl

theorem valueOk_pw (pw : Bytes) (h1 : 8 ≤ pw.length) (h2 : pw.length ≤ 64) (h3 : utf8From 0 0 0 pw = true) :
   valueOk ⟨0x110009, 0x110009, .str, .wo, 8, 64, .any, 0⟩ pw = true := by
  simp only [valueOk, typeOk, h3]
  simp [h1, h2]

theorem failLock_eff (s : State) (sid : Nat) (h : s.dict.lock = .closed) : SameBut [.lock, .counters, .ledger, .integ] s (s.failLock sid) ∧ (s.failLock sid).dict.failCount = s.dict.failCount + 1 ∧
    (s.failLock sid).dict.lock = (if s.dict.failCount + 1 < 5 then .closed else .blocked s.now) ∧ (s.failLock sid).dict.nonce = s.dict.nonce := by
  refine ⟨State_failLock_same (fl := [.lock, .counters, .ledger, .integ]) rfl s sid (SameBut.refl _ _), ?_⟩
  unfold State.failLock
  dsimp only
  split
  · exact ⟨rfl, h, rfl⟩
  · have k := Facet.get (log_dict (({ ({ s with dict := { s.dict with failCount := s.dict.failCount + 1 } } : State) with dict := { ({ s with dict := { s.dict with failCount := s.dict.failCount + 1 } } : State).dict with lock := .blocked ({ s with dict := { s.dict with failCount := s.dict.failCount + 1 } } : State).now } } : State)) 0x1103 sevError agentDictionary none sid) .lock
    simp only [Facet.same, Prod.mk.injEq] at k
    exact ⟨k.2.1, k.1, k.2.2⟩

/-- a request recorded -/
def recd (s : State) (sid op index sub offset : Nat) (more : Bool) (data : Bytes) : State :=
  { s with dict := { s.dict with
    req := if sid = 1 then { op := op, more := more, index := index, sub := sub, offset := offset, length := data.length % 512 } else s.dict.req
    buffer := if sid = 1 then s.fillBuffer data else s.dict.buffer
    parts := NMap.del s.dict.parts sid } }

theorem recd_same (s : State) (sid op index sub offset : Nat) (more : Bool) (data : Bytes) : SameBut [.window, .sessions] s (recd s sid op index sub offset more data) := by
  unfold recd
  simp -zeta only [frame_mk]
  exact frame_lit [.window, .sessions] (SameBut.refl _ _) rfl ⟨.inr rfl, .inr rfl, .inr rfl, .inl rfl, .inl rfl, .inr rfl, .inr rfl, .inr rfl, .inr rfl, .inr rfl, .inr rfl, .inr rfl, .inr rfl, .inr rfl, .inr rfl, .inr rfl, .inr rfl, .inr rfl, .inr rfl, .inr rfl, .inr rfl, .inr rfl, .inr rfl, .inr rfl, .inr rfl, .inr rfl, .inr rfl, .inr rfl, .inr rfl, .inr rfl, .inr rfl⟩

theorem recd_open (s : State) (sid op index sub offset : Nat) (more : Bool) (data : Bytes) (m : Nat) : (recd s sid op index sub offset more data).sessionOpen m = s.sessionOpen m :=
  open_of m rfl rfl rfl rfl rfl

theorem respond_answered (X : State) (r : DictResp) (sid st : Nat) (h : X.sessionOpen sid = true) (h1 : r.sid = sid) (h2 : r.status = st) (h3 : r.rule = 0) :
   (X.respond r).answered sid st 0 := by
  subst h1 h2
  exact ⟨r, answer_respond X r h, rfl, rfl, h3⟩

theorem respond_last (X : State) (r : DictResp) (sid : Nat) (h : X.sessionOpen sid = true) (h1 : r.sid = sid)  :
   (X.respond r).lastAnswer sid = some r := by
  subst h1
  exact answer_respond X r h

theorem request_split (s : State) (sid op index sub offset : Nat) (more piece : Bool) (data : Bytes) (ho : s.sessionOpen sid = true) :
    s.dictRequest sid op index sub offset more piece data =
      let u : State := if sid = 1 then { s with dict := { s.dict with req := { op := op, more := more, index := index, sub := sub, offset := offset, length := data.length % 512 }, buffer := s.fillBuffer data } } else s
      (u.dictServe sid op index sub offset more piece data).1.respond (u.dictServe sid op index sub offset more piece data).2 := by
  unfold State.dictRequest
  simp [ho]

theorem recd_split (s : State) (sid op index sub offset : Nat) (more : Bool) (data : Bytes) :
   recd s sid op index sub offset more data = 
     (let u : State := if sid = 1 then { s with dict := { s.dict with req := { op := op, more := more, index := index, sub := sub, offset := offset, length := data.length % 512 }, buffer := s.fillBuffer data } } else s
      { u with dict := { u.dict with parts := NMap.del u.dict.parts sid } }) := by
  unfold recd
  by_cases h : sid = 1 <;> simp [h]

theorem read_eq (s : State) (sid index sub offset : Nat) (r : ObjRow) (h : s.serves 0 sid (index * 256 + sub) = true) (h1 : 0 < sub) (h2 : sub < 256)
    (hr : objRow (index * 256 + sub) = some r) (ho : offset % 256 = 0) (hl : offset = 0 ∨ r.ty.long = true) :
    s.dictRequest sid 0 index sub offset false true [] =
      (((recd s sid 0 index sub offset false []).serveRead sid r (index * 256 + sub)).1).respond
        (readAnswer sid ((recd s sid 0 index sub offset false []).serveRead sid r (index * 256 + sub)).2.1 offset ((recd s sid 0 index sub offset false []).serveRead sid r (index * 256 + sub)).2.2) := by
  simp only [State.serves, Bool.and_eq_true] at h
  have hk : (index * 256 + sub) / 256 = index := by omega
  rw [hk] at h
  rw [request_split s _ _ _ _ _ _ _ _ h.1, recd_split]
  dsimp only
  have hs : (if sid = 1 then { s with dict := { s.dict with req := { op := 0, more := false, index := index, sub := sub, offset := offset, length := ([] : Bytes).length % 512 }, buffer := s.fillBuffer [] } } else s : State).served 0 index (index * 256 + sub) = true := by
    split <;> exact h.2
  show (State.dictServe (if sid = 1 then _ else s) sid 0 index sub offset false true []).1.respond _ = _
  generalize (if sid = 1 then { s with dict := { s.dict with req := { op := 0, more := false, index := index, sub := sub, offset := offset, length := ([] : Bytes).length % 512 }, buffer := s.fillBuffer [] } } else s : State) = u at hs ⊢
  have hs' : ({ u with dict := { u.dict with parts := NMap.del u.dict.parts sid } } : State).served 0 index (index * 256 + sub) = true := hs
  have e : u.dictServe sid 0 index sub offset false true [] =
     ((({ u with dict := { u.dict with parts := NMap.del u.dict.parts sid } } : State).serveRead sid r (index * 256 + sub)).1,
       readAnswer sid (({ u with dict := { u.dict with parts := NMap.del u.dict.parts sid } } : State).serveRead sid r (index * 256 + sub)).2.1 offset (({ u with dict := { u.dict with parts := NMap.del u.dict.parts sid } } : State).serveRead sid r (index * 256 + sub)).2.2) := by
    unfold State.dictServe
    dsimp only
    rw [hs', hr]
    have h3 : sub ≠ 0 := by omega
    have h4 : (!r.ty.long && decide (offset ≠ 0)) = false := by rcases hl with hl | hl <;> simp [hl]
    simp [ho, h3, h4]
    intro hh; rcases hl with hl | hl <;> simp_all
  rw [e]

theorem serves_open {s : State} {op sid key : Nat} (h : s.serves op sid key = true) : s.sessionOpen sid = true := by
  simp only [State.serves, Bool.and_eq_true] at h; exact h.1

theorem not_draws_open (u : State) (c : Bool) (sid : Nat) : (if c then u.drawn else u).sessionOpen sid = u.sessionOpen sid := by
  split
  · exact open_of sid rfl rfl rfl rfl rfl
  · rfl

theorem serveRead_open (u : State) (sid : Nat) (r : ObjRow) (key : Nat) (n : Nat) : (u.serveRead sid r key).1.sessionOpen n = u.sessionOpen n := by
  unfold State.serveRead
  split
  · rfl
  · dsimp only
    rw [not_draws_open]
    split
    · exact open_of n rfl rfl rfl rfl rfl
    · rfl

theorem staged_eq (s : State) (sid index sub offset : Nat) (r : ObjRow) (h : s.serves 2 sid (index * 256 + sub) = true) (h1 : 0 < sub) (h2 : sub < 256)
    (hr : objRow (index * 256 + sub) = some r) (ho : offset % 256 = 0) (hl : offset = 0 ∨ r.ty.long = true) :
    ∃ X : State, X.sessionOpen sid = true ∧ s.dictRequest sid 2 index sub offset false true [] =
      X.respond (readAnswer sid (s.serveStaged sid r (index * 256 + sub)).1 offset (s.serveStaged sid r (index * 256 + sub)).2) := by
  have h' := h
  simp only [State.serves, Bool.and_eq_true] at h
  have hk : (index * 256 + sub) / 256 = index := by omega
  rw [hk] at h
  rw [request_split s _ _ _ _ _ _ _ _ h.1]
  dsimp only
  have hs : (if sid = 1 then { s with dict := { s.dict with req := { op := 2, more := false, index := index, sub := sub, offset := offset, length := ([] : Bytes).length % 512 }, buffer := s.fillBuffer [] } } else s : State).served 2 index (index * 256 + sub) = true := by
    split <;> exact h.2
  have hso : (if sid = 1 then { s with dict := { s.dict with req := { op := 2, more := false, index := index, sub := sub, offset := offset, length := ([] : Bytes).length % 512 }, buffer := s.fillBuffer [] } } else s : State).sessionOpen sid = true := by
    split
    · exact (open_of sid rfl rfl rfl rfl rfl).trans h.1
    · exact h.1
  have hst : (if sid = 1 then { s with dict := { s.dict with req := { op := 2, more := false, index := index, sub := sub, offset := offset, length := ([] : Bytes).length % 512 }, buffer := s.fillBuffer [] } } else s : State).serveStaged sid r (index * 256 + sub) = s.serveStaged sid r (index * 256 + sub) := by
    split <;> rfl
  generalize (if sid = 1 then { s with dict := { s.dict with req := { op := 2, more := false, index := index, sub := sub, offset := offset, length := ([] : Bytes).length % 512 }, buffer := s.fillBuffer [] } } else s : State) = u at hs hso hst ⊢
  have hs' : ({ u with dict := { u.dict with parts := NMap.del u.dict.parts sid } } : State).served 2 index (index * 256 + sub) = true := hs
  have e : u.dictServe sid 2 index sub offset false true [] =
     (({ u with dict := { u.dict with parts := NMap.del u.dict.parts sid } } : State),
       readAnswer sid (u.serveStaged sid r (index * 256 + sub)).1 offset (u.serveStaged sid r (index * 256 + sub)).2) := by
    unfold State.dictServe
    dsimp only
    rw [hs', hr]
    have h3 : sub ≠ 0 := by omega
    simp only [ho, h3]
    have h4 : (!r.ty.long && decide (offset ≠ 0)) = false := by rcases hl with hl | hl <;> simp [hl]
    simp
    rw [if_neg (by intro hh; rcases hl with hl | hl <;> simp_all)]
    rfl
  rw [e, hst]
  exact ⟨({ u with dict := { u.dict with parts := NMap.del u.dict.parts sid } } : State), (open_of sid rfl rfl rfl rfl rfl).trans hso, rfl⟩

theorem dictWrite_eq (s : State) (sid index sub : Nat) (v : Bytes) (h1 : 0 < sub) (h2 : sub < 256) (hv : v.length ≤ 256) :
   dictWrite sid index sub 0 false v s = s.dictPut sid (index * 256 + sub) v := by
  unfold dictWrite State.dictPut State.dictRequest
  have hk : (index * 256 + sub) / 256 = index := by omega
  have hm : (index * 256 + sub) % 256 = sub := by omega
  rw [hk, hm]
  have e : ∀ u : State, u.dictServe sid 1 index sub 0 false true v = u.dictServe sid 1 index sub 0 false false v := by
    intro u
    unfold State.dictServe
    have : (decide (256 < v.length)) = false := by simpa using hv
    simp only [this, Bool.and_false, Bool.false_and, Bool.true_and]
  simp only [e]

theorem write_stage (t : State) (sid : Nat) (r : ObjRow) (key : Nat) (v : Bytes) (h : r.acc = .stg ∨ (r.acc = .lck ∧ t.lockOpenFor sid = true)) :
   t.writeValue sid r key v = plain (t.stageWrite key v) := by
  unfold State.writeValue
  rcases h with h | ⟨h, h'⟩
  · rw [h]; rfl
  · rw [h]; simp only [h']; rfl

theorem serveWrite_status (u : State) (sid key : Nat) (v : Bytes) (r : ObjRow) (p : Option PartialWrite) (st : Nat) (hne : v ≠ [])
    (h :
    ((r.acc = .ro ∧ st = dDenied) ∨
     (r.acc ≠ .ro ∧ leaseFree key = false ∧ u.dict.lease ≠ some sid ∧ st = dDenied) ∨
     (r.acc ≠ .ro ∧ u.dict.lease = some sid ∧ u.lockAnswer sid key = none ∧ u.closedTo sid r key = none ∧
       valueOk r v = false ∧ st = dType) ∨
     (r.acc ≠ .ro ∧ u.dict.lease = some sid ∧ u.lockAnswer sid key = none ∧ u.closedTo sid r key = none ∧
       valueOk r v = true ∧ u.rangeOk r key v = false ∧ st = dRange) ∨
     (r.acc = .lck ∧ u.dict.lease = some sid ∧ valueOk r v = true ∧ u.rangeOk r key v = true ∧ u.lockAnswer sid key = none ∧
       u.lockOpenFor sid = false ∧ st = dLocked) ∨
     ((r.acc = .stg ∨ (r.acc = .lck ∧ u.lockOpenFor sid = true)) ∧ u.dict.lease = some sid ∧ valueOk r v = true ∧
       u.rangeOk r key v = true ∧ u.lockAnswer sid key = none ∧
       (u.dict.queued ≠ none ∨ (NMap.has u.dict.staged key = false ∧ 512 ≤ u.dict.staged.length)) ∧ st = dBusy))) :
    u.serveWrite sid r key 0 false v p = (u, st, 0) := by
  have he : v.isEmpty = false := by simpa using hne
  rcases h with ⟨a, rfl⟩ | ⟨a, b, c, rfl⟩ | ⟨a, b, k, k', c, rfl⟩ | ⟨a, b, k, k', c, d, rfl⟩ | ⟨a, b, c, d, k, e, rfl⟩ | ⟨a, b, c, d, k, e, rfl⟩
  · simp [State.serveWrite, a]
  · simp [State.serveWrite, a, b, c]
  · simp [State.serveWrite, a, b, k, c, State.writeWhole, State.valueFault, k']
  · simp [State.serveWrite, a, b, k, c, d, State.writeWhole, State.valueFault, k']
  · simp [State.serveWrite, a, b, c, d, k, e, State.writeWhole, State.valueFault, State.writeValue]
  · have ha : r.acc ≠ .ro := by rcases a with a | a <;> simp [a]
    have hw := write_stage u sid r key v a
    have hs : u.stageWrite key v = (u, dBusy) := by
      unfold State.stageWrite
      rw [if_pos]
      rcases e with e | e
      · simp [Option.isSome_iff_ne_none, e]
      · simp [e]
    rw [hs] at hw
    simp [State.serveWrite, ha, b, c, d, k, State.writeWhole, State.valueFault, hw, plain]

/-- A write of a whole value to an object, up to its checks. -/
theorem dictPut_write (s : State) (sid key : Nat) (v : Bytes) (r : ObjRow) (ho : s.serves 1 sid key = true)
    (hs : key % 256 ≠ 0) (hr : objRow key = some r) (hn : v.isEmpty = false) :
    s.dictPut sid key v =
      (((asked s sid key v).serveWrite sid r key 0 false v (NMap.look s.dict.parts sid)).1).respond
        (answerOf ((asked s sid key v).serveWrite sid r key 0 false v (NMap.look s.dict.parts sid)).1 sid key
          ((asked s sid key v).serveWrite sid r key 0 false v (NMap.look s.dict.parts sid)).2.1
          ((asked s sid key v).serveWrite sid r key 0 false v (NMap.look s.dict.parts sid)).2.2) := by
  simp only [State.serves, Bool.and_eq_true] at ho
  have hk : key / 256 * 256 + key % 256 = key := by omega
  have key2 : ∀ (u U : State), u.served 1 (key / 256) key = true → U = { u with dict := { u.dict with parts := NMap.del u.dict.parts sid } } →
      u.dictServe sid 1 (key / 256) (key % 256) 0 false false v =
        ((U.serveWrite sid r key 0 false v (NMap.look u.dict.parts sid)).1,
          answerOf (U.serveWrite sid r key 0 false v (NMap.look u.dict.parts sid)).1 sid key
            (U.serveWrite sid r key 0 false v (NMap.look u.dict.parts sid)).2.1
            (U.serveWrite sid r key 0 false v (NMap.look u.dict.parts sid)).2.2) := by
    intro u U hu hU
    have h1 : U.served 1 (key / 256) key = true := by rw [hU]; exact hu
    unfold State.dictServe
    rw [← hU]
    simp only [hk, h1, hs, hr, hn]
    rfl
  unfold State.dictPut State.dictRequest
  rw [ho.1]
  by_cases h1 : sid = 1
  · subst h1
    simp only [Bool.not_true, Bool.false_eq_true, if_false, if_true]
    rw [key2 ({ s with dict := { s.dict with
      req := { op := 1, more := false, index := key / 256, sub := key % 256, offset := 0, length := v.length % 512 }
      buffer := s.fillBuffer v } } : State) (asked s 1 key v) ho.2 rfl]
  · simp only [Bool.not_true, Bool.false_eq_true, if_false, h1]
    rw [key2 s (asked s sid key v) ho.2 (by simp only [asked, h1, if_false])]

/-- A write of a whole value whose checks end in a status that changes nothing. -/
theorem put_status {s : State} {sid key : Nat} {v : Bytes} {r : ObjRow} {st : Nat} (ho : s.serves 1 sid key = true)
    (hs : key % 256 ≠ 0) (hr : objRow key = some r) (hn : v ≠ [])
    (h : (asked s sid key v).serveWrite sid r key 0 false v (NMap.look s.dict.parts sid) = (asked s sid key v, st, 0)) :
    (s.dictPut sid key v).answered sid st 0 ∧ SameBut [.window, .sessions] s (s.dictPut sid key v) := by
  rw [dictPut_write s sid key v r ho hs hr (by simpa using hn), h]
  have ho' : (asked s sid key v).sessionOpen sid = true := by
    simp only [State.serves, Bool.and_eq_true] at ho
    exact (asked_open _ _ _ _ _).trans ho.1
  exact ⟨respond_answered _ _ _ _ ho' rfl rfl rfl,
    SameBut.trans (asked_same s sid key v) (SameBut.mono rfl (respond_same _ _))⟩

/-- Only the two write-only objects of the lock are answered by it. -/
theorem lockAnswer_none (u : State) (sid key : Nat) (r : ObjRow) (hr : objRow key = some r) (h : r.acc ≠ .wo) :
    u.lockAnswer sid key = none := by
  unfold State.lockAnswer
  rw [if_neg]
  intro hk
  simp only [Bool.or_eq_true, decide_eq_true_eq] at hk
  rcases hk with rfl | rfl
  · rw [row_lockPassword] at hr; injection hr with hr; rw [← hr] at h; exact h rfl
  · rw [row_lockResponse] at hr; injection hr with hr; rw [← hr] at h; exact h rfl

theorem row_lockNonce : objRow Obj.lockNonce = some ⟨0x110007, 0x110007, .blob, .ro, 32, 32, .any, 0⟩ := by decide +kernel

set_option maxRecDepth 100000 in
theorem outcome_asked (s : State) (sid key : Nat) (v : Bytes) (l : NMap Bytes) (b : Bool) (n : Nat) :
   ({ st := asked s sid key v, staged := l, sid := n, self := b } : Cfg).outcome = ({ st := s, staged := l, sid := n, self := b } : Cfg).outcome := rfl

theorem putCommit {s : State} {sid : Nat} (h : s.mayWrite sid Obj.commit = true) : Put s sid Obj.commit (natLE 1 1) ⟨0x120002, 0x120002, .u8, .wo, 1, 1, .span 1 1 1, 0⟩ :=
  Put.of h (by decide) row_commit (by decide) (by decide) (by decide) rfl

theorem commitNow_asked (s : State) (sid : Nat) (hq : s.dict.queued = none) :
   (asked s sid Obj.commit (natLE 1 1)).commitNow sid = (match ({ st := s, staged := s.dict.staged, sid := sid, self := false } : Cfg).outcome with
      | (_, _, some cl) =>
      if s.computeIdle then ((asked s sid Obj.commit (natLE 1 1)).applySet false s.dict.staged cl, dOk, 0)
      else
        ((({ (asked s sid Obj.commit (natLE 1 1)) with dict := { (asked s sid Obj.commit (natLE 1 1)).dict with queued := some { sid := sid, copy := s.dict.staged } } } : State)).commitEnds dQueued 0, dQueued, 0)
      | (st, rule, none) => ((asked s sid Obj.commit (natLE 1 1)).commitEnds st rule, st, rule)) := by
  unfold State.commitNow
  have a : (asked s sid Obj.commit (natLE 1 1)).dict.queued = none := hq
  have b : (asked s sid Obj.commit (natLE 1 1)).dict.staged = s.dict.staged := rfl
  have c : (asked s sid Obj.commit (natLE 1 1)).computeIdle = s.computeIdle := rfl
  rw [a, b, c, outcome_asked]
  rfl

theorem commitEnds_res (s : State) (st rule : Nat) : SameBut [.commits, .counters] s (s.commitEnds st rule) ∧ (s.commitEnds st rule).dict.commitRes = rule * 256 + st ∧
   (s.commitEnds st rule).dict.configGen = s.dict.configGen ∧ (s.commitEnds st rule).dict.claims = s.dict.claims ∧ (st ≠ dConflict → (s.commitEnds st rule).dict.counters = s.dict.counters) := by
  refine ⟨State_commitEnds_same rfl _ _ _ (SameBut.refl _ _), ?_⟩
  unfold State.commitEnds
  dsimp only
  split
  · exact ⟨rfl, rfl, rfl, fun h => absurd ‹_› h⟩
  · exact ⟨rfl, rfl, rfl, fun _ => rfl⟩

theorem applyOne_values (own : Bool) (s : State) (e : Nat × Bytes) :
   (State.applyOne own s e).dict.values = if e.1 = Obj.fatalLogClear ∨ e.1 = Obj.faultedTileClear ∨ e.1 = Obj.lockPasswordNew then s.dict.values else NMap.put s.dict.values e.1 e.2 := by
  unfold State.applyOne
  by_cases h1 : e.1 = Obj.fatalLogClear
  · simp [h1]
  by_cases h2 : e.1 = Obj.faultedTileClear
  · simp [h2]
  by_cases h3 : e.1 = Obj.lockPasswordNew
  · simp only [h1, h2, h3]
    cases own <;> simp [State.drawn]
  · simp [h1, h2, h3, State.setValue]

theorem fold_values (own : Bool) (l : NMap Bytes) : ∀ (s : State), (l.map (·.1)).Nodup → ∀ k v, NMap.look l k = some v →
    k ∉ [Obj.fatalLogClear, Obj.faultedTileClear, Obj.lockPasswordNew] →
    NMap.look (l.foldl (State.applyOne own) s).dict.values k = some v := by
  have other : ∀ (l : NMap Bytes) (s : State) (k : Nat), k ∉ l.map (·.1) → 
      NMap.look (l.foldl (State.applyOne own) s).dict.values k = NMap.look s.dict.values k := by
    intro l
    induction l with
    | nil => intro s k _; rfl
    | cons e l ih =>
      intro s k hk
      simp only [List.map_cons, List.mem_cons, not_or] at hk
      rw [List.foldl_cons, ih _ _ hk.2, applyOne_values]
      split
      · rfl
      · exact look_put_other _ _ _ _ hk.1
  induction l with
  | nil => intro s _ k v h; simp at h
  | cons e l ih =>
    intro s hn k v h hk
    simp only [List.map_cons, List.nodup_cons] at hn
    rw [List.foldl_cons]
    by_cases he : e.1 = k
    · have hv : v = e.2 := by
        simp only [NMap.look, he] at h
        simpa using h.symm
      subst hv
      rw [other l _ k (he ▸ hn.1), applyOne_values]
      simp only [List.mem_cons, List.not_mem_nil, or_false, not_or] at hk
      rw [if_neg (by rw [he]; simp [hk.1, hk.2.1, hk.2.2]), he]
      exact look_put_same _ _ _
    · refine ih _ hn.2 k v ?_ hk
      simpa [NMap.look, he] using h

theorem same_staged {l : List Facet} {s t : State} (h : SameBut l s t) (hl : Facet.staging ∉ l := by decide) (e : s.dict.staged = []) : t.dict.staged = [] := by
  have a := h .staging hl
  simp only [Facet.same, Prod.mk.injEq] at a
  rw [a.1, e]

theorem closeMuslin_staged (s : State) (sid : Nat) (h : s.dict.staged = []) : (s.closeMuslin sid).dict.staged = [] := by
  unfold State.closeMuslin State.endSession
  have k := State_closeLock_same (fl := [.lock]) rfl (s.loseLease sid) sid (SameBut.refl _ _)
  have a := Facet.get k .staging
  simp only [Facet.same, Prod.mk.injEq] at a
  refine a.1.trans ?_
  by_cases hl : s.dict.lease = some sid
  · exact (loseLease_held hl).2.1
  · unfold State.loseLease; rw [if_neg hl]; exact h

theorem closeAllMuslin_staged (s : State) (h : s.dict.staged = []) : s.closeAllMuslin.dict.staged = [] := by
  unfold State.closeAllMuslin
  generalize s.dict.sessions = l
  induction l generalizing s with
  | nil => exact h
  | cons e l ih => exact ih _ (closeMuslin_staged s e.1 h)

theorem closeMuslin_queued (s : State) (sid : Nat) : (s.closeMuslin sid).dict.queued = s.dict.queued := by
  unfold State.closeMuslin State.endSession
  have k := State_closeLock_same (fl := [.lock]) rfl (s.loseLease sid) sid (SameBut.refl _ _)
  have a := Facet.get k .staging
  simp only [Facet.same, Prod.mk.injEq] at a
  refine a.2.trans ?_
  unfold State.loseLease
  split
  · have k := State_dropUpdate_same (fl := ps109) rfl (({ s with dict := { s.dict with lease := none, staged := [] } } : State).closeLock sid) (SameBut.refl _ _)
    have k2 := State_closeLock_same (fl := [.lock]) rfl ({ s with dict := { s.dict with lease := none, staged := [] } } : State) sid (SameBut.refl _ _)
    have a := Facet.get k .staging
    have b := Facet.get k2 .staging
    simp only [Facet.same, Prod.mk.injEq] at a b
    exact a.2.trans b.2
  · rfl

theorem closeAllMuslin_queued (s : State) : s.closeAllMuslin.dict.queued = s.dict.queued := by
  unfold State.closeAllMuslin
  generalize s.dict.sessions = l
  induction l generalizing s with
  | nil => rfl
  | cons e l ih => exact (ih _).trans (closeMuslin_queued s e.1)

theorem afterApply_ind (P : State → Prop) (hP : ∀ s t, SameBut [.counters, .draws, .tiles, .felt, .hbm, .tier, .tables, .bw, .ledger, .det, .integ, .funcs, .power, .thermal] s t → P s → P t)
    (hM : ∀ s : State, P s → P s.closeAllMuslin) (s old : State) (set : NMap Bytes) (h : P s) : P (s.afterApply old set) := by
  unfold State.afterApply
  have ite (c : Prop) [Decidable c] (a b : State) (ha : P a) (hb : P b) : P (if c then a else b) := by split <;> assumption
  have st {s t : State} (l : List Facet) (k : SameBut l s t) (hl : subL l [.counters, .draws, .tiles, .felt, .hbm, .tier, .tables, .bw, .ledger, .det, .integ, .funcs, .power, .thermal] = true) (h : P s) : P t := hP s t (SameBut.mono hl k) h
  have lit (s : State) (d : Det) (p : Power) (th : Thermal) (h : P s) : P { s with det := d, power := p, thermal := th } := by
    refine hP s _ ?_ h
    simp -zeta only [frame_mk]
    exact frame_lit [.det, .power, .thermal] (SameBut.refl _ _) rfl ⟨.inr rfl, .inr rfl, .inr rfl, .inr rfl, .inr rfl, .inr rfl, .inr rfl, .inr rfl, .inr rfl, .inr rfl, .inr rfl, .inr rfl, .inr rfl, .inr rfl, .inr rfl, .inr rfl, .inr rfl, .inr rfl, .inr rfl, .inr rfl, .inl rfl, .inr rfl, .inr rfl, .inl rfl, .inl rfl, .inr rfl, .inr rfl, .inr rfl, .inr rfl, .inr rfl, .inr rfl⟩
  extract_lets has changed d1 s1 s2 s3 s4 p1 s5 s6 t1 s7 s8 sq t2 s9
  have h1 : P s1 := ite _ _ _ (lit s _ _ _ h) h
  have h2 : P s2 := ite _ _ _ (st ps7 (State_startRun_same rfl _ (SameBut.refl _ _)) rfl h1) h1
  have h3 : P s3 := ite _ _ _ (hM _ h2) h2
  have h4 : P s4 := ite _ _ _ (st ps152 (State_fitRegions_same rfl _ (SameBut.refl _ _)) rfl h3) h3
  have h5 : P s5 := ite _ _ _ (lit s4 _ _ _ h4) h4
  have h6 : P s6 := ite _ _ _ (st ps143 (State_forceDomains_same rfl _ _ (SameBut.refl _ _)) rfl h5) h5
  have h7 : P s7 := ite _ _ _ (lit s6 _ _ _ h6) h6
  have h8 : P s8 := ite _ _ _ (st ps64 (State_applySteps_same rfl _ (SameBut.refl _ _)) rfl h7) h7
  have hq : P sq := ite _ _ _ (st ps4 (State_restartQuotas_same rfl _ (SameBut.refl _ _)) rfl h8) h8
  have h9 : P s9 := ite _ _ _ (lit sq _ _ _ hq) hq
  exact ite _ _ _ (lit s9 _ _ _ h9) h9

theorem applySet_eff (s : State) (set : NMap Bytes) (cl : Claims) :
    (s.applySet false set cl).dict.staged = [] ∧ (s.applySet false set cl).dict.queued = none ∧ (s.applySet false set cl).dict.claims = cl ∧
      (s.applySet false set cl).dict.configGen = (s.dict.configGen + 1) % 2 ^ 32 ∧ (s.applySet false set cl).dict.commitRes = dOk ∧
      (s.applySet false set cl).dict.values = (set.foldl (State.applyOne false) s).dict.values := by
  have hgen : ∀ (l : NMap Bytes) (s : State), (l.foldl (State.applyOne false) s).dict.configGen = s.dict.configGen := by
    intro l
    induction l with
    | nil => intro s; rfl
    | cons e l ih =>
      intro s
      rw [List.foldl_cons, ih]
      have k := State_applyOne_same (fl := [.settings, .password, .draws, .integ, .boot]) rfl false s e (SameBut.refl _ _)
      have a := Facet.get k .commits
      simp only [Facet.same, Prod.mk.injEq] at a
      exact a.2.1
  unfold State.applySet
  extract_lets t d u
  have k := afterApply_ind (fun x => x.dict.staged = [] ∧ x.dict.queued = none ∧ x.dict.claims = cl ∧ x.dict.configGen = (s.dict.configGen + 1) % 2 ^ 32 ∧ x.dict.values = t.dict.values)
    (by
      intro a b k ⟨h1, h2, h3, h4, h5⟩
      have k1 := k .staging (by decide)
      have k2 := k .commits (by decide)
      have k3 := k .settings (by decide)
      simp only [Facet.same, Prod.mk.injEq] at k1 k2 k3
      exact ⟨k1.1.trans h1, k1.2.trans h2, k2.2.2.trans h3, k2.2.1.trans h4, k3.trans h5⟩)
    (by
      intro a ⟨h1, h2, h3, h4, h5⟩
      have k := State_closeAllMuslin_same (fl := [.counters, .sessions, .lease, .lock, .staging, .ledger, .integ, .images, .update]) rfl a (SameBut.refl _ _)
      have k2 := k .commits (by decide)
      have k3 := k .settings (by decide)
      simp only [Facet.same, Prod.mk.injEq] at k2 k3
      exact ⟨closeAllMuslin_staged a h1, (closeAllMuslin_queued a).trans h2, k2.2.2.trans h3, k2.2.1.trans h4, k3.trans h5⟩)
    u s set ⟨rfl, rfl, rfl, by show (t.dict.configGen + 1) % 2 ^ 32 = _; rw [hgen], rfl⟩
  have e := commitEnds_res (u.afterApply s set) dOk 0
  have e1 := e.1 .staging (by decide)
  have e3 := e.1 .settings (by decide)
  simp only [Facet.same, Prod.mk.injEq] at e1 e3
  exact ⟨e1.1.trans k.1, e1.2.trans k.2.1, e.2.2.2.1.trans k.2.2.1, e.2.2.1.trans k.2.2.2.1, by simpa using e.2.1, e3.trans k.2.2.2.2⟩

theorem withdraw_eff (s : State) : s.withdrawCommit.dict.queued = none ∧ s.withdrawCommit.dict.staged = s.dict.staged ∧ SameBut [.staging, .commits] s s.withdrawCommit ∧
   (s.dict.queued ≠ none → s.withdrawCommit.dict.commitRes = dBusy) := by
  refine ⟨?_, ?_, State_withdrawCommit_same (fl := [.staging, .commits]) rfl _ (SameBut.refl _ _), ?_⟩ <;> unfold State.withdrawCommit <;> split <;> simp_all

set_option maxRecDepth 100000 in
theorem blobNow_asked (s : State) (sid key : Nat) (v : Bytes) : (asked s sid key v).blobNow = s.blobNow := rfl

theorem boundaryCommit_eff (s : State) : s.boundaryCommit.dict.queued = none ∧ (s.dict.queued = none → s.boundaryCommit = s) := by
  unfold State.boundaryCommit
  split
  · exact ⟨‹_›, fun _ => rfl⟩
  · rename_i q hq
    refine ⟨?_, by simp [hq]⟩
    split
    · exact (applySet_eff _ _ _).2.1
    · rename_i st rule e
      have k := (commitEnds_res ({ s with dict := { s.dict with queued := none } } : State) st rule).1 .staging (by decide)
      simp only [Facet.same, Prod.mk.injEq] at k
      exact k.2

theorem queued_of {l : List Facet} {s t : State} (k : SameBut l s t) (hl : Facet.staging ∉ l) (h : s.dict.queued = none) : t.dict.queued = none := by
  have k := k .staging hl
  simp only [Facet.same, Prod.mk.injEq] at k
  exact k.2.trans h

theorem startCR_queued (s : State) (b : Bool) : (s.startComputeReset b).dict.queued = none := by
  have k := State_releaseFloor_same (fl := ps18) rfl (s.cancelAll.withdrawCommit) (SameBut.refl _ _)
  have := queued_of k (by decide) (withdraw_eff s.cancelAll).1
  exact this

theorem boundary_tail (x : State) (h : x.dict.queued = none) :
    (State.idleActions (State.boundaryPause x)).dict.queued = none ∧ (State.idleActions (State.boundaryPause x)).det = x.det ∧
    (State.idleActions (State.boundaryPause x)).dict.values = x.dict.values := by
  have k := State_boundaryPause_same (fl := [.counters, .ledger]) rfl x (SameBut.refl _ _)
  have k2 := State_idleActions_same (fl := [.staging, .commits, .boot, .tiles, .felt, .counters, .power, .ledger]) rfl (State.boundaryPause x) (SameBut.refl _ _)
  refine ⟨?_, (k2 .det (by decide)).trans (k .det (by decide)), (k2 .settings (by decide)).trans (k .settings (by decide))⟩
  have hq : (State.boundaryPause x).dict.queued = none := queued_of k (by decide) h
  generalize State.boundaryPause x = y at hq
  unfold State.idleActions
  have hp : (if y.ledger.sched = .pausing && y.computeIdle && !y.boundaryDue then y.pauseNow else y).dict.queued = none := by
    split
    · exact queued_of (State_pauseNow_same (fl := [.counters, .ledger]) rfl y (SameBut.refl _ _)) (by decide) hq
    · exact hq
  dsimp only
  generalize (if y.ledger.sched = .pausing && y.computeIdle && !y.boundaryDue then y.pauseNow else y) = z at hp
  generalize (if z.isOn Obj.determinismMode then z.ledger.sched == .paused else z.computeIdle) = b
  by_cases hc : (z.ledger.autoReset && z.isOn Obj.autoComputeReset && z.boot.phase == .ready && b) = true
  · rw [if_pos hc]; exact startCR_queued z true
  · rw [if_neg hc]; exact hp

theorem floor_same (s : State) : SameBut [.power] s s.floorBoundary := State_floorBoundary_same rfl s (SameBut.refl _ _)

theorem counter_clear (s : State) (a b k : Nat) : (s.clearCounters a b).counter k = if a ≤ k ∧ k ≤ b then 0 else s.counter k := by
  unfold State.clearCounters State.counter NMap.lookD
  split
  · rw [look_delRange_in _ _ _ _ (by omega) (by omega)]; rfl
  · rw [look_delRange_out _ _ _ _ (by omega)]

theorem counter_of {l : List Facet} {s t : State} (h : SameBut l s t) (hl : Facet.counters ∉ l) (k : Nat) : t.counter k = s.counter k := by
  have := h .counters hl
  unfold State.counter NMap.lookD
  rw [show t.dict.counters = s.dict.counters from this]

theorem clear_one (s : State) (sid key k : Nat) (r : ObjRow) (X : State → State) (hm : s.mayWrite sid key = true) (hk : key % 256 ≠ 0)
    (hr : objRow key = some r) (ha : r.acc ≠ .ro) (hv : valueOk r (natLE 1 1) = true) (hg : ∀ s : State, s.rangeOk r key (natLE 1 1) = true)
    (hw : ∀ t : State, t.writeValue sid r key (natLE 1 1) = plain (X t, dOk))
    (hX : ∀ t : State, SameBut [.counters, .bw] t (X t))
    (hc : ∀ t : State, (X t).counter k = if (clearedBy key).any (fun r => decide (r.1 ≤ k) && decide (k ≤ r.2)) then 0 else t.counter k) :
    (s.dictPutNum sid key 1 1).answered sid dOk 0 ∧ SameBut [.window, .sessions, .counters, .bw] s (s.dictPutNum sid key 1 1) ∧
      (s.dictPutNum sid key 1 1).counter k = if (clearedBy key).any (fun r => decide (r.1 ≤ k) && decide (k ≤ r.2)) then 0 else s.counter k := by
  have hp : Put s sid key (natLE 1 1) r := Put.of hm hk hr ha (by decide) hv (hg s)
  have r := hp.res (hw (asked s sid key (natLE 1 1))) ((sameOpen (hX _) (by decide) sid).trans (asked_open _ _ _ _ _))
  refine ⟨r.2, SameBut.trans (SameBut.mono rfl (asked_same s sid key (natLE 1 1))) (SameBut.trans (SameBut.mono rfl (hX _)) (SameBut.mono rfl r.1)), ?_⟩
  exact (counter_of r.1 (by decide) k).trans ((hc _).trans rfl)

theorem clearCounters_same (s : State) (a b : Nat) : SameBut [.counters, .bw] s (s.clearCounters a b) := State_clearCounters_same rfl s a b (SameBut.refl _ _)

end Sys2Proof.Laws
end

