-- ==== Sys2Proof/Laws/FactsFunctions.lean ====
section
/-! SUPPORT. Facts about functions of R50, triggers, and transitions of the module state: what the shared operations do, for the provers to cite. -/

set_option Elab.async false
set_option linter.all false

namespace Sys2Proof.Laws

open Sys2Proof Sys2Proof.Machine

theorem func_of {l : List Facet} {s t : State} (h : SameBut l s t) (hl : Facet.funcs ∉ l) (f : Func) : t.func f = s.func f := by
  unfold State.func; rw [show t.funcs = s.funcs from h .funcs hl]

theorem func_setFunc (s : State) (f : Func) (x : FState) : (s.setFunc f x).func f = x := lookD_put_same _ _ _ _

theorem func_reach (s : State) (f : Func) (x : FState) : (s.reach f x).func f = x := by
  unfold State.reach
  rw [func_of (State_logFunc_same (fl := [.counters, .ledger, .integ]) rfl (s.setFunc f x) f (SameBut.refl _ _)) (by decide), func_setFunc]

theorem func_startEnable (s : State) (f : Func) : (s.startEnable f).func f = .enabling := by
  unfold State.startEnable
  cases f <;> exact func_setFunc _ _ _

theorem func_startShutdown (s : State) (f : Func) : (s.startShutdown f).func f = .disabling := by
  unfold State.startShutdown
  cases f with
  | tier2 p => exact (func_of (State_abortTo_same (fl := [.counters, .hbm, .tier, .tables, .bw, .ledger, .integ]) rfl _ _ (SameBut.refl _ _)) (by decide) _).trans (func_setFunc _ _ _)
  | _ => exact func_setFunc _ _ _

theorem func_turnedOn (s : State) (f : Func) : (s.turnedOn f).func f = s.func f :=
  func_of (State_turnedOn_same (fl := [.thermal]) rfl s f (SameBut.refl _ _)) (by decide) f

set_option maxRecDepth 100000 in
theorem claims_asked (s : State) (sid key : Nat) (v : Bytes) (l : NMap Bytes) (b : Bool) (n : Nat) :
   ({ st := asked s sid key v, staged := l, sid := n, self := b } : Cfg).claims = ({ st := s, staged := l, sid := n, self := b } : Cfg).claims := rfl

theorem requestFunc_eff (s : State) (f : Func) (up : Bool) (hd : ∀ c, f ≠ .domain c) :
    (s.requestFunc f up).2 = (switchTable (s.func f) up).2 ∧ (s.requestFunc f up).1.func f = (switchTable (s.func f) up).1 ∧
    SameBut [.counters, .hbm, .tier, .tables, .bw, .ledger, .integ, .funcs, .power] s (s.requestFunc f up).1 := by
  refine ⟨?_, ?_, State_requestFunc_same rfl s f up (SameBut.refl _ _)⟩
  · unfold State.requestFunc State.enableFunc State.disableFunc
    cases up <;> cases h : s.func f <;> rfl
  · unfold State.requestFunc State.enableFunc State.disableFunc
    have hg : s.heldForGood f = false := by
      cases f with
      | domain c => exact absurd rfl (hd c)
      | _ => rfl
    cases up <;> cases h : s.func f <;> simp only [switchTable, if_true, if_false, Bool.false_eq_true, hg] <;>
      first
        | exact h
        | exact func_startEnable _ _
        | exact func_startShutdown _ _
        | exact func_setFunc _ _ _
        | exact func_reach _ _ _

theorem value_of {l : List Facet} {s t : State} (h : SameBut l s t) (hl : Facet.settings ∉ l) (hf : Facet.fuses ∉ l) (k : Nat) : t.value k = s.value k := by
  have h1 : t.dict.values = s.dict.values := h .settings hl
  have h2 : t.fuses = s.fuses := h .fuses hf
  unfold State.value State.defaultOf State.tileCount
  rw [h1, h2]

theorem funcWrite_eff (s : State) (f : Func) (key : Nat) (up : Bool) (cl : Claims) (hd : ∀ c, f ≠ .domain c)
    (hc : ({ st := s, staged := [(key, natLE 1 (bit01 up))], sid := 1, self := true } : Cfg).claims = some cl) :
    (s.funcWrite f key up).2 = (switchTable (s.func f) up).2 ∧ (s.funcWrite f key up).1.func f = (switchTable (s.func f) up).1 ∧
    SameBut [.settings, .commits, .counters, .hbm, .tier, .tables, .bw, .ledger, .integ, .funcs, .power] s (s.funcWrite f key up).1 ∧
    (if (switchTable (s.func f) up).2 = dBusy then (s.funcWrite f key up).1.value key = s.value key else (s.funcWrite f key up).1.value key = natLE 1 (bit01 up)) ∧
    (∀ k, k ≠ key → (s.funcWrite f key up).1.value k = s.value k) := by
  have e := requestFunc_eff s f up hd
  unfold State.funcWrite
  dsimp only
  rw [hc]
  dsimp only
  rw [← e.1]
  split
  · exact ⟨rfl, e.2.1, SameBut.mono rfl e.2.2, value_of e.2.2 (by decide) (by decide) key, fun k _ => value_of e.2.2 (by decide) (by decide) k⟩
  · refine ⟨rfl, e.2.1, ?_, ?_, ?_⟩
    · refine SameBut.trans (SameBut.mono rfl e.2.2) ?_
      unfold State.setValue
      simp -zeta only [frame_mk]
      exact frame_lit [.settings, .commits] (SameBut.refl _ _) rfl ⟨.inr rfl, .inl rfl, .inr rfl, .inr rfl, .inr rfl, .inr rfl, .inr rfl, .inr rfl, .inr rfl, .inl rfl, .inr rfl, .inr rfl, .inr rfl, .inr rfl, .inr rfl, .inr rfl, .inr rfl, .inr rfl, .inr rfl, .inr rfl, .inr rfl, .inr rfl, .inr rfl, .inr rfl, .inr rfl, .inr rfl, .inr rfl, .inr rfl, .inr rfl, .inr rfl, .inr rfl⟩
    · show (State.setValue _ key _).value key = _
      unfold State.value State.setValue
      simp
    · intro k hk
      refine Eq.trans ?_ (value_of e.2.2 (by decide) (by decide) k)
      show (State.setValue _ key _).value k = _
      unfold State.value State.setValue
      rw [show ∀ (m : NMap Bytes) v, NMap.look (NMap.put m key v) k = NMap.look m k from fun m v => look_put_other m key k v hk]
      rfl

theorem open_of2 {s t : State} (sid : Nat) (h : t.boot.powered = s.boot.powered) (h1 : t.dict.hostOpen = s.dict.hostOpen)
   (h2 : NMap.has t.dict.sessions sid = NMap.has s.dict.sessions sid) (h3 : t.iface.hostLink = s.iface.hostLink) (h4 : t.value Obj.muslinEnable = s.value Obj.muslinEnable) :
    t.sessionOpen sid = s.sessionOpen sid := by
  unfold State.sessionOpen State.muslinOn State.isOn State.num; rw [h, h1, h2, h3, h4]

theorem switch_core (s : State) (sid key : Nat) (f : Func) (up : Bool) (cl : Claims) (r : ObjRow) (hd : ∀ c, f ≠ .domain c) (hk : key % 256 ≠ 0) (hr : objRow key = some r)
    (ha : r.acc ≠ .ro) (hv : ∀ b, valueOk r (natLE 1 (bit01 b)) = true) (hg : ∀ b, s.rangeOk r key (natLE 1 (bit01 b)) = true)
    (hw : ∀ (t : State) v, t.writeValue sid r key v = plain (t.funcWrite f key (leNat v == 1)))
    (hmu : Obj.muslinEnable ≠ key) (hm : s.mayWrite sid key = true) (hc : ({ st := s, staged := [(key, natLE 1 (bit01 up))], sid := 1, self := true } : Cfg).claims = some cl) :
    (s.dictPutNum sid key 1 (bit01 up)).func f = (switchTable (s.func f) up).1 ∧
      (s.dictPutNum sid key 1 (bit01 up)).answered sid (switchTable (s.func f) up).2 0 ∧
      (if (switchTable (s.func f) up).2 = dBusy then (s.dictPutNum sid key 1 (bit01 up)).value key = s.value key else (s.dictPutNum sid key 1 (bit01 up)).value key = natLE 1 (bit01 up)) := by
  have hp : Put s sid key (natLE 1 (bit01 up)) r := Put.of hm hk hr ha (by cases up <;> decide) (hv up) (hg up)
  have hX := hw (asked s sid key (natLE 1 (bit01 up))) (natLE 1 (bit01 up))
  have hb : (leNat (natLE 1 (bit01 up)) == 1) = up := by cases up <;> decide
  rw [hb] at hX
  have e := funcWrite_eff (asked s sid key (natLE 1 (bit01 up))) f key up cl hd ((claims_asked s sid key _ _ _ _).trans hc)
  have ef : (asked s sid key (natLE 1 (bit01 up))).func f = s.func f := rfl
  rw [ef] at e
  have hopen : ((asked s sid key (natLE 1 (bit01 up))).funcWrite f key up).1.sessionOpen sid = s.sessionOpen sid := by
    have k := e.2.2.1
    have k1 := k .boot (by decide)
    have k2 := k .sessions (by decide)
    have k3 := k .iface (by decide)
    simp only [Facet.same, Prod.mk.injEq] at k1 k2 k3
    exact (open_of2 sid (by rw [k1]) k2.2.1 (by rw [k2.2.2]) (by rw [k3]) (e.2.2.2.2 _ hmu)).trans (asked_open _ _ _ _ _)
  have r := hp.res hX hopen
  dsimp only [plain] at r
  rw [e.1] at r
  refine ⟨(func_of r.1 (by decide) f).trans e.2.1, r.2, ?_⟩
  have v := value_of r.1 (by decide) (by decide) key
  unfold State.dictPutNum
  rw [v]
  exact e.2.2.2.1

theorem trig {s : State} {sid key : Nat} {v : Bytes} {r : ObjRow} (hp : Put s sid key v r) (X : State × Nat) (hw : (asked s sid key v).writeValue sid r key v = plain X)
   (ho : X.1.sessionOpen sid = s.sessionOpen sid) : SameBut [.window] X.1 (s.dictPut sid key v) ∧ (s.dictPut sid key v).answered sid X.2 0 := by
  exact hp.res hw ho

theorem settle_ledger (s : State) (h : s.ledger.st = .draining) : s.settleLedger.ledger.st = (if s.ledger.entries.isEmpty then .off else .draining) ∧ s.settleLedger.ledger.enable = s.ledger.enable := by
  unfold State.settleLedger
  rw [h]
  by_cases he : s.ledger.entries.isEmpty = true
  · simp only [he]; exact ⟨rfl, rfl⟩
  · simp only [he]; exact ⟨h, rfl⟩

theorem leNat_natLE (n v : Nat) : leNat (natLE n v) = v % 256 ^ n := by
  induction n generalizing v with
  | zero => simp [natLE, leNat, Nat.mod_one]
  | succ n ih =>
    simp only [natLE, leNat, ih, BitVec.toNat_ofNat]
    show v % 256 + 256 * (v / 256 % 256 ^ n) = _
    rw [show 256 ^ (n + 1) = 256 * 256 ^ n by ring, Nat.mod_mul]

theorem flush_one (s : State) (sid n : Nat) (hn : n = 1 ∨ n = 2) (h : s.mayWrite sid Obj.feltFlush = true) :
    (if s.flushable then (s.dictPutNum sid Obj.feltFlush 1 n).felt.flush = n ∧ (s.dictPutNum sid Obj.feltFlush 1 n).answered sid dOk 0
     else (s.dictPutNum sid Obj.feltFlush 1 n).answered sid dBusy 0 ∧ (s.dictPutNum sid Obj.feltFlush 1 n).felt = s.felt) ∧
    SameBut [.window, .sessions, .felt] s (s.dictPutNum sid Obj.feltFlush 1 n) := by
  have hp : Put s sid Obj.feltFlush (natLE 1 n) _ := Put.of h (by decide) row_feltFlush (by decide) (by rcases hn with rfl | rfl <;> decide) (by rcases hn with rfl | rfl <;> decide) (by rcases hn with rfl | rfl <;> rfl)
  have hX := write_feltFlush (asked s sid Obj.feltFlush (natLE 1 n)) sid (natLE 1 n)
  have f := State_startFlush_same (fl := [.felt]) rfl (asked s sid Obj.feltFlush (natLE 1 n)) (leNat (natLE 1 n)) (SameBut.refl _ _)
  have r := hp.res hX ((sameOpen f (by decide) sid).trans (asked_open _ _ _ _ _))
  have e : leNat (natLE 1 n) = n := by rcases hn with rfl | rfl <;> decide
  rw [e] at r f
  refine ⟨?_, SameBut.trans (SameBut.mono rfl (asked_same s sid Obj.feltFlush (natLE 1 n))) (SameBut.trans (SameBut.mono rfl f) (SameBut.mono rfl r.1))⟩
  have k := r.1 .felt (by decide)
  simp only [Facet.same, plain] at k r
  have hf : (asked s sid Obj.feltFlush (natLE 1 n)).flushable = s.flushable := rfl
  unfold State.dictPutNum
  unfold State.startFlush at k r
  rw [hf] at k r
  by_cases hc : s.flushable = true
  · rw [if_pos hc] at k r ⊢
    exact ⟨by rw [k], r.2⟩
  · rw [if_neg hc] at k r ⊢
    exact ⟨r.2, k⟩

set_option maxRecDepth 100000 in
theorem resumeCheck_asked (s : State) (sid key : Nat) (v r : Bytes) : (asked s sid key v).resumeCheck r = s.resumeCheck r := rfl

theorem putResume {s : State} {sid : Nat} {r : Bytes} (h : s.mayWrite sid Obj.resumeApply = true) (hl : r.length = 64) : Put s sid Obj.resumeApply r ⟨0x34000B, 0x34000B, .blob, .wo, 64, 64, .any, 0⟩ :=
  Put.of h (by decide) row_resumeApply (by decide) (by cases r with
    | nil => simp at hl
    | cons => rfl) (by simp [valueOk, typeOk, hl]) rfl

theorem thermal_of {l : List Facet} {s t : State} (h : SameBut l s t) (hl : Facet.thermal ∉ l) : t.thermal = s.thermal := h .thermal hl

/-- open asks -/
def opens (l : List Ask) : Nat := l.countP fun a => !a.enforced

theorem opens_adj (l : List Ask) (a : Ask) (h : l.find? (fun a => !a.enforced) = some a) (f : Ask → Ask) (hf : ∀ a, (f a).enforced = true) :
   opens (adjFirst (fun x => !x.enforced) f l) = opens l - 1 := by
  induction l with
  | nil => simp at h
  | cons x l ih =>
    unfold adjFirst
    by_cases hx : x.enforced = true
    · simp only [List.find?_cons, hx, Bool.not_true] at h
      simp only [hx, Bool.not_true, Bool.false_eq_true, if_false, opens, List.countP_cons]
      simpa [opens] using ih h
    · simp only [hx, Bool.not_false, if_true, opens, List.countP_cons, hf, Bool.not_true]
      simp

theorem opens_drop (l : List Ask) (a : Ask) (h : l.find? (fun a => !a.enforced) = some a) :
   opens (dropFirst (fun x => !x.enforced) l) = opens l - 1 := by
  induction l with
  | nil => simp at h
  | cons x l ih =>
    unfold dropFirst
    by_cases hx : x.enforced = true
    · simp only [List.find?_cons, hx, Bool.not_true] at h
      simp only [hx, Bool.not_true, Bool.false_eq_true, if_false, opens, List.countP_cons]
      simpa [opens] using ih h
    · simp only [hx, Bool.not_false, if_true, opens, List.countP_cons]
      simp

theorem endGrace_opens (s : State) : opens s.endGrace.thermal.asks = opens s.thermal.asks - 1 := by
  unfold State.endGrace
  cases h : s.thermal.asks.find? (fun a => !a.enforced) with
  | none =>
    have : opens s.thermal.asks = 0 := by
      unfold opens
      rw [List.countP_eq_zero]
      intro a ha
      have := List.find?_eq_none.mp h a ha
      simpa using this
    simp [this]
  | some a =>
    dsimp only
    split
    · have k := State_thermalSteps_same (fl := [.counters, .tiles, .ledger]) rfl (((s.setAsks (adjFirst (fun x => !x.enforced) (fun x => { x with enforced := true, hot := 0, cool := 0 }) s.thermal.asks)).log 0x5103 sevError agentThermal none ((s.setAsks (adjFirst (fun x => !x.enforced) (fun x => { x with enforced := true, hot := 0, cool := 0 }) s.thermal.asks)).askDetail a)).bump Obj.throttleEnforceTotal 1) (SameBut.refl _ _)
      rw [thermal_of k (by decide)]
      show opens (State.log _ _ _ _ _ _).thermal.asks = _
      rw [thermal_of (log_dict _ _ _ _ _ _) (by decide)]
      exact opens_adj _ a h _ (fun _ => rfl)
    · rw [thermal_of (log_dict _ _ _ _ _ _) (by decide)]
      exact opens_drop _ a h

theorem accept_opens (l : List Ask) (s : State) : opens (l.foldl (fun (t : State) _ => t.endGrace) s).thermal.asks = opens s.thermal.asks - l.length := by
  induction l generalizing s with
  | nil => rfl
  | cons a l ih => rw [List.foldl_cons, ih, endGrace_opens]; simp; omega

theorem putMod {s : State} {sid : Nat} (n : Nat) (hn : n < 3) (h : s.mayWrite sid Obj.moduleStateRequest = true) : Put s sid Obj.moduleStateRequest (natLE 1 n) ⟨0x520006, 0x520006, .enum, .wo, 1, 1, .codes 3, 0⟩ :=
  Put.of h (by decide) row_moduleStateRequest (by decide) (by rfl) (by obtain rfl | rfl | rfl : n = 0 ∨ n = 1 ∨ n = 2 := by omega
                                                                       all_goals decide) (by obtain rfl | rfl | rfl : n = 0 ∨ n = 1 ∨ n = 2 := by omega
                                                                                             all_goals rfl)

theorem startState_mod (s : State) (n : Nat) (b : Bool) : (s.startState n b).thermal.modSt = .changing n := by
  unfold State.startState
  extract_lets u a b w
  split
  · have k : SameBut [.funcs, .power] w ([12, 13, 14, 15].foldl (fun (t : State) c => (t.enableFunc (.domain c)).1) w) :=
      foldl_same _ _ (SameBut.refl _ _) (fun t c h => State_enableFunc_same rfl t _ h)
    rw [thermal_of k (by decide)]
  · rfl

theorem mod_go (s : State) (sid n : Nat) (hn : n < 3) (h : s.mayWrite sid Obj.moduleStateRequest = true)
   (e : (asked s sid Obj.moduleStateRequest (natLE 1 n)).requestState n = ((asked s sid Obj.moduleStateRequest (natLE 1 n)).startState n false, dOk)) :
   (s.dictPutNum sid Obj.moduleStateRequest 1 n).thermal.modSt = .changing n ∧ (s.dictPutNum sid Obj.moduleStateRequest 1 n).answered sid dOk 0 := by
  have hX := write_moduleStateRequest (asked s sid Obj.moduleStateRequest (natLE 1 n)) sid (natLE 1 n)
  have hl : leNat (natLE 1 n) = n := by rw [leNat_natLE]; omega
  rw [hl, e] at hX
  have f := State_startState_same (fl := [.funcs, .power, .thermal]) rfl (asked s sid Obj.moduleStateRequest (natLE 1 n)) n false (SameBut.refl _ _)
  have q := (putMod n hn h).res hX ((sameOpen f (by decide) sid).trans (asked_open _ _ _ _ _))
  refine ⟨?_, q.2⟩
  have := thermal_of q.1 (by decide)
  show (s.dictPut sid Obj.moduleStateRequest (natLE 1 n)).thermal.modSt = _
  rw [this]; exact startState_mod _ _ _

theorem ready_before (s : State) (h : s.boot.phase = .ready) : s.beforeReady = false := by
  unfold State.beforeReady; rw [h]; rfl

theorem bring_eq (s : State) (b : Bool) : s.startBringup b = portEnables.foldl (fun (t : State) e => if t.isOn e.2 then t.startEnable e.1 else t)
    (State.startDomains ({ (((s.secureBoot b).earlySettings).logTrip) with
    boot := { (((s.secureBoot b).earlySettings).logTrip).boot with phase := .training, unready := true }
    power := { (((s.secureBoot b).earlySettings).logTrip).power with allowance := drawDormant * 1000 }
    iface := { (((s.secureBoot b).earlySettings).logTrip).iface with hostLink := 1 } } : State)) := by
  unfold State.startBringup; with_reducible rfl

theorem bring_fold (l : List (Func × Nat)) (w : State) : SameBut [.funcs, .power, .counters, .ledger, .integ] w (l.foldl (fun (t : State) e => if t.isOn e.2 then t.startEnable e.1 else t) w.startDomains) := by
    refine SameBut.trans (SameBut.mono rfl (State_startDomains_same (fl := [.funcs, .power]) rfl w (SameBut.refl _ _))) ?_
    refine foldl_same _ _ (SameBut.refl _ _) (fun t e h => ?_)
    split
    · exact State_startEnable_same rfl _ _ h
    · exact h

theorem bring_same (s : State) (b : Bool) : (s.startBringup b).boot.phase = .training ∧ (s.startBringup b).dict.lease = s.dict.lease ∧
   (s.startBringup b).dict.staged = s.dict.staged ∧ (s.startBringup b).tiles = s.tiles := by
  have e1 := State_secureBoot_same (fl := [.counters, .ledger, .integ, .images, .update, .blobs]) rfl s b (SameBut.refl _ _)
  have e2 := State_earlySettings_same (fl := [.settings]) rfl (s.secureBoot b) (SameBut.refl _ _)
  have e3 := State_logTrip_same (fl := [.counters, .ledger, .integ, .boot]) rfl ((s.secureBoot b).earlySettings) (SameBut.refl _ _)
  have e : SameBut [.counters, .ledger, .integ, .images, .update, .blobs, .settings, .boot] s (((s.secureBoot b).earlySettings).logTrip) :=
    SameBut.trans (SameBut.mono rfl e1) (SameBut.trans (SameBut.mono rfl e2) (SameBut.mono rfl e3))
  rw [bring_eq]
  generalize (((s.secureBoot b).earlySettings).logTrip) = u at e
  generalize portEnables = l
  have g := bring_fold l ({ u with
    boot := { u.boot with phase := .training, unready := true }
    power := { u.power with allowance := drawDormant * 1000 }
    iface := { u.iface with hostLink := 1 } } : State)
  have g1 := g .boot (by decide)
  have g2 := g .lease (by decide)
  have g3 := g .staging (by decide)
  have g4 := g .tiles (by decide)
  have a2 := e .lease (by decide)
  have a3 := e .staging (by decide)
  have a4 := e .tiles (by decide)
  simp only [Facet.same, Prod.mk.injEq] at g1 g2 g3 g4 a2 a3 a4
  exact ⟨congrArg Boot.phase g1, g2.trans a2, g3.1.trans a3.1, g4.trans a4⟩

end Sys2Proof.Laws
end

