-- ==== Sys2Proof/Laws/FactsGroups.lean ====
section
/-! SUPPORT. Facts about registers, paths and blocks of thread groups, and the matrix array: what the shared operations do, for the provers to cite. -/

set_option Elab.async false
set_option linter.all false

namespace Sys2Proof.Laws

open Sys2Proof Sys2Proof.Machine

theorem mem_lanes (m : BitVec 32) (l : Nat) : l ∈ lanesOf m ↔ m.getLsbD l = true := by
  unfold lanesOf
  simp only [List.mem_filter, List.mem_range]
  constructor
  · exact fun h => h.2
  · intro h
    refine ⟨?_, h⟩
    by_contra hc
    rw [BitVec.getLsbD_of_ge _ _ (by omega)] at h
    simp at h

theorem fold_rest (l : List Nat) (r : Nat) (v : Nat → RegVal) (g : Group) :
   (l.foldl (fun (y : Group) k => y.setReg k r (v k)) g).stack = g.stack ∧ (l.foldl (fun (y : Group) k => y.setReg k r (v k)) g).exited = g.exited ∧
   (l.foldl (fun (y : Group) k => y.setReg k r (v k)) g).stores = g.stores ∧ (l.foldl (fun (y : Group) k => y.setReg k r (v k)) g).loads = g.loads := by
  induction l generalizing g with
  | nil => exact ⟨rfl, rfl, rfl, rfl⟩
  | cons k l ih =>
    have h := ih (g.setReg k r (v k))
    have e : (g.setReg k r (v k)).stack = g.stack ∧ (g.setReg k r (v k)).exited = g.exited ∧ (g.setReg k r (v k)).stores = g.stores ∧ (g.setReg k r (v k)).loads = g.loads := by
      unfold Group.setReg; split <;> exact ⟨rfl, rfl, rfl, rfl⟩
    exact ⟨h.1.trans e.1, h.2.1.trans e.2.1, h.2.2.1.trans e.2.2.1, h.2.2.2.trans e.2.2.2⟩

theorem fold_cur (l : List Nat) (r : Nat) (v : Nat → RegVal) (g : Group) :
   (l.foldl (fun (y : Group) k => y.setReg k r (v k)) g).cur = g.cur := by
  induction l generalizing g with
  | nil => rfl
  | cons k l ih =>
    rw [List.foldl_cons, ih]
    unfold Group.setReg; split <;> rfl

theorem running_of (a b : Group) (h : a.stack = b.stack) (hc : a.cur = b.cur) : a.running = b.running := by
  unfold Group.running Group.free
  rw [h, hc]

theorem adv_stack (a b : Group) (h : a.stack = b.stack) (hc : a.cur = b.cur) : a.advance.stack = b.advance.stack := by
  have e : (a.adjRunning fun p => { p with pc := pcNext p.pc }).stack = (b.adjRunning fun p => { p with pc := pcNext p.pc }).stack := by
    unfold Group.adjRunning
    rw [running_of a b h hc]
    cases b.running with
    | none => exact h
    | some p => simp only [h]
  unfold Group.advance Group.settled
  simp only [e]

theorem adv_rest (a : Group) : a.advance.exited = a.exited ∧ a.advance.stores = a.stores ∧ a.advance.loads = a.loads := by
  unfold Group.advance Group.settled Group.adjRunning
  cases a.running <;> exact ⟨rfl, rfl, rfl⟩

theorem wrote_fold (a : Group) (l : List Nat) (vd : Nat) (v : Nat → RegVal) (hv : vd < 256) (w : Nat → Nat → Option RegVal)
    (h : ∀ k, k < 32 → ∀ r, r < 256 → w k r = if r = vd ∧ k ∈ l then some (v k) else none) :
    a.wrote ((l.foldl (fun (y : Group) k => y.setReg k vd (v k)) a).advance) w := by
  have e := fold_rest l vd v a
  refine ⟨?_, adv_stack _ _ e.1 (fold_cur l vd v a), (adv_rest _).1.trans e.2.1, (adv_rest _).2.1.trans e.2.2.1, (adv_rest _).2.2.trans e.2.2.2⟩
  intro k hk r hr
  rw [reg_advance, h k hk r hr]
  by_cases hrv : r = vd
  · subst hrv
    rw [reg_foldl_setReg l r v a k hv]
    by_cases hm : k ∈ l <;> simp [hm]
  · rw [reg_foldl_setReg_other l vd r v a k hv hr hrv]
    simp [hrv]

theorem Issues.of_same {s t : State} {g b gr p} (h : s.Issues g b gr p) (e : SameBut [.counters, .ledger, .integ] s t) : t.group g = some gr := by
  have := group_of h
  unfold State.group State.block State.tile at this ⊢
  rw [show t.tiles = s.tiles from e .tiles (by decide)]
  exact this

theorem adjGroup_same (s : State) (g : GroupRef) (f : Group → Group) : SameBut [.tiles] s (s.adjGroup g f) := State_adjGroup_same rfl s g f (SameBut.refl _ _)

theorem wide_ok {s : State} {g : GroupRef} {b : Block} {gr : Group} {p : Path} (h : s.Issues g b gr p) (hp : p.mask = 0xFFFFFFFF) (regs : List Nat) (hr : ∀ r ∈ regs, r < b.nregs)
   (vd : Nat) (hv : vd < 256) (v : Nat → RegVal) (w : Nat → Nat → Option RegVal)
   (hw : ∀ k, k < 32 → ∀ r, r < 256 → w k r = if r = vd then some (v k) else none) :
   ∃ t gr', Host.Outcome.next (s.groupWide g b gr p regs fun x => (List.range 32).foldl (fun (y : Group) l => y.setReg l vd (v l)) x) = (Host.Outcome.next t : Out) ∧ t.group g = some gr' ∧ SameBut [.tiles] s t ∧ gr.wrote gr' w := by
  unfold State.groupWide
  rw [checked_ok g b gr [] _ [] _ hr (by simp)]
  have e : p.whole = true := by unfold Path.whole; rw [hp]; rfl
  rw [e]
  refine ⟨_, _, rfl, (group_adjGroup s g _).trans (by rw [group_of h]; rfl), adjGroup_same _ _ _, ?_⟩
  refine wrote_fold gr _ vd v hv _ ?_
  intro k hk r hr
  rw [hw k hk r hr]
  simp [hk]

theorem fold2 (l : List Nat) (vd : Nat) (v u : Nat → RegVal) (g : Group) (hv : vd + 1 < 256) :
    (∀ k r, r < 256 → (l.foldl (fun (y : Group) k => (y.setReg k vd (v k)).setReg k (vd + 1) (u k)) g).reg k r =
      if k ∈ l ∧ r = vd then v k else if k ∈ l ∧ r = vd + 1 then u k else g.reg k r) ∧
   (l.foldl (fun (y : Group) k => (y.setReg k vd (v k)).setReg k (vd + 1) (u k)) g).stack = g.stack ∧ (l.foldl (fun (y : Group) k => (y.setReg k vd (v k)).setReg k (vd + 1) (u k)) g).exited = g.exited ∧
   (l.foldl (fun (y : Group) k => (y.setReg k vd (v k)).setReg k (vd + 1) (u k)) g).stores = g.stores ∧ (l.foldl (fun (y : Group) k => (y.setReg k vd (v k)).setReg k (vd + 1) (u k)) g).loads = g.loads := by
  induction l generalizing g with
  | nil => exact ⟨fun k r _ => by simp, rfl, rfl, rfl, rfl⟩
  | cons k l ih =>
    have h := ih ((g.setReg k vd (v k)).setReg k (vd + 1) (u k))
    have e : ∀ (g : Group) k r v, (g.setReg k r v).stack = g.stack ∧ (g.setReg k r v).exited = g.exited ∧ (g.setReg k r v).stores = g.stores ∧ (g.setReg k r v).loads = g.loads := by
      intro g k r v; unfold Group.setReg; split <;> exact ⟨rfl, rfl, rfl, rfl⟩
    have e1 := e g k vd (v k)
    have e2 := e (g.setReg k vd (v k)) k (vd + 1) (u k)
    refine ⟨?_, h.2.1.trans (e2.1.trans e1.1), h.2.2.1.trans (e2.2.1.trans e1.2.1), h.2.2.2.1.trans (e2.2.2.1.trans e1.2.2.1), h.2.2.2.2.trans (e2.2.2.2.trans e1.2.2.2)⟩
    intro k' r hr
    rw [List.foldl_cons, h.1 k' r hr]
    simp only [List.mem_cons]
    by_cases hk : k' = k
    · subst hk
      by_cases ha : r = vd
      · subst ha
        by_cases hm : k' ∈ l <;> simp [hm]
        rw [reg_setReg_other _ _ _ _ _ _ (by omega), reg_setReg_same]
      · by_cases hb : r = vd + 1
        · subst hb
          by_cases hm : k' ∈ l <;> simp [hm]
        · simp [ha, hb]
          rw [reg_setReg_other _ _ _ _ _ _ (by omega), reg_setReg_other _ _ _ _ _ _ (by omega)]
    · have : ((g.setReg k vd (v k)).setReg k (vd + 1) (u k)).reg k' r = g.reg k' r := by
        rw [reg_setReg_other _ _ _ _ _ _ (by omega), reg_setReg_other _ _ _ _ _ _ (by omega)]
      simp [hk, this]

theorem setAll_wrote (a : Group) (vd : Nat) (v : W32) (hv : vd < 256) :
   a.wrote ((a.setAll vd v).advance) (fun _ r => if r = vd then some { val := v, mark := none } else none) := by
  unfold Group.setAll
  refine wrote_fold a _ vd (fun _ => { val := v, mark := none }) hv _ ?_
  intro k hk r hr
  simp [hk]

theorem group_adjBlock (s : State) (g : GroupRef) (f : Block → Block) (hs : ∀ b, (f b).slot = b.slot) (hg : ∀ b, (f b).groups = b.groups) :
   (s.adjBlock g.tile g.slot f).group g = s.group g := by
  unfold State.group
  rw [block_adjBlock s g.tile g.slot f hs]
  cases s.block g.tile g.slot with
  | none => rfl
  | some b => simp [hg]

theorem find_map_uid (l : List Block) (slot uid : Nat) (f : Block → Block) (hs : ∀ b, (f b).slot = b.slot) :
    (l.map fun b => if b.uid = uid then f b else b).find? (fun b => b.slot == slot) =
      (l.find? fun b => b.slot == slot).map fun b => if b.uid = uid then f b else b := by
  induction l with
  | nil => rfl
  | cons b l ih =>
    have e : (if b.uid = uid then f b else b).slot = b.slot := by split <;> simp [hs]
    by_cases hb : b.slot = slot
    · simp [List.find?_cons, e, hb]
    · simp [List.find?_cons, e, hb, ih]

theorem block_adjOwner (s : State) (tile slot uid : Nat) (f : Block → Block) (hs : ∀ b, (f b).slot = b.slot) :
    (s.adjOwner tile uid f).block tile slot = (s.block tile slot).map fun b => if b.uid = uid then f b else b := by
  unfold State.adjOwner State.block
  rw [tile_adjTile]
  exact find_map_uid _ _ _ _ hs

theorem missue_core (s : State) (g : GroupRef) (b : Block) (uid : Nat) (f : Block → Block) (m : Matrix → Matrix) (hs : ∀ b, (f b).slot = b.slot)
    (hb : s.block g.tile g.slot = some b) (hu : b.uid = uid) :
    let t := ((s.adjOwner g.tile uid f).adjTile g.tile fun t => { t with matrix := m t.matrix }).advanceGroup g
    (t.tile g.tile).matrix = m (s.tile g.tile).matrix ∧ t.block g.tile g.slot = some { f b with groups := adjAt (f b).groups g.group Group.advance } ∧ SameBut [.tiles] s t := by
  refine ⟨?_, ?_, ?_⟩
  · show ((State.adjTile _ _ _).tile g.tile).matrix = _
    rw [tile_adjTile]
    show ((State.adjTile _ _ _).tile g.tile).matrix = _
    rw [tile_adjTile]
    show m ((State.adjTile _ _ _).tile g.tile).matrix = _
    rw [tile_adjTile]
  · show (State.adjBlock _ _ _ _).block g.tile g.slot = _
    rw [block_adjBlock _ _ _ (fun b => { b with groups := adjAt b.groups g.group Group.advance }) (fun _ => rfl)]
    have : ((s.adjOwner g.tile uid f).adjTile g.tile fun t => { t with matrix := m t.matrix }).block g.tile g.slot = (s.adjOwner g.tile uid f).block g.tile g.slot := by
      unfold State.block; rw [tile_adjTile]
    rw [this, block_adjOwner s g.tile g.slot uid f hs, hb]
    simp [hu]
  · refine SameBut.trans ?_ (adjGroup_same _ _ _)
    exact State_adjTile_same rfl _ _ _ (State_adjOwner_same rfl s _ _ _ (SameBut.refl _ _))

@[simp] theorem tile_adjMatrix (s : State) (n : Nat) (f : Matrix → Matrix) : ((s.adjMatrix n f).tile n).matrix = f (s.tile n).matrix := by
  unfold State.adjMatrix; rw [tile_adjTile]

theorem adjMatrix_same (s : State) (n : Nat) (f : Matrix → Matrix) : SameBut [.tiles] s (s.adjMatrix n f) := State_adjMatrix_same rfl s n f (SameBut.refl _ _)

theorem adjAt_length {α : Type} (l : List α) (k : Nat) (f : α → α) : (adjAt l k f).length = l.length := by
  induction l generalizing k with
  | nil => simp [adjAt]
  | cons x l ih => cases k <;> simp [adjAt, ih]

theorem tile_of_same {l : List Facet} {s t : State} (h : SameBut l s t) (hl : Facet.tiles ∉ l) (n : Nat) : t.tile n = s.tile n := by
  unfold State.tile; rw [show t.tiles = s.tiles from h .tiles hl]

theorem submit_drop_tile (s : State) (c uid a n : Nat) :
    (s.submit { agent := .engine c, uid := uid, addr := a, kind := .drop, ack := false }).tile n = s.tile n := by
  have hv : ∀ (x y k : Nat), (s.violation x y k).tile n = s.tile n := fun x y k =>
    tile_of_same (l := [.counters, .ledger, .integ]) (State_violation_same rfl _ _ _ _ (SameBut.refl _ _)) (by decide) _
  have hs : ∀ (l : Nat), (s.bankDrop l).1.tile n = s.tile n := fun l =>
    tile_of_same (State_bankDrop_same (fl := ps120) rfl s l (SameBut.refl _ _)) (by decide) _
  have key : (s.serve { agent := .engine c, uid := uid, addr := a, kind := .drop, ack := false }).1.tile n = s.tile n := by
    unfold State.serve
    dsimp only
    split
    · rfl
    split
    · rfl
    split
    · rename_i h; cases h
    · exact hv _ _ _
    · have e := hs (a / 128)
      generalize s.bankDrop (a / 128) = q at e ⊢
      obtain ⟨u, b⟩ := q
      cases b
      · exact e
      · exact e
  unfold State.submit
  split
  · rfl
  · generalize s.serve { agent := .engine c, uid := uid, addr := a, kind := .drop, ack := false } = q at key ⊢
    obtain ⟨u, b⟩ := q
    cases b
    · exact key
    · exact key

theorem dropLines_matrix (ls : List Nat) (tile uid n : Nat) (s : State) : ((s.dropLines tile uid ls).tile n).matrix = (s.tile n).matrix := by
  unfold State.dropLines
  induction ls generalizing s with
  | nil => rfl
  | cons l ls ih =>
    rw [List.foldl_cons, ih, submit_drop_tile]
    by_cases hn : n = tile
    · subst hn; rw [tile_adjTile]; rfl
    · rw [tile_adjTile_other _ _ _ _ hn]

theorem runLoad_loads (s : State) (tile : Nat) (i : MInstr) (part : List (List Elt)) (got : List SectorVal) :
   s.LoadsFrom tile i part got (.next (s.runLoad tile i part got)) := by
  intro s1 s2 bs cs ts ms rows rest a h1 h2 h3 h4
  unfold State.runLoad
  simp only [h1, h2, h3]
  have key : ∀ u : State, (u.tile tile).matrix = ((s2.adjMatrix tile fun m => m.adjSub i.desc.sub fun a =>
        let wts : Weights := { cols := columnsOf i.desc.n rows, blockSc := bs, chanSc := cs, tscale := ts, marks := ms, info := loadOf i }
        let a := if i.useY then { a with y := some wts } else { a with x := some wts }
        { a with part := [], sectors := [], queue := a.queue.map fun x => if x.same i then { x with phase := .rows 0 } else x }).tile tile).matrix →
      ∃ a', u.sub tile i.desc.sub = some a' ∧
      a'.register i = some { cols := columnsOf i.desc.n rows, blockSc := bs, chanSc := cs, tscale := ts, marks := ms, info := loadOf i } ∧
      (if i.useY then a'.x = a.x else a'.y = a.y) ∧
      a'.queue = a.queue.map (fun x => if x.same i then { x with phase := .rows 0 } else x) := by
    intro u hu
    unfold State.sub at h4 ⊢
    rw [hu, tile_adjMatrix]
    simp only [Matrix.adjSub, adjAt_getElem?, h4, Option.map_some]
    refine ⟨_, rfl, ?_⟩
    unfold SubArray.register
    cases i.useY <;> simp
  obtain ⟨a', h⟩ := key _ (dropLines_matrix _ _ _ _ _)
  exact ⟨_, a', rfl, h⟩

theorem find_in_append (l : List MInstr) (j : MInstr) (h : l.all MInstr.inBank = true) (hj : j.phase = .waitLoad) :
    (l ++ [j]).find? (fun i => match i.phase with
    | .waitLoad => true
    | .loading _ => true
    | _ => false) = some j := by
  induction l with
  | nil => simp [hj]
  | cons x l ih =>
    simp only [List.all_cons, Bool.and_eq_true] at h
    have hx : x.phase = .inBank := by have := h.1; simpa [MInstr.inBank] using this
    simp only [List.cons_append, List.find?_cons, hx, ih h.2]

theorem find_map_owner (l : List Block) (uid : Nat) (f : Block → Block) (hs : ∀ b, (f b).uid = b.uid) :
    (l.map fun b => if b.uid = uid then f b else b).find? (fun b => b.uid == uid) = (l.find? fun b => b.uid == uid).map f := by
  induction l with
  | nil => rfl
  | cons b l ih =>
    by_cases hb : b.uid = uid
    · simp [List.find?_cons, hb, hs]
    · simp [List.find?_cons, hb, ih]

theorem owner_adjOwner (s : State) (tile uid : Nat) (f : Block → Block) (hs : ∀ b, (f b).uid = b.uid) :
    (s.adjOwner tile uid f).ownerBlock tile uid = (s.ownerBlock tile uid).map f := by
  unfold State.adjOwner State.ownerBlock State.blockByUid
  rw [tile_adjTile]
  exact find_map_owner _ _ _ hs

theorem owner_adjMatrix (s : State) (tile uid : Nat) (f : Matrix → Matrix) : (s.adjMatrix tile f).ownerBlock tile uid = s.ownerBlock tile uid := by
  unfold State.adjMatrix State.ownerBlock State.blockByUid
  rw [tile_adjTile]

theorem matrix_adjOwner (s : State) (tile uid : Nat) (f : Block → Block) : ((s.adjOwner tile uid f).tile tile).matrix = (s.tile tile).matrix := by
  unfold State.adjOwner; rw [tile_adjTile]

theorem owner_of_tile {s t : State} {tile : Nat} (h : t.tile tile = s.tile tile) (uid : Nat) : t.ownerBlock tile uid = s.ownerBlock tile uid := by
  unfold State.ownerBlock State.blockByUid; rw [h]

theorem bump_tile (s : State) (k n tile : Nat) : (s.bump k n).tile tile = s.tile tile :=
  tile_of_same (State_bump_same (fl := ps6) rfl s k n (SameBut.refl _ _)) (by decide) _

theorem log_tile (s : State) (a b c : Nat) (d : LogAddr) (e tile : Nat) : (s.log a b c d e).tile tile = s.tile tile :=
  tile_of_same (State_log_same (fl := ps63) rfl s a b c d e (SameBut.refl _ _)) (by decide) _

theorem raiseSat_core (s : State) (agent seq : Nat) (dst : LogAddr) (a b tile : Nat) :
   ((s.raiseSat agent seq dst a b).tile tile).matrix = (s.tile tile).matrix ∧ ((s.raiseSat agent seq dst a b).tile tile).blocks = (s.tile tile).blocks := by
  obtain ⟨u, hu, ht⟩ : ∃ u : State, u = (let s := s.bump Obj.satEventTotal 1
      let first := match s.entry seq with
        | some e => e.sats == 0
        | none => false
      let s := if first then s.event 0x01 seq agent else s
      s.adjEntry seq fun e => { e with sats := min 255 (e.sats + 1) }) ∧ u.tile tile = s.tile tile := by
    refine ⟨_, rfl, ?_⟩
    refine tile_of_same (l := [.counters, .ledger, .integ]) (State_adjEntry_same rfl _ _ _ ?_) (by decide) _
    have hb : SameBut [.counters, .ledger, .integ] s (s.bump Obj.satEventTotal 1) := State_bump_same rfl _ _ _ (SameBut.refl _ _)
    repeat' first
      | exact State_event_same rfl _ _ _ _ hb
      | exact hb
      | split
  have e : s.raiseSat agent seq dst a b = if u.satOpen agent then
      (if agent < 64 then u.adjTile agent fun x => { x with satLog := some u.now } else u.limitMark (0x210100 + agent)).log 0x2101 sevInfo
        agent dst (cap32 b + cap32 a * 2 ^ 32)
    else u.bump Obj.satEventLogSuppressed 1 := by rw [hu]; rfl
  rw [e]
  split
  · rw [log_tile]
    split
    · by_cases hn : tile = agent
      · subst hn; rw [tile_adjTile, ht]; exact ⟨rfl, rfl⟩
      · rw [tile_adjTile_other _ _ _ _ hn, ht]; exact ⟨rfl, rfl⟩
    · have : (u.limitMark (0x210100 + agent)).tile tile = u.tile tile := by
        unfold State.limitMark State.tile; rfl
      rw [this, ht]; exact ⟨rfl, rfl⟩
  · rw [bump_tile, ht]; exact ⟨rfl, rfl⟩

theorem mem_insertNat (l : List Nat) (k x : Nat) : x ∈ insertNat l k ↔ x = k ∨ x ∈ l := by
  induction l with
  | nil => simp [insertNat]
  | cons j l ih =>
    unfold insertNat
    split
    · simp
    · split
      · rename_i h; subst h; simp
      · simp [ih]; tauto

theorem mem_foldl_insert (l acc : List Nat) (x : Nat) : x ∈ l.foldl insertNat acc ↔ x ∈ l ∨ x ∈ acc := by
  induction l generalizing acc with
  | nil => simp
  | cons k l ih => rw [List.foldl_cons, ih, mem_insertNat]; simp; tauto

theorem mem_sortNat (l : List Nat) (x : Nat) : x ∈ sortNat l ↔ x ∈ l := by
  unfold sortNat; rw [mem_foldl_insert]; simp

theorem sortNat_const (l : List Nat) (pc : Nat) (h : ∀ x ∈ l, x = pc) (hn : l ≠ []) : sortNat l = [pc] := by
  unfold sortNat
  cases l with
  | nil => exact absurd rfl hn
  | cons a l =>
    have ha : a = pc := h a (by simp)
    subst ha
    rw [List.foldl_cons]
    show l.foldl insertNat [a] = [a]
    have : ∀ l : List Nat, (∀ x ∈ l, x = a) → l.foldl insertNat [a] = [a] := by
      intro l hl
      induction l with
      | nil => rfl
      | cons b l ih =>
        have hb : b = a := hl b (by simp)
        subst hb
        rw [List.foldl_cons]
        have : insertNat [b] b = [b] := by simp [insertNat]
        rw [this]
        exact ih (fun x hx => hl x (by simp [hx]))
    exact this l (fun x hx => h x (by simp [hx]))

theorem lanes_ne (m : BitVec 32) (h : m ≠ 0) : lanesOf m ≠ [] := by
  intro hc
  apply h
  apply BitVec.eq_of_getLsbD_eq
  intro i hi
  have : i ∉ lanesOf m := by rw [hc]; simp
  rw [mem_lanes] at this
  simpa using this

theorem foldl_mask (lanes : List (Nat × Nat)) (pc : Nat) (m : BitVec 32) (l : Nat) (hl : ∀ e ∈ lanes, e.1 < 32) :
   (lanes.foldl (fun (m : BitVec 32) e => if e.2 = pc then m ||| (1#32 <<< e.1) else m) m).getLsbD l = true ↔ m.getLsbD l = true ∨ (l, pc) ∈ lanes := by
  induction lanes generalizing m with
  | nil => simp
  | cons e lanes ih =>
    rw [List.foldl_cons, ih _ (fun x hx => hl x (by simp [hx]))]
    have he := hl e (by simp)
    obtain ⟨a, c⟩ := e
    by_cases hc : c = pc
    · subst hc
      simp only [if_true, BitVec.getLsbD_or, Bool.or_eq_true, List.mem_cons, Prod.mk.injEq, and_true]
      have : (1#32 <<< a).getLsbD l = true ↔ l = a := by
        simp only [BitVec.getLsbD_shiftLeft, BitVec.getLsbD_one, Bool.and_eq_true, decide_eq_true_eq, Bool.not_eq_true', decide_eq_false_iff_not]
        dsimp only at he
        omega
      rw [this]
      tauto
    · simp only [hc, if_false, List.mem_cons, Prod.mk.injEq]
      constructor
      · rintro (h | h)
        · exact .inl h
        · exact .inr (.inr h)
      · rintro (h | ⟨_, h⟩ | h)
        · exact .inl h
        · exact absurd h.symm hc
        · exact .inr h

theorem mem_settle (l : List Path) (q : Path) (h : q ∈ settle l) : ∃ p ∈ l, q.mask = p.mask :=
  ⟨q, (List.mem_filter.mp h).1, rfl⟩

theorem mem_settleAll (n : Nat) (l : List Path) (q : Path) (h : q ∈ settleAll n l) : ∃ p ∈ l, q.mask = p.mask := by
  induction n generalizing l with
  | zero => exact ⟨q, h, rfl⟩
  | succ n ih =>
    obtain ⟨p, hp, e⟩ := ih _ h
    obtain ⟨p2, hp2, e2⟩ := mem_settle _ _ hp
    exact ⟨p2, hp2, e.trans e2⟩

/-- A group with some threads exited and in no path. -/
def Gone (ex m : BitVec 32) (x : Group) : Prop := x.exited = ex ∧ ∀ q ∈ x.stack, q.mask &&& m = 0

theorem gone_settled {ex m x} (h : Gone ex m x) : Gone ex m x.settled := by
  refine ⟨h.1, ?_⟩
  intro q hq
  obtain ⟨p, hp, e⟩ := mem_settleAll _ _ _ hq
  rw [e]; exact h.2 p hp

theorem gone_resume {ex m x} (k : BarKind) (h : Gone ex m x) : Gone ex m (x.resume k) := by
  unfold Group.resume
  apply gone_settled
  refine ⟨h.1, ?_⟩
  intro q hq
  simp only [List.mem_map] at hq
  obtain ⟨p, hp, rfl⟩ := hq
  have := h.2 p hp
  split <;> exact this

theorem live_resume (x : Group) (k : BarKind) : (x.resume k).live = x.live := rfl

def BGone (g : GroupRef) (ex m : BitVec 32) (b : Block) : Prop :=
  (∃ x, b.groups[g.group]? = some x ∧ Gone ex m x) ∧ (b.exiting = true ↔ ∀ x ∈ b.groups, x.live = 0)

theorem bgone_map {g ex m b} (k : BarKind) (h : BGone g ex m b) : BGone g ex m { b with groups := b.groups.map fun x => x.resume k } := by
  obtain ⟨⟨x, hx, hg⟩, he⟩ := h
  refine ⟨⟨x.resume k, by simp [hx], gone_resume k hg⟩, ?_⟩
  simp only [List.mem_map, forall_exists_index, and_imp, forall_apply_eq_imp_iff₂, live_resume]
  exact he

theorem bgone_settle {g ex m b} (h : BGone g ex m b) : BGone g ex m b.settleBars := by
  unfold Block.settleBars
  have : ∀ (l : List (Nat × BarInst)) (b : Block), BGone g ex m b → BGone g ex m { b with groups := l.foldl (fun gs e => gs.map fun g => g.resume (.block e.1)) b.groups } := by
    intro l
    induction l with
    | nil => intro b h; exact h
    | cons e l ih => intro b h; exact ih _ (bgone_map (.block e.1) h)
  exact this _ b h

def SGone (g : GroupRef) (ex m : BitVec 32) (s : State) : Prop := ∃ b, s.block g.tile g.slot = some b ∧ BGone g ex m b

theorem look_map {α : Type} (l : List (Nat × α)) (n : Nat) (f : α → α) : NMap.look (l.map fun t => (t.1, f t.2)) n = (NMap.look l n).map f := by
  induction l with
  | nil => rfl
  | cons e l ih =>
    obtain ⟨k, v⟩ := e
    simp only [NMap.look, List.map_cons, List.find?_cons] at ih ⊢
    by_cases hk : k = n <;> simp [hk, ih]

theorem lookD_map {α : Type} (l : List (Nat × α)) (n : Nat) (d : α) (f : α → α) (hd : f d = d) : NMap.lookD (l.map fun t => (t.1, f t.2)) n d = f (NMap.lookD l n d) := by
  unfold NMap.lookD
  rw [look_map]
  cases NMap.look l n <;> simp [hd]

theorem sgone_adjBlocks {g ex m s} (p : Block → Bool) (f : Block → Block) (hs : ∀ b, (f b).slot = b.slot) (hf : ∀ b, BGone g ex m b → BGone g ex m (f b))
   (h : SGone g ex m s) : SGone g ex m (s.adjBlocks p f) := by
  obtain ⟨b, hb, hg⟩ := h
  have : (s.adjBlocks p f).block g.tile g.slot = (s.block g.tile g.slot).map fun b => if p b then f b else b := by
    unfold State.block State.adjBlocks State.tile
    have e := lookD_map s.tiles g.tile Tile.empty (fun t => { t with blocks := t.blocks.map fun b => if p b then f b else b }) rfl
    try dsimp only at e
    rw [e]
    try dsimp only
    rw [List.find?_map]
    congr 1
    congr 1
    funext b
    simp only [Function.comp]
    split <;> simp [hs]
  refine ⟨if p b then f b else b, by rw [this, hb]; rfl, ?_⟩
  split
  · exact hf b hg
  · exact hg

theorem sgone_tiles {g ex m} {s t : State} (h : SGone g ex m s) (e : t.tiles = s.tiles) : SGone g ex m t := by
  unfold SGone State.block State.tile at *
  rw [e]; exact h

theorem find_none {α : Type} {l : List α} {p : α → Bool} (h : ∀ e ∈ l, p e = false) : l.find? p = none := by
  rw [List.find?_eq_none]; intro x hx; simp [h x hx]

theorem access_ok (s : State) (g : GroupRef) (gr : Group) (p : Path) (dir : Dir) (t : Block) (rank width va vd : Nat) (err : ErrHit)
   (h : ∀ e ∈ laneOffsets gr p va, e.2 + width ≤ t.scratchB ∧ e.2 % width = 0) :
   s.scratchAccess g gr p dir t rank width va vd err = (match dir with
        | .load => State.scratchLoad g t.tile t.uid width vd (laneOffsets gr p va) (s.firstError gr p va t err)
        | .store => State.scratchStore gr t.tile t.uid width vd (laneOffsets gr p va) (s.firstError gr p va t err)).advanceGroup g := by
  unfold State.scratchAccess State.firstError
  dsimp only
  rw [find_none (fun e he => by have := (h e he).1; simp; omega), find_none (fun e he => by have := (h e he).2; simp [this])]
  cases dir <;> rfl

theorem widthOk_of {w : Nat} (h : w ∈ [1, 2, 4, 8, 16]) : widthOk w = true := by
  simp only [List.mem_cons, List.not_mem_nil, or_false] at h
  rcases h with rfl | rfl | rfl | rfl | rfl <;> rfl

theorem poisonedReg_none {gr : Group} {l : Nat} {rs : List Nat} (h : ∀ r ∈ rs, (gr.reg l r).mark = none) : gr.poisonedReg l rs = none := by
  unfold Group.poisonedReg
  exact find_none (fun r hr => by simp [h r hr])

theorem addr_ok {s : State} {g : GroupRef} {addrs : List (Nat × Nat)} {align : Nat} {write : Bool} {k : State} (h : ∀ e ∈ addrs, e.2 % align = 0 ∧ s.violationKind e.2 write = none) :
   s.addrFault g addrs align write k = k := by
  unfold State.addrFault
  rw [find_none (fun e he => by simp [(h e he).1])]
  have : (addrs.findSome? fun e => (s.violationKind e.2 write).map fun v => (e.2, v)) = none := by
    rw [List.findSome?_eq_none_iff]; intro e he; simp [(h e he).2]
  simp only [this]

theorem group_of_tiles {s t : State} (h : t.tiles = s.tiles) (g : GroupRef) : t.group g = s.group g := by
  unfold State.group State.block State.tile; rw [h]

theorem l1_adjGroup (s : State) (g : GroupRef) (f : Group → Group) : ((s.adjGroup g f).tile g.tile).l1 = (s.tile g.tile).l1 := by
  unfold State.adjGroup State.adjBlock; rw [tile_adjTile]

theorem same_tile {l : List Facet} {s t : State} (h : SameBut l s t) (hl : Facet.tiles ∉ l) (n : Nat) : t.tile n = s.tile n := tile_of_same h hl n

theorem seat_blocks (s : State) (e : Entry) (k : Kernel) (linear n : Nat) : ∃ b, ((s.seat e k linear n).tile n).blocks = (s.tile n).blocks ++ [b] ∧ b.seq = e.seq ∧
      b.linear = linear ∧ b.nregs = k.nregs ∧ b.scratchB = k.scratchB ∧ b.groups = List.replicate (k.threads / 32) (Group.start e.code) ∧
      b.scratch = { bytes := [], marks := [] } ∧ b.tokens = [] ∧ b.exiting = false := by
  have key : ∃ b : Block, (b.seq = e.seq ∧
      b.linear = linear ∧ b.nregs = k.nregs ∧ b.scratchB = k.scratchB ∧ b.groups = List.replicate (k.threads / 32) (Group.start e.code) ∧
      b.scratch = { bytes := [], marks := [] } ∧ b.tokens = [] ∧ b.exiting = false) ∧ s.seat e k linear n = (let s := s.adjTile n fun t => { t with blocks := t.blocks ++ [b] }
  let s : State := { s with ledger := { s.ledger with uid := s.ledger.uid + 1 } }
  match NMap.look s.boot.binding n with
  | some p => s.setSleep p .run
  | none => s) := by
    unfold State.seat
    exact ⟨_, ⟨rfl, rfl, rfl, rfl, rfl, rfl, rfl, rfl⟩, rfl⟩
  obtain ⟨b, hb, e⟩ := key
  refine ⟨b, ?_, hb⟩
  rw [e]
  dsimp only
  split
  · rw [tile_of_same (State_setSleep_same (fl := [.thermal]) rfl _ _ _ (SameBut.refl _ _)) (by decide)]
    exact congrArg Tile.blocks (tile_adjTile s n (fun t => { t with blocks := t.blocks ++ [b] }))
  · exact congrArg Tile.blocks (tile_adjTile s n (fun t => { t with blocks := t.blocks ++ [b] }))

def BEnd (r : BlockRef) (s : State) : Prop := ∃ b', s.block r.tile r.slot = some b' ∧ b'.ended = true ∧ b'.groups = [] ∧ b'.tokens = []

theorem block_adjBlocks (s : State) (p : Block → Bool) (f : Block → Block) (tile slot : Nat) (hs : ∀ b, (f b).slot = b.slot) :
    (s.adjBlocks p f).block tile slot = (s.block tile slot).map fun b => if p b then f b else b := by
  unfold State.block State.adjBlocks State.tile
  have e := lookD_map s.tiles tile Tile.empty (fun t => { t with blocks := t.blocks.map fun b => if p b then f b else b }) rfl
  try dsimp only at e
  rw [e]
  try dsimp only
  rw [List.find?_map]
  congr 1
  congr 1
  funext b
  simp only [Function.comp]
  split <;> simp [hs]

theorem bend_blocks {r s} (h : BEnd r s) (p : Block → Bool) (k : BarKind) : BEnd r (s.adjBlocks p fun b => { b with groups := b.groups.map fun g => g.resume k }) := by
  obtain ⟨b, hb, h1, h2, h3⟩ := h
  refine ⟨if p b then { b with groups := b.groups.map fun g => g.resume k } else b, ?_, ?_⟩
  · rw [block_adjBlocks s p (fun b => { b with groups := b.groups.map fun g => g.resume k }) _ _ (fun _ => rfl), hb]; rfl
  · split
    · exact ⟨h1, by simp [h2], h3⟩
    · exact ⟨h1, h2, h3⟩

theorem bend_tiles {r} {s t : State} (h : BEnd r s) (e : t.tiles = s.tiles) : BEnd r t := by
  unfold BEnd State.block State.tile at *; rw [e]; exact h

theorem bend_settle {r s} (h : BEnd r s) (tile slot seq : Nat) : BEnd r (s.settleBarriers tile slot seq) := by
  unfold State.settleBarriers
  have g3 : BEnd r (s.adjBlock tile slot Block.settleBars) := by
    obtain ⟨b, hb, h1, h2, h3⟩ := h
    have fold : ∀ l : List (Nat × BarInst), l.foldl (fun (gs : List Group) e => gs.map fun g => g.resume (.block e.1)) [] = [] := by
      intro l; induction l with
      | nil => rfl
      | cons e l ih => exact ih
    by_cases ht : tile = r.tile
    · subst ht
      unfold BEnd State.block State.adjBlock
      rw [tile_adjTile]
      have : ((s.tile r.tile).blocks.map fun b => if b.slot = slot then b.settleBars else b).find? (fun b => b.slot == r.slot) = (((s.tile r.tile).blocks.find? fun b => b.slot == r.slot).map fun b => if b.slot = slot then b.settleBars else b) := by
        rw [List.find?_map]; congr 1; congr 1; funext b; simp only [Function.comp]; split <;> rfl
      dsimp only
      rw [this]
      have hb' : (s.tile r.tile).blocks.find? (fun b => b.slot == r.slot) = some b := hb
      rw [hb']
      refine ⟨if b.slot = slot then b.settleBars else b, rfl, ?_⟩
      have : b.settleBars.groups = [] := by
        unfold Block.settleBars
        dsimp only
        rw [h2]; exact fold _
      by_cases hs : b.slot = slot
      · rw [if_pos hs]; exact ⟨h1, this, h3⟩
      · rw [if_neg hs]; exact ⟨h1, h2, h3⟩
    · refine ⟨b, ?_, h1, h2, h3⟩
      rw [← hb]
      unfold State.block State.adjBlock
      rw [tile_adjTile_other _ _ _ _ (Ne.symm ht)]
  have g4 : ∀ u, BEnd r u → BEnd r (u.settleCbars seq) := by
    intro u hu
    unfold State.settleCbars
    split
    · exact hu
    · dsimp only
      have : ∀ (l : List (Nat × BarInst)) (u : State), BEnd r u → BEnd r (l.foldl (fun (t : State) e => t.adjBlocks (fun c => c.seq == seq && c.cluster == e.1 / 2) fun c =>
      { c with groups := c.groups.map fun g => g.resume (.cluster (e.1 % 2)) }) u) := by
        intro l
        induction l with
        | nil => intro u hu; exact hu
        | cons e l ih => intro u hu; exact ih _ (bend_blocks hu _ _)
      exact this _ _ (bend_tiles hu rfl)
  have g5 : ∀ u, BEnd r u → BEnd r (u.settleGbar seq) := by
    intro u hu
    unfold State.settleGbar
    split
    · exact hu
    · split
      · exact hu
      · split
        · exact bend_tiles hu rfl
        · exact hu
  exact g5 _ (g4 _ g3)

end Sys2Proof.Laws
end

