-- ==== Sys2Proof/Laws/FactsMemory.lean ====
section
/-! SUPPORT. Facts about Felt, pages, and entries of the ledger: what the shared operations do, for the provers to cite. -/

set_option Elab.async false
set_option linter.all false

namespace Sys2Proof.Laws

open Sys2Proof Sys2Proof.Machine

theorem felt_of_same {l : List Facet} {s t : State} (h : SameBut l s t) (hl : Facet.felt ∉ l) : t.felt = s.felt := h .felt hl

theorem bump_felt (s : State) (k n : Nat) : (s.bump k n).felt = s.felt := felt_of_same (State_bump_same (fl := ps6) rfl s k n (SameBut.refl _ _)) (by decide)

theorem log_felt (s : State) (a b c : Nat) (d : LogAddr) (e : Nat) : (s.log a b c d e).felt = s.felt := felt_of_same (State_log_same (fl := ps63) rfl s a b c d e (SameBut.refl _ _)) (by decide)

theorem touch_lines (s : State) (line : Nat) : (s.touch line).felt.lines = s.felt.lines ∧ (s.touch line).felt.spilled = s.felt.spilled := by
  unfold State.touch; split <;> exact ⟨rfl, rfl⟩

theorem pages_of {s t : State} (h : Facet.tables.same s t) : t.mem.pages = s.mem.pages := by
  have h2 : ({ t.mem with hbm := .empty, tier0 := .empty, tier1 := .empty, host := .empty } : Mem) = { s.mem with hbm := .empty, tier0 := .empty, tier1 := .empty, host := .empty } := h
  exact (congrArg Mem.pages h2 : (_ : Mem).pages = (_ : Mem).pages)

theorem entry_adj (s : State) (seq : Nat) (f : Entry → Entry) (e : Entry) (h : s.entry seq = some e) (hs : ∀ e, (f e).seq = e.seq) : (s.adjEntry seq f).entry seq = some (f e) := by
  have hq : e.seq = seq := by have := List.find?_some h; simpa using this
  unfold State.entry State.adjEntry at *
  dsimp only
  rw [List.find?_map]
  have : ((fun (e : Entry) => e.seq == seq) ∘ fun e => if e.seq = seq then f e else e) = fun e => e.seq == seq := by
    funext e; simp only [Function.comp]; split <;> simp [hs]
  rw [this, h]
  simp [hq]

theorem entry_of {s t : State} (h : t.ledger = s.ledger) (seq : Nat) : t.entry seq = s.entry seq := by unfold State.entry; rw [h]

theorem finish_entry (s : State) (seq st rule detail : Nat) (e : Entry) (h : s.entry seq = some e) (hf : e.isFinished = false) :
   (s.finish seq st rule detail).entry seq = some { e with status := .finished st rule (BitVec.ofNat 64 detail) } := by
  have h1 := entry_adj s seq (fun e => if e.isFinished then e else { e with status := .finished st rule (BitVec.ofNat 64 detail) }) e h
    (by intro e; split <;> rfl)
  rw [hf] at h1
  exact h1

theorem ran_finish (s : State) (seq st : Nat) (e : Entry) (h : s.entry seq = some e) (hf : e.isFinished = false) :
   (((s.ranNow seq).finish seq st 0 0).entry seq).map (·.status) = some (.finished st 0 0) := by
  have h1 : (s.ranNow seq).entry seq = some { e with ran := true, step := s.det.step } :=
    entry_adj s seq (fun e => { e with ran := true, step := s.det.step }) e h (fun _ => rfl)
  rw [finish_entry _ seq st 0 0 _ h1 hf]
  rfl

theorem look_mapIf (m : NMap Page) (c : Nat → Bool) (f : Page → Page) (v : Nat) :
   NMap.look (m.map fun p => if c p.1 then (p.1, f p.2) else p) v = if c v then (NMap.look m v).map f else NMap.look m v := by
  induction m with
  | nil => simp [NMap.look]
  | cons x m ih =>
    obtain ⟨k, p⟩ := x
    by_cases hc : c k
    · by_cases hk : k = v
      · subst hk; simp [NMap.look, hc]
      · simp [NMap.look, hc, hk, ih]
    · by_cases hk : k = v
      · subst hk; simp [NMap.look, hc]
      · simp [NMap.look, hc, hk, ih]

theorem freeFrame_pages (s : State) (tier f : Nat) : (s.freeFrame tier f).mem.pages = s.mem.pages := by
  unfold State.freeFrame
  split
  · unfold State.freeFrame0
    dsimp only
    split <;> rfl
  · split <;> rfl

theorem exec_ledger (s : State) (k : Kind) (c : Instr) (n : Nat)
    (hk : (k, c) ∈ [(Kind.nop, Instr.ledgerNop), (.kernel, .ledgerKernel), (.collective, .ledgerCollective), (.copy, .ledgerCopy),
      (.map, .ledgerMap), (.unmap, .ledgerUnmap), (.protect, .ledgerProtect)]) (h : kindOf n = some k) :
    ∃ f : Nat → Bool, exec c s = .next (s.intake f) ∧ f n = true := by
  have hn : ∃ m, m < 7 ∧ n = m := by
    unfold kindOf at h
    by_contra hc
    have : ∀ m, m < 7 → n ≠ m := fun m hm e => hc ⟨m, hm, e⟩
    simp [this 0, this 1, this 2, this 3, this 4, this 5, this 6] at h
  obtain ⟨m, hm, rfl⟩ := hn
  simp only [List.mem_cons, List.not_mem_nil, or_false, Prod.mk.injEq] at hk
  rcases hk with ⟨rfl, rfl⟩ | ⟨rfl, rfl⟩ | ⟨rfl, rfl⟩ | ⟨rfl, rfl⟩ | ⟨rfl, rfl⟩ | ⟨rfl, rfl⟩ | ⟨rfl, rfl⟩ <;>
    (refine ⟨_, rfl, ?_⟩
     match n, hm, h with
     | 0, _, h => first | rfl | cases h
     | 1, _, h => first | rfl | cases h
     | 2, _, h => first | rfl | cases h
     | 3, _, h => first | rfl | cases h
     | 4, _, h => first | rfl | cases h
     | 5, _, h => first | rfl | cases h
     | 6, _, h => first | rfl | cases h)

/-- The head line looked at: nothing but the slot in hand changes (R244). -/
theorem lookHead_eq (s : State) (h : s.ledger.fetched = none) :
    s.lookHead = s ∨ s.lookHead = { s with ledger := { s.ledger with fetched := some (s.mem.host.readN s.slotAddr 128) } } := by
  unfold State.lookHead
  split
  · exact .inl rfl
  · dsimp only
    split
    · exact .inl rfl
    · exact .inr rfl

theorem took_take (s : State) (e : Entry) (al : Nat) (he : e.seq = s.ledger.seq) : s.took (s.takeSlot e al) e.status al := by
  unfold State.takeSlot
  dsimp only
  generalize hu : State.noteEnds _ = u
  have h0 : u.ledger.fetched = none ∧ u.ledger.entries = s.ledger.entries ++ [e] ∧ u.ledger.seq = s.ledger.seq + 1 ∧
      u.ledger.alive = al % 256 := by rw [← hu]; exact ⟨rfl, rfl, rfl, rfl⟩
  rcases lookHead_eq u h0.1 with h | h
  · rw [h]; exact ⟨e, h0.2.1, he, rfl, h0.2.2.1, h0.2.2.2, .inl h0.1⟩
  · rw [h]; exact ⟨e, h0.2.1, he, rfl, h0.2.2.1, h0.2.2.2, .inr rfl⟩

theorem took_refuse (s : State) (w : List W64) (st d al : Nat) : s.took (s.refuseSlot w st d al) (.finished st 0 (BitVec.ofNat 64 d)) al :=
  took_take s (slotEntry s.ledger.seq .nop [0, w.getD 1 0] (.finished st 0 (BitVec.ofNat 64 d))) al rfl

theorem took_bump (s : State) (k n : Nat) (t : State) (st : EState) (al : Nat) (h : (s.bump k n).took t st al) : s.took t st al := h

theorem sendIrq_ledger (s : State) (n : Nat) : (s.sendIrq n).mem = s.mem ∧ (s.sendIrq n).ledger.events = s.ledger.events ∧ (s.sendIrq n).ledger.produced = s.ledger.produced := by
  unfold State.sendIrq; split <;> exact ⟨rfl, rfl, rfl⟩

end Sys2Proof.Laws
end

