-- ==== Sys2Proof/Laws/FactsPower.lean ====
section
/-! SUPPORT. Facts about bundles, the governor, sleep states, and the quiet of a module whose domains go down: what the shared operations do, for the provers to cite. -/

set_option Elab.async false
set_option linter.all false

namespace Sys2Proof.Laws

open Sys2Proof Sys2Proof.Machine

theorem power_of {l : List Facet} {s t : State} (h : SameBut l s t) (hl : Facet.power ∉ l) : t.power = s.power := h .power hl

theorem bump_power (s : State) (k n : Nat) : (s.bump k n).power = s.power := power_of (State_bump_same (fl := ps6) rfl s k n (SameBut.refl _ _)) (by decide)

theorem log_power (s : State) (a b c : Nat) (d : LogAddr) (e : Nat) : (s.log a b c d e).power = s.power := power_of (State_log_same (fl := ps63) rfl s a b c d e (SameBut.refl _ _)) (by decide)

theorem logIrq_integ (s : State) (n : Nat) : (s.logIrq n).integ = s.integ := by
  have := State_logIrq_same (fl := [.ledger]) rfl s n (SameBut.refl _ _)
  exact this .integ (by decide)

theorem log_bundles (s : State) (a b c : Nat) (d : LogAddr) (e : Nat) : (s.log a b c d e).integ.bundles = s.integ.bundles ∧ (s.log a b c d e).integ.stopped = s.integ.stopped ∧
    (s.log a b c d e).integ.moving = s.integ.moving ∧ (s.log a b c d e).integ.pass = s.integ.pass ∧ (s.log a b c d e).integ.failedB = s.integ.failedB := by
  unfold State.log
  dsimp only
  rw [logIrq_integ]
  repeat' first
    | exact ⟨rfl, rfl, rfl, rfl, rfl⟩
    | split

theorem bump_integ (s : State) (k n : Nat) : (s.bump k n).integ = s.integ := (State_bump_same (fl := ps6) rfl s k n (SameBut.refl _ _)) .integ (by decide)

theorem steer_core (k n : Nat) (s : State) : NMap.lookD (State.steer k n s).integ.bundles k 0 = NMap.lookD s.integ.bundles k 0 + n ∧ (0 < n ∨ k ∈ s.integ.stopped → k ∈ (State.steer k n s).integ.stopped) := by
  induction n generalizing s with
  | zero =>
    refine ⟨rfl, ?_⟩
    rintro (h | h)
    · omega
    · exact h
  | succ n ih =>
    unfold State.steer
    dsimp only
    obtain ⟨v, hv⟩ : ∃ v : State, v = { s with integ := { s.integ with bundles := NMap.upd s.integ.bundles k 0 (· + 1), stopped := if s.integ.stopped.contains k then s.integ.stopped else s.integ.stopped ++ [k] } } := ⟨_, rfl⟩
    rw [← hv]
    have hb : NMap.lookD v.integ.bundles k 0 = NMap.lookD s.integ.bundles k 0 + 1 := by
      rw [hv]; exact lookD_put_same _ _ _ _
    have hs : k ∈ v.integ.stopped := by
      rw [hv]; dsimp only; split
      · rename_i h; simpa using h
      · simp
    have l := log_bundles (v.bump Obj.bundleSpareTotal 1) 0x4034 sevInfo agentHalfManagers none (k % 65536 + (v.sparesLeft k) * 65536)
    rw [bump_integ] at l
    have i := ih ((v.bump Obj.bundleSpareTotal 1).log 0x4034 sevInfo agentHalfManagers none (k % 65536 + (v.sparesLeft k) * 65536))
    rw [l.1, l.2.1, hb] at i
    refine ⟨by rw [i.1]; omega, fun _ => i.2 (.inr hs)⟩

theorem look_del_same' {α : Type} (m : NMap α) (k : Nat) : NMap.look (NMap.del m k) k = none := look_del_same m k

/-- Two states with the same ballast capacity. -/
theorem capacity_of {s t : State} (h : SameBut [.counters, .power] s t) : t.ballastCapacity = s.ballastCapacity := by
  have h1 : t.tiles = s.tiles := h .tiles (by decide)
  have h2 : t.boot = s.boot := h .boot (by decide)
  have h3 : t.thermal = s.thermal := h .thermal (by decide)
  have h4 : t.ledger = s.ledger := h .ledger (by decide)
  have h5 : t.funcs = s.funcs := h .funcs (by decide)
  have h6 : t.fuses = s.fuses := h .fuses (by decide)
  unfold State.ballastCapacity State.ballastTile State.tileCount State.tile State.func State.sleepOf
  rw [h1, h2, h3, h4, h5, h6]

theorem dropUpdate_power (s : State) : s.dropUpdate.power = s.power := by
  unfold State.dropUpdate
  split
  · rw [log_power]
    exact (State_abortedUpdate_same (fl := ps44) rfl s (SameBut.refl _ _)) .power (by decide)
  · rfl

theorem log_thermal (s : State) (a b c : Nat) (d : LogAddr) (e : Nat) : (s.log a b c d e).thermal = s.thermal := (State_log_same (fl := ps63) rfl s a b c d e (SameBut.refl _ _)) .thermal (by decide)

theorem bump_thermal (s : State) (k n : Nat) : (s.bump k n).thermal = s.thermal := (State_bump_same (fl := ps6) rfl s k n (SameBut.refl _ _)) .thermal (by decide)

theorem sleepOf_setSleep (s : State) (p : Nat) (x : Sleep) : (s.setSleep p x).sleepOf p = x := by
  unfold State.setSleep State.sleepOf
  dsimp only
  split
  · rename_i h; unfold NMap.lookD; rw [look_del_same]; exact h.symm
  · exact lookD_put_same _ _ _ _

theorem sleepOf_other (s : State) (p q : Nat) (x : Sleep) (h : q ≠ p) : (s.setSleep p x).sleepOf q = s.sleepOf q := by
  unfold State.setSleep State.sleepOf
  dsimp only
  split
  · unfold NMap.lookD; rw [look_del_other _ _ _ (by omega)]
  · unfold NMap.lookD; rw [look_put_other _ _ _ _ (by omega)]

theorem setSleep_same (s : State) (p : Nat) (x : Sleep) : SameBut [.thermal] s (s.setSleep p x) := State_setSleep_same rfl s p x (SameBut.refl _ _)

theorem log_boot (s : State) (a b c : Nat) (d : LogAddr) (e : Nat) : (s.log a b c d e).boot = s.boot := (State_log_same (fl := ps63) rfl s a b c d e (SameBut.refl _ _)) .boot (by decide)

theorem bump_boot (s : State) (k n : Nat) : (s.bump k n).boot = s.boot := (State_bump_same (fl := ps6) rfl s k n (SameBut.refl _ _)) .boot (by decide)

/-- What a function does to the thermal record besides the tiles' sleep. -/
def Calm (s t : State) : Prop := t.thermal.forced = s.thermal.forced ∧ t.thermal.modSt = s.thermal.modSt

theorem calm_of {s t : State} (h : t.thermal = s.thermal) : Calm s t := by unfold Calm; rw [h]; exact ⟨rfl, rfl⟩

theorem Calm.trans {s t u : State} (h : Calm s t) (g : Calm t u) : Calm s u := ⟨g.1.trans h.1, g.2.trans h.2⟩

theorem calm_fold {α : Type} (f : State → α → State) (hf : ∀ s a, Calm s (f s a)) (l : List α) (s : State) : Calm s (l.foldl f s) := by
  induction l generalizing s with
  | nil => exact ⟨rfl, rfl⟩
  | cons a l ih => exact (hf s a).trans (ih _)

theorem calm_reach (s : State) (f : Func) (x : FState) : Calm s (s.reach f x) :=
  calm_of ((State_reach_same (fl := ps92) rfl s f x (SameBut.refl _ _)) .thermal (by decide))

theorem calm_setSleep (s : State) (p : Nat) (x : Sleep) : Calm s (s.setSleep p x) := ⟨rfl, rfl⟩

theorem calm_scrubRow (s : State) (c : Nat) : Calm s (s.scrubRow c) := by
  unfold State.scrubRow
  dsimp only
  refine Calm.trans ?_ (calm_fold _ (fun t p => calm_setSleep t p .off) _ _)
  exact calm_fold (fun (t : State) n => t.adjTile n fun x =>
    { Tile.empty with halfPort := x.halfPort, step := x.step, thermal := x.thermal }) (fun _ _ => ⟨rfl, rfl⟩) _ _

theorem calm_turnOff (s : State) (c : Nat) : Calm s (s.turnOff (.domain c)) := by
  unfold State.turnOff
  dsimp only
  split
  · exact calm_scrubRow _ _
  · exact ⟨rfl, rfl⟩

theorem calm_dropDomain (s : State) (c : Nat) : Calm s (s.dropDomain c) := by
  unfold State.dropDomain
  split
  · exact ⟨rfl, rfl⟩
  · exact ⟨rfl, rfl⟩
  · exact (calm_turnOff s c).trans (calm_reach _ _ _)

theorem calm_closure (s : State) : Calm s s.closure := calm_of ((State_closure_same (fl := ps132) rfl s (SameBut.refl _ _)) .thermal (by decide))

theorem calm_quietDown (s : State) : Calm s s.quietDown := by
  unfold State.quietDown
  dsimp only
  refine Calm.trans ?_ (calm_fold _ calm_dropDomain _ _)
  have h : (s.closure.flushAll true).thermal = s.thermal :=
    ((State_flushAll_same (fl := ps120) rfl s.closure true (SameBut.refl _ _)) .thermal (by decide)).trans
      ((State_closure_same (fl := ps132) rfl s (SameBut.refl _ _)) .thermal (by decide))
  exact calm_of h

theorem calm_follow (s : State) (h : s.thermal.forced = none) : s.followForced = s := by
  unfold State.followForced
  rw [h]

theorem down_base (s : State) (t : Nat) (h1 : s.beforeReady = false) (h2 : s.downReady t = true) (h4 : s.thermal.modSt = .changing t) (h0 : t ≠ 0)
    (h5 : s.power.allowance ≤ drawOf t * 1000) : moduleStateChangeComplete s = (if t = 1 then s.enterStandby else s.enterDormant).followForced := by
  unfold moduleStateChangeComplete
  rw [h4]
  dsimp only
  rw [h1, if_neg (by decide), if_neg h0, h2, if_neg]
  simp only [Bool.not_true, Bool.or_false, decide_eq_true_eq]
  exact Nat.not_lt.mpr h5

theorem dormant_mod (s : State) : s.enterDormant.thermal.modSt = .dormant ∧ s.enterDormant.thermal.forced = s.thermal.forced := by
  refine ⟨rfl, ?_⟩
  show s.ledgerStop.thermal.forced = s.thermal.forced
  exact (calm_of ((State_ledgerStop_same (fl := ps136) rfl s (SameBut.refl _ _)) .thermal (by decide))).1

theorem calm_turnedOn (s : State) (f : Func) : Calm s (s.turnedOn f) := by
  unfold State.turnedOn
  split
  · split
    · exact calm_fold _ (fun (t : State) p => calm_setSleep t p (t.restOf p)) _ _
    · exact ⟨rfl, rfl⟩
  · exact ⟨rfl, rfl⟩

theorem active_mod (s : State) : s.enterActive.thermal.modSt = .active ∧ s.enterActive.thermal.forced = s.thermal.forced ∧ s.enterActive.thermal.tripped = false := by
  have e : ∃ (d : Nat) (v : State), v.thermal = { s.thermal with modSt := .active, tripped := false, tripAt := none } ∧
      s.enterActive = ((((if d = 0 then v else v.bump Obj.unavailableTime d).applySteps).retryHost).retry) := by
    unfold State.enterActive
    exact ⟨_, _, rfl, rfl⟩
  obtain ⟨d, v, hv, e⟩ := e
  have t : s.enterActive.thermal = v.thermal := by
    rw [e, (State_retry_same (fl := ps152) rfl _ (SameBut.refl _ _)) .thermal (by decide)]
    show (State.retryHost _).thermal = _
    rw [(State_retryHost_same (fl := ps141) rfl _ (SameBut.refl _ _)) .thermal (by decide)]
    show (State.applySteps _).thermal = _
    rw [(State_applySteps_same (fl := ps64) rfl _ (SameBut.refl _ _)) .thermal (by decide)]
    show (if d = 0 then v else v.bump Obj.unavailableTime d).thermal = _
    split
    · rfl
    · exact bump_thermal _ _ _
  rw [t, hv]
  exact ⟨rfl, rfl, rfl⟩

theorem dis (w : State) (a b : Nat) : ((w.discipline a b).thermal.slew = w.thermal.slew ∨ -100 ≤ (w.discipline a b).thermal.slew ∧ (w.discipline a b).thermal.slew ≤ 100) ∧
    (w.discipline a b).thermal.timestamp = w.thermal.timestamp ∧ (w.discipline a b).thermal.pps = w.thermal.pps ∧ (w.discipline a b).thermal.lastTime = w.thermal.lastTime ∧
    (w.thermal.timeLost = false → (w.discipline a b).thermal.timeLost = false) := by
  unfold State.discipline
  split
  · exact ⟨.inl rfl, rfl, rfl, rfl, id⟩
  · refine ⟨.inr ?_, rfl, rfl, rfl, fun _ => rfl⟩
    dsimp only
    omega

end Sys2Proof.Laws
end

