-- ==== Sys2Proof/Laws/FactsBoot.lean ====
section
/-! SUPPORT. Facts about bring-up and resets: what the shared operations do, for the provers to cite. -/

set_option Elab.async false
set_option linter.all false

namespace Sys2Proof.Laws

open Sys2Proof Sys2Proof.Machine

theorem fold_keep {α β : Type} (P : State → β) (f : State → α → State) (hf : ∀ s a, P (f s a) = P s) (l : List α) (s : State) : P (l.foldl f s) = P s := by
  induction l generalizing s with
  | nil => rfl
  | cons a l ih => rw [List.foldl_cons, ih, hf]

theorem log_iface (s : State) (a b c : Nat) (d : LogAddr) (e : Nat) : (s.log a b c d e).iface = s.iface := (State_log_same (fl := ps63) rfl s a b c d e (SameBut.refl _ _)) .iface (by decide)

structure Begun (s t : State) : Prop where
  phase : t.boot.phase = .training
  powered : t.boot.powered = s.boot.powered
  link : t.iface.hostLink = 1
  binding : t.boot.binding = s.boot.binding
  record : t.boot.record = s.boot.record
  pwrEn : t.boot.pwrEn = s.boot.pwrEn
  input : t.power.input = s.power.input
  thermal : t.thermal = s.thermal
  fuses : t.fuses = s.fuses
  tiles : t.tiles = s.tiles
  pending : t.pending = s.pending
  password : t.dict.password = s.dict.password

theorem begun (s : State) (f : Bool) : Begun s (s.startBringup f) := by
  obtain ⟨a, ha⟩ : ∃ a, a = s.secureBoot f := ⟨_, rfl⟩
  obtain ⟨b, hb⟩ : ∃ b, b = a.earlySettings := ⟨_, rfl⟩
  obtain ⟨c, hc⟩ : ∃ c, c = b.logTrip := ⟨_, rfl⟩
  obtain ⟨d, hd⟩ : ∃ d : State, d = { c with boot := { c.boot with phase := .training, unready := true }, power := { c.power with allowance := drawDormant * 1000 }, iface := { c.iface with hostLink := 1 } } := ⟨_, rfl⟩
  obtain ⟨e, he⟩ : ∃ e, e = d.startDomains := ⟨_, rfl⟩
  obtain ⟨g, hg⟩ : ∃ g, g = portEnables.foldl (fun (t : State) e => if t.isOn e.2 then t.startEnable e.1 else t) e := ⟨_, rfl⟩
  have top : s.startBringup f = g := by
    unfold State.startBringup
    dsimp only
    rw [← ha, ← hb, ← hc, ← hd, ← he, ← hg]
  have s1 : SameBut ps117 s a := by rw [ha]; exact State_secureBoot_same rfl s f (SameBut.refl _ _)
  have s2 : SameBut ps20 a b := by rw [hb]; exact State_earlySettings_same rfl a (SameBut.refl _ _)
  have s3 : SameBut ps91 b c := by rw [hc]; exact State_logTrip_same rfl b (SameBut.refl _ _)
  have s4 : SameBut ps42 d e := by rw [he]; exact State_startDomains_same rfl d (SameBut.refl _ _)
  have t3 : c.boot = { b.boot with tripLog := false } := by
    rw [hc]
    unfold State.logTrip
    split
    · rw [log_boot]
    · rename_i h
      show b.boot = { b.boot with tripLog := false }
      have : b.boot.tripLog = false := by simpa using h
      rw [← this]
  have k : ∀ {β : Type} (P : State → β), (∀ (w : State) (f : Func), P (w.startEnable f) = P w) → P g = P e := by
    intro β P hP
    rw [hg]
    refine fold_keep P _ ?_ _ _
    intro w x
    split
    · exact hP w x.1
    · rfl
  have q : ∀ (w : State) (f : Func), (w.startEnable f).boot = w.boot ∧ (w.startEnable f).iface = w.iface ∧ (w.startEnable f).power.input = w.power.input ∧
      (w.startEnable f).thermal = w.thermal ∧ (w.startEnable f).fuses = w.fuses ∧ (w.startEnable f).tiles = w.tiles ∧ (w.startEnable f).pending = w.pending ∧ (w.startEnable f).dict = w.dict := by
    intro w f
    unfold State.startEnable State.setFunc
    dsimp only
    split <;> exact ⟨rfl, rfl, rfl, rfl, rfl, rfl, rfl, rfl⟩
  have boot : g.boot = { a.boot with tripLog := false, phase := .training, unready := true } := by
    rw [k (·.boot) fun w f => (q w f).1]
    show e.boot = _
    rw [s4 .boot (by decide), hd]
    dsimp only
    rw [t3, s2 .boot (by decide)]
  have hab : a.boot = s.boot := s1 .boot (by decide)
  rw [top]
  constructor
  · rw [boot]
  · rw [boot, hab]
  · rw [k (·.iface) fun w f => (q w f).2.1]
    show e.iface.hostLink = _
    rw [s4 .iface (by decide), hd]
  · rw [boot, hab]
  · rw [boot, hab]
  · rw [boot, hab]
  · rw [k (·.power.input) fun w f => (q w f).2.2.1]
    show e.power.input = _
    have h4 : e.power.input = d.power.input := by
      rw [he]
      unfold State.startDomains
      refine fold_keep (·.power.input) _ ?_ _ _
      intro w c
      split
      · rfl
      · exact (q w (.domain c)).2.2.1
    rw [h4, hd]
    dsimp only
    rw [s3 .power (by decide), s2 .power (by decide), s1 .power (by decide)]
  · rw [k (·.thermal) fun w f => (q w f).2.2.2.1]
    show e.thermal = _
    rw [s4 .thermal (by decide), hd]
    show c.thermal = _
    rw [s3 .thermal (by decide), s2 .thermal (by decide), s1 .thermal (by decide)]
  · rw [k (·.fuses) fun w f => (q w f).2.2.2.2.1]
    show e.fuses = _
    rw [s4 .fuses (by decide), hd]
    show c.fuses = _
    rw [s3 .fuses (by decide), s2 .fuses (by decide), s1 .fuses (by decide)]
  · rw [k (·.tiles) fun w f => (q w f).2.2.2.2.2.1]
    show e.tiles = _
    rw [s4 .tiles (by decide), hd]
    show c.tiles = _
    rw [s3 .tiles (by decide), s2 .tiles (by decide), s1 .tiles (by decide)]
  · rw [k (·.pending) fun w f => (q w f).2.2.2.2.2.2.1]
    show e.pending = _
    rw [s4 .queue (by decide), hd]
    show c.pending = _
    rw [s3 .queue (by decide), s2 .queue (by decide), s1 .queue (by decide)]
  · rw [k (·.dict.password) fun w f => congrArg DictState.password (q w f).2.2.2.2.2.2.2]
    show e.dict.password = _
    have := s4 .password (by decide)
    rw [show e.dict.password = d.dict.password from this, hd]
    show c.dict.password = _
    exact (s3 .password (by decide)).trans ((s2 .password (by decide)).trans (s1 .password (by decide)))

theorem powerUp_core (s : State) : s.powerUp.boot.powered = true ∧ s.powerUp.boot.phase = .training ∧ s.powerUp.power.input = .normal ∧ s.powerUp.iface.hostLink = 1 ∧
    s.powerUp.boot.pwrEn = s.boot.pwrEn := by
  obtain ⟨w, hw⟩ : ∃ w : State, w = { s with boot := { s.boot with powered := true }, power := { s.power with input := .normal, mv := max 48000 (min 59500 s.power.mv) } } := ⟨_, rfl⟩
  have e : s.powerUp = (w.bump Obj.fullResetTotal 1).startBringup s.boot.unready := by
    unfold State.powerUp; dsimp only; rw [← hw]
  have b := begun (w.bump Obj.fullResetTotal 1) s.boot.unready
  rw [← e] at b
  refine ⟨?_, b.phase, ?_, b.link, ?_⟩
  · rw [b.powered, bump_boot, hw]
  · rw [b.input, bump_power, hw]
  · rw [b.pwrEn, bump_boot, hw]

theorem link_setLink (s : State) (k : Nat) (l : Link) : (s.setLink k l).link k = l := by
  unfold State.link State.setLink; exact lookD_put_same _ _ _ _

theorem fillTurn_same (s : State) : s.fillTurn.boot.links = s.boot.links ∧ s.fillTurn.boot.hbmTrained = s.boot.hbmTrained := by
  unfold State.fillTurn; split <;> exact ⟨rfl, rfl⟩

theorem failed_phase (s : State) (c u : Nat) : (s.bringupFailed c u).boot.phase = .failed := rfl

theorem drawn_boot (s : State) : s.drawn.boot = s.boot := rfl

theorem checkCores_boot (s : State) : s.checkCores.boot.phase = s.boot.phase ∧ s.checkCores.boot.round = s.boot.round := ⟨rfl, rfl⟩

theorem fullReset_core (s : State) (h : s.boot.powered = true) (hu : s.updating = false) :
    s.fullReset.boot.phase = .training ∧ s.fullReset.thermal.timestamp = s.thermal.timestamp ∧ s.fullReset.dict.password = s.dict.password ∧
      s.fullReset.boot.record = s.boot.record ∧ s.fullReset.fuses = s.fuses ∧ s.fullReset.tiles = [] ∧ s.fullReset.boot.binding = [] ∧ s.fullReset.pending = s.pending := by
  have e : s.fullReset = ((s.restart false).bump Obj.fullResetTotal 1).startBringup s.boot.unready := by
    unfold State.fullReset State.fullResetWith
    rw [if_neg (by simp [h])]
    dsimp only
    rw [hu]
    rfl
  have b := begun ((s.restart false).bump Obj.fullResetTotal 1) s.boot.unready
  rw [← e] at b
  refine ⟨b.phase, ?_, ?_, ?_, ?_, ?_, ?_, ?_⟩
  · rw [b.thermal]; rfl
  · rw [b.password]; rfl
  · rw [b.record]; rfl
  · rw [b.fuses]; rfl
  · rw [b.tiles]; rfl
  · rw [b.binding]; rfl
  · rw [b.pending]; rfl

end Sys2Proof.Laws
end

