-- ==== Sys2Proof/Laws/FactsIface.lean ====
section
/-! SUPPORT. Facts about the host link, peer ports, updates and attestation: what the shared operations do, for the provers to cite. -/

set_option Elab.async false
set_option linter.all false

namespace Sys2Proof.Laws

open Sys2Proof Sys2Proof.Machine

theorem iface_of {l : List Facet} {s t : State} (h : SameBut l s t) (hl : Facet.iface ∉ l) : t.iface = s.iface := h .iface hl

theorem wait_of {l : List Facet} {s t : State} (h : SameBut l s t) (hl : Facet.tables ∉ l) : t.mem.hostWait = s.mem.hostWait := by
  have e := h .tables hl
  have f := congrArg (fun m : Mem => m.hostWait) e
  exact f

theorem bump_iface (s : State) (k n : Nat) : (s.bump k n).iface = s.iface := iface_of (State_bump_same (fl := ps6) rfl s k n (SameBut.refl _ _)) (by decide)

theorem closeHost_facts (s : State) : s.closeHost.iface = s.iface ∧ s.closeHost.mem.hostWait = s.mem.hostWait ∧ s.closeHost.dict.hostOpen = false :=
  ⟨iface_of (State_closeHost_same (fl := ps156) rfl s (SameBut.refl _ _)) (by decide), wait_of (State_closeHost_same (fl := ps156) rfl s (SameBut.refl _ _)) (by decide), rfl⟩

theorem loseOrder_facts (s : State) : s.loseOrder.iface.hostLink = s.iface.hostLink ∧ s.loseOrder.iface.downSince = s.iface.downSince := by
  unfold State.loseOrder
  split
  · rw [log_iface, bump_iface]; exact ⟨rfl, rfl⟩
  · exact ⟨rfl, rfl⟩

theorem hostGone_facts (s : State) (b : Bool) : (s.hostGone b).iface.hostLink = 0 ∧ (s.hostGone b).iface.downSince = (if b then some s.now else none) ∧
    (s.hostGone b).mem.hostWait = [] ∧ (s.hostGone b).dict.hostOpen = false := by
  obtain ⟨v, hv⟩ : ∃ v : State, v = { s with iface := { s.iface with hostLink := 0, hostIde := 0, spdmHost := .none, downSince := if b then some s.now else none }, mem := { s.mem with hostWait := [] } } := ⟨_, rfl⟩
  have e : s.hostGone b = (((v.bump Obj.hostLinkDownTotal 1).log 0x7001 sevError agentHost none 0).loseOrder).closeHost := by
    unfold State.hostGone; dsimp only; rw [← hv]
  have c := closeHost_facts (((v.bump Obj.hostLinkDownTotal 1).log 0x7001 sevError agentHost none 0).loseOrder)
  have l := loseOrder_facts ((v.bump Obj.hostLinkDownTotal 1).log 0x7001 sevError agentHost none 0)
  have i : ((v.bump Obj.hostLinkDownTotal 1).log 0x7001 sevError agentHost none 0).iface = v.iface := by rw [log_iface, bump_iface]
  rw [e]
  refine ⟨by rw [c.1, l.1, i, hv], by rw [c.1, l.2, i, hv], ?_, c.2.2⟩
  rw [c.2.1, wait_of (State_loseOrder_same (fl := ps93) rfl _ (SameBut.refl _ _)) (by decide), wait_of (State_log_same (fl := ps63) rfl _ _ _ _ _ _ (SameBut.refl _ _)) (by decide),
    wait_of (State_bump_same (fl := ps6) rfl _ _ _ (SameBut.refl _ _)) (by decide), hv]

theorem open_of' {l : List Facet} {s t : State} (h : SameBut l s t) (hl : Facet.sessions ∉ l) : t.dict.hostOpen = s.dict.hostOpen :=
  (Prod.mk.inj (Prod.mk.inj (h .sessions hl)).2).1

theorem log_open (s : State) (a b c : Nat) (d : LogAddr) (e : Nat) : (s.log a b c d e).dict.hostOpen = s.dict.hostOpen :=
  open_of' (State_log_same (fl := ps63) rfl s a b c d e (SameBut.refl _ _)) (by decide)

theorem bump_open (s : State) (k n : Nat) : (s.bump k n).dict.hostOpen = s.dict.hostOpen := open_of' (State_bump_same (fl := ps6) rfl s k n (SameBut.refl _ _)) (by decide)

theorem log_board (s : State) (a b c : Nat) (d : LogAddr) (e : Nat) : (s.log a b c d e).board = s.board := (State_log_same (fl := ps63) rfl s a b c d e (SameBut.refl _ _)) .board (by decide)

theorem coolant_keeps (s : State) (bit : Nat) (a b : Bool) (d : Nat) : (s.coolantBit bit a b d).board.inlet = s.board.inlet ∧ (s.coolantBit bit a b d).board.deltaP = s.board.deltaP ∧
    (s.coolantBit bit a b d).board.dew = s.board.dew := by
  unfold State.coolantBit
  dsimp only
  repeat' first
    | exact ⟨rfl, rfl, rfl⟩
    | rw [log_board]
    | split

theorem peer_adj (s : State) (p : Nat) (f : Peer → Peer) : (s.adjPeer p f).peer p = f (s.peer p) := by
  unfold State.adjPeer State.peer
  exact lookD_put_same _ _ _ _

theorem peer_same {s t : State} (h : t.iface = s.iface) (p : Nat) : t.peer p = s.peer p := by unfold State.peer; rw [h]

theorem log_peer (s : State) (a b c : Nat) (d : LogAddr) (e : Nat) (p : Nat) : (s.log a b c d e).peer p = s.peer p := peer_same (log_iface _ _ _ _ _ _) p

theorem bump_peer (s : State) (k n : Nat) (p : Nat) : (s.bump k n).peer p = s.peer p := peer_same (bump_iface _ _ _) p

theorem protocolError_peer (s : State) (q k h p : Nat) : (s.protocolError q k h).peer p = s.peer p := by
  unfold State.protocolError
  dsimp only
  split
  · rw [log_peer]; exact bump_peer s Obj.peerProtocolErrorTotal 1 p
  · rw [bump_peer]

/-- What sending does not change. -/
structure Steady (x y : Peer) : Prop where
  rx : y.rx = x.rx
  rxSeq : y.rxSeq = x.rxSeq
  training : y.training = x.training
  swap : y.swap = x.swap
  ctl : y.ctl = x.ctl
  outst : y.outst = x.outst

theorem Steady.refl (x : Peer) : Steady x x := ⟨rfl, rfl, rfl, rfl, rfl, rfl⟩

theorem Steady.trans {x y z : Peer} (a : Steady x y) (b : Steady y z) : Steady x z :=
  ⟨b.rx.trans a.rx, b.rxSeq.trans a.rxSeq, b.training.trans a.training, b.swap.trans a.swap, b.ctl.trans a.ctl, b.outst.trans a.outst⟩

theorem sendOne_steady (s : State) (p : Nat) : Steady (s.peer p) ((s.sendOne p).peer p) := by
  unfold State.sendOne
  dsimp only
  split
  · exact Steady.refl _
  · split
    · rw [peer_adj]; exact ⟨rfl, rfl, rfl, rfl, rfl, rfl⟩
    · exact Steady.refl _

theorem pump_steady (p n : Nat) (s : State) : Steady (s.peer p) ((State.pump p n s).peer p) := by
  induction n generalizing s with
  | zero => exact Steady.refl _
  | succ n ih => exact (sendOne_steady s p).trans (ih _)

theorem flit_base (s : State) (p h ft ct : Nat) (f : Bytes) (k : State → Nat → State) (ht : s.takesFlit p f ft ct h = true) : s.receiveFlit p f true ft ct k = k s h := by
  unfold State.takesFlit at ht
  simp only [Bool.and_eq_true, Bool.or_eq_true, decide_eq_true_eq] at ht
  obtain ⟨⟨⟨⟨⟨h1, h2⟩, h3⟩, h4⟩, h5⟩, h6⟩ := ht
  subst h3
  unfold State.receiveFlit
  rw [h1, h2, if_neg (by decide), if_neg (by decide)]
  dsimp only
  rw [if_neg (by simpa using h4), if_neg]
  intro hn
  rcases (Bool.or_eq_true _ _).mp hn with hn | hn
  · exact (of_decide_eq_true hn) h5
  · rw [Bool.and_eq_true] at hn
    rcases h6 with h6 | h6
    · exact h6 (of_decide_eq_true hn.1)
    · exact (of_decide_eq_true hn.2) h6

theorem flit_bad (s : State) (p ft ct : Nat) (f : Bytes) (k : State → Nat → State) (h : s.peerLive p = true) : s.receiveFlit p f false ft ct k = s.discardFlit p := by
  unfold State.receiveFlit
  rw [h, if_neg (by decide), if_pos (by simp)]

theorem live_lt (s : State) (p : Nat) (h : s.peerLive p = true) : p < 18 ∧ (s.peer p).lanes ≠ 0 := by
  unfold State.peerLive at h
  simp only [Bool.and_eq_true, decide_eq_true_eq, bne_iff_ne] at h
  exact ⟨h.1.1.1.1, h.1.1.1.2⟩

theorem popMsg_peer (s : State) (p vc : Nat) (m : PMsg) (h : s.headMsg p vc = some m) : ((s.popMsg p vc).peer p).rx = dropFirst (fun y => y.vc == vc) (s.peer p).rx ∧
    ((s.popMsg p vc).peer p).outst = (s.peer p).outst := by
  unfold State.popMsg
  rw [h]
  dsimp only
  rw [peer_adj]
  exact ⟨rfl, rfl⟩

theorem fw_of {l : List Facet} {s t : State} (h : SameBut l s t) (hl : Facet.images ∉ l ∧ Facet.update ∉ l) : t.fw = s.fw := by
  have h1 := h .images hl.1
  have h2 := h .update hl.2
  simp only [Facet.same] at h1 h2
  cases ht : t.fw
  cases hs : s.fw
  rw [ht, hs] at h1 h2
  simp_all

theorem comp_adjComp (s : State) (k : Nat) (f : Comp → Comp) : (s.adjComp k f).comp k = (s.comp k).map f := by
  unfold State.adjComp State.comp; exact adjAt_getElem? _ _ _

theorem comp_other (s : State) (k j : Nat) (f : Comp → Comp) (h : j ≠ k) : (s.adjComp k f).comp j = s.comp j := by
  unfold State.adjComp State.comp; exact adjAt_getElem?_other _ _ _ _ h

theorem comp_fw {s t : State} (h : t.fw = s.fw) (k : Nat) : t.comp k = s.comp k := by unfold State.comp; rw [h]

theorem go_refused (s : State) (k : Nat) (g : State → State × Nat) (h : s.updateRefused k = none) : s.unlessRefused k g = g s := by unfold State.unlessRefused; rw [h]

theorem put1 {s : State} {sid key n : Nat} {r : ObjRow} (hn : n < 4) (h : s.mayWrite sid key = true) (hk : key % 256 ≠ 0) (hr : objRow key = some r) (ha : r.acc = .wo)
   (hv : ∀ m, m < 4 → valueOk r (natLE 1 m) = true) (hg : s.rangeOk r key (natLE 1 n) = true) : Put s sid key (natLE 1 n) r :=
  Put.of h hk hr (by rw [ha]; decide) (by rfl) (hv n hn) hg

theorem le1 (n : Nat) (h : n < 256) : leNat (natLE 1 n) = n := by rw [leNat_natLE]; omega

theorem v4 (P : Nat → Prop) (h : P 0 ∧ P 1 ∧ P 2 ∧ P 3) : ∀ m, m < 4 → P m := by
  intro m hm
  obtain rfl | rfl | rfl | rfl : m = 0 ∨ m = 1 ∨ m = 2 ∨ m = 3 := by omega
  · exact h.1
  · exact h.2.1
  · exact h.2.2.1
  · exact h.2.2.2

theorem putBegin {s : State} {sid k : Nat} (hk : k < 4) (h : s.mayWrite sid Obj.updateBegin = true) : Put s sid Obj.updateBegin (natLE 1 k) ⟨0x800001, 0x800001, .u8, .wo, 1, 1, .span 0 3 1, 0⟩ := by
  refine Put.of h (by decide) row_updateBegin (by decide) (by rfl) ?_ ?_
  · exact v4 (fun k => valueOk _ (natLE 1 k) = true) (by decide) k hk
  · exact v4 (fun k => s.rangeOk _ _ (natLE 1 k) = true) ⟨rfl, rfl, rfl, rfl⟩ k hk

theorem go {s : State} {sid key : Nat} {v : Bytes} {r : ObjRow} (hp : Put s sid key v r) {a : State} (ha : a = asked s sid key v) {X : State × Nat}
    (hX : a.writeValue sid r key v = plain X) (ho : X.1.sessionOpen sid = a.sessionOpen sid) :
    (s.dictPut sid key v).fw = X.1.fw ∧ (s.dictPut sid key v).boot = X.1.boot ∧ (s.dictPut sid key v).answered sid X.2 0 := by
  subst ha
  have q := trig hp X hX (ho.trans (asked_open _ _ _ _ _))
  exact ⟨fw_of q.1 (by decide), q.1 .boot (by decide), q.2⟩

theorem putFix {s : State} {sid key n : Nat} {r : ObjRow} (hr : objRow key = some r) (hk : key % 256 ≠ 0) (ha : r.acc = .wo) (hv : valueOk r (natLE 1 n) = true)
    (hg : s.rangeOk r key (natLE 1 n) = true) (h : s.mayWrite sid key = true) : Put s sid key (natLE 1 n) r :=
  Put.of h hk hr (by rw [ha]; decide) (by rfl) hv hg

theorem pending_facts (s : State) (c : Comp) (hc : s.comp s.fw.comp = some c) : s.markPending.fw.upd = .idle ∧ s.markPending.comp s.fw.comp = some { c with status := .pending } ∧
    s.markPending.boot = s.boot ∧ (∀ sid, s.markPending.sessionOpen sid = s.sessionOpen sid) := by
  obtain ⟨b, hb⟩ : ∃ b : State, b = { s.adjComp s.fw.comp (fun c => { c with status := .pending }) with fw := { (s.adjComp s.fw.comp (fun c => { c with status := .pending })).fw with upd := .idle } } := ⟨_, rfl⟩
  obtain ⟨d, e⟩ : ∃ d, s.markPending = b.log 0x8002 sevInfo agentHalfManagers none d := by
    unfold State.markPending; dsimp only; rw [← hb]; exact ⟨_, rfl⟩
  have sb := State_log_same (fl := ps63) rfl b 0x8002 sevInfo agentHalfManagers none d (SameBut.refl _ _)
  rw [← e] at sb
  have f := fw_of sb (by decide)
  refine ⟨by rw [f, hb], ?_, by rw [sb .boot (by decide), hb]; rfl, fun sid => (sameOpen sb (by decide) sid).trans (by rw [hb]; rfl)⟩
  rw [comp_fw f, hb]
  show (s.adjComp s.fw.comp _).comp s.fw.comp = _
  rw [comp_adjComp, hc]
  rfl

theorem confirm_facts (s : State) (k : Nat) : (s.confirm k).fuses = s.fuses ∧ (∀ j, j ≠ k → (s.confirm k).comp j = s.comp j) ∧
    (∀ c, s.comp k = some c → c.status = .trial → s.slotBoots c c.running = true → (s.confirm k).comp k = some { c with status := .confirmed, svnFloor := c.running.svn }) := by
  refine ⟨(State_confirm_same (fl := ps104) rfl s k (SameBut.refl _ _)) .fuses (by decide), ?_, ?_⟩
  · intro j hj
    unfold State.confirm
    split
    · rfl
    · split
      · rfl
      · dsimp only
        rw [comp_fw (fw_of (State_log_same (fl := ps63) rfl _ _ _ _ _ _ (SameBut.refl _ _)) (by decide))]
        exact comp_other _ _ _ _ hj
  · intro c hc ht hb
    unfold State.confirm
    rw [hc]
    dsimp only
    rw [ht, hb, if_neg (by decide), comp_fw (fw_of (State_log_same (fl := ps63) rfl _ _ _ _ _ _ (SameBut.refl _ _)) (by decide))]
    show (s.adjComp k _).comp k = _
    rw [comp_adjComp, hc]
    rfl

theorem slotBoots_fuses {s t : State} (h : t.fuses = s.fuses) (c : Comp) (x : Slot) : t.slotBoots c x = s.slotBoots c x := by unfold State.slotBoots; rw [h]

theorem confirms (l : List Nat) (hl : l.Nodup) (s : State) : (l.foldl State.confirm s).fuses = s.fuses ∧ (∀ j, j ∉ l → (l.foldl State.confirm s).comp j = s.comp j) ∧
    (∀ k ∈ l, ∀ c, s.comp k = some c → c.status = .trial → s.slotBoots c c.running = true → (l.foldl State.confirm s).comp k = some { c with status := .confirmed, svnFloor := c.running.svn }) := by
  induction l generalizing s with
  | nil => exact ⟨rfl, fun _ _ => rfl, fun k hk => absurd hk (by simp)⟩
  | cons a l ih =>
    rw [List.nodup_cons] at hl
    have i := ih hl.2 (s.confirm a)
    have f := confirm_facts s a
    rw [List.foldl_cons]
    refine ⟨i.1.trans f.1, ?_, ?_⟩
    · intro j hj
      rw [List.mem_cons, not_or] at hj
      exact (i.2.1 j hj.2).trans (f.2.1 j hj.1)
    · intro k hk c hc ht hb
      rcases List.mem_cons.mp hk with rfl | hk'
      · rw [i.2.1 k hl.1]; exact f.2.2 c hc ht hb
      · have hne : k ≠ a := by rintro rfl; exact hl.1 hk'
        exact i.2.2 k hk' c ((f.2.1 k hne).trans hc) ht ((slotBoots_fuses f.1 _ _).trans hb)

theorem spdm_set (s : State) (p : SpdmPath) (x : Spdm) : (s.setSpdm p x).spdm p = x := by cases p <;> rfl

theorem set_same (s : State) (p : SpdmPath) (x : Spdm) : SameBut [.iface] s (s.setSpdm p x) := by
  intro q hq
  cases p <;> cases q <;> first | rfl | exact absurd (by decide) hq

theorem serve (s : State) (p : SpdmPath) (f : Spdm → Spdm) (h : s.spdmOpen p = true) : (s.serveSpdm p f).spdm p = f (s.spdm p) ∧ SameBut [.iface] s (s.serveSpdm p f) := by
  have e : s.serveSpdm p f = s.setSpdm p (f (s.spdm p)) := by unfold State.serveSpdm; rw [if_pos h]
  rw [e]
  exact ⟨spdm_set _ _ _, set_same _ _ _⟩

theorem drawn_spdm (s : State) (p : SpdmPath) : s.drawn.spdm p = s.spdm p ∧ s.drawn.spdmOpen p = s.spdmOpen p ∧ SameBut [.draws] s s.drawn := by
  refine ⟨by cases p <;> rfl, by cases p <;> rfl, State_drawn_same rfl s (SameBut.refl _ _)⟩

theorem served (s : State) (p : SpdmPath) (f : Spdm → Spdm) (h : s.spdmOpen p = true) : (s.drawn.serveSpdm p f).spdm p = f (s.spdm p) ∧ SameBut [.draws, .iface] s (s.drawn.serveSpdm p f) := by
  have d := drawn_spdm s p
  have q := serve s.drawn p f (d.2.1.trans h)
  rw [d.1] at q
  refine ⟨q.1, ?_⟩
  intro r hr
  have a := d.2.2 r (by intro hh; apply hr; revert hh; cases r <;> decide)
  have b := q.2 r (by intro hh; apply hr; revert hh; cases r <;> decide)
  cases r <;> first | exact b.trans a | exact absurd (by decide) hr

theorem needs_ok (x : Spdm) (n : Nat) (f : Spdm → Spdm) (h : n ≤ x.phase) : x.needs n f = f x := by unfold Spdm.needs; rw [if_neg (by omega)]

theorem respond_facts (x : Spdm) (c : Nat) (b r : Bytes) : (x.respond c b r).phase = x.phase ∧ (x.respond c b r).session = x.session ∧ (x.respond c b r).keyed = x.keyed ∧
    (b.length ≤ 1024 → (x.respond c b r).resp = c ∧ (x.respond c b r).body = b) := by
  unfold Spdm.respond
  dsimp only
  split
  · exact ⟨rfl, rfl, rfl, fun _ => ⟨rfl, rfl⟩⟩
  · refine ⟨rfl, rfl, rfl, fun h => absurd h (by assumption)⟩

theorem natLE_length (n v : Nat) : (natLE n v).length = n := by
  induction n generalizing v with
  | zero => rfl
  | succ n ih => unfold natLE; simp [ih]

end Sys2Proof.Laws
end

