-- ==== Sys2Proof/Laws/Held.lean ====
section
/-! SUPPORT. What a parity replay, and what a read of data at hand, may change: one lemma for each operation (R176, R287, R288). -/

set_option Elab.async false
set_option linter.all false

namespace Sys2Proof.Laws

open Sys2Proof Sys2Proof.Machine

/-- A message changes nothing of the ledger but the messages sent. -/
theorem sendIrq_led (s : State) (n : Nat) : ∃ a, (s.sendIrq n).ledger = { s.ledger with msix := a } ∧ (s.sendIrq n).mem = s.mem := by
  unfold State.sendIrq
  split
  · exact ⟨_, rfl, rfl⟩
  · exact ⟨s.ledger.msix, rfl, rfl⟩

/-- A log entry's messages change nothing else of the ledger. -/
theorem logIrq_led (s : State) (n : Nat) : ∃ a b, (s.logIrq n).ledger = { s.ledger with msix := a, irqErr := b } ∧ (s.logIrq n).mem = s.mem := by
  have h2 : ∀ (c : Bool), ∃ a b, (if c = true then ({ s with ledger := { s.ledger with irqErr := some s.now } } : State).sendIrq 3 else s).ledger =
      { s.ledger with msix := a, irqErr := b } ∧ (if c = true then ({ s with ledger := { s.ledger with irqErr := some s.now } } : State).sendIrq 3 else s).mem = s.mem := by
    intro c
    cases c
    · exact ⟨s.ledger.msix, s.ledger.irqErr, rfl, rfl⟩
    · obtain ⟨a, h, m⟩ := sendIrq_led { s with ledger := { s.ledger with irqErr := some s.now } } 3
      exact ⟨a, _, h, m⟩
  unfold State.logIrq
  split
  · obtain ⟨a, h, m⟩ := sendIrq_led s 2
    exact ⟨a, s.ledger.irqErr, h, m⟩
  · exact h2 _

/-- A log entry changes nothing of the ledger but its messages. -/
theorem log_led (s : State) (a b c : Nat) (d : LogAddr) (e : Nat) : ∃ x y, (s.log a b c d e).ledger = { s.ledger with msix := x, irqErr := y } ∧
    (s.log a b c d e).mem = s.mem := by
  unfold State.log
  extract_lets n en lost src t
  have h0 : (if lost = true then t.bump Obj.errorLogOverruns 1 else t).ledger = s.ledger ∧ (if lost = true then t.bump Obj.errorLogOverruns 1 else t).mem = s.mem := by split <;> exact ⟨rfl, rfl⟩
  obtain ⟨x, y, h, m⟩ := logIrq_led (if lost = true then t.bump Obj.errorLogOverruns 1 else t) b
  exact ⟨x, y, by rw [h, h0.1], by rw [m, h0.2]⟩


/-- A page is read from the tables alone. -/
theorem page_congr {s t : State} (h : t.mem = s.mem) (v : Nat) : t.page v = s.page v := by unfold State.page State.walks; rw [h]

/-- The mark an instruction fetch would meet depends on memory and Felt alone. -/
theorem peekMark_congr {s t : State} (h : t.mem = s.mem) (f : t.felt = s.felt) (n : Nat) : t.peekMark n = s.peekMark n := by
  unfold State.peekMark
  rw [f, page_congr h]
  unfold State.tierRead
  rw [h]

/-- A parity replay changes counters, messages and the error log alone (R288). -/
theorem replay_same (s : State) (tile : Nat) (hit : ParityHit) : SameBut [.counters, .ledger, .integ] s (s.replayed tile hit) := by
  unfold State.replayed
  cases hit with
  | none => exact SameBut.refl _ _
  | once => exact State_parityReplay_same (fl := [.counters, .ledger, .integ]) rfl s tile 0 (SameBut.refl _ _)
  | recurs r => exact State_parityReplay_same (fl := [.counters, .ledger, .integ]) rfl s tile 0 (SameBut.refl _ _)

/-- A parity replay leaves memory, and the ledger but for its messages. -/
theorem replay_mem (s : State) (tile : Nat) (hit : ParityHit) : (s.replayed tile hit).mem = s.mem ∧
    ∃ x y, (s.replayed tile hit).ledger = { s.ledger with msix := x, irqErr := y } := by
  unfold State.replayed
  cases hit with
  | none => exact ⟨rfl, s.ledger.msix, s.ledger.irqErr, rfl⟩
  | _ =>
    obtain ⟨x, y, h, m⟩ := log_led (s.bump Obj.parityReplayTotal 1) 0x4005 sevCorrected tile none 0
    exact ⟨m, x, y, h⟩

/-- A group that issues does so after a parity replay. -/
theorem replay_issues {s : State} {g : GroupRef} {b : Block} {gr : Group} {p : Path} (h : s.Issues g b gr p) (hit : ParityHit) :
    (s.replayed g.tile hit).Issues g b gr p := by
  have k := replay_same s g.tile hit
  have m := replay_mem s g.tile hit
  have ht : ∀ n, (s.replayed g.tile hit).tile n = s.tile n := fun n => tile_of_same k (by decide) n
  have hb : ∀ n m, (s.replayed g.tile hit).block n m = s.block n m := by intro n m; unfold State.block; rw [ht]
  exact ⟨by rw [hb]; exact h.block, h.alive, h.here, by rw [ht]; exact h.clock, h.group, h.loads, h.running,
    by rw [peekMark_congr m.1 (felt_of_same k (by decide))]; exact h.fetch⟩

/-- An instruction whose register reads find no error, or one that the replay mends, does its own work on the state after the replay. -/
theorem regParity_ok {s : State} {g : GroupRef} {b : Block} {gr : Group} {p : Path} (h : s.Issues g b gr p) {hit : ParityHit} (hh : ∀ r, hit ≠ .recurs r)
    (k : State → State) : s.regParity g hit k = k (s.replayed g.tile hit) := by
  unfold State.regParity State.replayed
  cases hit with
  | none => rfl
  | once => dsimp only; rw [issue_ok h]
  | recurs r => exact absurd rfl (hh r)
/-- Entries stand over a parity replay. -/
theorem replay_entry (s : State) (tile : Nat) (hit : ParityHit) (n : Nat) : (s.replayed tile hit).entry n = s.entry n := by
  obtain ⟨_, x, y, h⟩ := replay_mem s tile hit
  unfold State.entry; rw [h]
/-- Values in force stand over a parity replay. -/
theorem replay_num (s : State) (tile : Nat) (hit : ParityHit) (n : Nat) : (s.replayed tile hit).num n = s.num n := by
  unfold State.num; rw [value_of (replay_same s tile hit) (by decide) (by decide)]

/-- A state with only its counters, its bandwidth account and its replacement trees changed: what a read of a held sector may change. -/
def onlyRead (s : State) (c : NMap Nat) (b : Bw) (p : NMap (BitVec 15)) : State :=
  { s with dict := { s.dict with counters := c }, bw := b, felt := { s.felt with plru := p } }

/-- The second state is the first once held sectors of it have been read. -/
def OnlyRead (s t : State) : Prop := ∃ c b p, t = onlyRead s c b p

theorem OnlyRead.refl (s : State) : OnlyRead s s := ⟨_, _, _, rfl⟩
theorem OnlyRead.trans {s t u : State} (h : OnlyRead s t) (g : OnlyRead t u) : OnlyRead s u := by
  obtain ⟨c, b, p, rfl⟩ := h
  obtain ⟨c', b', p', rfl⟩ := g
  exact ⟨c', b', p', rfl⟩

/-- A charge of one target. -/
theorem charge1_view (s : State) (a b : Nat) : OnlyRead s (s.charge1 a b) := by
  unfold State.charge1
  dsimp only
  split
  · exact ⟨_, _, _, rfl⟩
  · exact ⟨_, _, _, rfl⟩

/-- A charge of an access. -/
theorem charge_view (s : State) (a b : Nat) : OnlyRead s (s.charge a b) := by
  unfold State.charge
  dsimp only
  split
  · exact (charge1_view _ _ _).trans (charge1_view _ _ _)
  · exact charge1_view _ _ _

/-- A use of a line. -/
theorem touch_view (s : State) (l : Nat) : OnlyRead s (s.touch l) := by
  unfold State.touch
  split
  · exact OnlyRead.refl _
  · exact ⟨_, _, _, rfl⟩

/-- A count. -/
theorem bump_view (s : State) (k n : Nat) : OnlyRead s (s.bump k n) := ⟨_, _, _, rfl⟩

/-- A sector without a DEAD mark served to a requester: its value, and no more than a read. -/
theorem served_view (s : State) (sn cls agent : Nat) (v : SectorVal) (h : v.mark ≠ some .dead) :
    OnlyRead s (s.sectorServed sn cls agent v).1 ∧ (s.sectorServed sn cls agent v).2 = v := by
  unfold State.sectorServed State.delivered
  rw [if_neg h]
  exact ⟨((charge_view _ _ _).trans (bump_view _ _ _)).trans (touch_view _ _), rfl⟩

/-- A held sector is read at once (R176). -/
theorem holds_read (s : State) (sn m agent : Nat) (h : s.holds sn m = true) :
    ∃ x, s.feltSector sn = some x ∧ x.val.mark = none ∧ x.present = true ∧ ∃ t, OnlyRead s t ∧ s.bankRead sn m agent = (t, some x.val) := by
  unfold State.holds at h
  simp only [Bool.and_eq_true, Bool.not_eq_true', Option.any_eq_true] at h
  obtain ⟨⟨⟨h1, h2⟩, h3⟩, x, hx, hm⟩ := h
  refine ⟨x, hx, by simpa using hm, ?_⟩
  unfold State.feltSector at hx
  simp only [Option.filter_eq_some_iff, Option.bind_eq_some_iff] at hx
  obtain ⟨⟨l, hl, hs⟩, hp⟩ := hx
  refine ⟨hp, ?_⟩
  have hv : x.val.mark ≠ some .dead := by
    have : x.val.mark = none := by simpa using hm
    rw [this]; simp
  refine ⟨(s.sectorServed sn m agent x.val).1, (served_view s sn m agent x.val hv).1, ?_⟩
  unfold State.bankRead
  simp only [h1, h2, h3, Bool.not_true, Bool.or_self, Bool.false_eq_true, if_false, hl, hs, hp, if_true]
  rw [(served_view s sn m agent x.val hv).2]

theorem view_ownerBlock {s t : State} (h : OnlyRead s t) (tile uid : Nat) : t.ownerBlock tile uid = s.ownerBlock tile uid := by
  obtain ⟨c, b, p, rfl⟩ := h; rfl
theorem view_haltOn {s t : State} (h : OnlyRead s t) (n : Nat) : t.haltOn n = s.haltOn n := by
  obtain ⟨c, b, p, rfl⟩ := h; rfl
theorem view_violationKind {s t : State} (h : OnlyRead s t) (n : Nat) (w : Bool) : t.violationKind n w = s.violationKind n w := by
  obtain ⟨c, b, p, rfl⟩ := h; rfl
theorem view_holds {s t : State} (h : OnlyRead s t) (n m : Nat) : t.holds n m = s.holds n m := by
  obtain ⟨c, b, p, rfl⟩ := h; rfl
theorem view_felt {s t : State} (h : OnlyRead s t) (n : Nat) : t.feltSector n = s.feltSector n := by
  obtain ⟨c, b, p, rfl⟩ := h; rfl
theorem view_writable {s t : State} (h : OnlyRead s t) (n m : Nat) : t.writable n m = s.writable n m := by
  obtain ⟨c, b, p, rfl⟩ := h; rfl
theorem view_pad {s t : State} (h : OnlyRead s t) (a b n : Nat) : t.padSector a b n = s.padSector a b n := by
  obtain ⟨c, b, p, rfl⟩ := h; rfl
theorem view_num {s t : State} (h : OnlyRead s t) (n : Nat) : t.num n = s.num n := by
  obtain ⟨c, b, p, rfl⟩ := h; rfl
theorem view_tile {s t : State} (h : OnlyRead s t) (n : Nat) : t.tile n = s.tile n := by
  obtain ⟨c, b, p, rfl⟩ := h; rfl
theorem view_here {s t : State} (h : OnlyRead s t) (tile uid : Nat) (dev : Bool) (sn : Nat) : t.sectorHere tile uid dev sn = s.sectorHere tile uid dev sn := by
  unfold State.sectorHere
  rw [view_violationKind h, view_holds h, view_felt h, view_haltOn h, view_pad h]
theorem view_rowHere {s t : State} (h : OnlyRead s t) (tile uid : Nat) (dev : Bool) (a f n : Nat) : t.rowHere tile uid dev a f n = s.rowHere tile uid dev a f n := by
  unfold State.rowHere
  simp only [view_here h]
theorem view_dropV {s t : State} (h : OnlyRead s t) (l : List Nat) : t.dropViolation l = s.dropViolation l := by
  unfold State.dropViolation; simp only [view_violationKind h]

/-- A sector at hand is read at once, as an operand (R81, R293). -/
theorem sector_read (s : State) (tile uid : Nat) (dev : Bool) (sn : Nat) (v : SectorVal) (h : s.sectorHere tile uid dev sn = some v) :
    ∃ t, OnlyRead s t ∧ s.dataSector tile uid dev sn = (t, .ok v) := by
  unfold State.sectorHere at h
  unfold State.dataSector State.opSector
  cases dev with
  | true =>
    simp only [if_true] at h ⊢
    split at h
    · rename_i hc
      simp only [Bool.and_eq_true, decide_eq_true_eq] at hc
      obtain ⟨x, hx, hm, hp, t, ht, e⟩ := holds_read s sn (mTile tile) tile hc.2
      rw [hx] at h
      simp only [Option.map_some, Option.some.injEq] at h
      subst h
      rw [hc.1]
      simp only [e]
      rw [hm]
      exact ⟨t, ht, rfl⟩
    · exact absurd h (by simp)
  | false =>
    simp only [Bool.false_eq_true, if_false] at h ⊢
    have key : ∀ w : SectorVal, w = s.padSector tile uid sn → ∃ t, OnlyRead s t ∧ (match ((s, .ok w) : State × OpRes SectorVal) with
        | (s, .ok v) =>
          match v.mark with
          | some c =>
            if s.haltOn 1 then
              (s.poisonHalted tile (opAddr false (sn * 32)) (s.ownerLinear tile uid) 1 c, .fault fPoisonHalt (opAddr false (sn * 32)))
            else (s, .ok v)
          | none => (s, .ok v)
        | r => r) = (t, OpRes.ok v) := by
      intro w hw
      subst hw
      refine ⟨s, OnlyRead.refl _, ?_⟩
      dsimp only
      split at h
      · exact absurd h (by simp)
      · rename_i hn
        simp only [Option.some.injEq] at h
        cases hmk : (s.padSector tile uid sn).mark with
        | none => rw [h]
        | some c =>
          dsimp only
          rw [if_neg, h]
          intro hh
          apply hn
          rw [hh, hmk]; rfl
    unfold State.padSector at key
    cases ho : s.ownerBlock tile uid with
    | none => rw [ho] at key; exact key _ rfl
    | some b =>
      rw [ho] at key
      by_cases hb : b.scratchB ≤ sn * 32
      · dsimp only at key ⊢
        rw [if_pos hb] at key ⊢
        exact key _ rfl
      · dsimp only at key ⊢
        rw [if_neg hb] at key ⊢
        exact key _ rfl

/-- A sequence of optional reads succeeds member by member. -/
theorem mapM_cons {α β : Type} (f : α → Option β) (a : α) (l : List α) (r : List β) (h : (a :: l).mapM f = some r) :
    ∃ x xs, f a = some x ∧ l.mapM f = some xs ∧ r = x :: xs := by
  rw [List.mapM_cons] at h
  cases hf : f a with
  | none => rw [hf] at h; exact absurd h (by simp)
  | some x =>
    cases hl : l.mapM f with
    | none => rw [hf, hl] at h; exact absurd h (by simp)
    | some xs => rw [hf, hl] at h; exact ⟨x, xs, rfl, rfl, by simpa using h.symm⟩

/-- What each read of a sequence gave. -/
theorem mapM_get {α β : Type} (f : α → Option β) (l : List α) : ∀ (r : List β), l.mapM f = some r →
    r.length = l.length ∧ ∀ j (hj : j < l.length) (hr : j < r.length), f l[j] = some r[j] := by
  induction l with
  | nil => intro r h; simp at h; subst h; exact ⟨rfl, fun j hj => absurd hj (by simp)⟩
  | cons a l ih =>
    intro r h
    obtain ⟨x, xs, h1, h2, rfl⟩ := mapM_cons f a l r h
    obtain ⟨g1, g2⟩ := ih xs h2
    refine ⟨by simp [g1], ?_⟩
    intro j hj hr
    cases j with
    | zero => exact h1
    | succ j => exact g2 j (by simpa using hj) (by simpa using hr)

/-- The same over the first numbers. -/
theorem mapM_range {β : Type} (f : Nat → Option β) (n : Nat) (r : List β) (h : (List.range n).mapM f = some r) :
    r.length = n ∧ ∀ j (hr : j < r.length), f j = some r[j] := by
  obtain ⟨h1, h2⟩ := mapM_get f _ r h
  refine ⟨by simpa using h1, fun j hr => ?_⟩
  have := h2 j (by rw [← h1]; exact hr) hr
  simpa using this

/-- Sequences of the same reads give the same. -/
theorem mapM_congr {α β : Type} (f g : α → Option β) (l : List α) (h : ∀ x ∈ l, f x = g x) : l.mapM f = l.mapM g := by
  induction l with
  | nil => rfl
  | cons a l ih => rw [List.mapM_cons, List.mapM_cons, h a (by simp), ih fun x hx => h x (by simp [hx])]

/-- Sectors at hand are gathered at once. -/
theorem gather_ok (tile uid : Nat) (dev : Bool) (n : Nat) : ∀ (sn : Nat) (got l : List SectorVal) (s : State),
    l.length = n → (∀ j (hj : j < l.length), s.sectorHere tile uid dev (sn + j) = some l[j]) →
    ∃ t, OnlyRead s t ∧ State.gather tile uid dev n sn got s = (t, got ++ l, .ok ()) := by
  induction n with
  | zero =>
    intro sn got l s hl _
    have : l = [] := List.eq_nil_of_length_eq_zero hl
    subst this
    exact ⟨s, OnlyRead.refl _, by simp [State.gather]⟩
  | succ n ih =>
    intro sn got l s hl h
    cases l with
    | nil => exact absurd hl (by simp)
    | cons v l =>
      obtain ⟨t, ht, e⟩ := sector_read s tile uid dev sn v (h 0 (by simp))
      obtain ⟨u, hu, e'⟩ := ih (sn + 1) (got ++ [v]) l t (by simpa using hl) (fun j hj => by
        rw [view_here ht]
        have := h (j + 1) (by simpa using hj)
        rw [show sn + 1 + j = sn + (j + 1) by omega]
        simpa using this)
      refine ⟨u, ht.trans hu, ?_⟩
      unfold State.gather
      rw [e]
      dsimp only
      rw [e']
      simp

/-- A row at hand is gathered at once. -/
theorem rowHere_ok (s : State) (tile uid : Nat) (dev : Bool) (addr fmt n : Nat) (row : List Elt) (h : s.rowHere tile uid dev addr fmt n = some row) :
    ∃ t l, OnlyRead s t ∧ State.gather tile uid dev ((rowBytes fmt n + 31) / 32) (addr / 32) [] s = (t, l, .ok ()) ∧ eltsOf fmt n l = row := by
  unfold State.rowHere at h
  simp only [Option.map_eq_some_iff] at h
  obtain ⟨l, hl, e⟩ := h
  obtain ⟨h1, h2⟩ := mapM_range _ _ _ hl
  obtain ⟨t, ht, g⟩ := gather_ok tile uid dev _ (addr / 32) [] l s h1 h2
  exact ⟨t, l, ht, by simpa using g, e⟩

/-- A row at hand is read at once, as an operand. -/
theorem opRow_ok (s : State) (tile uid : Nat) (dev : Bool) (addr fmt n : Nat) (row : List Elt) (h : s.rowHere tile uid dev addr fmt n = some row) :
    ∃ t, OnlyRead s t ∧ s.opRow tile uid dev addr fmt n = (t, .ok row) := by
  obtain ⟨t, l, ht, g, e⟩ := rowHere_ok s tile uid dev addr fmt n row h
  refine ⟨t, ht, ?_⟩
  unfold State.opRow
  rw [g]
  dsimp only
  rw [e]

end Sys2Proof.Laws
end

