-- ==== Sys2Proof/Laws/Maps.lean ====
section
/-! SUPPORT. Byte memories: what a read gives after a write, and that every operation keeps the canonical form. -/

set_option Elab.async false
set_option linter.all false

namespace Sys2Proof.Laws

open Sys2Proof Sys2Proof.Machine

/-! ### The canonical form, as a property of all entries -/

/-- A memory is in canonical form exactly where every entry lies below the later ones and is not 0. -/
theorem wf_cons (a : Nat) (v : Byte) (m : Memory) :
    Memory.wf ((a, v) :: m) = true ↔ v ≠ 0 ∧ (∀ e ∈ m, a < e.1) ∧ Memory.wf m = true := by
  induction m generalizing a v with
  | nil => simp [Memory.wf]
  | cons e m ih =>
    obtain ⟨b, w⟩ := e
    constructor
    · intro h
      simp only [Memory.wf, Bool.and_eq_true, decide_eq_true_eq] at h
      obtain ⟨⟨hab, hv⟩, hm⟩ := h
      refine ⟨hv, ?_, hm⟩
      intro x hx
      rcases List.mem_cons.mp hx with rfl | hx
      · exact hab
      · exact Nat.lt_trans hab (((ih b w).mp hm).2.1 x hx)
    · rintro ⟨hv, hlt, hm⟩
      simp only [Memory.wf, Bool.and_eq_true, decide_eq_true_eq]
      exact ⟨⟨hlt _ (List.mem_cons_self ..), hv⟩, hm⟩

theorem wf_nil : Memory.wf [] = true := rfl

/-- An entry of a written memory is the one written or an old one. -/
theorem mem_write {m : Memory} {a : Nat} {v : Byte} {e : Host.Cell} (h : e ∈ Memory.write m a v) : e = (a, v) ∨ e ∈ m := by
  induction m with
  | nil =>
    simp only [Memory.write] at h
    split at h <;> simp_all
  | cons x m ih =>
    obtain ⟨j, w⟩ := x
    simp only [Memory.write] at h
    split at h
    · split at h <;> simp_all
    · split at h
      · split at h <;> simp_all
        rcases h with h | h <;> simp_all
      · rcases List.mem_cons.mp h with h | h
        · simp_all
        · rcases ih h with h | h <;> simp_all

/-- A write keeps the canonical form. -/
theorem wf_write (m : Memory) (a : Nat) (v : Byte) (h : Memory.wf m = true) : Memory.wf (Memory.write m a v) = true := by
  induction m with
  | nil =>
    simp only [Memory.write]
    split
    · rfl
    · simp_all [Memory.wf]
  | cons e m ih =>
    obtain ⟨j, w⟩ := e
    have hc := (wf_cons j w m).mp h
    simp only [Memory.write]
    split
    · rename_i haj
      split
      · exact h
      · rename_i hv
        refine (wf_cons a v _).mpr ⟨hv, ?_, h⟩
        intro e he
        rcases List.mem_cons.mp he with rfl | he
        · exact haj
        · exact Nat.lt_trans haj (hc.2.1 e he)
    · split
      · rename_i hja
        subst hja
        split
        · exact hc.2.2
        · rename_i hv
          exact (wf_cons j v m).mpr ⟨hv, hc.2.1, hc.2.2⟩
      · refine (wf_cons j w _).mpr ⟨hc.1, ?_, ih hc.2.2⟩
        intro e he
        rcases mem_write he with rfl | he
        · show j < a
          omega
        · exact hc.2.1 e he

/-- Writing a string of bytes keeps the canonical form. -/
theorem wf_writeL (bs : Bytes) (m : Memory) (a : Nat) (h : Memory.wf m = true) : Memory.wf (Memory.writeL m a bs) = true := by
  induction bs generalizing m a with
  | nil => exact h
  | cons b bs ih => exact ih _ _ (wf_write m a b h)

/-- Clearing a range keeps the canonical form. -/
theorem wf_filter (p : Host.Cell → Bool) (m : Memory) (h : Memory.wf m = true) : Memory.wf (m.filter p) = true := by
  induction m with
  | nil => rfl
  | cons e m ih =>
    obtain ⟨a, v⟩ := e
    have hc := (wf_cons a v m).mp h
    rw [List.filter_cons]
    split
    · exact (wf_cons a v _).mpr ⟨hc.1, fun e he => hc.2.1 e (List.mem_filter.mp he).1, ih hc.2.2⟩
    · exact ih hc.2.2

theorem wf_clear (m : Memory) (a b : Nat) (h : Memory.wf m = true) : Memory.wf (Memory.clear m a b) = true := wf_filter _ m h

/-! ### Reading after writing -/

/-- A byte that no entry names reads 0. -/
theorem read_absent {m : Memory} {a : Nat} (h : ∀ e ∈ m, a < e.1) : Memory.read m a = 0 := by
  induction m with
  | nil => rfl
  | cons e m ih =>
    obtain ⟨j, w⟩ := e
    have hj : a < j := h (j, w) (List.mem_cons_self ..)
    simp only [Memory.read]
    rw [if_neg (by omega)]
    exact ih fun e he => h e (List.mem_cons_of_mem _ he)

/-- A read of the written address gives the byte written. -/
theorem read_write_same (m : Memory) (a : Nat) (v : Byte) (h : Memory.wf m = true) :
    Memory.read (Memory.write m a v) a = v := by
  induction m with
  | nil =>
    simp only [Memory.write]
    split <;> simp_all [Memory.read]
  | cons e m ih =>
    obtain ⟨j, w⟩ := e
    have hc := (wf_cons j w m).mp h
    simp only [Memory.write]
    split
    · rename_i haj
      split
      · rename_i hv
        rw [hv]
        refine read_absent ?_
        intro e he
        rcases List.mem_cons.mp he with rfl | he
        · exact haj
        · exact Nat.lt_trans haj (hc.2.1 e he)
      · simp [Memory.read]
    · split
      · rename_i hja
        split
        · rename_i hv
          rw [hv]
          refine read_absent ?_
          intro e he
          exact hja ▸ hc.2.1 e he
        · simp [Memory.read]
      · rename_i hja
        simp only [Memory.read, if_neg hja]
        exact ih hc.2.2

/-- A read of another address gives what it gave before. -/
theorem read_write_other (m : Memory) (a b : Nat) (v : Byte) (hab : b ≠ a) (h : Memory.wf m = true) :
    Memory.read (Memory.write m a v) b = Memory.read m b := by
  induction m with
  | nil =>
    simp only [Memory.write]
    split
    · rfl
    · simp only [Memory.read, if_neg (Ne.symm hab)]
  | cons e m ih =>
    obtain ⟨j, w⟩ := e
    have hc := (wf_cons j w m).mp h
    simp only [Memory.write]
    split
    · split
      · rfl
      · simp only [Memory.read, if_neg (Ne.symm hab)]
    · split
      · rename_i hja
        split
        · rw [hja] at hc ⊢
          simp only [Memory.read, if_neg (Ne.symm hab)]
        · subst hja
          simp only [Memory.read, if_neg (Ne.symm hab)]
      · simp only [Memory.read]
        split
        · rfl
        · exact ih hc.2.2

/-- A string of bytes reads back whole. -/
theorem readN_writeL (bs : Bytes) (m : Memory) (a : Nat) (h : Memory.wf m = true) :
    Memory.readN (Memory.writeL m a bs) a bs.length = bs := by
  have other : ∀ (bs : Bytes) (m : Memory) (a b : Nat), Memory.wf m = true → b < a →
      Memory.read (Memory.writeL m a bs) b = Memory.read m b := by
    intro bs
    induction bs with
    | nil => intros; rfl
    | cons c bs ih =>
      intro m a b hm hb
      rw [Memory.writeL, ih _ _ _ (wf_write m a c hm) (by omega), read_write_other m a b c (by omega) hm]
  induction bs generalizing m a with
  | nil => rfl
  | cons c bs ih =>
    rw [List.length_cons, Memory.readN, Memory.writeL, ih _ _ (wf_write m a c h),
      other bs _ _ _ (wf_write m a c h) (Nat.lt_succ_self a), read_write_same m a c h]

/-- Bytes outside a written string read as before. -/
theorem read_writeL_other (bs : Bytes) (m : Memory) (a b : Nat) (h : Memory.wf m = true) (hb : b < a ∨ a + bs.length ≤ b) :
    Memory.read (Memory.writeL m a bs) b = Memory.read m b := by
  induction bs generalizing m a with
  | nil => rfl
  | cons c bs ih =>
    rw [List.length_cons] at hb
    rw [Memory.writeL, ih _ _ (wf_write m a c h) (by omega), read_write_other m a b c (by omega) h]

/-! ### Memories with marks -/

theorem wf_setSector (m : MarkedMem) (n : Nat) (v : SectorVal) (h : m.wf = true) : (m.setSector n v).wf = true := by
  simp only [MarkedMem.setSector, MarkedMem.wf] at *
  exact wf_writeL (sectorBytes v.data) m.bytes (n * 32) h

theorem wf_tierSetSector (m : MarkedMem) (n : Nat) (v : SectorVal) (h : m.wf = true) : (tierSetSector m n v).wf = true := by
  simp only [tierSetSector, MarkedMem.wf] at *
  exact wf_writeL _ m.bytes _ h

theorem wf_writeRaw (m : MarkedMem) (a : Nat) (bs : Bytes) (h : m.wf = true) : (m.writeRaw a bs).wf = true := by
  simp only [MarkedMem.writeRaw, MarkedMem.wf] at *
  exact wf_writeL bs m.bytes a h

theorem wf_zero (m : MarkedMem) (a b unit : Nat) (h : m.wf = true) : (m.zero a b unit).wf = true := by
  simp only [MarkedMem.zero, MarkedMem.wf] at *
  exact wf_clear m.bytes a b h

theorem wf_empty : MarkedMem.empty.wf = true := rfl

end Sys2Proof.Laws
end

