-- ==== Sys2Proof/Laws/Keeps.lean ====
section
/-! SUPPORT. What every operation on the state keeps, said once: the queue of commands and the fused values unchanged, no SVN
floor lowered, the memories in canonical form, and the field lock in step with its count of failures. -/

set_option Elab.async false
set_option linter.all false

namespace Sys2Proof.Laws

open Sys2Proof Sys2Proof.Machine

/-- What an operation that takes `s` to `t` keeps. -/
structure Keeps (s t : State) : Prop where
  pending : t.pending = s.pending
  fuses   : t.fuses = s.fuses
  floors  : floorsRise s.fw.comps t.fw.comps = true
  mem     : s.memWf = true → t.memWf = true
  lock    : s.dict.lockOk = true → t.dict.lockOk = true

theorem floorsRise_refl (l : List Comp) : floorsRise l l = true := by
  induction l with
  | nil => rfl
  | cons c l ih => simp [floorsRise, ih]

theorem floorsRise_trans {a b c : List Comp} (h : floorsRise a b = true) (k : floorsRise b c = true) :
    floorsRise a c = true := by
  induction a generalizing b c with
  | nil =>
    cases b with
    | nil => exact k
    | cons _ _ => simp [floorsRise] at h
  | cons x a ih =>
    cases b with
    | nil => simp [floorsRise] at h
    | cons y b =>
      cases c with
      | nil => simp [floorsRise] at k
      | cons z c =>
        simp only [floorsRise, Bool.and_eq_true, decide_eq_true_eq] at h k ⊢
        exact ⟨Nat.le_trans h.1 k.1, ih h.2 k.2⟩

/-- Changing one component without lowering its floor lowers no floor. -/
theorem floorsRise_adjAt (l : List Comp) (k : Nat) (f : Comp → Comp)
    (h : ∀ c, l[k]? = some c → c.svnFloor ≤ (f c).svnFloor) : floorsRise l (adjAt l k f) = true := by
  induction l generalizing k with
  | nil => rfl
  | cons c l ih =>
    cases k with
    | zero => simp [adjAt, floorsRise, h c rfl, floorsRise_refl]
    | succ k => simp [adjAt, floorsRise, ih k h]

theorem Keeps.refl (s : State) : Keeps s s := ⟨rfl, rfl, floorsRise_refl _, id, id⟩

theorem Keeps.trans {s t u : State} (h : Keeps s t) (k : Keeps t u) : Keeps s u :=
  ⟨k.pending.trans h.pending, k.fuses.trans h.fuses, floorsRise_trans h.floors k.floors, fun x => k.mem (h.mem x),
    fun x => k.lock (h.lock x)⟩

/-- `Keeps` in terms of the parts of the second state that it looks at. -/
def KeepsAt (s : State) (pending : List Instr) (fuses : Fuses) (comps : List Comp) (hbm tier0 tier1 host : MarkedMem)
    (lock : LockSt) (fails : Nat) : Prop :=
  ∀ t : State, t.pending = pending → t.fuses = fuses → t.fw.comps = comps → t.mem.hbm = hbm → t.mem.tier0 = tier0 →
    t.mem.tier1 = tier1 → t.mem.host = host → t.dict.lock = lock → t.dict.failCount = fails → Keeps s t

/-- A state that agrees with `t` in those parts keeps what `t` keeps. -/
theorem Keeps.at {s t : State} (h : Keeps s t) : KeepsAt s t.pending t.fuses t.fw.comps t.mem.hbm t.mem.tier0 t.mem.tier1
    t.mem.host t.dict.lock t.dict.failCount := by
  intro u h1 h2 h3 h4 h5 h6 h7 h8 h9
  refine ⟨h1.trans h.pending, h2.trans h.fuses, h3 ▸ h.floors, fun x => ?_, fun x => ?_⟩
  · have := h.mem x
    simp only [State.memWf, h4, h5, h6, h7] at this ⊢
    exact this
  · have := h.lock x
    simp only [DictState.lockOk, h8, h9] at this ⊢
    exact this

/-- A state written out: only those parts count. -/
theorem keeps_mk {s : State} {pending : List Instr} {dict : DictState} {tiles : NMap Tile} {felt : Felt} {mem : Mem} {bw : Bw}
    {ledger : Ledger} {det : Det} {integ : Integ} {funcs : NMap FState} {power : Power} {thermal : Thermal} {boot : Boot}
    {fuses : Fuses} {iface : Iface} {fw : Fw} {board : Board} :
    Keeps s (State.mk pending dict tiles felt mem bw ledger det integ funcs power thermal boot fuses iface fw board) ↔
      KeepsAt s pending fuses fw.comps mem.hbm mem.tier0 mem.tier1 mem.host dict.lock dict.failCount :=
  ⟨fun h => Keeps.at h, fun h => h _ rfl rfl rfl rfl rfl rfl rfl rfl rfl⟩

/-- The components changed without lowering a floor. -/
theorem Keeps.comps {s₀ t : State} (h : Keeps s₀ t) {fw : Fw} (hf : floorsRise t.fw.comps fw.comps = true) :
    Keeps s₀ { t with fw := fw } :=
  h.trans ⟨rfl, rfl, hf, id, id⟩

/-- The dictionary changed with its lock in step. -/
theorem Keeps.locks {s₀ t : State} (h : Keeps s₀ t) {dict : DictState} (hl : t.dict.lockOk = true → dict.lockOk = true) :
    Keeps s₀ { t with dict := dict } :=
  h.trans ⟨rfl, rfl, floorsRise_refl _, id, hl⟩

/-- The memories changed in canonical form. -/
theorem Keeps.mems {s₀ t : State} (h : Keeps s₀ t) {mem : Mem}
    (hm : t.memWf = true → (mem.hbm.wf && mem.tier0.wf && mem.tier1.wf && mem.host.wf) = true) :
    Keeps s₀ { t with mem := mem } :=
  h.trans ⟨rfl, rfl, floorsRise_refl _, hm, id⟩

theorem Keeps.hbm {s₀ t : State} (h : Keeps s₀ t) {m : MarkedMem} (hm : t.mem.hbm.wf = true → m.wf = true) :
    Keeps s₀ { t with mem := { t.mem with hbm := m } } := by
  refine h.mems fun x => ?_
  simp only [State.memWf, Bool.and_eq_true] at x ⊢
  exact ⟨⟨⟨hm x.1.1.1, x.1.1.2⟩, x.1.2⟩, x.2⟩

theorem Keeps.tier0 {s₀ t : State} (h : Keeps s₀ t) {m : MarkedMem} (hm : t.mem.tier0.wf = true → m.wf = true) :
    Keeps s₀ { t with mem := { t.mem with tier0 := m } } := by
  refine h.mems fun x => ?_
  simp only [State.memWf, Bool.and_eq_true] at x ⊢
  exact ⟨⟨⟨x.1.1.1, hm x.1.1.2⟩, x.1.2⟩, x.2⟩

theorem Keeps.tier1 {s₀ t : State} (h : Keeps s₀ t) {m : MarkedMem} (hm : t.mem.tier1.wf = true → m.wf = true) :
    Keeps s₀ { t with mem := { t.mem with tier1 := m } } := by
  refine h.mems fun x => ?_
  simp only [State.memWf, Bool.and_eq_true] at x ⊢
  exact ⟨⟨⟨x.1.1.1, x.1.1.2⟩, hm x.1.2⟩, x.2⟩

theorem Keeps.host {s₀ t : State} (h : Keeps s₀ t) {m : MarkedMem} (hm : t.mem.host.wf = true → m.wf = true) :
    Keeps s₀ { t with mem := { t.mem with host := m } } := by
  refine h.mems fun x => ?_
  simp only [State.memWf, Bool.and_eq_true] at x ⊢
  exact ⟨⟨⟨x.1.1.1, x.1.1.2⟩, x.1.2⟩, hm x.2⟩

theorem Keeps.ite {s₀ a b : State} {p : Prop} [Decidable p] (ha : Keeps s₀ a) (hb : Keeps s₀ b) :
    Keeps s₀ (if p then a else b) := by
  split <;> assumption

/-- What an operation that answers a state and more keeps, the state it answered keeps. -/
theorem pair_keeps {α : Type} {s₀ s : State} {p : State × α} {r : α} (e : p = (s, r)) (h : Keeps s₀ p.1) : Keeps s₀ s := by
  rw [e] at h
  exact h

/-- The same where the state comes second. -/
theorem pair_keeps₂ {α : Type} {s₀ s : State} {p : α × State} {r : α} (e : p = (r, s)) (h : Keeps s₀ p.2) : Keeps s₀ s := by
  rw [e] at h
  exact h

/-- What an operation that may answer no state keeps. -/
def OptKeeps (s : State) (o : Option State) : Prop := ∀ t, o = some t → Keeps s t

theorem OptKeeps.some {s t : State} (h : Keeps s t) : OptKeeps s (some t) := by
  intro u e
  cases e
  exact h

theorem OptKeeps.none {s : State} : OptKeeps s none := fun _ e => nomatch e

theorem opt_keeps {s t : State} {o : Option State} (e : o = Option.some t) (h : OptKeeps s o) : Keeps s t := h t e

theorem opt_getD_keeps {s d : State} {o : Option State} (h : OptKeeps s o) (hd : Keeps s d) : Keeps s (o.getD d) := by
  cases o with
  | none => exact hd
  | some t => exact h t rfl

/-- What each round of a fold keeps, the fold keeps. -/
theorem foldl_keeps {α : Type} {s₀ s : State} (l : List α) (f : State → α → State) (h : Keeps s₀ s)
    (hf : ∀ t x, Keeps s₀ t → Keeps s₀ (f t x)) : Keeps s₀ (l.foldl f s) := by
  induction l generalizing s with
  | nil => exact h
  | cons x l ih => exact ih (hf s x h)

/-- The same for a fold that carries more than the state. -/
theorem foldl_keeps₂ {α β : Type} {s₀ : State} (l : List α) (f : State × β → α → State × β) (p : State × β)
    (h : Keeps s₀ p.1) (hf : ∀ t b x, Keeps s₀ t → Keeps s₀ (f (t, b) x).1) : Keeps s₀ (l.foldl f p).1 := by
  induction l generalizing p with
  | nil => exact h
  | cons x l ih => exact ih (f p x) (hf p.1 p.2 x h)

end Sys2Proof.Laws
end

