-- ==== Sys2Proof/Laws/KeepsOps.lean ====
section
/-! SUPPORT. What the operations of Machine/Ops.lean keep (`Keeps`): one lemma for each. -/

set_option Elab.async false
set_option linter.all false

namespace Sys2Proof.Laws

open Sys2Proof Sys2Proof.Machine

theorem State_setValue_keeps {s₀ : State} (a0 : State) (a1 : Nat) (a2 : Bytes) (h0 : Keeps s₀ a0) :
    Keeps s₀ (State.setValue a0 a1 a2) := by
  unfold State.setValue
  repeat' first
    | with_reducible assumption
    | (extract_lets +onlyGivenNames v; first | (have w : Mem := v; clear w) | (have w : DictState := v; clear w) | (have w : Fw := v; clear w) | clear_value v)
    | (simp -zeta only [keeps_mk]; with_reducible refine Keeps.at ?_)

theorem State_bump_keeps {s₀ : State} (a0 : State) (a1 : Nat) (a2 : Nat) (h0 : Keeps s₀ a0) :
    Keeps s₀ (State.bump a0 a1 a2) := by
  unfold State.bump
  repeat' first
    | with_reducible assumption
    | (extract_lets +onlyGivenNames v; first | (have w : Mem := v; clear w) | (have w : DictState := v; clear w) | (have w : Fw := v; clear w) | clear_value v)
    | (simp -zeta only [keeps_mk]; with_reducible refine Keeps.at ?_)

theorem State_clearCounters_keeps {s₀ : State} (a0 : State) (a1 : Nat) (a2 : Nat) (h0 : Keeps s₀ a0) :
    Keeps s₀ (State.clearCounters a0 a1 a2) := by
  unfold State.clearCounters
  repeat' first
    | with_reducible assumption
    | (extract_lets +onlyGivenNames v; first | (have w : Mem := v; clear w) | (have w : DictState := v; clear w) | (have w : Fw := v; clear w) | clear_value v)
    | (simp -zeta only [keeps_mk]; with_reducible refine Keeps.at ?_)

theorem State_drawn_keeps {s₀ : State} (a0 : State) (h0 : Keeps s₀ a0) :
    Keeps s₀ (State.drawn a0) := by
  unfold State.drawn
  repeat' first
    | with_reducible assumption
    | (extract_lets +onlyGivenNames v; first | (have w : Mem := v; clear w) | (have w : DictState := v; clear w) | (have w : Fw := v; clear w) | clear_value v)
    | (simp -zeta only [keeps_mk]; with_reducible refine Keeps.at ?_)

theorem State_advance_keeps {s₀ : State} (a0 : State) (a1 : Nat) (h0 : Keeps s₀ a0) :
    Keeps s₀ (State.advance a0 a1) := by
  unfold State.advance
  repeat' first
    | with_reducible assumption
    | (extract_lets +onlyGivenNames v; first | (have w : Mem := v; clear w) | (have w : DictState := v; clear w) | (have w : Fw := v; clear w) | clear_value v)
    | (simp -zeta only [keeps_mk]; with_reducible refine Keeps.at ?_)

theorem State_sendIrq_keeps {s₀ : State} (a0 : State) (a1 : Nat) (h0 : Keeps s₀ a0) :
    Keeps s₀ (State.sendIrq a0 a1) := by
  unfold State.sendIrq
  repeat' first
    | with_reducible assumption
    | (extract_lets +onlyGivenNames v; first | (have w : Mem := v; clear w) | (have w : DictState := v; clear w) | (have w : Fw := v; clear w) | clear_value v)
    | (simp -zeta only [keeps_mk]; with_reducible refine Keeps.at ?_)
    | split

theorem State_logIrq_keeps {s₀ : State} (a0 : State) (a1 : Nat) (h0 : Keeps s₀ a0) :
    Keeps s₀ (State.logIrq a0 a1) := by
  unfold State.logIrq
  repeat' first
    | with_reducible assumption
    | (extract_lets +onlyGivenNames v; first | (have w : Mem := v; clear w) | (have w : DictState := v; clear w) | (have w : Fw := v; clear w) | clear_value v)
    | with_reducible apply State_sendIrq_keeps
    | (simp -zeta only [keeps_mk]; with_reducible refine Keeps.at ?_)
    | split

theorem State_log_keeps {s₀ : State} (a0 : State) (a1 : Nat) (a2 : Nat) (a3 : Nat) (a4 : LogAddr) (a5 : Nat) (h0 : Keeps s₀ a0) :
    Keeps s₀ (State.log a0 a1 a2 a3 a4 a5) := by
  unfold State.log
  repeat' first
    | with_reducible assumption
    | (extract_lets +onlyGivenNames v; refine (fun (hv : Keeps s₀ v) => ?_) ?_; (on_goal 1 => clear_value v); (on_goal 2 => (dsimp -zeta only [v]; try clear v)))
    | (extract_lets +onlyGivenNames v; first | (have w : Mem := v; clear w) | (have w : DictState := v; clear w) | (have w : Fw := v; clear w) | clear_value v)
    | with_reducible apply State_logIrq_keeps
    | with_reducible apply State_bump_keeps
    | (simp -zeta only [keeps_mk]; with_reducible refine Keeps.at ?_)
    | split

theorem State_logFault_keeps {s₀ : State} (a0 : State) (a1 : Nat) (a2 : Nat) (a3 : LogAddr) (a4 : Nat) (a5 : LogAddr) (a6 : Nat) (h0 : Keeps s₀ a0) :
    Keeps s₀ (State.logFault a0 a1 a2 a3 a4 a5 a6) := by
  unfold State.logFault
  repeat' first
    | with_reducible assumption
    | with_reducible apply State_log_keeps

theorem State_limitMark_keeps {s₀ : State} (a0 : State) (a1 : Nat) (h0 : Keeps s₀ a0) :
    Keeps s₀ (State.limitMark a0 a1) := by
  unfold State.limitMark
  repeat' first
    | with_reducible assumption
    | (extract_lets +onlyGivenNames v; first | (have w : Mem := v; clear w) | (have w : DictState := v; clear w) | (have w : Fw := v; clear w) | clear_value v)
    | (simp -zeta only [keeps_mk]; with_reducible refine Keeps.at ?_)

theorem State_event_keeps {s₀ : State} (a0 : State) (a1 : Nat) (a2 : Nat) (a3 : Nat) (h0 : Keeps s₀ a0) :
    Keeps s₀ (State.event a0 a1 a2 a3) := by
  unfold State.event
  repeat' first
    | with_reducible assumption
    | (with_reducible intro x; try beta_reduce)
    | (extract_lets +onlyGivenNames v; refine (fun (hv : Keeps s₀ v) => ?_) ?_; (on_goal 1 => clear_value v); (on_goal 2 => (dsimp -zeta only [v]; try clear v)))
    | (extract_lets +onlyGivenNames v; refine (fun (hv : Keeps s₀ v.1) => ?_) ?_; (on_goal 1 => clear_value v); (on_goal 2 => (dsimp -zeta only [v]; try clear v)))
    | (extract_lets +onlyGivenNames v; first | (have w : Mem := v; clear w) | (have w : DictState := v; clear w) | (have w : Fw := v; clear w) | clear_value v)
    | with_reducible apply State_bump_keeps
    | (with_reducible refine foldl_keeps _ _ ?_ ?_; on_goal 2 => (intro t x ht; try beta_reduce))
    | (with_reducible refine foldl_keeps₂ _ _ _ ?_ ?_; on_goal 2 => (intro t b x ht; try dsimp -zeta only))
    | (simp -zeta only [keeps_mk]; with_reducible refine Keeps.at ?_)
    | with_reducible refine pair_keeps (by with_reducible assumption) ?_
    | split
    | (dsimp -zeta only)

theorem State_departure_keeps {s₀ : State} (a0 : State) (a1 : Nat) (a2 : Nat) (h0 : Keeps s₀ a0) :
    Keeps s₀ (State.departure a0 a1 a2) := by
  unfold State.departure
  repeat' first
    | with_reducible assumption
    | with_reducible apply State_log_keeps
    | with_reducible apply State_bump_keeps

theorem State_setFunc_keeps {s₀ : State} (a0 : State) (a1 : Func) (a2 : FState) (h0 : Keeps s₀ a0) :
    Keeps s₀ (State.setFunc a0 a1 a2) := by
  unfold State.setFunc
  repeat' first
    | with_reducible assumption
    | (simp -zeta only [keeps_mk]; with_reducible refine Keeps.at ?_)

theorem State_setTile_keeps {s₀ : State} (a0 : State) (a1 : Nat) (a2 : Tile) (h0 : Keeps s₀ a0) :
    Keeps s₀ (State.setTile a0 a1 a2) := by
  unfold State.setTile
  repeat' first
    | with_reducible assumption
    | (simp -zeta only [keeps_mk]; with_reducible refine Keeps.at ?_)

theorem State_adjTile_keeps {s₀ : State} (a0 : State) (a1 : Nat) (a2 : Tile → Tile) (h0 : Keeps s₀ a0) :
    Keeps s₀ (State.adjTile a0 a1 a2) := by
  unfold State.adjTile
  repeat' first
    | with_reducible assumption
    | with_reducible apply State_setTile_keeps

end Sys2Proof.Laws
end

