-- ==== Sys2Proof/Laws/KeepsBlocks.lean ====
section
/-! SUPPORT. What the operations of Machine/Blocks.lean keep (`Keeps`): one lemma for each. -/

set_option Elab.async false
set_option linter.all false

namespace Sys2Proof.Laws

open Sys2Proof Sys2Proof.Machine

theorem State_adjEntry_keeps {s₀ : State} (a0 : State) (a1 : Nat) (a2 : Entry → Entry) (h0 : Keeps s₀ a0) :
    Keeps s₀ (State.adjEntry a0 a1 a2) := by
  unfold State.adjEntry
  repeat' first
    | with_reducible assumption
    | (extract_lets +onlyGivenNames v; first | (have w : Mem := v; clear w) | (have w : DictState := v; clear w) | (have w : Fw := v; clear w) | clear_value v)
    | (simp -zeta only [keeps_mk]; with_reducible refine Keeps.at ?_)

theorem State_adjKernel_keeps {s₀ : State} (a0 : State) (a1 : Nat) (a2 : Kernel → Kernel) (h0 : Keeps s₀ a0) :
    Keeps s₀ (State.adjKernel a0 a1 a2) := by
  unfold State.adjKernel
  repeat' first
    | with_reducible assumption
    | with_reducible apply State_adjEntry_keeps

theorem State_noteEnds_keeps {s₀ : State} (a0 : State) (h0 : Keeps s₀ a0) :
    Keeps s₀ (State.noteEnds a0) := by
  unfold State.noteEnds
  repeat' first
    | with_reducible assumption
    | (with_reducible intro x; try beta_reduce)
    | (extract_lets +onlyGivenNames v; refine (fun (hv : Keeps s₀ v) => ?_) ?_; (on_goal 1 => clear_value v); (on_goal 2 => (dsimp -zeta only [v]; try clear v)))
    | (extract_lets +onlyGivenNames v; refine (fun (hv : Keeps s₀ v.1) => ?_) ?_; (on_goal 1 => clear_value v); (on_goal 2 => (dsimp -zeta only [v]; try clear v)))
    | (extract_lets +onlyGivenNames v; first | (have w : Mem := v; clear w) | (have w : DictState := v; clear w) | (have w : Fw := v; clear w) | clear_value v)
    | (with_reducible refine foldl_keeps _ _ ?_ ?_; on_goal 2 => (intro t x ht; try beta_reduce))
    | (with_reducible refine foldl_keeps₂ _ _ _ ?_ ?_; on_goal 2 => (intro t b x ht; try dsimp -zeta only))
    | (simp -zeta only [keeps_mk]; with_reducible refine Keeps.at ?_)
    | with_reducible refine pair_keeps (by with_reducible assumption) ?_
    | split
    | (dsimp -zeta only)

theorem State_finish_keeps {s₀ : State} (a0 : State) (a1 : Nat) (a2 : Nat) (a3 : Nat) (a4 : Nat) (h0 : Keeps s₀ a0) :
    Keeps s₀ (State.finish a0 a1 a2 a3 a4) := by
  unfold State.finish
  repeat' first
    | with_reducible assumption
    | (with_reducible intro x; try beta_reduce)
    | (extract_lets +onlyGivenNames v; refine (fun (hv : Keeps s₀ v) => ?_) ?_; (on_goal 1 => clear_value v); (on_goal 2 => (dsimp -zeta only [v]; try clear v)))
    | (extract_lets +onlyGivenNames v; refine (fun (hv : Keeps s₀ v.1) => ?_) ?_; (on_goal 1 => clear_value v); (on_goal 2 => (dsimp -zeta only [v]; try clear v)))
    | (extract_lets +onlyGivenNames v; first | (have w : Mem := v; clear w) | (have w : DictState := v; clear w) | (have w : Fw := v; clear w) | clear_value v)
    | with_reducible apply State_noteEnds_keeps
    | with_reducible apply State_adjEntry_keeps
    | (with_reducible refine foldl_keeps _ _ ?_ ?_; on_goal 2 => (intro t x ht; try beta_reduce))
    | (with_reducible refine foldl_keeps₂ _ _ _ ?_ ?_; on_goal 2 => (intro t b x ht; try dsimp -zeta only))
    | (simp -zeta only [keeps_mk]; with_reducible refine Keeps.at ?_)
    | with_reducible refine pair_keeps (by with_reducible assumption) ?_
    | split
    | (dsimp -zeta only)

theorem State_adjBlock_keeps {s₀ : State} (a0 : State) (a1 : Nat) (a2 : Nat) (a3 : Block → Block) (h0 : Keeps s₀ a0) :
    Keeps s₀ (State.adjBlock a0 a1 a2 a3) := by
  unfold State.adjBlock
  repeat' first
    | with_reducible assumption
    | with_reducible apply State_adjTile_keeps

theorem State_adjGroup_keeps {s₀ : State} (a0 : State) (a1 : GroupRef) (a2 : Group → Group) (h0 : Keeps s₀ a0) :
    Keeps s₀ (State.adjGroup a0 a1 a2) := by
  unfold State.adjGroup
  repeat' first
    | with_reducible assumption
    | with_reducible apply State_adjBlock_keeps

theorem State_advanceGroup_keeps {s₀ : State} (a0 : State) (a1 : GroupRef) (h0 : Keeps s₀ a0) :
    Keeps s₀ (State.advanceGroup a0 a1) := by
  unfold State.advanceGroup
  repeat' first
    | with_reducible assumption
    | with_reducible apply State_adjGroup_keeps

theorem State_noteFault_keeps {s₀ : State} (a0 : State) (a1 : Nat) (a2 : Nat) (a3 : Nat) (a4 : Nat) (h0 : Keeps s₀ a0) :
    Keeps s₀ (State.noteFault a0 a1 a2 a3 a4) := by
  unfold State.noteFault
  repeat' first
    | with_reducible assumption
    | with_reducible apply State_adjKernel_keeps

theorem State_countFault_keeps {s₀ : State} (a0 : State) (a1 : Nat) (h0 : Keeps s₀ a0) :
    Keeps s₀ (State.countFault a0 a1) := by
  unfold State.countFault
  repeat' first
    | with_reducible assumption
    | (extract_lets +onlyGivenNames v; refine (fun (hv : Keeps s₀ v) => ?_) ?_; (on_goal 1 => clear_value v); (on_goal 2 => (dsimp -zeta only [v]; try clear v)))
    | with_reducible apply State_bump_keeps
    | split

theorem State_stopBlock_keeps {s₀ : State} (a0 : State) (a1 : Nat) (a2 : Nat) (a3 : Option Nat) (h0 : Keeps s₀ a0) :
    Keeps s₀ (State.stopBlock a0 a1 a2 a3) := by
  unfold State.stopBlock
  repeat' first
    | with_reducible assumption
    | (extract_lets +onlyGivenNames v; refine (fun (hv : Keeps s₀ v) => ?_) ?_; (on_goal 1 => clear_value v); (on_goal 2 => (dsimp -zeta only [v]; try clear v)))
    | (extract_lets +onlyGivenNames v; first | (have w : Mem := v; clear w) | (have w : DictState := v; clear w) | (have w : Fw := v; clear w) | clear_value v)
    | with_reducible apply State_adjBlock_keeps
    | with_reducible apply State_adjTile_keeps
    | (simp -zeta only [keeps_mk]; with_reducible refine Keeps.at ?_)
    | split

theorem State_endBlock_keeps {s₀ : State} (a0 : State) (a1 : Nat) (a2 : Nat) (a3 : Nat) (h0 : Keeps s₀ a0) :
    Keeps s₀ (State.endBlock a0 a1 a2 a3) := by
  unfold State.endBlock
  repeat' first
    | with_reducible assumption
    | with_reducible apply State_bump_keeps
    | with_reducible apply State_noteFault_keeps
    | with_reducible apply State_stopBlock_keeps
    | split

theorem State_endSaved_keeps {s₀ : State} (a0 : State) (a1 : Block) (a2 : Nat) (h0 : Keeps s₀ a0) :
    Keeps s₀ (State.endSaved a0 a1 a2) := by
  unfold State.endSaved
  repeat' first
    | with_reducible assumption
    | (with_reducible intro x; try beta_reduce)
    | (extract_lets +onlyGivenNames v; refine (fun (hv : Keeps s₀ v) => ?_) ?_; (on_goal 1 => clear_value v); (on_goal 2 => (dsimp -zeta only [v]; try clear v)))
    | (extract_lets +onlyGivenNames v; refine (fun (hv : Keeps s₀ v.1) => ?_) ?_; (on_goal 1 => clear_value v); (on_goal 2 => (dsimp -zeta only [v]; try clear v)))
    | (extract_lets +onlyGivenNames v; first | (have w : Mem := v; clear w) | (have w : DictState := v; clear w) | (have w : Fw := v; clear w) | clear_value v)
    | with_reducible apply State_bump_keeps
    | with_reducible apply State_noteFault_keeps
    | (with_reducible refine foldl_keeps _ _ ?_ ?_; on_goal 2 => (intro t x ht; try beta_reduce))
    | (with_reducible refine foldl_keeps₂ _ _ _ ?_ ?_; on_goal 2 => (intro t b x ht; try dsimp -zeta only))
    | (simp -zeta only [keeps_mk]; with_reducible refine Keeps.at ?_)
    | with_reducible refine pair_keeps (by with_reducible assumption) ?_
    | split
    | (dsimp -zeta only)

theorem State_reportFault_keeps {s₀ : State} (a0 : State) (a1 : Block) (a2 : Nat) (a3 : Nat) (a4 : LogAddr) (a5 : LogAddr) (a6 : Nat) (h0 : Keeps s₀ a0) :
    Keeps s₀ (State.reportFault a0 a1 a2 a3 a4 a5 a6) := by
  unfold State.reportFault
  repeat' first
    | with_reducible assumption
    | with_reducible apply State_logFault_keeps
    | with_reducible apply State_countFault_keeps

theorem State_abortBlocks_keeps {s₀ : State} (a0 : Nat) (a1 : Nat) (a2 : List Block) (a3 : State) (h3 : Keeps s₀ a3) :
    Keeps s₀ (State.abortBlocks a0 a1 a2 a3) := by
  induction a2 generalizing a0 a1 a3 with
  | nil =>
    rw [State.abortBlocks]
    repeat' with_reducible assumption
  | cons x l ih =>
    rw [State.abortBlocks]
    repeat' first
      | with_reducible assumption
      | with_reducible apply ih
      | with_reducible apply State_endBlock_keeps
      | with_reducible apply State_endSaved_keeps
      | with_reducible apply State_reportFault_keeps
      | split

theorem State_terminate_keeps {s₀ : State} (a0 : State) (a1 : Block) (a2 : Nat) (h0 : Keeps s₀ a0) :
    Keeps s₀ (State.terminate a0 a1 a2) := by
  unfold State.terminate
  repeat' first
    | with_reducible assumption
    | (with_reducible intro x; try beta_reduce)
    | (extract_lets +onlyGivenNames v; refine (fun (hv : Keeps s₀ v) => ?_) ?_; (on_goal 1 => clear_value v); (on_goal 2 => (dsimp -zeta only [v]; try clear v)))
    | (extract_lets +onlyGivenNames v; refine (fun (hv : Keeps s₀ v.1) => ?_) ?_; (on_goal 1 => clear_value v); (on_goal 2 => (dsimp -zeta only [v]; try clear v)))
    | (extract_lets +onlyGivenNames v; first | (have w : Mem := v; clear w) | (have w : DictState := v; clear w) | (have w : Fw := v; clear w) | clear_value v)
    | with_reducible apply State_endBlock_keeps
    | with_reducible apply State_abortBlocks_keeps
    | (with_reducible refine foldl_keeps _ _ ?_ ?_; on_goal 2 => (intro t x ht; try beta_reduce))
    | (with_reducible refine foldl_keeps₂ _ _ _ ?_ ?_; on_goal 2 => (intro t b x ht; try dsimp -zeta only))
    | (simp -zeta only [keeps_mk]; with_reducible refine Keeps.at ?_)
    | with_reducible refine pair_keeps (by with_reducible assumption) ?_
    | split
    | (dsimp -zeta only)

theorem State_threadFault_keeps {s₀ : State} (a0 : State) (a1 : GroupRef) (a2 : Nat) (a3 : LogAddr) (a4 : Nat) (h0 : Keeps s₀ a0) :
    Keeps s₀ (State.threadFault a0 a1 a2 a3 a4) := by
  unfold State.threadFault
  repeat' first
    | with_reducible assumption
    | (extract_lets +onlyGivenNames v; first | (have w : Mem := v; clear w) | (have w : DictState := v; clear w) | (have w : Fw := v; clear w) | clear_value v)
    | with_reducible apply State_terminate_keeps
    | with_reducible apply State_reportFault_keeps
    | split

theorem State_poisonControl_keeps {s₀ : State} (a0 : State) (a1 : GroupRef) (a2 : Nat) (a3 : Nat) (h0 : Keeps s₀ a0) :
    Keeps s₀ (State.poisonControl a0 a1 a2 a3) := by
  unfold State.poisonControl
  repeat' first
    | with_reducible assumption
    | (with_reducible intro x; try beta_reduce)
    | (extract_lets +onlyGivenNames v; refine (fun (hv : Keeps s₀ v) => ?_) ?_; (on_goal 1 => clear_value v); (on_goal 2 => (dsimp -zeta only [v]; try clear v)))
    | (extract_lets +onlyGivenNames v; refine (fun (hv : Keeps s₀ v.1) => ?_) ?_; (on_goal 1 => clear_value v); (on_goal 2 => (dsimp -zeta only [v]; try clear v)))
    | (extract_lets +onlyGivenNames v; first | (have w : Mem := v; clear w) | (have w : DictState := v; clear w) | (have w : Fw := v; clear w) | clear_value v)
    | with_reducible apply State_threadFault_keeps
    | with_reducible apply State_log_keeps
    | with_reducible apply State_bump_keeps
    | (with_reducible refine foldl_keeps _ _ ?_ ?_; on_goal 2 => (intro t x ht; try beta_reduce))
    | (with_reducible refine foldl_keeps₂ _ _ _ ?_ ?_; on_goal 2 => (intro t b x ht; try dsimp -zeta only))
    | (simp -zeta only [keeps_mk]; with_reducible refine Keeps.at ?_)
    | with_reducible refine pair_keeps (by with_reducible assumption) ?_
    | split
    | (dsimp -zeta only)

theorem State_cancelStep_keeps {s₀ : State} (a0 : State) (h0 : Keeps s₀ a0) :
    Keeps s₀ (State.cancelStep a0) := by
  unfold State.cancelStep
  repeat' first
    | with_reducible assumption
    | (with_reducible intro x; try beta_reduce)
    | (extract_lets +onlyGivenNames v; refine (fun (hv : Keeps s₀ v) => ?_) ?_; (on_goal 1 => clear_value v); (on_goal 2 => (dsimp -zeta only [v]; try clear v)))
    | (extract_lets +onlyGivenNames v; refine (fun (hv : Keeps s₀ v.1) => ?_) ?_; (on_goal 1 => clear_value v); (on_goal 2 => (dsimp -zeta only [v]; try clear v)))
    | (extract_lets +onlyGivenNames v; first | (have w : Mem := v; clear w) | (have w : DictState := v; clear w) | (have w : Fw := v; clear w) | clear_value v)
    | with_reducible apply State_noteEnds_keeps
    | (with_reducible refine foldl_keeps _ _ ?_ ?_; on_goal 2 => (intro t x ht; try beta_reduce))
    | (with_reducible refine foldl_keeps₂ _ _ _ ?_ ?_; on_goal 2 => (intro t b x ht; try dsimp -zeta only))
    | (simp -zeta only [keeps_mk]; with_reducible refine Keeps.at ?_)
    | with_reducible refine pair_keeps (by with_reducible assumption) ?_
    | split
    | (dsimp -zeta only)

theorem State_logWork_keeps {s₀ : State} (a0 : Nat) (a1 : Nat) (a2 : List (Nat × Nat × Nat × Nat)) (a3 : State) (h3 : Keeps s₀ a3) :
    Keeps s₀ (State.logWork a0 a1 a2 a3) := by
  induction a2 generalizing a0 a1 a3 with
  | nil =>
    rw [State.logWork]
    repeat' with_reducible assumption
  | cons x l ih =>
    rw [State.logWork]
    repeat' first
      | with_reducible assumption
      | with_reducible apply ih
      | with_reducible apply State_bump_keeps
      | with_reducible apply State_logFault_keeps

theorem State_faultBlocks_keeps {s₀ : State} (a0 : List Block) (a1 : State) (h1 : Keeps s₀ a1) :
    Keeps s₀ (State.faultBlocks a0 a1) := by
  induction a0 generalizing a1 with
  | nil =>
    rw [State.faultBlocks]
    repeat' first
      | with_reducible assumption
      | (with_reducible intro x; try beta_reduce)
      | (extract_lets +onlyGivenNames v; refine (fun (hv : Keeps s₀ v) => ?_) ?_; (on_goal 1 => clear_value v); (on_goal 2 => (dsimp -zeta only [v]; try clear v)))
      | (extract_lets +onlyGivenNames v; refine (fun (hv : Keeps s₀ v.1) => ?_) ?_; (on_goal 1 => clear_value v); (on_goal 2 => (dsimp -zeta only [v]; try clear v)))
      | (extract_lets +onlyGivenNames v; first | (have w : Mem := v; clear w) | (have w : DictState := v; clear w) | (have w : Fw := v; clear w) | clear_value v)
      | with_reducible apply ih
      | with_reducible apply State_reportFault_keeps
      | with_reducible apply State_terminate_keeps
      | (with_reducible refine foldl_keeps _ _ ?_ ?_; on_goal 2 => (intro t x ht; try beta_reduce))
      | (with_reducible refine foldl_keeps₂ _ _ _ ?_ ?_; on_goal 2 => (intro t b x ht; try dsimp -zeta only))
      | (simp -zeta only [keeps_mk]; with_reducible refine Keeps.at ?_)
      | with_reducible refine pair_keeps (by with_reducible assumption) ?_
      | split
      | (dsimp -zeta only)
  | cons x l ih =>
    rw [State.faultBlocks]
    repeat' first
      | with_reducible assumption
      | (with_reducible intro x; try beta_reduce)
      | (extract_lets +onlyGivenNames v; refine (fun (hv : Keeps s₀ v) => ?_) ?_; (on_goal 1 => clear_value v); (on_goal 2 => (dsimp -zeta only [v]; try clear v)))
      | (extract_lets +onlyGivenNames v; refine (fun (hv : Keeps s₀ v.1) => ?_) ?_; (on_goal 1 => clear_value v); (on_goal 2 => (dsimp -zeta only [v]; try clear v)))
      | (extract_lets +onlyGivenNames v; first | (have w : Mem := v; clear w) | (have w : DictState := v; clear w) | (have w : Fw := v; clear w) | clear_value v)
      | with_reducible apply ih
      | with_reducible apply State_reportFault_keeps
      | with_reducible apply State_terminate_keeps
      | (with_reducible refine foldl_keeps _ _ ?_ ?_; on_goal 2 => (intro t x ht; try beta_reduce))
      | (with_reducible refine foldl_keeps₂ _ _ _ ?_ ?_; on_goal 2 => (intro t b x ht; try dsimp -zeta only))
      | (simp -zeta only [keeps_mk]; with_reducible refine Keeps.at ?_)
      | with_reducible refine pair_keeps (by with_reducible assumption) ?_
      | split
      | (dsimp -zeta only)

theorem State_setSleep_keeps {s₀ : State} (a0 : State) (a1 : Nat) (a2 : Sleep) (h0 : Keeps s₀ a0) :
    Keeps s₀ (State.setSleep a0 a1 a2) := by
  unfold State.setSleep
  repeat' first
    | with_reducible assumption
    | (extract_lets +onlyGivenNames v; first | (have w : Mem := v; clear w) | (have w : DictState := v; clear w) | (have w : Fw := v; clear w) | clear_value v)
    | (simp -zeta only [keeps_mk]; with_reducible refine Keeps.at ?_)

theorem State_napFaulted_keeps {s₀ : State} (a0 : State) (a1 : Option Nat) (h0 : Keeps s₀ a0) :
    Keeps s₀ (State.napFaulted a0 a1) := by
  unfold State.napFaulted
  repeat' first
    | with_reducible assumption
    | (with_reducible intro x; try beta_reduce)
    | (extract_lets +onlyGivenNames v; refine (fun (hv : Keeps s₀ v) => ?_) ?_; (on_goal 1 => clear_value v); (on_goal 2 => (dsimp -zeta only [v]; try clear v)))
    | (extract_lets +onlyGivenNames v; refine (fun (hv : Keeps s₀ v.1) => ?_) ?_; (on_goal 1 => clear_value v); (on_goal 2 => (dsimp -zeta only [v]; try clear v)))
    | (extract_lets +onlyGivenNames v; first | (have w : Mem := v; clear w) | (have w : DictState := v; clear w) | (have w : Fw := v; clear w) | clear_value v)
    | with_reducible apply State_setSleep_keeps
    | (with_reducible refine foldl_keeps _ _ ?_ ?_; on_goal 2 => (intro t x ht; try beta_reduce))
    | (with_reducible refine foldl_keeps₂ _ _ _ ?_ ?_; on_goal 2 => (intro t b x ht; try dsimp -zeta only))
    | (simp -zeta only [keeps_mk]; with_reducible refine Keeps.at ?_)
    | with_reducible refine pair_keeps (by with_reducible assumption) ?_
    | split
    | (dsimp -zeta only)

theorem State_faultTile_keeps {s₀ : State} (a0 : State) (a1 : Nat) (h0 : Keeps s₀ a0) :
    Keeps s₀ (State.faultTile a0 a1) := by
  unfold State.faultTile
  repeat' first
    | with_reducible assumption
    | (with_reducible intro x; try beta_reduce)
    | (extract_lets +onlyGivenNames v; refine (fun (hv : Keeps s₀ v) => ?_) ?_; (on_goal 1 => clear_value v); (on_goal 2 => (dsimp -zeta only [v]; try clear v)))
    | (extract_lets +onlyGivenNames v; refine (fun (hv : Keeps s₀ v.1) => ?_) ?_; (on_goal 1 => clear_value v); (on_goal 2 => (dsimp -zeta only [v]; try clear v)))
    | (extract_lets +onlyGivenNames v; first | (have w : Mem := v; clear w) | (have w : DictState := v; clear w) | (have w : Fw := v; clear w) | clear_value v)
    | with_reducible apply State_log_keeps
    | with_reducible apply State_event_keeps
    | with_reducible apply State_logWork_keeps
    | with_reducible apply State_adjTile_keeps
    | with_reducible apply State_faultBlocks_keeps
    | with_reducible apply State_napFaulted_keeps
    | with_reducible apply State_cancelStep_keeps
    | (with_reducible refine foldl_keeps _ _ ?_ ?_; on_goal 2 => (intro t x ht; try beta_reduce))
    | (with_reducible refine foldl_keeps₂ _ _ _ ?_ ?_; on_goal 2 => (intro t b x ht; try dsimp -zeta only))
    | (simp -zeta only [keeps_mk]; with_reducible refine Keeps.at ?_)
    | with_reducible refine pair_keeps (by with_reducible assumption) ?_
    | split
    | (dsimp -zeta only)

theorem State_faultService_keeps {s₀ : State} (a0 : State) (a1 : Nat) (h0 : Keeps s₀ a0) :
    Keeps s₀ (State.faultService a0 a1) := by
  unfold State.faultService
  repeat' first
    | with_reducible assumption
    | (extract_lets +onlyGivenNames v; refine (fun (hv : Keeps s₀ v) => ?_) ?_; (on_goal 1 => clear_value v); (on_goal 2 => (dsimp -zeta only [v]; try clear v)))
    | (extract_lets +onlyGivenNames v; first | (have w : Mem := v; clear w) | (have w : DictState := v; clear w) | (have w : Fw := v; clear w) | clear_value v)
    | with_reducible apply State_faultTile_keeps
    | with_reducible apply State_drawn_keeps
    | with_reducible apply State_departure_keeps
    | split

end Sys2Proof.Laws
end

