-- ==== Sys2Proof/Laws/KeepsFelt.lean ====
section
/-! SUPPORT. What the operations of Machine/Felt.lean keep (`Keeps`): one lemma for each. -/

set_option Elab.async false
set_option linter.all false

namespace Sys2Proof.Laws

open Sys2Proof Sys2Proof.Machine

theorem State_setPage_keeps {s₀ : State} (a0 : State) (a1 : Nat) (a2 : Page) (h0 : Keeps s₀ a0) :
    Keeps s₀ (State.setPage a0 a1 a2) := by
  unfold State.setPage
  repeat' first
    | with_reducible assumption
    | (extract_lets +onlyGivenNames v; first | (have w : Mem := v; clear w) | (have w : DictState := v; clear w) | (have w : Fw := v; clear w) | clear_value v)
    | (simp -zeta only [keeps_mk]; with_reducible refine Keeps.at ?_)

theorem State_violation_keeps {s₀ : State} (a0 : State) (a1 : Nat) (a2 : Nat) (a3 : Nat) (h0 : Keeps s₀ a0) :
    Keeps s₀ (State.violation a0 a1 a2 a3) := by
  unfold State.violation
  repeat' first
    | with_reducible assumption
    | with_reducible apply State_log_keeps
    | with_reducible apply State_bump_keeps

theorem State_charge1_keeps {s₀ : State} (a0 : State) (a1 : Nat) (a2 : Nat) (h0 : Keeps s₀ a0) :
    Keeps s₀ (State.charge1 a0 a1 a2) := by
  unfold State.charge1
  repeat' first
    | with_reducible assumption
    | (with_reducible intro x; try beta_reduce)
    | (extract_lets +onlyGivenNames v; refine (fun (hv : Keeps s₀ v) => ?_) ?_; (on_goal 1 => clear_value v); (on_goal 2 => (dsimp -zeta only [v]; try clear v)))
    | (extract_lets +onlyGivenNames v; refine (fun (hv : Keeps s₀ v.1) => ?_) ?_; (on_goal 1 => clear_value v); (on_goal 2 => (dsimp -zeta only [v]; try clear v)))
    | (extract_lets +onlyGivenNames v; first | (have w : Mem := v; clear w) | (have w : DictState := v; clear w) | (have w : Fw := v; clear w) | clear_value v)
    | (with_reducible refine foldl_keeps _ _ ?_ ?_; on_goal 2 => (intro t x ht; try beta_reduce))
    | (with_reducible refine foldl_keeps₂ _ _ _ ?_ ?_; on_goal 2 => (intro t b x ht; try dsimp -zeta only))
    | (simp -zeta only [keeps_mk]; with_reducible refine Keeps.at ?_)
    | with_reducible refine pair_keeps (by with_reducible assumption) ?_
    | split
    | (dsimp -zeta only)

theorem State_charge_keeps {s₀ : State} (a0 : State) (a1 : Nat) (a2 : Nat) (h0 : Keeps s₀ a0) :
    Keeps s₀ (State.charge a0 a1 a2) := by
  unfold State.charge
  repeat' first
    | with_reducible assumption
    | (with_reducible intro x; try beta_reduce)
    | (extract_lets +onlyGivenNames v; refine (fun (hv : Keeps s₀ v) => ?_) ?_; (on_goal 1 => clear_value v); (on_goal 2 => (dsimp -zeta only [v]; try clear v)))
    | (extract_lets +onlyGivenNames v; refine (fun (hv : Keeps s₀ v.1) => ?_) ?_; (on_goal 1 => clear_value v); (on_goal 2 => (dsimp -zeta only [v]; try clear v)))
    | (extract_lets +onlyGivenNames v; first | (have w : Mem := v; clear w) | (have w : DictState := v; clear w) | (have w : Fw := v; clear w) | clear_value v)
    | with_reducible apply State_charge1_keeps
    | (with_reducible refine foldl_keeps _ _ ?_ ?_; on_goal 2 => (intro t x ht; try beta_reduce))
    | (with_reducible refine foldl_keeps₂ _ _ _ ?_ ?_; on_goal 2 => (intro t b x ht; try dsimp -zeta only))
    | (simp -zeta only [keeps_mk]; with_reducible refine Keeps.at ?_)
    | with_reducible refine pair_keeps (by with_reducible assumption) ?_
    | split
    | (dsimp -zeta only)

theorem State_tierWrite_keeps {s₀ : State} (a0 : State) (a1 : Nat) (a2 : Nat) (a3 : SectorVal) (h0 : Keeps s₀ a0) :
    Keeps s₀ (State.tierWrite a0 a1 a2 a3) := by
  unfold State.tierWrite
  split
  · exact keeps_mk.mpr (h0.hbm (m := a0.mem.hbm.setSector a2 a3) (wf_setSector _ _ _)).at
  · split
    · exact h0.tier0 (wf_tierSetSector _ _ _)
    · exact h0.tier1 (wf_tierSetSector _ _ _)

theorem State_tierZero_keeps {s₀ : State} (a0 : State) (a1 : Nat) (a2 : Nat) (a3 : Nat) (h0 : Keeps s₀ a0) :
    Keeps s₀ (State.tierZero a0 a1 a2 a3) := by
  unfold State.tierZero
  split
  · exact keeps_mk.mpr (h0.hbm (m := a0.mem.hbm.zero a2 a3 32) (wf_zero _ _ _ _)).at
  · split
    · exact h0.tier0 (wf_zero _ _ _ _)
    · exact h0.tier1 (wf_zero _ _ _ _)

theorem State_fetch_keeps {s₀ : State} (a0 : State) (a1 : Nat) (a2 : Nat) (h0 : Keeps s₀ a0) :
    Keeps s₀ (State.fetch a0 a1 a2).1 := by
  unfold State.fetch
  repeat' first
    | with_reducible assumption
    | (with_reducible intro x; try beta_reduce)
    | (extract_lets +onlyGivenNames v; refine (fun (hv : Keeps s₀ v) => ?_) ?_; (on_goal 1 => clear_value v); (on_goal 2 => (dsimp -zeta only [v]; try clear v)))
    | (extract_lets +onlyGivenNames v; refine (fun (hv : Keeps s₀ v.1) => ?_) ?_; (on_goal 1 => clear_value v); (on_goal 2 => (dsimp -zeta only [v]; try clear v)))
    | (extract_lets +onlyGivenNames v; first | (have w : Mem := v; clear w) | (have w : DictState := v; clear w) | (have w : Fw := v; clear w) | clear_value v)
    | with_reducible apply State_drawn_keeps
    | with_reducible apply State_setPage_keeps
    | with_reducible apply State_charge_keeps
    | with_reducible apply State_bump_keeps
    | (with_reducible refine foldl_keeps _ _ ?_ ?_; on_goal 2 => (intro t x ht; try beta_reduce))
    | (with_reducible refine foldl_keeps₂ _ _ _ ?_ ?_; on_goal 2 => (intro t b x ht; try dsimp -zeta only))
    | (simp -zeta only [keeps_mk]; with_reducible refine Keeps.at ?_)
    | with_reducible refine pair_keeps (by with_reducible assumption) ?_
    | split
    | (dsimp -zeta only)

theorem State_zeroFill_keeps {s₀ : State} (a0 : State) (a1 : Nat) (a2 : Nat) (a3 : Page) (a4 : Nat) (h0 : Keeps s₀ a0) :
    Keeps s₀ (State.zeroFill a0 a1 a2 a3 a4).1 := by
  unfold State.zeroFill
  repeat' first
    | with_reducible assumption
    | (extract_lets +onlyGivenNames v; refine (fun (hv : Keeps s₀ v) => ?_) ?_; (on_goal 1 => clear_value v); (on_goal 2 => (dsimp -zeta only [v]; try clear v)))
    | (extract_lets +onlyGivenNames v; first | (have w : Mem := v; clear w) | (have w : DictState := v; clear w) | (have w : Fw := v; clear w) | clear_value v)
    | with_reducible apply State_tierZero_keeps
    | with_reducible apply State_charge_keeps
    | with_reducible apply State_setPage_keeps
    | (with_reducible refine foldl_keeps _ _ ?_ ?_; on_goal 2 => (intro t x ht; try beta_reduce))
    | split

theorem State_writeMem_keeps {s₀ : State} (a0 : State) (a1 : Nat) (a2 : SectorVal) (a3 : Nat) (h0 : Keeps s₀ a0) :
    Keeps s₀ (State.writeMem a0 a1 a2 a3) := by
  unfold State.writeMem
  repeat' first
    | with_reducible assumption
    | (with_reducible intro x; try beta_reduce)
    | (extract_lets +onlyGivenNames v; refine (fun (hv : Keeps s₀ v) => ?_) ?_; (on_goal 1 => clear_value v); (on_goal 2 => (dsimp -zeta only [v]; try clear v)))
    | (extract_lets +onlyGivenNames v; refine (fun (hv : Keeps s₀ v.1) => ?_) ?_; (on_goal 1 => clear_value v); (on_goal 2 => (dsimp -zeta only [v]; try clear v)))
    | (extract_lets +onlyGivenNames v; first | (have w : Mem := v; clear w) | (have w : DictState := v; clear w) | (have w : Fw := v; clear w) | clear_value v)
    | with_reducible apply State_bump_keeps
    | with_reducible apply State_setPage_keeps
    | with_reducible apply State_zeroFill_keeps
    | with_reducible apply State_tierWrite_keeps
    | with_reducible apply State_charge_keeps
    | (with_reducible refine foldl_keeps _ _ ?_ ?_; on_goal 2 => (intro t x ht; try beta_reduce))
    | (with_reducible refine foldl_keeps₂ _ _ _ ?_ ?_; on_goal 2 => (intro t b x ht; try dsimp -zeta only))
    | (simp -zeta only [keeps_mk]; with_reducible refine Keeps.at ?_)
    | with_reducible refine pair_keeps (by with_reducible assumption) ?_
    | split
    | (dsimp -zeta only)

theorem State_touch_keeps {s₀ : State} (a0 : State) (a1 : Nat) (h0 : Keeps s₀ a0) :
    Keeps s₀ (State.touch a0 a1) := by
  unfold State.touch
  repeat' first
    | with_reducible assumption
    | (extract_lets +onlyGivenNames v; first | (have w : Mem := v; clear w) | (have w : DictState := v; clear w) | (have w : Fw := v; clear w) | clear_value v)
    | (simp -zeta only [keeps_mk]; with_reducible refine Keeps.at ?_)
    | split

theorem State_setLine_keeps {s₀ : State} (a0 : State) (a1 : Nat) (a2 : FLine) (h0 : Keeps s₀ a0) :
    Keeps s₀ (State.setLine a0 a1 a2) := by
  unfold State.setLine
  repeat' first
    | with_reducible assumption
    | (extract_lets +onlyGivenNames v; first | (have w : Mem := v; clear w) | (have w : DictState := v; clear w) | (have w : Fw := v; clear w) | clear_value v)
    | (simp -zeta only [keeps_mk]; with_reducible refine Keeps.at ?_)

theorem State_delLine_keeps {s₀ : State} (a0 : State) (a1 : Nat) (h0 : Keeps s₀ a0) :
    Keeps s₀ (State.delLine a0 a1) := by
  unfold State.delLine
  repeat' first
    | with_reducible assumption
    | (extract_lets +onlyGivenNames v; first | (have w : Mem := v; clear w) | (have w : DictState := v; clear w) | (have w : Fw := v; clear w) | clear_value v)
    | (simp -zeta only [keeps_mk]; with_reducible refine Keeps.at ?_)

theorem State_writeBack_keeps {s₀ : State} (a0 : State) (a1 : Nat) (a2 : FLine) (a3 : Nat) (h0 : Keeps s₀ a0) :
    Keeps s₀ (State.writeBack a0 a1 a2 a3) := by
  unfold State.writeBack
  repeat' first
    | with_reducible assumption
    | with_reducible apply State_writeMem_keeps
    | (with_reducible refine foldl_keeps _ _ ?_ ?_; on_goal 2 => (intro t x ht; try beta_reduce))
    | split

theorem State_deferOldest_keeps {s₀ : State} (a0 : State) (a1 : List (Nat × FLine)) (h0 : Keeps s₀ a0) :
    Keeps s₀ (State.deferOldest a0 a1) := by
  unfold State.deferOldest
  repeat' first
    | with_reducible assumption
    | (extract_lets +onlyGivenNames v; first | (have w : Mem := v; clear w) | (have w : DictState := v; clear w) | (have w : Fw := v; clear w) | clear_value v)
    | with_reducible apply State_bump_keeps
    | with_reducible apply State_setLine_keeps
    | split

theorem State_keepDefer_keeps {s₀ : State} (a0 : State) (a1 : State) (h0 : Keeps s₀ a0) (h1 : Keeps s₀ a1) :
    Keeps s₀ (State.keepDefer a0 a1) := by
  unfold State.keepDefer
  repeat' first
    | with_reducible assumption
    | (with_reducible intro x; try beta_reduce)
    | (extract_lets +onlyGivenNames v; refine (fun (hv : Keeps s₀ v) => ?_) ?_; (on_goal 1 => clear_value v); (on_goal 2 => (dsimp -zeta only [v]; try clear v)))
    | (extract_lets +onlyGivenNames v; refine (fun (hv : Keeps s₀ v.1) => ?_) ?_; (on_goal 1 => clear_value v); (on_goal 2 => (dsimp -zeta only [v]; try clear v)))
    | (extract_lets +onlyGivenNames v; first | (have w : Mem := v; clear w) | (have w : DictState := v; clear w) | (have w : Fw := v; clear w) | clear_value v)
    | with_reducible apply State_bump_keeps
    | with_reducible apply State_setLine_keeps
    | (with_reducible refine foldl_keeps _ _ ?_ ?_; on_goal 2 => (intro t x ht; try beta_reduce))
    | (with_reducible refine foldl_keeps₂ _ _ _ ?_ ?_; on_goal 2 => (intro t b x ht; try dsimp -zeta only))
    | (simp -zeta only [keeps_mk]; with_reducible refine Keeps.at ?_)
    | with_reducible refine pair_keeps (by with_reducible assumption) ?_
    | split
    | (dsimp -zeta only)

theorem State_findWay_keeps {s₀ : State} (a0 : State) (a1 : Nat) (a2 : Nat) (h0 : Keeps s₀ a0) :
    Keeps s₀ (State.findWay a0 a1 a2).1 := by
  unfold State.findWay
  repeat' first
    | with_reducible assumption
    | (extract_lets +onlyGivenNames v; first | (have w : Mem := v; clear w) | (have w : DictState := v; clear w) | (have w : Fw := v; clear w) | clear_value v)
    | with_reducible apply State_delLine_keeps
    | with_reducible apply State_writeBack_keeps
    | with_reducible apply State_deferOldest_keeps
    | split

theorem State_allocate_keeps {s₀ : State} (a0 : State) (a1 : Nat) (a2 : Nat) (a3 : List FSector) (h0 : Keeps s₀ a0) :
    Keeps s₀ (State.allocate a0 a1 a2 a3).1 := by
  unfold State.allocate
  repeat' first
    | with_reducible assumption
    | (extract_lets +onlyGivenNames v; first | (have w : Mem := v; clear w) | (have w : DictState := v; clear w) | (have w : Fw := v; clear w) | clear_value v)
    | with_reducible apply State_findWay_keeps
    | with_reducible apply State_setLine_keeps
    | with_reducible refine pair_keeps (by with_reducible assumption) ?_
    | split

theorem State_tlbFill_keeps {s₀ : State} (a0 : State) (a1 : Nat) (a2 : Nat) (h0 : Keeps s₀ a0) :
    Keeps s₀ (State.tlbFill a0 a1 a2) := by
  unfold State.tlbFill
  repeat' first
    | with_reducible assumption
    | (extract_lets +onlyGivenNames v; first | (have w : Mem := v; clear w) | (have w : DictState := v; clear w) | (have w : Fw := v; clear w) | clear_value v)
    | (simp -zeta only [keeps_mk]; with_reducible refine Keeps.at ?_)
    | split

theorem State_walkFill_keeps {s₀ : State} (a0 : State) (a1 : Nat) (a2 : Nat) (h0 : Keeps s₀ a0) :
    Keeps s₀ (State.walkFill a0 a1 a2) := by
  unfold State.walkFill
  repeat' first
    | with_reducible assumption
    | (with_reducible intro x; try beta_reduce)
    | (extract_lets +onlyGivenNames v; refine (fun (hv : Keeps s₀ v) => ?_) ?_; (on_goal 1 => clear_value v); (on_goal 2 => (dsimp -zeta only [v]; try clear v)))
    | (extract_lets +onlyGivenNames v; refine (fun (hv : Keeps s₀ v.1) => ?_) ?_; (on_goal 1 => clear_value v); (on_goal 2 => (dsimp -zeta only [v]; try clear v)))
    | (extract_lets +onlyGivenNames v; first | (have w : Mem := v; clear w) | (have w : DictState := v; clear w) | (have w : Fw := v; clear w) | clear_value v)
    | (with_reducible refine foldl_keeps _ _ ?_ ?_; on_goal 2 => (intro t x ht; try beta_reduce))
    | (with_reducible refine foldl_keeps₂ _ _ _ ?_ ?_; on_goal 2 => (intro t b x ht; try dsimp -zeta only))
    | (simp -zeta only [keeps_mk]; with_reducible refine Keeps.at ?_)
    | with_reducible refine pair_keeps (by with_reducible assumption) ?_
    | split
    | (dsimp -zeta only)

theorem State_translate_keeps {s₀ : State} (a0 : State) (a1 : Nat) (a2 : Nat) (h0 : Keeps s₀ a0) :
    Keeps s₀ (State.translate a0 a1 a2) := by
  unfold State.translate
  repeat' first
    | with_reducible assumption
    | (with_reducible intro x; try beta_reduce)
    | (extract_lets +onlyGivenNames v; refine (fun (hv : Keeps s₀ v) => ?_) ?_; (on_goal 1 => clear_value v); (on_goal 2 => (dsimp -zeta only [v]; try clear v)))
    | (extract_lets +onlyGivenNames v; refine (fun (hv : Keeps s₀ v.1) => ?_) ?_; (on_goal 1 => clear_value v); (on_goal 2 => (dsimp -zeta only [v]; try clear v)))
    | (extract_lets +onlyGivenNames v; first | (have w : Mem := v; clear w) | (have w : DictState := v; clear w) | (have w : Fw := v; clear w) | clear_value v)
    | with_reducible apply State_tlbFill_keeps
    | with_reducible apply State_bump_keeps
    | with_reducible apply State_walkFill_keeps
    | (with_reducible refine foldl_keeps _ _ ?_ ?_; on_goal 2 => (intro t x ht; try beta_reduce))
    | (with_reducible refine foldl_keeps₂ _ _ _ ?_ ?_; on_goal 2 => (intro t b x ht; try dsimp -zeta only))
    | (simp -zeta only [keeps_mk]; with_reducible refine Keeps.at ?_)
    | with_reducible refine pair_keeps (by with_reducible assumption) ?_
    | split
    | (dsimp -zeta only)

theorem State_deadRead_keeps {s₀ : State} (a0 : State) (a1 : Nat) (a2 : Nat) (h0 : Keeps s₀ a0) :
    Keeps s₀ (State.deadRead a0 a1 a2) := by
  unfold State.deadRead
  repeat' first
    | with_reducible assumption
    | (extract_lets +onlyGivenNames v; refine (fun (hv : Keeps s₀ v) => ?_) ?_; (on_goal 1 => clear_value v); (on_goal 2 => (dsimp -zeta only [v]; try clear v)))
    | with_reducible apply State_bump_keeps
    | with_reducible apply State_log_keeps
    | with_reducible apply State_limitMark_keeps
    | split

theorem State_deadMarkers_keeps {s₀ : State} (a0 : State) (a1 : Nat) (h0 : Keeps s₀ a0) :
    Keeps s₀ (State.deadMarkers a0 a1) := by
  unfold State.deadMarkers
  repeat' first
    | with_reducible assumption
    | (with_reducible intro x; try beta_reduce)
    | (extract_lets +onlyGivenNames v; refine (fun (hv : Keeps s₀ v) => ?_) ?_; (on_goal 1 => clear_value v); (on_goal 2 => (dsimp -zeta only [v]; try clear v)))
    | (extract_lets +onlyGivenNames v; refine (fun (hv : Keeps s₀ v.1) => ?_) ?_; (on_goal 1 => clear_value v); (on_goal 2 => (dsimp -zeta only [v]; try clear v)))
    | (extract_lets +onlyGivenNames v; first | (have w : Mem := v; clear w) | (have w : DictState := v; clear w) | (have w : Fw := v; clear w) | clear_value v)
    | with_reducible apply State_writeMem_keeps
    | (with_reducible refine foldl_keeps _ _ ?_ ?_; on_goal 2 => (intro t x ht; try beta_reduce))
    | (with_reducible refine foldl_keeps₂ _ _ _ ?_ ?_; on_goal 2 => (intro t b x ht; try dsimp -zeta only))
    | (simp -zeta only [keeps_mk]; with_reducible refine Keeps.at ?_)
    | with_reducible refine pair_keeps (by with_reducible assumption) ?_
    | split
    | (dsimp -zeta only)

theorem State_undead_keeps {s₀ : State} (a0 : State) (a1 : Nat) (h0 : Keeps s₀ a0) :
    Keeps s₀ (State.undead a0 a1) := by
  unfold State.undead
  repeat' first
    | with_reducible assumption
    | (extract_lets +onlyGivenNames v; first | (have w : Mem := v; clear w) | (have w : DictState := v; clear w) | (have w : Fw := v; clear w) | clear_value v)
    | (simp -zeta only [keeps_mk]; with_reducible refine Keeps.at ?_)

theorem State_makeDead_keeps {s₀ : State} (a0 : State) (a1 : Nat) (h0 : Keeps s₀ a0) :
    Keeps s₀ (State.makeDead a0 a1) := by
  unfold State.makeDead
  repeat' first
    | with_reducible assumption
    | (extract_lets +onlyGivenNames v; refine (fun (hv : Keeps s₀ v) => ?_) ?_; (on_goal 1 => clear_value v); (on_goal 2 => (dsimp -zeta only [v]; try clear v)))
    | (extract_lets +onlyGivenNames v; first | (have w : Mem := v; clear w) | (have w : DictState := v; clear w) | (have w : Fw := v; clear w) | clear_value v)
    | with_reducible apply State_undead_keeps
    | with_reducible apply State_deadMarkers_keeps
    | (simp -zeta only [keeps_mk]; with_reducible refine Keeps.at ?_)
    | split

theorem State_delivered_keeps {s₀ : State} (a0 : State) (a1 : Nat) (a2 : Nat) (a3 : SectorVal) (h0 : Keeps s₀ a0) :
    Keeps s₀ (State.delivered a0 a1 a2 a3).1 := by
  unfold State.delivered
  repeat' first
    | with_reducible assumption
    | with_reducible apply State_drawn_keeps
    | with_reducible apply State_deadRead_keeps
    | split

theorem State_sectorServed_keeps {s₀ : State} (a0 : State) (a1 : Nat) (a2 : Nat) (a3 : Nat) (a4 : SectorVal) (h0 : Keeps s₀ a0) :
    Keeps s₀ (State.sectorServed a0 a1 a2 a3 a4).1 := by
  unfold State.sectorServed
  repeat' first
    | with_reducible assumption
    | (with_reducible intro x; try beta_reduce)
    | (extract_lets +onlyGivenNames v; refine (fun (hv : Keeps s₀ v) => ?_) ?_; (on_goal 1 => clear_value v); (on_goal 2 => (dsimp -zeta only [v]; try clear v)))
    | (extract_lets +onlyGivenNames v; refine (fun (hv : Keeps s₀ v.1) => ?_) ?_; (on_goal 1 => clear_value v); (on_goal 2 => (dsimp -zeta only [v]; try clear v)))
    | (extract_lets +onlyGivenNames v; first | (have w : Mem := v; clear w) | (have w : DictState := v; clear w) | (have w : Fw := v; clear w) | clear_value v)
    | with_reducible apply State_delivered_keeps
    | with_reducible apply State_touch_keeps
    | with_reducible apply State_bump_keeps
    | with_reducible apply State_charge_keeps
    | (with_reducible refine foldl_keeps _ _ ?_ ?_; on_goal 2 => (intro t x ht; try beta_reduce))
    | (with_reducible refine foldl_keeps₂ _ _ _ ?_ ?_; on_goal 2 => (intro t b x ht; try dsimp -zeta only))
    | (simp -zeta only [keeps_mk]; with_reducible refine Keeps.at ?_)
    | with_reducible refine pair_keeps (by with_reducible assumption) ?_
    | split
    | (dsimp -zeta only)

theorem State_fetchRead_keeps {s₀ : State} (a0 : State) (a1 : Nat) (a2 : Nat) (a3 : Nat) (h0 : Keeps s₀ a0) :
    Keeps s₀ (State.fetchRead a0 a1 a2 a3).1 := by
  unfold State.fetchRead
  repeat' first
    | with_reducible assumption
    | (with_reducible intro x; try beta_reduce)
    | (extract_lets +onlyGivenNames v; refine (fun (hv : Keeps s₀ v) => ?_) ?_; (on_goal 1 => clear_value v); (on_goal 2 => (dsimp -zeta only [v]; try clear v)))
    | (extract_lets +onlyGivenNames v; refine (fun (hv : Keeps s₀ v.1) => ?_) ?_; (on_goal 1 => clear_value v); (on_goal 2 => (dsimp -zeta only [v]; try clear v)))
    | (extract_lets +onlyGivenNames v; first | (have w : Mem := v; clear w) | (have w : DictState := v; clear w) | (have w : Fw := v; clear w) | clear_value v)
    | with_reducible apply State_translate_keeps
    | with_reducible apply State_fetch_keeps
    | with_reducible apply State_sectorServed_keeps
    | with_reducible apply State_setLine_keeps
    | (with_reducible refine foldl_keeps _ _ ?_ ?_; on_goal 2 => (intro t x ht; try beta_reduce))
    | (with_reducible refine foldl_keeps₂ _ _ _ ?_ ?_; on_goal 2 => (intro t b x ht; try dsimp -zeta only))
    | (simp -zeta only [keeps_mk]; with_reducible refine Keeps.at ?_)
    | with_reducible refine pair_keeps (by with_reducible assumption) ?_
    | split
    | (dsimp -zeta only)

theorem State_bankRead_keeps {s₀ : State} (a0 : State) (a1 : Nat) (a2 : Nat) (a3 : Nat) (h0 : Keeps s₀ a0) :
    Keeps s₀ (State.bankRead a0 a1 a2 a3).1 := by
  unfold State.bankRead
  repeat' first
    | with_reducible assumption
    | (with_reducible intro x; try beta_reduce)
    | (extract_lets +onlyGivenNames v; refine (fun (hv : Keeps s₀ v) => ?_) ?_; (on_goal 1 => clear_value v); (on_goal 2 => (dsimp -zeta only [v]; try clear v)))
    | (extract_lets +onlyGivenNames v; refine (fun (hv : Keeps s₀ v.1) => ?_) ?_; (on_goal 1 => clear_value v); (on_goal 2 => (dsimp -zeta only [v]; try clear v)))
    | (extract_lets +onlyGivenNames v; first | (have w : Mem := v; clear w) | (have w : DictState := v; clear w) | (have w : Fw := v; clear w) | clear_value v)
    | with_reducible apply State_sectorServed_keeps
    | with_reducible apply State_fetchRead_keeps
    | with_reducible apply State_allocate_keeps
    | (with_reducible refine foldl_keeps _ _ ?_ ?_; on_goal 2 => (intro t x ht; try beta_reduce))
    | (with_reducible refine foldl_keeps₂ _ _ _ ?_ ?_; on_goal 2 => (intro t b x ht; try dsimp -zeta only))
    | (simp -zeta only [keeps_mk]; with_reducible refine Keeps.at ?_)
    | with_reducible refine pair_keeps (by with_reducible assumption) ?_
    | split
    | (dsimp -zeta only)

theorem State_lineForStore_keeps {s₀ : State} (a0 : State) (a1 : Nat) (a2 : Nat) (h0 : Keeps s₀ a0) :
    Keeps s₀ (State.lineForStore a0 a1 a2).1 := by
  unfold State.lineForStore
  repeat' first
    | with_reducible assumption
    | (extract_lets +onlyGivenNames v; refine (fun (hv : Keeps s₀ v) => ?_) ?_; (on_goal 1 => clear_value v); (on_goal 2 => (dsimp -zeta only [v]; try clear v)))
    | (extract_lets +onlyGivenNames v; first | (have w : Mem := v; clear w) | (have w : DictState := v; clear w) | (have w : Fw := v; clear w) | clear_value v)
    | with_reducible apply State_translate_keeps
    | with_reducible apply State_allocate_keeps
    | with_reducible apply State_undead_keeps
    | with_reducible refine pair_keeps (by with_reducible assumption) ?_
    | split

theorem State_stored_keeps {s₀ : State} (a0 : State) (a1 : Nat) (h0 : Keeps s₀ a0) :
    Keeps s₀ (State.stored a0 a1) := by
  unfold State.stored
  repeat' first
    | with_reducible assumption
    | (with_reducible intro x; try beta_reduce)
    | (extract_lets +onlyGivenNames v; refine (fun (hv : Keeps s₀ v) => ?_) ?_; (on_goal 1 => clear_value v); (on_goal 2 => (dsimp -zeta only [v]; try clear v)))
    | (extract_lets +onlyGivenNames v; refine (fun (hv : Keeps s₀ v.1) => ?_) ?_; (on_goal 1 => clear_value v); (on_goal 2 => (dsimp -zeta only [v]; try clear v)))
    | (extract_lets +onlyGivenNames v; first | (have w : Mem := v; clear w) | (have w : DictState := v; clear w) | (have w : Fw := v; clear w) | clear_value v)
    | (with_reducible refine foldl_keeps _ _ ?_ ?_; on_goal 2 => (intro t x ht; try beta_reduce))
    | (with_reducible refine foldl_keeps₂ _ _ _ ?_ ?_; on_goal 2 => (intro t b x ht; try dsimp -zeta only))
    | (simp -zeta only [keeps_mk]; with_reducible refine Keeps.at ?_)
    | with_reducible refine pair_keeps (by with_reducible assumption) ?_
    | split
    | (dsimp -zeta only)

theorem State_bankStore_keeps {s₀ : State} (a0 : State) (a1 : Nat) (a2 : Nat) (a3 : Bytes) (a4 : Option PoisonClass) (a5 : Nat) (h0 : Keeps s₀ a0) :
    Keeps s₀ (State.bankStore a0 a1 a2 a3 a4 a5).1 := by
  unfold State.bankStore
  repeat' first
    | with_reducible assumption
    | (with_reducible intro x; try beta_reduce)
    | (extract_lets +onlyGivenNames v; refine (fun (hv : Keeps s₀ v) => ?_) ?_; (on_goal 1 => clear_value v); (on_goal 2 => (dsimp -zeta only [v]; try clear v)))
    | (extract_lets +onlyGivenNames v; refine (fun (hv : Keeps s₀ v.1) => ?_) ?_; (on_goal 1 => clear_value v); (on_goal 2 => (dsimp -zeta only [v]; try clear v)))
    | (extract_lets +onlyGivenNames v; first | (have w : Mem := v; clear w) | (have w : DictState := v; clear w) | (have w : Fw := v; clear w) | clear_value v)
    | with_reducible apply State_lineForStore_keeps
    | with_reducible apply State_fetch_keeps
    | with_reducible apply State_charge_keeps
    | with_reducible apply State_touch_keeps
    | with_reducible apply State_stored_keeps
    | with_reducible apply State_setLine_keeps
    | (with_reducible refine foldl_keeps _ _ ?_ ?_; on_goal 2 => (intro t x ht; try beta_reduce))
    | (with_reducible refine foldl_keeps₂ _ _ _ ?_ ?_; on_goal 2 => (intro t b x ht; try dsimp -zeta only))
    | (simp -zeta only [keeps_mk]; with_reducible refine Keeps.at ?_)
    | with_reducible refine pair_keeps (by with_reducible assumption) ?_
    | split
    | (dsimp -zeta only)

theorem State_bankDrop_keeps {s₀ : State} (a0 : State) (a1 : Nat) (h0 : Keeps s₀ a0) :
    Keeps s₀ (State.bankDrop a0 a1).1 := by
  unfold State.bankDrop
  repeat' first
    | with_reducible assumption
    | (with_reducible intro x; try beta_reduce)
    | (extract_lets +onlyGivenNames v; refine (fun (hv : Keeps s₀ v) => ?_) ?_; (on_goal 1 => clear_value v); (on_goal 2 => (dsimp -zeta only [v]; try clear v)))
    | (extract_lets +onlyGivenNames v; refine (fun (hv : Keeps s₀ v.1) => ?_) ?_; (on_goal 1 => clear_value v); (on_goal 2 => (dsimp -zeta only [v]; try clear v)))
    | (extract_lets +onlyGivenNames v; first | (have w : Mem := v; clear w) | (have w : DictState := v; clear w) | (have w : Fw := v; clear w) | clear_value v)
    | with_reducible apply State_bump_keeps
    | with_reducible apply State_makeDead_keeps
    | with_reducible apply State_delLine_keeps
    | (with_reducible refine foldl_keeps _ _ ?_ ?_; on_goal 2 => (intro t x ht; try beta_reduce))
    | (with_reducible refine foldl_keeps₂ _ _ _ ?_ ?_; on_goal 2 => (intro t b x ht; try dsimp -zeta only))
    | (simp -zeta only [keeps_mk]; with_reducible refine Keeps.at ?_)
    | with_reducible refine pair_keeps (by with_reducible assumption) ?_
    | split
    | (dsimp -zeta only)

theorem State_mismatch_keeps {s₀ : State} (a0 : State) (a1 : Nat) (a2 : Nat) (a3 : Nat) (a4 : Nat) (a5 : Nat) (a6 : Bool) (h0 : Keeps s₀ a0) :
    Keeps s₀ (State.mismatch a0 a1 a2 a3 a4 a5 a6) := by
  unfold State.mismatch
  repeat' first
    | with_reducible assumption
    | (extract_lets +onlyGivenNames v; refine (fun (hv : Keeps s₀ v) => ?_) ?_; (on_goal 1 => clear_value v); (on_goal 2 => (dsimp -zeta only [v]; try clear v)))
    | with_reducible apply State_log_keeps
    | with_reducible apply State_bump_keeps
    | split

theorem State_combine_keeps {s₀ : State} (a0 : State) (a1 : Nat) (a2 : FLine) (a3 : Reduce) (h0 : Keeps s₀ a0) :
    Keeps s₀ (State.combine a0 a1 a2 a3) := by
  unfold State.combine
  repeat' first
    | with_reducible assumption
    | (extract_lets +onlyGivenNames v; first | (have w : Mem := v; clear w) | (have w : DictState := v; clear w) | (have w : Fw := v; clear w) | clear_value v)
    | with_reducible apply State_bump_keeps
    | with_reducible apply State_setLine_keeps

theorem State_fillLine_keeps {s₀ : State} (a0 : State) (a1 : Nat) (a2 : Nat) (h0 : Keeps s₀ a0) :
    Keeps s₀ (State.fillLine a0 a1 a2).1 := by
  unfold State.fillLine
  repeat' first
    | with_reducible assumption
    | (with_reducible intro x; try beta_reduce)
    | (extract_lets +onlyGivenNames v; refine (fun (hv : Keeps s₀ v) => ?_) ?_; (on_goal 1 => clear_value v); (on_goal 2 => (dsimp -zeta only [v]; try clear v)))
    | (extract_lets +onlyGivenNames v; refine (fun (hv : Keeps s₀ v.1) => ?_) ?_; (on_goal 1 => clear_value v); (on_goal 2 => (dsimp -zeta only [v]; try clear v)))
    | (extract_lets +onlyGivenNames v; first | (have w : Mem := v; clear w) | (have w : DictState := v; clear w) | (have w : Fw := v; clear w) | clear_value v)
    | with_reducible apply State_fetch_keeps
    | with_reducible apply State_setLine_keeps
    | (with_reducible refine foldl_keeps _ _ ?_ ?_; on_goal 2 => (intro t x ht; try beta_reduce))
    | (with_reducible refine foldl_keeps₂ _ _ _ ?_ ?_; on_goal 2 => (intro t b x ht; try dsimp -zeta only))
    | (simp -zeta only [keeps_mk]; with_reducible refine Keeps.at ?_)
    | with_reducible refine pair_keeps (by with_reducible assumption) ?_
    | split
    | (dsimp -zeta only)

theorem State_charge4_keeps {s₀ : State} (a0 : State) (a1 : Nat) (h0 : Keeps s₀ a0) :
    Keeps s₀ (State.charge4 a0 a1) := by
  unfold State.charge4
  repeat' first
    | with_reducible assumption
    | with_reducible apply State_charge_keeps
    | (with_reducible refine foldl_keeps _ _ ?_ ?_; on_goal 2 => (intro t x ht; try beta_reduce))

theorem State_writeRecord_keeps {s₀ : State} (a0 : State) (a1 : Nat) (a2 : Nat) (a3 : List (Nat × SectorVal)) (h0 : Keeps s₀ a0) :
    Keeps s₀ (State.writeRecord a0 a1 a2 a3) := by
  unfold State.writeRecord
  repeat' first
    | with_reducible assumption
    | (with_reducible intro x; try beta_reduce)
    | (extract_lets +onlyGivenNames v; refine (fun (hv : Keeps s₀ v) => ?_) ?_; (on_goal 1 => clear_value v); (on_goal 2 => (dsimp -zeta only [v]; try clear v)))
    | (extract_lets +onlyGivenNames v; refine (fun (hv : Keeps s₀ v.1) => ?_) ?_; (on_goal 1 => clear_value v); (on_goal 2 => (dsimp -zeta only [v]; try clear v)))
    | (extract_lets +onlyGivenNames v; first | (have w : Mem := v; clear w) | (have w : DictState := v; clear w) | (have w : Fw := v; clear w) | clear_value v)
    | with_reducible apply State_charge_keeps
    | with_reducible apply State_tierWrite_keeps
    | (with_reducible refine foldl_keeps _ _ ?_ ?_; on_goal 2 => (intro t x ht; try beta_reduce))
    | (with_reducible refine foldl_keeps₂ _ _ _ ?_ ?_; on_goal 2 => (intro t b x ht; try dsimp -zeta only))
    | (simp -zeta only [keeps_mk]; with_reducible refine Keeps.at ?_)
    | with_reducible refine pair_keeps (by with_reducible assumption) ?_
    | split
    | (dsimp -zeta only)

theorem State_chargeRecord_keeps {s₀ : State} (a0 : State) (a1 : Nat) (a2 : Nat) (a3 : Nat) (h0 : Keeps s₀ a0) :
    Keeps s₀ (State.chargeRecord a0 a1 a2 a3) := by
  unfold State.chargeRecord
  repeat' first
    | with_reducible assumption
    | (with_reducible intro x; try beta_reduce)
    | (extract_lets +onlyGivenNames v; refine (fun (hv : Keeps s₀ v) => ?_) ?_; (on_goal 1 => clear_value v); (on_goal 2 => (dsimp -zeta only [v]; try clear v)))
    | (extract_lets +onlyGivenNames v; refine (fun (hv : Keeps s₀ v.1) => ?_) ?_; (on_goal 1 => clear_value v); (on_goal 2 => (dsimp -zeta only [v]; try clear v)))
    | (extract_lets +onlyGivenNames v; first | (have w : Mem := v; clear w) | (have w : DictState := v; clear w) | (have w : Fw := v; clear w) | clear_value v)
    | with_reducible apply State_charge_keeps
    | (with_reducible refine foldl_keeps _ _ ?_ ?_; on_goal 2 => (intro t x ht; try beta_reduce))
    | (with_reducible refine foldl_keeps₂ _ _ _ ?_ ?_; on_goal 2 => (intro t b x ht; try dsimp -zeta only))
    | (simp -zeta only [keeps_mk]; with_reducible refine Keeps.at ?_)
    | with_reducible refine pair_keeps (by with_reducible assumption) ?_
    | split
    | (dsimp -zeta only)

theorem State_chargeRecall_keeps {s₀ : State} (a0 : State) (a1 : Nat) (a2 : Spill) (h0 : Keeps s₀ a0) :
    Keeps s₀ (State.chargeRecall a0 a1 a2) := by
  unfold State.chargeRecall
  repeat' first
    | with_reducible assumption
    | (with_reducible intro x; try beta_reduce)
    | (extract_lets +onlyGivenNames v; refine (fun (hv : Keeps s₀ v) => ?_) ?_; (on_goal 1 => clear_value v); (on_goal 2 => (dsimp -zeta only [v]; try clear v)))
    | (extract_lets +onlyGivenNames v; refine (fun (hv : Keeps s₀ v.1) => ?_) ?_; (on_goal 1 => clear_value v); (on_goal 2 => (dsimp -zeta only [v]; try clear v)))
    | (extract_lets +onlyGivenNames v; first | (have w : Mem := v; clear w) | (have w : DictState := v; clear w) | (have w : Fw := v; clear w) | clear_value v)
    | with_reducible apply State_chargeRecord_keeps
    | (with_reducible refine foldl_keeps _ _ ?_ ?_; on_goal 2 => (intro t x ht; try beta_reduce))
    | (with_reducible refine foldl_keeps₂ _ _ _ ?_ ?_; on_goal 2 => (intro t b x ht; try dsimp -zeta only))
    | (simp -zeta only [keeps_mk]; with_reducible refine Keeps.at ?_)
    | with_reducible refine pair_keeps (by with_reducible assumption) ?_
    | split
    | (dsimp -zeta only)

theorem State_noteSpilled_keeps {s₀ : State} (a0 : State) (a1 : Nat) (a2 : Spill) (a3 : List (Nat × SectorVal)) (h0 : Keeps s₀ a0) :
    Keeps s₀ (State.noteSpilled a0 a1 a2 a3) := by
  unfold State.noteSpilled
  repeat' first
    | with_reducible assumption
    | (with_reducible intro x; try beta_reduce)
    | (extract_lets +onlyGivenNames v; refine (fun (hv : Keeps s₀ v) => ?_) ?_; (on_goal 1 => clear_value v); (on_goal 2 => (dsimp -zeta only [v]; try clear v)))
    | (extract_lets +onlyGivenNames v; refine (fun (hv : Keeps s₀ v.1) => ?_) ?_; (on_goal 1 => clear_value v); (on_goal 2 => (dsimp -zeta only [v]; try clear v)))
    | (extract_lets +onlyGivenNames v; first | (have w : Mem := v; clear w) | (have w : DictState := v; clear w) | (have w : Fw := v; clear w) | clear_value v)
    | with_reducible apply State_writeRecord_keeps
    | (with_reducible refine foldl_keeps _ _ ?_ ?_; on_goal 2 => (intro t x ht; try beta_reduce))
    | (with_reducible refine foldl_keeps₂ _ _ _ ?_ ?_; on_goal 2 => (intro t b x ht; try dsimp -zeta only))
    | (simp -zeta only [keeps_mk]; with_reducible refine Keeps.at ?_)
    | with_reducible refine pair_keeps (by with_reducible assumption) ?_
    | split
    | (dsimp -zeta only)

theorem State_contribOrdered_keeps {s₀ : State} (a0 : State) (a1 : Nat) (a2 : Nat) (a3 : Nat) (a4 : Nat) (a5 : List SectorVal) (a6 : Nat) (a7 : Nat) (h0 : Keeps s₀ a0) :
    Keeps s₀ (State.contribOrdered a0 a1 a2 a3 a4 a5 a6 a7).1 := by
  unfold State.contribOrdered
  repeat' first
    | with_reducible assumption
    | (with_reducible intro x; try beta_reduce)
    | (extract_lets +onlyGivenNames v; refine (fun (hv : Keeps s₀ v) => ?_) ?_; (on_goal 1 => clear_value v); (on_goal 2 => (dsimp -zeta only [v]; try clear v)))
    | (extract_lets +onlyGivenNames v; refine (fun (hv : Keeps s₀ v.1) => ?_) ?_; (on_goal 1 => clear_value v); (on_goal 2 => (dsimp -zeta only [v]; try clear v)))
    | (extract_lets +onlyGivenNames v; first | (have w : Mem := v; clear w) | (have w : DictState := v; clear w) | (have w : Fw := v; clear w) | clear_value v)
    | with_reducible apply State_noteSpilled_keeps
    | with_reducible apply State_charge4_keeps
    | with_reducible apply State_mismatch_keeps
    | with_reducible apply State_combine_keeps
    | with_reducible apply State_setLine_keeps
    | with_reducible apply State_deferOldest_keeps
    | with_reducible apply State_lineForStore_keeps
    | with_reducible apply State_fillLine_keeps
    | with_reducible apply State_touch_keeps
    | (with_reducible refine foldl_keeps _ _ ?_ ?_; on_goal 2 => (intro t x ht; try beta_reduce))
    | (with_reducible refine foldl_keeps₂ _ _ _ ?_ ?_; on_goal 2 => (intro t b x ht; try dsimp -zeta only))
    | (simp -zeta only [keeps_mk]; with_reducible refine Keeps.at ?_)
    | with_reducible refine pair_keeps (by with_reducible assumption) ?_
    | split
    | (dsimp -zeta only)

theorem State_contribArrival_keeps {s₀ : State} (a0 : State) (a1 : Nat) (a2 : Nat) (a3 : List SectorVal) (a4 : Nat) (h0 : Keeps s₀ a0) :
    Keeps s₀ (State.contribArrival a0 a1 a2 a3 a4).1 := by
  unfold State.contribArrival
  repeat' first
    | with_reducible assumption
    | (with_reducible intro x; try beta_reduce)
    | (extract_lets +onlyGivenNames v; refine (fun (hv : Keeps s₀ v) => ?_) ?_; (on_goal 1 => clear_value v); (on_goal 2 => (dsimp -zeta only [v]; try clear v)))
    | (extract_lets +onlyGivenNames v; refine (fun (hv : Keeps s₀ v.1) => ?_) ?_; (on_goal 1 => clear_value v); (on_goal 2 => (dsimp -zeta only [v]; try clear v)))
    | (extract_lets +onlyGivenNames v; first | (have w : Mem := v; clear w) | (have w : DictState := v; clear w) | (have w : Fw := v; clear w) | clear_value v)
    | with_reducible apply State_lineForStore_keeps
    | with_reducible apply State_fillLine_keeps
    | with_reducible apply State_charge4_keeps
    | with_reducible apply State_touch_keeps
    | with_reducible apply State_setLine_keeps
    | with_reducible apply State_stored_keeps
    | with_reducible apply State_bump_keeps
    | (with_reducible refine foldl_keeps _ _ ?_ ?_; on_goal 2 => (intro t x ht; try beta_reduce))
    | (with_reducible refine foldl_keeps₂ _ _ _ ?_ ?_; on_goal 2 => (intro t b x ht; try dsimp -zeta only))
    | (simp -zeta only [keeps_mk]; with_reducible refine Keeps.at ?_)
    | with_reducible refine pair_keeps (by with_reducible assumption) ?_
    | split
    | (dsimp -zeta only)

theorem State_contribute_keeps {s₀ : State} (a0 : State) (a1 : Nat) (a2 : Nat) (a3 : Nat) (a4 : Nat) (a5 : List SectorVal) (a6 : Nat) (a7 : Nat) (h0 : Keeps s₀ a0) :
    Keeps s₀ (State.contribute a0 a1 a2 a3 a4 a5 a6 a7).1 := by
  unfold State.contribute
  repeat' first
    | with_reducible assumption
    | with_reducible apply State_contribOrdered_keeps
    | with_reducible apply State_contribArrival_keeps
    | split

theorem State_logIncomplete_keeps {s₀ : State} (a0 : State) (a1 : Nat) (a2 : Reduce) (h0 : Keeps s₀ a0) :
    Keeps s₀ (State.logIncomplete a0 a1 a2) := by
  unfold State.logIncomplete
  repeat' first
    | with_reducible assumption
    | (extract_lets +onlyGivenNames v; refine (fun (hv : Keeps s₀ v) => ?_) ?_; (on_goal 1 => clear_value v); (on_goal 2 => (dsimp -zeta only [v]; try clear v)))
    | with_reducible apply State_log_keeps
    | with_reducible apply State_bump_keeps
    | split

theorem State_installSpill_keeps {s₀ : State} (a0 : State) (a1 : Nat) (a2 : List SectorVal) (h0 : Keeps s₀ a0) :
    Keeps s₀ (State.installSpill a0 a1 a2).1 := by
  unfold State.installSpill
  repeat' first
    | with_reducible assumption
    | (with_reducible intro x; try beta_reduce)
    | (extract_lets +onlyGivenNames v; refine (fun (hv : Keeps s₀ v) => ?_) ?_; (on_goal 1 => clear_value v); (on_goal 2 => (dsimp -zeta only [v]; try clear v)))
    | (extract_lets +onlyGivenNames v; refine (fun (hv : Keeps s₀ v.1) => ?_) ?_; (on_goal 1 => clear_value v); (on_goal 2 => (dsimp -zeta only [v]; try clear v)))
    | (extract_lets +onlyGivenNames v; first | (have w : Mem := v; clear w) | (have w : DictState := v; clear w) | (have w : Fw := v; clear w) | clear_value v)
    | with_reducible apply State_allocate_keeps
    | with_reducible apply State_touch_keeps
    | with_reducible apply State_setLine_keeps
    | (with_reducible refine foldl_keeps _ _ ?_ ?_; on_goal 2 => (intro t x ht; try beta_reduce))
    | (with_reducible refine foldl_keeps₂ _ _ _ ?_ ?_; on_goal 2 => (intro t b x ht; try dsimp -zeta only))
    | (simp -zeta only [keeps_mk]; with_reducible refine Keeps.at ?_)
    | with_reducible refine pair_keeps (by with_reducible assumption) ?_
    | split
    | (dsimp -zeta only)

theorem State_closeBusy_keeps {s₀ : State} (a0 : State) (a1 : Nat) (a2 : FLine) (a3 : Reduce) (h0 : Keeps s₀ a0) :
    Keeps s₀ (State.closeBusy a0 a1 a2 a3) := by
  unfold State.closeBusy
  repeat' first
    | with_reducible assumption
    | (extract_lets +onlyGivenNames v; first | (have w : Mem := v; clear w) | (have w : DictState := v; clear w) | (have w : Fw := v; clear w) | clear_value v)
    | with_reducible apply State_logIncomplete_keeps
    | with_reducible apply State_bump_keeps
    | with_reducible apply State_setLine_keeps

theorem State_closeLeaving_keeps {s₀ : State} (a0 : State) (a1 : Nat) (a2 : FLine) (a3 : Reduce) (h0 : Keeps s₀ a0) :
    Keeps s₀ (State.closeLeaving a0 a1 a2 a3) := by
  unfold State.closeLeaving
  repeat' first
    | with_reducible assumption
    | (with_reducible intro x; try beta_reduce)
    | (extract_lets +onlyGivenNames v; refine (fun (hv : Keeps s₀ v) => ?_) ?_; (on_goal 1 => clear_value v); (on_goal 2 => (dsimp -zeta only [v]; try clear v)))
    | (extract_lets +onlyGivenNames v; refine (fun (hv : Keeps s₀ v.1) => ?_) ?_; (on_goal 1 => clear_value v); (on_goal 2 => (dsimp -zeta only [v]; try clear v)))
    | (extract_lets +onlyGivenNames v; first | (have w : Mem := v; clear w) | (have w : DictState := v; clear w) | (have w : Fw := v; clear w) | clear_value v)
    | with_reducible apply State_logIncomplete_keeps
    | with_reducible apply State_bump_keeps
    | (with_reducible refine foldl_keeps _ _ ?_ ?_; on_goal 2 => (intro t x ht; try beta_reduce))
    | (with_reducible refine foldl_keeps₂ _ _ _ ?_ ?_; on_goal 2 => (intro t b x ht; try dsimp -zeta only))
    | (simp -zeta only [keeps_mk]; with_reducible refine Keeps.at ?_)
    | with_reducible refine pair_keeps (by with_reducible assumption) ?_
    | split
    | (dsimp -zeta only)

theorem State_closeSpilled_keeps {s₀ : State} (a0 : State) (a1 : Nat) (a2 : Spill) (h0 : Keeps s₀ a0) :
    Keeps s₀ (State.closeSpilled a0 a1 a2) := by
  unfold State.closeSpilled
  repeat' first
    | with_reducible assumption
    | (with_reducible intro x; try beta_reduce)
    | (extract_lets +onlyGivenNames v; refine (fun (hv : Keeps s₀ v) => ?_) ?_; (on_goal 1 => clear_value v); (on_goal 2 => (dsimp -zeta only [v]; try clear v)))
    | (extract_lets +onlyGivenNames v; refine (fun (hv : Keeps s₀ v.1) => ?_) ?_; (on_goal 1 => clear_value v); (on_goal 2 => (dsimp -zeta only [v]; try clear v)))
    | (extract_lets +onlyGivenNames v; first | (have w : Mem := v; clear w) | (have w : DictState := v; clear w) | (have w : Fw := v; clear w) | clear_value v)
    | with_reducible apply State_chargeRecall_keeps
    | with_reducible apply State_installSpill_keeps
    | with_reducible apply State_writeMem_keeps
    | with_reducible apply State_bump_keeps
    | with_reducible apply State_logIncomplete_keeps
    | (with_reducible refine foldl_keeps _ _ ?_ ?_; on_goal 2 => (intro t x ht; try beta_reduce))
    | (with_reducible refine foldl_keeps₂ _ _ _ ?_ ?_; on_goal 2 => (intro t b x ht; try dsimp -zeta only))
    | (simp -zeta only [keeps_mk]; with_reducible refine Keeps.at ?_)
    | with_reducible refine pair_keeps (by with_reducible assumption) ?_
    | split
    | (dsimp -zeta only)

theorem State_closeWhere_keeps {s₀ : State} (a0 : State) (a1 : Nat → Bool) (h0 : Keeps s₀ a0) :
    Keeps s₀ (State.closeWhere a0 a1) := by
  unfold State.closeWhere
  repeat' first
    | with_reducible assumption
    | (with_reducible intro x; try beta_reduce)
    | (extract_lets +onlyGivenNames v; refine (fun (hv : Keeps s₀ v) => ?_) ?_; (on_goal 1 => clear_value v); (on_goal 2 => (dsimp -zeta only [v]; try clear v)))
    | (extract_lets +onlyGivenNames v; refine (fun (hv : Keeps s₀ v.1) => ?_) ?_; (on_goal 1 => clear_value v); (on_goal 2 => (dsimp -zeta only [v]; try clear v)))
    | (extract_lets +onlyGivenNames v; first | (have w : Mem := v; clear w) | (have w : DictState := v; clear w) | (have w : Fw := v; clear w) | clear_value v)
    | with_reducible apply State_closeBusy_keeps
    | with_reducible apply State_closeLeaving_keeps
    | with_reducible apply State_closeSpilled_keeps
    | (with_reducible refine foldl_keeps _ _ ?_ ?_; on_goal 2 => (intro t x ht; try beta_reduce))
    | (with_reducible refine foldl_keeps₂ _ _ _ ?_ ?_; on_goal 2 => (intro t b x ht; try dsimp -zeta only))
    | (simp -zeta only [keeps_mk]; with_reducible refine Keeps.at ?_)
    | with_reducible refine pair_keeps (by with_reducible assumption) ?_
    | split
    | (dsimp -zeta only)

theorem State_reassign_keeps {s₀ : State} (a0 : State) (a1 : Nat) (a2 : Nat) (h0 : Keeps s₀ a0) :
    Keeps s₀ (State.reassign a0 a1 a2) := by
  unfold State.reassign
  repeat' first
    | with_reducible assumption
    | (with_reducible intro x; try beta_reduce)
    | (extract_lets +onlyGivenNames v; refine (fun (hv : Keeps s₀ v) => ?_) ?_; (on_goal 1 => clear_value v); (on_goal 2 => (dsimp -zeta only [v]; try clear v)))
    | (extract_lets +onlyGivenNames v; refine (fun (hv : Keeps s₀ v.1) => ?_) ?_; (on_goal 1 => clear_value v); (on_goal 2 => (dsimp -zeta only [v]; try clear v)))
    | (extract_lets +onlyGivenNames v; first | (have w : Mem := v; clear w) | (have w : DictState := v; clear w) | (have w : Fw := v; clear w) | clear_value v)
    | (with_reducible refine foldl_keeps _ _ ?_ ?_; on_goal 2 => (intro t x ht; try beta_reduce))
    | (with_reducible refine foldl_keeps₂ _ _ _ ?_ ?_; on_goal 2 => (intro t b x ht; try dsimp -zeta only))
    | (simp -zeta only [keeps_mk]; with_reducible refine Keeps.at ?_)
    | with_reducible refine pair_keeps (by with_reducible assumption) ?_
    | split
    | (dsimp -zeta only)

theorem State_moveLine_keeps {s₀ : State} (a0 : State) (a1 : Nat) (a2 : FLine) (h0 : Keeps s₀ a0) :
    Keeps s₀ (State.moveLine a0 a1 a2) := by
  unfold State.moveLine
  repeat' first
    | with_reducible assumption
    | (with_reducible intro x; try beta_reduce)
    | (extract_lets +onlyGivenNames v; refine (fun (hv : Keeps s₀ v) => ?_) ?_; (on_goal 1 => clear_value v); (on_goal 2 => (dsimp -zeta only [v]; try clear v)))
    | (extract_lets +onlyGivenNames v; refine (fun (hv : Keeps s₀ v.1) => ?_) ?_; (on_goal 1 => clear_value v); (on_goal 2 => (dsimp -zeta only [v]; try clear v)))
    | (extract_lets +onlyGivenNames v; first | (have w : Mem := v; clear w) | (have w : DictState := v; clear w) | (have w : Fw := v; clear w) | clear_value v)
    | with_reducible apply State_deferOldest_keeps
    | with_reducible apply State_findWay_keeps
    | with_reducible apply State_charge_keeps
    | with_reducible apply State_setLine_keeps
    | (with_reducible refine foldl_keeps _ _ ?_ ?_; on_goal 2 => (intro t x ht; try beta_reduce))
    | (with_reducible refine foldl_keeps₂ _ _ _ ?_ ?_; on_goal 2 => (intro t b x ht; try dsimp -zeta only))
    | (simp -zeta only [keeps_mk]; with_reducible refine Keeps.at ?_)
    | with_reducible refine pair_keeps (by with_reducible assumption) ?_
    | split
    | (dsimp -zeta only)

theorem State_moveLeaving_keeps {s₀ : State} (a0 : State) (h0 : Keeps s₀ a0) :
    Keeps s₀ (State.moveLeaving a0) := by
  unfold State.moveLeaving
  repeat' first
    | with_reducible assumption
    | (with_reducible intro x; try beta_reduce)
    | (extract_lets +onlyGivenNames v; refine (fun (hv : Keeps s₀ v) => ?_) ?_; (on_goal 1 => clear_value v); (on_goal 2 => (dsimp -zeta only [v]; try clear v)))
    | (extract_lets +onlyGivenNames v; refine (fun (hv : Keeps s₀ v.1) => ?_) ?_; (on_goal 1 => clear_value v); (on_goal 2 => (dsimp -zeta only [v]; try clear v)))
    | (extract_lets +onlyGivenNames v; first | (have w : Mem := v; clear w) | (have w : DictState := v; clear w) | (have w : Fw := v; clear w) | clear_value v)
    | with_reducible apply State_moveLine_keeps
    | (with_reducible refine foldl_keeps _ _ ?_ ?_; on_goal 2 => (intro t x ht; try beta_reduce))
    | (with_reducible refine foldl_keeps₂ _ _ _ ?_ ?_; on_goal 2 => (intro t b x ht; try dsimp -zeta only))
    | (simp -zeta only [keeps_mk]; with_reducible refine Keeps.at ?_)
    | with_reducible refine pair_keeps (by with_reducible assumption) ?_
    | split
    | (dsimp -zeta only)

theorem State_trimDead_keeps {s₀ : State} (a0 : State) (a1 : Nat) (h0 : Keeps s₀ a0) :
    Keeps s₀ (State.trimDead a0 a1) := by
  unfold State.trimDead
  repeat' first
    | with_reducible assumption
    | (with_reducible intro x; try beta_reduce)
    | (extract_lets +onlyGivenNames v; refine (fun (hv : Keeps s₀ v) => ?_) ?_; (on_goal 1 => clear_value v); (on_goal 2 => (dsimp -zeta only [v]; try clear v)))
    | (extract_lets +onlyGivenNames v; refine (fun (hv : Keeps s₀ v.1) => ?_) ?_; (on_goal 1 => clear_value v); (on_goal 2 => (dsimp -zeta only [v]; try clear v)))
    | (extract_lets +onlyGivenNames v; first | (have w : Mem := v; clear w) | (have w : DictState := v; clear w) | (have w : Fw := v; clear w) | clear_value v)
    | with_reducible apply State_undead_keeps
    | with_reducible apply State_deadMarkers_keeps
    | (with_reducible refine foldl_keeps _ _ ?_ ?_; on_goal 2 => (intro t x ht; try beta_reduce))
    | (with_reducible refine foldl_keeps₂ _ _ _ ?_ ?_; on_goal 2 => (intro t b x ht; try dsimp -zeta only))
    | (simp -zeta only [keeps_mk]; with_reducible refine Keeps.at ?_)
    | with_reducible refine pair_keeps (by with_reducible assumption) ?_
    | split
    | (dsimp -zeta only)

theorem State_startRetire_keeps {s₀ : State} (a0 : State) (a1 : Nat) (a2 : Nat) (h0 : Keeps s₀ a0) :
    Keeps s₀ (State.startRetire a0 a1 a2) := by
  unfold State.startRetire
  repeat' first
    | with_reducible assumption
    | (with_reducible intro x; try beta_reduce)
    | (extract_lets +onlyGivenNames v; refine (fun (hv : Keeps s₀ v) => ?_) ?_; (on_goal 1 => clear_value v); (on_goal 2 => (dsimp -zeta only [v]; try clear v)))
    | (extract_lets +onlyGivenNames v; refine (fun (hv : Keeps s₀ v.1) => ?_) ?_; (on_goal 1 => clear_value v); (on_goal 2 => (dsimp -zeta only [v]; try clear v)))
    | (extract_lets +onlyGivenNames v; first | (have w : Mem := v; clear w) | (have w : DictState := v; clear w) | (have w : Fw := v; clear w) | clear_value v)
    | with_reducible apply State_moveLeaving_keeps
    | with_reducible apply State_trimDead_keeps
    | with_reducible apply State_reassign_keeps
    | (with_reducible refine foldl_keeps _ _ ?_ ?_; on_goal 2 => (intro t x ht; try beta_reduce))
    | (with_reducible refine foldl_keeps₂ _ _ _ ?_ ?_; on_goal 2 => (intro t b x ht; try dsimp -zeta only))
    | (simp -zeta only [keeps_mk]; with_reducible refine Keeps.at ?_)
    | with_reducible refine pair_keeps (by with_reducible assumption) ?_
    | split
    | (dsimp -zeta only)

theorem State_evictLeaving_keeps {s₀ : State} (a0 : State) (h0 : Keeps s₀ a0) :
    Keeps s₀ (State.evictLeaving a0) := by
  unfold State.evictLeaving
  repeat' first
    | with_reducible assumption
    | (with_reducible intro x; try beta_reduce)
    | (extract_lets +onlyGivenNames v; refine (fun (hv : Keeps s₀ v) => ?_) ?_; (on_goal 1 => clear_value v); (on_goal 2 => (dsimp -zeta only [v]; try clear v)))
    | (extract_lets +onlyGivenNames v; refine (fun (hv : Keeps s₀ v.1) => ?_) ?_; (on_goal 1 => clear_value v); (on_goal 2 => (dsimp -zeta only [v]; try clear v)))
    | (extract_lets +onlyGivenNames v; first | (have w : Mem := v; clear w) | (have w : DictState := v; clear w) | (have w : Fw := v; clear w) | clear_value v)
    | with_reducible apply State_writeBack_keeps
    | (with_reducible refine foldl_keeps _ _ ?_ ?_; on_goal 2 => (intro t x ht; try beta_reduce))
    | (with_reducible refine foldl_keeps₂ _ _ _ ?_ ?_; on_goal 2 => (intro t b x ht; try dsimp -zeta only))
    | (simp -zeta only [keeps_mk]; with_reducible refine Keeps.at ?_)
    | with_reducible refine pair_keeps (by with_reducible assumption) ?_
    | split
    | (dsimp -zeta only)

theorem State_endRetire_keeps {s₀ : State} (a0 : State) (a1 : Nat) (a2 : Nat) (h0 : Keeps s₀ a0) :
    Keeps s₀ (State.endRetire a0 a1 a2) := by
  unfold State.endRetire
  repeat' first
    | with_reducible assumption
    | (with_reducible intro x; try beta_reduce)
    | (extract_lets +onlyGivenNames v; refine (fun (hv : Keeps s₀ v) => ?_) ?_; (on_goal 1 => clear_value v); (on_goal 2 => (dsimp -zeta only [v]; try clear v)))
    | (extract_lets +onlyGivenNames v; refine (fun (hv : Keeps s₀ v.1) => ?_) ?_; (on_goal 1 => clear_value v); (on_goal 2 => (dsimp -zeta only [v]; try clear v)))
    | (extract_lets +onlyGivenNames v; first | (have w : Mem := v; clear w) | (have w : DictState := v; clear w) | (have w : Fw := v; clear w) | clear_value v)
    | with_reducible apply State_log_keeps
    | (with_reducible refine foldl_keeps _ _ ?_ ?_; on_goal 2 => (intro t x ht; try beta_reduce))
    | (with_reducible refine foldl_keeps₂ _ _ _ ?_ ?_; on_goal 2 => (intro t b x ht; try dsimp -zeta only))
    | (simp -zeta only [keeps_mk]; with_reducible refine Keeps.at ?_)
    | with_reducible refine pair_keeps (by with_reducible assumption) ?_
    | split
    | (dsimp -zeta only)

theorem State_closeRetire_keeps {s₀ : State} (a0 : State) (h0 : Keeps s₀ a0) :
    Keeps s₀ (State.closeRetire a0) := by
  unfold State.closeRetire
  repeat' first
    | with_reducible assumption
    | (with_reducible intro x; try beta_reduce)
    | (extract_lets +onlyGivenNames v; refine (fun (hv : Keeps s₀ v) => ?_) ?_; (on_goal 1 => clear_value v); (on_goal 2 => (dsimp -zeta only [v]; try clear v)))
    | (extract_lets +onlyGivenNames v; refine (fun (hv : Keeps s₀ v.1) => ?_) ?_; (on_goal 1 => clear_value v); (on_goal 2 => (dsimp -zeta only [v]; try clear v)))
    | (extract_lets +onlyGivenNames v; first | (have w : Mem := v; clear w) | (have w : DictState := v; clear w) | (have w : Fw := v; clear w) | clear_value v)
    | with_reducible apply State_endRetire_keeps
    | with_reducible apply State_evictLeaving_keeps
    | with_reducible apply State_moveLeaving_keeps
    | (with_reducible refine foldl_keeps _ _ ?_ ?_; on_goal 2 => (intro t x ht; try beta_reduce))
    | (with_reducible refine foldl_keeps₂ _ _ _ ?_ ?_; on_goal 2 => (intro t b x ht; try dsimp -zeta only))
    | (simp -zeta only [keeps_mk]; with_reducible refine Keeps.at ?_)
    | with_reducible refine pair_keeps (by with_reducible assumption) ?_
    | split
    | (dsimp -zeta only)

theorem State_closure_keeps {s₀ : State} (a0 : State) (h0 : Keeps s₀ a0) :
    Keeps s₀ (State.closure a0) := by
  unfold State.closure
  repeat' first
    | with_reducible assumption
    | (with_reducible intro x; try beta_reduce)
    | (extract_lets +onlyGivenNames v; refine (fun (hv : Keeps s₀ v) => ?_) ?_; (on_goal 1 => clear_value v); (on_goal 2 => (dsimp -zeta only [v]; try clear v)))
    | (extract_lets +onlyGivenNames v; refine (fun (hv : Keeps s₀ v.1) => ?_) ?_; (on_goal 1 => clear_value v); (on_goal 2 => (dsimp -zeta only [v]; try clear v)))
    | (extract_lets +onlyGivenNames v; first | (have w : Mem := v; clear w) | (have w : DictState := v; clear w) | (have w : Fw := v; clear w) | clear_value v)
    | with_reducible apply State_closeRetire_keeps
    | with_reducible apply State_closeWhere_keeps
    | (with_reducible refine foldl_keeps _ _ ?_ ?_; on_goal 2 => (intro t x ht; try beta_reduce))
    | (with_reducible refine foldl_keeps₂ _ _ _ ?_ ?_; on_goal 2 => (intro t b x ht; try dsimp -zeta only))
    | (simp -zeta only [keeps_mk]; with_reducible refine Keeps.at ?_)
    | with_reducible refine pair_keeps (by with_reducible assumption) ?_
    | split
    | (dsimp -zeta only)

theorem State_flushAll_keeps {s₀ : State} (a0 : State) (a1 : Bool) (h0 : Keeps s₀ a0) :
    Keeps s₀ (State.flushAll a0 a1) := by
  unfold State.flushAll
  repeat' first
    | with_reducible assumption
    | (with_reducible intro x; try beta_reduce)
    | (extract_lets +onlyGivenNames v; refine (fun (hv : Keeps s₀ v) => ?_) ?_; (on_goal 1 => clear_value v); (on_goal 2 => (dsimp -zeta only [v]; try clear v)))
    | (extract_lets +onlyGivenNames v; refine (fun (hv : Keeps s₀ v.1) => ?_) ?_; (on_goal 1 => clear_value v); (on_goal 2 => (dsimp -zeta only [v]; try clear v)))
    | (extract_lets +onlyGivenNames v; first | (have w : Mem := v; clear w) | (have w : DictState := v; clear w) | (have w : Fw := v; clear w) | clear_value v)
    | with_reducible apply State_writeBack_keeps
    | with_reducible apply State_deadMarkers_keeps
    | (with_reducible refine foldl_keeps _ _ ?_ ?_; on_goal 2 => (intro t x ht; try beta_reduce))
    | (with_reducible refine foldl_keeps₂ _ _ _ ?_ ?_; on_goal 2 => (intro t b x ht; try dsimp -zeta only))
    | (simp -zeta only [keeps_mk]; with_reducible refine Keeps.at ?_)
    | with_reducible refine pair_keeps (by with_reducible assumption) ?_
    | split
    | (dsimp -zeta only)

theorem State_loadReg_keeps {s₀ : State} (a0 : State) (a1 : GroupRef) (a2 : Nat) (a3 : Nat) (a4 : RegVal) (h0 : Keeps s₀ a0) :
    Keeps s₀ (State.loadReg a0 a1 a2 a3 a4) := by
  unfold State.loadReg
  repeat' first
    | with_reducible assumption
    | with_reducible apply State_adjGroup_keeps

theorem State_loadRegs_keeps {s₀ : State} (a0 : State) (a1 : GroupRef) (a2 : Nat) (a3 : Nat) (a4 : Nat) (a5 : Bytes) (a6 : Option PoisonClass) (h0 : Keeps s₀ a0) :
    Keeps s₀ (State.loadRegs a0 a1 a2 a3 a4 a5 a6) := by
  unfold State.loadRegs
  repeat' first
    | with_reducible assumption
    | with_reducible apply State_loadReg_keeps
    | (with_reducible refine foldl_keeps _ _ ?_ ?_; on_goal 2 => (intro t x ht; try beta_reduce))

theorem State_poisonHalted_keeps {s₀ : State} (a0 : State) (a1 : Nat) (a2 : LogAddr) (a3 : Nat) (a4 : Nat) (a5 : PoisonClass) (h0 : Keeps s₀ a0) :
    Keeps s₀ (State.poisonHalted a0 a1 a2 a3 a4 a5) := by
  unfold State.poisonHalted
  repeat' first
    | with_reducible assumption
    | (with_reducible intro x; try beta_reduce)
    | (extract_lets +onlyGivenNames v; refine (fun (hv : Keeps s₀ v) => ?_) ?_; (on_goal 1 => clear_value v); (on_goal 2 => (dsimp -zeta only [v]; try clear v)))
    | (extract_lets +onlyGivenNames v; refine (fun (hv : Keeps s₀ v.1) => ?_) ?_; (on_goal 1 => clear_value v); (on_goal 2 => (dsimp -zeta only [v]; try clear v)))
    | (extract_lets +onlyGivenNames v; first | (have w : Mem := v; clear w) | (have w : DictState := v; clear w) | (have w : Fw := v; clear w) | clear_value v)
    | with_reducible apply State_log_keeps
    | with_reducible apply State_bump_keeps
    | (with_reducible refine foldl_keeps _ _ ?_ ?_; on_goal 2 => (intro t x ht; try beta_reduce))
    | (with_reducible refine foldl_keeps₂ _ _ _ ?_ ?_; on_goal 2 => (intro t b x ht; try dsimp -zeta only))
    | (simp -zeta only [keeps_mk]; with_reducible refine Keeps.at ?_)
    | with_reducible refine pair_keeps (by with_reducible assumption) ?_
    | split
    | (dsimp -zeta only)

theorem State_deliverLoad_keeps {s₀ : State} (a0 : State) (a1 : GroupRef) (a2 : Nat) (a3 : Nat) (a4 : Nat) (a5 : Nat) (a6 : SectorVal) (h0 : Keeps s₀ a0) :
    Keeps s₀ (State.deliverLoad a0 a1 a2 a3 a4 a5 a6) := by
  unfold State.deliverLoad
  repeat' first
    | with_reducible assumption
    | (with_reducible intro x; try beta_reduce)
    | (extract_lets +onlyGivenNames v; refine (fun (hv : Keeps s₀ v) => ?_) ?_; (on_goal 1 => clear_value v); (on_goal 2 => (dsimp -zeta only [v]; try clear v)))
    | (extract_lets +onlyGivenNames v; refine (fun (hv : Keeps s₀ v.1) => ?_) ?_; (on_goal 1 => clear_value v); (on_goal 2 => (dsimp -zeta only [v]; try clear v)))
    | (extract_lets +onlyGivenNames v; first | (have w : Mem := v; clear w) | (have w : DictState := v; clear w) | (have w : Fw := v; clear w) | clear_value v)
    | with_reducible apply State_threadFault_keeps
    | with_reducible apply State_poisonHalted_keeps
    | with_reducible apply State_loadRegs_keeps
    | (with_reducible refine foldl_keeps _ _ ?_ ?_; on_goal 2 => (intro t x ht; try beta_reduce))
    | (with_reducible refine foldl_keeps₂ _ _ _ ?_ ?_; on_goal 2 => (intro t b x ht; try dsimp -zeta only))
    | (simp -zeta only [keeps_mk]; with_reducible refine Keeps.at ?_)
    | with_reducible refine pair_keeps (by with_reducible assumption) ?_
    | split
    | (dsimp -zeta only)

theorem State_laneDone_keeps {s₀ : State} (a0 : State) (a1 : GroupRef) (h0 : Keeps s₀ a0) :
    Keeps s₀ (State.laneDone a0 a1) := by
  unfold State.laneDone
  repeat' first
    | with_reducible assumption
    | with_reducible apply State_adjGroup_keeps

theorem State_bankLoad_keeps {s₀ : State} (a0 : State) (a1 : Nat) (a2 : Nat) (a3 : Nat) (h0 : Keeps s₀ a0) :
    Keeps s₀ (State.bankLoad a0 a1 a2 a3).1 := by
  unfold State.bankLoad
  repeat' first
    | with_reducible assumption
    | (with_reducible intro x; try beta_reduce)
    | (extract_lets +onlyGivenNames v; refine (fun (hv : Keeps s₀ v) => ?_) ?_; (on_goal 1 => clear_value v); (on_goal 2 => (dsimp -zeta only [v]; try clear v)))
    | (extract_lets +onlyGivenNames v; refine (fun (hv : Keeps s₀ v.1) => ?_) ?_; (on_goal 1 => clear_value v); (on_goal 2 => (dsimp -zeta only [v]; try clear v)))
    | (extract_lets +onlyGivenNames v; first | (have w : Mem := v; clear w) | (have w : DictState := v; clear w) | (have w : Fw := v; clear w) | clear_value v)
    | with_reducible apply State_bankRead_keeps
    | with_reducible apply State_allocate_keeps
    | with_reducible apply State_setLine_keeps
    | (with_reducible refine foldl_keeps _ _ ?_ ?_; on_goal 2 => (intro t x ht; try beta_reduce))
    | (with_reducible refine foldl_keeps₂ _ _ _ ?_ ?_; on_goal 2 => (intro t b x ht; try dsimp -zeta only))
    | (simp -zeta only [keeps_mk]; with_reducible refine Keeps.at ?_)
    | with_reducible refine pair_keeps (by with_reducible assumption) ?_
    | split
    | (dsimp -zeta only)

theorem State_l1Supply_keeps {s₀ : State} (a0 : State) (a1 : Nat) (a2 : Nat) (a3 : SectorVal) (h0 : Keeps s₀ a0) :
    Keeps s₀ (State.l1Supply a0 a1 a2 a3) := by
  unfold State.l1Supply
  repeat' first
    | with_reducible assumption
    | (with_reducible intro x; try beta_reduce)
    | (extract_lets +onlyGivenNames v; refine (fun (hv : Keeps s₀ v) => ?_) ?_; (on_goal 1 => clear_value v); (on_goal 2 => (dsimp -zeta only [v]; try clear v)))
    | (extract_lets +onlyGivenNames v; refine (fun (hv : Keeps s₀ v.1) => ?_) ?_; (on_goal 1 => clear_value v); (on_goal 2 => (dsimp -zeta only [v]; try clear v)))
    | (extract_lets +onlyGivenNames v; first | (have w : Mem := v; clear w) | (have w : DictState := v; clear w) | (have w : Fw := v; clear w) | clear_value v)
    | with_reducible apply State_adjTile_keeps
    | (with_reducible refine foldl_keeps _ _ ?_ ?_; on_goal 2 => (intro t x ht; try beta_reduce))
    | (with_reducible refine foldl_keeps₂ _ _ _ ?_ ?_; on_goal 2 => (intro t b x ht; try dsimp -zeta only))
    | (simp -zeta only [keeps_mk]; with_reducible refine Keeps.at ?_)
    | with_reducible refine pair_keeps (by with_reducible assumption) ?_
    | split
    | (dsimp -zeta only)

theorem State_storeDone_keeps {s₀ : State} (a0 : State) (a1 : Agent) (h0 : Keeps s₀ a0) :
    Keeps s₀ (State.storeDone a0 a1) := by
  unfold State.storeDone
  repeat' first
    | with_reducible assumption
    | (with_reducible intro x; try beta_reduce)
    | (extract_lets +onlyGivenNames v; refine (fun (hv : Keeps s₀ v) => ?_) ?_; (on_goal 1 => clear_value v); (on_goal 2 => (dsimp -zeta only [v]; try clear v)))
    | (extract_lets +onlyGivenNames v; refine (fun (hv : Keeps s₀ v.1) => ?_) ?_; (on_goal 1 => clear_value v); (on_goal 2 => (dsimp -zeta only [v]; try clear v)))
    | (extract_lets +onlyGivenNames v; first | (have w : Mem := v; clear w) | (have w : DictState := v; clear w) | (have w : Fw := v; clear w) | clear_value v)
    | with_reducible apply State_adjGroup_keeps
    | (with_reducible refine foldl_keeps _ _ ?_ ?_; on_goal 2 => (intro t x ht; try beta_reduce))
    | (with_reducible refine foldl_keeps₂ _ _ _ ?_ ?_; on_goal 2 => (intro t b x ht; try dsimp -zeta only))
    | (simp -zeta only [keeps_mk]; with_reducible refine Keeps.at ?_)
    | with_reducible refine pair_keeps (by with_reducible assumption) ?_
    | split
    | (dsimp -zeta only)

theorem State_serve_keeps {s₀ : State} (a0 : State) (a1 : Req) (h0 : Keeps s₀ a0) :
    Keeps s₀ (State.serve a0 a1).1 := by
  unfold State.serve
  repeat' first
    | with_reducible assumption
    | (with_reducible intro x; try beta_reduce)
    | (extract_lets +onlyGivenNames v; refine (fun (hv : Keeps s₀ v) => ?_) ?_; (on_goal 1 => clear_value v); (on_goal 2 => (dsimp -zeta only [v]; try clear v)))
    | (extract_lets +onlyGivenNames v; refine (fun (hv : Keeps s₀ v.1) => ?_) ?_; (on_goal 1 => clear_value v); (on_goal 2 => (dsimp -zeta only [v]; try clear v)))
    | (extract_lets +onlyGivenNames v; first | (have w : Mem := v; clear w) | (have w : DictState := v; clear w) | (have w : Fw := v; clear w) | clear_value v)
    | with_reducible apply State_threadFault_keeps
    | with_reducible apply State_violation_keeps
    | with_reducible apply State_bankLoad_keeps
    | with_reducible apply State_laneDone_keeps
    | with_reducible apply State_deliverLoad_keeps
    | with_reducible apply State_l1Supply_keeps
    | with_reducible apply State_bankStore_keeps
    | with_reducible apply State_storeDone_keeps
    | with_reducible apply State_bankDrop_keeps
    | with_reducible apply State_contribute_keeps
    | (with_reducible refine foldl_keeps _ _ ?_ ?_; on_goal 2 => (intro t x ht; try beta_reduce))
    | (with_reducible refine foldl_keeps₂ _ _ _ ?_ ?_; on_goal 2 => (intro t b x ht; try dsimp -zeta only))
    | (simp -zeta only [keeps_mk]; with_reducible refine Keeps.at ?_)
    | with_reducible refine pair_keeps (by with_reducible assumption) ?_
    | split
    | (dsimp -zeta only)

theorem State_serveList_keeps {s₀ : State} (a0 : List Req) (a1 : State) (h1 : Keeps s₀ a1) :
    Keeps s₀ (State.serveList a0 a1) := by
  induction a0 generalizing a1 with
  | nil =>
    rw [State.serveList]
    repeat' first
      | with_reducible assumption
      | (with_reducible intro x; try beta_reduce)
      | (extract_lets +onlyGivenNames v; refine (fun (hv : Keeps s₀ v) => ?_) ?_; (on_goal 1 => clear_value v); (on_goal 2 => (dsimp -zeta only [v]; try clear v)))
      | (extract_lets +onlyGivenNames v; refine (fun (hv : Keeps s₀ v.1) => ?_) ?_; (on_goal 1 => clear_value v); (on_goal 2 => (dsimp -zeta only [v]; try clear v)))
      | (extract_lets +onlyGivenNames v; first | (have w : Mem := v; clear w) | (have w : DictState := v; clear w) | (have w : Fw := v; clear w) | clear_value v)
      | with_reducible apply ih
      | with_reducible apply State_serve_keeps
      | (with_reducible refine foldl_keeps _ _ ?_ ?_; on_goal 2 => (intro t x ht; try beta_reduce))
      | (with_reducible refine foldl_keeps₂ _ _ _ ?_ ?_; on_goal 2 => (intro t b x ht; try dsimp -zeta only))
      | (simp -zeta only [keeps_mk]; with_reducible refine Keeps.at ?_)
      | with_reducible refine pair_keeps (by with_reducible assumption) ?_
      | split
      | (dsimp -zeta only)
  | cons x l ih =>
    rw [State.serveList]
    repeat' first
      | with_reducible assumption
      | (with_reducible intro x; try beta_reduce)
      | (extract_lets +onlyGivenNames v; refine (fun (hv : Keeps s₀ v) => ?_) ?_; (on_goal 1 => clear_value v); (on_goal 2 => (dsimp -zeta only [v]; try clear v)))
      | (extract_lets +onlyGivenNames v; refine (fun (hv : Keeps s₀ v.1) => ?_) ?_; (on_goal 1 => clear_value v); (on_goal 2 => (dsimp -zeta only [v]; try clear v)))
      | (extract_lets +onlyGivenNames v; first | (have w : Mem := v; clear w) | (have w : DictState := v; clear w) | (have w : Fw := v; clear w) | clear_value v)
      | with_reducible apply ih
      | with_reducible apply State_serve_keeps
      | (with_reducible refine foldl_keeps _ _ ?_ ?_; on_goal 2 => (intro t x ht; try beta_reduce))
      | (with_reducible refine foldl_keeps₂ _ _ _ ?_ ?_; on_goal 2 => (intro t b x ht; try dsimp -zeta only))
      | (simp -zeta only [keeps_mk]; with_reducible refine Keeps.at ?_)
      | with_reducible refine pair_keeps (by with_reducible assumption) ?_
      | split
      | (dsimp -zeta only)

theorem State_retryN_keeps {s₀ : State} (a0 : Nat) (a1 : State) (h1 : Keeps s₀ a1) :
    Keeps s₀ (State.retryN a0 a1) := by
  induction a0 generalizing a1 with
  | zero =>
    rw [State.retryN]
    repeat' first
      | with_reducible assumption
      | (with_reducible intro x; try beta_reduce)
      | (extract_lets +onlyGivenNames v; refine (fun (hv : Keeps s₀ v) => ?_) ?_; (on_goal 1 => clear_value v); (on_goal 2 => (dsimp -zeta only [v]; try clear v)))
      | (extract_lets +onlyGivenNames v; refine (fun (hv : Keeps s₀ v.1) => ?_) ?_; (on_goal 1 => clear_value v); (on_goal 2 => (dsimp -zeta only [v]; try clear v)))
      | (extract_lets +onlyGivenNames v; first | (have w : Mem := v; clear w) | (have w : DictState := v; clear w) | (have w : Fw := v; clear w) | clear_value v)
      | with_reducible apply ih
      | with_reducible apply State_serveList_keeps
      | (with_reducible refine foldl_keeps _ _ ?_ ?_; on_goal 2 => (intro t x ht; try beta_reduce))
      | (with_reducible refine foldl_keeps₂ _ _ _ ?_ ?_; on_goal 2 => (intro t b x ht; try dsimp -zeta only))
      | (simp -zeta only [keeps_mk]; with_reducible refine Keeps.at ?_)
      | with_reducible refine pair_keeps (by with_reducible assumption) ?_
      | split
      | (dsimp -zeta only)
  | succ n ih =>
    rw [State.retryN]
    repeat' first
      | with_reducible assumption
      | (with_reducible intro x; try beta_reduce)
      | (extract_lets +onlyGivenNames v; refine (fun (hv : Keeps s₀ v) => ?_) ?_; (on_goal 1 => clear_value v); (on_goal 2 => (dsimp -zeta only [v]; try clear v)))
      | (extract_lets +onlyGivenNames v; refine (fun (hv : Keeps s₀ v.1) => ?_) ?_; (on_goal 1 => clear_value v); (on_goal 2 => (dsimp -zeta only [v]; try clear v)))
      | (extract_lets +onlyGivenNames v; first | (have w : Mem := v; clear w) | (have w : DictState := v; clear w) | (have w : Fw := v; clear w) | clear_value v)
      | with_reducible apply ih
      | with_reducible apply State_serveList_keeps
      | (with_reducible refine foldl_keeps _ _ ?_ ?_; on_goal 2 => (intro t x ht; try beta_reduce))
      | (with_reducible refine foldl_keeps₂ _ _ _ ?_ ?_; on_goal 2 => (intro t b x ht; try dsimp -zeta only))
      | (simp -zeta only [keeps_mk]; with_reducible refine Keeps.at ?_)
      | with_reducible refine pair_keeps (by with_reducible assumption) ?_
      | split
      | (dsimp -zeta only)

theorem State_retry_keeps {s₀ : State} (a0 : State) (h0 : Keeps s₀ a0) :
    Keeps s₀ (State.retry a0) := by
  unfold State.retry
  repeat' first
    | with_reducible assumption
    | (with_reducible intro x; try beta_reduce)
    | (extract_lets +onlyGivenNames v; refine (fun (hv : Keeps s₀ v) => ?_) ?_; (on_goal 1 => clear_value v); (on_goal 2 => (dsimp -zeta only [v]; try clear v)))
    | (extract_lets +onlyGivenNames v; refine (fun (hv : Keeps s₀ v.1) => ?_) ?_; (on_goal 1 => clear_value v); (on_goal 2 => (dsimp -zeta only [v]; try clear v)))
    | (extract_lets +onlyGivenNames v; first | (have w : Mem := v; clear w) | (have w : DictState := v; clear w) | (have w : Fw := v; clear w) | clear_value v)
    | with_reducible apply State_retryN_keeps
    | (with_reducible refine foldl_keeps _ _ ?_ ?_; on_goal 2 => (intro t x ht; try beta_reduce))
    | (with_reducible refine foldl_keeps₂ _ _ _ ?_ ?_; on_goal 2 => (intro t b x ht; try dsimp -zeta only))
    | (simp -zeta only [keeps_mk]; with_reducible refine Keeps.at ?_)
    | with_reducible refine pair_keeps (by with_reducible assumption) ?_
    | split
    | (dsimp -zeta only)

theorem State_submit_keeps {s₀ : State} (a0 : State) (a1 : Req) (h0 : Keeps s₀ a0) :
    Keeps s₀ (State.submit a0 a1) := by
  unfold State.submit
  repeat' first
    | with_reducible assumption
    | (with_reducible intro x; try beta_reduce)
    | (extract_lets +onlyGivenNames v; refine (fun (hv : Keeps s₀ v) => ?_) ?_; (on_goal 1 => clear_value v); (on_goal 2 => (dsimp -zeta only [v]; try clear v)))
    | (extract_lets +onlyGivenNames v; refine (fun (hv : Keeps s₀ v.1) => ?_) ?_; (on_goal 1 => clear_value v); (on_goal 2 => (dsimp -zeta only [v]; try clear v)))
    | (extract_lets +onlyGivenNames v; first | (have w : Mem := v; clear w) | (have w : DictState := v; clear w) | (have w : Fw := v; clear w) | clear_value v)
    | with_reducible apply State_serve_keeps
    | with_reducible apply State_retry_keeps
    | (with_reducible refine foldl_keeps _ _ ?_ ?_; on_goal 2 => (intro t x ht; try beta_reduce))
    | (with_reducible refine foldl_keeps₂ _ _ _ ?_ ?_; on_goal 2 => (intro t b x ht; try dsimp -zeta only))
    | (simp -zeta only [keeps_mk]; with_reducible refine Keeps.at ?_)
    | with_reducible refine pair_keeps (by with_reducible assumption) ?_
    | split
    | (dsimp -zeta only)

theorem State_missLoad_keeps {s₀ : State} (a0 : State) (a1 : Nat) (a2 : Req) (h0 : Keeps s₀ a0) :
    Keeps s₀ (State.missLoad a0 a1 a2) := by
  unfold State.missLoad
  repeat' first
    | with_reducible assumption
    | (with_reducible intro x; try beta_reduce)
    | (extract_lets +onlyGivenNames v; refine (fun (hv : Keeps s₀ v) => ?_) ?_; (on_goal 1 => clear_value v); (on_goal 2 => (dsimp -zeta only [v]; try clear v)))
    | (extract_lets +onlyGivenNames v; refine (fun (hv : Keeps s₀ v.1) => ?_) ?_; (on_goal 1 => clear_value v); (on_goal 2 => (dsimp -zeta only [v]; try clear v)))
    | (extract_lets +onlyGivenNames v; first | (have w : Mem := v; clear w) | (have w : DictState := v; clear w) | (have w : Fw := v; clear w) | clear_value v)
    | with_reducible apply State_submit_keeps
    | with_reducible apply State_adjTile_keeps
    | (with_reducible refine foldl_keeps _ _ ?_ ?_; on_goal 2 => (intro t x ht; try beta_reduce))
    | (with_reducible refine foldl_keeps₂ _ _ _ ?_ ?_; on_goal 2 => (intro t b x ht; try dsimp -zeta only))
    | (simp -zeta only [keeps_mk]; with_reducible refine Keeps.at ?_)
    | with_reducible refine pair_keeps (by with_reducible assumption) ?_
    | split
    | (dsimp -zeta only)

end Sys2Proof.Laws
end

