-- ==== Sys2Proof/Laws/KeepsConverter.lean ====
section
/-! SUPPORT. What the operations of Machine/Converter.lean keep (`Keeps`): one lemma for each. -/

set_option Elab.async false
set_option linter.all false

namespace Sys2Proof.Laws

open Sys2Proof Sys2Proof.Machine

theorem State_raiseSat_keeps {s₀ : State} (a0 : State) (a1 : Nat) (a2 : Nat) (a3 : LogAddr) (a4 : Nat) (a5 : Nat) (h0 : Keeps s₀ a0) :
    Keeps s₀ (State.raiseSat a0 a1 a2 a3 a4 a5) := by
  unfold State.raiseSat
  repeat' first
    | with_reducible assumption
    | (with_reducible intro x; try beta_reduce)
    | (extract_lets +onlyGivenNames v; refine (fun (hv : Keeps s₀ v) => ?_) ?_; (on_goal 1 => clear_value v); (on_goal 2 => (dsimp -zeta only [v]; try clear v)))
    | (extract_lets +onlyGivenNames v; refine (fun (hv : Keeps s₀ v.1) => ?_) ?_; (on_goal 1 => clear_value v); (on_goal 2 => (dsimp -zeta only [v]; try clear v)))
    | (extract_lets +onlyGivenNames v; first | (have w : Mem := v; clear w) | (have w : DictState := v; clear w) | (have w : Fw := v; clear w) | clear_value v)
    | with_reducible apply State_bump_keeps
    | with_reducible apply State_event_keeps
    | with_reducible apply State_adjEntry_keeps
    | with_reducible apply State_adjTile_keeps
    | with_reducible apply State_limitMark_keeps
    | with_reducible apply State_log_keeps
    | (with_reducible refine foldl_keeps _ _ ?_ ?_; on_goal 2 => (intro t x ht; try beta_reduce))
    | (with_reducible refine foldl_keeps₂ _ _ _ ?_ ?_; on_goal 2 => (intro t b x ht; try dsimp -zeta only))
    | (simp -zeta only [keeps_mk]; with_reducible refine Keeps.at ?_)
    | with_reducible refine pair_keeps (by with_reducible assumption) ?_
    | split
    | (dsimp -zeta only)

end Sys2Proof.Laws
end

