-- ==== Sys2Proof/Laws/KeepsErrors.lean ====
section
/-! SUPPORT. What the operations of Machine/Errors.lean keep (`Keeps`): one lemma for each. -/

set_option Elab.async false
set_option linter.all false

namespace Sys2Proof.Laws

open Sys2Proof Sys2Proof.Machine

theorem State_corrected_keeps {s₀ : State} (a0 : State) (a1 : Nat) (a2 : Nat) (a3 : Nat) (a4 : Nat) (a5 : LogAddr) (a6 : Nat) (h0 : Keeps s₀ a0) :
    Keeps s₀ (State.corrected a0 a1 a2 a3 a4 a5 a6) := by
  unfold State.corrected
  repeat' first
    | with_reducible assumption
    | (extract_lets +onlyGivenNames v; refine (fun (hv : Keeps s₀ v) => ?_) ?_; (on_goal 1 => clear_value v); (on_goal 2 => (dsimp -zeta only [v]; try clear v)))
    | (extract_lets +onlyGivenNames v; first | (have w : Mem := v; clear w) | (have w : DictState := v; clear w) | (have w : Fw := v; clear w) | clear_value v)
    | with_reducible apply State_bump_keeps
    | with_reducible apply State_log_keeps
    | (simp -zeta only [keeps_mk]; with_reducible refine Keeps.at ?_)
    | split

theorem State_retireGroup_keeps {s₀ : State} (a0 : State) (a1 : Nat) (a2 : Nat) (h0 : Keeps s₀ a0) :
    Keeps s₀ (State.retireGroup a0 a1 a2) := by
  unfold State.retireGroup
  repeat' first
    | with_reducible assumption
    | (with_reducible intro x; try beta_reduce)
    | (extract_lets +onlyGivenNames v; refine (fun (hv : Keeps s₀ v) => ?_) ?_; (on_goal 1 => clear_value v); (on_goal 2 => (dsimp -zeta only [v]; try clear v)))
    | (extract_lets +onlyGivenNames v; refine (fun (hv : Keeps s₀ v.1) => ?_) ?_; (on_goal 1 => clear_value v); (on_goal 2 => (dsimp -zeta only [v]; try clear v)))
    | (extract_lets +onlyGivenNames v; first | (have w : Mem := v; clear w) | (have w : DictState := v; clear w) | (have w : Fw := v; clear w) | clear_value v)
    | with_reducible apply State_startRetire_keeps
    | (with_reducible refine foldl_keeps _ _ ?_ ?_; on_goal 2 => (intro t x ht; try beta_reduce))
    | (with_reducible refine foldl_keeps₂ _ _ _ ?_ ?_; on_goal 2 => (intro t b x ht; try dsimp -zeta only))
    | (simp -zeta only [keeps_mk]; with_reducible refine Keeps.at ?_)
    | with_reducible refine pair_keeps (by with_reducible assumption) ?_
    | split
    | (dsimp -zeta only)

theorem State_recordFault_keeps {s₀ : State} (a0 : State) (a1 : HardFault) (a2 : Nat) (a3 : LogAddr) (h0 : Keeps s₀ a0) :
    Keeps s₀ (State.recordFault a0 a1 a2 a3).1 := by
  unfold State.recordFault
  repeat' first
    | with_reducible assumption
    | (with_reducible intro x; try beta_reduce)
    | (extract_lets +onlyGivenNames v; refine (fun (hv : Keeps s₀ v) => ?_) ?_; (on_goal 1 => clear_value v); (on_goal 2 => (dsimp -zeta only [v]; try clear v)))
    | (extract_lets +onlyGivenNames v; refine (fun (hv : Keeps s₀ v.1) => ?_) ?_; (on_goal 1 => clear_value v); (on_goal 2 => (dsimp -zeta only [v]; try clear v)))
    | (extract_lets +onlyGivenNames v; first | (have w : Mem := v; clear w) | (have w : DictState := v; clear w) | (have w : Fw := v; clear w) | clear_value v)
    | with_reducible apply State_log_keeps
    | (with_reducible refine foldl_keeps _ _ ?_ ?_; on_goal 2 => (intro t x ht; try beta_reduce))
    | (with_reducible refine foldl_keeps₂ _ _ _ ?_ ?_; on_goal 2 => (intro t b x ht; try dsimp -zeta only))
    | (simp -zeta only [keeps_mk]; with_reducible refine Keeps.at ?_)
    | with_reducible refine pair_keeps (by with_reducible assumption) ?_
    | split
    | (dsimp -zeta only)

theorem State_feltHardFault_keeps {s₀ : State} (a0 : State) (a1 : Nat) (a2 : Nat) (h0 : Keeps s₀ a0) :
    Keeps s₀ (State.feltHardFault a0 a1 a2) := by
  unfold State.feltHardFault
  repeat' first
    | with_reducible assumption
    | (extract_lets +onlyGivenNames v; first | (have w : Mem := v; clear w) | (have w : DictState := v; clear w) | (have w : Fw := v; clear w) | clear_value v)
    | with_reducible apply State_recordFault_keeps
    | with_reducible apply State_retireGroup_keeps
    | with_reducible refine pair_keeps (by with_reducible assumption) ?_
    | split

theorem State_feltError_keeps {s₀ : State} (a0 : State) (a1 : Nat) (a2 : Nat) (a3 : ErrHit) (h0 : Keeps s₀ a0) :
    Keeps s₀ (State.feltError a0 a1 a2 a3) := by
  unfold State.feltError
  repeat' first
    | with_reducible assumption
    | (extract_lets +onlyGivenNames v; refine (fun (hf : ∀ y0 y1 y2, Keeps s₀ y0 → Keeps s₀ (v y0 y1 y2)) => ?_) ?_; (on_goal 1 => clear_value v); (on_goal 2 => (dsimp -zeta only [v]; intro y0 y1 y2 hy; try dsimp -zeta only)))
    | with_reducible apply hf
    | (extract_lets +onlyGivenNames v; refine (fun (hv : Keeps s₀ v) => ?_) ?_; (on_goal 1 => clear_value v); (on_goal 2 => (dsimp -zeta only [v]; try clear v)))
    | (extract_lets +onlyGivenNames v; first | (have w : Mem := v; clear w) | (have w : DictState := v; clear w) | (have w : Fw := v; clear w) | clear_value v)
    | with_reducible apply State_feltHardFault_keeps
    | with_reducible apply State_corrected_keeps
    | with_reducible apply State_log_keeps
    | with_reducible apply State_bump_keeps
    | with_reducible apply State_setLine_keeps
    | split

theorem State_l1Error_keeps {s₀ : State} (a0 : State) (a1 : Nat) (a2 : Nat) (a3 : ErrHit) (h0 : Keeps s₀ a0) :
    Keeps s₀ (State.l1Error a0 a1 a2 a3) := by
  unfold State.l1Error
  repeat' first
    | with_reducible assumption
    | (extract_lets +onlyGivenNames v; refine (fun (hf : ∀ y0 y1 y2, Keeps s₀ y0 → Keeps s₀ (v y0 y1 y2)) => ?_) ?_; (on_goal 1 => clear_value v); (on_goal 2 => (dsimp -zeta only [v]; intro y0 y1 y2 hy; try dsimp -zeta only)))
    | with_reducible apply hf
    | (extract_lets +onlyGivenNames v; refine (fun (hv : Keeps s₀ v) => ?_) ?_; (on_goal 1 => clear_value v); (on_goal 2 => (dsimp -zeta only [v]; try clear v)))
    | with_reducible apply State_recordFault_keeps
    | with_reducible apply State_corrected_keeps
    | with_reducible apply State_log_keeps
    | with_reducible apply State_bump_keeps
    | with_reducible apply State_adjTile_keeps
    | split

theorem State_scratchError_keeps {s₀ : State} (a0 : State) (a1 : Nat) (a2 : Nat) (a3 : Nat) (a4 : ErrHit) (h0 : Keeps s₀ a0) :
    Keeps s₀ (State.scratchError a0 a1 a2 a3 a4) := by
  unfold State.scratchError
  repeat' first
    | with_reducible assumption
    | (with_reducible intro x; try beta_reduce)
    | (extract_lets +onlyGivenNames v; refine (fun (hf : ∀ y0 y1 y2, Keeps s₀ y0 → Keeps s₀ (v y0 y1 y2)) => ?_) ?_; (on_goal 1 => clear_value v); (on_goal 2 => (dsimp -zeta only [v]; intro y0 y1 y2 hy; try dsimp -zeta only)))
    | with_reducible apply hf
    | (extract_lets +onlyGivenNames v; refine (fun (hv : Keeps s₀ v) => ?_) ?_; (on_goal 1 => clear_value v); (on_goal 2 => (dsimp -zeta only [v]; try clear v)))
    | (extract_lets +onlyGivenNames v; refine (fun (hv : Keeps s₀ v.1) => ?_) ?_; (on_goal 1 => clear_value v); (on_goal 2 => (dsimp -zeta only [v]; try clear v)))
    | (extract_lets +onlyGivenNames v; first | (have w : Mem := v; clear w) | (have w : DictState := v; clear w) | (have w : Fw := v; clear w) | clear_value v)
    | with_reducible apply State_recordFault_keeps
    | with_reducible apply State_corrected_keeps
    | with_reducible apply State_log_keeps
    | with_reducible apply State_bump_keeps
    | with_reducible apply State_adjBlock_keeps
    | (with_reducible refine foldl_keeps _ _ ?_ ?_; on_goal 2 => (intro t x ht; try beta_reduce))
    | (with_reducible refine foldl_keeps₂ _ _ _ ?_ ?_; on_goal 2 => (intro t b x ht; try dsimp -zeta only))
    | (simp -zeta only [keeps_mk]; with_reducible refine Keeps.at ?_)
    | with_reducible refine pair_keeps (by with_reducible assumption) ?_
    | split
    | (dsimp -zeta only)

theorem State_canvasError_keeps {s₀ : State} (a0 : State) (a1 : Nat) (a2 : Nat) (a3 : LogAddr) (a4 : Nat) (a5 : Bool) (a6 : ErrHit) (h0 : Keeps s₀ a0) :
    Keeps s₀ (State.canvasError a0 a1 a2 a3 a4 a5 a6) := by
  unfold State.canvasError
  repeat' first
    | with_reducible assumption
    | (with_reducible intro x; try beta_reduce)
    | (extract_lets +onlyGivenNames v; refine (fun (hf : ∀ y0 y1 y2, Keeps s₀ y0 → Keeps s₀ (v y0 y1 y2)) => ?_) ?_; (on_goal 1 => clear_value v); (on_goal 2 => (dsimp -zeta only [v]; intro y0 y1 y2 hy; try dsimp -zeta only)))
    | with_reducible apply hf
    | (extract_lets +onlyGivenNames v; refine (fun (hv : Keeps s₀ v) => ?_) ?_; (on_goal 1 => clear_value v); (on_goal 2 => (dsimp -zeta only [v]; try clear v)))
    | (extract_lets +onlyGivenNames v; refine (fun (hv : Keeps s₀ v.1) => ?_) ?_; (on_goal 1 => clear_value v); (on_goal 2 => (dsimp -zeta only [v]; try clear v)))
    | (extract_lets +onlyGivenNames v; first | (have w : Mem := v; clear w) | (have w : DictState := v; clear w) | (have w : Fw := v; clear w) | clear_value v)
    | with_reducible apply State_recordFault_keeps
    | with_reducible apply State_corrected_keeps
    | with_reducible apply State_log_keeps
    | with_reducible apply State_bump_keeps
    | (with_reducible refine foldl_keeps _ _ ?_ ?_; on_goal 2 => (intro t x ht; try beta_reduce))
    | (with_reducible refine foldl_keeps₂ _ _ _ ?_ ?_; on_goal 2 => (intro t b x ht; try dsimp -zeta only))
    | (simp -zeta only [keeps_mk]; with_reducible refine Keeps.at ?_)
    | with_reducible refine pair_keeps (by with_reducible assumption) ?_
    | split
    | (dsimp -zeta only)

theorem State_parityReplay_keeps {s₀ : State} (a0 : State) (a1 : Nat) (a2 : Nat) (h0 : Keeps s₀ a0) :
    Keeps s₀ (State.parityReplay a0 a1 a2) := by
  unfold State.parityReplay
  repeat' first
    | with_reducible assumption
    | with_reducible apply State_log_keeps
    | with_reducible apply State_bump_keeps

end Sys2Proof.Laws
end

