-- ==== Sys2Proof/Laws/KeepsMatrix.lean ====
section
/-! SUPPORT. What the operations of Machine/Matrix.lean keep (`Keeps`): one lemma for each. -/

set_option Elab.async false
set_option linter.all false

namespace Sys2Proof.Laws

open Sys2Proof Sys2Proof.Machine

theorem State_setToken_keeps {s₀ : State} (a0 : State) (a1 : Nat) (a2 : Nat) (a3 : Nat) (a4 : Token) (h0 : Keeps s₀ a0) :
    Keeps s₀ (State.setToken a0 a1 a2 a3 a4) := by
  unfold State.setToken
  repeat' first
    | with_reducible assumption
    | with_reducible apply State_adjOwner_keeps

theorem State_instFault_keeps {s₀ : State} (a0 : State) (a1 : Nat) (a2 : Nat) (a3 : Nat) (a4 : Nat) (a5 : Nat) (a6 : Nat) (a7 : LogAddr) (a8 : Nat) (h0 : Keeps s₀ a0) :
    Keeps s₀ (State.instFault a0 a1 a2 a3 a4 a5 a6 a7 a8) := by
  unfold State.instFault
  repeat' first
    | with_reducible assumption
    | (extract_lets +onlyGivenNames v; refine (fun (hv : Keeps s₀ v) => ?_) ?_; (on_goal 1 => clear_value v); (on_goal 2 => (dsimp -zeta only [v]; try clear v)))
    | (extract_lets +onlyGivenNames v; first | (have w : Mem := v; clear w) | (have w : DictState := v; clear w) | (have w : Fw := v; clear w) | clear_value v)
    | with_reducible apply State_logFault_keeps
    | with_reducible apply State_bump_keeps
    | with_reducible apply State_setToken_keeps

theorem State_issueFault_keeps {s₀ : State} (a0 : State) (a1 : GroupRef) (a2 : Nat) (a3 : Nat) (a4 : Nat) (a5 : LogAddr) (a6 : Nat) (h0 : Keeps s₀ a0) :
    Keeps s₀ (State.issueFault a0 a1 a2 a3 a4 a5 a6) := by
  unfold State.issueFault
  repeat' first
    | with_reducible assumption
    | (with_reducible intro x; try beta_reduce)
    | (extract_lets +onlyGivenNames v; refine (fun (hv : Keeps s₀ v) => ?_) ?_; (on_goal 1 => clear_value v); (on_goal 2 => (dsimp -zeta only [v]; try clear v)))
    | (extract_lets +onlyGivenNames v; refine (fun (hv : Keeps s₀ v.1) => ?_) ?_; (on_goal 1 => clear_value v); (on_goal 2 => (dsimp -zeta only [v]; try clear v)))
    | (extract_lets +onlyGivenNames v; first | (have w : Mem := v; clear w) | (have w : DictState := v; clear w) | (have w : Fw := v; clear w) | clear_value v)
    | with_reducible apply State_terminate_keeps
    | with_reducible apply State_logFault_keeps
    | with_reducible apply State_bump_keeps
    | (with_reducible refine foldl_keeps _ _ ?_ ?_; on_goal 2 => (intro t x ht; try beta_reduce))
    | (with_reducible refine foldl_keeps₂ _ _ _ ?_ ?_; on_goal 2 => (intro t b x ht; try dsimp -zeta only))
    | (simp -zeta only [keeps_mk]; with_reducible refine Keeps.at ?_)
    | with_reducible refine pair_keeps (by with_reducible assumption) ?_
    | split
    | (dsimp -zeta only)

theorem missue_keeps {s₀ : State} (a0 : GroupRef) (a1 : W64) (a2 : ParityHit) (a3 : State) (h3 : Keeps s₀ a3) :
    Keeps s₀ (Machine.missue a0 a1 a2 a3) := by
  unfold Machine.missue
  repeat' first
    | with_reducible assumption
    | (with_reducible intro x; try beta_reduce)
    | (extract_lets +onlyGivenNames v; refine (fun (hv : Keeps s₀ v) => ?_) ?_; (on_goal 1 => clear_value v); (on_goal 2 => (dsimp -zeta only [v]; try clear v)))
    | (extract_lets +onlyGivenNames v; refine (fun (hv : Keeps s₀ v.1) => ?_) ?_; (on_goal 1 => clear_value v); (on_goal 2 => (dsimp -zeta only [v]; try clear v)))
    | (extract_lets +onlyGivenNames v; first | (have w : Mem := v; clear w) | (have w : DictState := v; clear w) | (have w : Fw := v; clear w) | clear_value v)
    | with_reducible apply State_regParity_keeps
    | with_reducible apply State_issue_keeps
    | with_reducible apply State_threadFault_keeps
    | with_reducible apply State_poisonControl_keeps
    | with_reducible apply State_issueFault_keeps
    | with_reducible apply State_setToken_keeps
    | with_reducible apply State_adjTile_keeps
    | with_reducible apply State_advanceGroup_keeps
    | (with_reducible refine foldl_keeps _ _ ?_ ?_; on_goal 2 => (intro t x ht; try beta_reduce))
    | (with_reducible refine foldl_keeps₂ _ _ _ ?_ ?_; on_goal 2 => (intro t b x ht; try dsimp -zeta only))
    | (simp -zeta only [keeps_mk]; with_reducible refine Keeps.at ?_)
    | with_reducible refine pair_keeps (by with_reducible assumption) ?_
    | split
    | (dsimp -zeta only)

theorem tokenWait_keeps {s₀ : State} (a0 : Nat) (a1 : Bool) (a2 : GroupRef) (a3 : W64) (a4 : State) (h4 : Keeps s₀ a4) :
    Keeps s₀ (Machine.tokenWait a0 a1 a2 a3 a4) := by
  unfold Machine.tokenWait
  repeat' first
    | with_reducible assumption
    | (with_reducible intro x; try beta_reduce)
    | (extract_lets +onlyGivenNames v; refine (fun (hv : Keeps s₀ v) => ?_) ?_; (on_goal 1 => clear_value v); (on_goal 2 => (dsimp -zeta only [v]; try clear v)))
    | (extract_lets +onlyGivenNames v; first | (have w : Mem := v; clear w) | (have w : DictState := v; clear w) | (have w : Fw := v; clear w) | clear_value v)
    | with_reducible apply State_issue_keeps
    | with_reducible apply State_threadFault_keeps
    | with_reducible apply State_poisonControl_keeps
    | with_reducible apply State_bump_keeps
    | with_reducible apply State_adjGroup_keeps
    | with_reducible apply State_adjBlock_keeps
    | split

theorem mwait_keeps {s₀ : State} (a0 : GroupRef) (a1 : W64) (a2 : ParityHit) (a3 : State) (h3 : Keeps s₀ a3) :
    Keeps s₀ (Machine.mwait a0 a1 a2 a3) := by
  unfold Machine.mwait
  repeat' first
    | with_reducible assumption
    | (with_reducible intro x; try beta_reduce)
    | (extract_lets +onlyGivenNames v; refine (fun (hv : Keeps s₀ v) => ?_) ?_; (on_goal 1 => clear_value v); (on_goal 2 => (dsimp -zeta only [v]; try clear v)))
    | (extract_lets +onlyGivenNames v; refine (fun (hv : Keeps s₀ v.1) => ?_) ?_; (on_goal 1 => clear_value v); (on_goal 2 => (dsimp -zeta only [v]; try clear v)))
    | (extract_lets +onlyGivenNames v; first | (have w : Mem := v; clear w) | (have w : DictState := v; clear w) | (have w : Fw := v; clear w) | clear_value v)
    | with_reducible apply State_regParity_keeps
    | with_reducible apply tokenWait_keeps
    | (with_reducible refine foldl_keeps _ _ ?_ ?_; on_goal 2 => (intro t x ht; try beta_reduce))
    | (with_reducible refine foldl_keeps₂ _ _ _ ?_ ?_; on_goal 2 => (intro t b x ht; try dsimp -zeta only))
    | (simp -zeta only [keeps_mk]; with_reducible refine Keeps.at ?_)
    | with_reducible refine pair_keeps (by with_reducible assumption) ?_
    | split
    | (dsimp -zeta only)

theorem mpoll_keeps {s₀ : State} (a0 : GroupRef) (a1 : W64) (a2 : ParityHit) (a3 : State) (h3 : Keeps s₀ a3) :
    Keeps s₀ (Machine.mpoll a0 a1 a2 a3) := by
  unfold Machine.mpoll
  repeat' first
    | with_reducible assumption
    | (with_reducible intro x; try beta_reduce)
    | (extract_lets +onlyGivenNames v; refine (fun (hv : Keeps s₀ v) => ?_) ?_; (on_goal 1 => clear_value v); (on_goal 2 => (dsimp -zeta only [v]; try clear v)))
    | (extract_lets +onlyGivenNames v; refine (fun (hv : Keeps s₀ v.1) => ?_) ?_; (on_goal 1 => clear_value v); (on_goal 2 => (dsimp -zeta only [v]; try clear v)))
    | (extract_lets +onlyGivenNames v; first | (have w : Mem := v; clear w) | (have w : DictState := v; clear w) | (have w : Fw := v; clear w) | clear_value v)
    | with_reducible apply State_regParity_keeps
    | with_reducible apply tokenWait_keeps
    | (with_reducible refine foldl_keeps _ _ ?_ ?_; on_goal 2 => (intro t x ht; try beta_reduce))
    | (with_reducible refine foldl_keeps₂ _ _ _ ?_ ?_; on_goal 2 => (intro t b x ht; try dsimp -zeta only))
    | (simp -zeta only [keeps_mk]; with_reducible refine Keeps.at ?_)
    | with_reducible refine pair_keeps (by with_reducible assumption) ?_
    | split
    | (dsimp -zeta only)

theorem State_adjMatrix_keeps {s₀ : State} (a0 : State) (a1 : Nat) (a2 : Matrix → Matrix) (h0 : Keeps s₀ a0) :
    Keeps s₀ (State.adjMatrix a0 a1 a2) := by
  unfold State.adjMatrix
  repeat' first
    | with_reducible assumption
    | with_reducible apply State_adjTile_keeps

theorem State_countFlush_keeps {s₀ : State} (a0 : State) (a1 : Nat) (a2 : Nat) (h0 : Keeps s₀ a0) :
    Keeps s₀ (State.countFlush a0 a1 a2) := by
  unfold State.countFlush
  repeat' first
    | with_reducible assumption
    | (with_reducible intro x; try beta_reduce)
    | (extract_lets +onlyGivenNames v; refine (fun (hv : Keeps s₀ v) => ?_) ?_; (on_goal 1 => clear_value v); (on_goal 2 => (dsimp -zeta only [v]; try clear v)))
    | (extract_lets +onlyGivenNames v; refine (fun (hv : Keeps s₀ v.1) => ?_) ?_; (on_goal 1 => clear_value v); (on_goal 2 => (dsimp -zeta only [v]; try clear v)))
    | (extract_lets +onlyGivenNames v; first | (have w : Mem := v; clear w) | (have w : DictState := v; clear w) | (have w : Fw := v; clear w) | clear_value v)
    | with_reducible apply State_bump_keeps
    | (with_reducible refine foldl_keeps _ _ ?_ ?_; on_goal 2 => (intro t x ht; try beta_reduce))
    | (with_reducible refine foldl_keeps₂ _ _ _ ?_ ?_; on_goal 2 => (intro t b x ht; try dsimp -zeta only))
    | (simp -zeta only [keeps_mk]; with_reducible refine Keeps.at ?_)
    | with_reducible refine pair_keeps (by with_reducible assumption) ?_
    | split
    | (dsimp -zeta only)

theorem matrixDispatch_keeps {s₀ : State} (a0 : Nat) (a1 : State) (h1 : Keeps s₀ a1) :
    Keeps s₀ (Machine.matrixDispatch a0 a1) := by
  unfold Machine.matrixDispatch
  repeat' first
    | with_reducible assumption
    | (with_reducible intro x; try beta_reduce)
    | (extract_lets +onlyGivenNames v; refine (fun (hv : Keeps s₀ v) => ?_) ?_; (on_goal 1 => clear_value v); (on_goal 2 => (dsimp -zeta only [v]; try clear v)))
    | (extract_lets +onlyGivenNames v; refine (fun (hv : Keeps s₀ v.1) => ?_) ?_; (on_goal 1 => clear_value v); (on_goal 2 => (dsimp -zeta only [v]; try clear v)))
    | (extract_lets +onlyGivenNames v; first | (have w : Mem := v; clear w) | (have w : DictState := v; clear w) | (have w : Fw := v; clear w) | clear_value v)
    | with_reducible apply State_adjMatrix_keeps
    | (with_reducible refine foldl_keeps _ _ ?_ ?_; on_goal 2 => (intro t x ht; try beta_reduce))
    | (with_reducible refine foldl_keeps₂ _ _ _ ?_ ?_; on_goal 2 => (intro t b x ht; try dsimp -zeta only))
    | (simp -zeta only [keeps_mk]; with_reducible refine Keeps.at ?_)
    | with_reducible refine pair_keeps (by with_reducible assumption) ?_
    | split
    | (dsimp -zeta only)

theorem State_weightScales_keeps {s₀ : State} (a0 : State) (a1 : Nat) (a2 : MInstr) (h0 : Keeps s₀ a0) :
    Keeps s₀ (State.weightScales a0 a1 a2).1 := by
  unfold State.weightScales
  repeat' first
    | with_reducible assumption
    | (with_reducible intro x; try beta_reduce)
    | (extract_lets +onlyGivenNames v; refine (fun (hv : Keeps s₀ v) => ?_) ?_; (on_goal 1 => clear_value v); (on_goal 2 => (dsimp -zeta only [v]; try clear v)))
    | (extract_lets +onlyGivenNames v; refine (fun (hv : Keeps s₀ v.1) => ?_) ?_; (on_goal 1 => clear_value v); (on_goal 2 => (dsimp -zeta only [v]; try clear v)))
    | (extract_lets +onlyGivenNames v; first | (have w : Mem := v; clear w) | (have w : DictState := v; clear w) | (have w : Fw := v; clear w) | clear_value v)
    | with_reducible apply State_poisonHalted_keeps
    | (with_reducible refine foldl_keeps _ _ ?_ ?_; on_goal 2 => (intro t x ht; try beta_reduce))
    | (with_reducible refine foldl_keeps₂ _ _ _ ?_ ?_; on_goal 2 => (intro t b x ht; try dsimp -zeta only))
    | (simp -zeta only [keeps_mk]; with_reducible refine Keeps.at ?_)
    | with_reducible refine pair_keeps (by with_reducible assumption) ?_
    | split
    | (dsimp -zeta only)

theorem State_weightRows_keeps {s₀ : State} (a0 : Nat) (a1 : MInstr) (a2 : Nat) (a3 : Nat) (a4 : List (List Elt)) (a5 : List SectorVal) (a6 : State) (h6 : Keeps s₀ a6) :
    Keeps s₀ (State.weightRows a0 a1 a2 a3 a4 a5 a6).1 := by
  induction a2 generalizing a0 a1 a3 a4 a5 a6 with
  | zero =>
    rw [State.weightRows]
    repeat' first
      | with_reducible assumption
      | (with_reducible intro x; try beta_reduce)
      | (extract_lets +onlyGivenNames v; refine (fun (hv : Keeps s₀ v) => ?_) ?_; (on_goal 1 => clear_value v); (on_goal 2 => (dsimp -zeta only [v]; try clear v)))
      | (extract_lets +onlyGivenNames v; refine (fun (hv : Keeps s₀ v.1) => ?_) ?_; (on_goal 1 => clear_value v); (on_goal 2 => (dsimp -zeta only [v]; try clear v)))
      | (extract_lets +onlyGivenNames v; first | (have w : Mem := v; clear w) | (have w : DictState := v; clear w) | (have w : Fw := v; clear w) | clear_value v)
      | with_reducible apply ih
      | with_reducible apply State_gather_keeps
      | (with_reducible refine foldl_keeps _ _ ?_ ?_; on_goal 2 => (intro t x ht; try beta_reduce))
      | (with_reducible refine foldl_keeps₂ _ _ _ ?_ ?_; on_goal 2 => (intro t b x ht; try dsimp -zeta only))
      | (simp -zeta only [keeps_mk]; with_reducible refine Keeps.at ?_)
      | with_reducible refine pair_keeps (by with_reducible assumption) ?_
      | split
      | (dsimp -zeta only)
  | succ n ih =>
    rw [State.weightRows]
    repeat' first
      | with_reducible assumption
      | (with_reducible intro x; try beta_reduce)
      | (extract_lets +onlyGivenNames v; refine (fun (hv : Keeps s₀ v) => ?_) ?_; (on_goal 1 => clear_value v); (on_goal 2 => (dsimp -zeta only [v]; try clear v)))
      | (extract_lets +onlyGivenNames v; refine (fun (hv : Keeps s₀ v.1) => ?_) ?_; (on_goal 1 => clear_value v); (on_goal 2 => (dsimp -zeta only [v]; try clear v)))
      | (extract_lets +onlyGivenNames v; first | (have w : Mem := v; clear w) | (have w : DictState := v; clear w) | (have w : Fw := v; clear w) | clear_value v)
      | with_reducible apply ih
      | with_reducible apply State_gather_keeps
      | (with_reducible refine foldl_keeps _ _ ?_ ?_; on_goal 2 => (intro t x ht; try beta_reduce))
      | (with_reducible refine foldl_keeps₂ _ _ _ ?_ ?_; on_goal 2 => (intro t b x ht; try dsimp -zeta only))
      | (simp -zeta only [keeps_mk]; with_reducible refine Keeps.at ?_)
      | with_reducible refine pair_keeps (by with_reducible assumption) ?_
      | split
      | (dsimp -zeta only)

theorem State_loadFault_keeps {s₀ : State} (a0 : State) (a1 : Nat) (a2 : MInstr) (a3 : Nat) (a4 : LogAddr) (h0 : Keeps s₀ a0) :
    Keeps s₀ (State.loadFault a0 a1 a2 a3 a4) := by
  unfold State.loadFault
  repeat' first
    | with_reducible assumption
    | (with_reducible intro x; try beta_reduce)
    | (extract_lets +onlyGivenNames v; refine (fun (hv : Keeps s₀ v) => ?_) ?_; (on_goal 1 => clear_value v); (on_goal 2 => (dsimp -zeta only [v]; try clear v)))
    | (extract_lets +onlyGivenNames v; refine (fun (hv : Keeps s₀ v.1) => ?_) ?_; (on_goal 1 => clear_value v); (on_goal 2 => (dsimp -zeta only [v]; try clear v)))
    | (extract_lets +onlyGivenNames v; first | (have w : Mem := v; clear w) | (have w : DictState := v; clear w) | (have w : Fw := v; clear w) | clear_value v)
    | with_reducible apply State_adjMatrix_keeps
    | with_reducible apply State_instFault_keeps
    | (with_reducible refine foldl_keeps _ _ ?_ ?_; on_goal 2 => (intro t x ht; try beta_reduce))
    | (with_reducible refine foldl_keeps₂ _ _ _ ?_ ?_; on_goal 2 => (intro t b x ht; try dsimp -zeta only))
    | (simp -zeta only [keeps_mk]; with_reducible refine Keeps.at ?_)
    | with_reducible refine pair_keeps (by with_reducible assumption) ?_
    | split
    | (dsimp -zeta only)

theorem State_runLoad_keeps {s₀ : State} (a0 : State) (a1 : Nat) (a2 : MInstr) (a3 : List (List Elt)) (a4 : List SectorVal) (h0 : Keeps s₀ a0) :
    Keeps s₀ (State.runLoad a0 a1 a2 a3 a4) := by
  unfold State.runLoad
  repeat' first
    | with_reducible assumption
    | (with_reducible intro x; try beta_reduce)
    | (extract_lets +onlyGivenNames v; refine (fun (hv : Keeps s₀ v) => ?_) ?_; (on_goal 1 => clear_value v); (on_goal 2 => (dsimp -zeta only [v]; try clear v)))
    | (extract_lets +onlyGivenNames v; refine (fun (hv : Keeps s₀ v.1) => ?_) ?_; (on_goal 1 => clear_value v); (on_goal 2 => (dsimp -zeta only [v]; try clear v)))
    | (extract_lets +onlyGivenNames v; first | (have w : Mem := v; clear w) | (have w : DictState := v; clear w) | (have w : Fw := v; clear w) | clear_value v)
    | with_reducible apply State_weightScales_keeps
    | with_reducible apply State_loadFault_keeps
    | with_reducible apply State_weightRows_keeps
    | with_reducible apply State_adjMatrix_keeps
    | with_reducible apply State_violation_keeps
    | with_reducible apply State_dropLines_keeps
    | (with_reducible refine foldl_keeps _ _ ?_ ?_; on_goal 2 => (intro t x ht; try beta_reduce))
    | (with_reducible refine foldl_keeps₂ _ _ _ ?_ ?_; on_goal 2 => (intro t b x ht; try dsimp -zeta only))
    | (simp -zeta only [keeps_mk]; with_reducible refine Keeps.at ?_)
    | with_reducible refine pair_keeps (by with_reducible assumption) ?_
    | split
    | (dsimp -zeta only)

theorem gauzeFrontStart_keeps {s₀ : State} (a0 : Nat) (a1 : Nat) (a2 : Nat) (a3 : State) (h3 : Keeps s₀ a3) :
    Keeps s₀ (Machine.gauzeFrontStart a0 a1 a2 a3) := by
  unfold Machine.gauzeFrontStart
  repeat' first
    | with_reducible assumption
    | (with_reducible intro x; try beta_reduce)
    | (extract_lets +onlyGivenNames v; refine (fun (hv : Keeps s₀ v) => ?_) ?_; (on_goal 1 => clear_value v); (on_goal 2 => (dsimp -zeta only [v]; try clear v)))
    | (extract_lets +onlyGivenNames v; refine (fun (hv : Keeps s₀ v.1) => ?_) ?_; (on_goal 1 => clear_value v); (on_goal 2 => (dsimp -zeta only [v]; try clear v)))
    | (extract_lets +onlyGivenNames v; first | (have w : Mem := v; clear w) | (have w : DictState := v; clear w) | (have w : Fw := v; clear w) | clear_value v)
    | with_reducible apply State_runLoad_keeps
    | with_reducible apply State_bump_keeps
    | (with_reducible refine foldl_keeps _ _ ?_ ?_; on_goal 2 => (intro t x ht; try beta_reduce))
    | (with_reducible refine foldl_keeps₂ _ _ _ ?_ ?_; on_goal 2 => (intro t b x ht; try dsimp -zeta only))
    | (simp -zeta only [keeps_mk]; with_reducible refine Keeps.at ?_)
    | with_reducible refine pair_keeps (by with_reducible assumption) ?_
    | split
    | (dsimp -zeta only)

theorem gauzeFrontResume_keeps {s₀ : State} (a0 : Nat) (a1 : Nat) (a2 : Nat) (a3 : State) (h3 : Keeps s₀ a3) :
    Keeps s₀ (Machine.gauzeFrontResume a0 a1 a2 a3) := by
  unfold Machine.gauzeFrontResume
  repeat' first
    | with_reducible assumption
    | (with_reducible intro x; try beta_reduce)
    | (extract_lets +onlyGivenNames v; refine (fun (hv : Keeps s₀ v) => ?_) ?_; (on_goal 1 => clear_value v); (on_goal 2 => (dsimp -zeta only [v]; try clear v)))
    | (extract_lets +onlyGivenNames v; refine (fun (hv : Keeps s₀ v.1) => ?_) ?_; (on_goal 1 => clear_value v); (on_goal 2 => (dsimp -zeta only [v]; try clear v)))
    | (extract_lets +onlyGivenNames v; first | (have w : Mem := v; clear w) | (have w : DictState := v; clear w) | (have w : Fw := v; clear w) | clear_value v)
    | with_reducible apply State_runLoad_keeps
    | with_reducible apply State_bump_keeps
    | (with_reducible refine foldl_keeps _ _ ?_ ?_; on_goal 2 => (intro t x ht; try beta_reduce))
    | (with_reducible refine foldl_keeps₂ _ _ _ ?_ ?_; on_goal 2 => (intro t b x ht; try dsimp -zeta only))
    | (simp -zeta only [keeps_mk]; with_reducible refine Keeps.at ?_)
    | with_reducible refine pair_keeps (by with_reducible assumption) ?_
    | split
    | (dsimp -zeta only)

theorem flushLoad_keeps {s₀ : State} (a0 : Nat) (a1 : Nat) (a2 : State) (h2 : Keeps s₀ a2) :
    Keeps s₀ (Machine.flushLoad a0 a1 a2) := by
  unfold Machine.flushLoad
  repeat' first
    | with_reducible assumption
    | (with_reducible intro x; try beta_reduce)
    | (extract_lets +onlyGivenNames v; refine (fun (hv : Keeps s₀ v) => ?_) ?_; (on_goal 1 => clear_value v); (on_goal 2 => (dsimp -zeta only [v]; try clear v)))
    | (extract_lets +onlyGivenNames v; refine (fun (hv : Keeps s₀ v.1) => ?_) ?_; (on_goal 1 => clear_value v); (on_goal 2 => (dsimp -zeta only [v]; try clear v)))
    | (extract_lets +onlyGivenNames v; first | (have w : Mem := v; clear w) | (have w : DictState := v; clear w) | (have w : Fw := v; clear w) | clear_value v)
    | with_reducible apply State_countFlush_keeps
    | with_reducible apply State_adjMatrix_keeps
    | with_reducible apply State_runLoad_keeps
    | (with_reducible refine foldl_keeps _ _ ?_ ?_; on_goal 2 => (intro t x ht; try beta_reduce))
    | (with_reducible refine foldl_keeps₂ _ _ _ ?_ ?_; on_goal 2 => (intro t b x ht; try dsimp -zeta only))
    | (simp -zeta only [keeps_mk]; with_reducible refine Keeps.at ?_)
    | with_reducible refine pair_keeps (by with_reducible assumption) ?_
    | split
    | (dsimp -zeta only)

theorem shapeChange_keeps {s₀ : State} (a0 : Nat) (a1 : State) (h1 : Keeps s₀ a1) :
    Keeps s₀ (Machine.shapeChange a0 a1) := by
  unfold Machine.shapeChange
  repeat' first
    | with_reducible assumption
    | (with_reducible intro x; try beta_reduce)
    | (extract_lets +onlyGivenNames v; refine (fun (hv : Keeps s₀ v) => ?_) ?_; (on_goal 1 => clear_value v); (on_goal 2 => (dsimp -zeta only [v]; try clear v)))
    | (extract_lets +onlyGivenNames v; refine (fun (hv : Keeps s₀ v.1) => ?_) ?_; (on_goal 1 => clear_value v); (on_goal 2 => (dsimp -zeta only [v]; try clear v)))
    | (extract_lets +onlyGivenNames v; first | (have w : Mem := v; clear w) | (have w : DictState := v; clear w) | (have w : Fw := v; clear w) | clear_value v)
    | with_reducible apply State_countFlush_keeps
    | with_reducible apply State_adjMatrix_keeps
    | with_reducible apply State_runLoad_keeps
    | (with_reducible refine foldl_keeps _ _ ?_ ?_; on_goal 2 => (intro t x ht; try beta_reduce))
    | (with_reducible refine foldl_keeps₂ _ _ _ ?_ ?_; on_goal 2 => (intro t b x ht; try dsimp -zeta only))
    | (simp -zeta only [keeps_mk]; with_reducible refine Keeps.at ?_)
    | with_reducible refine pair_keeps (by with_reducible assumption) ?_
    | split
    | (dsimp -zeta only)

theorem State_rowFault_keeps {s₀ : State} (a0 : State) (a1 : Nat) (a2 : MInstr) (a3 : Nat) (a4 : LogAddr) (h0 : Keeps s₀ a0) :
    Keeps s₀ (State.rowFault a0 a1 a2 a3 a4) := by
  unfold State.rowFault
  repeat' first
    | with_reducible assumption
    | (extract_lets +onlyGivenNames v; refine (fun (hv : Keeps s₀ v) => ?_) ?_; (on_goal 1 => clear_value v); (on_goal 2 => (dsimp -zeta only [v]; try clear v)))
    | with_reducible apply State_adjMatrix_keeps
    | with_reducible apply State_instFault_keeps

theorem State_topkFromC_keeps {s₀ : State} (a0 : Nat) (a1 : MInstr) (a2 : Nat) (a3 : Nat) (a4 : State) (h4 : Keeps s₀ a4) :
    Keeps s₀ (State.topkFromC a0 a1 a2 a3 a4).1 := by
  induction a2 generalizing a0 a1 a3 a4 with
  | zero =>
    rw [State.topkFromC]
    repeat' first
      | with_reducible assumption
      | (with_reducible intro x; try beta_reduce)
      | (extract_lets +onlyGivenNames v; refine (fun (hv : Keeps s₀ v) => ?_) ?_; (on_goal 1 => clear_value v); (on_goal 2 => (dsimp -zeta only [v]; try clear v)))
      | (extract_lets +onlyGivenNames v; refine (fun (hv : Keeps s₀ v.1) => ?_) ?_; (on_goal 1 => clear_value v); (on_goal 2 => (dsimp -zeta only [v]; try clear v)))
      | (extract_lets +onlyGivenNames v; first | (have w : Mem := v; clear w) | (have w : DictState := v; clear w) | (have w : Fw := v; clear w) | clear_value v)
      | with_reducible apply ih
      | with_reducible apply State_opRow_keeps
      | (with_reducible refine foldl_keeps _ _ ?_ ?_; on_goal 2 => (intro t x ht; try beta_reduce))
      | (with_reducible refine foldl_keeps₂ _ _ _ ?_ ?_; on_goal 2 => (intro t b x ht; try dsimp -zeta only))
      | (simp -zeta only [keeps_mk]; with_reducible refine Keeps.at ?_)
      | with_reducible refine pair_keeps (by with_reducible assumption) ?_
      | split
      | (dsimp -zeta only)
  | succ n ih =>
    rw [State.topkFromC]
    repeat' first
      | with_reducible assumption
      | (with_reducible intro x; try beta_reduce)
      | (extract_lets +onlyGivenNames v; refine (fun (hv : Keeps s₀ v) => ?_) ?_; (on_goal 1 => clear_value v); (on_goal 2 => (dsimp -zeta only [v]; try clear v)))
      | (extract_lets +onlyGivenNames v; refine (fun (hv : Keeps s₀ v.1) => ?_) ?_; (on_goal 1 => clear_value v); (on_goal 2 => (dsimp -zeta only [v]; try clear v)))
      | (extract_lets +onlyGivenNames v; first | (have w : Mem := v; clear w) | (have w : DictState := v; clear w) | (have w : Fw := v; clear w) | clear_value v)
      | with_reducible apply ih
      | with_reducible apply State_opRow_keeps
      | (with_reducible refine foldl_keeps _ _ ?_ ?_; on_goal 2 => (intro t x ht; try beta_reduce))
      | (with_reducible refine foldl_keeps₂ _ _ _ ?_ ?_; on_goal 2 => (intro t b x ht; try dsimp -zeta only))
      | (simp -zeta only [keeps_mk]; with_reducible refine Keeps.at ?_)
      | with_reducible refine pair_keeps (by with_reducible assumption) ?_
      | split
      | (dsimp -zeta only)

theorem State_topkStart_keeps {s₀ : State} (a0 : State) (a1 : Nat) (a2 : MInstr) (h0 : Keeps s₀ a0) :
    Keeps s₀ (State.topkStart a0 a1 a2).1 := by
  unfold State.topkStart
  repeat' first
    | with_reducible assumption
    | (with_reducible intro x; try beta_reduce)
    | (extract_lets +onlyGivenNames v; refine (fun (hv : Keeps s₀ v) => ?_) ?_; (on_goal 1 => clear_value v); (on_goal 2 => (dsimp -zeta only [v]; try clear v)))
    | (extract_lets +onlyGivenNames v; refine (fun (hv : Keeps s₀ v.1) => ?_) ?_; (on_goal 1 => clear_value v); (on_goal 2 => (dsimp -zeta only [v]; try clear v)))
    | (extract_lets +onlyGivenNames v; first | (have w : Mem := v; clear w) | (have w : DictState := v; clear w) | (have w : Fw := v; clear w) | clear_value v)
    | with_reducible apply State_topkFromC_keeps
    | (with_reducible refine foldl_keeps _ _ ?_ ?_; on_goal 2 => (intro t x ht; try beta_reduce))
    | (with_reducible refine foldl_keeps₂ _ _ _ ?_ ?_; on_goal 2 => (intro t b x ht; try dsimp -zeta only))
    | (simp -zeta only [keeps_mk]; with_reducible refine Keeps.at ?_)
    | with_reducible refine pair_keeps (by with_reducible assumption) ?_
    | split
    | (dsimp -zeta only)

theorem State_issueRow_keeps {s₀ : State} (a0 : State) (a1 : Nat) (a2 : Nat) (a3 : MInstr) (a4 : Weights) (a5 : Nat) (a6 : State) (h0 : Keeps s₀ a0) (h6 : Keeps s₀ a6) :
    Keeps s₀ (State.issueRow a0 a1 a2 a3 a4 a5 a6) := by
  unfold State.issueRow
  repeat' first
    | with_reducible assumption
    | (with_reducible intro x; try beta_reduce)
    | (extract_lets +onlyGivenNames v; refine (fun (hv : Keeps s₀ v) => ?_) ?_; (on_goal 1 => clear_value v); (on_goal 2 => (dsimp -zeta only [v]; try clear v)))
    | (extract_lets +onlyGivenNames v; refine (fun (hv : Keeps s₀ v.1) => ?_) ?_; (on_goal 1 => clear_value v); (on_goal 2 => (dsimp -zeta only [v]; try clear v)))
    | (extract_lets +onlyGivenNames v; first | (have w : Mem := v; clear w) | (have w : DictState := v; clear w) | (have w : Fw := v; clear w) | clear_value v)
    | with_reducible apply State_rowFault_keeps
    | with_reducible apply State_violation_keeps
    | with_reducible apply State_opRow_keeps
    | with_reducible apply State_keepDefer_keeps
    | with_reducible apply State_poisonHalted_keeps
    | with_reducible apply State_topkStart_keeps
    | with_reducible apply State_adjMatrix_keeps
    | with_reducible apply State_dropLines_keeps
    | (with_reducible refine foldl_keeps _ _ ?_ ?_; on_goal 2 => (intro t x ht; try beta_reduce))
    | (with_reducible refine foldl_keeps₂ _ _ _ ?_ ?_; on_goal 2 => (intro t b x ht; try dsimp -zeta only))
    | (simp -zeta only [keeps_mk]; with_reducible refine Keeps.at ?_)
    | with_reducible refine pair_keeps (by with_reducible assumption) ?_
    | split
    | (dsimp -zeta only)

theorem activationRowIssue_keeps {s₀ : State} (a0 : Nat) (a1 : Nat) (a2 : ParityHit) (a3 : ErrHit) (a4 : State) (h4 : Keeps s₀ a4) :
    Keeps s₀ (Machine.activationRowIssue a0 a1 a2 a3 a4) := by
  unfold Machine.activationRowIssue
  repeat' first
    | with_reducible assumption
    | (with_reducible intro x; try beta_reduce)
    | (extract_lets +onlyGivenNames v; refine (fun (hv : Keeps s₀ v) => ?_) ?_; (on_goal 1 => clear_value v); (on_goal 2 => (dsimp -zeta only [v]; try clear v)))
    | (extract_lets +onlyGivenNames v; refine (fun (hv : Keeps s₀ v.1) => ?_) ?_; (on_goal 1 => clear_value v); (on_goal 2 => (dsimp -zeta only [v]; try clear v)))
    | (extract_lets +onlyGivenNames v; first | (have w : Mem := v; clear w) | (have w : DictState := v; clear w) | (have w : Fw := v; clear w) | clear_value v)
    | with_reducible apply State_parityReplay_keeps
    | with_reducible apply State_faultService_keeps
    | with_reducible apply State_rowFault_keeps
    | with_reducible apply State_issueRow_keeps
    | with_reducible apply State_operandError_keeps
    | (with_reducible refine foldl_keeps _ _ ?_ ?_; on_goal 2 => (intro t x ht; try beta_reduce))
    | (with_reducible refine foldl_keeps₂ _ _ _ ?_ ?_; on_goal 2 => (intro t b x ht; try dsimp -zeta only))
    | (simp -zeta only [keeps_mk]; with_reducible refine Keeps.at ?_)
    | with_reducible refine pair_keeps (by with_reducible assumption) ?_
    | split
    | (dsimp -zeta only)

theorem State_drainRows_keeps {s₀ : State} (a0 : W64) (a1 : Nat) (a2 : MInstr) (a3 : Nat) (a4 : List (List RegVal)) (a5 : CStat) (a6 : State) (h6 : Keeps s₀ a6) :
    Keeps s₀ (State.drainRows a0 a1 a2 a3 a4 a5 a6).1 := by
  induction a4 generalizing a0 a1 a2 a3 a5 a6 with
  | nil =>
    rw [State.drainRows]
    repeat' with_reducible assumption
  | cons x l ih =>
    rw [State.drainRows]
    repeat' first
      | with_reducible assumption
      | with_reducible apply ih
      | with_reducible apply State_destBytes_keeps
      | with_reducible refine pair_keeps (by with_reducible assumption) ?_
      | split

theorem State_drainTopk_keeps {s₀ : State} (a0 : Nat) (a1 : MInstr) (a2 : Nat) (a3 : List (List (W32 × W32))) (a4 : List (Option PoisonClass)) (a5 : CStat) (a6 : State) (h6 : Keeps s₀ a6) :
    Keeps s₀ (State.drainTopk a0 a1 a2 a3 a4 a5 a6).1 := by
  induction a3 generalizing a0 a1 a2 a4 a5 a6 with
  | nil =>
    rw [State.drainTopk]
    repeat' with_reducible assumption
  | cons x l ih =>
    rw [State.drainTopk]
    repeat' first
      | with_reducible assumption
      | with_reducible apply ih
      | with_reducible apply State_destBytes_keeps
      | with_reducible refine pair_keeps (by with_reducible assumption) ?_
      | split

theorem State_drainBank_keeps {s₀ : State} (a0 : State) (a1 : Nat) (a2 : Nat) (a3 : Bank) (a4 : MInstr) (a5 : State) (h0 : Keeps s₀ a0) (h5 : Keeps s₀ a5) :
    Keeps s₀ (State.drainBank a0 a1 a2 a3 a4 a5) := by
  unfold State.drainBank
  repeat' first
    | with_reducible assumption
    | (with_reducible intro x; try beta_reduce)
    | (extract_lets +onlyGivenNames v; refine (fun (hv : Keeps s₀ v) => ?_) ?_; (on_goal 1 => clear_value v); (on_goal 2 => (dsimp -zeta only [v]; try clear v)))
    | (extract_lets +onlyGivenNames v; refine (fun (hv : Keeps s₀ v.1) => ?_) ?_; (on_goal 1 => clear_value v); (on_goal 2 => (dsimp -zeta only [v]; try clear v)))
    | (extract_lets +onlyGivenNames v; first | (have w : Mem := v; clear w) | (have w : DictState := v; clear w) | (have w : Fw := v; clear w) | clear_value v)
    | with_reducible apply State_rowFault_keeps
    | with_reducible apply State_violation_keeps
    | with_reducible apply State_drainTopk_keeps
    | with_reducible apply State_drainRows_keeps
    | with_reducible apply State_keepDefer_keeps
    | with_reducible apply State_bump_keeps
    | with_reducible apply State_raiseSat_keeps
    | with_reducible apply State_adjMatrix_keeps
    | (with_reducible refine foldl_keeps _ _ ?_ ?_; on_goal 2 => (intro t x ht; try beta_reduce))
    | (with_reducible refine foldl_keeps₂ _ _ _ ?_ ?_; on_goal 2 => (intro t b x ht; try dsimp -zeta only))
    | (simp -zeta only [keeps_mk]; with_reducible refine Keeps.at ?_)
    | with_reducible refine pair_keeps (by with_reducible assumption) ?_
    | split
    | (dsimp -zeta only)

theorem resultBankDrain_keeps {s₀ : State} (a0 : Nat) (a1 : Nat) (a2 : ParityHit) (a3 : State) (h3 : Keeps s₀ a3) :
    Keeps s₀ (Machine.resultBankDrain a0 a1 a2 a3) := by
  unfold Machine.resultBankDrain
  repeat' first
    | with_reducible assumption
    | (with_reducible intro x; try beta_reduce)
    | (extract_lets +onlyGivenNames v; refine (fun (hv : Keeps s₀ v) => ?_) ?_; (on_goal 1 => clear_value v); (on_goal 2 => (dsimp -zeta only [v]; try clear v)))
    | (extract_lets +onlyGivenNames v; refine (fun (hv : Keeps s₀ v.1) => ?_) ?_; (on_goal 1 => clear_value v); (on_goal 2 => (dsimp -zeta only [v]; try clear v)))
    | (extract_lets +onlyGivenNames v; first | (have w : Mem := v; clear w) | (have w : DictState := v; clear w) | (have w : Fw := v; clear w) | clear_value v)
    | with_reducible apply State_parityReplay_keeps
    | with_reducible apply State_faultService_keeps
    | with_reducible apply State_drainBank_keeps
    | (with_reducible refine foldl_keeps _ _ ?_ ?_; on_goal 2 => (intro t x ht; try beta_reduce))
    | (with_reducible refine foldl_keeps₂ _ _ _ ?_ ?_; on_goal 2 => (intro t b x ht; try dsimp -zeta only))
    | (simp -zeta only [keeps_mk]; with_reducible refine Keeps.at ?_)
    | with_reducible refine pair_keeps (by with_reducible assumption) ?_
    | split
    | (dsimp -zeta only)

theorem matrixComplete_keeps {s₀ : State} (a0 : Nat) (a1 : Nat) (a2 : State) (h2 : Keeps s₀ a2) :
    Keeps s₀ (Machine.matrixComplete a0 a1 a2) := by
  unfold Machine.matrixComplete
  repeat' first
    | with_reducible assumption
    | (with_reducible intro x; try beta_reduce)
    | (extract_lets +onlyGivenNames v; refine (fun (hv : Keeps s₀ v) => ?_) ?_; (on_goal 1 => clear_value v); (on_goal 2 => (dsimp -zeta only [v]; try clear v)))
    | (extract_lets +onlyGivenNames v; refine (fun (hv : Keeps s₀ v.1) => ?_) ?_; (on_goal 1 => clear_value v); (on_goal 2 => (dsimp -zeta only [v]; try clear v)))
    | (extract_lets +onlyGivenNames v; first | (have w : Mem := v; clear w) | (have w : DictState := v; clear w) | (have w : Fw := v; clear w) | clear_value v)
    | with_reducible apply State_destSector_keeps
    | with_reducible apply State_bump_keeps
    | with_reducible apply State_setToken_keeps
    | with_reducible apply State_adjMatrix_keeps
    | (with_reducible refine foldl_keeps _ _ ?_ ?_; on_goal 2 => (intro t x ht; try beta_reduce))
    | (with_reducible refine foldl_keeps₂ _ _ _ ?_ ?_; on_goal 2 => (intro t b x ht; try dsimp -zeta only))
    | (simp -zeta only [keeps_mk]; with_reducible refine Keeps.at ?_)
    | with_reducible refine pair_keeps (by with_reducible assumption) ?_
    | split
    | (dsimp -zeta only)

end Sys2Proof.Laws
end

