-- ==== Sys2Proof/Laws/KeepsConvert.lean ====
section
/-! SUPPORT. What the operations of Machine/Convert.lean keep (`Keeps`): one lemma for each. -/

set_option Elab.async false
set_option linter.all false

namespace Sys2Proof.Laws

open Sys2Proof Sys2Proof.Machine

theorem convert_keeps {s₀ : State} (a0 : GroupRef) (a1 : W64) (a2 : ParityHit) (a3 : State) (h3 : Keeps s₀ a3) :
    Keeps s₀ (Machine.convert a0 a1 a2 a3) := by
  unfold Machine.convert
  repeat' first
    | with_reducible assumption
    | (with_reducible intro x; try beta_reduce)
    | (extract_lets +onlyGivenNames v; refine (fun (hv : Keeps s₀ v) => ?_) ?_; (on_goal 1 => clear_value v); (on_goal 2 => (dsimp -zeta only [v]; try clear v)))
    | (extract_lets +onlyGivenNames v; refine (fun (hv : Keeps s₀ v.1) => ?_) ?_; (on_goal 1 => clear_value v); (on_goal 2 => (dsimp -zeta only [v]; try clear v)))
    | (extract_lets +onlyGivenNames v; first | (have w : Mem := v; clear w) | (have w : DictState := v; clear w) | (have w : Fw := v; clear w) | clear_value v)
    | with_reducible apply State_regParity_keeps
    | with_reducible apply State_issue_keeps
    | with_reducible apply State_threadFault_keeps
    | with_reducible apply State_poisonControl_keeps
    | with_reducible apply State_issueFault_keeps
    | with_reducible apply State_setToken_keeps
    | with_reducible apply State_adjTile_keeps
    | with_reducible apply State_advanceGroup_keeps
    | (with_reducible refine foldl_keeps _ _ ?_ ?_; on_goal 2 => (intro t x ht; try beta_reduce))
    | (with_reducible refine foldl_keeps₂ _ _ _ ?_ ?_; on_goal 2 => (intro t b x ht; try dsimp -zeta only))
    | (simp -zeta only [keeps_mk]; with_reducible refine Keeps.at ?_)
    | with_reducible refine pair_keeps (by with_reducible assumption) ?_
    | split
    | (dsimp -zeta only)

theorem State_sourceRows_keeps {s₀ : State} (a0 : Nat) (a1 : Nat) (a2 : CDesc) (a3 : Nat) (a4 : Nat) (a5 : State) (h5 : Keeps s₀ a5) :
    Keeps s₀ (State.sourceRows a0 a1 a2 a3 a4 a5).1 := by
  induction a3 generalizing a0 a1 a2 a4 a5 with
  | zero =>
    rw [State.sourceRows]
    repeat' with_reducible assumption
  | succ n ih =>
    rw [State.sourceRows]
    repeat' first
      | with_reducible assumption
      | with_reducible apply ih
      | with_reducible apply State_opRow_keeps
      | with_reducible refine pair_keeps (by with_reducible assumption) ?_
      | split

theorem State_wholeScale_keeps {s₀ : State} (a0 : State) (a1 : Nat) (a2 : CInstr) (h0 : Keeps s₀ a0) :
    Keeps s₀ (State.wholeScale a0 a1 a2).1 := by
  unfold State.wholeScale
  repeat' first
    | with_reducible assumption
    | (with_reducible intro x; try beta_reduce)
    | (extract_lets +onlyGivenNames v; refine (fun (hv : Keeps s₀ v) => ?_) ?_; (on_goal 1 => clear_value v); (on_goal 2 => (dsimp -zeta only [v]; try clear v)))
    | (extract_lets +onlyGivenNames v; refine (fun (hv : Keeps s₀ v.1) => ?_) ?_; (on_goal 1 => clear_value v); (on_goal 2 => (dsimp -zeta only [v]; try clear v)))
    | (extract_lets +onlyGivenNames v; first | (have w : Mem := v; clear w) | (have w : DictState := v; clear w) | (have w : Fw := v; clear w) | clear_value v)
    | with_reducible apply State_gather_keeps
    | (with_reducible refine foldl_keeps _ _ ?_ ?_; on_goal 2 => (intro t x ht; try beta_reduce))
    | (with_reducible refine foldl_keeps₂ _ _ _ ?_ ?_; on_goal 2 => (intro t b x ht; try dsimp -zeta only))
    | (simp -zeta only [keeps_mk]; with_reducible refine Keeps.at ?_)
    | with_reducible refine pair_keeps (by with_reducible assumption) ?_
    | split
    | (dsimp -zeta only)

theorem State_convFault_keeps {s₀ : State} (a0 : State) (a1 : Nat) (a2 : CInstr) (a3 : Nat) (a4 : LogAddr) (h0 : Keeps s₀ a0) :
    Keeps s₀ (State.convFault a0 a1 a2 a3 a4) := by
  unfold State.convFault
  repeat' first
    | with_reducible assumption
    | (extract_lets +onlyGivenNames v; refine (fun (hv : Keeps s₀ v) => ?_) ?_; (on_goal 1 => clear_value v); (on_goal 2 => (dsimp -zeta only [v]; try clear v)))
    | with_reducible apply State_adjMatrix_keeps
    | with_reducible apply State_instFault_keeps

theorem State_runConversion_keeps {s₀ : State} (a0 : State) (a1 : Nat) (a2 : CInstr) (a3 : State) (h0 : Keeps s₀ a0) (h3 : Keeps s₀ a3) :
    Keeps s₀ (State.runConversion a0 a1 a2 a3) := by
  unfold State.runConversion
  repeat' first
    | with_reducible assumption
    | (with_reducible intro x; try beta_reduce)
    | (extract_lets +onlyGivenNames v; refine (fun (hv : Keeps s₀ v) => ?_) ?_; (on_goal 1 => clear_value v); (on_goal 2 => (dsimp -zeta only [v]; try clear v)))
    | (extract_lets +onlyGivenNames v; refine (fun (hv : Keeps s₀ v.1) => ?_) ?_; (on_goal 1 => clear_value v); (on_goal 2 => (dsimp -zeta only [v]; try clear v)))
    | (extract_lets +onlyGivenNames v; first | (have w : Mem := v; clear w) | (have w : DictState := v; clear w) | (have w : Fw := v; clear w) | clear_value v)
    | with_reducible apply State_convFault_keeps
    | with_reducible apply State_violation_keeps
    | with_reducible apply State_sourceRows_keeps
    | with_reducible apply State_keepDefer_keeps
    | with_reducible apply State_wholeScale_keeps
    | with_reducible apply State_bump_keeps
    | with_reducible apply State_adjMatrix_keeps
    | (with_reducible refine foldl_keeps _ _ ?_ ?_; on_goal 2 => (intro t x ht; try beta_reduce))
    | (with_reducible refine foldl_keeps₂ _ _ _ ?_ ?_; on_goal 2 => (intro t b x ht; try dsimp -zeta only))
    | (simp -zeta only [keeps_mk]; with_reducible refine Keeps.at ?_)
    | with_reducible refine pair_keeps (by with_reducible assumption) ?_
    | split
    | (dsimp -zeta only)

theorem conversionStart_keeps {s₀ : State} (a0 : Nat) (a1 : ErrHit) (a2 : State) (h2 : Keeps s₀ a2) :
    Keeps s₀ (Machine.conversionStart a0 a1 a2) := by
  unfold Machine.conversionStart
  repeat' first
    | with_reducible assumption
    | (with_reducible intro x; try beta_reduce)
    | (extract_lets +onlyGivenNames v; refine (fun (hv : Keeps s₀ v) => ?_) ?_; (on_goal 1 => clear_value v); (on_goal 2 => (dsimp -zeta only [v]; try clear v)))
    | (extract_lets +onlyGivenNames v; refine (fun (hv : Keeps s₀ v.1) => ?_) ?_; (on_goal 1 => clear_value v); (on_goal 2 => (dsimp -zeta only [v]; try clear v)))
    | (extract_lets +onlyGivenNames v; first | (have w : Mem := v; clear w) | (have w : DictState := v; clear w) | (have w : Fw := v; clear w) | clear_value v)
    | with_reducible apply State_runConversion_keeps
    | with_reducible apply State_adjMatrix_keeps
    | with_reducible apply State_operandError_keeps
    | (with_reducible refine foldl_keeps _ _ ?_ ?_; on_goal 2 => (intro t x ht; try beta_reduce))
    | (with_reducible refine foldl_keeps₂ _ _ _ ?_ ?_; on_goal 2 => (intro t b x ht; try dsimp -zeta only))
    | (simp -zeta only [keeps_mk]; with_reducible refine Keeps.at ?_)
    | with_reducible refine pair_keeps (by with_reducible assumption) ?_
    | split
    | (dsimp -zeta only)

theorem State_writePieces_keeps {s₀ : State} (a0 : Nat) (a1 : Nat) (a2 : Bool) (a3 : List (Nat × Bytes × Option PoisonClass)) (a4 : State) (h4 : Keeps s₀ a4) :
    Keeps s₀ (State.writePieces a0 a1 a2 a3 a4).1 := by
  induction a3 generalizing a0 a1 a2 a4 with
  | nil =>
    rw [State.writePieces]
    repeat' with_reducible assumption
  | cons x l ih =>
    rw [State.writePieces]
    repeat' first
      | with_reducible assumption
      | with_reducible apply ih
      | with_reducible apply State_destSector_keeps
      | with_reducible refine pair_keeps (by with_reducible assumption) ?_
      | split

theorem State_updateHist_keeps {s₀ : State} (a0 : State) (a1 : Nat) (a2 : CInstr) (h0 : Keeps s₀ a0) :
    Keeps s₀ (State.updateHist a0 a1 a2).1 := by
  unfold State.updateHist
  repeat' first
    | with_reducible assumption
    | (with_reducible intro x; try beta_reduce)
    | (extract_lets +onlyGivenNames v; refine (fun (hv : Keeps s₀ v) => ?_) ?_; (on_goal 1 => clear_value v); (on_goal 2 => (dsimp -zeta only [v]; try clear v)))
    | (extract_lets +onlyGivenNames v; refine (fun (hv : Keeps s₀ v.1) => ?_) ?_; (on_goal 1 => clear_value v); (on_goal 2 => (dsimp -zeta only [v]; try clear v)))
    | (extract_lets +onlyGivenNames v; first | (have w : Mem := v; clear w) | (have w : DictState := v; clear w) | (have w : Fw := v; clear w) | clear_value v)
    | with_reducible apply State_gather_keeps
    | with_reducible apply State_writePieces_keeps
    | (with_reducible refine foldl_keeps _ _ ?_ ?_; on_goal 2 => (intro t x ht; try beta_reduce))
    | (with_reducible refine foldl_keeps₂ _ _ _ ?_ ?_; on_goal 2 => (intro t b x ht; try dsimp -zeta only))
    | (simp -zeta only [keeps_mk]; with_reducible refine Keeps.at ?_)
    | with_reducible refine pair_keeps (by with_reducible assumption) ?_
    | split
    | (dsimp -zeta only)

theorem conversionComplete_keeps {s₀ : State} (a0 : Nat) (a1 : State) (h1 : Keeps s₀ a1) :
    Keeps s₀ (Machine.conversionComplete a0 a1) := by
  unfold Machine.conversionComplete
  repeat' first
    | with_reducible assumption
    | (with_reducible intro x; try beta_reduce)
    | (extract_lets +onlyGivenNames v; refine (fun (hv : Keeps s₀ v) => ?_) ?_; (on_goal 1 => clear_value v); (on_goal 2 => (dsimp -zeta only [v]; try clear v)))
    | (extract_lets +onlyGivenNames v; refine (fun (hv : Keeps s₀ v.1) => ?_) ?_; (on_goal 1 => clear_value v); (on_goal 2 => (dsimp -zeta only [v]; try clear v)))
    | (extract_lets +onlyGivenNames v; first | (have w : Mem := v; clear w) | (have w : DictState := v; clear w) | (have w : Fw := v; clear w) | clear_value v)
    | with_reducible apply State_writePieces_keeps
    | with_reducible apply State_keepDefer_keeps
    | with_reducible apply State_updateHist_keeps
    | with_reducible apply State_destSector_keeps
    | with_reducible apply State_raiseSat_keeps
    | with_reducible apply State_setToken_keeps
    | with_reducible apply State_bump_keeps
    | with_reducible apply State_adjMatrix_keeps
    | (with_reducible refine foldl_keeps _ _ ?_ ?_; on_goal 2 => (intro t x ht; try beta_reduce))
    | (with_reducible refine foldl_keeps₂ _ _ _ ?_ ?_; on_goal 2 => (intro t b x ht; try dsimp -zeta only))
    | (simp -zeta only [keeps_mk]; with_reducible refine Keeps.at ?_)
    | with_reducible refine pair_keeps (by with_reducible assumption) ?_
    | split
    | (dsimp -zeta only)

end Sys2Proof.Laws
end

