-- ==== Sys2Proof/Laws/KeepsThreads.lean ====
section
/-! SUPPORT. What the operations of Machine/Threads.lean keep (`Keeps`): one lemma for each. -/

set_option Elab.async false
set_option linter.all false

namespace Sys2Proof.Laws

open Sys2Proof Sys2Proof.Machine

theorem State_illegalOp_keeps {s₀ : State} (a0 : State) (a1 : GroupRef) (h0 : Keeps s₀ a0) :
    Keeps s₀ (State.illegalOp a0 a1) := by
  unfold State.illegalOp
  repeat' first
    | with_reducible assumption
    | with_reducible apply State_threadFault_keeps
    | with_reducible apply State_drawn_keeps

theorem State_checked_keeps {s₀ : State} (a0 : State) (a1 : GroupRef) (a2 : Block) (a3 : Group) (a4 : List Nat) (a5 : List Nat) (a6 : List Nat) (a7 : State) (h0 : Keeps s₀ a0) (h7 : Keeps s₀ a7) :
    Keeps s₀ (State.checked a0 a1 a2 a3 a4 a5 a6 a7) := by
  unfold State.checked
  repeat' first
    | with_reducible assumption
    | with_reducible apply State_illegalOp_keeps
    | with_reducible apply State_poisonControl_keeps
    | split

theorem State_checkedWord_keeps {s₀ : State} (a0 : State) (a1 : GroupRef) (a2 : Block) (a3 : Group) (a4 : W64) (a5 : Bool) (a6 : List Nat) (a7 : List Nat) (a8 : List Nat) (a9 : State) (h0 : Keeps s₀ a0) (h9 : Keeps s₀ a9) :
    Keeps s₀ (State.checkedWord a0 a1 a2 a3 a4 a5 a6 a7 a8 a9) := by
  unfold State.checkedWord
  repeat' first
    | with_reducible assumption
    | with_reducible apply State_threadFault_keeps
    | with_reducible apply State_poisonControl_keeps
    | split

theorem State_adjBlocks_keeps {s₀ : State} (a0 : State) (a1 : Block → Bool) (a2 : Block → Block) (h0 : Keeps s₀ a0) :
    Keeps s₀ (State.adjBlocks a0 a1 a2) := by
  unfold State.adjBlocks
  repeat' first
    | with_reducible assumption
    | (simp -zeta only [keeps_mk]; with_reducible refine Keeps.at ?_)

theorem State_settleCbars_keeps {s₀ : State} (a0 : State) (a1 : Nat) (h0 : Keeps s₀ a0) :
    Keeps s₀ (State.settleCbars a0 a1) := by
  unfold State.settleCbars
  repeat' first
    | with_reducible assumption
    | (extract_lets +onlyGivenNames v; refine (fun (hv : Keeps s₀ v) => ?_) ?_; (on_goal 1 => clear_value v); (on_goal 2 => (dsimp -zeta only [v]; try clear v)))
    | (extract_lets +onlyGivenNames v; first | (have w : Mem := v; clear w) | (have w : DictState := v; clear w) | (have w : Fw := v; clear w) | clear_value v)
    | with_reducible apply State_adjKernel_keeps
    | with_reducible apply State_adjBlocks_keeps
    | (with_reducible refine foldl_keeps _ _ ?_ ?_; on_goal 2 => (intro t x ht; try beta_reduce))
    | split

theorem State_settleGbar_keeps {s₀ : State} (a0 : State) (a1 : Nat) (h0 : Keeps s₀ a0) :
    Keeps s₀ (State.settleGbar a0 a1) := by
  unfold State.settleGbar
  repeat' first
    | with_reducible assumption
    | with_reducible apply State_adjKernel_keeps
    | split

theorem State_settleBarriers_keeps {s₀ : State} (a0 : State) (a1 : Nat) (a2 : Nat) (a3 : Nat) (h0 : Keeps s₀ a0) :
    Keeps s₀ (State.settleBarriers a0 a1 a2 a3) := by
  unfold State.settleBarriers
  repeat' first
    | with_reducible assumption
    | with_reducible apply State_settleGbar_keeps
    | with_reducible apply State_settleCbars_keeps
    | with_reducible apply State_adjBlock_keeps

theorem branch_keeps {s₀ : State} (a0 : GroupRef) (a1 : BranchKind) (a2 : Nat) (a3 : ParityHit) (a4 : State) (h4 : Keeps s₀ a4) :
    Keeps s₀ (Machine.branch a0 a1 a2 a3 a4) := by
  unfold Machine.branch
  repeat' first
    | with_reducible assumption
    | (with_reducible intro x; try beta_reduce)
    | (extract_lets +onlyGivenNames v; refine (fun (hv : Keeps s₀ v) => ?_) ?_; (on_goal 1 => clear_value v); (on_goal 2 => (dsimp -zeta only [v]; try clear v)))
    | (extract_lets +onlyGivenNames v; refine (fun (hv : Keeps s₀ v.1) => ?_) ?_; (on_goal 1 => clear_value v); (on_goal 2 => (dsimp -zeta only [v]; try clear v)))
    | (extract_lets +onlyGivenNames v; first | (have w : Mem := v; clear w) | (have w : DictState := v; clear w) | (have w : Fw := v; clear w) | clear_value v)
    | with_reducible apply State_regParity_keeps
    | with_reducible apply State_issue_keeps
    | with_reducible apply State_checked_keeps
    | with_reducible apply State_adjGroup_keeps
    | with_reducible apply State_threadFault_keeps
    | (with_reducible refine foldl_keeps _ _ ?_ ?_; on_goal 2 => (intro t x ht; try beta_reduce))
    | (with_reducible refine foldl_keeps₂ _ _ _ ?_ ?_; on_goal 2 => (intro t b x ht; try dsimp -zeta only))
    | (simp -zeta only [keeps_mk]; with_reducible refine Keeps.at ?_)
    | with_reducible refine pair_keeps (by with_reducible assumption) ?_
    | split
    | (dsimp -zeta only)

theorem exit_keeps {s₀ : State} (a0 : GroupRef) (a1 : State) (h1 : Keeps s₀ a1) :
    Keeps s₀ (Machine.exit a0 a1) := by
  unfold Machine.exit
  repeat' first
    | with_reducible assumption
    | (with_reducible intro x; try beta_reduce)
    | (extract_lets +onlyGivenNames v; refine (fun (hv : Keeps s₀ v) => ?_) ?_; (on_goal 1 => clear_value v); (on_goal 2 => (dsimp -zeta only [v]; try clear v)))
    | with_reducible apply State_issue_keeps
    | with_reducible apply State_adjGroup_keeps
    | with_reducible apply State_adjBlock_keeps
    | with_reducible apply State_settleBarriers_keeps

theorem fp32Arith_keeps {s₀ : State} (a0 : GroupRef) (a1 : FpOp) (a2 : Nat) (a3 : Nat) (a4 : Nat) (a5 : Nat) (a6 : ParityHit) (a7 : State) (h7 : Keeps s₀ a7) :
    Keeps s₀ (Machine.fp32Arith a0 a1 a2 a3 a4 a5 a6 a7) := by
  unfold Machine.fp32Arith
  repeat' first
    | with_reducible assumption
    | (with_reducible intro x; try beta_reduce)
    | (extract_lets +onlyGivenNames v; refine (fun (hv : Keeps s₀ v) => ?_) ?_; (on_goal 1 => clear_value v); (on_goal 2 => (dsimp -zeta only [v]; try clear v)))
    | (extract_lets +onlyGivenNames v; refine (fun (hv : Keeps s₀ v.1) => ?_) ?_; (on_goal 1 => clear_value v); (on_goal 2 => (dsimp -zeta only [v]; try clear v)))
    | (extract_lets +onlyGivenNames v; first | (have w : Mem := v; clear w) | (have w : DictState := v; clear w) | (have w : Fw := v; clear w) | clear_value v)
    | with_reducible apply State_regParity_keeps
    | with_reducible apply State_issue_keeps
    | with_reducible apply State_checked_keeps
    | with_reducible apply State_adjGroup_keeps
    | (with_reducible refine foldl_keeps _ _ ?_ ?_; on_goal 2 => (intro t x ht; try beta_reduce))
    | (with_reducible refine foldl_keeps₂ _ _ _ ?_ ?_; on_goal 2 => (intro t b x ht; try dsimp -zeta only))
    | (simp -zeta only [keeps_mk]; with_reducible refine Keeps.at ?_)
    | with_reducible refine pair_keeps (by with_reducible assumption) ?_
    | split
    | (dsimp -zeta only)

theorem State_groupWide_keeps {s₀ : State} (a0 : State) (a1 : GroupRef) (a2 : Block) (a3 : Group) (a4 : Path) (a5 : List Nat) (a6 : Group → Group) (h0 : Keeps s₀ a0) :
    Keeps s₀ (State.groupWide a0 a1 a2 a3 a4 a5 a6) := by
  unfold State.groupWide
  repeat' first
    | with_reducible assumption
    | with_reducible apply State_checked_keeps
    | with_reducible apply State_threadFault_keeps
    | with_reducible apply State_adjGroup_keeps
    | split

theorem shfl_keeps {s₀ : State} (a0 : GroupRef) (a1 : Nat) (a2 : Nat) (a3 : Nat) (a4 : ParityHit) (a5 : State) (h5 : Keeps s₀ a5) :
    Keeps s₀ (Machine.shfl a0 a1 a2 a3 a4 a5) := by
  unfold Machine.shfl
  repeat' first
    | with_reducible assumption
    | (with_reducible intro x; try beta_reduce)
    | (extract_lets +onlyGivenNames v; refine (fun (hv : Keeps s₀ v) => ?_) ?_; (on_goal 1 => clear_value v); (on_goal 2 => (dsimp -zeta only [v]; try clear v)))
    | (extract_lets +onlyGivenNames v; refine (fun (hv : Keeps s₀ v.1) => ?_) ?_; (on_goal 1 => clear_value v); (on_goal 2 => (dsimp -zeta only [v]; try clear v)))
    | (extract_lets +onlyGivenNames v; first | (have w : Mem := v; clear w) | (have w : DictState := v; clear w) | (have w : Fw := v; clear w) | clear_value v)
    | with_reducible apply State_regParity_keeps
    | with_reducible apply State_issue_keeps
    | with_reducible apply State_groupWide_keeps
    | (with_reducible refine foldl_keeps _ _ ?_ ?_; on_goal 2 => (intro t x ht; try beta_reduce))
    | (with_reducible refine foldl_keeps₂ _ _ _ ?_ ?_; on_goal 2 => (intro t b x ht; try dsimp -zeta only))
    | (simp -zeta only [keeps_mk]; with_reducible refine Keeps.at ?_)
    | with_reducible refine pair_keeps (by with_reducible assumption) ?_
    | split
    | (dsimp -zeta only)

theorem vote_keeps {s₀ : State} (a0 : GroupRef) (a1 : VoteKind) (a2 : Nat) (a3 : Nat) (a4 : ParityHit) (a5 : State) (h5 : Keeps s₀ a5) :
    Keeps s₀ (Machine.vote a0 a1 a2 a3 a4 a5) := by
  unfold Machine.vote
  repeat' first
    | with_reducible assumption
    | (with_reducible intro x; try beta_reduce)
    | (extract_lets +onlyGivenNames v; refine (fun (hv : Keeps s₀ v) => ?_) ?_; (on_goal 1 => clear_value v); (on_goal 2 => (dsimp -zeta only [v]; try clear v)))
    | (extract_lets +onlyGivenNames v; refine (fun (hv : Keeps s₀ v.1) => ?_) ?_; (on_goal 1 => clear_value v); (on_goal 2 => (dsimp -zeta only [v]; try clear v)))
    | (extract_lets +onlyGivenNames v; first | (have w : Mem := v; clear w) | (have w : DictState := v; clear w) | (have w : Fw := v; clear w) | clear_value v)
    | with_reducible apply State_regParity_keeps
    | with_reducible apply State_issue_keeps
    | with_reducible apply State_groupWide_keeps
    | (with_reducible refine foldl_keeps _ _ ?_ ?_; on_goal 2 => (intro t x ht; try beta_reduce))
    | (with_reducible refine foldl_keeps₂ _ _ _ ?_ ?_; on_goal 2 => (intro t b x ht; try dsimp -zeta only))
    | (simp -zeta only [keeps_mk]; with_reducible refine Keeps.at ?_)
    | with_reducible refine pair_keeps (by with_reducible assumption) ?_
    | split
    | (dsimp -zeta only)

theorem redux_keeps {s₀ : State} (a0 : GroupRef) (a1 : ReduxOp) (a2 : Nat) (a3 : Nat) (a4 : ParityHit) (a5 : State) (h5 : Keeps s₀ a5) :
    Keeps s₀ (Machine.redux a0 a1 a2 a3 a4 a5) := by
  unfold Machine.redux
  repeat' first
    | with_reducible assumption
    | (with_reducible intro x; try beta_reduce)
    | (extract_lets +onlyGivenNames v; refine (fun (hv : Keeps s₀ v) => ?_) ?_; (on_goal 1 => clear_value v); (on_goal 2 => (dsimp -zeta only [v]; try clear v)))
    | (extract_lets +onlyGivenNames v; refine (fun (hv : Keeps s₀ v.1) => ?_) ?_; (on_goal 1 => clear_value v); (on_goal 2 => (dsimp -zeta only [v]; try clear v)))
    | (extract_lets +onlyGivenNames v; first | (have w : Mem := v; clear w) | (have w : DictState := v; clear w) | (have w : Fw := v; clear w) | clear_value v)
    | with_reducible apply State_regParity_keeps
    | with_reducible apply State_issue_keeps
    | with_reducible apply State_groupWide_keeps
    | (with_reducible refine foldl_keeps _ _ ?_ ?_; on_goal 2 => (intro t x ht; try beta_reduce))
    | (with_reducible refine foldl_keeps₂ _ _ _ ?_ ?_; on_goal 2 => (intro t b x ht; try dsimp -zeta only))
    | (simp -zeta only [keeps_mk]; with_reducible refine Keeps.at ?_)
    | with_reducible refine pair_keeps (by with_reducible assumption) ?_
    | split
    | (dsimp -zeta only)

theorem State_scratchLoad_keeps {s₀ : State} (a0 : GroupRef) (a1 : Nat) (a2 : Nat) (a3 : Nat) (a4 : Nat) (a5 : List (Nat × Nat)) (a6 : State) (h6 : Keeps s₀ a6) :
    Keeps s₀ (State.scratchLoad a0 a1 a2 a3 a4 a5 a6) := by
  induction a5 generalizing a0 a1 a2 a3 a4 a6 with
  | nil =>
    rw [State.scratchLoad]
    repeat' first
      | with_reducible assumption
      | (with_reducible intro x; try beta_reduce)
      | (extract_lets +onlyGivenNames v; refine (fun (hv : Keeps s₀ v) => ?_) ?_; (on_goal 1 => clear_value v); (on_goal 2 => (dsimp -zeta only [v]; try clear v)))
      | (extract_lets +onlyGivenNames v; refine (fun (hv : Keeps s₀ v.1) => ?_) ?_; (on_goal 1 => clear_value v); (on_goal 2 => (dsimp -zeta only [v]; try clear v)))
      | (extract_lets +onlyGivenNames v; first | (have w : Mem := v; clear w) | (have w : DictState := v; clear w) | (have w : Fw := v; clear w) | clear_value v)
      | with_reducible apply ih
      | with_reducible apply State_threadFault_keeps
      | with_reducible apply State_loadRegs_keeps
      | with_reducible apply State_poisonHalted_keeps
      | (with_reducible refine foldl_keeps _ _ ?_ ?_; on_goal 2 => (intro t x ht; try beta_reduce))
      | (with_reducible refine foldl_keeps₂ _ _ _ ?_ ?_; on_goal 2 => (intro t b x ht; try dsimp -zeta only))
      | (simp -zeta only [keeps_mk]; with_reducible refine Keeps.at ?_)
      | with_reducible refine pair_keeps (by with_reducible assumption) ?_
      | split
      | (dsimp -zeta only)
  | cons x l ih =>
    rw [State.scratchLoad]
    repeat' first
      | with_reducible assumption
      | (with_reducible intro x; try beta_reduce)
      | (extract_lets +onlyGivenNames v; refine (fun (hv : Keeps s₀ v) => ?_) ?_; (on_goal 1 => clear_value v); (on_goal 2 => (dsimp -zeta only [v]; try clear v)))
      | (extract_lets +onlyGivenNames v; refine (fun (hv : Keeps s₀ v.1) => ?_) ?_; (on_goal 1 => clear_value v); (on_goal 2 => (dsimp -zeta only [v]; try clear v)))
      | (extract_lets +onlyGivenNames v; first | (have w : Mem := v; clear w) | (have w : DictState := v; clear w) | (have w : Fw := v; clear w) | clear_value v)
      | with_reducible apply ih
      | with_reducible apply State_threadFault_keeps
      | with_reducible apply State_loadRegs_keeps
      | with_reducible apply State_poisonHalted_keeps
      | (with_reducible refine foldl_keeps _ _ ?_ ?_; on_goal 2 => (intro t x ht; try beta_reduce))
      | (with_reducible refine foldl_keeps₂ _ _ _ ?_ ?_; on_goal 2 => (intro t b x ht; try dsimp -zeta only))
      | (simp -zeta only [keeps_mk]; with_reducible refine Keeps.at ?_)
      | with_reducible refine pair_keeps (by with_reducible assumption) ?_
      | split
      | (dsimp -zeta only)

theorem State_scratchStore_keeps {s₀ : State} (a0 : Group) (a1 : Nat) (a2 : Nat) (a3 : Nat) (a4 : Nat) (a5 : List (Nat × Nat)) (a6 : State) (h6 : Keeps s₀ a6) :
    Keeps s₀ (State.scratchStore a0 a1 a2 a3 a4 a5 a6) := by
  induction a5 generalizing a0 a1 a2 a3 a4 a6 with
  | nil =>
    rw [State.scratchStore]
    repeat' with_reducible assumption
  | cons x l ih =>
    rw [State.scratchStore]
    repeat' first
      | with_reducible assumption
      | with_reducible apply ih
      | with_reducible apply State_adjOwner_keeps

theorem State_scratchAccess_keeps {s₀ : State} (a0 : State) (a1 : GroupRef) (a2 : Group) (a3 : Path) (a4 : Dir) (a5 : Block) (a6 : Nat) (a7 : Nat) (a8 : Nat) (a9 : Nat) (a10 : ErrHit) (h0 : Keeps s₀ a0) :
    Keeps s₀ (State.scratchAccess a0 a1 a2 a3 a4 a5 a6 a7 a8 a9 a10) := by
  unfold State.scratchAccess
  repeat' first
    | with_reducible assumption
    | (with_reducible intro x; try beta_reduce)
    | (extract_lets +onlyGivenNames v; refine (fun (hv : Keeps s₀ v) => ?_) ?_; (on_goal 1 => clear_value v); (on_goal 2 => (dsimp -zeta only [v]; try clear v)))
    | (extract_lets +onlyGivenNames v; refine (fun (hv : Keeps s₀ v.1) => ?_) ?_; (on_goal 1 => clear_value v); (on_goal 2 => (dsimp -zeta only [v]; try clear v)))
    | (extract_lets +onlyGivenNames v; first | (have w : Mem := v; clear w) | (have w : DictState := v; clear w) | (have w : Fw := v; clear w) | clear_value v)
    | with_reducible apply State_threadFault_keeps
    | with_reducible apply State_scratchError_keeps
    | with_reducible apply State_advanceGroup_keeps
    | with_reducible apply State_scratchLoad_keeps
    | with_reducible apply State_scratchStore_keeps
    | (with_reducible refine foldl_keeps _ _ ?_ ?_; on_goal 2 => (intro t x ht; try beta_reduce))
    | (with_reducible refine foldl_keeps₂ _ _ _ ?_ ?_; on_goal 2 => (intro t b x ht; try dsimp -zeta only))
    | (simp -zeta only [keeps_mk]; with_reducible refine Keeps.at ?_)
    | with_reducible refine pair_keeps (by with_reducible assumption) ?_
    | split
    | (dsimp -zeta only)

theorem ldsSts_keeps {s₀ : State} (a0 : GroupRef) (a1 : Dir) (a2 : Nat) (a3 : Nat) (a4 : Nat) (a5 : ErrHit) (a6 : ParityHit) (a7 : State) (h7 : Keeps s₀ a7) :
    Keeps s₀ (Machine.ldsSts a0 a1 a2 a3 a4 a5 a6 a7) := by
  unfold Machine.ldsSts
  repeat' first
    | with_reducible assumption
    | (with_reducible intro x; try beta_reduce)
    | (extract_lets +onlyGivenNames v; refine (fun (hv : Keeps s₀ v) => ?_) ?_; (on_goal 1 => clear_value v); (on_goal 2 => (dsimp -zeta only [v]; try clear v)))
    | (extract_lets +onlyGivenNames v; refine (fun (hv : Keeps s₀ v.1) => ?_) ?_; (on_goal 1 => clear_value v); (on_goal 2 => (dsimp -zeta only [v]; try clear v)))
    | (extract_lets +onlyGivenNames v; first | (have w : Mem := v; clear w) | (have w : DictState := v; clear w) | (have w : Fw := v; clear w) | clear_value v)
    | with_reducible apply State_regParity_keeps
    | with_reducible apply State_issue_keeps
    | with_reducible apply State_illegalOp_keeps
    | with_reducible apply State_checked_keeps
    | with_reducible apply State_scratchAccess_keeps
    | (with_reducible refine foldl_keeps _ _ ?_ ?_; on_goal 2 => (intro t x ht; try beta_reduce))
    | (with_reducible refine foldl_keeps₂ _ _ _ ?_ ?_; on_goal 2 => (intro t b x ht; try dsimp -zeta only))
    | (simp -zeta only [keeps_mk]; with_reducible refine Keeps.at ?_)
    | with_reducible refine pair_keeps (by with_reducible assumption) ?_
    | split
    | (dsimp -zeta only)

theorem ldcStc_keeps {s₀ : State} (a0 : GroupRef) (a1 : Dir) (a2 : Nat) (a3 : Nat) (a4 : Nat) (a5 : Nat) (a6 : ErrHit) (a7 : ParityHit) (a8 : State) (h8 : Keeps s₀ a8) :
    Keeps s₀ (Machine.ldcStc a0 a1 a2 a3 a4 a5 a6 a7 a8) := by
  unfold Machine.ldcStc
  repeat' first
    | with_reducible assumption
    | (with_reducible intro x; try beta_reduce)
    | (extract_lets +onlyGivenNames v; refine (fun (hv : Keeps s₀ v) => ?_) ?_; (on_goal 1 => clear_value v); (on_goal 2 => (dsimp -zeta only [v]; try clear v)))
    | (extract_lets +onlyGivenNames v; refine (fun (hv : Keeps s₀ v.1) => ?_) ?_; (on_goal 1 => clear_value v); (on_goal 2 => (dsimp -zeta only [v]; try clear v)))
    | (extract_lets +onlyGivenNames v; first | (have w : Mem := v; clear w) | (have w : DictState := v; clear w) | (have w : Fw := v; clear w) | clear_value v)
    | with_reducible apply State_regParity_keeps
    | with_reducible apply State_issue_keeps
    | with_reducible apply State_illegalOp_keeps
    | with_reducible apply State_checked_keeps
    | with_reducible apply State_threadFault_keeps
    | with_reducible apply State_scratchAccess_keeps
    | (with_reducible refine foldl_keeps _ _ ?_ ?_; on_goal 2 => (intro t x ht; try beta_reduce))
    | (with_reducible refine foldl_keeps₂ _ _ _ ?_ ?_; on_goal 2 => (intro t b x ht; try dsimp -zeta only))
    | (simp -zeta only [keeps_mk]; with_reducible refine Keeps.at ?_)
    | with_reducible refine pair_keeps (by with_reducible assumption) ?_
    | split
    | (dsimp -zeta only)

theorem State_park_keeps {s₀ : State} (a0 : State) (a1 : GroupRef) (a2 : BarKind) (h0 : Keeps s₀ a0) :
    Keeps s₀ (State.park a0 a1 a2) := by
  unfold State.park
  repeat' first
    | with_reducible assumption
    | (with_reducible intro x; try beta_reduce)
    | (extract_lets +onlyGivenNames v; refine (fun (hv : Keeps s₀ v) => ?_) ?_; (on_goal 1 => clear_value v); (on_goal 2 => (dsimp -zeta only [v]; try clear v)))
    | (extract_lets +onlyGivenNames v; refine (fun (hv : Keeps s₀ v.1) => ?_) ?_; (on_goal 1 => clear_value v); (on_goal 2 => (dsimp -zeta only [v]; try clear v)))
    | (extract_lets +onlyGivenNames v; first | (have w : Mem := v; clear w) | (have w : DictState := v; clear w) | (have w : Fw := v; clear w) | clear_value v)
    | with_reducible apply State_adjGroup_keeps
    | (with_reducible refine foldl_keeps _ _ ?_ ?_; on_goal 2 => (intro t x ht; try beta_reduce))
    | (with_reducible refine foldl_keeps₂ _ _ _ ?_ ?_; on_goal 2 => (intro t b x ht; try dsimp -zeta only))
    | (simp -zeta only [keeps_mk]; with_reducible refine Keeps.at ?_)
    | with_reducible refine pair_keeps (by with_reducible assumption) ?_
    | split
    | (dsimp -zeta only)

theorem State_goOn_keeps {s₀ : State} (a0 : State) (a1 : GroupRef) (h0 : Keeps s₀ a0) :
    Keeps s₀ (State.goOn a0 a1) := by
  unfold State.goOn
  repeat' first
    | with_reducible assumption
    | (with_reducible intro x; try beta_reduce)
    | (extract_lets +onlyGivenNames v; refine (fun (hv : Keeps s₀ v) => ?_) ?_; (on_goal 1 => clear_value v); (on_goal 2 => (dsimp -zeta only [v]; try clear v)))
    | (extract_lets +onlyGivenNames v; refine (fun (hv : Keeps s₀ v.1) => ?_) ?_; (on_goal 1 => clear_value v); (on_goal 2 => (dsimp -zeta only [v]; try clear v)))
    | (extract_lets +onlyGivenNames v; first | (have w : Mem := v; clear w) | (have w : DictState := v; clear w) | (have w : Fw := v; clear w) | clear_value v)
    | with_reducible apply State_adjGroup_keeps
    | (with_reducible refine foldl_keeps _ _ ?_ ?_; on_goal 2 => (intro t x ht; try beta_reduce))
    | (with_reducible refine foldl_keeps₂ _ _ _ ?_ ?_; on_goal 2 => (intro t b x ht; try dsimp -zeta only))
    | (simp -zeta only [keeps_mk]; with_reducible refine Keeps.at ?_)
    | with_reducible refine pair_keeps (by with_reducible assumption) ?_
    | split
    | (dsimp -zeta only)

theorem bar_keeps {s₀ : State} (a0 : GroupRef) (a1 : W64) (a2 : State) (h2 : Keeps s₀ a2) :
    Keeps s₀ (Machine.bar a0 a1 a2) := by
  unfold Machine.bar
  repeat' first
    | with_reducible assumption
    | (with_reducible intro x; try beta_reduce)
    | (extract_lets +onlyGivenNames v; refine (fun (hv : Keeps s₀ v) => ?_) ?_; (on_goal 1 => clear_value v); (on_goal 2 => (dsimp -zeta only [v]; try clear v)))
    | (extract_lets +onlyGivenNames v; refine (fun (hv : Keeps s₀ v.1) => ?_) ?_; (on_goal 1 => clear_value v); (on_goal 2 => (dsimp -zeta only [v]; try clear v)))
    | (extract_lets +onlyGivenNames v; first | (have w : Mem := v; clear w) | (have w : DictState := v; clear w) | (have w : Fw := v; clear w) | clear_value v)
    | with_reducible apply State_issue_keeps
    | with_reducible apply State_checkedWord_keeps
    | with_reducible apply State_threadFault_keeps
    | with_reducible apply State_goOn_keeps
    | with_reducible apply State_adjBlock_keeps
    | with_reducible apply State_park_keeps
    | (with_reducible refine foldl_keeps _ _ ?_ ?_; on_goal 2 => (intro t x ht; try beta_reduce))
    | (with_reducible refine foldl_keeps₂ _ _ _ ?_ ?_; on_goal 2 => (intro t b x ht; try dsimp -zeta only))
    | (simp -zeta only [keeps_mk]; with_reducible refine Keeps.at ?_)
    | with_reducible refine pair_keeps (by with_reducible assumption) ?_
    | split
    | (dsimp -zeta only)

theorem cbar_keeps {s₀ : State} (a0 : GroupRef) (a1 : W64) (a2 : State) (h2 : Keeps s₀ a2) :
    Keeps s₀ (Machine.cbar a0 a1 a2) := by
  unfold Machine.cbar
  repeat' first
    | with_reducible assumption
    | (with_reducible intro x; try beta_reduce)
    | (extract_lets +onlyGivenNames v; refine (fun (hv : Keeps s₀ v) => ?_) ?_; (on_goal 1 => clear_value v); (on_goal 2 => (dsimp -zeta only [v]; try clear v)))
    | (extract_lets +onlyGivenNames v; refine (fun (hv : Keeps s₀ v.1) => ?_) ?_; (on_goal 1 => clear_value v); (on_goal 2 => (dsimp -zeta only [v]; try clear v)))
    | (extract_lets +onlyGivenNames v; first | (have w : Mem := v; clear w) | (have w : DictState := v; clear w) | (have w : Fw := v; clear w) | clear_value v)
    | with_reducible apply State_issue_keeps
    | with_reducible apply State_checkedWord_keeps
    | with_reducible apply State_threadFault_keeps
    | with_reducible apply State_park_keeps
    | with_reducible apply State_adjKernel_keeps
    | with_reducible apply State_goOn_keeps
    | with_reducible apply State_settleCbars_keeps
    | (with_reducible refine foldl_keeps _ _ ?_ ?_; on_goal 2 => (intro t x ht; try beta_reduce))
    | (with_reducible refine foldl_keeps₂ _ _ _ ?_ ?_; on_goal 2 => (intro t b x ht; try dsimp -zeta only))
    | (simp -zeta only [keeps_mk]; with_reducible refine Keeps.at ?_)
    | with_reducible refine pair_keeps (by with_reducible assumption) ?_
    | split
    | (dsimp -zeta only)

theorem gbar_keeps {s₀ : State} (a0 : GroupRef) (a1 : W64) (a2 : State) (h2 : Keeps s₀ a2) :
    Keeps s₀ (Machine.gbar a0 a1 a2) := by
  unfold Machine.gbar
  repeat' first
    | with_reducible assumption
    | (with_reducible intro x; try beta_reduce)
    | (extract_lets +onlyGivenNames v; refine (fun (hv : Keeps s₀ v) => ?_) ?_; (on_goal 1 => clear_value v); (on_goal 2 => (dsimp -zeta only [v]; try clear v)))
    | (extract_lets +onlyGivenNames v; refine (fun (hv : Keeps s₀ v.1) => ?_) ?_; (on_goal 1 => clear_value v); (on_goal 2 => (dsimp -zeta only [v]; try clear v)))
    | (extract_lets +onlyGivenNames v; first | (have w : Mem := v; clear w) | (have w : DictState := v; clear w) | (have w : Fw := v; clear w) | clear_value v)
    | with_reducible apply State_issue_keeps
    | with_reducible apply State_checkedWord_keeps
    | with_reducible apply State_park_keeps
    | with_reducible apply State_adjKernel_keeps
    | with_reducible apply State_goOn_keeps
    | with_reducible apply State_settleGbar_keeps
    | (with_reducible refine foldl_keeps _ _ ?_ ?_; on_goal 2 => (intro t x ht; try beta_reduce))
    | (with_reducible refine foldl_keeps₂ _ _ _ ?_ ?_; on_goal 2 => (intro t b x ht; try dsimp -zeta only))
    | (simp -zeta only [keeps_mk]; with_reducible refine Keeps.at ?_)
    | with_reducible refine pair_keeps (by with_reducible assumption) ?_
    | split
    | (dsimp -zeta only)

theorem gbarComplete_keeps {s₀ : State} (a0 : Nat) (a1 : State) (h1 : Keeps s₀ a1) :
    Keeps s₀ (Machine.gbarComplete a0 a1) := by
  unfold Machine.gbarComplete
  repeat' first
    | with_reducible assumption
    | (extract_lets +onlyGivenNames v; refine (fun (hv : Keeps s₀ v) => ?_) ?_; (on_goal 1 => clear_value v); (on_goal 2 => (dsimp -zeta only [v]; try clear v)))
    | with_reducible apply State_adjKernel_keeps
    | with_reducible apply State_adjBlocks_keeps
    | (simp -zeta only [keeps_mk]; with_reducible refine Keeps.at ?_)
    | split

theorem State_tickBars_keeps {s₀ : State} (a0 : State) (a1 : Nat) (h0 : Keeps s₀ a0) :
    Keeps s₀ (State.tickBars a0 a1) := by
  unfold State.tickBars
  repeat' first
    | with_reducible assumption
    | (with_reducible intro x; try beta_reduce)
    | (extract_lets +onlyGivenNames v; refine (fun (hv : Keeps s₀ v) => ?_) ?_; (on_goal 1 => clear_value v); (on_goal 2 => (dsimp -zeta only [v]; try clear v)))
    | (extract_lets +onlyGivenNames v; refine (fun (hv : Keeps s₀ v.1) => ?_) ?_; (on_goal 1 => clear_value v); (on_goal 2 => (dsimp -zeta only [v]; try clear v)))
    | (extract_lets +onlyGivenNames v; first | (have w : Mem := v; clear w) | (have w : DictState := v; clear w) | (have w : Fw := v; clear w) | clear_value v)
    | with_reducible apply State_adjTile_keeps
    | (with_reducible refine foldl_keeps _ _ ?_ ?_; on_goal 2 => (intro t x ht; try beta_reduce))
    | (with_reducible refine foldl_keeps₂ _ _ _ ?_ ?_; on_goal 2 => (intro t b x ht; try dsimp -zeta only))
    | (simp -zeta only [keeps_mk]; with_reducible refine Keeps.at ?_)
    | with_reducible refine pair_keeps (by with_reducible assumption) ?_
    | split
    | (dsimp -zeta only)

theorem State_barrierStall_keeps {s₀ : State} (a0 : State) (a1 : Stall) (h0 : Keeps s₀ a0) :
    Keeps s₀ (State.barrierStall a0 a1) := by
  unfold State.barrierStall
  repeat' first
    | with_reducible assumption
    | (with_reducible intro x; try beta_reduce)
    | (extract_lets +onlyGivenNames v; refine (fun (hv : Keeps s₀ v) => ?_) ?_; (on_goal 1 => clear_value v); (on_goal 2 => (dsimp -zeta only [v]; try clear v)))
    | (extract_lets +onlyGivenNames v; refine (fun (hv : Keeps s₀ v.1) => ?_) ?_; (on_goal 1 => clear_value v); (on_goal 2 => (dsimp -zeta only [v]; try clear v)))
    | (extract_lets +onlyGivenNames v; first | (have w : Mem := v; clear w) | (have w : DictState := v; clear w) | (have w : Fw := v; clear w) | clear_value v)
    | with_reducible apply State_terminate_keeps
    | with_reducible apply State_reportFault_keeps
    | (with_reducible refine foldl_keeps _ _ ?_ ?_; on_goal 2 => (intro t x ht; try beta_reduce))
    | (with_reducible refine foldl_keeps₂ _ _ _ ?_ ?_; on_goal 2 => (intro t b x ht; try dsimp -zeta only))
    | (simp -zeta only [keeps_mk]; with_reducible refine Keeps.at ?_)
    | with_reducible refine pair_keeps (by with_reducible assumption) ?_
    | split
    | (dsimp -zeta only)

theorem barrierWdPulse_keeps {s₀ : State} (a0 : State) (h0 : Keeps s₀ a0) :
    Keeps s₀ (Machine.barrierWdPulse a0) := by
  unfold Machine.barrierWdPulse
  repeat' first
    | with_reducible assumption
    | (with_reducible intro x; try beta_reduce)
    | (extract_lets +onlyGivenNames v; refine (fun (hv : Keeps s₀ v) => ?_) ?_; (on_goal 1 => clear_value v); (on_goal 2 => (dsimp -zeta only [v]; try clear v)))
    | (extract_lets +onlyGivenNames v; refine (fun (hv : Keeps s₀ v.1) => ?_) ?_; (on_goal 1 => clear_value v); (on_goal 2 => (dsimp -zeta only [v]; try clear v)))
    | (extract_lets +onlyGivenNames v; first | (have w : Mem := v; clear w) | (have w : DictState := v; clear w) | (have w : Fw := v; clear w) | clear_value v)
    | with_reducible apply State_tickBars_keeps
    | with_reducible apply State_barrierStall_keeps
    | (with_reducible refine foldl_keeps _ _ ?_ ?_; on_goal 2 => (intro t x ht; try beta_reduce))
    | (with_reducible refine foldl_keeps₂ _ _ _ ?_ ?_; on_goal 2 => (intro t b x ht; try dsimp -zeta only))
    | (simp -zeta only [keeps_mk]; with_reducible refine Keeps.at ?_)
    | with_reducible refine pair_keeps (by with_reducible assumption) ?_
    | split
    | (dsimp -zeta only)

theorem State_addrFault_keeps {s₀ : State} (a0 : State) (a1 : GroupRef) (a2 : List (Nat × Nat)) (a3 : Nat) (a4 : Bool) (a5 : State) (h0 : Keeps s₀ a0) (h5 : Keeps s₀ a5) :
    Keeps s₀ (State.addrFault a0 a1 a2 a3 a4 a5) := by
  unfold State.addrFault
  repeat' first
    | with_reducible assumption
    | with_reducible apply State_threadFault_keeps
    | with_reducible apply State_violation_keeps
    | split

theorem State_laneLoad_keeps {s₀ : State} (a0 : GroupRef) (a1 : Nat) (a2 : Nat) (a3 : Nat) (a4 : List (Nat × Nat)) (a5 : State) (h5 : Keeps s₀ a5) :
    Keeps s₀ (State.laneLoad a0 a1 a2 a3 a4 a5) := by
  induction a4 generalizing a0 a1 a2 a3 a5 with
  | nil =>
    rw [State.laneLoad]
    repeat' first
      | with_reducible assumption
      | (with_reducible intro x; try beta_reduce)
      | (extract_lets +onlyGivenNames v; refine (fun (hv : Keeps s₀ v) => ?_) ?_; (on_goal 1 => clear_value v); (on_goal 2 => (dsimp -zeta only [v]; try clear v)))
      | (extract_lets +onlyGivenNames v; refine (fun (hv : Keeps s₀ v.1) => ?_) ?_; (on_goal 1 => clear_value v); (on_goal 2 => (dsimp -zeta only [v]; try clear v)))
      | (extract_lets +onlyGivenNames v; first | (have w : Mem := v; clear w) | (have w : DictState := v; clear w) | (have w : Fw := v; clear w) | clear_value v)
      | with_reducible apply ih
      | with_reducible apply State_adjTile_keeps
      | with_reducible apply State_deliverLoad_keeps
      | with_reducible apply State_laneDone_keeps
      | with_reducible apply State_missLoad_keeps
      | (with_reducible refine foldl_keeps _ _ ?_ ?_; on_goal 2 => (intro t x ht; try beta_reduce))
      | (with_reducible refine foldl_keeps₂ _ _ _ ?_ ?_; on_goal 2 => (intro t b x ht; try dsimp -zeta only))
      | (simp -zeta only [keeps_mk]; with_reducible refine Keeps.at ?_)
      | with_reducible refine pair_keeps (by with_reducible assumption) ?_
      | split
      | (dsimp -zeta only)
  | cons x l ih =>
    rw [State.laneLoad]
    repeat' first
      | with_reducible assumption
      | (with_reducible intro x; try beta_reduce)
      | (extract_lets +onlyGivenNames v; refine (fun (hv : Keeps s₀ v) => ?_) ?_; (on_goal 1 => clear_value v); (on_goal 2 => (dsimp -zeta only [v]; try clear v)))
      | (extract_lets +onlyGivenNames v; refine (fun (hv : Keeps s₀ v.1) => ?_) ?_; (on_goal 1 => clear_value v); (on_goal 2 => (dsimp -zeta only [v]; try clear v)))
      | (extract_lets +onlyGivenNames v; first | (have w : Mem := v; clear w) | (have w : DictState := v; clear w) | (have w : Fw := v; clear w) | clear_value v)
      | with_reducible apply ih
      | with_reducible apply State_adjTile_keeps
      | with_reducible apply State_deliverLoad_keeps
      | with_reducible apply State_laneDone_keeps
      | with_reducible apply State_missLoad_keeps
      | (with_reducible refine foldl_keeps _ _ ?_ ?_; on_goal 2 => (intro t x ht; try beta_reduce))
      | (with_reducible refine foldl_keeps₂ _ _ _ ?_ ?_; on_goal 2 => (intro t b x ht; try dsimp -zeta only))
      | (simp -zeta only [keeps_mk]; with_reducible refine Keeps.at ?_)
      | with_reducible refine pair_keeps (by with_reducible assumption) ?_
      | split
      | (dsimp -zeta only)

theorem State_readError_keeps {s₀ : State} (a0 : State) (a1 : Nat) (a2 : Nat) (a3 : ErrHit) (h0 : Keeps s₀ a0) :
    Keeps s₀ (State.readError a0 a1 a2 a3) := by
  unfold State.readError
  repeat' first
    | with_reducible assumption
    | with_reducible apply State_l1Error_keeps
    | with_reducible apply State_feltError_keeps
    | split

theorem ld_keeps {s₀ : State} (a0 : GroupRef) (a1 : Nat) (a2 : Nat) (a3 : Nat) (a4 : ErrHit) (a5 : ParityHit) (a6 : State) (h6 : Keeps s₀ a6) :
    Keeps s₀ (Machine.ld a0 a1 a2 a3 a4 a5 a6) := by
  unfold Machine.ld
  repeat' first
    | with_reducible assumption
    | (with_reducible intro x; try beta_reduce)
    | (extract_lets +onlyGivenNames v; refine (fun (hv : Keeps s₀ v) => ?_) ?_; (on_goal 1 => clear_value v); (on_goal 2 => (dsimp -zeta only [v]; try clear v)))
    | (extract_lets +onlyGivenNames v; refine (fun (hv : Keeps s₀ v.1) => ?_) ?_; (on_goal 1 => clear_value v); (on_goal 2 => (dsimp -zeta only [v]; try clear v)))
    | (extract_lets +onlyGivenNames v; first | (have w : Mem := v; clear w) | (have w : DictState := v; clear w) | (have w : Fw := v; clear w) | clear_value v)
    | with_reducible apply State_regParity_keeps
    | with_reducible apply State_issue_keeps
    | with_reducible apply State_illegalOp_keeps
    | with_reducible apply State_checked_keeps
    | with_reducible apply State_addrFault_keeps
    | with_reducible apply State_readError_keeps
    | with_reducible apply State_laneLoad_keeps
    | with_reducible apply State_adjGroup_keeps
    | (with_reducible refine foldl_keeps _ _ ?_ ?_; on_goal 2 => (intro t x ht; try beta_reduce))
    | (with_reducible refine foldl_keeps₂ _ _ _ ?_ ?_; on_goal 2 => (intro t b x ht; try dsimp -zeta only))
    | (simp -zeta only [keeps_mk]; with_reducible refine Keeps.at ?_)
    | with_reducible refine pair_keeps (by with_reducible assumption) ?_
    | split
    | (dsimp -zeta only)

theorem State_laneStore_keeps {s₀ : State} (a0 : GroupRef) (a1 : Group) (a2 : Nat) (a3 : Nat) (a4 : Nat) (a5 : List (Nat × Nat)) (a6 : State) (h6 : Keeps s₀ a6) :
    Keeps s₀ (State.laneStore a0 a1 a2 a3 a4 a5 a6) := by
  induction a5 generalizing a0 a1 a2 a3 a4 a6 with
  | nil =>
    rw [State.laneStore]
    repeat' with_reducible assumption
  | cons x l ih =>
    rw [State.laneStore]
    repeat' first
      | with_reducible assumption
      | with_reducible apply ih
      | with_reducible apply State_adjTile_keeps
      | with_reducible apply State_adjGroup_keeps
      | with_reducible apply State_submit_keeps

theorem st_keeps {s₀ : State} (a0 : GroupRef) (a1 : Nat) (a2 : Nat) (a3 : Nat) (a4 : ParityHit) (a5 : State) (h5 : Keeps s₀ a5) :
    Keeps s₀ (Machine.st a0 a1 a2 a3 a4 a5) := by
  unfold Machine.st
  repeat' first
    | with_reducible assumption
    | (with_reducible intro x; try beta_reduce)
    | (extract_lets +onlyGivenNames v; refine (fun (hv : Keeps s₀ v) => ?_) ?_; (on_goal 1 => clear_value v); (on_goal 2 => (dsimp -zeta only [v]; try clear v)))
    | (extract_lets +onlyGivenNames v; refine (fun (hv : Keeps s₀ v.1) => ?_) ?_; (on_goal 1 => clear_value v); (on_goal 2 => (dsimp -zeta only [v]; try clear v)))
    | (extract_lets +onlyGivenNames v; first | (have w : Mem := v; clear w) | (have w : DictState := v; clear w) | (have w : Fw := v; clear w) | clear_value v)
    | with_reducible apply State_regParity_keeps
    | with_reducible apply State_issue_keeps
    | with_reducible apply State_illegalOp_keeps
    | with_reducible apply State_checked_keeps
    | with_reducible apply State_addrFault_keeps
    | with_reducible apply State_laneStore_keeps
    | with_reducible apply State_advanceGroup_keeps
    | (with_reducible refine foldl_keeps _ _ ?_ ?_; on_goal 2 => (intro t x ht; try beta_reduce))
    | (with_reducible refine foldl_keeps₂ _ _ _ ?_ ?_; on_goal 2 => (intro t b x ht; try dsimp -zeta only))
    | (simp -zeta only [keeps_mk]; with_reducible refine Keeps.at ?_)
    | with_reducible refine pair_keeps (by with_reducible assumption) ?_
    | split
    | (dsimp -zeta only)

theorem fence_keeps {s₀ : State} (a0 : GroupRef) (a1 : W64) (a2 : State) (h2 : Keeps s₀ a2) :
    Keeps s₀ (Machine.fence a0 a1 a2) := by
  unfold Machine.fence
  repeat' first
    | with_reducible assumption
    | (with_reducible intro x; try beta_reduce)
    | (extract_lets +onlyGivenNames v; refine (fun (hv : Keeps s₀ v) => ?_) ?_; (on_goal 1 => clear_value v); (on_goal 2 => (dsimp -zeta only [v]; try clear v)))
    | (extract_lets +onlyGivenNames v; first | (have w : Mem := v; clear w) | (have w : DictState := v; clear w) | (have w : Fw := v; clear w) | clear_value v)
    | with_reducible apply State_issue_keeps
    | with_reducible apply State_checkedWord_keeps
    | with_reducible apply State_advanceGroup_keeps
    | with_reducible apply State_bump_keeps
    | with_reducible apply State_drawn_keeps
    | with_reducible apply State_adjTile_keeps
    | split

theorem State_laneDrops_keeps {s₀ : State} (a0 : GroupRef) (a1 : Nat) (a2 : List Nat) (a3 : State) (h3 : Keeps s₀ a3) :
    Keeps s₀ (State.laneDrops a0 a1 a2 a3) := by
  induction a2 generalizing a0 a1 a3 with
  | nil =>
    rw [State.laneDrops]
    repeat' with_reducible assumption
  | cons x l ih =>
    rw [State.laneDrops]
    repeat' first
      | with_reducible assumption
      | with_reducible apply ih
      | with_reducible apply State_adjTile_keeps
      | with_reducible apply State_adjGroup_keeps
      | with_reducible apply State_submit_keeps

theorem lldrop_keeps {s₀ : State} (a0 : GroupRef) (a1 : W64) (a2 : ParityHit) (a3 : State) (h3 : Keeps s₀ a3) :
    Keeps s₀ (Machine.lldrop a0 a1 a2 a3) := by
  unfold Machine.lldrop
  repeat' first
    | with_reducible assumption
    | (with_reducible intro x; try beta_reduce)
    | (extract_lets +onlyGivenNames v; refine (fun (hv : Keeps s₀ v) => ?_) ?_; (on_goal 1 => clear_value v); (on_goal 2 => (dsimp -zeta only [v]; try clear v)))
    | (extract_lets +onlyGivenNames v; refine (fun (hv : Keeps s₀ v.1) => ?_) ?_; (on_goal 1 => clear_value v); (on_goal 2 => (dsimp -zeta only [v]; try clear v)))
    | (extract_lets +onlyGivenNames v; first | (have w : Mem := v; clear w) | (have w : DictState := v; clear w) | (have w : Fw := v; clear w) | clear_value v)
    | with_reducible apply State_regParity_keeps
    | with_reducible apply State_issue_keeps
    | with_reducible apply State_checkedWord_keeps
    | with_reducible apply State_addrFault_keeps
    | with_reducible apply State_laneDrops_keeps
    | with_reducible apply State_advanceGroup_keeps
    | (with_reducible refine foldl_keeps _ _ ?_ ?_; on_goal 2 => (intro t x ht; try beta_reduce))
    | (with_reducible refine foldl_keeps₂ _ _ _ ?_ ?_; on_goal 2 => (intro t b x ht; try dsimp -zeta only))
    | (simp -zeta only [keeps_mk]; with_reducible refine Keeps.at ?_)
    | with_reducible refine pair_keeps (by with_reducible assumption) ?_
    | split
    | (dsimp -zeta only)

theorem redl_keeps {s₀ : State} (a0 : GroupRef) (a1 : W64) (a2 : ParityHit) (a3 : State) (h3 : Keeps s₀ a3) :
    Keeps s₀ (Machine.redl a0 a1 a2 a3) := by
  unfold Machine.redl
  repeat' first
    | with_reducible assumption
    | (with_reducible intro x; try beta_reduce)
    | (extract_lets +onlyGivenNames v; refine (fun (hv : Keeps s₀ v) => ?_) ?_; (on_goal 1 => clear_value v); (on_goal 2 => (dsimp -zeta only [v]; try clear v)))
    | (extract_lets +onlyGivenNames v; refine (fun (hv : Keeps s₀ v.1) => ?_) ?_; (on_goal 1 => clear_value v); (on_goal 2 => (dsimp -zeta only [v]; try clear v)))
    | (extract_lets +onlyGivenNames v; first | (have w : Mem := v; clear w) | (have w : DictState := v; clear w) | (have w : Fw := v; clear w) | clear_value v)
    | with_reducible apply State_regParity_keeps
    | with_reducible apply State_issue_keeps
    | with_reducible apply State_checkedWord_keeps
    | with_reducible apply State_addrFault_keeps
    | with_reducible apply State_threadFault_keeps
    | with_reducible apply State_poisonHalted_keeps
    | with_reducible apply State_adjTile_keeps
    | with_reducible apply State_advanceGroup_keeps
    | with_reducible apply State_submit_keeps
    | with_reducible apply State_adjGroup_keeps
    | (with_reducible refine foldl_keeps _ _ ?_ ?_; on_goal 2 => (intro t x ht; try beta_reduce))
    | (with_reducible refine foldl_keeps₂ _ _ _ ?_ ?_; on_goal 2 => (intro t b x ht; try dsimp -zeta only))
    | (simp -zeta only [keeps_mk]; with_reducible refine Keeps.at ?_)
    | with_reducible refine pair_keeps (by with_reducible assumption) ?_
    | split
    | (dsimp -zeta only)

theorem rng_keeps {s₀ : State} (a0 : GroupRef) (a1 : W64) (a2 : ParityHit) (a3 : State) (h3 : Keeps s₀ a3) :
    Keeps s₀ (Machine.rng a0 a1 a2 a3) := by
  unfold Machine.rng
  repeat' first
    | with_reducible assumption
    | (with_reducible intro x; try beta_reduce)
    | (extract_lets +onlyGivenNames v; refine (fun (hv : Keeps s₀ v) => ?_) ?_; (on_goal 1 => clear_value v); (on_goal 2 => (dsimp -zeta only [v]; try clear v)))
    | (extract_lets +onlyGivenNames v; refine (fun (hv : Keeps s₀ v.1) => ?_) ?_; (on_goal 1 => clear_value v); (on_goal 2 => (dsimp -zeta only [v]; try clear v)))
    | (extract_lets +onlyGivenNames v; first | (have w : Mem := v; clear w) | (have w : DictState := v; clear w) | (have w : Fw := v; clear w) | clear_value v)
    | with_reducible apply State_regParity_keeps
    | with_reducible apply State_issue_keeps
    | with_reducible apply State_checkedWord_keeps
    | with_reducible apply State_adjGroup_keeps
    | (with_reducible refine foldl_keeps _ _ ?_ ?_; on_goal 2 => (intro t x ht; try beta_reduce))
    | (with_reducible refine foldl_keeps₂ _ _ _ ?_ ?_; on_goal 2 => (intro t b x ht; try dsimp -zeta only))
    | (simp -zeta only [keeps_mk]; with_reducible refine Keeps.at ?_)
    | with_reducible refine pair_keeps (by with_reducible assumption) ?_
    | split
    | (dsimp -zeta only)

end Sys2Proof.Laws
end

