-- ==== Sys2Proof/Laws/KeepsPeer.lean ====
section
/-! SUPPORT. What the operations of Machine/Peer.lean keep (`Keeps`): one lemma for each. -/

set_option Elab.async false
set_option linter.all false

namespace Sys2Proof.Laws

open Sys2Proof Sys2Proof.Machine

theorem State_adjPeer_keeps {s₀ : State} (a0 : State) (a1 : Nat) (a2 : Peer → Peer) (h0 : Keeps s₀ a0) :
    Keeps s₀ (State.adjPeer a0 a1 a2) := by
  unfold State.adjPeer
  repeat' first
    | with_reducible assumption
    | (extract_lets +onlyGivenNames v; first | (have w : Mem := v; clear w) | (have w : DictState := v; clear w) | (have w : Fw := v; clear w) | clear_value v)
    | (simp -zeta only [keeps_mk]; with_reducible refine Keeps.at ?_)

theorem State_sendOne_keeps {s₀ : State} (a0 : State) (a1 : Nat) (h0 : Keeps s₀ a0) :
    Keeps s₀ (State.sendOne a0 a1) := by
  unfold State.sendOne
  repeat' first
    | with_reducible assumption
    | (extract_lets +onlyGivenNames v; first | (have w : Mem := v; clear w) | (have w : DictState := v; clear w) | (have w : Fw := v; clear w) | clear_value v)
    | with_reducible apply State_adjPeer_keeps
    | split

theorem State_pump_keeps {s₀ : State} (a0 : Nat) (a1 : Nat) (a2 : State) (h2 : Keeps s₀ a2) :
    Keeps s₀ (State.pump a0 a1 a2) := by
  induction a1 generalizing a0 a2 with
  | zero =>
    rw [State.pump]
    repeat' with_reducible assumption
  | succ n ih =>
    rw [State.pump]
    repeat' first
      | with_reducible assumption
      | with_reducible apply ih
      | with_reducible apply State_sendOne_keeps

theorem State_sendMsg_keeps {s₀ : State} (a0 : State) (a1 : Nat) (a2 : PMsg) (h0 : Keeps s₀ a0) :
    Keeps s₀ (State.sendMsg a0 a1 a2) := by
  unfold State.sendMsg
  repeat' first
    | with_reducible assumption
    | (extract_lets +onlyGivenNames v; refine (fun (hv : Keeps s₀ v) => ?_) ?_; (on_goal 1 => clear_value v); (on_goal 2 => (dsimp -zeta only [v]; try clear v)))
    | with_reducible apply State_adjPeer_keeps
    | with_reducible apply State_pump_keeps

theorem State_sendCtl_keeps {s₀ : State} (a0 : State) (a1 : Nat) (a2 : Nat) (a3 : Nat) (h0 : Keeps s₀ a0) :
    Keeps s₀ (State.sendCtl a0 a1 a2 a3) := by
  unfold State.sendCtl
  repeat' first
    | with_reducible assumption
    | with_reducible apply State_adjPeer_keeps

theorem State_collFault_keeps {s₀ : State} (a0 : State) (a1 : Entry) (a2 : Nat) (h0 : Keeps s₀ a0) :
    Keeps s₀ (State.collFault a0 a1 a2) := by
  unfold State.collFault
  repeat' first
    | with_reducible assumption
    | (extract_lets +onlyGivenNames v; first | (have w : Mem := v; clear w) | (have w : DictState := v; clear w) | (have w : Fw := v; clear w) | clear_value v)
    | with_reducible apply State_finish_keeps
    | with_reducible apply State_logFault_keeps

theorem State_endPeerWork_keeps {s₀ : State} (a0 : State) (a1 : Nat) (h0 : Keeps s₀ a0) :
    Keeps s₀ (State.endPeerWork a0 a1) := by
  unfold State.endPeerWork
  repeat' first
    | with_reducible assumption
    | (extract_lets +onlyGivenNames v; refine (fun (hv : Keeps s₀ v) => ?_) ?_; (on_goal 1 => clear_value v); (on_goal 2 => (dsimp -zeta only [v]; try clear v)))
    | (extract_lets +onlyGivenNames v; first | (have w : Mem := v; clear w) | (have w : DictState := v; clear w) | (have w : Fw := v; clear w) | clear_value v)
    | with_reducible apply State_collFault_keeps
    | with_reducible apply State_drawn_keeps
    | with_reducible apply State_adjPeer_keeps
    | (with_reducible refine foldl_keeps _ _ ?_ ?_; on_goal 2 => (intro t x ht; try beta_reduce))

theorem State_peerHeldDown_keeps {s₀ : State} (a0 : State) (a1 : Nat) (h0 : Keeps s₀ a0) :
    Keeps s₀ (State.peerHeldDown a0 a1) := by
  unfold State.peerHeldDown
  repeat' first
    | with_reducible assumption
    | (with_reducible intro x; try beta_reduce)
    | (extract_lets +onlyGivenNames v; refine (fun (hv : Keeps s₀ v) => ?_) ?_; (on_goal 1 => clear_value v); (on_goal 2 => (dsimp -zeta only [v]; try clear v)))
    | (extract_lets +onlyGivenNames v; refine (fun (hv : Keeps s₀ v.1) => ?_) ?_; (on_goal 1 => clear_value v); (on_goal 2 => (dsimp -zeta only [v]; try clear v)))
    | (extract_lets +onlyGivenNames v; first | (have w : Mem := v; clear w) | (have w : DictState := v; clear w) | (have w : Fw := v; clear w) | clear_value v)
    | with_reducible apply State_endPeerWork_keeps
    | with_reducible apply State_log_keeps
    | with_reducible apply State_setFunc_keeps
    | (with_reducible refine foldl_keeps _ _ ?_ ?_; on_goal 2 => (intro t x ht; try beta_reduce))
    | (with_reducible refine foldl_keeps₂ _ _ _ ?_ ?_; on_goal 2 => (intro t b x ht; try dsimp -zeta only))
    | (simp -zeta only [keeps_mk]; with_reducible refine Keeps.at ?_)
    | with_reducible refine pair_keeps (by with_reducible assumption) ?_
    | split
    | (dsimp -zeta only)

theorem State_takeAck_keeps {s₀ : State} (a0 : State) (a1 : Nat) (a2 : Nat) (h0 : Keeps s₀ a0) :
    Keeps s₀ (State.takeAck a0 a1 a2) := by
  unfold State.takeAck
  repeat' first
    | with_reducible assumption
    | (extract_lets +onlyGivenNames v; refine (fun (hv : Keeps s₀ v) => ?_) ?_; (on_goal 1 => clear_value v); (on_goal 2 => (dsimp -zeta only [v]; try clear v)))
    | (extract_lets +onlyGivenNames v; first | (have w : Mem := v; clear w) | (have w : DictState := v; clear w) | (have w : Fw := v; clear w) | clear_value v)
    | with_reducible apply State_adjPeer_keeps
    | with_reducible apply State_pump_keeps
    | split

theorem State_retrainPort_keeps {s₀ : State} (a0 : State) (a1 : Nat) (a2 : Bool) (h0 : Keeps s₀ a0) :
    Keeps s₀ (State.retrainPort a0 a1 a2) := by
  unfold State.retrainPort
  repeat' first
    | with_reducible assumption
    | (extract_lets +onlyGivenNames v; refine (fun (hv : Keeps s₀ v) => ?_) ?_; (on_goal 1 => clear_value v); (on_goal 2 => (dsimp -zeta only [v]; try clear v)))
    | (extract_lets +onlyGivenNames v; first | (have w : Mem := v; clear w) | (have w : DictState := v; clear w) | (have w : Fw := v; clear w) | clear_value v)
    | with_reducible apply State_peerHeldDown_keeps
    | with_reducible apply State_adjPeer_keeps
    | with_reducible apply State_sendCtl_keeps
    | with_reducible apply State_log_keeps
    | with_reducible apply State_bump_keeps
    | split

theorem State_replayPort_keeps {s₀ : State} (a0 : State) (a1 : Nat) (h0 : Keeps s₀ a0) :
    Keeps s₀ (State.replayPort a0 a1) := by
  unfold State.replayPort
  repeat' first
    | with_reducible assumption
    | with_reducible apply State_retrainPort_keeps
    | with_reducible apply State_bump_keeps
    | with_reducible apply State_adjPeer_keeps
    | split

theorem State_discardFlit_keeps {s₀ : State} (a0 : State) (a1 : Nat) (h0 : Keeps s₀ a0) :
    Keeps s₀ (State.discardFlit a0 a1) := by
  unfold State.discardFlit
  repeat' first
    | with_reducible assumption
    | with_reducible apply State_adjPeer_keeps
    | with_reducible apply State_sendCtl_keeps

theorem State_protocolError_keeps {s₀ : State} (a0 : State) (a1 : Nat) (a2 : Nat) (a3 : Nat) (h0 : Keeps s₀ a0) :
    Keeps s₀ (State.protocolError a0 a1 a2 a3) := by
  unfold State.protocolError
  repeat' first
    | with_reducible assumption
    | (extract_lets +onlyGivenNames v; refine (fun (hv : Keeps s₀ v) => ?_) ?_; (on_goal 1 => clear_value v); (on_goal 2 => (dsimp -zeta only [v]; try clear v)))
    | (extract_lets +onlyGivenNames v; first | (have w : Mem := v; clear w) | (have w : DictState := v; clear w) | (have w : Fw := v; clear w) | clear_value v)
    | with_reducible apply State_bump_keeps
    | with_reducible apply State_log_keeps
    | with_reducible apply State_limitMark_keeps
    | split

theorem State_receiveFlit_keeps {s₀ : State} (a0 : State) (a1 : Nat) (a2 : Bytes) (a3 : Bool) (a4 : Nat) (a5 : Nat) (a6 : State → Nat → State) (h0 : Keeps s₀ a0) (h6 : ∀ x0 x1, Keeps s₀ x0 → Keeps s₀ (a6 x0 x1)) :
    Keeps s₀ (State.receiveFlit a0 a1 a2 a3 a4 a5 a6) := by
  unfold State.receiveFlit
  repeat' first
    | with_reducible assumption
    | (extract_lets +onlyGivenNames v; first | (have w : Mem := v; clear w) | (have w : DictState := v; clear w) | (have w : Fw := v; clear w) | clear_value v)
    | with_reducible apply h6
    | with_reducible apply State_discardFlit_keeps
    | with_reducible apply State_protocolError_keeps
    | split

theorem State_acceptData_keeps {s₀ : State} (a0 : State) (a1 : Nat) (a2 : Bytes) (a3 : Nat) (h0 : Keeps s₀ a0) :
    Keeps s₀ (State.acceptData a0 a1 a2 a3) := by
  unfold State.acceptData
  repeat' first
    | with_reducible assumption
    | (extract_lets +onlyGivenNames v; refine (fun (hv : Keeps s₀ v) => ?_) ?_; (on_goal 1 => clear_value v); (on_goal 2 => (dsimp -zeta only [v]; try clear v)))
    | (extract_lets +onlyGivenNames v; first | (have w : Mem := v; clear w) | (have w : DictState := v; clear w) | (have w : Fw := v; clear w) | clear_value v)
    | with_reducible apply State_adjPeer_keeps
    | with_reducible apply State_protocolError_keeps
    | split

theorem dataFlit_keeps {s₀ : State} (a0 : Nat) (a1 : Bytes) (a2 : Bool) (a3 : State) (h3 : Keeps s₀ a3) :
    Keeps s₀ (Machine.dataFlit a0 a1 a2 a3) := by
  unfold Machine.dataFlit
  repeat' first
    | with_reducible assumption
    | (with_reducible intro x; try beta_reduce)
    | (extract_lets +onlyGivenNames v; refine (fun (hv : Keeps s₀ v) => ?_) ?_; (on_goal 1 => clear_value v); (on_goal 2 => (dsimp -zeta only [v]; try clear v)))
    | (extract_lets +onlyGivenNames v; first | (have w : Mem := v; clear w) | (have w : DictState := v; clear w) | (have w : Fw := v; clear w) | clear_value v)
    | with_reducible apply State_receiveFlit_keeps
    | with_reducible apply State_takeAck_keeps
    | with_reducible apply State_acceptData_keeps
    | with_reducible apply State_discardFlit_keeps
    | split

theorem idleFlit_keeps {s₀ : State} (a0 : Nat) (a1 : Bytes) (a2 : Bool) (a3 : State) (h3 : Keeps s₀ a3) :
    Keeps s₀ (Machine.idleFlit a0 a1 a2 a3) := by
  unfold Machine.idleFlit
  repeat' first
    | with_reducible assumption
    | (with_reducible intro x; try beta_reduce)
    | with_reducible apply State_receiveFlit_keeps
    | with_reducible apply State_takeAck_keeps

theorem nak_keeps {s₀ : State} (a0 : Nat) (a1 : Bytes) (a2 : Bool) (a3 : State) (h3 : Keeps s₀ a3) :
    Keeps s₀ (Machine.nak a0 a1 a2 a3) := by
  unfold Machine.nak
  repeat' first
    | with_reducible assumption
    | (with_reducible intro x; try beta_reduce)
    | (extract_lets +onlyGivenNames v; refine (fun (hv : Keeps s₀ v) => ?_) ?_; (on_goal 1 => clear_value v); (on_goal 2 => (dsimp -zeta only [v]; try clear v)))
    | (extract_lets +onlyGivenNames v; first | (have w : Mem := v; clear w) | (have w : DictState := v; clear w) | (have w : Fw := v; clear w) | clear_value v)
    | with_reducible apply State_receiveFlit_keeps
    | with_reducible apply State_takeAck_keeps
    | with_reducible apply State_adjPeer_keeps
    | with_reducible apply State_replayPort_keeps
    | split

theorem State_narrowPort_keeps {s₀ : State} (a0 : State) (a1 : Nat) (h0 : Keeps s₀ a0) :
    Keeps s₀ (State.narrowPort a0 a1) := by
  unfold State.narrowPort
  repeat' first
    | with_reducible assumption
    | (extract_lets +onlyGivenNames v; first | (have w : Mem := v; clear w) | (have w : DictState := v; clear w) | (have w : Fw := v; clear w) | clear_value v)
    | with_reducible apply State_log_keeps
    | with_reducible apply State_sendCtl_keeps
    | with_reducible apply State_adjPeer_keeps
    | with_reducible apply State_peerHeldDown_keeps
    | split

theorem State_spareNext_keeps {s₀ : State} (a0 : Nat) (a1 : Nat) (a2 : State) (h2 : Keeps s₀ a2) :
    Keeps s₀ (State.spareNext a0 a1 a2) := by
  induction a1 generalizing a0 a2 with
  | zero =>
    rw [State.spareNext]
    repeat' with_reducible assumption
  | succ n ih =>
    rw [State.spareNext]
    repeat' first
      | with_reducible assumption
      | with_reducible apply ih
      | with_reducible apply State_adjPeer_keeps
      | with_reducible apply State_sendCtl_keeps
      | with_reducible apply State_narrowPort_keeps
      | split

theorem laneFailed_keeps {s₀ : State} (a0 : Nat) (a1 : Nat) (a2 : State) (h2 : Keeps s₀ a2) :
    Keeps s₀ (Machine.laneFailed a0 a1 a2) := by
  unfold Machine.laneFailed
  repeat' first
    | with_reducible assumption
    | (extract_lets +onlyGivenNames v; refine (fun (hv : Keeps s₀ v) => ?_) ?_; (on_goal 1 => clear_value v); (on_goal 2 => (dsimp -zeta only [v]; try clear v)))
    | with_reducible apply State_adjPeer_keeps
    | with_reducible apply State_spareNext_keeps
    | split

theorem State_steered_keeps {s₀ : State} (a0 : State) (a1 : Nat) (a2 : Nat) (a3 : Nat) (h0 : Keeps s₀ a0) :
    Keeps s₀ (State.steered a0 a1 a2 a3) := by
  unfold State.steered
  repeat' first
    | with_reducible assumption
    | (extract_lets +onlyGivenNames v; refine (fun (hv : Keeps s₀ v) => ?_) ?_; (on_goal 1 => clear_value v); (on_goal 2 => (dsimp -zeta only [v]; try clear v)))
    | with_reducible apply State_adjPeer_keeps
    | with_reducible apply State_log_keeps
    | with_reducible apply State_bump_keeps
    | with_reducible apply State_spareNext_keeps
    | with_reducible apply State_pump_keeps

theorem laneSwap_keeps {s₀ : State} (a0 : Nat) (a1 : Bytes) (a2 : Bool) (a3 : State) (h3 : Keeps s₀ a3) :
    Keeps s₀ (Machine.laneSwap a0 a1 a2 a3) := by
  unfold Machine.laneSwap
  repeat' first
    | with_reducible assumption
    | (with_reducible intro x; try beta_reduce)
    | (extract_lets +onlyGivenNames v; refine (fun (hv : Keeps s₀ v) => ?_) ?_; (on_goal 1 => clear_value v); (on_goal 2 => (dsimp -zeta only [v]; try clear v)))
    | (extract_lets +onlyGivenNames v; first | (have w : Mem := v; clear w) | (have w : DictState := v; clear w) | (have w : Fw := v; clear w) | clear_value v)
    | with_reducible apply State_receiveFlit_keeps
    | with_reducible apply State_sendCtl_keeps
    | with_reducible apply State_takeAck_keeps
    | with_reducible apply State_steered_keeps
    | with_reducible apply State_adjPeer_keeps
    | split

theorem laneSwapAck_keeps {s₀ : State} (a0 : Nat) (a1 : Bytes) (a2 : Bool) (a3 : State) (h3 : Keeps s₀ a3) :
    Keeps s₀ (Machine.laneSwapAck a0 a1 a2 a3) := by
  unfold Machine.laneSwapAck
  repeat' first
    | with_reducible assumption
    | (with_reducible intro x; try beta_reduce)
    | (extract_lets +onlyGivenNames v; refine (fun (hv : Keeps s₀ v) => ?_) ?_; (on_goal 1 => clear_value v); (on_goal 2 => (dsimp -zeta only [v]; try clear v)))
    | with_reducible apply State_receiveFlit_keeps
    | with_reducible apply State_takeAck_keeps
    | with_reducible apply State_steered_keeps
    | split

theorem width_keeps {s₀ : State} (a0 : Nat) (a1 : Bytes) (a2 : Bool) (a3 : State) (h3 : Keeps s₀ a3) :
    Keeps s₀ (Machine.width a0 a1 a2 a3) := by
  unfold Machine.width
  repeat' first
    | with_reducible assumption
    | (with_reducible intro x; try beta_reduce)
    | with_reducible apply State_receiveFlit_keeps
    | with_reducible apply State_log_keeps
    | with_reducible apply State_adjPeer_keeps
    | with_reducible apply State_takeAck_keeps

theorem retrain_keeps {s₀ : State} (a0 : Nat) (a1 : Bytes) (a2 : Bool) (a3 : State) (h3 : Keeps s₀ a3) :
    Keeps s₀ (Machine.retrain a0 a1 a2 a3) := by
  unfold Machine.retrain
  repeat' first
    | with_reducible assumption
    | (with_reducible intro x; try beta_reduce)
    | with_reducible apply State_receiveFlit_keeps
    | with_reducible apply State_retrainPort_keeps
    | with_reducible apply State_takeAck_keeps

theorem replayTimeout_keeps {s₀ : State} (a0 : Nat) (a1 : State) (h1 : Keeps s₀ a1) :
    Keeps s₀ (Machine.replayTimeout a0 a1) := by
  unfold Machine.replayTimeout
  repeat' first
    | with_reducible assumption
    | with_reducible apply State_replayPort_keeps
    | split

theorem peerRetrainComplete_keeps {s₀ : State} (a0 : Nat) (a1 : State) (h1 : Keeps s₀ a1) :
    Keeps s₀ (Machine.peerRetrainComplete a0 a1) := by
  unfold Machine.peerRetrainComplete
  repeat' first
    | with_reducible assumption
    | (extract_lets +onlyGivenNames v; refine (fun (hv : Keeps s₀ v) => ?_) ?_; (on_goal 1 => clear_value v); (on_goal 2 => (dsimp -zeta only [v]; try clear v)))
    | with_reducible apply State_adjPeer_keeps
    | with_reducible apply State_spareNext_keeps
    | with_reducible apply State_pump_keeps
    | split

theorem State_popMsg_keeps {s₀ : State} (a0 : State) (a1 : Nat) (a2 : Nat) (h0 : Keeps s₀ a0) :
    Keeps s₀ (State.popMsg a0 a1 a2) := by
  unfold State.popMsg
  repeat' first
    | with_reducible assumption
    | with_reducible apply State_adjPeer_keeps
    | split

theorem State_answer_keeps {s₀ : State} (a0 : State) (a1 : Nat) (a2 : PMsg) (a3 : Nat) (a4 : Nat) (a5 : List SectorVal) (h0 : Keeps s₀ a0) :
    Keeps s₀ (State.answer a0 a1 a2 a3 a4 a5) := by
  unfold State.answer
  repeat' first
    | with_reducible assumption
    | with_reducible apply State_sendMsg_keeps

theorem State_peerStore_keeps {s₀ : State} (a0 : Nat) (a1 : Nat) (a2 : List SectorVal) (a3 : State) (h3 : Keeps s₀ a3) :
    Keeps s₀ (State.peerStore a0 a1 a2 a3).1 := by
  induction a2 generalizing a0 a1 a3 with
  | nil =>
    rw [State.peerStore]
    repeat' first
      | with_reducible assumption
      | (with_reducible intro x; try beta_reduce)
      | (extract_lets +onlyGivenNames v; refine (fun (hv : Keeps s₀ v) => ?_) ?_; (on_goal 1 => clear_value v); (on_goal 2 => (dsimp -zeta only [v]; try clear v)))
      | (extract_lets +onlyGivenNames v; refine (fun (hv : Keeps s₀ v.1) => ?_) ?_; (on_goal 1 => clear_value v); (on_goal 2 => (dsimp -zeta only [v]; try clear v)))
      | (extract_lets +onlyGivenNames v; first | (have w : Mem := v; clear w) | (have w : DictState := v; clear w) | (have w : Fw := v; clear w) | clear_value v)
      | with_reducible apply ih
      | with_reducible apply State_bankStore_keeps
      | (with_reducible refine foldl_keeps _ _ ?_ ?_; on_goal 2 => (intro t x ht; try beta_reduce))
      | (with_reducible refine foldl_keeps₂ _ _ _ ?_ ?_; on_goal 2 => (intro t b x ht; try dsimp -zeta only))
      | (simp -zeta only [keeps_mk]; with_reducible refine Keeps.at ?_)
      | with_reducible refine pair_keeps (by with_reducible assumption) ?_
      | split
      | (dsimp -zeta only)
  | cons x l ih =>
    rw [State.peerStore]
    repeat' first
      | with_reducible assumption
      | (with_reducible intro x; try beta_reduce)
      | (extract_lets +onlyGivenNames v; refine (fun (hv : Keeps s₀ v) => ?_) ?_; (on_goal 1 => clear_value v); (on_goal 2 => (dsimp -zeta only [v]; try clear v)))
      | (extract_lets +onlyGivenNames v; refine (fun (hv : Keeps s₀ v.1) => ?_) ?_; (on_goal 1 => clear_value v); (on_goal 2 => (dsimp -zeta only [v]; try clear v)))
      | (extract_lets +onlyGivenNames v; first | (have w : Mem := v; clear w) | (have w : DictState := v; clear w) | (have w : Fw := v; clear w) | clear_value v)
      | with_reducible apply ih
      | with_reducible apply State_bankStore_keeps
      | (with_reducible refine foldl_keeps _ _ ?_ ?_; on_goal 2 => (intro t x ht; try beta_reduce))
      | (with_reducible refine foldl_keeps₂ _ _ _ ?_ ?_; on_goal 2 => (intro t b x ht; try dsimp -zeta only))
      | (simp -zeta only [keeps_mk]; with_reducible refine Keeps.at ?_)
      | with_reducible refine pair_keeps (by with_reducible assumption) ?_
      | split
      | (dsimp -zeta only)

theorem State_peerLoad_keeps {s₀ : State} (a0 : Nat) (a1 : Nat) (a2 : Nat) (a3 : State) (h3 : Keeps s₀ a3) :
    Keeps s₀ (State.peerLoad a0 a1 a2 a3).1 := by
  induction a1 generalizing a0 a2 a3 with
  | zero =>
    rw [State.peerLoad]
    repeat' first
      | with_reducible assumption
      | (with_reducible intro x; try beta_reduce)
      | (extract_lets +onlyGivenNames v; refine (fun (hv : Keeps s₀ v) => ?_) ?_; (on_goal 1 => clear_value v); (on_goal 2 => (dsimp -zeta only [v]; try clear v)))
      | (extract_lets +onlyGivenNames v; refine (fun (hv : Keeps s₀ v.1) => ?_) ?_; (on_goal 1 => clear_value v); (on_goal 2 => (dsimp -zeta only [v]; try clear v)))
      | (extract_lets +onlyGivenNames v; first | (have w : Mem := v; clear w) | (have w : DictState := v; clear w) | (have w : Fw := v; clear w) | clear_value v)
      | with_reducible apply ih
      | with_reducible apply State_bankRead_keeps
      | (with_reducible refine foldl_keeps _ _ ?_ ?_; on_goal 2 => (intro t x ht; try beta_reduce))
      | (with_reducible refine foldl_keeps₂ _ _ _ ?_ ?_; on_goal 2 => (intro t b x ht; try dsimp -zeta only))
      | (simp -zeta only [keeps_mk]; with_reducible refine Keeps.at ?_)
      | with_reducible refine pair_keeps (by with_reducible assumption) ?_
      | split
      | (dsimp -zeta only)
  | succ n ih =>
    rw [State.peerLoad]
    repeat' first
      | with_reducible assumption
      | (with_reducible intro x; try beta_reduce)
      | (extract_lets +onlyGivenNames v; refine (fun (hv : Keeps s₀ v) => ?_) ?_; (on_goal 1 => clear_value v); (on_goal 2 => (dsimp -zeta only [v]; try clear v)))
      | (extract_lets +onlyGivenNames v; refine (fun (hv : Keeps s₀ v.1) => ?_) ?_; (on_goal 1 => clear_value v); (on_goal 2 => (dsimp -zeta only [v]; try clear v)))
      | (extract_lets +onlyGivenNames v; first | (have w : Mem := v; clear w) | (have w : DictState := v; clear w) | (have w : Fw := v; clear w) | clear_value v)
      | with_reducible apply ih
      | with_reducible apply State_bankRead_keeps
      | (with_reducible refine foldl_keeps _ _ ?_ ?_; on_goal 2 => (intro t x ht; try beta_reduce))
      | (with_reducible refine foldl_keeps₂ _ _ _ ?_ ?_; on_goal 2 => (intro t b x ht; try dsimp -zeta only))
      | (simp -zeta only [keeps_mk]; with_reducible refine Keeps.at ?_)
      | with_reducible refine pair_keeps (by with_reducible assumption) ?_
      | split
      | (dsimp -zeta only)

theorem State_refuseMsg_keeps {s₀ : State} (a0 : State) (a1 : Nat) (a2 : PMsg) (a3 : Nat) (a4 : Option Nat) (h0 : Keeps s₀ a0) :
    Keeps s₀ (State.refuseMsg a0 a1 a2 a3 a4) := by
  unfold State.refuseMsg
  repeat' first
    | with_reducible assumption
    | (extract_lets +onlyGivenNames v; refine (fun (hv : Keeps s₀ v) => ?_) ?_; (on_goal 1 => clear_value v); (on_goal 2 => (dsimp -zeta only [v]; try clear v)))
    | with_reducible apply State_violation_keeps
    | with_reducible apply State_answer_keeps
    | with_reducible apply State_popMsg_keeps
    | split

theorem write_keeps {s₀ : State} (a0 : Nat) (a1 : State) (h1 : Keeps s₀ a1) :
    Keeps s₀ (Machine.write a0 a1) := by
  unfold Machine.write
  repeat' first
    | with_reducible assumption
    | (with_reducible intro x; try beta_reduce)
    | (extract_lets +onlyGivenNames v; refine (fun (hv : Keeps s₀ v) => ?_) ?_; (on_goal 1 => clear_value v); (on_goal 2 => (dsimp -zeta only [v]; try clear v)))
    | (extract_lets +onlyGivenNames v; refine (fun (hv : Keeps s₀ v.1) => ?_) ?_; (on_goal 1 => clear_value v); (on_goal 2 => (dsimp -zeta only [v]; try clear v)))
    | (extract_lets +onlyGivenNames v; first | (have w : Mem := v; clear w) | (have w : DictState := v; clear w) | (have w : Fw := v; clear w) | clear_value v)
    | with_reducible apply State_refuseMsg_keeps
    | with_reducible apply State_peerStore_keeps
    | with_reducible apply State_keepDefer_keeps
    | with_reducible apply State_retry_keeps
    | with_reducible apply State_poisonHalted_keeps
    | with_reducible apply State_answer_keeps
    | with_reducible apply State_popMsg_keeps
    | (with_reducible refine foldl_keeps _ _ ?_ ?_; on_goal 2 => (intro t x ht; try beta_reduce))
    | (with_reducible refine foldl_keeps₂ _ _ _ ?_ ?_; on_goal 2 => (intro t b x ht; try dsimp -zeta only))
    | (simp -zeta only [keeps_mk]; with_reducible refine Keeps.at ?_)
    | with_reducible refine pair_keeps (by with_reducible assumption) ?_
    | split
    | (dsimp -zeta only)

theorem read_keeps {s₀ : State} (a0 : Nat) (a1 : State) (h1 : Keeps s₀ a1) :
    Keeps s₀ (Machine.read a0 a1) := by
  unfold Machine.read
  repeat' first
    | with_reducible assumption
    | (with_reducible intro x; try beta_reduce)
    | (extract_lets +onlyGivenNames v; refine (fun (hv : Keeps s₀ v) => ?_) ?_; (on_goal 1 => clear_value v); (on_goal 2 => (dsimp -zeta only [v]; try clear v)))
    | (extract_lets +onlyGivenNames v; refine (fun (hv : Keeps s₀ v.1) => ?_) ?_; (on_goal 1 => clear_value v); (on_goal 2 => (dsimp -zeta only [v]; try clear v)))
    | (extract_lets +onlyGivenNames v; first | (have w : Mem := v; clear w) | (have w : DictState := v; clear w) | (have w : Fw := v; clear w) | clear_value v)
    | with_reducible apply State_refuseMsg_keeps
    | with_reducible apply State_peerLoad_keeps
    | with_reducible apply State_keepDefer_keeps
    | with_reducible apply State_poisonHalted_keeps
    | with_reducible apply State_answer_keeps
    | with_reducible apply State_popMsg_keeps
    | (with_reducible refine foldl_keeps _ _ ?_ ?_; on_goal 2 => (intro t x ht; try beta_reduce))
    | (with_reducible refine foldl_keeps₂ _ _ _ ?_ ?_; on_goal 2 => (intro t b x ht; try dsimp -zeta only))
    | (simp -zeta only [keeps_mk]; with_reducible refine Keeps.at ?_)
    | with_reducible refine pair_keeps (by with_reducible assumption) ?_
    | split
    | (dsimp -zeta only)

theorem State_settleReq_keeps {s₀ : State} (a0 : State) (a1 : Nat) (a2 : PReq → Bool) (a3 : PReq → PReq) (h0 : Keeps s₀ a0) :
    Keeps s₀ (State.settleReq a0 a1 a2 a3) := by
  unfold State.settleReq
  repeat' first
    | with_reducible assumption
    | with_reducible apply State_adjPeer_keeps

theorem readData_keeps {s₀ : State} (a0 : Nat) (a1 : State) (h1 : Keeps s₀ a1) :
    Keeps s₀ (Machine.readData a0 a1) := by
  unfold Machine.readData
  repeat' first
    | with_reducible assumption
    | with_reducible apply State_settleReq_keeps
    | with_reducible apply State_popMsg_keeps
    | split

theorem writeAck_keeps {s₀ : State} (a0 : Nat) (a1 : State) (h1 : Keeps s₀ a1) :
    Keeps s₀ (Machine.writeAck a0 a1) := by
  unfold Machine.writeAck
  repeat' first
    | with_reducible assumption
    | with_reducible apply State_adjPeer_keeps
    | with_reducible apply State_popMsg_keeps
    | split

theorem error_keeps {s₀ : State} (a0 : Nat) (a1 : State) (h1 : Keeps s₀ a1) :
    Keeps s₀ (Machine.error a0 a1) := by
  unfold Machine.error
  repeat' first
    | with_reducible assumption
    | with_reducible apply State_settleReq_keeps
    | with_reducible apply State_popMsg_keeps
    | split

end Sys2Proof.Laws
end

