-- ==== Sys2Proof/Laws/KeepsCollective.lean ====
section
/-! SUPPORT. What the operations of Machine/Collective.lean keep (`Keeps`): one lemma for each. -/

set_option Elab.async false
set_option linter.all false

namespace Sys2Proof.Laws

open Sys2Proof Sys2Proof.Machine

theorem State_startChannel_keeps {s₀ : State} (a0 : State) (a1 : Nat) (a2 : Channel) (h0 : Keeps s₀ a0) :
    Keeps s₀ (State.startChannel a0 a1 a2) := by
  unfold State.startChannel
  repeat' first
    | with_reducible assumption
    | with_reducible apply State_adjEntry_keeps

theorem State_engineRead_keeps {s₀ : State} (a0 : State) (a1 : Nat) (a2 : Nat) (a3 : Nat) (a4 : Nat) (h0 : Keeps s₀ a0) :
    Keeps s₀ (State.engineRead a0 a1 a2 a3 a4).1 := by
  unfold State.engineRead
  repeat' first
    | with_reducible assumption
    | (with_reducible intro x; try beta_reduce)
    | (extract_lets +onlyGivenNames v; refine (fun (hv : Keeps s₀ v) => ?_) ?_; (on_goal 1 => clear_value v); (on_goal 2 => (dsimp -zeta only [v]; try clear v)))
    | (extract_lets +onlyGivenNames v; refine (fun (hv : Keeps s₀ v.1) => ?_) ?_; (on_goal 1 => clear_value v); (on_goal 2 => (dsimp -zeta only [v]; try clear v)))
    | (extract_lets +onlyGivenNames v; first | (have w : Mem := v; clear w) | (have w : DictState := v; clear w) | (have w : Fw := v; clear w) | clear_value v)
    | with_reducible apply State_violation_keeps
    | with_reducible apply State_bankRead_keeps
    | with_reducible apply State_poisonHalted_keeps
    | (with_reducible refine foldl_keeps _ _ ?_ ?_; on_goal 2 => (intro t x ht; try beta_reduce))
    | (with_reducible refine foldl_keeps₂ _ _ _ ?_ ?_; on_goal 2 => (intro t b x ht; try dsimp -zeta only))
    | (simp -zeta only [keeps_mk]; with_reducible refine Keeps.at ?_)
    | with_reducible refine pair_keeps (by with_reducible assumption) ?_
    | split
    | (dsimp -zeta only)

theorem State_engineReads_keeps {s₀ : State} (a0 : Nat) (a1 : Nat) (a2 : Nat) (a3 : Nat) (a4 : Nat) (a5 : State) (h5 : Keeps s₀ a5) :
    Keeps s₀ (State.engineReads a0 a1 a2 a3 a4 a5).1 := by
  induction a3 generalizing a0 a1 a2 a4 a5 with
  | zero =>
    rw [State.engineReads]
    repeat' with_reducible assumption
  | succ n ih =>
    rw [State.engineReads]
    repeat' first
      | with_reducible assumption
      | with_reducible apply ih
      | with_reducible apply State_engineRead_keeps
      | with_reducible refine pair_keeps (by with_reducible assumption) ?_
      | split

theorem State_engineWrite_keeps {s₀ : State} (a0 : State) (a1 : Nat) (a2 : Nat) (a3 : Nat) (a4 : Bytes) (a5 : Option PoisonClass) (h0 : Keeps s₀ a0) :
    Keeps s₀ (State.engineWrite a0 a1 a2 a3 a4 a5).1 := by
  unfold State.engineWrite
  repeat' first
    | with_reducible assumption
    | with_reducible apply State_violation_keeps
    | with_reducible apply State_bankStore_keeps
    | (simp -zeta only [keeps_mk]; with_reducible refine Keeps.at ?_)
    | with_reducible refine pair_keeps (by with_reducible assumption) ?_
    | split

theorem State_engineWrites_keeps {s₀ : State} (a0 : Nat) (a1 : Nat) (a2 : List (Nat × Bytes × Option PoisonClass)) (a3 : State) (h3 : Keeps s₀ a3) :
    Keeps s₀ (State.engineWrites a0 a1 a2 a3).1 := by
  induction a2 generalizing a0 a1 a3 with
  | nil =>
    rw [State.engineWrites]
    repeat' with_reducible assumption
  | cons x l ih =>
    rw [State.engineWrites]
    repeat' first
      | with_reducible assumption
      | with_reducible apply ih
      | with_reducible apply State_engineWrite_keeps
      | with_reducible refine pair_keeps (by with_reducible assumption) ?_
      | split

theorem State_hostWriteSector_keeps {s₀ : State} (a0 : State) (a1 : Nat) (a2 : Nat) (a3 : SectorVal) (h0 : Keeps s₀ a0) :
    Keeps s₀ (State.hostWriteSector a0 a1 a2 a3).1 := by
  unfold State.hostWriteSector
  split
  · exact h0.host (wf_setSector _ _ _)
  · extract_lets +onlyGivenNames v
    have hv : Keeps s₀ v := State_log_keeps _ _ _ _ _ _ (State_bump_keeps _ _ _ h0)
    exact hv.host (wf_setSector _ _ _)

theorem State_staged_keeps {s₀ : State} (a0 : State) (a1 : Nat) (a2 : LogAddr) (a3 : Nat × ErrHit) (a4 : Nat) (a5 : SectorVal) (h0 : Keeps s₀ a0) :
    Keeps s₀ (State.staged a0 a1 a2 a3 a4 a5).1 := by
  unfold State.staged
  repeat' first
    | with_reducible assumption
    | (with_reducible intro x; try beta_reduce)
    | (extract_lets +onlyGivenNames v; refine (fun (hv : Keeps s₀ v) => ?_) ?_; (on_goal 1 => clear_value v); (on_goal 2 => (dsimp -zeta only [v]; try clear v)))
    | (extract_lets +onlyGivenNames v; refine (fun (hv : Keeps s₀ v.1) => ?_) ?_; (on_goal 1 => clear_value v); (on_goal 2 => (dsimp -zeta only [v]; try clear v)))
    | (extract_lets +onlyGivenNames v; first | (have w : Mem := v; clear w) | (have w : DictState := v; clear w) | (have w : Fw := v; clear w) | clear_value v)
    | with_reducible apply State_canvasError_keeps
    | (with_reducible refine foldl_keeps _ _ ?_ ?_; on_goal 2 => (intro t x ht; try beta_reduce))
    | (with_reducible refine foldl_keeps₂ _ _ _ ?_ ?_; on_goal 2 => (intro t b x ht; try dsimp -zeta only))
    | (simp -zeta only [keeps_mk]; with_reducible refine Keeps.at ?_)
    | with_reducible refine pair_keeps (by with_reducible assumption) ?_
    | split
    | (dsimp -zeta only)

theorem State_copySectors_keeps {s₀ : State} (a0 : Entry) (a1 : Nat) (a2 : CopyHits) (a3 : Nat) (a4 : Nat) (a5 : Option Nat) (a6 : State) (h6 : Keeps s₀ a6) :
    Keeps s₀ (State.copySectors a0 a1 a2 a3 a4 a5 a6).1 := by
  induction a3 generalizing a0 a1 a2 a4 a5 a6 with
  | zero =>
    rw [State.copySectors]
    repeat' first
      | with_reducible assumption
      | (with_reducible intro x; try beta_reduce)
      | (extract_lets +onlyGivenNames v; refine (fun (hv : Keeps s₀ v) => ?_) ?_; (on_goal 1 => clear_value v); (on_goal 2 => (dsimp -zeta only [v]; try clear v)))
      | (extract_lets +onlyGivenNames v; refine (fun (hv : Keeps s₀ v.1) => ?_) ?_; (on_goal 1 => clear_value v); (on_goal 2 => (dsimp -zeta only [v]; try clear v)))
      | (extract_lets +onlyGivenNames v; first | (have w : Mem := v; clear w) | (have w : DictState := v; clear w) | (have w : Fw := v; clear w) | clear_value v)
      | with_reducible apply ih
      | with_reducible apply State_poisonHalted_keeps
      | with_reducible apply State_engineRead_keeps
      | with_reducible apply State_engineWrite_keeps
      | with_reducible apply State_hostWriteSector_keeps
      | with_reducible apply State_staged_keeps
      | (with_reducible refine foldl_keeps _ _ ?_ ?_; on_goal 2 => (intro t x ht; try beta_reduce))
      | (with_reducible refine foldl_keeps₂ _ _ _ ?_ ?_; on_goal 2 => (intro t b x ht; try dsimp -zeta only))
      | (simp -zeta only [keeps_mk]; with_reducible refine Keeps.at ?_)
      | with_reducible refine pair_keeps (by with_reducible assumption) ?_
      | split
      | (dsimp -zeta only)
  | succ n ih =>
    rw [State.copySectors]
    repeat' first
      | with_reducible assumption
      | (with_reducible intro x; try beta_reduce)
      | (extract_lets +onlyGivenNames v; refine (fun (hv : Keeps s₀ v) => ?_) ?_; (on_goal 1 => clear_value v); (on_goal 2 => (dsimp -zeta only [v]; try clear v)))
      | (extract_lets +onlyGivenNames v; refine (fun (hv : Keeps s₀ v.1) => ?_) ?_; (on_goal 1 => clear_value v); (on_goal 2 => (dsimp -zeta only [v]; try clear v)))
      | (extract_lets +onlyGivenNames v; first | (have w : Mem := v; clear w) | (have w : DictState := v; clear w) | (have w : Fw := v; clear w) | clear_value v)
      | with_reducible apply ih
      | with_reducible apply State_poisonHalted_keeps
      | with_reducible apply State_engineRead_keeps
      | with_reducible apply State_engineWrite_keeps
      | with_reducible apply State_hostWriteSector_keeps
      | with_reducible apply State_staged_keeps
      | (with_reducible refine foldl_keeps _ _ ?_ ?_; on_goal 2 => (intro t x ht; try beta_reduce))
      | (with_reducible refine foldl_keeps₂ _ _ _ ?_ ?_; on_goal 2 => (intro t b x ht; try dsimp -zeta only))
      | (simp -zeta only [keeps_mk]; with_reducible refine Keeps.at ?_)
      | with_reducible refine pair_keeps (by with_reducible assumption) ?_
      | split
      | (dsimp -zeta only)

theorem State_runCopy_keeps {s₀ : State} (a0 : State) (a1 : Entry) (a2 : Nat) (a3 : CopyHits) (h0 : Keeps s₀ a0) :
    Keeps s₀ (State.runCopy a0 a1 a2 a3) := by
  unfold State.runCopy
  repeat' first
    | with_reducible assumption
    | (with_reducible intro x; try beta_reduce)
    | (extract_lets +onlyGivenNames v; refine (fun (hv : Keeps s₀ v) => ?_) ?_; (on_goal 1 => clear_value v); (on_goal 2 => (dsimp -zeta only [v]; try clear v)))
    | (extract_lets +onlyGivenNames v; refine (fun (hv : Keeps s₀ v.1) => ?_) ?_; (on_goal 1 => clear_value v); (on_goal 2 => (dsimp -zeta only [v]; try clear v)))
    | (extract_lets +onlyGivenNames v; first | (have w : Mem := v; clear w) | (have w : DictState := v; clear w) | (have w : Fw := v; clear w) | clear_value v)
    | with_reducible apply State_copySectors_keeps
    | with_reducible apply State_keepDefer_keeps
    | with_reducible apply State_retry_keeps
    | with_reducible apply State_finish_keeps
    | with_reducible apply State_logFault_keeps
    | (with_reducible refine foldl_keeps _ _ ?_ ?_; on_goal 2 => (intro t x ht; try beta_reduce))
    | (with_reducible refine foldl_keeps₂ _ _ _ ?_ ?_; on_goal 2 => (intro t b x ht; try dsimp -zeta only))
    | (simp -zeta only [keeps_mk]; with_reducible refine Keeps.at ?_)
    | with_reducible refine pair_keeps (by with_reducible assumption) ?_
    | split
    | (dsimp -zeta only)

theorem copyDispatch_keeps {s₀ : State} (a0 : Nat) (a1 : Option Nat) (a2 : Nat × ErrHit) (a3 : State) (h3 : Keeps s₀ a3) :
    Keeps s₀ (Machine.copyDispatch a0 a1 a2 a3) := by
  unfold Machine.copyDispatch
  repeat' first
    | with_reducible assumption
    | (with_reducible intro x; try beta_reduce)
    | (extract_lets +onlyGivenNames v; refine (fun (hv : Keeps s₀ v) => ?_) ?_; (on_goal 1 => clear_value v); (on_goal 2 => (dsimp -zeta only [v]; try clear v)))
    | (extract_lets +onlyGivenNames v; refine (fun (hv : Keeps s₀ v.1) => ?_) ?_; (on_goal 1 => clear_value v); (on_goal 2 => (dsimp -zeta only [v]; try clear v)))
    | (extract_lets +onlyGivenNames v; first | (have w : Mem := v; clear w) | (have w : DictState := v; clear w) | (have w : Fw := v; clear w) | clear_value v)
    | with_reducible apply State_runCopy_keeps
    | with_reducible apply State_startChannel_keeps
    | (with_reducible refine foldl_keeps _ _ ?_ ?_; on_goal 2 => (intro t x ht; try beta_reduce))
    | (with_reducible refine foldl_keeps₂ _ _ _ ?_ ?_; on_goal 2 => (intro t b x ht; try dsimp -zeta only))
    | (simp -zeta only [keeps_mk]; with_reducible refine Keeps.at ?_)
    | with_reducible refine pair_keeps (by with_reducible assumption) ?_
    | split
    | (dsimp -zeta only)

theorem State_resumeCopies_keeps {s₀ : State} (a0 : State) (h0 : Keeps s₀ a0) :
    Keeps s₀ (State.resumeCopies a0) := by
  unfold State.resumeCopies
  repeat' first
    | with_reducible assumption
    | (with_reducible intro x; try beta_reduce)
    | (extract_lets +onlyGivenNames v; refine (fun (hv : Keeps s₀ v) => ?_) ?_; (on_goal 1 => clear_value v); (on_goal 2 => (dsimp -zeta only [v]; try clear v)))
    | (extract_lets +onlyGivenNames v; refine (fun (hv : Keeps s₀ v.1) => ?_) ?_; (on_goal 1 => clear_value v); (on_goal 2 => (dsimp -zeta only [v]; try clear v)))
    | (extract_lets +onlyGivenNames v; first | (have w : Mem := v; clear w) | (have w : DictState := v; clear w) | (have w : Fw := v; clear w) | clear_value v)
    | with_reducible apply copyDispatch_keeps
    | (with_reducible refine foldl_keeps _ _ ?_ ?_; on_goal 2 => (intro t x ht; try beta_reduce))
    | (with_reducible refine foldl_keeps₂ _ _ _ ?_ ?_; on_goal 2 => (intro t b x ht; try dsimp -zeta only))
    | (simp -zeta only [keeps_mk]; with_reducible refine Keeps.at ?_)
    | with_reducible refine pair_keeps (by with_reducible assumption) ?_
    | split
    | (dsimp -zeta only)

theorem copyHostAccessWaitExpiry_keeps {s₀ : State} (a0 : Nat) (a1 : State) (h1 : Keeps s₀ a1) :
    Keeps s₀ (Machine.copyHostAccessWaitExpiry a0 a1) := by
  unfold Machine.copyHostAccessWaitExpiry
  repeat' first
    | with_reducible assumption
    | with_reducible apply State_finish_keeps
    | split

theorem State_sendStep_keeps {s₀ : State} (a0 : State) (a1 : Channel) (a2 : CStep) (h0 : Keeps s₀ a0) :
    Keeps s₀ (State.sendStep a0 a1 a2) := by
  unfold State.sendStep
  repeat' first
    | with_reducible assumption
    | with_reducible apply State_sendMsg_keeps
    | (with_reducible refine foldl_keeps _ _ ?_ ?_; on_goal 2 => (intro t x ht; try beta_reduce))
    | split

theorem State_stepColl_keeps {s₀ : State} (a0 : List CStep) (a1 : Nat) (a2 : Channel) (a3 : State) (h3 : Keeps s₀ a3) :
    Keeps s₀ (State.stepColl a0 a1 a2 a3).2 := by
  induction a1 generalizing a0 a2 a3 with
  | zero =>
    rw [State.stepColl]
    repeat' with_reducible assumption
  | succ n ih =>
    rw [State.stepColl]
    repeat' first
      | with_reducible assumption
      | (extract_lets +onlyGivenNames v; refine (fun (hv : Keeps s₀ v) => ?_) ?_; (on_goal 1 => clear_value v); (on_goal 2 => (dsimp -zeta only [v]; try clear v)))
      | (extract_lets +onlyGivenNames v; first | (have w : Mem := v; clear w) | (have w : DictState := v; clear w) | (have w : Fw := v; clear w) | clear_value v)
      | with_reducible apply ih
      | with_reducible apply State_bump_keeps
      | with_reducible apply State_sendStep_keeps
      | split

theorem State_collResult_keeps {s₀ : State} (a0 : State) (a1 : Channel) (h0 : Keeps s₀ a0) :
    Keeps s₀ (State.collResult a0 a1).1 := by
  unfold State.collResult
  repeat' first
    | with_reducible assumption
    | (extract_lets +onlyGivenNames v; first | (have w : Mem := v; clear w) | (have w : DictState := v; clear w) | (have w : Fw := v; clear w) | clear_value v)
    | with_reducible apply State_bump_keeps
    | with_reducible apply State_drawn_keeps
    | (with_reducible refine foldl_keeps₂ _ _ _ ?_ ?_; on_goal 2 => (intro t b x ht; try dsimp -zeta only))
    | split

theorem State_collScale_keeps {s₀ : State} (a0 : State) (a1 : Channel) (a2 : W64) (h0 : Keeps s₀ a0) :
    Keeps s₀ (State.collScale a0 a1 a2).1 := by
  unfold State.collScale
  repeat' first
    | with_reducible assumption
    | (with_reducible intro x; try beta_reduce)
    | (extract_lets +onlyGivenNames v; refine (fun (hv : Keeps s₀ v) => ?_) ?_; (on_goal 1 => clear_value v); (on_goal 2 => (dsimp -zeta only [v]; try clear v)))
    | (extract_lets +onlyGivenNames v; refine (fun (hv : Keeps s₀ v.1) => ?_) ?_; (on_goal 1 => clear_value v); (on_goal 2 => (dsimp -zeta only [v]; try clear v)))
    | (extract_lets +onlyGivenNames v; first | (have w : Mem := v; clear w) | (have w : DictState := v; clear w) | (have w : Fw := v; clear w) | clear_value v)
    | with_reducible apply State_engineReads_keeps
    | with_reducible apply State_logFault_keeps
    | (with_reducible refine foldl_keeps _ _ ?_ ?_; on_goal 2 => (intro t x ht; try beta_reduce))
    | (with_reducible refine foldl_keeps₂ _ _ _ ?_ ?_; on_goal 2 => (intro t b x ht; try dsimp -zeta only))
    | (simp -zeta only [keeps_mk]; with_reducible refine Keeps.at ?_)
    | with_reducible refine pair_keeps (by with_reducible assumption) ?_
    | split
    | (dsimp -zeta only)

theorem State_collConvert_keeps {s₀ : State} (a0 : State) (a1 : Nat) (a2 : Channel) (a3 : W64) (a4 : List SectorVal) (h0 : Keeps s₀ a0) :
    Keeps s₀ (State.collConvert a0 a1 a2 a3 a4).1 := by
  unfold State.collConvert
  repeat' first
    | with_reducible assumption
    | (with_reducible intro x; try beta_reduce)
    | (extract_lets +onlyGivenNames v; refine (fun (hv : Keeps s₀ v) => ?_) ?_; (on_goal 1 => clear_value v); (on_goal 2 => (dsimp -zeta only [v]; try clear v)))
    | (extract_lets +onlyGivenNames v; refine (fun (hv : Keeps s₀ v.1) => ?_) ?_; (on_goal 1 => clear_value v); (on_goal 2 => (dsimp -zeta only [v]; try clear v)))
    | (extract_lets +onlyGivenNames v; first | (have w : Mem := v; clear w) | (have w : DictState := v; clear w) | (have w : Fw := v; clear w) | clear_value v)
    | with_reducible apply State_logFault_keeps
    | with_reducible apply State_collScale_keeps
    | with_reducible apply State_engineWrites_keeps
    | with_reducible apply State_bump_keeps
    | with_reducible apply State_raiseSat_keeps
    | (with_reducible refine foldl_keeps _ _ ?_ ?_; on_goal 2 => (intro t x ht; try beta_reduce))
    | (with_reducible refine foldl_keeps₂ _ _ _ ?_ ?_; on_goal 2 => (intro t b x ht; try dsimp -zeta only))
    | (simp -zeta only [keeps_mk]; with_reducible refine Keeps.at ?_)
    | with_reducible refine pair_keeps (by with_reducible assumption) ?_
    | split
    | (dsimp -zeta only)

theorem State_endColl_keeps {s₀ : State} (a0 : State) (a1 : Entry) (a2 : Channel) (h0 : Keeps s₀ a0) :
    Keeps s₀ (State.endColl a0 a1 a2) := by
  unfold State.endColl
  repeat' first
    | with_reducible assumption
    | (with_reducible intro x; try beta_reduce)
    | (extract_lets +onlyGivenNames v; refine (fun (hv : Keeps s₀ v) => ?_) ?_; (on_goal 1 => clear_value v); (on_goal 2 => (dsimp -zeta only [v]; try clear v)))
    | (extract_lets +onlyGivenNames v; refine (fun (hv : Keeps s₀ v.1) => ?_) ?_; (on_goal 1 => clear_value v); (on_goal 2 => (dsimp -zeta only [v]; try clear v)))
    | (extract_lets +onlyGivenNames v; first | (have w : Mem := v; clear w) | (have w : DictState := v; clear w) | (have w : Fw := v; clear w) | clear_value v)
    | with_reducible apply State_finish_keeps
    | with_reducible apply State_collResult_keeps
    | with_reducible apply State_collConvert_keeps
    | with_reducible apply State_engineWrites_keeps
    | with_reducible apply State_keepDefer_keeps
    | with_reducible apply State_retry_keeps
    | (with_reducible refine foldl_keeps _ _ ?_ ?_; on_goal 2 => (intro t x ht; try beta_reduce))
    | (with_reducible refine foldl_keeps₂ _ _ _ ?_ ?_; on_goal 2 => (intro t b x ht; try dsimp -zeta only))
    | (simp -zeta only [keeps_mk]; with_reducible refine Keeps.at ?_)
    | with_reducible refine pair_keeps (by with_reducible assumption) ?_
    | split
    | (dsimp -zeta only)

theorem State_runColl_keeps {s₀ : State} (a0 : State) (a1 : Nat) (a2 : Channel) (h0 : Keeps s₀ a0) :
    Keeps s₀ (State.runColl a0 a1 a2) := by
  unfold State.runColl
  repeat' first
    | with_reducible assumption
    | (with_reducible intro x; try beta_reduce)
    | (extract_lets +onlyGivenNames v; refine (fun (hv : Keeps s₀ v.2) => ?_) ?_; (on_goal 1 => clear_value v); (on_goal 2 => (dsimp -zeta only [v]; try clear v)))
    | (extract_lets +onlyGivenNames v; refine (fun (hv : Keeps s₀ v) => ?_) ?_; (on_goal 1 => clear_value v); (on_goal 2 => (dsimp -zeta only [v]; try clear v)))
    | (extract_lets +onlyGivenNames v; refine (fun (hv : Keeps s₀ v.1) => ?_) ?_; (on_goal 1 => clear_value v); (on_goal 2 => (dsimp -zeta only [v]; try clear v)))
    | (extract_lets +onlyGivenNames v; first | (have w : Mem := v; clear w) | (have w : DictState := v; clear w) | (have w : Fw := v; clear w) | clear_value v)
    | with_reducible apply State_stepColl_keeps
    | with_reducible apply State_adjEntry_keeps
    | with_reducible apply State_endColl_keeps
    | (with_reducible refine foldl_keeps _ _ ?_ ?_; on_goal 2 => (intro t x ht; try beta_reduce))
    | (with_reducible refine foldl_keeps₂ _ _ _ ?_ ?_; on_goal 2 => (intro t b x ht; try dsimp -zeta only))
    | (simp -zeta only [keeps_mk]; with_reducible refine Keeps.at ?_)
    | with_reducible refine pair_keeps₂ (by with_reducible assumption) ?_
    | with_reducible refine pair_keeps (by with_reducible assumption) ?_
    | split
    | (dsimp -zeta only)

theorem State_stagedAll_keeps {s₀ : State} (a0 : State) (a1 : Channel) (a2 : Nat × ErrHit) (a3 : List SectorVal) (h0 : Keeps s₀ a0) :
    Keeps s₀ (State.stagedAll a0 a1 a2 a3).1 := by
  unfold State.stagedAll
  repeat' first
    | with_reducible assumption
    | (with_reducible intro x; try beta_reduce)
    | (extract_lets +onlyGivenNames v; refine (fun (hv : Keeps s₀ v) => ?_) ?_; (on_goal 1 => clear_value v); (on_goal 2 => (dsimp -zeta only [v]; try clear v)))
    | (extract_lets +onlyGivenNames v; refine (fun (hv : Keeps s₀ v.1) => ?_) ?_; (on_goal 1 => clear_value v); (on_goal 2 => (dsimp -zeta only [v]; try clear v)))
    | (extract_lets +onlyGivenNames v; first | (have w : Mem := v; clear w) | (have w : DictState := v; clear w) | (have w : Fw := v; clear w) | clear_value v)
    | with_reducible apply State_staged_keeps
    | with_reducible apply State_poisonHalted_keeps
    | (with_reducible refine foldl_keeps _ _ ?_ ?_; on_goal 2 => (intro t x ht; try beta_reduce))
    | (with_reducible refine foldl_keeps₂ _ _ _ ?_ ?_; on_goal 2 => (intro t b x ht; try dsimp -zeta only))
    | (simp -zeta only [keeps_mk]; with_reducible refine Keeps.at ?_)
    | with_reducible refine pair_keeps (by with_reducible assumption) ?_
    | split
    | (dsimp -zeta only)

theorem State_loadColl_keeps {s₀ : State} (a0 : State) (a1 : Entry) (a2 : Channel) (a3 : Nat × ErrHit) (h0 : Keeps s₀ a0) :
    Keeps s₀ (State.loadColl a0 a1 a2 a3).1 := by
  unfold State.loadColl
  repeat' first
    | with_reducible assumption
    | (with_reducible intro x; try beta_reduce)
    | (extract_lets +onlyGivenNames v; refine (fun (hf : ∀ y0 y1, Keeps s₀ y0 → Keeps s₀ (v y0 y1).1) => ?_) ?_; (on_goal 1 => clear_value v); (on_goal 2 => (dsimp -zeta only [v]; intro y0 y1 hy; try dsimp -zeta only)))
    | with_reducible apply hf
    | (extract_lets +onlyGivenNames v; refine (fun (hv : Keeps s₀ v) => ?_) ?_; (on_goal 1 => clear_value v); (on_goal 2 => (dsimp -zeta only [v]; try clear v)))
    | (extract_lets +onlyGivenNames v; refine (fun (hv : Keeps s₀ v.1) => ?_) ?_; (on_goal 1 => clear_value v); (on_goal 2 => (dsimp -zeta only [v]; try clear v)))
    | (extract_lets +onlyGivenNames v; first | (have w : Mem := v; clear w) | (have w : DictState := v; clear w) | (have w : Fw := v; clear w) | clear_value v)
    | with_reducible apply State_logFault_keeps
    | with_reducible apply State_engineReads_keeps
    | with_reducible apply State_stagedAll_keeps
    | (with_reducible refine foldl_keeps _ _ ?_ ?_; on_goal 2 => (intro t x ht; try beta_reduce))
    | (with_reducible refine foldl_keeps₂ _ _ _ ?_ ?_; on_goal 2 => (intro t b x ht; try dsimp -zeta only))
    | (simp -zeta only [keeps_mk]; with_reducible refine Keeps.at ?_)
    | with_reducible refine pair_keeps (by with_reducible assumption) ?_
    | split
    | (dsimp -zeta only)

theorem collectiveDispatch_keeps {s₀ : State} (a0 : Nat) (a1 : Nat × ErrHit) (a2 : State) (h2 : Keeps s₀ a2) :
    Keeps s₀ (Machine.collectiveDispatch a0 a1 a2) := by
  unfold Machine.collectiveDispatch
  repeat' first
    | with_reducible assumption
    | (with_reducible intro x; try beta_reduce)
    | (extract_lets +onlyGivenNames v; refine (fun (hv : Keeps s₀ v) => ?_) ?_; (on_goal 1 => clear_value v); (on_goal 2 => (dsimp -zeta only [v]; try clear v)))
    | (extract_lets +onlyGivenNames v; refine (fun (hv : Keeps s₀ v.1) => ?_) ?_; (on_goal 1 => clear_value v); (on_goal 2 => (dsimp -zeta only [v]; try clear v)))
    | (extract_lets +onlyGivenNames v; first | (have w : Mem := v; clear w) | (have w : DictState := v; clear w) | (have w : Fw := v; clear w) | clear_value v)
    | with_reducible apply State_runColl_keeps
    | with_reducible apply State_finish_keeps
    | with_reducible apply State_loadColl_keeps
    | with_reducible apply State_startChannel_keeps
    | with_reducible apply State_keepDefer_keeps
    | with_reducible apply State_sendStep_keeps
    | (with_reducible refine foldl_keeps _ _ ?_ ?_; on_goal 2 => (intro t x ht; try beta_reduce))
    | (with_reducible refine foldl_keeps₂ _ _ _ ?_ ?_; on_goal 2 => (intro t b x ht; try dsimp -zeta only))
    | (simp -zeta only [keeps_mk]; with_reducible refine Keeps.at ?_)
    | with_reducible refine pair_keeps (by with_reducible assumption) ?_
    | split
    | (dsimp -zeta only)

theorem collData_keeps {s₀ : State} (a0 : Nat) (a1 : State) (h1 : Keeps s₀ a1) :
    Keeps s₀ (Machine.collData a0 a1) := by
  unfold Machine.collData
  repeat' first
    | with_reducible assumption
    | (with_reducible intro x; try beta_reduce)
    | (extract_lets +onlyGivenNames v; refine (fun (hv : Keeps s₀ v) => ?_) ?_; (on_goal 1 => clear_value v); (on_goal 2 => (dsimp -zeta only [v]; try clear v)))
    | (extract_lets +onlyGivenNames v; refine (fun (hv : Keeps s₀ v.1) => ?_) ?_; (on_goal 1 => clear_value v); (on_goal 2 => (dsimp -zeta only [v]; try clear v)))
    | (extract_lets +onlyGivenNames v; first | (have w : Mem := v; clear w) | (have w : DictState := v; clear w) | (have w : Fw := v; clear w) | clear_value v)
    | with_reducible apply State_adjEntry_keeps
    | with_reducible apply State_popMsg_keeps
    | with_reducible apply State_runColl_keeps
    | (with_reducible refine foldl_keeps _ _ ?_ ?_; on_goal 2 => (intro t x ht; try beta_reduce))
    | (with_reducible refine foldl_keeps₂ _ _ _ ?_ ?_; on_goal 2 => (intro t b x ht; try dsimp -zeta only))
    | (simp -zeta only [keeps_mk]; with_reducible refine Keeps.at ?_)
    | with_reducible refine pair_keeps (by with_reducible assumption) ?_
    | split
    | (dsimp -zeta only)

end Sys2Proof.Laws
end

