-- ==== Sys2Proof/Laws/KeepsPackage.lean ====
section
/-! SUPPORT. What the operations of Machine/Package.lean keep (`Keeps`): one lemma for each. -/

set_option Elab.async false
set_option linter.all false

namespace Sys2Proof.Laws

open Sys2Proof Sys2Proof.Machine

/-- A component changed without lowering its SVN floor. -/
theorem State_adjComp_keeps {s₀ : State} (a0 : State) (a1 : Nat) (a2 : Comp → Comp) (h0 : Keeps s₀ a0)
    (hf : ∀ c, a0.comp a1 = some c → c.svnFloor ≤ (a2 c).svnFloor) : Keeps s₀ (State.adjComp a0 a1 a2) :=
  h0.comps (floorsRise_adjAt _ _ _ hf)

theorem setInactive_floor (c : Comp) (f : Slot → Slot) : (c.setInactive f).svnFloor = c.svnFloor := by
  unfold Comp.setInactive
  split <;> rfl

theorem swapped_floor (c : Comp) : c.swapped.svnFloor = c.svnFloor := rfl

theorem State_abortUpdate_keeps {s₀ : State} (a0 : State) (h0 : Keeps s₀ a0) :
    Keeps s₀ (State.abortUpdate a0) := by
  unfold State.abortUpdate
  repeat' first
    | with_reducible assumption
    | (extract_lets +onlyGivenNames v; refine (fun (hv : Keeps s₀ v) => ?_) ?_; (on_goal 1 => clear_value v); (on_goal 2 => (dsimp -zeta only [v]; try clear v)))
    | (extract_lets +onlyGivenNames v; first | (have w : Mem := v; clear w) | (have w : DictState := v; clear w) | (have w : Fw := v; clear w) | clear_value v)
    | with_reducible refine State_adjComp_keeps _ _ _ ?_ (fun _ _ => Nat.le_of_eq (setInactive_floor _ _).symm)
    | (simp -zeta only [keeps_mk]; with_reducible refine Keeps.at ?_)

theorem State_abortedUpdate_keeps {s₀ : State} (a0 : State) (h0 : Keeps s₀ a0) :
    Keeps s₀ (State.abortedUpdate a0) := by
  unfold State.abortedUpdate
  repeat' first
    | with_reducible assumption
    | (extract_lets +onlyGivenNames v; refine (fun (hv : Keeps s₀ v) => ?_) ?_; (on_goal 1 => clear_value v); (on_goal 2 => (dsimp -zeta only [v]; try clear v)))
    | (extract_lets +onlyGivenNames v; first | (have w : Mem := v; clear w) | (have w : DictState := v; clear w) | (have w : Fw := v; clear w) | clear_value v)
    | with_reducible apply State_abortUpdate_keeps
    | (simp -zeta only [keeps_mk]; with_reducible refine Keeps.at ?_)

theorem State_dropUpdate_keeps {s₀ : State} (a0 : State) (h0 : Keeps s₀ a0) :
    Keeps s₀ (State.dropUpdate a0) := by
  unfold State.dropUpdate
  repeat' first
    | with_reducible assumption
    | (extract_lets +onlyGivenNames v; first | (have w : Mem := v; clear w) | (have w : DictState := v; clear w) | (have w : Fw := v; clear w) | clear_value v)
    | with_reducible apply State_log_keeps
    | with_reducible apply State_abortedUpdate_keeps
    | split

theorem State_rollBack_keeps {s₀ : State} (a0 : State) (a1 : Nat) (h0 : Keeps s₀ a0) :
    Keeps s₀ (State.rollBack a0 a1) := by
  unfold State.rollBack
  split
  · exact h0
  · extract_lets +onlyGivenNames w t u
    refine State_log_keeps _ _ _ _ _ _ ?_
    have ht : Keeps s₀ t := State_adjComp_keeps _ _ _ h0 fun c _ => by
      show c.svnFloor ≤ (c.swapped.setInactive _).svnFloor
      rw [setInactive_floor]
      exact Nat.le_refl _
    dsimp -zeta only [u]
    split
    · exact keeps_mk.mpr ht.at
    · exact ht

theorem State_bootComp_keeps {s₀ : State} (a0 : Bool) (a1 : State) (a2 : Nat) (h1 : Keeps s₀ a1) :
    Keeps s₀ (State.bootComp a0 a1 a2) := by
  unfold State.bootComp
  repeat' first
    | with_reducible assumption
    | (extract_lets +onlyGivenNames v; refine (fun (hv : Keeps s₀ v) => ?_) ?_; (on_goal 1 => clear_value v); (on_goal 2 => (dsimp -zeta only [v]; try clear v)))
    | with_reducible apply State_rollBack_keeps
    | with_reducible refine State_adjComp_keeps _ _ _ ?_ (fun _ _ => Nat.le_refl _)
    | with_reducible apply State_log_keeps
    | split

theorem State_secureBoot_keeps {s₀ : State} (a0 : State) (a1 : Bool) (h0 : Keeps s₀ a0) :
    Keeps s₀ (State.secureBoot a0 a1) := by
  unfold State.secureBoot
  repeat' first
    | with_reducible assumption
    | (extract_lets +onlyGivenNames v; refine (fun (hv : Keeps s₀ v) => ?_) ?_; (on_goal 1 => clear_value v); (on_goal 2 => (dsimp -zeta only [v]; try clear v)))
    | (extract_lets +onlyGivenNames v; first | (have w : Mem := v; clear w) | (have w : DictState := v; clear w) | (have w : Fw := v; clear w) | clear_value v)
    | with_reducible apply State_bootComp_keeps
    | (with_reducible refine foldl_keeps _ _ ?_ ?_; on_goal 2 => (intro t x ht; try beta_reduce))
    | (simp -zeta only [keeps_mk]; with_reducible refine Keeps.at ?_)
    | split

end Sys2Proof.Laws
end

