-- ==== Sys2Proof/Laws/KeepsBoot.lean ====
section
/-! SUPPORT. What the operations of Machine/Boot.lean keep (`Keeps`): one lemma for each. -/

set_option Elab.async false
set_option linter.all false

namespace Sys2Proof.Laws

open Sys2Proof Sys2Proof.Machine

theorem lockOk_blocked (d : DictState) (t : Nat) (e : d.lock = .blocked t) (h : d.failCount = 5) : d.lockOk = true := by
  simp [DictState.lockOk, e, h]

theorem lockOk_closed (d : DictState) (e : d.lock = .closed) (h : d.failCount = 0) : d.lockOk = true := by
  simp [DictState.lockOk, e, h]

/-- A restart closes an open lock and clears its count; a blocked lock stays blocked at five failures. -/
theorem lockOk_restarted (d : DictState) : d.restarted.lockOk = true := by
  cases e : d.lock with
  | blocked t =>
    exact lockOk_blocked _ t (by simp [DictState.restarted, e, LockSt.isBlocked])
      (by simp [DictState.restarted, e, LockSt.isBlocked])
  | closed =>
    exact lockOk_closed _ (by simp [DictState.restarted, e, LockSt.isBlocked])
      (by simp [DictState.restarted, e, LockSt.isBlocked])
  | opened o k =>
    exact lockOk_closed _ (by simp [DictState.restarted, e, LockSt.isBlocked])
      (by simp [DictState.restarted, e, LockSt.isBlocked])

/-- The memories of a restarted module are in canonical form. -/
theorem Keeps.at_restarted {s₀ t : State} (h : Keeps s₀ t) : KeepsAt s₀ t.pending t.fuses t.fw.comps t.mem.restarted.hbm
    t.mem.restarted.tier0 t.mem.restarted.tier1 t.mem.restarted.host t.dict.lock t.dict.failCount :=
  (h.mems (mem := t.mem.restarted) fun x => by
    simp only [State.memWf, Mem.restarted, Bool.and_eq_true] at x ⊢
    exact ⟨⟨⟨rfl, x.1.1.2⟩, x.1.2⟩, x.2⟩).at

theorem State_restart_keeps {s₀ : State} (a0 : State) (a1 : Bool) (h0 : Keeps s₀ a0) :
    Keeps s₀ (State.restart a0 a1) := by
  unfold State.restart
  refine h0.trans ⟨rfl, rfl, floorsRise_refl _, fun x => ?_, fun _ => lockOk_restarted _⟩
  simp only [State.memWf, Mem.restarted, Bool.and_eq_true] at x ⊢
  exact ⟨⟨⟨rfl, x.1.1.2⟩, x.1.2⟩, x.2⟩

theorem State_startDomains_keeps {s₀ : State} (a0 : State) (h0 : Keeps s₀ a0) :
    Keeps s₀ (State.startDomains a0) := by
  unfold State.startDomains
  repeat' first
    | with_reducible assumption
    | (with_reducible intro x; try beta_reduce)
    | (extract_lets +onlyGivenNames v; refine (fun (hv : Keeps s₀ v) => ?_) ?_; (on_goal 1 => clear_value v); (on_goal 2 => (dsimp -zeta only [v]; try clear v)))
    | (extract_lets +onlyGivenNames v; refine (fun (hv : Keeps s₀ v.1) => ?_) ?_; (on_goal 1 => clear_value v); (on_goal 2 => (dsimp -zeta only [v]; try clear v)))
    | (extract_lets +onlyGivenNames v; first | (have w : Mem := v; clear w) | (have w : DictState := v; clear w) | (have w : Fw := v; clear w) | clear_value v)
    | with_reducible apply State_setFunc_keeps
    | with_reducible apply State_startEnable_keeps
    | (with_reducible refine foldl_keeps _ _ ?_ ?_; on_goal 2 => (intro t x ht; try beta_reduce))
    | (with_reducible refine foldl_keeps₂ _ _ _ ?_ ?_; on_goal 2 => (intro t b x ht; try dsimp -zeta only))
    | (simp -zeta only [keeps_mk]; with_reducible refine Keeps.at ?_)
    | with_reducible refine pair_keeps (by with_reducible assumption) ?_
    | split
    | (dsimp -zeta only)

theorem State_logTrip_keeps {s₀ : State} (a0 : State) (h0 : Keeps s₀ a0) :
    Keeps s₀ (State.logTrip a0) := by
  unfold State.logTrip
  repeat' first
    | with_reducible assumption
    | (extract_lets +onlyGivenNames v; first | (have w : Mem := v; clear w) | (have w : DictState := v; clear w) | (have w : Fw := v; clear w) | clear_value v)
    | with_reducible apply State_log_keeps
    | (simp -zeta only [keeps_mk]; with_reducible refine Keeps.at ?_)
    | split

theorem State_startBringup_keeps {s₀ : State} (a0 : State) (a1 : Bool) (h0 : Keeps s₀ a0) :
    Keeps s₀ (State.startBringup a0 a1) := by
  unfold State.startBringup
  repeat' first
    | with_reducible assumption
    | (extract_lets +onlyGivenNames v; refine (fun (hv : Keeps s₀ v) => ?_) ?_; (on_goal 1 => clear_value v); (on_goal 2 => (dsimp -zeta only [v]; try clear v)))
    | (extract_lets +onlyGivenNames v; first | (have w : Mem := v; clear w) | (have w : DictState := v; clear w) | (have w : Fw := v; clear w) | clear_value v)
    | with_reducible apply State_logTrip_keeps
    | with_reducible apply State_earlySettings_keeps
    | with_reducible apply State_secureBoot_keeps
    | with_reducible apply State_startEnable_keeps
    | with_reducible apply State_startDomains_keeps
    | (with_reducible refine foldl_keeps _ _ ?_ ?_; on_goal 2 => (intro t x ht; try beta_reduce))
    | (simp -zeta only [keeps_mk]; with_reducible refine Keeps.at ?_)
    | split

theorem State_fullResetWith_keeps {s₀ : State} (a0 : State) (a1 : Bool) (h0 : Keeps s₀ a0) :
    Keeps s₀ (State.fullResetWith a0 a1) := by
  unfold State.fullResetWith
  repeat' first
    | with_reducible assumption
    | (extract_lets +onlyGivenNames v; refine (fun (hv : Keeps s₀ v) => ?_) ?_; (on_goal 1 => clear_value v); (on_goal 2 => (dsimp -zeta only [v]; try clear v)))
    | (extract_lets +onlyGivenNames v; first | (have w : Mem := v; clear w) | (have w : DictState := v; clear w) | (have w : Fw := v; clear w) | clear_value v)
    | with_reducible apply State_abortedUpdate_keeps
    | with_reducible apply State_bump_keeps
    | with_reducible apply State_restart_keeps
    | with_reducible apply State_log_keeps
    | with_reducible apply State_startBringup_keeps
    | split

theorem State_fullReset_keeps {s₀ : State} (a0 : State) (h0 : Keeps s₀ a0) :
    Keeps s₀ (State.fullReset a0) := by
  unfold State.fullReset
  repeat' first
    | with_reducible assumption
    | with_reducible apply State_fullResetWith_keeps

theorem State_losePower_keeps {s₀ : State} (a0 : State) (h0 : Keeps s₀ a0) :
    Keeps s₀ (State.losePower a0) := by
  unfold State.losePower
  repeat' first
    | with_reducible assumption
    | (extract_lets +onlyGivenNames v; refine (fun (hv : Keeps s₀ v) => ?_) ?_; (on_goal 1 => clear_value v); (on_goal 2 => (dsimp -zeta only [v]; try clear v)))
    | (extract_lets +onlyGivenNames v; first | (have w : Mem := v; clear w) | (have w : DictState := v; clear w) | (have w : Fw := v; clear w) | clear_value v)
    | with_reducible apply State_abortUpdate_keeps
    | with_reducible apply State_restart_keeps
    | (simp -zeta only [keeps_mk]; with_reducible refine Keeps.at ?_)
    | split

theorem State_powerUp_keeps {s₀ : State} (a0 : State) (h0 : Keeps s₀ a0) :
    Keeps s₀ (State.powerUp a0) := by
  unfold State.powerUp
  repeat' first
    | with_reducible assumption
    | (extract_lets +onlyGivenNames v; refine (fun (hv : Keeps s₀ v) => ?_) ?_; (on_goal 1 => clear_value v); (on_goal 2 => (dsimp -zeta only [v]; try clear v)))
    | (extract_lets +onlyGivenNames v; first | (have w : Mem := v; clear w) | (have w : DictState := v; clear w) | (have w : Fw := v; clear w) | clear_value v)
    | with_reducible apply State_startBringup_keeps
    | with_reducible apply State_bump_keeps
    | (simp -zeta only [keeps_mk]; with_reducible refine Keeps.at ?_)

theorem powerOn_keeps {s₀ : State} (a0 : State) (h0 : Keeps s₀ a0) :
    Keeps s₀ (Machine.powerOn a0) := by
  unfold Machine.powerOn
  repeat' first
    | with_reducible assumption
    | with_reducible apply State_powerUp_keeps
    | split

theorem halfManagerWatchdog_keeps {s₀ : State} (a0 : State) (h0 : Keeps s₀ a0) :
    Keeps s₀ (Machine.halfManagerWatchdog a0) := by
  unfold Machine.halfManagerWatchdog
  repeat' first
    | with_reducible assumption
    | (extract_lets +onlyGivenNames v; first | (have w : Mem := v; clear w) | (have w : DictState := v; clear w) | (have w : Fw := v; clear w) | clear_value v)
    | with_reducible apply State_fullReset_keeps
    | (simp -zeta only [keeps_mk]; with_reducible refine Keeps.at ?_)
    | split

theorem State_allOff_keeps {s₀ : State} (a0 : State) (h0 : Keeps s₀ a0) :
    Keeps s₀ (State.allOff a0) := by
  unfold State.allOff
  repeat' first
    | with_reducible assumption
    | (with_reducible intro x; try beta_reduce)
    | (extract_lets +onlyGivenNames v; refine (fun (hv : Keeps s₀ v) => ?_) ?_; (on_goal 1 => clear_value v); (on_goal 2 => (dsimp -zeta only [v]; try clear v)))
    | (extract_lets +onlyGivenNames v; refine (fun (hv : Keeps s₀ v.1) => ?_) ?_; (on_goal 1 => clear_value v); (on_goal 2 => (dsimp -zeta only [v]; try clear v)))
    | (extract_lets +onlyGivenNames v; first | (have w : Mem := v; clear w) | (have w : DictState := v; clear w) | (have w : Fw := v; clear w) | clear_value v)
    | with_reducible apply State_reach_keeps
    | (with_reducible refine foldl_keeps _ _ ?_ ?_; on_goal 2 => (intro t x ht; try beta_reduce))
    | (with_reducible refine foldl_keeps₂ _ _ _ ?_ ?_; on_goal 2 => (intro t b x ht; try dsimp -zeta only))
    | (simp -zeta only [keeps_mk]; with_reducible refine Keeps.at ?_)
    | with_reducible refine pair_keeps (by with_reducible assumption) ?_
    | split
    | (dsimp -zeta only)

theorem State_bringupFailed_keeps {s₀ : State} (a0 : State) (a1 : Nat) (a2 : Nat) (h0 : Keeps s₀ a0) :
    Keeps s₀ (State.bringupFailed a0 a1 a2) := by
  unfold State.bringupFailed
  repeat' first
    | with_reducible assumption
    | (with_reducible intro x; try beta_reduce)
    | (extract_lets +onlyGivenNames v; refine (fun (hv : Keeps s₀ v) => ?_) ?_; (on_goal 1 => clear_value v); (on_goal 2 => (dsimp -zeta only [v]; try clear v)))
    | (extract_lets +onlyGivenNames v; refine (fun (hv : Keeps s₀ v.1) => ?_) ?_; (on_goal 1 => clear_value v); (on_goal 2 => (dsimp -zeta only [v]; try clear v)))
    | (extract_lets +onlyGivenNames v; first | (have w : Mem := v; clear w) | (have w : DictState := v; clear w) | (have w : Fw := v; clear w) | clear_value v)
    | with_reducible apply State_allOff_keeps
    | with_reducible apply State_log_keeps
    | (with_reducible refine foldl_keeps _ _ ?_ ?_; on_goal 2 => (intro t x ht; try beta_reduce))
    | (with_reducible refine foldl_keeps₂ _ _ _ ?_ ?_; on_goal 2 => (intro t b x ht; try dsimp -zeta only))
    | (simp -zeta only [keeps_mk]; with_reducible refine Keeps.at ?_)
    | with_reducible refine pair_keeps (by with_reducible assumption) ?_
    | split
    | (dsimp -zeta only)

theorem State_setLink_keeps {s₀ : State} (a0 : State) (a1 : Nat) (a2 : Link) (h0 : Keeps s₀ a0) :
    Keeps s₀ (State.setLink a0 a1 a2) := by
  unfold State.setLink
  repeat' first
    | with_reducible assumption
    | (extract_lets +onlyGivenNames v; first | (have w : Mem := v; clear w) | (have w : DictState := v; clear w) | (have w : Fw := v; clear w) | clear_value v)
    | (simp -zeta only [keeps_mk]; with_reducible refine Keeps.at ?_)

theorem State_hostLinked_keeps {s₀ : State} (a0 : State) (a1 : Nat) (a2 : Nat) (a3 : Nat) (h0 : Keeps s₀ a0) :
    Keeps s₀ (State.hostLinked a0 a1 a2 a3) := by
  unfold State.hostLinked
  repeat' first
    | with_reducible assumption
    | (extract_lets +onlyGivenNames v; first | (have w : Mem := v; clear w) | (have w : DictState := v; clear w) | (have w : Fw := v; clear w) | clear_value v)
    | (simp -zeta only [keeps_mk]; with_reducible refine Keeps.at ?_)

theorem State_portTrained_keeps {s₀ : State} (a0 : State) (a1 : Nat) (a2 : Nat) (a3 : Nat) (a4 : Nat) (a5 : Nat) (a6 : Nat) (a7 : Nat) (h0 : Keeps s₀ a0) :
    Keeps s₀ (State.portTrained a0 a1 a2 a3 a4 a5 a6 a7) := by
  unfold State.portTrained
  repeat' first
    | with_reducible assumption
    | (extract_lets +onlyGivenNames v; refine (fun (hv : Keeps s₀ v) => ?_) ?_; (on_goal 1 => clear_value v); (on_goal 2 => (dsimp -zeta only [v]; try clear v)))
    | (extract_lets +onlyGivenNames v; first | (have w : Mem := v; clear w) | (have w : DictState := v; clear w) | (have w : Fw := v; clear w) | clear_value v)
    | with_reducible apply State_adjPeer_keeps
    | with_reducible apply State_portBack_keeps
    | with_reducible apply State_hostLinked_keeps
    | (simp -zeta only [keeps_mk]; with_reducible refine Keeps.at ?_)
    | split

theorem State_fillTurn_keeps {s₀ : State} (a0 : State) (h0 : Keeps s₀ a0) :
    Keeps s₀ (State.fillTurn a0) := by
  unfold State.fillTurn
  repeat' first
    | with_reducible assumption
    | (extract_lets +onlyGivenNames v; first | (have w : Mem := v; clear w) | (have w : DictState := v; clear w) | (have w : Fw := v; clear w) | clear_value v)
    | (simp -zeta only [keeps_mk]; with_reducible refine Keeps.at ?_)
    | split

theorem linkTrained_keeps {s₀ : State} (a0 : LinkId) (a1 : Nat) (a2 : Nat) (a3 : Nat) (a4 : Nat) (a5 : Nat) (a6 : Nat) (a7 : State) (h7 : Keeps s₀ a7) :
    Keeps s₀ (Machine.linkTrained a0 a1 a2 a3 a4 a5 a6 a7) := by
  unfold Machine.linkTrained
  repeat' first
    | with_reducible assumption
    | (with_reducible intro x; try beta_reduce)
    | (extract_lets +onlyGivenNames v; refine (fun (hv : Keeps s₀ v) => ?_) ?_; (on_goal 1 => clear_value v); (on_goal 2 => (dsimp -zeta only [v]; try clear v)))
    | (extract_lets +onlyGivenNames v; refine (fun (hv : Keeps s₀ v.1) => ?_) ?_; (on_goal 1 => clear_value v); (on_goal 2 => (dsimp -zeta only [v]; try clear v)))
    | (extract_lets +onlyGivenNames v; first | (have w : Mem := v; clear w) | (have w : DictState := v; clear w) | (have w : Fw := v; clear w) | clear_value v)
    | with_reducible apply State_fillTurn_keeps
    | with_reducible apply State_portTrained_keeps
    | with_reducible apply State_setLink_keeps
    | (with_reducible refine foldl_keeps _ _ ?_ ?_; on_goal 2 => (intro t x ht; try beta_reduce))
    | (with_reducible refine foldl_keeps₂ _ _ _ ?_ ?_; on_goal 2 => (intro t b x ht; try dsimp -zeta only))
    | (simp -zeta only [keeps_mk]; with_reducible refine Keeps.at ?_)
    | with_reducible refine pair_keeps (by with_reducible assumption) ?_
    | split
    | (dsimp -zeta only)

theorem State_portDown_keeps {s₀ : State} (a0 : State) (a1 : Func) (h0 : Keeps s₀ a0) :
    Keeps s₀ (State.portDown a0 a1) := by
  unfold State.portDown
  repeat' first
    | with_reducible assumption
    | (with_reducible intro x; try beta_reduce)
    | (extract_lets +onlyGivenNames v; refine (fun (hv : Keeps s₀ v) => ?_) ?_; (on_goal 1 => clear_value v); (on_goal 2 => (dsimp -zeta only [v]; try clear v)))
    | (extract_lets +onlyGivenNames v; refine (fun (hv : Keeps s₀ v.1) => ?_) ?_; (on_goal 1 => clear_value v); (on_goal 2 => (dsimp -zeta only [v]; try clear v)))
    | (extract_lets +onlyGivenNames v; first | (have w : Mem := v; clear w) | (have w : DictState := v; clear w) | (have w : Fw := v; clear w) | clear_value v)
    | with_reducible apply State_endEnable_keeps
    | with_reducible apply State_adjPeer_keeps
    | with_reducible apply State_losePages_keeps
    | with_reducible apply State_retry_keeps
    | (with_reducible refine foldl_keeps _ _ ?_ ?_; on_goal 2 => (intro t x ht; try beta_reduce))
    | (with_reducible refine foldl_keeps₂ _ _ _ ?_ ?_; on_goal 2 => (intro t b x ht; try dsimp -zeta only))
    | (simp -zeta only [keeps_mk]; with_reducible refine Keeps.at ?_)
    | with_reducible refine pair_keeps (by with_reducible assumption) ?_
    | split
    | (dsimp -zeta only)

theorem State_linkFails_keeps {s₀ : State} (a0 : State) (a1 : Nat) (a2 : Link) (h0 : Keeps s₀ a0) :
    Keeps s₀ (State.linkFails a0 a1 a2) := by
  unfold State.linkFails
  repeat' first
    | with_reducible assumption
    | (extract_lets +onlyGivenNames v; refine (fun (hv : Keeps s₀ v) => ?_) ?_; (on_goal 1 => clear_value v); (on_goal 2 => (dsimp -zeta only [v]; try clear v)))
    | with_reducible apply State_setLink_keeps
    | with_reducible apply State_bringupFailed_keeps
    | with_reducible apply State_log_keeps
    | with_reducible apply State_portDown_keeps
    | split

theorem linkQualWindowEnd_keeps {s₀ : State} (a0 : LinkId) (a1 : Nat) (a2 : Nat) (a3 : Nat) (a4 : State) (h4 : Keeps s₀ a4) :
    Keeps s₀ (Machine.linkQualWindowEnd a0 a1 a2 a3 a4) := by
  unfold Machine.linkQualWindowEnd
  repeat' first
    | with_reducible assumption
    | (extract_lets +onlyGivenNames v; first | (have w : Mem := v; clear w) | (have w : DictState := v; clear w) | (have w : Fw := v; clear w) | clear_value v)
    | with_reducible apply State_setLink_keeps
    | with_reducible apply State_linkFails_keeps
    | split

theorem linkTrainingDeadline_keeps {s₀ : State} (a0 : LinkId) (a1 : State) (h1 : Keeps s₀ a1) :
    Keeps s₀ (Machine.linkTrainingDeadline a0 a1) := by
  unfold Machine.linkTrainingDeadline
  repeat' first
    | with_reducible assumption
    | (extract_lets +onlyGivenNames v; first | (have w : Mem := v; clear w) | (have w : DictState := v; clear w) | (have w : Fw := v; clear w) | clear_value v)
    | with_reducible apply State_bringupFailed_keeps
    | with_reducible apply State_linkFails_keeps
    | split

theorem State_fillBad_keeps {s₀ : State} (a0 : State) (a1 : Nat) (h0 : Keeps s₀ a0) :
    Keeps s₀ (State.fillBad a0 a1) := by
  unfold State.fillBad
  repeat' first
    | with_reducible assumption
    | (extract_lets +onlyGivenNames v; first | (have w : Mem := v; clear w) | (have w : DictState := v; clear w) | (have w : Fw := v; clear w) | clear_value v)
    | with_reducible apply State_withdrawFrame_keeps
    | with_reducible apply State_hbmHardFault_keeps
    | with_reducible apply State_drawn_keeps
    | split

theorem hbmFillComplete_keeps {s₀ : State} (a0 : List Nat) (a1 : State) (h1 : Keeps s₀ a1) :
    Keeps s₀ (Machine.hbmFillComplete a0 a1) := by
  unfold hbmFillComplete
  split
  · exact h1
  · extract_lets +onlyGivenNames v w
    refine foldl_keeps _ _ ?_ (fun t x ht => State_fillBad_keeps _ _ ht)
    have hv : Keeps s₀ v := State_applyRepairs_keeps _ h1
    exact keeps_mk.mpr (hv.hbm (m := .empty) fun _ => wf_empty).at

theorem State_snooped_keeps {s₀ : State} (a0 : State) (a1 : Nat) (a2 : Nat) (a3 : Nat) (h0 : Keeps s₀ a0) :
    Keeps s₀ (State.snooped a0 a1 a2 a3).1 := by
  unfold State.snooped
  repeat' first
    | with_reducible assumption
    | (extract_lets +onlyGivenNames v; refine (fun (hf : ∀ y0 y1, Keeps s₀ y1 → Keeps s₀ (v y0 y1)) => ?_) ?_; (on_goal 1 => clear_value v); (on_goal 2 => (dsimp -zeta only [v]; intro y0 y1 hy; try dsimp -zeta only)))
    | with_reducible apply hf
    | (extract_lets +onlyGivenNames v; first | (have w : Mem := v; clear w) | (have w : DictState := v; clear w) | (have w : Fw := v; clear w) | clear_value v)
    | with_reducible apply State_bump_keeps
    | (simp -zeta only [keeps_mk]; with_reducible refine Keeps.at ?_)
    | split

theorem broadcastPacket_keeps {s₀ : State} (a0 : Nat) (a1 : Bytes) (a2 : State) (h2 : Keeps s₀ a2) :
    Keeps s₀ (Machine.broadcastPacket a0 a1 a2) := by
  unfold Machine.broadcastPacket
  extract_lets +onlyGivenNames h image pkt round
  split
  · exact h2
  · extract_lets +onlyGivenNames r s bad mine
    have hr : Keeps s₀ r.1 := State_snooped_keeps _ _ _ _ h2
    have hs : Keeps s₀ s := by
      dsimp -zeta only [s]
      split
      · exact State_bump_keeps _ _ _ hr
      · exact hr
    split
    · exact keeps_mk.mpr hs.at
    · exact hs

theorem State_checkCores_keeps {s₀ : State} (a0 : State) (h0 : Keeps s₀ a0) :
    Keeps s₀ (State.checkCores a0) := by
  unfold State.checkCores
  repeat' first
    | with_reducible assumption
    | (extract_lets +onlyGivenNames v; first | (have w : Mem := v; clear w) | (have w : DictState := v; clear w) | (have w : Fw := v; clear w) | clear_value v)
    | (simp -zeta only [keeps_mk]; with_reducible refine Keeps.at ?_)

theorem State_coreFails_keeps {s₀ : State} (a0 : State) (a1 : Nat) (h0 : Keeps s₀ a0) :
    Keeps s₀ (State.coreFails a0 a1) := by
  unfold State.coreFails
  repeat' first
    | with_reducible assumption
    | (extract_lets +onlyGivenNames v; first | (have w : Mem := v; clear w) | (have w : DictState := v; clear w) | (have w : Fw := v; clear w) | clear_value v)
    | with_reducible apply State_log_keeps
    | (simp -zeta only [keeps_mk]; with_reducible refine Keeps.at ?_)

theorem State_phyDown_keeps {s₀ : State} (a0 : State) (a1 : Func) (h0 : Keeps s₀ a0) :
    Keeps s₀ (State.phyDown a0 a1) := by
  unfold State.phyDown
  repeat' first
    | with_reducible assumption
    | with_reducible apply State_portDown_keeps
    | with_reducible apply State_reach_keeps
    | split

theorem State_coreOutcome_keeps {s₀ : State} (a0 : State) (a1 : Nat) (h0 : Keeps s₀ a0) :
    Keeps s₀ (State.coreOutcome a0 a1) := by
  unfold State.coreOutcome
  repeat' first
    | with_reducible assumption
    | (extract_lets +onlyGivenNames v; refine (fun (hv : Keeps s₀ v) => ?_) ?_; (on_goal 1 => clear_value v); (on_goal 2 => (dsimp -zeta only [v]; try clear v)))
    | (extract_lets +onlyGivenNames v; first | (have w : Mem := v; clear w) | (have w : DictState := v; clear w) | (have w : Fw := v; clear w) | clear_value v)
    | with_reducible apply State_log_keeps
    | with_reducible apply State_drawn_keeps
    | with_reducible apply State_phyDown_keeps
    | with_reducible apply State_closeHost_keeps
    | (simp -zeta only [keeps_mk]; with_reducible refine Keeps.at ?_)
    | split

theorem State_startManagers_keeps {s₀ : State} (a0 : State) (h0 : Keeps s₀ a0) :
    Keeps s₀ (State.startManagers a0) := by
  unfold State.startManagers
  repeat' first
    | with_reducible assumption
    | (extract_lets +onlyGivenNames v; refine (fun (hv : Keeps s₀ v) => ?_) ?_; (on_goal 1 => clear_value v); (on_goal 2 => (dsimp -zeta only [v]; try clear v)))
    | (extract_lets +onlyGivenNames v; first | (have w : Mem := v; clear w) | (have w : DictState := v; clear w) | (have w : Fw := v; clear w) | clear_value v)
    | with_reducible apply State_fitRegions_keeps
    | with_reducible apply State_bringupCommit_keeps
    | with_reducible apply State_requestFunc_keeps
    | (with_reducible refine foldl_keeps _ _ ?_ ?_; on_goal 2 => (intro t x ht; try beta_reduce))
    | (simp -zeta only [keeps_mk]; with_reducible refine Keeps.at ?_)

theorem State_stageOver_keeps {s₀ : State} (a0 : State) (a1 : List Nat) (h0 : Keeps s₀ a0) :
    Keeps s₀ (State.stageOver a0 a1) := by
  unfold State.stageOver
  repeat' first
    | with_reducible assumption
    | (extract_lets +onlyGivenNames v; refine (fun (hv : Keeps s₀ v) => ?_) ?_; (on_goal 1 => clear_value v); (on_goal 2 => (dsimp -zeta only [v]; try clear v)))
    | (extract_lets +onlyGivenNames v; first | (have w : Mem := v; clear w) | (have w : DictState := v; clear w) | (have w : Fw := v; clear w) | clear_value v)
    | with_reducible apply State_coreFails_keeps
    | with_reducible apply State_bringupFailed_keeps
    | with_reducible apply State_coreOutcome_keeps
    | with_reducible apply State_startManagers_keeps
    | (with_reducible refine foldl_keeps _ _ ?_ ?_; on_goal 2 => (intro t x ht; try beta_reduce))
    | (simp -zeta only [keeps_mk]; with_reducible refine Keeps.at ?_)
    | split

theorem broadcastRoundEnd_keeps {s₀ : State} (a0 : State) (h0 : Keeps s₀ a0) :
    Keeps s₀ (Machine.broadcastRoundEnd a0) := by
  unfold Machine.broadcastRoundEnd
  repeat' first
    | with_reducible assumption
    | (extract_lets +onlyGivenNames v; refine (fun (hv : Keeps s₀ v) => ?_) ?_; (on_goal 1 => clear_value v); (on_goal 2 => (dsimp -zeta only [v]; try clear v)))
    | (extract_lets +onlyGivenNames v; first | (have w : Mem := v; clear w) | (have w : DictState := v; clear w) | (have w : Fw := v; clear w) | clear_value v)
    | with_reducible apply State_checkCores_keeps
    | with_reducible apply State_stageOver_keeps
    | (simp -zeta only [keeps_mk]; with_reducible refine Keeps.at ?_)
    | split

theorem State_restAll_keeps {s₀ : State} (a0 : State) (h0 : Keeps s₀ a0) :
    Keeps s₀ (State.restAll a0) := by
  unfold State.restAll
  repeat' first
    | with_reducible assumption
    | with_reducible apply State_setSleep_keeps
    | (with_reducible refine foldl_keeps _ _ ?_ ?_; on_goal 2 => (intro t x ht; try beta_reduce))

theorem State_lockSteps_keeps {s₀ : State} (a0 : State) (h0 : Keeps s₀ a0) :
    Keeps s₀ (State.lockSteps a0) := by
  unfold State.lockSteps
  repeat' first
    | with_reducible assumption
    | with_reducible apply State_adjTile_keeps
    | (with_reducible refine foldl_keeps _ _ ?_ ?_; on_goal 2 => (intro t x ht; try beta_reduce))
    | split

theorem State_bindAll_keeps {s₀ : State} (a0 : State) (h0 : Keeps s₀ a0) :
    Keeps s₀ (State.bindAll a0) := by
  unfold State.bindAll
  repeat' first
    | with_reducible assumption
    | (extract_lets +onlyGivenNames v; refine (fun (hv : Keeps s₀ v) => ?_) ?_; (on_goal 1 => clear_value v); (on_goal 2 => (dsimp -zeta only [v]; try clear v)))
    | (extract_lets +onlyGivenNames v; first | (have w : Mem := v; clear w) | (have w : DictState := v; clear w) | (have w : Fw := v; clear w) | clear_value v)
    | with_reducible apply State_bindUnitMap_keeps
    | with_reducible apply State_lockSteps_keeps
    | with_reducible apply State_restAll_keeps
    | (simp -zeta only [keeps_mk]; with_reducible refine Keeps.at ?_)

theorem selftestComplete_keeps {s₀ : State} (a0 : List Nat) (a1 : State) (h1 : Keeps s₀ a1) :
    Keeps s₀ (Machine.selftestComplete a0 a1) := by
  unfold Machine.selftestComplete
  repeat' first
    | with_reducible assumption
    | (with_reducible intro x; try beta_reduce)
    | (extract_lets +onlyGivenNames v; refine (fun (hv : Keeps s₀ v) => ?_) ?_; (on_goal 1 => clear_value v); (on_goal 2 => (dsimp -zeta only [v]; try clear v)))
    | (extract_lets +onlyGivenNames v; refine (fun (hv : Keeps s₀ v.1) => ?_) ?_; (on_goal 1 => clear_value v); (on_goal 2 => (dsimp -zeta only [v]; try clear v)))
    | (extract_lets +onlyGivenNames v; first | (have w : Mem := v; clear w) | (have w : DictState := v; clear w) | (have w : Fw := v; clear w) | clear_value v)
    | with_reducible apply State_log_keeps
    | with_reducible apply State_bringupFailed_keeps
    | with_reducible apply State_bindAll_keeps
    | (with_reducible refine foldl_keeps _ _ ?_ ?_; on_goal 2 => (intro t x ht; try beta_reduce))
    | (with_reducible refine foldl_keeps₂ _ _ _ ?_ ?_; on_goal 2 => (intro t b x ht; try dsimp -zeta only))
    | (simp -zeta only [keeps_mk]; with_reducible refine Keeps.at ?_)
    | with_reducible refine pair_keeps (by with_reducible assumption) ?_
    | split
    | (dsimp -zeta only)

theorem State_confirm_keeps {s₀ : State} (a0 : State) (a1 : Nat) (h0 : Keeps s₀ a0) :
    Keeps s₀ (State.confirm a0 a1) := by
  unfold State.confirm
  split
  · exact h0
  · rename_i c hc
    split
    · exact h0
    · rename_i hb
      extract_lets +onlyGivenNames v svn w
      refine State_log_keeps _ _ _ _ _ _ ?_
      have hw : Keeps s₀ w := State_adjComp_keeps _ _ _ h0 fun d hd => by
        cases hc.symm.trans hd
        simp only [Bool.or_eq_true, not_or, State.slotBoots, Bool.not_eq_true', Bool.not_eq_false, Bool.and_eq_true,
          decide_eq_true_eq] at hb
        exact hb.2.1.2
      exact keeps_mk.mpr hw.at

theorem bringupComplete_keeps {s₀ : State} (a0 : Nat) (a1 : State) (h1 : Keeps s₀ a1) :
    Keeps s₀ (Machine.bringupComplete a0 a1) := by
  unfold bringupComplete
  split
  · exact h1
  · extract_lets +onlyGivenNames cold down d p th b s t u
    have hb : Keeps s₀ b := by
      refine keeps_mk.mpr (h1.locks (dict := if cold && a1.dict.lock.isBlocked then { a1.dict with lock := .blocked a1.now } else a1.dict)
        fun x => ?_).at
      split
      · rename_i hb
        cases e : a1.dict.lock with
        | blocked t =>
          simp only [DictState.lockOk, e] at x ⊢
          exact x
        | closed => simp [e, LockSt.isBlocked] at hb
        | opened o k => simp [e, LockSt.isBlocked] at hb
      · exact x
    have hs : Keeps s₀ s := by
      dsimp -zeta only [s]
      split
      · exact hb
      · exact State_bump_keeps _ _ _ hb
    have ht : Keeps s₀ t := State_log_keeps _ _ _ _ _ _ hs
    have hu : Keeps s₀ u := by
      dsimp -zeta only [u]
      split
      · exact foldl_keeps _ _ ht fun t x ht => State_confirm_keeps _ _ ht
      · exact ht
    exact bwIntervalBoundary_keeps _ _ hu

theorem State_requestComputeReset_keeps {s₀ : State} (a0 : State) (h0 : Keeps s₀ a0) :
    Keeps s₀ (State.requestComputeReset a0).1 := by
  unfold State.requestComputeReset
  repeat' first
    | with_reducible assumption
    | with_reducible apply State_startComputeReset_keeps
    | split

theorem State_resetFelt_keeps {s₀ : State} (a0 : State) (h0 : Keeps s₀ a0) :
    Keeps s₀ (State.resetFelt a0) := by
  unfold State.resetFelt
  repeat' first
    | with_reducible assumption
    | (extract_lets +onlyGivenNames v; first | (have w : Mem := v; clear w) | (have w : DictState := v; clear w) | (have w : Fw := v; clear w) | clear_value v)
    | (simp -zeta only [keeps_mk]; with_reducible refine Keeps.at ?_)

theorem computeResetBegin_keeps {s₀ : State} (a0 : State) (h0 : Keeps s₀ a0) :
    Keeps s₀ (Machine.computeResetBegin a0) := by
  unfold Machine.computeResetBegin
  repeat' first
    | with_reducible assumption
    | (with_reducible intro x; try beta_reduce)
    | (extract_lets +onlyGivenNames v; refine (fun (hv : Keeps s₀ v) => ?_) ?_; (on_goal 1 => clear_value v); (on_goal 2 => (dsimp -zeta only [v]; try clear v)))
    | (extract_lets +onlyGivenNames v; refine (fun (hv : Keeps s₀ v.1) => ?_) ?_; (on_goal 1 => clear_value v); (on_goal 2 => (dsimp -zeta only [v]; try clear v)))
    | (extract_lets +onlyGivenNames v; first | (have w : Mem := v; clear w) | (have w : DictState := v; clear w) | (have w : Fw := v; clear w) | clear_value v)
    | with_reducible apply State_resetFelt_keeps
    | with_reducible apply State_flushAll_keeps
    | with_reducible apply State_closure_keeps
    | with_reducible apply State_retry_keeps
    | with_reducible apply State_retryHost_keeps
    | with_reducible apply State_applyRepairs_keeps
    | (with_reducible refine foldl_keeps _ _ ?_ ?_; on_goal 2 => (intro t x ht; try beta_reduce))
    | (with_reducible refine foldl_keeps₂ _ _ _ ?_ ?_; on_goal 2 => (intro t b x ht; try dsimp -zeta only))
    | (simp -zeta only [keeps_mk]; with_reducible refine Keeps.at ?_)
    | with_reducible refine pair_keeps (by with_reducible assumption) ?_
    | split
    | (dsimp -zeta only)

theorem State_bindSpare_keeps {s₀ : State} (a0 : State) (a1 : Nat) (a2 : Nat) (h0 : Keeps s₀ a0) :
    Keeps s₀ (State.bindSpare a0 a1 a2) := by
  unfold State.bindSpare
  repeat' first
    | with_reducible assumption
    | (extract_lets +onlyGivenNames v; refine (fun (hv : Keeps s₀ v) => ?_) ?_; (on_goal 1 => clear_value v); (on_goal 2 => (dsimp -zeta only [v]; try clear v)))
    | (extract_lets +onlyGivenNames v; first | (have w : Mem := v; clear w) | (have w : DictState := v; clear w) | (have w : Fw := v; clear w) | clear_value v)
    | with_reducible apply State_setTile_keeps
    | with_reducible apply State_log_keeps
    | (simp -zeta only [keeps_mk]; with_reducible refine Keeps.at ?_)

theorem State_serveFaulted_keeps {s₀ : State} (a0 : State) (a1 : Nat) (h0 : Keeps s₀ a0) :
    Keeps s₀ (State.serveFaulted a0 a1) := by
  unfold State.serveFaulted
  repeat' first
    | with_reducible assumption
    | (extract_lets +onlyGivenNames v; refine (fun (hv : Keeps s₀ v) => ?_) ?_; (on_goal 1 => clear_value v); (on_goal 2 => (dsimp -zeta only [v]; try clear v)))
    | (extract_lets +onlyGivenNames v; first | (have w : Mem := v; clear w) | (have w : DictState := v; clear w) | (have w : Fw := v; clear w) | clear_value v)
    | with_reducible apply State_bindSpare_keeps
    | with_reducible apply State_log_keeps
    | (simp -zeta only [keeps_mk]; with_reducible refine Keeps.at ?_)
    | split

theorem State_serveHalfWidth_keeps {s₀ : State} (a0 : State) (a1 : Nat) (h0 : Keeps s₀ a0) :
    Keeps s₀ (State.serveHalfWidth a0 a1) := by
  unfold State.serveHalfWidth
  repeat' first
    | with_reducible assumption
    | (extract_lets +onlyGivenNames v; first | (have w : Mem := v; clear w) | (have w : DictState := v; clear w) | (have w : Fw := v; clear w) | clear_value v)
    | with_reducible apply State_bindSpare_keeps
    | (simp -zeta only [keeps_mk]; with_reducible refine Keeps.at ?_)
    | split

theorem State_rebindHalf_keeps {s₀ : State} (a0 : State) (a1 : Nat) (h0 : Keeps s₀ a0) :
    Keeps s₀ (State.rebindHalf a0 a1) := by
  unfold State.rebindHalf
  repeat' first
    | with_reducible assumption
    | (extract_lets +onlyGivenNames v; refine (fun (hv : Keeps s₀ v) => ?_) ?_; (on_goal 1 => clear_value v); (on_goal 2 => (dsimp -zeta only [v]; try clear v)))
    | (extract_lets +onlyGivenNames v; first | (have w : Mem := v; clear w) | (have w : DictState := v; clear w) | (have w : Fw := v; clear w) | clear_value v)
    | with_reducible apply State_serveFaulted_keeps
    | with_reducible apply State_serveHalfWidth_keeps
    | (with_reducible refine foldl_keeps _ _ ?_ ?_; on_goal 2 => (intro t x ht; try beta_reduce))

theorem State_shortFails_keeps {s₀ : State} (a0 : State) (a1 : Nat) (h0 : Keeps s₀ a0) :
    Keeps s₀ (State.shortFails a0 a1) := by
  unfold State.shortFails
  repeat' first
    | with_reducible assumption
    | (extract_lets +onlyGivenNames v; refine (fun (hv : Keeps s₀ v) => ?_) ?_; (on_goal 1 => clear_value v); (on_goal 2 => (dsimp -zeta only [v]; try clear v)))
    | (extract_lets +onlyGivenNames v; first | (have w : Mem := v; clear w) | (have w : DictState := v; clear w) | (have w : Fw := v; clear w) | clear_value v)
    | with_reducible apply State_faultTile_keeps
    | (simp -zeta only [keeps_mk]; with_reducible refine Keeps.at ?_)
    | split

theorem shortSelftestComplete_keeps {s₀ : State} (a0 : List Nat) (a1 : Nat) (a2 : State) (h2 : Keeps s₀ a2) :
    Keeps s₀ (Machine.shortSelftestComplete a0 a1 a2) := by
  unfold Machine.shortSelftestComplete
  repeat' first
    | with_reducible assumption
    | (extract_lets +onlyGivenNames v; refine (fun (hv : Keeps s₀ v) => ?_) ?_; (on_goal 1 => clear_value v); (on_goal 2 => (dsimp -zeta only [v]; try clear v)))
    | (extract_lets +onlyGivenNames v; first | (have w : Mem := v; clear w) | (have w : DictState := v; clear w) | (have w : Fw := v; clear w) | clear_value v)
    | with_reducible apply State_shortFails_keeps
    | with_reducible apply State_bindUnitMap_keeps
    | with_reducible apply State_rebindHalf_keeps
    | with_reducible apply State_restAll_keeps
    | with_reducible apply State_checkRunMap_keeps
    | with_reducible apply State_bump_keeps
    | with_reducible apply State_applySteps_keeps
    | with_reducible apply State_log_keeps
    | (with_reducible refine foldl_keeps _ _ ?_ ?_; on_goal 2 => (intro t x ht; try beta_reduce))
    | (simp -zeta only [keeps_mk]; with_reducible refine Keeps.at ?_)
    | split

end Sys2Proof.Laws
end

