-- ==== Sys2Proof/Laws/KeepsFirmware.lean ====
section
/-! SUPPORT. What the operations of Machine/Firmware.lean keep (`Keeps`): one lemma for each. -/

set_option Elab.async false
set_option linter.all false

namespace Sys2Proof.Laws

open Sys2Proof Sys2Proof.Machine

theorem State_unlessRefused_keeps {s₀ : State} (a0 : State) (a1 : Nat) (a2 : State → State × Nat) (h0 : Keeps s₀ a0)
    (h2 : ∀ x, Keeps s₀ x → Keeps s₀ (a2 x).1) : Keeps s₀ (State.unlessRefused a0 a1 a2).1 := by
  unfold State.unlessRefused
  split
  · exact keeps_mk.mpr h0.at
  · exact h2 _ h0

theorem State_beginUpdate_keeps {s₀ : State} (a0 : State) (a1 : Nat) (h0 : Keeps s₀ a0) :
    Keeps s₀ (State.beginUpdate a0 a1).1 := by
  unfold State.beginUpdate
  repeat' first
    | with_reducible assumption
    | (with_reducible intro x; try beta_reduce)
    | (extract_lets +onlyGivenNames v; refine (fun (hv : Keeps s₀ v) => ?_) ?_; (on_goal 1 => clear_value v); (on_goal 2 => (dsimp -zeta only [v]; try clear v)))
    | (extract_lets +onlyGivenNames v; first | (have w : Mem := v; clear w) | (have w : DictState := v; clear w) | (have w : Fw := v; clear w) | clear_value v)
    | with_reducible apply State_unlessRefused_keeps
    | with_reducible refine State_adjComp_keeps _ _ _ ?_ (fun _ _ => Nat.le_of_eq (setInactive_floor _ _).symm)
    | (simp -zeta only [keeps_mk]; with_reducible refine Keeps.at ?_)
    | split

theorem updateEraseComplete_keeps {s₀ : State} (a0 : State) (h0 : Keeps s₀ a0) :
    Keeps s₀ (Machine.updateEraseComplete a0) := by
  unfold Machine.updateEraseComplete
  repeat' first
    | with_reducible assumption
    | (extract_lets +onlyGivenNames v; first | (have w : Mem := v; clear w) | (have w : DictState := v; clear w) | (have w : Fw := v; clear w) | clear_value v)
    | (simp -zeta only [keeps_mk]; with_reducible refine Keeps.at ?_)
    | split

theorem State_updateBytes_keeps {s₀ : State} (a0 : State) (a1 : Bytes) (h0 : Keeps s₀ a0) :
    Keeps s₀ (State.updateBytes a0 a1).1 := by
  unfold State.updateBytes
  repeat' first
    | with_reducible assumption
    | (extract_lets +onlyGivenNames v; refine (fun (hv : Keeps s₀ v) => ?_) ?_; (on_goal 1 => clear_value v); (on_goal 2 => (dsimp -zeta only [v]; try clear v)))
    | (extract_lets +onlyGivenNames v; first | (have w : Mem := v; clear w) | (have w : DictState := v; clear w) | (have w : Fw := v; clear w) | clear_value v)
    | with_reducible refine State_adjComp_keeps _ _ _ ?_ (fun _ _ => Nat.le_of_eq (setInactive_floor _ _).symm)
    | (simp -zeta only [keeps_mk]; with_reducible refine Keeps.at ?_)
    | split

theorem updateProgramComplete_keeps {s₀ : State} (a0 : State) (h0 : Keeps s₀ a0) :
    Keeps s₀ (Machine.updateProgramComplete a0) := by
  unfold Machine.updateProgramComplete
  repeat' first
    | with_reducible assumption
    | (extract_lets +onlyGivenNames v; first | (have w : Mem := v; clear w) | (have w : DictState := v; clear w) | (have w : Fw := v; clear w) | clear_value v)
    | (simp -zeta only [keeps_mk]; with_reducible refine Keeps.at ?_)

theorem State_verifyUpdate_keeps {s₀ : State} (a0 : State) (h0 : Keeps s₀ a0) :
    Keeps s₀ (State.verifyUpdate a0).1 := by
  unfold State.verifyUpdate
  repeat' first
    | with_reducible assumption
    | (with_reducible intro x; try beta_reduce)
    | (extract_lets +onlyGivenNames v; first | (have w : Mem := v; clear w) | (have w : DictState := v; clear w) | (have w : Fw := v; clear w) | clear_value v)
    | with_reducible apply State_unlessRefused_keeps
    | (simp -zeta only [keeps_mk]; with_reducible refine Keeps.at ?_)
    | split

theorem updateVerifyComplete_keeps {s₀ : State} (a0 : State) (h0 : Keeps s₀ a0) :
    Keeps s₀ (Machine.updateVerifyComplete a0) := by
  unfold Machine.updateVerifyComplete
  repeat' first
    | with_reducible assumption
    | (extract_lets +onlyGivenNames v; refine (fun (hv : Keeps s₀ v) => ?_) ?_; (on_goal 1 => clear_value v); (on_goal 2 => (dsimp -zeta only [v]; try clear v)))
    | (extract_lets +onlyGivenNames v; first | (have w : Mem := v; clear w) | (have w : DictState := v; clear w) | (have w : Fw := v; clear w) | clear_value v)
    | with_reducible refine State_adjComp_keeps _ _ _ ?_ (fun _ _ => Nat.le_of_eq (setInactive_floor _ _).symm)
    | with_reducible apply State_abortUpdate_keeps
    | (simp -zeta only [keeps_mk]; with_reducible refine Keeps.at ?_)
    | split

theorem State_markPending_keeps {s₀ : State} (a0 : State) (h0 : Keeps s₀ a0) :
    Keeps s₀ (State.markPending a0) := by
  unfold State.markPending
  repeat' first
    | with_reducible assumption
    | (extract_lets +onlyGivenNames v; refine (fun (hv : Keeps s₀ v) => ?_) ?_; (on_goal 1 => clear_value v); (on_goal 2 => (dsimp -zeta only [v]; try clear v)))
    | (extract_lets +onlyGivenNames v; first | (have w : Mem := v; clear w) | (have w : DictState := v; clear w) | (have w : Fw := v; clear w) | clear_value v)
    | with_reducible refine State_adjComp_keeps _ _ _ ?_ (fun _ _ => Nat.le_refl _)
    | with_reducible apply State_log_keeps
    | (simp -zeta only [keeps_mk]; with_reducible refine Keeps.at ?_)

theorem State_commitUpdate_keeps {s₀ : State} (a0 : State) (a1 : Bool) (h0 : Keeps s₀ a0) :
    Keeps s₀ (State.commitUpdate a0 a1).1 := by
  unfold State.commitUpdate
  repeat' first
    | with_reducible assumption
    | (with_reducible intro x; try beta_reduce)
    | (extract_lets +onlyGivenNames v; refine (fun (hv : Keeps s₀ v) => ?_) ?_; (on_goal 1 => clear_value v); (on_goal 2 => (dsimp -zeta only [v]; try clear v)))
    | with_reducible apply State_unlessRefused_keeps
    | with_reducible apply State_markPending_keeps
    | with_reducible apply State_fullReset_keeps
    | split

theorem State_stopUpdate_keeps {s₀ : State} (a0 : State) (h0 : Keeps s₀ a0) :
    Keeps s₀ (State.stopUpdate a0).1 := by
  unfold State.stopUpdate
  repeat' first
    | with_reducible assumption
    | with_reducible apply State_abortedUpdate_keeps
    | split

theorem State_confirmAll_keeps {s₀ : State} (a0 : State) (h0 : Keeps s₀ a0) :
    Keeps s₀ (State.confirmAll a0).1 := by
  unfold State.confirmAll
  repeat' first
    | with_reducible assumption
    | with_reducible apply State_confirm_keeps
    | (with_reducible refine foldl_keeps _ _ ?_ ?_; on_goal 2 => (intro t x ht; try beta_reduce))
    | split

theorem updateTrialTimeout_keeps {s₀ : State} (a0 : State) (h0 : Keeps s₀ a0) :
    Keeps s₀ (Machine.updateTrialTimeout a0) := by
  unfold Machine.updateTrialTimeout
  repeat' first
    | with_reducible assumption
    | with_reducible apply State_fullResetWith_keeps
    | split

theorem State_setSpdm_keeps {s₀ : State} (a0 : State) (a1 : SpdmPath) (a2 : Spdm) (h0 : Keeps s₀ a0) :
    Keeps s₀ (State.setSpdm a0 a1 a2) := by
  unfold State.setSpdm
  repeat' first
    | with_reducible assumption
    | (extract_lets +onlyGivenNames v; first | (have w : Mem := v; clear w) | (have w : DictState := v; clear w) | (have w : Fw := v; clear w) | clear_value v)
    | (simp -zeta only [keeps_mk]; with_reducible refine Keeps.at ?_)
    | split

theorem State_serveSpdm_keeps {s₀ : State} (a0 : State) (a1 : SpdmPath) (a2 : Spdm → Spdm) (h0 : Keeps s₀ a0) :
    Keeps s₀ (State.serveSpdm a0 a1 a2) := by
  unfold State.serveSpdm
  repeat' first
    | with_reducible assumption
    | with_reducible apply State_setSpdm_keeps
    | split

theorem getVersion_keeps {s₀ : State} (a0 : SpdmPath) (a1 : State) (h1 : Keeps s₀ a1) :
    Keeps s₀ (Machine.getVersion a0 a1) := by
  unfold Machine.getVersion
  repeat' first
    | with_reducible assumption
    | (extract_lets +onlyGivenNames v; first | (have w : Mem := v; clear w) | (have w : DictState := v; clear w) | (have w : Fw := v; clear w) | clear_value v)
    | with_reducible apply State_serveSpdm_keeps

theorem getCapabilities_keeps {s₀ : State} (a0 : SpdmPath) (a1 : State) (h1 : Keeps s₀ a1) :
    Keeps s₀ (Machine.getCapabilities a0 a1) := by
  unfold Machine.getCapabilities
  repeat' first
    | with_reducible assumption
    | with_reducible apply State_serveSpdm_keeps

theorem negotiateAlgorithms_keeps {s₀ : State} (a0 : SpdmPath) (a1 : Nat) (a2 : Nat) (a3 : Nat) (a4 : Nat) (a5 : State) (h5 : Keeps s₀ a5) :
    Keeps s₀ (Machine.negotiateAlgorithms a0 a1 a2 a3 a4 a5) := by
  unfold Machine.negotiateAlgorithms
  repeat' first
    | with_reducible assumption
    | (extract_lets +onlyGivenNames v; first | (have w : Mem := v; clear w) | (have w : DictState := v; clear w) | (have w : Fw := v; clear w) | clear_value v)
    | with_reducible apply State_serveSpdm_keeps

theorem getDigests_keeps {s₀ : State} (a0 : SpdmPath) (a1 : State) (h1 : Keeps s₀ a1) :
    Keeps s₀ (Machine.getDigests a0 a1) := by
  unfold Machine.getDigests
  repeat' first
    | with_reducible assumption
    | with_reducible apply State_serveSpdm_keeps

theorem getCertificate_keeps {s₀ : State} (a0 : SpdmPath) (a1 : Nat) (a2 : Nat) (a3 : Nat) (a4 : State) (h4 : Keeps s₀ a4) :
    Keeps s₀ (Machine.getCertificate a0 a1 a2 a3 a4) := by
  unfold Machine.getCertificate
  repeat' first
    | with_reducible assumption
    | (extract_lets +onlyGivenNames v; first | (have w : Mem := v; clear w) | (have w : DictState := v; clear w) | (have w : Fw := v; clear w) | clear_value v)
    | with_reducible apply State_serveSpdm_keeps

theorem challenge_keeps {s₀ : State} (a0 : SpdmPath) (a1 : Nat) (a2 : Bytes) (a3 : State) (h3 : Keeps s₀ a3) :
    Keeps s₀ (Machine.challenge a0 a1 a2 a3) := by
  unfold Machine.challenge
  repeat' first
    | with_reducible assumption
    | (extract_lets +onlyGivenNames v; first | (have w : Mem := v; clear w) | (have w : DictState := v; clear w) | (have w : Fw := v; clear w) | clear_value v)
    | with_reducible apply State_serveSpdm_keeps
    | with_reducible apply State_drawn_keeps

theorem getMeasurements_keeps {s₀ : State} (a0 : SpdmPath) (a1 : Nat) (a2 : Bytes) (a3 : State) (h3 : Keeps s₀ a3) :
    Keeps s₀ (Machine.getMeasurements a0 a1 a2 a3) := by
  unfold Machine.getMeasurements
  repeat' first
    | with_reducible assumption
    | (extract_lets +onlyGivenNames v; first | (have w : Mem := v; clear w) | (have w : DictState := v; clear w) | (have w : Fw := v; clear w) | clear_value v)
    | with_reducible apply State_serveSpdm_keeps
    | with_reducible apply State_drawn_keeps

theorem chunkSend_keeps {s₀ : State} (a0 : SpdmPath) (a1 : Nat) (a2 : Nat) (a3 : Bool) (a4 : Bytes) (a5 : State) (h5 : Keeps s₀ a5) :
    Keeps s₀ (Machine.chunkSend a0 a1 a2 a3 a4 a5) := by
  unfold Machine.chunkSend
  repeat' first
    | with_reducible assumption
    | with_reducible apply State_serveSpdm_keeps

theorem chunkGet_keeps {s₀ : State} (a0 : SpdmPath) (a1 : Nat) (a2 : Nat) (a3 : State) (h3 : Keeps s₀ a3) :
    Keeps s₀ (Machine.chunkGet a0 a1 a2 a3) := by
  unfold Machine.chunkGet
  repeat' first
    | with_reducible assumption
    | with_reducible apply State_serveSpdm_keeps

theorem keyEx_keeps {s₀ : State} (a0 : SpdmPath) (a1 : Bytes) (a2 : State) (h2 : Keeps s₀ a2) :
    Keeps s₀ (Machine.keyEx a0 a1 a2) := by
  unfold Machine.keyEx
  repeat' first
    | with_reducible assumption
    | (extract_lets +onlyGivenNames v; first | (have w : Mem := v; clear w) | (have w : DictState := v; clear w) | (have w : Fw := v; clear w) | clear_value v)
    | with_reducible apply State_serveSpdm_keeps
    | with_reducible apply State_drawn_keeps

theorem finish_keeps {s₀ : State} (a0 : SpdmPath) (a1 : Bytes) (a2 : State) (h2 : Keeps s₀ a2) :
    Keeps s₀ (Machine.finish a0 a1 a2) := by
  unfold Machine.finish
  repeat' first
    | with_reducible assumption
    | with_reducible apply State_serveSpdm_keeps

theorem endSession_keeps {s₀ : State} (a0 : SpdmPath) (a1 : State) (h1 : Keeps s₀ a1) :
    Keeps s₀ (Machine.endSession a0 a1) := by
  unfold Machine.endSession
  repeat' first
    | with_reducible assumption
    | with_reducible apply State_serveSpdm_keeps

end Sys2Proof.Laws
end

