-- ==== Sys2Proof/Laws/KeepsDictionary.lean ====
section
/-! SUPPORT. What the operations of Machine/Dictionary.lean keep (`Keeps`): one lemma for each. -/

set_option Elab.async false
set_option linter.all false

namespace Sys2Proof.Laws

open Sys2Proof Sys2Proof.Machine

theorem State_takeLease_keeps {s₀ : State} (a0 : State) (a1 : Nat) (h0 : Keeps s₀ a0) :
    Keeps s₀ (State.takeLease a0 a1).1 := by
  unfold State.takeLease
  repeat' first
    | with_reducible assumption
    | (extract_lets +onlyGivenNames v; first | (have w : Mem := v; clear w) | (have w : DictState := v; clear w) | (have w : Fw := v; clear w) | clear_value v)
    | (simp -zeta only [keeps_mk]; with_reducible refine Keeps.at ?_)
    | split

theorem State_giveLease_keeps {s₀ : State} (a0 : State) (a1 : Nat) (h0 : Keeps s₀ a0) :
    Keeps s₀ (State.giveLease a0 a1).1 := by
  unfold State.giveLease
  repeat' first
    | with_reducible assumption
    | with_reducible apply State_loseLease_keeps

theorem State_breakLease_keeps {s₀ : State} (a0 : State) (a1 : Nat) (h0 : Keeps s₀ a0) :
    Keeps s₀ (State.breakLease a0 a1).1 := by
  unfold State.breakLease
  repeat' first
    | with_reducible assumption
    | (extract_lets +onlyGivenNames v; refine (fun (hv : Keeps s₀ v) => ?_) ?_; (on_goal 1 => clear_value v); (on_goal 2 => (dsimp -zeta only [v]; try clear v)))
    | (extract_lets +onlyGivenNames v; first | (have w : Mem := v; clear w) | (have w : DictState := v; clear w) | (have w : Fw := v; clear w) | clear_value v)
    | with_reducible apply State_log_keeps
    | with_reducible apply State_loseLease_keeps
    | (simp -zeta only [keeps_mk]; with_reducible refine Keeps.at ?_)
    | split

theorem leaseExpired_keeps {s₀ : State} (a0 : State) (h0 : Keeps s₀ a0) :
    Keeps s₀ (Machine.leaseExpired a0) := by
  unfold Machine.leaseExpired
  repeat' first
    | with_reducible assumption
    | with_reducible apply State_log_keeps
    | with_reducible apply State_loseLease_keeps
    | split

theorem sessionIdleTimeout_keeps {s₀ : State} (a0 : Nat) (a1 : State) (h1 : Keeps s₀ a1) :
    Keeps s₀ (Machine.sessionIdleTimeout a0 a1) := by
  unfold Machine.sessionIdleTimeout
  repeat' first
    | with_reducible assumption
    | with_reducible apply State_closeMuslin_keeps
    | split

theorem State_openLock_keeps {s₀ : State} (a0 : State) (a1 : Nat) (h0 : Keeps s₀ a0) :
    Keeps s₀ (State.openLock a0 a1) := by
  unfold State.openLock
  exact h0.locks fun _ => rfl

/-- A failed attempt where the lock is closed. -/
theorem State_failLock_keeps {s₀ : State} (a0 : State) (a1 : Nat) (h0 : Keeps s₀ a0) (hc : a0.dict.lock = .closed) :
    Keeps s₀ (State.failLock a0 a1) := by
  unfold State.failLock
  extract_lets +onlyGivenNames n d t
  split
  · rename_i hn
    refine h0.locks fun _ => ?_
    have hd : d.lock = .closed := hc
    simp only [DictState.lockOk, hd, decide_eq_true_eq]
    exact Nat.le_of_lt_succ hn
  · rename_i hn
    refine State_log_keeps _ _ _ _ _ _ (h0.locks (dict := { t.dict with lock := .blocked t.now }) fun x => ?_)
    have hn' : ¬ a0.dict.failCount + 1 < 5 := hn
    simp only [DictState.lockOk, hc, decide_eq_true_eq, beq_iff_eq] at x ⊢
    show a0.dict.failCount + 1 = 5
    omega

theorem State_lockAttempt_keeps {s₀ : State} (a0 : State) (a1 : Nat) (a2 : Bool) (h0 : Keeps s₀ a0)
    (hc : a0.dict.lock = .closed) : Keeps s₀ (State.lockAttempt a0 a1 a2).1 := by
  unfold State.lockAttempt
  split
  · exact State_openLock_keeps _ _ h0
  · exact State_failLock_keeps _ _ h0 hc

/-- The gate lets an attempt through only where the lock is closed. -/
theorem closed_of_lockGate (s : State) (sid : Nat) (h : s.lockGate sid = none) : s.dict.lock = .closed := by
  unfold State.lockGate at h
  split at h
  · assumption
  · cases h
  · cases h

theorem State_tryPassword_keeps {s₀ : State} (a0 : State) (a1 : Nat) (a2 : Bytes) (h0 : Keeps s₀ a0) :
    Keeps s₀ (State.tryPassword a0 a1 a2).1 := by
  unfold State.tryPassword
  split
  · exact h0
  · rename_i hg
    split
    · exact h0
    · exact State_lockAttempt_keeps _ _ _ h0 (closed_of_lockGate _ _ hg)

theorem State_tryResponse_keeps {s₀ : State} (a0 : State) (a1 : Nat) (a2 : Bytes) (h0 : Keeps s₀ a0) :
    Keeps s₀ (State.tryResponse a0 a1 a2).1 := by
  unfold State.tryResponse
  split
  · exact h0
  · rename_i hg
    exact State_lockAttempt_keeps _ _ _ (keeps_mk.mpr h0.at) (closed_of_lockGate _ _ hg)

theorem State_shutLock_keeps {s₀ : State} (a0 : State) (a1 : Nat) (h0 : Keeps s₀ a0) :
    Keeps s₀ (State.shutLock a0 a1).1 := by
  unfold State.shutLock
  split
  · rename_i o k e
    split
    · exact h0.locks (lockOk_shut _ o k e)
    · exact h0
  · exact h0

theorem lockOpenTimeExpiry_keeps {s₀ : State} (a0 : State) (h0 : Keeps s₀ a0) :
    Keeps s₀ (Machine.lockOpenTimeExpiry a0) := by
  unfold lockOpenTimeExpiry
  split
  · rename_i o k e
    exact h0.locks (lockOk_shut _ o k e)
  · exact h0

theorem lockBlockExpiry_keeps {s₀ : State} (a0 : State) (h0 : Keeps s₀ a0) :
    Keeps s₀ (Machine.lockBlockExpiry a0) := by
  unfold lockBlockExpiry
  split
  · exact h0.locks fun _ => rfl
  · exact h0

theorem State_stage_keeps {s₀ : State} (a0 : State) (a1 : Nat) (a2 : Bytes) (h0 : Keeps s₀ a0) :
    Keeps s₀ (State.stage a0 a1 a2) := by
  unfold State.stage
  repeat' first
    | with_reducible assumption
    | (with_reducible intro x; try beta_reduce)
    | (extract_lets +onlyGivenNames v; refine (fun (hv : Keeps s₀ v) => ?_) ?_; (on_goal 1 => clear_value v); (on_goal 2 => (dsimp -zeta only [v]; try clear v)))
    | (extract_lets +onlyGivenNames v; refine (fun (hv : Keeps s₀ v.1) => ?_) ?_; (on_goal 1 => clear_value v); (on_goal 2 => (dsimp -zeta only [v]; try clear v)))
    | (extract_lets +onlyGivenNames v; first | (have w : Mem := v; clear w) | (have w : DictState := v; clear w) | (have w : Fw := v; clear w) | clear_value v)
    | with_reducible apply State_staged_keeps
    | (with_reducible refine foldl_keeps _ _ ?_ ?_; on_goal 2 => (intro t x ht; try beta_reduce))
    | (with_reducible refine foldl_keeps₂ _ _ _ ?_ ?_; on_goal 2 => (intro t b x ht; try dsimp -zeta only))
    | (simp -zeta only [keeps_mk]; with_reducible refine Keeps.at ?_)
    | with_reducible refine pair_keeps (by with_reducible assumption) ?_
    | split
    | (dsimp -zeta only)

theorem State_stageWrite_keeps {s₀ : State} (a0 : State) (a1 : Nat) (a2 : Bytes) (h0 : Keeps s₀ a0) :
    Keeps s₀ (State.stageWrite a0 a1 a2).1 := by
  unfold State.stageWrite
  repeat' first
    | with_reducible assumption
    | with_reducible apply State_stage_keeps
    | split

theorem State_commitNow_keeps {s₀ : State} (a0 : State) (a1 : Nat) (h0 : Keeps s₀ a0) :
    Keeps s₀ (State.commitNow a0 a1).1 := by
  unfold State.commitNow
  repeat' first
    | with_reducible assumption
    | (extract_lets +onlyGivenNames v; refine (fun (hv : Keeps s₀ v) => ?_) ?_; (on_goal 1 => clear_value v); (on_goal 2 => (dsimp -zeta only [v]; try clear v)))
    | (extract_lets +onlyGivenNames v; first | (have w : Mem := v; clear w) | (have w : DictState := v; clear w) | (have w : Fw := v; clear w) | clear_value v)
    | with_reducible apply State_applySet_keeps
    | with_reducible apply State_commitEnds_keeps
    | (simp -zeta only [keeps_mk]; with_reducible refine Keeps.at ?_)
    | split

theorem State_discardStage_keeps {s₀ : State} (a0 : State) (h0 : Keeps s₀ a0) :
    Keeps s₀ (State.discardStage a0) := by
  unfold State.discardStage
  repeat' first
    | with_reducible assumption
    | (extract_lets +onlyGivenNames v; refine (fun (hv : Keeps s₀ v) => ?_) ?_; (on_goal 1 => clear_value v); (on_goal 2 => (dsimp -zeta only [v]; try clear v)))
    | (extract_lets +onlyGivenNames v; first | (have w : Mem := v; clear w) | (have w : DictState := v; clear w) | (have w : Fw := v; clear w) | clear_value v)
    | with_reducible apply State_withdrawCommit_keeps
    | (simp -zeta only [keeps_mk]; with_reducible refine Keeps.at ?_)

theorem State_saveSettings_keeps {s₀ : State} (a0 : State) (h0 : Keeps s₀ a0) :
    Keeps s₀ (State.saveSettings a0) := by
  unfold State.saveSettings
  repeat' first
    | with_reducible assumption
    | (extract_lets +onlyGivenNames v; first | (have w : Mem := v; clear w) | (have w : DictState := v; clear w) | (have w : Fw := v; clear w) | clear_value v)
    | (simp -zeta only [keeps_mk]; with_reducible refine Keeps.at ?_)

theorem commitWaitExpiry_keeps {s₀ : State} (a0 : State) (h0 : Keeps s₀ a0) :
    Keeps s₀ (Machine.commitWaitExpiry a0) := by
  unfold Machine.commitWaitExpiry
  repeat' first
    | with_reducible assumption
    | with_reducible apply State_withdrawCommit_keeps
    | split

theorem State_boundaryCommit_keeps {s₀ : State} (a0 : State) (h0 : Keeps s₀ a0) :
    Keeps s₀ (State.boundaryCommit a0) := by
  unfold State.boundaryCommit
  repeat' first
    | with_reducible assumption
    | (extract_lets +onlyGivenNames v; first | (have w : Mem := v; clear w) | (have w : DictState := v; clear w) | (have w : Fw := v; clear w) | clear_value v)
    | with_reducible apply State_applySet_keeps
    | with_reducible apply State_commitEnds_keeps
    | (simp -zeta only [keeps_mk]; with_reducible refine Keeps.at ?_)
    | split

theorem State_boundaryPause_keeps {s₀ : State} (a0 : State) (h0 : Keeps s₀ a0) :
    Keeps s₀ (State.boundaryPause a0) := by
  unfold State.boundaryPause
  repeat' first
    | with_reducible assumption
    | (with_reducible intro x; try beta_reduce)
    | (extract_lets +onlyGivenNames v; refine (fun (hv : Keeps s₀ v) => ?_) ?_; (on_goal 1 => clear_value v); (on_goal 2 => (dsimp -zeta only [v]; try clear v)))
    | (extract_lets +onlyGivenNames v; refine (fun (hv : Keeps s₀ v.1) => ?_) ?_; (on_goal 1 => clear_value v); (on_goal 2 => (dsimp -zeta only [v]; try clear v)))
    | (extract_lets +onlyGivenNames v; first | (have w : Mem := v; clear w) | (have w : DictState := v; clear w) | (have w : Fw := v; clear w) | clear_value v)
    | with_reducible apply State_pauseNow_keeps
    | (with_reducible refine foldl_keeps _ _ ?_ ?_; on_goal 2 => (intro t x ht; try beta_reduce))
    | (with_reducible refine foldl_keeps₂ _ _ _ ?_ ?_; on_goal 2 => (intro t b x ht; try dsimp -zeta only))
    | (simp -zeta only [keeps_mk]; with_reducible refine Keeps.at ?_)
    | with_reducible refine pair_keeps (by with_reducible assumption) ?_
    | split
    | (dsimp -zeta only)

theorem stepBoundary_keeps {s₀ : State} (a0 : State) (h0 : Keeps s₀ a0) :
    Keeps s₀ (Machine.stepBoundary a0) := by
  unfold Machine.stepBoundary
  repeat' first
    | with_reducible assumption
    | (with_reducible intro x; try beta_reduce)
    | (extract_lets +onlyGivenNames v; refine (fun (hv : Keeps s₀ v) => ?_) ?_; (on_goal 1 => clear_value v); (on_goal 2 => (dsimp -zeta only [v]; try clear v)))
    | (extract_lets +onlyGivenNames v; refine (fun (hv : Keeps s₀ v.1) => ?_) ?_; (on_goal 1 => clear_value v); (on_goal 2 => (dsimp -zeta only [v]; try clear v)))
    | (extract_lets +onlyGivenNames v; first | (have w : Mem := v; clear w) | (have w : DictState := v; clear w) | (have w : Fw := v; clear w) | clear_value v)
    | with_reducible apply State_boundaryCommit_keeps
    | with_reducible apply State_closure_keeps
    | with_reducible apply State_floorBoundary_keeps
    | with_reducible apply State_refuseCoops_keeps
    | with_reducible apply State_idleActions_keeps
    | with_reducible apply State_boundaryPause_keeps
    | (with_reducible refine foldl_keeps _ _ ?_ ?_; on_goal 2 => (intro t x ht; try beta_reduce))
    | (with_reducible refine foldl_keeps₂ _ _ _ ?_ ?_; on_goal 2 => (intro t b x ht; try dsimp -zeta only))
    | (simp -zeta only [keeps_mk]; with_reducible refine Keeps.at ?_)
    | with_reducible refine pair_keeps (by with_reducible assumption) ?_
    | split
    | (dsimp -zeta only)

theorem State_funcWrite_keeps {s₀ : State} (a0 : State) (a1 : Func) (a2 : Nat) (a3 : Bool) (h0 : Keeps s₀ a0) :
    Keeps s₀ (State.funcWrite a0 a1 a2 a3).1 := by
  unfold State.funcWrite
  repeat' first
    | with_reducible assumption
    | (extract_lets +onlyGivenNames v; first | (have w : Mem := v; clear w) | (have w : DictState := v; clear w) | (have w : Fw := v; clear w) | clear_value v)
    | with_reducible apply State_bump_keeps
    | with_reducible apply State_requestFunc_keeps
    | with_reducible apply State_setValue_keeps
    | (simp -zeta only [keeps_mk]; with_reducible refine Keeps.at ?_)
    | with_reducible refine pair_keeps (by with_reducible assumption) ?_
    | split

theorem State_ledgerWrite_keeps {s₀ : State} (a0 : State) (a1 : Bool) (h0 : Keeps s₀ a0) :
    Keeps s₀ (State.ledgerWrite a0 a1).1 := by
  unfold State.ledgerWrite
  repeat' first
    | with_reducible assumption
    | with_reducible apply State_ledgerStart_keeps
    | with_reducible apply State_ledgerStop_keeps
    | split

theorem State_clearBw_keeps {s₀ : State} (a0 : State) (h0 : Keeps s₀ a0) :
    Keeps s₀ (State.clearBw a0) := by
  unfold State.clearBw
  repeat' first
    | with_reducible assumption
    | (extract_lets +onlyGivenNames v; refine (fun (hv : Keeps s₀ v) => ?_) ?_; (on_goal 1 => clear_value v); (on_goal 2 => (dsimp -zeta only [v]; try clear v)))
    | (extract_lets +onlyGivenNames v; first | (have w : Mem := v; clear w) | (have w : DictState := v; clear w) | (have w : Fw := v; clear w) | clear_value v)
    | with_reducible apply State_clearCounters_keeps
    | (simp -zeta only [keeps_mk]; with_reducible refine Keeps.at ?_)

theorem Keeps.ite_fst {α : Type} {s₀ : State} {a b : State × α} {p : Prop} [Decidable p] (ha : Keeps s₀ a.1)
    (hb : Keeps s₀ b.1) : Keeps s₀ (if p then a else b).1 := by
  split <;> assumption

theorem State_clearFor_keeps {s₀ : State} (a0 : State) (a1 : Nat) (h0 : Keeps s₀ a0) :
    Keeps s₀ (State.clearFor a0 a1) := by
  unfold State.clearFor
  repeat' first
    | exact h0
    | with_reducible apply State_clearCounters_keeps
    | with_reducible apply State_clearBw_keeps
    | with_reducible refine Keeps.ite ?_ ?_

theorem State_startFlush_keeps {s₀ : State} (a0 : State) (a1 : Nat) (h0 : Keeps s₀ a0) :
    Keeps s₀ (State.startFlush a0 a1).1 := by
  unfold State.startFlush
  repeat' first
    | with_reducible assumption
    | (extract_lets +onlyGivenNames v; first | (have w : Mem := v; clear w) | (have w : DictState := v; clear w) | (have w : Fw := v; clear w) | clear_value v)
    | (simp -zeta only [keeps_mk]; with_reducible refine Keeps.at ?_)
    | split

theorem State_applyResume_keeps {s₀ : State} (a0 : State) (a1 : Bytes) (h0 : Keeps s₀ a0) :
    Keeps s₀ (State.applyResume a0 a1).1 := by
  unfold State.applyResume
  repeat' first
    | with_reducible assumption
    | with_reducible apply State_resumeWith_keeps
    | with_reducible refine pair_keeps (by with_reducible assumption) ?_
    | split

theorem State_trigger_keeps {s₀ : State} (a0 : State) (a1 : Nat) (a2 : Nat) (a3 : Bytes) (h0 : Keeps s₀ a0) :
    Keeps s₀ (State.trigger a0 a1 a2 a3).1 := by
  unfold State.trigger
  repeat' first
    | with_reducible assumption
    | (extract_lets +onlyGivenNames v; first | (have w : Mem := v; clear w) | (have w : DictState := v; clear w) | (have w : Fw := v; clear w) | clear_value v)
    | with_reducible refine Keeps.ite_fst ?_ ?_
    | with_reducible apply State_takeLease_keeps
    | with_reducible apply State_giveLease_keeps
    | with_reducible apply State_breakLease_keeps
    | with_reducible apply State_tryResponse_keeps
    | with_reducible apply State_tryPassword_keeps
    | with_reducible apply State_shutLock_keeps
    | with_reducible apply State_discardStage_keeps
    | with_reducible apply State_saveSettings_keeps
    | with_reducible apply State_startFlush_keeps
    | with_reducible apply State_pauseRequest_keeps
    | with_reducible apply State_resumeRequest_keeps
    | with_reducible apply State_applyResume_keeps
    | with_reducible apply State_acceptThermal_keeps
    | with_reducible apply State_requestState_keeps
    | with_reducible apply State_requestComputeReset_keeps
    | with_reducible apply State_fullReset_keeps
    | with_reducible apply State_beginUpdate_keeps
    | with_reducible apply State_updateBytes_keeps
    | with_reducible apply State_verifyUpdate_keeps
    | with_reducible apply State_commitUpdate_keeps
    | with_reducible apply State_stopUpdate_keeps
    | with_reducible apply State_confirmAll_keeps
    | with_reducible apply State_clearFor_keeps

theorem State_writeNow_keeps {s₀ : State} (a0 : State) (a1 : Nat) (a2 : Bytes) (h0 : Keeps s₀ a0) :
    Keeps s₀ (State.writeNow a0 a1 a2).1 := by
  unfold State.writeNow
  repeat' first
    | with_reducible assumption
    | (extract_lets +onlyGivenNames v; first | (have w : Mem := v; clear w) | (have w : DictState := v; clear w) | (have w : Fw := v; clear w) | clear_value v)
    | with_reducible apply State_funcWrite_keeps
    | with_reducible apply State_ledgerWrite_keeps
    | with_reducible apply State_ackLog_keeps
    | with_reducible apply State_setValue_keeps
    | (simp -zeta only [keeps_mk]; with_reducible refine Keeps.at ?_)
    | split

theorem State_writeValue_keeps {s₀ : State} (a0 : State) (a1 : Nat) (a2 : ObjRow) (a3 : Nat) (a4 : Bytes) (h0 : Keeps s₀ a0) :
    Keeps s₀ (State.writeValue a0 a1 a2 a3 a4).1 := by
  unfold State.writeValue
  repeat' first
    | with_reducible assumption
    | (extract_lets +onlyGivenNames v; refine (fun (hf : ∀ y0, Keeps s₀ y0.1 → Keeps s₀ (v y0).1) => ?_) ?_; (on_goal 1 => clear_value v); (on_goal 2 => (dsimp -zeta only [v]; intro y0 hy; try dsimp -zeta only)))
    | with_reducible apply hf
    | with_reducible apply State_stageWrite_keeps
    | with_reducible apply State_commitNow_keeps
    | with_reducible apply State_trigger_keeps
    | with_reducible apply State_writeNow_keeps
    | split

theorem State_writeWhole_keeps {s₀ : State} (a0 : State) (a1 : Nat) (a2 : ObjRow) (a3 : Nat) (a4 : Bytes) (h0 : Keeps s₀ a0) :
    Keeps s₀ (State.writeWhole a0 a1 a2 a3 a4).1 := by
  unfold State.writeWhole
  repeat' first
    | with_reducible assumption
    | (with_reducible intro x; try beta_reduce)
    | (extract_lets +onlyGivenNames v; refine (fun (hv : Keeps s₀ v) => ?_) ?_; (on_goal 1 => clear_value v); (on_goal 2 => (dsimp -zeta only [v]; try clear v)))
    | (extract_lets +onlyGivenNames v; refine (fun (hv : Keeps s₀ v.1) => ?_) ?_; (on_goal 1 => clear_value v); (on_goal 2 => (dsimp -zeta only [v]; try clear v)))
    | (extract_lets +onlyGivenNames v; first | (have w : Mem := v; clear w) | (have w : DictState := v; clear w) | (have w : Fw := v; clear w) | clear_value v)
    | with_reducible apply State_writeValue_keeps
    | with_reducible apply State_drawn_keeps
    | (with_reducible refine foldl_keeps _ _ ?_ ?_; on_goal 2 => (intro t x ht; try beta_reduce))
    | (with_reducible refine foldl_keeps₂ _ _ _ ?_ ?_; on_goal 2 => (intro t b x ht; try dsimp -zeta only))
    | (simp -zeta only [keeps_mk]; with_reducible refine Keeps.at ?_)
    | with_reducible refine pair_keeps (by with_reducible assumption) ?_
    | split
    | (dsimp -zeta only)

theorem State_serveWrite_keeps {s₀ : State} (a0 : State) (a1 : Nat) (a2 : ObjRow) (a3 : Nat) (a4 : Nat) (a5 : Bool) (a6 : Bytes) (a7 : Option PartialWrite) (h0 : Keeps s₀ a0) :
    Keeps s₀ (State.serveWrite a0 a1 a2 a3 a4 a5 a6 a7).1 := by
  unfold State.serveWrite
  repeat' first
    | with_reducible assumption
    | (with_reducible intro x; try beta_reduce)
    | (extract_lets +onlyGivenNames v; refine (fun (hv : Keeps s₀ v) => ?_) ?_; (on_goal 1 => clear_value v); (on_goal 2 => (dsimp -zeta only [v]; try clear v)))
    | (extract_lets +onlyGivenNames v; refine (fun (hv : Keeps s₀ v.1) => ?_) ?_; (on_goal 1 => clear_value v); (on_goal 2 => (dsimp -zeta only [v]; try clear v)))
    | (extract_lets +onlyGivenNames v; first | (have w : Mem := v; clear w) | (have w : DictState := v; clear w) | (have w : Fw := v; clear w) | clear_value v)
    | with_reducible apply State_writeWhole_keeps
    | (with_reducible refine foldl_keeps _ _ ?_ ?_; on_goal 2 => (intro t x ht; try beta_reduce))
    | (with_reducible refine foldl_keeps₂ _ _ _ ?_ ?_; on_goal 2 => (intro t b x ht; try dsimp -zeta only))
    | (simp -zeta only [keeps_mk]; with_reducible refine Keeps.at ?_)
    | with_reducible refine pair_keeps (by with_reducible assumption) ?_
    | split
    | (dsimp -zeta only)

theorem State_serveRead_keeps {s₀ : State} (a0 : State) (a1 : Nat) (a2 : ObjRow) (a3 : Nat) (h0 : Keeps s₀ a0) :
    Keeps s₀ (State.serveRead a0 a1 a2 a3).1 := by
  unfold State.serveRead
  repeat' first
    | with_reducible assumption
    | (extract_lets +onlyGivenNames v; refine (fun (hv : Keeps s₀ v) => ?_) ?_; (on_goal 1 => clear_value v); (on_goal 2 => (dsimp -zeta only [v]; try clear v)))
    | (extract_lets +onlyGivenNames v; first | (have w : Mem := v; clear w) | (have w : DictState := v; clear w) | (have w : Fw := v; clear w) | clear_value v)
    | with_reducible apply State_drawn_keeps
    | (simp -zeta only [keeps_mk]; with_reducible refine Keeps.at ?_)
    | split

theorem State_dictServe_keeps {s₀ : State} (a0 : State) (a1 : Nat) (a2 : Nat) (a3 : Nat) (a4 : Nat) (a5 : Nat) (a6 : Bool) (a7 : Bool) (a8 : Bytes) (h0 : Keeps s₀ a0) :
    Keeps s₀ (State.dictServe a0 a1 a2 a3 a4 a5 a6 a7 a8).1 := by
  unfold State.dictServe
  repeat' first
    | with_reducible assumption
    | (with_reducible intro x; try beta_reduce)
    | (extract_lets +onlyGivenNames v; refine (fun (hv : Keeps s₀ v) => ?_) ?_; (on_goal 1 => clear_value v); (on_goal 2 => (dsimp -zeta only [v]; try clear v)))
    | (extract_lets +onlyGivenNames v; refine (fun (hv : Keeps s₀ v.1) => ?_) ?_; (on_goal 1 => clear_value v); (on_goal 2 => (dsimp -zeta only [v]; try clear v)))
    | (extract_lets +onlyGivenNames v; first | (have w : Mem := v; clear w) | (have w : DictState := v; clear w) | (have w : Fw := v; clear w) | clear_value v)
    | with_reducible apply State_serveWrite_keeps
    | with_reducible apply State_serveRead_keeps
    | (with_reducible refine foldl_keeps _ _ ?_ ?_; on_goal 2 => (intro t x ht; try beta_reduce))
    | (with_reducible refine foldl_keeps₂ _ _ _ ?_ ?_; on_goal 2 => (intro t b x ht; try dsimp -zeta only))
    | (simp -zeta only [keeps_mk]; with_reducible refine Keeps.at ?_)
    | with_reducible refine pair_keeps (by with_reducible assumption) ?_
    | split
    | (dsimp -zeta only)

theorem State_respond_keeps {s₀ : State} (a0 : State) (a1 : DictResp) (h0 : Keeps s₀ a0) :
    Keeps s₀ (State.respond a0 a1) := by
  unfold State.respond
  repeat' first
    | with_reducible assumption
    | (with_reducible intro x; try beta_reduce)
    | (extract_lets +onlyGivenNames v; refine (fun (hv : Keeps s₀ v) => ?_) ?_; (on_goal 1 => clear_value v); (on_goal 2 => (dsimp -zeta only [v]; try clear v)))
    | (extract_lets +onlyGivenNames v; refine (fun (hv : Keeps s₀ v.1) => ?_) ?_; (on_goal 1 => clear_value v); (on_goal 2 => (dsimp -zeta only [v]; try clear v)))
    | (extract_lets +onlyGivenNames v; first | (have w : Mem := v; clear w) | (have w : DictState := v; clear w) | (have w : Fw := v; clear w) | clear_value v)
    | (with_reducible refine foldl_keeps _ _ ?_ ?_; on_goal 2 => (intro t x ht; try beta_reduce))
    | (with_reducible refine foldl_keeps₂ _ _ _ ?_ ?_; on_goal 2 => (intro t b x ht; try dsimp -zeta only))
    | (simp -zeta only [keeps_mk]; with_reducible refine Keeps.at ?_)
    | with_reducible refine pair_keeps (by with_reducible assumption) ?_
    | split
    | (dsimp -zeta only)

theorem State_dictRequest_keeps {s₀ : State} (a0 : State) (a1 : Nat) (a2 : Nat) (a3 : Nat) (a4 : Nat) (a5 : Nat) (a6 : Bool) (a7 : Bool) (a8 : Bytes) (h0 : Keeps s₀ a0) :
    Keeps s₀ (State.dictRequest a0 a1 a2 a3 a4 a5 a6 a7 a8) := by
  unfold State.dictRequest
  repeat' first
    | with_reducible assumption
    | (with_reducible intro x; try beta_reduce)
    | (extract_lets +onlyGivenNames v; refine (fun (hv : Keeps s₀ v) => ?_) ?_; (on_goal 1 => clear_value v); (on_goal 2 => (dsimp -zeta only [v]; try clear v)))
    | (extract_lets +onlyGivenNames v; refine (fun (hv : Keeps s₀ v.1) => ?_) ?_; (on_goal 1 => clear_value v); (on_goal 2 => (dsimp -zeta only [v]; try clear v)))
    | (extract_lets +onlyGivenNames v; first | (have w : Mem := v; clear w) | (have w : DictState := v; clear w) | (have w : Fw := v; clear w) | clear_value v)
    | with_reducible apply State_dictServe_keeps
    | with_reducible apply State_respond_keeps
    | (with_reducible refine foldl_keeps _ _ ?_ ?_; on_goal 2 => (intro t x ht; try beta_reduce))
    | (with_reducible refine foldl_keeps₂ _ _ _ ?_ ?_; on_goal 2 => (intro t b x ht; try dsimp -zeta only))
    | (simp -zeta only [keeps_mk]; with_reducible refine Keeps.at ?_)
    | with_reducible refine pair_keeps (by with_reducible assumption) ?_
    | split
    | (dsimp -zeta only)

theorem State_dictPut_keeps {s₀ : State} (a0 : State) (a1 : Nat) (a2 : Nat) (a3 : Bytes) (h0 : Keeps s₀ a0) :
    Keeps s₀ (State.dictPut a0 a1 a2 a3) := by
  unfold State.dictPut
  repeat' first
    | with_reducible assumption
    | with_reducible apply State_dictRequest_keeps

theorem State_dictPutNum_keeps {s₀ : State} (a0 : State) (a1 : Nat) (a2 : Nat) (a3 : Nat) (a4 : Nat) (h0 : Keeps s₀ a0) :
    Keeps s₀ (State.dictPutNum a0 a1 a2 a3 a4) := by
  unfold State.dictPutNum
  repeat' first
    | with_reducible assumption
    | with_reducible apply State_dictPut_keeps

theorem State_muslinBad_keeps {s₀ : State} (a0 : State) (h0 : Keeps s₀ a0) :
    Keeps s₀ (State.muslinBad a0) := by
  unfold State.muslinBad
  repeat' first
    | with_reducible assumption
    | with_reducible apply State_bump_keeps

theorem State_muslinRecord_keeps {s₀ : State} (a0 : State) (a1 : Nat) (a2 : Nat) (a3 : DictResp) (h0 : Keeps s₀ a0) :
    Keeps s₀ (State.muslinRecord a0 a1 a2 a3) := by
  unfold State.muslinRecord
  repeat' first
    | with_reducible assumption
    | (extract_lets +onlyGivenNames v; first | (have w : Mem := v; clear w) | (have w : DictState := v; clear w) | (have w : Fw := v; clear w) | clear_value v)
    | (simp -zeta only [keeps_mk]; with_reducible refine Keeps.at ?_)

theorem State_muslinServe_keeps {s₀ : State} (a0 : State) (a1 : Nat) (a2 : Nat) (a3 : W64) (a4 : Bytes) (h0 : Keeps s₀ a0) :
    Keeps s₀ (State.muslinServe a0 a1 a2 a3 a4) := by
  unfold State.muslinServe
  repeat' first
    | with_reducible assumption
    | with_reducible apply State_dictServe_keeps
    | with_reducible apply State_muslinRecord_keeps
    | with_reducible apply State_respond_keeps

theorem request_keeps {s₀ : State} (a0 : Udp) (a1 : Nat) (a2 : Nat) (a3 : W64) (a4 : Bytes) (a5 : State) (h5 : Keeps s₀ a5) :
    Keeps s₀ (Machine.request a0 a1 a2 a3 a4 a5) := by
  unfold Machine.request
  repeat' first
    | with_reducible assumption
    | with_reducible apply State_muslinBad_keeps
    | with_reducible apply State_muslinServe_keeps
    | with_reducible apply State_respond_keeps
    | with_reducible apply State_bump_keeps
    | split

theorem dictRead_keeps {s₀ : State} (a0 : Nat) (a1 : Nat) (a2 : Nat) (a3 : Nat) (a4 : State) (h4 : Keeps s₀ a4) :
    Keeps s₀ (Machine.dictRead a0 a1 a2 a3 a4) := by
  unfold Machine.dictRead
  repeat' first
    | with_reducible assumption
    | with_reducible apply State_dictRequest_keeps

theorem dictWrite_keeps {s₀ : State} (a0 : Nat) (a1 : Nat) (a2 : Nat) (a3 : Nat) (a4 : Bool) (a5 : Bytes) (a6 : State) (h6 : Keeps s₀ a6) :
    Keeps s₀ (Machine.dictWrite a0 a1 a2 a3 a4 a5 a6) := by
  unfold Machine.dictWrite
  repeat' first
    | with_reducible assumption
    | with_reducible apply State_dictRequest_keeps

theorem dictReadStaged_keeps {s₀ : State} (a0 : Nat) (a1 : Nat) (a2 : Nat) (a3 : Nat) (a4 : State) (h4 : Keeps s₀ a4) :
    Keeps s₀ (Machine.dictReadStaged a0 a1 a2 a3 a4) := by
  unfold Machine.dictReadStaged
  repeat' first
    | with_reducible assumption
    | with_reducible apply State_dictRequest_keeps

theorem lockNonce_keeps {s₀ : State} (a0 : Nat) (a1 : State) (h1 : Keeps s₀ a1) :
    Keeps s₀ (Machine.lockNonce a0 a1) := by
  unfold Machine.lockNonce
  repeat' first
    | with_reducible assumption
    | with_reducible apply State_dictRequest_keeps

end Sys2Proof.Laws
end

