-- ==== Sys2Proof/Laws/Writes.lean ====
section
/-! SUPPORT. What a log entry and a write to a sector that Felt holds leave: such sectors stay writable, and arrays and blocks stand. -/

set_option Elab.async false
set_option linter.all false

namespace Sys2Proof.Laws

open Sys2Proof Sys2Proof.Machine

/-- What a read or a log entry may leave different. -/
def ReadOrLogged (s t : State) : Prop := (∃ p, t.felt = { s.felt with plru := p }) ∧ t.tiles = s.tiles ∧ t.boot = s.boot ∧
  t.integ.stopped = s.integ.stopped ∧ t.ledger.autoReset = s.ledger.autoReset ∧ t.fuses = s.fuses

theorem ReadOrLogged.refl (s : State) : ReadOrLogged s s := ⟨⟨_, rfl⟩, rfl, rfl, rfl, rfl, rfl⟩
theorem ReadOrLogged.trans {s t u : State} (h : ReadOrLogged s t) (g : ReadOrLogged t u) : ReadOrLogged s u := by
  obtain ⟨⟨p, hp⟩, h2, h3, h4, h5, h6⟩ := h
  obtain ⟨⟨q, hq⟩, g2, g3, g4, g5, g6⟩ := g
  exact ⟨⟨q, by rw [hq, hp]⟩, g2.trans h2, g3.trans h3, g4.trans h4, g5.trans h5, g6.trans h6⟩
theorem OnlyRead.soft {s t : State} (h : OnlyRead s t) : ReadOrLogged s t := by
  obtain ⟨c, b, p, rfl⟩ := h; exact ⟨⟨p, rfl⟩, rfl, rfl, rfl, rfl, rfl⟩

/-- A log entry. -/
theorem soft_log (s : State) (a b c : Nat) (d : LogAddr) (e : Nat) : ReadOrLogged s (s.log a b c d e) := by
  have k := State_log_same (fl := ps63) rfl s a b c d e (SameBut.refl _ _)
  obtain ⟨x, y, h, _⟩ := log_led s a b c d e
  exact ⟨⟨s.felt.plru, k .felt (by decide)⟩, k .tiles (by decide), k .boot (by decide), (log_bundles _ _ _ _ _ _).2.1, by rw [h], k .fuses (by decide)⟩

/-- A violation counted and logged (R212). -/
theorem soft_violation (s : State) (a b c : Nat) : ReadOrLogged s (s.violation a b c) := (bump_view _ _ _).soft.trans (soft_log _ _ _ _ _ _)
/-- A halt on poison logged (R293). -/
theorem soft_halted (s : State) (a : Nat) (b : LogAddr) (c d : Nat) (e : PoisonClass) : ReadOrLogged s (s.poisonHalted a b c d e) :=
  (bump_view _ _ _).soft.trans (soft_log _ _ _ _ _ _)
/-- A DEAD read logged (R184). -/
theorem soft_dead (s : State) (a b : Nat) : ReadOrLogged s (s.deadRead a b) := by
  unfold State.deadRead
  dsimp only
  split
  · exact ((bump_view s _ _).soft.trans (show ReadOrLogged _ (State.limitMark _ _) from ⟨⟨s.felt.plru, rfl⟩, rfl, rfl, rfl, rfl, rfl⟩)).trans (soft_log _ _ _ _ _ _)
  · exact ((bump_view s _ _).trans (bump_view _ _ _)).soft
theorem soft_drawn (s : State) : ReadOrLogged s s.drawn := ⟨⟨s.felt.plru, rfl⟩, rfl, rfl, rfl, rfl, rfl⟩

/-- A sector served, with or without a mark. -/
theorem soft_served (s : State) (sn cls agent : Nat) (v : SectorVal) : ReadOrLogged s (s.sectorServed sn cls agent v).1 := by
  unfold State.sectorServed State.delivered
  have h := (((charge_view s 0 cls).trans (bump_view _ Obj.feltReadHitSectors 1)).trans (touch_view _ (sn / 4))).soft
  split
  · exact (h.trans (soft_dead _ _ _)).trans (soft_drawn _)
  · exact h

/-- Everything that writes may rely on stands. -/
def StillServes (s t : State) : Prop := (∀ sn m, s.writable sn m = true → t.writable sn m = true) ∧ (∀ n, (t.tile n).matrix = (s.tile n).matrix) ∧
  (∀ n u x, s.ownerBlock n u = some x → ∃ y, t.ownerBlock n u = some y) ∧ t.ledger.autoReset = s.ledger.autoReset

theorem StillServes.refl (s : State) : StillServes s s := ⟨fun _ _ h => h, fun _ => rfl, fun _ _ x h => ⟨x, h⟩, rfl⟩
theorem StillServes.trans {s t u : State} (h : StillServes s t) (g : StillServes t u) : StillServes s u :=
  ⟨fun a b c => g.1 a b (h.1 a b c), fun n => (g.2.1 n).trans (h.2.1 n),
   fun n u x hx => by obtain ⟨y, hy⟩ := h.2.2.1 n u x hx; exact g.2.2.1 n u y hy, g.2.2.2.trans h.2.2.2⟩

theorem ReadOrLogged.w {s t : State} (h : ReadOrLogged s t) : StillServes s t := by
  obtain ⟨⟨p, hp⟩, h2, h3, h4, h5, h6⟩ := h
  have ht : ∀ n, t.tile n = s.tile n := by intro n; unfold State.tile; rw [h2]
  refine ⟨?_, fun n => by rw [ht], ?_, h5⟩
  · intro sn m hw
    have hb : t.bankOpen (sn / 4) = s.bankOpen (sn / 4) := by
      unfold State.bankOpen State.retiringHome State.bundleStopped State.bankOf State.bankOfHash State.banksPerHalf
      rw [hp, h4, h6]
    have hq : t.portStopped m = s.portStopped m := by unfold State.portStopped; rw [h3, h4]
    have hf : t.feltSector sn = s.feltSector sn := by unfold State.feltSector; rw [hp]
    unfold State.writable at hw ⊢
    rw [hb, hq, hf]; exact hw
  · intro n u x hx
    exact ⟨x, by unfold State.ownerBlock State.blockByUid at hx ⊢; rw [ht]; exact hx⟩

/-- What a writable sector is. -/
theorem writable_parts {s : State} {sn m : Nat} (h : s.writable sn m = true) :
    s.bankOpen (sn / 4) = true ∧ s.portStopped m = false ∧ ∃ l x, NMap.look s.felt.lines (sn / 4) = some l ∧ l.sectors[sn % 4]? = some x ∧
      x.present = true ∧ x.fetching = false := by
  unfold State.writable State.feltSector at h
  simp only [Bool.and_eq_true, Bool.not_eq_true', Option.any_eq_true, Option.filter_eq_some_iff, Option.bind_eq_some_iff] at h
  obtain ⟨⟨h1, h2⟩, x, ⟨⟨l, hl, hs⟩, hp⟩, hf⟩ := h
  exact ⟨h1, h2, l, x, hl, hs, hp, hf⟩

/-- What makes a sector writable. -/
theorem writable_of {s : State} {sn m : Nat} {l : FLine} {x : FSector} (h1 : s.bankOpen (sn / 4) = true) (h2 : s.portStopped m = false)
    (hl : NMap.look s.felt.lines (sn / 4) = some l) (hs : l.sectors[sn % 4]? = some x) (hp : x.present = true) (hf : x.fetching = false) :
    s.writable sn m = true := by
  unfold State.writable State.feltSector
  simp [h1, h2, hl, hs, hp, hf]

/-- A line replaced by one with the same reduction whose sectors serve. -/
theorem setLine_w (s : State) (line : Nat) (l l' : FLine) (hl : NMap.look s.felt.lines line = some l) (hr : l'.red = l.red)
    (hs : ∀ (k : Nat) (x : FSector), l.sectors[k]? = some x → x.present = true → x.fetching = false → ∃ y, l'.sectors[k]? = some y ∧ y.present = true ∧ y.fetching = false) :
    StillServes s (s.setLine line l') := by
  refine ⟨?_, fun _ => rfl, fun _ _ x h => ⟨x, h⟩, rfl⟩
  intro sn m hw
  obtain ⟨h1, h2, f, x, hf, hx, hp, hg⟩ := writable_parts hw
  have hb : (s.setLine line l').bankOpen (sn / 4) = true := by
    rw [← h1]
    unfold State.bankOpen
    by_cases e : sn / 4 = line
    · have e1 : NMap.look (s.setLine line l').felt.lines (sn / 4) = some l' := by rw [e]; exact look_put_same _ _ _
      rw [e1, e, hl]
      dsimp only
      rw [hr]
      rfl
    · have e1 : NMap.look (s.setLine line l').felt.lines (sn / 4) = NMap.look s.felt.lines (sn / 4) := look_put_other _ _ _ _ e
      rw [e1]
      rfl
  by_cases e : sn / 4 = line
  · have ef : f = l := by rw [e, hl] at hf; exact (Option.some.inj hf).symm
    subst ef
    obtain ⟨y, hy, hyp, hyf⟩ := hs _ x hx hp hg
    exact writable_of hb h2 (by rw [e]; exact look_put_same _ _ _) hy hyp hyf
  · exact writable_of hb h2 ((look_put_other _ _ _ _ e).trans hf) hx hp hg

/-- The scrub bookkeeping of a store. -/
theorem stored_w (s : State) (sn : Nat) : StillServes s (s.stored sn) := by
  unfold State.stored
  split
  · exact StillServes.refl _
  · refine ⟨?_, fun _ => rfl, fun _ _ x h => ⟨x, h⟩, rfl⟩
    intro n m hw; exact hw

/-- A store to a writable sector is performed, and what could be written still can. -/
theorem bankStore_w (s : State) (sn off : Nat) (bs : Bytes) (mark : Option PoisonClass) (m : Nat) (h : s.writable sn m = true) :
    (s.bankStore sn off bs mark m).2 = true ∧ StillServes s (s.bankStore sn off bs mark m).1 ∧ (s.bankStore sn off bs mark m).1.tiles = s.tiles := by
  obtain ⟨h1, h2, l, x, hl, hs, hp, hf⟩ := writable_parts h
  unfold State.bankStore State.lineForStore
  simp only [h1, h2, hl, hs, hp, hf, Bool.not_true, Bool.or_self, Bool.false_eq_true, if_false, Bool.false_and, Bool.true_or, if_true]
  refine ⟨trivial, ?_, ?_⟩
  · have key : ∀ l' : FLine, l'.red = l.red →
        (∀ (k : Nat) (x : FSector), l.sectors[k]? = some x → x.present = true → x.fetching = false → ∃ y, l'.sectors[k]? = some y ∧ y.present = true ∧ y.fetching = false) →
        StillServes s ((((s.setLine (sn / 4) l').stored sn).touch (sn / 4)).charge 0 m) := by
      intro l' hr hk
      exact ((setLine_w s (sn / 4) l l' hl hr hk).trans (stored_w _ _)).trans (ReadOrLogged.w (OnlyRead.soft ((touch_view _ _).trans (charge_view _ _ _))))
    refine key _ ?_ ?_
    · rfl
    · intro k y hy hyp hyf
      by_cases e : k = sn % 4
      · subst e
        dsimp only
        rw [adjAt_getElem?, hy]
        exact ⟨_, rfl, rfl, rfl⟩
      · refine ⟨y, ?_, hyp, hyf⟩
        dsimp only
        rw [adjAt_getElem?_other _ _ _ _ e]; exact hy
  · have key : ∀ l' : FLine, ((((s.setLine (sn / 4) l').stored sn).touch (sn / 4)).charge 0 m).tiles = s.tiles := by
      intro l'
      obtain ⟨c, b, p, e⟩ := (touch_view ((s.setLine (sn / 4) l').stored sn) (sn / 4)).trans (charge_view _ 0 m)
      rw [e]
      show ((s.setLine (sn / 4) l').stored sn).tiles = s.tiles
      unfold State.stored
      split <;> rfl
    exact key _

/-- A change of tiles that keeps their arrays and their blocks. -/
theorem tiles_w {s t : State} (hf : t.felt = s.felt) (hb : t.boot = s.boot) (hi : t.integ = s.integ) (hl : t.ledger = s.ledger) (hu : t.fuses = s.fuses)
    (hm : ∀ n, (t.tile n).matrix = (s.tile n).matrix) (ho : ∀ n u x, s.ownerBlock n u = some x → ∃ y, t.ownerBlock n u = some y) : StillServes s t := by
  refine ⟨?_, hm, ho, by rw [hl]⟩
  intro sn m hw
  have h1 : t.bankOpen (sn / 4) = s.bankOpen (sn / 4) := by
    unfold State.bankOpen State.retiringHome State.bundleStopped State.bankOf State.bankOfHash State.banksPerHalf
    rw [hf, hi, hu]
  have h2 : t.portStopped m = s.portStopped m := by unfold State.portStopped; rw [hb, hi]
  have h3 : t.feltSector sn = s.feltSector sn := by unfold State.feltSector; rw [hf]
  unfold State.writable at hw ⊢
  rw [h1, h2, h3]; exact hw

/-- The same of one tile. -/
theorem adjTile_w (s : State) (tile : Nat) (f : Tile → Tile) (hm : ∀ t, (f t).matrix = t.matrix)
    (ho : ∀ t u x, t.blocks.find? (fun b => b.uid == u) = some x → ∃ y, (f t).blocks.find? (fun b => b.uid == u) = some y) : StillServes s (s.adjTile tile f) := by
  refine tiles_w rfl rfl rfl rfl rfl ?_ ?_
  · intro n
    by_cases e : n = tile
    · subst e; rw [tile_adjTile, hm]
    · rw [tile_adjTile_other _ _ _ _ e]
  · intro n u x hx
    unfold State.ownerBlock State.blockByUid at hx ⊢
    by_cases e : n = tile
    · subst e; rw [tile_adjTile]; exact ho _ _ _ hx
    · rw [tile_adjTile_other _ _ _ _ e]; exact ⟨x, hx⟩

/-- A change of one block. -/
theorem adjOwner_w (s : State) (tile uid : Nat) (f : Block → Block) (hf : ∀ b, (f b).uid = b.uid) : StillServes s (s.adjOwner tile uid f) := by
  unfold State.adjOwner
  refine adjTile_w s tile _ (fun _ => rfl) ?_
  intro t u x hx
  have key : ∀ (l : List Block), l.find? (fun b => b.uid == u) = some x → ∃ y, (l.map fun b => if b.uid = uid then f b else b).find? (fun b => b.uid == u) = some y := by
    intro l
    induction l with
    | nil => intro h; exact absurd h (by simp)
    | cons b l ih =>
      intro h
      rw [List.map_cons, List.find?_cons]
      rw [List.find?_cons] at h
      have e : ((if b.uid = uid then f b else b).uid == u) = (b.uid == u) := by split <;> simp [hf]
      rw [e]
      cases hb : (b.uid == u)
      · rw [hb] at h; exact ih h
      · exact ⟨_, rfl⟩
  exact key _ hx

/-- An update of the L1 part. -/
theorem l1Update_w (s : State) (tile sn : Nat) (g : SectorVal → SectorVal) : StillServes s (s.adjTile tile fun t => t.l1Update sn g) :=
  adjTile_w s tile _ (fun _ => rfl) (fun _ _ x h => ⟨x, h⟩)

/-- One destination sector that can be written is written. -/
theorem destSector_w (s : State) (tile uid : Nat) (dev : Bool) (sn off : Nat) (bs : Bytes) (mark : Option PoisonClass)
    (h : dev = false ∨ s.writable sn (mTile tile) = true) :
    (s.destSector tile uid dev sn off bs mark).2 = true ∧ StillServes s (s.destSector tile uid dev sn off bs mark).1 := by
  unfold State.destSector
  cases dev with
  | true =>
    have h := h.resolve_left (by simp)
    obtain ⟨a, b, _⟩ := bankStore_w s sn off bs mark (mTile tile) h
    exact ⟨a, b.trans (l1Update_w _ _ _ _)⟩
  | false => exact ⟨rfl, adjOwner_w _ _ _ _ fun _ => rfl⟩

/-- Destination sectors that can be written are all written. -/
theorem writePieces_w (tile uid : Nat) (dev : Bool) (l : List (Nat × Bytes × Option PoisonClass)) : ∀ (s : State),
    (dev = false ∨ ∀ e ∈ l, s.writable e.1 (mTile tile) = true) →
    (State.writePieces tile uid dev l s).2 = true ∧ StillServes s (State.writePieces tile uid dev l s).1 := by
  induction l with
  | nil => intro s _; exact ⟨rfl, StillServes.refl _⟩
  | cons e l ih =>
    intro s h
    obtain ⟨sn, bs, mk⟩ := e
    have hd := destSector_w s tile uid dev sn 0 bs mk (h.imp_right fun h => h (sn, bs, mk) (by simp))
    unfold State.writePieces
    generalize s.destSector tile uid dev sn 0 bs mk = r at hd
    obtain ⟨t, ok⟩ := r
    obtain ⟨rfl, hw⟩ := hd
    have := ih t (h.imp_right fun h e he => hw.1 _ _ (h e (by simp [he])))
    exact ⟨this.1, hw.trans this.2⟩

/-- A run of sectors that can be written is written. -/
theorem destBytes_w (tile uid : Nat) (dev : Bool) (l : List (Bytes × Option PoisonClass)) : ∀ (s : State) (sn : Nat),
    (dev = false ∨ ∀ k, k < l.length → s.writable (sn + k) (mTile tile) = true) →
    (State.destBytes tile uid dev sn l s).2 = true ∧ StillServes s (State.destBytes tile uid dev sn l s).1 := by
  induction l with
  | nil => intro s _ _; exact ⟨rfl, StillServes.refl _⟩
  | cons e l ih =>
    intro s sn h
    obtain ⟨bs, mk⟩ := e
    have hd := destSector_w s tile uid dev sn 0 bs mk (h.imp_right fun h => by simpa using h 0 (by simp))
    unfold State.destBytes
    generalize s.destSector tile uid dev sn 0 bs mk = r at hd
    obtain ⟨t, ok⟩ := r
    obtain ⟨rfl, hw⟩ := hd
    have := ih t (sn + 1) (h.imp_right fun h k hk => hw.1 _ _ (by rw [show sn + 1 + k = sn + (k + 1) by omega]; exact h (k + 1) (by simpa using hk)))
    exact ⟨this.1, hw.trans this.2⟩

/-- Sectors that Felt can write are read without a wait. -/
theorem data_w (s : State) (tile uid sn : Nat) (h : s.writable sn (mTile tile) = true) :
    StillServes s (s.dataSector tile uid true sn).1 ∧ (s.dataSector tile uid true sn).2 ≠ .wait := by
  obtain ⟨h1, h2, l, x, hl, hs, hp, hf⟩ := writable_parts h
  have hb : ∃ t v, s.bankRead sn (mTile tile) tile = (t, some v) ∧ ReadOrLogged s t := by
    unfold State.bankRead
    simp only [h1, h2, Bool.not_true, Bool.or_self, Bool.false_eq_true, if_false, hl, hs, hp, if_true]
    split
    · exact ⟨_, _, rfl, soft_served _ _ _ _ _⟩
    · exact ⟨_, _, rfl, soft_served _ _ _ _ _⟩
  obtain ⟨t, v, e, ht⟩ := hb
  unfold State.dataSector State.opSector
  simp only [if_true]
  cases hv : s.violationKind (sn * 32) false with
  | some k => exact ⟨(soft_violation _ _ _ _).w, by simp⟩
  | none =>
    dsimp only
    rw [e]
    dsimp only
    cases hm : v.mark with
    | none => exact ⟨ht.w, by simp⟩
    | some c =>
      dsimp only
      split
      · exact ⟨(ht.trans (soft_halted t tile _ (t.ownerLinear tile uid) 1 c)).w, by simp⟩
      · exact ⟨ht.w, by simp⟩

/-- Sectors that Felt can write are gathered without a wait. -/
theorem gather_w (tile uid : Nat) (n : Nat) : ∀ (sn : Nat) (got : List SectorVal) (s : State),
    (∀ k, k < n → s.writable (sn + k) (mTile tile) = true) →
    StillServes s (State.gather tile uid true n sn got s).1 ∧ (State.gather tile uid true n sn got s).2.2 ≠ .wait := by
  induction n with
  | zero => intro sn got s _; exact ⟨StillServes.refl _, by simp [State.gather]⟩
  | succ n ih =>
    intro sn got s h
    have hd := data_w s tile uid sn (by simpa using h 0 (by omega))
    unfold State.gather
    generalize s.dataSector tile uid true sn = r at hd
    obtain ⟨t, r⟩ := r
    cases r with
    | ok v =>
      have := ih (sn + 1) (got ++ [v]) t fun k hk => hd.1.1 _ _ (by rw [show sn + 1 + k = sn + (k + 1) by omega]; exact h (k + 1) (by omega))
      exact ⟨hd.1.trans this.1, this.2⟩
    | wait => exact absurd rfl hd.2
    | fault c a => exact ⟨hd.1, by simp⟩

/-- An event asks for no reset. -/
theorem event_auto (s : State) (a b c : Nat) : (s.event a b c).ledger.autoReset = s.ledger.autoReset := by
  unfold State.event; split
  · split <;> rfl
  · rfl

/-- A saturation event asks for no reset. -/
theorem raiseSat_auto (s : State) (agent seq : Nat) (dst : LogAddr) (a b : Nat) : (s.raiseSat agent seq dst a b).ledger.autoReset = s.ledger.autoReset := by
  unfold State.raiseSat
  extract_lets s1 first s2 s3
  have h3 : s3.ledger.autoReset = s.ledger.autoReset := by
    show s2.ledger.autoReset = _
    show (if first = true then s1.event 0x01 seq agent else s1).ledger.autoReset = _
    split
    · rw [event_auto]; rfl
    · rfl
  rw [← h3]
  split
  · obtain ⟨x, y, h, _⟩ := log_led (if agent < 64 then s3.adjTile agent fun x => { x with satLog := some s3.now } else s3.limitMark (0x210100 + agent)) 0x2101 sevInfo agent dst (cap32 b + cap32 a * 2 ^ 32)
    rw [h]
    show (if agent < 64 then s3.adjTile agent fun x => { x with satLog := some s3.now } else s3.limitMark (0x210100 + agent)).ledger.autoReset = _
    split <;> rfl
  · rfl

/-- A saturation event leaves the arrays and the blocks. -/
theorem raiseSat_w (s : State) (agent seq : Nat) (dst : LogAddr) (a b tile : Nat) :
    ((s.raiseSat agent seq dst a b).tile tile).matrix = (s.tile tile).matrix ∧
    (∀ u, (s.raiseSat agent seq dst a b).ownerBlock tile u = s.ownerBlock tile u) := by
  have k := raiseSat_core s agent seq dst a b tile
  exact ⟨k.1, fun u => by unfold State.ownerBlock State.blockByUid; rw [k.2]⟩

/-- After a command that marks no tile faulted nothing of the tiles changes. -/
theorem afterFault_tile (s : State) (h : s.ledger.autoReset = false) (n : Nat) : s.afterFault.tile n = s.tile n := by
  unfold State.afterFault
  have h1 : ∀ (l : List Entry) (t : State), (l.foldl (fun (t : State) e =>
      if e.status == .waiting && !t.coopFits e (t.launchOf (e.word 7)) then t.finish e.seq stCoopCapacity 0 0 else t) t).tiles = t.tiles ∧
      (l.foldl (fun (t : State) e =>
      if e.status == .waiting && !t.coopFits e (t.launchOf (e.word 7)) then t.finish e.seq stCoopCapacity 0 0 else t) t).ledger.autoReset = t.ledger.autoReset := by
    intro l
    induction l with
    | nil => intro t; exact ⟨rfl, rfl⟩
    | cons e l ih =>
      intro t
      rw [List.foldl_cons]
      refine ⟨(ih _).1.trans ?_, (ih _).2.trans ?_⟩
      · split <;> rfl
      · split <;> rfl
  have h2 := h1 (s.ledger.coopWait.filterMap s.entry) s
  have h3 : s.refuseCoops.tiles = s.tiles ∧ s.refuseCoops.ledger.autoReset = false := ⟨h2.1, h2.2.trans h⟩
  generalize s.refuseCoops = u at h3
  unfold State.idleActions
  have hp : (if u.ledger.sched = .pausing && u.computeIdle && !u.boundaryDue then u.pauseNow else u).tiles = u.tiles ∧
      (if u.ledger.sched = .pausing && u.computeIdle && !u.boundaryDue then u.pauseNow else u).ledger.autoReset = false := by
    split
    · refine ⟨(State_pauseNow_same (fl := [.counters, .ledger]) rfl u (SameBut.refl _ _)) .tiles (by decide), ?_⟩
      unfold State.pauseNow; rw [event_auto]; exact h3.2
    · exact ⟨rfl, h3.2⟩
  dsimp only
  generalize (if u.ledger.sched = .pausing && u.computeIdle && !u.boundaryDue then u.pauseNow else u) = z at hp
  rw [hp.2]
  simp only [Bool.false_and, Bool.false_eq_true, if_false]
  unfold State.tile
  rw [hp.1, h3.1]

end Sys2Proof.Laws
end

