-- ==== Sys2Proof/Tests/Slice0.lean ====
section
/-! SUPPORT. Tests of the model: ill-formed commands that `Instr.wf` refuses, values from the spec and from published check values, and
for every clause of a statement with hypotheses a concrete state and operands that meet them (`witness_<statement>`). -/

namespace Sys2Proof.Tests

open Sys2Proof Sys2Proof.Machine

set_option Elab.async false
set_option linter.all false

/-! ### Ill-formed commands -/

theorem test_wf_session : Instr.wf (.commit 65536) = false ∧ Instr.wf (.commit 65535) = true := by decide
theorem test_wf_index : Instr.wf (.dictRead 1 65536 0 0) = false ∧ Instr.wf (.dictRead 1 0 256 0) = false := by decide
theorem test_wf_piece : Instr.wf (.dictWrite 1 0 1 65536 false []) = false ∧
    Instr.wf (.dictWrite 1 0 1 0 false (List.replicate 512 0)) = false := by decide +kernel
theorem test_wf_password : Instr.wf (.lockPassword 1 [1, 2, 3, 4, 5, 6, 7]) = false := by decide
theorem test_wf_response : Instr.wf (.lockResponse 1 [0]) = false := by decide
theorem test_wf_port : Instr.wf (.tier2Enable 1 2) = false ∧ Instr.wf (.peerPortEnable 1 18) = false := by decide
theorem test_wf_func : Instr.wf (.shutdownComplete (.domain 20)) = false ∧ Instr.wf (.shutdownComplete (.tier2 2)) = false ∧
    Instr.wf (.shutdownComplete (.peer 18)) = false := by decide
theorem test_wf_group : Instr.wf (.exit ⟨64, 0, 0⟩) = false ∧ Instr.wf (.exit ⟨0, 8, 0⟩) = false ∧ Instr.wf (.exit ⟨0, 0, 64⟩) = false := by decide
theorem test_wf_block : Instr.wf (.blockExitComplete ⟨64, 0⟩) = false ∧ Instr.wf (.blockExitComplete ⟨0, 8⟩) = false := by decide
theorem test_wf_tile : Instr.wf (.matrixDispatch 64) = false ∧ Instr.wf (.flushLoad 0 4) = false ∧ Instr.wf (.matrixComplete 0 2) = false := by decide
theorem test_wf_hit : Instr.wf (.activationRowIssue 0 0 (.recurs 256) .none) = false := by decide
theorem test_wf_branch : Instr.wf (.branch ⟨0, 0, 0⟩ (.cond 256 0) 0 .none) = false ∧ Instr.wf (.branch ⟨0, 0, 0⟩ (.indirect 256) 0 .none) = false := by decide
theorem test_wf_register : Instr.wf (.shfl ⟨0, 0, 0⟩ 256 0 0 .none) = false ∧ Instr.wf (.fp32Arith ⟨0, 0, 0⟩ .add 0 0 0 256 .none) = false := by decide
theorem test_wf_width : Instr.wf (.ld ⟨0, 0, 0⟩ 3 0 0 .none .none) = false ∧ Instr.wf (.ldcStc ⟨0, 0, 0⟩ .load 4 16 0 0 .none .none) = false := by decide
theorem test_wf_half : Instr.wf (.tableWalkReturn 2 0 false false .none) = false ∧ Instr.wf (.bankRetireMovesComplete 0 256) = false ∧
  Instr.wf (.feltFillReturn 0 .none 18) = false := by decide
theorem test_wf_host : Instr.wf (.hostMemRead 32) = false ∧ Instr.wf (.hostMemWrite 64 [0]) = false := by decide
theorem test_wf_slot : Instr.wf (.headLineLoss [(2 ^ 64, [0])] false) = false := by decide
theorem test_wf_bundle : Instr.wf (.bundleSpareComplete (.portRead 72 0)) = false ∧ Instr.wf (.bundleSpareComplete (.portWrite 0 64)) = false ∧
    Instr.wf (.bundleSpareComplete (.bank 2 0)) = false := by decide
theorem test_wf_regulator : Instr.wf (.stageFailed 24) = false ∧ Instr.wf (.cellFailed 24) = false ∧ Instr.wf (.railCellFailed ⟨2, 6⟩) = false ∧
    Instr.wf (.railCellFailed ⟨5, 0⟩) = false := by decide
theorem test_wf_pin : Instr.wf (.ppsEdge 2) = false ∧ Instr.wf (.debugTrigger 2) = false := by decide
theorem test_wf_ptile : Instr.wf (.tileWakeComplete 72) = false ∧ Instr.wf (.selftestComplete [72]) = false := by decide
theorem test_wf_sensor : Instr.wf (.sensorSample [⟨432, 0⟩] []) = false := by decide
theorem test_wf_link : Instr.wf (.linkTrainingDeadline (.port 23)) = false ∧ Instr.wf (.linkTrainingDeadline (.hbm 16)) = false ∧
  Instr.wf (.hostLinkUp 16 128 3) = false ∧ Instr.wf (.linkTrained (.port 19) 16 128 0 0 0 3) = false := by decide
theorem test_wf_core : Instr.wf (.broadcastPacket 1402 []) = false := by decide
theorem test_wf_flit : Instr.wf (.dataFlit 0 [0] true) = false ∧ Instr.wf (.laneFailed 0 4) = false := by decide
theorem test_wf_udp : Instr.wf (.muslinOpen ⟨2 ^ 128, 0⟩) = false ∧ Instr.wf (.muslinOpen ⟨0, 65536⟩) = false := by decide
theorem test_wf_request : Instr.wf (.request ⟨0, 0⟩ 65536 0 0 []) = false ∧ Instr.wf (.request ⟨0, 0⟩ 0 65536 0 []) = false := by decide
theorem test_wf_update : Instr.wf (.updateBegin 1 4) = false ∧ Instr.wf (.updateData 1 [0]) = false := by decide
theorem test_wf_spdm : Instr.wf (.challenge .host 8 (List.replicate 32 0)) = false ∧ Instr.wf (.getMeasurements .host 1 []) = false := by decide
theorem test_wf_record : Instr.wf (.resumeApply 1 [0]) = false ∧ Instr.wf (.rngProbe 1 [0]) = false := by decide

/-! ### A module in service, for the witnesses -/

/-- A Ready module with its host link up, the host session open and holding the lease, and every logical tile bound. -/
def up : State :=
  { State.reset with
    boot := { Boot.reset with
      powered := true, phase := .ready
      binding := ((List.range 32).map fun n => (n, n)) ++ (List.range 32).map fun n => (32 + n, 36 + n) }
    dict := { DictState.reset with hostOpen := true, lease := some 1 }
    iface := { Iface.reset with hostLink := 2 } }

/-- The row of an object that exists. -/
def rowOf (key : Nat) : ObjRow := (objRow key).getD ⟨0, 0, .u8, .ro, 0, 0, .any, 0⟩

/-- A launch with the default settings; a group, a block and an entry of it. -/
def launch0 : Launch := { coop := false, splitKib := 1024, stoch := false, infOvf := false, asym := false, grain := 0, narrow := 0 }

def group0 : Group := Group.start 0x200000

def block0 : Block :=
  { uid := 1, seq := 0, linear := 0, cluster := 0, rank := 0, clSize := 1, tile := 0, slot := 0, nregs := 32, scratchB := 4096
    launch := launch0, groups := [group0], scratch := .empty, tokens := [], bars := [], exiting := false, ended := false, fault := none
    saving := false }

def entry0 : Entry :=
  { seq := 0, kind := .kernel, words := List.replicate 16 0, status := .running, ran := true, sats := 0, kern := none, chan := none, step := 0 }

/-- `up` with one tile. -/
def withTile (t : Tile) : State := { up with tiles := [(0, t)] }

/-- `up` with entries in the ledger. -/
def withEntries (l : List Entry) : State := { up with ledger := { Ledger.reset with entries := l } }

/-! ### Witnesses: the dictionary -/

/-- A second session, 0x10, over Muslin. -/
def up2 : State :=
  { up with dict := { up.dict with
      sessions := [(0x10, { src := ⟨1, 47300⟩, lastSeq := none, saved := none })]
      values := [(Obj.muslinEnable, [1])] } }

theorem witness_ObjectsAreAddressedByIndexAndSubindex :
    (up.serves 0 1 (0x2000 * 256 + 0) = true ∧ objRow (0x2000 * 256 + 8) ≠ none ∧ ∀ k : Fin 256, 8 < k.val → objRow (0x2000 * 256 + k.val) = none) ∧
    (up.serves 0 1 (0x2002 * 256 + 3) = true ∧ objRow (0x2002 * 256 + 3) = none) ∧
    (up.serves 0 1 (0xFFFF * 256 + 0) = true ∧ ∀ k : Fin 256, objRow (0xFFFF * 256 + k.val) = none) ∧
    (up.serves 0 1 (0x2000 * 256 + 1) = true ∧ objRow (0x2000 * 256 + 1) ≠ none) := by decide +kernel

theorem witness_TheHomeHalfIsTheParityOfTheMask : up.serves 0 1 Obj.feltHomeHalfMask = true := by decide +kernel

theorem witness_ReadReturnsTheValueInForce :
    (up.serves 0 1 (0x2000 * 256 + 1) = true ∧ objRow (0x2000 * 256 + 1) = some (rowOf 0x200001) ∧ (rowOf 0x200001).acc ≠ .ro ∧
      (rowOf 0x200001).acc ≠ .wo ∧ 0x200001 ∉ [Obj.lockPasswordNew, Obj.ledgerEnable, Obj.stepCounter, Obj.rngProbeInput, Obj.errorLogAck]) ∧
    (up.serves 0 1 (0x8000 * 256 + 9) = true ∧ objRow (0x8000 * 256 + 9) ≠ none) ∧
    (up.serves 0 1 (0x2000 * 256 + 4) = true ∧ objRow (0x2000 * 256 + 4) = some (rowOf 0x200004) ∧ (rowOf 0x200004).acc = .ro) ∧
    (up.serves 0 1 Obj.leaseRequest = true ∧ objRow Obj.leaseRequest = some (rowOf Obj.leaseRequest) ∧ (rowOf Obj.leaseRequest).acc = .wo) ∧
    (up.serves 0 1 Obj.lockPasswordNew = true ∧ objRow Obj.lockPasswordNew ≠ none) := by decide +kernel

theorem witness_ReadStagedReturnsTheStagedValue :
    (up.serves 2 1 0x200001 = true ∧ objRow 0x200001 = some (rowOf 0x200001) ∧ (rowOf 0x200001).acc = .stg ∧ up.dict.lease = some 1) ∧
    (up.serves 2 1 0x200004 = true ∧ objRow 0x200004 = some (rowOf 0x200004) ∧ (rowOf 0x200004).acc ≠ .stg ∧ (rowOf 0x200004).acc ≠ .lck) ∧
    (up2.serves 2 0x10 0x200001 = true ∧ objRow 0x200001 ≠ none ∧ up2.dict.lease ≠ some 0x10) := by decide +kernel

/-- `up` with the field lock open for the host session. -/
def upOpen : State := { up with dict := { up.dict with lock := .opened 1 900 } }

theorem witness_WriteStages :
    (up.mayWrite 1 0x200002 = true ∧ objRow 0x200002 = some (rowOf 0x200002) ∧ (rowOf 0x200002).acc = .stg ∧ valueOk (rowOf 0x200002) [64] = true ∧
      up.rangeOk (rowOf 0x200002) 0x200002 [64] = true ∧ up.dict.queued = none ∧ up.dict.staged.length < 512) ∧
    (upOpen.mayWrite 1 0x11000B = true ∧ objRow 0x11000B = some (rowOf 0x11000B) ∧ (rowOf 0x11000B).acc = .lck ∧ upOpen.lockOpenFor 1 = true ∧
      valueOk (rowOf 0x11000B) [60, 0, 0, 0] = true ∧ upOpen.rangeOk (rowOf 0x11000B) 0x11000B [60, 0, 0, 0] = true) := by decide +kernel

/-- `up` with a commit queued, and with 512 objects staged. -/
def upQueued : State := { up with dict := { up.dict with queued := some { sid := 1, copy := [] } } }
def upFull : State := { up with dict := { up.dict with staged := (List.range 512).map fun k => (k, []) } }

theorem witness_WriteTurnedAway :
    (up.serves 1 1 0x200004 = true ∧ objRow 0x200004 = some (rowOf 0x200004) ∧ (rowOf 0x200004).acc = .ro) ∧
    (up2.serves 1 0x10 0x200002 = true ∧ objRow 0x200002 = some (rowOf 0x200002) ∧ (rowOf 0x200002).acc ≠ .ro ∧ leaseFree 0x200002 = false ∧
      up2.dict.lease ≠ some 0x10) ∧
    (up.serves 1 1 0x200002 = true ∧ up.lockAnswer 1 0x200002 = none ∧ up.closedTo 1 (rowOf 0x200002) 0x200002 = none ∧
      valueOk (rowOf 0x200002) [4, 0] = false) ∧
    (valueOk (rowOf 0x200002) [3] = true ∧ up.rangeOk (rowOf 0x200002) 0x200002 [3] = false ∧ up.rangeOk (rowOf 0x200002) 0x200002 [4] = true) ∧
    (up.serves 1 1 0x11000B = true ∧ (rowOf 0x11000B).acc = .lck ∧ up.rangeOk (rowOf 0x11000B) 0x11000B [60, 0, 0, 0] = true ∧ up.lockOpenFor 1 = false) ∧
    (upQueued.serves 1 1 0x200002 = true ∧ upQueued.dict.lease = some 1 ∧ upQueued.dict.queued ≠ none ∧ upQueued.rangeOk (rowOf 0x200002) 0x200002 [4] = true) ∧
    (upFull.serves 1 1 0x200002 = true ∧ upFull.dict.lease = some 1 ∧ NMap.has upFull.dict.staged 0x200002 = false ∧ 512 ≤ upFull.dict.staged.length ∧
      upFull.rangeOk (rowOf 0x200002) 0x200002 [4] = true) ∧
    (up.lockAnswer 1 0x11000B = none ∧ up.valueFault (rowOf 0x11000B) 0x11000B [60] = some dType ∧
      up.closedTo 1 (rowOf 0x11000B) 0x11000B = some dLocked) := by decide +kernel

/-- `up` without a lease holder; with the lease held by another session, and the lock open for the host's. -/
def upFree : State := { up with dict := { up.dict with lease := none } }
def upBreak : State := { up2 with dict := { up2.dict with lease := some 0x10, lock := .opened 1 900 } }

theorem witness_LeaseFollowsItsTable :
    (upFree.serves 1 1 Obj.leaseRequest = true ∧ upFree.dict.lease = none) ∧
    (up2.serves 1 0x10 Obj.leaseRequest = true ∧ up2.dict.lease = some 1 ∧ (1 : Nat) ≠ 0x10) ∧
    (up.serves 1 1 Obj.leaseRequest = true ∧ up.dict.lease = some 1) ∧
    (upBreak.serves 1 1 Obj.leaseBreak = true ∧ upBreak.dict.lease = some 0x10 ∧ upBreak.lockOpenFor 1 = true) ∧
    (up2.serves 1 0x10 Obj.leaseBreak = true ∧ up2.dict.lease ≠ some 0x10 ∧ up2.lockOpenFor 0x10 = false) ∧
    NMap.has up2.dict.sessions 0x10 = true := by decide +kernel

/-- A password of eight letters. -/
def pw8 : Bytes := [0x61, 0x62, 0x63, 0x64, 0x65, 0x66, 0x67, 0x68]
def upBlocked : State := { up with dict := { up.dict with lock := .blocked 0, failCount := 5 } }
def upNoPassword : State := { up with dict := { up.dict with values := [(Obj.lockPasswordEnable, [0])] } }

theorem witness_LockFollowsItsTable :
    (up.serves 1 1 Obj.lockPassword = true ∧ up.dict.lock = .closed ∧ 8 ≤ pw8.length ∧ pw8.length ≤ 64 ∧ utf8From 0 0 0 pw8 = true ∧
      up.isOn Obj.lockPasswordEnable = true) ∧
    (up.serves 1 1 Obj.lockResponse = true ∧ (List.replicate 132 (0 : Byte)).length = 132) ∧
    (upBlocked.serves 1 1 Obj.lockPassword = true ∧ upBlocked.serves 1 1 Obj.lockResponse = true ∧ upBlocked.dict.lock = .blocked 0) ∧
    (upOpen.serves 1 1 Obj.lockPassword = true ∧ upOpen.serves 1 1 Obj.lockResponse = true ∧ upOpen.dict.lock = .opened 1 900) ∧
    (upNoPassword.serves 1 1 Obj.lockPassword = true ∧ upNoPassword.dict.lock = .closed ∧ upNoPassword.isOn Obj.lockPasswordEnable = false) ∧
    (up.serves 0 1 Obj.lockNonce = true) ∧ (upOpen.serves 1 1 Obj.lockClose = true) ∧
    (upBreak.serves 1 0x10 Obj.lockClose = true ∧ upBreak.dict.lock = .opened 1 900) := by decide +kernel

/-- `up` with a set staged that the validator accepts, the same with an entry accepted, and with one that it refuses (V64: a run that pins
its firmware is deterministic). -/
def upStaged : State := { up with dict := { up.dict with staged := [(0x200002, [8])] } }
def upBusy : State := { upStaged with ledger := { Ledger.reset with entries := [entry0] } }
def upRefused : State := { up with dict := { up.dict with staged := [(0x11000B, [60, 0, 0, 0])] } }

/-- What a commit of the staged set would answer, and whether it makes claims. -/
def answerOfSet (s : State) : Nat × Nat × Bool :=
  match ({ st := s, staged := s.dict.staged, sid := 1, self := false } : Cfg).outcome with
  | (a, b, c) => (a, b, c.isSome)

theorem witness_CommitAppliesQueuesOrRefuses :
    (upStaged.mayWrite 1 Obj.commit = true ∧ upStaged.dict.queued = none ∧ answerOfSet upStaged = (dOk, 0, true) ∧ upStaged.computeIdle = true ∧
      (upStaged.dict.staged.map (·.1)).Nodup) ∧
    (upBusy.mayWrite 1 Obj.commit = true ∧ upBusy.dict.queued = none ∧ answerOfSet upBusy = (dOk, 0, true) ∧ upBusy.computeIdle = false) ∧
    (upRefused.mayWrite 1 Obj.commit = true ∧ upRefused.dict.queued = none ∧ answerOfSet upRefused = (dInvalid, 3, false)) ∧
    (upQueued.mayWrite 1 Obj.commit = true ∧ upQueued.dict.queued = some { sid := 1, copy := [] }) := by decide +kernel

theorem witness_StagedSetAndBlob :
    up.mayWrite 1 Obj.stageDiscard = true ∧ up.mayWrite 1 Obj.settingsSave = true ∧ upQueued.num Obj.commitWait ≠ 0 ∧
      upQueued.dict.queued ≠ none := by decide +kernel

/-- `up` with a step boundary due. -/
def upDue : State := { up with ledger := { Ledger.reset with ends := [0] } }

theorem witness_StepBoundaryCounts : upDue.boundaryReady = true ∧ upDue.dict.queued = none := by decide +kernel

theorem witness_CounterClearsClearTheirCounters :
    ([Obj.matrixCounterClear, Obj.formatCounterClear, Obj.execCounterClear, Obj.feltCounterClear, Obj.tierCounterClear, Obj.bwCounterClear,
      Obj.schedCounterClear, Obj.integrityCounterClear, Obj.powerCounterClear, Obj.thermalCounterClear, Obj.interfaceCounterClear,
      Obj.boardCounterClear].all fun k => up.mayWrite 1 k) = true := by decide +kernel

/-- `up` with one function in a state. -/
def withFunc (f : Func) (x : FState) : State := { up with funcs := [(funcNo f, x)] }

theorem witness_FunctionsFollowTheirTable_requests :
    ([Obj.tieringEnable, Obj.scrubEnable, Obj.tier2Enable0, Obj.tier2Enable0 + 1, Obj.peerPortEnable, Obj.peerPortEnable + 17].all fun key =>
      [false, true].all fun b => up.mayWrite 1 key &&
        ({ st := up, staged := [(key, natLE 1 (bit01 b))], sid := 1, self := true } : Cfg).claims.isSome) = true := by decide +kernel

/-- `up` with domain 19 turning off, two of its gates closed. -/
def upGate : State := { withFunc (.domain 19) .disabling with power := { Power.reset with gates := [(19, { steps := 2, since := 0 })] } }

theorem witness_FunctionsFollowTheirTable_sequences :
    ((withFunc .scrub .enabling).func .scrub = .enabling ∧ (withFunc .scrub .enabling).sequenceDone .scrub = true) ∧
    ((withFunc .scrub .enablingDisableQueued).func .scrub = .enablingDisableQueued ∧ (withFunc .scrub .enablingDisableQueued).sequenceDone .scrub = true) ∧
    ((withFunc .scrub .disabling).func .scrub = .disabling ∧ (withFunc .scrub .disabling).shutdownReady .scrub = true) ∧
    (withFunc .scrub .disabling).gatesOpen .scrub = true ∧
    ((withFunc (.domain 0) .disablingEnableQueued).func (.domain 0) = .disablingEnableQueued ∧
      (withFunc (.domain 0) .disablingEnableQueued).shutdownReady (.domain 0) = true ∧
      (withFunc (.domain 0) .disablingEnableQueued).gatesOpen (.domain 0) = true ∧
      (withFunc (.domain 0) .disablingEnableQueued).thermal.modSt = .active) ∧
    ((withFunc (.domain 19) .enabling).func (.domain 19) = .enabling ∧ (withFunc (.domain 19) .enabling).gateWaits 19 = true ∧
      (withFunc (.domain 19) .enabling).gateBehind 19 = false ∧ (withFunc (.domain 19) .enabling).power.rise + 100 ≤ 300) ∧
    (upGate.gateWaits 19 = true ∧ upGate.gateBehind 19 = false ∧ (upGate.func (.domain 19)).turningOn = false) := by
  decide +kernel

/-- `up` with the rings placed; with the ledger running; paused; and paused after a change of the unit map. -/
def upRings : State :=
  { up with dict := { up.dict with values := [(Obj.ledgerBase, natLE 8 0x1000), (Obj.completionBase, natLE 8 0x2000),
      (Obj.completionConsumedAddr, natLE 8 0x3000)] } }
def upLedger : State := { upRings with ledger := { Ledger.reset with enable := true, st := .running } }
def upPaused : State := { up with ledger := { Ledger.reset with sched := .paused } }
def upError : State := { upRings with ledger := { Ledger.reset with st := .error } }
def upMapChanged : State := { upPaused with det := { Det.reset with mapChanged := true } }

theorem witness_LedgerAndSchedulerTriggers :
    (upRings.mayWrite 1 Obj.ledgerEnable = true ∧ upRings.fw.upd = .idle ∧ upRings.num Obj.ledgerBase ≠ 0 ∧ upRings.num Obj.completionBase ≠ 0 ∧
      upRings.num Obj.completionConsumedAddr ≠ 0 ∧ upRings.ledger.st = .off ∧ upRings.ledger.enable = false ∧ upRings.iface.hostLink = 2) ∧
    (upLedger.mayWrite 1 Obj.ledgerEnable = true ∧ upLedger.ledger.enable = true ∧ upLedger.ledger.st ≠ .error) ∧
    (upError.mayWrite 1 Obj.ledgerEnable = true ∧ upError.ledger.st = .error) ∧
    (up.mayWrite 1 Obj.schedPause = true ∧ up.ledger.sched = .running) ∧
    (upPaused.mayWrite 1 Obj.schedResume = true ∧ upPaused.ledger.sched = .paused ∧ upPaused.det.mapChanged = false) ∧
    (upMapChanged.mayWrite 1 Obj.schedResume = true ∧ upMapChanged.ledger.sched = .paused ∧ upMapChanged.det.mapChanged = true ∧
      upMapChanged.isOn Obj.resumeTolerant = false) := by decide +kernel

theorem witness_TriggersAnswerAtOnce :
    (up.mayWrite 1 Obj.feltFlush = true ∧ up.flushable = true ∧ upBusy.mayWrite 1 Obj.feltFlush = true ∧ upBusy.flushable = false) ∧
    (up.mayWrite 1 Obj.stepCounter = true ∧ up.computeIdle = true ∧ upBusy.mayWrite 1 Obj.stepCounter = true ∧ upBusy.computeIdle = false) ∧
    (up.mayWrite 1 Obj.rngProbeInput = true ∧ (List.replicate 24 (0 : Byte)).length = 24 ∧ leNat ((List.replicate 24 (0 : Byte)).drop 20) = 0) ∧
    up.mayWrite 1 Obj.errorLogAck = true ∧
    (up.mayWrite 1 Obj.resumeApply = true ∧ (List.replicate 64 (0 : Byte)).length = 64 ∧ up.computeIdle = true) ∧
    (upBusy.mayWrite 1 Obj.resumeApply = true ∧ upBusy.computeIdle = false) ∧ up.mayWrite 1 Obj.thermalAccept = true := by decide +kernel

/-- `up` in Standby. -/
def upStandby : State := { up with thermal := { Thermal.reset with modSt := .standby } }

theorem witness_ModuleStateAndResetTriggers :
    (up.mayWrite 1 Obj.moduleStateRequest = true ∧ up.boot.phase = .ready ∧ up.boot.pwrOff = false ∧ up.thermal.modSt = .active ∧ up.computeIdle = true) ∧
    (upStandby.mayWrite 1 Obj.moduleStateRequest = true ∧ upStandby.thermal.modSt = .standby ∧ upStandby.mayWake = true) ∧
    (up.mayWrite 1 Obj.computeReset = true ∧ up.fw.upd = .idle ∧ up.boot.phase = .ready ∧ up.thermal.modSt = .active) ∧ (up.mayWrite 1 Obj.fullReset = true ∧ up.boot.powered = true) := by decide +kernel

/-! ### Witnesses: thread groups -/

def g0 : GroupRef := ⟨0, 0, 0⟩
def path0 : Path := { mask := 0xFFFFFFFF, pc := 0x200000, rpc := none, parked := none, id := 0, parent := none }

/-- A tile of kernel 0 with blocks and a matrix array; `up` with it, the kernel in the ledger, and its row on. -/
def tileOf (bs : List Block) (m : Matrix) : Tile := { Tile.empty with alloc := some 0, splitKib := 1024, blocks := bs, matrix := m }
def kernel0 : Kernel :=
  { launch := launch0, clSize := 1, grid := 1, threads := 32, nregs := 32, scratchB := 4096, tiles := [0], places := [], next := 1, plan := []
    firstFault := none, halted := false, tileMax := 64, timedOut := false, limitDue := false, gbar := none, cbars := [] }
def entryK (k : Kernel) : Entry := { entry0 with kern := some k }
def runs (bs : List Block) (m : Matrix) (k : Kernel) : State :=
  { up with tiles := [(0, tileOf bs m)], ledger := { Ledger.reset with entries := [entryK k] }, funcs := [(funcNo (.domain 0), .on)] }
def run0 (b : Block) : State := runs [b] Tile.empty.matrix kernel0

/-- What `State.Issues` asks of the group `g0`, as one check. -/
def issuesOk (s : State) (b : Block) (gr : Group) (p : Path) : Bool :=
  s.block 0 0 == some b && !b.exiting && !b.saving && !(s.tile 0).retune && b.groups[0]? == some gr && gr.loads == 0 &&
    gr.running == some p && (s.peekMark (p.pc / 32)).isNone

theorem issues_of (s : State) (b : Block) (gr : Group) (p : Path) (h : issuesOk s b gr p = true) : s.Issues g0 b gr p := by
  simp only [issuesOk, Bool.and_eq_true, Bool.not_eq_true', beq_iff_eq, Option.isNone_iff_eq_none] at h
  obtain ⟨⟨⟨⟨⟨⟨⟨h1, h2⟩, h3⟩, h4⟩, h5⟩, h6⟩, h7⟩, h8⟩ := h
  exact ⟨h1, h2, h3, h4, h5, h6, h7, h8⟩

theorem issues_run0 : (run0 block0).Issues g0 block0 group0 path0 := issues_of _ _ _ _ (by decide +kernel)

theorem witness_Fp32ArithWritesActiveLanes :
    (run0 block0).Issues g0 block0 group0 path0 ∧ (∀ r ∈ 3 :: fpSources .fma 0 1 2, r < block0.nregs) ∧ block0.nregs ≤ 256 ∧
      (∀ r, ParityHit.once ≠ .recurs r) := ⟨issues_run0, by decide, by decide, by intro r; simp⟩

theorem witness_GroupWideOperations :
    (run0 block0).Issues g0 block0 group0 path0 ∧ path0.mask = 0xFFFFFFFF ∧ 3 < block0.nregs ∧ block0.nregs ≤ 256 :=
  ⟨issues_run0, by decide, by decide, by decide⟩

theorem witness_RngWritesTheDraw :
    (run0 block0).Issues g0 block0 group0 path0 ∧ (run0 block0).entry block0.seq = some (entryK kernel0) ∧
      ∃ w : W64, fld w 63 56 = 0xDC ∧ fld w 14 0 = 0 ∧ 0x100 ≤ fld w 39 24 ∧ w.getLsbD 23 = false ∧ fld w 22 15 = 0 ∧ fld w 55 48 = 2 ∧
        fld w 47 40 = 4 := ⟨issues_run0, by decide +kernel, 0xDC02040100000000, by decide⟩

/-- A block with a token in a state. -/
def blockTok (t : Token) : Block := { block0 with tokens := [(5, t)] }
/-- MWAIT and MPOLL of token 5 as an immediate, into v3. -/
def waitWord (poll : Bool) : W64 := (if poll then 0xE203000000000000 else 0xE103000000000000) ||| 0x8280000000

theorem witness_TokenWaitsFollowTheToken :
    ([block0, blockTok .pending, blockTok (.done 2)].all fun b => issuesOk (run0 b) b group0 path0 &&
      [false, true].all fun poll => fld (waitWord poll) 63 56 == (if poll then 0xE2 else 0xE1) && waitOk b (waitWord poll) &&
        !asyncPoisoned group0 (waitWord poll) && waitToken group0 (waitWord poll) == 5 && decide (5 < (run0 b).num Obj.matrixTokenCount)) = true ∧
    block0.token 5 = none ∧ (blockTok .pending).token 5 = some .pending ∧ (blockTok (.done 2)).token 5 = some (.done 2) := by decide +kernel

/-- A scratchpad with words at an offset. -/
def scratchOf (off : Nat) (l : List W64) : MarkedMem := MarkedMem.empty.writeRaw off (l.flatMap fun w => natLE 8 w.toNat)

/-- MULADD of FP16 by FP16 into FP32, token 5, shape 0, two rows, K = 4, N = 3, all operands in scratchpad. -/
def mwords : List W64 :=
  [0x0501100000000800, 0x1000, 0x2000, 0, 0x3000, 2 * 2 ^ 48 + 4 * 2 ^ 36 + 3 * 2 ^ 27, 0x0001000100010001, 0]
def mdesc : MDesc := mdescOf mwords
/-- An INT8 quantisation of one row of 32 FP16 elements at TENSOR grain. -/
def cwords : List W64 := [0x1840000000000800, 0x1000, 0x3000, 0x4000, 0, 2 ^ 44 + 32 * 2 ^ 24, 2 ^ 32 + 1, 0x3F80000000000000]
def cdesc : CDesc := cdescOf cwords
def blockM : Block := { block0 with scratch := scratchOf 0 mwords }
def blockC : Block := { block0 with scratch := scratchOf 0 cwords }

theorem witness_AsyncInstructionsAreQueued :
    (issuesOk (run0 blockM) blockM group0 path0 && asyncOk blockM 0xE000008000000000 false && !asyncPoisoned group0 0xE000008000000000 &&
      bytesWords (blockM.scratch.readN (asyncOffset group0 0xE000008000000000) 64) == mwords &&
      decide (((run0 blockM).tile 0).matrix.queue.length < (run0 blockM).num Obj.matrixQueueDepth) &&
      offsetOk (1024 * 1024) (asyncOffset group0 0xE000008000000000) 64 && mdescOk (1024 * 1024) mwords mdesc && mFormatsOk mdesc &&
      blockM.token mdesc.token == none && decide (mdesc.token < (run0 blockM).num Obj.matrixTokenCount)) = true ∧
    fld (0xE000008000000000 : W64) 63 56 = 0xE0 ∧ group0.stores = 0 ∧
    (issuesOk (run0 blockC) blockC group0 path0 && asyncOk blockC 0xE300008280000000 true && !asyncPoisoned group0 0xE300008280000000 &&
      bytesWords (blockC.scratch.readN (asyncOffset group0 0xE300008280000000) 64) == cwords &&
      decide (((run0 blockC).tile 0).matrix.cqueue.length < 8) &&
      offsetOk (1024 * 1024) (asyncOffset group0 0xE300008280000000) 64 && cdescOk (1024 * 1024) cwords cdesc &&
      cFormatsOk cdesc.srcFmt cdesc.dstFmt cdesc.grain (cdesc.asymIn launch0) cdesc.hist && blockC.token 5 == none &&
      decide (fld (0xE300008280000000 : W64) 38 31 < (run0 blockC).num Obj.matrixTokenCount)) = true ∧
    fld (0xE300008280000000 : W64) 63 56 = 0xE3 ∧ fld (0xE300008280000000 : W64) 38 31 = 5 := by decide +kernel

/-- A matrix instruction in a phase, and arrays that hold it. -/
def minstr (l : LoadKind) (useY : Bool) (ph : MPhase) : MInstr :=
  { desc := mdesc, owner := 1, slot := 0, off := 0, pc := 0x200000, launch := launch0, step := 0, load := l, useY := useY, phase := ph, bank := none
    sat := false, pois := false, satEvt := false, hdr := none, seff := [] }
def arrayOf (shape : Option Nat) (q : List MInstr) (subs : List SubArray) (change : Option MInstr) : Matrix :=
  { shape := shape, queue := q, subs := subs, banks := [Bank.free, Bank.free], kept := [], change := change, cqueue := [], crun := none }
/-- The block of the matrix instructions: its scratchpad takes in every operand. -/
def blockA : Block := { blockM with scratchB := 0x10000 }
def arrays (m : Matrix) : State := runs [blockA] m kernel0
def subOf (i : MInstr) : SubArray := { SubArray.empty with queue := [i] }

theorem witness_MatrixDispatchFollowsTheShape :
    [arrays (arrayOf none [minstr .front true .waitLoad] [] none),
     arrays (arrayOf (some 1) [minstr .front true .waitLoad] [SubArray.empty, SubArray.empty] none),
     arrays (arrayOf (some 0) [minstr .front true .waitLoad] [SubArray.empty] none)].all (fun s =>
       !(s.tile 0).matrix.changing && (s.tile 0).matrix.queue == [minstr .front true .waitLoad]) = true ∧
    (arrays (arrayOf (some 0) [minstr .front true .waitLoad] [SubArray.empty] none)).sub 0 mdesc.sub = some SubArray.empty := by decide +kernel

/-- Does a load from state `s` read its scales and its rows without stopping, from a row on? -/
def loads (s : State) (i : MInstr) (part : List (List Elt)) (got : List SectorVal) : Bool :=
  match s.weightScales 0 i with
  | (s1, .ok _) => match State.weightRows 0 i (i.desc.k - part.length) part.length part got s1 with
    | (s2, _, _, .ok ()) => (s2.dropViolation i.desc.wDrops).isNone && (s2.sub 0 i.desc.sub).isSome
    | _ => false
  | _ => false
/-- Four weight rows of three elements that read as zero. -/
def rows0 : List (List Elt) := List.replicate 4 (List.replicate 3 ⟨0, none⟩)
/-- Are an instruction's scales good and its rows `rows0` at hand? -/
def rowsHere (s : State) (i : MInstr) : Bool :=
  s.scalesGood 0 i && !i.desc.dropW && (List.range i.desc.k).mapM (s.weightRow 0 i) == some rows0

theorem witness_WeightLoadsAndShapeChanges_loads :
    (let i := minstr .front true .waitLoad; let s := arrays (arrayOf (some 0) [] [subOf i] none)
      s.sub 0 0 == some (subOf i) && (subOf i).toLoad == some i && i.desc.sub == 0 && (subOf i).registerFree i && loads (s.bump Obj.gauzeWaitCycles 7) i [] [] &&
        rowsHere s i) = true ∧
    (let i := minstr .front true (.loading 2); let a := { subOf i with part := rows0.take 2 }; let s := arrays (arrayOf (some 0) [] [a] none)
      s.sub 0 0 == some a && a.toLoad == some i && loads (s.bump Obj.gauzeWaitCycles 7) i a.part a.sectors && rowsHere s i && decide (2 ≤ i.desc.k) && a.sectors == []) = true ∧
    (let i := minstr (.flush 0) true (.loading 2); let a := { subOf i with part := rows0.take 2 }; let s := arrays (arrayOf (some 0) [] [a] none)
      a.toLoad == some i && loads s i a.part a.sectors) = true ∧
    (let i := minstr (.flush 0) true .waitLoad; let s := arrays (arrayOf (some 0) [] [subOf i] none)
      s.sub 0 0 == some (subOf i) && (subOf i).toLoad == some i && (subOf i).drainedBefore i &&
        loads ((s.countFlush 0 0).adjMatrix 0 fun m => m.adjSub 0 fun a => { a with x := none, y := none }) i [] [] && rowsHere s i) = true := by
  decide +kernel

/-- A MULADD with WKEEP. -/
def minstrKeep : MInstr := { minstr .keep false .waitLoad with desc := { mdesc with wkeep := true } }

theorem witness_WeightLoadsAndShapeChanges_shapes :
    ([minstrKeep, minstr .front true .waitLoad].all fun i => let s := arrays (arrayOf (some 1) [] [SubArray.empty, SubArray.empty] (some i))
      (s.tile 0).matrix.change == some i && decide (i.desc.sub < shapeSubs i.desc.shape) && ((s.tile 0).matrix.subs.all fun a => a.queue.all MInstr.inBank) && rowsHere s i) = true := by
  decide +kernel

/-- Weights of three columns of four elements. -/
def wts0 : Weights :=
  { cols := List.replicate 3 (List.replicate 4 ⟨0, none⟩), blockSc := [], chanSc := [], tscale := 0x3F800000, marks := [none, none, none]
    info := loadOf (minstr .front true .waitLoad) }

theorem witness_ActivationRowFillsTheBank :
    (let i := { minstr .front true (.rows 1) with hdr := some (0x3F800000, 0x3F800000, none), bank := some 0 }
     let a : SubArray := { SubArray.empty with y := some wts0, queue := [i] }
     let s := arrays { arrayOf (some 0) [] [a] none with banks := [{ Bank.free with instr := some i, rows := [[]] }, Bank.free] }
     s.sub 0 0 == some a && a.toIssue == some i && (s.tile 0).matrix.bankFor i == some 0 && a.weightsFor i == some wts0 && !i.desc.acc && !isTopk i.desc.op &&
       i.phase == .rows 1 && i.hdr == some (0x3F800000, 0x3F800000, none) && !i.desc.dropA && !s.ledger.autoReset &&
       (match s.rowScales 0 i 1 with | .ok (_, l) => (firstMark (none :: l.map (·.1))).isNone | _ => false) &&
       (s.rowHere 0 1 i.desc.a.dev (i.desc.a.addr + 1 * i.desc.aStride * 32) i.desc.aFmt i.desc.k).isSome &&
       ((s.tile 0).matrix.banks[0]?).isSome) = true ∧ (∀ r, ParityHit.once ≠ .recurs r) := ⟨by decide +kernel, by intro r; simp⟩

theorem witness_BanksDrainAndComplete :
    (let i := { minstr .front true .inBank with bank := some 0 }
     let b : Bank := { Bank.free with instr := some i, full := true, rows := List.replicate 2 (List.replicate 3 ⟨0x3F800000, none⟩) }
     let s := arrays { arrayOf (some 0) [] [subOf i] none with banks := [b, Bank.free] }
     (s.tile 0).matrix.banks[0]? == some b && b.instr == some i && ((s.tile 0).matrix.order i).head? == some i && i.same i && (s.destFault i.desc).isNone &&
       s.destOpen i.desc && !isTopk i.desc.op &&
       (match State.drainRows (BitVec.ofNat 64 (s.num Obj.rngSeed)) 0 i 0 b.rows
          (CStat.init (i.desc.rnd && i.launch.stoch && i.desc.dFmt != 0xB)) s with
        | (s1, true, _) => ((s1.tile 0).matrix.banks[0]?).isSome && !s1.ledger.autoReset
        | _ => false) &&
       b.rows.length == i.desc.rows && (b.rows.all fun r => decide (r.length ≤ i.desc.n)) && !s.ledger.autoReset &&
       s.rowsWritable 0 i.desc.d i.desc.dStride (rowBytes i.desc.dFmt i.desc.n) i.desc.rows) = true ∧
    (let i := { minstr .front true .inBank with bank := some 0 }
     let b : Bank := { Bank.free with instr := some i, full := true, drained := true }
     let s := arrays { arrayOf (some 0) [] [subOf i] none with banks := [b, Bank.free] }
     (s.tile 0).matrix.banks[0]? == some b && b.instr == some i && !s.dropsWait 0 1 && (s.ownerBlock 0 1).isSome) = true := by decide +kernel

/-- A conversion as it waits, and as it has run. -/
def cinstr : CInstr :=
  { desc := cdesc, token := 5, owner := 1, slot := 0, off := 0, pc := 0x200000, launch := launch0, step := 0, out := [], scales := [], stat := none, amax := 0
    usedS := 0, sats := 0, elems := 0, pois := false, satEvt := false }
def converts (q : List CInstr) (r : Option CInstr) : State := runs [{ blockC with scratchB := 0x10000 }] { arrayOf none [] [] none with cqueue := q, crun := r } kernel0

theorem witness_ConversionsRunAndComplete :
    (let s := converts [cinstr] none
     let s0 := (s.operandError 0 1 cdesc.src.dev (cdesc.src.addr / 32) (.corrected 3 false)).adjMatrix 0 fun m => { m with cqueue := [], crun := some cinstr }
     (s.tile 0).matrix.crun == none && (s.tile 0).matrix.cqueue == [cinstr] && (s0.cdestFault cdesc).isNone &&
       (match State.sourceRows 0 1 cdesc cdesc.rows 0 s0 with
        | (s1, .ok _) => (match s1.wholeScale 0 cinstr with | (_, .ok _) => true | _ => false)
        | _ => false) &&
       (s.cdestFault cdesc).isNone && !cdesc.hist &&
       ((List.range cdesc.rows).mapM fun r => s.rowHere 0 1 cdesc.src.dev (cdesc.src.addr + r * cdesc.srcStride * 32) cdesc.srcFmt cdesc.rowLen).isSome) = true ∧
    (let i := { cinstr with stat := some [], out := [(0x3000 / 32, List.replicate 32 1, none)] }
     let s := converts [] (some i)
     (s.tile 0).matrix.crun == some i && s.convOpen i && !i.desc.dst.dev && !i.desc.hist && (s.ownerBlock 0 1).isSome) = true := by decide +kernel

/-- A group whose lane 0 holds 1 in v1, and one that waits at a barrier. -/
def groupSplit : Group := { group0 with regs := [(1, ⟨1, none⟩)] }
def blockSplit : Block := { block0 with groups := [groupSplit] }

theorem witness_BranchesSplitPathsByPc :
    ((run0 block0).Issues g0 block0 group0 path0 ∧ branchReg (.cond 1 0x300000) < block0.nregs ∧ (∀ l ∈ lanesOf path0.mask, group0.poisonedReg l [1] = none) ∧
      path0.mask ≠ 0 ∧ ∀ e ∈ nextPcs group0 path0 (.cond 1 0x300000), e.2 = 0x200008) ∧
    ((run0 blockSplit).Issues g0 blockSplit groupSplit path0 ∧ (∀ l ∈ lanesOf path0.mask, groupSplit.poisonedReg l [1] = none) ∧
      (∃ d ∈ nextPcs groupSplit path0 (.cond 1 0x300000), ∃ e ∈ nextPcs groupSplit path0 (.cond 1 0x300000), d.2 ≠ e.2) ∧
      groupSplit.stack.length - 1 + (sortNat ((nextPcs groupSplit path0 (.cond 1 0x300000)).map (·.2))).length ≤ 32) ∧ (∀ r, ParityHit.once ≠ .recurs r) :=
  ⟨⟨issues_run0, by decide, by decide +kernel, by decide, by decide +kernel⟩, ⟨issues_of _ _ _ _ (by decide +kernel), by decide +kernel, by decide +kernel,
    by decide +kernel⟩, by intro r; simp⟩

theorem witness_ExitRemovesTheActiveThreads : (run0 block0).Issues g0 block0 group0 path0 := issues_run0

/-- A block of a cluster of two, one of a COOP kernel, and the kernel. -/
def blockCl : Block := { block0 with clSize := 2 }
def launchCoop : Launch := { launch0 with coop := true }
def blockCoop : Block := { block0 with launch := launchCoop }

theorem witness_BarrierArrivalsAreCounted :
    ((run0 block0).Issues g0 block0 group0 path0 ∧ group0.stores = 0 ∧ fld (0xD004000000000000 : W64) 63 56 = 0xD0 ∧ fld (0xD004000000000000 : W64) 45 0 = 0 ∧
      fld (0xD004000000000000 : W64) 55 50 = 1 ∧ fld (0xD004000000000000 : W64) 49 46 = 0 ∧ 1 ≤ block0.groups.length ∧ NMap.look block0.bars 0 = none) ∧
    ((run0 blockCl).Issues g0 blockCl group0 path0 ∧ fld (0xD100400000000000 : W64) 63 56 = 0xD1 ∧ fld (0xD100400000000000 : W64) 45 0 = 0 ∧
      fld (0xD100400000000000 : W64) 55 50 = 0 ∧ fld (0xD100400000000000 : W64) 49 46 = 1 ∧ 1 < blockCl.clSize) ∧
    ((run0 blockCoop).Issues g0 blockCoop group0 path0 ∧ fld (0xD200000000000000 : W64) 63 56 = 0xD2 ∧ fld (0xD200000000000000 : W64) 55 0 = 0 ∧
      blockCoop.launch.coop = true) :=
  ⟨⟨issues_run0, by decide +kernel⟩, ⟨issues_of _ _ _ _ (by decide +kernel), by decide +kernel⟩, issues_of _ _ _ _ (by decide +kernel), by decide +kernel⟩

/-- A grid barrier whose last arrival is made. -/
def gbarOver : BarInst := { count := 0, arrived := 32, pc := 0x200000, tile := 0, slot := 0, group := 0, lawn := 0, since := 0, complete := true, uid := 1 }
def kernelBar : Kernel := { kernel0 with gbar := some gbarOver }

theorem witness_GridBarriersEndAndStallsFault :
    ((runs [blockCoop] Tile.empty.matrix kernelBar).entry 0 = some (entryK kernelBar) ∧ (entryK kernelBar).kern = some kernelBar ∧
      kernelBar.gbar = some gbarOver ∧ gbarOver.complete = true) ∧
    (run0 block0).stalls = [] := by decide +kernel

/-- A mapped page: writable, in HBM frame 200, every subpage copied. -/
def page0 : Page :=
  { write := true, tier := 0, pin := false, lost := false, frame := 200, destTier := 0, destFrame := 0, migrating := false, zeromask := 0, touched := 0, heat := 0
    migrations := 0, copied := 0, lastEnd := none, mig := none }
/-- The valid entries of levels 3 to 1 above pages 0 to 511. -/
def tables0 : NMap Nat := (up.makeTables 0).mem.tables
def withPage (s : State) (p : Page) : State := { s with mem := { s.mem with pages := [(0, p)], tables := tables0 } }

theorem witness_GroupAccessesAreMadeInLaneOrder :
    ((run0 block0).Issues g0 block0 group0 path0 ∧ (4 : Nat) ∈ [1, 2, 4, 8, 16] ∧ (∀ r ∈ 2 :: 3 :: widthRegs 8 4, r < block0.nregs) ∧
      (∀ l ∈ lanesOf path0.mask, (group0.reg l 2).mark = none ∧ (group0.reg l 3).mark = none) ∧
      (∀ e ∈ laneOffsets group0 path0 2, e.2 + 4 ≤ block0.scratchB ∧ e.2 % 4 = 0)) ∧
    (0 < block0.clSize ∧ (run0 block0).residents.find? (fun t => t.seq == block0.seq && t.cluster == block0.cluster && t.rank == 0) = some block0) ∧
    ((withPage (run0 block0) page0).Issues g0 block0 group0 path0 ∧
      (∀ e ∈ laneAddrs group0 path0 2, e.2 % 4 = 0 ∧ (withPage (run0 block0) page0).violationKind e.2 false = none) ∧
      (∀ e ∈ laneAddrs group0 path0 2, e.2 % 4 = 0 ∧ (withPage (run0 block0) page0).violationKind e.2 true = none)) :=
  ⟨⟨issues_run0, by decide +kernel⟩, by decide +kernel, issues_of _ _ _ _ (by decide +kernel), by decide +kernel⟩

theorem witness_FencesDropsAndContributions :
    ((run0 blockCoop).Issues g0 blockCoop group0 path0 ∧ ([(0xD868000000000000 : W64), 0xD848000000000000, 0xD828000000000000, 0xD870000000000000].all fun w =>
      fld w 63 56 == 0xD8 && fld w 50 0 == 0 && fld w 52 51 != 3 && (run0 blockCoop).fenceScope true (fld w 55 53) == some (fld w 55 53)) = true) ∧
    ((withPage (run0 block0) page0).Issues g0 block0 group0 path0 ∧ fld (0xDA02000000000000 : W64) 63 56 = 0xDA ∧ fld (0xDA02000000000000 : W64) 47 0 = 0 ∧
      fld (0xDA02000000000000 : W64) 55 48 = 2 ∧ (∀ l ∈ lanesOf path0.mask, group0.poisonedReg l [2, 3] = none) ∧
      (∀ l ∈ lanesOf path0.mask, group0.lineAddr l 2 % 128 = 0 ∧ (withPage (run0 block0) page0).violationKind (group0.lineAddr l 2) true = none)) ∧
    (fld (0xD902040000480000 : W64) 63 56 = 0xD9 ∧ fld (0xD902040000480000 : W64) 18 0 = 0 ∧ fld (0xD902040000480000 : W64) 39 36 = 0 ∧
      fld (0xD902040000480000 : W64) 55 48 = 2 ∧ fld (0xD902040000480000 : W64) 47 40 = 4 ∧ fld (0xD902040000480000 : W64) 34 27 = 0 ∧
      (0xD902040000480000 : W64).getLsbD 35 = false ∧ fld (0xD902040000480000 : W64) 26 23 = 0 ∧ fld (0xD902040000480000 : W64) 22 19 = 9 ∧
      group0.lineAddr (lowestLane path0.mask) 2 = 0 ∧ firstMark ((contribData group0 path0 4 0).map (·.mark)) = none) :=
  ⟨⟨issues_of _ _ _ _ (by decide +kernel), by decide +kernel⟩, ⟨issues_of _ _ _ _ (by decide +kernel), by decide +kernel⟩, by decide +kernel⟩

/-- The same REDL with its slot and count in v6. -/
theorem witness_FencesDropsAndContributions_register :
    (0xD902040830000000 : W64).getLsbD 35 = true ∧ fld (0xD902040830000000 : W64) 26 19 = 0 ∧ fld (0xD902040830000000 : W64) 34 27 = 6 ∧
      6 < block0.nregs ∧ group0.poisonedReg (lowestLane path0.mask) [6] = none := by decide +kernel

/-- A kernel with an admission owed, one with its next block to place, and blocks that have exited. -/
def kernelPlan : Kernel := { kernel0 with plan := [(0, 0)] }
def kernelNext : Kernel := { kernel0 with next := 0 }
def blockEnd : Block := { block0 with exiting := true, groups := [{ group0 with stack := [], exited := 0xFFFFFFFF }] }
def blockEnd2 : Block := { blockEnd with clSize := 2 }
def blockStay : Block := { block0 with uid := 2, slot := 1, rank := 1, clSize := 2 }

theorem witness_BlocksAreAdmittedAndLeave :
    ((runs [] Tile.empty.matrix kernelPlan).entry 0 = some (entryK kernelPlan) ∧ (runs [] Tile.empty.matrix kernelPlan).ledger.saved = [] ∧
      ((runs [] Tile.empty.matrix kernelPlan).tile 0).alloc = some 0 ∧ (entryK kernelPlan).seq = 0 ∧ (entryK kernelPlan).status = .running ∧ (kernelPlan.plan.find? fun p => p.2 == 0) = some (0, 0) ∧
      (runs [] Tile.empty.matrix kernelPlan).hasRoom kernelPlan 0 = true) ∧
    ((runs [] Tile.empty.matrix kernelNext).entry 0 = some (entryK kernelNext) ∧ kernelNext.plan = [] ∧ kernelNext.halted = false ∧
      kernelNext.next < kernelNext.grid ∧ kernelNext.clSize = 1 ∧ (runs [] Tile.empty.matrix kernelNext).nextPlace kernelNext = some [0]) ∧
    ((run0 blockEnd).block 0 0 = some blockEnd ∧ blockEnd.exiting = true ∧ blockEnd.ended = false ∧ blockEnd.pendingTokens = false ∧
      ((run0 blockEnd).felt.waiting.any fun q => q.uid == 1) = false ∧
      (((run0 blockEnd).adjBlock 0 0 Block.ends).settleBarriers 0 0 0).clusterOver 0 0 = true) ∧
    ((runs [blockEnd2, blockStay] Tile.empty.matrix kernel0).block 0 0 = some blockEnd2 ∧
      (((runs [blockEnd2, blockStay] Tile.empty.matrix kernel0).adjBlock 0 0 Block.ends).settleBarriers 0 0 0).clusterOver 0 0 = false) := by decide +kernel

/-! ### Witnesses: memory -/

/-- A waiting mapping entry for one page from address 0; `up` with it and with `page0` there. -/
def mapEntry (k : Kind) (w5 : W64) : Entry := { entry0 with kind := k, status := .waiting, words := [0, 0, 0, 0, 2 ^ 21, w5, 0, 0] }
def mapState (k : Kind) (ps : NMap Page) : State := let s := withEntries [mapEntry k 0]; { s with mem := { s.mem with pages := ps } }

theorem witness_ProtectChangesOnlyWrite :
    (mapState .protect [(0, page0)]).entry 0 = some (mapEntry .protect 0) ∧ (mapEntry .protect 0).kind = .protect ∧ (mapEntry .protect 0).isFinished = false ∧
      (mapState .protect [(0, page0)]).mapTurn (mapEntry .protect 0) = true ∧ (mapEntry .protect 0).mapRange = some (0, 1) := by decide +kernel

theorem witness_SpentBundlesRetireTheirBankGroup :
    up.bundleOk (.bank 0 3) = true ∧ 4 = up.sparesLeft (bundleKey (.bank 0 3)) ∧ up.sparesLeft (bundleKey (.bank 0 3)) < 5 ∧
      1 < up.sparesLeft (bundleKey (.bank 0 3)) := by decide +kernel

theorem witness_MappingEntriesAndHostAccesses :
    ((mapState .map []).entry 0 = some (mapEntry .map 0) ∧ (mapState .map []).mapTurn (mapEntry .map 0) = true ∧ (mapEntry .map 0).mapRange = some (0, 1) ∧
      (mapState .map []).placeTier (fld ((mapEntry .map 0).word 5) 63 62) 1 = some 0) ∧
    ((mapState .unmap [(0, page0)]).entry 0 = some (mapEntry .unmap 0) ∧ (mapState .unmap [(0, page0)]).mapTurn (mapEntry .unmap 0) = true ∧
      (mapEntry .unmap 0).mapRange = some (0, 1)) ∧ up.iface.hostLink = 2 := by decide +kernel

/-- Line 0 of Felt with a full set of operands: a deferred reduction, one that was spilled when full, a sector being fetched. -/
def sectorF : FSector := { present := false, dirty := false, fetching := true, master := 0, val := ⟨0, none⟩ }
def sectorP : FSector := { sectorF with present := true, fetching := false }
def red0 : Reduce := { rop := 9, count := 1, slots := [(0, List.replicate 4 ⟨0, none⟩)], failed := false, deferred := true, fullSeen := false, order := 0 }
def line0 : FLine := { way := 0, write := true, sectors := List.replicate 4 sectorP, red := some red0 }
def lineF : FLine := { line0 with red := none, sectors := [sectorF, sectorF, sectorF, sectorF] }
def spill0 : Spill := { record := 0, red := { red0 with deferred := false }, full := true }
def withFelt (f : Felt) : State := let s := withPage up page0; { s with felt := f }
def feltOn : Felt := { Felt.reset with accepts := true }
/-- A state whose half 0 holds page 0 in its translation cache. -/
def withTlb (s : State) : State := { s with mem := { s.mem with tlb0 := [0] } }
def load0 : Req := { agent := .thread g0, uid := 1, addr := 0, kind := .load 0 3 4, ack := false }
def spillState : State := let s := withFelt { feltOn with lines := [(0, line0)] }; { s with mem := { s.mem with regions := { s.mem.regions with spill := [(300, 4)] } } }

/-- `withFelt` with page 0 in port 1, whose memory lies in the other half than line 0's home bank. -/
def stateCross : State := let s := withFelt { feltOn with lines := [(0, lineF)] }; { s with mem := { s.mem with pages := [(0, { page0 with tier := 2, frame := 0 })] } }

theorem witness_FeltServicesServeTheirLines :
    (NMap.look spillState.felt.lines 0 = some line0 ∧ line0.red = some red0 ∧ red0.deferred = true ∧ spillState.spillTags 0 < 16 ∧
      spillState.freeRecord (homeHalf 0) = some 0) ∧
    (NMap.look (withFelt { feltOn with spilled := [(0, spill0)] }).felt.spilled 0 = some spill0 ∧ spill0.full = true ∧
      (withFelt { feltOn with spilled := [(0, spill0)] }).retiringHome 0 = false ∧
      (((withFelt { feltOn with spilled := [(0, spill0)] }).chargeRecall 0 spill0).findWay 0 (mScrub (homeHalf 0))).2 = some 0) ∧
    (NMap.look (withFelt { feltOn with lines := [(0, lineF)] }).felt.lines (1 / 4) = some lineF ∧ lineF.sectors[1 % 4]? = some sectorF ∧
      sectorF.fetching = true ∧ sectorF.present = false ∧ (withFelt { feltOn with lines := [(0, lineF)] }).fetchable 1 = true ∧
      (withFelt { feltOn with lines := [(0, lineF)] }).bundleStopped (1 / 4) = false) ∧
    ((withFelt { feltOn with lines := [(0, lineF)] }).fillCrosses 1 = false ∧ stateCross.fillCrosses 1 = true) ∧
    ((withFelt { feltOn with flush := 1 }).felt.flush ≠ 0 ∧ (withFelt { feltOn with flush := 1 }).bundleChange = false) ∧
    ((withFelt { feltOn with retiring := [(0, 3)] }).felt.retiring.contains (0, 3) = true ∧
      (withFelt { feltOn with retiring := [(0, 3)] }).moveLeaving.leavingOf 0 3 = false) ∧
    (withFelt { feltOn with waiting := [load0] }).walkWanted 0 0 = true ∧ (withTlb (withPage up page0)).tlbHit 0 0 = true := by decide +kernel

/-- Page 0 in the second tier as a candidate for promotion under AGGRESSIVE; being copied, and flipped; a port down; a COPY that waits for the host. -/
def mig0 : Migration := { copying := some 0, flipped := false, srcTier := 0, srcFrame := 200, bytes := 0, withdraw := false, held := [] }
def pageCopy : Page := { page0 with migrating := true, destTier := 1, mig := some mig0 }
def pageFlip : Page := { page0 with migrating := true, destTier := 1, mig := some { mig0 with copying := none, flipped := true } }
def page1 : Page := { page0 with tier := 1, frame := 0 }
def stateMig : State :=
  let s := withPage up page1
  { s with funcs := [(funcNo .tiering, .on), (funcNo (.tier2 0), .on)], iface := { s.iface with t2width := [(0, 16)] }
           mem := { s.mem with cand := [(0, 0, true)], cap0 := 8, used1 := [0] }
           dict := { s.dict with values := [(Obj.tieringPolicy, [2])], claims := { s.dict.claims with stage0 := [.tiering] } } }
def statePort : State :=
  let s := withPage up page0
  { s with funcs := [(funcNo (.tier2 0), .on)], iface := { s.iface with t2down := [0] } }
def chanCopy : Channel := { half := 0, coll := false, launch := launch0, words := [], ranks := [], pos := 0, acc := [], got := [], wait := true }
def entryCopy : Entry := { entry0 with kind := .copy, chan := some chanCopy, words := [0, 0, 0, 2 ^ 63, 0, 0, 0, 0] ++ List.replicate 8 0 }
def stateCopyDown : State := let s := withEntries [entryCopy]; { s with iface := { s.iface with hostLink := 0 } }

theorem witness_MigrationsAndIntervalsGoOn :
    (statePort.iface.t2down.contains 0 = true ∧ statePort.func (.tier2 0) ≠ .off ∧ statePort.func (.tier2 0) ≠ .heldDown) ∧
    (stateMig.func .tiering = .on ∧ stateMig.page 0 = some page1 ∧ stateMig.mem.moves = [] ∧
      stateMig.mem.cand.find? (fun c => c.1 == 0) = some (0, 0, true) ∧
      stateMig.nextCandidate (stateMig.candEngine (0, 0, true)) = some (0, 0, true) ∧ stateMig.runningMigs (stateMig.candEngine (0, 0, true)) < 4 ∧
      stateMig.ownsStage (stateMig.candEngine (0, 0, true)) = true ∧ (stateMig.freeIn 0).isSome = true) ∧
    (NMap.look (withPage up pageCopy).mem.pages 0 = some pageCopy ∧ pageCopy.mig = some mig0 ∧ mig0.copying = some 0 ∧ mig0.held = [] ∧
      mig0.flipped = false ∧ (withPage up pageCopy).tierDown mig0.srcTier = false ∧ (withPage up pageCopy).tierDown pageCopy.destTier = false) ∧
    (NMap.look (withPage up pageFlip).mem.pages 0 = some pageFlip ∧ pageFlip.mig = some { mig0 with copying := none, flipped := true }) ∧
    (stateCopyDown.entry 0 = some entryCopy ∧ entryCopy.status = .running ∧ entryCopy.chan = some chanCopy ∧ chanCopy.wait = true ∧
      chanCopy.coll = false ∧ stateCopyDown.copyBlocked entryCopy = true) := by decide +kernel

/-! ### Witnesses: the ledger and the scheduler -/

/-- A slot whose words after the header are zero, with a CRC; `up` with a slot fetched. -/
def slotBody (w0 : Nat) : Bytes := natLE 8 w0 ++ (List.replicate 29 0 ++ (List.replicate 29 0 ++ (List.replicate 29 0 ++ List.replicate 29 0)))
def slotOf (w0 crc : Nat) : Bytes := slotBody w0 ++ natLE 4 crc
def fetchedState (bs : Bytes) : State := { up with ledger := { Ledger.reset with enable := true, st := .running, fetched := some bs } }
def wordsOk (bs : Bytes) (alive : Nat) : Bool :=
  (fetchedState bs).ledger.fetched == some bs && (fetchedState bs).iface.hostLink == 2 && (fetchedState bs).boot.phase == .ready &&
    kindOf (fld ((bytesWords bs).getD 0 0) 63 56) == some .nop && fld ((bytesWords bs).getD 0 0) 55 48 == alive

/-- The CRC register after some bytes; the CRC of a slot's body from the registers after its pieces. -/
def crcFrom (c : W32) (bs : Bytes) : W32 := bs.foldl (fun c b => crcBits 8 (c ^^^ BitVec.setWidth 32 b)) c
theorem crc_pieces (w0 : Nat) (a b c d e : W32) (ha : crcFrom 0xFFFFFFFF (natLE 8 w0) = a) (hb : crcFrom a (List.replicate 29 0) = b)
    (hc : crcFrom b (List.replicate 29 0) = c) (hd : crcFrom c (List.replicate 29 0) = d) (he : crcFrom d (List.replicate 29 0) = e) :
    crc32c (slotBody w0) = e ^^^ 0xFFFFFFFF := by
  subst ha hb hc hd he
  simp only [slotBody, crc32c, List.foldl_append, crcFrom]
theorem crc_good : crc32c (slotBody 0x0001000008000000) = 0xF8C480AE ^^^ 0xFFFFFFFF :=
  crc_pieces _ 0xA512DE93 0x1EA7BEC2 0xCBE90930 0xA22B77A4 0xF8C480AE (by decide +kernel) (by decide +kernel) (by decide +kernel) (by decide +kernel)
    (by decide +kernel)
theorem crc_repeat : crc32c (slotBody 0x0000000000000000) = 0x28E42C9B ^^^ 0xFFFFFFFF :=
  crc_pieces _ 0x73D74D75 0x9F901BD4 0x8ED66487 0x7E9C9EEC 0x28E42C9B (by decide +kernel) (by decide +kernel) (by decide +kernel) (by decide +kernel)
    (by decide +kernel)
theorem crc_skip : crc32c (slotBody 0x0005000000000000) = 0x646FFDD4 ^^^ 0xFFFFFFFF :=
  crc_pieces _ 0x2EFFB4DE 0x00468F9C 0x286F2741 0x30CA2750 0x646FFDD4 (by decide +kernel) (by decide +kernel) (by decide +kernel) (by decide +kernel)
    (by decide +kernel)
theorem crc_malformed : crc32c (slotBody 0x0001000000000001) = 0x1E12B282 ^^^ 0xFFFFFFFF :=
  crc_pieces _ 0x2949A825 0x18520AFB 0x610B1002 0x37024112 0x1E12B282 (by decide +kernel) (by decide +kernel) (by decide +kernel) (by decide +kernel)
    (by decide +kernel)
theorem take_slot (w0 crc : Nat) : (slotOf w0 crc).take 124 = slotBody w0 := by
  have h : (slotBody w0).length = 124 := by simp [slotBody, natLE]
  rw [slotOf, List.take_append_of_le_length (by omega), List.take_of_length_le (by omega)]
theorem drop_slot (w0 crc : Nat) : (slotOf w0 crc).drop 124 = natLE 4 crc := by
  have h : (slotBody w0).length = 124 := by simp [slotBody, natLE]
  rw [slotOf, List.drop_append_of_le_length (by omega), List.drop_of_length_le (by omega), List.nil_append]
/-- The CRC check of a slot. -/
def crcGood (bs : Bytes) : Bool := (crc32c (bs.take 124)).toNat == leNat ((bs.drop 124).take 4)

/-- A ledger that runs, with records produced. -/
def ledgerOn : Ledger := { Ledger.reset with enable := true, st := .running, produced := 4 }
def stateOn : State := { up with ledger := ledgerOn }

theorem witness_SlotsAreFetchedCheckedAndTaken :
    (stateOn.ledger.enable = true ∧ stateOn.ledger.st = .running ∧ stateOn.iface.hostLink = 2 ∧ stateOn.ledger.fetched = none ∧
      (slotOf 0x0001000008000000 0x073B7F51).length = 128 ∧ (slotOf 0x0001000008000000 0x073B7F51).getD 7 0 ≠ 0xFF) ∧
    (wordsOk (slotOf 0x0001000008000000 0x073B7F51) 1 = true ∧ slotOk 0 (bytesWords (slotOf 0x0001000008000000 0x073B7F51)) = true ∧
      (fetchedState []).failedDep 0 (bytesWords (slotOf 0x0001000008000000 0x073B7F51)) = none ∧ Ledger.reset.cancelTo = false ∧ Ledger.reset.alive = 1) ∧
    wordsOk (slotOf 0 0) 0 = true ∧ wordsOk (slotOf 0x0000000000000000 0xD71BD364) ((Ledger.reset.alive + 255) % 256) = true ∧
    wordsOk (slotOf 0x0005000000000000 0x9B90022B) 5 = true ∧
    (wordsOk (slotOf 0x0001000000000001 0xE1ED4D7D) 1 = true ∧ slotOk 0 (bytesWords (slotOf 0x0001000000000001 0xE1ED4D7D)) = false) ∧
    (stateOn.ledger.consumed ≤ 4 ∧ 4 ≤ stateOn.ledger.produced) := by decide +kernel
theorem witness_SlotsAreFetchedCheckedAndTaken_crc :
    crcGood (slotOf 0x0001000008000000 0x073B7F51) = true ∧ crcGood (slotOf 0 0) = false ∧ crcGood (slotOf 0x0000000000000000 0xD71BD364) = true ∧
      crcGood (slotOf 0x0005000000000000 0x9B90022B) = true ∧ crcGood (slotOf 0x0001000000000001 0xE1ED4D7D) = true := by
  simp only [crcGood, take_slot, drop_slot, crc_good, crc_repeat, crc_skip, crc_malformed]
  decide +kernel

/-- A waiting KERNEL of one block; a COOP one; a COPY in device memory; `up` with a value in force. -/
def kernelE (w7 : W64) : Entry := { entry0 with status := .waiting, words := [0, 0, 0, 0, 0, 0x0001000100010000, 2 ^ 53, w7] ++ List.replicate 8 0 }
def setTo (s : State) (k : Nat) (v : Bytes) : State := { s with dict := { s.dict with values := NMap.put s.dict.values k v } }
def dynamicState (e : Entry) : State := setTo (setTo (withEntries [e]) Obj.preemptEnable [0]) Obj.defaultNarrowFormat [0]
def fixedState (e : Entry) : State :=
  setTo (setTo (setTo (dynamicState e) Obj.schedPolicy [1]) Obj.fixedPartition (3 :: List.replicate 127 0)) Obj.fixedPartitionClusters [0, 0]

theorem witness_EntriesRunAndComplete_kernel :
    ((dynamicState (kernelE 0)).entry 0 = some (kernelE 0) ∧ (dynamicState (kernelE 0)).ready (kernelE 0) = true ∧
      (dynamicState (kernelE 0)).launchRefusal (kernelE 0) ((dynamicState (kernelE 0)).launchOf ((kernelE 0).word 7)) = none ∧
      (dynamicState (kernelE 0)).fixedPolicy = false ∧ (dynamicState (kernelE 0)).yields (kernelE 0) = false ∧
      ((dynamicState (kernelE 0)).launchOf ((kernelE 0).word 7)).coop = false ∧
      ((dynamicState (kernelE 0)).freePlaces (kernelE 0).seq (kernelE 0).clusterSize).take
        (min ((dynamicState (kernelE 0)).tileLimit (kernelE 0) / (kernelE 0).clusterSize) (unitsOf (kernelE 0).gridBlocks (kernelE 0).clusterSize)) = [[0]]) ∧
    ((dynamicState (kernelE (2 ^ 59))).ready (kernelE (2 ^ 59)) = true ∧
      (dynamicState (kernelE (2 ^ 59))).launchRefusal (kernelE (2 ^ 59)) ((dynamicState (kernelE (2 ^ 59))).launchOf (2 ^ 59)) = none ∧
      ((dynamicState (kernelE (2 ^ 59))).launchOf (2 ^ 59)).coop = true ∧ (dynamicState (kernelE (2 ^ 59))).yields (kernelE (2 ^ 59)) = false ∧
      (kernelE (2 ^ 59)).coopNeed ((dynamicState (kernelE (2 ^ 59))).launchOf (2 ^ 59)) = 1 ∧
      ((dynamicState (kernelE (2 ^ 59))).freePlaces 0 1).take 1 = [[0]]) ∧
    ((fixedState (kernelE 0)).fixedPolicy = true ∧ (fixedState (kernelE 0)).ready (kernelE 0) = true ∧
      (fixedState (kernelE 0)).launchRefusal (kernelE 0) ((fixedState (kernelE 0)).launchOf 0) = none ∧ (fixedState (kernelE 0)).partTurn (kernelE 0) = true ∧
      ((fixedState (kernelE 0)).partPlaces (kernelE 0)).all (fun p => p.all ((fixedState (kernelE 0)).tileFree 0)) = true) ∧
    ((runs [] Tile.empty.matrix kernelNext).entry 0 = some (entryK kernelNext) ∧ (entryK kernelNext).status = .running ∧
      (entryK kernelNext).kern = some kernelNext ∧ (runs [] Tile.empty.matrix kernelNext).held = false ∧
      (runs [] Tile.empty.matrix kernelNext).yields (entryK kernelNext) = false) := by decide +kernel

/-- A COPY in device memory, and a SEND-less collective of one rank whose request lies at address 0 and its rank table at 0x100. -/
def copyE : Entry := { entry0 with kind := .copy, status := .waiting, words := [0, 0, 0, 0, 2 ^ 12, 32, 0, 0] ++ List.replicate 8 0 }
def collE : Entry := { entry0 with kind := .collective, status := .waiting }
def collWords : List W64 := [0, 2 ^ 32, 0x1000, 0x2000, 128, 0x100, 0, 0] ++ List.replicate 8 0
def withHbm (s : State) : State :=
  let m := MarkedMem.empty.writeRaw (200 * 2 ^ 21) (collWords.flatMap fun w => natLE 8 w.toNat)
  let t := withPage (setTo s Obj.defaultNarrowFormat [0]) page0
  { t with felt := feltOn, mem := { t.mem with hbm := m } }
def collS : State := withHbm (withEntries [collE])
def collC : Channel := Channel.fresh 0 true (collS.launchOf 0)
def loaded : State × ChanRes Channel := (collS.startChannel 0 collC).loadColl collE collC (0, .none)
def isOk (r : ChanRes Channel) : Bool := match r with | .ok _ => true | _ => false
def chanDone : Channel := { chanCopy with coll := true, wait := false, words := collWords, ranks := [(0, 0)], acc := [] }
def collRun : Entry := { entry0 with kind := .collective, chan := some chanDone }

theorem witness_EntriesRunAndComplete_channels :
    ((withEntries [copyE]).entry 0 = some copyE ∧ (withEntries [copyE]).ready copyE = true ∧ (withEntries [copyE]).channelHalf = some 0 ∧
      (withEntries [copyE]).copyBlocked copyE = false) ∧
    (collS.entry 0 = some collE ∧ collS.ready collE = true ∧ collS.channelHalf = some 0 ∧ collS.collRule (collS.launchOf (collE.word 7)) = 0 ∧
      isOk loaded.2 = true) ∧
    ((withHbm (withEntries [collRun])).entry 0 = some collRun ∧ collRun.chan = some chanDone) := by decide +kernel

/-- A line whose sectors hold words, served; a RECV from rank 1 of two, its request in line 0 and its rank table in line 2, and the same state
with the copy: its source in line 0 and its destination in line 32. -/
def lineOf (l : List W64) : FLine :=
  { way := 0, write := true, red := none
    sectors := (chunksN 32 4 (l.flatMap fun w => natLE 8 w.toNat)).map fun b => { sectorP with val := ⟨bytesSector b, none⟩ } }
def recvWords : List W64 := [0x5000000000000000, 0x0000000200010000, 0x1000, 0x2000, 128, 0x100, 0, 0] ++ List.replicate 8 0
def heldState (e : Entry) : State :=
  let s := withPage (setTo (withEntries [e]) Obj.defaultNarrowFormat [0]) page0
  { s with
    felt := { feltOn with lines := [(0, lineOf recvWords), (2, lineOf ([0, 0x0007000040000000] ++ List.replicate 14 0)), (32, lineOf (List.replicate 16 0))] }
    funcs := [(funcNo (.peer 0), .on)], iface := { s.iface with peers := [(0, { Peer.idle with partner := 7 })] } }

theorem witness_EntriesRunAndComplete_held :
    (let s := heldState copyE
     s.entry 0 == some copyE && s.ready copyE && s.channelHalf == some 0 && !s.copyBlocked copyE && !copyE.srcHost && !copyE.dstHost &&
       copyE.copyLen == 32 && copyE.copySrc == 0 && copyE.copyDst == 4096 && (s.violationKind 0 false).isNone && s.holds 0 mHost &&
       (s.violationKind 4096 true).isNone && s.writable 128 mHost) = true ∧
    (let s := heldState collE
     let c : Channel := { Channel.fresh 0 true (s.launchOf 0) with words := bytesWords (s.heldBytes 0 4) }
     let tab := (bytesWords (s.heldBytes 8 ((c.nranks * 8 + 31) / 32))).take c.nranks
     let d : Channel := { c with ranks := tab.map rankEntry }
     s.entry 0 == some collE && s.ready collE && s.channelHalf == some 0 && fld (collE.word 3) 56 0 == 0 && s.collRule (s.launchOf (collE.word 7)) == 0 &&
       c.formOk && c.cop == 5 && fld (c.w 5) 56 0 / 32 == 8 && rankTabOk tab && (d.partners s.treeOrder).all (fun r => (s.partnerFault d r).isNone) &&
       ([0, 1, 2, 3, 8].all fun sn => (s.violationKind (sn * 32) false).isNone && s.holds sn (mColl 0))) = true := by decide +kernel

/-- A finished entry and an event record, with the ring open; a tile whose blocks are saved for entry 1; a saved block. -/
def doneE : Entry := { entry0 with status := .finished 0 0 0 }
def ringState (l : List Entry) (ev : List Record) : State := { up with ledger := { ledgerOn with produced := 0, entries := l, order := l.map (·.seq), events := ev } }
def record0 : Record := { phase := true, type := 1, code := 0, rule := 0, sats := 0, seq := 0, tag := 0, detail := 0, time := 0 }
def entry1 : Entry := { kernelE 0 with seq := 1 }
def preempts : State :=
  let s := runs [] Tile.empty.matrix kernel0
  { s with ledger := { s.ledger with entries := [entryK kernel0, entry1], victims := [(0, 1)] } }
def savedState : State := (preempts.saved 0).settleLimits
def reserved : State := { savedState with ledger := { savedState.ledger with reserve := savedState.ledger.reserve ++ [(0, 1)] } }
def restores : State := let s := runs [] Tile.empty.matrix kernel0; { s with ledger := { s.ledger with saved := [block0] } }

theorem witness_EntriesRunAndComplete_records :
    ((ringState [doneE] []).entry 0 = some doneE ∧ (ringState [doneE] []).ledger.discard = false ∧ (ringState [doneE] []).ringOpen = true ∧
      (ringState [doneE] []).ringRoom = true ∧ (ringState [doneE] []).ledger.order.head? = some 0) ∧
    ((ringState [] [record0]).ledger.events = [record0] ∧ (ringState [] [record0]).isOn Obj.completionEventEnable = true ∧ (ringState [] [record0]).ringOpen = true ∧ (ringState [] [record0]).ringRoom = true) ∧
    (preempts.ledger.victims.contains (0, 1) = true ∧ preempts.saveReady 0 = true ∧ savedState.entry 1 = some entry1 ∧
      entry1.isFinished = false ∧
      ((reserved.places entry1.clusterSize).find? fun p => p.contains 0 && p.all (reserved.tileFree 1)) = some [0] ∧
      entry1.status = .waiting ∧ reserved.ready entry1 = true ∧ (preempts.ledger.entries.all fun e => !e.kern.any (·.limitDue)) = true) ∧
    (restores.entry 0 = some (entryK kernel0) ∧ lowestBlock (restores.ledger.saved.filter fun b => b.seq == 0) = some block0 ∧
      restores.held = false ∧ restores.yields (entryK kernel0) = false ∧
      ((restores.places kernel0.clSize).find? fun p => p.contains 0) = some [0] ∧
      (∀ n ∈ [0], (restores.tile n).alloc = some 0 ∧ restores.hasRoom kernel0 n = true)) ∧
    ((withEntries [entry0]).entry 0 = some entry0 ∧ entry0.status = .running ∧ entry0.kern = none) ∧
    ((runs [] Tile.empty.matrix kernel0).entry 0 = some (entryK kernel0) ∧
      (∀ v ∈ (runs [] Tile.empty.matrix kernel0).ledger.victims, v.1 ∉ kernel0.tiles ∧ v.2 ≠ 0)) := by decide +kernel

/-! ### Witnesses: integrity, power, clocks and thermal control -/

/-- `up` with parts of the state replaced. -/
def withInteg (i : Integ) : State := { up with integ := i }
def withPower (p : Power) : State := { up with power := p }
def withThermal (t : Thermal) : State := { up with thermal := t }
def withFuncs (l : NMap FState) : State := { up with funcs := l }

theorem witness_ScrubBundlesAndRegulators :
    (withFuncs [(funcNo .scrub, .on)]).func .scrub = .on ∧
    (up.bundleOk (.portRead 0 0) = true ∧ up.integ.failedB.contains (bundleKey (.portRead 0 0)) = false ∧ 4 ≤ up.sparesLeft (bundleKey (.portRead 0 0)) ∧
      up.sparesLeft (bundleKey (.portRead 0 0)) < 5) ∧
    (up.bundleOk (.bank 1 0) = true ∧ up.integ.failedB.contains (bundleKey (.bank 1 0)) = false ∧ 3 < up.sparesLeft (bundleKey (.bank 1 0)) ∧
      up.sparesLeft (bundleKey (.bank 1 0)) < 5) ∧
    (withInteg { Integ.reset with moving := [0] }).integ.moving.contains 0 = true ∧
    (up.power.stages.contains 23 = false ∧ 12 ≤ ({ up with power := { up.power with stages := insertNat up.power.stages 23 } } : State).stagesWorking ∧
      ({ up with power := { up.power with stages := List.range 13 } } : State).stagesWorking < 12) ∧
    (NMap.lookD (withPower { Power.reset with cells := [(23, 3)] }).power.cells 23 0 + 1 = 4 ∧
      NMap.lookD (withPower { Power.reset with cells := [(23, 6)] }).power.cells 23 0 + 1 = 7 ∧ NMap.lookD up.power.cells 0 0 + 1 = 1) ∧
    (railIndex ⟨4, 15⟩ = some 35 ∧ NMap.lookD (withPower { Power.reset with rails := [(35, 2)] }).power.rails 35 0 + 1 = 3 ∧
      NMap.lookD (withPower { Power.reset with rails := [(35, 3)] }).power.rails 35 0 + 1 = 4 ∧ NMap.lookD up.power.rails 35 0 + 1 = 1) := by
  decide +kernel

/-- A floor that holds; slot timing over Muslin as a coordinator of node 5 or a follower, and over the sync pin. -/
def holdingP : Power := { Power.reset with fleece := .holding }
def slotM (coord : Nat) : State :=
  setTo (setTo (setTo (setTo up Obj.rampCoordination [1]) Obj.slotCoordinator [coord]) Obj.muslinEnable [1]) Obj.plcaNodeId [5]
def slotPin : State :=
  let s := setTo (setTo (withPower holdingP) Obj.rampCoordination [2]) Obj.rampSyncPin [1]
  { s with dict := { s.dict with claims := { s.dict.claims with aux0 := .rampSync } } }
def lost (s : State) : State := { s with power := { s.power with syncLost := true } }
def inputState (i : InputSt) : State := withPower { Power.reset with input := i }

theorem witness_FloorsFramesAndInputStates :
    ((setTo (withPower holdingP) Obj.fleeceHoldMax [1, 0, 0, 0]).num Obj.fleeceHoldMax ≠ 0 ∧ (withPower holdingP).power.fleece = .holding) ∧
    ((setTo (setTo (withPower holdingP) Obj.fleeceRelease [1]) Obj.muslinEnable [1]).isOn Obj.fleeceRelease = true ∧
      (setTo (setTo (withPower holdingP) Obj.fleeceRelease [1]) Obj.muslinEnable [1]).muslinOn = true ∧
      (setTo slotPin Obj.fleeceRelease [1]).isOn Obj.fleeceRelease = true ∧ (setTo slotPin Obj.fleeceRelease [1]).syncPin 0 = true) ∧
    ((slotM 1).slotted = true ∧ (slotM 1).coordinates = true) ∧ ((lost (slotM 0)).slotted = true ∧ (lost (slotM 0)).power.syncLost = true) ∧
    ((slotM 0).slotted = true ∧ (slotM 0).coordinates = false ∧ (slotM 0).power.syncLost = false) ∧ slotPin.syncPin 0 = true ∧
    ((slotM 1).muslinOn = true ∧ (slotM 1).num Obj.rampCoordination = 1 ∧ (slotM 1).yieldsTo 4 0 = true ∧ (slotM 0).coordinates = false) ∧
    (up.boot.powered = true ∧ up.power.input ≠ .holdup ∧ (withPower holdingP).power.input ≠ .holdup) ∧
    (up.boot.phase ≠ .rom ∧ (inputState .high).power.input = .high ∧ (inputState .low).power.input = .low ∧ (inputState .holdup).power.input = .holdup) ∧
    ((inputState .holdup).boot.powered = true ∧ (inputState .holdup).beforeReady = false ∧ (inputState .holdup).thermal.modSt = .active) := by
  decide +kernel

/-- Holdover; transitions under way; a tile in Nap that a kernel wants; tile 0 retuning; the PPS pin owned. -/
def holdover : State := withThermal { Thermal.reset with holdover := true }
def changing (t : Nat) : State := withThermal { Thermal.reset with modSt := .changing t }
/-- Towards Active, every domain on. -/
def upAgain : State := { changing 0 with funcs := ((List.range 20).map fun c => (funcNo (.domain c), .on)) }
def wakes : State :=
  { up with tiles := [(0, { Tile.empty with alloc := some 0 })], funcs := [(funcNo (.domain 0), .on)]
            thermal := { Thermal.reset with sleep := [(0, .nap)] } }
def ppsState : State :=
  let s := setTo (setTo up Obj.ppsPin [1]) Obj.timeSource [1]
  { s with dict := { s.dict with claims := { s.dict.claims with aux0 := .pps } } }
def timeState : State := setTo (setTo up Obj.timeSource [2]) Obj.muslinEnable [1]
def perfState : State :=
  let s := withPage (setTo (setTo up Obj.perfSampleEnable [1]) Obj.perfSampleEntries [4, 0, 0, 0]) page0
  { s with felt := feltOn }
def perfHeld : State := { perfState with felt := { feltOn with lines := [(0, lineOf recvWords)] } }
def unitOk (r : ChanRes Unit) : Bool := match r with | .ok _ => true | _ => false

theorem witness_ClocksSleepAndTransitions :
    (up.thermal.holdover = false ∧ holdover.thermal.holdover = true ∧ holdover.bringingUp = false ∧ holdover.boot.powered = true) ∧
    (withTile { Tile.empty with retune := true }).tile 0 = { Tile.empty with retune := true } ∧
    ((withFuncs [(funcNo (.domain 0), .on)]).power.ballast = 0 ∧ (withFuncs [(funcNo (.domain 0), .on)]).func (.domain (rowDomain 0)) = .on ∧ (withFuncs [(funcNo (.domain 0), .on)]).tileRests 0 = true ∧
      (withFuncs [(funcNo (.domain 0), .on)]).sleepOf 0 = .idle ∧ (setTo up Obj.idleTileState [1]).num Obj.idleTileState ≠ 0 ∧
      (setTo up Obj.idleTileState [2]).num Obj.idleTileState = 2 ∧
      ((rowTiles (rowDomain 0)).all ((withFuncs [(funcNo (.domain 0), .on)]).setSleep 0 .napOff).offReady) = false) ∧
    (wakes.logicalOf 0 = some 0 ∧ (wakes.tile 0).alloc.isSome = true ∧ wakes.ledger.faultMask.contains 0 = false ∧
      wakes.func (.domain (rowDomain 0)) = .on ∧ wakes.sleepOf 0 = .nap ∧ wakes.thermal.holdover = false) ∧
    ((changing 1).beforeReady = false ∧ (changing 1).downReady 1 = true ∧ (changing 2).downReady 2 = true ∧ upAgain.upReady = true ∧ upAgain.thermal.modSt = .changing 0 ∧ (changing 1).thermal.forced = none ∧
      (changing 1).power.allowance ≤ drawStandby * 1000 ∧ (changing 2).power.allowance ≤ drawDormant * 1000 ∧ upAgain.power.input = .normal ∧
      upAgain.thermal.holdover = false ∧ upAgain.beforeReady = false ∧ upAgain.thermal.forced = none) ∧
    (ppsState.dict.claims.aux0 = .pps ∧ ppsState.num Obj.ppsPin = 0 + 1) ∧
    (timeState.muslinOn = true ∧ timeState.num Obj.timeSource = 2 ∧ timeState.thermal.timeLost = false) ∧
    (perfState.isOn Obj.perfSampleEnable = true ∧ perfState.boot.phase = .ready ∧
      perfState.num Obj.perfSampleBase + 64 * (perfState.thermal.perfIdx % max 1 (perfState.num Obj.perfSampleEntries)) = 0 ∧
      unitOk (perfState.engineWrites agentHalfManagers (mScrub 0)
        [(0 / 32, perfState.perfRecord.take 32, none), (0 / 32 + 1, perfState.perfRecord.drop 32, none)]).2 = true) ∧
    ([0, 1].all fun k => (perfHeld.violationKind (k * 32) true).isNone && perfHeld.writable k (mScrub 0)) = true := by decide +kernel

/-- Sensors: a trip, a disagreement in its 20th sample; asks whose scope is hot or cool. -/
def hotSensor : Sensor := { Sensor.fresh with reading := 10000, gov := 10000 }
def agreeing : Sensor := { Sensor.fresh with reading := 4000 }
def odd : Sensor := { agreeing with reading := 6000, disagree := 19 }
def field0 : NMap Sensor := [(0, odd), (1, agreeing), (2, agreeing), (3, agreeing)]
def ask0 : Ask := { scope := 0, tile := 0, target := 3, cause := 1, enforced := false, hot := 0, cool := 0 }
def asking (l : NMap Sensor) : State := withThermal { Thermal.reset with asks := [ask0], sensors := l }

theorem witness_SensorsTripAndThrottle :
    (up.boot.powered = true ∧ up.thermal.modSt ≠ .dormant ∧ (up.sampled [⟨0, 12000⟩] []).thermal.tripped = false ∧
      (up.sampled [⟨0, 12000⟩] []).thermal.hotBoot = false ∧ (up.sampled [⟨0, 12000⟩] []).tripper = some (0, 12000) ∧
      (up.sampled [⟨0, 5000⟩] []).tripper = none) ∧ up.bringingUp = false ∧
    (odd.suspect = false ∧ medianAt field0 0 = some 4000 ∧ 800 < gapOf odd.reading 4000 ∧ 19 ≤ odd.disagree) ∧
    (agreeing.suspect = false ∧ medianAt [(1, agreeing), (2, agreeing), (3, agreeing)] 0 = some 4000 ∧ gapOf agreeing.reading 4000 ≤ 800 ∧
      agreeing.est = none) ∧
    (((asking [(0, hotSensor)]).thermal.asks.find? fun x => !x.enforced) = some ask0 ∧ (asking [(0, hotSensor)]).stillHot ask0 = true ∧
      (asking [(0, agreeing)]).stillHot ask0 = false) := by decide +kernel

/-! ### Witnesses: bring-up and resets -/

def withBoot (b : Boot) : State := { up with boot := b }
def bootAt (p : Bringup) : Boot := { Boot.reset with powered := true, phase := p }
def linkUp (w : Bool) : Link := { trained := true, window := w, result := 2, rate := 0 }
def trainingHost : State := let s := withBoot (bootAt .training); { s with iface := { s.iface with hostLink := 1 } }
/-- All tiles fused off and the other cores verified, as far as a stage needs. -/
def loadedCores (stage : Nat) : State :=
  { up with boot := { bootAt .broadcast with stage := stage, cores := (List.range 178).map fun c => (1224 + c, { Core.empty with verified := true }) }
            fuses := { Fuses.reset with fused := List.range 72 } }

/-- A broadcast packet of one core's image: zero but for its IMAGE field and CRC. -/
def packetHead : Bytes := natLE 12 0x80000000000000000000
def packetBody : Bytes := List.replicate 32 0 ++ (List.replicate 32 0 ++ (List.replicate 32 0 ++ (List.replicate 32 0 ++ (List.replicate 32 0 ++
  (List.replicate 32 0 ++ (List.replicate 32 0 ++ List.replicate 32 0))))))
def packetCrc : Nat := 0x3B4AB7CE
def packet0 : Bytes := packetHead ++ natLE 4 packetCrc ++ packetBody
theorem crc_32 (l : Bytes) (a b : W32) (h : crcFrom a (List.replicate 32 0) = b) : crcFrom a (List.replicate 32 0 ++ l) = crcFrom b l := by
  subst h; simp only [crcFrom, List.foldl_append]
theorem crc_packet : crc32c (packet0.take 12 ++ packet0.drop 16) = 0x3B4AB7CE := by
  have h : packet0.take 12 ++ packet0.drop 16 = packetHead ++ packetBody := by decide +kernel
  have e (l : Bytes) : crc32c l = crcFrom 0xFFFFFFFF l ^^^ 0xFFFFFFFF := rfl
  have a : crcFrom 0xFFFFFFFF (packetHead ++ packetBody) = crcFrom 0x5FB83DE1 packetBody := by
    rw [show (0x5FB83DE1 : W32) = crcFrom 0xFFFFFFFF packetHead by decide +kernel]; simp only [crcFrom, List.foldl_append]
  rw [h, e, a, packetBody,
    crc_32 _ 0x5FB83DE1 0x2A58BC33 (by decide +kernel),
    crc_32 _ 0x2A58BC33 0x7EFA13F5 (by decide +kernel),
    crc_32 _ 0x7EFA13F5 0xC13408BB (by decide +kernel),
    crc_32 _ 0xC13408BB 0x98CC9950 (by decide +kernel),
    crc_32 _ 0x98CC9950 0xE0D1DAA8 (by decide +kernel),
    crc_32 _ 0xE0D1DAA8 0xBFE259FA (by decide +kernel),
    crc_32 _ 0xBFE259FA 0x9A1C5BA7 (by decide +kernel),
    show crcFrom 0x9A1C5BA7 (List.replicate 32 0) = 0xC4B54831 by decide +kernel]
  decide
theorem witness_BringUpRunsStepByStep_packet :
    ((withBoot { bootAt .broadcast with stage := 1 }).boot.phase = .broadcast ∧ (withBoot { bootAt .broadcast with stage := 1 }).coreExpected 1400 = true ∧
      (withBoot { bootAt .broadcast with stage := 1 }).boot.stage ≠ 0 ∧ NMap.look (withBoot (bootAt .broadcast)).boot.snoop (coreHalf 1400) = none ∧
      leNat (packet0.take 16) = 0x3B4AB7CE000080000000000000000000 ∧ packet0.length = 272 ∧ 0x3B4AB7CE000080000000000000000000 / 2 ^ 96 = packetCrc ∧ 0x3B4AB7CE000080000000000000000000 / 2 ^ 72 % 16 = 0 ∧ 0x3B4AB7CE000080000000000000000000 % 2 ^ 27 = 0 ∧
      0x3B4AB7CE000080000000000000000000 / 2 ^ 76 % 16 = coreImage 1400 ∧ 0x3B4AB7CE000080000000000000000000 / 2 ^ 27 % 2048 = 0 ∧ 0x3B4AB7CE000080000000000000000000 / 2 ^ 38 % 4 = 0) ∧
    (crc32c (packet0.take 12 ++ packet0.drop 16)).toNat = packetCrc := by
  rw [crc_packet]; decide +kernel

theorem witness_BringUpRunsStepByStep :
    State.reset.mayPowerUp = true ∧ trainingHost.mayTrain 19 = true ∧
    ((withBoot (bootAt .training)).boot.phase = .training ∧ (withBoot (bootAt .training)).stacks.contains 0 = true ∧
      (withBoot (bootAt .training)).thermal.holdover = false ∧
      ({ withBoot (bootAt .training) with funcs := [(funcNo (.domain 16), .on)] } : State).func (.domain (16 + 0 / 8)) = .on) ∧
    (((withBoot { bootAt .training with links := [(22, linkUp true)] }).link 22).trained = true ∧
      ((withBoot { bootAt .training with links := [(22, linkUp true)] }).link 22).window = true ∧
      (linkRate 22 0 1000000000000).1 * 10 ^ 15 < (linkRate 22 0 1000000000000).2 ∧ (linkRate 22 5 10).2 ≤ (linkRate 22 5 10).1 * 10 ^ 15) ∧
    ((withBoot (bootAt .training)).bringupHeld = false ∧ (withBoot (bootAt .training)).boot.hbmTrained.contains 0 = false ∧
      ((withBoot (bootAt .training)).link 22).trained = false) ∧
    ((withBoot (bootAt .fill)).boot.phase = .fill ∧ (withBoot (bootAt .fill)).bringupHeld = false ∧
      ([12, 13, 14, 15].all fun c => ({ withBoot (bootAt .fill) with funcs := [12, 13, 14, 15].map fun c => (funcNo (.domain c), .on) } : State).func (.domain c) == .on) = true) ∧
    ((withBoot (bootAt .broadcast)).bringupHeld = false ∧ (withBoot (bootAt .broadcast)).checkCores.boot.round < 3 ∧
      ((withBoot (bootAt .broadcast)).checkCores.stageCores.filter fun c => !((withBoot (bootAt .broadcast)).checkCores.core c).verified) ≠ []) ∧
    ([0, 1].all fun st => ((loadedCores st).checkCores.stageCores.filter fun c => !((loadedCores st).checkCores.core c).verified).isEmpty &&
      (loadedCores st).checkCores.boot.stage == st && (loadedCores st).boot.phase == .broadcast && !(loadedCores st).bringupHeld) = true ∧
    ((withBoot (bootAt .selftest)).boot.phase = .selftest ∧ ((List.range 12).all fun c => !((withBoot (bootAt .selftest)).func (.domain c)).turningOn) = true ∧ (withBoot (bootAt .selftest)).bringupHeld = false ∧
      4 ≤ ((withBoot (bootAt .selftest)).goodTiles 0).length ∧ 4 ≤ ((withBoot (bootAt .selftest)).goodTiles 1).length) ∧
    ((withBoot { bootAt .qualify with links := [(22, linkUp false)] }).bringupHeld = false ∧
      (withBoot { bootAt .qualify with links := [(22, linkUp false)] }).linksSettled = true ∧
      ((withBoot { bootAt .qualify with links := [(22, linkUp false)] }).link 22).trained = true ∧
      ((withBoot { bootAt .qualify with links := [(22, linkUp false)] }).link 22).window = false ∧
      drawIdle * 1000 ≤ ({ Power.reset with allowance := 640000 } : Power).allowance) := by decide +kernel

def offState : State := withBoot { bootAt .ready with pwrEn := false, pwrOff := true }
def backState : State := withBoot { bootAt .ready with pwrOff := true }
def downState : State := withBoot { Boot.reset with pwrEn := false }

theorem witness_ResetsAndPowerOff :
    (up.boot.powered = true ∧ up.updating = false ∧ up.beforeReady = false ∧ up.boot.pwrOff = false) ∧
    ([1, 2].all fun c => (withBoot { bootAt .computeReset with crPhase := c }).boot.crPhase == c &&
      decide ((withBoot { bootAt .computeReset with crPhase := c }).power.allowance ≤ drawIdle * 1000) &&
      !(withBoot { bootAt .computeReset with crPhase := c }).bundleChange &&
      (withBoot { bootAt .computeReset with crPhase := c }).thermal.modSt == .active) = true ∧
    (offState.offReadyNow = true ∧ offState.boot.pwrEn = false) ∧ (backState.offReadyNow = true ∧ backState.boot.pwrEn = true ∧ backState.boot.tripLatched = false) ∧
    (downState.boot.powered = false ∧ downState.boot.tripLatched = false ∧ downState.boot.pwrOff = false ∧ 48000 ≤ downState.power.mv ∧
      downState.power.mv ≤ 59500 ∧ downState.boot.pwrEn = false) := by decide +kernel

/-! ### Witnesses: interfaces, firmware and the board -/

/-- `up` with Muslin on, one session open for a sender, and counts of its requests. -/
def udp0 : Udp := ⟨0xFE80 * 2 ^ 112 + 1, 5000⟩
def resp0 : DictResp := { sid := 0x10, status := 0, rule := 0, total := 0, data := [] }
def muslinUp (l : NMap MuslinSession) : State :=
  let s := setTo up Obj.muslinEnable [1]
  { s with dict := { s.dict with sessions := l } }
def session0 (k : Option Nat) : MuslinSession := { src := udp0, lastSeq := k, saved := k.map fun _ => resp0 }
def full4 : NMap MuslinSession := [(0x10, session0 none), (0x11, session0 none), (0x12, session0 none), (0x13, session0 none)]
def portUp (down : List Nat) : State := { up with iface := { up.iface with t2width := [(0, 16)], t2down := down } }
def ownsPin (o : PinOwner) : State := { up with dict := { up.dict with claims := { up.dict.claims with aux0 := o } } }
def hostDown : State := let s := withBoot { bootAt .ready with links := [(19, linkUp false)] }; { s with iface := { s.iface with hostLink := 0 } }

theorem witness_HostMuslinAndBoardEvents :
    (up.iface.hostLink = 2 ∧ hostDown.boot.powered = true ∧ hostDown.iface.hostLink ≠ 2 ∧ (hostDown.link 19).trained = true ∧ up.boot.phase ≠ .rom) ∧
    (({ up with ledger := { Ledger.reset with irqMore := true } } : State).ledger.irqMore = true) ∧
    (NMap.has (portUp []).iface.t2width 0 = true ∧ (portUp []).iface.t2down.contains 0 = false ∧ (portUp [0]).iface.t2down.contains 0 = true ∧
      (portUp []).portLinked 0 = true) ∧
    ((muslinUp []).muslinOn = true ∧ (muslinUp []).dict.sessions.length < (muslinUp []).num Obj.muslinSessionMax ∧
      (muslinUp full4).muslinOn = true ∧ (muslinUp full4).num Obj.muslinSessionMax ≤ (muslinUp full4).dict.sessions.length) ∧
    (NMap.look (muslinUp [(0x10, session0 none)]).dict.sessions 0x10 = some (session0 none) ∧ (session0 none).src = udp0 ∧
      muslinWordOk (2 ^ 63) [] = true ∧ (session0 (some 65535)).lastSeq = some 65535 ∧ 0 = (65535 + 1) % 65536 ∧
      (session0 (some 7)).lastSeq = some 7 ∧ (session0 (some 7)).saved = some resp0 ∧ 7 ≠ (7 + 1) % 65536 ∧ 9 ≠ (7 + 1) % 65536 ∧ 9 ≠ 7) ∧
    (up.boot.powered = true ∧ (ownsPin .debugTrigger).pinOwner 0 = .debugTrigger ∧ (ownsPin .pps).pinOwner 0 ≠ .none ∧
      (({ ownsPin .pps with integ := { Integ.reset with lastLim := [(0x90050000, 0)] } } : State).bump Obj.auxPulseInvalidTotal 1).limitOpen 0x90050000
        ticksPerS = false) ∧ natBit up.board.coolant 3 = false := by decide +kernel

/-- A flit of a header, zeros and a CRC; peer port 0 on, with a record. -/
def flitBody (h : Nat) : Bytes :=
  natLE 8 h ++ (List.replicate 30 0 ++ (List.replicate 30 0 ++ (List.replicate 30 0 ++ (List.replicate 30 0 ++ (List.replicate 30 0 ++
    (List.replicate 30 0 ++ (List.replicate 30 0 ++ List.replicate 30 0)))))))
def flitOf (h crc : Nat) : Bytes := flitBody h ++ (natLE 4 0 ++ natLE 4 crc)
theorem flitBody_length (h : Nat) : (flitBody h).length = 248 := by
  simp only [flitBody, natLE, List.length_append, List.length_replicate, List.length_cons, List.length_nil]
theorem crc_30 (l : Bytes) (a b : W32) (h : crcFrom a (List.replicate 30 0) = b) : crcFrom a (List.replicate 30 0 ++ l) = crcFrom b l := by
  subst h; simp only [crcFrom, List.foldl_append]
theorem flit_ok (h : Nat) (a c : W32) (ha : crcFrom 0xFFFFFFFF (natLE 8 h) = a)
    (hc : crcFrom a ((flitBody h).drop 8) = c) : flitCrcOk (flitOf h (c ^^^ 0xFFFFFFFF).toNat) = true := by
  have hl := flitBody_length h
  have ht : (flitOf h (c ^^^ 0xFFFFFFFF).toNat).take 248 = flitBody h := by
    rw [flitOf, List.take_append_of_le_length (by omega), List.take_of_length_le (by omega)]
  have hd : ((flitOf h (c ^^^ 0xFFFFFFFF).toNat).drop 252).take 4 = natLE 4 (c ^^^ 0xFFFFFFFF).toNat := by
    have e : (flitOf h (c ^^^ 0xFFFFFFFF).toNat).drop 252 = ((flitOf h (c ^^^ 0xFFFFFFFF).toNat).drop 248).drop 4 := by rw [List.drop_drop]
    rw [e, flitOf, List.drop_left' hl]
    rfl
  have hb : flitBody h = natLE 8 h ++ (flitBody h).drop 8 := rfl
  have hcrc : crc32c (flitBody h) = c ^^^ 0xFFFFFFFF := by
    subst ha hc
    conv_lhs => rw [hb]
    simp only [crc32c, crcFrom, List.foldl_append]
  have hle : leNat (natLE 4 (c ^^^ 0xFFFFFFFF).toNat) = (c ^^^ 0xFFFFFFFF).toNat := by
    simp only [natLE, leNat, BitVec.toNat_ofNat]
    have := (c ^^^ 0xFFFFFFFF).isLt
    omega
  simp only [flitCrcOk, ht, hd, hcrc, hle, beq_self_eq_true, Bool.and_true, decide_eq_true_eq]
  simp only [flitOf, List.length_append, hl, natLE, List.length_cons, List.length_nil]

def peerState (p : Peer) : State := { withFuncs [(funcNo (.peer 0), .on)] with iface := { up.iface with peers := [(0, { p with lanes := 4 })] } }
/-- Port 0 receives a flit that is whole, once its CRC is known to be good. -/
theorem takes_of (s : State) (f : Bytes) (t c h : Nat) (hc : flitCrcOk f = true)
    (hr : (s.peerLive 0 && decide (leNat (f.take 8) = h) && !flitBad f && decide (h / 2 ^ 60 = t) &&
      (decide (t ≠ 2) || decide (h / 2 ^ 19 % 16 = c))) = true) : s.takesFlit 0 f t c h = true := by
  rw [State.takesFlit, hc, Bool.and_true]; exact hr

theorem flit_data : flitCrcOk (flitOf 0x1000000000000000 (0x4315DD13 ^^^ 0xFFFFFFFF : W32).toNat) = true := by
  refine flit_ok _ 0x63898A1A _ (by decide +kernel) ?_
  rw [show (flitBody 0x1000000000000000).drop 8 = List.replicate 30 0 ++ (List.replicate 30 0 ++ (List.replicate 30 0 ++ (List.replicate 30 0 ++ (List.replicate 30 0 ++
    (List.replicate 30 0 ++ (List.replicate 30 0 ++ List.replicate 30 0)))))) from rfl,
    crc_30 _ 0x63898A1A 0x8725AEA8 (by decide +kernel),
    crc_30 _ 0x8725AEA8 0x92BC719B (by decide +kernel),
    crc_30 _ 0x92BC719B 0x4F4889A2 (by decide +kernel),
    crc_30 _ 0x4F4889A2 0xD7B6A3F3 (by decide +kernel),
    crc_30 _ 0xD7B6A3F3 0x52D91DA4 (by decide +kernel),
    crc_30 _ 0x52D91DA4 0xC17F689F (by decide +kernel),
    crc_30 _ 0xC17F689F 0x022CAB14 (by decide +kernel)]
  decide +kernel
theorem flit_copy : flitCrcOk (flitOf 0x1FFF000000000000 (0xD15BEA97 ^^^ 0xFFFFFFFF : W32).toNat) = true := by
  refine flit_ok _ 0x9E7992BD _ (by decide +kernel) ?_
  rw [show (flitBody 0x1FFF000000000000).drop 8 = List.replicate 30 0 ++ (List.replicate 30 0 ++ (List.replicate 30 0 ++ (List.replicate 30 0 ++ (List.replicate 30 0 ++
    (List.replicate 30 0 ++ (List.replicate 30 0 ++ List.replicate 30 0)))))) from rfl,
    crc_30 _ 0x9E7992BD 0xE2E926EC (by decide +kernel),
    crc_30 _ 0xE2E926EC 0xFA29CF7D (by decide +kernel),
    crc_30 _ 0xFA29CF7D 0xC462DB43 (by decide +kernel),
    crc_30 _ 0xC462DB43 0xB61028FB (by decide +kernel),
    crc_30 _ 0xB61028FB 0x821EB544 (by decide +kernel),
    crc_30 _ 0x821EB544 0x6D037D53 (by decide +kernel),
    crc_30 _ 0x6D037D53 0x7C1D404C (by decide +kernel)]
  decide +kernel
theorem flit_idle : flitCrcOk (flitOf 0x0 (0x2D2ECB5D ^^^ 0xFFFFFFFF : W32).toNat) = true := by
  refine flit_ok _ 0x73D74D75 _ (by decide +kernel) ?_
  rw [show (flitBody 0x0).drop 8 = List.replicate 30 0 ++ (List.replicate 30 0 ++ (List.replicate 30 0 ++ (List.replicate 30 0 ++ (List.replicate 30 0 ++
    (List.replicate 30 0 ++ (List.replicate 30 0 ++ List.replicate 30 0)))))) from rfl,
    crc_30 _ 0x73D74D75 0x14D6E6AF (by decide +kernel),
    crc_30 _ 0x14D6E6AF 0x27F2B917 (by decide +kernel),
    crc_30 _ 0x27F2B917 0xE4BF3C1A (by decide +kernel),
    crc_30 _ 0xE4BF3C1A 0xF7D89B24 (by decide +kernel),
    crc_30 _ 0xF7D89B24 0xA1F700D2 (by decide +kernel),
    crc_30 _ 0xA1F700D2 0x8ACABAB1 (by decide +kernel),
    crc_30 _ 0x8ACABAB1 0x667A9BA6 (by decide +kernel)]
  decide +kernel
theorem flit_nak : flitCrcOk (flitOf 0x2000000000000001 (0x48B8CC47 ^^^ 0xFFFFFFFF : W32).toNat) = true := by
  refine flit_ok _ 0x1A56BE8C _ (by decide +kernel) ?_
  rw [show (flitBody 0x2000000000000001).drop 8 = List.replicate 30 0 ++ (List.replicate 30 0 ++ (List.replicate 30 0 ++ (List.replicate 30 0 ++ (List.replicate 30 0 ++
    (List.replicate 30 0 ++ (List.replicate 30 0 ++ List.replicate 30 0)))))) from rfl,
    crc_30 _ 0x1A56BE8C 0x7553A070 (by decide +kernel),
    crc_30 _ 0x7553A070 0x549A7AC5 (by decide +kernel),
    crc_30 _ 0x549A7AC5 0x532528DF (by decide +kernel),
    crc_30 _ 0x532528DF 0xDE962428 (by decide +kernel),
    crc_30 _ 0xDE962428 0x2804E09C (by decide +kernel),
    crc_30 _ 0x2804E09C 0x2C6858E5 (by decide +kernel),
    crc_30 _ 0x2C6858E5 0xC1F2382C (by decide +kernel)]
  decide +kernel
theorem flit_swap : flitCrcOk (flitOf 0x2000000000080001 (0x74EFFA59 ^^^ 0xFFFFFFFF : W32).toNat) = true := by
  refine flit_ok _ 0x7A50A693 _ (by decide +kernel) ?_
  rw [show (flitBody 0x2000000000080001).drop 8 = List.replicate 30 0 ++ (List.replicate 30 0 ++ (List.replicate 30 0 ++ (List.replicate 30 0 ++ (List.replicate 30 0 ++
    (List.replicate 30 0 ++ (List.replicate 30 0 ++ List.replicate 30 0)))))) from rfl,
    crc_30 _ 0x7A50A693 0xEEDA0B61 (by decide +kernel),
    crc_30 _ 0xEEDA0B61 0x901D27F1 (by decide +kernel),
    crc_30 _ 0x901D27F1 0x6BB665C1 (by decide +kernel),
    crc_30 _ 0x6BB665C1 0xDDE2073C (by decide +kernel),
    crc_30 _ 0xDDE2073C 0xD3E3CA5D (by decide +kernel),
    crc_30 _ 0xD3E3CA5D 0x6763800E (by decide +kernel),
    crc_30 _ 0x6763800E 0xCFE7A278 (by decide +kernel)]
  decide +kernel
theorem flit_swapAck : flitCrcOk (flitOf 0x2000000000100000 (0x89F68BFD ^^^ 0xFFFFFFFF : W32).toNat) = true := by
  refine flit_ok _ 0x9366F395 _ (by decide +kernel) ?_
  rw [show (flitBody 0x2000000000100000).drop 8 = List.replicate 30 0 ++ (List.replicate 30 0 ++ (List.replicate 30 0 ++ (List.replicate 30 0 ++ (List.replicate 30 0 ++
    (List.replicate 30 0 ++ (List.replicate 30 0 ++ List.replicate 30 0)))))) from rfl,
    crc_30 _ 0x9366F395 0x04232083 (by decide +kernel),
    crc_30 _ 0x04232083 0xC4619267 (by decide +kernel),
    crc_30 _ 0xC4619267 0xC79ABBA7 (by decide +kernel),
    crc_30 _ 0xC79ABBA7 0xB1ECACA2 (by decide +kernel),
    crc_30 _ 0xB1ECACA2 0xB0656FBC (by decide +kernel),
    crc_30 _ 0xB0656FBC 0x8BB6AF3B (by decide +kernel),
    crc_30 _ 0x8BB6AF3B 0xB2FDCE6A (by decide +kernel)]
  decide +kernel
theorem flit_width : flitCrcOk (flitOf 0x2000000000180001 (0x0C419665 ^^^ 0xFFFFFFFF : W32).toNat) = true := by
  refine flit_ok _ 0xBA5C96AD _ (by decide +kernel) ?_
  rw [show (flitBody 0x2000000000180001).drop 8 = List.replicate 30 0 ++ (List.replicate 30 0 ++ (List.replicate 30 0 ++ (List.replicate 30 0 ++ (List.replicate 30 0 ++
    (List.replicate 30 0 ++ (List.replicate 30 0 ++ List.replicate 30 0)))))) from rfl,
    crc_30 _ 0xBA5C96AD 0xDC252BB2 (by decide +kernel),
    crc_30 _ 0xDC252BB2 0x1CFFEB68 (by decide +kernel),
    crc_30 _ 0x1CFFEB68 0x1A90FFFD (by decide +kernel),
    crc_30 _ 0x1A90FFFD 0xDB0A4114 (by decide +kernel),
    crc_30 _ 0xDB0A4114 0x21C1E92E (by decide +kernel),
    crc_30 _ 0x21C1E92E 0xF17431D8 (by decide +kernel),
    crc_30 _ 0xF17431D8 0xD3CC96D0 (by decide +kernel)]
  decide +kernel
theorem flit_retrain : flitCrcOk (flitOf 0x2000000000200000 (0x00043FB9 ^^^ 0xFFFFFFFF : W32).toNat) = true := by
  refine flit_ok _ 0xD69ED526 _ (by decide +kernel) ?_
  rw [show (flitBody 0x2000000000200000).drop 8 = List.replicate 30 0 ++ (List.replicate 30 0 ++ (List.replicate 30 0 ++ (List.replicate 30 0 ++ (List.replicate 30 0 ++
    (List.replicate 30 0 ++ (List.replicate 30 0 ++ List.replicate 30 0)))))) from rfl,
    crc_30 _ 0xD69ED526 0x532241F6 (by decide +kernel),
    crc_30 _ 0x532241F6 0x54AAB13D (by decide +kernel),
    crc_30 _ 0x54AAB13D 0x54F115E3 (by decide +kernel),
    crc_30 _ 0x54F115E3 0xBAD466DA (by decide +kernel),
    crc_30 _ 0xBAD466DA 0xA3EF7CD8 (by decide +kernel),
    crc_30 _ 0xA3EF7CD8 0x34620BB0 (by decide +kernel),
    crc_30 _ 0x34620BB0 0x96809392 (by decide +kernel)]
  decide +kernel

def port0 : State := peerState Peer.idle
def entryFlit : Nat × Bytes := (0, [])
def portReplay : State := peerState { Peer.idle with replay := [(0, []), (1, [])] }
def portSwap : State := peerState { Peer.idle with swap := some (1, 0) }
theorem witness_PeerPortsAndRemoteAccess_flits :
    (port0.takesFlit 0 (flitOf 0x1000000000000000 (0x4315DD13 ^^^ 0xFFFFFFFF : W32).toNat) 1 0 0x1000000000000000 = true ∧ 0x1000000000000000 / 2 ^ 48 % 4096 = (port0.peer 0).rxSeq) ∧
    (port0.takesFlit 0 (flitOf 0x1FFF000000000000 (0xD15BEA97 ^^^ 0xFFFFFFFF : W32).toNat) 1 0 0x1FFF000000000000 = true ∧ 0x1FFF000000000000 / 2 ^ 48 % 4096 ≠ (port0.peer 0).rxSeq ∧
      behind (0x1FFF000000000000 / 2 ^ 48 % 4096) (port0.peer 0).rxSeq < 2048) ∧
    port0.takesFlit 0 (flitOf 0x0 (0x2D2ECB5D ^^^ 0xFFFFFFFF : W32).toNat) 0 0 0x0 = true ∧
    (portReplay.takesFlit 0 (flitOf 0x2000000000000001 (0x48B8CC47 ^^^ 0xFFFFFFFF : W32).toNat) 2 0 0x2000000000000001 = true ∧
      ((portReplay.takeAck 0 0x2000000000000001).peer 0).replay.any (fun e => e.1 == 0x2000000000000001 % 4096 || decide (2048 ≤ behind e.1 (0x2000000000000001 % 4096))) = true ∧
      ((portReplay.takeAck 0 0x2000000000000001).peer 0).replay.any (fun e => !(e.1 == 0x2000000000000001 % 4096 || decide (2048 ≤ behind e.1 (0x2000000000000001 % 4096)))) = true) ∧
    (port0.takesFlit 0 (flitOf 0x2000000000080001 (0x74EFFA59 ^^^ 0xFFFFFFFF : W32).toNat) 2 1 0x2000000000080001 = true ∧ (((port0.takeAck 0 0x2000000000080001).sendCtl 0 2 0).peer 0).swap = none) ∧
    (portSwap.takesFlit 0 (flitOf 0x2000000000100000 (0x89F68BFD ^^^ 0xFFFFFFFF : W32).toNat) 2 2 0x2000000000100000 = true ∧ ((portSwap.takeAck 0 0x2000000000100000).peer 0).swap = some (1, 0)) ∧
    port0.takesFlit 0 (flitOf 0x2000000000180001 (0x0C419665 ^^^ 0xFFFFFFFF : W32).toNat) 2 3 0x2000000000180001 = true ∧
    (port0.takesFlit 0 (flitOf 0x2000000000200000 (0x00043FB9 ^^^ 0xFFFFFFFF : W32).toNat) 2 4 0x2000000000200000 = true ∧
      (((port0.takeAck 0 0x2000000000200000).peer 0).retrains.filter fun t => !(port0.takeAck 0 0x2000000000200000).passed t ticksPerS).length < 3) :=
  ⟨⟨takes_of _ _ _ _ _ flit_data (by decide +kernel), by decide +kernel⟩, ⟨takes_of _ _ _ _ _ flit_copy (by decide +kernel), by decide +kernel⟩,
    takes_of _ _ _ _ _ flit_idle (by decide +kernel), ⟨takes_of _ _ _ _ _ flit_nak (by decide +kernel), by decide +kernel⟩,
    ⟨takes_of _ _ _ _ _ flit_swap (by decide +kernel), by decide +kernel⟩, ⟨takes_of _ _ _ _ _ flit_swapAck (by decide +kernel), by decide +kernel⟩,
    takes_of _ _ _ _ _ flit_width (by decide +kernel), ⟨takes_of _ _ _ _ _ flit_retrain (by decide +kernel), by decide +kernel⟩⟩

/-- Messages in port 0's receive buffer, over a mapped page; a collective of two ranks that waits for data. -/
def msg0 (vc t : Nat) : PMsg :=
  { vc := vc, mtype := t, len := 1, node := 3, tag := 9, step := 0, addr := 2 ^ 40, data := [⟨0, none⟩], last := true }
def portMsg (m : PMsg) : State :=
  let s := setTo (setTo (peerState { Peer.idle with rx := [m] }) (Obj.poisonPolicy + 2) [1]) Obj.peerAccessRange (natLE 8 (2 ^ 40) ++ natLE 8 (2 ^ 21))
  let t := withPage { s with felt := feltOn } page0
  { t with mem := { (t.makeTables (2 ^ 19)).mem with pages := [(2 ^ 19, page0)] } }
/-- The same with the first sector's line in Felt, and a message of a kind. -/
def portHeld (t : Nat) : State := { portMsg (msg0 0 t) with felt := { feltOn with lines := [(2 ^ 33, lineOf recvWords)] } }
def chanRecv : Channel :=
  { chanDone with words := [0, 2 ^ 33, 0x1000, 0x2000, 128, 0x100, 9, 0] ++ List.replicate 8 0, ranks := [(7, 1), (3, 1)] }
def entryRecv : Entry := { entry0 with kind := .collective, chan := some chanRecv }
def portColl : State := let s := portMsg (msg0 2 4); { s with ledger := { Ledger.reset with entries := [entryRecv] } }
def chanGot : Channel :=
  { chanRecv with got := ((msg0 2 4).data.zip (List.range (msg0 2 4).data.length)).foldl (fun g x => NMap.put g (gotKey (msg0 2 4).step ((msg0 2 4).addr / 32 + x.2)) x.1) chanRecv.got }

theorem witness_PeerPortsAndRemoteAccess :
    (port0.peerLive 0 = true ∧ (portReplay.peer 0).replay ≠ [] ∧ (portReplay.peer 0).replays < 16 ∧ portReplay.peerLive 0 = true) ∧
    (((peerState { Peer.idle with training := true }).peer 0).training = true ∧ ((peerState { Peer.idle with training := true }).peer 0).swapQ = []) ∧
    ((setTo port0 Obj.peerSpareAssign [0, 255, 255, 255]).peerLive 0 = true ∧
      (setTo port0 Obj.peerSpareAssign [0, 255, 255, 255]).freeSpares 0 = [0] ∧ ((setTo port0 Obj.peerSpareAssign [0, 255, 255, 255]).peer 0).swap = none) ∧
    ((portMsg (msg0 0 0)).headMsg 0 0 = some (msg0 0 0) ∧ (portMsg (msg0 0 0)).peerServed 0 = true ∧
      (portMsg (msg0 0 0)).peerBad ((msg0 0 0).addr / 32 * 32) 1 true = none ∧ (portMsg (msg0 0 0)).haltOn 2 = false ∧
      (State.peerStore 0 ((msg0 0 0).addr / 32 * 32) (msg0 0 0).data (portMsg (msg0 0 0))).2 = true) ∧
    ((portMsg (msg0 0 1)).headMsg 0 0 = some (msg0 0 1) ∧ (portMsg (msg0 0 1)).peerServed 0 = true ∧
      (portMsg (msg0 0 1)).peerBad ((msg0 0 1).addr / 32 * 32) 1 false = none ∧
      (State.peerLoad 0 1 ((msg0 0 1).addr / 32 * 32) (portMsg (msg0 0 1))).2.isSome = true ∧
      (State.peerLoad 0 1 ((msg0 0 1).addr / 32 * 32) (portMsg (msg0 0 1))).1.haltOn 2 = false) ∧
    ((peerState { Peer.idle with rx := [msg0 0 0] }).headMsg 0 0 = some (msg0 0 0) ∧
      ((peerState { Peer.idle with rx := [msg0 0 0] }).peerBad ((msg0 0 0).addr / 32 * 32) 1 true).isSome = true) ∧
    ([2, 3, 5].all fun t => (portMsg (msg0 1 t)).headMsg 0 1 == some (msg0 1 t)) = true ∧
    (portColl.headMsg 0 2 = some (msg0 2 4) ∧ portColl.peerServed 0 = true ∧ portColl.collFor (msg0 2 4) = some (entryRecv, chanRecv) ∧
      chanGot.got ≠ chanRecv.got) ∧
    ((portHeld 0).headMsg 0 0 = some (msg0 0 0) ∧ (portHeld 0).peerServed 0 = true ∧ (portHeld 0).peerBad ((msg0 0 0).addr / 32 * 32) 1 true = none ∧
      (∀ v ∈ (msg0 0 0).data, v.mark = none) ∧ (portHeld 0).writable ((msg0 0 0).addr / 32) (mPeer (0 / 9)) = true) ∧
    ((portHeld 1).headMsg 0 0 = some (msg0 0 1) ∧ (portHeld 1).peerBad ((msg0 0 1).addr / 32 * 32) 1 false = none ∧
      (portHeld 1).holds ((msg0 0 1).addr / 32) (mPeer (0 / 9)) = true) := by decide +kernel

/-- The lease held, with an update in a state; a component on trial. -/
def updState (u : UpdSt) (st : CompSt) : State :=
  let s := up
  { s with fw := { Fw.reset with upd := u, comp := 0, comps := { Comp.delivered with status := st } :: List.replicate 3 .delivered } }

theorem witness_UpdatesGoThroughTheirStates :
    ([Obj.updateBegin, Obj.updateData, Obj.updateVerify, Obj.updateCommit, Obj.updateAbort, Obj.updateConfirm].all fun k => up.mayWrite 1 k) = true ∧
    (up.updateRefused 0 = none ∧ up.fw.upd = .idle ∧ (updState .idle .pending).updateRefused 1 = some (dDenied, refusalOrder)) ∧
    ((updState .writing .confirmed).updateRefused 0 = none ∧ (updState .writing .confirmed).fw.busy = false ∧
      (updState .writing .confirmed).fw.offset + 4096 ≤ slotBytes) ∧
    ((updState .verified .confirmed).updateRefused 0 = none ∧ (updState .verified .confirmed).comp 0 = some .delivered ∧ (updState .verified .confirmed).boot.powered = true) ∧
    ((updState .idle .trial).boot.phase = .ready ∧ (updState .idle .trial).comp 0 = some { Comp.delivered with status := .trial } ∧
      (updState .idle .trial).slotBoots { Comp.delivered with status := .trial } Slot.delivered = true ∧
      (setTo (updState .idle .trial) Obj.updateConfirmMode [1]).num Obj.updateConfirmMode = 1) := by decide +kernel

/-- A connection of the host path. -/
def spdmState (x : Spdm) : State := { up with iface := { up.iface with spdmHost := x } }
def spdm3 : Spdm := { Spdm.none with phase := 3, session := true, large := [(1, List.replicate 1025 0)] }

theorem witness_AttestationAnswers :
    (up.spdmOpen .host = true ∧ 2 ≤ ((spdmState spdm3).spdm .host).phase ∧ natBit 256 8 = true ∧ natBit 4 2 = true ∧ (up.spdm .host).phase < 3) ∧
    ((spdmState spdm3).spdmOpen .host = true ∧ 3 ≤ ((spdmState spdm3).spdm .host).phase ∧
      NMap.look ((spdmState spdm3).spdm .host).large 1 = some (List.replicate 1025 0) ∧ 1024 * 1 < (List.replicate 1025 (0 : Byte)).length) ∧
    (((spdmState spdm3).spdm .host).session = true ∧ ((spdmState spdm3).spdm .host).keyed = false) ∧
    (muslinUp []).spdmOpen .muslin = true := by decide +kernel

/-! ### Check values and single steps -/

/-- The check values of CRC-32C, SipHash-2-4 and SHA-512 in their own publications; the base point of P-521 is on its curve. -/
theorem test_crc32c : crc32c [0x31, 0x32, 0x33, 0x34, 0x35, 0x36, 0x37, 0x38, 0x39] = 0xE3069283 := by decide +kernel
theorem test_siphash : sipHash24 0x0706050403020100 0x0f0e0d0c0b0a0908 ((List.range 15).map (BitVec.ofNat 8)) = 0xa129ca6149be45e5 := by
  decide +kernel
theorem test_sha512 : (sha512 [0x61, 0x62, 0x63]).take 8 = [0xDD, 0xAF, 0x35, 0xA1, 0x93, 0x61, 0x7A, 0xBA] := by decide +kernel
theorem test_p521_point : (p521gy * p521gy) % p521p = (p521gx ^ 3 + (p521p - 3) * p521gx + p521b) % p521p := by decide +kernel

/-- Format tables (R87): the greatest finite values 448, 57,344, 28, 7.5 and 6; ties to even in FP32; E4M3 has no infinity. -/
theorem test_formats_max : [3, 4, 5, 6, 7].map (fun c => (ffmt c).decode (ffmt c).maxCode) =
    [.fin ⟨false, 14, 5⟩, .fin ⟨false, 7, 13⟩, .fin ⟨false, 7, 2⟩, .fin ⟨false, 15, -1⟩, .fin ⟨false, 3, 1⟩] := by decide +kernel
theorem test_fp32_ties : fpOp .add 0x3F800000 0x33800000 0 = 0x3F800000 ∧ fpOp .add 0x3F800001 0x33800000 0 = 0x3F800002 := by decide +kernel
theorem test_fma_once : fpOp .fma 0x3F800001 0x3F800001 0xBF800002 = 0x28800000 := by decide +kernel
theorem test_e4m3_top : (ffmt 3).decode 0x7F = .nan ∧ (ffmt 3).decode 0x7E = .fin ⟨false, 14, 5⟩ := by decide +kernel

/-- The home half is the parity of address bits 13, 21, 29 and 37 (R171). -/
theorem test_home_half : homeHalf (2 ^ 13 / 128) = 1 ∧ homeHalf ((2 ^ 13 + 2 ^ 21) / 128) = 0 ∧ homeHalf (2 ^ 37 / 128) = 1 := by decide

/-- The state after a command. -/
def after (c : Instr) (s : State) : State := match exec c s with | .next t => t | .fault _ => s | .refused _ => s

/-- The example of R49: with `RampSyncPin` = MGMT_AUX0 in force, staging `TimeSource` = PPS and `PpsPin` = MGMT_AUX0 and committing is a
CONFLICT, and 0x1300.01 reads RAMP_SYNC; with MGMT_AUX1 in its place the commit takes effect. -/
def syncInForce (pin : Byte) : State :=
  let s := setTo (setTo up Obj.rampSyncPin [1]) Obj.rampCoordination [2]
  let c : Claims := { s.dict.claims with
    aux0 := .rampSync
    timer0 := [.thermalGrace, .barrierWd, .rampSched, .free], timer1 := [.thermalGrace, .barrierWd, .rampSched, .free] }
  { s with dict := { s.dict with claims := c, staged := [(Obj.timeSource, [1]), (Obj.ppsPin, [pin])] } }
theorem test_commit_conflict : (after (.commit 1) (syncInForce 1)).dict.resp.status = dConflict ∧
    (after (.commit 1) (syncInForce 1)).dict.claims.aux0 = .rampSync := by decide +kernel
theorem test_commit_resolved : (after (.commit 1) (syncInForce 2)).dict.resp.status = dOk ∧
    (after (.commit 1) (syncInForce 2)).dict.claims.aux1 = .pps ∧ (after (.commit 1) (syncInForce 2)).dict.staged = [] := by decide +kernel

/-- R26: an object that does not exist is NOOBJ, and subindex 0 is the highest subindex. -/
theorem test_read_noobj : (after (.dictRead 1 0x2FFF 1 0) up).dict.resp.status = dNoObj := by decide +kernel
/-- R27: a write without the lease is DENIED, and a value of the wrong length TYPE. -/
theorem test_write_denied : (after (.dictWrite 1 0x1300 1 0 false [0]) up).dict.resp.status = dDenied := by decide +kernel
/-- R35: LEASE_REQUEST_ACQUIRE takes a free lease. -/
theorem test_lease : (after (.leaseRequestAcquire 1) { up with dict := { up.dict with lease := none } }).dict.lease = some 1 := by decide +kernel
/-- R329: from rest the allowance rises by at most `RampUp` in 10 µs: 250 W/ms is 2.5 W. -/
theorem test_governor_ramp : (after (.governorTick 500 900 0) { up with power := { up.power with allowance := 640000 } }).power.allowance = 642500 := by
  decide +kernel
/-! ### Witnesses: time, frames and invariants -/

/-- `up` with a command waiting. -/
def waiting : State := { up with pending := [.powerOn] }
theorem witness_TimePassesOnAnEmptyQueue : up.pending = [] ∧ up.boot.powered = true ∧ State.reset.boot.powered = false := by decide +kernel
theorem witness_CommandsChangeOnlyTheirFacets : ∃ t, exec .powerOn State.reset = .next t := ⟨_, rfl⟩
theorem witness_MemoriesKeepTheirForm : waiting.memWf = true ∧ ∃ t, step waiting = .next t := ⟨by decide +kernel, _, rfl⟩
theorem witness_TheLockAgreesWithItsCount : waiting.dict.lockOk = true ∧ ∃ t, step waiting = .next t := ⟨by decide +kernel, _, rfl⟩
theorem witness_FloorsAndFusesStand : ∃ t, step waiting = .next t := ⟨_, rfl⟩

end Sys2Proof.Tests
end

section
/-! The dictionary's addressing (R26): what `highestSub` reads from the object tables, the answers to a read of subindex 0 and of an
object that does not exist, and the statement about them. -/

namespace Sys2Proof.Proofs

open Sys2Proof Sys2Proof.Machine Sys2Proof.Laws

/-! ### The object tables and the highest subindex -/

/-- Is a row a range of keys of one index? -/
def rowInOneIndex (r : ObjRow) : Bool := decide (r.first ≤ r.last) && decide (r.first / 256 = r.last / 256)

theorem objTable_rows_in_one_index : objTable.all rowInOneIndex = true := by decide +kernel

theorem mem_objTable_bounds {r : ObjRow} (hr : r ∈ objTable) : r.first ≤ r.last ∧ r.first / 256 = r.last / 256 := by
  simpa [rowInOneIndex] using List.all_eq_true.mp objTable_rows_in_one_index r hr

theorem objRow_ne_none_iff (key : Nat) : objRow key ≠ none ↔ ∃ r ∈ objTable, r.first ≤ key ∧ key ≤ r.last := by
  simp [objRow]

/-- The fold of `highestSub` starts at 0 and moves only to the last key of a row, which is an object's. -/
theorem highestSub_eq_zero_or_used (index : Nat) :
    highestSub index = 0 ∨ (highestSub index < 256 ∧ objRow (index * 256 + highestSub index) ≠ none) := by
  unfold highestSub
  refine List.foldlRecOn (motive := fun h => h = 0 ∨ (h < 256 ∧ objRow (index * 256 + h) ≠ none)) objTable _ (.inl rfl) ?_
  intro h used r hr
  split
  case isFalse => exact used
  case isTrue here =>
    have last_used : r.last % 256 < 256 ∧ objRow (index * 256 + r.last % 256) ≠ none := by
      refine ⟨Nat.mod_lt _ (by decide), (objRow_ne_none_iff _).mpr ⟨r, hr, ?_⟩⟩
      have := (mem_objTable_bounds hr).1
      omega
    rcases max_choice h (r.last % 256) with e | e <;> rw [e]
    · exact used
    · exact .inr last_used

theorem last_sub_le_highestSub {r : ObjRow} (hr : r ∈ objTable) : r.last % 256 ≤ highestSub (r.last / 256) := by
  obtain ⟨before, rest, e⟩ := List.append_of_mem hr
  unfold highestSub
  rw [e, List.foldl_append, List.foldl_cons, if_pos rfl]
  refine List.foldlRecOn (motive := fun h => r.last % 256 ≤ h) rest _ (Nat.le_max_right _ _) ?_
  intro h le q _
  split
  · exact le.trans (Nat.le_max_left _ _)
  · exact le

theorem sub_le_highestSub {index n : Nat} (hn : n < 256) (used : objRow (index * 256 + n) ≠ none) : n ≤ highestSub index := by
  obtain ⟨r, hr, lo, hi⟩ := (objRow_ne_none_iff _).mp used
  have same_index := (mem_objTable_bounds hr).2
  have index_eq : r.last / 256 = index := by omega
  have le := last_sub_le_highestSub hr
  rw [index_eq] at le
  omega

theorem highestSub_eq {index n : Nat} (pos : 0 < n) (hn : n < 256) (used : objRow (index * 256 + n) ≠ none)
    (above : ∀ k, n < k → k < 256 → objRow (index * 256 + k) = none) : highestSub index = n := by
  have le := sub_le_highestSub hn used
  rcases highestSub_eq_zero_or_used index with zero | ⟨lt, last⟩
  · omega
  · exact (le.antisymm (not_lt.mp fun more => last (above _ more lt))).symm

theorem highestSub_eq_zero {index : Nat} (none_used : ∀ n, 0 < n → n < 256 → objRow (index * 256 + n) = none) : highestSub index = 0 :=
  (highestSub_eq_zero_or_used index).elim id fun ⟨lt, used⟩ =>
    Nat.eq_zero_of_not_pos fun pos => used (none_used _ pos lt)

/-! ### Reads that are answered without an object's value -/

/-- A request ends the pieces of an earlier WRITE of its session. -/
def withoutParts (u : State) (sid : Nat) : State := { u with dict := { u.dict with parts := NMap.del u.dict.parts sid } }

/-- The NOOBJ answer to a request that names no object. -/
def noObjAnswer (sid : Nat) : DictResp := { sid := sid, status := dNoObj, rule := 0, total := 0, data := [] }

theorem dictServe_read_sub_zero (u : State) (sid index : Nat) (h : u.served 0 index (index * 256 + 0) = true) :
    u.dictServe sid 0 index 0 0 false true [] =
      (withoutParts u sid, if highestSub index = 0 then noObjAnswer sid else readAnswer sid dOk 0 (natLE 1 (highestSub index))) := by
  have h' : (withoutParts u sid).served 0 index (index * 256 + 0) = true := h
  unfold withoutParts at h' ⊢
  unfold State.dictServe
  dsimp only
  rw [h']
  by_cases none_used : highestSub index = 0 <;> simp [none_used, noObjAnswer]

theorem dictServe_read_no_object (u : State) (sid index sub : Nat) (h : u.served 0 index (index * 256 + sub) = true)
    (hs : sub ≠ 0) (hr : objRow (index * 256 + sub) = none) :
    u.dictServe sid 0 index sub 0 false true [] = (withoutParts u sid, noObjAnswer sid) := by
  have h' : (withoutParts u sid).served 0 index (index * 256 + sub) = true := h
  unfold withoutParts at h' ⊢
  unfold State.dictServe
  dsimp only
  rw [h', hr]
  simp [hs, noObjAnswer]

/-- A session's read whose answer `a` rests on the request alone: the session is given `a`. -/
theorem dictRead_lastAnswer {s : State} {sid index sub : Nat} {a : DictResp} (h : s.serves 0 sid (index * 256 + sub) = true)
    (hs : sub < 256) (ha : a.sid = sid)
    (serve : ∀ u : State, u.served 0 index (index * 256 + sub) = true → u.dictServe sid 0 index sub 0 false true [] = (withoutParts u sid, a)) :
    (dictRead sid index sub 0 s).lastAnswer sid = some a := by
  have isOpen := serves_open h
  have served : s.served 0 index (index * 256 + sub) = true := by
    have hk : (index * 256 + sub) / 256 = index := by omega
    simpa [State.serves, isOpen, hk] using h
  have answered : dictRead sid index sub 0 s = (recd s sid 0 index sub 0 false []).respond a := by
    unfold dictRead
    rw [request_split s _ _ _ _ _ _ _ _ isOpen, recd_split]
    dsimp only
    rw [serve _ (by split <;> exact served), withoutParts]
  rw [answered]
  exact respond_last _ _ _ ((recd_open ..).trans isOpen) ha

theorem serveRead_status_ne_noObj (u : State) (sid : Nat) (r : ObjRow) (key : Nat) : (u.serveRead sid r key).2.1 ≠ dNoObj := by
  unfold State.serveRead
  split
  · change dDenied ≠ dNoObj
    decide
  · change dOk ≠ dNoObj
    decide

theorem dictRead_object_lastAnswer {s : State} {sid index sub : Nat} (h : s.serves 0 sid (index * 256 + sub) = true)
    (hs : sub < 256) (pos : sub ≠ 0) (used : objRow (index * 256 + sub) ≠ none) :
    ∃ a, (dictRead sid index sub 0 s).lastAnswer sid = some a ∧ a.sid = sid ∧ a.status ≠ dNoObj := by
  obtain ⟨r, hr⟩ := Option.ne_none_iff_exists'.mp used
  unfold dictRead
  rw [read_eq s sid index sub 0 r h (Nat.pos_of_ne_zero pos) hs hr rfl (.inl rfl)]
  exact ⟨_, respond_last _ _ _ (by rw [serveRead_open, recd_open, serves_open h]) rfl, rfl, serveRead_status_ne_noObj _ sid r _⟩

/-! ### The statement -/

/-- Settles O9: `highestSub` is the greatest subindex with a row, and a read of subindex 0, of no object and of an object each has its
lemma above. -/
theorem objectsAreAddressedByIndexAndSubindex : Obligations.ObjectsAreAddressedByIndexAndSubindex := by
  unfold Obligations.ObjectsAreAddressedByIndexAndSubindex
  intro s sid index sub _ hsub serves
  refine ⟨?highest, ?absent, ?present⟩
  case highest =>
    intro n zero pos hn used above
    subst zero
    have top := highestSub_eq pos hn used above
    refine ⟨_, rfl, dictRead_lastAnswer serves hsub rfl fun u hu => ?_⟩
    rw [dictServe_read_sub_zero u sid index hu, top, if_neg pos.ne']
  case absent =>
    intro row_absent index_empty
    refine ⟨_, rfl, noObjAnswer sid, dictRead_lastAnswer serves hsub rfl fun u hu => ?_, rfl, rfl, rfl⟩
    by_cases zero : sub = 0
    · subst zero
      rw [dictServe_read_sub_zero u sid index hu, if_pos (highestSub_eq_zero (index_empty rfl))]
    · exact dictServe_read_no_object u sid index sub hu zero (row_absent zero)
  case present =>
    intro pos used
    obtain ⟨a, ha⟩ := dictRead_object_lastAnswer serves hsub pos used
    exact ⟨_, a, rfl, ha⟩

end Sys2Proof.Proofs
end

section
/-! The home half of a line (R171): the bits of `FeltHomeHalfMask`, the parity of an address under it, what a read of the object
answers, and the statement about them. -/

namespace Sys2Proof.Proofs

open Sys2Proof Sys2Proof.Machine Sys2Proof.Laws

/-! ### The mask and the parity under it -/

/-- The value of `FeltHomeHalfMask` on every variant (R171). -/
abbrev homeHalfMask : Nat := 0x2020202000

theorem homeHalfMask_testBit_iff (b : Nat) : homeHalfMask.testBit b = true ↔ b ∈ [13, 21, 29, 37] := by
  rcases Nat.lt_or_ge b 38 with low | high
  · revert b
    decide
  · have clear : homeHalfMask.testBit b = false :=
      Nat.testBit_lt_two_pow ((by decide : homeHalfMask < 2 ^ 38).trans_le (Nat.pow_le_pow_right Nat.two_pos high))
    simp only [clear, List.mem_cons, List.not_mem_nil, or_false, Bool.false_eq_true, false_iff]
    omega

theorem filter_homeHalfMask_testBit : (List.range 64).filter homeHalfMask.testBit = [13, 21, 29, 37] := by decide

/-- The bits of `a` that a mask selects are counted over the mask's own bits. -/
theorem countP_testBit_and (a m n : Nat) :
    (List.range n).countP (fun b => (a &&& m).testBit b) = ((List.range n).filter m.testBit).countP a.testBit := by
  simp only [Nat.testBit_and, List.countP_filter]

theorem countP_testBit_cons (a b : Nat) (l : List Nat) : (b :: l).countP a.testBit = l.countP a.testBit + a / 2 ^ b % 2 := by
  rw [List.countP_cons, ← Nat.toNat_testBit]
  cases a.testBit b <;> rfl

/-- The byte within a line does not reach the bits that decide its half. -/
theorem homeHalf_div (a : Nat) : homeHalf (a / 128) = (a / 2 ^ 13 + a / 2 ^ 21 + a / 2 ^ 29 + a / 2 ^ 37) % 2 := by
  unfold homeHalf
  dsimp only
  omega

theorem homeHalf_eq_parity (a : Nat) :
    homeHalf (a / 128) = (List.range 64).countP (fun b => (a &&& homeHalfMask).testBit b) % 2 := by
  rw [homeHalf_div, countP_testBit_and, filter_homeHalfMask_testBit]
  simp only [countP_testBit_cons, List.countP_nil]
  omega

/-! ### The object's reading -/

theorem row_feltHomeHalfMask :
    objRow Obj.feltHomeHalfMask = some ⟨0x300004, 0x300004, .u64, .ro, 8, 8, .any, 0⟩ := by decide +kernel

theorem objValue_ro (s : State) (sid : Nat) {key : Nat} {r : ObjRow} (hr : objRow key = some r) (ro : r.acc = .ro) :
    s.objValue sid key = s.readRo sid key r.lenLo := by
  simp only [State.objValue, hr, ro, if_true]

/-- Chapter 7's reading of the key is the mask, whatever the state and the session. -/
theorem readRo_feltHomeHalfMask (s : State) (sid len : Nat) : s.readRo sid Obj.feltHomeHalfMask len = natLE 8 homeHalfMask := rfl

theorem objValue_feltHomeHalfMask (s : State) (sid : Nat) : s.objValue sid Obj.feltHomeHalfMask = natLE 8 homeHalfMask := by
  rw [objValue_ro s sid row_feltHomeHalfMask rfl, readRo_feltHomeHalfMask]

/-- A read of a read-only object answers with its value in force. -/
theorem serveRead_ro (u : State) (sid : Nat) {r : ObjRow} {key : Nat} (ro : r.acc = .ro) (hk : key ≠ Obj.lockPasswordNew) :
    (u.serveRead sid r key).2 = (dOk, u.objValue sid key) := by
  unfold State.serveRead
  simp [ro, hk]

theorem dictRead_ro_lastAnswer {s : State} {sid index sub : Nat} {r : ObjRow} (h : s.serves 0 sid (index * 256 + sub) = true)
    (pos : 0 < sub) (hs : sub < 256) (hr : objRow (index * 256 + sub) = some r) (ro : r.acc = .ro)
    (hk : index * 256 + sub ≠ Obj.lockPasswordNew) :
    (dictRead sid index sub 0 s).lastAnswer sid =
      some (readAnswer sid dOk 0 ((recd s sid 0 index sub 0 false []).objValue sid (index * 256 + sub))) := by
  unfold dictRead
  rw [read_eq s sid index sub 0 r h pos hs hr rfl (.inl rfl), serveRead_ro _ sid ro hk]
  exact respond_last _ _ _ (by rw [serveRead_open, recd_open, serves_open h]) rfl

/-! ### The statement -/

/-- Settles O10: the parity counts the mask's four bits, and the object is read-only with the mask as its value in every state. -/
theorem theHomeHalfIsTheParityOfTheMask : Obligations.TheHomeHalfIsTheParityOfTheMask := by
  unfold Obligations.TheHomeHalfIsTheParityOfTheMask
  refine ⟨homeHalf_eq_parity, homeHalfMask_testBit_iff, fun s sid serves => ⟨_, rfl, ?reading⟩⟩
  rw [dictRead_ro_lastAnswer serves (by decide) (by decide) row_feltHomeHalfMask rfl (by decide)]
  exact congrArg (fun v => some (readAnswer sid dOk 0 v)) (objValue_feltHomeHalfMask _ sid)

end Sys2Proof.Proofs
end

section
/-! PROTECT in its turn (R209): what it does to the pages and to the lines of Felt, those that a retiring bank group still holds among
them, and the refutation of the statement that it changes no line but those in a home bank. -/

namespace Sys2Proof.Proofs

open Sys2Proof Sys2Proof.Machine Sys2Proof.Laws

/-! ### What PROTECT in its turn does -/

theorem look_map_if_key {α : Type} (m : NMap α) (c : Nat → Bool) (f : α → α) (k : Nat) :
    NMap.look (m.map fun e => if c e.1 then (e.1, f e.2) else e) k = (NMap.look m k).map fun v => if c k then f v else v := by
  induction m with
  | nil => rfl
  | cons e m ih =>
    obtain ⟨j, v⟩ := e
    by_cases same : j = k
    · subst same
      cases inside : c j <;> simp [NMap.look, inside]
    · cases inside : c j <;> simp [NMap.look, inside, same, ih]

/-- Is a page one of the `n` from `vpn` on? -/
def inPages (vpn n v : Nat) : Bool := decide (vpn ≤ v) && decide (v < vpn + n)

/-- WRITE of the range's pages, and of its lines in the home banks and in the retiring bank groups, set to `w`. -/
def protectRange (vpn n : Nat) (w : Bool) (s : State) : State :=
  { s with
    mem := { s.mem with pages := s.mem.pages.map fun p => if inPages vpn n p.1 then (p.1, { p.2 with write := w }) else p }
    felt := { s.felt with
      lines := s.felt.lines.map fun l => if inPages vpn n (l.1 / 16384) then (l.1, { l.2 with write := w }) else l
      leaving := s.felt.leaving.map fun l => if inPages vpn n (l.1 / 16384) then (l.1, { l.2 with write := w }) else l } }

theorem protect_inTurn {s : State} {seq vpn n : Nat} {e : Entry} (entry : s.entry seq = some e) (kind : e.kind = .protect)
    (turn : s.mapTurn e = true) (range : e.mapRange = some (vpn, n)) :
    protect seq s = ((protectRange vpn n ((e.word 5).getLsbD 61) s).ranNow seq).finish seq stOk 0 0 := by
  simp only [protect, entry, kind, turn, range]
  rfl

/-- R209 as the model has it: a line that a retiring bank group still holds takes the WRITE bit as every other line of the range does. -/
theorem protect_changes_only_write {s t : State} {seq vpn n : Nat} {e : Entry} (entry : s.entry seq = some e)
    (kind : e.kind = .protect) (waiting : e.isFinished = false) (turn : s.mapTurn e = true) (range : e.mapRange = some (vpn, n))
    (next : exec (.protect seq) s = .next t) :
    SameBut [.tables, .felt, .ledger] s t ∧ (t.entry seq).map (·.status) = some (.finished stOk 0 0) ∧
      (∀ v, NMap.look t.mem.pages v = (NMap.look s.mem.pages v).map fun p =>
        if inPages vpn n v then { p with write := (e.word 5).getLsbD 61 } else p) ∧
      { t.mem with pages := [] } = { s.mem with pages := [] } ∧
      (∀ k, NMap.look t.felt.lines k = (NMap.look s.felt.lines k).map fun l =>
        if inPages vpn n (k / 16384) then { l with write := (e.word 5).getLsbD 61 } else l) ∧
      (∀ k, NMap.look t.felt.leaving k = (NMap.look s.felt.leaving k).map fun l =>
        if inPages vpn n (k / 16384) then { l with write := (e.word 5).getLsbD 61 } else l) ∧
      { t.felt with lines := [], leaving := [] } = { s.felt with lines := [], leaving := [] } := by
  obtain rfl : protect seq s = t := Host.Outcome.next.inj next
  refine ⟨protect_same rfl seq s (SameBut.refl _ s), ?_⟩
  rw [protect_inTurn entry kind turn range]
  have page_look := look_map_if_key s.mem.pages (inPages vpn n) fun p => { p with write := (e.word 5).getLsbD 61 }
  have line_look (m : NMap FLine) := look_map_if_key m (fun k => inPages vpn n (k / 16384)) fun l =>
    { l with write := (e.word 5).getLsbD 61 }
  exact ⟨ran_finish _ seq stOk e entry waiting, page_look, rfl, line_look _, line_look _, rfl⟩

/-! ### A line of the range that a retiring bank group still holds -/

/-- A writable page. -/
def writablePage : Page :=
  { write := true, tier := 0, pin := false, lost := false, frame := 200, destTier := 0, destFrame := 0, migrating := false
    zeromask := 0, touched := 0, heat := 0, migrations := 0, copied := 0, lastEnd := none, mig := none }

/-- A dirty sector, and a writable line of dirty sectors: one that a retiring bank group keeps until its new home accepts it. -/
def dirtySector : FSector := { present := true, dirty := true, fetching := false, master := 0, val := ⟨0, none⟩ }
def writableLine : FLine := { way := 0, write := true, sectors := List.replicate 4 dirtySector, red := none }

/-- A waiting PROTECT that clears WRITE of page 0. -/
def protectEntry : Entry :=
  { seq := 0, kind := .protect, words := [0, 0, 0, 0, 2 ^ 21, 0, 0, 0], status := .waiting, ran := false, sats := 0, kern := none
    chan := none, step := 0 }

/-- A module in service with page 0 mapped, whose bank group 0 of half 0 retires and still holds line 0 (R198). -/
def retiringState : State :=
  { State.reset with
    boot := { Boot.reset with powered := true, phase := .ready }
    mem := { Mem.reset with pages := [(0, writablePage)] }
    felt := { Felt.reset with retiring := [(0, 0)], remapped := [(0, 0)], leaving := [(0, writableLine)], accepts := true }
    ledger := { Ledger.reset with enable := true, st := .running, entries := [protectEntry] } }

theorem retiringState_mapTurn : retiringState.mapTurn protectEntry = true := by decide +kernel

theorem protectEntry_mapRange : protectEntry.mapRange = some (0, 1) := by decide +kernel

/-- The PROTECT clears WRITE of the line that the retiring bank group holds. -/
theorem retiringState_leaving_after_protect {t : State} (next : exec (.protect 0) retiringState = .next t) :
    NMap.look t.felt.leaving 0 = some { writableLine with write := false } := by
  obtain ⟨-, -, -, -, -, leaving, -⟩ :=
    protect_changes_only_write (e := protectEntry) rfl rfl rfl retiringState_mapTurn protectEntry_mapRange next
  exact leaving 0

/-- Refutes O11: R209 changes WRITE in each Felt line of the range, and so in a line that a retiring bank group still holds (R198), which
the model keeps in `leaving`; the statement has all of Felt but `lines` as it was. -/
theorem not_protectChangesOnlyWrite : ¬ Obligations.ProtectChangesOnlyWrite := by
  unfold Obligations.ProtectChangesOnlyWrite
  intro claim
  obtain ⟨t, next, -, -, -, -, -, felt⟩ :=
    claim retiringState 0 0 1 protectEntry rfl rfl rfl retiringState_mapTurn protectEntry_mapRange
  have kept : t.felt.leaving = [(0, writableLine)] := congrArg Felt.leaving felt
  have cleared : NMap.look [(0, writableLine)] 0 = some { writableLine with write := false } :=
    kept ▸ retiringState_leaving_after_protect next
  exact absurd cleared (by decide)

end Sys2Proof.Proofs
end

section
/-! Retirement of a bank group by its bundle (R304, R198): what a retirement and the stop of work after a fault leave of Felt, what
failed signals of a bank-group bundle come to, and the statement about them. -/

namespace Sys2Proof.Proofs

open Sys2Proof Sys2Proof.Machine Sys2Proof.Laws

/-! ### The lists of retirements, and what leaves them -/

/-- The bank groups that retire, and those that have retired, stand. -/
def SameRetirements (s t : State) : Prop := t.felt.retiring = s.felt.retiring ∧ t.felt.retired = s.felt.retired

theorem SameRetirements.refl (s : State) : SameRetirements s s := ⟨rfl, rfl⟩

theorem SameRetirements.trans {s t u : State} (h : SameRetirements s t) (k : SameRetirements t u) : SameRetirements s u :=
  ⟨k.1.trans h.1, k.2.trans h.2⟩

theorem SameRetirements.of_sameBut {l : List Facet} {s t : State} (h : SameBut l s t) (hl : Facet.felt ∉ l) : SameRetirements s t := by
  rw [SameRetirements, felt_of_same h hl]
  exact ⟨rfl, rfl⟩

theorem SameRetirements.foldl {α : Type} {f : State → α → State} (each : ∀ t x, SameRetirements t (f t x)) (l : List α) (s : State) :
    SameRetirements s (l.foldl f s) :=
  List.foldlRecOn l f (.refl s) fun t ht x _ => ht.trans (each t x)

theorem bump_sameRetirements (s : State) (k n : Nat) : SameRetirements s (s.bump k n) :=
  .of_sameBut (State_bump_same rfl s k n (SameBut.refl _ _)) (by decide : Facet.felt ∉ ps6)

theorem charge_sameRetirements (s : State) (target cls : Nat) : SameRetirements s (s.charge target cls) := by
  obtain ⟨c, b, p, read⟩ := charge_view s target cls
  rw [read]
  exact ⟨rfl, rfl⟩

theorem writeBack_sameRetirements (s : State) (line : Nat) (l : FLine) (cls : Nat) : SameRetirements s (s.writeBack line l cls) :=
  .of_sameBut (State_writeBack_same rfl s line l cls (SameBut.refl _ _)) (by decide : Facet.felt ∉ ps107)

theorem deadMarkers_sameRetirements (s : State) (line : Nat) : SameRetirements s (s.deadMarkers line) :=
  .of_sameBut (State_deadMarkers_same rfl s line (SameBut.refl _ _)) (by decide : Facet.felt ∉ ps107)

theorem deferOldest_sameRetirements (s : State) (l : List (Nat × FLine)) : SameRetirements s (s.deferOldest l) := by
  unfold State.deferOldest
  dsimp only
  split
  · exact .refl s
  · split
    · exact .refl s
    · exact bump_sameRetirements (s.setLine ..) ..

theorem findWay_sameRetirements (s : State) (line cls : Nat) : SameRetirements s (s.findWay line cls).1 := by
  unfold State.findWay
  dsimp only
  split
  · exact .refl s
  · split
    · split
      · exact writeBack_sameRetirements s ..
      · exact .refl s
    · exact deferOldest_sameRetirements ..

theorem moveLine_sameRetirements (s : State) (line : Nat) (l : FLine) : SameRetirements s (s.moveLine line l) := by
  have way := findWay_sameRetirements s line (mScrub (homeHalf line))
  unfold State.moveLine
  dsimp only
  split
  · exact deferOldest_sameRetirements ..
  · split
    next found => rwa [found] at way
    next t w found =>
      rw [found] at way
      have moved : SameRetirements t (t.setLine line { l with way := w }) := ⟨rfl, rfl⟩
      have charged := SameRetirements.foldl (fun u (_ : FSector) => charge_sameRetirements u 0 (mScrub (homeHalf line)))
        (l.sectors.filter fun x => x.present) (t.setLine line { l with way := w })
      exact (way.trans moved).trans charged

theorem moveLeaving_sameRetirements (s : State) : SameRetirements s s.moveLeaving :=
  .foldl (fun t (e : Nat × FLine) => moveLine_sameRetirements t e.1 e.2) ..

theorem trimDead_sameRetirements (s : State) (half : Nat) : SameRetirements s (s.trimDead half) := by
  refine .foldl (fun t line => ?_) ..
  split
  · exact deadMarkers_sameRetirements t line
  · exact .refl t

/-! ### A retirement decided -/

/-- R198: the decision marks the group, and nothing it does thereafter changes what retires or has retired. -/
theorem startRetire_marks_retiring (s : State) (half grp : Nat) :
    (s.startRetire half grp).felt.retiring = s.felt.retiring ++ [(half, grp)] ∧ (s.startRetire half grp).felt.retired = s.felt.retired := by
  unfold State.startRetire
  dsimp only
  exact (trimDead_sameRetirements (State.reassign _ half grp) half).trans (moveLeaving_sameRetirements _)

theorem retireGroup_mem (s : State) (half grp : Nat) :
    (half, grp) ∈ (s.retireGroup half grp).felt.retiring ∨ (half, grp) ∈ (s.retireGroup half grp).felt.retired := by
  unfold State.retireGroup
  split
  next already => simpa using already
  next =>
    left
    rw [(startRetire_marks_retiring s half grp).1]
    exact List.mem_append_right _ (List.mem_singleton_self _)

/-! ### What follows a fault leaves Felt, but for the requests of threads that wait -/

/-- Felt with other requests waiting. -/
def SameFeltButWaiting (s t : State) : Prop := ∃ w, t.felt = { s.felt with waiting := w }

theorem SameFeltButWaiting.of_sameBut {l : List Facet} {s t : State} (h : SameBut l s t) (hl : Facet.felt ∉ l) : SameFeltButWaiting s t :=
  ⟨s.felt.waiting, felt_of_same h hl⟩

theorem SameFeltButWaiting.trans {s t u : State} (h : SameFeltButWaiting s t) (k : SameFeltButWaiting t u) : SameFeltButWaiting s u := by
  obtain ⟨w, ht⟩ := h
  obtain ⟨v, hu⟩ := k
  exact ⟨v, by rw [hu, ht]⟩

theorem SameFeltButWaiting.ite {s t u : State} {p : Prop} [Decidable p] (ht : SameFeltButWaiting s t) (hu : SameFeltButWaiting s u) :
    SameFeltButWaiting s (if p then t else u) := by
  split <;> assumption

theorem noteEnds_felt (s : State) : s.noteEnds.felt = s.felt :=
  felt_of_same (State_noteEnds_same rfl s (SameBut.refl _ _)) (by decide : Facet.felt ∉ ps16)

/-- R264: a thread's request that waits goes with its block. -/
theorem cancelAll_sameFeltButWaiting (s : State) : SameFeltButWaiting s s.cancelAll := by
  unfold State.cancelAll
  exact ⟨_, noteEnds_felt _⟩

theorem startComputeReset_sameFeltButWaiting (s : State) (unplanned : Bool) :
    SameFeltButWaiting s (s.startComputeReset unplanned) := by
  have withdrawn := SameFeltButWaiting.of_sameBut (State_withdrawCommit_same rfl s.cancelAll (SameBut.refl _ _)) (by decide : Facet.felt ∉ ps53)
  have released := SameFeltButWaiting.of_sameBut (State_releaseFloor_same rfl s.cancelAll.withdrawCommit (SameBut.refl _ _))
    (by decide : Facet.felt ∉ ps18)
  exact ((cancelAll_sameFeltButWaiting s).trans withdrawn).trans released

theorem idleActions_sameFeltButWaiting (s : State) : SameFeltButWaiting s s.idleActions := by
  unfold State.idleActions
  extract_lets paused
  have pause : SameFeltButWaiting s paused := by
    refine .of_sameBut ?_ (by decide : Facet.felt ∉ ps34)
    exact SameBut.ite (State_pauseNow_same rfl s (SameBut.refl _ _)) (SameBut.refl _ _)
  exact .ite (pause.trans (startComputeReset_sameFeltButWaiting paused true)) pause

theorem afterFault_sameFeltButWaiting (s : State) : SameFeltButWaiting s s.afterFault :=
  (SameFeltButWaiting.of_sameBut (State_refuseCoops_same rfl s (SameBut.refl _ _)) (by decide : Facet.felt ∉ ps16)).trans
    (idleActions_sameFeltButWaiting _)

/-! ### Failed signals of a bank-group bundle -/

theorem steer_felt (k n : Nat) (s : State) : (State.steer k n s).felt = s.felt :=
  felt_of_same (State_steer_same rfl k n s (SameBut.refl _ _)) (by decide : Facet.felt ∉ ps63)

theorem steer_sparesLeft (k n : Nat) (s : State) : (State.steer k n s).sparesLeft k = s.sparesLeft k - n := by
  unfold State.sparesLeft
  rw [(steer_core k n s).1, Nat.sub_add_eq]

theorem bundleSignalFailed_bank_beyond {s : State} {h g n : Nat} (ok : s.bundleOk (.bank h g) = true)
    (beyond : s.sparesLeft (bundleKey (.bank h g)) < n) : bundleSignalFailed (.bank h g) n s = s.retireGroup h g := by
  simp [bundleSignalFailed, ok, beyond, Nat.ne_zero_of_lt beyond]

theorem bundleSignalFailed_bank_last {s : State} {h g n : Nat} (ok : s.bundleOk (.bank h g) = true) (pos : 0 < n)
    (last : n = s.sparesLeft (bundleKey (.bank h g))) :
    bundleSignalFailed (.bank h g) n s = (State.steer (bundleKey (.bank h g)) n s).retireGroup h g := by
  simp [bundleSignalFailed, ok, pos.ne', steer_sparesLeft, ← last]

theorem bundleSignalFailed_bank_spared {s : State} {h g n : Nat} (ok : s.bundleOk (.bank h g) = true) (pos : 0 < n)
    (spared : n < s.sparesLeft (bundleKey (.bank h g))) :
    bundleSignalFailed (.bank h g) n s = State.steer (bundleKey (.bank h g)) n s := by
  simp [bundleSignalFailed, ok, pos.ne', steer_sparesLeft, spared.not_gt, Nat.sub_ne_zero_of_lt spared]

/-- R304: the signals consume the last spare or exceed the spares left, and what they come to is a retirement of the group. -/
theorem bundleSignalFailed_bank_spent {s : State} {h g n : Nat} (ok : s.bundleOk (.bank h g) = true) (pos : 0 < n)
    (spent : n = s.sparesLeft (bundleKey (.bank h g)) ∨ s.sparesLeft (bundleKey (.bank h g)) < n) :
    ∃ u : State, bundleSignalFailed (.bank h g) n s = u.retireGroup h g := by
  rcases spent with last | beyond
  · exact ⟨_, bundleSignalFailed_bank_last ok pos last⟩
  · exact ⟨_, bundleSignalFailed_bank_beyond ok beyond⟩

/-! ### The statement -/

/-- Settles O12: spent spares make the signals a retirement of the group, spares enough make them a change of spares, and what follows
the fault keeps Felt but for its waiting requests. -/
theorem spentBundlesRetireTheirBankGroup : Obligations.SpentBundlesRetireTheirBankGroup := by
  unfold Obligations.SpentBundlesRetireTheirBankGroup
  intro s h g n ok pos
  obtain ⟨w, felt⟩ := afterFault_sameFeltButWaiting (bundleSignalFailed (.bank h g) n s)
  refine ⟨(bundleSignalFailed (.bank h g) n s).afterFault, rfl, fun spent => ?retires, fun spared => ?stands⟩
  case retires =>
    obtain ⟨u, retired⟩ := bundleSignalFailed_bank_spent ok pos spent
    rw [felt, retired]
    exact retireGroup_mem u h g
  case stands =>
    rw [felt, bundleSignalFailed_bank_spared ok pos spared, steer_felt]
    exact ⟨rfl, rfl, rfl⟩

end Sys2Proof.Proofs
end

section
/-! What every command keeps and what it leaves unchanged: one case for each command, and the statements about them. -/

set_option Elab.async false

namespace Sys2Proof.Proofs

open Sys2Proof Sys2Proof.Machine Sys2Proof.Laws

/-- What holds of the state that an outcome goes to. -/
def GoesTo (P : State → Prop) (o : Out) : Prop := ∃ t, o = .next t ∧ P t

theorem GoesTo.of_next {P : State → Prop} {o : Out} {t : State} (h : GoesTo P o) (next : o = .next t) : P t := by
  obtain ⟨u, eq, holds⟩ := h
  exact next_inj (eq.symm.trans next) ▸ holds

theorem GoesTo.next {P : State → Prop} {t : State} (h : P t) : GoesTo P (.next t) := ⟨t, rfl, h⟩

/-! ### Writes to one object -/

/-- A trigger other than COMMIT takes a write at any time (R28). -/
theorem closedTo_trigger (t : State) (sid : Nat) {r : ObjRow} {key : Nat} (wo : r.acc = .wo) (hk : key ≠ Obj.commit) :
    t.closedTo sid r key = none := by
  simp [State.closedTo, wo, hk]

/-- A read-write object takes a write at any time (R28). -/
theorem closedTo_rw (t : State) (sid : Nat) {r : ObjRow} (key : Nat) (rw : r.acc = .rw) : t.closedTo sid r key = none := by
  simp [State.closedTo, rw]

theorem dictPut_trigger_frame {fl : List Facet} {s : State} {sid key : Nat} {v : Bytes} {r : ObjRow}
    (answer : subL [.window, .sessions] fl = true) (row : objRow key = some r) (sub : key % 256 ≠ 0) (wo : r.acc = .wo)
    (hk : key ≠ Obj.commit) (act : ∀ t, SameBut fl s t → SameBut fl s (t.writeValue sid r key v).1) :
    SameBut fl s (s.dictPut sid key v) :=
  dictPut_frame answer s sid key v r row sub (.inr fun t => .inr (closedTo_trigger t sid wo hk)) (SameBut.refl _ s) act

theorem dictPut_rw_frame {fl : List Facet} {s : State} {sid key : Nat} {v : Bytes} {r : ObjRow}
    (answer : subL [.window, .sessions] fl = true) (row : objRow key = some r) (sub : key % 256 ≠ 0) (rw : r.acc = .rw)
    (act : ∀ t, SameBut fl s t → SameBut fl s (t.writeValue sid r key v).1) : SameBut fl s (s.dictPut sid key v) :=
  dictPut_frame answer s sid key v r row sub (.inr fun t => .inr (closedTo_rw t sid key rw)) (SameBut.refl _ s) act

theorem sameBut_with_det {fl : List Facet} {s t : State} {d : Det} (hd : fl.contains .det = true) (h : SameBut fl s t) :
    SameBut fl s { t with det := d } := by
  intro p hp
  have same := h p hp
  cases p with
  | det => exact absurd (List.contains_iff_mem.mp hd) hp
  | _ => exact same

/-- A step counter is any value of eight bytes, so that no free choice between two refusals is drawn (R28). -/
theorem stepCounterWrite_frame (s : State) (sid value : Nat) :
    SameBut [.window, .sessions, .det] s (s.dictPutNum sid Obj.stepCounter 8 value) := by
  have good (t : State) : t.valueFault ⟨0x340006, 0x340006, .u64, .rwi, 8, 8, .any, 0⟩ Obj.stepCounter (natLE 8 value) = none := rfl
  refine dictPut_frame rfl s sid _ _ _ row_stepCounter (by decide) (.inr fun t => .inl (good t)) (SameBut.refl _ s) fun t h => ?_
  rw [write_stepCounter]
  split
  · exact sameBut_with_det rfl h
  · exact h

theorem ledgerWrite_on_frame {fl : List Facet} {s : State} (t : State) (hl : subL [.counters, .ledger, .integ] fl = true)
    (h : SameBut fl s t) : SameBut fl s (t.ledgerWrite true).1 := by
  rw [State.ledgerWrite, if_pos rfl]
  split
  · exact h
  · exact State_ledgerStart_same (subL_trans rfl hl) t h

/-- The facets that the enable and disable rows of the ports touch. -/
abbrev switchFacets : List Facet :=
  [.settings, .counters, .window, .sessions, .commits, .hbm, .tier, .tables, .bw, .ledger, .integ, .funcs, .power]

theorem tier2Switch_frame (s : State) (sid port n : Nat) :
    SameBut switchFacets s (s.dictPutNum sid (portKey Obj.tier2Enable0 2 port) 1 n) := by
  rcases (by omega : port = 0 ∨ port = 1 ∨ 2 ≤ port) with rfl | rfl | absent
  · exact dictPut_rw_frame rfl row_tier2Enable0 (by decide) rfl fun t h => State_funcWrite_same rfl t _ _ _ h
  · exact dictPut_rw_frame rfl row_tier2Enable1 (by decide) rfl fun t h => State_funcWrite_same rfl t _ _ _ h
  · rw [portKey, if_neg absent.not_gt]
    exact dictPut_absent rfl s sid _ _ (by decide +kernel) (by decide) (SameBut.refl _ s)

theorem peerSwitch_frame (s : State) (sid port n : Nat) :
    SameBut switchFacets s (s.dictPutNum sid (portKey Obj.peerPortEnable 18 port) 1 n) := by
  rcases Nat.lt_or_ge port 18 with present | absent
  · rw [portKey, if_pos present]
    refine dictPut_rw_frame rfl (row_peer port present) ?_ rfl fun t h => ?_
    · simp only [Obj.peerPortEnable]
      omega
    · rw [write_peer t sid port present]
      exact State_funcWrite_same rfl t _ _ _ h
  · rw [portKey, if_neg absent.not_gt]
    exact dictPut_absent rfl s sid _ _ (by decide +kernel) (by decide) (SameBut.refl _ s)

/-! ### Reads -/

theorem dictRead_frame (s : State) (sid index sub offset : Nat) :
    SameBut [.window, .sessions, .lock, .draws] s (dictRead sid index sub offset s) :=
  dictRequest_read rfl s sid 0 index sub offset false true [] (by decide) (SameBut.refl _ s)
    (.inr fun t r h => State_serveRead_same rfl t sid r _ h)

theorem dictReadStaged_frame (s : State) (sid index sub offset : Nat) :
    SameBut [.window, .sessions] s (dictReadStaged sid index sub offset s) :=
  dictRequest_read rfl s sid 2 index sub offset false true [] (by decide) (SameBut.refl _ s) (.inl rfl)

/-! ### Every command -/

/-- Every command keeps the queue, the fused values, the SVN floors, the form of the memories and the field lock's count. -/
theorem exec_keeps (c : Instr) (s : State) : GoesTo (Keeps s) (exec c s) := by
  cases c with
  | dictRead sid index sub offset => exact .next (dictRead_keeps sid index sub offset s (Keeps.refl s))
  | dictWrite sid index sub offset more data => exact .next (dictWrite_keeps sid index sub offset more data s (Keeps.refl s))
  | dictReadStaged sid index sub offset => exact .next (dictReadStaged_keeps sid index sub offset s (Keeps.refl s))
  | leaseRequestAcquire sid => exact .next (State_dictPutNum_keeps s sid Obj.leaseRequest 1 1 (Keeps.refl s))
  | leaseRequestRelease sid => exact .next (State_dictPutNum_keeps s sid Obj.leaseRequest 1 0 (Keeps.refl s))
  | leaseBreak sid => exact .next (State_dictPutNum_keeps s sid Obj.leaseBreak 1 1 (Keeps.refl s))
  | leaseExpired => exact .next (leaseExpired_keeps s (Keeps.refl s))
  | sessionIdleTimeout sid => exact .next (sessionIdleTimeout_keeps sid s (Keeps.refl s))
  | lockPassword sid password => exact .next (State_dictPut_keeps s sid Obj.lockPassword password (Keeps.refl s))
  | lockResponse sid sig => exact .next (State_dictPut_keeps s sid Obj.lockResponse sig (Keeps.refl s))
  | lockNonce sid => exact .next (lockNonce_keeps sid s (Keeps.refl s))
  | lockClose sid => exact .next (State_dictPutNum_keeps s sid Obj.lockClose 1 1 (Keeps.refl s))
  | lockOpenTimeExpiry => exact .next (lockOpenTimeExpiry_keeps s (Keeps.refl s))
  | lockBlockExpiry => exact .next (lockBlockExpiry_keeps s (Keeps.refl s))
  | commit sid => exact .next (State_dictPutNum_keeps s sid Obj.commit 1 1 (Keeps.refl s))
  | stageDiscard sid => exact .next (State_dictPutNum_keeps s sid Obj.stageDiscard 1 1 (Keeps.refl s))
  | settingsSave sid => exact .next (State_dictPutNum_keeps s sid Obj.settingsSave 1 1 (Keeps.refl s))
  | commitWaitExpiry => exact .next (commitWaitExpiry_keeps s (Keeps.refl s))
  | stepBoundary => exact .next (stepBoundary_keeps s (Keeps.refl s))
  | tieringEnable sid => exact .next (State_dictPutNum_keeps s sid Obj.tieringEnable 1 1 (Keeps.refl s))
  | tieringDisable sid => exact .next (State_dictPutNum_keeps s sid Obj.tieringEnable 1 0 (Keeps.refl s))
  | scrubEnable sid => exact .next (State_dictPutNum_keeps s sid Obj.scrubEnable 1 1 (Keeps.refl s))
  | scrubDisable sid => exact .next (State_dictPutNum_keeps s sid Obj.scrubEnable 1 0 (Keeps.refl s))
  | tier2Enable sid port => exact .next (State_dictPutNum_keeps s sid (portKey Obj.tier2Enable0 2 port) 1 1 (Keeps.refl s))
  | tier2Disable sid port => exact .next (State_dictPutNum_keeps s sid (portKey Obj.tier2Enable0 2 port) 1 0 (Keeps.refl s))
  | peerPortEnable sid port => exact .next (State_dictPutNum_keeps s sid (portKey Obj.peerPortEnable 18 port) 1 1 (Keeps.refl s))
  | peerPortDisable sid port => exact .next (State_dictPutNum_keeps s sid (portKey Obj.peerPortEnable 18 port) 1 0 (Keeps.refl s))
  | enableSequenceComplete fn ok => exact .next (State_afterFault_keeps _ (enableSequenceComplete_keeps fn ok s (Keeps.refl s)))
  | shutdownComplete fn => exact .next (shutdownComplete_keeps fn s (Keeps.refl s))
  | domainGateStepGrant domain offset amps => exact .next (domainGateStepGrant_keeps domain offset amps s (Keeps.refl s))
  | domainEnableFailed domain => exact .next (State_afterFault_keeps _ (domainEnableFailed_keeps domain s (Keeps.refl s)))
  | missue g word hit => exact .next (missue_keeps g word hit s (Keeps.refl s))
  | mwait g word hit => exact .next (mwait_keeps g word hit s (Keeps.refl s))
  | mpoll g word hit => exact .next (mpoll_keeps g word hit s (Keeps.refl s))
  | convert g word hit => exact .next (convert_keeps g word hit s (Keeps.refl s))
  | matrixDispatch tile => exact .next (State_displaceBallast_keeps _ (matrixDispatch_keeps tile s (Keeps.refl s)))
  | gauzeFrontStart tile sub wait => exact .next (gauzeFrontStart_keeps tile sub wait s (Keeps.refl s))
  | gauzeFrontResume tile sub wait => exact .next (gauzeFrontResume_keeps tile sub wait s (Keeps.refl s))
  | flushLoad tile sub => exact .next (State_displaceBallast_keeps _ (flushLoad_keeps tile sub s (Keeps.refl s)))
  | shapeChange tile => exact .next (State_displaceBallast_keeps _ (shapeChange_keeps tile s (Keeps.refl s)))
  | activationRowIssue tile sub hit err =>
    exact .next (State_afterFault_keeps _ (activationRowIssue_keeps tile sub hit err s (Keeps.refl s)))
  | resultBankDrain tile bank hit => exact .next (State_afterFault_keeps _ (resultBankDrain_keeps tile bank hit s (Keeps.refl s)))
  | matrixComplete tile bank => exact .next (matrixComplete_keeps tile bank s (Keeps.refl s))
  | matrixCounterClear sid => exact .next (State_dictPutNum_keeps s sid Obj.matrixCounterClear 1 1 (Keeps.refl s))
  | conversionStart tile err => exact .next (conversionStart_keeps tile err s (Keeps.refl s))
  | conversionComplete tile => exact .next (conversionComplete_keeps tile s (Keeps.refl s))
  | formatCounterClear sid => exact .next (State_dictPutNum_keeps s sid Obj.formatCounterClear 1 1 (Keeps.refl s))
  | blockAdmit seq tile => exact .next (blockAdmit_keeps seq tile s (Keeps.refl s))
  | branch g kind ipdom hit => exact .next (branch_keeps g kind ipdom hit s (Keeps.refl s))
  | exit g => exact .next (exit_keeps g s (Keeps.refl s))
  | fp32Arith g op vd va vb vc hit => exact .next (fp32Arith_keeps g op vd va vb vc hit s (Keeps.refl s))
  | shfl g vd va vi hit => exact .next (shfl_keeps g vd va vi hit s (Keeps.refl s))
  | vote g kind vd vp hit => exact .next (vote_keeps g kind vd vp hit s (Keeps.refl s))
  | redux g op vd va hit => exact .next (redux_keeps g op vd va hit s (Keeps.refl s))
  | ldsSts g dir width va vd err hit => exact .next (ldsSts_keeps g dir width va vd err hit s (Keeps.refl s))
  | ldcStc g dir width rank va vd err hit => exact .next (ldcStc_keeps g dir width rank va vd err hit s (Keeps.refl s))
  | bar g word => exact .next (bar_keeps g word s (Keeps.refl s))
  | cbar g word => exact .next (cbar_keeps g word s (Keeps.refl s))
  | gbar g word => exact .next (gbar_keeps g word s (Keeps.refl s))
  | gbarComplete seq => exact .next (gbarComplete_keeps seq s (Keeps.refl s))
  | barrierWdPulse => exact .next (barrierWdPulse_keeps s (Keeps.refl s))
  | blockExitComplete b => exact .next (blockExitComplete_keeps b s (Keeps.refl s))
  | execCounterClear sid => exact .next (State_dictPutNum_keeps s sid Obj.execCounterClear 1 1 (Keeps.refl s))
  | ld g width va vd err hit => exact .next (ld_keeps g width va vd err hit s (Keeps.refl s))
  | st g width va vd hit => exact .next (st_keeps g width va vd hit s (Keeps.refl s))
  | fence g word => exact .next (fence_keeps g word s (Keeps.refl s))
  | lldrop g word hit => exact .next (lldrop_keeps g word hit s (Keeps.refl s))
  | redl g word hit => exact .next (redl_keeps g word hit s (Keeps.refl s))
  | reduceSpill line => exact .next (reduceSpill_keeps line s (Keeps.refl s))
  | spillCombineReturn line err unit => exact .next (spillCombineReturn_keeps line err unit s (Keeps.refl s))
  | feltFillReturn sector err replays => exact .next (feltFillReturn_keeps sector err replays s (Keeps.refl s))
  | tableWalkReturn half page west east err => exact .next (tableWalkReturn_keeps half page west east err s (Keeps.refl s))
  | feltFlushClean sid => exact .next (State_dictPutNum_keeps s sid Obj.feltFlush 1 1 (Keeps.refl s))
  | feltFlushInvalidate sid => exact .next (State_dictPutNum_keeps s sid Obj.feltFlush 1 2 (Keeps.refl s))
  | feltFlushComplete => exact .next (feltFlushComplete_keeps s (Keeps.refl s))
  | bankRetireMovesComplete half group => exact .next (bankRetireMovesComplete_keeps half group s (Keeps.refl s))
  | feltCounterClear sid => exact .next (State_dictPutNum_keeps s sid Obj.feltCounterClear 1 1 (Keeps.refl s))
  | map seq => exact .next (map_keeps seq s (Keeps.refl s))
  | unmap seq => exact .next (unmap_keeps seq s (Keeps.refl s))
  | protect seq => exact .next (protect_keeps seq s (Keeps.refl s))
  | hostMemRead offset => exact .next (hostMemRead_keeps offset s (Keeps.refl s))
  | hostMemWrite offset data => exact .next (hostMemWrite_keeps offset data s (Keeps.refl s))
  | tier2LinkWaitExpiry port => exact .next (tier2LinkWaitExpiry_keeps port s (Keeps.refl s))
  | migrationEpochEnd => exact .next (migrationEpochEnd_keeps s (Keeps.refl s))
  | migrationStart page => exact .next (migrationStart_keeps page s (Keeps.refl s))
  | subpageCopyComplete page err => exact .next (subpageCopyComplete_keeps page err s (Keeps.refl s))
  | migrationSourceFree page => exact .next (migrationSourceFree_keeps page s (Keeps.refl s))
  | tierCounterClear sid => exact .next (State_dictPutNum_keeps s sid Obj.tierCounterClear 1 1 (Keeps.refl s))
  | bwIntervalBoundary loads => exact .next (bwIntervalBoundary_keeps loads s (Keeps.refl s))
  | bwCounterClear sid => exact .next (State_dictPutNum_keeps s sid Obj.bwCounterClear 1 1 (Keeps.refl s))
  | ledgerEnableOn sid => exact .next (State_dictPutNum_keeps s sid Obj.ledgerEnable 1 1 (Keeps.refl s))
  | ledgerEnableOff sid => exact .next (State_dictPutNum_keeps s sid Obj.ledgerEnable 1 0 (Keeps.refl s))
  | headLineLoss writes cacheError => exact .next (headLineLoss_keeps writes cacheError s (Keeps.refl s))
  | ledgerNop => exact .next (ledgerNop_keeps s (Keeps.refl s))
  | ledgerKernel => exact .next (ledgerKernel_keeps s (Keeps.refl s))
  | ledgerCollective => exact .next (ledgerCollective_keeps s (Keeps.refl s))
  | ledgerCopy => exact .next (ledgerCopy_keeps s (Keeps.refl s))
  | ledgerMap => exact .next (ledgerMap_keeps s (Keeps.refl s))
  | ledgerUnmap => exact .next (ledgerUnmap_keeps s (Keeps.refl s))
  | ledgerProtect => exact .next (ledgerProtect_keeps s (Keeps.refl s))
  | consumedCountWrite count cacheError => exact .next (consumedCountWrite_keeps count cacheError s (Keeps.refl s))
  | kernelDispatch seq => exact .next (kernelDispatch_keeps seq s (Keeps.refl s))
  | collectiveDispatch seq stage => exact .next (collectiveDispatch_keeps seq stage s (Keeps.refl s))
  | copyDispatch seq host stage => exact .next (copyDispatch_keeps seq host stage s (Keeps.refl s))
  | entryComplete seq cacheError => exact .next (entryComplete_keeps seq cacheError s (Keeps.refl s))
  | eventRecord cacheError => exact .next (eventRecord_keeps cacheError s (Keeps.refl s))
  | schedPause sid => exact .next (State_dictPutNum_keeps s sid Obj.schedPause 1 1 (Keeps.refl s))
  | schedResume sid => exact .next (State_dictPutNum_keeps s sid Obj.schedResume 1 1 (Keeps.refl s))
  | preemptSaveComplete seq tile => exact .next (preemptSaveComplete_keeps seq tile s (Keeps.refl s))
  | blockRestore seq tile => exact .next (blockRestore_keeps seq tile s (Keeps.refl s))
  | runtimeLimitExpiry seq => exact .next (runtimeLimitExpiry_keeps seq s (Keeps.refl s))
  | schedCounterClear sid => exact .next (State_dictPutNum_keeps s sid Obj.schedCounterClear 1 1 (Keeps.refl s))
  | stepCounterWrite sid value => exact .next (State_dictPutNum_keeps s sid Obj.stepCounter 8 value (Keeps.refl s))
  | rng g word hit => exact .next (rng_keeps g word hit s (Keeps.refl s))
  | rngProbe sid input => exact .next (State_dictPut_keeps s sid Obj.rngProbeInput input (Keeps.refl s))
  | resumeApply sid record => exact .next (State_dictPut_keeps s sid Obj.resumeApply record (Keeps.refl s))
  | scrubPaceTick half hbm count errs behind => exact .next (scrubPaceTick_keeps half hbm count errs behind s (Keeps.refl s))
  | bundleSignalFailed b signals => exact .next (State_afterFault_keeps _ (bundleSignalFailed_keeps b signals s (Keeps.refl s)))
  | bundleSpareComplete b => exact .next (bundleSpareComplete_keeps b s (Keeps.refl s))
  | errorLogAck sid value => exact .next (State_dictPutNum_keeps s sid Obj.errorLogAck 4 value (Keeps.refl s))
  | integrityCounterClear sid => exact .next (State_dictPutNum_keeps s sid Obj.integrityCounterClear 1 1 (Keeps.refl s))
  | governorTick power demand amps => exact .next (governorTick_keeps power demand amps s (Keeps.refl s))
  | stageFailed stage => exact .next (stageFailed_keeps stage s (Keeps.refl s))
  | cellFailed group => exact .next (State_afterFault_keeps _ (cellFailed_keeps group s (Keeps.refl s)))
  | railCellFailed g => exact .next (railCellFailed_keeps g s (Keeps.refl s))
  | fleeceHoldMaxExpiry => exact .next (fleeceHoldMaxExpiry_keeps s (Keeps.refl s))
  | slotFrameStart => exact .next (slotFrameStart_keeps s (Keeps.refl s))
  | slotSyncLost => exact .next (slotSyncLost_keeps s (Keeps.refl s))
  | syncLineFramePulse pin => exact .next (syncLineFramePulse_keeps pin s (Keeps.refl s))
  | syncLineReleasePulse pin => exact .next (syncLineReleasePulse_keeps pin s (Keeps.refl s))
  | inputLow millivolts => exact .next (inputLow_keeps millivolts s (Keeps.refl s))
  | inputHoldup millivolts => exact .next (inputHoldup_keeps millivolts s (Keeps.refl s))
  | inputHigh millivolts => exact .next (inputHigh_keeps millivolts s (Keeps.refl s))
  | inputNormal millivolts => exact .next (inputNormal_keeps millivolts s (Keeps.refl s))
  | brownoutHoldExpiry => exact .next (brownoutHoldExpiry_keeps s (Keeps.refl s))
  | inputBelow40V => exact .next (inputBelow40V_keeps s (Keeps.refl s))
  | powerCounterClear sid => exact .next (State_dictPutNum_keeps s sid Obj.powerCounterClear 1 1 (Keeps.refl s))
  | refclkLost => exact .next (refclkLost_keeps s (Keeps.refl s))
  | refclkHoldoverExpiry => exact .next (refclkHoldoverExpiry_keeps s (Keeps.refl s))
  | refclkReturn => exact .next (refclkReturn_keeps s (Keeps.refl s))
  | aonTrim => exact .next (aonTrim_keeps s (Keeps.refl s))
  | clockStepComplete tile => exact .next (clockStepComplete_keeps tile s (Keeps.refl s))
  | idleNapDelayExpiry ptile => exact .next (idleNapDelayExpiry_keeps ptile s (Keeps.refl s))
  | idleOffDelayExpiry ptile => exact .next (idleOffDelayExpiry_keeps ptile s (Keeps.refl s))
  | tileWakeComplete ptile => exact .next (tileWakeComplete_keeps ptile s (Keeps.refl s))
  | moduleStateActive sid => exact .next (State_dictPutNum_keeps s sid Obj.moduleStateRequest 1 0 (Keeps.refl s))
  | moduleStateStandby sid => exact .next (State_dictPutNum_keeps s sid Obj.moduleStateRequest 1 1 (Keeps.refl s))
  | moduleStateDormant sid => exact .next (State_dictPutNum_keeps s sid Obj.moduleStateRequest 1 2 (Keeps.refl s))
  | moduleStateChangeComplete => exact .next (moduleStateChangeComplete_keeps s (Keeps.refl s))
  | sensorSample readings estimates => exact .next (sensorSample_keeps readings estimates s (Keeps.refl s))
  | thermalGraceExpiry => exact .next (thermalGraceExpiry_keeps s (Keeps.refl s))
  | thermalAccept sid => exact .next (State_dictPutNum_keeps s sid Obj.thermalAccept 1 1 (Keeps.refl s))
  | thermalCounterClear sid => exact .next (State_dictPutNum_keeps s sid Obj.thermalCounterClear 1 1 (Keeps.refl s))
  | ppsEdge pin => exact .next (ppsEdge_keeps pin s (Keeps.refl s))
  | timeSourceLost => exact .next (timeSourceLost_keeps s (Keeps.refl s))
  | perfSample => exact .next (perfSample_keeps s (Keeps.refl s))
  | powerOn => exact .next (powerOn_keeps s (Keeps.refl s))
  | linkTrained link width rate node capacityMiB bandwidth ide =>
    exact .next (linkTrained_keeps link width rate node capacityMiB bandwidth ide s (Keeps.refl s))
  | linkQualWindowEnd link errors received uncorrectable =>
    exact .next (linkQualWindowEnd_keeps link errors received uncorrectable s (Keeps.refl s))
  | linkTrainingDeadline link => exact .next (linkTrainingDeadline_keeps link s (Keeps.refl s))
  | hbmFillComplete badGranules => exact .next (hbmFillComplete_keeps badGranules s (Keeps.refl s))
  | broadcastPacket core packet => exact .next (broadcastPacket_keeps core packet s (Keeps.refl s))
  | broadcastRoundEnd => exact .next (broadcastRoundEnd_keeps s (Keeps.refl s))
  | selftestComplete failed => exact .next (selftestComplete_keeps failed s (Keeps.refl s))
  | bringupComplete elapsedMs => exact .next (bringupComplete_keeps elapsedMs s (Keeps.refl s))
  | halfManagerWatchdog => exact .next (halfManagerWatchdog_keeps s (Keeps.refl s))
  | fullReset sid => exact .next (State_dictPutNum_keeps s sid Obj.fullReset 1 1 (Keeps.refl s))
  | computeReset sid => exact .next (State_dictPutNum_keeps s sid Obj.computeReset 1 1 (Keeps.refl s))
  | computeResetBegin => exact .next (computeResetBegin_keeps s (Keeps.refl s))
  | shortSelftestComplete failed elapsedMs => exact .next (shortSelftestComplete_keeps failed elapsedMs s (Keeps.refl s))
  | hostLinkDown => exact .next (hostLinkDown_keeps s (Keeps.refl s))
  | hostLinkUp width rate ide => exact .next (hostLinkUp_keeps width rate ide s (Keeps.refl s))
  | irqHoldoffExpiry => exact .next (irqHoldoffExpiry_keeps s (Keeps.refl s))
  | tier2LinkDown port => exact .next (tier2LinkDown_keeps port s (Keeps.refl s))
  | tier2LinkUp port => exact .next (tier2LinkUp_keeps port s (Keeps.refl s))
  | expanderEventPoll port uncorrectable => exact .next (expanderEventPoll_keeps port uncorrectable s (Keeps.refl s))
  | dataFlit port flit codewordOk => exact .next (dataFlit_keeps port flit codewordOk s (Keeps.refl s))
  | idleFlit port flit codewordOk => exact .next (idleFlit_keeps port flit codewordOk s (Keeps.refl s))
  | nak port flit codewordOk => exact .next (nak_keeps port flit codewordOk s (Keeps.refl s))
  | laneSwap port flit codewordOk => exact .next (laneSwap_keeps port flit codewordOk s (Keeps.refl s))
  | laneSwapAck port flit codewordOk => exact .next (laneSwapAck_keeps port flit codewordOk s (Keeps.refl s))
  | width port flit codewordOk => exact .next (width_keeps port flit codewordOk s (Keeps.refl s))
  | retrain port flit codewordOk => exact .next (retrain_keeps port flit codewordOk s (Keeps.refl s))
  | replayTimeout port => exact .next (replayTimeout_keeps port s (Keeps.refl s))
  | peerRetrainComplete port => exact .next (peerRetrainComplete_keeps port s (Keeps.refl s))
  | laneFailed port lane => exact .next (laneFailed_keeps port lane s (Keeps.refl s))
  | write port => exact .next (write_keeps port s (Keeps.refl s))
  | read port => exact .next (read_keeps port s (Keeps.refl s))
  | readData port => exact .next (readData_keeps port s (Keeps.refl s))
  | writeAck port => exact .next (writeAck_keeps port s (Keeps.refl s))
  | collData port => exact .next (collData_keeps port s (Keeps.refl s))
  | error port => exact .next (error_keeps port s (Keeps.refl s))
  | halfLinkRetrainFailed => exact .next (halfLinkRetrainFailed_keeps s (Keeps.refl s))
  | muslinOpen src => exact .next (muslinOpen_keeps src s (Keeps.refl s))
  | muslinClose src session => exact .next (muslinClose_keeps src session s (Keeps.refl s))
  | request src session seq word data => exact .next (request_keeps src session seq word data s (Keeps.refl s))
  | beacon src _ slotCount slotLength node _ => exact .next (beacon_keeps src slotCount slotLength node s (Keeps.refl s))
  | release _ => exact .next (release_keeps s (Keeps.refl s))
  | time tai _ _ => exact .next (time_keeps tai s (Keeps.refl s))
  | muslinFrameDiscard => exact .next (muslinFrameDiscard_keeps s (Keeps.refl s))
  | interfaceCounterClear sid => exact .next (State_dictPutNum_keeps s sid Obj.interfaceCounterClear 1 1 (Keeps.refl s))
  | updateBegin sid component => exact .next (State_dictPutNum_keeps s sid Obj.updateBegin 1 component (Keeps.refl s))
  | updateEraseComplete => exact .next (updateEraseComplete_keeps s (Keeps.refl s))
  | updateData sid data => exact .next (State_dictPut_keeps s sid Obj.updateData data (Keeps.refl s))
  | updateProgramComplete => exact .next (updateProgramComplete_keeps s (Keeps.refl s))
  | updateVerify sid => exact .next (State_dictPutNum_keeps s sid Obj.updateVerify 1 1 (Keeps.refl s))
  | updateVerifyComplete => exact .next (updateVerifyComplete_keeps s (Keeps.refl s))
  | updateCommit sid => exact .next (State_dictPutNum_keeps s sid Obj.updateCommit 1 1 (Keeps.refl s))
  | updateCommitReset sid => exact .next (State_dictPutNum_keeps s sid Obj.updateCommit 1 2 (Keeps.refl s))
  | updateAbort sid => exact .next (State_dictPutNum_keeps s sid Obj.updateAbort 1 1 (Keeps.refl s))
  | updateConfirm sid => exact .next (State_dictPutNum_keeps s sid Obj.updateConfirm 1 1 (Keeps.refl s))
  | updateTrialTimeout => exact .next (updateTrialTimeout_keeps s (Keeps.refl s))
  | getVersion path => exact .next (getVersion_keeps path s (Keeps.refl s))
  | getCapabilities path => exact .next (getCapabilities_keeps path s (Keeps.refl s))
  | negotiateAlgorithms path asym hash dhe aead =>
    exact .next (negotiateAlgorithms_keeps path asym hash dhe aead s (Keeps.refl s))
  | getDigests path => exact .next (getDigests_keeps path s (Keeps.refl s))
  | getCertificate path slot offset length => exact .next (getCertificate_keeps path slot offset length s (Keeps.refl s))
  | challenge path slot nonce => exact .next (challenge_keeps path slot nonce s (Keeps.refl s))
  | getMeasurements path index nonce => exact .next (getMeasurements_keeps path index nonce s (Keeps.refl s))
  | chunkSend path handle seq last data => exact .next (chunkSend_keeps path handle seq last data s (Keeps.refl s))
  | chunkGet path handle seq => exact .next (chunkGet_keeps path handle seq s (Keeps.refl s))
  | keyEx path exchange => exact .next (keyEx_keeps path exchange s (Keeps.refl s))
  | finish path mac => exact .next (finish_keeps path mac s (Keeps.refl s))
  | endSession path => exact .next (endSession_keeps path s (Keeps.refl s))
  | pwrEnDeassert => exact .next (pwrEnDeassert_keeps s (Keeps.refl s))
  | powerOffComplete => exact .next (powerOffComplete_keeps s (Keeps.refl s))
  | pwrEnAssert => exact .next (pwrEnAssert_keeps s (Keeps.refl s))
  | resetN => exact .next (resetN_keeps s (Keeps.refl s))
  | hostPerstN => exact .next (hostPerstN_keeps s (Keeps.refl s))
  | debugTrigger pin => exact .next (debugTrigger_keeps pin s (Keeps.refl s))
  | auxPulseInvalid pin micros => exact .next (auxPulseInvalid_keeps pin micros s (Keeps.refl s))
  | inputTripped cause => exact .next (inputTripped_keeps cause s (Keeps.refl s))
  | coolantCheck inletDeci deltaPDeci dewDeci inletHigh flowLow dewLow =>
    exact .next (coolantCheck_keeps inletDeci deltaPDeci dewDeci inletHigh flowLow dewLow s (Keeps.refl s))
  | boardCounterClear sid => exact .next (State_dictPutNum_keeps s sid Obj.boardCounterClear 1 1 (Keeps.refl s))
  | copyHostAccessWaitExpiry seq => exact .next (copyHostAccessWaitExpiry_keeps seq s (Keeps.refl s))
  | hdmDecoderCommit gib => exact .next (hdmDecoderCommit_keeps gib s (Keeps.refl s))
  | inputTripRearm => exact .next (inputTripRearm_keeps s (Keeps.refl s))
  | halfWidthMoveComplete ptile => exact .next (halfWidthMoveComplete_keeps ptile s (Keeps.refl s))

/-- Every command changes no facet but those that `touches` names for it. -/
theorem exec_same (c : Instr) (s : State) : GoesTo (SameBut (touches c) s) (exec c s) := by
  cases c with
  | dictRead sid index sub offset => exact .next (dictRead_frame s sid index sub offset)
  | dictWrite sid index sub offset more data =>
    exact .next (dictWrite_same rfl sid index sub offset more data s (SameBut.refl _ s))
  | dictReadStaged sid index sub offset => exact .next (dictReadStaged_frame s sid index sub offset)
  | leaseRequestAcquire sid =>
    exact .next (dictPut_trigger_frame rfl row_leaseRequest (by decide) rfl (by decide) fun t h => State_takeLease_same rfl t sid h)
  | leaseRequestRelease sid =>
    exact .next (dictPut_trigger_frame rfl row_leaseRequest (by decide) rfl (by decide) fun t h => State_giveLease_same rfl t sid h)
  | leaseBreak sid =>
    exact .next (dictPut_trigger_frame rfl row_leaseBreak (by decide) rfl (by decide) fun t h => State_breakLease_same rfl t sid h)
  | leaseExpired => exact .next (leaseExpired_same rfl s (SameBut.refl _ s))
  | sessionIdleTimeout sid => exact .next (sessionIdleTimeout_same rfl sid s (SameBut.refl _ s))
  | lockPassword sid password =>
    exact .next (dictPut_trigger_frame rfl row_lockPassword (by decide) rfl (by decide) fun t h => State_tryPassword_same rfl t sid _ h)
  | lockResponse sid sig =>
    exact .next (dictPut_trigger_frame rfl row_lockResponse (by decide) rfl (by decide) fun t h => State_tryResponse_same rfl t sid _ h)
  | lockNonce sid => exact .next (dictRead_frame s sid _ _ _)
  | lockClose sid =>
    exact .next (dictPut_trigger_frame rfl row_lockClose (by decide) rfl (by decide) fun t h => State_shutLock_same rfl t sid h)
  | lockOpenTimeExpiry => exact .next (lockOpenTimeExpiry_same rfl s (SameBut.refl _ s))
  | lockBlockExpiry => exact .next (lockBlockExpiry_same rfl s (SameBut.refl _ s))
  | commit sid => exact .next (dictPut_frame rfl s sid _ _ _ row_commit (by decide) (.inl rfl) (SameBut.refl _ s) fun t h =>
      State_commitNow_same rfl t sid h)
  | stageDiscard sid =>
    exact .next (dictPut_trigger_frame rfl row_stageDiscard (by decide) rfl (by decide) fun t h => State_discardStage_same rfl t h)
  | settingsSave sid =>
    exact .next (dictPut_trigger_frame rfl row_settingsSave (by decide) rfl (by decide) fun t h => State_saveSettings_same rfl t h)
  | commitWaitExpiry => exact .next (commitWaitExpiry_same rfl s (SameBut.refl _ s))
  | stepBoundary => exact .next (stepBoundary_same rfl s (SameBut.refl _ s))
  | tieringEnable sid =>
    exact .next (dictPut_rw_frame rfl row_tieringEnable (by decide) rfl fun t h => State_funcWrite_same rfl t _ _ _ h)
  | tieringDisable sid =>
    exact .next (dictPut_rw_frame rfl row_tieringEnable (by decide) rfl fun t h => State_funcWrite_same rfl t _ _ _ h)
  | scrubEnable sid =>
    exact .next (dictPut_rw_frame rfl row_scrubEnable (by decide) rfl fun t h => State_funcWrite_same rfl t _ _ _ h)
  | scrubDisable sid =>
    exact .next (dictPut_rw_frame rfl row_scrubEnable (by decide) rfl fun t h => State_funcWrite_same rfl t _ _ _ h)
  | tier2Enable sid port => exact .next (tier2Switch_frame s sid port _)
  | tier2Disable sid port => exact .next (tier2Switch_frame s sid port _)
  | peerPortEnable sid port => exact .next (peerSwitch_frame s sid port _)
  | peerPortDisable sid port => exact .next (peerSwitch_frame s sid port _)
  | enableSequenceComplete fn ok =>
    exact .next (State_afterFault_same rfl _ (enableSequenceComplete_same rfl fn ok s (SameBut.refl _ s)))
  | shutdownComplete fn => exact .next (shutdownComplete_same rfl fn s (SameBut.refl _ s))
  | domainGateStepGrant domain offset amps => exact .next (domainGateStepGrant_same rfl domain offset amps s (SameBut.refl _ s))
  | domainEnableFailed domain =>
    exact .next (State_afterFault_same rfl _ (domainEnableFailed_same rfl domain s (SameBut.refl _ s)))
  | missue g word hit => exact .next (missue_same rfl g word hit s (SameBut.refl _ s))
  | mwait g word hit => exact .next (mwait_same rfl g word hit s (SameBut.refl _ s))
  | mpoll g word hit => exact .next (mpoll_same rfl g word hit s (SameBut.refl _ s))
  | convert g word hit => exact .next (convert_same rfl g word hit s (SameBut.refl _ s))
  | matrixDispatch tile => exact .next (State_displaceBallast_same rfl _ (matrixDispatch_same rfl tile s (SameBut.refl _ s)))
  | gauzeFrontStart tile sub wait => exact .next (gauzeFrontStart_same rfl tile sub wait s (SameBut.refl _ s))
  | gauzeFrontResume tile sub wait => exact .next (gauzeFrontResume_same rfl tile sub wait s (SameBut.refl _ s))
  | flushLoad tile sub => exact .next (State_displaceBallast_same rfl _ (flushLoad_same rfl tile sub s (SameBut.refl _ s)))
  | shapeChange tile => exact .next (State_displaceBallast_same rfl _ (shapeChange_same rfl tile s (SameBut.refl _ s)))
  | activationRowIssue tile sub hit err =>
    exact .next (State_afterFault_same rfl _ (activationRowIssue_same rfl tile sub hit err s (SameBut.refl _ s)))
  | resultBankDrain tile bank hit =>
    exact .next (State_afterFault_same rfl _ (resultBankDrain_same rfl tile bank hit s (SameBut.refl _ s)))
  | matrixComplete tile bank => exact .next (matrixComplete_same rfl tile bank s (SameBut.refl _ s))
  | matrixCounterClear sid =>
    exact .next (dictPut_trigger_frame rfl row_matrixCounterClear (by decide) rfl (by decide) fun t h =>
      State_clearCounters_same rfl _ _ _ (State_clearCounters_same rfl _ _ _ (State_clearCounters_same rfl _ _ _ h)))
  | conversionStart tile err => exact .next (conversionStart_same rfl tile err s (SameBut.refl _ s))
  | conversionComplete tile => exact .next (conversionComplete_same rfl tile s (SameBut.refl _ s))
  | formatCounterClear sid =>
    exact .next (dictPut_trigger_frame rfl row_formatCounterClear (by decide) rfl (by decide) fun t h => State_clearCounters_same rfl _ _ _ h)
  | blockAdmit seq tile => exact .next (blockAdmit_same rfl seq tile s (SameBut.refl _ s))
  | branch g kind ipdom hit => exact .next (branch_same rfl g kind ipdom hit s (SameBut.refl _ s))
  | exit g => exact .next (exit_same rfl g s (SameBut.refl _ s))
  | fp32Arith g op vd va vb vc hit => exact .next (fp32Arith_same rfl g op vd va vb vc hit s (SameBut.refl _ s))
  | shfl g vd va vi hit => exact .next (shfl_same rfl g vd va vi hit s (SameBut.refl _ s))
  | vote g kind vd vp hit => exact .next (vote_same rfl g kind vd vp hit s (SameBut.refl _ s))
  | redux g op vd va hit => exact .next (redux_same rfl g op vd va hit s (SameBut.refl _ s))
  | ldsSts g dir width va vd err hit => exact .next (ldsSts_same rfl g dir width va vd err hit s (SameBut.refl _ s))
  | ldcStc g dir width rank va vd err hit => exact .next (ldcStc_same rfl g dir width rank va vd err hit s (SameBut.refl _ s))
  | bar g word => exact .next (bar_same rfl g word s (SameBut.refl _ s))
  | cbar g word => exact .next (cbar_same rfl g word s (SameBut.refl _ s))
  | gbar g word => exact .next (gbar_same rfl g word s (SameBut.refl _ s))
  | gbarComplete seq => exact .next (gbarComplete_same rfl seq s (SameBut.refl _ s))
  | barrierWdPulse => exact .next (barrierWdPulse_same rfl s (SameBut.refl _ s))
  | blockExitComplete b => exact .next (blockExitComplete_same rfl b s (SameBut.refl _ s))
  | execCounterClear sid =>
    exact .next (dictPut_trigger_frame rfl row_execCounterClear (by decide) rfl (by decide) fun t h => State_clearCounters_same rfl _ _ _ h)
  | ld g width va vd err hit => exact .next (ld_same rfl g width va vd err hit s (SameBut.refl _ s))
  | st g width va vd hit => exact .next (st_same rfl g width va vd hit s (SameBut.refl _ s))
  | fence g word => exact .next (fence_same rfl g word s (SameBut.refl _ s))
  | lldrop g word hit => exact .next (lldrop_same rfl g word hit s (SameBut.refl _ s))
  | redl g word hit => exact .next (redl_same rfl g word hit s (SameBut.refl _ s))
  | reduceSpill line => exact .next (reduceSpill_same rfl line s (SameBut.refl _ s))
  | spillCombineReturn line err unit => exact .next (spillCombineReturn_same rfl line err unit s (SameBut.refl _ s))
  | feltFillReturn sector err replays => exact .next (feltFillReturn_same rfl sector err replays s (SameBut.refl _ s))
  | tableWalkReturn half page west east err => exact .next (tableWalkReturn_same rfl half page west east err s (SameBut.refl _ s))
  | feltFlushClean sid =>
    exact .next (dictPut_trigger_frame rfl row_feltFlush (by decide) rfl (by decide) fun t h => State_startFlush_same rfl t _ h)
  | feltFlushInvalidate sid =>
    exact .next (dictPut_trigger_frame rfl row_feltFlush (by decide) rfl (by decide) fun t h => State_startFlush_same rfl t _ h)
  | feltFlushComplete => exact .next (feltFlushComplete_same rfl s (SameBut.refl _ s))
  | bankRetireMovesComplete half group => exact .next (bankRetireMovesComplete_same rfl half group s (SameBut.refl _ s))
  | feltCounterClear sid =>
    exact .next (dictPut_trigger_frame rfl row_feltCounterClear (by decide) rfl (by decide) fun t h => State_clearCounters_same rfl _ _ _ h)
  | map seq => exact .next (map_same rfl seq s (SameBut.refl _ s))
  | unmap seq => exact .next (unmap_same rfl seq s (SameBut.refl _ s))
  | protect seq => exact .next (protect_same rfl seq s (SameBut.refl _ s))
  | hostMemRead offset => exact .next (hostMemRead_same rfl offset s (SameBut.refl _ s))
  | hostMemWrite offset data => exact .next (hostMemWrite_same rfl offset data s (SameBut.refl _ s))
  | tier2LinkWaitExpiry port => exact .next (tier2LinkWaitExpiry_same rfl port s (SameBut.refl _ s))
  | migrationEpochEnd => exact .next (migrationEpochEnd_same rfl s (SameBut.refl _ s))
  | migrationStart page => exact .next (migrationStart_same rfl page s (SameBut.refl _ s))
  | subpageCopyComplete page err => exact .next (subpageCopyComplete_same rfl page err s (SameBut.refl _ s))
  | migrationSourceFree page => exact .next (migrationSourceFree_same rfl page s (SameBut.refl _ s))
  | tierCounterClear sid =>
    exact .next (dictPut_trigger_frame rfl row_tierCounterClear (by decide) rfl (by decide) fun t h => State_clearCounters_same rfl _ _ _ h)
  | bwIntervalBoundary loads => exact .next (bwIntervalBoundary_same rfl loads s (SameBut.refl _ s))
  | bwCounterClear sid =>
    exact .next (dictPut_trigger_frame rfl row_bwCounterClear (by decide) rfl (by decide) fun t h => State_clearBw_same rfl t h)
  | ledgerEnableOn sid =>
    exact .next (dictPut_rw_frame rfl row_ledgerEnable (by decide) rfl fun t h => ledgerWrite_on_frame t rfl h)
  | ledgerEnableOff sid =>
    exact .next (dictPut_rw_frame rfl row_ledgerEnable (by decide) rfl fun t h => State_ledgerStop_same rfl t h)
  | headLineLoss writes cacheError => exact .next (headLineLoss_same rfl writes cacheError s (SameBut.refl _ s))
  | ledgerNop => exact .next (ledgerNop_same rfl s (SameBut.refl _ s))
  | ledgerKernel => exact .next (ledgerKernel_same rfl s (SameBut.refl _ s))
  | ledgerCollective => exact .next (ledgerCollective_same rfl s (SameBut.refl _ s))
  | ledgerCopy => exact .next (ledgerCopy_same rfl s (SameBut.refl _ s))
  | ledgerMap => exact .next (ledgerMap_same rfl s (SameBut.refl _ s))
  | ledgerUnmap => exact .next (ledgerUnmap_same rfl s (SameBut.refl _ s))
  | ledgerProtect => exact .next (ledgerProtect_same rfl s (SameBut.refl _ s))
  | consumedCountWrite count cacheError => exact .next (consumedCountWrite_same rfl count cacheError s (SameBut.refl _ s))
  | kernelDispatch seq => exact .next (kernelDispatch_same rfl seq s (SameBut.refl _ s))
  | collectiveDispatch seq stage => exact .next (collectiveDispatch_same rfl seq stage s (SameBut.refl _ s))
  | copyDispatch seq host stage => exact .next (copyDispatch_same rfl seq host stage s (SameBut.refl _ s))
  | entryComplete seq cacheError => exact .next (entryComplete_same rfl seq cacheError s (SameBut.refl _ s))
  | eventRecord cacheError => exact .next (eventRecord_same rfl cacheError s (SameBut.refl _ s))
  | schedPause sid =>
    exact .next (dictPut_trigger_frame rfl row_schedPause (by decide) rfl (by decide) fun t h => State_pauseRequest_same rfl t h)
  | schedResume sid =>
    exact .next (dictPut_trigger_frame rfl row_schedResume (by decide) rfl (by decide) fun t h => State_resumeRequest_same rfl t h)
  | preemptSaveComplete seq tile => exact .next (preemptSaveComplete_same rfl seq tile s (SameBut.refl _ s))
  | blockRestore seq tile => exact .next (blockRestore_same rfl seq tile s (SameBut.refl _ s))
  | runtimeLimitExpiry seq => exact .next (runtimeLimitExpiry_same rfl seq s (SameBut.refl _ s))
  | schedCounterClear sid =>
    exact .next (dictPut_trigger_frame rfl row_schedCounterClear (by decide) rfl (by decide) fun t h => State_clearCounters_same rfl _ _ _ (State_clearCounters_same rfl _ _ _ h))
  | stepCounterWrite sid value => exact .next (stepCounterWrite_frame s sid value)
  | rng g word hit => exact .next (rng_same rfl g word hit s (SameBut.refl _ s))
  | rngProbe sid input => exact .next (dictPut_rw_frame rfl row_rngProbeInput (by decide) rfl fun t h => sameBut_with_det rfl h)
  | resumeApply sid record =>
    exact .next (dictPut_trigger_frame rfl row_resumeApply (by decide) rfl (by decide) fun t h => State_applyResume_same rfl t _ h)
  | scrubPaceTick half hbm count errs behind =>
    exact .next (scrubPaceTick_same rfl half hbm count errs behind s (SameBut.refl _ s))
  | bundleSignalFailed b signals =>
    exact .next (State_afterFault_same rfl _ (bundleSignalFailed_same rfl b signals s (SameBut.refl _ s)))
  | bundleSpareComplete b => exact .next (bundleSpareComplete_same rfl b s (SameBut.refl _ s))
  | errorLogAck sid value =>
    exact .next (dictPut_rw_frame rfl row_errorLogAck (by decide) rfl fun t h => State_ackLog_same rfl t _ h)
  | integrityCounterClear sid =>
    exact .next (dictPut_trigger_frame rfl row_integrityCounterClear (by decide) rfl (by decide) fun t h => State_clearCounters_same rfl _ _ _ (State_clearCounters_same rfl _ _ _ h))
  | governorTick power demand amps => exact .next (governorTick_same rfl power demand amps s (SameBut.refl _ s))
  | stageFailed stage => exact .next (stageFailed_same rfl stage s (SameBut.refl _ s))
  | cellFailed group => exact .next (State_afterFault_same rfl _ (cellFailed_same rfl group s (SameBut.refl _ s)))
  | railCellFailed g => exact .next (railCellFailed_same rfl g s (SameBut.refl _ s))
  | fleeceHoldMaxExpiry => exact .next (fleeceHoldMaxExpiry_same rfl s (SameBut.refl _ s))
  | slotFrameStart => exact .next (slotFrameStart_same rfl s (SameBut.refl _ s))
  | slotSyncLost => exact .next (slotSyncLost_same rfl s (SameBut.refl _ s))
  | syncLineFramePulse pin => exact .next (syncLineFramePulse_same rfl pin s (SameBut.refl _ s))
  | syncLineReleasePulse pin => exact .next (syncLineReleasePulse_same rfl pin s (SameBut.refl _ s))
  | inputLow millivolts => exact .next (inputLow_same rfl millivolts s (SameBut.refl _ s))
  | inputHoldup millivolts => exact .next (inputHoldup_same rfl millivolts s (SameBut.refl _ s))
  | inputHigh millivolts => exact .next (inputHigh_same rfl millivolts s (SameBut.refl _ s))
  | inputNormal millivolts => exact .next (inputNormal_same rfl millivolts s (SameBut.refl _ s))
  | brownoutHoldExpiry => exact .next (brownoutHoldExpiry_same rfl s (SameBut.refl _ s))
  | inputBelow40V => exact .next (inputBelow40V_same rfl s (SameBut.refl _ s))
  | powerCounterClear sid =>
    exact .next (dictPut_trigger_frame rfl row_powerCounterClear (by decide) rfl (by decide) fun t h => State_clearCounters_same rfl _ _ _ h)
  | refclkLost => exact .next (refclkLost_same rfl s (SameBut.refl _ s))
  | refclkHoldoverExpiry => exact .next (refclkHoldoverExpiry_same rfl s (SameBut.refl _ s))
  | refclkReturn => exact .next (refclkReturn_same rfl s (SameBut.refl _ s))
  | aonTrim => exact .next (aonTrim_same rfl s (SameBut.refl _ s))
  | clockStepComplete tile => exact .next (clockStepComplete_same rfl tile s (SameBut.refl _ s))
  | idleNapDelayExpiry ptile => exact .next (idleNapDelayExpiry_same rfl ptile s (SameBut.refl _ s))
  | idleOffDelayExpiry ptile => exact .next (idleOffDelayExpiry_same rfl ptile s (SameBut.refl _ s))
  | tileWakeComplete ptile => exact .next (tileWakeComplete_same rfl ptile s (SameBut.refl _ s))
  | moduleStateActive sid =>
    exact .next (dictPut_trigger_frame rfl row_moduleStateRequest (by decide) rfl (by decide) fun t h => State_requestState_same rfl t _ h)
  | moduleStateStandby sid =>
    exact .next (dictPut_trigger_frame rfl row_moduleStateRequest (by decide) rfl (by decide) fun t h => State_requestState_same rfl t _ h)
  | moduleStateDormant sid =>
    exact .next (dictPut_trigger_frame rfl row_moduleStateRequest (by decide) rfl (by decide) fun t h => State_requestState_same rfl t _ h)
  | moduleStateChangeComplete => exact .next (moduleStateChangeComplete_same rfl s (SameBut.refl _ s))
  | sensorSample readings estimates => exact .next (sensorSample_same rfl readings estimates s (SameBut.refl _ s))
  | thermalGraceExpiry => exact .next (thermalGraceExpiry_same rfl s (SameBut.refl _ s))
  | thermalAccept sid =>
    exact .next (dictPut_trigger_frame rfl row_thermalAccept (by decide) rfl (by decide) fun t h => State_acceptThermal_same rfl t h)
  | thermalCounterClear sid =>
    exact .next (dictPut_trigger_frame rfl row_thermalCounterClear (by decide) rfl (by decide) fun t h => State_clearCounters_same rfl _ _ _ h)
  | ppsEdge pin => exact .next (ppsEdge_same rfl pin s (SameBut.refl _ s))
  | timeSourceLost => exact .next (timeSourceLost_same rfl s (SameBut.refl _ s))
  | perfSample => exact .next (perfSample_same rfl s (SameBut.refl _ s))
  | powerOn => exact .next (powerOn_same rfl s (SameBut.refl _ s))
  | linkTrained link width rate node capacityMiB bandwidth ide =>
    exact .next (linkTrained_same rfl link width rate node capacityMiB bandwidth ide s (SameBut.refl _ s))
  | linkQualWindowEnd link errors received uncorrectable =>
    exact .next (linkQualWindowEnd_same rfl link errors received uncorrectable s (SameBut.refl _ s))
  | linkTrainingDeadline link => exact .next (linkTrainingDeadline_same rfl link s (SameBut.refl _ s))
  | hbmFillComplete badGranules => exact .next (hbmFillComplete_same rfl badGranules s (SameBut.refl _ s))
  | broadcastPacket core packet => exact .next (broadcastPacket_same rfl core packet s (SameBut.refl _ s))
  | broadcastRoundEnd => exact .next (broadcastRoundEnd_same rfl s (SameBut.refl _ s))
  | selftestComplete failed => exact .next (selftestComplete_same rfl failed s (SameBut.refl _ s))
  | bringupComplete elapsedMs => exact .next (bringupComplete_same rfl elapsedMs s (SameBut.refl _ s))
  | halfManagerWatchdog => exact .next (halfManagerWatchdog_same rfl s (SameBut.refl _ s))
  | fullReset sid =>
    exact .next (dictPut_trigger_frame rfl row_fullReset (by decide) rfl (by decide) fun t h => State_fullReset_same rfl t h)
  | computeReset sid =>
    exact .next (dictPut_trigger_frame rfl row_computeReset (by decide) rfl (by decide) fun t h => State_requestComputeReset_same rfl t h)
  | computeResetBegin => exact .next (computeResetBegin_same rfl s (SameBut.refl _ s))
  | shortSelftestComplete failed elapsedMs => exact .next (shortSelftestComplete_same rfl failed elapsedMs s (SameBut.refl _ s))
  | hostLinkDown => exact .next (hostLinkDown_same rfl s (SameBut.refl _ s))
  | hostLinkUp width rate ide => exact .next (hostLinkUp_same rfl width rate ide s (SameBut.refl _ s))
  | irqHoldoffExpiry => exact .next (irqHoldoffExpiry_same rfl s (SameBut.refl _ s))
  | tier2LinkDown port => exact .next (tier2LinkDown_same rfl port s (SameBut.refl _ s))
  | tier2LinkUp port => exact .next (tier2LinkUp_same rfl port s (SameBut.refl _ s))
  | expanderEventPoll port uncorrectable => exact .next (expanderEventPoll_same rfl port uncorrectable s (SameBut.refl _ s))
  | dataFlit port flit codewordOk => exact .next (dataFlit_same rfl port flit codewordOk s (SameBut.refl _ s))
  | idleFlit port flit codewordOk => exact .next (idleFlit_same rfl port flit codewordOk s (SameBut.refl _ s))
  | nak port flit codewordOk => exact .next (nak_same rfl port flit codewordOk s (SameBut.refl _ s))
  | laneSwap port flit codewordOk => exact .next (laneSwap_same rfl port flit codewordOk s (SameBut.refl _ s))
  | laneSwapAck port flit codewordOk => exact .next (laneSwapAck_same rfl port flit codewordOk s (SameBut.refl _ s))
  | width port flit codewordOk => exact .next (width_same rfl port flit codewordOk s (SameBut.refl _ s))
  | retrain port flit codewordOk => exact .next (retrain_same rfl port flit codewordOk s (SameBut.refl _ s))
  | replayTimeout port => exact .next (replayTimeout_same rfl port s (SameBut.refl _ s))
  | peerRetrainComplete port => exact .next (peerRetrainComplete_same rfl port s (SameBut.refl _ s))
  | laneFailed port lane => exact .next (laneFailed_same rfl port lane s (SameBut.refl _ s))
  | write port => exact .next (write_same rfl port s (SameBut.refl _ s))
  | read port => exact .next (read_same rfl port s (SameBut.refl _ s))
  | readData port => exact .next (readData_same rfl port s (SameBut.refl _ s))
  | writeAck port => exact .next (writeAck_same rfl port s (SameBut.refl _ s))
  | collData port => exact .next (collData_same rfl port s (SameBut.refl _ s))
  | error port => exact .next (error_same rfl port s (SameBut.refl _ s))
  | halfLinkRetrainFailed => exact .next (halfLinkRetrainFailed_same rfl s (SameBut.refl _ s))
  | muslinOpen src => exact .next (muslinOpen_same rfl src s (SameBut.refl _ s))
  | muslinClose src session => exact .next (muslinClose_same rfl src session s (SameBut.refl _ s))
  | request src session seq word data => exact .next (request_same rfl src session seq word data s (SameBut.refl _ s))
  | beacon src _ slotCount slotLength node _ => exact .next (beacon_same rfl src slotCount slotLength node s (SameBut.refl _ s))
  | release _ => exact .next (release_same rfl s (SameBut.refl _ s))
  | time tai _ _ => exact .next (time_same rfl tai s (SameBut.refl _ s))
  | muslinFrameDiscard => exact .next (muslinFrameDiscard_same rfl s (SameBut.refl _ s))
  | interfaceCounterClear sid =>
    exact .next (dictPut_trigger_frame rfl row_interfaceCounterClear (by decide) rfl (by decide) fun t h =>
      State_clearCounters_same rfl _ _ _ (State_clearCounters_same rfl _ _ _ (State_clearCounters_same rfl _ _ _ (State_clearCounters_same rfl _ _ _ h))))
  | updateBegin sid component =>
    exact .next (dictPut_trigger_frame rfl row_updateBegin (by decide) rfl (by decide) fun t h => State_beginUpdate_same rfl t _ h)
  | updateEraseComplete => exact .next (updateEraseComplete_same rfl s (SameBut.refl _ s))
  | updateData sid data =>
    exact .next (dictPut_trigger_frame rfl row_updateData (by decide) rfl (by decide) fun t h => State_updateBytes_same rfl t _ h)
  | updateProgramComplete => exact .next (updateProgramComplete_same rfl s (SameBut.refl _ s))
  | updateVerify sid =>
    exact .next (dictPut_trigger_frame rfl row_updateVerify (by decide) rfl (by decide) fun t h => State_verifyUpdate_same rfl t h)
  | updateVerifyComplete => exact .next (updateVerifyComplete_same rfl s (SameBut.refl _ s))
  | updateCommit sid =>
    exact .next (dictPut_trigger_frame rfl row_updateCommit (by decide) rfl (by decide) fun t h => State_commitUpdate_same rfl t _ h)
  | updateCommitReset sid =>
    exact .next (dictPut_trigger_frame rfl row_updateCommit (by decide) rfl (by decide) fun t h => State_commitUpdate_same rfl t _ h)
  | updateAbort sid =>
    exact .next (dictPut_trigger_frame rfl row_updateAbort (by decide) rfl (by decide) fun t h => State_stopUpdate_same rfl t h)
  | updateConfirm sid =>
    exact .next (dictPut_trigger_frame rfl row_updateConfirm (by decide) rfl (by decide) fun t h => State_confirmAll_same rfl t h)
  | updateTrialTimeout => exact .next (updateTrialTimeout_same rfl s (SameBut.refl _ s))
  | getVersion path => exact .next (getVersion_same rfl path s (SameBut.refl _ s))
  | getCapabilities path => exact .next (getCapabilities_same rfl path s (SameBut.refl _ s))
  | negotiateAlgorithms path asym hash dhe aead =>
    exact .next (negotiateAlgorithms_same rfl path asym hash dhe aead s (SameBut.refl _ s))
  | getDigests path => exact .next (getDigests_same rfl path s (SameBut.refl _ s))
  | getCertificate path slot offset length => exact .next (getCertificate_same rfl path slot offset length s (SameBut.refl _ s))
  | challenge path slot nonce => exact .next (challenge_same rfl path slot nonce s (SameBut.refl _ s))
  | getMeasurements path index nonce => exact .next (getMeasurements_same rfl path index nonce s (SameBut.refl _ s))
  | chunkSend path handle seq last data => exact .next (chunkSend_same rfl path handle seq last data s (SameBut.refl _ s))
  | chunkGet path handle seq => exact .next (chunkGet_same rfl path handle seq s (SameBut.refl _ s))
  | keyEx path exchange => exact .next (keyEx_same rfl path exchange s (SameBut.refl _ s))
  | finish path mac => exact .next (finish_same rfl path mac s (SameBut.refl _ s))
  | endSession path => exact .next (endSession_same rfl path s (SameBut.refl _ s))
  | pwrEnDeassert => exact .next (pwrEnDeassert_same rfl s (SameBut.refl _ s))
  | powerOffComplete => exact .next (powerOffComplete_same rfl s (SameBut.refl _ s))
  | pwrEnAssert => exact .next (pwrEnAssert_same rfl s (SameBut.refl _ s))
  | resetN => exact .next (resetN_same rfl s (SameBut.refl _ s))
  | hostPerstN => exact .next (hostPerstN_same rfl s (SameBut.refl _ s))
  | debugTrigger pin => exact .next (debugTrigger_same rfl pin s (SameBut.refl _ s))
  | auxPulseInvalid pin micros => exact .next (auxPulseInvalid_same rfl pin micros s (SameBut.refl _ s))
  | inputTripped cause => exact .next (inputTripped_same rfl cause s (SameBut.refl _ s))
  | coolantCheck inletDeci deltaPDeci dewDeci inletHigh flowLow dewLow =>
    exact .next (coolantCheck_same rfl inletDeci deltaPDeci dewDeci inletHigh flowLow dewLow s (SameBut.refl _ s))
  | boardCounterClear sid =>
    exact .next (dictPut_trigger_frame rfl row_boardCounterClear (by decide) rfl (by decide) fun t h => State_clearCounters_same rfl _ _ _ h)
  | copyHostAccessWaitExpiry seq => exact .next (copyHostAccessWaitExpiry_same rfl seq s (SameBut.refl _ s))
  | hdmDecoderCommit gib => exact .next (hdmDecoderCommit_same rfl gib s (SameBut.refl _ s))
  | inputTripRearm => exact .next (inputTripRearm_same rfl s (SameBut.refl _ s))
  | halfWidthMoveComplete ptile => exact .next (halfWidthMoveComplete_same rfl ptile s (SameBut.refl _ s))

/-! ### The statements -/

/-- Every step keeps what a command keeps. -/
theorem step_keeps {s t : State} (next : step s = .next t) :
    floorsRise s.fw.comps t.fw.comps = true ∧ t.fuses = s.fuses ∧ (s.memWf = true → t.memWf = true) ∧
      (s.dict.lockOk = true → t.dict.lockOk = true) := by
  unfold step at next
  split at next
  case h_1 =>
    have kept := State_idle_keeps s (Keeps.refl s)
    exact next_inj next ▸ ⟨kept.floors, kept.fuses, kept.mem, kept.lock⟩
  case h_2 c rest _ =>
    have kept := (exec_keeps c { s with pending := rest }).of_next next
    exact ⟨kept.floors, kept.fuses, kept.mem, kept.lock⟩

/-- Settles O5: `Keeps` holds of every command and of an idle step. -/
theorem memoriesKeepTheirForm : Obligations.MemoriesKeepTheirForm := by
  unfold Obligations.MemoriesKeepTheirForm
  intro s t good next
  obtain ⟨-, -, mem, -⟩ := step_keeps next
  exact mem good

/-- Settles O6: `Keeps` holds of every command and of an idle step. -/
theorem theLockAgreesWithItsCount : Obligations.TheLockAgreesWithItsCount := by
  unfold Obligations.TheLockAgreesWithItsCount
  intro s t good next
  obtain ⟨-, -, -, lock⟩ := step_keeps next
  exact lock good

/-- Settles O7: `Keeps` holds of every command and of an idle step. -/
theorem floorsAndFusesStand : Obligations.FloorsAndFusesStand := by
  unfold Obligations.FloorsAndFusesStand
  intro s t next
  obtain ⟨floors, fuses, -, -⟩ := step_keeps next
  exact ⟨floors, fuses⟩

/-- Settles O8: each command's frame is that of the operations its meaning is made of. -/
theorem commandsChangeOnlyTheirFacets : Obligations.CommandsChangeOnlyTheirFacets := by
  unfold Obligations.CommandsChangeOnlyTheirFacets
  intro c s t next
  exact (exec_same c s).of_next next

end Sys2Proof.Proofs
end

section
/-! Steps, reset, and the reads and staged writes of the dictionary (R26 to R29, R34, R40, R43). -/

set_option Elab.async false

namespace Sys2Proof.Proofs

open Sys2Proof Sys2Proof.Machine Sys2Proof.Laws

/-! ### The queue and reset -/

/-- Settles O1: the front of the queue is the command, and the rest of it is the state's own queue. -/
theorem stepRunsFront : Obligations.StepRunsFront := by
  unfold Obligations.StepRunsFront
  intro c s
  rfl

theorem idle_thermal (s : State) : s.idle.thermal = { s.thermal with
    timestamp := if s.boot.powered then (s.thermal.timestamp + 150) % 2 ^ 64 else s.thermal.timestamp } := by
  unfold State.idle
  split <;> rfl

/-- Settles O2: an empty queue lets the module idle, which moves the timestamp on. -/
theorem timePassesOnAnEmptyQueue : Obligations.TimePassesOnAnEmptyQueue := by
  unfold Obligations.TimePassesOnAnEmptyQueue
  intro s empty
  refine ⟨s.idle, ?_, State_idle_same rfl s (SameBut.refl _ s), idle_thermal s⟩
  simp only [step, empty]

/-- Settles O3: no value is in force at reset but the defaults, and no counter has counted. -/
theorem resetHasTheSpecsValues : Obligations.ResetHasTheSpecsValues := by
  unfold Obligations.ResetHasTheSpecsValues
  exact ⟨rfl, rfl, rfl, rfl, rfl, rfl, rfl, rfl, fun _ => ⟨rfl, rfl⟩, rfl, rfl, rfl, rfl, rfl⟩

/-- Settles O4: the memories at reset are empty, and the lock is CLOSED with no failure. -/
theorem resetMeetsTheInvariants : Obligations.ResetMeetsTheInvariants := by
  unfold Obligations.ResetMeetsTheInvariants
  exact ⟨rfl, rfl⟩

/-! ### Reads -/

theorem dictRead_answers {s : State} {sid index sub offset st : Nat} {r : ObjRow} {v : Bytes}
    (serves : s.serves 0 sid (index * 256 + sub) = true) (pos : 0 < sub) (hs : sub < 256)
    (row : objRow (index * 256 + sub) = some r) (aligned : offset % 256 = 0) (long : offset = 0 ∨ r.ty.long = true)
    (answer : ((recd s sid 0 index sub offset false []).serveRead sid r (index * 256 + sub)).2 = (st, v)) :
    (dictRead sid index sub offset s).lastAnswer sid = some (readAnswer sid st offset v) := by
  unfold dictRead
  rw [read_eq s sid index sub offset r serves pos hs row aligned long, answer]
  exact respond_last _ _ _ (by rw [serveRead_open, recd_open, serves_open serves]) rfl

theorem serveRead_denied (u : State) (sid : Nat) {r : ObjRow} {key : Nat} (h : r.acc = .wo ∨ key = Obj.lockPasswordNew) :
    (u.serveRead sid r key).2 = (dDenied, []) := by
  unfold State.serveRead
  rw [if_pos (by simpa using h)]

theorem serveRead_readable (u : State) (sid : Nat) {r : ObjRow} {key : Nat} (wo : r.acc ≠ .wo) (hk : key ≠ Obj.lockPasswordNew) :
    (u.serveRead sid r key).2 = (dOk, u.objValue sid key) := by
  unfold State.serveRead
  rw [if_neg (by simp [wo, hk])]

/-- An object of a configuration class reads as its value in force. -/
theorem objValue_configured (u : State) (sid : Nat) {r : ObjRow} {key : Nat} (row : objRow key = some r) (ro : r.acc ≠ .ro)
    (hk : key ∉ [Obj.ledgerEnable, Obj.stepCounter, Obj.rngProbeInput, Obj.errorLogAck]) : u.objValue sid key = u.value key := by
  simp only [List.mem_cons, List.not_mem_nil, or_false, not_or] at hk
  obtain ⟨ledger, counter, probe, ack⟩ := hk
  simp [State.objValue, row, ro, ledger, counter, probe, ack]

/-- A read-only object of chapters 3 to 6 reads as its count. -/
theorem objValue_counter (u : State) (sid : Nat) {r : ObjRow} {key : Nat} (row : objRow key = some r) (ro : r.acc = .ro)
    (lo : 0x2000 ≤ key / 256) (hi : key / 256 < 0x3000) : u.objValue sid key = natLE r.lenLo (u.counter key) := by
  rw [objValue_ro u sid row ro, State.readRo, if_neg lo.not_gt, if_pos hi]

/-- Settles O13: a read answers with the object's value, which is the value in force or the count, and a write-only object with DENIED. -/
theorem readReturnsTheValueInForce : Obligations.ReadReturnsTheValueInForce := by
  unfold Obligations.ReadReturnsTheValueInForce
  refine ⟨?configured, ?counter, ?denied⟩
  case configured =>
    intro s sid index sub offset r serves pos hs row ro wo aligned long hk
    rw [List.mem_cons, not_or] at hk
    refine ⟨_, rfl, dictRead_answers serves pos hs row aligned long ?_⟩
    rw [serveRead_readable _ sid wo hk.1, objValue_configured _ sid row ro hk.2]
    rfl
  case counter =>
    intro s sid index sub r serves pos hs row ro lo hi
    have index_eq : (index * 256 + sub) / 256 = index := by omega
    refine ⟨_, rfl, dictRead_answers serves pos hs row rfl (.inl rfl) ?_⟩
    rw [serveRead_readable _ sid (by simp [ro]) (by simp only [Obj.lockPasswordNew]; omega),
      objValue_counter _ sid row ro (index_eq.symm ▸ lo) (index_eq.symm ▸ hi)]
    rfl
  case denied =>
    intro s sid index sub r serves pos hs row refused
    exact ⟨_, rfl, _, dictRead_answers serves pos hs row rfl (.inl rfl) (serveRead_denied _ sid refused), rfl, rfl, rfl⟩

theorem dictReadStaged_answers {s : State} {sid index sub offset st : Nat} {r : ObjRow} {v : Bytes}
    (serves : s.serves 2 sid (index * 256 + sub) = true) (pos : 0 < sub) (hs : sub < 256)
    (row : objRow (index * 256 + sub) = some r) (aligned : offset % 256 = 0) (long : offset = 0 ∨ r.ty.long = true)
    (answer : s.serveStaged sid r (index * 256 + sub) = (st, v)) :
    (dictReadStaged sid index sub offset s).lastAnswer sid = some (readAnswer sid st offset v) := by
  obtain ⟨u, isOpen, request⟩ := staged_eq s sid index sub offset r serves pos hs row aligned long
  unfold dictReadStaged
  rw [request, answer]
  exact respond_last _ _ _ isOpen rfl

theorem serveStaged_not_holder {s : State} {sid : Nat} (r : ObjRow) (key : Nat) (lease : s.dict.lease ≠ some sid) :
    s.serveStaged sid r key = (dDenied, []) := by
  simp [State.serveStaged, lease]

theorem serveStaged_other_class {s : State} {sid : Nat} {r : ObjRow} {key : Nat} (lease : s.dict.lease = some sid)
    (hk : key ≠ Obj.lockPasswordNew) (stg : r.acc ≠ .stg) (lck : r.acc ≠ .lck) : s.serveStaged sid r key = (dType, []) := by
  simp [State.serveStaged, lease, hk, stg, lck]

theorem serveStaged_holder {s : State} {sid : Nat} {r : ObjRow} {key : Nat} (lease : s.dict.lease = some sid)
    (hk : key ≠ Obj.lockPasswordNew) (cls : r.acc = .stg ∨ r.acc = .lck) :
    s.serveStaged sid r key = match NMap.look s.dict.staged key with
      | some v => (dStaged, v)
      | none => (dOk, s.value key) := by
  rcases cls with cls | cls <;> simp [State.serveStaged, lease, hk, cls] <;> rfl

theorem row_lockPasswordNew_acc {r : ObjRow} (row : objRow Obj.lockPasswordNew = some r) : r.acc = .lck := by
  have eq : (objRow Obj.lockPasswordNew).map (·.acc) = some .lck := by decide +kernel
  simpa [row] using eq

/-- Settles O14: what the dictionary serves of the staged set, case by case. -/
theorem readStagedReturnsTheStagedValue : Obligations.ReadStagedReturnsTheStagedValue := by
  unfold Obligations.ReadStagedReturnsTheStagedValue
  refine ⟨?holder, ?otherClass, ?notHolder⟩
  case holder =>
    intro s sid index sub offset r serves pos hs row aligned long lease cls hk
    have answer := serveStaged_holder lease hk cls
    refine ⟨_, rfl, ?_⟩
    cases staged : NMap.look s.dict.staged (index * 256 + sub) with
    | some v =>
      rw [staged] at answer
      exact dictReadStaged_answers serves pos hs row aligned long answer
    | none =>
      rw [staged] at answer
      exact dictReadStaged_answers serves pos hs row aligned long answer
  case otherClass =>
    intro s sid index sub r serves pos hs row lease stg lck
    have hk : index * 256 + sub ≠ Obj.lockPasswordNew := fun eq => lck (row_lockPasswordNew_acc (eq ▸ row))
    exact ⟨_, rfl, _, dictReadStaged_answers serves pos hs row rfl (.inl rfl) (serveStaged_other_class lease hk stg lck), rfl, rfl, rfl⟩
  case notHolder =>
    intro s sid index sub r serves pos hs row lease
    exact ⟨_, rfl, _, dictReadStaged_answers serves pos hs row rfl (.inl rfl) (serveStaged_not_holder r _ lease), rfl, rfl, rfl⟩

/-! ### Writes to staged objects, and writes turned away -/

theorem asked_frame {fl : List Facet} (hl : subL [.window, .sessions] fl = true) (s : State) (sid key : Nat) (v : Bytes) :
    SameBut fl s (asked s sid key v) :=
  SameBut.mono hl (asked_same s sid key v)

/-- A frame goes on over one more operation whose facets it lists. -/
theorem sameBut_then {a fl : List Facet} {s t u : State} (h : SameBut fl s t) (hl : subL a fl = true) (k : SameBut a t u) :
    SameBut fl s u :=
  SameBut.trans h (SameBut.mono hl k)

theorem stageWrite_room {t : State} {key : Nat} (v : Bytes) (idle : t.dict.queued = none)
    (room : NMap.has t.dict.staged key = true ∨ t.dict.staged.length < 512) : t.stageWrite key v = (t.stage key v, dStaged) := by
  unfold State.stageWrite
  rw [if_neg]
  rcases room with has | short
  · simp [idle, has]
  · simp [idle, short.not_ge]

theorem stage_same (t : State) (key : Nat) (v : Bytes) : SameBut [.staging] t (t.stage key v) :=
  State_stage_same rfl t key v (SameBut.refl _ t)

/-- Settles O15: the write is served, and its action stages the value. -/
theorem writeStages : Obligations.WriteStages := by
  unfold Obligations.WriteStages
  intro s sid index sub v r may pos hs row acc ne short ok range idle room
  have put : Put s sid (index * 256 + sub) v r :=
    Put.of may (by omega) row (by rcases acc with stg | ⟨lck, -⟩ <;> simp [*]) (by simpa using ne) ok range
  have act : (asked s sid (index * 256 + sub) v).writeValue sid r (index * 256 + sub) v =
      plain ((asked s sid (index * 256 + sub) v).stage (index * 256 + sub) v, dStaged) := by
    rw [write_stage (asked ..) sid r _ v acc, stageWrite_room (t := asked ..) v idle room]
  have staged := stage_same (asked s sid (index * 256 + sub) v) (index * 256 + sub) v
  obtain ⟨window, answered⟩ := put.res act ((sameOpen staged (by decide) sid).trans (asked_open ..))
  refine ⟨_, rfl, ?_⟩
  rw [dictWrite_eq s sid index sub v pos hs short]
  exact ⟨answered, congrArg Prod.fst (Facet.get window .staging),
    sameBut_then (sameBut_then (asked_frame rfl s sid _ v) rfl staged) rfl window⟩

theorem lockAnswer_of_acc {s : State} {sid key : Nat} {r : ObjRow} (v : Bytes) (row : objRow key = some r) (wo : r.acc ≠ .wo) :
    (asked s sid key v).lockAnswer sid key = none :=
  lockAnswer_none _ sid key r row wo

/-- A value that is not the object's, while the object takes no write: one of the two statuses, drawn. -/
theorem serveWrite_fault_and_closed {u : State} {sid key a b : Nat} {v : Bytes} {r : ObjRow} (p : Option PartialWrite)
    (ro : r.acc ≠ .ro) (lease : u.dict.lease = some sid) (lock : u.lockAnswer sid key = none)
    (fault : u.valueFault r key v = some a) (closed : u.closedTo sid r key = some b) :
    u.serveWrite sid r key 0 false v p = (u.drawn, if Config.freeBool u.dict.freeCount then a else b, 0) := by
  simp [State.serveWrite, ro, lease, lock, State.writeWhole, fault, closed]

theorem drawn_same (u : State) : SameBut [.draws] u u.drawn := State_drawn_same rfl u (SameBut.refl _ u)

/-- Settles O16: each refusal is a status of `serveWrite` that changes nothing. -/
theorem writeTurnedAway : Obligations.WriteTurnedAway := by
  unfold Obligations.WriteTurnedAway
  refine ⟨?refused, ?either⟩
  case refused =>
    intro s sid index sub v r st serves pos hs row ne short why
    have status := serveWrite_status (asked s sid (index * 256 + sub) v) sid (index * 256 + sub) v r
      (NMap.look s.dict.parts sid) st ne ?why
    case why =>
      rcases why with ro | lease | type | range | ⟨lck, lease, ok, inRange, closed, rfl⟩ | ⟨acc, lease, ok, inRange, full, rfl⟩
      · exact .inl ro
      · exact .inr (.inl lease)
      · exact .inr (.inr (.inl type))
      · exact .inr (.inr (.inr (.inl range)))
      · have free := lockAnswer_of_acc (s := s) (sid := sid) v row (by simp [lck])
        exact .inr (.inr (.inr (.inr (.inl ⟨lck, lease, ok, inRange, free, closed, rfl⟩))))
      · have free := lockAnswer_of_acc (s := s) (sid := sid) v row (by rcases acc with stg | ⟨lck, -⟩ <;> simp [*])
        exact .inr (.inr (.inr (.inr (.inr ⟨acc, lease, ok, inRange, free, full, rfl⟩))))
    refine ⟨_, rfl, ?_⟩
    rw [dictWrite_eq s sid index sub v pos hs short]
    exact put_status serves (by omega) row ne status
  case either =>
    intro s sid index sub v r a b serves pos hs row ne short ro lease lock fault closed
    have status := serveWrite_fault_and_closed (u := asked s sid (index * 256 + sub) v) (NMap.look s.dict.parts sid)
      ro lease lock fault closed
    have isOpen : (asked s sid (index * 256 + sub) v).drawn.sessionOpen sid = true :=
      (sameOpen (drawn_same _) (by decide) sid).trans ((asked_open ..).trans (serves_open serves))
    refine ⟨_, rfl, ?_⟩
    rw [dictWrite_eq s sid index sub v pos hs short,
      dictPut_write s sid (index * 256 + sub) v r serves (by omega) row (by simpa using ne), status]
    refine ⟨?_, sameBut_then (sameBut_then (asked_frame rfl s sid _ v) rfl (drawn_same _)) rfl (respond_same _ _)⟩
    cases Config.freeBool (asked s sid (index * 256 + sub) v).dict.freeCount with
    | true => exact .inl (respond_answered _ _ _ _ isOpen rfl rfl rfl)
    | false => exact .inr (respond_answered _ _ _ _ isOpen rfl rfl rfl)

end Sys2Proof.Proofs
end

section
/-! The write lease (R35) and the field lock (R37 to R39). -/

set_option Elab.async false

namespace Sys2Proof.Proofs

open Sys2Proof Sys2Proof.Machine Sys2Proof.Laws

/-! ### Writes that need no lease -/

/-- A served write to one of the objects that need no lease (R34). -/
theorem put_leaseFree {s : State} {sid key : Nat} {v : Bytes} {r : ObjRow} (serves : s.serves 1 sid key = true)
    (sub : key % 256 ≠ 0) (row : objRow key = some r) (acc : r.acc ≠ .ro) (free : leaseFree key = true) (ne : v.isEmpty = false)
    (ok : valueOk r v = true) (range : s.rangeOk r key v = true) : Put s sid key v r :=
  ⟨serves, sub, row, acc, .inl free, ne, ok, range⟩

/-- What a served trigger does and answers: its own action, and the frame of it. -/
theorem trigger_served {fl : List Facet} {s : State} {sid key : Nat} {v : Bytes} {r : ObjRow} (put : Put s sid key v r)
    {X : State × Nat} (act : (asked s sid key v).writeValue sid r key v = plain X) (frame : SameBut fl (asked s sid key v) X.1)
    (hl : ([.settings, .sessions, .boot, .iface] : List Facet).all (fun p => !fl.contains p) = true) :
    SameBut [.window] X.1 (s.dictPut sid key v) ∧ (s.dictPut sid key v).answered sid X.2 0 :=
  put.res act ((sameOpen frame hl sid).trans (asked_open s sid key v sid))

/-- A served trigger whose action answers and changes nothing. -/
theorem trigger_idle {s : State} {sid key st : Nat} {v : Bytes} {r : ObjRow} (put : Put s sid key v r)
    (act : (asked s sid key v).writeValue sid r key v = plain (asked s sid key v, st)) :
    (s.dictPut sid key v).answered sid st 0 ∧ SameBut [.window, .sessions] s (s.dictPut sid key v) := by
  obtain ⟨window, answered⟩ := trigger_served put act (SameBut.refl [] _) rfl
  exact ⟨answered, sameBut_then (asked_frame rfl s sid key v) rfl window⟩

theorem lease_of {fl : List Facet} {s t : State} (h : SameBut fl s t) (hl : Facet.lease ∉ fl := by decide) :
    t.dict.lease = s.dict.lease := h .lease hl

theorem staged_of {fl : List Facet} {s t : State} (h : SameBut fl s t) (hl : Facet.staging ∉ fl := by decide) :
    t.dict.staged = s.dict.staged := congrArg Prod.fst (h .staging hl)

theorem lock_of {fl : List Facet} {s t : State} (h : SameBut fl s t) (hl : Facet.lock ∉ fl := by decide) :
    t.dict.lock = s.dict.lock := congrArg Prod.fst (h .lock hl)

theorem failCount_of {fl : List Facet} {s t : State} (h : SameBut fl s t) (hl : Facet.lock ∉ fl := by decide) :
    t.dict.failCount = s.dict.failCount := congrArg (·.2.1) (h .lock hl)

theorem nonce_of {fl : List Facet} {s t : State} (h : SameBut fl s t) (hl : Facet.lock ∉ fl := by decide) :
    t.dict.nonce = s.dict.nonce := congrArg (·.2.2) (h .lock hl)

/-! ### The write lease -/

theorem putLeaseRequest {s : State} {sid n : Nat} (hn : n = 0 ∨ n = 1) (serves : s.serves 1 sid Obj.leaseRequest = true) :
    Put s sid Obj.leaseRequest (natLE 1 n) ⟨0x110002, 0x110002, .u8, .wo, 1, 1, .span 0 1 1, 0⟩ := by
  rcases hn with rfl | rfl
  · exact put_leaseFree serves (by decide) row_leaseRequest (by decide) (by decide) (by decide) (by decide) rfl
  · exact put_leaseFree serves (by decide) row_leaseRequest (by decide) (by decide) (by decide) (by decide) rfl

theorem putLeaseBreak {s : State} {sid : Nat} (serves : s.serves 1 sid Obj.leaseBreak = true) :
    Put s sid Obj.leaseBreak (natLE 1 1) ⟨0x110005, 0x110005, .u8, .wo, 1, 1, .span 1 1 1, 0⟩ :=
  put_leaseFree serves (by decide) row_leaseBreak (by decide) (by decide) (by decide) (by decide) rfl

theorem write_leaseRequest_take (t : State) (sid : Nat) : t.writeValue sid
    ⟨0x110002, 0x110002, .u8, .wo, 1, 1, .span 0 1 1, 0⟩ Obj.leaseRequest (natLE 1 1) = plain (t.takeLease sid) := rfl

theorem takeLease_free {s : State} (sid : Nat) (lease : s.dict.lease = none) :
    s.takeLease sid = ({ s with dict := { s.dict with lease := some sid } }, dOk) := by
  simp [State.takeLease, lease]

theorem takeLease_held {s : State} {sid h : Nat} (lease : s.dict.lease = some h) (other : h ≠ sid) :
    s.takeLease sid = (s, dBusy) := by
  simp [State.takeLease, lease, other]

theorem breakLease_locked {s : State} {sid : Nat} (lease : s.dict.lease ≠ some sid) (lock : s.lockOpenFor sid = false) :
    s.breakLease sid = (s, dLocked) := by
  simp [State.breakLease, lease, lock]

theorem breakLease_opened {s : State} {sid h : Nat} (lease : s.dict.lease = some h) (lock : s.lockOpenFor sid = true) :
    (s.breakLease sid).1.dict.lease = some sid ∧ (h ≠ sid → (s.breakLease sid).1.dict.staged = []) := by
  unfold State.breakLease
  by_cases own : h = sid
  · rw [if_pos (by rw [lease, own])]
    exact ⟨by rw [lease, own], fun other => absurd own other⟩
  · rw [if_neg (by simpa [lease] using own), if_neg (by simp [lock]), lease]
    exact ⟨rfl, fun _ => (staged_of (log_dict _ _ _ _ _ _)).trans (loseLease_held lease).2.1⟩

theorem takeLease_same (s : State) (sid : Nat) : SameBut [.lease] s (s.takeLease sid).1 :=
  State_takeLease_same rfl s sid (SameBut.refl _ s)

theorem loseLease_same (s : State) (sid : Nat) : SameBut ps135 s (s.loseLease sid) :=
  State_loseLease_same rfl s sid (SameBut.refl _ s)

theorem breakLease_same (s : State) (sid : Nat) : SameBut ps135 s (s.breakLease sid).1 :=
  State_breakLease_same rfl s sid (SameBut.refl _ s)

theorem loseLease_not_held (s : State) (sid : Nat) : (s.loseLease sid).dict.lease ≠ some sid := by
  by_cases held : s.dict.lease = some sid
  · rw [(loseLease_held held).1]
    exact Option.some_ne_none sid |>.symm
  · rwa [State.loseLease, if_neg held]

theorem closeLock_same (s : State) (sid : Nat) : SameBut [.lock] s (s.closeLock sid) :=
  State_closeLock_same rfl s sid (SameBut.refl _ s)

/-- A Muslin session that closes loses its lease, its lock and what it staged. -/
theorem closeMuslin_ends (s : State) (sid : Nat) :
    NMap.look (s.closeMuslin sid).dict.sessions sid = none ∧ (s.closeMuslin sid).lockOpenFor sid = false ∧
      (s.closeMuslin sid).dict.lease ≠ some sid ∧ (s.dict.lease = some sid → (s.closeMuslin sid).dict.staged = []) := by
  have closed := closeLock_same (s.loseLease sid) sid
  refine ⟨look_del_same _ _, closeLock_open (s.loseLease sid) sid, ?_, fun held => ?_⟩
  · exact fun eq => loseLease_not_held s sid ((lease_of closed).symm.trans eq)
  · exact (staged_of closed).trans (loseLease_held held).2.1

/-- Settles O17: each row of the lease's table, by the operation that its write runs. -/
theorem leaseFollowsItsTable : Obligations.LeaseFollowsItsTable := by
  unfold Obligations.LeaseFollowsItsTable
  refine ⟨?take, ?busy, ?give, ?takeover, ?locked, ?expired, ?idle⟩
  case take =>
    intro s sid serves free
    have act := (write_leaseRequest_take (asked s sid _ (natLE 1 1)) sid).trans
      (congrArg plain (takeLease_free (s := asked s sid Obj.leaseRequest (natLE 1 1)) sid free))
    have frame := takeLease_same (asked s sid Obj.leaseRequest (natLE 1 1)) sid
    rw [takeLease_free (s := asked ..) sid free] at frame
    obtain ⟨window, answered⟩ := trigger_served (putLeaseRequest (.inr rfl) serves) act frame rfl
    exact ⟨_, rfl, lease_of window, answered, sameBut_then (sameBut_then (asked_frame rfl s sid _ _) rfl frame) rfl window⟩
  case busy =>
    intro s sid h serves lease other
    have act := (write_leaseRequest_take (asked s sid _ (natLE 1 1)) sid).trans
      (congrArg plain (takeLease_held (s := asked s sid Obj.leaseRequest (natLE 1 1)) lease other))
    exact ⟨_, rfl, trigger_idle (putLeaseRequest (.inr rfl) serves) act⟩
  case give =>
    intro s sid serves lease
    have act := write_leaseRequest (asked s sid Obj.leaseRequest (natLE 1 0)) sid (natLE 1 0)
    obtain ⟨window, -⟩ := trigger_served (putLeaseRequest (.inl rfl) serves) act (loseLease_same _ sid) rfl
    obtain ⟨gone, empty, shut⟩ := loseLease_held (s := asked s sid Obj.leaseRequest (natLE 1 0)) lease
    exact ⟨_, rfl, (lease_of window).trans gone, (staged_of window).trans empty, (lockOpenFor_of (lock_of window) sid).trans shut⟩
  case takeover =>
    intro s sid h serves lease lock
    have act := write_leaseBreak (asked s sid Obj.leaseBreak (natLE 1 1)) sid (natLE 1 1)
    obtain ⟨window, -⟩ := trigger_served (putLeaseBreak serves) act (breakLease_same _ sid) rfl
    obtain ⟨taken, empty⟩ := breakLease_opened (s := asked s sid Obj.leaseBreak (natLE 1 1)) lease lock
    exact ⟨_, rfl, (lease_of window).trans taken, fun other => (staged_of window).trans (empty other)⟩
  case locked =>
    intro s sid serves lease lock
    have act := (write_leaseBreak (asked s sid _ (natLE 1 1)) sid (natLE 1 1)).trans
      (congrArg plain (breakLease_locked (s := asked s sid Obj.leaseBreak (natLE 1 1)) lease lock))
    exact ⟨_, rfl, trigger_idle (putLeaseBreak serves) act⟩
  case expired =>
    intro s h lease
    obtain ⟨gone, empty, shut⟩ := loseLease_held lease
    have logged := log_dict (s.loseLease h) 0x1101 sevInfo agentDictionary none h
    refine ⟨(s.loseLease h).log 0x1101 sevInfo agentDictionary none h, ?_, (lease_of logged).trans gone,
      (staged_of logged).trans empty, (lockOpenFor_of (lock_of logged) h).trans shut⟩
    show Host.Outcome.next (leaseExpired s) = _
    rw [leaseExpired, lease]
  case idle =>
    intro s sid present
    refine ⟨s.closeMuslin sid, ?_, closeMuslin_ends s sid⟩
    show Host.Outcome.next (sessionIdleTimeout sid s) = _
    rw [sessionIdleTimeout, if_pos present]

/-! ### The field lock -/

theorem putLockPassword {s : State} {sid : Nat} {pw : Bytes} (serves : s.serves 1 sid Obj.lockPassword = true)
    (short : 8 ≤ pw.length) (long : pw.length ≤ 64) (text : utf8From 0 0 0 pw = true) :
    Put s sid Obj.lockPassword pw ⟨0x110009, 0x110009, .str, .wo, 8, 64, .any, 0⟩ :=
  put_leaseFree serves (by decide) row_lockPassword (by decide) (by decide)
    (by simpa using List.ne_nil_of_length_pos (by omega)) (valueOk_pw pw short long text) rfl

theorem putLockResponse {s : State} {sid : Nat} {sig : Bytes} (serves : s.serves 1 sid Obj.lockResponse = true)
    (length : sig.length = 132) :
    Put s sid Obj.lockResponse sig ⟨0x110008, 0x110008, .blob, .wo, 132, 132, .any, 0⟩ :=
  put_leaseFree serves (by decide) row_lockResponse (by decide) (by decide)
    (by simpa using List.ne_nil_of_length_pos (by omega)) (by simp [valueOk, typeOk, length]) rfl

theorem putLockClose {s : State} {sid : Nat} (serves : s.serves 1 sid Obj.lockClose = true) :
    Put s sid Obj.lockClose (natLE 1 1) ⟨0x11000A, 0x11000A, .u8, .wo, 1, 1, .span 1 1 1, 0⟩ :=
  put_leaseFree serves (by decide) row_lockClose (by decide) (by decide) (by decide) (by decide) rfl

/-- What an attempt on a CLOSED lock does: it opens the lock, or is counted, and the fifth blocks it. -/
structure Attempted (s t : State) (sid : Nat) (good : Bool) : Prop where
  opened : good = true → t.dict.lock = .opened sid (s.num Obj.lockOpenTime) ∧ t.dict.failCount = 0
  failed : good = false → t.dict.failCount = s.dict.failCount + 1 ∧
    t.dict.lock = if s.dict.failCount + 1 < 5 then .closed else .blocked s.now
  nonce : t.dict.nonce = s.dict.nonce

theorem lockAttempt_attempted {s : State} (sid : Nat) (good : Bool) (closed : s.dict.lock = .closed) :
    Attempted s (s.lockAttempt sid good).1 sid good := by
  cases good with
  | true => exact ⟨fun _ => ⟨rfl, rfl⟩, nofun, rfl⟩
  | false =>
    obtain ⟨-, count, lock, nonce⟩ := failLock_eff s sid closed
    exact ⟨nofun, fun _ => ⟨count, lock⟩, nonce⟩

theorem lockAttempt_same (s : State) (sid : Nat) (good : Bool) : SameBut ps96 s (s.lockAttempt sid good).1 :=
  State_lockAttempt_same rfl s sid good (SameBut.refl _ s)

theorem Attempted.of_same {s t u : State} {sid : Nat} {good : Bool} (h : Attempted s t sid good) (k : SameBut [.window] t u) :
    Attempted s u sid good := by
  refine ⟨fun yes => ?_, fun no => ?_, (nonce_of k).trans h.nonce⟩
  · exact ⟨(lock_of k).trans (h.opened yes).1, (failCount_of k).trans (h.opened yes).2⟩
  · exact ⟨(failCount_of k).trans (h.failed no).1, (lock_of k).trans (h.failed no).2⟩

/-- The statement's form of an attempt with its answer. -/
theorem Attempted.answers {s t : State} {sid : Nat} {good : Bool} (h : Attempted s t sid good)
    (answer : t.answered sid (s.lockAttempt sid good).2 0) :
    if good then t.dict.lock = .opened sid (s.num Obj.lockOpenTime) ∧ t.dict.failCount = 0 ∧ t.answered sid dOk 0
    else t.dict.failCount = s.dict.failCount + 1 ∧ t.answered sid dDenied 0 ∧
      t.dict.lock = if s.dict.failCount + 1 < 5 then .closed else .blocked s.now := by
  cases good with
  | true => exact ⟨(h.opened rfl).1, (h.opened rfl).2, answer⟩
  | false => exact ⟨(h.failed rfl).1, answer, (h.failed rfl).2⟩

theorem tryPassword_closed {s : State} (sid : Nat) (pw : Bytes) (closed : s.dict.lock = .closed)
    (enabled : s.isOn Obj.lockPasswordEnable = true) : s.tryPassword sid pw = s.lockAttempt sid (s.passwordOk pw) := by
  simp [State.tryPassword, State.lockGate, closed, enabled]

theorem tryResponse_closed {s : State} (sid : Nat) (sig : Bytes) (closed : s.dict.lock = .closed) :
    s.tryResponse sid sig =
      ({ s with dict := { s.dict with nonce := none } } : State).lockAttempt sid (s.responseOk sid sig) := by
  simp [State.tryResponse, State.lockGate, closed]

theorem lockGate_blocked_or_opened {s : State} {sid st : Nat}
    (h : (∃ b, s.dict.lock = .blocked b) ∧ st = dLocked ∨ (∃ o n, s.dict.lock = .opened o n ∧ st = if o = sid then dOk else dBusy)) :
    s.lockGate sid = some st := by
  rcases h with ⟨⟨b, lock⟩, rfl⟩ | ⟨o, n, lock, rfl⟩ <;> simp [State.lockGate, lock]

theorem lockAnswer_of_gate {s : State} {sid key st : Nat} (hk : key = Obj.lockPassword ∨ key = Obj.lockResponse)
    (gate : s.lockGate sid = some st) : s.lockAnswer sid key = some st := by
  rcases hk with rfl | rfl <;> simp [State.lockAnswer, gate]

theorem lockAnswer_disabled {s : State} (sid : Nat) (closed : s.dict.lock = .closed)
    (disabled : s.isOn Obj.lockPasswordEnable = false) : s.lockAnswer sid Obj.lockPassword = some dLocked := by
  simp [State.lockAnswer, State.lockGate, closed, disabled]

/-- A write that the lock answers of itself changes nothing (R37, R38). -/
theorem dictPut_lockAnswered {s : State} {sid key st : Nat} {v : Bytes} {r : ObjRow} (serves : s.serves 1 sid key = true)
    (sub : key % 256 ≠ 0) (row : objRow key = some r) (acc : r.acc ≠ .ro) (free : leaseFree key = true) (ne : v ≠ [])
    (answer : s.lockAnswer sid key = some st) :
    (s.dictPut sid key v).answered sid st 0 ∧ SameBut [.window, .sessions] s (s.dictPut sid key v) := by
  have same : (asked s sid key v).lockAnswer sid key = some st := answer
  exact put_status serves sub row ne (by simp [State.serveWrite, acc, free, same])

theorem shutLock_opened {s : State} (sid : Nat) {o n : Nat} (lock : s.dict.lock = .opened o n) :
    s.shutLock sid = if o = sid then ({ s with dict := { s.dict with lock := .closed } }, dOk) else (s, dLocked) := by
  simp [State.shutLock, lock]

theorem shutLock_same (s : State) (sid : Nat) : SameBut [.lock] s (s.shutLock sid).1 :=
  State_shutLock_same rfl s sid (SameBut.refl _ s)

/-- A read of `LockNonce` issues a nonce and answers with it. -/
theorem lockNonce_issues {s : State} {sid : Nat} (serves : s.serves 0 sid Obj.lockNonce = true) :
    (lockNonce sid s).dict.nonce = some (Config.nonce s.dict.freeCount, s.now) ∧
      (lockNonce sid s).lastAnswer sid = some (readAnswer sid dOk 0 (natLE 32 (Config.nonce s.dict.freeCount).toNat)) := by
  have answer := dictRead_answers (r := ⟨0x110007, 0x110007, .blob, .ro, 32, 32, .any, 0⟩) (index := Obj.lockNonce / 256)
    (sub := Obj.lockNonce % 256) (offset := 0) serves (by decide) (by decide) row_lockNonce rfl (.inl rfl) rfl
  have key : Obj.lockNonce / 256 * 256 + Obj.lockNonce % 256 = Obj.lockNonce := by decide
  have issued := read_eq s sid (Obj.lockNonce / 256) (Obj.lockNonce % 256) 0 _ (key.symm ▸ serves) (by decide) (by decide) row_lockNonce rfl (.inl rfl)
  refine ⟨?_, answer⟩
  rw [lockNonce, issued]
  exact nonce_of (respond_same _ _)

/-- Settles O18: the attempts on a CLOSED lock, those that the lock answers of itself, and the rows that close it. -/
theorem lockFollowsItsTable : Obligations.LockFollowsItsTable := by
  unfold Obligations.LockFollowsItsTable
  refine ⟨?password, ?response, ?gate, ?disabled, ?nonce, ?close, ?openExpiry, ?blockExpiry⟩
  case password =>
    intro s sid pw serves closed short long text enabled
    have act := (write_lockPassword (asked s sid _ pw) sid pw).trans
      (congrArg plain (tryPassword_closed (s := asked s sid Obj.lockPassword pw) sid pw closed enabled))
    obtain ⟨window, answered⟩ := trigger_served (putLockPassword serves short long text) act (lockAttempt_same _ _ _) rfl
    have attempted := lockAttempt_attempted (s := asked s sid Obj.lockPassword pw) sid (s.passwordOk pw) closed
    exact ⟨_, rfl, (attempted.of_same window).answers answered⟩
  case response =>
    intro s sid sig serves closed length
    have act := (write_lockResponse (asked s sid _ sig) sid sig).trans
      (congrArg plain (tryResponse_closed (s := asked s sid Obj.lockResponse sig) sid sig closed))
    have frame : SameBut ps96 (asked s sid Obj.lockResponse sig)
        ((asked s sid Obj.lockResponse sig).tryResponse sid sig).1 := State_tryResponse_same rfl _ sid sig (SameBut.refl _ _)
    rw [tryResponse_closed (s := asked ..) sid sig closed] at frame
    obtain ⟨window, answered⟩ := trigger_served (putLockResponse serves length) act frame rfl
    have attempted := (lockAttempt_attempted (s := { asked s sid Obj.lockResponse sig with
      dict := { (asked s sid Obj.lockResponse sig).dict with nonce := none } }) sid (s.responseOk sid sig) closed).of_same window
    exact ⟨_, rfl, attempted.nonce, attempted.answers answered⟩
  case gate =>
    intro s sid st pw sig servesP servesR pwNe sigNe state
    have gate := lockGate_blocked_or_opened state
    have byPassword := dictPut_lockAnswered servesP (by decide) row_lockPassword (by decide) (by decide) pwNe
      (lockAnswer_of_gate (.inl rfl) gate)
    have byResponse := dictPut_lockAnswered servesR (by decide) row_lockResponse (by decide) (by decide) sigNe
      (lockAnswer_of_gate (.inr rfl) gate)
    exact ⟨_, _, rfl, byPassword.1, byPassword.2, rfl, byResponse⟩
  case disabled =>
    intro s sid pw serves closed ne disabled
    exact ⟨_, rfl, dictPut_lockAnswered serves (by decide) row_lockPassword (by decide) (by decide) ne
      (lockAnswer_disabled sid closed disabled)⟩
  case nonce =>
    intro s sid serves
    exact ⟨_, rfl, lockNonce_issues serves⟩
  case close =>
    intro s sid o n serves lock
    have act := (write_lockClose (asked s sid _ (natLE 1 1)) sid (natLE 1 1)).trans
      (congrArg plain (shutLock_opened (s := asked s sid Obj.lockClose (natLE 1 1)) sid lock))
    refine ⟨_, rfl, ?_⟩
    split
    case isTrue own =>
      rw [if_pos own] at act
      have frame := shutLock_same (asked s sid Obj.lockClose (natLE 1 1)) sid
      rw [shutLock_opened (s := asked ..) sid lock, if_pos own] at frame
      obtain ⟨window, answered⟩ := trigger_served (putLockClose serves) act frame rfl
      exact ⟨lock_of window, answered⟩
    case isFalse other =>
      rw [if_neg other] at act
      exact trigger_idle (putLockClose serves) act
  case openExpiry =>
    intro s sid o lock
    refine ⟨{ s with dict := { s.dict with lock := .closed } }, ?_, rfl, ?_⟩
    · show Host.Outcome.next (lockOpenTimeExpiry s) = _
      rw [lockOpenTimeExpiry, lock]
    · have frame := lockOpenTimeExpiry_same (fl := [.lock]) rfl s (SameBut.refl _ s)
      rwa [lockOpenTimeExpiry, lock] at frame
  case blockExpiry =>
    intro s b lock
    refine ⟨{ s with dict := { s.dict with lock := .closed, failCount := 0 } }, ?_, rfl, rfl, ?_⟩
    · show Host.Outcome.next (lockBlockExpiry s) = _
      rw [lockBlockExpiry, lock]
    · have frame := lockBlockExpiry_same (fl := [.lock]) rfl s (SameBut.refl _ s)
      rwa [lockBlockExpiry, lock] at frame

end Sys2Proof.Proofs
end

section
/-! Commits, discards, saves and step boundaries (R40 to R43, R257, R439), and the counter clears (R23). -/

set_option Elab.async false

namespace Sys2Proof.Proofs

open Sys2Proof Sys2Proof.Machine Sys2Proof.Laws

/-! ### COMMIT -/

theorem write_commit_asked (s : State) (sid : Nat) : (asked s sid Obj.commit (natLE 1 1)).writeValue sid
    ⟨0x120002, 0x120002, .u8, .wo, 1, 1, .span 1 1 1, 0⟩ Obj.commit (natLE 1 1) =
      (asked s sid Obj.commit (natLE 1 1)).commitNow sid :=
  write_commit _ sid (natLE 1 1)

/-- The staged set of the state as a commit's configuration (R41). -/
abbrev stagedCfg (s : State) (sid : Nat) : Cfg := { st := s, staged := s.dict.staged, sid := sid, self := false }

theorem commitNow_applies {s : State} {sid : Nat} {cl : Claims} (free : s.dict.queued = none)
    (good : (stagedCfg s sid).outcome = (dOk, 0, some cl)) (idle : s.computeIdle = true) :
    (asked s sid Obj.commit (natLE 1 1)).commitNow sid =
      ((asked s sid Obj.commit (natLE 1 1)).applySet false s.dict.staged cl, dOk, 0) := by
  rw [commitNow_asked s sid free, good]
  simp only [idle, if_true]

/-- A commit with the staged set in the queue. -/
def withQueued (s : State) (sid : Nat) : State :=
  { s with dict := { s.dict with queued := some { sid := sid, copy := s.dict.staged } } }

theorem withQueued_same (s : State) (sid : Nat) : SameBut [.staging] s (withQueued s sid) := by
  intro p hp
  cases p with
  | staging => exact absurd (List.mem_singleton_self _) hp
  | _ => exact rfl

theorem commitNow_queues {s : State} {sid : Nat} {cl : Claims} (free : s.dict.queued = none)
    (good : (stagedCfg s sid).outcome = (dOk, 0, some cl)) (busy : s.computeIdle = false) :
    (asked s sid Obj.commit (natLE 1 1)).commitNow sid =
      ((withQueued (asked s sid Obj.commit (natLE 1 1)) sid).commitEnds dQueued 0, dQueued, 0) := by
  rw [commitNow_asked s sid free, good]
  simp only [busy, Bool.false_eq_true, if_false]
  rfl

theorem commitNow_refuses {s : State} {sid st rule : Nat} (free : s.dict.queued = none)
    (bad : (stagedCfg s sid).outcome = (st, rule, none)) :
    (asked s sid Obj.commit (natLE 1 1)).commitNow sid = ((asked s sid Obj.commit (natLE 1 1)).commitEnds st rule, st, rule) := by
  rw [commitNow_asked s sid free, bad]

theorem commitNow_busy {s : State} (sid : Nat) {q : QueuedCommit} (queued : s.dict.queued = some q) :
    s.commitNow sid = (s, dBusy, 0) := by
  simp [State.commitNow, queued]

/-- An end that is no conflict is recorded, and nothing more. -/
theorem commitEnds_same (s : State) {st : Nat} (rule : Nat) (ok : st ≠ dConflict) : SameBut [.commits] s (s.commitEnds st rule) := by
  rw [State.commitEnds, if_neg ok]
  intro p hp
  cases p with
  | commits => exact absurd (List.mem_singleton_self _) hp
  | _ => exact rfl

theorem value_of_look {s : State} {k : Nat} {v : Bytes} (h : NMap.look s.dict.values k = some v) : s.value k = v := by
  rw [State.value, h]

theorem values_of {fl : List Facet} {s t : State} (h : SameBut fl s t) (hl : Facet.settings ∉ fl := by decide) :
    t.dict.values = s.dict.values := h .settings hl

theorem queued_same {fl : List Facet} {s t : State} (h : SameBut fl s t) (hl : Facet.staging ∉ fl := by decide) :
    t.dict.queued = s.dict.queued := congrArg Prod.snd (h .staging hl)

theorem commitRes_of {fl : List Facet} {s t : State} (h : SameBut fl s t) (hl : Facet.commits ∉ fl := by decide) :
    t.dict.commitRes = s.dict.commitRes := congrArg Prod.fst (h .commits hl)

theorem configGen_of {fl : List Facet} {s t : State} (h : SameBut fl s t) (hl : Facet.commits ∉ fl := by decide) :
    t.dict.configGen = s.dict.configGen := congrArg (·.2.1) (h .commits hl)

theorem claims_of {fl : List Facet} {s t : State} (h : SameBut fl s t) (hl : Facet.commits ∉ fl := by decide) :
    t.dict.claims = s.dict.claims := congrArg (·.2.2) (h .commits hl)

/-- Settles O19: the four answers of a commit, by the outcome of its checks. -/
theorem commitAppliesQueuesOrRefuses : Obligations.CommitAppliesQueuesOrRefuses := by
  unfold Obligations.CommitAppliesQueuesOrRefuses
  refine ⟨?applies, ?queues, ?refuses, ?busy⟩
  case applies =>
    intro s sid cl may free good idle nodup
    have window := (putCommit may).same ((write_commit_asked s sid).trans (commitNow_applies free good idle))
    obtain ⟨staged, queued, claims, gen, res, values⟩ :=
      applySet_eff (asked s sid Obj.commit (natLE 1 1)) s.dict.staged cl
    refine ⟨_, rfl, (staged_of window).trans staged, (queued_same window).trans queued, (claims_of window).trans claims,
      (configGen_of window).trans gen, (commitRes_of window).trans res, fun k v look once => value_of_look ?_⟩
    have inForce : (s.dictPutNum sid Obj.commit 1 1).dict.values = _ := (values_of window).trans values
    rw [inForce]
    exact fold_values false s.dict.staged _ nodup k v look once
  case queues =>
    intro s sid cl may free good busy
    have act := (write_commit_asked s sid).trans (commitNow_queues free good busy)
    have queued := withQueued_same (asked s sid Obj.commit (natLE 1 1)) sid
    have ended := commitEnds_same (withQueued (asked s sid Obj.commit (natLE 1 1)) sid) (st := dQueued) 0 (by decide)
    obtain ⟨window, answered⟩ := (putCommit may).res act
      (((sameOpen ended (by decide) sid).trans (sameOpen queued (by decide) sid)).trans (asked_open _ _ _ _ _))
    have copied := (queued_same window).trans (queued_same ended)
    have kept := (staged_of window).trans (staged_of ended)
    exact ⟨_, rfl, copied, kept, answered,
      sameBut_then (sameBut_then (sameBut_then (asked_frame rfl s sid _ _) rfl queued) rfl ended) rfl window⟩
  case refuses =>
    intro s sid st rule may free bad
    have act := (write_commit_asked s sid).trans (commitNow_refuses free bad)
    obtain ⟨ended, res, gen, -, -⟩ := commitEnds_res (asked s sid Obj.commit (natLE 1 1)) st rule
    obtain ⟨window, answered⟩ := (putCommit may).res act ((sameOpen ended (by decide) sid).trans (asked_open _ _ _ _ _))
    exact ⟨_, rfl, answered, (commitRes_of window).trans res, (configGen_of window).trans gen,
      sameBut_then (sameBut_then (asked_frame rfl s sid _ _) rfl ended) rfl window⟩
  case busy =>
    intro s sid q may queued
    have act := (write_commit_asked s sid).trans (commitNow_busy (s := asked s sid Obj.commit (natLE 1 1)) sid queued)
    exact ⟨_, rfl, trigger_idle (putCommit may) act⟩

/-! ### Discards, saves and the end of the commit wait -/

theorem putStageDiscard {s : State} {sid : Nat} (may : s.mayWrite sid Obj.stageDiscard = true) :
    Put s sid Obj.stageDiscard (natLE 1 1) ⟨0x120003, 0x120003, .u8, .wo, 1, 1, .span 1 1 1, 0⟩ :=
  Put.of may (by decide) row_stageDiscard (by decide) (by decide) (by decide) rfl

theorem putSettingsSave {s : State} {sid : Nat} (may : s.mayWrite sid Obj.settingsSave = true) :
    Put s sid Obj.settingsSave (natLE 1 1) ⟨0x120009, 0x120009, .u8, .wo, 1, 1, .span 1 1 1, 0⟩ :=
  Put.of may (by decide) row_settingsSave (by decide) (by decide) (by decide) rfl

theorem discardStage_queued (s : State) : s.discardStage.dict.queued = none := (withdraw_eff s).1

/-- Settles O20: each row by its own operation. -/
theorem stagedSetAndBlob : Obligations.StagedSetAndBlob := by
  unfold Obligations.StagedSetAndBlob
  refine ⟨?discard, ?save, ?expiry⟩
  case discard =>
    intro s sid may
    have act := write_stageDiscard (asked s sid Obj.stageDiscard (natLE 1 1)) sid (natLE 1 1)
    have frame := State_discardStage_same (fl := [.staging, .commits]) rfl (asked s sid Obj.stageDiscard (natLE 1 1)) (SameBut.refl _ _)
    obtain ⟨window, answered⟩ := trigger_served (putStageDiscard may) act frame rfl
    exact ⟨_, rfl, staged_of window, (queued_same window).trans (discardStage_queued _), answered⟩
  case save =>
    intro s sid may
    have act := write_settingsSave (asked s sid Obj.settingsSave (natLE 1 1)) sid (natLE 1 1)
    have frame := State_saveSettings_same (fl := [.blobs]) rfl (asked s sid Obj.settingsSave (natLE 1 1)) (SameBut.refl _ _)
    obtain ⟨window, answered⟩ := trigger_served (putSettingsSave may) act frame rfl
    have saved : (s.dictPut sid Obj.settingsSave (natLE 1 1)).dict.blobCur =
        some (asked s sid Obj.settingsSave (natLE 1 1)).blobNow := congrArg Prod.fst (Facet.get window .blobs)
    exact ⟨_, rfl, saved.trans (congrArg some (blobNow_asked ..)), answered,
      sameBut_then (sameBut_then (asked_frame rfl s sid _ _) rfl frame) rfl window⟩
  case expiry =>
    intro s q limit queued
    obtain ⟨withdrawn, staged, frame, res⟩ := withdraw_eff s
    refine ⟨s.withdrawCommit, ?_, withdrawn, res (by simp [queued]), staged, frame⟩
    show Host.Outcome.next (commitWaitExpiry s) = _
    rw [commitWaitExpiry, if_neg limit]

/-! ### Step boundaries -/

/-- The boundary after its commit and before its pause: the step counted, the floor set, and its STEP_END taken. -/
def boundaryCounted (u : State) : State :=
  let v := ({ u with det := { u.det with step := u.det.step + 1 } } : State).floorBoundary
  { v with ledger := { v.ledger with ends := v.ledger.ends.drop 1 } }

theorem stepBoundary_taken {s : State} (ready : s.boundaryReady = true) :
    stepBoundary s = (boundaryCounted s.closure.boundaryCommit).boundaryPause.idleActions.refuseCoops := by
  simp only [stepBoundary, ready, Bool.not_true, Bool.false_eq_true, if_false]
  rfl

theorem boundaryCounted_eff (u : State) :
    (boundaryCounted u).dict = u.dict ∧ (boundaryCounted u).det = { u.det with step := u.det.step + 1 } := ⟨rfl, rfl⟩

theorem closure_same (s : State) : SameBut ps132 s s.closure := State_closure_same rfl s (SameBut.refl _ s)

theorem refuseCoops_same (s : State) : SameBut [.ledger] s s.refuseCoops := State_refuseCoops_same rfl s (SameBut.refl _ s)

/-- Settles O21: the queued commit ends at the boundary, and without one only the step counter moves. -/
theorem stepBoundaryCounts : Obligations.StepBoundaryCounts := by
  unfold Obligations.StepBoundaryCounts
  intro s ready
  have closed := closure_same s
  obtain ⟨ended, unchanged⟩ := boundaryCommit_eff s.closure
  obtain ⟨dict, det⟩ := boundaryCounted_eff s.closure.boundaryCommit
  obtain ⟨queued, tailDet, tailValues⟩ := boundary_tail (boundaryCounted s.closure.boundaryCommit) ended
  have coops := refuseCoops_same (boundaryCounted s.closure.boundaryCommit).boundaryPause.idleActions
  refine ⟨_, congrArg Host.Outcome.next (stepBoundary_taken ready), (queued_same coops).trans queued, fun free => ?_⟩
  rw [unchanged ((queued_same closed).trans free)] at det dict tailDet tailValues coops ⊢
  have kept : s.closure.dict.values = s.dict.values := values_of closed
  refine ⟨?_, (values_of coops).trans (tailValues.trans kept)⟩
  have step := congrArg Det.step ((Facet.get coops .det).trans (tailDet.trans det))
  rw [step, show s.closure.det = s.det from Facet.get closed .det]

/-! ### Counter clears -/

/-- The counters of each range of keys set to 0. -/
def clearRanges (l : List (Nat × Nat)) (s : State) : State := l.foldl (fun (t : State) r => t.clearCounters r.1 r.2) s

theorem clearRanges_same (l : List (Nat × Nat)) (s : State) : SameBut [.counters, .bw] s (clearRanges l s) :=
  foldl_same l _ (SameBut.refl _ s) fun _ _ h => State_clearCounters_same rfl _ _ _ h

theorem counter_clearRanges (l : List (Nat × Nat)) (s : State) (k : Nat) :
    (clearRanges l s).counter k = if l.any (fun r => decide (r.1 ≤ k) && decide (k ≤ r.2)) then 0 else s.counter k := by
  induction l generalizing s with
  | nil => rfl
  | cons r l ih =>
    rw [clearRanges, List.foldl_cons, ← clearRanges, ih, counter_clear]
    by_cases inside : r.1 ≤ k ∧ k ≤ r.2
    · simp [inside]
    · have out : (decide (r.1 ≤ k) && decide (k ≤ r.2)) = false := by simpa using inside
      rw [if_neg inside, List.any_cons, out, Bool.false_or]

/-- A row of the counter clears whose action clears the ranges of its table. -/
theorem clear_ranges {s : State} {sid key : Nat} (k : Nat) {r : ObjRow} (may : s.mayWrite sid key = true) (sub : key % 256 ≠ 0)
    (row : objRow key = some r) (acc : r.acc ≠ .ro) (ok : valueOk r (natLE 1 1) = true)
    (range : ∀ s : State, s.rangeOk r key (natLE 1 1) = true)
    (act : ∀ t : State, t.writeValue sid r key (natLE 1 1) = plain (clearRanges (clearedBy key) t, dOk)) :
    (s.dictPutNum sid key 1 1).answered sid dOk 0 ∧ SameBut [.window, .sessions, .counters, .bw] s (s.dictPutNum sid key 1 1) ∧
      (s.dictPutNum sid key 1 1).counter k =
        if (clearedBy key).any (fun r => decide (r.1 ≤ k) && decide (k ≤ r.2)) then 0 else s.counter k :=
  clear_one s sid key k r (clearRanges (clearedBy key)) may sub row acc ok range act (clearRanges_same _)
    fun t => counter_clearRanges _ t k

theorem clearBw_same (s : State) : SameBut [.counters, .bw] s s.clearBw := State_clearBw_same rfl s (SameBut.refl _ s)

theorem clearedBy_bwCounterClear : clearedBy Obj.bwCounterClear = [(0x320003, 0x320004), (0x324001, 0x324706)] := by decide

theorem clearBw_counter (s : State) (k : Nat) :
    s.clearBw.counter k = ((s.clearCounters 0x320003 0x320004).clearCounters 0x324001 0x324706).counter k := by
  unfold State.clearBw State.counter
  rfl

theorem counter_clearBw (s : State) (k : Nat) : s.clearBw.counter k =
    if (clearedBy Obj.bwCounterClear).any (fun r => decide (r.1 ≤ k) && decide (k ≤ r.2)) then 0 else s.counter k := by
  rw [clearedBy_bwCounterClear, clearBw_counter, ← counter_clearRanges]
  simp only [clearRanges, List.foldl_cons, List.foldl_nil]

/-- Settles O22: each row clears the ranges of its table; `BwCounterClear` clears the parts of its counters that no object shows as well. -/
theorem counterClearsClearTheirCounters : Obligations.CounterClearsClearTheirCounters := by
  unfold Obligations.CounterClearsClearTheirCounters
  intro s sid key k c row may
  simp only [List.mem_cons, List.not_mem_nil, or_false, Prod.mk.injEq] at row
  rcases row with ⟨rfl, rfl⟩ | ⟨rfl, rfl⟩ | ⟨rfl, rfl⟩ | ⟨rfl, rfl⟩ | ⟨rfl, rfl⟩ | ⟨rfl, rfl⟩ | ⟨rfl, rfl⟩ | ⟨rfl, rfl⟩ |
    ⟨rfl, rfl⟩ | ⟨rfl, rfl⟩ | ⟨rfl, rfl⟩ | ⟨rfl, rfl⟩
  · exact ⟨_, rfl, clear_ranges k may (by decide) row_matrixCounterClear (by decide) (by decide) (fun _ => rfl) (write_matrixCounterClear · sid _)⟩
  · exact ⟨_, rfl, clear_ranges k may (by decide) row_formatCounterClear (by decide) (by decide) (fun _ => rfl) fun _ => rfl⟩
  · exact ⟨_, rfl, clear_ranges k may (by decide) row_execCounterClear (by decide) (by decide) (fun _ => rfl) fun _ => rfl⟩
  · exact ⟨_, rfl, clear_ranges k may (by decide) row_feltCounterClear (by decide) (by decide) (fun _ => rfl) fun _ => rfl⟩
  · exact ⟨_, rfl, clear_ranges k may (by decide) row_tierCounterClear (by decide) (by decide) (fun _ => rfl) fun _ => rfl⟩
  · exact ⟨_, rfl, clear_one s sid Obj.bwCounterClear k _ State.clearBw may (by decide) row_bwCounterClear (by decide) (by decide)
      (fun _ => rfl) (fun t => write_bwCounterClear t sid _) clearBw_same fun t => counter_clearBw t k⟩
  · exact ⟨_, rfl, clear_ranges k may (by decide) row_schedCounterClear (by decide) (by decide) (fun _ => rfl) fun _ => rfl⟩
  · exact ⟨_, rfl, clear_ranges k may (by decide) row_integrityCounterClear (by decide) (by decide) (fun _ => rfl) fun _ => rfl⟩
  · exact ⟨_, rfl, clear_ranges k may (by decide) row_powerCounterClear (by decide) (by decide) (fun _ => rfl) fun _ => rfl⟩
  · exact ⟨_, rfl, clear_ranges k may (by decide) row_thermalCounterClear (by decide) (by decide) (fun _ => rfl) fun _ => rfl⟩
  · exact ⟨_, rfl, clear_ranges k may (by decide) row_interfaceCounterClear (by decide) (by decide) (fun _ => rfl) fun _ => rfl⟩
  · exact ⟨_, rfl, clear_ranges k may (by decide) row_boardCounterClear (by decide) (by decide) (fun _ => rfl) fun _ => rfl⟩

end Sys2Proof.Proofs
end

section
/-! Functions of R50: requests, the ends of their sequences (R51), and the gate steps of domains (R322 to R324). -/

set_option Elab.async false

namespace Sys2Proof.Proofs

open Sys2Proof Sys2Proof.Machine Sys2Proof.Laws

/-! ### The state of one function while another changes -/

theorem func_eq_of_no {s : State} {f g : Func} (h : funcNo g = funcNo f) : s.func g = s.func f := by
  rw [State.func, State.func, h]

theorem func_setFunc_other (s : State) {f g : Func} (x : FState) (h : funcNo f ≠ funcNo g) : (s.setFunc g x).func f = s.func f :=
  lookD_put_other _ _ _ _ _ h

theorem func_startEnable_other (s : State) {f g : Func} (h : funcNo f ≠ funcNo g) : (s.startEnable g).func f = s.func f := by
  refine Eq.trans ?_ (func_setFunc_other s .enabling h)
  cases g <;> rfl

theorem func_startShutdown_other (s : State) {f g : Func} (h : funcNo f ≠ funcNo g) : (s.startShutdown g).func f = s.func f := by
  refine Eq.trans ?_ (func_setFunc_other s .disabling h)
  cases g with
  | tier2 p => exact func_of (State_abortTo_same (fl := ps132) rfl _ _ (SameBut.refl _ _)) (by decide) f
  | _ => rfl

theorem func_reach_other (s : State) {f g : Func} (x : FState) (h : funcNo f ≠ funcNo g) : (s.reach g x).func f = s.func f :=
  (func_of (State_logFunc_same (fl := ps63) rfl (s.setFunc g x) g (SameBut.refl _ _)) (by decide) f).trans (func_setFunc_other s x h)

theorem func_enableFunc_other (s : State) {f g : Func} (h : funcNo f ≠ funcNo g) : (s.enableFunc g).1.func f = s.func f := by
  unfold State.enableFunc
  cases s.func g with
  | off => exact func_startEnable_other s h
  | disabling => exact func_setFunc_other s _ h
  | enablingDisableQueued => exact func_setFunc_other s _ h
  | _ => rfl

theorem func_disableFunc_other (s : State) {f g : Func} (h : funcNo f ≠ funcNo g) : (s.disableFunc g).1.func f = s.func f := by
  unfold State.disableFunc
  cases s.func g with
  | enabling => exact func_setFunc_other s _ h
  | on => exact func_startShutdown_other s h
  | disablingEnableQueued => exact func_setFunc_other s _ h
  | heldDown =>
    dsimp only
    split
    · rfl
    · exact func_reach_other s _ h
  | _ => rfl

theorem enableFunc_on {s : State} {f : Func} (h : s.func f = .on) : s.enableFunc f = (s, dOk) := by rw [State.enableFunc, h]

theorem enableFunc_heldDown {s : State} {f : Func} (h : s.func f = .heldDown) : s.enableFunc f = (s, dBusy) := by
  rw [State.enableFunc, h]

theorem disableFunc_on {s : State} {f : Func} (h : s.func f = .on) : s.disableFunc f = (s.startShutdown f, dOk) := by
  rw [State.disableFunc, h]

/-- Functions asked on leave alone one that is ON or HELD_DOWN, and one that is none of them. -/
theorem func_foldl_enableFunc {f : Func} {x : FState} (l : List Nat) (s : State) (h : s.func f = x)
    (stays : x = .on ∨ x = .heldDown ∨ ∀ c ∈ l, funcNo f ≠ funcNo (.domain c)) :
    (l.foldl (fun (t : State) c => (t.enableFunc (.domain c)).1) s).func f = x := by
  induction l generalizing s with
  | nil => exact h
  | cons c l ih =>
    refine ih _ ?_ (stays.imp_right (Or.imp_right fun other d hd => other d (List.mem_cons_of_mem c hd)))
    show (s.enableFunc (.domain c)).1.func f = x
    by_cases same : funcNo f = funcNo (.domain c)
    · have isX : s.func (.domain c) = x := (func_eq_of_no same.symm).trans h
      rcases stays with rfl | rfl | other
      · rw [enableFunc_on isX]
        exact h
      · rw [enableFunc_heldDown isX]
        exact h
      · exact absurd same (other c List.mem_cons_self)
    · exact (func_enableFunc_other s same).trans h

theorem func_wakeRows {s : State} {f : Func} {x : FState} (h : s.func f = x)
    (stays : x = .on ∨ x = .heldDown ∨
      (s.thermal.modSt = .changing 0 → ∀ c, c < 12 → s.rowWanted c = true → funcNo f ≠ funcNo (.domain c))) :
    s.wakeRows.func f = x := by
  unfold State.wakeRows
  split
  case isFalse => exact h
  case isTrue waking =>
    have changing : s.thermal.modSt = .changing 0 := by
      simp only [Bool.and_eq_true, beq_iff_eq] at waking
      exact waking.1
    refine func_foldl_enableFunc _ s h (stays.imp_right (Or.imp_right fun other c hc => ?_))
    rw [List.mem_filter, List.mem_range] at hc
    exact other changing c hc.1 hc.2

theorem func_afterFault (s : State) (f : Func) : s.afterFault.func f = s.func f :=
  func_of (State_afterFault_same (fl := ps136) rfl s (SameBut.refl _ s)) (by decide) f

/-! ### The end of an enable sequence -/

theorem enableSequenceComplete_ends {s : State} {f : Func} {ok : Bool} (on : (s.func f).turningOn = true)
    (done : ok = true → s.sequenceDone f = true) : enableSequenceComplete f ok s = s.endEnable f ok := by
  unfold enableSequenceComplete
  rw [if_neg]
  cases ok with
  | true => simp [on, done rfl]
  | false => simp [on]

theorem endEnable_on {s : State} {f : Func} (x : s.func f = .enabling) : (s.endEnable f true).func f = .on := by
  simp only [State.endEnable, x]
  exact func_wakeRows ((func_turnedOn _ f).trans (func_reach s f .on)) (.inl rfl)

theorem endEnable_failed {s : State} {f : Func} (x : s.func f = .enabling) : (s.endEnable f false).func f = .heldDown := by
  simp only [State.endEnable, x]
  exact func_wakeRows (func_reach s f .heldDown) (.inr (.inl rfl))

theorem rowWanted_of {s t : State} (cells : t.power.cells = s.power.cells) (values : t.dict.values = s.dict.values)
    (fuses : t.fuses = s.fuses) (c : Nat) : t.rowWanted c = s.rowWanted c := by
  unfold State.rowWanted State.rowShed State.num State.value State.defaultOf State.tileCount
  rw [cells, values, fuses]

theorem startShutdown_calm (s : State) (f : Func) : Calm s (s.startShutdown f) :=
  calm_of (Facet.get (State_startShutdown_same (fl := ps143) rfl s f (SameBut.refl _ s)) .thermal)

theorem startShutdown_cells (s : State) (f : Func) : (s.startShutdown f).power.cells = s.power.cells := by
  cases f with
  | tier2 p =>
    have aborted := State_abortTo_same (fl := ps132) rfl (s.setFunc (.tier2 p) .disabling) (p + 1) (SameBut.refl _ _)
    exact congrArg Power.cells (aborted .power (by decide))
  | _ => rfl

/-- A function that has just turned on, on the way off again. -/
theorem turnedOn_startShutdown_kept (s : State) (f : Func) :
    Calm s (((s.reach f .on).turnedOn f).startShutdown f) ∧
      ∀ c, (((s.reach f .on).turnedOn f).startShutdown f).rowWanted c = s.rowWanted c := by
  have reached := State_reach_same (fl := ps92) rfl s f .on (SameBut.refl _ s)
  have turned := State_turnedOn_same (fl := [.thermal]) rfl (s.reach f .on) f (SameBut.refl _ _)
  have shut := State_startShutdown_same (fl := ps143) rfl ((s.reach f .on).turnedOn f) f (SameBut.refl _ _)
  refine ⟨(calm_reach s f .on).trans ((calm_turnedOn _ f).trans (startShutdown_calm _ f)), fun c => rowWanted_of ?_ ?_ ?_ c⟩
  · rw [startShutdown_cells, power_of turned (by decide), power_of reached (by decide)]
  · exact (values_of shut).trans ((values_of turned).trans (values_of reached))
  · exact (Facet.get shut .fuses).trans ((Facet.get turned .fuses).trans (Facet.get reached .fuses))

/-- No function but a domain has a domain's number. -/
theorem funcNo_ne_domain {f : Func} (wf : f.wf = true) {c : Nat} (other : f ≠ .domain c) : funcNo f ≠ funcNo (.domain c) := by
  cases f with
  | tiering => simp only [funcNo]; omega
  | scrub => simp only [funcNo]; omega
  | tier2 p =>
    simp only [Func.wf, decide_eq_true_eq] at wf
    simp only [funcNo]
    omega
  | peer p =>
    simp only [Func.wf, decide_eq_true_eq] at wf
    simp only [funcNo]
    omega
  | domain d =>
    have ne : d ≠ c := fun eq => other (congrArg _ eq)
    simp only [funcNo]
    omega

theorem endEnable_disableQueued {s : State} {f : Func} (wf : f.wf = true) (x : s.func f = .enablingDisableQueued)
    (unwanted : ∀ c, f = .domain c → s.thermal.modSt = .changing 0 → s.rowWanted c = false) :
    (s.endEnable f true).func f = .disabling := by
  have isOn : ((s.reach f .on).turnedOn f).func f = .on := (func_turnedOn _ f).trans (func_reach s f .on)
  obtain ⟨calm, wanted⟩ := turnedOn_startShutdown_kept s f
  simp only [State.endEnable, x, beq_self_eq_true, if_true, disableFunc_on isOn]
  refine func_wakeRows (func_startShutdown _ f) (.inr (.inr fun changing c _ row => funcNo_ne_domain wf fun isC => ?_))
  rw [wanted c, unwanted c isC (calm.2.symm.trans changing)] at row
  exact Bool.false_ne_true row

/-! ### The end of a shut-down -/

theorem shutdownComplete_ends {s : State} {f : Func} (off : (s.func f).turningOff = true) (ready : s.shutdownReady f = true)
    (gates : s.gatesOpen f = true) : shutdownComplete f s =
      (if s.func f = .disablingEnableQueued then ((s.turnOff f).reach f .off).startEnable f
        else (s.turnOff f).reach f .off).downTurn := by
  simp only [shutdownComplete, off, ready, gates, Bool.and_self, if_true]

/-- Functions asked off leave alone one that is OFF. -/
theorem func_askOff_off {s : State} {f : Func} (l : List Func) (h : s.func f = .off) : (s.askOff l).func f = .off := by
  unfold State.askOff
  induction l generalizing s with
  | nil => exact h
  | cons g l ih =>
    refine ih ?_
    show (if s.isDown g then s else (s.disableFunc g).1).func f = .off
    by_cases same : funcNo f = funcNo g
    · have down : s.isDown g = true := by simp [State.isDown, func_eq_of_no same.symm, h]
      rw [if_pos down]
      exact h
    · split
      · exact h
      · exact (func_disableFunc_other s same).trans h

theorem func_downTurn_off {s : State} {f : Func} (h : s.func f = .off) : s.downTurn.func f = .off := by
  have flushed : (s.closure.flushAll true).func f = .off :=
    (func_of (State_flushAll_same (fl := ps120) rfl s.closure true (SameBut.refl _ _)) (by decide) f).trans
      ((func_of (closure_same s) (by decide) f).trans h)
  unfold State.downTurn
  split
  · split
    · exact h
    · split
      · exact func_askOff_off standbyFuncs flushed
      · split
        · exact func_askOff_off dormantFuncs h
        · exact h
  · exact h

theorem downTurn_not_down {s : State} (h : ∀ n, s.thermal.modSt = .changing n → n = 0) : s.downTurn = s := by
  unfold State.downTurn
  split
  · rename_i n changing
    rw [if_pos (by simp [h n changing])]
  · rfl

theorem turnOff_calm (s : State) (f : Func) : Calm s (s.turnOff f) := by
  cases f with
  | domain c => exact calm_turnOff s c
  | tier2 p =>
    have cleaned := State_cleanTier_same (fl := ps120) rfl s (p + 1) (SameBut.refl _ s)
    refine Calm.trans (calm_of ?_) (calm_of (Facet.get (State_tier2Drop_same (fl := ps79) rfl _ p (SameBut.refl _ _)) .thermal))
    split
    · exact Facet.get cleaned .thermal
    · rfl
  | peer p => exact calm_of (Facet.get (State_endPeerWork_same (fl := ps106) rfl s p (SameBut.refl _ s)) .thermal)
  | _ => exact ⟨rfl, rfl⟩

theorem startEnable_calm (s : State) (f : Func) : Calm s (s.startEnable f) :=
  calm_of (Facet.get (State_startEnable_same (fl := ps42) rfl s f (SameBut.refl _ s)) .thermal)

/-! ### Gate steps -/

theorem domainGateStepGrant_granted {s : State} {c offset amps : Nat} (hc : c < 20) (waits : s.gateWaits c = true)
    (first : s.gateBehind c = false) (near : offset ≤ 10) (inrush : s.power.rise + amps ≤ 300) :
    domainGateStepGrant c offset amps s = ({ s with power := { s.power with rise := s.power.rise + amps } } : State).setGate c
      (if (s.func (.domain c)).turningOn then (s.gate c).steps + 1 else (s.gate c).steps - 1) := by
  unfold domainGateStepGrant
  rw [if_pos (by simp [hc, waits, first, near, inrush])]
  rfl

theorem domainGateStepGrant_not {s : State} {c offset amps : Nat}
    (h : 10 < offset ∨ 300 < s.power.rise + amps ∨ s.gateBehind c = true) : domainGateStepGrant c offset amps s = s := by
  unfold domainGateStepGrant
  rw [if_neg]
  rcases h with far | inrush | behind
  · simp [far]
  · simp [inrush]
  · simp [behind]

theorem gate_setGate (s : State) (c n : Nat) : ((s.setGate c n).gate c).steps = n := by
  unfold State.gate State.setGate
  rw [lookD_put_same]

/-! ### Requests -/

/-- The value of an enable object is a BOOL, and every write of one is in its range. -/
theorem boolRow_ok (first last : Nat) (dflt : Nat) (b : Bool) :
    valueOk ⟨first, last, .bool, .rw, 1, 1, .codes 2, dflt⟩ (natLE 1 (bit01 b)) = true := by
  cases b <;> rfl

/-- A request by the write of an enable object: R50's table. -/
theorem switch_row {s : State} {sid key first last dflt : Nat} {f : Func} {on off : Instr} {up : Bool} {cl : Claims}
    (may : s.mayWrite sid key = true) (claims : ({ st := s, staged := [(key, natLE 1 (bit01 up))], sid := 1, self := true } : Cfg).claims = some cl)
    (onIs : exec on s = .next (s.dictPutNum sid key 1 1)) (offIs : exec off s = .next (s.dictPutNum sid key 1 0))
    (port : ∀ c, f ≠ .domain c) (sub : key % 256 ≠ 0) (row : objRow key = some ⟨first, last, .bool, .rw, 1, 1, .codes 2, dflt⟩)
    (range : ∀ b, s.rangeOk ⟨first, last, .bool, .rw, 1, 1, .codes 2, dflt⟩ key (natLE 1 (bit01 b)) = true)
    (act : ∀ (t : State) v, t.writeValue sid ⟨first, last, .bool, .rw, 1, 1, .codes 2, dflt⟩ key v =
      plain (t.funcWrite f key (leNat v == 1))) (other : Obj.muslinEnable ≠ key) :
    ∃ t, exec (if up then on else off) s = .next t ∧ t.func f = (switchTable (s.func f) up).1 ∧
      t.answered sid (switchTable (s.func f) up).2 0 ∧
      (if (switchTable (s.func f) up).2 = dBusy then t.value key = s.value key else t.value key = natLE 1 (bit01 up)) := by
  refine ⟨s.dictPutNum sid key 1 (bit01 up), ?_,
    switch_core s sid key f up cl _ port sub row (by simp) (boolRow_ok first last dflt) range act other may claims⟩
  cases up with
  | true => exact onIs
  | false => exact offIs

/-- The range of an enable object does not depend on the state. -/
theorem bool_inRange (s : State) (first last dflt key : Nat) (hk : key ≠ Obj.rngProbeInput) (b : Bool) :
    s.rangeOk ⟨first, last, .bool, .rw, 1, 1, .codes 2, dflt⟩ key (natLE 1 (bit01 b)) = true := by
  cases b <;> simp [State.rangeOk, hk] <;> rfl

/-- Settles O23: the requests by the table of R50, and each end of a sequence by the state that it leaves the function in. -/
theorem functionsFollowTheirTable : Obligations.FunctionsFollowTheirTable := by
  unfold Obligations.FunctionsFollowTheirTable
  refine ⟨?requests, ?on, ?offAgain, ?failed, ?off, ?onAgain, ?granted, ?notGranted, ?held⟩
  case requests =>
    intro s sid key p q f on off up cl hp hq row may claims
    simp only [List.mem_cons, List.not_mem_nil, or_false, Prod.mk.injEq] at row
    rcases row with ⟨rfl, rfl, rfl, rfl⟩ | ⟨rfl, rfl, rfl, rfl⟩ | ⟨rfl, rfl, rfl, rfl⟩ | ⟨rfl, rfl, rfl, rfl⟩
    · exact switch_row may claims rfl rfl nofun (by decide) row_tieringEnable (bool_inRange s _ _ _ _ (by decide))
        (fun t v => write_tieringEnable t sid v) (by decide)
    · exact switch_row may claims rfl rfl nofun (by decide) row_scrubEnable (bool_inRange s _ _ _ _ (by decide))
        (fun t v => write_scrubEnable t sid v) (by decide)
    · rcases (by omega : p = 0 ∨ p = 1) with rfl | rfl
      · exact switch_row may claims rfl rfl nofun (by decide) row_tier2Enable0 (bool_inRange s _ _ _ _ (by decide))
          (fun t v => write_tier2Enable0 t sid v) (by decide)
      · exact switch_row may claims rfl rfl nofun (by decide) row_tier2Enable1 (bool_inRange s _ _ _ _ (by decide))
          (fun t v => write_tier2Enable1 t sid v) (by decide)
    · have key : portKey Obj.peerPortEnable 18 q = Obj.peerPortEnable + q := if_pos hq
      refine switch_row may claims ?_ ?_ nofun ?_ (row_peer q hq) (bool_inRange s _ _ _ _ ?_) (fun t v => write_peer t sid q hq v) ?_
      · rw [← key]
        rfl
      · rw [← key]
        rfl
      · simp only [Obj.peerPortEnable]
        omega
      · simp only [Obj.peerPortEnable, Obj.rngProbeInput]
        omega
      · simp only [Obj.peerPortEnable, Obj.muslinEnable]
        omega
  case on =>
    intro s f x done
    refine ⟨_, rfl, (func_afterFault _ f).trans ?_⟩
    rw [enableSequenceComplete_ends (by rw [x]; rfl) fun _ => done]
    exact endEnable_on x
  case offAgain =>
    intro s f wf x done unwanted
    refine ⟨_, rfl, (func_afterFault _ f).trans ?_⟩
    rw [enableSequenceComplete_ends (by rw [x]; rfl) fun _ => done]
    exact endEnable_disableQueued wf x unwanted
  case failed =>
    intro s f x
    refine ⟨_, rfl, (func_afterFault _ f).trans ?_⟩
    rw [enableSequenceComplete_ends (ok := false) (by rw [x]; rfl) fun h => absurd h (by decide)]
    exact endEnable_failed x
  case off =>
    intro s f x ready gates
    refine ⟨_, congrArg Host.Outcome.next (shutdownComplete_ends (by rw [x]; rfl) ready gates), ?_⟩
    rw [if_neg (by rw [x]; decide)]
    exact func_downTurn_off (func_reach _ f .off)
  case onAgain =>
    intro s f x ready gates up
    refine ⟨_, congrArg Host.Outcome.next (shutdownComplete_ends (by rw [x]; rfl) ready gates), ?_⟩
    have calm := (turnOff_calm s f).trans ((calm_reach _ f .off).trans (startEnable_calm _ f))
    rw [if_pos x, downTurn_not_down fun n changing => up n (calm.2.symm.trans changing)]
    exact func_startEnable _ f
  case granted =>
    intro s c offset amps hc waits first near inrush
    refine ⟨_, congrArg Host.Outcome.next (domainGateStepGrant_granted hc waits first near inrush), rfl, ?_, gate_setGate _ c _⟩
    have frame := domainGateStepGrant_same (fl := [.power]) rfl c offset amps s (SameBut.refl _ s)
    rwa [domainGateStepGrant_granted hc waits first near inrush] at frame
  case notGranted =>
    intro s c offset amps h
    exact congrArg Host.Outcome.next (domainGateStepGrant_not h)
  case held =>
    intro s c hc x
    refine ⟨_, rfl, (func_afterFault _ _).trans ?_⟩
    rw [domainEnableFailed, if_pos (by simp [hc, x, FState.turningOn])]
    exact endEnable_failed x

end Sys2Proof.Proofs
end

section
/-! Triggers of the ledger and the scheduler (R244, R257, R265, R281), triggers of one register (R196, R274, R283, R309, R361), and requests for
states of the module and resets (R354, R355, R387, R388). -/

set_option Elab.async false

namespace Sys2Proof.Proofs

open Sys2Proof Sys2Proof.Machine Sys2Proof.Laws

/-! ### The values and the ledger over a frame -/

theorem num_of {fl : List Facet} {s t : State} (h : SameBut fl s t) (hl : Facet.settings ∉ fl := by decide)
    (hf : Facet.fuses ∉ fl := by decide) (k : Nat) : t.num k = s.num k := by
  unfold State.num
  rw [value_of h hl hf]

theorem isOn_of {fl : List Facet} {s t : State} (h : SameBut fl s t) (hl : Facet.settings ∉ fl := by decide)
    (hf : Facet.fuses ∉ fl := by decide) (k : Nat) : t.isOn k = s.isOn k := by
  unfold State.isOn
  rw [num_of h hl hf]

theorem ledger_of {fl : List Facet} {s t : State} (h : SameBut fl s t) (hl : Facet.ledger ∉ fl := by decide) :
    t.ledger = s.ledger := h .ledger hl

theorem host_of {fl : List Facet} {s t : State} (h : SameBut fl s t) (hl : Facet.host ∉ fl := by decide) :
    t.mem.host = s.mem.host := h .host hl

theorem asked_ledger (s : State) (sid key : Nat) (v : Bytes) : (asked s sid key v).ledger = s.ledger := rfl

/-! ### The ledger starts (R244) -/

/-- A running ledger that has taken and written nothing yet. -/
structure FreshLedger (l : Ledger) : Prop where
  enable : l.enable = true
  st : l.st = .running
  seq : l.seq = 0
  produced : l.produced = 0
  consumed : l.consumed = 0
  fetched : l.fetched = none

/-- The start of the ledger before its lines are looked at. -/
def begunLedger (s : State) : State :=
  { s with ledger := { s.ledger with
    enable := true, st := .running, seq := 0, alive := 1, fetched := none, produced := 0, consumed := 0, closed := [],
    ends := [], cancelTo := false, discard := false, order := [], events := [], irqMore := false } }

theorem ledgerStart_off {s : State} (base : s.num Obj.ledgerBase ≠ 0) (completion : s.num Obj.completionBase ≠ 0)
    (count : s.num Obj.completionConsumedAddr ≠ 0) (off : s.ledger.st = .off) (down : s.ledger.enable = false) :
    s.ledgerStart = ((begunLedger s).lookCount.lookHead, dOk) := by
  simp only [State.ledgerStart, base, completion, count, off, down, decide_false, Bool.or_self, Bool.false_eq_true, if_false, reduceCtorEq]
  rfl

/-- A message about the ledger leaves it fresh. -/
theorem log_fresh (s : State) (code sev agent : Nat) (addr : LogAddr) (detail : Nat) (h : FreshLedger s.ledger) :
    FreshLedger (s.log code sev agent addr detail).ledger := by
  obtain ⟨x, y, same, -⟩ := log_led s code sev agent addr detail
  rw [same]
  exact ⟨h.enable, h.st, h.seq, h.produced, h.consumed, h.fetched⟩

/-- Every count but 0 is more than a fresh ledger has written, so none is taken (R253). -/
theorem lookCount_fresh {s : State} (h : FreshLedger s.ledger) : FreshLedger s.lookCount.ledger := by
  unfold State.lookCount
  split
  · exact ⟨h.enable, h.st, h.seq, h.produced, h.consumed, h.fetched⟩
  · dsimp only
    split
    next => exact ⟨h.enable, h.st, h.seq, h.produced, h.consumed, h.fetched⟩
    next some =>
      unfold State.takeCount
      rw [h.consumed] at some
      rw [if_pos (by simp [h.produced]; omega)]
      exact log_fresh _ _ _ _ _ _ ⟨h.enable, h.st, h.seq, h.produced, h.consumed, h.fetched⟩

/-- The slot at the head of the ledger's first line, if it holds a KIND. -/
def firstSlot (s : State) : Option Bytes :=
  if (s.mem.host.readN (s.num Obj.ledgerBase) 128).getD 7 0 = 0xFF then none else some (s.mem.host.readN (s.num Obj.ledgerBase) 128)

theorem slotAddr_fresh {s : State} (h : FreshLedger s.ledger) : s.slotAddr = s.num Obj.ledgerBase := by
  simp [State.slotAddr, h.seq]

theorem lookHead_fresh {s : State} (h : FreshLedger s.ledger) :
    s.lookHead.ledger = { s.ledger with fetched := if s.iface.hostLink = 2 then firstSlot s else none } := by
  unfold State.lookHead firstSlot
  by_cases up : s.iface.hostLink = 2
  · rw [if_neg (by simp [h.enable, h.st, h.fetched, up]), if_pos up, slotAddr_fresh h]
    dsimp only
    split
    · rw [← h.fetched]
    · rfl
  · rw [if_pos (by simp [up]), if_neg up, ← h.fetched]

theorem lookCount_same (s : State) : SameBut ps63 s s.lookCount := State_lookCount_same rfl s (SameBut.refl _ s)

theorem lookHead_same (s : State) : SameBut [.ledger] s s.lookHead := State_lookHead_same rfl s (SameBut.refl _ s)

theorem begunLedger_same (s : State) : SameBut [.ledger] s (begunLedger s) := by
  intro p hp
  cases p with
  | ledger => exact absurd (List.mem_singleton_self _) hp
  | _ => exact rfl

theorem begunLedger_fresh (s : State) : FreshLedger (begunLedger s).ledger := ⟨rfl, rfl, rfl, rfl, rfl, rfl⟩

theorem ledgerStart_same (s : State) : SameBut ps63 s s.ledgerStart.1 := State_ledgerStart_same rfl s (SameBut.refl _ s)

/-- The ledger after its start. -/
theorem ledger_started (s : State) : ∃ l, FreshLedger l ∧ (begunLedger s).lookCount.lookHead.ledger =
    { l with fetched := if s.iface.hostLink = 2 then firstSlot s else none } := by
  have fresh := lookCount_fresh (begunLedger_fresh s)
  have frame : SameBut ps63 s (begunLedger s).lookCount := SameBut.trans (SameBut.mono rfl (begunLedger_same s)) (lookCount_same _)
  refine ⟨_, fresh, ?_⟩
  have slot : firstSlot (begunLedger s).lookCount = firstSlot s := by
    unfold firstSlot
    rw [num_of frame (k := Obj.ledgerBase), host_of frame]
  rw [lookHead_fresh fresh, slot, iface_of frame (by decide)]

/-! ### The ledger stops (R265) -/

/-- The ledger takes no more slots (it is off or drains), and the module is as powered as before. -/
structure Down (powered : Bool) (s : State) : Prop where
  enable : s.ledger.enable = false
  st : s.ledger.st ≠ .error
  powered : s.boot.powered = powered

theorem ite_down {p : Bool} {c : Prop} [Decidable c] {s t : State} (hs : Down p s) (ht : Down p t) : Down p (if c then s else t) := by
  split
  · exact hs
  · exact ht

theorem settleLedger_down {p : Bool} {s : State} (h : Down p s) : Down p s.settleLedger :=
  ite_down ⟨h.enable, nofun, h.powered⟩ h

theorem event_down {p : Bool} {s : State} (h : Down p s) (code seq detail : Nat) : Down p (s.event code seq detail) :=
  ite_down (ite_down ⟨h.enable, h.st, h.powered⟩ ⟨h.enable, h.st, h.powered⟩) h

theorem pauseNow_down {p : Bool} {s : State} (h : Down p s) : Down p s.pauseNow :=
  event_down (s := { s with ledger := { s.ledger with sched := .paused } }) ⟨h.enable, h.st, h.powered⟩ _ _ _

theorem startComputeReset_down {p : Bool} {s : State} (h : Down p s) (unplanned : Bool) : Down p (s.startComputeReset unplanned) := by
  have floor := State_releaseFloor_same (fl := ps18) rfl s.cancelAll.withdrawCommit (SameBut.refl _ _)
  have withdrawn := (withdraw_eff s.cancelAll).2.2.1
  have ledger : s.cancelAll.withdrawCommit.releaseFloor.ledger = s.cancelAll.ledger := (ledger_of floor).trans (ledger_of withdrawn)
  have boot : s.cancelAll.withdrawCommit.releaseFloor.boot = s.cancelAll.boot := (floor .boot (by decide)).trans (withdrawn .boot (by decide))
  exact ⟨(congrArg Ledger.enable ledger).trans h.enable, fun e => h.st ((congrArg Ledger.st ledger).symm.trans e),
    (congrArg Boot.powered boot).trans h.powered⟩

theorem idleActions_down {p : Bool} {s : State} (h : Down p s) : Down p s.idleActions :=
  ite_down (startComputeReset_down (ite_down (pauseNow_down h) h) true) (ite_down (pauseNow_down h) h)

theorem failDependants_down {p : Bool} {s : State} (h : Down p s) (seq : Nat) : Down p (s.failDependants seq) :=
  ⟨h.enable, h.st, h.powered⟩

theorem bump_down {p : Bool} {s : State} (h : Down p s) (k n : Nat) : Down p (s.bump k n) := ⟨h.enable, h.st, h.powered⟩

theorem closeEntry_down {p : Bool} {s : State} (h : Down p s) (e : Entry) (st : Nat) : Down p (s.closeEntry e st) := by
  have told : ∀ t : State, Down p t → Down p (if st = stOk then t else t.failDependants e.seq) := fun t ht =>
    ite_down ht (failDependants_down ht _)
  have counted : ∀ t : State, Down p t → Down p (if neverRan e st then t.bump Obj.entriesRefused 1 else t) := fun t ht =>
    ite_down (bump_down ht _ _) ht
  refine idleActions_down (settleLedger_down (counted _ (bump_down (told _ ?_) _ _)))
  exact ⟨h.enable, h.st, h.powered⟩

theorem discardAll_down {p : Bool} (l : List Nat) {s : State} (h : Down p s) : Down p (State.discardAll l s) := by
  induction l generalizing s with
  | nil => exact h
  | cons n l ih =>
    refine ih ?_
    cases s.entry n with
    | none => exact h
    | some e =>
      dsimp only
      split
      · exact closeEntry_down h e _
      · exact h

theorem ledgerStop_running {s : State} (up : s.ledger.enable = true) (good : s.ledger.st ≠ .error) :
    s.ledgerStop.ledger.enable = false ∧ s.ledgerStop.ledger.st = (if s.ledger.entries.isEmpty then .off else .draining) := by
  have fine : (s.ledger.st == .error) = false := by simpa using good
  unfold State.ledgerStop
  simp only [fine, up, Bool.not_true, Bool.not_false, Bool.false_and, Bool.false_eq_true, if_false]
  exact And.symm (settle_ledger _ rfl)

theorem ledgerStop_error {s : State} (bad : s.ledger.st = .error) : Down s.boot.powered s.ledgerStop := by
  unfold State.ledgerStop
  simp only [bad, beq_self_eq_true, Bool.not_true, Bool.and_false, Bool.false_eq_true, if_false, if_true]
  exact settleLedger_down (discardAll_down _ ⟨rfl, nofun, rfl⟩)

theorem ledgerStop_same (s : State) : SameBut ps136 s s.ledgerStop := State_ledgerStop_same rfl s (SameBut.refl _ s)

/-! ### Pauses and resumptions (R257, R281) -/

theorem event_sched (s : State) (code seq detail : Nat) : (s.event code seq detail).ledger.sched = s.ledger.sched := by
  unfold State.event
  split
  · split <;> rfl
  · rfl

theorem pauseRequest_running {s : State} (running : s.ledger.sched = .running) :
    s.pauseRequest.ledger.sched = (if s.computeIdle = true ∧ s.boundaryDue = false then .paused else .pausing) := by
  unfold State.pauseRequest
  rw [if_neg (by simp [running])]
  by_cases now : s.computeIdle = true ∧ s.boundaryDue = false
  · rw [if_pos now]
    have go : (s.computeIdle && !s.boundaryDue) = true := by simpa using now
    exact (congrArg (fun t : State => t.ledger.sched) (if_pos go)).trans (event_sched _ _ _ _)
  · rw [if_neg now]
    have wait : ¬(s.computeIdle && !s.boundaryDue) = true := by simpa using now
    exact congrArg (fun t : State => t.ledger.sched) (if_neg wait)

theorem resumeRequest_resumes {s : State} (may : s.ledger.sched = .pausing ∨
    (s.ledger.sched = .paused ∧ (s.det.mapChanged = false ∨ s.isOn Obj.resumeTolerant = true))) :
    s.resumeRequest.1.ledger.sched = .running ∧ s.resumeRequest.2 = dOk := by
  unfold State.resumeRequest
  rcases may with pausing | ⟨paused, same | tolerant⟩
  · simp [pausing]
  · simp [paused, same]
  · cases changed : s.det.mapChanged <;> simp [paused, tolerant]

theorem resumeRequest_denied {s : State} (paused : s.ledger.sched = .paused) (changed : s.det.mapChanged = true)
    (strict : s.isOn Obj.resumeTolerant = false) : s.resumeRequest = (s, dDenied) := by
  simp [State.resumeRequest, paused, changed, strict]

theorem pauseRequest_same (s : State) : SameBut ps34 s s.pauseRequest := State_pauseRequest_same rfl s (SameBut.refl _ s)

theorem resumeRequest_same (s : State) : SameBut ps47 s s.resumeRequest.1 := State_resumeRequest_same rfl s (SameBut.refl _ s)

theorem putLedgerEnable {s : State} {sid n : Nat} (hn : n = 0 ∨ n = 1) (may : s.mayWrite sid Obj.ledgerEnable = true) :
    Put s sid Obj.ledgerEnable (natLE 1 n) ⟨0x330006, 0x330006, .bool, .rw, 1, 1, .codes 2, 0⟩ := by
  rcases hn with rfl | rfl
  · exact Put.of may (by decide) row_ledgerEnable (by decide) (by decide) (by decide) rfl
  · exact Put.of may (by decide) row_ledgerEnable (by decide) (by decide) (by decide) rfl

theorem write_ledgerEnable_off (t : State) (sid : Nat) : t.writeValue sid
    ⟨0x330006, 0x330006, .bool, .rw, 1, 1, .codes 2, 0⟩ Obj.ledgerEnable (natLE 1 0) = plain (t.ledgerStop, dOk) :=
  write_ledgerEnable t sid (natLE 1 0)

theorem write_ledgerEnable_on (t : State) (sid : Nat) (free : t.fw.upd = .idle) : t.writeValue sid
    ⟨0x330006, 0x330006, .bool, .rw, 1, 1, .codes 2, 0⟩ Obj.ledgerEnable (natLE 1 1) = plain t.ledgerStart := by
  rw [write_ledgerEnable]
  have one : (leNat (natLE 1 1) == 1) = true := by decide
  rw [one, State.ledgerWrite, if_pos rfl, if_neg (by simp [free])]

theorem putSchedPause {s : State} {sid : Nat} (may : s.mayWrite sid Obj.schedPause = true) :
    Put s sid Obj.schedPause (natLE 1 1) ⟨0x330012, 0x330012, .u8, .wo, 1, 1, .span 1 1 1, 0⟩ :=
  Put.of may (by decide) row_schedPause (by decide) (by decide) (by decide) rfl

theorem putSchedResume {s : State} {sid : Nat} (may : s.mayWrite sid Obj.schedResume = true) :
    Put s sid Obj.schedResume (natLE 1 1) ⟨0x330013, 0x330013, .u8, .wo, 1, 1, .span 1 1 1, 0⟩ :=
  Put.of may (by decide) row_schedResume (by decide) (by decide) (by decide) rfl

/-- A session stays open where its table, the values and the link stand and the module stays powered. -/
theorem sessionOpen_of {fl : List Facet} {s t : State} (h : SameBut fl s t) (powered : t.boot.powered = s.boot.powered) (sid : Nat)
    (hl : ([.settings, .sessions, .iface] : List Facet).all (fun p => !fl.contains p) = true := by rfl) :
    t.sessionOpen sid = s.sessionOpen sid := by
  simp only [List.all_cons, List.all_nil, Bool.and_eq_true, Bool.not_eq_true', List.contains_eq_mem, decide_eq_false_iff_not, and_true] at hl
  obtain ⟨settings, sessions, iface⟩ := hl
  have kept := h .sessions sessions
  simp only [Facet.same, Prod.mk.injEq] at kept
  exact open_of sid powered kept.2.1 (by rw [kept.2.2]) (congrArg Iface.hostLink (iface_of h iface)) (values_of h settings)

theorem isOn_asked (s : State) (sid key : Nat) (v : Bytes) (k : Nat) : (asked s sid key v).isOn k = s.isOn k :=
  isOn_of (asked_frame (fl := [.window, .sessions]) rfl s sid key v) (k := k)

theorem num_asked (s : State) (sid key : Nat) (v : Bytes) (k : Nat) : (asked s sid key v).num k = s.num k :=
  num_of (asked_frame (fl := [.window, .sessions]) rfl s sid key v) (k := k)

theorem firstSlot_asked (s : State) (sid key : Nat) (v : Bytes) : firstSlot (asked s sid key v) = firstSlot s := by
  unfold firstSlot
  rw [num_asked]
  rfl

/-- Settles O24: each trigger by the operation that its write runs. -/
theorem ledgerAndSchedulerTriggers : Obligations.LedgerAndSchedulerTriggers := by
  unfold Obligations.LedgerAndSchedulerTriggers
  refine ⟨?start, ?stop, ?ended, ?pause, ?resume, ?denied⟩
  case start =>
    intro s sid may free base completion count off down
    have started := ledgerStart_off (s := asked s sid Obj.ledgerEnable (natLE 1 1)) (by rwa [num_asked]) (by rwa [num_asked])
      (by rwa [num_asked]) off down
    have frame := ledgerStart_same (asked s sid Obj.ledgerEnable (natLE 1 1))
    have act := write_ledgerEnable_on (asked s sid Obj.ledgerEnable (natLE 1 1)) sid free
    rw [started] at act frame
    obtain ⟨window, answered⟩ := trigger_served (putLedgerEnable (.inr rfl) may) act frame rfl
    obtain ⟨l, fresh, ledger⟩ := ledger_started (asked s sid Obj.ledgerEnable (natLE 1 1))
    have ledger : (s.dictPutNum sid Obj.ledgerEnable 1 1).ledger = _ := (ledger_of window).trans ledger
    refine ⟨_, rfl, ?_, ?_, ?_, ?_, ?_, answered, fun up => ?_, sameBut_then (sameBut_then (asked_frame rfl s sid _ _) rfl frame) rfl window⟩
    · rw [ledger]
      exact fresh.enable
    · rw [ledger]
      exact fresh.st
    · rw [ledger]
      exact fresh.seq
    · rw [ledger]
      exact fresh.produced
    · rw [ledger]
      exact fresh.consumed
    · rw [ledger]
      exact (if_pos up).trans (firstSlot_asked s sid _ _)
  case stop =>
    intro s sid may up good
    have act := write_ledgerEnable_off (asked s sid Obj.ledgerEnable (natLE 1 0)) sid
    have window := (putLedgerEnable (.inl rfl) may).same act
    obtain ⟨down, st⟩ := ledgerStop_running (s := asked s sid Obj.ledgerEnable (natLE 1 0)) up good
    refine ⟨_, rfl, ?_, ?_⟩
    · exact (congrArg Ledger.enable (ledger_of window)).trans down
    · exact (congrArg Ledger.st (ledger_of window)).trans st
  case ended =>
    intro s sid may bad
    have act := write_ledgerEnable_off (asked s sid Obj.ledgerEnable (natLE 1 0)) sid
    obtain ⟨disabled, good, powered⟩ := ledgerStop_error (s := asked s sid Obj.ledgerEnable (natLE 1 0)) bad
    have open' := (sessionOpen_of (ledgerStop_same _) powered sid).trans (asked_open s sid Obj.ledgerEnable (natLE 1 0) sid)
    obtain ⟨window, answered⟩ := (putLedgerEnable (.inl rfl) may).res act open'
    refine ⟨_, rfl, ?_, fun e => good ?_, answered⟩
    · exact (congrArg Ledger.enable (ledger_of window)).trans disabled
    · exact (congrArg Ledger.st (ledger_of window)).symm.trans e
  case pause =>
    intro s sid may running
    have act := write_schedPause (asked s sid Obj.schedPause (natLE 1 1)) sid (natLE 1 1)
    obtain ⟨window, answered⟩ := trigger_served (putSchedPause may) act (pauseRequest_same _) rfl
    refine ⟨_, rfl, answered, (congrArg Ledger.sched (ledger_of window)).trans ?_⟩
    exact pauseRequest_running (s := asked s sid Obj.schedPause (natLE 1 1)) running
  case resume =>
    intro s sid may allowed
    have act := write_schedResume (asked s sid Obj.schedResume (natLE 1 1)) sid (natLE 1 1)
    obtain ⟨window, answered⟩ := trigger_served (putSchedResume may) act (resumeRequest_same _) rfl
    obtain ⟨running, ok⟩ := resumeRequest_resumes (s := asked s sid Obj.schedResume (natLE 1 1)) (by rwa [isOn_asked])
    rw [ok] at answered
    exact ⟨_, rfl, (congrArg Ledger.sched (ledger_of window)).trans running, answered⟩
  case denied =>
    intro s sid may paused changed strict
    have act := (write_schedResume (asked s sid Obj.schedResume (natLE 1 1)) sid (natLE 1 1)).trans
      (congrArg plain (resumeRequest_denied (s := asked s sid Obj.schedResume (natLE 1 1)) paused changed (by rwa [isOn_asked])))
    exact ⟨_, rfl, trigger_idle (putSchedResume may) act⟩

/-! ### Triggers of one register -/

theorem natLE_ne_nil (n v : Nat) : (natLE (n + 1) v).isEmpty = false := rfl

theorem putStepCounter {s : State} {sid : Nat} (v : Nat) (may : s.mayWrite sid Obj.stepCounter = true) :
    Put s sid Obj.stepCounter (natLE 8 v) ⟨0x340006, 0x340006, .u64, .rwi, 8, 8, .any, 0⟩ :=
  Put.of may (by decide) row_stepCounter (by decide) (natLE_ne_nil 7 v) rfl rfl

theorem putErrorLogAck {s : State} {sid : Nat} (v : Nat) (may : s.mayWrite sid Obj.errorLogAck = true) :
    Put s sid Obj.errorLogAck (natLE 4 v) ⟨0x400019, 0x400019, .u32, .rw, 4, 4, .any, 0⟩ :=
  Put.of may (by decide) row_errorLogAck (by decide) (natLE_ne_nil 3 v) rfl rfl

theorem putRngProbe {s : State} {sid : Nat} {v : Bytes} (may : s.mayWrite sid Obj.rngProbeInput = true) (length : v.length = 24)
    (reserved : leNat (v.drop 20) = 0) :
    Put s sid Obj.rngProbeInput v ⟨0x34000D, 0x34000D, .blob, .rw, 24, 24, .any, 0⟩ := by
  refine Put.of may (by decide) row_rngProbeInput (by decide) ?_ ?_ ?_
  · cases v with
    | nil => exact absurd length (by decide)
    | cons => rfl
  · simp [valueOk, typeOk, length]
  · simp only [State.rangeOk, reserved, beq_self_eq_true, Bool.or_true, Bool.and_true]
    rfl

theorem putThermalAccept {s : State} {sid : Nat} (may : s.mayWrite sid Obj.thermalAccept = true) :
    Put s sid Obj.thermalAccept (natLE 1 1) ⟨0x510004, 0x510004, .u8, .wo, 1, 1, .span 1 1 1, 0⟩ :=
  Put.of may (by decide) row_thermalAccept (by decide) (by decide) (by decide) rfl

theorem det_of {fl : List Facet} {s t : State} (h : SameBut fl s t) (hl : Facet.det ∉ fl := by decide) : t.det = s.det := h .det hl

theorem integ_of {fl : List Facet} {s t : State} (h : SameBut fl s t) (hl : Facet.integ ∉ fl := by decide) : t.integ = s.integ :=
  h .integ hl

theorem setDet_same (s : State) (d : Det) : SameBut [.det] s { s with det := d } := by
  intro p hp
  cases p with
  | det => exact absurd (List.mem_singleton_self _) hp
  | _ => exact rfl

theorem ackLog_same (s : State) (v : Nat) : SameBut [.integ] s (s.ackLog v) := State_ackLog_same rfl s v (SameBut.refl _ s)

theorem ackLog_acked (s : State) (v : Nat) :
    (s.ackLog (leNat (natLE 4 v))).integ.ack = v % 2 ^ 32 ∧ (s.ackLog (leNat (natLE 4 v))).integ.alertHold = false := by
  refine ⟨?_, rfl⟩
  rw [leNat_natLE]
  exact Nat.mod_mod v (2 ^ 32)

theorem applyResume_same (s : State) (r : Bytes) : SameBut [.det] s (s.applyResume r).1 :=
  State_applyResume_same rfl s r (SameBut.refl _ s)

theorem applyResume_busy {s : State} (r : Bytes) (busy : s.computeIdle = false) : s.applyResume r = (s, dBusy) := by
  simp [State.applyResume, busy]

/-- What a resume record does while compute is idle (R283). -/
theorem applyResume_idle {s : State} (r : Bytes) (idle : s.computeIdle = true) :
    (s.applyResume r).1.det.resume = s.resumeCheck r ∧
    (if s.resumeCheck r = resMatch ∨ s.resumeCheck r = resTolerated then
      (s.applyResume r).2 = dOk ∧ (s.applyResume r).1.det.step = BitVec.ofNat 64 (leNat r / 2 ^ 72) ∧
        (s.applyResume r).1.det.repro = (decide (s.resumeCheck r = resMatch) && natBit (leNat r) 201)
    else (s.applyResume r).2 = dDenied ∧ (s.applyResume r).1.det.step = s.det.step) := by
  simp only [State.applyResume, idle, Bool.not_true, Bool.false_eq_true, if_false]
  unfold State.resumeWith
  by_cases agrees : s.resumeCheck r = resMatch
  · simp [agrees]
  · by_cases tolerated : s.resumeCheck r = resTolerated
    · have other : resTolerated ≠ resMatch := by decide
      simp [tolerated, other]
    · simp [agrees, tolerated]

theorem acceptThermal_none_open (s : State) : ∀ a ∈ s.acceptThermal.thermal.asks, a.enforced = true := by
  have none : opens s.acceptThermal.thermal.asks = 0 := by
    rw [State.acceptThermal, accept_opens]
    exact Nat.sub_eq_zero_of_le List.countP_le_length
  intro a ha
  simpa using List.countP_eq_zero.mp none a ha

/-- Settles O25: each trigger by the operation that its write runs. -/
theorem triggersAnswerAtOnce : Obligations.TriggersAnswerAtOnce := by
  unfold Obligations.TriggersAnswerAtOnce
  refine ⟨⟨?flush, ?counter, ?probe, ?ack⟩, ?resume, ?resumeBusy, ?thermal⟩
  case flush =>
    intro s sid may
    obtain ⟨clean, cleanSame⟩ := flush_one s sid 1 (.inl rfl) may
    obtain ⟨invalidate, invalidateSame⟩ := flush_one s sid 2 (.inr rfl) may
    refine ⟨_, _, rfl, rfl, ?_, cleanSame, invalidateSame⟩
    by_cases may : s.flushable = true
    · rw [if_pos may] at clean invalidate ⊢
      exact ⟨clean.1, invalidate.1, clean.2, invalidate.2⟩
    · rw [if_neg may] at clean invalidate ⊢
      exact ⟨clean.1, invalidate.1, clean.2, invalidate.2⟩
  case counter =>
    intro s sid v may
    have act := write_stepCounter (asked s sid Obj.stepCounter (natLE 8 v)) sid (natLE 8 v)
    refine ⟨_, rfl, ?_⟩
    by_cases idle : s.computeIdle = true
    · rw [if_pos (show (asked s sid Obj.stepCounter (natLE 8 v)).computeIdle = true from idle)] at act
      obtain ⟨window, answered⟩ := trigger_served (putStepCounter v may) act (setDet_same _ _) rfl
      rw [if_pos idle]
      refine ⟨(congrArg Det.step (det_of window)).trans ?_, answered⟩
      show BitVec.ofNat 64 (leNat (natLE 8 v)) = _
      rw [leNat_natLE]
      exact BitVec.eq_of_toNat_eq (by simp)
    · rw [if_neg (show ¬(asked s sid Obj.stepCounter (natLE 8 v)).computeIdle = true from idle)] at act
      obtain ⟨answered, same⟩ := trigger_idle (putStepCounter v may) (st := dBusy) act
      rw [if_neg idle]
      exact ⟨answered, det_of same⟩
  case probe =>
    intro s sid v may length reserved
    have act := write_rngProbeInput (asked s sid Obj.rngProbeInput v) sid v
    obtain ⟨window, answered⟩ := trigger_served (putRngProbe may length reserved) act (setDet_same _ _) rfl
    exact ⟨_, rfl, congrArg Det.probe (det_of window), answered⟩
  case ack =>
    intro s sid v may
    have act := write_errorLogAck (asked s sid Obj.errorLogAck (natLE 4 v)) sid (natLE 4 v)
    obtain ⟨window, answered⟩ := trigger_served (putErrorLogAck v may) act (ackLog_same _ _) rfl
    obtain ⟨acked, released⟩ := ackLog_acked (asked s sid Obj.errorLogAck (natLE 4 v)) v
    have integ : (s.dictPutNum sid Obj.errorLogAck 4 v).integ = _ := integ_of window
    refine ⟨_, rfl, ?_, ?_, answered, sameBut_then (sameBut_then (asked_frame rfl s sid _ _) rfl (ackLog_same _ _)) rfl window⟩
    · rw [integ]
      exact acked
    · rw [integ]
      exact released
  case resume =>
    intro s sid r may length idle
    have act := write_resumeApply (asked s sid Obj.resumeApply r) sid r
    obtain ⟨window, answered⟩ := trigger_served (putResume may length) act (applyResume_same _ r) rfl
    obtain ⟨result, effect⟩ := applyResume_idle (s := asked s sid Obj.resumeApply r) r idle
    rw [resumeCheck_asked] at result effect
    refine ⟨_, rfl, (congrArg Det.resume (det_of window)).trans result, ?_⟩
    show if _ then _ ∧ (s.dictPut sid Obj.resumeApply r).det.step = _ ∧ (s.dictPut sid Obj.resumeApply r).det.repro = _
      else _ ∧ (s.dictPut sid Obj.resumeApply r).det.step = _
    rw [det_of window]
    by_cases taken : s.resumeCheck r = resMatch ∨ s.resumeCheck r = resTolerated
    · rw [if_pos taken] at effect ⊢
      rw [effect.1] at answered
      exact ⟨answered, effect.2⟩
    · rw [if_neg taken] at effect ⊢
      rw [effect.1] at answered
      exact ⟨answered, effect.2⟩
  case resumeBusy =>
    intro s sid r may length busy
    have act := (write_resumeApply (asked s sid Obj.resumeApply r) sid r).trans
      (congrArg plain (applyResume_busy (s := asked s sid Obj.resumeApply r) r busy))
    exact ⟨_, rfl, trigger_idle (putResume may length) act⟩
  case thermal =>
    intro s sid may
    have act := write_thermalAccept (asked s sid Obj.thermalAccept (natLE 1 1)) sid (natLE 1 1)
    have window := (putThermalAccept may).same act
    refine ⟨_, rfl, ?_⟩
    rw [show (s.dictPutNum sid Obj.thermalAccept 1 1).thermal = _ from thermal_of window (by decide)]
    exact acceptThermal_none_open _

/-! ### States of the module and resets -/

theorem requestState_from_active {s : State} {n : Nat} (ready : s.boot.phase = .ready) (on : s.boot.pwrOff = false)
    (active : s.thermal.modSt = .active) (idle : s.computeIdle = true) (low : n ≠ 0) : s.requestState n = (s.startState n false, dOk) := by
  simp [State.requestState, ready_before s ready, on, active, low, idle, ready]

theorem requestState_wake {s : State} (ready : s.boot.phase = .ready) (on : s.boot.pwrOff = false)
    (standby : s.thermal.modSt = .standby) (wakes : s.mayWake = true) : s.requestState 0 = (s.startState 0 false, dOk) := by
  simp [State.requestState, ready_before s ready, on, standby, wakes]

theorem requestComputeReset_ready {s : State} (ready : s.boot.phase = .ready) (active : s.thermal.modSt = .active)
    (free : s.fw.upd = .idle) : s.requestComputeReset = (s.startComputeReset false, dOk) := by
  simp [State.requestComputeReset, ready, active, free]

theorem finished_of_refused {e : Entry} (h : e.refused = true) : e.isFinished = true := by
  revert h
  unfold Entry.refused Entry.isFinished
  cases e.status <;> simp

/-- Cancelled work leaves every entry finished. -/
theorem cancelAll_finished (s : State) : s.cancelAll.ledger.entries.all Entry.isFinished = true := by
  show (s.ledger.entries.map _).all Entry.isFinished = true
  rw [List.all_map, List.all_eq_true]
  intro e _
  show (if e.refused then e else _).isFinished = true
  split
  next refused => exact finished_of_refused refused
  next => rfl

/-- A compute reset begins with every entry finished, and the module as powered as before (R388). -/
theorem startComputeReset_begun (s : State) (unplanned : Bool) :
    (s.startComputeReset unplanned).boot.phase = .computeReset ∧
      (s.startComputeReset unplanned).ledger.entries.all Entry.isFinished = true ∧
      (s.startComputeReset unplanned).boot.powered = s.boot.powered := by
  have floor := State_releaseFloor_same (fl := ps18) rfl s.cancelAll.withdrawCommit (SameBut.refl _ _)
  have withdrawn := (withdraw_eff s.cancelAll).2.2.1
  have ledger : s.cancelAll.withdrawCommit.releaseFloor.ledger = s.cancelAll.ledger := (ledger_of floor).trans (ledger_of withdrawn)
  have boot : s.cancelAll.withdrawCommit.releaseFloor.boot = s.cancelAll.boot := (floor .boot (by decide)).trans (withdrawn .boot (by decide))
  have powered : s.cancelAll.withdrawCommit.releaseFloor.boot.powered = s.boot.powered := congrArg Boot.powered boot
  refine ⟨rfl, ?_, powered⟩
  exact (congrArg (fun l : Ledger => l.entries.all Entry.isFinished) ledger).trans (cancelAll_finished s)

theorem startComputeReset_same (s : State) (unplanned : Bool) : SameBut ps129 s (s.startComputeReset unplanned) :=
  State_startComputeReset_same rfl s unplanned (SameBut.refl _ s)

theorem putComputeReset {s : State} {sid : Nat} (may : s.mayWrite sid Obj.computeReset = true) :
    Put s sid Obj.computeReset (natLE 1 1) ⟨0x600002, 0x600002, .u8, .wo, 1, 1, .span 1 1 1, 0⟩ :=
  Put.of may (by decide) row_computeReset (by decide) (by decide) (by decide) rfl

theorem putFullReset {s : State} {sid : Nat} (may : s.mayWrite sid Obj.fullReset = true) :
    Put s sid Obj.fullReset (natLE 1 1) ⟨0x600003, 0x600003, .u8, .wo, 1, 1, .span 1 1 1, 0⟩ :=
  Put.of may (by decide) row_fullReset (by decide) (by decide) (by decide) rfl

/-- A restart counted and, where it cut an update short, logged. -/
def countedRestart (s : State) : State :=
  let t := ((if s.updating then s.abortedUpdate else s).restart false).bump Obj.fullResetTotal 1
  if s.updating then t.log 0x8005 sevError agentHalfManagers none s.fw.comp else t

theorem fullReset_eq {s : State} (powered : s.boot.powered = true) :
    s.fullReset = (countedRestart s).startBringup s.boot.unready := by
  rw [State.fullReset, State.fullResetWith, if_neg (by simp [powered])]
  rfl

/-- No lease, nothing staged and no state of a tile, as a restart leaves the module (R387). -/
structure Restarted (s : State) : Prop where
  lease : s.dict.lease = none
  staged : s.dict.staged = []
  tiles : s.tiles = []

theorem countedRestart_restarts (s : State) : Restarted (countedRestart s) := by
  unfold countedRestart
  dsimp only
  generalize (if s.updating then s.abortedUpdate else s) = u
  split
  · have logged := log_dict ((u.restart false).bump Obj.fullResetTotal 1) 0x8005 sevError agentHalfManagers none s.fw.comp
    exact ⟨lease_of logged, staged_of logged, logged .tiles (by decide)⟩
  · exact ⟨rfl, rfl, rfl⟩

theorem startBringup_restarts (s : State) (failed : Bool) (h : Restarted s) :
    (s.startBringup failed).boot.phase = .training ∧ Restarted (s.startBringup failed) := by
  obtain ⟨phase, lease, staged, tiles⟩ := bring_same s failed
  exact ⟨phase, lease.trans h.lease, staged.trans h.staged, tiles.trans h.tiles⟩

theorem training_of_same {s t : State} (h : SameBut [.window] s t) (k : s.boot.phase = .training ∧ Restarted s) :
    t.boot.phase = .training ∧ t.dict.lease = none ∧ t.dict.staged = [] ∧ t.tiles = [] :=
  ⟨(congrArg Boot.phase (h .boot (by decide))).trans k.1, (lease_of h).trans k.2.lease, (staged_of h).trans k.2.staged,
    (h .tiles (by decide)).trans k.2.tiles⟩

/-- Settles O26: each request by the operation that its write runs. -/
theorem moduleStateAndResetTriggers : Obligations.ModuleStateAndResetTriggers := by
  unfold Obligations.ModuleStateAndResetTriggers
  refine ⟨?sleep, ?wake, ?computeReset, ?fullReset⟩
  case sleep =>
    intro s sid may ready on active idle
    obtain ⟨standby, standbyOk⟩ := mod_go s sid 1 (by decide) may
      (requestState_from_active (s := asked s sid Obj.moduleStateRequest (natLE 1 1)) ready on active idle (by decide))
    obtain ⟨dormant, dormantOk⟩ := mod_go s sid 2 (by decide) may
      (requestState_from_active (s := asked s sid Obj.moduleStateRequest (natLE 1 2)) ready on active idle (by decide))
    exact ⟨_, _, rfl, standby, standbyOk, rfl, dormant, dormantOk⟩
  case wake =>
    intro s sid may ready on standby wakes
    obtain ⟨active, ok⟩ := mod_go s sid 0 (by decide) may
      (requestState_wake (s := asked s sid Obj.moduleStateRequest (natLE 1 0)) ready on standby wakes)
    exact ⟨_, rfl, active, ok⟩
  case computeReset =>
    intro s sid may ready active free
    have act := (write_computeReset (asked s sid Obj.computeReset (natLE 1 1)) sid (natLE 1 1)).trans
      (congrArg plain (requestComputeReset_ready (s := asked s sid Obj.computeReset (natLE 1 1)) ready active free))
    have frame := startComputeReset_same (asked s sid Obj.computeReset (natLE 1 1)) false
    obtain ⟨phase, finished, powered⟩ := startComputeReset_begun (asked s sid Obj.computeReset (natLE 1 1)) false
    have open' := (sessionOpen_of frame powered sid).trans (asked_open s sid Obj.computeReset (natLE 1 1) sid)
    obtain ⟨window, answered⟩ := (putComputeReset may).res act open'
    refine ⟨_, rfl, ?_, ?_, ?_, answered⟩
    · exact (congrArg Boot.phase (window .boot (by decide))).trans phase
    · exact queued_of window (by decide) (startCR_queued _ _)
    · exact (congrArg (fun l : Ledger => l.entries.all Entry.isFinished) (ledger_of window)).trans finished
  case fullReset =>
    intro s sid may powered
    have act := (write_fullReset (asked s sid Obj.fullReset (natLE 1 1)) sid (natLE 1 1)).trans
      (congrArg (fun t => plain (t, dOk)) (fullReset_eq (s := asked s sid Obj.fullReset (natLE 1 1)) powered))
    have window := (putFullReset may).same act
    dsimp only [plain] at window
    have begun := startBringup_restarts (countedRestart (asked s sid Obj.fullReset (natLE 1 1)))
      (asked s sid Obj.fullReset (natLE 1 1)).boot.unready
      (countedRestart_restarts _)
    have restarted := training_of_same window begun
    exact ⟨s.dictPutNum sid Obj.fullReset 1 1, rfl, restarted⟩

end Sys2Proof.Proofs
end

section
/-! Arithmetic, group-wide operations and draws of a thread group (R123, R124, R138, R273, R288), waits for tokens (R79, R126), and the
asynchronous instructions that join their queues (R75, R78, R79, R105, R128). -/

set_option Elab.async false

namespace Sys2Proof.Proofs

open Sys2Proof Sys2Proof.Machine Sys2Proof.Laws

/-- An instruction whose register reads find no lasting error runs on the state after the replay (R288). -/
theorem parity_issue {s : State} {g : GroupRef} {b : Block} {gr : Group} {p : Path} (h : s.Issues g b gr p) {hit : ParityHit}
    (clean : ∀ r, hit ≠ .recurs r) (k : State → Block → Group → Path → State) :
    (s.regParity g hit fun s => s.issue g (k s)) = k (s.replayed g.tile hit) b gr p := by
  rw [regParity_ok h clean]
  exact issue_ok (replay_issues h hit) _

/-- A parity error that recurs faults the thread with its register (R288). -/
theorem parity_recurs {s : State} {g : GroupRef} {b : Block} {gr : Group} {p : Path} (h : s.Issues g b gr p) (r : Nat)
    (k : State → State) : s.regParity g (.recurs r) k = (s.parityReplay g.tile 0).threadFault g fRegfileParity none r := by
  show (s.issue g fun _ _ _ => _) = _
  exact issue_ok h _

theorem group_adjGroup_of {s : State} {g : GroupRef} {gr : Group} (h : s.group g = some gr) (f : Group → Group) :
    (s.adjGroup g f).group g = some (f gr) := by
  rw [group_adjGroup, h]
  rfl

/-- Settles O27: the lanes of the mask are written, one after the other, with values that the state before gives. -/
theorem fp32ArithWritesActiveLanes : Obligations.Fp32ArithWritesActiveLanes := by
  unfold Obligations.Fp32ArithWritesActiveLanes
  intro s g b gr p op vd va vb vc hit issues regs small
  refine ⟨fun r => congrArg Host.Outcome.next (parity_recurs issues r _), fun clean => ?_⟩
  have again := replay_issues issues hit
  have ran : fp32Arith g op vd va vb vc hit s = _ :=
    (parity_issue issues clean _).trans (checked_ok g b gr [] _ [] _ regs (by simp))
  have vd256 : vd < 256 := Nat.lt_of_lt_of_le (regs vd List.mem_cons_self) small
  refine ⟨_, _, congrArg Host.Outcome.next ran, group_adjGroup_of (group_of again) _, ?_, adjGroup_same _ _ _⟩
  refine wrote_fold gr (lanesOf p.mask) vd _ vd256 _ fun l _ r _ => ?_
  simp only [mem_lanes]

/-- Settles O28: all 32 lanes are written, one after the other, with values that the state before gives. -/
theorem groupWideOperations : Obligations.GroupWideOperations := by
  unfold Obligations.GroupWideOperations
  intro s g b gr p vd va vi kind op hit issues whole hvd hva hvi small clean
  have again := replay_issues issues hit
  have vd256 : vd < 256 := Nat.lt_of_lt_of_le hvd small
  refine ⟨?shfl, ?vote, ?redux⟩
  case shfl =>
    obtain ⟨t, gr', ran, group, same, wrote⟩ := wide_ok again whole [vd, va, vi] (by simp [hvd, hva, hvi]) vd vd256
      (fun l => { val := (gr.reg ((gr.reg l vi).val.toNat % 32) va).val,
                  mark := orMark (gr.reg l vi).mark (gr.reg ((gr.reg l vi).val.toNat % 32) va).mark }) _ (fun _ _ _ _ => rfl)
    exact ⟨t, gr', (congrArg Host.Outcome.next (parity_issue issues clean _)).trans ran, group, same, wrote⟩
  case vote =>
    obtain ⟨t, gr', ran, group, same, wrote⟩ := wide_ok again whole [vd, va] (by simp [hvd, hva]) vd vd256
      (fun _ => { val := voteOf gr kind va, mark := firstMark ((List.range 32).map fun k => (gr.reg k va).mark) }) _ (fun _ _ _ _ => rfl)
    exact ⟨t, gr', (congrArg Host.Outcome.next (parity_issue issues clean _)).trans ran, group, same, wrote⟩
  case redux =>
    obtain ⟨t, gr', ran, group, same, wrote⟩ := wide_ok again whole [vd, va] (by simp [hvd, hva]) vd vd256
      (fun _ => { val := (redTree (reduxCode op) 5 ((List.range 32).map fun l => [(gr.reg l va).val])).1.headD 0,
                  mark := firstMark ((List.range 32).map fun l => (gr.reg l va).mark) }) _ (fun _ _ _ _ => rfl)
    exact ⟨t, gr', (congrArg Host.Outcome.next (parity_issue issues clean _)).trans ran, group, same, wrote⟩

/-! ### Draws (R273) -/

theorem cur_setReg (g : Group) (l r : Nat) (v : RegVal) : (g.setReg l r v).cur = g.cur := by
  unfold Group.setReg
  split <;> rfl

/-- The running path stays while pairs of registers are written. -/
theorem cur_fold2 (lanes : List Nat) (vd : Nat) (v u : Nat → RegVal) (g : Group) :
    (lanes.foldl (fun (y : Group) k => (y.setReg k vd (v k)).setReg k (vd + 1) (u k)) g).cur = g.cur := by
  induction lanes generalizing g with
  | nil => rfl
  | cons l lanes ih => rw [List.foldl_cons, ih, cur_setReg, cur_setReg]

/-- Pairs of registers written in the lanes of a list. -/
theorem wrote_fold2 (a : Group) (lanes : List Nat) (vd : Nat) (v u : Nat → RegVal) (hv : vd + 1 < 256) (w : Nat → Nat → Option RegVal)
    (h : ∀ k, k < 32 → ∀ r, r < 256 → w k r = if k ∈ lanes ∧ r = vd then some (v k) else if k ∈ lanes ∧ r = vd + 1 then some (u k) else none) :
    a.wrote ((lanes.foldl (fun (y : Group) k => (y.setReg k vd (v k)).setReg k (vd + 1) (u k)) a).advance) w := by
  obtain ⟨regs, stack, exited, stores, loads⟩ := fold2 lanes vd v u a hv
  obtain ⟨exited', stores', loads'⟩ := adv_rest (lanes.foldl (fun (y : Group) k => (y.setReg k vd (v k)).setReg k (vd + 1) (u k)) a)
  refine ⟨fun k hk r hr => ?_, adv_stack _ _ stack (cur_fold2 lanes vd v u a), exited'.trans exited, stores'.trans stores, loads'.trans loads⟩
  rw [reg_advance, regs k r hr, h k hk r hr]
  split
  · rfl
  · split <;> rfl

/-- Settles O29: each active lane's pair of registers is written with the draw. -/
theorem rngWritesTheDraw : Obligations.RngWritesTheDraw := by
  unfold Obligations.RngWritesTheDraw
  intro s g b gr p e w vd vp vt hit issues entry opcode zeros purpose hvt source hvd hvp vd1 vp1 small clean
  have again := replay_issues issues hit
  have ok : (fld w 63 56 == 0xDC && fld w 14 0 == 0 && decide (0x100 ≤ fld w 39 24) && (w.getLsbD 23 || fld w 22 15 == 0)) = true := by
    simp only [opcode, zeros, beq_self_eq_true, purpose, decide_true, Bool.true_and, hvt]
    cases tsrc : w.getLsbD 23 with
    | true => rfl
    | false =>
      rw [tsrc, if_neg Bool.false_ne_true] at source
      rw [source]
      rfl
  have regs : ∀ r ∈ [vd, vd + 1, vp, vp + 1] ++ (if w.getLsbD 23 then [vt] else []), r < b.nregs := by
    intro r hr
    rcases List.mem_append.mp hr with own | own
    · simp only [List.mem_cons, List.not_mem_nil, or_false] at own
      omega
    · cases tsrc : w.getLsbD 23 with
      | true =>
        rw [tsrc, if_pos rfl] at own source
        rwa [List.mem_singleton.mp own]
      | false =>
        rw [tsrc, if_neg Bool.false_ne_true] at own
        exact absurd own List.not_mem_nil
  subst hvd hvp hvt
  have ran : rng g w hit s = _ := (parity_issue issues clean _).trans (checkedWord_ok g b gr w _ [] _ [] _ ok regs (by simp))
  refine ⟨_, _, congrArg Host.Outcome.next ran, group_adjGroup_of (group_of again) _, adjGroup_same _ _ _, ?_⟩
  refine wrote_fold2 gr (lanesOf p.mask) (fld w 55 48) _ _ (by omega) _ fun l _ r _ => ?_
  simp only [mem_lanes, replay_entry, entry, replay_num]
  by_cases active : p.mask.getLsbD l = true
  · by_cases low : r = fld w 55 48
    · simp [active, low]
    · by_cases high : r = fld w 55 48 + 1
      · simp [active, high]
      · simp [low, high]
  · simp [active]

/-! ### Waits for tokens (R79, R126) -/

theorem asyncPoisoned_none {gr : Group} {w : W64} (h : asyncPoisoned gr w = false) : ¬asyncPoisoned gr w = true := by
  rw [h]
  exact Bool.false_ne_true

/-- A wait for a token that passes its checks does what the token's state asks for. -/
theorem tokenWait_checked {s : State} {g : GroupRef} {b : Block} {gr : Group} {p : Path} {w : W64} {opcode : Nat} (poll : Bool)
    (issues : s.Issues g b gr p) (whole : p.mask = 0xFFFFFFFF) (op : fld w 63 56 = opcode) (ok : waitOk b w = true)
    (clear : asyncPoisoned gr w = false) (range : waitToken gr w < s.num Obj.matrixTokenCount) :
    tokenWait opcode poll g w s = match b.token (waitToken gr w) with
      | some .pending => if poll then s.adjGroup g fun x => (x.setAll (fld w 55 48) 0x100).advance else s
      | some (.done st) =>
        (s.adjBlock g.tile g.slot fun b => { b with tokens := NMap.del b.tokens (waitToken gr w) }).adjGroup g fun x =>
          (x.setAll (fld w 55 48) (BitVec.ofNat 32 st)).advance
      | none => s.adjGroup g fun x => (x.setAll (fld w 55 48) 0).advance := by
  unfold tokenWait
  rw [issue_ok issues, if_neg (by simp [op, ok]), if_neg (by simp [Path.whole, whole]), if_neg (asyncPoisoned_none clear)]
  dsimp only
  rw [if_neg (by omega)] <;> rfl

/-- A polled or awaited token's register takes a value in every lane. -/
theorem setAll_group {s : State} {g : GroupRef} {gr : Group} (group : s.group g = some gr) (vd : Nat) (v : W32) (hv : vd < 256) :
    ∃ gr', (s.adjGroup g fun x => (x.setAll vd v).advance).group g = some gr' ∧
      gr.wrote gr' (fun _ r => if r = vd then some { val := v, mark := none } else none) :=
  ⟨_, group_adjGroup_of group _, setAll_wrote gr vd v hv⟩

theorem waitOk_vd {b : Block} {w : W64} (ok : waitOk b w = true) : fld w 55 48 < b.nregs := by
  unfold waitOk at ok
  simp only [Bool.and_eq_true, decide_eq_true_eq] at ok
  exact ok.1.1.1

theorem block_adjGroup_of {s : State} {g : GroupRef} {b : Block} (h : s.block g.tile g.slot = some b) (f : Group → Group) :
    (s.adjGroup g f).block g.tile g.slot = some { b with groups := adjAt b.groups g.group f } := by
  unfold State.adjGroup
  rw [block_adjBlock s g.tile g.slot (fun b => { b with groups := adjAt b.groups g.group f }) (fun _ => rfl), h]
  rfl

theorem adjBlock_same (s : State) (tile slot : Nat) (f : Block → Block) : SameBut [.tiles] s (s.adjBlock tile slot f) :=
  State_adjBlock_same rfl s tile slot f (SameBut.refl _ s)

/-- MWAIT or MPOLL, by which of the two it is. -/
theorem tokenWait_replayed {s : State} {g : GroupRef} {hit : ParityHit} (clean : ∀ r, hit ≠ .recurs r) {b : Block} {gr : Group} {p : Path}
    (issues : s.Issues g b gr p) (w : W64) (poll : Bool) : exec (if poll then .mpoll g w hit else .mwait g w hit) s =
      .next (tokenWait (if poll then 0xE2 else 0xE1) poll g w (s.replayed g.tile hit)) := by
  cases poll with
  | true => exact congrArg Host.Outcome.next (regParity_ok issues clean _)
  | false => exact congrArg Host.Outcome.next (regParity_ok issues clean _)

/-- Settles O30: by the state of the token. -/
theorem tokenWaitsFollowTheToken : Obligations.TokenWaitsFollowTheToken := by
  unfold Obligations.TokenWaitsFollowTheToken
  intro s g b gr p w poll hit issues whole clean op ok small clear range
  have again := replay_issues issues hit
  have group := group_of again
  have vd256 : fld w 55 48 < 256 := Nat.lt_of_lt_of_le (waitOk_vd ok) small
  have ran := tokenWait_replayed clean issues w poll
  rw [tokenWait_checked poll again whole op ok clear (by rwa [replay_num])] at ran
  cases token : b.token (waitToken gr w) with
  | none =>
    rw [token] at ran
    obtain ⟨gr', got, wrote⟩ := setAll_group group (fld w 55 48) 0 vd256
    exact ⟨_, gr', ran, got, adjGroup_same _ _ _, wrote⟩
  | some x =>
    rw [token] at ran
    cases x with
    | pending =>
      cases poll with
      | true =>
        obtain ⟨gr', got, wrote⟩ := setAll_group group (fld w 55 48) 0x100 vd256
        exact ⟨_, gr', ran, got, adjGroup_same _ _ _, wrote⟩
      | false => exact ⟨_, gr, ran, group, rfl⟩
    | done st =>
      have freed := block_adjBlock (s.replayed g.tile hit) g.tile g.slot
        (fun b => { b with tokens := NMap.del b.tokens (waitToken gr w) }) (fun _ => rfl)
      rw [again.block] at freed
      have kept := (group_adjBlock (s.replayed g.tile hit) g (fun b => { b with tokens := NMap.del b.tokens (waitToken gr w) })
        (fun _ => rfl) (fun _ => rfl)).trans group
      obtain ⟨gr', got, wrote⟩ := setAll_group kept (fld w 55 48) (BitVec.ofNat 32 st) vd256
      exact ⟨_, gr', _, ran, got, block_adjGroup_of freed _, look_del_same _ _,
        SameBut.trans (adjBlock_same _ _ _ _) (adjGroup_same _ _ _), wrote⟩

/-! ### Instructions that join a queue -/

theorem replay_tile (s : State) (tile : Nat) (hit : ParityHit) (n : Nat) : (s.replayed tile hit).tile n = s.tile n :=
  tile_of_same (replay_same s tile hit) (by decide) n

/-- Settles O31: each instruction passes its checks in their order, and joins its queue. -/
theorem asyncInstructionsAreQueued : Obligations.AsyncInstructionsAreQueued := by
  unfold Obligations.AsyncInstructionsAreQueued
  refine ⟨?missue, ?convert⟩
  case missue =>
    intro s g b gr p w words d hit issues clean whole op ok clear stores hwords hd room offset good formats free range
    have again := replay_issues issues hit
    obtain ⟨matrix, block, same⟩ := missue_core (s.replayed g.tile hit) g b b.uid
      (fun b => { b with tokens := NMap.put b.tokens d.token .pending }) (fun m => { m with queue := m.queue ++ [_] }) (fun _ => rfl)
      again.block rfl
    have ran : missue g w hit s = _ := parity_issue issues clean _
    rw [if_neg (by simp [op, ok]), if_neg (by simp [Path.whole, whole]), if_neg (asyncPoisoned_none clear),
      if_neg (by omega)] at ran
    dsimp only at ran
    rw [hwords, hd, replay_tile, replay_num, if_neg (by omega), if_neg (by simp [offset, good]), if_neg (by simp [formats]),
      if_neg free, replay_num, if_neg (by omega)] at ran
    refine ⟨_, ?instruction, _, congrArg Host.Outcome.next ran, ?queue, ?desc, ?owner, ?pc, block, look_put_same _ _ _, same⟩
    case queue =>
      rw [← replay_tile s g.tile hit]
      exact congrArg Matrix.queue matrix
    case desc => rfl
    case owner => rfl
    case pc => rfl
  case convert =>
    intro s g b gr p w words d hit issues clean whole op ok clear stores hwords hd room offset good formats free range
    have again := replay_issues issues hit
    obtain ⟨matrix, block, same⟩ := missue_core (s.replayed g.tile hit) g b b.uid
      (fun b => { b with tokens := NMap.put b.tokens (fld w 38 31) .pending }) (fun m => { m with cqueue := m.cqueue ++ [_] }) (fun _ => rfl)
      again.block rfl
    have ran : convert g w hit s = _ := parity_issue issues clean _
    rw [if_neg (by simp [op, ok]), if_neg (by simp [Path.whole, whole]), if_neg (asyncPoisoned_none clear),
      if_neg (by omega)] at ran
    dsimp only at ran
    rw [hwords, hd, replay_tile, if_neg (by omega), if_neg (by simp [offset, good]), if_neg (by simp [formats]),
      if_neg free, replay_num, if_neg (by omega)] at ran
    refine ⟨_, ?conversion, _, congrArg Host.Outcome.next ran, ?cqueue, ?cdesc, ?token, ?cowner, block, look_put_same _ _ _, same⟩
    case cqueue =>
      rw [← replay_tile s g.tile hit]
      exact congrArg Matrix.cqueue matrix
    case cdesc => rfl
    case token => rfl
    case cowner => rfl

end Sys2Proof.Proofs
end

section
/-! The matrix queue's dispatch (R63 to R66, R75), and weight loads and changes of shape (R62, R64, R65, R67). -/

set_option Elab.async false

namespace Sys2Proof.Proofs

open Sys2Proof Sys2Proof.Machine Sys2Proof.Laws

/-! ### Dispatch -/

theorem displaceBallast_tile (s : State) (n : Nat) : s.displaceBallast.tile n = s.tile n := rfl

theorem displaceBallast_same (s : State) : SameBut [.power] s s.displaceBallast := State_displaceBallast_same rfl s (SameBut.refl _ s)

/-- A change of a tile's array, and the ballast with it. -/
theorem array_changed (s : State) (tile : Nat) (f : Matrix → Matrix) :
    ((s.adjMatrix tile f).displaceBallast.tile tile).matrix = f (s.tile tile).matrix ∧
      SameBut [.tiles, .power] s (s.adjMatrix tile f).displaceBallast := by
  refine ⟨?_, SameBut.trans (SameBut.mono rfl (adjMatrix_same s tile f)) (SameBut.mono rfl (displaceBallast_same _))⟩
  rw [displaceBallast_tile]
  exact tile_adjMatrix s tile f

theorem change_none_of_steady {m : Matrix} (steady : m.changing = false) : m.change = none := by
  unfold Matrix.changing at steady
  rw [Bool.or_eq_false_iff] at steady
  exact Option.isNone_iff_eq_none.mp (by simpa using steady.1)

/-- The load of an instruction that its sub-array's latest load decides (R63, R64). -/
def loadKind (i : MInstr) (plan : Option LoadInfo) (modeFlush : Bool) : LoadKind :=
  match plan.bind fun l => flushReason i l modeFlush with
  | some r => .flush r
  | none => .front

/-- The array once an instruction of its shape has left the queue for its sub-array. -/
def joined (s : State) (i : MInstr) (rest : List MInstr) (m : Matrix) : Matrix :=
  Matrix.adjSub { m with queue := rest } i.desc.sub fun a => a.accept i (loadKind i a.plan (s.num Obj.weightChangeMode == 1))

/-- The dispatch by the array's shape (R63, R65, R66). -/
theorem matrixDispatch_cases {s : State} {tile : Nat} {i : MInstr} {rest : List MInstr} (steady : (s.tile tile).matrix.changing = false)
    (queue : (s.tile tile).matrix.queue = i :: rest) :
    ((s.tile tile).matrix.shape = none → matrixDispatch tile s = s.adjMatrix tile fun m =>
      { m with queue := rest, shape := some i.desc.shape
               subs := adjAt (List.replicate (shapeSubs i.desc.shape) SubArray.empty) i.desc.sub fun a => a.accept i .front
               banks := [Bank.free, Bank.free] }) ∧
    (∀ sh, (s.tile tile).matrix.shape = some sh → sh ≠ i.desc.shape →
      matrixDispatch tile s = s.adjMatrix tile fun m => { m with queue := rest, change := some i }) ∧
    ((s.tile tile).matrix.shape = some i.desc.shape → matrixDispatch tile s = s.adjMatrix tile (joined s i rest)) := by
  unfold matrixDispatch
  dsimp only
  rw [if_neg (by simp [steady]), queue]
  refine ⟨fun first => by rw [first], fun sh shape other => ?_, fun shape => ?_⟩
  · rw [shape]
    exact if_pos other
  · rw [shape]
    dsimp only
    rw [if_neg (by simp)]
    unfold joined loadKind
    congr 1
    funext m
    congr 1
    funext a
    cases a.plan with
    | none => rfl
    | some l =>
      show (match flushReason i l (s.num Obj.weightChangeMode == 1) with
        | some r => a.accept i (.flush r)
        | none => a.accept i .front) = a.accept i (match flushReason i l (s.num Obj.weightChangeMode == 1) with
        | some r => .flush r
        | none => .front)
      cases flushReason i l (s.num Obj.weightChangeMode == 1) <;> rfl

theorem accept_queue (a : SubArray) (i : MInstr) (k : LoadKind) : (a.accept i k).queue =
    a.queue ++ [if i.desc.wkeep then { i with load := .keep, useY := a.latestY, phase := .rows 0 }
      else { i with load := k, useY := !a.latestY, phase := .waitLoad }] := by
  unfold SubArray.accept
  split <;> rfl

theorem accept_registers (a : SubArray) (i : MInstr) (k : LoadKind) : (a.accept i k).x = a.x ∧ (a.accept i k).y = a.y := by
  unfold SubArray.accept
  split <;> exact ⟨rfl, rfl⟩

/-- Settles O32: by the shape of the array and of the oldest instruction. -/
theorem matrixDispatchFollowsTheShape : Obligations.MatrixDispatchFollowsTheShape := by
  unfold Obligations.MatrixDispatchFollowsTheShape
  intro s tile i rest steady queue
  obtain ⟨first, other, same⟩ := matrixDispatch_cases steady queue
  have ran : exec (.matrixDispatch tile) s = .next (matrixDispatch tile s).displaceBallast := rfl
  cases shape : (s.tile tile).matrix.shape with
  | none =>
    obtain ⟨matrix, frame⟩ := array_changed s tile fun m =>
      { m with queue := rest, shape := some i.desc.shape
               subs := adjAt (List.replicate (shapeSubs i.desc.shape) SubArray.empty) i.desc.sub fun a => a.accept i .front
               banks := [Bank.free, Bank.free] }
    rw [first shape] at ran
    refine ⟨_, ran, congrArg Matrix.queue matrix, frame, fun _ => ⟨congrArg Matrix.shape matrix, ?_⟩, nofun, nofun⟩
    exact (congrArg Matrix.change matrix).trans (change_none_of_steady (m := (s.tile tile).matrix) steady)
  | some sh =>
    by_cases eq : sh = i.desc.shape
    · subst eq
      obtain ⟨matrix, frame⟩ := array_changed s tile (joined s i rest)
      rw [same shape] at ran
      refine ⟨_, ran, congrArg Matrix.queue matrix, frame, nofun, fun sh eq other => absurd (Option.some.inj eq).symm other, fun a _ sub => ?_⟩
      have sub' : ((s.adjMatrix tile (joined s i rest)).displaceBallast).sub tile i.desc.sub =
          some (a.accept i (loadKind i a.plan (s.num Obj.weightChangeMode == 1))) := by
        refine (congrArg (fun m : Matrix => m.subs[i.desc.sub]?) matrix).trans ?_
        refine (adjAt_getElem? _ _ _).trans ?_
        rw [show (s.tile tile).matrix.subs[i.desc.sub]? = some a from sub]
        rfl
      exact ⟨_, sub', (accept_registers _ _ _).1, (accept_registers _ _ _).2, accept_queue _ _ _⟩
    · obtain ⟨matrix, frame⟩ := array_changed s tile fun m => { m with queue := rest, change := some i }
      rw [other sh shape eq] at ran
      exact ⟨_, ran, congrArg Matrix.queue matrix, frame, nofun,
        fun _ _ _ => ⟨congrArg Matrix.change matrix, by rw [matrix]⟩, fun _ same => absurd (Option.some.inj same) eq⟩

/-! ### What reads of operands rest on -/

/-- The second state reads operands as the first does: the same violations, lines of Felt, rules for poison and blocks. -/
structure SameReads (s t : State) : Prop where
  violation : ∀ a w, t.violationKind a w = s.violationKind a w
  holds : ∀ sn m, t.holds sn m = s.holds sn m
  felt : ∀ sn, t.feltSector sn = s.feltSector sn
  halt : ∀ n, t.haltOn n = s.haltOn n
  owner : ∀ tile uid, t.ownerBlock tile uid = s.ownerBlock tile uid

theorem SameReads.refl (s : State) : SameReads s s := ⟨fun _ _ => rfl, fun _ _ => rfl, fun _ => rfl, fun _ => rfl, fun _ _ => rfl⟩

theorem SameReads.trans {s t u : State} (h : SameReads s t) (k : SameReads t u) : SameReads s u where
  violation a w := (k.violation a w).trans (h.violation a w)
  holds sn m := (k.holds sn m).trans (h.holds sn m)
  felt sn := (k.felt sn).trans (h.felt sn)
  halt n := (k.halt n).trans (h.halt n)
  owner tile uid := (k.owner tile uid).trans (h.owner tile uid)

theorem sameReads_of_onlyRead {s t : State} (h : OnlyRead s t) : SameReads s t :=
  ⟨view_violationKind h, view_holds h, view_felt h, view_haltOn h, view_ownerBlock h⟩

theorem adjMatrix_owner (s : State) (n : Nat) (f : Matrix → Matrix) (tile uid : Nat) :
    (s.adjMatrix n f).ownerBlock tile uid = s.ownerBlock tile uid := by
  by_cases eq : tile = n
  · subst eq
    exact owner_adjMatrix s tile uid f
  · exact owner_of_tile (tile_adjTile_other _ _ _ _ eq) uid

theorem adjMatrix_reads (s : State) (n : Nat) (f : Matrix → Matrix) : SameReads s (s.adjMatrix n f) :=
  ⟨fun _ _ => rfl, fun _ _ => rfl, fun _ => rfl, fun _ => rfl, adjMatrix_owner s n f⟩

theorem SameReads.sectorHere {s t : State} (h : SameReads s t) (tile uid : Nat) (dev : Bool) (sn : Nat) :
    t.sectorHere tile uid dev sn = s.sectorHere tile uid dev sn := by
  unfold State.sectorHere State.padSector
  rw [h.violation, h.holds, h.felt, h.halt, h.owner]

theorem SameReads.rowHere {s t : State} (h : SameReads s t) (tile uid : Nat) (dev : Bool) (addr fmt n : Nat) :
    t.rowHere tile uid dev addr fmt n = s.rowHere tile uid dev addr fmt n := by
  unfold State.rowHere
  simp only [h.sectorHere]

theorem SameReads.weightRow {s t : State} (h : SameReads s t) (tile : Nat) (i : MInstr) (r : Nat) :
    t.weightRow tile i r = s.weightRow tile i r := h.rowHere _ _ _ _ _ _

theorem SameReads.scalesGood {s t : State} (h : SameReads s t) (tile : Nat) (i : MInstr) :
    t.scalesGood tile i = s.scalesGood tile i := by
  unfold State.scalesGood State.scaleEntry State.scratchBytes
  rw [h.halt, h.owner]

/-! ### Weight loads -/

/-- A sub-array whose load has ended with these weights (R62). -/
def loadedWith (i : MInstr) (wts : Weights) (a : SubArray) : SubArray :=
  let a := if i.useY then { a with y := some wts } else { a with x := some wts }
  { a with part := [], sectors := [], queue := a.queue.map fun x => if x.same i then { x with phase := .rows 0 } else x }

theorem loadedWith_register (i : MInstr) (wts : Weights) (a : SubArray) : (loadedWith i wts a).register i = some wts := by
  unfold loadedWith SubArray.register
  cases i.useY <;> rfl

theorem loadedWith_other (i : MInstr) (wts : Weights) (a : SubArray) :
    (if i.useY then (loadedWith i wts a).x else (loadedWith i wts a).y) = if i.useY then a.x else a.y := by
  unfold loadedWith
  cases i.useY <;> rfl

theorem loadedWith_rows (i : MInstr) (wts : Weights) (a : SubArray) :
    ∀ x ∈ (loadedWith i wts a).queue, x.same i = true → x.phase = .rows 0 := by
  intro x hx same
  have queue : (loadedWith i wts a).queue = a.queue.map fun x => if x.same i then { x with phase := .rows 0 } else x := by
    unfold loadedWith
    cases i.useY <;> rfl
  rw [queue] at hx
  obtain ⟨y, -, rfl⟩ := List.mem_map.mp hx
  by_cases own : y.same i = true
  · rw [if_pos own]
  · rw [if_neg own] at same
    exact absurd same own

/-- Good scales are captured at once, and nothing changes (R92, R96). -/
theorem weightScales_good {s : State} {tile : Nat} {i : MInstr} (good : s.scalesGood tile i = true) :
    ∃ scales, s.weightScales tile i = (s, .ok scales) := by
  unfold State.scalesGood at good
  simp only [Bool.and_eq_true, Bool.not_eq_true', Bool.or_eq_true, decide_eq_true_eq, List.all_eq_true, List.mem_range] at good
  obtain ⟨noHalt, tags⟩ := good
  unfold State.weightScales
  by_cases plain : i.desc.grain = 0
  · exact ⟨_, if_pos plain⟩
  · dsimp only
    rw [if_neg plain]
    have noBad : (if i.desc.grain = 3 then
        ((List.range (i.desc.k / 32)).flatMap fun b => (List.range i.desc.n).filterMap fun n =>
          if (s.scaleEntry tile i.owner i.desc.wScale (n * (i.desc.k / 32) + b)).2.1 =
            (i.desc.tagBase + n * (i.desc.k / 32) + b) % 65536 then none
          else some (eltAddr i.desc.w i.desc.wStride (32 * b) i.desc.wFmt n)).head?
        else none) = none := by
      split
      next blocks =>
        rw [List.head?_eq_none_iff, List.flatMap_eq_nil_iff]
        intro b hb
        rw [List.filterMap_eq_nil_iff]
        intro n hn
        exact if_pos (tags.resolve_left (fun no => no blocks) n (List.mem_range.mp hn) b (List.mem_range.mp hb))
      next => rfl
    rw [noBad, noHalt]
    dsimp only
    split
    next impossible => cases impossible
    next => exact ⟨_, rfl⟩

/-- Rows at hand are all read at once (R69). -/
theorem weightRows_here (tile : Nat) (i : MInstr) (n : Nat) : ∀ (k : Nat) (acc rows : List (List Elt)) (s : State), rows.length = n →
    (∀ j (hj : j < rows.length), s.weightRow tile i (k + j) = some rows[j]) →
    ∃ t, OnlyRead s t ∧ State.weightRows tile i n k acc [] s = (t, acc ++ rows, [], .ok ()) := by
  induction n with
  | zero =>
    intro k acc rows s length _
    rw [List.eq_nil_of_length_eq_zero length, List.append_nil]
    exact ⟨s, OnlyRead.refl s, rfl⟩
  | succ n ih =>
    intro k acc rows s length here
    cases rows with
    | nil => exact absurd length (by simp)
    | cons row rows =>
      obtain ⟨t, l, read, gathered, elts⟩ := rowHere_ok s tile i.owner i.desc.w.dev _ _ _ row (here 0 (by simp))
      obtain ⟨u, rest, loaded⟩ := ih (k + 1) (acc ++ [row]) rows t (by simpa using length) fun j hj => by
        rw [(sameReads_of_onlyRead read).weightRow, show k + 1 + j = k + (j + 1) by omega]
        exact here (j + 1) (by simpa using hj)
      refine ⟨u, read.trans rest, ?_⟩
      unfold State.weightRows
      dsimp only
      simp only [List.length_nil, Nat.sub_zero, Nat.add_zero] at gathered ⊢
      rw [gathered]
      dsimp only
      rw [elts, loaded, List.append_assoc]
      rfl

theorem wDrops_keep {d : MDesc} (keep : d.dropW = false) : d.wDrops = [] := by
  rw [MDesc.wDrops, if_neg (by simp [keep])]

/-- A load whose rows and scales are at hand ends: its register holds the rows. -/
theorem runLoad_ends {s : State} {tile : Nat} {i : MInstr} {part rows : List (List Elt)} (scales : s.scalesGood tile i = true)
    (keep : i.desc.dropW = false)
    (here : ∃ t, OnlyRead s t ∧ State.weightRows tile i (i.desc.k - part.length) part.length part [] s = (t, rows, [], .ok ())) :
    ∃ wts : Weights, wts.cols = columnsOf i.desc.n rows ∧ wts.info = loadOf i ∧
      ((s.runLoad tile i part []).tile tile).matrix =
        Matrix.adjSub (s.tile tile).matrix i.desc.sub (loadedWith i wts) := by
  obtain ⟨⟨bs, cs, ts, ms⟩, captured⟩ := weightScales_good scales
  obtain ⟨t, read, loaded⟩ := here
  refine ⟨{ cols := columnsOf i.desc.n rows, blockSc := bs, chanSc := cs, tscale := ts, marks := ms, info := loadOf i }, rfl, rfl, ?_⟩
  have ran : s.runLoad tile i part [] = t.adjMatrix tile fun m => m.adjSub i.desc.sub (loadedWith i
      { cols := columnsOf i.desc.n rows, blockSc := bs, chanSc := cs, tscale := ts, marks := ms, info := loadOf i }) := by
    unfold State.runLoad
    rw [captured]
    dsimp only
    rw [loaded]
    dsimp only
    rw [wDrops_keep keep]
    rfl
  rw [ran, tile_adjMatrix, view_tile read]

theorem loaded_of_matrix {s t : State} {tile : Nat} {i : MInstr} {rows : List (List Elt)} {wts : Weights} {a : SubArray}
    (sub : s.sub tile i.desc.sub = some a) (cols : wts.cols = columnsOf i.desc.n rows) (info : wts.info = loadOf i)
    (matrix : (t.tile tile).matrix = Matrix.adjSub (s.tile tile).matrix i.desc.sub (loadedWith i wts)) :
    t.sub tile i.desc.sub = some (loadedWith i wts a) ∧ t.Loaded tile i rows := by
  have got : t.sub tile i.desc.sub = some (loadedWith i wts a) := by
    unfold State.sub at sub ⊢
    rw [matrix]
    refine (adjAt_getElem? _ _ _).trans ?_
    rw [sub]
    rfl
  refine ⟨got, _, _, got, loadedWith_register i wts a, cols, info, ?_, loadedWith_rows i wts a⟩
  unfold loadedWith
  cases i.useY <;> rfl

/-- Every row of an instruction's weights is at hand (R62). -/
def RowsHere (s : State) (tile : Nat) (i : MInstr) (rows : List (List Elt)) : Prop :=
  (List.range i.desc.k).mapM (s.weightRow tile i) = some rows

theorem RowsHere.of_reads {s t : State} {tile : Nat} {i : MInstr} {rows : List (List Elt)} (here : RowsHere s tile i rows)
    (h : SameReads s t) : RowsHere t tile i rows := by
  unfold RowsHere at here ⊢
  rw [← here]
  exact mapM_congr _ _ _ fun r _ => h.weightRow tile i r

/-- From a row on, with the rows before it read, the rest is read at once. -/
theorem weightRows_from {s : State} {tile : Nat} {i : MInstr} {rows : List (List Elt)} (here : RowsHere s tile i rows) (k : Nat)
    (hk : k ≤ i.desc.k) : ∃ t, OnlyRead s t ∧ State.weightRows tile i (i.desc.k - (rows.take k).length) (rows.take k).length
      (rows.take k) [] s = (t, rows, [], .ok ()) := by
  obtain ⟨length, each⟩ := mapM_range _ _ _ here
  have taken : (rows.take k).length = k := by rw [List.length_take]; omega
  obtain ⟨t, read, loaded⟩ := weightRows_here tile i (i.desc.k - k) k (rows.take k) (rows.drop k) s (by simp [length]) fun j hj => by
    rw [List.getElem_drop]
    exact each (k + j) _
  rw [List.take_append_drop] at loaded
  rw [taken]
  exact ⟨t, read, loaded⟩

theorem weightRows_all {s : State} {tile : Nat} {i : MInstr} {rows : List (List Elt)} (here : RowsHere s tile i rows) :
    ∃ t, OnlyRead s t ∧ State.weightRows tile i (i.desc.k - ([] : List (List Elt)).length) ([] : List (List Elt)).length [] [] s =
      (t, rows, [], .ok ()) := by
  simpa using weightRows_from here 0 (Nat.zero_le _)

theorem gauzeFrontStart_runs {s : State} {tile sub : Nat} {a : SubArray} {i : MInstr} (wait : Nat) (got : s.sub tile sub = some a)
    (load : a.toLoad = some i) (front : i.load = .front) (waits : i.phase = .waitLoad) (free : a.registerFree i = true) :
    gauzeFrontStart tile sub wait s = (s.bump Obj.gauzeWaitCycles wait).runLoad tile i [] [] := by
  simp [gauzeFrontStart, got, load, front, waits, free]

theorem gauzeFrontResume_runs {s : State} {tile sub k : Nat} {a : SubArray} {i : MInstr} (wait : Nat) (got : s.sub tile sub = some a)
    (load : a.toLoad = some i) (loading : i.phase = .loading k) : gauzeFrontResume tile sub wait s =
      (if i.load = .front then s.bump Obj.gauzeWaitCycles wait else s).runLoad tile i a.part a.sectors := by
  simp [gauzeFrontResume, got, load, loading]

/-- The state of a flush load before it reads: counted, with both registers discarded (R63, R67). -/
def flushed (s : State) (tile sub r : Nat) : State :=
  (s.countFlush tile r).adjMatrix tile fun m => m.adjSub sub fun a => { a with x := none, y := none }

theorem flushLoad_runs {s : State} {tile sub r : Nat} {a : SubArray} {i : MInstr} (got : s.sub tile sub = some a)
    (load : a.toLoad = some i) (flush : i.load = .flush r) (waits : i.phase = .waitLoad) (drained : a.drainedBefore i = true) :
    flushLoad tile sub s = (flushed s tile sub r).runLoad tile i [] [] := by
  simp [flushLoad, got, load, flush, waits, drained, flushed]

theorem loadsFrom_ballast {s t : State} {tile : Nat} {i : MInstr} {part : List (List Elt)} {got : List SectorVal}
    (h : s.LoadsFrom tile i part got (.next t)) : s.LoadsFrom tile i part got (.next t.displaceBallast) := by
  intro s1 s2 bs cs ts ms rows rest a h1 h2 h3 h4
  obtain ⟨u, a', eq, sub, register, other, queue⟩ := h s1 s2 bs cs ts ms rows rest a h1 h2 h3 h4
  cases eq
  exact ⟨_, a', rfl, sub, register, other, queue⟩

theorem countFlush_view (s : State) (tile r : Nat) : OnlyRead s (s.countFlush tile r) :=
  ((bump_view _ _ _).trans (bump_view _ _ _)).trans (bump_view _ _ _)

theorem flushed_reads (s : State) (tile sub r : Nat) : SameReads s (flushed s tile sub r) :=
  (sameReads_of_onlyRead (countFlush_view s tile r)).trans (adjMatrix_reads _ _ _)

theorem sub_adjSub {s : State} {tile : Nat} {m : Matrix} {n : Nat} {f : SubArray → SubArray} {a : SubArray}
    (matrix : (s.tile tile).matrix = m.adjSub n f) (sub : m.subs[n]? = some a) : s.sub tile n = some (f a) := by
  unfold State.sub
  rw [matrix]
  refine (adjAt_getElem? _ _ _).trans ?_
  rw [sub]
  rfl

theorem flushed_matrix (s : State) (tile sub r : Nat) : ((flushed s tile sub r).tile tile).matrix =
    Matrix.adjSub (s.tile tile).matrix sub fun a => { a with x := none, y := none } :=
  (tile_adjMatrix _ _ _).trans (by rw [view_tile (countFlush_view s tile r)])

theorem flushed_sub {s : State} {tile sub : Nat} {a : SubArray} (r : Nat) (got : s.sub tile sub = some a) :
    (flushed s tile sub r).sub tile sub = some { a with x := none, y := none } :=
  sub_adjSub (flushed_matrix s tile sub r) got

/-! ### Changes of shape -/

/-- The array after a change of shape, but for the load of the instruction that asked for it (R65). -/
def reshaped (i : MInstr) (m : Matrix) : Matrix :=
  { m with change := none, shape := some i.desc.shape
           kept := m.kept ++ m.subs.flatMap fun a => a.queue
           subs := adjAt (List.replicate (shapeSubs i.desc.shape) SubArray.empty) i.desc.sub fun a => a.accept i .shape }

/-- The reason counted for the load of a change of shape (R67). -/
def reshapeReason (i : MInstr) (m : Matrix) : Nat :=
  match m.subs.findSome? fun a => a.plan with
  | none => 3
  | some l => (match flushReason i l false with
    | some 1 => 1
    | some 2 => 2
    | _ => 3)

/-- The state after a change of shape, but for the load that follows. -/
def afterReshape (s : State) (tile : Nat) (i : MInstr) : State :=
  (if i.desc.wkeep then s else s.countFlush tile (reshapeReason i (s.tile tile).matrix)).adjMatrix tile (reshaped i)

theorem afterReshape_matrix (s : State) (tile : Nat) (i : MInstr) :
    ((afterReshape s tile i).tile tile).matrix = reshaped i (s.tile tile).matrix := by
  refine (tile_adjMatrix _ _ _).trans ?_
  split
  · rfl
  · rw [view_tile (countFlush_view _ _ _)]

theorem afterReshape_reads (s : State) (tile : Nat) (i : MInstr) : SameReads s (afterReshape s tile i) := by
  refine SameReads.trans ?_ (adjMatrix_reads _ _ _)
  split
  · exact SameReads.refl s
  · exact sameReads_of_onlyRead (countFlush_view _ _ _)

theorem afterReshape_same (s : State) (tile : Nat) (i : MInstr) : SameBut [.tiles, .counters] s (afterReshape s tile i) := by
  refine SameBut.trans ?_ (SameBut.mono rfl (adjMatrix_same _ tile (reshaped i)))
  split
  · exact SameBut.refl _ s
  · exact State_countFlush_same rfl s tile _ (SameBut.refl _ s)

theorem reshaped_subs (i : MInstr) (m : Matrix) : (reshaped i m).subs.length = shapeSubs i.desc.shape := by
  show (adjAt _ _ _).length = _
  rw [adjAt_length, List.length_replicate]

/-- The sub-arrays of the new shape have no weights, and the one the instruction names has it in its queue. -/
theorem reshaped_sub (i : MInstr) (m : Matrix) {n : Nat} (hn : n < shapeSubs i.desc.shape) :
    (reshaped i m).subs[n]? = some (if n = i.desc.sub then SubArray.empty.accept i .shape else SubArray.empty) := by
  have fresh : (List.replicate (shapeSubs i.desc.shape) SubArray.empty)[n]? = some SubArray.empty := by
    rw [List.getElem?_replicate, if_pos hn]
  show (adjAt _ _ _)[n]? = _
  by_cases own : n = i.desc.sub
  · subst own
    rw [adjAt_getElem?, fresh, if_pos rfl]
    rfl
  · rw [adjAt_getElem?_other _ _ _ _ own, fresh, if_neg own]

theorem afterReshape_sub (s : State) (tile : Nat) (i : MInstr) {n : Nat} (hn : n < shapeSubs i.desc.shape) :
    (afterReshape s tile i).sub tile n = some (if n = i.desc.sub then SubArray.empty.accept i .shape else SubArray.empty) := by
  unfold State.sub
  rw [afterReshape_matrix]
  exact reshaped_sub i _ hn

theorem afterReshape_empty (s : State) (tile : Nat) (i : MInstr) {n : Nat} (hn : n < shapeSubs i.desc.shape) :
    ∃ a, (afterReshape s tile i).sub tile n = some a ∧ a.x = none ∧ a.y = none := by
  refine ⟨_, afterReshape_sub s tile i hn, ?_⟩
  split
  · exact accept_registers _ _ _
  · exact ⟨rfl, rfl⟩

/-- The instruction of a change of shape, as it waits for its load. -/
def shapeLoad (i : MInstr) : MInstr := { i with load := .shape, useY := true, phase := .waitLoad }

theorem empty_accept_toLoad (i : MInstr) :
    (SubArray.empty.accept i .shape).toLoad = if i.desc.wkeep then none else some (shapeLoad i) := by
  unfold SubArray.toLoad
  rw [accept_queue]
  cases i.desc.wkeep <;> rfl

theorem shapeChange_runs {s : State} {tile : Nat} {i : MInstr} (change : (s.tile tile).matrix.change = some i)
    (sub : i.desc.sub < shapeSubs i.desc.shape)
    (banked : ((s.tile tile).matrix.subs.all fun a => a.queue.all MInstr.inBank) = true) :
    shapeChange tile s = if i.desc.wkeep then afterReshape s tile i else (afterReshape s tile i).runLoad tile (shapeLoad i) [] [] := by
  have load : ((afterReshape s tile i).sub tile i.desc.sub).bind SubArray.toLoad = if i.desc.wkeep then none else some (shapeLoad i) := by
    rw [afterReshape_sub s tile i sub, if_pos rfl]
    exact empty_accept_toLoad i
  unfold shapeChange
  dsimp only
  rw [change]
  dsimp only
  rw [if_pos banked]
  show (match ((afterReshape s tile i).sub tile i.desc.sub).bind SubArray.toLoad with
    | some j => (afterReshape s tile i).runLoad tile j [] []
    | none => afterReshape s tile i) = _
  rw [load]
  cases i.desc.wkeep <;> rfl

theorem next_eq {t u : State} (h : t = u) : (Host.Outcome.next t : Out) = .next u := congrArg Host.Outcome.next h

theorem next_ballast_eq {t u : State} (h : t = u) : (Host.Outcome.next t.displaceBallast : Out) = .next u.displaceBallast := by rw [h]

theorem loadsFrom_of_eq {s t : State} {tile : Nat} {i : MInstr} {part : List (List Elt)} {got : List SectorVal} {o : Out}
    (eq : o = .next t) (h : s.LoadsFrom tile i part got (.next t)) : s.LoadsFrom tile i part got o := by
  rw [eq]
  exact h

/-- A load that starts from an operand state that reads as the first does, with its rows at hand. -/
theorem runLoad_loaded {s u : State} {tile : Nat} {i : MInstr} {rows : List (List Elt)} {a : SubArray} (k : Nat) (hk : k ≤ i.desc.k)
    (reads : SameReads s u) (scales : s.scalesGood tile i = true) (keep : i.desc.dropW = false) (here : RowsHere s tile i rows)
    (sub : u.sub tile i.desc.sub = some a) :
    ∃ wts, ((u.runLoad tile i (rows.take k) []).tile tile).matrix = Matrix.adjSub (u.tile tile).matrix i.desc.sub (loadedWith i wts) ∧
      (u.runLoad tile i (rows.take k) []).sub tile i.desc.sub = some (loadedWith i wts a) ∧
      (u.runLoad tile i (rows.take k) []).Loaded tile i rows := by
  obtain ⟨wts, cols, info, matrix⟩ := runLoad_ends (by rwa [reads.scalesGood]) keep (weightRows_from (here.of_reads reads) k hk)
  exact ⟨wts, matrix, loaded_of_matrix sub cols info matrix⟩

/-- Settles O33: each command runs the load, from the state that its own rule gives. -/
theorem weightLoadsAndShapeChanges : Obligations.WeightLoadsAndShapeChanges := by
  unfold Obligations.WeightLoadsAndShapeChanges
  refine ⟨fun s tile sub a i got load hsub => ?loads, fun s tile i change sub banked => ?shapes⟩
  case loads =>
    subst hsub
    have bumped (wait : Nat) : SameReads s (s.bump Obj.gauzeWaitCycles wait) := sameReads_of_onlyRead (bump_view s _ _)
    refine ⟨fun wait front waits free => ?_, fun wait k loading => ?_, fun r flush waits drained => ?_,
      fun rows scales keep here => ⟨fun wait front waits free => ?_, fun wait k loading part hk sectors => ?_, fun r flush waits drained => ?_⟩⟩
    · exact loadsFrom_of_eq (next_eq (gauzeFrontStart_runs wait got load front waits free)) (runLoad_loads _ tile i [] [])
    · exact loadsFrom_of_eq (next_eq (gauzeFrontResume_runs wait got load loading)) (runLoad_loads _ tile i a.part a.sectors)
    · exact loadsFrom_of_eq (next_ballast_eq (flushLoad_runs got load flush waits drained))
        (loadsFrom_ballast (runLoad_loads _ tile i [] []))
    · obtain ⟨-, -, -, loaded⟩ := runLoad_loaded 0 (Nat.zero_le _) (bumped wait) scales keep here got
      exact ⟨_, next_eq (gauzeFrontStart_runs wait got load front waits free), loaded⟩
    · have ran := gauzeFrontResume_runs wait got load loading
      rw [part, sectors] at ran
      have reads : SameReads s (if i.load = .front then s.bump Obj.gauzeWaitCycles wait else s) := by
        split
        · exact bumped wait
        · exact SameReads.refl s
      have sub : (if i.load = .front then s.bump Obj.gauzeWaitCycles wait else s).sub tile i.desc.sub = some a := by
        split <;> exact got
      obtain ⟨-, -, -, loaded⟩ := runLoad_loaded k hk reads scales keep here sub
      exact ⟨_, next_eq ran, loaded⟩
    · obtain ⟨wts, -, sub, loaded⟩ := runLoad_loaded 0 (Nat.zero_le _) (flushed_reads s tile i.desc.sub r) scales keep here (flushed_sub r got)
      refine ⟨_, _, next_ballast_eq (flushLoad_runs got load flush waits drained), loaded, sub, ?_⟩
      rw [loadedWith_other]
      cases i.useY <;> rfl
  case shapes =>
    have runs := shapeChange_runs change sub banked
    have matrix := afterReshape_matrix s tile i
    have lanes : ∀ n, n < shapeSubs i.desc.shape → ∃ a, (afterReshape s tile i).sub tile n = some a ∧ a.x = none ∧ a.y = none :=
      fun n hn => afterReshape_empty s tile i hn
    have subs : ((afterReshape s tile i).tile tile).matrix.subs.length = shapeSubs i.desc.shape := by
      rw [matrix]
      exact reshaped_subs i _
    refine ⟨fun wkeep => ?_, fun wkeep => ?_, fun rows wkeep scales keep here => ?_⟩
    · rw [if_pos wkeep] at runs
      refine ⟨_, next_ballast_eq runs, ?_, congrArg Matrix.change matrix,
        congrArg Matrix.shape matrix, subs, lanes⟩
      refine SameBut.trans ?_ (SameBut.mono rfl (displaceBallast_same _))
      refine SameBut.mono rfl (?_ : SameBut [.tiles] s (afterReshape s tile i))
      unfold afterReshape
      rw [if_pos wkeep]
      exact adjMatrix_same s tile _
    · rw [if_neg (by simp [wkeep])] at runs
      refine ⟨afterReshape s tile i, afterReshape_same s tile i, congrArg Matrix.change matrix, congrArg Matrix.shape matrix, subs, lanes, ?_⟩
      exact loadsFrom_of_eq (next_ballast_eq runs) (loadsFrom_ballast (runLoad_loads _ tile (shapeLoad i) [] []))
    · rw [if_neg (by simp [wkeep])] at runs
      obtain ⟨wts, array, -, loaded⟩ := runLoad_loaded (i := shapeLoad i) 0 (Nat.zero_le _) (afterReshape_reads s tile i) scales keep here
        (afterReshape_sub s tile i sub)
      rw [matrix] at array
      exact ⟨_, next_ballast_eq runs, congrArg Matrix.change array, congrArg Matrix.shape array,
        loaded⟩

end Sys2Proof.Proofs
end

section
/-! Activation rows issue (R56, R57, R82, R89), and result banks drain and complete (R58, R79, R80, R97 to R100). -/

set_option Elab.async false

namespace Sys2Proof.Proofs

open Sys2Proof Sys2Proof.Machine Sys2Proof.Laws

/-! ### Activation rows -/

theorem scratchError_none (s : State) (tile uid sn : Nat) : s.scratchError tile uid sn .none = s := by
  unfold State.scratchError
  split <;> rfl

theorem feltError_none (s : State) (sn agent : Nat) : s.feltError sn agent .none = s := by
  unfold State.feltError
  split <;> rfl

theorem operandError_none (s : State) (tile uid : Nat) (dev : Bool) (sn : Nat) : s.operandError tile uid dev sn .none = s := by
  unfold State.operandError
  split
  · exact scratchError_none s tile uid sn
  · split
    · split
      · exact feltError_none s sn tile
      · rfl
    · rfl

theorem activationRowIssue_runs {s : State} {tile sub m bank : Nat} {a : SubArray} {i : MInstr} {wts : Weights} {hit : ParityHit}
    (err : ErrHit) (got : s.sub tile sub = some a) (issue : a.toIssue = some i) (row : i.phase = .rows m)
    (free : (s.tile tile).matrix.bankFor i = some bank) (weights : a.weightsFor i = some wts) (clean : ∀ r, hit ≠ .recurs r) :
    activationRowIssue tile sub hit err s = State.issueRow s tile m i wts bank
      ((if hit = .none then s else s.parityReplay tile 1).operandError tile i.owner i.desc.a.dev
        ((i.desc.a.addr + m * i.desc.aStride * 32) / 32) err) := by
  unfold activationRowIssue
  rw [got]
  dsimp only
  rw [issue]
  dsimp only
  rw [row]
  dsimp only
  rw [free]
  dsimp only
  rw [weights]
  cases hit with
  | none => rfl
  | once => rfl
  | recurs r => exact absurd rfl (clean r)

theorem orMark_none {a b : Option PoisonClass} (h : orMark a b = none) : a = none ∧ b = none := by
  cases a with
  | none => exact ⟨rfl, h⟩
  | some c => exact absurd h (Option.some_ne_none c)

theorem foldl_orMark_none {l : List (Option PoisonClass)} {a : Option PoisonClass} (h : l.foldl orMark a = none) :
    a = none ∧ ∀ x ∈ l, x = none := by
  induction l generalizing a with
  | nil => exact ⟨h, by simp⟩
  | cons x l ih =>
    obtain ⟨first, rest⟩ := ih h
    obtain ⟨ha, hx⟩ := orMark_none first
    exact ⟨ha, fun y hy => (List.mem_cons.mp hy).elim (fun eq => eq ▸ hx) (rest y)⟩

/-- Without a first mark there is none. -/
theorem firstMark_none {l : List (Option PoisonClass)} (h : firstMark l = none) : ∀ x ∈ l, x = none := (foldl_orMark_none h).2

/-- A row's instruction after the row (R56). -/
def issuedRow (i : MInstr) (m bank : Nat) (hdr : W32 × W32 × Option PoisonClass) (seff : List W32) (r : List RegVal × Bool) : MInstr :=
  { i with
    phase := if m + 1 == i.desc.rows then .inBank else .rows (m + 1), bank := some bank, sat := i.sat || r.2,
    pois := i.pois || r.1.any fun v => v.mark.isSome, hdr := some hdr, seff := seff }

/-- The array after a row past the first, of an instruction with no C and no top-k (R57, R89). -/
def rowAdded (i : MInstr) (m bank : Nat) (hdr : W32 × W32 × Option PoisonClass) (seff : List W32) (r : List RegVal × Bool)
    (mx : Matrix) : Matrix :=
  let mx := mx.adjSub i.desc.sub fun a =>
    { a with queue := a.queue.map fun x => if x.same i then issuedRow i m bank hdr seff r else x }
  { mx with banks := adjAt mx.banks bank fun b =>
      { instr := some (issuedRow i m bank hdr seff r), full := m + 1 == i.desc.rows, drained := false, rows := b.rows ++ [r.1],
        topk := [], stat := none } }

theorem aDrops_keep {d : MDesc} (m : Nat) (keep : d.dropA = false) : d.aDrops m = [] := by
  rw [MDesc.aDrops, if_neg (by simp [keep])]

/-- A row whose elements are at hand joins its bank. -/
theorem issueRow_here {s : State} {tile m bank : Nat} {i : MInstr} {wts : Weights} {aSc : List Nat}
    {aMarks : List (Option PoisonClass × Nat)} {row : List Elt} {hdr : W32 × W32 × Option PoisonClass} (later : m ≠ 0)
    (noC : i.desc.acc = false) (noTopk : isTopk i.desc.op = false) (header : i.hdr = some hdr)
    (scales : s.rowScales tile i m = .ok (aSc, aMarks)) (clear : firstMark (hdr.2.2 :: aMarks.map (·.1)) = none)
    (keep : i.desc.dropA = false)
    (here : s.rowHere tile i.owner i.desc.a.dev (i.desc.a.addr + m * i.desc.aStride * 32) i.desc.aFmt i.desc.k = some row) :
    ∃ t : State, OnlyRead s t ∧ State.issueRow s tile m i wts bank s = t.adjMatrix tile
      (rowAdded i m bank hdr (if i.seff.isEmpty then seffOf i.desc hdr.1 wts else i.seff)
        (rowValues i wts (if i.seff.isEmpty then seffOf i.desc hdr.1 wts else i.seff) row aSc (hdr.2.2 :: aMarks.map (·.1)) none)) := by
  obtain ⟨t, read, operand⟩ := opRow_ok s tile i.owner i.desc.a.dev _ _ _ row here
  have unmarked : ((hdr.2.2, i.desc.aScale) :: aMarks).find? (fun e => e.1.isSome) = none := by
    rw [List.find?_eq_none]
    intro e he
    have := firstMark_none clear e.1 (List.mem_map_of_mem (f := Prod.fst) he)
    simp [this]
  refine ⟨t, read, ?_⟩
  unfold State.issueRow State.headerOf
  dsimp only
  rw [if_neg later]
  dsimp only
  rw [scales]
  dsimp only
  rw [operand]
  dsimp only
  rw [header]
  dsimp only
  rw [unmarked]
  simp only [noC, noTopk, Bool.false_and, Bool.false_eq_true, if_false, later, decide_false, aDrops_keep m keep, List.map_cons]
  rfl

/-- An array changed by a command that marks no tile faulted. -/
theorem afterFault_array {s : State} (tile : Nat) (f : Matrix → Matrix) (calm : s.ledger.autoReset = false) :
    ((s.adjMatrix tile f).afterFault.tile tile).matrix = f (s.tile tile).matrix := by
  rw [afterFault_tile (s.adjMatrix tile f) calm tile]
  exact tile_adjMatrix s tile f

theorem bank_rowAdded {i : MInstr} {m bank : Nat} {hdr : W32 × W32 × Option PoisonClass} {seff : List W32} {r : List RegVal × Bool}
    {mx : Matrix} {b : Bank} (banked : mx.banks[bank]? = some b) : (rowAdded i m bank hdr seff r mx).banks[bank]? =
      some { instr := some (issuedRow i m bank hdr seff r), full := m + 1 == i.desc.rows, drained := false, rows := b.rows ++ [r.1],
             topk := [], stat := none } := by
  refine (adjAt_getElem? _ _ _).trans ?_
  rw [show ((mx.adjSub i.desc.sub _).banks[bank]?) = some b from banked]
  rfl

/-- Settles O34: the row by its own rule, and a row at hand by what the rule adds to the bank. -/
theorem activationRowFillsTheBank : Obligations.ActivationRowFillsTheBank := by
  unfold Obligations.ActivationRowFillsTheBank
  intro s tile sub m bank a i wts hit err got issue row free weights
  refine ⟨fun clean => ?_, fun aSc aMarks elts hdr b later noC noTopk header scales clear keep noReset here banked => ?_⟩
  · exact congrArg (fun t : State => (Host.Outcome.next t.afterFault : Out)) (activationRowIssue_runs err got issue row free weights clean)
  · have runs := activationRowIssue_runs (hit := .none) .none got issue row free weights (fun _ => nofun)
    rw [if_pos rfl, operandError_none] at runs
    obtain ⟨t, read, added⟩ := issueRow_here (bank := bank) (wts := wts) later noC noTopk header scales clear keep here
    rw [added] at runs
    have calm : t.ledger.autoReset = false := by
      obtain ⟨c, w, p, rfl⟩ := read
      exact noReset
    have banked' : (t.tile tile).matrix.banks[bank]? = some b := by rwa [view_tile read]
    have ran := congrArg (fun t : State => (Host.Outcome.next t.afterFault : Out)) runs
    exact ⟨_, _, ran, (congrArg (fun mx : Matrix => mx.banks[bank]?) (afterFault_array tile _ calm)).trans (bank_rowAdded banked'),
      rfl, rfl, rfl⟩

/-! ### Banks drain and complete -/

/-- A full bank of its sub-array's oldest instruction drains from the state as it is. -/
theorem resultBankDrain_runs {s : State} {tile bank : Nat} {b : Bank} {i j : MInstr} (banked : (s.tile tile).matrix.banks[bank]? = some b)
    (instr : b.instr = some i) (full : b.full = true) (fresh : b.drained = false)
    (oldest : ((s.tile tile).matrix.order i).head? = some j) (same : j.same i = true) :
    resultBankDrain tile bank .none s = State.drainBank s tile bank b i s := by
  unfold resultBankDrain
  dsimp only
  rw [banked]
  dsimp only
  rw [instr]
  dsimp only
  rw [oldest, if_neg (by simp [full, fresh, same])]

/-- The rows of a bank, or its top-k records, written to D (R74, R97). -/
def drainAll (s : State) (tile : Nat) (b : Bank) (i : MInstr) : State × Bool × CStat :=
  if isTopk i.desc.op then
    State.drainTopk tile i 0 b.topk ((List.range i.desc.n).map fun n => firstMark (b.rows.map fun r => (r[n]?).bind (·.mark)))
      (CStat.init false) s
  else State.drainRows (BitVec.ofNat 64 (s.num Obj.rngSeed)) tile i 0 b.rows
    (CStat.init (i.desc.rnd && i.launch.stoch && i.desc.dFmt != 0xB)) s

/-- What a drain counts and raises leaves the arrays and asks for no reset. -/
structure Calmly (s t : State) (tile : Nat) : Prop where
  matrix : (t.tile tile).matrix = (s.tile tile).matrix
  reset : t.ledger.autoReset = s.ledger.autoReset

theorem Calmly.refl (s : State) (tile : Nat) : Calmly s s tile := ⟨rfl, rfl⟩

theorem Calmly.trans {s t u : State} {tile : Nat} (h : Calmly s t tile) (k : Calmly t u tile) : Calmly s u tile :=
  ⟨k.matrix.trans h.matrix, k.reset.trans h.reset⟩

theorem bump_calmly (s : State) (k n tile : Nat) : Calmly s (s.bump k n) tile := ⟨rfl, rfl⟩

theorem raiseSat_calmly (s : State) (agent seq : Nat) (dst : LogAddr) (a b tile : Nat) : Calmly s (s.raiseSat agent seq dst a b) tile :=
  ⟨(raiseSat_core s agent seq dst a b tile).1, raiseSat_auto s agent seq dst a b⟩

theorem ite_calmly {s t u : State} {tile : Nat} {c : Prop} [Decidable c] (ht : Calmly s t tile) (hu : Calmly s u tile) :
    Calmly s (if c then t else u) tile := by
  split
  · exact ht
  · exact hu

/-- A bank changed by a command that marks no tile faulted. -/
theorem drained_bank {s : State} {tile bank : Nat} {b : Bank} (calm : s.ledger.autoReset = false)
    (banked : (s.tile tile).matrix.banks[bank]? = some b) (f : Matrix → Matrix) (g : Bank → Bank) :
    ((s.adjMatrix tile fun mx => { f mx with banks := adjAt mx.banks bank g }).afterFault.tile tile).matrix.banks[bank]? = some (g b) := by
  rw [afterFault_array tile _ calm]
  refine (adjAt_getElem? _ _ _).trans ?_
  rw [banked]
  rfl

/-- A drained bank holds its rows, and the record of its statistics (R108). -/
theorem drainBank_drained {s s1 : State} {tile bank : Nat} {b b1 : Bank} {i : MInstr} {st : CStat} (open' : s.destOpen i.desc = true)
    (good : s.destFault i.desc = none) (drained : drainAll s tile b i = (s1, true, st))
    (banked : (s1.tile tile).matrix.banks[bank]? = some b1) (calm : s1.ledger.autoReset = false) :
    ∃ b', (((State.drainBank s tile bank b i s).afterFault).tile tile).matrix.banks[bank]? = some b' ∧ b'.drained = true ∧ b'.rows = b1.rows ∧
      ∃ evt scale, b'.stat = some (st.record (i.desc.dFmt == 0 || i.desc.dFmt == 0xB) evt i.desc.dFmt scale) := by
  unfold drainAll at drained
  unfold State.drainBank
  rw [good]
  dsimp only
  rw [if_neg (by simp [open']), drained]
  dsimp only
  have counted : Calmly s1 (if (i.desc.dFmt == 0 || i.desc.dFmt == 0xB) = true then s1 else s1.bump Obj.conversionTotal 1) tile :=
    ite_calmly (Calmly.refl s1 tile) (bump_calmly s1 _ _ tile)
  generalize (if (i.desc.dFmt == 0 || i.desc.dFmt == 0xB) = true then s1 else s1.bump Obj.conversionTotal 1) = s2 at counted
  generalize (!(i.desc.dFmt == 0 || i.desc.dFmt == 0xB) && s2.satEvent st.sat st.elements) = evt
  have raised : ∀ seq, Calmly s1 (if evt = true then
      s2.raiseSat tile seq (opAddr i.desc.d.dev i.desc.d.addr) st.sat st.elements else s2) tile := fun seq =>
    ite_calmly (counted.trans (raiseSat_calmly s2 _ _ _ _ _ tile)) counted
  exact ⟨_, drained_bank ((raised _).reset.trans calm) (by rw [(raised _).matrix]; exact banked) (fun mx => mx.update _) _, rfl, rfl,
    evt, _, rfl⟩

theorem convertRun_length (fmt : Nat) (inf : Bool) (l : List CElt) (st : CStat) : (convertRun fmt inf l st).1.length = l.length := by
  induction l generalizing st with
  | nil => rfl
  | cons e l ih => exact congrArg Nat.succ (ih _)

/-- A row converts to no more elements than it has. -/
theorem drainRow_length (seed : W64) (tile : Nat) (i : MInstr) (m : Nat) (vals : List RegVal) (st : CStat) :
    (drainRow seed tile i m vals st).1.length ≤ vals.length := by
  unfold drainRow
  dsimp only
  split
  · exact le_of_eq (List.length_map ..)
  · split
    · simp
    · rw [convertRun_length]
      simp

theorem rowPieces_length (fmt : Nat) (l : List Elt) : (rowPieces fmt l).length = (rowBytes fmt l.length + 31) / 32 := by
  simp [rowPieces]

theorem rowBytes_mono (fmt : Nat) {m n : Nat} (h : m ≤ n) : rowBytes fmt m ≤ rowBytes fmt n := by
  unfold rowBytes
  exact Nat.div_le_div_right (Nat.add_le_add_right (Nat.mul_le_mul_right _ h) _)

/-- A row of results takes no more pieces of D than a row of D has sectors. -/
theorem drainPieces_le (seed : W64) (tile : Nat) (i : MInstr) (m : Nat) {vals : List RegVal} (st : CStat) (short : vals.length ≤ i.desc.n) :
    (rowPieces i.desc.dFmt (drainRow seed tile i m vals st).1).length ≤ (rowBytes i.desc.dFmt i.desc.n + 31) / 32 := by
  rw [rowPieces_length]
  have := rowBytes_mono i.desc.dFmt ((drainRow_length seed tile i m vals st).trans short)
  omega

/-- Rows whose sectors of D can be written are all written. -/
theorem drainRows_writes (seed : W64) (tile : Nat) (i : MInstr) (rows : List (List RegVal)) : ∀ (m : Nat) (st : CStat) (s : State),
    (∀ r ∈ rows, r.length ≤ i.desc.n) →
    (i.desc.d.dev = false ∨ ∀ r, r < rows.length → ∀ k, k < (rowBytes i.desc.dFmt i.desc.n + 31) / 32 →
      s.writable ((i.desc.d.addr + (m + r) * i.desc.dStride * 32) / 32 + k) (mTile tile) = true) →
    ∃ t st', State.drainRows seed tile i m rows st s = (t, true, st') ∧ StillServes s t := by
  induction rows with
  | nil => exact fun m st s _ _ => ⟨s, st, rfl, StillServes.refl s⟩
  | cons vals rows ih =>
    intro m st s short writable
    have pieces := drainPieces_le seed tile i m st (short vals List.mem_cons_self)
    obtain ⟨ok, serves⟩ := destBytes_w tile i.owner i.desc.d.dev (rowPieces i.desc.dFmt (drainRow seed tile i m vals st).1) s
      ((i.desc.d.addr + m * i.desc.dStride * 32) / 32)
      (writable.imp_right fun w k hk => by simpa using w 0 (by simp) k (Nat.lt_of_lt_of_le hk pieces))
    unfold State.drainRows
    dsimp only
    generalize State.destBytes tile i.owner i.desc.d.dev ((i.desc.d.addr + m * i.desc.dStride * 32) / 32)
      (rowPieces i.desc.dFmt (drainRow seed tile i m vals st).1) s = written at ok serves
    obtain ⟨t, done⟩ := written
    obtain rfl : done = true := ok
    obtain ⟨u, st', rest, serves'⟩ := ih (m + 1) (drainRow seed tile i m vals st).2 t (fun r hr => short r (List.mem_cons_of_mem _ hr))
      (writable.imp_right fun w r hr k hk => serves.1 _ _ (by
        rw [show m + 1 + r = m + (r + 1) by omega]
        exact w (r + 1) (by simpa using hr) k hk))
    exact ⟨u, st', rest, serves.trans serves'⟩

theorem rowsWritable_each {s : State} {tile stride n rows : Nat} {o : Operand} (h : s.rowsWritable tile o stride n rows = true) :
    o.dev = false ∨ ∀ r, r < rows → ∀ k, k < (n + 31) / 32 → s.writable ((o.addr + r * stride * 32) / 32 + k) (mTile tile) = true := by
  unfold State.rowsWritable at h
  cases dev : o.dev with
  | false => exact .inl rfl
  | true =>
    simp only [dev, Bool.not_true, Bool.false_or, List.all_eq_true, List.mem_range] at h
    exact .inr h

/-- A bank whose rows can all be written drains at once. -/
theorem drainAll_writes {s : State} {tile : Nat} {b : Bank} {i : MInstr} (noTopk : isTopk i.desc.op = false)
    (count : b.rows.length = i.desc.rows) (short : ∀ r ∈ b.rows, r.length ≤ i.desc.n)
    (writable : s.rowsWritable tile i.desc.d i.desc.dStride (rowBytes i.desc.dFmt i.desc.n) i.desc.rows = true) :
    ∃ t st, drainAll s tile b i = (t, true, st) ∧ StillServes s t := by
  unfold drainAll
  rw [if_neg (by simp [noTopk])]
  refine drainRows_writes _ tile i b.rows 0 _ s short ((rowsWritable_each writable).imp_right fun w r hr k hk => ?_)
  rw [Nat.zero_add]
  exact w r (count ▸ hr) k hk

/-- The statistics of a drained instruction placed, where it asks for them (R80). -/
def statsPlaced (s : State) (tile : Nat) (b : Bank) (i : MInstr) : State :=
  if i.desc.stats then
    (s.destSector tile i.owner false (i.desc.statsOff / 32) 0 (recordBytes (b.stat.getD [])) none).1
  else s

theorem matrixComplete_runs {s : State} {tile bank : Nat} {b : Bank} {i : MInstr} (banked : (s.tile tile).matrix.banks[bank]? = some b)
    (instr : b.instr = some i) (drained : b.drained = true) (noDrops : s.dropsWait tile i.owner = false) :
    matrixComplete tile bank s = ((if i.sat then (statsPlaced s tile b i).bump Obj.accSatTotal 1 else statsPlaced s tile b i).setToken
      tile i.owner i.desc.token (Token.done (bit01 i.sat + 2 * bit01 i.pois + 4 * bit01 i.satEvt))).adjMatrix tile fun mx => mx.remove i := by
  unfold matrixComplete
  rw [banked]
  dsimp only
  rw [instr]
  dsimp only
  rw [if_neg (by simp [drained, noDrops])]
  rfl

theorem statsPlaced_keeps (s : State) (tile : Nat) (b : Bank) (i : MInstr) :
    ((statsPlaced s tile b i).tile tile).matrix = (s.tile tile).matrix ∧
      ∀ x, s.ownerBlock tile i.owner = some x → ∃ y, (statsPlaced s tile b i).ownerBlock tile i.owner = some y := by
  unfold statsPlaced
  split
  · refine ⟨matrix_adjOwner _ _ _ _, fun x owner => ?_⟩
    show ∃ y, (s.adjOwner tile i.owner _).ownerBlock tile i.owner = some y
    exact ⟨_, Eq.trans (owner_adjOwner s tile i.owner _ fun _ => rfl) (congrArg (Option.map _) owner)⟩
  · exact ⟨rfl, fun x owner => ⟨x, owner⟩⟩

theorem same_self (i : MInstr) : i.same i = true := by simp [MInstr.same]

/-- Settles O35: the drain by its own rule, at once where D can be written, and the completion by the token. -/
theorem banksDrainAndComplete : Obligations.BanksDrainAndComplete := by
  unfold Obligations.BanksDrainAndComplete
  refine ⟨fun s tile bank b i j banked instr full fresh oldest same good open' => ⟨fun s1 b1 st drained kept calm => ?_,
    fun calm noTopk count short writable => ?_⟩,
    fun s tile bank b i x banked instr drained noDrops owner => ?_⟩
  · have ran := resultBankDrain_runs banked instr full fresh oldest same
    obtain ⟨b', got, isDrained, rows, record⟩ := drainBank_drained open' good drained kept calm
    exact ⟨_, b', congrArg (fun t : State => (Host.Outcome.next t.afterFault : Out)) ran, got, isDrained, rows, record⟩
  · have ran := resultBankDrain_runs banked instr full fresh oldest same
    obtain ⟨t, st, drained, serves⟩ := drainAll_writes noTopk count short writable
    obtain ⟨-, matrix, -, reset⟩ := serves
    obtain ⟨b', got, isDrained, rows, -⟩ := drainBank_drained open' good drained (by rw [matrix]; exact banked) (reset.trans calm)
    exact ⟨_, b', congrArg (fun t : State => (Host.Outcome.next t.afterFault : Out)) ran, got, isDrained, rows⟩
  · have ran := matrixComplete_runs banked instr drained noDrops
    obtain ⟨matrix, blocks⟩ := statsPlaced_keeps s tile b i
    obtain ⟨y, block⟩ := blocks x owner
    generalize placed : (if i.sat = true then (statsPlaced s tile b i).bump Obj.accSatTotal 1 else statsPlaced s tile b i) = u at ran
    have matrix' : (u.tile tile).matrix = (s.tile tile).matrix := by
      rw [← placed]
      split <;> exact matrix
    have block' : u.ownerBlock tile i.owner = some y := by
      rw [← placed]
      split <;> exact block
    refine ⟨_, { y with tokens := NMap.put y.tokens i.desc.token _ }, Bank.free, next_eq ran, ?_, rfl, ?_, look_put_same _ _ _⟩
    · rw [tile_adjMatrix]
      unfold State.setToken
      rw [matrix_adjOwner, matrix']
      show ((s.tile tile).matrix.banks.map _)[bank]? = _
      rw [List.getElem?_map, banked]
      simp [instr, same_self]
    · rw [owner_adjMatrix]
      unfold State.setToken
      exact Eq.trans (owner_adjOwner u tile i.owner _ fun _ => rfl) (congrArg (Option.map _) block')

end Sys2Proof.Proofs
end

section
/-! Conversions run and complete (R79, R80, R97 to R102, R128). -/

set_option Elab.async false

namespace Sys2Proof.Proofs

open Sys2Proof Sys2Proof.Machine Sys2Proof.Laws

/-! ### The run -/

/-- The state in which the converter holds its conversion (R128). -/
def taken (s : State) (tile : Nat) (i : CInstr) (rest : List CInstr) : State :=
  s.adjMatrix tile fun m => { m with cqueue := rest, crun := some i }

theorem conversionStart_runs {s : State} {tile : Nat} {i : CInstr} {rest : List CInstr} (err : ErrHit)
    (free : (s.tile tile).matrix.crun = none) (queue : (s.tile tile).matrix.cqueue = i :: rest) : conversionStart tile err s =
      State.runConversion s tile i (taken (s.operandError tile i.owner i.desc.src.dev (i.desc.src.addr / 32) err) tile i rest) := by
  unfold conversionStart
  dsimp only
  rw [free, queue]
  rfl

/-- A conversion with its results: its pieces of the destination, its scales and its record (R97 to R102). -/
def converted (i : CInstr) (mark : Option PoisonClass) (evt : Bool) (o : COutput) : CInstr :=
  { i with
    out := outPieces i.desc.dstFmt i.desc.dst.addr i.desc.dstStride mark 0 o.rows
    scales := (o.area.zip (List.range o.area.length)).map fun e => (i.desc.dstScale.addr / 32 + e.2, e.1)
    stat := some (o.stat.record false evt i.desc.dstFmt (w32Nat o.scale))
    amax := f32Of o.stat.fAmax, usedS := f32Of o.scale, sats := o.stat.sat, elems := o.stat.elements,
    pois := o.stat.poison || mark.isSome, satEvt := evt }

theorem converted_scales (i : CInstr) (mark : Option PoisonClass) (evt : Bool) (o : COutput) :
    (converted i mark evt o).scales.map (·.2) = o.area := by
  show ((o.area.zip (List.range o.area.length)).map _).map _ = o.area
  rw [List.map_map]
  show (o.area.zip (List.range o.area.length)).map Prod.fst = o.area
  exact List.map_fst_zip (by simp)

/-- A conversion whose rows and scale are read has its results. -/
theorem runConversion_converted {s0 s s1 s2 : State} {tile : Nat} {i : CInstr} {src : List (List SrcElt)} {whole : FVal × FVal × Bool}
    {empty : Bool} {mark : Option PoisonClass} (good : s.cdestFault i.desc = none)
    (rows : State.sourceRows tile i.owner i.desc i.desc.rows 0 s = (s1, .ok src)) (scale : s1.wholeScale tile i = (s2, .ok (whole, empty, mark))) :
    ∃ o evt, o = (i.settings (BitVec.ofNat 64 (s2.num Obj.rngSeed)) tile).run s2 whole empty src ∧ evt = s2.satEvent o.stat.sat o.stat.elements ∧
      State.runConversion s0 tile i s =
        (s2.adjMatrix tile fun m => { m with crun := some (converted i mark evt o) }).bump Obj.zeroRangeTotal o.zeros := by
  refine ⟨_, _, rfl, rfl, ?_⟩
  unfold State.runConversion
  dsimp only
  rw [good]
  dsimp only
  rw [rows]
  dsimp only
  rw [scale]
  rfl

theorem crun_bumped (s : State) (tile k n : Nat) (i : CInstr) :
    ((((s.adjMatrix tile fun m => { m with crun := some i }).bump k n).tile tile).matrix).crun = some i ∧
      ((((s.adjMatrix tile fun m => { m with crun := some i }).bump k n).tile tile).matrix).cqueue = (s.tile tile).matrix.cqueue := by
  have matrix : (((s.adjMatrix tile fun m => { m with crun := some i }).bump k n).tile tile).matrix = { (s.tile tile).matrix with crun := some i } :=
    (congrArg Tile.matrix (bump_tile _ k n tile)).trans (tile_adjMatrix s tile _)
  rw [matrix]
  exact ⟨rfl, rfl⟩

/-! ### Source rows at hand -/

theorem run_congr {s t : State} (margin : t.marginPow = s.marginPow) (c : CSet) (whole : FVal × FVal × Bool) (empty : Bool)
    (src : List (List SrcElt)) : c.run t whole empty src = c.run s whole empty src := by
  have scales : c.scales t whole src = c.scales s whole src := by
    unfold CSet.scales State.channelScale State.symScale
    rw [margin]
  unfold CSet.run
  rw [scales]

/-- The source elements of a row (R97). -/
def sourceElts (fmt : Nat) (row : List Elt) : List SrcElt := row.map fun e => (fmtVal fmt e.code, e.mark)

/-- Rows at hand are all read at once. -/
theorem sourceRows_here (tile uid : Nat) (d : CDesc) (n : Nat) : ∀ (k : Nat) (rows : List (List Elt)) (s : State), rows.length = n →
    (∀ j (hj : j < rows.length), s.rowHere tile uid d.src.dev (d.src.addr + (k + j) * d.srcStride * 32) d.srcFmt d.rowLen = some rows[j]) →
    ∃ t, OnlyRead s t ∧ State.sourceRows tile uid d n k s = (t, .ok (rows.map (sourceElts d.srcFmt))) := by
  induction n with
  | zero =>
    intro k rows s length _
    rw [List.eq_nil_of_length_eq_zero length]
    exact ⟨s, OnlyRead.refl s, rfl⟩
  | succ n ih =>
    intro k rows s length here
    cases rows with
    | nil => exact absurd length (by simp)
    | cons row rows =>
      obtain ⟨t, read, operand⟩ := opRow_ok s tile uid d.src.dev _ _ _ row (here 0 (by simp))
      obtain ⟨u, rest, more⟩ := ih (k + 1) rows t (by simpa using length) fun j hj => by
        rw [view_rowHere read, show k + 1 + j = k + (j + 1) by omega]
        exact here (j + 1) (by simpa using hj)
      refine ⟨u, read.trans rest, ?_⟩
      unfold State.sourceRows
      rw [Nat.add_zero] at operand
      rw [operand]
      dsimp only
      rw [more]
      rfl

/-- The whole-tensor scale without a history (R101). -/
def plainScale (i : CInstr) : FVal × FVal × Bool :=
  if i.desc.grain = 1 then (f32Val i.desc.scale, if i.desc.asymIn i.launch then f32Val i.desc.offset else fZero, false)
  else (.fin Dy.one, fZero, false)

theorem wholeScale_plain (s : State) (tile : Nat) {i : CInstr} (plain : i.desc.hist = false) :
    s.wholeScale tile i = (s, .ok (plainScale i, false, none)) := by
  unfold State.wholeScale plainScale
  dsimp only
  rw [if_neg (by simp [plain])]
  split <;> rfl

theorem taken_matrix (s : State) (tile : Nat) (i : CInstr) (rest : List CInstr) :
    ((taken s tile i rest).tile tile).matrix = { (s.tile tile).matrix with cqueue := rest, crun := some i } := tile_adjMatrix s tile _

/-- A conversion whose source rows are at hand runs at once. -/
theorem conversion_here {s : State} {tile : Nat} {i : CInstr} (rest : List CInstr) {rows : List (List Elt)} (good : s.cdestFault i.desc = none)
    (plain : i.desc.hist = false) (here : ((List.range i.desc.rows).mapM fun r => s.rowHere tile i.owner i.desc.src.dev
      (i.desc.src.addr + r * i.desc.srcStride * 32) i.desc.srcFmt i.desc.rowLen) = some rows) :
    ∃ (t : State) (evt : Bool) (o : COutput), OnlyRead (taken s tile i rest) t ∧
      o = (i.settings (BitVec.ofNat 64 (s.num Obj.rngSeed)) tile).run s (plainScale i) false (rows.map (sourceElts i.desc.srcFmt)) ∧
      State.runConversion s tile i (taken s tile i rest) =
        (t.adjMatrix tile fun m => { m with crun := some (converted i none evt o) }).bump Obj.zeroRangeTotal o.zeros := by
  obtain ⟨length, each⟩ := mapM_range _ _ _ here
  have reads := adjMatrix_reads s tile fun m => { m with cqueue := rest, crun := some i }
  obtain ⟨t, read, source⟩ := sourceRows_here tile i.owner i.desc i.desc.rows 0 rows (taken s tile i rest) length fun j hj => by
    rw [Nat.zero_add, show (taken s tile i rest).rowHere _ _ _ _ _ _ = _ from reads.rowHere _ _ _ _ _ _]
    exact each j hj
  obtain ⟨o, evt, run, -, ran⟩ := runConversion_converted (s0 := s) (s := taken s tile i rest) good source (wholeScale_plain t tile plain)
  refine ⟨t, evt, o, read, ?_, ran⟩
  have margin : t.marginPow = s.marginPow := by
    obtain ⟨c, b, p, rfl⟩ := read
    rfl
  have seed : t.num Obj.rngSeed = s.num Obj.rngSeed := view_num read _
  rw [run, run_congr margin, seed]

/-! ### Completion -/

theorem convOpen_refl {s : State} {i : CInstr} (open' : s.convOpen i = true) : ¬(!s.convOpen i) = true := by simp [open']

/-- The history record is updated where its sectors can be written (R104). -/
theorem updateHist_writes {s : State} {tile : Nat} {i : CInstr} (writable : i.desc.hist = true → ∀ k, k < 4 →
      s.writable (i.desc.histAddr.addr / 32 + k) (mTile tile) = true) :
    (s.updateHist tile i).2 = true ∧ StillServes s (s.updateHist tile i).1 := by
  unfold State.updateHist
  by_cases hist : i.desc.hist = true
  · rw [if_neg (by simp [hist])]
    obtain ⟨serves, noWait⟩ := gather_w tile i.owner 4 (i.desc.histAddr.addr / 32) [] s (writable hist)
    dsimp only
    generalize State.gather tile i.owner true 4 (i.desc.histAddr.addr / 32) [] s = read at serves noWait
    obtain ⟨t, l, r⟩ := read
    cases r with
    | ok u =>
      obtain ⟨done, serves'⟩ := writePieces_w tile i.owner true ((List.range 4).map fun k =>
        (i.desc.histAddr.addr / 32 + k, ((histUpdate (l.flatMap fun v => sectorBytes v.data) i.step.toNat i.amax.toNat i.usedS.toNat).drop
          (32 * k)).take 32, (l[k]?).bind (·.mark))) t (.inr fun e he => by
            obtain ⟨k, hk, rfl⟩ := List.mem_map.mp he
            exact serves.1 _ _ (writable hist k (List.mem_range.mp hk)))
      exact ⟨done, serves.trans serves'⟩
    | wait => exact absurd rfl noWait
    | fault c a => exact ⟨rfl, serves⟩
  · rw [if_pos (by simpa using hist)]
    exact ⟨rfl, StillServes.refl s⟩

/-- The record and the saturation event of a conversion that ends (R108, R110). -/
def conversionNoted (t : State) (tile : Nat) (i : CInstr) (rec : List Nat) : State :=
  let t := if i.desc.stats then (t.destSector tile i.owner false (i.desc.statsOff / 32) 0 (recordBytes rec) none).1 else t
  let seq := match t.ownerBlock tile i.owner with
    | some x => x.seq
    | none => 0
  if i.satEvt then t.raiseSat tile seq (opAddr i.desc.dst.dev i.desc.dst.addr) i.sats i.elems else t

theorem conversionNoted_owner {s : State} {tile : Nat} {i : CInstr} (rec : List Nat) {x : Block} (owner : s.ownerBlock tile i.owner = some x) :
    ∃ y, (conversionNoted s tile i rec).ownerBlock tile i.owner = some y := by
  have placed : ∃ y, (if i.desc.stats then (s.destSector tile i.owner false (i.desc.statsOff / 32) 0 (recordBytes rec) none).1
      else s).ownerBlock tile i.owner = some y := by
    split
    · exact ⟨_, Eq.trans (owner_adjOwner s tile i.owner _ fun _ => rfl) (congrArg (Option.map _) owner)⟩
    · exact ⟨x, owner⟩
  obtain ⟨y, placed⟩ := placed
  unfold conversionNoted
  dsimp only
  generalize (if i.desc.stats then (s.destSector tile i.owner false (i.desc.statsOff / 32) 0 (recordBytes rec) none).1 else s) = t at placed
  split
  · exact ⟨y, ((raiseSat_w t tile _ _ _ _ tile).2 i.owner).trans placed⟩
  · exact ⟨y, placed⟩

/-- A conversion whose writes can all be made completes. -/
theorem conversionComplete_runs {s : State} {tile : Nat} {i : CInstr} {rec : List Nat} {x : Block}
    (running : (s.tile tile).matrix.crun = some i) (stat : i.stat = some rec) (open' : s.convOpen i = true)
    (owner : s.ownerBlock tile i.owner = some x)
    (dest : i.desc.dst.dev = false ∨ ∀ e ∈ i.out, s.writable e.1 (mTile tile) = true)
    (hist : i.desc.hist = true → ∀ k, k < 4 → s.writable (i.desc.histAddr.addr / 32 + k) (mTile tile) = true) :
    ∃ (t : State) (y : Block), t.ownerBlock tile i.owner = some y ∧ conversionComplete tile s =
      ((t.bump Obj.conversionTotal 1).setToken tile i.owner i.token (Token.done (2 * bit01 i.pois + 4 * bit01 i.satEvt))).adjMatrix tile
        fun m => { m with crun := none } := by
  obtain ⟨written, serves⟩ := writePieces_w tile i.owner i.desc.dst.dev i.out s dest
  generalize results : State.writePieces tile i.owner i.desc.dst.dev i.out s = w at written serves
  obtain ⟨t1, done⟩ := w
  obtain rfl : done = true := written
  obtain ⟨-, serves2⟩ := writePieces_w tile i.owner false (i.scales.map fun e => (e.1, e.2, none)) t1 (.inl rfl)
  have serves2 := serves.trans serves2
  generalize scaled : (State.writePieces tile i.owner false (i.scales.map fun e => (e.1, e.2, none)) t1).1 = t2 at serves2
  obtain ⟨recorded, serves3⟩ := updateHist_writes (s := t2) fun h k hk => serves2.1 _ _ (hist h k hk)
  have serves3 := serves2.trans serves3
  generalize updated : t2.updateHist tile i = u at recorded serves3
  obtain ⟨t3, done⟩ := u
  obtain rfl : done = true := recorded
  obtain ⟨y, owner3⟩ := serves3.2.2.1 tile i.owner x owner
  obtain ⟨z, noted⟩ := conversionNoted_owner rec owner3
  refine ⟨conversionNoted t3 tile i rec, z, noted, ?_⟩
  unfold conversionComplete
  rw [running]
  dsimp only
  rw [stat]
  dsimp only
  rw [if_neg (convOpen_refl open'), results]
  dsimp only
  rw [scaled, updated]
  rfl

/-- Settles O36: the run from its rows and its scale, and the completion from its writes. -/
theorem conversionsRunAndComplete : Obligations.ConversionsRunAndComplete := by
  unfold Obligations.ConversionsRunAndComplete
  refine ⟨?runs, ?here, ?completes⟩
  case runs =>
    intro s s0 s1 s2 tile i rest src whole empty mark o err free queue start good rows scale output
    obtain ⟨o', evt, rfl, rfl, ran⟩ := runConversion_converted (s0 := s) good rows scale
    subst output
    have started := conversionStart_runs err free queue
    rw [show taken (s.operandError tile i.owner i.desc.src.dev (i.desc.src.addr / 32) err) tile i rest = s0 from start, ran] at started
    exact ⟨_, _, next_eq started, (crun_bumped s2 tile _ _ _).1, rfl, rfl, converted_scales _ _ _ _, rfl⟩
  case here =>
    intro s tile i rest rows whole o free queue good plain here scale output
    obtain ⟨t, evt, o', read, run, ran⟩ := conversion_here rest good plain here
    have started := conversionStart_runs .none free queue
    rw [operandError_none, ran] at started
    have same : o' = o := by
      rw [run, ← output, scale]
      rfl
    subst same
    obtain ⟨crun, cqueue⟩ := crun_bumped t tile Obj.zeroRangeTotal o'.zeros (converted i none evt o')
    refine ⟨_, _, next_eq started, crun, cqueue.trans ?_, rfl, Option.some_ne_none _, converted_scales _ _ _ _, rfl⟩
    rw [view_tile read, taken_matrix]
  case completes =>
    intro s tile i rec x running stat open' owner dest hist
    obtain ⟨t, y, block, ran⟩ := conversionComplete_runs running stat open' owner dest hist
    refine ⟨_, { y with tokens := NMap.put y.tokens i.token _ }, next_eq ran, congrArg Matrix.crun (tile_adjMatrix _ tile _), ?_, look_put_same _ _ _⟩
    rw [owner_adjMatrix]
    exact Eq.trans (owner_adjOwner (t.bump Obj.conversionTotal 1) tile i.owner _ fun _ => rfl)
      (congrArg (Option.map _) ((owner_of_tile (bump_tile t _ _ tile) i.owner).trans block))

end Sys2Proof.Proofs
end

section
/-! Branches, exits and barriers (R121, R122, R130 to R133, R146, R150). -/

set_option Elab.async false

namespace Sys2Proof.Proofs

open Sys2Proof Sys2Proof.Machine Sys2Proof.Laws

/-! ### Branches (R121) -/

theorem mem_nextPcs {gr : Group} {p : Path} {kind : BranchKind} {e : Nat × Nat} (h : e ∈ nextPcs gr p kind) : e.1 < 32 := by
  obtain ⟨l, lane, rfl⟩ := List.mem_map.mp h
  have small : l < 32 := List.mem_range.mp (List.mem_filter.mp lane).1
  cases kind <;> exact small

theorem nextPcs_ne {gr : Group} {p : Path} {kind : BranchKind} (some : p.mask ≠ 0) : (nextPcs gr p kind).map (·.2) ≠ [] := by
  unfold nextPcs
  rw [Ne, List.map_eq_nil_iff, List.map_eq_nil_iff]
  exact lanes_ne _ some

theorem sortNat_two {l : List Nat} {a b : Nat} (ha : a ∈ l) (hb : b ∈ l) (ne : a ≠ b) : ∃ x y r, sortNat l = x :: y :: r := by
  have ia := (mem_sortNat l a).mpr ha
  have ib := (mem_sortNat l b).mpr hb
  match sortNat l, ia, ib with
  | [x], ia, ib => exact absurd ((List.mem_singleton.mp ia).trans (List.mem_singleton.mp ib).symm) ne
  | x :: y :: r, _, _ => exact ⟨x, y, r, rfl⟩

theorem mem_splitPaths {lanes : List (Nat × Nat)} {ipdom : Nat} {q : Path} (h : q ∈ splitPaths lanes ipdom) (small : ∀ e ∈ lanes, e.1 < 32)
    (l : Nat) : q.mask.getLsbD l = true ↔ (l, q.pc) ∈ lanes := by
  obtain ⟨pc, _, rfl⟩ := List.mem_map.mp h
  rw [foldl_mask lanes pc 0 l small]
  simp

/-- Settles O37: the sorted list of next PCs has one element where all agree and two or more where they differ. -/
theorem branchesSplitPathsByPc : Obligations.BranchesSplitPathsByPc := by
  unfold Obligations.BranchesSplitPathsByPc
  refine ⟨?_, fun gr p kind ipdom q hq l => mem_splitPaths hq (fun e he => mem_nextPcs he) l⟩
  intro s g b gr p kind ipdom hit issues clean reg marks active
  have group := group_of (replay_issues issues hit)
  have ran : branch g kind ipdom hit s = _ :=
    (parity_issue issues clean _).trans (checked_ok g b gr _ [branchReg kind] _ _ (by simpa using reg) marks)
  refine ⟨fun pc same => ?_, fun ⟨d, hd, e, he, ne⟩ room => ?_⟩
  case refine_1 =>
    have one : sortNat ((nextPcs gr p kind).map (·.2)) = [pc] :=
      sortNat_const _ pc (fun x hx => by obtain ⟨e, he, rfl⟩ := List.mem_map.mp hx; exact same e he) (nextPcs_ne active)
    dsimp only at ran
    rw [one] at ran
    exact ⟨_, congrArg Host.Outcome.next ran, adjGroup_same _ _ _, group_adjGroup_of group _⟩
  case refine_2 =>
    obtain ⟨x, y, r, many⟩ := sortNat_two (List.mem_map_of_mem (f := (·.2)) hd) (List.mem_map_of_mem (f := (·.2)) he) ne
    dsimp only at ran
    rw [many] at ran room
    dsimp only at ran
    rw [if_neg (Nat.not_lt.mpr room)] at ran
    exact ⟨_, congrArg Host.Outcome.next ran, adjGroup_same _ _ _, group_adjGroup_of group _⟩

/-! ### Exits (R121, R131) -/

/-- A group whose active threads exit. -/
def exited (p : Path) (x : Group) : Group :=
  ({ x with exited := x.exited ||| p.mask, stack := x.stack.map fun q => { q with mask := q.mask &&& ~~~p.mask } } : Group).settled

theorem exited_gone (p : Path) (x : Group) : Gone (x.exited ||| p.mask) p.mask (exited p x) := by
  refine gone_settled ⟨rfl, fun q hq => ?_⟩
  obtain ⟨o, _, rfl⟩ := List.mem_map.mp hq
  show o.mask &&& ~~~p.mask &&& p.mask = 0
  rw [BitVec.and_assoc, BitVec.and_comm (~~~p.mask), BitVec.and_not_self]
  exact BitVec.and_zero

/-- A block that exits where all its groups have. -/
def leaving (b : Block) : Block := { b with exiting := b.groups.all fun x => x.live == 0 }

theorem leaving_gone {g : GroupRef} {b : Block} {gr : Group} {p : Path} (h : b.groups[g.group]? = some gr) :
    BGone g (gr.exited ||| p.mask) p.mask (leaving { b with groups := adjAt b.groups g.group (exited p) }) := by
  refine ⟨⟨exited p gr, (adjAt_getElem? _ _ _).trans (by rw [h]; rfl), exited_gone p gr⟩, ?_⟩
  show (List.all _ _) = true ↔ _
  simp only [List.all_eq_true, beq_iff_eq]
  rfl

theorem sgone_settleCbars {g : GroupRef} {ex m : BitVec 32} {s : State} (h : SGone g ex m s) (seq : Nat) : SGone g ex m (s.settleCbars seq) := by
  unfold State.settleCbars
  split
  · exact h
  · next k _ =>
    dsimp only
    have fold : ∀ (l : List (Nat × BarInst)) (u : State), SGone g ex m u → SGone g ex m (l.foldl (fun (t : State) e =>
        t.adjBlocks (fun b => b.seq == seq && b.cluster == e.1 / 2) fun b =>
          { b with groups := b.groups.map fun g => g.resume (.cluster (e.1 % 2)) }) u) := by
      intro l
      induction l with
      | nil => exact fun u hu => hu
      | cons e l ih => exact fun u hu => ih _ (sgone_adjBlocks _ _ (fun _ => rfl) (fun b hb => bgone_map _ hb) hu)
    exact fold _ _ (sgone_tiles h rfl)

theorem settleGbar_tiles (s : State) (seq : Nat) : (s.settleGbar seq).tiles = s.tiles :=
  State_settleGbar_same (fl := ps16) rfl s seq (SameBut.refl _ s) .tiles (by decide)

theorem sgone_settleBarriers {g : GroupRef} {ex m : BitVec 32} {s : State} (h : SGone g ex m s) (seq : Nat) :
    SGone g ex m (s.settleBarriers g.tile g.slot seq) := by
  obtain ⟨b, hb, gone⟩ := h
  have bars : SGone g ex m (s.adjBlock g.tile g.slot Block.settleBars) :=
    ⟨b.settleBars, by rw [block_adjBlock s g.tile g.slot Block.settleBars (fun _ => rfl), hb]; rfl, bgone_settle gone⟩
  exact sgone_tiles (sgone_settleCbars bars seq) (settleGbar_tiles _ seq)

/-- Settles O38: the threads have gone before the barriers are settled, and settling resumes paths without new threads. -/
theorem exitRemovesTheActiveThreads : Obligations.ExitRemovesTheActiveThreads := by
  unfold Obligations.ExitRemovesTheActiveThreads
  intro s g b gr p issues
  have ran : exit g s = (((s.adjGroup g (exited p)).adjBlock g.tile g.slot leaving).settleBarriers g.tile g.slot b.seq) := issue_ok issues _
  have gone : SGone g (gr.exited ||| p.mask) p.mask ((s.adjGroup g (exited p)).adjBlock g.tile g.slot leaving) :=
    ⟨_, by rw [block_adjBlock _ _ _ leaving (fun _ => rfl), block_adjGroup_of issues.block]; rfl, leaving_gone issues.group⟩
  obtain ⟨b', block, ⟨gr', group, hex, paths⟩, exiting⟩ := sgone_settleBarriers gone b.seq
  have same : SameBut [.tiles, .ledger] s _ := State_settleBarriers_same (fl := [.tiles, .ledger]) rfl _ g.tile g.slot b.seq
    (State_adjBlock_same rfl _ g.tile g.slot leaving (State_adjGroup_same rfl s g (exited p) (SameBut.refl _ s)))
  exact ⟨_, b', gr', congrArg Host.Outcome.next ran, same, block, group, hex, paths, exiting⟩

/-! ### Arrivals (R130, R131, R146, R150) -/

theorem block_adjBlock_of {s : State} {tile slot : Nat} {b : Block} (h : s.block tile slot = some b) (f : Block → Block)
    (slots : ∀ b, (f b).slot = b.slot) : (s.adjBlock tile slot f).block tile slot = some (f b) := by
  rw [block_adjBlock s tile slot f slots, h]
  rfl

/-- A group's arrival at a barrier of its block: it parks, the barrier's count is put, full barriers complete and the group goes on. -/
def arrivedAt (s : State) (g : GroupRef) (n : Nat) (i : BarInst) : State :=
  (((s.park g (.block n)).adjBlock g.tile g.slot fun b =>
    { b with bars := NMap.put b.bars n i }).adjBlock g.tile g.slot Block.settleBars).goOn g

theorem arrived_block {s : State} {g : GroupRef} {b : Block} (h : s.block g.tile g.slot = some b) (n : Nat) (i : BarInst) :
    (arrivedAt s g n i).block g.tile g.slot = some (
      let c := Block.settleBars { b with
        groups := adjAt b.groups g.group fun x => { x.adjRunning (fun q => { q with parked := some (.block n) }) with cur := none }
        bars := NMap.put b.bars n i }
      { c with groups := adjAt c.groups g.group Group.settled }) := by
  have parked : (s.park g (.block n)).block g.tile g.slot = some { b with
      groups := adjAt b.groups g.group fun x => { x.adjRunning (fun q => { q with parked := some (.block n) }) with cur := none } } :=
    block_adjGroup_of h _
  have counted := block_adjBlock_of parked (fun b => { b with bars := NMap.put b.bars n i }) fun _ => rfl
  have settled := block_adjBlock_of counted Block.settleBars fun _ => rfl
  exact block_adjGroup_of settled Group.settled

theorem arrived_same (s : State) (g : GroupRef) (n : Nat) (i : BarInst) : SameBut [.tiles] s (arrivedAt s g n i) :=
  State_adjGroup_same rfl _ g _ (State_adjBlock_same rfl _ g.tile g.slot _ (State_adjBlock_same rfl _ g.tile g.slot _
    (State_adjGroup_same rfl s g _ (SameBut.refl _ s))))

theorem bar_arrives {s : State} {g : GroupRef} {b : Block} {gr : Group} {p : Path} {w : W64} {count n : Nat} (issues : s.Issues g b gr p)
    (stores : gr.stores = 0) (code : fld w 63 56 = 0xD0) (zero : fld w 45 0 = 0) (hcount : fld w 55 50 = count) (hn : fld w 49 46 = n)
    (fits : count ≤ b.groups.length) (small : count ≤ 32) (agrees : ∀ i, NMap.look b.bars n = some i → i.count = count) :
    bar g w s = arrivedAt s g n (match NMap.look b.bars n with
      | some i => i.arrive p
      | none => newInst s g p count) := by
  have ran : bar g w s = _ := (issue_ok issues _).trans
    (checkedWord_ok g b gr w _ [] [] [] _ (by rw [code, zero, hcount]; simpa using small) (by simp) (by simp))
  rw [hcount, hn] at ran
  dsimp only at ran
  rw [if_neg (Nat.not_lt.mpr fits)] at ran
  cases look : NMap.look b.bars n with
  | none =>
    rw [look] at ran
    dsimp only at ran
    rw [if_neg (by omega)] at ran
    exact ran
  | some i =>
    rw [look] at ran
    dsimp only at ran
    rw [if_neg (not_not.mpr (agrees i look)), if_neg (by omega)] at ran
    exact ran

/-- Settles O39: the instruction's word passes its checks, so the arrival is made. -/
theorem barrierArrivalsAreCounted : Obligations.BarrierArrivalsAreCounted := by
  unfold Obligations.BarrierArrivalsAreCounted
  intro s g b gr p w issues stores
  refine ⟨?bar, ?cbar, ?gbar⟩
  case bar =>
    intro count n code zero hcount hn fits small agrees
    exact ⟨_, congrArg Host.Outcome.next (bar_arrives issues stores code zero hcount hn fits small agrees),
      arrived_same _ _ _ _, arrived_block issues.block _ _⟩
  case cbar =>
    intro n code zero none hn small cluster
    have ran : cbar g w s = _ := (issue_ok issues _).trans
      (checkedWord_ok g b gr w _ [] [] [] _ (by rw [code, zero, none, hn]; simpa using small) (by simp) (by simp))
    rw [hn, if_neg (Nat.not_le.mpr cluster)] at ran
    exact congrArg Host.Outcome.next ran
  case gbar =>
    intro code zero coop
    have ran : gbar g w s = _ := (issue_ok issues _).trans
      (checkedWord_ok g b gr w _ [] [] [] _ (by rw [code, zero, coop]; rfl) (by simp) (by simp))
    rw [if_neg (by omega)] at ran
    exact congrArg Host.Outcome.next ran

/-! ### Grid barriers and stalls (R132, R133, R150) -/

/-- A tile whose L1 part is emptied where a block of the kernel is on it (R150). -/
def l1Emptied (seq : Nat) (t : Tile) : Tile := if t.blocks.any fun b => b.seq == seq then { t with l1 := [] } else t

theorem l1Emptied_blocks (seq : Nat) (t : Tile) : (l1Emptied seq t).blocks = t.blocks := by
  unfold l1Emptied
  split <;> rfl

/-- A tile whose blocks' parked paths resume. -/
def gridResumed (seq : Nat) (t : Tile) : Tile :=
  { t with blocks := t.blocks.map fun b => if b.seq == seq then { b with groups := b.groups.map fun g => g.resume .grid } else b }

theorem gbarComplete_ends {s : State} {seq : Nat} {e : Entry} {k : Kernel} {i : BarInst} (entry : s.entry seq = some e) (kern : e.kern = some k)
    (bar : k.gbar = some i) (complete : i.complete = true) : gbarComplete seq s = State.adjBlocks
      { s.adjKernel seq (fun k => { k with gbar := none }) with tiles := s.tiles.map fun t => (t.1, l1Emptied seq t.2) }
      (fun b => b.seq == seq) fun b => { b with groups := b.groups.map fun g => g.resume .grid } := by
  have found : ((s.entry seq).bind (·.kern)).bind (·.gbar) = some i := by rw [entry]; exact (congrArg (Option.bind · _) kern).trans bar
  unfold gbarComplete
  rw [found]
  dsimp only
  rw [complete]
  rfl

theorem gridBarrier_tile (s : State) (seq n : Nat) : (State.adjBlocks
      { s.adjKernel seq (fun k => { k with gbar := none }) with tiles := s.tiles.map fun t => (t.1, l1Emptied seq t.2) }
      (fun b => b.seq == seq) fun b => { b with groups := b.groups.map fun g => g.resume .grid }).tile n =
    gridResumed seq (l1Emptied seq (s.tile n)) := by
  show NMap.lookD (List.map (fun t => (t.1, gridResumed seq t.2)) (s.tiles.map fun t => (t.1, l1Emptied seq t.2))) n Tile.empty = _
  rw [lookD_map _ n Tile.empty (gridResumed seq) rfl, lookD_map s.tiles n Tile.empty (l1Emptied seq) rfl]
  rfl

theorem mem_insertStall {x y : Stall} {l : List Stall} : y ∈ insertStall x l ↔ y = x ∨ y ∈ l := by
  induction l with
  | nil => simp [insertStall]
  | cons z l ih =>
    unfold insertStall
    split
    · exact List.mem_cons
    · rw [List.mem_cons, ih, List.mem_cons]
      tauto

theorem insertStall_sorted {x : Stall} {l : List Stall} (h : l.Pairwise fun x y => x.rank ≤ y.rank) :
    (insertStall x l).Pairwise fun x y => x.rank ≤ y.rank := by
  induction l with
  | nil => exact List.pairwise_singleton _ _
  | cons z l ih =>
    obtain ⟨first, rest⟩ := List.pairwise_cons.mp h
    unfold insertStall
    split
    · next lt =>
      refine List.pairwise_cons.mpr ⟨fun y hy => ?_, h⟩
      rcases List.mem_cons.mp hy with rfl | hy
      · exact Nat.le_of_lt lt
      · exact Nat.le_trans (Nat.le_of_lt lt) (first y hy)
    · next ge =>
      refine List.pairwise_cons.mpr ⟨fun y hy => ?_, ih rest⟩
      rcases mem_insertStall.mp hy with rfl | hy
      · exact Nat.le_of_not_lt ge
      · exact first y hy

theorem stalls_sorted (s : State) : s.stalls.Pairwise fun x y => x.rank ≤ y.rank := by
  have fold : ∀ (found acc : List Stall), acc.Pairwise (fun x y => x.rank ≤ y.rank) →
      (found.foldl (fun l x => insertStall x l) acc).Pairwise fun x y => x.rank ≤ y.rank := by
    intro found
    induction found with
    | nil => exact fun acc h => h
    | cons x found ih => exact fun acc h => ih _ (insertStall_sorted h)
  exact fold _ [] List.Pairwise.nil

/-- Settles O40: the barrier's end is written out tile by tile; the stalls are faulted in the order of their sorted list. -/
theorem gridBarriersEndAndStallsFault : Obligations.GridBarriersEndAndStallsFault := by
  unfold Obligations.GridBarriersEndAndStallsFault
  refine ⟨?ends, ?stalls⟩
  case ends =>
    intro s seq e k i entry kern bar complete
    have ran := gbarComplete_ends entry kern bar complete
    refine ⟨_, congrArg Host.Outcome.next ran, ran ▸ gbarComplete_same (fl := ps59) rfl seq s (SameBut.refl _ s), ?_, fun n => ?_⟩
    · refine (entry_adj s seq (fun e => { e with kern := e.kern.map fun k => { k with gbar := none } }) e entry (fun _ => rfl)).trans ?_
      rw [kern]
      rfl
    · rw [gridBarrier_tile]
      refine ⟨?_, fun here => ?_⟩
      · show (l1Emptied seq (s.tile n)).blocks.map _ = _
        rw [l1Emptied_blocks]
        simp only [beq_iff_eq]
      · show (l1Emptied seq (s.tile n)).l1 = []
        unfold l1Emptied
        rw [if_pos here]
  case stalls =>
    rintro s _ rfl
    refine ⟨rfl, stalls_sorted _, fun none => ?_⟩
    show Host.Outcome.next (List.foldl _ _ (State.stalls _)) = _
    rw [none]
    rfl

end Sys2Proof.Proofs
end

section
/-! Accesses of a group's lanes, fences, drops and contributions (R135, R143, R151, R152, R166, R182, R186). -/

set_option Elab.async false

namespace Sys2Proof.Proofs

open Sys2Proof Sys2Proof.Machine Sys2Proof.Laws

/-! ### Accesses in lane order -/

theorem violationKind_of_mem {s t : State} (h : t.mem = s.mem) (a : Nat) (write : Bool) : t.violationKind a write = s.violationKind a write := by
  unfold State.violationKind State.page State.walks State.tableLost
  rw [h]

theorem replay_violationKind (s : State) (tile : Nat) (hit : ParityHit) (a : Nat) (write : Bool) :
    (s.replayed tile hit).violationKind a write = s.violationKind a write :=
  violationKind_of_mem (replay_mem s tile hit).1 a write

theorem replay_residents (s : State) (tile : Nat) (hit : ParityHit) : (s.replayed tile hit).residents = s.residents := by
  unfold State.residents
  rw [show (s.replayed tile hit).tiles = s.tiles from replay_same s tile hit .tiles (by decide)]

theorem pair_unmarked {gr : Group} {p : Path} {va : Nat} (h : ∀ l ∈ lanesOf p.mask, (gr.reg l va).mark = none ∧ (gr.reg l (va + 1)).mark = none)
    (l : Nat) (hl : l ∈ lanesOf p.mask) : gr.poisonedReg l [va, va + 1] = none :=
  poisonedReg_none fun r hr => by
    rcases List.mem_cons.mp hr with rfl | hr
    · exact (h l hl).1
    · exact List.mem_singleton.mp hr ▸ (h l hl).2

theorem base_unmarked {gr : Group} {p : Path} {va : Nat} (h : ∀ l ∈ lanesOf p.mask, (gr.reg l va).mark = none ∧ (gr.reg l (va + 1)).mark = none)
    (l : Nat) (hl : l ∈ lanesOf p.mask) : gr.poisonedReg l [va] = none :=
  poisonedReg_none fun _ hr => List.mem_singleton.mp hr ▸ (h l hl).1

/-- Settles O41: the width, the registers and every lane's address pass their checks, so the accesses are made. -/
theorem groupAccessesAreMadeInLaneOrder : Obligations.GroupAccessesAreMadeInLaneOrder := by
  unfold Obligations.GroupAccessesAreMadeInLaneOrder
  rintro s g b gr p dir width va vd err hit _ issues clean rfl width5 regs marks
  have wide : ¬ (!widthOk width) = true := by rw [widthOk_of width5]; decide
  have short : ∀ r ∈ va :: widthRegs vd width, r < b.nregs := fun r hr => regs r (by
    rcases List.mem_cons.mp hr with rfl | hr
    · exact List.mem_cons_self
    · exact List.mem_cons_of_mem _ (List.mem_cons_of_mem _ hr))
  refine ⟨?lds, ?ldc, ?ld, ?st⟩
  case lds =>
    intro good
    have ran : ldsSts g dir width va vd err hit s = _ :=
      ((parity_issue issues clean _).trans (if_neg wide)).trans (checked_ok g b gr _ _ _ _ short (base_unmarked marks))
    exact congrArg Host.Outcome.next (ran.trans (access_ok _ g gr p dir b b.rank width va vd err good))
  case ldc =>
    intro rank t inside found good
    have ran : ldcStc g dir width rank va vd err hit s = _ :=
      (((parity_issue issues clean _).trans (if_neg wide)).trans (checked_ok g b gr _ _ _ _ short (base_unmarked marks))).trans
        (if_neg (Nat.not_le.mpr inside))
    rw [replay_residents, found] at ran
    exact congrArg Host.Outcome.next (ran.trans (access_ok _ g gr p dir t rank width va vd err good))
  case ld =>
    intro good
    have ran : ld g width va vd err hit s = _ :=
      (((parity_issue issues clean _).trans (if_neg wide)).trans (checked_ok g b gr _ _ _ _ regs (pair_unmarked marks))).trans
        (addr_ok fun e he => ⟨(good e he).1, (replay_violationKind s g.tile hit e.2 false).trans (good e he).2⟩)
    exact congrArg Host.Outcome.next ran
  case st =>
    intro good
    have ran : st g width va vd hit s = _ :=
      (((parity_issue issues clean _).trans (if_neg wide)).trans (checked_ok g b gr _ _ _ _ regs (pair_unmarked marks))).trans
        (addr_ok fun e he => ⟨(good e he).1, (replay_violationKind s g.tile hit e.2 true).trans (good e he).2⟩)
    exact congrArg Host.Outcome.next ran

/-! ### Fences (R151, R152) -/

/-- A fence's invalidation of the L1 part: ACQ and FULL empty it, REL leaves it. -/
def fenceL1 (tile kind : Nat) (s : State) : State := if kind = 2 then s else s.adjTile tile fun t => { t with l1 := [] }

theorem fenceL1_l1 (tile kind : Nat) (s : State) : ((fenceL1 tile kind s).tile tile).l1 = if kind = 2 then (s.tile tile).l1 else [] := by
  unfold fenceL1
  split
  · rfl
  · rw [tile_adjTile]

theorem fenceL1_group (g : GroupRef) (kind : Nat) (s : State) : (fenceL1 g.tile kind s).group g = s.group g := by
  unfold fenceL1
  split
  · rfl
  · unfold State.group State.block
    rw [tile_adjTile]

theorem fenceL1_same (tile kind : Nat) (s : State) : SameBut [.tiles] s (fenceL1 tile kind s) := by
  unfold fenceL1
  split
  · exact SameBut.refl _ s
  · exact State_adjTile_same rfl s tile _ (SameBut.refl _ s)

/-- The counters of a fence at DEVICE or SYSTEM scope, and the free value of its wait. -/
def fenceCounted (tile kind sc : Nat) (s : State) : State :=
  let s := s.bump (if sc = 4 && !s.iface.orderLost then Obj.fenceSystemTotal else Obj.fenceDeviceTotal) 1
  let acq := if kind = 2 then 0 else ((1536 - (s.tile tile).splitKib) / 128) * 32
  let rel := if kind = 1 then 0 else Config.freeNat s.dict.freeCount
  let s := if kind = 1 then s else s.drawn
  s.bump Obj.fenceWaitCycles (acq + rel)

theorem drawn_unless (s : State) (c : Prop) [Decidable c] : SameBut [.counters, .draws] s (if c then s else s.drawn) := by
  split
  · exact SameBut.refl _ s
  · exact State_drawn_same rfl s (SameBut.refl _ s)

theorem fenceCounted_same (tile kind sc : Nat) (s : State) : SameBut [.counters, .draws] s (fenceCounted tile kind sc s) :=
  State_bump_same rfl _ _ _ (SameBut.trans (State_bump_same rfl s _ 1 (SameBut.refl _ s)) (drawn_unless _ _))

theorem fence_runs {s : State} {g : GroupRef} {b : Block} {gr : Group} {p : Path} {w : W64} {sc : Nat} (issues : s.Issues g b gr p)
    (code : fld w 63 56 = 0xD8) (zero : fld w 50 0 = 0) (kind : fld w 52 51 ≠ 3) (scope : s.fenceScope b.launch.coop (fld w 55 53) = some sc)
    (ready : fld w 52 51 = 1 ∨ gr.stores = 0) :
    fence g w s = if sc ≤ 2 then s.advanceGroup g else (fenceL1 g.tile (fld w 52 51) (fenceCounted g.tile (fld w 52 51) sc s)).advanceGroup g := by
  have ran : fence g w s = _ := (issue_ok issues _).trans
    (checkedWord_ok g b gr w _ [] [] [] _ (by rw [code, zero, scope]; simpa using kind) (by simp) (by simp))
  rw [scope, if_neg (by rcases ready with h | h <;> simp [h])] at ran
  exact ran

theorem fence_acts {s : State} {g : GroupRef} {b : Block} {gr : Group} {p : Path} {w : W64} {sc : Nat} (issues : s.Issues g b gr p)
    (code : fld w 63 56 = 0xD8) (zero : fld w 50 0 = 0) (kind : fld w 52 51 ≠ 3) (scope : s.fenceScope b.launch.coop (fld w 55 53) = some sc)
    (ready : fld w 52 51 = 1 ∨ gr.stores = 0) :
    ∃ t, exec (.fence g w) s = .next t ∧ t.group g = some gr.advance ∧ SameBut [.tiles, .counters, .draws] s t ∧
      (sc ≤ 2 → SameBut [.tiles] s t ∧ (t.tile g.tile).l1 = (s.tile g.tile).l1) ∧
      (3 ≤ sc → (t.tile g.tile).l1 = if fld w 52 51 = 2 then (s.tile g.tile).l1 else []) := by
  have ran := fence_runs issues code zero kind scope ready
  by_cases near : sc ≤ 2
  · rw [if_pos near] at ran
    have same : SameBut [.tiles] s (s.advanceGroup g) := adjGroup_same s g _
    exact ⟨_, congrArg Host.Outcome.next ran, group_adjGroup_of (group_of issues) _, SameBut.mono rfl same,
      fun _ => ⟨same, l1_adjGroup s g _⟩, fun far => absurd near (by omega)⟩
  · rw [if_neg near] at ran
    have counted := fenceCounted_same g.tile (fld w 52 51) sc s
    generalize fenceCounted g.tile (fld w 52 51) sc s = u at ran counted
    have here : (fenceL1 g.tile (fld w 52 51) u).group g = some gr :=
      (fenceL1_group g _ u).trans ((group_of_tiles (counted .tiles (by decide)) g).trans (group_of issues))
    refine ⟨_, congrArg Host.Outcome.next ran, group_adjGroup_of here _, ?_, fun h => absurd h near, fun _ => ?_⟩
    · exact SameBut.trans (SameBut.mono rfl counted) (SameBut.trans (SameBut.mono rfl (fenceL1_same _ _ u)) (SameBut.mono rfl (adjGroup_same _ g _)))
    · exact (l1_adjGroup _ g _).trans ((fenceL1_l1 _ _ u).trans (by rw [tile_of_same counted (by decide)]))

/-! ### Drops and contributions (R182, R186) -/

theorem lldrop_drops {s : State} {g : GroupRef} {b : Block} {gr : Group} {p : Path} {w : W64} {hit : ParityHit} {va : Nat} (issues : s.Issues g b gr p)
    (clean : ∀ r, hit ≠ .recurs r) (code : fld w 63 56 = 0xDA) (zero : fld w 47 0 = 0) (hva : fld w 55 48 = va) (regs : va + 1 < b.nregs)
    (marks : ∀ l ∈ lanesOf p.mask, gr.poisonedReg l [va, va + 1] = none)
    (good : ∀ l ∈ lanesOf p.mask, gr.lineAddr l va % 128 = 0 ∧ s.violationKind (gr.lineAddr l va) true = none) :
    lldrop g w hit s = State.laneDrops g b.uid (((lanesOf p.mask).map fun l => gr.lineAddr l va).eraseDups)
      ((s.replayed g.tile hit).advanceGroup g) := by
  have ran : lldrop g w hit s = _ := (parity_issue issues clean _).trans
    (checkedWord_ok g b gr w _ _ _ _ _ (by rw [code, zero]; rfl)
      (by rw [hva]; simpa using ⟨Nat.lt_of_succ_lt regs, regs⟩) (by rw [hva]; exact marks))
  rw [hva] at ran
  refine ran.trans ((addr_ok fun e he => ?_).trans ?_)
  · obtain ⟨l, hl, rfl⟩ := List.mem_map.mp he
    exact ⟨(good l hl).1, (replay_violationKind s g.tile hit _ true).trans (good l hl).2⟩
  · rw [List.map_map]
    rfl

theorem halt_none {c : Option PoisonClass} {h : Bool} {s t : State} {k : PoisonClass → State} (calm : c = none ∨ h = false) (e : t = s) :
    (match (generalizing := false) c, h with
      | some c, true => k c
      | _, _ => t) = s := by
  subst e
  rcases calm with rfl | rfl
  · rfl
  · cases c <;> rfl

/-- The slot index and the count of a contribution: in a register, or in the word (R186). -/
def ContribFields (b : Block) (gr : Group) (p : Path) (w : W64) (vi idx count : Nat) : Prop :=
  if w.getLsbD 35 then fld w 26 19 = 0 ∧ vi < b.nregs ∧ gr.poisonedReg (lowestLane p.mask) [vi] = none ∧
      idx = (gr.reg (lowestLane p.mask) vi).val.toNat % 16 ∧ count = (gr.reg (lowestLane p.mask) vi).val.toNat / 16 % 16
  else vi = 0 ∧ idx = fld w 26 23 ∧ count = fld w 22 19

theorem poisonedReg_append {gr : Group} {l : Nat} {a c : List Nat} (ha : gr.poisonedReg l a = none) (hc : gr.poisonedReg l c = none) :
    gr.poisonedReg l (a ++ c) = none := by
  unfold Group.poisonedReg at *
  rw [List.find?_append, ha, hc]
  rfl

theorem redl_contributes {s : State} {g : GroupRef} {b : Block} {gr : Group} {p : Path} {w : W64} {hit : ParityHit} {va vd vi rop idx count a : Nat}
    (issues : s.Issues g b gr p) (clean : ∀ r, hit ≠ .recurs r) (code : fld w 63 56 = 0xD9) (zero : fld w 18 0 = 0) (hrop : fld w 39 36 = rop)
    (small : rop ≤ 8) (hva : fld w 55 48 = va) (hvd : fld w 47 40 = vd) (hvi : fld w 34 27 = vi) (rva : va + 1 < b.nregs) (rvd : vd < b.nregs)
    (mark : gr.poisonedReg (lowestLane p.mask) [va, va + 1] = none) (fields : ContribFields b gr p w vi idx count)
    (addr : gr.lineAddr (lowestLane p.mask) va = a) (align : a % 128 = 0) (mapped : s.violationKind a true = none)
    (calm : firstMark ((contribData gr p vd rop).map (·.mark)) = none ∨ s.haltOn 1 = false) :
    redl g w hit s = (((((s.replayed g.tile hit).advanceGroup g).adjTile g.tile fun t => t.l1Drop (a / 128)).adjGroup g fun x =>
      { x with stores := x.stores + 1 }).submit
        { agent := .thread g, uid := b.uid, addr := a, kind := .contrib rop idx (count + 1) (contribData gr p vd rop), ack := true }) := by
  have regs : ∀ r ∈ [va, va + 1, vd], r < b.nregs := by simpa using ⟨Nat.lt_of_succ_lt rva, rva, rvd⟩
  have again : firstMark ((contribData gr p vd rop).map (·.mark)) = none ∨ (s.replayed g.tile hit).haltOn 1 = false :=
    calm.imp_right fun h => (congrArg (· == 2) (replay_num s g.tile hit _)).trans h
  have reach : ∀ e ∈ [(lowestLane p.mask, a)], e.2 % 128 = 0 ∧ (s.replayed g.tile hit).violationKind e.2 true = none := by
    simpa using ⟨align, (replay_violationKind s g.tile hit a true).trans mapped⟩
  unfold ContribFields at fields
  cases reg : w.getLsbD 35 with
  | true =>
    rw [reg, if_pos rfl] at fields
    obtain ⟨rest, rvi, markI, hidx, hcount⟩ := fields
    have ran : redl g w hit s = _ := (parity_issue issues clean _).trans
      (checkedWord_ok g b gr w _ _ _ _ _ (by rw [code, zero, hrop, reg, rest]; simpa using small)
        (by rw [hva, hvd, hvi, reg]; exact List.forall_mem_append.mpr ⟨regs, by simpa using rvi⟩)
        (by rw [hva, hvi, reg]; simpa using poisonedReg_append mark markI))
    rw [hva, hvd, hvi, hrop, reg, addr] at ran
    refine ran.trans ((addr_ok reach).trans (halt_none again ?_))
    rw [hidx, hcount]
    rfl
  | false =>
    rw [reg, if_neg Bool.false_ne_true] at fields
    obtain ⟨none, hidx, hcount⟩ := fields
    have ran : redl g w hit s = _ := (parity_issue issues clean _).trans
      (checkedWord_ok g b gr w _ _ _ _ _ (by rw [code, zero, hrop, reg, hvi, none]; simpa using small)
        (by rw [hva, hvd, reg]; exact List.forall_mem_append.mpr ⟨regs, by simp⟩)
        (by rw [hva, reg]; simpa using mark))
    rw [hva, hvd, hrop, reg, addr] at ran
    refine ran.trans ((addr_ok reach).trans (halt_none again ?_))
    rw [hidx, hcount]
    rfl

/-- Settles O42: each instruction's word passes its checks, so its own effect happens. -/
theorem fencesDropsAndContributions : Obligations.FencesDropsAndContributions := by
  unfold Obligations.FencesDropsAndContributions
  rintro s g b gr p w hit _ issues clean rfl
  refine ⟨fun sc code zero kind scope ready => fence_acts issues code zero kind scope ready, ?drop, ?contrib⟩
  case drop =>
    intro va code zero hva regs marks good
    exact congrArg Host.Outcome.next (lldrop_drops issues clean code zero hva regs marks good)
  case contrib =>
    intro va vd vi rop idx count a code zero hrop small hva hvd hvi rva rvd mark fields addr align mapped calm
    exact congrArg Host.Outcome.next
      (redl_contributes issues clean code zero hrop small hva hvd hvi rva rvd mark fields addr align mapped calm)

end Sys2Proof.Proofs
end

section
/-! Blocks come onto their tiles and leave (R113, R115, R139). -/

set_option Elab.async false

namespace Sys2Proof.Proofs

open Sys2Proof Sys2Proof.Machine Sys2Proof.Laws

/-! ### Admission -/

/-- A block still owed to a tile that has room is seated there. -/
theorem blockAdmit_owed {s : State} {seq tile linear : Nat} {e : Entry} {k : Kernel} (entry : s.entry seq = some e) (run : e.status = .running)
    (kern : e.kern = some k) (saved : (s.ledger.saved.any fun b => b.seq == seq) = false) (alloc : (s.tile tile).alloc = some seq)
    (owed : (k.plan.find? fun p => p.2 == tile) = some (linear, tile)) (room : s.hasRoom k tile = true) :
    blockAdmit seq tile s = (s.adjKernel seq fun k => { k with plan := k.plan.filter fun p => p.1 != linear }).seat e k linear tile := by
  unfold blockAdmit
  rw [entry]
  dsimp only
  rw [run, kern]
  dsimp only
  rw [saved, alloc, if_neg (by simp), owed]
  exact if_pos room

/-- The next block of a grid without clusters is seated on the place it has. -/
theorem blockAdmit_next {s : State} {seq tile : Nat} {e : Entry} {k : Kernel} (entry : s.entry seq = some e) (run : e.status = .running)
    (kern : e.kern = some k) (saved : (s.ledger.saved.any fun b => b.seq == seq) = false) (alloc : (s.tile tile).alloc = some seq)
    (plan : k.plan = []) (on : k.halted = false) (more : k.next < k.grid) (alone : k.clSize = 1) (place : s.nextPlace k = some [tile]) :
    ∃ f, blockAdmit seq tile s = (s.adjKernel seq f).seat e k k.next tile := by
  have unit : (List.range (min k.clSize (k.grid - k.next))).map (fun r => (k.next + r, [tile].getD r 0)) = [(k.next, tile)] := by
    rw [alone, Nat.min_eq_left (by omega)]
    rfl
  unfold blockAdmit
  rw [entry]
  dsimp only
  rw [run, kern]
  dsimp only
  rw [saved, alloc, if_neg (by simp), plan]
  dsimp only [List.find?_nil]
  rw [on, if_neg (by simpa using more), place]
  dsimp only
  rw [if_neg (by simp), unit, List.find?_cons_of_pos (by simp)]
  exact ⟨_, rfl⟩

theorem seat_after (s : State) (seq : Nat) (f : Kernel → Kernel) (e : Entry) (k : Kernel) (linear n : Nat) (hs : e.seq = seq) :
    ∃ b, (((s.adjKernel seq f).seat e k linear n).tile n).blocks = (s.tile n).blocks ++ [b] ∧ b.seq = seq ∧
      b.linear = linear ∧ b.nregs = k.nregs ∧ b.scratchB = k.scratchB ∧ b.groups = List.replicate (k.threads / 32) (Group.start e.code) ∧
      b.scratch = { bytes := [], marks := [] } ∧ b.tokens = [] ∧ b.exiting = false :=
  hs ▸ seat_blocks (s.adjKernel e.seq f) e k linear n

/-! ### Blocks that have ended stay so while the kernel is settled -/

/-- A block that has ended, with no group and no token. -/
def Over (b : Block) : Prop := b.ended = true ∧ b.groups = [] ∧ b.tokens = []

/-- Every block of the second state comes from one of the first at its slot, which has not ended unless both have. -/
def Descends (s t : State) : Prop := ∀ n, ∀ y ∈ (t.tile n).blocks, ∃ x ∈ (s.tile n).blocks, x.slot = y.slot ∧ (Over x → Over y)

theorem descends_refl (s : State) : Descends s s := fun _ y hy => ⟨y, hy, rfl, id⟩

theorem Descends.trans {s t u : State} (h : Descends s t) (k : Descends t u) : Descends s u := fun n y hy => by
  obtain ⟨x, hx, slot, stays⟩ := k n y hy
  obtain ⟨w, hw, slot', stays'⟩ := h n x hx
  exact ⟨w, hw, slot'.trans slot, fun o => stays (stays' o)⟩

theorem descends_tiles {s t : State} (h : t.tiles = s.tiles) : Descends s t := fun n y hy => by
  refine ⟨y, ?_, rfl, id⟩
  unfold State.tile at *
  rwa [h] at hy

theorem descends_adjTile (s : State) (n : Nat) (f : Tile → Tile)
    (h : ∀ y ∈ (f (s.tile n)).blocks, ∃ x ∈ (s.tile n).blocks, x.slot = y.slot ∧ (Over x → Over y)) : Descends s (s.adjTile n f) := fun m y hy => by
  by_cases hm : m = n
  · subst hm
    rw [tile_adjTile] at hy
    exact h y hy
  · rw [tile_adjTile_other _ _ _ _ hm] at hy
    exact ⟨y, hy, rfl, id⟩

theorem descends_map {l : List Block} {f : Block → Block} (slot : ∀ b, (f b).slot = b.slot) (stays : ∀ b, Over b → Over (f b)) :
    ∀ y ∈ l.map f, ∃ x ∈ l, x.slot = y.slot ∧ (Over x → Over y) := fun _ hy => by
  obtain ⟨x, hx, rfl⟩ := List.mem_map.mp hy
  exact ⟨x, hx, (slot x).symm, stays x⟩

theorem descends_adjBlock (s : State) (n slot : Nat) (f : Block → Block) (keeps : ∀ b, (f b).slot = b.slot) (stays : ∀ b, Over b → Over (f b)) :
    Descends s (s.adjBlock n slot f) :=
  descends_adjTile s n _ (descends_map (fun b => by split <;> simp [keeps])
    (fun b h => by split <;> simp [stays, h]))

theorem unqueue_over (b : Block) (uid : Nat) (gone : List Nat) (h : Over b) :
    Over (if b.uid = uid then { b with tokens := b.tokens.filter fun e => !gone.contains e.1 } else b) := by
  obtain ⟨ended, groups, tokens⟩ := h
  split
  · exact ⟨ended, groups, by dsimp only; rw [tokens]; rfl⟩
  · exact ⟨ended, groups, tokens⟩

theorem descends_stopBlock (s : State) (n slot : Nat) (fault : Option Nat) : Descends s (s.stopBlock n slot fault) := by
  unfold State.stopBlock
  split
  · exact descends_refl s
  · next b _ =>
    have dead : Descends s (s.adjBlock n slot fun b => { b with groups := b.groups.map Group.dead, exiting := true, fault := fault, bars := [] }) :=
      descends_adjBlock s n slot _ (fun _ => rfl) fun b ⟨ended, groups, tokens⟩ => ⟨ended, by dsimp only; rw [groups]; rfl, tokens⟩
    exact dead.trans ((descends_adjTile _ n (fun t => t.unqueue b.uid) (descends_map (fun b => by split <;> rfl)
      fun b h => unqueue_over b _ _ h)).trans (descends_tiles rfl))

theorem descends_fold {α : Type} (f : State → α → State) (step : ∀ s a, Descends s (f s a)) (l : List α) (s : State) : Descends s (l.foldl f s) := by
  induction l generalizing s with
  | nil => exact descends_refl s
  | cons a l ih => exact (step s a).trans (ih _)

theorem releaseTile_tiles (s : State) (seq n : Nat) : (s.releaseTile seq n).tiles = (s.adjTile n fun t => { t with alloc := none }).tiles := by
  unfold State.releaseTile
  dsimp only
  repeat' split
  all_goals rfl

theorem descends_releaseTile (s : State) (seq n : Nat) : Descends s (s.releaseTile seq n) :=
  Descends.trans (descends_adjTile s n (fun t => { t with alloc := none }) fun y hy => ⟨y, hy, rfl, id⟩)
    (descends_tiles (releaseTile_tiles s seq n))

theorem kernelOutcome_tiles (s : State) (seq : Nat) (k : Kernel) : (s.kernelOutcome seq k).tiles = s.tiles :=
  State_kernelOutcome_same (fl := ps16) rfl s seq k (SameBut.refl _ s) .tiles (by decide)

theorem descends_settleKernel (s : State) (seq : Nat) : Descends s (s.settleKernel seq) := by
  unfold State.settleKernel
  split
  · exact descends_refl s
  · next e _ =>
    split
    · next k _ _ =>
      split
      · exact descends_refl s
      · have freed := descends_fold (fun (t : State) n => t.releaseTile seq n) (fun t n => descends_releaseTile t seq n)
          (k.tiles.filter fun n => (s.tile n).blocks.isEmpty && !(s.ledger.victims.any fun v => v.1 == n)) s
        dsimp only
        split
        · exact freed.trans (descends_tiles (kernelOutcome_tiles _ _ _))
        · exact freed
    · exact descends_refl s

theorem descends_stopForLimit (s : State) (seq : Nat) : Descends s (s.stopForLimit seq) := by
  unfold State.stopForLimit
  dsimp only
  refine Descends.trans ?_ (descends_settleKernel _ seq)
  refine Descends.trans ?_ (descends_fold (fun (t : State) (b : Block) => t.stopBlock b.tile b.slot none)
    (fun t b => descends_stopBlock t b.tile b.slot none) _ _)
  exact descends_tiles rfl

theorem descends_settleLimits (s : State) : Descends s s.settleLimits :=
  descends_fold _ (fun t e => by
    repeat' split
    · exact descends_stopForLimit t e.seq
    · exact descends_refl t
    · exact descends_refl t) _ s

theorem descends_adjBlocks (s : State) (p : Block → Bool) (f : Block → Block) (keeps : ∀ b, (f b).slot = b.slot) (stays : ∀ b, Over b → Over (f b)) :
    Descends s (s.adjBlocks p f) := fun n => by
  have look : ((s.adjBlocks p f).tile n).blocks = (s.tile n).blocks.map fun b => if p b then f b else b :=
    congrArg Tile.blocks (lookD_map s.tiles n Tile.empty (fun t => { t with blocks := t.blocks.map fun b => if p b then f b else b }) rfl)
  rw [look]
  exact descends_map (fun b => by split <;> simp [keeps]) (fun b h => by split <;> simp [stays, h])

theorem over_resume (b : Block) (k : BarKind) (h : Over b) : Over { b with groups := b.groups.map fun g => g.resume k } := by
  obtain ⟨ended, groups, tokens⟩ := h
  exact ⟨ended, by dsimp only; rw [groups]; rfl, tokens⟩

theorem over_settleBars (b : Block) (h : Over b) : Over b.settleBars := by
  obtain ⟨ended, groups, tokens⟩ := h
  have fold : ∀ l : List (Nat × BarInst), l.foldl (fun (gs : List Group) e => gs.map fun g => g.resume (.block e.1)) [] = [] := by
    intro l
    induction l with
    | nil => rfl
    | cons e l ih => exact ih
  exact ⟨ended, by unfold Block.settleBars; dsimp only; rw [groups]; exact fold _, tokens⟩

theorem descends_settleCbars (s : State) (seq : Nat) : Descends s (s.settleCbars seq) := by
  unfold State.settleCbars
  split
  · exact descends_refl s
  · dsimp only
    refine Descends.trans ?_ (descends_fold _ (fun (t : State) (e : Nat × BarInst) => descends_adjBlocks t _
      (fun b => { b with groups := b.groups.map fun g => g.resume (.cluster (e.1 % 2)) }) (fun _ => rfl) fun b h => over_resume b _ h) _ _)
    exact descends_tiles rfl

theorem descends_settleBarriers (s : State) (tile slot seq : Nat) : Descends s (s.settleBarriers tile slot seq) :=
  ((descends_adjBlock s tile slot Block.settleBars (fun _ => rfl) over_settleBars).trans (descends_settleCbars _ seq)).trans
    (descends_tiles (settleGbar_tiles _ seq))

/-! ### The exit's completion -/

/-- The blocks of a cluster that is over leave every tile. -/
def clusterLeft (s : State) (seq cluster : Nat) : State :=
  { s with tiles := s.tiles.map fun t => (t.1, { t.2 with blocks := t.2.blocks.filter fun x => !(x.seq == seq && x.cluster == cluster) }) }

theorem clusterLeft_blocks (s : State) (seq cluster n : Nat) :
    ((clusterLeft s seq cluster).tile n).blocks = (s.tile n).blocks.filter fun x => !(x.seq == seq && x.cluster == cluster) :=
  congrArg Tile.blocks (lookD_map s.tiles n Tile.empty
    (fun t => { t with blocks := t.blocks.filter fun x => !(x.seq == seq && x.cluster == cluster) }) rfl)

theorem descends_clusterLeft (s : State) (seq cluster : Nat) : Descends s (clusterLeft s seq cluster) := fun n y hy => by
  rw [clusterLeft_blocks] at hy
  exact ⟨y, (List.mem_filter.mp hy).1, rfl, id⟩

theorem blockExitComplete_settles {s u : State} {r : BlockRef} {b : Block} (block : s.block r.tile r.slot = some b) (exiting : b.exiting = true)
    (alive : b.ended = false) (tokens : b.pendingTokens = false) (stores : (s.felt.waiting.any fun q => q.uid == b.uid) = false)
    (hu : (s.adjBlock r.tile r.slot Block.ends).settleBarriers r.tile r.slot b.seq = u) :
    blockExitComplete r s =
      ((if u.clusterOver b.seq b.cluster then clusterLeft u b.seq b.cluster else u).settleKernel b.seq).settleLimits := by
  subst hu
  unfold blockExitComplete
  rw [block]
  dsimp only
  rw [exiting, alive, tokens, stores]
  rfl

theorem adjBlock_ends (s : State) (tile slot : Nat) : ∀ x ∈ ((s.adjBlock tile slot Block.ends).tile tile).blocks, x.slot = slot → Over x := by
  intro x hx here
  unfold State.adjBlock at hx
  rw [tile_adjTile] at hx
  obtain ⟨y, _, rfl⟩ := List.mem_map.mp hx
  by_cases hy : y.slot = slot
  · rw [if_pos hy]
    exact ⟨rfl, rfl, rfl⟩
  · rw [if_neg hy] at here
    exact absurd here hy

/-- Settles O43: a seat adds the block last; a block that has ended stays so whatever the kernel's settling does. -/
theorem blocksAreAdmittedAndLeave : Obligations.BlocksAreAdmittedAndLeave := by
  unfold Obligations.BlocksAreAdmittedAndLeave
  refine ⟨?seated, ?leave⟩
  case seated =>
    intro s seq tile linear e k entry hseq run kern saved alloc which
    rcases which with ⟨owed, room⟩ | ⟨plan, on, more, alone, rfl, place⟩
    · obtain ⟨b, blocks⟩ := seat_after s seq (fun k => { k with plan := k.plan.filter fun p => p.1 != linear }) e k linear tile hseq
      exact ⟨_, b, congrArg Host.Outcome.next (blockAdmit_owed entry run kern saved alloc owed room), blocks⟩
    · obtain ⟨f, ran⟩ := blockAdmit_next entry run kern saved alloc plan on more alone place
      obtain ⟨b, blocks⟩ := seat_after s seq f e k k.next tile hseq
      exact ⟨_, b, congrArg Host.Outcome.next ran, blocks⟩
  case leave =>
    intro s u r b block exiting alive tokens stores hu
    have ran := blockExitComplete_settles block exiting alive tokens stores hu
    have ended : Descends (s.adjBlock r.tile r.slot Block.ends) u := hu ▸ descends_settleBarriers _ _ _ _
    have last : Descends u (((if u.clusterOver b.seq b.cluster then clusterLeft u b.seq b.cluster else u).settleKernel b.seq).settleLimits) := by
      refine Descends.trans ?_ ((descends_settleKernel _ b.seq).trans (descends_settleLimits _))
      split
      · exact descends_clusterLeft u _ _
      · exact descends_refl u
    refine ⟨⟨_, congrArg Host.Outcome.next ran, fun y hy here => ?_⟩, ?_, fun open' => ?_, fun gone => ?_⟩
    · obtain ⟨x, hx, slot, keeps⟩ := (ended.trans last) r.tile y hy
      exact keeps (adjBlock_ends s r.tile r.slot x hx (slot.trans here))
    · exact hu ▸ bend_settle ⟨b.ends, block_adjBlock_of block Block.ends (fun _ => rfl), rfl, rfl, rfl⟩ r.tile r.slot b.seq
    · rw [open', if_neg Bool.false_ne_true] at ran
      exact congrArg Host.Outcome.next ran
    · rw [gone, if_pos rfl] at ran
      exact ⟨_, congrArg Host.Outcome.next ran, clusterLeft_blocks u _ _⟩

end Sys2Proof.Proofs
end

section
/-! The Felt services (R176, R192, R193, R196, R198, R205, R291, R296, R418). -/

set_option Elab.async false

namespace Sys2Proof.Proofs

open Sys2Proof Sys2Proof.Machine Sys2Proof.Laws

/-! ### Spills and combines (R192, R193) -/

theorem reduceSpill_spills {s : State} {line rec : Nat} {l : FLine} {r : Reduce} (look : NMap.look s.felt.lines line = some l) (red : l.red = some r)
    (deferred : r.deferred = true) (tags : s.spillTags line < 16) (free : s.freeRecord (homeHalf line) = some rec) :
    ∃ u : State, reduceSpill line s = u.retry ∧ NMap.look u.felt.lines line = none ∧
      NMap.look u.felt.spilled line =
        some { record := rec, red := { r with deferred := false, slots := r.slots.map fun e => (e.1, []) }, full := false } := by
  unfold reduceSpill State.spillLine
  rw [look]
  dsimp only [Option.bind]
  rw [red]
  dsimp only [Option.map]
  rw [if_neg (by rw [deferred]; decide), if_pos tags, free]
  exact ⟨_, rfl, (congrArg (fun f => NMap.look f.lines line) (bump_felt _ _ _)).trans (look_del_same _ _),
    (congrArg (fun f => NMap.look f.spilled line) (bump_felt _ _ _)).trans (look_put_same _ _ _)⟩

theorem look_touched (s : State) (line : Nat) (l : FLine) : NMap.look ((s.setLine line l).touch line).felt.lines line = some l :=
  (congrArg (NMap.look · line) (touch_lines _ line).1).trans (look_put_same _ _ _)

theorem dirtyLine_vals (l : FLine) (vs : List SectorVal) : (dirtyLine l vs).sectors.map (·.val) = vs :=
  (List.map_map ..).trans (List.map_id _)

theorem dirtyLine_dirty (l : FLine) (vs : List SectorVal) : ∀ x ∈ (dirtyLine l vs).sectors, x.dirty = true := fun x hx => by
  obtain ⟨v, _, rfl⟩ := List.mem_map.mp hx
  rfl

/-- A spilled line with a way is installed there, Dirty. -/
theorem installSpill_installs {s : State} {line w : Nat} {vs : List SectorVal} (way : (s.findWay line (mScrub (homeHalf line))).2 = some w) :
    ∃ u, s.installSpill line vs = (u, true) ∧ NMap.look u.felt.spilled line = none ∧
      ∃ l, NMap.look u.felt.lines line = some l ∧ l.way = w ∧ l.red = none ∧ l.sectors.map (·.val) = vs ∧ ∀ x ∈ l.sectors, x.dirty = true := by
  unfold State.installSpill State.allocate
  generalize s.findWay line (mScrub (homeHalf line)) = q at way ⊢
  obtain ⟨t, found⟩ := q
  cases way
  dsimp only
  rw [show NMap.look (State.setLine _ _ _).felt.lines line = _ from look_put_same _ _ _]
  exact ⟨_, rfl, look_del_same _ _, _, look_touched _ line _, rfl, rfl, dirtyLine_vals _ vs, dirtyLine_dirty _ vs⟩

theorem spillCombine_installs {s : State} {line w : Nat} {sp : Spill} (look : NMap.look s.felt.spilled line = some sp) (full : sp.full = true)
    (home : s.retiringHome line = false) (way : ((s.chargeRecall line sp).findWay line (mScrub (homeHalf line))).2 = some w) :
    ∃ u : State, spillCombineReturn line .none .none s =
        ((u.bump Obj.reduceSatTotal (reduceResult (s.recalled line sp).1 (s.recalled line sp).2 false).2).bump
          Obj.reduceCompleteTotal 1).retrySpills.retry ∧
      NMap.look u.felt.spilled line = none ∧
      ∃ l, NMap.look u.felt.lines line = some l ∧ l.way = w ∧ l.red = none ∧
        l.sectors.map (·.val) = (reduceResult (s.recalled line sp).1 (s.recalled line sp).2 false).1 ∧ ∀ x ∈ l.sectors, x.dirty = true := by
  obtain ⟨u, ran, left, l, here⟩ := installSpill_installs (vs := (reduceResult (s.recalled line sp).1 (s.recalled line sp).2 false).1) way
  refine ⟨u, ?_, left, l, here⟩
  have rest : (match (s.chargeRecall line sp).installSpill line (reduceResult (s.recalled line sp).1 (s.recalled line sp).2 false).1 with
      | (t, false) => s.keepDefer t
      | (t, true) => ((t.bump Obj.reduceSatTotal (reduceResult (s.recalled line sp).1 (s.recalled line sp).2 false).2).bump
          Obj.reduceCompleteTotal 1).retrySpills.retry) =
      ((u.bump Obj.reduceSatTotal (reduceResult (s.recalled line sp).1 (s.recalled line sp).2 false).2).bump
        Obj.reduceCompleteTotal 1).retrySpills.retry := by rw [ran]
  unfold spillCombineReturn
  rw [look]
  dsimp only
  rw [full, home, if_neg (by decide)]
  cases s.recordAddr (homeHalf line) sp.record 256 with
  | none => exact rest
  | some a => exact rest

/-! ### Fills (R176, R418) -/

theorem halfFrame_few {s : State} {replays : Nat} {v : SectorVal} (few : replays ≤ 16) : (s.halfFrame replays v).2 = v := by
  unfold State.halfFrame
  split
  · rfl
  · rfl

theorem halfFrame_lost {s : State} {replays : Nat} {v : SectorVal} (many : 16 < replays) : (s.halfFrame replays v).2.mark = some .link := by
  unfold State.halfFrame
  rw [if_neg (by omega)]
  dsimp only
  rw [if_neg (Nat.not_le.mpr many)]

/-- The state after the check of a fill's memory that finds nothing. -/
def fillChecked (s : State) (sector : Nat) : State :=
  let zero := match s.page (sector / 65536) with
    | some p => p.lost || p.zeromask.getLsbD (subOfSect sector)
    | none => true
  match s.page (sector / 65536), zero with
  | some p, false => if p.tier = 0 then s.hbmError (physSect p.frame sector / 2) (0x4C) .none else s
  | _, _ => s

theorem fillChecked_eq (s : State) (sector : Nat) : fillChecked s sector = s := by
  unfold fillChecked
  dsimp only
  split
  · exact ite_self _
  · rfl

/-- What a fill brings: the fetch for its master, carried over the half-link where the memory lies beyond it. -/
def brought (s : State) (sector master replays : Nat) : State × SectorVal :=
  let r := s.fetch sector master
  if s.fillCrosses sector then r.1.halfFrame replays r.2 else r

theorem feltFill_fills {s : State} {sector : Nat} {l : FLine} {x : FSector} (look : NMap.look s.felt.lines (sector / 4) = some l)
    (sect : l.sectors[sector % 4]? = some x) (fetching : x.fetching = true) (absent : x.present = false) (can : s.fetchable sector = true)
    (on : s.bundleStopped (sector / 4) = false) (replays : Nat) :
    feltFillReturn sector .none replays s = (((brought s sector x.master replays).1.setLine (sector / 4)
      (filled l (sector % 4) (brought s sector x.master replays).2)).touch (sector / 4)).retry := by
  have ran : feltFillReturn sector .none replays s = (((brought (fillChecked s sector) sector x.master replays).1.setLine (sector / 4)
      (filled l (sector % 4) (brought (fillChecked s sector) sector x.master replays).2)).touch (sector / 4)).retry := by
    unfold feltFillReturn
    rw [look]
    dsimp only [Option.bind]
    rw [sect]
    dsimp only [Option.map]
    rw [if_neg (by rw [fetching, absent, can, on]; decide)]
    rfl
  rw [ran, fillChecked_eq]

theorem filled_sector {l : FLine} {i : Nat} {x : FSector} {v : SectorVal} (h : l.sectors[i]? = some x) :
    (filled l i v).sectors[i]? = some { present := true, dirty := false, fetching := false, master := 0, val := v } := by
  show (adjAt l.sectors i _)[i]? = _
  rw [adjAt_getElem?, h]
  rfl

theorem feltFill_present {s : State} {sector : Nat} {l : FLine} {x : FSector} (look : NMap.look s.felt.lines (sector / 4) = some l)
    (sect : l.sectors[sector % 4]? = some x) (fetching : x.fetching = true) (absent : x.present = false) (can : s.fetchable sector = true)
    (on : s.bundleStopped (sector / 4) = false) (replays : Nat) :
    ∃ u : State, exec (.feltFillReturn sector .none replays) s = .next u.retry ∧
      ∃ l' x', NMap.look u.felt.lines (sector / 4) = some l' ∧ l'.sectors[sector % 4]? = some x' ∧ x'.present = true ∧ x'.dirty = false ∧
        (replays ≤ 16 → x'.val = (s.fetch sector x.master).2) ∧
        (s.fillCrosses sector = false → x'.val = (s.fetch sector x.master).2) ∧
        (s.fillCrosses sector = true → 16 < replays → x'.val.mark = some .link) := by
  refine ⟨_, congrArg Host.Outcome.next (feltFill_fills look sect fetching absent can on replays),
    filled l (sector % 4) (brought s sector x.master replays).2, _, look_touched _ _ _, filled_sector sect, rfl, rfl,
    fun few => ?_, fun near => ?_, fun crosses many => ?_⟩
  · show (if s.fillCrosses sector then _ else _ : State × SectorVal).2 = _
    split
    · exact halfFrame_few few
    · rfl
  · show (if s.fillCrosses sector then _ else _ : State × SectorVal).2 = _
    rw [near]
    rfl
  · show (if s.fillCrosses sector then _ else _ : State × SectorVal).2.mark = _
    rw [crosses]
    exact halfFrame_lost many

/-! ### Flushes, retirement and walks (R196, R198, R205, R296) -/

theorem bankRetire_ends {s : State} {half group : Nat} (moving : s.felt.retiring.contains (half, group) = true)
    (none : s.moveLeaving.leavingOf half group = false) :
    ∃ u : State, exec (.bankRetireMovesComplete half group) s = .next u.retry ∧ (half, group) ∈ u.felt.retired ∧ (half, group) ∉ u.felt.retiring := by
  have ran : bankRetireMovesComplete half group s = (s.moveLeaving.endRetire half group).retry := by
    unfold bankRetireMovesComplete
    rw [moving, if_neg (by decide)]
    dsimp only
    rw [none, if_neg Bool.false_ne_true]
  refine ⟨_, congrArg Host.Outcome.next ran, ?_, ?_⟩
  · unfold State.endRetire
    rw [log_felt]
    exact List.mem_append_right _ (List.mem_singleton.mpr rfl)
  · unfold State.endRetire
    rw [log_felt]
    exact fun h => absurd (List.mem_filter.mp h).2 (by simp)

/-- A page whose table entry is uncorrectable in both copies is lost. -/
theorem readEntry_lost (s : State) (page : Nat) : (s.readEntry page true true).tableLost page = true ∧ (s.readEntry page true true).boot.lost = true := by
  have shape : ∃ u : State, s.readEntry page true true =
      { u with mem := { u.mem with badWest := insertNat u.mem.badWest page, badEast := insertNat u.mem.badEast page }
               boot := { u.boot with lost := true } } := ⟨_, rfl⟩
  obtain ⟨u, shape⟩ := shape
  rw [shape]
  refine ⟨?_, rfl⟩
  unfold State.tableLost
  rw [List.contains_iff_mem.mpr ((mem_insertNat _ page page).mpr (.inl rfl)),
    List.contains_iff_mem.mpr ((mem_insertNat _ page page).mpr (.inl rfl))]
  rfl

theorem tlbFill_kept (s : State) (half page : Nat) : (s.tlbFill half page).tableLost page = s.tableLost page ∧ (s.tlbFill half page).boot = s.boot := by
  unfold State.tlbFill
  split <;> exact ⟨rfl, rfl⟩

theorem walkWanted_miss {s : State} {half page : Nat} (h : s.walkWanted half page = true) : s.tlbHit half page = false := by
  unfold State.walkWanted at h
  simpa using (Bool.and_eq_true_iff.mp h).1

/-- A walk that a waiting request wants, its levels read without an error. -/
theorem tableWalk_walks {s : State} {half page : Nat} (small : half ≤ 1) (wanted : s.walkWanted half page = true) (west east : Bool) :
    tableWalkReturn half page west east .none s = ((((s.walkFill half page).bump Obj.walkTotal 1).readEntry page west east).tlbFill half page).retry := by
  have clean : (if s.walkHit half page then s.canvasError half agentHalfManagers (some (0, page * 2 ^ 21)) (2 ^ 51 + page / 512) false .none
      else s) = s := ite_self _
  unfold tableWalkReturn
  dsimp only
  rw [if_neg (by omega), walkWanted_miss wanted, if_neg Bool.false_ne_true, wanted, if_pos rfl, clean]

/-- A cached entry that is uncorrectable is walked again. -/
theorem tableWalk_again {s : State} {half page : Nat} (small : half ≤ 1) (hit : s.tlbHit half page = true) (pos : Nat) (again : Bool) :
    tableWalkReturn half page false false (.uncorrectable pos again) s =
      (((s.canvasError half agentHalfManagers (some (0, page * 2 ^ 21)) (2 ^ 50 + page) false (.uncorrectable pos again)).bump
        Obj.walkTotal 1).tlbFill half page).retry := by
  unfold tableWalkReturn
  dsimp only
  rw [if_neg (by omega), hit, if_pos rfl]
  rfl

/-- Settles O44: each service is run on its own case, and the line, tag or entry that it leaves is looked up. -/
theorem feltServicesServeTheirLines : Obligations.FeltServicesServeTheirLines := by
  unfold Obligations.FeltServicesServeTheirLines
  refine ⟨?spill, ?combine, ?fill, ?flush, ?retire, ?walk, ?again⟩
  case spill =>
    intro s line rec l r look red deferred tags free
    obtain ⟨u, ran, left⟩ := reduceSpill_spills look red deferred tags free
    exact ⟨u, congrArg Host.Outcome.next ran, left⟩
  case combine =>
    intro s line sp w look full home way
    obtain ⟨u, ran, left⟩ := spillCombine_installs look full home way
    exact ⟨u, congrArg Host.Outcome.next ran, left⟩
  case fill =>
    intro s sector l x look sect fetching absent can on replays
    exact feltFill_present look sect fetching absent can on replays
  case flush =>
    intro s flushing on
    have ran : feltFlushComplete s = State.retry { s.flushAll (s.felt.flush == 2) with
        felt := { (s.flushAll (s.felt.flush == 2)).felt with flush := 0 } } := by
      unfold feltFlushComplete
      rw [if_neg (by simp [flushing, on])]
    exact ⟨_, congrArg Host.Outcome.next ran, rfl, rfl⟩
  case retire =>
    intro s half group moving none
    exact bankRetire_ends moving none
  case walk =>
    intro s half page small wanted
    refine ⟨congrArg Host.Outcome.next (tableWalk_walks small wanted false false), _,
      congrArg Host.Outcome.next (tableWalk_walks small wanted true true), ?_, ?_⟩
    · rw [(tlbFill_kept _ half page).1]
      exact (readEntry_lost _ page).1
    · rw [(tlbFill_kept _ half page).2]
      exact (readEntry_lost _ page).2
  case again =>
    intro s half page pos again small hit
    exact congrArg Host.Outcome.next (tableWalk_again small hit pos again)

end Sys2Proof.Proofs
end

section
/-! Which entries of the ledger are finished stands over requests to Felt, faults of blocks and log entries. -/

set_option Elab.async false

namespace Sys2Proof.Proofs

open Sys2Proof Sys2Proof.Machine Sys2Proof.Laws

/-- The entries' sequence numbers with their statuses and whether they ran. -/
def statuses (s : State) : List (Nat × EState × Bool) := s.ledger.entries.map fun e => (e.seq, e.status, e.ran)

/-- No entry has come, gone, changed its status or begun to run. -/
def SameStatuses (s t : State) : Prop := statuses t = statuses s

theorem SameStatuses.refl (s : State) : SameStatuses s s := rfl

theorem SameStatuses.trans {s t u : State} (h : SameStatuses s t) (k : SameStatuses t u) : SameStatuses s u := Eq.trans k h

theorem sameStatuses_ledger {s t : State} (h : t.ledger = s.ledger) : SameStatuses s t := by
  unfold SameStatuses statuses
  rw [h]

theorem sameStatuses_same {fl : List Facet} {s t : State} (h : SameBut fl s t) (hl : Facet.ledger ∉ fl := by decide) : SameStatuses s t :=
  sameStatuses_ledger (h .ledger hl)

theorem find_statuses (l : List Entry) (seq : Nat) : (l.find? fun e => e.seq == seq).map (fun e => (e.status, e.ran)) =
    ((l.map fun e => (e.seq, e.status, e.ran)).find? fun e => e.1 == seq).map (·.2) := by
  rw [List.find?_map, Option.map_map]
  rfl

/-- An entry has after the step the status that it had, and has run where it had. -/
theorem SameStatuses.entry {s t : State} (h : SameStatuses s t) (seq : Nat) :
    (t.entry seq).map (fun e => (e.status, e.ran)) = (s.entry seq).map fun e => (e.status, e.ran) := by
  unfold State.entry
  rw [find_statuses, find_statuses]
  exact congrArg (fun l : List (Nat × EState × Bool) => (l.find? fun e => e.1 == seq).map (·.2)) h

theorem SameStatuses.found {s t : State} (h : SameStatuses s t) {seq : Nat} {e : Entry} (entry : s.entry seq = some e) :
    ∃ f, t.entry seq = some f ∧ f.status = e.status ∧ f.ran = e.ran := by
  have status := h.entry seq
  rw [entry] at status
  cases after : t.entry seq with
  | none => rw [after] at status; cases status
  | some f =>
    rw [after] at status
    obtain ⟨hstatus, hran⟩ := Prod.mk.inj (Option.some.inj status)
    exact ⟨f, rfl, hstatus, hran⟩

theorem isFinished_status {e f : Entry} (h : e.status = f.status) : e.isFinished = f.isFinished := by
  unfold Entry.isFinished
  rw [h]

theorem SameStatuses.unfinished {s t : State} (h : SameStatuses s t) {seq : Nat} {e : Entry} (entry : s.entry seq = some e)
    (going : e.isFinished = false) : ∃ f, t.entry seq = some f ∧ f.isFinished = false := by
  obtain ⟨f, after, status, _⟩ := h.found entry
  exact ⟨f, after, (isFinished_status status).trans going⟩

theorem adjEntry_statuses (s : State) (seq : Nat) (f : Entry → Entry)
    (keeps : ∀ e, (f e).seq = e.seq ∧ (f e).status = e.status ∧ (f e).ran = e.ran) : SameStatuses s (s.adjEntry seq f) := by
  show (s.ledger.entries.map _).map _ = s.ledger.entries.map _
  rw [List.map_map]
  refine List.map_congr_left fun e _ => ?_
  obtain ⟨hseq, hstatus, hran⟩ := keeps e
  show ((if e.seq = seq then f e else e).seq, (if e.seq = seq then f e else e).status, (if e.seq = seq then f e else e).ran) = _
  split
  · rw [hseq, hstatus, hran]
  · rfl

theorem sameStatuses_fold {α : Type} (f : State → α → State) (step : ∀ s a, SameStatuses s (f s a)) (l : List α) (s : State) :
    SameStatuses s (l.foldl f s) := by
  induction l generalizing s with
  | nil => exact SameStatuses.refl s
  | cons a l ih => exact (step s a).trans (ih _)

theorem sameStatuses_ite {s a b : State} {c : Prop} [Decidable c] (ha : SameStatuses s a) (hb : SameStatuses s b) : SameStatuses s (if c then a else b) := by
  split
  · exact ha
  · exact hb

/-! ### Log entries and faults of blocks -/

theorem log_statuses (s : State) (a b c : Nat) (d : LogAddr) (e : Nat) : SameStatuses s (s.log a b c d e) := by
  obtain ⟨x, y, h, _⟩ := log_led s a b c d e
  unfold SameStatuses statuses
  rw [h]

theorem violation_statuses (s : State) (a b c : Nat) : SameStatuses s (s.violation a b c) := log_statuses _ _ _ _ _ _

theorem poisonHalted_statuses (s : State) (a : Nat) (d : LogAddr) (l c : Nat) (p : PoisonClass) : SameStatuses s (s.poisonHalted a d l c p) :=
  log_statuses _ _ _ _ _ _

theorem logFault_statuses (s : State) (a b : Nat) (d : LogAddr) (e : Nat) (pc : LogAddr) (c : Nat) : SameStatuses s (s.logFault a b d e pc c) :=
  (log_statuses _ _ _ _ _ _).trans (log_statuses _ _ _ _ _ _)

theorem reportFault_statuses (s : State) (b : Block) (g code : Nat) (addr pc : LogAddr) (ctx : Nat) : SameStatuses s (s.reportFault b g code addr pc ctx) :=
  SameStatuses.trans (sameStatuses_same (State_countFault_same (fl := ps6) rfl s code (SameBut.refl _ s))) (logFault_statuses _ _ _ _ _ _ _)

theorem noteFault_statuses (s : State) (seq code tile linear : Nat) : SameStatuses s (s.noteFault seq code tile linear) :=
  adjEntry_statuses s seq _ fun _ => ⟨rfl, rfl, rfl⟩

theorem stopBlock_statuses (s : State) (tile slot : Nat) (fault : Option Nat) : SameStatuses s (s.stopBlock tile slot fault) :=
  sameStatuses_same (State_stopBlock_same (fl := [.tiles, .felt]) rfl s tile slot fault (SameBut.refl _ s))

theorem endBlock_statuses (s : State) (tile slot code : Nat) : SameStatuses s (s.endBlock tile slot code) := by
  unfold State.endBlock
  split
  · exact SameStatuses.refl s
  · exact ((stopBlock_statuses s _ _ _).trans (noteFault_statuses _ _ _ _ _)).trans rfl

theorem endSaved_statuses (s : State) (b : Block) (code : Nat) : SameStatuses s (s.endSaved b code) :=
  SameStatuses.trans (t := { s with ledger := { s.ledger with saved := withoutSaved b s.ledger.saved, savedB := _ } }) rfl
    ((noteFault_statuses _ _ _ _ _).trans rfl)

theorem abortBlocks_statuses (code ctx : Nat) (l : List Block) (s : State) : SameStatuses s (State.abortBlocks code ctx l s) := by
  induction l generalizing s with
  | nil => exact SameStatuses.refl s
  | cons b l ih =>
    refine SameStatuses.trans ((reportFault_statuses s b 0 code none none ctx).trans ?_) (ih _)
    exact sameStatuses_ite (endSaved_statuses _ _ _) (endBlock_statuses _ _ _ _)

theorem terminate_statuses (s : State) (b : Block) (code : Nat) : SameStatuses s (s.terminate b code) := by
  unfold State.terminate
  dsimp only
  refine SameStatuses.trans (endBlock_statuses s b.tile b.slot code) ?_
  exact sameStatuses_ite (abortBlocks_statuses _ _ _ _) (sameStatuses_ite (abortBlocks_statuses _ _ _ _) (SameStatuses.refl _))

theorem threadFault_statuses (s : State) (g : GroupRef) (code : Nat) (addr : LogAddr) (ctx : Nat) : SameStatuses s (s.threadFault g code addr ctx) := by
  unfold State.threadFault
  split
  · exact SameStatuses.refl s
  · exact (reportFault_statuses _ _ _ _ _ _ _).trans (terminate_statuses _ _ _)

/-! ### The banks -/

theorem deadRead_statuses (s : State) (a b : Nat) : SameStatuses s (s.deadRead a b) := by
  unfold State.deadRead
  dsimp only
  exact sameStatuses_ite (SameStatuses.trans (t := (s.bump Obj.deadReadTotal 1).limitMark (0x300100 + a)) rfl (log_statuses _ _ _ _ _ _)) rfl

theorem delivered_statuses (s : State) (a b : Nat) (v : SectorVal) : SameStatuses s (s.delivered a b v).1 := by
  unfold State.delivered
  split
  · exact (deadRead_statuses s a b).trans rfl
  · exact SameStatuses.refl s

theorem sectorServed_statuses (s : State) (sn cls agent : Nat) (v : SectorVal) : SameStatuses s (s.sectorServed sn cls agent v).1 :=
  SameStatuses.trans (sameStatuses_same (State_touch_same (fl := [.counters, .bw, .felt]) rfl _ (sn / 4)
    (State_bump_same rfl _ Obj.feltReadHitSectors 1 (State_charge_same rfl s 0 cls (SameBut.refl _ s))))) (delivered_statuses _ _ _ v)

theorem setLine_statuses (s : State) (line : Nat) (l : FLine) : SameStatuses s (s.setLine line l) := rfl

theorem fetchRead_statuses (s : State) (sn cls agent : Nat) : SameStatuses s (s.fetchRead sn cls agent).1 := by
  have fetched : SameStatuses s ((s.translate (homeHalf (sn / 4)) (sn / 65536)).fetch sn cls).1 :=
    sameStatuses_same (State_fetch_same (fl := [.counters, .draws, .tables, .bw]) rfl _ sn cls (State_translate_same rfl s _ _ (SameBut.refl _ s)))
  unfold State.fetchRead
  dsimp only
  split
  · exact fetched
  · exact (fetched.trans (setLine_statuses _ _ _)).trans (sectorServed_statuses _ _ _ _ _)

theorem allocate_statuses (s : State) (line cls : Nat) (l : List FSector) : SameStatuses s (s.allocate line cls l).1 :=
  sameStatuses_same (State_allocate_same (fl := ps120) rfl s line cls l (SameBut.refl _ s))

theorem bankRead_statuses (s : State) (sn cls agent : Nat) : SameStatuses s (s.bankRead sn cls agent).1 := by
  unfold State.bankRead
  dsimp only
  split
  · exact SameStatuses.refl s
  split
  · exact sectorServed_statuses _ _ _ _ _
  split
  · split
    · split
      · exact sectorServed_statuses _ _ _ _ _
      · split
        · exact SameStatuses.refl s
        · exact fetchRead_statuses _ _ _ _
    · exact SameStatuses.refl s
  · split
    · exact SameStatuses.refl s
    · have put := allocate_statuses s (sn / 4) cls absent4
      split
      · next h => rw [h] at put; exact put
      · next h => rw [h] at put; exact put.trans (fetchRead_statuses _ _ _ _)

/-- The line of a load, brought into Felt where it is not there. -/
def loadLine (s : State) (line master : Nat) : State × Bool :=
  match NMap.look s.felt.lines line with
  | some _ => (s, true)
  | none => s.allocate line master absent4

theorem loadLine_statuses (s : State) (line master : Nat) : SameStatuses s (loadLine s line master).1 := by
  unfold loadLine
  split
  · exact SameStatuses.refl s
  · exact allocate_statuses s line master absent4

theorem bankLoad_statuses (s : State) (sn master agent : Nat) : SameStatuses s (s.bankLoad sn master agent).1 := by
  have put := loadLine_statuses s (sn / 4) master
  have rest : SameStatuses s (if !(loadLine s (sn / 4) master).2 then ((loadLine s (sn / 4) master).1, none) else
      match NMap.look (loadLine s (sn / 4) master).1.felt.lines (sn / 4) with
      | none => ((loadLine s (sn / 4) master).1, none)
      | some l => ((loadLine s (sn / 4) master).1.setLine (sn / 4)
          { l with sectors := adjAt l.sectors (sn % 4) fun x => { x with fetching := true, master := master } },
          (none : Option SectorVal))).1 := by
    split
    · exact put
    · split
      · exact put
      · exact put.trans (setLine_statuses _ _ _)
  unfold State.bankLoad
  dsimp only
  split
  · exact SameStatuses.refl s
  split
  · exact bankRead_statuses _ _ _ _
  split
  · exact SameStatuses.refl s
  · exact rest

theorem mismatch_statuses (s : State) (line idx count rop agent : Nat) (already : Bool) : SameStatuses s (s.mismatch line idx count rop agent already) := by
  unfold State.mismatch
  exact (log_statuses _ _ _ _ _ _).trans (sameStatuses_ite rfl rfl)

theorem writeRecord_led (s : State) (line rec : Nat) (l : List (Nat × SectorVal)) : SameStatuses s (s.writeRecord line rec l) :=
  sameStatuses_same (State_writeRecord_same (fl := ps107) rfl s line rec l (SameBut.refl _ s))

theorem noteSpilled_statuses (s : State) (line : Nat) (sp : Spill) (slot : List (Nat × SectorVal)) : SameStatuses s (s.noteSpilled line sp slot) :=
  sameStatuses_same (State_noteSpilled_same (fl := ps120) rfl s line sp slot (SameBut.refl _ s))

theorem charge4_statuses (s : State) (cls : Nat) : SameStatuses s (s.charge4 cls) :=
  sameStatuses_same (State_charge4_same (fl := ps29) rfl s cls (SameBut.refl _ s))

theorem combine_statuses (s : State) (line : Nat) (l : FLine) (r : Reduce) : SameStatuses s (s.combine line l r) :=
  sameStatuses_same (State_combine_same (fl := ps32) rfl s line l r (SameBut.refl _ s))

theorem deferOldest_statuses (s : State) (l : List (Nat × FLine)) : SameStatuses s (s.deferOldest l) :=
  sameStatuses_same (State_deferOldest_same (fl := ps32) rfl s l (SameBut.refl _ s))

theorem lineForStore_statuses (s : State) (line cls : Nat) : SameStatuses s (s.lineForStore line cls).1 :=
  sameStatuses_same (State_lineForStore_same (fl := ps120) rfl s line cls (SameBut.refl _ s))

theorem fillLine_statuses (s : State) (line cls : Nat) : SameStatuses s (s.fillLine line cls).1 :=
  sameStatuses_same (State_fillLine_same (fl := ps105) rfl s line cls (SameBut.refl _ s))

theorem touch_statuses (s : State) (line : Nat) : SameStatuses s (s.touch line) :=
  sameStatuses_same (State_touch_same (fl := ps9) rfl s line (SameBut.refl _ s))

/-- A line opened by its first contribution. -/
theorem openLine_statuses (s : State) (line cls idx count rop agent : Nat) (l : FLine) (r : Reduce) (ok : Bool) : SameStatuses s
    (let t : State := { s with felt := { s.felt with order := s.felt.order + 1 } }
     let t := (t.touch line).charge4 cls
     let t := if ok then t else t.mismatch line idx (count - 1) rop agent false
     if r.isFull then (t.combine line l r, true) else (t.setLine line { l with red := some r }, true)).1 := by
  have counted : SameStatuses s { s with felt := { s.felt with order := s.felt.order + 1 } } := rfl
  have started := (counted.trans (touch_statuses _ line)).trans (charge4_statuses _ cls)
  dsimp only
  generalize State.charge4 _ cls = u at started ⊢
  have noted : SameStatuses s (if ok then u else u.mismatch line idx (count - 1) rop agent false) :=
    sameStatuses_ite started (started.trans (mismatch_statuses u line idx (count - 1) rop agent false))
  generalize (if ok then u else u.mismatch line idx (count - 1) rop agent false) = v at noted ⊢
  split
  · exact noted.trans (combine_statuses _ _ _ _)
  · exact noted.trans (setLine_statuses _ _ _)

theorem contribOrdered_statuses (s : State) (line rop idx count : Nat) (data : List SectorVal) (agent cls : Nat) :
    SameStatuses s (s.contribOrdered line rop idx count data agent cls).1 := by
  have paid := charge4_statuses s cls
  unfold State.contribOrdered
  split
  · exact SameStatuses.refl s
  split
  · next sp _ =>
    split
    · exact paid.trans (noteSpilled_statuses _ _ _ _)
    · exact (paid.trans (mismatch_statuses _ _ _ _ _ _ _)).trans (noteSpilled_statuses _ _ _ _)
  split
  · next l r _ =>
    split
    · dsimp only
      split
      · exact paid.trans (combine_statuses _ _ _ _)
      · exact paid.trans (setLine_statuses _ _ _)
    · exact (paid.trans (mismatch_statuses _ _ _ _ _ _ _)).trans (setLine_statuses _ _ _)
  dsimp only
  split
  · exact deferOldest_statuses _ _
  have stored := lineForStore_statuses s line cls
  split
  · next h => rw [h] at stored; exact stored
  next h =>
  rw [h] at stored
  have full := stored.trans (fillLine_statuses _ line cls)
  split
  · next h => rw [h] at full; exact full
  next h =>
  rw [h] at full
  split
  · exact full
  · exact full.trans (openLine_statuses _ line cls idx count rop agent _ _ _)

theorem contribute_statuses (s : State) (line rop idx count : Nat) (data : List SectorVal) (agent cls : Nat) :
    SameStatuses s (s.contribute line rop idx count data agent cls).1 := by
  unfold State.contribute
  split
  · exact contribOrdered_statuses _ _ _ _ _ _ _ _
  · exact sameStatuses_same (State_contribArrival_same (fl := ps123) rfl s line rop data cls (SameBut.refl _ s))

/-! ### Requests that wait -/

theorem deliverLoad_statuses (s : State) (g : GroupRef) (lane reg width addr : Nat) (v : SectorVal) :
    SameStatuses s (s.deliverLoad g lane reg width addr v) := by
  have loaded : ∀ bs m, SameStatuses s (s.loadRegs g lane reg width bs m) := fun bs m =>
    sameStatuses_same (State_loadRegs_same (fl := ps25) rfl s g lane reg width bs m (SameBut.refl _ s))
  unfold State.deliverLoad
  split
  · exact sameStatuses_ite ((poisonHalted_statuses _ _ _ _ _ _).trans (threadFault_statuses _ _ _ _ _)) (loaded _ _)
  · exact loaded _ _

theorem loadServed_statuses (s : State) (g : GroupRef) (lane reg width addr : Nat) (v : SectorVal) :
    SameStatuses s (((s.l1Supply g.tile (addr / 32) v).deliverLoad g lane reg width addr v).laneDone g) :=
  SameStatuses.trans (SameStatuses.trans (sameStatuses_same (State_l1Supply_same (fl := ps25) rfl s g.tile (addr / 32) v (SameBut.refl _ s)))
    (deliverLoad_statuses _ _ _ _ _ _ _)) (sameStatuses_same (State_laneDone_same (fl := ps25) rfl _ g (SameBut.refl _ _)))

theorem storeDone_statuses (s : State) (a : Agent) : SameStatuses s (s.storeDone a) :=
  sameStatuses_same (State_storeDone_same (fl := ps25) rfl s a (SameBut.refl _ s))

theorem serve_statuses (s : State) (r : Req) : SameStatuses s (s.serve r).1 := by
  unfold State.serve
  dsimp only
  split
  · exact SameStatuses.refl s
  split
  · exact SameStatuses.refl s
  split
  · exact (violation_statuses _ _ _ _).trans (threadFault_statuses _ _ _ _ _)
  · exact violation_statuses _ _ _ _
  split
  · have loaded := bankLoad_statuses s (r.addr / 32) r.agent.master r.agent.logCode
    split
    · next h => rw [h] at loaded; exact loaded
    next h =>
    rw [h] at loaded
    split
    · exact loaded.trans (loadServed_statuses _ _ _ _ _ _ _)
    · exact loaded
  · next data mark _ =>
    have stored : SameStatuses s (s.bankStore (r.addr / 32) (r.addr % 32) data mark r.agent.master).1 :=
      sameStatuses_same (State_bankStore_same (fl := ps123) rfl s _ _ _ _ _ (SameBut.refl _ s))
    split
    · next h => rw [h] at stored; exact stored
    · next h => rw [h] at stored; exact stored.trans (storeDone_statuses _ _)
  · have dropped : SameStatuses s (s.bankDrop (r.addr / 128)).1 := sameStatuses_same (State_bankDrop_same (fl := ps120) rfl s _ (SameBut.refl _ s))
    split
    · next h => rw [h] at dropped; exact dropped
    · next h => rw [h] at dropped; exact dropped.trans (storeDone_statuses _ _)
  · next rop idx count data _ =>
    have given := contribute_statuses s (r.addr / 128) rop idx count data r.agent.logCode r.agent.master
    split
    · next h => rw [h] at given; exact given
    · next h => rw [h] at given; exact given.trans (storeDone_statuses _ _)
  · exact SameStatuses.refl s

theorem serveList_statuses (l : List Req) (s : State) : SameStatuses s (State.serveList l s) := by
  induction l generalizing s with
  | nil => exact SameStatuses.refl s
  | cons r l ih =>
    unfold State.serveList
    split
    · exact ih s
    have served := serve_statuses s r
    split
    · next h => rw [h] at served; exact (served.trans rfl).trans (ih _)
    · next h => rw [h] at served; exact served.trans (ih _)

theorem retryN_statuses (n : Nat) (s : State) : SameStatuses s (State.retryN n s) := by
  induction n generalizing s with
  | zero => exact SameStatuses.refl s
  | succ n ih =>
    unfold State.retryN
    dsimp only
    exact sameStatuses_ite ((serveList_statuses _ s).trans (ih _)) (serveList_statuses _ s)

/-- Requests that are tried again finish no entry. -/
theorem retry_statuses (s : State) : SameStatuses s s.retry := retryN_statuses _ s

/-! ### Spills, and reductions that a mapping entry closes -/

theorem spillLine_statuses (s : State) (line : Nat) : SameStatuses s (s.spillLine line) := by
  unfold State.spillLine
  split
  · exact SameStatuses.refl s
  next l r _ =>
  split
  · exact SameStatuses.refl s
  split
  · next rec _ =>
    have written := writeRecord_led s line rec (recordSectors line (l.sectors.map (·.val)) { r with deferred := false })
    dsimp only
    generalize s.writeRecord line rec _ = u at written ⊢
    exact written.trans rfl
  · dsimp only
    have seen : SameStatuses s (if r.fullSeen then s else
        (s.setLine line { l with red := some { r with fullSeen := true } }).bump Obj.reduceSpillFullTotal 1) :=
      sameStatuses_ite (SameStatuses.refl s) rfl
    generalize (if r.fullSeen then s else
        (s.setLine line { l with red := some { r with fullSeen := true } }).bump Obj.reduceSpillFullTotal 1) = u at seen ⊢
    exact sameStatuses_ite ((seen.trans rfl).trans (log_statuses _ _ _ _ _ _)) seen

theorem retrySpills_statuses (s : State) : SameStatuses s s.retrySpills :=
  sameStatuses_fold _ (fun t e => by
    split
    · exact sameStatuses_ite (spillLine_statuses _ _) (SameStatuses.refl _)
    · exact SameStatuses.refl _) _ s

theorem logIncomplete_statuses (s : State) (line : Nat) (r : Reduce) : SameStatuses s (s.logIncomplete line r) := by
  unfold State.logIncomplete
  dsimp only
  exact (log_statuses _ _ _ _ _ _).trans (sameStatuses_ite rfl rfl)

theorem bump_statuses (s : State) (k n : Nat) : SameStatuses s (s.bump k n) := rfl

/-- A spilled reduction's values go to its bank, or to memory where it has no way. -/
def spilledHome (s : State) (line : Nat) (vs : List SectorVal) : State :=
  match s.installSpill line vs with
  | (t, true) => t
  | (t, false) =>
    let t := (List.range 4).foldl (fun (t : State) i =>
      t.writeMem (line * 4 + i) (vs.getD i { data := 0, mark := none }) (mScrub (homeHalf line))) t
    { t with felt := { t.felt with spilled := NMap.del t.felt.spilled line } }

theorem spilledHome_statuses (s : State) (line : Nat) (vs : List SectorVal) : SameStatuses s (spilledHome s line vs) := by
  have installed : SameStatuses s (s.installSpill line vs).1 :=
    sameStatuses_same (State_installSpill_same (fl := ps120) rfl s line vs (SameBut.refl _ s))
  unfold spilledHome
  split
  · next h => rw [h] at installed; exact installed
  · next t h =>
    rw [h] at installed
    have written : SameStatuses t ((List.range 4).foldl (fun (t : State) i =>
        t.writeMem (line * 4 + i) (vs.getD i { data := 0, mark := none }) (mScrub (homeHalf line))) t) :=
      sameStatuses_fold (fun (t : State) i => t.writeMem (line * 4 + i) (vs.getD i { data := 0, mark := none }) (mScrub (homeHalf line)))
        (fun t i => sameStatuses_same (State_writeMem_same (fl := ps107) rfl t _ _ _ (SameBut.refl _ t))) _ t
    exact (installed.trans written).trans rfl

theorem closeSpilled_statuses (s : State) (line : Nat) (sp : Spill) : SameStatuses s (s.closeSpilled line sp) := by
  have charged : SameStatuses s (s.chargeRecall line sp) :=
    sameStatuses_same (State_chargeRecall_same (fl := ps29) rfl s line sp (SameBut.refl _ s))
  have home := (charged.trans (spilledHome_statuses _ line (reduceResult (s.recalled line sp).1 (s.recalled line sp).2 (!sp.full)).1)).trans
    (bump_statuses _ Obj.reduceSatTotal (reduceResult (s.recalled line sp).1 (s.recalled line sp).2 (!sp.full)).2)
  exact home.trans (sameStatuses_ite (bump_statuses _ _ _) (logIncomplete_statuses _ _ _))

theorem closeBusy_statuses (s : State) (line : Nat) (l : FLine) (r : Reduce) : SameStatuses s (s.closeBusy line l r) := by
  unfold State.closeBusy
  dsimp only
  exact ((setLine_statuses s _ _).trans (bump_statuses _ _ _)).trans (logIncomplete_statuses _ _ _)

theorem closeLeaving_statuses (s : State) (line : Nat) (l : FLine) (r : Reduce) : SameStatuses s (s.closeLeaving line l r) := by
  unfold State.closeLeaving
  dsimp only
  have put : ∀ x, SameStatuses s { s with felt := { s.felt with leaving := x } } := fun _ => rfl
  exact ((put _).trans (bump_statuses _ _ _)).trans (logIncomplete_statuses _ _ _)

theorem closeWhere_statuses (s : State) (p : Nat → Bool) : SameStatuses s (s.closeWhere p) := by
  have busy : ∀ t : State, ∀ e : Nat × FLine, SameStatuses t (match e.2.red with
      | some r => if p e.1 then t.closeBusy e.1 e.2 r else t
      | none => t) := fun t e => by
    split
    · exact sameStatuses_ite (closeBusy_statuses _ _ _ _) (SameStatuses.refl t)
    · exact SameStatuses.refl t
  have leaving : ∀ t : State, ∀ e : Nat × FLine, SameStatuses t (match e.2.red with
      | some r => if p e.1 then t.closeLeaving e.1 e.2 r else t
      | none => t) := fun t e => by
    split
    · exact sameStatuses_ite (closeLeaving_statuses _ _ _ _) (SameStatuses.refl t)
    · exact SameStatuses.refl t
  have spilled : ∀ t : State, ∀ e : Nat × Spill, SameStatuses t (if p e.1 then t.closeSpilled e.1 e.2 else t) := fun t e =>
    sameStatuses_ite (closeSpilled_statuses _ _ _) (SameStatuses.refl t)
  exact ((sameStatuses_fold _ busy _ _).trans (sameStatuses_fold _ leaving _ _)).trans (sameStatuses_fold _ spilled _ _)

/-- Taking a range out of the tables finishes no entry. -/
theorem unmapRange_statuses (s : State) (vpn n : Nat) : SameStatuses s (s.unmapRange vpn n) := by
  have freed : ∀ (l : NMap Page) (t : State), SameStatuses t (l.foldl (fun (t : State) e => t.freePage e.2) t) := fun l t =>
    sameStatuses_fold _ (fun t e => sameStatuses_same (State_freePage_same (fl := ps22) rfl t e.2 (SameBut.refl _ t))) l t
  unfold State.unmapRange
  dsimp only
  refine SameStatuses.trans ?_ (retry_statuses _)
  refine SameStatuses.trans ?_ (retrySpills_statuses _)
  refine SameStatuses.trans ?_ (freed _ _)
  exact (closeWhere_statuses s _).trans rfl

end Sys2Proof.Proofs
end

section
/-! MAP, UNMAP and host accesses (R207, R208, R216, R401). -/

set_option Elab.async false

namespace Sys2Proof.Proofs

open Sys2Proof Sys2Proof.Machine Sys2Proof.Laws

/-! ### MAP and UNMAP in their turn -/

theorem ranFinish_mem (s : State) (seq st : Nat) : ((s.ranNow seq).finish seq st 0 0).mem = s.mem := rfl

theorem map_maps {s : State} {seq vpn n tier : Nat} {e : Entry} (entry : s.entry seq = some e) (going : e.isFinished = false)
    (turn : s.mapTurn e = true) (range : e.mapRange = some (vpn, n)) (kind : e.kind = .map)
    (unmapped : ∀ p ∈ s.mem.pages, ¬ (vpn ≤ p.1 ∧ p.1 < vpn + n)) (place : s.placeTier (fld (e.word 5) 63 62) n = some tier) :
    ∃ t, exec (.map seq) s = .next t ∧ t.mem = (State.mapPages tier ((e.word 5).getLsbD 61) ((e.word 5).getLsbD 60) n vpn s).mem ∧
      (t.entry seq).map (·.status) = some (.finished stOk 0 0) := by
  have none : (s.mem.pages.find? fun p => decide (vpn ≤ p.1) && decide (p.1 < vpn + n)) = none :=
    find_none fun p hp => by simpa using unmapped p hp
  have ran : map seq s = ((State.mapPages tier ((e.word 5).getLsbD 61) ((e.word 5).getLsbD 60) n vpn s).ranNow seq).finish seq stOk 0 0 := by
    unfold map
    rw [entry]
    dsimp only
    rw [kind, turn, if_neg (by decide), range]
    dsimp only
    rw [none]
    dsimp only
    rw [place]
  have kept : SameStatuses s (State.mapPages tier ((e.word 5).getLsbD 61) ((e.word 5).getLsbD 60) n vpn s) :=
    sameStatuses_same (State_mapPages_same (fl := ps22) rfl tier _ _ n vpn s (SameBut.refl _ s))
  obtain ⟨f, after, open'⟩ := kept.unfinished entry going
  exact ⟨_, congrArg Host.Outcome.next ran, ranFinish_mem _ _ _, ran_finish _ seq stOk f after open'⟩

theorem unmap_unmaps {s : State} {seq vpn n : Nat} {e : Entry} (entry : s.entry seq = some e) (going : e.isFinished = false)
    (turn : s.mapTurn e = true) (range : e.mapRange = some (vpn, n)) (kind : e.kind = .unmap) (on : s.bundleChange = false) :
    ∃ t, exec (.unmap seq) s = .next t ∧ t.mem = (s.unmapRange vpn n).mem ∧ (t.entry seq).map (·.status) = some (.finished stOk 0 0) := by
  have ran : unmap seq s = ((s.unmapRange vpn n).ranNow seq).finish seq stOk 0 0 := by
    unfold unmap
    rw [entry]
    dsimp only
    rw [kind, turn, on, if_neg (by decide), range]
  obtain ⟨f, after, open'⟩ := (unmapRange_statuses s vpn n).unfinished entry going
  exact ⟨_, congrArg Host.Outcome.next ran, ranFinish_mem _ _ _, ran_finish _ seq stOk f after open'⟩

/-! ### Stores to sectors that Felt holds -/

theorem stored_lines (s : State) (sn : Nat) : (s.stored sn).felt.lines = s.felt.lines ∧ (s.stored sn).mem = s.mem := by
  unfold State.stored
  split <;> exact ⟨rfl, rfl⟩

theorem feltSector_lines {s t : State} (h : t.felt.lines = s.felt.lines) (sn : Nat) : t.feltSector sn = s.feltSector sn := by
  unfold State.feltSector
  rw [h]

/-- A line with a sector stored, Dirty. -/
def putSector (l : FLine) (i : Nat) (v : SectorVal) : FLine :=
  { l with sectors := adjAt l.sectors i fun _ => { present := true, dirty := true, fetching := false, master := 0, val := v } }

/-- The state once a sector of a line that Felt holds has been stored. -/
def sectorPut (s : State) (sn m : Nat) (l : FLine) (v : SectorVal) : State :=
  (((s.setLine (sn / 4) (putSector l (sn % 4) v)).stored sn).touch (sn / 4)).charge 0 m

theorem bankStore_puts {s : State} {sn m : Nat} {bs : Bytes} {mark : Option PoisonClass} {l : FLine} {x : FSector}
    (open' : s.bankOpen (sn / 4) = true) (port : s.portStopped m = false) (line : NMap.look s.felt.lines (sn / 4) = some l)
    (sect : l.sectors[sn % 4]? = some x) (here : x.present = true) (done : x.fetching = false) (whole : bs.length = 32) :
    s.bankStore sn 0 bs mark m = (sectorPut s sn m l { data := bytesSector bs, mark := mark }, true) := by
  unfold State.bankStore State.lineForStore storedSector
  simp only [open', port, line, sect, here, done, whole, Bool.not_true, Bool.or_self, Bool.false_eq_true, if_false, Bool.false_and,
    Bool.true_or, if_true]
  rfl

theorem sectorPut_view (s : State) (sn m : Nat) (l : FLine) (v : SectorVal) :
    OnlyRead ((s.setLine (sn / 4) (putSector l (sn % 4) v)).stored sn) (sectorPut s sn m l v) :=
  (touch_view _ (sn / 4)).trans (charge_view _ 0 m)

theorem look_putLine (s : State) (line : Nat) (l : FLine) : NMap.look (s.setLine line l).felt.lines line = some l := look_put_same _ _ _

theorem look_putLine_other (s : State) {line j : Nat} (l : FLine) (h : j ≠ line) :
    NMap.look (s.setLine line l).felt.lines j = NMap.look s.felt.lines j := look_put_other _ _ _ _ h

theorem sectorPut_felt (s : State) (sn m j : Nat) (l : FLine) (v : SectorVal) :
    (sectorPut s sn m l v).feltSector j = (s.setLine (sn / 4) (putSector l (sn % 4) v)).feltSector j :=
  (view_felt (sectorPut_view s sn m l v) j).trans (feltSector_lines (stored_lines _ sn).1 j)

theorem sectorPut_same {s : State} {sn : Nat} {l : FLine} {x : FSector} (m : Nat) (v : SectorVal) (sect : l.sectors[sn % 4]? = some x) :
    (sectorPut s sn m l v).feltSector sn = some { present := true, dirty := true, fetching := false, master := 0, val := v } := by
  rw [sectorPut_felt]
  unfold State.feltSector
  rw [look_putLine]
  show Option.filter _ ((putSector l (sn % 4) v).sectors[sn % 4]?) = _
  rw [show (putSector l (sn % 4) v).sectors[sn % 4]? = _ from adjAt_getElem? l.sectors (sn % 4) _, sect]
  rfl

theorem sectorPut_other {s : State} {sn j : Nat} {l : FLine} (m : Nat) (v : SectorVal) (line : NMap.look s.felt.lines (sn / 4) = some l)
    (hj : j ≠ sn) : (sectorPut s sn m l v).feltSector j = s.feltSector j := by
  rw [sectorPut_felt]
  unfold State.feltSector
  by_cases same : j / 4 = sn / 4
  · rw [same, look_putLine, line]
    have other : (putSector l (sn % 4) v).sectors[j % 4]? = l.sectors[j % 4]? := adjAt_getElem?_other l.sectors (sn % 4) (j % 4) _ (by omega)
    exact congrArg (Option.filter _) other
  · rw [look_putLine_other s _ same]

theorem sectorPut_mem (s : State) (sn m : Nat) (l : FLine) (v : SectorVal) : (sectorPut s sn m l v).mem = s.mem := by
  obtain ⟨c, b, p, e⟩ := sectorPut_view s sn m l v
  rw [e]
  exact (stored_lines _ sn).2

/-- A store of a whole sector to one that Felt can write: it is there, Dirty, with its value; no other sector is. -/
theorem bankStore_whole {s : State} {sn m : Nat} {bs : Bytes} {mark : Option PoisonClass} (h : s.writable sn m = true) (whole : bs.length = 32) :
    ∃ t, s.bankStore sn 0 bs mark m = (t, true) ∧ t.mem = s.mem ∧ StillServes s t ∧
      t.feltSector sn = some { present := true, dirty := true, fetching := false, master := 0, val := { data := bytesSector bs, mark := mark } } ∧
      ∀ j, j ≠ sn → t.feltSector j = s.feltSector j := by
  obtain ⟨accepts, port, l, x, line, sect, here, done⟩ := writable_parts h
  have ran := bankStore_puts (mark := mark) accepts port line sect here done whole
  have serves := (bankStore_w s sn 0 bs mark m h).2.1
  rw [ran] at serves
  exact ⟨_, ran, sectorPut_mem _ _ _ _ _, serves, sectorPut_same m _ sect, fun j hj => sectorPut_other m _ line hj⟩

/-! ### Host accesses (R216, R401) -/

theorem bankOpen_accepts {s : State} {sn : Nat} (h : s.bankOpen (sn / 4) = true) : s.felt.accepts = true := by
  unfold State.bankOpen at h
  simp only [Bool.and_eq_true] at h
  exact h.1.1.1.1

theorem hostInside {s : State} {o : Nat} (size : s.mem.hdmSize = 0 ∨ o < s.mem.hdmSize * 2 ^ 30) :
    (s.mem.hdmSize != 0 && decide (s.mem.hdmSize * 2 ^ 30 ≤ o)) = false := by
  rcases size with h | h
  · simp [h]
  · simp only [Bool.and_eq_false_iff, decide_eq_false_iff_not, Nat.not_le]
    exact .inr h

/-- An access whose line Felt holds open leaves nothing waiting behind it. -/
theorem hostMem_served {s t : State} {offset : Nat} {data : Option Bytes} (link : s.iface.hostLink = 2) (none : s.mem.hostWait = [])
    (served : s.hostAccess (offset / 64 * 64) data = (t, true)) : s.hostMem offset data = t := by
  have alone : ({ { s with mem := { s.mem with hostWait := s.mem.hostWait ++ [(offset / 64 * 64, data)] } } with
      mem := { { s.mem with hostWait := s.mem.hostWait ++ [(offset / 64 * 64, data)] } with hostWait := [] } } : State) = s := by
    show ({ s with mem := { s.mem with hostWait := [] } } : State) = s
    rw [← none]
  unfold State.hostMem
  rw [if_neg (not_not.mpr link)]
  unfold State.retryHost
  dsimp only at alone ⊢
  rw [alone, none]
  show (match s.hostAccess (offset / 64 * 64) data with
    | (s, true) => State.hostRetry [] s
    | (s, false) => _) = t
  rw [served]
  rfl

theorem hostRead_served {s : State} {o sn : Nat} (size : s.mem.hdmSize = 0 ∨ o < s.mem.hdmSize * 2 ^ 30)
    (hsn : sn = (windowBase + o) / 32) (mapped : s.violationKind (windowBase + o) false = none) (first : s.holds sn mHost = true)
    (second : s.holds (sn + 1) mHost = true) :
    ∃ t, s.hostAccess o none = (t, true) ∧ t.mem.hostWait = s.mem.hostWait ∧ t.mem.hostResp = s.mem.hostResp ++ [(s.heldBytes sn 2, false)] := by
  obtain ⟨x, hx, markX, _, t, viewX, readX⟩ := holds_read s sn mHost agentHost first
  obtain ⟨y, hy, markY, _, u, viewY, readY⟩ := holds_read t (sn + 1) mHost agentHost ((view_holds viewX _ _).trans second)
  rw [view_felt viewX] at hy
  have accepts : s.felt.accepts = true := by
    unfold State.holds at first
    simp only [Bool.and_eq_true] at first
    exact bankOpen_accepts first.1.1.1
  have ran : s.hostAccess o none = (u.answerHost (sectorBytes x.val.data ++ sectorBytes y.val.data, false), true) := by
    unfold State.hostAccess
    dsimp only
    rw [hostInside size, accepts, if_neg (by decide), if_neg Bool.false_ne_true]
    show (match s.violationKind (windowBase + o) false, (none : Option Bytes) with
      | some k, none => _
      | some k, some _ => _
      | none, none => _
      | none, some bs => _) = _
    rw [mapped]
    dsimp only
    rw [← hsn, readX]
    dsimp only
    rw [readY]
    dsimp only
    rw [markX, markY]
    rfl
  obtain ⟨c, b, p, same⟩ := viewX.trans viewY
  refine ⟨_, ran, ?_, ?_⟩
  · rw [same]
    rfl
  · have bytes : s.heldBytes sn 2 = sectorBytes x.val.data ++ sectorBytes y.val.data := by
      show sectorBytes _ ++ (sectorBytes _ ++ []) = _
      rw [List.append_nil, Nat.add_zero, hx, hy]
      rfl
    rw [bytes, same]
    rfl

theorem hostWrite_served {s : State} {o sn : Nat} {data : Bytes} (size : s.mem.hdmSize = 0 ∨ o < s.mem.hdmSize * 2 ^ 30)
    (hsn : sn = (windowBase + o) / 32) (mapped : s.violationKind (windowBase + o) true = none) (first : s.writable sn mHost = true)
    (second : s.writable (sn + 1) mHost = true) (len : data.length = 64) :
    ∃ t, s.hostAccess o (some data) = (t, true) ∧ t.mem = s.mem ∧ ∀ k, k < 2 → ∃ x, t.feltSector (sn + k) = some x ∧ x.dirty = true ∧
      x.val = { data := bytesSector ((data.drop (32 * k)).take 32), mark := none } := by
  obtain ⟨t, storeT, memT, serves, sectT, _⟩ := bankStore_whole (mark := none) (bs := data.take 32) first (by simp [len])
  obtain ⟨u, storeU, memU, _, sectU, rest⟩ := bankStore_whole (mark := none) (bs := (data.drop 32).take 32) (serves.1 _ _ second) (by simp [len])
  have accepts : s.felt.accepts = true := bankOpen_accepts (writable_parts first).1
  have ran : s.hostAccess o (some data) = (u, true) := by
    unfold State.hostAccess
    dsimp only
    rw [hostInside size, accepts, if_neg (by decide), if_neg Bool.false_ne_true]
    show (match s.violationKind (windowBase + o) true, (some data : Option Bytes) with
      | some k, none => _
      | some k, some _ => _
      | none, none => _
      | none, some bs => _) = _
    rw [mapped]
    dsimp only
    rw [← hsn, storeT]
    dsimp only
    rw [storeU]
  refine ⟨u, ran, memU.trans memT, fun k hk => ?_⟩
  match k, hk with
  | 0, _ => exact ⟨_, (rest sn (by omega)).trans sectT, rfl, rfl⟩
  | 1, _ => exact ⟨_, sectU, rfl, rfl⟩

/-- Settles O45: an entry that is not finished before its pages are mapped or taken out is finished by them alone; a host access meets the
sectors that Felt holds. -/
theorem mappingEntriesAndHostAccesses : Obligations.MappingEntriesAndHostAccesses := by
  unfold Obligations.MappingEntriesAndHostAccesses
  refine ⟨?entries, ?wait, ?atOnce⟩
  case entries =>
    intro s seq vpn n e entry going turn range
    exact ⟨fun tier kind unmapped place => map_maps entry going turn range kind unmapped place,
      fun kind on => unmap_unmaps entry going turn range kind on⟩
  case wait =>
    intro s offset gib data link
    exact ⟨congrArg Host.Outcome.next (if_neg (not_not.mpr link)), congrArg Host.Outcome.next (if_neg (not_not.mpr link)),
      congrArg Host.Outcome.next (if_pos link)⟩
  case atOnce =>
    intro s offset sn data link none size hsn
    refine ⟨fun mapped first second => ?_, fun mapped first second len => ?_⟩
    · obtain ⟨t, served, wait, resp⟩ := hostRead_served size hsn mapped first second
      exact ⟨t, congrArg Host.Outcome.next (hostMem_served link none served), wait.trans none, resp⟩
    · obtain ⟨t, served, mem, sectors⟩ := hostWrite_served size hsn mapped first second len
      exact ⟨t, congrArg Host.Outcome.next (hostMem_served link none served), (congrArg Mem.hostWait mem).trans none,
        congrArg Mem.hostResp mem, sectors⟩

end Sys2Proof.Proofs
end

section
/-! Lost ports, migrations, intervals and waits (R217 to R226, R233 to R237, R404). -/

set_option Elab.async false

namespace Sys2Proof.Proofs

open Sys2Proof Sys2Proof.Machine Sys2Proof.Laws

/-! ### A port that stays down (R217, R404) -/

theorem tier2Drop_pages (s : State) (p : Nat) : (s.tier2Drop p).mem.pages = s.mem.pages := by
  unfold State.tier2Drop
  dsimp only
  split <;> rfl

/-- A function's port that no longer serves is held down where it was on. -/
def portHeld (s : State) (port : Nat) : State := if s.func (.tier2 port) = .on then s.reach (.tier2 port) .heldDown else s

theorem portHeld_func (s : State) (port : Nat) :
    (portHeld s port).func (.tier2 port) = if s.func (.tier2 port) = .on then .heldDown else s.func (.tier2 port) := by
  unfold portHeld
  split
  · exact func_reach s _ _
  · rfl

theorem linkWaitExpiry_loses {s : State} {port : Nat} (down : s.iface.t2down.contains port = true) :
    ∃ u : State, exec (.tier2LinkWaitExpiry port) s = .next u.retry ∧ port ∉ u.iface.t2down ∧
      u.func (.tier2 port) = (if s.func (.tier2 port) = .on then .heldDown else s.func (.tier2 port)) ∧
      u.mem.pages = ((portHeld s port).losePages port).mem.pages := by
  have ran : tier2LinkWaitExpiry port s = State.retry
      { ((portHeld s port).losePages port).tier2Drop port with
        iface := { (((portHeld s port).losePages port).tier2Drop port).iface with
          t2down := (((portHeld s port).losePages port).tier2Drop port).iface.t2down.filter fun p => p != port } } := by
    unfold tier2LinkWaitExpiry portHeld
    dsimp only
    rw [down, if_neg (by decide)]
    simp only [beq_iff_eq]
  refine ⟨_, congrArg Host.Outcome.next ran, fun h => absurd (List.mem_filter.mp h).2 (by simp), ?_, tier2Drop_pages _ port⟩
  have lost := State_tier2Drop_same (fl := ps126 ++ ps79) rfl _ port
    (State_losePages_same rfl (portHeld s port) port (SameBut.refl _ (portHeld s port)))
  exact (func_of lost (by decide) _).trans (portHeld_func s port)

/-! ### Migrations (R220 to R226) -/

theorem startCandidate_begins {s : State} {page dst f : Nat} {p : Page} {c : Nat × Nat × Bool} (on : s.func .tiering = .on)
    (here : s.page page = some p) (moves : s.mem.moves = []) (cand : s.mem.cand.find? (fun c => c.1 == page) = some c) (hdst : c.2.1 = dst)
    (next : s.nextCandidate (s.candEngine c) = some c) (room : s.runningMigs (s.candEngine c) < 4) (stage : s.ownsStage (s.candEngine c) = true)
    (free : s.freeIn dst = some f) :
    migrationStart page s = ({ s with mem := { s.mem with cand := s.mem.cand.filter fun c => c.1 != page } } : State).beginMigration page p dst f false := by
  unfold migrationStart
  rw [on, if_neg (by decide), here]
  dsimp only
  rw [moves, if_neg (by simp), cand]
  dsimp only
  unfold State.startCandidate
  dsimp only
  rw [next, stage, moves, if_neg (by simpa using room), hdst, free]

theorem subpageCopy_steps {s : State} {page sub : Nat} {p : Page} {m : Migration} (look : NMap.look s.mem.pages page = some p) (mig : p.mig = some m)
    (copying : m.copying = some sub) (held : m.held = []) (flipped : m.flipped = false) (src : s.tierDown m.srcTier = false)
    (dst : s.tierDown p.destTier = false) :
    ∃ t, exec (.subpageCopyComplete page .none) s = .next t ∧
      NMap.look t.mem.pages page = some (Page.stepCopy
        { p with copied := p.copied ||| (1#32 <<< sub), mig := some { m with copying := none, bytes := m.bytes + 65536, held := [] } }) := by
  have ran : ∃ u : State, subpageCopyComplete page .none s = u.setPage page (Page.stepCopy
      { p with copied := p.copied ||| (1#32 <<< sub), mig := some { m with copying := none, bytes := m.bytes + 65536, held := [] } }) := by
    unfold subpageCopyComplete
    rw [look]
    dsimp only
    rw [mig]
    dsimp only
    rw [copying]
    dsimp only
    rw [flipped, src, dst, if_neg (by decide), held]
    dsimp only [State.releaseHeld, List.foldl]
    rw [show NMap.look (State.setPage _ page _).mem.pages page = _ from look_put_same _ _ _]
    exact ⟨_, rfl⟩
  obtain ⟨u, ran⟩ := ran
  exact ⟨_, congrArg Host.Outcome.next ran, look_put_same _ _ _⟩

theorem bump_pages (s : State) (k n : Nat) : (s.bump k n).mem.pages = s.mem.pages := rfl

theorem sourceFree_ends {s : State} {page : Nat} {p : Page} {m : Migration} (look : NMap.look s.mem.pages page = some p) (mig : p.mig = some m)
    (flipped : m.flipped = true) :
    ∃ t, exec (.migrationSourceFree page) s = .next t ∧ NMap.look t.mem.pages page = some
        { p with mig := none, migrations := min 65535 (p.migrations + 1), lastEnd := some s.mem.epoch, destTier := 0, destFrame := 0 } ∧
      SameBut [.counters, .tables] s t := by
  have same : SameBut [.counters, .tables] s (migrationSourceFree page s) := migrationSourceFree_same rfl page s (SameBut.refl _ s)
  have ran : ∃ k n : Nat, migrationSourceFree page s = (((s.setPage page
      { p with mig := none, migrations := min 65535 (p.migrations + 1), lastEnd := some s.mem.epoch, destTier := 0, destFrame := 0 }).freeFrame
        m.srcTier m.srcFrame).bump k 1).bump Obj.migrationBytes n := by
    unfold migrationSourceFree
    rw [look]
    dsimp only
    rw [mig]
    dsimp only
    rw [flipped, if_neg (by decide)]
    exact ⟨_, _, rfl⟩
  obtain ⟨k, n, ran⟩ := ran
  refine ⟨_, rfl, ?_, same⟩
  rw [ran, bump_pages, bump_pages, freeFrame_pages]
  exact look_put_same _ _ _

theorem hostWait_ends {s : State} {seq : Nat} {e : Entry} {c : Channel} (entry : s.entry seq = some e) (run : e.status = .running)
    (chan : e.chan = some c) (wait : c.wait = true) (coll : c.coll = false) (blocked : s.copyBlocked e = true) :
    ∃ t, exec (.copyHostAccessWaitExpiry seq) s = .next t ∧
      (t.entry seq).map (·.status) =
        some (.finished stHostAccess 0 (BitVec.ofNat 64 (if e.srcHost then e.copySrc else e.copyDst))) ∧ SameBut [.ledger] s t := by
  have ran : copyHostAccessWaitExpiry seq s = s.finish seq stHostAccess 0 (if e.srcHost then e.copySrc else e.copyDst) := by
    unfold copyHostAccessWaitExpiry
    rw [entry]
    dsimp only
    rw [run, chan]
    dsimp only
    rw [wait, coll, blocked, if_pos (by decide)]
  have going : e.isFinished = false := by unfold Entry.isFinished; rw [run]
  refine ⟨_, congrArg Host.Outcome.next ran, ?_, State_finish_same (fl := ps16) rfl s seq stHostAccess 0 _ (SameBut.refl _ s)⟩
  rw [finish_entry s seq stHostAccess 0 _ e entry going]
  rfl

/-- Settles O46: each event is run on its own case, and the page, port or entry that it changes is looked up. -/
theorem migrationsAndIntervalsGoOn : Obligations.MigrationsAndIntervalsGoOn := by
  unfold Obligations.MigrationsAndIntervalsGoOn
  refine ⟨?port, ?epoch, ?start, ?copy, ?free, ?interval, ?wait⟩
  case port =>
    intro s port down
    exact linkWaitExpiry_loses down
  case epoch =>
    intro s
    exact ⟨_, rfl, rfl, fun v => look_map s.mem.pages v fun p => { p with heat := p.heat / 2, touched := 0 },
      migrationEpochEnd_same rfl s (SameBut.refl _ s)⟩
  case start =>
    intro s page dst f p c on here moves cand hdst next room stage free
    exact congrArg Host.Outcome.next (startCandidate_begins on here moves cand hdst next room stage free)
  case copy =>
    intro s page p m sub look mig copying held flipped src dst
    exact subpageCopy_steps look mig copying held flipped src dst
  case free =>
    intro s page p m look mig flipped
    exact sourceFree_ends look mig flipped
  case interval =>
    intro s loads
    exact ⟨_, rfl, bwIntervalBoundary_same rfl loads s (SameBut.refl _ s), rfl⟩
  case wait =>
    intro s seq e c entry run chan wait coll blocked
    exact hostWait_ends entry run chan wait coll blocked

end Sys2Proof.Proofs
end

section
/-! Slots are fetched, checked and taken (R243 to R245, R251, R253, R263). -/

set_option Elab.async false

namespace Sys2Proof.Proofs

open Sys2Proof Sys2Proof.Machine Sys2Proof.Laws

/-! ### The head line (R243, R244) -/

theorem hostWrites_eq (writes : List (Nat × Bytes)) (s : State) : writes.foldl (fun (t : State) w => t.hostWrite w.1 w.2) s =
    { s with mem := { s.mem with host := writes.foldl (fun (m : MarkedMem) w => m.writeRaw w.1 w.2) s.mem.host } } := by
  induction writes generalizing s with
  | nil => rfl
  | cons w writes ih => exact ih _

theorem hostWrites_same (s : State) (h : MarkedMem) : SameBut [.host] s { s with mem := { s.mem with host := h } } := by
  intro f hf
  cases f
  case host => exact absurd List.mem_cons_self hf
  all_goals rfl

theorem lookHead_fetches {s : State} (on : s.ledger.enable = true) (run : s.ledger.st = .running ∨ s.ledger.st = .stalled)
    (link : s.iface.hostLink = 2) (free : s.ledger.fetched = none) :
    s.lookHead.ledger.fetched =
      (if (s.mem.host.readN s.slotAddr 128).getD 7 0 = 0xFF then none else some (s.mem.host.readN s.slotAddr 128)) ∧
    s.lookHead.mem = s.mem := by
  have go : ¬ (!s.ledger.enable || (s.ledger.st != .running && s.ledger.st != .stalled) || s.iface.hostLink != 2 ||
      s.ledger.fetched.isSome) = true := by
    rcases run with run | run <;> simp [on, run, link, free]
  unfold State.lookHead
  rw [if_neg go]
  dsimp only
  split
  · exact ⟨free, rfl⟩
  · exact ⟨rfl, rfl⟩

/-! ### Slots (R245, R251, R263) -/

/-- The CRC of a slot agrees with its last word. -/
abbrev SlotCrc (bs : Bytes) : Prop := (crc32c (bs.take 124)).toNat = leNat ((bs.drop 124).take 4)

section
variable {s : State} {bs : Bytes} {w : List W64} {kinds : Nat → Bool} (fetched : s.ledger.fetched = some bs) (link : s.iface.hostLink = 2)
  (ready : s.boot.phase = .ready) (words : bytesWords bs = w) (kind : kinds (fld (w.getD 0 0) 63 56) = true)
include fetched link ready words kind

theorem intake_badCrc (bad : ¬ SlotCrc bs) :
    s.intake kinds = (s.bump Obj.crcErrorTotal 1).refuseSlot w stCrc (crc32c (bs.take 124)).toNat (s.ledger.alive + 1) := by
  unfold State.intake
  rw [fetched]
  dsimp only
  rw [words, if_neg (by rw [kind, link, ready]; decide), if_pos bad]

theorem intake_repeat (crc : SlotCrc bs) (again : fld (w.getD 0 0) 55 48 = (s.ledger.alive + 255) % 256) :
    s.intake kinds = (s.bump Obj.aliveErrorTotal 1).refuseSlot w stAliveRepeat (fld (w.getD 0 0) 55 48) s.ledger.alive := by
  unfold State.intake
  rw [fetched]
  dsimp only
  rw [words, if_neg (by rw [kind, link, ready]; decide), if_neg (not_not.mpr crc), if_pos again]

theorem intake_skip (crc : SlotCrc bs) (new : fld (w.getD 0 0) 55 48 ≠ (s.ledger.alive + 255) % 256)
    (skip : fld (w.getD 0 0) 55 48 ≠ s.ledger.alive) :
    s.intake kinds = (s.bump Obj.aliveErrorTotal 1).refuseSlot w stAliveSkip (fld (w.getD 0 0) 55 48 + 256 * s.ledger.alive)
      (fld (w.getD 0 0) 55 48 + 1) := by
  unfold State.intake
  rw [fetched]
  dsimp only
  rw [words, if_neg (by rw [kind, link, ready]; decide), if_neg (not_not.mpr crc), if_neg new, if_pos skip]

theorem intake_malformed (crc : SlotCrc bs) (alive : fld (w.getD 0 0) 55 48 = s.ledger.alive)
    (bad : slotOk s.ledger.seq w = false) : s.intake kinds = s.refuseSlot w stMalformed 0 (s.ledger.alive + 1) := by
  unfold State.intake
  rw [fetched]
  dsimp only
  rw [words, if_neg (by rw [kind, link, ready]; decide), if_neg (not_not.mpr crc), if_neg (by omega), if_neg (not_not.mpr alive), bad]
  exact if_pos rfl

theorem intake_accepts {k : Kind} (crc : SlotCrc bs) (alive : fld (w.getD 0 0) 55 48 = s.ledger.alive)
    (good : slotOk s.ledger.seq w = true) (hk : kindOf (fld (w.getD 0 0) 63 56) = some k) :
    s.intake kinds = s.acceptSlot k w (s.ledger.alive + 1) := by
  unfold State.intake
  rw [fetched]
  dsimp only
  rw [words, if_neg (by rw [kind, link, ready]; decide), if_neg (not_not.mpr crc), if_neg (by omega), if_neg (not_not.mpr alive), good,
    if_neg (by decide), hk]

end

theorem lookHead_entries (s : State) (h : s.ledger.fetched = none) : s.lookHead.ledger.entries = s.ledger.entries ∧
    s.lookHead.ledger.ends = s.ledger.ends := by
  rcases lookHead_eq s h with e | e <;> rw [e] <;> exact ⟨rfl, rfl⟩

theorem takeSlot_entries (s : State) (e : Entry) (alive : Nat) : (s.takeSlot e alive).ledger.entries = s.ledger.entries ++ [e] ∧
    (s.takeSlot e alive).ledger.ends = s.ledger.ends := by
  unfold State.takeSlot
  exact lookHead_entries _ rfl

/-- A slot accepted with its dependencies good is a waiting entry (R245, R263). -/
theorem acceptSlot_waits {s : State} {k : Kind} {w : List W64} (alive : Nat) (on : s.ledger.cancelTo = false)
    (deps : s.failedDep s.ledger.seq w = none) :
    ∃ e, s.took (s.acceptSlot k w alive) .waiting alive ∧ (s.acceptSlot k w alive).ledger.entries = s.ledger.entries ++ [e] ∧
      e.kind = k ∧ e.words = w ∧
      (s.acceptSlot k w alive).ledger.ends = (if (w.getD 0 0).getLsbD 27 then s.ledger.ends ++ [s.ledger.seq] else s.ledger.ends) := by
  have taken := took_take s (slotEntry s.ledger.seq k w .waiting) alive rfl
  obtain ⟨entries, ends⟩ := takeSlot_entries s (slotEntry s.ledger.seq k w .waiting) alive
  unfold State.acceptSlot
  dsimp only
  rw [on, if_neg Bool.false_ne_true, deps]
  generalize s.takeSlot (slotEntry s.ledger.seq k w .waiting) alive = u at taken entries ends ⊢
  exact ⟨_, taken, entries, rfl, rfl, by rw [ends]⟩

/-! ### The consumed count (R253) -/

theorem takeCount_takes {s : State} {n : Nat} (run : s.ledger.st = .running ∨ s.ledger.st = .stalled) (low : s.ledger.consumed ≤ n)
    (high : n ≤ s.ledger.produced) : (s.takeCount n).ledger.consumed = n ∧ (s.takeCount n).mem = s.mem ∧
      (s.takeCount n).ledger.st = (if s.ledger.produced - n < s.num Obj.completionEntries then .running else s.ledger.st) := by
  unfold State.takeCount
  dsimp only
  rw [if_neg (by simp [low, high])]
  show (if (decide (s.ledger.st = .stalled) && decide (s.ledger.produced - n < s.num Obj.completionEntries)) = true then _ else _ : State).ledger.consumed = n ∧
    (if (decide (s.ledger.st = .stalled) && decide (s.ledger.produced - n < s.num Obj.completionEntries)) = true then _ else _ : State).mem = s.mem ∧
    (if (decide (s.ledger.st = .stalled) && decide (s.ledger.produced - n < s.num Obj.completionEntries)) = true then _ else _ : State).ledger.st = _
  by_cases room : s.ledger.produced - n < s.num Obj.completionEntries
  · rcases run with run | run
    · rw [if_neg (by simp [run]), if_pos room]
      exact ⟨rfl, rfl, run⟩
    · rw [if_pos (by simp [run, room]), if_pos room]
      exact ⟨rfl, rfl, rfl⟩
  · rw [if_neg (by simp [room]), if_neg room]
    exact ⟨rfl, rfl, rfl⟩

/-- Settles O47: the checks of a slot are passed or failed one after the other, and what is then taken is an entry. -/
theorem slotsAreFetchedCheckedAndTaken : Obligations.SlotsAreFetchedCheckedAndTaken := by
  unfold Obligations.SlotsAreFetchedCheckedAndTaken
  refine ⟨?head, ?slot, ?count⟩
  case head =>
    rintro s writes _ on run link none rfl
    have ran : headLineLoss writes false s = _ := congrArg State.lookHead (hostWrites_eq writes s)
    obtain ⟨fetched, mem⟩ := lookHead_fetches (s := { s with mem := { s.mem with
      host := writes.foldl (fun (m : MarkedMem) w => m.writeRaw w.1 w.2) s.mem.host } }) on run link none
    exact ⟨_, congrArg Host.Outcome.next ran, congrArg Mem.host mem,
      State_lookHead_same rfl _ (SameBut.mono (b := [.host, .ledger]) rfl (hostWrites_same s _)), fetched⟩
  case slot =>
    intro s bs k c w which fetched link ready words hk
    obtain ⟨kinds, ran, kind⟩ := exec_ledger s k c _ which hk
    refine ⟨fun crc alive _ good on deps => ?_, fun bad => ?_, fun crc again => ?_, fun crc new skip => ?_, fun crc alive _ bad => ?_⟩
    · obtain ⟨e, taken⟩ := acceptSlot_waits (k := k) (s.ledger.alive + 1) on deps
      exact ⟨_, e, ran.trans (congrArg Host.Outcome.next (intake_accepts fetched link ready words kind crc alive good hk)), taken⟩
    · exact ⟨_, ran.trans (congrArg Host.Outcome.next (intake_badCrc fetched link ready words kind bad)),
        took_bump s _ _ _ _ _ (took_refuse _ w _ _ _)⟩
    · exact ⟨_, ran.trans (congrArg Host.Outcome.next (intake_repeat fetched link ready words kind crc again)),
        took_bump s _ _ _ _ _ (took_refuse _ w _ _ _)⟩
    · exact ⟨_, ran.trans (congrArg Host.Outcome.next (intake_skip fetched link ready words kind crc new skip)),
        took_bump s _ _ _ _ _ (took_refuse _ w _ _ _)⟩
    · exact ⟨_, ran.trans (congrArg Host.Outcome.next (intake_malformed fetched link ready words kind crc alive bad)),
        took_refuse s w _ _ _⟩
  case count =>
    intro s n run link low high small
    have ran : consumedCountWrite n false s = (s.hostWrite (s.num Obj.completionConsumedAddr) (natLE 8 n)).takeCount n := by
      unfold consumedCountWrite
      dsimp only
      rw [Nat.mod_eq_of_lt small]
      refine (if_neg ?_).trans (if_neg (not_not.mpr link))
      show ¬ (decide (s.ledger.st = .off) || decide (s.ledger.st = .error)) = true
      rcases run with run | run <;> rw [run] <;> decide
    obtain ⟨consumed, mem, st⟩ := takeCount_takes (s := s.hostWrite (s.num Obj.completionConsumedAddr) (natLE 8 n)) run low high
    exact ⟨_, congrArg Host.Outcome.next ran, consumed, congrArg Mem.host mem, st⟩

end Sys2Proof.Proofs
end

section
/-! Copies and collectives on their channels (R248, R414 to R416). -/

set_option Elab.async false

namespace Sys2Proof.Proofs

open Sys2Proof Sys2Proof.Machine Sys2Proof.Laws

/-! ### Sectors that Felt holds stay held while others are stored -/

theorem bankOpen_putLine {s : State} {line : Nat} {l l' : FLine} (look : NMap.look s.felt.lines line = some l) (red : l'.red = l.red) (j : Nat) :
    (s.setLine line l').bankOpen j = s.bankOpen j := by
  unfold State.bankOpen
  by_cases same : j = line
  · subst same
    rw [look_putLine, look]
    dsimp only
    rw [red]
    rfl
  · rw [look_putLine_other s l' same]
    rfl

theorem stored_holds (s : State) (sn j m : Nat) : (s.stored sn).holds j m = s.holds j m := by
  unfold State.stored
  split <;> rfl

/-- A store without a mark leaves every held sector held. -/
theorem sectorPut_holds {s : State} {sn j m' : Nat} {l : FLine} {x : FSector} (m : Nat) (d : SectorData) (line : NMap.look s.felt.lines (sn / 4) = some l)
    (sect : l.sectors[sn % 4]? = some x) (h : s.holds j m' = true) : (sectorPut s sn m l { data := d, mark := none }).holds j m' = true := by
  rw [view_holds (sectorPut_view s sn m l _), stored_holds]
  unfold State.holds at h ⊢
  rw [bankOpen_putLine (l' := putSector l (sn % 4) { data := d, mark := none }) line rfl, ← sectorPut_felt s sn m j l _]
  simp only [Bool.and_eq_true] at h ⊢
  obtain ⟨serves, mark⟩ := h
  refine ⟨serves, ?_⟩
  by_cases same : j = sn
  · subst same
    rw [sectorPut_same m _ sect]
    rfl
  · rw [sectorPut_other m _ line same]
    exact mark

/-! ### Copies (R248, R293, R294) -/

/-- Every source sector of a copy can be read at once without a mark, and every destination sector written at once. -/
structure CopyAtHand (e : Entry) (s : State) : Prop where
  src : ∀ k, k < e.copyLen / 32 → if e.srcHost then (s.hostSector (e.copySrc + 32 * k)).mark = none
    else s.violationKind ((e.copySrc + 32 * k) / 32 * 32) false = none ∧ s.holds ((e.copySrc + 32 * k) / 32) mHost = true
  dst : ∀ k, k < e.copyLen / 32 → e.dstHost = true ∨ s.violationKind ((e.copyDst + 32 * k) / 32 * 32) true = none ∧
    s.writable ((e.copyDst + 32 * k) / 32) mHost = true

theorem hostSector_mem {s t : State} (h : t.mem = s.mem) (a : Nat) : t.hostSector a = s.hostSector a := by
  unfold State.hostSector
  rw [h]

/-- A state with the same memory whose held and writable sectors are still so has the copy at hand. -/
theorem CopyAtHand.keep {e : Entry} {s t : State} (h : CopyAtHand e s) (mem : t.mem = s.mem) (held : ∀ j m, s.holds j m = true → t.holds j m = true)
    (open' : ∀ j m, s.writable j m = true → t.writable j m = true) : CopyAtHand e t := by
  refine ⟨fun k hk => ?_, fun k hk => ?_⟩
  · have src := h.src k hk
    split at src
    · next host => rw [if_pos host, hostSector_mem mem]; exact src
    · next dev => rw [if_neg dev, violationKind_of_mem mem]; exact ⟨src.1, held _ _ src.2⟩
  · rw [violationKind_of_mem mem]
    exact (h.dst k hk).imp_right fun dst => ⟨dst.1, open' _ _ dst.2⟩

theorem CopyAtHand.view {e : Entry} {s t : State} (h : CopyAtHand e s) (v : OnlyRead s t) : CopyAtHand e t := by
  have mem : t.mem = s.mem := by obtain ⟨c, b, p, rfl⟩ := v; rfl
  exact h.keep mem (fun j m hj => (view_holds v j m).trans hj) fun j m hj => (view_writable v j m).trans hj

theorem setSector_mark (m : MarkedMem) (n j : Nat) (d : SectorData) (h : (m.sector j).mark = none) :
    ((m.setSector n { data := d, mark := none }).sector j).mark = none := by
  show NMap.look (NMap.del m.marks n) j = none
  by_cases same : j = n
  · exact same ▸ look_del_same _ _
  · exact (look_del_other _ _ _ same).trans h

/-- Every tile's L1 copy of a sector updated (R168). -/
def l1Updated (s : State) (sn : Nat) (bs : Bytes) (mark : Option PoisonClass) : State :=
  { s with tiles := NMap.mapVals s.tiles fun _ t => t.l1Update sn fun old => storedSector old 0 bs mark }

/-- A whole sector stored by an engine leaves the copy at hand. -/
theorem engineWrite_copies {e : Entry} {s : State} {sn : Nat} (agent : Nat) (d : SectorData) (h : CopyAtHand e s)
    (mapped : s.violationKind (sn * 32) true = none) (open' : s.writable sn mHost = true) :
    ∃ t, s.engineWrite agent mHost sn (sectorBytes d) none = (t, .ok ()) ∧ CopyAtHand e t ∧ t.ledger = s.ledger := by
  obtain ⟨accepts, port, l, x, line, sect, here, done⟩ := writable_parts open'
  have put := bankStore_puts (bs := sectorBytes d) (mark := none) accepts port line sect here done (by simp [sectorBytes, natLE])
  obtain ⟨ok, serves, tiles⟩ := bankStore_w s sn 0 (sectorBytes d) none mHost open'
  rw [put] at serves
  have ledger : (sectorPut s sn mHost l { data := bytesSector (sectorBytes d), mark := none }).ledger = s.ledger := by
    have same := State_bankStore_same (fl := ps123) rfl s sn 0 (sectorBytes d) none mHost (SameBut.refl _ s)
    rw [put] at same
    exact same .ledger (by decide)
  refine ⟨l1Updated (sectorPut s sn mHost l { data := bytesSector (sectorBytes d), mark := none }) sn (sectorBytes d) none, ?_, ?_, ledger⟩
  case refine_1 =>
    unfold State.engineWrite
    rw [mapped]
    dsimp only
    rw [put] <;> rfl
  case refine_2 =>
    have after : CopyAtHand e (sectorPut s sn mHost l { data := bytesSector (sectorBytes d), mark := none }) :=
      h.keep (sectorPut_mem _ _ _ _ _) (fun j m hj => sectorPut_holds mHost _ line sect hj) serves.1
    exact after.keep rfl (fun _ _ hj => hj) fun _ _ hj => hj

/-- Host memory replaced. -/
def hostPut (s : State) (h : MarkedMem) : State := { s with mem := { s.mem with host := h } }

theorem hostWrite_unmarked (s : State) (agent addr : Nat) (d : SectorData) : s.hostWriteSector agent addr { data := d, mark := none } =
    (hostPut s (s.mem.host.setSector (addr / 32) { data := d, mark := none }), none) := rfl

theorem hostPut_ledger (s : State) (h : MarkedMem) : (hostPut s h).ledger = s.ledger := rfl

theorem hostPut_violationKind (s : State) (h : MarkedMem) (a : Nat) (write : Bool) : (hostPut s h).violationKind a write = s.violationKind a write := by
  unfold State.violationKind State.page State.walks State.tableLost
  rfl

theorem hostPut_holds (s : State) (h : MarkedMem) (j m : Nat) : (hostPut s h).holds j m = s.holds j m := rfl

theorem hostPut_writable (s : State) (h : MarkedMem) (j m : Nat) : (hostPut s h).writable j m = s.writable j m := rfl

/-- A host sector written without a mark leaves the copy at hand. -/
theorem hostWrite_copies {e : Entry} {s : State} (agent addr : Nat) {v : SectorVal} (h : CopyAtHand e s) (mark : v.mark = none) :
    ∃ t, s.hostWriteSector agent addr v = (t, none) ∧ CopyAtHand e t ∧ t.ledger = s.ledger := by
  obtain ⟨d, _⟩ := v
  subst mark
  refine ⟨hostPut s (s.mem.host.setSector (addr / 32) { data := d, mark := none }), hostWrite_unmarked _ _ _ _,
    ⟨fun k hk => ?_, fun k hk => ?_⟩, hostPut_ledger _ _⟩
  case refine_2 =>
    rw [hostPut_violationKind, hostPut_writable]
    exact h.dst k hk
  have src := h.src k hk
  rw [hostPut_violationKind, hostPut_holds]
  split at src
  · next host =>
    rw [if_pos host]
    show Option.map _ ((s.mem.host.setSector (addr / 32) { data := d, mark := none }).sector _).mark = none
    rw [setSector_mark _ _ _ _ (Option.map_eq_none_iff.mp src)]
    rfl
  · next dev => rw [if_neg dev]; exact src

/-- A source sector at hand is read at once, without a mark. -/
theorem copySource_read {e : Entry} {s : State} (agent k : Nat) (h : CopyAtHand e s) (hk : k < e.copyLen / 32) :
    ∃ t v, (if e.srcHost then (s, .ok (s.hostSector (e.copySrc + 32 * k))) else s.engineRead agent mHost 2 ((e.copySrc + 32 * k) / 32)) =
        (t, .ok v) ∧ v.mark = none ∧ CopyAtHand e t ∧ t.ledger = s.ledger := by
  have src := h.src k hk
  split at src
  · next host => exact ⟨s, _, if_pos host, src, h, rfl⟩
  · next dev =>
    obtain ⟨mapped, held⟩ := src
    obtain ⟨x, _, mark, _, t, view, read⟩ := holds_read s ((e.copySrc + 32 * k) / 32) mHost agent held
    have ledger : t.ledger = s.ledger := by obtain ⟨c, b, p, rfl⟩ := view; rfl
    refine ⟨t, x.val, (if_neg dev).trans ?_, mark, h.view view, ledger⟩
    unfold State.engineRead
    rw [mapped]
    dsimp only
    rw [read]
    dsimp only
    rw [mark]

theorem staged_clean (s : State) (half : Nat) (addr : LogAddr) (i : Nat) (v : SectorVal) : s.staged half addr (0, .none) i v = (s, v) := by
  unfold State.staged
  split <;> rfl

/-- Sectors of a copy that are all at hand are moved one after the other. -/
theorem copySectors_moves (e : Entry) (half : Nat) (n : Nat) : ∀ (i : Nat) (s : State), i + n ≤ e.copyLen / 32 → CopyAtHand e s →
    ∃ t, State.copySectors e half { host := none, stage := (0, .none) } n i none s = (t, .ok none) ∧ t.ledger = s.ledger := by
  induction n with
  | zero => exact fun i s _ _ => ⟨s, rfl, rfl⟩
  | succ n ih =>
    intro i s bound atHand
    obtain ⟨t, v, read, mark, ready, ledger⟩ := copySource_read (collAgent half) i atHand (by omega)
    have halt : (if t.haltOn 2 then v.mark else none) = none := by rw [mark]; exact ite_self _
    unfold State.copySectors
    dsimp only
    rw [if_neg (by simp), read]
    dsimp only
    rw [staged_clean]
    dsimp only
    rw [halt]
    dsimp only
    rcases Bool.eq_false_or_eq_true e.dstHost with host | dev
    · obtain ⟨u, wrote, after, ledger'⟩ := hostWrite_copies (collAgent half) (e.copyDst + 32 * i) ready mark
      obtain ⟨w, moved, last⟩ := ih (i + 1) u (by omega) after
      rw [if_pos host, wrote]
      exact ⟨w, moved, last.trans (ledger'.trans ledger)⟩
    · obtain ⟨mapped, open'⟩ := (ready.dst i (by omega)).resolve_left (by rw [dev]; decide)
      obtain ⟨u, wrote, after, ledger'⟩ := engineWrite_copies (collAgent half) v.data ready mapped open'
      obtain ⟨w, moved, last⟩ := ih (i + 1) u (by omega) after
      rw [if_neg (by rw [dev]; decide), mark, wrote]
      exact ⟨w, moved, last.trans (ledger'.trans ledger)⟩

theorem startChannel_entry {s : State} {seq : Nat} {e : Entry} (c : Channel) (entry : s.entry seq = some e) :
    (s.startChannel seq c).entry seq = some { e with status := .running, ran := true, step := s.det.step, chan := some c } :=
  entry_adj s seq _ e entry fun _ => rfl

/-- A copy whose entry is ready takes its channel and runs. -/
theorem copyDispatch_runs {s : State} {seq h : Nat} {e : Entry} (host : Option Nat) (stage : Nat × ErrHit) (entry : s.entry seq = some e)
    (waiting : e.status = .waiting) (ready : s.ready e = true) (half : s.channelHalf = some h) (kind : e.kind = .copy) (linked : s.copyBlocked e = false) :
    copyDispatch seq host stage s =
      (s.startChannel seq { Channel.fresh h false (s.launchOf 0) with wait := true }).runCopy e h { host := host, stage := stage } := by
  unfold copyDispatch
  dsimp only
  rw [entry]
  dsimp only
  rw [kind, if_neg (by decide), waiting]
  dsimp only
  rw [ready, if_neg (by decide), half]
  exact if_neg fun on => absurd (linked.symm.trans on) (by decide)

theorem entry_seq {s : State} {seq : Nat} {e : Entry} (h : s.entry seq = some e) : e.seq = seq := by
  simpa using List.find?_some h

/-- A copy whose sectors are all at hand finishes with status 0. -/
theorem copyDispatch_finishes {s : State} {seq h : Nat} {e : Entry} (entry : s.entry seq = some e) (waiting : e.status = .waiting)
    (ready : s.ready e = true) (half : s.channelHalf = some h) (kind : e.kind = .copy) (linked : s.copyBlocked e = false) (atHand : CopyAtHand e s) :
    ∃ u : State, exec (.copyDispatch seq none (0, .none)) s = .next u.retry ∧ (u.entry seq).map (·.status) = some (.finished stOk 0 0) := by
  have started : CopyAtHand e (s.startChannel seq { Channel.fresh h false (s.launchOf 0) with wait := true }) := ⟨atHand.src, atHand.dst⟩
  obtain ⟨t, moved, ledger⟩ := copySectors_moves e h (e.copyLen / 32) 0 _ (by omega) started
  have ran : copyDispatch seq none (0, .none) s = (t.finish e.seq stOk 0 0).retry := by
    rw [copyDispatch_runs none (0, .none) entry waiting ready half kind linked]
    unfold State.runCopy
    rw [moved]
  refine ⟨_, congrArg Host.Outcome.next ran, ?_⟩
  rw [entry_seq entry, finish_entry t seq stOk 0 0 _ ((entry_of ledger seq).trans (startChannel_entry _ entry)) rfl]
  rfl

/-! ### An entry that has begun stays so -/

/-- The entry with a sequence number has run, and no longer waits. -/
def Began (seq : Nat) (s : State) : Prop := ∃ e, s.entry seq = some e ∧ e.ran = true ∧ e.status ≠ .waiting

theorem Began.same {seq : Nat} {s t : State} (h : Began seq s) (same : SameStatuses s t) : Began seq t := by
  obtain ⟨e, entry, hran, hstatus⟩ := h
  obtain ⟨f, after, status, ran⟩ := same.found entry
  exact ⟨f, after, ran.trans hran, fun w => hstatus (status.symm.trans w)⟩

theorem entry_adjEntry (s : State) (seq n : Nat) (f : Entry → Entry) (keeps : ∀ e, (f e).seq = e.seq) :
    (s.adjEntry n f).entry seq = (s.entry seq).map fun e => if e.seq = n then f e else e := by
  unfold State.entry State.adjEntry
  dsimp only
  rw [List.find?_map]
  congr 2
  funext e
  simp only [Function.comp]
  split <;> simp [keeps]

theorem Began.finish {seq : Nat} {s : State} (h : Began seq s) (n st rule detail : Nat) : Began seq (s.finish n st rule detail) := by
  obtain ⟨e, entry, ran, status⟩ := h
  have after : (s.finish n st rule detail).entry seq = _ :=
    entry_adjEntry s seq n (fun e => if e.isFinished then e else { e with status := .finished st rule (BitVec.ofNat 64 detail) })
      (fun e => by split <;> rfl)
  rw [entry] at after
  refine ⟨_, after, ?_, ?_⟩
  · dsimp only
    split
    · split
      · exact ran
      · exact ran
    · exact ran
  · dsimp only
    split
    · split
      · exact status
      · nofun
    · exact status

theorem Began.finishRetry {seq : Nat} {s : State} (h : Began seq s) (n st rule detail : Nat) : Began seq (s.finish n st rule detail).retry :=
  (h.finish n st rule detail).same (retry_statuses _)

theorem keepDefer_statuses (s t : State) : SameStatuses s (s.keepDefer t) := by
  unfold State.keepDefer
  refine sameStatuses_fold _ (fun u e => ?_) _ s
  split
  · split
    · split
      · exact (setLine_statuses u _ _).trans (bump_statuses _ _ _)
      · exact SameStatuses.refl u
    · exact SameStatuses.refl u
  · exact SameStatuses.refl u

end Sys2Proof.Proofs
end

section
/-! Collectives that begin stay begun (R248, R414 to R416). -/

set_option Elab.async false

namespace Sys2Proof.Proofs

open Sys2Proof Sys2Proof.Machine Sys2Proof.Laws

/-! ### Reads and writes of the engines -/

theorem engineRead_statuses (s : State) (agent cls consumer sn : Nat) : SameStatuses s (s.engineRead agent cls consumer sn).1 := by
  have read := bankRead_statuses s sn cls agent
  unfold State.engineRead
  split
  · exact violation_statuses _ _ _ _
  split
  · next h => rw [h] at read; exact read
  · next h =>
    rw [h] at read
    split
    · split
      · exact read.trans (poisonHalted_statuses _ agent (some (0, sn * 32)) 0 consumer _)
      · exact read
    · exact read

theorem engineReads_statuses (agent cls consumer n : Nat) : ∀ (sn : Nat) (s : State),
    SameStatuses s (State.engineReads agent cls consumer n sn s).1 := by
  induction n with
  | zero => exact fun sn s => SameStatuses.refl s
  | succ n ih =>
    intro sn s
    have read := engineRead_statuses s agent cls consumer sn
    unfold State.engineReads
    split
    · next t v h =>
      rw [h] at read
      have rest := ih (sn + 1) t
      split
      · next h => rw [h] at rest; exact read.trans rest
      · exact read.trans rest
    · next h => rw [h] at read; exact read
    · next h => rw [h] at read; exact read

theorem engineWrite_statuses (s : State) (agent cls sn : Nat) (bs : Bytes) (mark : Option PoisonClass) :
    SameStatuses s (s.engineWrite agent cls sn bs mark).1 := by
  have stored : SameStatuses s (s.bankStore sn 0 bs mark cls).1 :=
    sameStatuses_same (State_bankStore_same (fl := ps123) rfl s _ _ _ _ _ (SameBut.refl _ s))
  unfold State.engineWrite
  split
  · exact violation_statuses _ _ _ _
  split
  · next h => rw [h] at stored; exact stored
  · next h => rw [h] at stored; exact stored.trans rfl

theorem engineWrites_statuses (agent cls : Nat) (l : List (Nat × Bytes × Option PoisonClass)) : ∀ s : State,
    SameStatuses s (State.engineWrites agent cls l s).1 := by
  induction l with
  | nil => exact SameStatuses.refl
  | cons w l ih =>
    intro s
    obtain ⟨sn, bs, mark⟩ := w
    have wrote := engineWrite_statuses s agent cls sn bs mark
    unfold State.engineWrites
    split
    · next h => rw [h] at wrote; exact wrote.trans (ih _)
    · exact wrote

theorem engineWrites_leaves {agent cls : Nat} {l : List (Nat × Bytes × Option PoisonClass)} {s t : State} {r : ChanRes Unit}
    (h : State.engineWrites agent cls l s = (t, r)) : SameStatuses s t := by
  have all := engineWrites_statuses agent cls l s
  rw [h] at all
  exact all

/-- Sectors that Felt holds are read one after the other, without a wait. -/
theorem engineReads_held (agent cls consumer n : Nat) : ∀ (sn : Nat) (s : State),
    (∀ j, sn ≤ j ∧ j < sn + n → s.violationKind (j * 32) false = none ∧ s.holds j cls = true) →
    ∃ t l, OnlyRead s t ∧ State.engineReads agent cls consumer n sn s = (t, .ok l) ∧
      (l.flatMap fun v => sectorBytes v.data) = s.heldBytes sn n := by
  induction n with
  | zero => exact fun sn s _ => ⟨s, [], OnlyRead.refl s, rfl, rfl⟩
  | succ n ih =>
    intro sn s held
    obtain ⟨mapped, here⟩ := held sn ⟨Nat.le_refl sn, by omega⟩
    obtain ⟨x, sector, mark, _, t, view, read⟩ := holds_read s sn cls agent here
    obtain ⟨u, l, view', rest, bytes⟩ := ih (sn + 1) t fun j hj => by
      rw [view_violationKind view, view_holds view]
      exact held j ⟨by omega, by omega⟩
    have first : s.engineRead agent cls consumer sn = (t, .ok x.val) := by
      unfold State.engineRead
      rw [mapped]
      dsimp only
      rw [read]
      dsimp only
      rw [mark]
    refine ⟨u, x.val :: l, view.trans view', ?_, ?_⟩
    · unfold State.engineReads
      rw [first]
      dsimp only
      rw [rest]
    · have shifted : ∀ k, t.feltSector (sn + 1 + k) = s.feltSector (sn + (k + 1)) := fun k => by
        rw [view_felt view, Nat.add_assoc, Nat.add_comm 1 k]
      rw [List.flatMap_cons, bytes]
      unfold State.heldBytes
      rw [List.range_succ_eq_map, List.flatMap_cons, List.flatMap_map]
      simp only [shifted, Nat.add_zero, sector]
      rfl

/-! ### The end of a collective -/

theorem event_statuses (s : State) (code seq detail : Nat) : SameStatuses s (s.event code seq detail) := by
  unfold State.event
  exact sameStatuses_ite (sameStatuses_ite rfl rfl) rfl

theorem raiseSat_statuses (s : State) (agent seq : Nat) (dst : LogAddr) (sat elements : Nat) : SameStatuses s (s.raiseSat agent seq dst sat elements) := by
  have marked : ∀ t : State, SameStatuses t (if agent < 64 then t.adjTile agent fun x => { x with satLog := some t.now } else t.limitMark (0x210100 + agent)) :=
    fun t => sameStatuses_ite rfl rfl
  unfold State.raiseSat
  extract_lets s1 first s2 s3
  have noted : SameStatuses s s2 := SameStatuses.trans (bump_statuses s _ _) (sameStatuses_ite (event_statuses _ _ _ _) (SameStatuses.refl _))
  have counted : SameStatuses s s3 := noted.trans (adjEntry_statuses s2 seq _ fun _ => ⟨rfl, rfl, rfl⟩)
  exact counted.trans (sameStatuses_ite ((marked s3).trans (log_statuses _ _ _ _ _ _)) (bump_statuses _ _ _))

theorem collScale_statuses (s : State) (c : Channel) (step : W64) : SameStatuses s (s.collScale c step).1 := by
  have reads := engineReads_statuses (collAgent c.half) (mColl c.half) 3 4 (c.cdesc.histAddr.addr / 32) s
  unfold State.collScale
  dsimp only
  split
  · split
    · next h => rw [h] at reads; exact reads
    · next h => rw [h] at reads; exact reads
    · next h =>
      rw [h] at reads
      split
      · exact reads.trans (logFault_statuses _ _ _ _ _ _ _)
      · split
        · exact reads
        · split <;> exact reads
  · split <;> exact SameStatuses.refl s

theorem collConvert_statuses (s : State) (seq : Nat) (c : Channel) (step : W64) (res : List SectorVal) :
    SameStatuses s (s.collConvert seq c step res).1 := by
  unfold State.collConvert
  dsimp only
  split
  · exact logFault_statuses _ _ _ _ _ _ _
  have scaled := collScale_statuses s c step
  split
  · next h => rw [h] at scaled; exact scaled
  · next h => rw [h] at scaled; exact scaled
  · next t whole empty hist h =>
    rw [h] at scaled
    split
    · next u _ h =>
      have wrote : SameStatuses s u := scaled.trans (engineWrites_leaves h)
      dsimp only
      split
      · exact wrote.trans (SameStatuses.trans rfl (raiseSat_statuses _ _ _ _ _ _))
      · exact wrote.trans rfl
    · exact scaled.trans (engineWrites_statuses _ _ _ _)

/-- What a collective writes of its result: it converts it or stores it as it is. -/
def collWritten (s : State) (e : Entry) (c : Channel) : State × ChanRes Unit :=
  if c.cvt then (s.collResult c).1.collConvert e.seq c e.step (s.collResult c).2
  else State.engineWrites (collAgent c.half) (mColl c.half)
    (((s.collResult c).2.zip (List.range (s.collResult c).2.length)).map fun x => (c.dst / 32 + x.2, sectorBytes x.1.data, x.1.mark)) (s.collResult c).1

theorem collWritten_statuses (s : State) (e : Entry) (c : Channel) : SameStatuses s (collWritten s e c).1 := by
  have result : SameStatuses s (s.collResult c).1 := sameStatuses_same (State_collResult_same (fl := ps31) rfl s c (SameBut.refl _ s))
  unfold collWritten
  split
  · exact result.trans (collConvert_statuses _ _ _ _ _)
  · exact result.trans (engineWrites_statuses _ _ _ _)

theorem Began.endColl {seq : Nat} {s : State} (h : Began seq s) (e : Entry) (c : Channel) : Began seq (s.endColl e c) := by
  have wrote := collWritten_statuses s e c
  have rest : Began seq (match collWritten s e c with
      | (t, .wait) => s.keepDefer t
      | (t, .ends st d) => (t.finish e.seq st 0 d).retry
      | (t, .ok _) => (t.finish e.seq stOk 0 0).retry) := by
    generalize collWritten s e c = w at wrote ⊢
    obtain ⟨t, r⟩ := w
    cases r with
    | ok v => exact (h.same wrote).finishRetry _ _ _ _
    | wait => exact h.same (keepDefer_statuses s t)
    | ends st d => exact (h.same wrote).finishRetry _ _ _ _
  unfold State.endColl
  split
  · exact h.finish _ _ _ _
  · exact rest

theorem stepColl_statuses (steps : List CStep) (n : Nat) (c : Channel) (s : State) : SameStatuses s (State.stepColl steps n c s).2 :=
  sameStatuses_same (State_stepColl_same (fl := ps33) rfl steps n c s (SameBut.refl _ s))

/-- A collective that goes on leaves its entry begun. -/
theorem Began.runColl {seq : Nat} {s : State} (h : Began seq s) (n : Nat) (c : Channel) : Began seq (s.runColl n c) := by
  have stepped := stepColl_statuses (c.steps s.treeOrder) ((c.steps s.treeOrder).length + 1) c s
  unfold State.runColl
  dsimp only
  generalize State.stepColl (c.steps s.treeOrder) ((c.steps s.treeOrder).length + 1) c s = r at stepped ⊢
  have noted := (h.same stepped).same (adjEntry_statuses r.2 n (fun e => { e with chan := some r.1 }) fun _ => ⟨rfl, rfl, rfl⟩)
  split
  · exact noted
  · split
    · exact noted.endColl _ _
    · exact noted

/-! ### A RECV (R414, R416) -/

/-- The check of a partner reads the ports' states and functions. -/
theorem partnerFault_same {s t : State} (funcs : t.func = s.func) (peers : t.peer = s.peer) (c : Channel) (r : Nat) :
    t.partnerFault c r = s.partnerFault c r := by
  unfold State.partnerFault State.portOf
  rw [funcs, peers]

theorem treeOrder_view {s t : State} (view : OnlyRead s t) : t.treeOrder = s.treeOrder := congrArg (· == 1) (view_num view Obj.collectiveOrder)

theorem partnerFault_view {s t : State} (view : OnlyRead s t) (c : Channel) (r : Nat) : t.partnerFault c r = s.partnerFault c r := by
  obtain ⟨x, y, z, rfl⟩ := view
  exact partnerFault_same rfl rfl c r

/-- A RECV has no data of its own to load. -/
theorem recv_ownsNothing {n : Nat} (h : n = 5) (b : Bool) :
    (!(decide (n ≤ 1) || decide (n = 2) || decide (n = 4) || (decide (n = 3) && b))) = true := by
  subst h
  rfl

/-- The request of a RECV whose ranks are good is loaded without data of its own. -/
theorem loadColl_recv {s : State} {e : Entry} {c0 c : Channel} {a : Nat} {tab : List W64} (stage : Nat × ErrHit)
    (hc : c = { c0 with words := bytesWords (s.heldBytes (fld (e.word 3) 56 0 / 32) 4) }) (form : c.formOk = true) (recv : c.cop = 5)
    (ha : a = fld (c.w 5) 56 0 / 32) (htab : tab = (bytesWords (s.heldBytes a ((c.nranks * 8 + 31) / 32))).take c.nranks) (ranks : rankTabOk tab = true)
    (partners : ∀ r ∈ ({ c with ranks := tab.map rankEntry } : Channel).partners s.treeOrder, s.partnerFault { c with ranks := tab.map rankEntry } r = none)
    (held : ∀ sn, (fld (e.word 3) 56 0 / 32 ≤ sn ∧ sn < fld (e.word 3) 56 0 / 32 + 4) ∨ (a ≤ sn ∧ sn < a + (c.nranks * 8 + 31) / 32) →
      s.violationKind (sn * 32) false = none ∧ s.holds sn (mColl c0.half) = true) :
    ∃ t, OnlyRead s t ∧ s.loadColl e c0 stage = (t, .ok { c with ranks := tab.map rankEntry }) := by
  subst ha hc
  obtain ⟨t, l, view, first, bytes⟩ := engineReads_held (collAgent c0.half) (mColl c0.half) 3 4 (fld (e.word 3) 56 0 / 32) s
    fun j hj => held j (.inl hj)
  obtain ⟨u, l', view', second, bytes'⟩ := engineReads_held (collAgent c0.half) (mColl c0.half) 3 _ _ t
    fun j hj => by
      rw [view_violationKind view, view_holds view]
      exact held j (.inr hj)
  have views := view.trans view'
  have again : ∀ a n, t.heldBytes a n = s.heldBytes a n := fun a n => by
    unfold State.heldBytes
    simp only [view_felt view]
  refine ⟨u, views, ?_⟩
  unfold State.loadColl
  dsimp only
  rw [first]
  dsimp only
  rw [bytes, form, if_neg (by decide), second]
  dsimp only
  rw [bytes', again, ← htab, ranks, if_neg (by decide), treeOrder_view views]
  rw [List.filterMap_eq_nil_iff.mpr fun r hr => (partnerFault_view views _ r).trans (partners r hr)]
  dsimp only [List.head?]
  exact if_pos (recv_ownsNothing recv _)

end Sys2Proof.Proofs
end

section
/-! Entries are dispatched, complete, are saved and limited (R246, R252 to R256, R258 to R262). -/

set_option Elab.async false

namespace Sys2Proof.Proofs

open Sys2Proof Sys2Proof.Machine Sys2Proof.Laws

/-! ### Dispatch -/

/-- A ready kernel that the rules accept is dispatched by the policy in force (R255, R256). -/
theorem kernelDispatch_accepted {s : State} {seq : Nat} {e : Entry} (entry : s.entry seq = some e) (kind : e.kind = .kernel) (waiting : e.status = .waiting)
    (ready : s.ready e = true) (accepted : s.launchRefusal e (s.launchOf (e.word 7)) = none) :
    kernelDispatch seq s = if s.fixedPolicy then s.dispatchFixed e (s.launchOf (e.word 7))
      else if s.yields e then s
      else if (s.launchOf (e.word 7)).coop then s.dispatchCoop e (s.launchOf (e.word 7)) else s.dispatchNormal e (s.launchOf (e.word 7)) := by
  unfold kernelDispatch
  rw [entry]
  dsimp only
  rw [if_neg (by rw [kind]; decide), waiting, ready]
  dsimp only
  rw [if_neg (by decide), accepted]

theorem kernelDispatch_grows {s : State} {seq : Nat} {e : Entry} {k : Kernel} (entry : s.entry seq = some e) (kind : e.kind = .kernel)
    (running : e.status = .running) (kern : e.kern = some k) (goes : s.held = false) (first : s.yields e = false) :
    kernelDispatch seq s = s.growKernel e k := by
  unfold kernelDispatch
  rw [entry]
  dsimp only
  rw [if_neg (by rw [kind]; decide), running, kern]
  dsimp only
  rw [if_neg (by rw [goes, first]; decide)]

theorem dispatchNormal_starts {s : State} {e : Entry} {l : Launch} {p : List Nat} {ps : List (List Nat)}
    (free : (s.freePlaces e.seq e.clusterSize).take (min (s.tileLimit e / e.clusterSize) (unitsOf e.gridBlocks e.clusterSize)) = p :: ps) :
    s.dispatchNormal e l = (s.startKernel e l).takePlaces e.seq l.splitKib (p :: ps) := by
  unfold State.dispatchNormal
  dsimp only
  rw [free]

theorem dispatchCoop_starts {s : State} {e : Entry} {l : Launch} {ps : List (List Nat)}
    (free : (s.freePlaces e.seq e.clusterSize).take (e.coopNeed l) = ps) (enough : e.coopNeed l ≤ ps.length) :
    s.dispatchCoop e l = ((s.startKernel e l).takePlaces e.seq l.splitKib ps).adjKernel e.seq fun k =>
      { k with places := ps, next := k.grid, plan := gridPlan k.grid k.clSize ps } := by
  unfold State.dispatchCoop
  dsimp only
  rw [free, if_neg (Nat.not_lt.mpr enough)]

theorem dispatchFixed_starts {s : State} {e : Entry} (l : Launch) (turn : s.partTurn e = true)
    (free : (s.partPlaces e).all (fun p => p.all (s.tileFree e.seq)) = true) :
    s.dispatchFixed e l = ((s.startKernel e l).takePlaces e.seq l.splitKib (s.partPlaces e)).adjKernel e.seq fun k =>
      { k with places := s.partPlaces e, next := if l.coop then k.grid else 0, plan := if l.coop then gridPlan k.grid k.clSize (s.partPlaces e) else [] } := by
  unfold State.dispatchFixed
  dsimp only
  rw [turn, free, if_neg (by decide)]

/-- The state that a collective starts in: its channel stands, and its first step is on its way. -/
def collBegun (s : State) (seq : Nat) (c : Channel) : State :=
  match (c.steps (s.startChannel seq c).treeOrder)[0]? with
  | some x => (s.startChannel seq c).sendStep c x
  | none => s.startChannel seq c

theorem collectiveDispatch_loads {s t : State} {seq h : Nat} {e : Entry} {c : Channel} {stage : Nat × ErrHit} (entry : s.entry seq = some e)
    (waiting : e.status = .waiting) (ready : s.ready e = true) (half : s.channelHalf = some h) (kind : e.kind = .collective)
    (rule : s.collRule (s.launchOf (e.word 7)) = 0)
    (loaded : (s.startChannel seq (Channel.fresh h true (s.launchOf (e.word 7)))).loadColl e (Channel.fresh h true (s.launchOf (e.word 7))) stage =
      (t, .ok c)) :
    collectiveDispatch seq stage s = (collBegun t seq c).runColl seq c := by
  unfold collectiveDispatch
  rw [entry]
  dsimp only
  rw [if_neg (by rw [kind]; decide), waiting, ready]
  dsimp only
  rw [if_neg (by decide), if_neg (by rw [rule]; decide), half]
  dsimp only
  rw [loaded] <;> rfl

theorem collectiveDispatch_goesOn {s : State} {seq : Nat} {e : Entry} {c : Channel} (stage : Nat × ErrHit) (entry : s.entry seq = some e)
    (running : e.status = .running) (kind : e.kind = .collective) (chan : e.chan = some c) :
    collectiveDispatch seq stage s = s.runColl seq c := by
  unfold collectiveDispatch
  rw [entry]
  dsimp only
  rw [if_neg (by rw [kind]; decide), running, chan]

theorem collBegun_began {s : State} {seq : Nat} {e : Entry} (c : Channel) (entry : s.entry seq = some e) : Began seq (collBegun s seq c) := by
  have started : Began seq (s.startChannel seq c) := ⟨_, startChannel_entry c entry, rfl, by simp⟩
  unfold collBegun
  split
  · exact started.same (sameStatuses_same (State_sendStep_same (fl := ps12) rfl _ _ _ (SameBut.refl _ _)))
  · exact started

/-- A RECV whose request and ranks are good begins. -/
theorem recv_begins {s : State} {seq h a : Nat} {e : Entry} {c : Channel} {tab : List W64} (entry : s.entry seq = some e) (waiting : e.status = .waiting)
    (ready : s.ready e = true) (half : s.channelHalf = some h) (kind : e.kind = .collective) (rule : s.collRule (s.launchOf (e.word 7)) = 0)
    (hc : c = { Channel.fresh h true (s.launchOf (e.word 7)) with words := bytesWords (s.heldBytes (fld (e.word 3) 56 0 / 32) 4) })
    (form : c.formOk = true) (recv : c.cop = 5) (ha : a = fld (c.w 5) 56 0 / 32)
    (htab : tab = (bytesWords (s.heldBytes a ((c.nranks * 8 + 31) / 32))).take c.nranks) (ranks : rankTabOk tab = true)
    (partners : ∀ r ∈ ({ c with ranks := tab.map rankEntry } : Channel).partners s.treeOrder, s.partnerFault { c with ranks := tab.map rankEntry } r = none)
    (held : ∀ sn, (fld (e.word 3) 56 0 / 32 ≤ sn ∧ sn < fld (e.word 3) 56 0 / 32 + 4) ∨ (a ≤ sn ∧ sn < a + (c.nranks * 8 + 31) / 32) →
      s.violationKind (sn * 32) false = none ∧ s.holds sn (mColl h) = true) :
    Began seq (collectiveDispatch seq (0, .none) s) := by
  obtain ⟨t, view, loaded⟩ := loadColl_recv (s := s.startChannel seq (Channel.fresh h true (s.launchOf (e.word 7)))) (e := e) (0, .none)
    hc form recv ha htab ranks partners held
  have there : t.entry seq = (s.startChannel seq (Channel.fresh h true (s.launchOf (e.word 7)))).entry seq := by
    obtain ⟨x, y, z, rfl⟩ := view
    rfl
  rw [collectiveDispatch_loads entry waiting ready half kind rule loaded]
  exact (collBegun_began _ (there.trans (startChannel_entry _ entry))).runColl _ _

/-! ### Completion records -/

theorem settleEntry_finished {s : State} {e : Entry} {st rule : Nat} {detail : W64} (h : e.status = .finished st rule detail) : s.settleEntry e = s :=
  if_pos (by rw [h]; rfl)

theorem entryComplete_records {s : State} {seq st rule : Nat} {detail : W64} {e : Entry} (entry : s.entry seq = some e)
    (finished : e.status = .finished st rule detail) (kept : s.ledger.discard = false) (open' : s.ringOpen = true) (room : s.ringRoom = true)
    (first : s.ledger.order.head? = some seq) :
    entryComplete seq false s = ((s.putRecord
      { phase := true, type := 0, code := st, rule := rule, sats := e.sats, seq := seq, tag := e.word 1, detail := detail, time := 0 }).irqEntry).closeEntry e st := by
  unfold entryComplete
  rw [entry]
  dsimp only
  rw [settleEntry_finished finished, entry]
  dsimp only
  rw [finished]
  dsimp only
  rw [if_neg (by rw [kept]; decide), if_neg (by rw [open', first]; simp), if_neg (by rw [room]; decide), if_neg (by decide)]

/-- The bytes of a record at the ring's next place (R254). -/
def recordBytes (s : State) (r : Record) : Bytes :=
  ({ r with phase := s.ledger.produced / max 1 (s.num Obj.completionEntries) % 2 == 0, time := s.now } : Record).bytes

/-- The state with a record written at the ring's next place. -/
def recordPut (s : State) (r : Record) : State :=
  let host := s.hostWrite s.recordAddrNext (recordBytes s r)
  { host with ledger := { s.ledger with produced := s.ledger.produced + 1 } }

theorem hostWrite_host (s : State) (addr : Nat) (bs : Bytes) : (s.hostWrite addr bs).mem.host = s.mem.host.writeRaw addr bs := rfl

theorem stall_ledger (s : State) : s.stall.mem = s.mem ∧ s.stall.ledger.events = s.ledger.events ∧ s.stall.ledger.produced = s.ledger.produced := by
  unfold State.stall
  split <;> exact ⟨rfl, rfl, rfl⟩

theorem putRecord_ledger (s : State) (r : Record) : (s.putRecord r).mem = (s.hostWrite s.recordAddrNext (recordBytes s r)).mem ∧
    (s.putRecord r).ledger.events = s.ledger.events ∧
    (s.putRecord r).ledger.produced = s.ledger.produced + 1 := by
  have put : s.putRecord r = if (recordPut s r).ringRoom then recordPut s r else (recordPut s r).stall := rfl
  rw [put]
  split
  · exact ⟨rfl, rfl, rfl⟩
  · obtain ⟨mem, events, produced⟩ := stall_ledger (recordPut s r)
    exact ⟨mem, events, produced⟩

theorem eventRecord_writes {s : State} {r : Record} {l : List Record} (events : s.ledger.events = r :: l)
    (enabled : s.isOn Obj.completionEventEnable = true) (open' : s.ringOpen = true) (room : s.ringRoom = true) :
    eventRecord false s = ({ s.putRecord r with ledger := { (s.putRecord r).ledger with events := l } } : State).sendIrq 1 := by
  unfold eventRecord
  rw [events]
  dsimp only
  rw [if_neg (by rw [enabled]; decide), if_neg (by rw [open']; decide), if_neg (by rw [room]; decide), if_neg (by decide)]

theorem eventSent (s : State) (l : List Record) : (({ s with ledger := { s.ledger with events := l } } : State).sendIrq 1).ledger.events = l ∧
    (({ s with ledger := { s.ledger with events := l } } : State).sendIrq 1).ledger.produced = s.ledger.produced ∧
    (({ s with ledger := { s.ledger with events := l } } : State).sendIrq 1).mem = s.mem := by
  obtain ⟨mem, left, produced⟩ := sendIrq_ledger { s with ledger := { s.ledger with events := l } } 1
  exact ⟨left, produced, mem⟩

/-! ### Tiles that are saved for another entry (R258, R259) -/

/-- No kernel waits for its run-time limit to apply after a save. -/
def NoLimitDue (s : State) : Prop := ∀ e ∈ s.ledger.entries, ∀ k, e.kern = some k → k.limitDue = false

theorem NoLimitDue.settled {s : State} (h : NoLimitDue s) : s.settleLimits = s := by
  have none : ∀ (l : List Entry), (∀ e ∈ l, ∀ k, e.kern = some k → k.limitDue = false) → ∀ t : State,
      l.foldl (fun (t : State) e => match e.status, e.kern with
        | .running, some k => if k.limitDue && !t.limitHeld e.seq k then t.stopForLimit e.seq else t
        | _, _ => t) t = t := by
    intro l
    induction l with
    | nil => exact fun _ _ => rfl
    | cons e l ih =>
      intro due t
      rw [List.foldl_cons]
      have same : (match e.status, e.kern with
          | .running, some k => if k.limitDue && !t.limitHeld e.seq k then t.stopForLimit e.seq else t
          | _, _ => t) = t := by
        split
        · next k _ kern => exact if_neg (by rw [due e (List.mem_cons_self ..) k kern, Bool.false_and]; decide)
        · rfl
      rw [same]
      exact ih (fun x hx => due x (List.mem_cons_of_mem _ hx)) t
  exact none _ h s

theorem NoLimitDue.adjKernel {s : State} (h : NoLimitDue s) (seq : Nat) (f : Kernel → Kernel) (keeps : ∀ k, (f k).limitDue = k.limitDue) :
    NoLimitDue (s.adjKernel seq f) := by
  intro e mem k kern
  obtain ⟨x, old, rfl⟩ := List.mem_map.mp mem
  split at kern
  · obtain ⟨k', was, rfl⟩ := Option.map_eq_some_iff.mp kern
    exact (keeps k').trans (h x old k' was)
  · exact h x old k kern

theorem NoLimitDue.tickBars {s : State} (h : NoLimitDue s) (n : Nat) : NoLimitDue (s.tickBars n) := by
  intro e mem k kern
  obtain ⟨x, old, rfl⟩ := List.mem_map.mp mem
  obtain ⟨k', was, rfl⟩ := Option.map_eq_some_iff.mp kern
  exact h x old k' was

theorem NoLimitDue.same {s t : State} (h : NoLimitDue s) (same : t.ledger.entries = s.ledger.entries) : NoLimitDue t := by
  unfold NoLimitDue
  rw [same]
  exact h

theorem chargeSave_ledger (s : State) (half bytes : Nat) : (s.chargeSave half bytes).ledger = s.ledger :=
  State_chargeSave_same (fl := ps29) rfl s _ _ (SameBut.refl _ s) .ledger (by decide)

/-- A saved tile before its owner's list of tiles is cut. -/
def savedTile (s : State) (n : Nat) : State :=
  let u := s.tickBars n
  let bs := (u.tile n).blocks
  let bytes := (bs.map Block.saveBytes).foldl (· + ·) 0
  let v := u.chargeSave (u.halfOfTile n) bytes
  let w : State := { v with ledger := { v.ledger with
    saved := v.ledger.saved ++ bs, savedB := v.ledger.savedB + bytes
    victims := v.ledger.victims.filter fun x => x.1 != n } }
  (w.bump Obj.preemptTotal bs.length).adjTile n fun t => { t with blocks := [], alloc := none }

theorem saved_eq (s : State) (n : Nat) : s.saved n = match ((s.tickBars n).tile n).alloc with
    | some v => (savedTile s n).adjKernel v fun k => { k with tiles := k.tiles.filter fun x => x != n }
    | none => savedTile s n := rfl

theorem savedTile_entries (s : State) (n : Nat) : (savedTile s n).ledger.entries = (s.tickBars n).ledger.entries := by
  have same := congrArg (fun l : Ledger => l.entries) (chargeSave_ledger (s.tickBars n) ((s.tickBars n).halfOfTile n)
    ((((s.tickBars n).tile n).blocks.map Block.saveBytes).foldl (· + ·) 0))
  exact same

theorem NoLimitDue.saved {s : State} (h : NoLimitDue s) (n : Nat) : NoLimitDue (s.saved n) := by
  have ticked := h.tickBars n
  have tile : NoLimitDue (savedTile s n) := ticked.same (savedTile_entries s n)
  rw [saved_eq]
  split
  · exact tile.adjKernel _ _ fun _ => rfl
  · exact tile

/-- Tile `tile` holds no block, is no victim of `seq`, and the blocks `bs` are saved. -/
def Vacated (tile seq : Nat) (bs : List Block) (t : State) : Prop :=
  (t.tile tile).blocks = [] ∧ (tile, seq) ∉ t.ledger.victims ∧ ∀ b ∈ bs, b ∈ t.ledger.saved

theorem Vacated.keep {tile seq : Nat} {bs : List Block} {s t : State} (h : Vacated tile seq bs s) (blocks : (t.tile tile).blocks = (s.tile tile).blocks)
    (victims : t.ledger.victims = s.ledger.victims) (saved : t.ledger.saved = s.ledger.saved) : Vacated tile seq bs t := by
  unfold Vacated
  rw [blocks, victims, saved]
  exact h

theorem saved_vacates (s : State) (tile seq : Nat) : Vacated tile seq ((s.tickBars tile).tile tile).blocks (s.saved tile) := by
  have vacant : Vacated tile seq ((s.tickBars tile).tile tile).blocks (savedTile s tile) := by
    refine ⟨by unfold savedTile; rw [tile_adjTile], fun mem => ?_, fun b mem => List.mem_append_right _ mem⟩
    have other := (List.mem_filter.mp mem).2
    simp at other
  rw [saved_eq]
  split
  · exact vacant.keep rfl rfl rfl
  · exact vacant

theorem Vacated.startKernel {tile seq : Nat} {bs : List Block} {s : State} (h : Vacated tile seq bs s) (e : Entry) (l : Launch) :
    Vacated tile seq bs (s.startKernel e l) := h.keep rfl rfl rfl

theorem allocTile_blocks (s : State) (seq split n m : Nat) : ((s.allocTile seq split n).tile m).blocks = (s.tile m).blocks := by
  unfold State.allocTile
  rw [tile_of_same (State_wakeTile_same (fl := ps42) rfl _ n (SameBut.refl _ _)) (by decide)]
  by_cases same : m = n
  · rw [same, tile_adjTile]
  · rw [tile_adjTile_other _ _ _ _ same]

theorem Vacated.takePlaces {tile seq : Nat} {bs : List Block} {s : State} (h : Vacated tile seq bs s) (n split : Nat) (l : List (List Nat)) :
    Vacated tile seq bs (s.takePlaces n split l) := by
  have all : ∀ (ts : List Nat) (s : State), Vacated tile seq bs s → Vacated tile seq bs (ts.foldl (fun (t : State) m => t.allocTile n split m) s) := by
    intro ts
    induction ts with
    | nil => exact fun s h => h
    | cons m ts ih =>
      intro s h
      have ledger : (s.allocTile n split m).ledger = s.ledger :=
        State_allocTile_same (fl := ps81) rfl s n split m (SameBut.refl _ s) .ledger (by decide)
      exact ih _ (h.keep (allocTile_blocks s n split m tile) (congrArg Ledger.victims ledger) (congrArg Ledger.saved ledger))
  exact (all l.flatten s h).keep rfl rfl rfl

theorem preemptSaveComplete_saves {s : State} {seq tile : Nat} (victim : s.ledger.victims.contains (tile, seq) = true) (quiet : s.saveReady tile = true)
    (calm : NoLimitDue s) : Vacated tile seq ((s.tickBars tile).tile tile).blocks (preemptSaveComplete seq tile s) := by
  have vacant := saved_vacates s tile seq
  have given : Vacated tile seq ((s.tickBars tile).tile tile).blocks
      { s.saved tile with ledger := { (s.saved tile).ledger with reserve := (s.saved tile).ledger.reserve ++ [(tile, seq)] } } := vacant.keep rfl rfl rfl
  unfold preemptSaveComplete
  rw [if_neg (by rw [victim, quiet]; decide), (calm.saved tile).settled]
  dsimp only
  generalize s.saved tile = v at vacant given ⊢
  split
  · exact vacant
  · split
    · exact vacant
    split
    · split
      · exact (given.startKernel _ _).takePlaces _ _ _
      · exact given
    · exact given.takePlaces _ _ _
    · exact given
    · exact given

theorem preemptSaveComplete_starts {s v u : State} {seq tile : Nat} {e : Entry} {p : List Nat} (victim : s.ledger.victims.contains (tile, seq) = true)
    (quiet : s.saveReady tile = true) (hv : (s.saved tile).settleLimits = v) (entry : v.entry seq = some e) (open' : e.isFinished = false)
    (hu : ({ v with ledger := { v.ledger with reserve := v.ledger.reserve ++ [(tile, seq)] } } : State) = u)
    (place : ((u.places e.clusterSize).find? fun p => p.contains tile && p.all (u.tileFree seq)) = some p) (waiting : e.status = .waiting)
    (ready : u.ready e = true) :
    preemptSaveComplete seq tile s = (u.startKernel e (u.launchOf (e.word 7))).takePlaces seq (u.launchOf (e.word 7)).splitKib [p] := by
  unfold preemptSaveComplete
  rw [if_neg (by rw [victim, quiet]; decide), hv]
  dsimp only at hu ⊢
  rw [entry]
  dsimp only
  rw [if_neg (by rw [open']; decide), hu, place, waiting]
  exact if_pos ready

theorem blockRestore_puts {s : State} {seq tile : Nat} {e : Entry} {k : Kernel} {b : Block} {p : List Nat} (entry : s.entry seq = some e)
    (kern : e.kern = some k) (lowest : lowestBlock (s.ledger.saved.filter fun b => b.seq == seq) = some b) (goes : s.held = false) (first : s.yields e = false)
    (place : ((s.places k.clSize).find? fun p => p.contains tile) = some p)
    (own : ∀ n ∈ p, (s.tile n).alloc = some seq ∧ s.hasRoom k n = true) :
    blockRestore seq tile s = (s.ledger.saved.filter fun x => x.seq == seq && x.cluster == b.cluster).foldl
      (fun (t : State) x => t.restoreBlock x (p.getD x.rank 0)) s := by
  have mine : (p.all fun n => (s.tile n).alloc == some seq) = true := List.all_eq_true.mpr fun n hn => by rw [(own n hn).1]; exact beq_self_eq_true _
  have room : (p.all fun n => (s.tile n).alloc == some seq && s.hasRoom k n) = true := List.all_eq_true.mpr fun n hn => by
    rw [(own n hn).1, (own n hn).2, beq_self_eq_true]
    rfl
  unfold blockRestore
  rw [entry]
  dsimp only
  rw [kern, lowest]
  dsimp only
  rw [if_neg (by rw [goes, first]; decide), place]
  dsimp only
  rw [if_pos mine, if_neg (by rw [room]; decide)]

/-! ### Run-time limits (R262) -/

/-- A stopped kernel before it is settled. -/
def limitStopped (s : State) (seq : Nat) : State :=
  let t := s.adjKernel seq fun k => { k with timedOut := true, limitDue := false, halted := true, plan := [] }
  let u : State := { t with ledger := { t.ledger with
    saved := t.ledger.saved.filter fun b => b.seq != seq
    savedB := t.ledger.savedB - ((t.ledger.saved.filter fun b => b.seq == seq).map Block.saveBytes).foldl (· + ·) 0 } }
  (u.residents.filter fun b => b.seq == seq && !b.exiting).foldl (fun (t : State) b => t.stopBlock b.tile b.slot none) u

theorem stopForLimit_eq (s : State) (seq : Nat) : s.stopForLimit seq = (limitStopped s seq).settleKernel seq := rfl

theorem limitStopped_saved (s : State) (seq : Nat) : ∀ b ∈ (limitStopped s seq).ledger.saved, b.seq ≠ seq := by
  have same : (limitStopped s seq).ledger.saved = s.ledger.saved.filter fun b => b.seq != seq :=
    congrArg Ledger.saved (foldl_same (l := ps58) _ _ (SameBut.refl _ _)
      (fun t b h => State_stopBlock_same (fl := ps58) rfl t _ _ _ h) .ledger (by decide))
  intro b mem
  rw [same] at mem
  simpa using (List.mem_filter.mp mem).2

theorem limitHeld_none {s : State} {seq : Nat} {k : Kernel} (h : ∀ v ∈ s.ledger.victims, v.1 ∉ k.tiles ∧ v.2 ≠ seq) : s.limitHeld seq k = false := by
  unfold State.limitHeld
  rw [Bool.or_eq_false_iff]
  constructor
  · rw [List.any_eq_false]
    intro n hn
    rw [Bool.not_eq_true, List.any_eq_false]
    exact fun v hv same => (h v hv).1 (by rw [show v.1 = n by simpa using same]; exact hn)
  · rw [List.any_eq_false]
    exact fun v hv same => (h v hv).2 (by simpa using same)

theorem runtimeLimitExpiry_running {s : State} {seq : Nat} {e : Entry} (entry : s.entry seq = some e) (running : e.status = .running) :
    runtimeLimitExpiry seq s = match e.kern with
      | none => s.finish seq stRuntimeLimit 0 0
      | some k => if s.limitHeld seq k then s.adjKernel seq fun k => { k with limitDue := true } else s.stopForLimit seq := by
  unfold runtimeLimitExpiry
  rw [entry]
  dsimp only
  rw [if_neg (by rw [running]; decide)] <;> rfl

/-- Settles O48: each command passes its checks in their order, and what it then does is one operation of the ledger. -/
theorem entriesRunAndComplete : Obligations.EntriesRunAndComplete := by
  unfold Obligations.EntriesRunAndComplete
  refine ⟨?kernel, ?channel, ?goesOn, ?complete, ?event, ?given, ?saved, ?restore, ?limit⟩
  case kernel =>
    rintro s seq e l entry kind rfl
    refine ⟨fun waiting ready accepted => ?_,
      fun k running kern goes first => congrArg Host.Outcome.next (kernelDispatch_grows entry kind running kern goes first)⟩
    have runs := kernelDispatch_accepted entry kind waiting ready accepted
    refine ⟨fun fixed first coop p ps free => ?_, fun fixed first coop ps free enough => ?_, fun fixed turn allFree => ?_⟩
    · rw [fixed, first, coop] at runs
      exact congrArg Host.Outcome.next (runs.trans (dispatchNormal_starts free))
    · rw [fixed, first, coop] at runs
      exact congrArg Host.Outcome.next (runs.trans (dispatchCoop_starts free enough))
    · rw [fixed] at runs
      exact congrArg Host.Outcome.next (runs.trans (dispatchFixed_starts _ turn allFree))
  case channel =>
    intro s seq h e entry waiting ready half
    refine ⟨fun host stage kind linked => congrArg Host.Outcome.next (copyDispatch_runs host stage entry waiting ready half kind linked),
      fun kind linked atHand => copyDispatch_finishes entry waiting ready half kind linked ⟨fun k hk => (atHand k hk).1, fun k hk => (atHand k hk).2⟩,
      ?_, ?_⟩
    · rintro t u c stage kind rule loaded rfl
      exact congrArg Host.Outcome.next (collectiveDispatch_loads entry waiting ready half kind rule loaded)
    · intro c a tab kind rule hc form recv ha htab ranks partners held
      obtain ⟨e', there, ran, begun⟩ := recv_begins entry waiting ready half kind rule hc form recv ha htab ranks partners held
      exact ⟨_, e', rfl, there, ran, begun⟩
  case goesOn =>
    intro s seq e c stage entry running kind chan
    exact congrArg Host.Outcome.next (collectiveDispatch_goesOn stage entry running kind chan)
  case complete =>
    intro s seq st rule detail e entry finished kept open' room first
    exact congrArg Host.Outcome.next (entryComplete_records entry finished kept open' room first)
  case event =>
    intro s r l events enabled open' room
    obtain ⟨putMem, putEvents, putProduced⟩ := putRecord_ledger s r
    obtain ⟨left, produced, mem⟩ := eventSent (s.putRecord r) l
    exact ⟨_, congrArg Host.Outcome.next (eventRecord_writes events enabled open' room), left, produced.trans putProduced,
      (congrArg (fun m : Mem => m.host) (mem.trans putMem)).trans (hostWrite_host s _ _)⟩
  case given =>
    intro s v u seq tile e p victim quiet hv entry open' hu place waiting ready
    exact congrArg Host.Outcome.next (preemptSaveComplete_starts victim quiet hv entry open' hu place waiting ready)
  case saved =>
    intro s seq tile victim quiet calm
    exact ⟨_, rfl, preemptSaveComplete_saves victim quiet calm⟩
  case restore =>
    intro s seq tile e k b p entry kern lowest goes first place own
    exact congrArg Host.Outcome.next (blockRestore_puts entry kern lowest goes first place own)
  case limit =>
    intro s seq e entry running
    refine ⟨fun kern => ?_, fun k kern unheld => ?_⟩
    · refine ⟨s.finish seq stRuntimeLimit 0 0, congrArg Host.Outcome.next ?_, ?_, State_finish_same (fl := ps16) rfl s _ _ _ _ (SameBut.refl _ s)⟩
      · rw [runtimeLimitExpiry_running entry running, kern]
      · rw [finish_entry s seq _ _ _ e entry (by unfold Entry.isFinished; rw [running])]
        rfl
    · refine ⟨limitStopped s seq, congrArg Host.Outcome.next ?_, limitStopped_saved s seq⟩
      rw [runtimeLimitExpiry_running entry running, kern]
      exact if_neg (by rw [limitHeld_none unheld]; decide)

end Sys2Proof.Proofs
end

section
/-! Scrub passes, bundles and regulators (R297, R302 to R304, R312, R316, R317). -/

set_option Elab.async false

namespace Sys2Proof.Proofs

open Sys2Proof Sys2Proof.Machine Sys2Proof.Laws

/-! ### What the scrubbers find moves no scrub pass (R297) -/

/-- The passes of the scrubbers and the groups that have retired are the same. -/
def SamePasses (s t : State) : Prop := t.integ.pass = s.integ.pass ∧ t.felt.retired = s.felt.retired

theorem SamePasses.refl (s : State) : SamePasses s s := ⟨rfl, rfl⟩

theorem SamePasses.trans {s t u : State} (h : SamePasses s t) (g : SamePasses t u) : SamePasses s u :=
  ⟨g.1.trans h.1, g.2.trans h.2⟩

theorem SamePasses.ite {s t u : State} {c : Prop} [Decidable c] (ht : SamePasses s t) (hu : SamePasses s u) : SamePasses s (if c then t else u) := by
  split <;> assumption

theorem SamePasses.fold {α : Type} {f : State → α → State} (h : ∀ s a, SamePasses s (f s a)) (l : List α) : ∀ s, SamePasses s (l.foldl f s) := by
  induction l with
  | nil => exact SamePasses.refl
  | cons a l ih => exact fun s => (h s a).trans (ih _)

theorem samePasses_same {fl : List Facet} {s t : State} (h : SameBut fl s t) (hi : Facet.integ ∉ fl := by decide) (hf : Facet.felt ∉ fl := by decide) :
    SamePasses s t :=
  ⟨congrArg Integ.pass (h .integ hi), congrArg Felt.retired (h .felt hf)⟩

theorem bump_samePasses (s : State) (k n : Nat) : SamePasses s (s.bump k n) :=
  samePasses_same (State_bump_same (fl := ps6) rfl s k n (SameBut.refl _ s))

theorem log_samePasses (s : State) (code sev agent : Nat) (addr : LogAddr) (detail : Nat) : SamePasses s (s.log code sev agent addr detail) := by
  obtain ⟨_, _, _, pass, _⟩ := log_bundles s code sev agent addr detail
  exact ⟨pass, congrArg Felt.retired (State_log_same (fl := ps63) rfl s code sev agent addr detail (SameBut.refl _ s) .felt (by decide))⟩

theorem corrected_samePasses (s : State) (counter unit code agent : Nat) (addr : LogAddr) (pos : Nat) :
    SamePasses s (s.corrected counter unit code agent addr pos) := by
  have counted := bump_samePasses s counter 1
  unfold State.corrected
  exact counted.trans (SamePasses.ite (SamePasses.trans ⟨rfl, rfl⟩ (log_samePasses _ _ _ _ _ _)) (bump_samePasses _ _ _))

theorem recordFault_samePasses (s : State) (f : HardFault) (agent : Nat) (addr : LogAddr) : SamePasses s (s.recordFault f agent addr).1 := by
  have logged := log_samePasses s 0x4031 sevError agent addr f.position
  unfold State.recordFault
  dsimp only
  generalize s.log 0x4031 sevError agent addr f.position = t at logged ⊢
  split
  · exact SamePasses.refl s
  split
  · exact logged.trans (SamePasses.trans ⟨rfl, rfl⟩ (SamePasses.ite (log_samePasses _ _ _ _ _ _) (SamePasses.refl _)))
  · exact logged

theorem retireGroup_samePasses (s : State) (half grp : Nat) : SamePasses s (s.retireGroup half grp) :=
  ⟨congrArg Integ.pass (State_retireGroup_same (fl := ps120) rfl s half grp (SameBut.refl _ s) .integ (by decide)), by
    unfold State.retireGroup
    split
    · rfl
    · exact (startRetire_marks_retiring s half grp).2⟩

theorem feltHardFault_samePasses (s : State) (place position : Nat) : SamePasses s (s.feltHardFault place position) := by
  have stored := recordFault_samePasses s { hbm := false, place := place, position := position, applied := false } agentNone (some (4, place))
  unfold State.feltHardFault
  split
  next h =>
    rw [h] at stored
    exact SamePasses.ite stored (stored.trans (retireGroup_samePasses _ _ _))

theorem setLine_samePasses (s : State) (line : Nat) (l : FLine) : SamePasses s (s.setLine line l) := ⟨rfl, rfl⟩

theorem feltError_samePasses (s : State) (sn agent : Nat) (err : ErrHit) : SamePasses s (s.feltError sn agent err) := by
  unfold State.feltError
  split
  · exact SamePasses.refl s
  · dsimp only
    split
    · exact SamePasses.refl s
    · exact (corrected_samePasses _ _ _ _ _ _ _).trans (SamePasses.ite (feltHardFault_samePasses _ _ _) (SamePasses.refl _))
    · exact ((bump_samePasses _ _ _).trans (log_samePasses _ _ _ _ _ _)).trans
        ((setLine_samePasses _ _ _).trans (SamePasses.ite (feltHardFault_samePasses _ _ _) (SamePasses.refl _)))

theorem charge_samePasses (s : State) (target m : Nat) : SamePasses s (s.charge target m) :=
  samePasses_same (State_charge_same (fl := ps29) rfl s target m (SameBut.refl _ s))

theorem scrubFelt_samePasses (s : State) (agent place : Nat) (err : ErrHit) : SamePasses s (s.scrubFelt agent place err) := by
  have charged := charge_samePasses s 0 (mScrub (agent - 0x44))
  unfold State.scrubFelt
  dsimp only
  generalize s.charge 0 (mScrub (agent - 0x44)) = t at charged ⊢
  split
  · exact SamePasses.ite (SamePasses.refl s) (charged.trans (feltError_samePasses _ _ _ _))
  · split
    · exact charged
    · exact charged.trans ((corrected_samePasses _ _ _ _ _ _ _).trans (SamePasses.ite (feltHardFault_samePasses _ _ _) (SamePasses.refl _)))
    · exact charged.trans (((bump_samePasses _ _ _).trans (log_samePasses _ _ _ _ _ _)).trans
        (SamePasses.ite (feltHardFault_samePasses _ _ _) (SamePasses.refl _)))

theorem abortMigration_samePasses (s : State) (vpn : Nat) : SamePasses s (s.abortMigration vpn) := by
  unfold State.abortMigration
  split
  · exact SamePasses.refl s
  split
  · exact SamePasses.refl s
  split
  · exact SamePasses.refl s
  · next p _ _ m _ _ =>
    have freed : SamePasses s (((s.setPage vpn { p with migrating := false, copied := 0, mig := none, lastEnd := some s.mem.epoch }).releaseHeld vpn m.held).freeFrame
        p.destTier p.destFrame) :=
      samePasses_same (fl := [.counters, .hbm, .tier, .tables, .bw, .ledger])
        (State_freeFrame_same rfl _ _ _ (State_releaseHeld_same rfl _ _ _ (State_setPage_same rfl s _ _ (SameBut.refl _ s))))
    exact freed.trans ((bump_samePasses _ _ _).trans (log_samePasses _ _ _ _ _ _))

theorem vacate_samePasses (s : State) (f : Nat) : SamePasses s (s.vacate f) := by
  unfold State.vacate
  split
  · exact SamePasses.refl s
  · next vpn _ _ =>
    have moved : ∀ t : State, SamePasses t (t.addMove vpn) := fun t =>
      samePasses_same (State_addMove_same (fl := ps22) rfl t vpn (SameBut.refl _ t))
    have aborted := abortMigration_samePasses s vpn
    dsimp only
    split
    · exact aborted.trans (SamePasses.ite (moved _) (SamePasses.refl _))
    · exact aborted

theorem setRegions_samePasses (s : State) (f : Regions → Regions) : SamePasses s (s.setRegions f) := ⟨rfl, rfl⟩

theorem growRegion_samePasses (reg : Nat) (f : Nat) : ∀ (n : Nat) (s : State), SamePasses s (State.growRegion reg f n s) := by
  induction f with
  | zero => exact fun _ => SamePasses.refl
  | succ f ih =>
    intro n s
    unfold State.growRegion
    split
    · exact SamePasses.refl s
    split
    · exact ih n s
    split
    · exact ((setRegions_samePasses s _).trans (vacate_samePasses _ f)).trans (ih _ _)
    · exact (setRegions_samePasses s _).trans (ih _ _)

theorem replaceDue_samePasses (s : State) : SamePasses s s.replaceDue := by
  unfold State.replaceDue
  exact (setRegions_samePasses s _).trans (SamePasses.fold (fun (t : State) (q : Nat × Nat) => growRegion_samePasses q.1 t.regionFloor 1 t) _ _)

theorem retireChannel_samePasses (s : State) (stack ch : Nat) : SamePasses s (s.retireChannel stack ch) := by
  unfold State.retireChannel
  split
  · exact SamePasses.refl s
  · refine SamePasses.trans (SamePasses.trans ?_ (SamePasses.fold (fun t f => vacate_samePasses t f) _ _)) (replaceDue_samePasses _)
    exact SamePasses.trans ⟨rfl, rfl⟩ (log_samePasses _ _ _ _ _ _)

theorem hbmHardFault_samePasses (s : State) (granule position : Nat) : SamePasses s (s.hbmHardFault granule position) := by
  have stored := recordFault_samePasses s { hbm := true, place := granule, position := position, applied := false } agentNone (some (1, granule * 64))
  unfold State.hbmHardFault
  exact SamePasses.ite stored (stored.trans (retireChannel_samePasses _ _ _))

theorem countChannelError_samePasses (s : State) (granule : Nat) : SamePasses s (s.countChannelError granule) := by
  unfold State.countChannelError
  exact SamePasses.ite (SamePasses.trans ⟨rfl, rfl⟩ (retireChannel_samePasses _ _ _)) ⟨rfl, rfl⟩

theorem withdrawFrame_samePasses (s : State) (f : Nat) : SamePasses s (s.withdrawFrame f) := by
  have logged := log_samePasses s 0x4038 sevError agentNone none f
  unfold State.withdrawFrame
  refine SamePasses.ite (SamePasses.refl s) (logged.trans (SamePasses.trans (SamePasses.trans ?_ (vacate_samePasses _ f)) (replaceDue_samePasses _)))
  exact ⟨rfl, rfl⟩

theorem hbmError_samePasses (s : State) (granule agent : Nat) (err : ErrHit) : SamePasses s (s.hbmError granule agent err) := by
  have poisoned : ∀ t : State, SamePasses t (t.poisonGranule granule) := fun t =>
    samePasses_same (State_poisonGranule_same (fl := ps71) rfl t granule (SameBut.refl _ t))
  unfold State.hbmError
  dsimp only
  split
  · exact SamePasses.refl s
  · exact (corrected_samePasses _ _ _ _ _ _ _).trans (SamePasses.ite (hbmHardFault_samePasses _ _ _) (SamePasses.refl _))
  · refine SamePasses.trans (SamePasses.trans ?_ (countChannelError_samePasses _ _)) (withdrawFrame_samePasses _ _)
    exact (((bump_samePasses _ _ _).trans (log_samePasses _ _ _ _ _ _)).trans (poisoned _)).trans
      (SamePasses.ite (hbmHardFault_samePasses _ _ _) (SamePasses.refl _))

theorem scrubHbm_samePasses (s : State) (agent granule : Nat) (err : ErrHit) : SamePasses s (s.scrubHbm agent granule err) := by
  unfold State.scrubHbm
  exact SamePasses.ite (SamePasses.refl s) (((charge_samePasses _ _ _).trans (charge_samePasses _ _ _)).trans (hbmError_samePasses _ _ _ _))

theorem scrubBatch_samePasses (half : Nat) (hbm : Bool) (errs : NMap ErrHit) (first n : Nat) :
    ∀ (i : Nat) (s : State), SamePasses s (State.scrubBatch half hbm errs first n i s) := by
  induction n with
  | zero => exact fun _ => SamePasses.refl
  | succ n ih =>
    intro i s
    unfold State.scrubBatch
    exact (SamePasses.ite (scrubHbm_samePasses _ _ _ _) (scrubFelt_samePasses _ _ _ _)).trans (ih _ _)

/-- The length of a pass follows from the variant and the groups that have retired. -/
theorem scrubTotal_same {s t : State} (fuses : t.fuses = s.fuses) (retired : t.felt.retired = s.felt.retired) (half : Nat) (hbm : Bool) :
    t.scrubTotal half hbm = s.scrubTotal half hbm := by
  unfold State.scrubTotal State.keptBanks State.hbmBytes State.stacks State.banksPerHalf
  rw [fuses, retired]

/-- The pass of a half and memory after a tick of the scrubbers. -/
theorem scrubPaceTick_pass {s : State} {half count i : Nat} {hbm : Bool} (errs : NMap ErrHit) (behind : Bool) (inRange : half < 2) (on : s.func .scrub = .on)
    (position : NMap.lookD s.integ.pass (half * 2 + bit01 hbm) 0 = i) (within : i ≤ s.scrubTotal half hbm) :
    NMap.look (scrubPaceTick half hbm count errs behind s).integ.pass (half * 2 + bit01 hbm) =
      if s.scrubTotal half hbm ≤ i + count then none else some (i + count) := by
  have scrubbed := scrubBatch_samePasses half hbm errs i (min count (s.scrubTotal half hbm - i)) i s
  have fuses : (State.scrubBatch half hbm errs i (min count (s.scrubTotal half hbm - i)) i s).fuses = s.fuses :=
    State_scrubBatch_same (fl := ps132) rfl _ _ _ _ _ _ s (SameBut.refl _ s) .fuses (by decide)
  unfold scrubPaceTick
  rw [if_neg (by rw [on]; simp [inRange])]
  dsimp only
  rw [position]
  generalize State.scrubBatch half hbm errs i (min count (s.scrubTotal half hbm - i)) i s = t at scrubbed fuses ⊢
  have logged : SamePasses t (if (behind && NMap.lookD t.integ.behind (half * 2 + bit01 hbm) 0 == 0) = true then
      ({ t with integ := { t.integ with behind := NMap.put t.integ.behind (half * 2 + bit01 hbm) 1 } } : State).log 0x4041 sevInfo (0x44 + half) none
        (bit01 hbm) else t) :=
    SamePasses.ite (SamePasses.trans ⟨rfl, rfl⟩ (log_samePasses _ _ _ _ _ _)) (SamePasses.refl t)
  have fuses' : (if (behind && NMap.lookD t.integ.behind (half * 2 + bit01 hbm) 0 == 0) = true then
      ({ t with integ := { t.integ with behind := NMap.put t.integ.behind (half * 2 + bit01 hbm) 1 } } : State).log 0x4041 sevInfo (0x44 + half) none
        (bit01 hbm) else t).fuses = t.fuses := by
    split
    · exact State_log_same (fl := ps63) rfl _ _ _ _ _ _ (SameBut.refl _ _) .fuses (by decide)
    · rfl
  generalize (if (behind && NMap.lookD t.integ.behind (half * 2 + bit01 hbm) 0 == 0) = true then
      ({ t with integ := { t.integ with behind := NMap.put t.integ.behind (half * 2 + bit01 hbm) 1 } } : State).log 0x4041 sevInfo (0x44 + half) none
        (bit01 hbm) else t) = u at logged fuses' ⊢
  obtain ⟨pass, retired⟩ := scrubbed.trans logged
  rw [scrubTotal_same (fuses'.trans fuses) retired]
  by_cases done : s.scrubTotal half hbm ≤ i + count
  · rw [if_pos (by omega), if_pos done, bump_integ]
    have begun : ∀ v : State, (v.passBegins half hbm).integ = v.integ := fun v =>
      State_passBegins_same (fl := ps41) rfl v half hbm (SameBut.refl _ v) .integ (by decide)
    rw [begun]
    exact look_del_same _ _
  · rw [if_neg (by omega), if_neg done]
    rw [show min count (s.scrubTotal half hbm - i) = count by omega]
    exact look_put_same _ _ _

/-! ### Bundles (R302 to R304) -/

theorem afterFault_integ (s : State) : s.afterFault.integ = s.integ :=
  State_afterFault_same (fl := ps136) rfl s (SameBut.refl _ s) .integ (by decide)

theorem steer_left (k n : Nat) (s : State) : (State.steer k n s).sparesLeft k = s.sparesLeft k - n := by
  unfold State.sparesLeft
  rw [(steer_core k n s).1]
  omega

/-- A bundle with spares enough steers one for each failed signal. -/
theorem bundleSignalFailed_steers {s : State} {b : Bundle} {n : Nat} (good : s.bundleOk b = true) (some' : 0 < n)
    (used : s.integ.failedB.contains (bundleKey b) = false) (enough : n ≤ s.sparesLeft (bundleKey b))
    (left : n < s.sparesLeft (bundleKey b) ∨ ∀ h g, b ≠ .bank h g) : bundleSignalFailed b n s = State.steer (bundleKey b) n s := by
  have port : ∀ p, s.portSignals p (bundleKey b) n = State.steer (bundleKey b) n s := fun p => by
    unfold State.portSignals
    rw [used, if_neg (by decide), if_pos enough]
  unfold bundleSignalFailed
  rw [if_neg (by rw [good]; simp; omega)]
  cases b with
  | portRead p k => exact port p
  | portWrite p k => exact port p
  | bank h g =>
    have more : n < s.sparesLeft (bundleKey (.bank h g)) := left.resolve_right fun none => none h g rfl
    dsimp only
    rw [if_neg (by omega), if_neg (by rw [steer_left]; omega)]

theorem portSignals_fails {s : State} {k n : Nat} (p : Nat) (used : s.integ.failedB.contains k = false) (few : s.sparesLeft k < n) :
    s.portSignals p k n = (State.steer k (s.sparesLeft k) s).portFails p k := by
  unfold State.portSignals
  rw [used, if_neg (by decide), if_neg (by omega)]

/-- A port bundle without spares enough fails after its spares are used. -/
theorem bundleSignalFailed_port {s : State} {b : Bundle} {p k n : Nat} (port : b = .portRead p k ∨ b = .portWrite p k) (good : s.bundleOk b = true)
    (some' : 0 < n) (used : s.integ.failedB.contains (bundleKey b) = false) (few : s.sparesLeft (bundleKey b) < n) :
    bundleSignalFailed b n s = (State.steer (bundleKey b) (s.sparesLeft (bundleKey b)) s).portFails p (bundleKey b) := by
  unfold bundleSignalFailed
  rw [if_neg (by rw [good]; simp; omega)]
  rcases port with rfl | rfl
  · exact portSignals_fails p used few
  · exact portSignals_fails p used few

/-- A bank bundle without spares enough retires its group. -/
theorem bundleSignalFailed_bank {s : State} {h g n : Nat} (good : s.bundleOk (.bank h g) = true) (some' : 0 < n)
    (few : s.sparesLeft (bundleKey (.bank h g)) < n) : bundleSignalFailed (.bank h g) n s = s.retireGroup h g := by
  unfold bundleSignalFailed
  rw [if_neg (by rw [good]; simp; omega)]
  exact if_pos few

theorem halfWidthMoveComplete_moves {s : State} {p : Nat} (moving : s.integ.moving.contains p = true) :
    p ∉ (halfWidthMoveComplete p s).integ.moving ∧ ∀ n, s.logicalOf p = some n → ((halfWidthMoveComplete p s).tile n).halfPort = true := by
  unfold halfWidthMoveComplete
  rw [if_neg (by rw [moving]; decide)]
  dsimp only
  have gone : ∀ t : State, t.integ.moving = s.integ.moving.filter (fun x => x != p) → p ∉ (t.log 0x4035 sevFatal agentHalfManagers none p).integ.moving := fun t moves => by
    obtain ⟨_, _, same, _⟩ := log_bundles t 0x4035 sevFatal agentHalfManagers none p
    rw [same, moves]
    simp
  split
  · next n look =>
    refine ⟨gone _ rfl, fun m is => ?_⟩
    have same : n = m := Option.some.inj ((show s.logicalOf p = some n from look).symm.trans is)
    subst same
    rw [tile_of_same (State_log_same (fl := ps63) rfl _ _ _ _ _ _ (SameBut.refl _ _)) (by decide), tile_adjTile]
  · next look => exact ⟨gone _ rfl, fun m is => absurd ((show s.logicalOf p = none from look).symm.trans is) (by simp)⟩

end Sys2Proof.Proofs
end

section
/-! Stages, cells and rails that fail (R312, R316, R317), and the claims of O49. -/

set_option Elab.async false

namespace Sys2Proof.Proofs

open Sys2Proof Sys2Proof.Machine Sys2Proof.Laws

/-! ### What follows a failure leaves the record of failures -/

/-- The failed stages, cells and rails, and the lock on Standby, are the same. -/
def SameFailures (s t : State) : Prop :=
  t.power.stages = s.power.stages ∧ t.power.stageLock = s.power.stageLock ∧ t.power.cells = s.power.cells ∧ t.power.rails = s.power.rails

theorem SameFailures.refl (s : State) : SameFailures s s := ⟨rfl, rfl, rfl, rfl⟩

theorem SameFailures.trans {s t u : State} (h : SameFailures s t) (g : SameFailures t u) : SameFailures s u := by
  obtain ⟨a, b, c, d⟩ := h
  obtain ⟨a', b', c', d'⟩ := g
  exact ⟨a'.trans a, b'.trans b, c'.trans c, d'.trans d⟩

theorem SameFailures.ite {s t u : State} {c : Prop} [Decidable c] (ht : SameFailures s t) (hu : SameFailures s u) :
    SameFailures s (if c then t else u) := by
  split <;> assumption

theorem SameFailures.fold {α : Type} {f : State → α → State} (h : ∀ s a, SameFailures s (f s a)) (l : List α) :
    ∀ s, SameFailures s (l.foldl f s) := by
  induction l with
  | nil => exact SameFailures.refl
  | cons a l ih => exact fun s => (h s a).trans (ih _)

theorem sameFailures_power {s t : State} (h : t.power = s.power) : SameFailures s t := by
  unfold SameFailures
  rw [h]
  exact ⟨rfl, rfl, rfl, rfl⟩

theorem sameFailures_same {fl : List Facet} {s t : State} (h : SameBut fl s t) (hp : Facet.power ∉ fl := by decide) : SameFailures s t :=
  sameFailures_power (h .power hp)

theorem startEnable_sameFailures (s : State) (f : Func) : SameFailures s (s.startEnable f) := by
  unfold State.startEnable
  split <;> exact ⟨rfl, rfl, rfl, rfl⟩

theorem enableFunc_sameFailures (s : State) (f : Func) : SameFailures s (s.enableFunc f).1 := by
  unfold State.enableFunc
  split
  · exact startEnable_sameFailures s f
  all_goals exact ⟨rfl, rfl, rfl, rfl⟩

theorem releaseFloor_sameFailures (s : State) : SameFailures s s.releaseFloor := by
  unfold State.releaseFloor
  exact SameFailures.ite ⟨rfl, rfl, rfl, rfl⟩ (SameFailures.refl s)

theorem startState_sameFailures (s : State) (target : Nat) (fast : Bool) : SameFailures s (s.startState target fast) := by
  have released := releaseFloor_sameFailures s
  unfold State.startState
  generalize s.releaseFloor = t at released ⊢
  exact released.trans (SameFailures.ite
    (SameFailures.trans ⟨rfl, rfl, rfl, rfl⟩ (SameFailures.fold (fun (t : State) c => enableFunc_sameFailures t (.domain c)) _ _)) ⟨rfl, rfl, rfl, rfl⟩)

theorem forceState_sameFailures (s : State) (target : Nat) (fast : Bool) : SameFailures s (s.forceState target fast) := by
  have cancelled : SameFailures s s.cancelAll := sameFailures_same (State_cancelAll_same (fl := ps80) rfl s (SameBut.refl _ s))
  unfold State.forceState
  split
  · exact cancelled.trans (startState_sameFailures _ _ _)
  · exact SameFailures.ite (startState_sameFailures _ _ _) (SameFailures.refl s)
  · exact SameFailures.refl s
  · exact SameFailures.ite ⟨rfl, rfl, rfl, rfl⟩ (SameFailures.refl s)

theorem log_sameFailures (s : State) (code sev agent : Nat) (addr : LogAddr) (detail : Nat) : SameFailures s (s.log code sev agent addr detail) :=
  sameFailures_power (log_power _ _ _ _ _ _)

/-- The state with a row's domain held down and its gates gone. -/
def rowHeldDown (s : State) (domain : Nat) : State :=
  let t := s.setFunc (.domain domain) .heldDown
  { t with power := { t.power with gates := NMap.del t.power.gates domain } }

theorem rowHeldDown_sameFailures (s : State) (domain : Nat) : SameFailures s (rowHeldDown s domain) := ⟨rfl, rfl, rfl, rfl⟩

theorem shedRow_sameFailures (s : State) (domain : Nat) : SameFailures s (s.shedRow domain) := by
  have logged := log_sameFailures s 0x5005 sevFatal agentRegulators none domain
  have faulted : ∀ t : State, SameFailures t ((t.rowLogical domain).foldl (fun (u : State) n => u.faultTile n) t) := fun t =>
    SameFailures.fold (fun u n => sameFailures_same (State_faultTile_same (fl := ps139) rfl u n (SameBut.refl _ u))) _ _
  have departed : ∀ t : State, SameFailures t (t.drawn.departure 1 (Config.freeNat t.dict.freeCount % 211)) := fun t =>
    sameFailures_power ((log_power _ _ _ _ _ _).trans (bump_power _ _ _))
  unfold State.shedRow
  dsimp only
  generalize s.log 0x5005 sevFatal agentRegulators none domain = t at logged ⊢
  refine logged.trans (SameFailures.ite (faulted t) ?_)
  refine SameFailures.trans ?_ (SameFailures.fold (fun u p => sameFailures_same (setSleep_same u p .off)) _ _)
  have before : SameFailures t (if s.func (.domain domain) = .off then t else t.drawn.departure 1 (Config.freeNat t.dict.freeCount % 211)) :=
    SameFailures.ite (SameFailures.refl t) (departed t)
  exact (before.trans (faulted _)).trans (rowHeldDown_sameFailures _ domain)

/-! ### Stages (R312) -/

/-- The state with the failed stage held. -/
def stageHeld (s : State) (k : Nat) : State := { s with power := { s.power with stages := insertNat s.power.stages k } }

/-- What a stage's failure leads to. -/
def stageNoted (t : State) (k : Nat) : State :=
  let u := t.log 0x5006 (if t.stagesWorking < 12 then sevFatal else sevError) agentRegulators none (k + t.stagesWorking * 256)
  if t.stagesWorking < 12 then ({ u with power := { u.power with stageLock := true } } : State).forceState 1 false else u

theorem stageFailed_new {s : State} {k : Nat} (stage : k < 24) (new : s.power.stages.contains k = false) :
    stageFailed k s = stageNoted (stageHeld s k) k := by
  unfold stageFailed
  rw [if_neg (by rw [new]; simp; omega)]
  rfl

theorem stageNoted_enough {t : State} (k : Nat) (enough : 12 ≤ t.stagesWorking) :
    stageNoted t k = t.log 0x5006 sevError agentRegulators none (k + t.stagesWorking * 256) := by
  unfold stageNoted
  dsimp only
  rw [if_neg (by omega), if_neg (by omega)]

theorem stageNoted_short {t : State} (k : Nat) (short : t.stagesWorking < 12) :
    ∃ v : State, v.power.stageLock = true ∧ v.power.stages = t.power.stages ∧ stageNoted t k = v.forceState 1 false := by
  unfold stageNoted
  dsimp only
  rw [if_pos short, if_pos short]
  have logged := congrArg Power.stages (log_power t 0x5006 sevFatal agentRegulators none (k + t.stagesWorking * 256))
  generalize t.log 0x5006 sevFatal agentRegulators none (k + t.stagesWorking * 256) = u at logged ⊢
  exact ⟨{ u with power := { u.power with stageLock := true } }, rfl, logged, rfl⟩

theorem stageNoted_held (t : State) (k : Nat) : (stageNoted t k).power.stages = t.power.stages ∧
    (stageNoted t k).power.stageLock = (decide (t.stagesWorking < 12) || t.power.stageLock) := by
  by_cases short : t.stagesWorking < 12
  · obtain ⟨v, locked, held, noted⟩ := stageNoted_short k short
    obtain ⟨stages, lock, _, _⟩ := forceState_sameFailures v 1 false
    rw [noted, stages, lock, locked, held, decide_eq_true short]
    exact ⟨rfl, rfl⟩
  · rw [stageNoted_enough k (by omega), log_power, decide_eq_false short]
    exact ⟨rfl, rfl⟩

/-! ### Cells and rails (R316, R317) -/

/-- The state with a failed cell of a group counted and logged. -/
def cellHeld (s : State) (g n : Nat) : State :=
  ({ s with power := { s.power with cells := NMap.put s.power.cells g n } } : State).log 0x5003 sevInfo agentRegulators none (g * 256 + n * 65536)

theorem cellHeld_cells (s : State) (g n : Nat) : NMap.lookD (cellHeld s g n).power.cells g 0 = n := by
  unfold cellHeld
  rw [log_power]
  exact lookD_put_same _ _ _ _

theorem cellFailed_counted {s : State} {g n : Nat} (group : g < 24) (room : NMap.lookD s.power.cells g 0 < 48) (hn : n = NMap.lookD s.power.cells g 0 + 1) :
    cellFailed g s = if n = 4 then ((cellHeld s g n).log 0x5004 sevError agentRegulators none g).applySteps
      else if n = 7 then (cellHeld s g n).shedRow (g / 2) else cellHeld s g n := by
  subst hn
  unfold cellFailed
  exact if_neg (by simp; omega)

theorem startComputeReset_sameFailures (s : State) (unplanned : Bool) : SameFailures s (s.startComputeReset unplanned) := by
  have cancelled : SameFailures s s.cancelAll.withdrawCommit :=
    sameFailures_same (State_withdrawCommit_same (fl := [.tiles, .felt, .ledger, .staging, .commits]) rfl _ (State_cancelAll_same rfl s (SameBut.refl _ s)))
  have released := cancelled.trans (releaseFloor_sameFailures _)
  unfold State.startComputeReset
  generalize s.cancelAll.withdrawCommit.releaseFloor = t at released ⊢
  exact released.trans ⟨rfl, rfl, rfl, rfl⟩

theorem afterFault_sameFailures (s : State) : SameFailures s s.afterFault := by
  have refused : SameFailures s s.refuseCoops := sameFailures_same (State_refuseCoops_same (fl := ps16) rfl s (SameBut.refl _ s))
  have paused : SameFailures s.refuseCoops (if s.refuseCoops.ledger.sched = .pausing && s.refuseCoops.computeIdle && !s.refuseCoops.boundaryDue then
      s.refuseCoops.pauseNow else s.refuseCoops) :=
    SameFailures.ite (sameFailures_same (State_pauseNow_same (fl := ps34) rfl _ (SameBut.refl _ _))) (SameFailures.refl _)
  exact (refused.trans paused).trans (SameFailures.ite (startComputeReset_sameFailures _ true) (SameFailures.refl _))

theorem cellFailed_holds {s : State} {g n : Nat} (group : g < 24) (room : NMap.lookD s.power.cells g 0 < 48) (hn : n = NMap.lookD s.power.cells g 0 + 1) :
    NMap.lookD (cellFailed g s).afterFault.power.cells g 0 = n := by
  have derated : SameFailures (cellHeld s g n) ((cellHeld s g n).log 0x5004 sevError agentRegulators none g).applySteps :=
    (log_sameFailures _ _ _ _ _ _).trans (sameFailures_same (State_applySteps_same (fl := ps64) rfl _ (SameBut.refl _ _)))
  have all : SameFailures (cellHeld s g n) (cellFailed g s).afterFault := by
    rw [cellFailed_counted group room hn]
    exact (SameFailures.ite derated (SameFailures.ite (shedRow_sameFailures _ _) (SameFailures.refl _))).trans (afterFault_sameFailures _)
  obtain ⟨_, _, cells, _⟩ := all
  rw [cells, cellHeld_cells]

/-- The state with a failed cell of another rail's group counted and logged. -/
def railHeld (s : State) (g : RailGroup) (i n : Nat) : State :=
  ({ s with power := { s.power with rails := NMap.put s.power.rails i n } } : State).log 0x5003 sevInfo agentRegulators none
    (g.rail + g.group * 256 + n * 65536)

theorem railHeld_rails (s : State) (g : RailGroup) (i n : Nat) : NMap.lookD (railHeld s g i n).power.rails i 0 = n := by
  unfold railHeld
  rw [log_power]
  exact lookD_put_same _ _ _ _

/-- What the `n`th failed cell of a rail's group leads to. -/
def railNoted (u : State) (d n : Nat) : State :=
  if n = 3 then u.log 0x5007 sevFatal agentRegulators none d
  else if n = 4 then ({ u with boot := { u.boot with lost := true } } : State).log 0x5008 sevFatal agentRegulators none d |>.forceState 2 true
  else u

theorem railCellFailed_counted {s : State} {g : RailGroup} {i n : Nat} (index : railIndex g = some i) (room : NMap.lookD s.power.rails i 0 < 16)
    (hn : n = NMap.lookD s.power.rails i 0 + 1) :
    railCellFailed g s = railNoted (railHeld s g i n) (g.rail + g.group * 256 + n * 65536) n := by
  subst hn
  unfold railCellFailed
  rw [index]
  exact if_neg (by omega)

/-- The state that has lost its data to a failed rail. -/
def lostNoted (u : State) (d : Nat) : State :=
  ({ u with boot := { u.boot with lost := true } } : State).log 0x5008 sevFatal agentRegulators none d

theorem lostNoted_holds (u : State) (d : Nat) : (lostNoted u d).boot.lost = true ∧ (lostNoted u d).power = u.power := by
  unfold lostNoted
  rw [log_boot, log_power]
  exact ⟨rfl, rfl⟩

theorem railNoted_lost (u : State) (d : Nat) : railNoted u d 4 = (lostNoted u d).forceState 2 true :=
  (if_neg (by decide)).trans (if_pos rfl)

theorem railNoted_sameFailures (u : State) (d n : Nat) : SameFailures u (railNoted u d n) := by
  unfold railNoted
  refine SameFailures.ite (log_sameFailures _ _ _ _ _ _) (SameFailures.ite ?_ (SameFailures.refl u))
  exact (sameFailures_power (lostNoted_holds u d).2).trans (forceState_sameFailures _ 2 true)

theorem setInteg_same (s : State) (i : Integ) : SameBut [.integ] s { s with integ := i } := by
  intro p hp
  cases p with
  | integ => exact absurd (List.mem_singleton_self _) hp
  | _ => exact rfl

/-- Settles O49: each event is run on its own case, and what it then does leaves the pass, bundle or failure that it has noted. -/
theorem scrubBundlesAndRegulators : Obligations.ScrubBundlesAndRegulators := by
  unfold Obligations.ScrubBundlesAndRegulators
  refine ⟨⟨?scrub, ?signal, ?spare, ?width⟩, ?stage, ?cell, ?rail⟩
  case scrub =>
    intro s half count i hbm behind errs inRange on position within
    exact ⟨_, rfl, scrubPaceTick_pass errs behind inRange on position within⟩
  case signal =>
    intro s b n good some' used
    refine ⟨fun enough left => ?_, fun few => ⟨fun p k port => ?_, ?_⟩⟩
    · obtain ⟨steered, stopped⟩ := steer_core (bundleKey b) n s
      refine ⟨(State.steer (bundleKey b) n s).afterFault, congrArg (fun t : State => Host.Outcome.next t.afterFault)
        (bundleSignalFailed_steers good some' used enough left), ?_, ?_⟩
      · rw [afterFault_integ, steered]
      · rw [afterFault_integ]
        exact stopped (.inl some')
    · exact congrArg (fun t : State => Host.Outcome.next t.afterFault) (bundleSignalFailed_port port good some' used few)
    · rintro h g rfl
      exact congrArg (fun t : State => Host.Outcome.next t.afterFault) (bundleSignalFailed_bank good some' few)
  case spare =>
    intro s b stopped
    refine ⟨{ s with integ := { s.integ with stopped := s.integ.stopped.filter fun k => k != bundleKey b } },
      congrArg Host.Outcome.next (if_neg (by rw [stopped]; decide)), setInteg_same s _, fun k => ?_⟩
    simp
  case width =>
    intro s p moving
    obtain ⟨gone, half⟩ := halfWidthMoveComplete_moves moving
    exact ⟨_, rfl, gone, half⟩
  case stage =>
    intro s k stage new
    have runs := stageFailed_new stage new
    obtain ⟨held, lock⟩ := stageNoted_held (stageHeld s k) k
    refine ⟨⟨_, congrArg Host.Outcome.next runs, held, lock⟩, fun enough => congrArg Host.Outcome.next (runs.trans (stageNoted_enough k enough)), fun short => ?_⟩
    obtain ⟨v, locked, same, noted⟩ := stageNoted_short k short
    exact ⟨v, locked, same, congrArg Host.Outcome.next (runs.trans noted)⟩
  case cell =>
    intro s g group room n u
    have runs := cellFailed_counted group room (n := n) rfl
    refine ⟨⟨_, rfl, cellFailed_holds group room rfl⟩, fun four => ?_, fun seven => ?_, fun other other' => ?_⟩
    all_goals refine congrArg (fun t : State => Host.Outcome.next t.afterFault) (runs.trans ?_)
    · exact if_pos four
    · exact (if_neg (by omega)).trans (if_pos seven)
    · exact (if_neg other).trans (if_neg other')
  case rail =>
    intro s g i index room n u
    have runs := railCellFailed_counted index room (n := n) rfl
    have counted : NMap.lookD (railNoted (railHeld s g i n) (g.rail + g.group * 256 + n * 65536) n).power.rails i 0 = n := by
      obtain ⟨_, _, _, rails⟩ := railNoted_sameFailures (railHeld s g i n) (g.rail + g.group * 256 + n * 65536) n
      rw [rails, railHeld_rails]
    refine ⟨⟨_, congrArg Host.Outcome.next runs, counted⟩, fun three => congrArg Host.Outcome.next (runs.trans (if_pos three)), fun four => ?_,
      fun other other' => congrArg Host.Outcome.next (runs.trans ((if_neg other).trans (if_neg other')))⟩
    obtain ⟨lost, same⟩ := lostNoted_holds (railHeld s g i n) (g.rail + g.group * 256 + n * 65536)
    refine ⟨lostNoted (railHeld s g i n) (g.rail + g.group * 256 + n * 65536), lost, congrArg Power.rails same, congrArg Host.Outcome.next (runs.trans ?_)⟩
    rw [← railNoted_lost, four]

end Sys2Proof.Proofs
end

section
/-! The governor (R314, R325, R328, R329). -/

set_option Elab.async false

namespace Sys2Proof.Proofs

open Sys2Proof Sys2Proof.Machine Sys2Proof.Laws

/-! ### What leaves the governor's outcome -/

/-- The allowance, the ballast, the pace and the scheduled rise are the same. -/
def SameGovernor (s t : State) : Prop :=
  t.power.allowance = s.power.allowance ∧ t.power.ballast = s.power.ballast ∧ t.power.k = s.power.k ∧ t.power.rise = s.power.rise

theorem SameGovernor.refl (s : State) : SameGovernor s s := ⟨rfl, rfl, rfl, rfl⟩

theorem SameGovernor.trans {s t u : State} (h : SameGovernor s t) (g : SameGovernor t u) : SameGovernor s u := by
  obtain ⟨a, b, c, d⟩ := h
  obtain ⟨a', b', c', d'⟩ := g
  exact ⟨a'.trans a, b'.trans b, c'.trans c, d'.trans d⟩

theorem SameGovernor.ite {s t u : State} {c : Prop} [Decidable c] (ht : SameGovernor s t) (hu : SameGovernor s u) :
    SameGovernor s (if c then t else u) := by
  split <;> assumption

theorem SameGovernor.fold {α : Type} {f : State → α → State} (h : ∀ s a, SameGovernor s (f s a)) (l : List α) :
    ∀ s, SameGovernor s (l.foldl f s) := by
  induction l with
  | nil => exact SameGovernor.refl
  | cons a l ih => exact fun s => (h s a).trans (ih _)

theorem sameGovernor_power {s t : State} (h : t.power = s.power) : SameGovernor s t := by
  unfold SameGovernor
  rw [h]
  exact ⟨rfl, rfl, rfl, rfl⟩

theorem sameGovernor_same {fl : List Facet} {s t : State} (h : SameBut fl s t) (hp : Facet.power ∉ fl := by decide) : SameGovernor s t :=
  sameGovernor_power (h .power hp)

theorem startShutdown_sameGovernor (s : State) (f : Func) : SameGovernor s (s.startShutdown f) := by
  unfold State.startShutdown
  dsimp only
  split
  · exact sameGovernor_same (fl := [.counters, .hbm, .tier, .tables, .bw, .ledger, .integ, .funcs])
      (State_abortTo_same rfl _ _ (State_setFunc_same rfl s _ _ (SameBut.refl _ s)))
  · exact ⟨rfl, rfl, rfl, rfl⟩
  · exact ⟨rfl, rfl, rfl, rfl⟩

theorem disableFunc_sameGovernor (s : State) (f : Func) : SameGovernor s (s.disableFunc f).1 := by
  have set' : ∀ x, SameGovernor s (s.setFunc f x) := fun _ => ⟨rfl, rfl, rfl, rfl⟩
  unfold State.disableFunc
  split
  · exact SameGovernor.refl s
  · exact set' _
  · exact startShutdown_sameGovernor s f
  · exact SameGovernor.refl s
  · exact set' _
  · exact SameGovernor.refl s
  · exact SameGovernor.ite (SameGovernor.refl s) (sameGovernor_same (State_reach_same (fl := ps92) rfl s f .off (SameBut.refl _ s)))

theorem askOff_sameGovernor (s : State) (l : List Func) : SameGovernor s (s.askOff l) :=
  SameGovernor.fold (fun t f => SameGovernor.ite (SameGovernor.refl t) (disableFunc_sameGovernor t f)) l s

theorem setFelt_sameGovernor (s : State) (f : Felt) : SameGovernor s { s with felt := f } := ⟨rfl, rfl, rfl, rfl⟩

theorem downTurn_sameGovernor (s : State) : SameGovernor s s.downTurn := by
  have flushed : SameGovernor s (s.closure.flushAll true) :=
    sameGovernor_same (fl := ps132) (State_flushAll_same rfl _ true (State_closure_same rfl s (SameBut.refl _ s)))
  unfold State.downTurn
  dsimp only
  generalize s.closure.flushAll true = u at flushed ⊢
  split
  · refine SameGovernor.ite (SameGovernor.refl s) (SameGovernor.ite ?_ (SameGovernor.ite (askOff_sameGovernor _ _) (SameGovernor.refl s)))
    exact (flushed.trans (setFelt_sameGovernor u _)).trans (askOff_sameGovernor _ _)
  · exact SameGovernor.refl s

theorem sampleMeans_sameGovernor (s : State) (power : Nat) : SameGovernor s (s.sampleMeans power) := by
  unfold State.sampleMeans
  exact SameGovernor.ite ⟨rfl, rfl, rfl, rfl⟩ ⟨rfl, rfl, rfl, rfl⟩

theorem slotGrant_sameGovernor (s : State) (target : Nat) : SameGovernor s (s.slotGrant target) := by
  unfold State.slotGrant
  exact SameGovernor.ite ⟨rfl, rfl, rfl, rfl⟩ (SameGovernor.refl s)

theorem slotAfter_sameGovernor (s : State) (target : Nat) : SameGovernor s (s.slotAfter target) := by
  unfold State.slotAfter
  dsimp only
  split
  · exact ⟨rfl, rfl, rfl, rfl⟩
  split
  · exact SameGovernor.ite ⟨rfl, rfl, rfl, rfl⟩ (SameGovernor.refl s)
  · exact SameGovernor.ite (sameGovernor_power (s := { s with power := { s.power with slotRef := min s.power.slotRef s.power.allowance } }) (bump_power _ _ _)) ⟨rfl, rfl, rfl, rfl⟩

/-! ### The allowance (R325, R329) -/

theorem nextAllowance_rises (s : State) (target : Nat) : s.nextAllowance target ≤ s.power.allowance + s.rampUp10 ∧
    s.nextAllowance target ≤ max s.power.allowance target := by
  unfold State.nextAllowance
  dsimp only
  split <;> omega

/-! ### Pace and ballast (R314, R328) -/

theorem paceOf_le (a demand : Nat) : paceOf a demand ≤ 64 := by
  unfold paceOf
  split
  · exact Nat.le_refl _
  · refine Nat.le_of_lt_succ ((Nat.div_lt_iff_lt_mul (by omega)).mpr ?_)
    omega

theorem setPower_same (s : State) (p : Power) : SameBut [.power] s { s with power := p } := by
  intro facet other
  cases facet with
  | power => exact absurd (List.mem_singleton_self _) other
  | _ => exact rfl

/-- The state with its pace set to meet the demand. -/
def paced (s : State) (demand : Nat) : State := { s with power := { s.power with k := paceOf s.power.allowance demand } }

theorem paced_capacity (s : State) (demand : Nat) : (paced s demand).ballastCapacity = s.ballastCapacity :=
  capacity_of (SameBut.mono rfl (setPower_same s _))

/-- The state whose allowance falls to what ballast can fill, its departure counted and logged. -/
def fallen (s : State) (demand gap cap : Nat) : State :=
  let t : State := { s with power := { s.power with ballast := min gap cap, allowance := (demand + cap) * 1000 } }
  let u := (t.bump Obj.rampShortfallTotal 1).departure 3 (gap - cap)
  if u.limitOpen 0x5001 ticksPerS then (u.limitMark 0x5001).log 0x5001 sevInfo agentRegulators none ((gap - cap) % 2 ^ 32) else u

theorem fallen_power (s : State) (demand gap cap : Nat) :
    (fallen s demand gap cap).power = { s.power with ballast := min gap cap, allowance := (demand + cap) * 1000 } := by
  have departed : ∀ t : State, ((t.bump Obj.rampShortfallTotal 1).departure 3 (gap - cap)).power = t.power := fun t =>
    (log_power _ _ _ _ _ _).trans ((bump_power _ _ _).trans (bump_power t _ _))
  unfold fallen
  dsimp only
  split
  · rw [log_power]
    exact departed _
  · exact departed _

theorem paceAndFill_eq (s : State) (demand : Nat) : s.paceAndFill demand =
    if !(paced s demand).fills then { paced s demand with power := { (paced s demand).power with ballast := 0 } }
    else if s.power.allowance / 1000 - demand ≤ (paced s demand).ballastCapacity then
      { paced s demand with power := { (paced s demand).power with ballast := min (s.power.allowance / 1000 - demand) (paced s demand).ballastCapacity } }
    else fallen (paced s demand) demand (s.power.allowance / 1000 - demand) (paced s demand).ballastCapacity := rfl

/-- Ballast fills the gap as far as it can, and the allowance falls to what it cannot fill. -/
theorem paceAndFill_within (s : State) (demand : Nat) : (s.paceAndFill demand).power.allowance ≤ s.power.allowance ∧
    (s.paceAndFill demand).power.ballast ≤ s.ballastCapacity ∧ (s.paceAndFill demand).power.k ≤ 64 ∧ (s.paceAndFill demand).power.rise = s.power.rise := by
  have pace : (paced s demand).power.k ≤ 64 := paceOf_le _ _
  rw [paceAndFill_eq, paced_capacity]
  split
  · exact ⟨Nat.le_refl _, Nat.zero_le _, pace, rfl⟩
  split
  · exact ⟨Nat.le_refl _, Nat.min_le_right _ _, pace, rfl⟩
  · rw [fallen_power]
    refine ⟨?_, Nat.min_le_right _ _, pace, rfl⟩
    show (demand + s.ballastCapacity) * 1000 ≤ s.power.allowance
    omega

/-! ### One tick -/

/-- The state in which the tick has scheduled its rise, held its slot and set its allowance. -/
def allowed (s : State) (demand amps : Nat) : State :=
  let u := (s.scheduleRise amps).slotTurn demand
  let v := u.slotGrant (u.powerTarget demand)
  { v with power := { v.power with allowance := v.nextAllowance (u.powerTarget demand) } }

theorem scheduleRise_bounded (s : State) (amps : Nat) : (s.scheduleRise amps).power.rise ≤ 300 := by
  unfold State.scheduleRise
  dsimp only
  split <;> omega

theorem slotGrant_rampUp (s : State) (target : Nat) : (s.slotGrant target).rampUp10 = s.rampUp10 := by
  unfold State.slotGrant
  split <;> rfl

theorem allowed_within (s : State) (demand amps : Nat) : (allowed s demand amps).power.allowance ≤ s.power.allowance + s.rampUp10 ∧
    (allowed s demand amps).power.allowance ≤ max s.power.allowance (((s.scheduleRise amps).slotTurn demand).powerTarget demand) ∧
    (allowed s demand amps).power.rise ≤ 300 := by
  have rise : ((s.scheduleRise amps).slotTurn demand).power.rise ≤ 300 := scheduleRise_bounded s amps
  have start : ((s.scheduleRise amps).slotTurn demand).power.allowance = s.power.allowance := rfl
  have ramp : ((s.scheduleRise amps).slotTurn demand).rampUp10 = s.rampUp10 := rfl
  unfold allowed
  generalize (s.scheduleRise amps).slotTurn demand = u at rise start ramp ⊢
  dsimp only
  obtain ⟨same, _, _, keeps⟩ := slotGrant_sameGovernor u (u.powerTarget demand)
  obtain ⟨step, level⟩ := nextAllowance_rises (u.slotGrant (u.powerTarget demand)) (u.powerTarget demand)
  rw [same, slotGrant_rampUp, start, ramp] at step
  rw [same, start] at level
  exact ⟨step, level, keeps.trans_le rise⟩

theorem allowed_same (s : State) (demand amps : Nat) : SameBut [.counters, .power] s (((allowed s demand amps).slotAfter
    (((s.scheduleRise amps).slotTurn demand).powerTarget demand)).fleeceTurn demand) := by
  have granted : SameBut [.counters, .power] s ((((s.scheduleRise amps).slotTurn demand)).slotGrant (((s.scheduleRise amps).slotTurn demand).powerTarget demand)) :=
    State_slotGrant_same rfl _ _ (State_slotTurn_same rfl _ _ (State_scheduleRise_same rfl s _ (SameBut.refl _ s)))
  exact State_fleeceTurn_same rfl _ _ (State_slotAfter_same rfl _ _ (SameBut.trans granted (SameBut.mono rfl (setPower_same _ _))))

/-- Settles O50: the allowance is set within the ramp, and the rest of the tick lets it fall at most. -/
theorem theAllowanceKeepsItsRamp : Obligations.TheAllowanceKeepsItsRamp := by
  intro s power demand amps
  refine ⟨governorTick power demand amps s, rfl, ?_⟩
  obtain ⟨step, level, rise⟩ := allowed_within s demand amps
  have frame : SameBut [.counters, .felt, .hbm, .tier, .tables, .bw, .ledger, .integ, .funcs, .power] s (governorTick power demand amps s) :=
    governorTick_same rfl power demand amps s (SameBut.refl _ s)
  have same := allowed_same s demand amps
  have turned : SameGovernor (allowed s demand amps) (((allowed s demand amps).slotAfter
      (((s.scheduleRise amps).slotTurn demand).powerTarget demand)).fleeceTurn demand) :=
    (slotAfter_sameGovernor _ _).trans ⟨rfl, rfl, rfl, rfl⟩
  have tick : governorTick power demand amps s = ((((((allowed s demand amps).slotAfter
      (((s.scheduleRise amps).slotTurn demand).powerTarget demand)).fleeceTurn demand).paceAndFill demand).sampleMeans
      ((((allowed s demand amps).slotAfter (((s.scheduleRise amps).slotTurn demand).powerTarget demand)).fleeceTurn demand).paceAndFill demand |>.heldPower
        power demand))).downTurn := rfl
  generalize ((allowed s demand amps).slotAfter (((s.scheduleRise amps).slotTurn demand).powerTarget demand)).fleeceTurn demand = w at same turned tick
  obtain ⟨less, within, pace, kept⟩ := paceAndFill_within w demand
  obtain ⟨ended, ballast, k, risen⟩ := (sampleMeans_sameGovernor (w.paceAndFill demand) ((w.paceAndFill demand).heldPower power demand)).trans
    (downTurn_sameGovernor _)
  obtain ⟨start, _, _, risen'⟩ := turned
  rw [capacity_of same] at within
  rw [start] at less
  rw [← tick] at ended ballast k risen
  refine ⟨?_, ?_, ?_, ?_, ?_, frame⟩
  · exact ended.trans_le (less.trans step)
  · exact ended.trans_le (less.trans level)
  · exact ballast.trans_le within
  · exact k.trans_le pace
  · exact risen.trans_le (kept.trans_le (risen'.trans_le rise))

end Sys2Proof.Proofs
end

section
/-! Floors, frames and the input (R332, R335, R336, R339 to R341). -/

set_option Elab.async false

namespace Sys2Proof.Proofs

open Sys2Proof Sys2Proof.Machine Sys2Proof.Laws

/-! ### Floors -/

theorem releaseFloor_holding {s : State} (h : s.power.fleece = .holding) :
    s.releaseFloor = { s with power := { s.power with fleece := .releasing } } := by
  unfold State.releaseFloor
  exact if_pos h

theorem scheduledRelease_holding {s : State} (h : s.power.fleece = .holding) (on : s.isOn Obj.fleeceRelease = true) :
    s.scheduledRelease = { s with power := { s.power with fleece := .releasing } } := by
  unfold State.scheduledRelease
  rw [on, if_pos rfl, releaseFloor_holding h]

/-! ### Frames -/

theorem slotFrameStart_starts {s : State} (slotted : s.slotted = true) (own : s.coordinates = true ∨ s.power.syncLost = true) :
    (slotFrameStart s).power.frame = s.now ∧ (slotFrameStart s).power.frameNo = (s.power.frameNo + 1) % 2 ^ 32 ∧ SameBut [.power] s (slotFrameStart s) := by
  have times : (s.coordinates || s.power.syncLost) = true := (Bool.or_eq_true _ _).mpr own
  unfold slotFrameStart
  rw [if_neg (by rw [slotted, times]; decide)]
  dsimp only
  split
  · exact ⟨rfl, rfl, setPower_same s _⟩
  · exact ⟨rfl, rfl, setPower_same s _⟩

theorem slotSyncLost_notes {s : State} (slotted : s.slotted = true) (other : s.coordinates = false) (had : s.power.syncLost = false) :
    (slotSyncLost s).power.syncLost = true := by
  unfold slotSyncLost
  rw [if_neg (by rw [slotted, other, had]; decide), log_power]

theorem syncLineFramePulse_starts {s : State} {pin : Nat} (hp : pin < 2) (sync : s.syncPin pin = true) :
    (syncLineFramePulse pin s).power.frame = s.now ∧ (syncLineFramePulse pin s).power.syncLost = false ∧ SameBut [.power] s (syncLineFramePulse pin s) := by
  unfold syncLineFramePulse
  rw [if_pos (by rw [sync]; simpa using hp)]
  exact ⟨rfl, rfl, setPower_same s _⟩

/-- A beacon with the module's slots starts a frame, and a coordinator that yields to its sender no longer coordinates. -/
theorem beacon_starts {s : State} (src : Udp) {node : Nat} (on : s.muslinOn = true) (muslin : s.num Obj.rampCoordination = 1)
    (yields : s.coordinates = true → s.yieldsTo node src.addr = true) :
    (beacon src (s.num Obj.slotCount) (s.num Obj.slotLength) node s).power.frame = s.now ∧
      (beacon src (s.num Obj.slotCount) (s.num Obj.slotLength) node s).power.syncLost = false ∧
      (beacon src (s.num Obj.slotCount) (s.num Obj.slotLength) node s).power.coordOff = (s.coordinates || s.power.coordOff) := by
  unfold beacon
  rw [if_neg (by rw [on, muslin]; decide)]
  cases coord : s.coordinates with
  | true =>
    rw [if_neg (by rw [yields coord]; decide)]
    dsimp only
    rw [if_pos rfl]
    have same : ∀ k, ({ s with power := { s.power with coordOff := true } } : State).num k = s.num k := fun _ => rfl
    rw [same, same, if_pos (by simp)]
    exact ⟨rfl, rfl, rfl⟩
  | false =>
    rw [if_neg (by rw [Bool.false_and]; decide)]
    dsimp only
    rw [if_neg Bool.false_ne_true, if_pos (by simp)]
    exact ⟨rfl, rfl, rfl⟩

/-! ### The input (R339 to R341) -/

theorem setInput_power (s : State) (x : InputSt) (mv : Nat) : (s.setInput x mv).power = { s.power with input := x, mv := mv } := by
  unfold State.setInput
  dsimp only
  split
  · rfl
  · rw [dropUpdate_power]

theorem log_ite_power (c : Bool) (s : State) (code sev agent : Nat) (addr : LogAddr) (detail : Nat) :
    (if c then s.log code sev agent addr detail else s).power = s.power := by
  split
  · exact log_power _ _ _ _ _ _
  · rfl

theorem inputLow_enters {s : State} {mv : Nat} (powered : s.boot.powered = true) (held : s.power.input ≠ .holdup) (low : mv < 48000) :
    (inputLow mv s).power.input = .low ∧ (inputLow mv s).power.mv = mv := by
  unfold inputLow
  rw [if_neg (by rw [powered]; simp [held]; omega), log_ite_power, setInput_power]
  exact ⟨rfl, rfl⟩

theorem inputHigh_enters {s : State} {mv : Nat} (powered : s.boot.powered = true) (held : s.power.input ≠ .holdup) (high : 59500 < mv) :
    (inputHigh mv s).power.input = .high ∧ (inputHigh mv s).power.mv = mv := by
  unfold inputHigh
  rw [if_neg (by rw [powered]; simp [held]; omega), log_ite_power, setInput_power]
  exact ⟨rfl, rfl⟩

/-- The input and the floor, which every later change of the hold-up keeps. -/
def HeldUp (mv : Nat) (s : State) : Prop := s.power.input = .holdup ∧ s.power.mv = mv ∧ s.power.fleece = .releasing

theorem HeldUp.power {mv : Nat} {s t : State} (h : HeldUp mv s) (same : t.power = s.power) : HeldUp mv t := by
  unfold HeldUp
  rw [same]
  exact h

theorem allOff_heldUp {mv : Nat} {s : State} (h : HeldUp mv s) : HeldUp mv s.allOff := by
  have same : (allFuncs.foldl (fun (t : State) f => if t.isDown f then t else t.reach f .off) s).power = s.power :=
    fold_keep State.power _ (fun t f => by
      split
      · rfl
      · exact State_reach_same (fl := ps92) rfl t f .off (SameBut.refl _ t) .power (by decide)) _ s
  unfold State.allOff
  generalize allFuncs.foldl (fun (t : State) f => if t.isDown f then t else t.reach f .off) s = u at same ⊢
  exact (h.power same : HeldUp mv u)

theorem stopBringup_heldUp {mv : Nat} {s : State} (h : HeldUp mv s) : HeldUp mv s.stopBringup := by
  have closed : HeldUp mv s.closeHost := h.power (State_closeHost_same (fl := ps156) rfl s (SameBut.refl _ s) .power (by decide))
  exact (allOff_heldUp closed).power rfl

theorem inputHoldup_enters {s : State} {mv : Nat} (powered : s.boot.powered = true) (held : s.power.input ≠ .holdup) (down : mv < 44000)
    (floor : s.power.fleece = .holding) : HeldUp mv (inputHoldup mv s) := by
  have noted : ((s.setInput .holdup mv).log 0x500D sevFatal agentRegulators none (mv / 10)).power = { s.power with input := .holdup, mv := mv } :=
    (log_power _ _ _ _ _ _).trans (setInput_power s .holdup mv)
  have released : HeldUp mv (((s.setInput .holdup mv).log 0x500D sevFatal agentRegulators none (mv / 10)).releaseFloor) := by
    rw [releaseFloor_holding (by rw [noted]; exact floor)]
    unfold HeldUp
    dsimp only
    rw [noted]
    exact ⟨rfl, rfl, rfl⟩
  unfold inputHoldup
  rw [if_neg (by rw [powered]; simp [held]; omega)]
  dsimp only
  generalize ((s.setInput .holdup mv).log 0x500D sevFatal agentRegulators none (mv / 10)).releaseFloor = u at released ⊢
  split
  · exact stopBringup_heldUp released
  · have emptied : HeldUp mv { u with power := { u.power with slotRise := none, slotRef := u.power.allowance, ballast := 0 } } := released
    split
    · exact emptied.power ((log_power _ _ _ _ _ _).trans (bump_power _ _ _))
    · exact emptied

theorem inputBack_booted {s : State} (mv : Nat) (booted : s.boot.phase ≠ .rom) : s.inputBack mv = { s with power := { s.power with input := .normal, mv := mv } } := by
  unfold State.inputBack
  have same : s.setInput .normal mv = { s with power := { s.power with input := .normal, mv := mv } } := rfl
  rw [same]
  exact if_neg (by simp [booted])

theorem inputNormal_back {s : State} {mv : Nat} (booted : s.boot.phase ≠ .rom)
    (back : s.power.input = .high ∧ mv ≤ 59000 ∨ (s.power.input = .low ∨ s.power.input = .holdup) ∧ 48500 ≤ mv) :
    inputNormal mv s = { s with power := { s.power with input := .normal, mv := mv } } := by
  rw [← inputBack_booted mv booted]
  unfold inputNormal
  rcases back with ⟨input, room⟩ | ⟨input | input, room⟩
  all_goals
    rw [input]
    exact if_pos room

/-- Work is cancelled, and the module starts towards Standby. -/
theorem brownoutHoldExpiry_starts {s : State} (input : s.power.input = .holdup) (powered : s.boot.powered = true) (up : s.beforeReady = false)
    (active : s.thermal.modSt = .active) : brownoutHoldExpiry s = s.cancelAll.startState 1 true := by
  unfold brownoutHoldExpiry
  rw [if_neg (by rw [input, powered, up]; decide), active]

theorem startState_standby (s : State) (fast : Bool) : (s.startState 1 fast).thermal.modSt = .changing 1 ∧ (s.startState 1 fast).power.descend = some drawStandby ∧
    (s.startState 1 fast).ledger = s.ledger := by
  refine ⟨rfl, rfl, ?_⟩
  have released : s.releaseFloor.ledger = s.ledger := by
    unfold State.releaseFloor
    split <;> rfl
  exact released

theorem losePower_unpowered (s : State) : s.losePower.boot.powered = false := rfl

/-- Settles O51: each row by its own operation. -/
theorem floorsFramesAndInputStates : Obligations.FloorsFramesAndInputStates := by
  unfold Obligations.FloorsFramesAndInputStates
  refine ⟨?holdMax, ?release, ?frame, ?lost, ?pulse, ?beacon, ?input, ?normal, ?brownout, ?off⟩
  case holdMax =>
    intro s floor limit
    exact congrArg Host.Outcome.next ((if_neg limit).trans (releaseFloor_holding floor))
  case release =>
    intro s pin number floor on
    refine ⟨fun muslin => ?_, fun hp sync => ?_⟩
    · exact congrArg Host.Outcome.next ((if_pos muslin).trans (scheduledRelease_holding floor on))
    · exact congrArg Host.Outcome.next ((if_pos (by rw [sync]; simpa using hp)).trans (scheduledRelease_holding floor on))
  case frame =>
    intro s slotted own
    exact ⟨_, rfl, slotFrameStart_starts slotted own⟩
  case lost =>
    intro s slotted other had
    exact ⟨_, rfl, slotSyncLost_notes slotted other had⟩
  case pulse =>
    intro s pin hp sync
    exact ⟨_, rfl, syncLineFramePulse_starts hp sync⟩
  case beacon =>
    intro s src frame node time on muslin yields
    exact ⟨_, rfl, beacon_starts src on muslin yields⟩
  case input =>
    intro s mv powered held
    exact ⟨fun low => ⟨_, rfl, inputLow_enters powered held low⟩, fun high => ⟨_, rfl, inputHigh_enters powered held high⟩,
      fun down floor => ⟨_, rfl, inputHoldup_enters powered held down floor⟩⟩
  case normal =>
    intro s mv booted back
    exact congrArg Host.Outcome.next (inputNormal_back booted back)
  case brownout =>
    intro s input powered up active
    obtain ⟨changing, descend, ledger⟩ := startState_standby s.cancelAll true
    refine ⟨_, congrArg Host.Outcome.next (brownoutHoldExpiry_starts input powered up active), changing, descend, ?_⟩
    rw [ledger]
    exact List.all_eq_true.mp (cancelAll_finished s)
  case off =>
    intro s powered
    refine ⟨_, congrArg Host.Outcome.next (if_pos powered), ?_⟩
    exact losePower_unpowered _

end Sys2Proof.Proofs
end

section
/-! Clocks, sleep, transitions, time and samples (R347, R348, R351 to R355, R369, R370). -/

set_option Elab.async false

namespace Sys2Proof.Proofs

open Sys2Proof Sys2Proof.Machine Sys2Proof.Laws

/-! ### The reference clock (R347, R348) -/

theorem setThermal_same (s : State) (x : Thermal) : SameBut [.thermal] s { s with thermal := x } := by
  intro facet other
  cases facet with
  | thermal => exact absurd (List.mem_singleton_self _) other
  | _ => exact rfl

theorem refclkLost_holds {s : State} (present : s.thermal.holdover = false) :
    (refclkLost s).thermal = { s.thermal with holdover := true } ∧ SameBut [.counters, .ledger, .integ, .thermal] s (refclkLost s) := by
  unfold refclkLost
  rw [if_neg (by rw [present]; decide)]
  refine ⟨log_thermal _ _ _ _ _ _, ?_⟩
  exact State_log_same rfl _ _ _ _ _ _ (SameBut.mono rfl (setThermal_same s _))

theorem aonTrim_counts {s : State} (present : s.thermal.holdover = false) :
    aonTrim s = { s with thermal := { s.thermal with trims := s.thermal.trims + 1 } } := by
  unfold aonTrim
  exact if_neg (by rw [present]; decide)

theorem refclkHoldoverExpiry_forces {s : State} (held : s.thermal.holdover = true) (up : s.bringingUp = false) (powered : s.boot.powered = true) :
    refclkHoldoverExpiry s = s.forceState 1 false := by
  unfold refclkHoldoverExpiry
  exact if_pos (by rw [held, up, powered]; decide)

theorem forceState_active {s : State} (active : s.thermal.modSt = .active) (target : Nat) (fast : Bool) :
    s.forceState target fast = s.cancelAll.startState target fast := by
  unfold State.forceState
  rw [active]

/-! ### Tiles (R351 to R353) -/

/-- Bringing the barrier counts up to date writes the one tile, and keeps its clock step. -/
theorem tickBars_tiles (s : State) (n : Nat) : ∃ f : Tile → Tile, (∀ t, (f t).step = t.step) ∧ ∀ m, (s.tickBars n).tile m = (s.adjTile n f).tile m := by
  refine ⟨fun t => { t with blocks := t.blocks.map fun b => { b with bars := b.bars.map fun e => (e.1, e.2.count1 n (s.tile n) s.now) } },
    fun _ => rfl, fun _ => rfl⟩

theorem tickBars_step (s : State) (n : Nat) : ((s.tickBars n).tile n).step = (s.tile n).step := by
  obtain ⟨f, keeps, tiles⟩ := tickBars_tiles s n
  rw [tiles, tile_adjTile, keeps]

theorem tickBars_other (s : State) {n m : Nat} (h : m ≠ n) : (s.tickBars n).tile m = s.tile m := by
  obtain ⟨f, _, tiles⟩ := tickBars_tiles s n
  rw [tiles, tile_adjTile_other _ _ _ _ h]

theorem clockStepComplete_issues {s : State} {n : Nat} (retune : (s.tile n).retune = true) : ((clockStepComplete n s).tile n).retune = false ∧
    ((clockStepComplete n s).tile n).step = (s.tile n).step ∧ ∀ m, m ≠ n → (clockStepComplete n s).tile m = s.tile m := by
  unfold clockStepComplete
  rw [if_pos retune, tile_adjTile]
  exact ⟨rfl, tickBars_step s n, fun m other => (tile_adjTile_other _ _ _ _ other).trans (tickBars_other s other)⟩

theorem idleNapDelayExpiry_naps {s : State} {p : Nat} (hp : p < 72) (on : s.func (.domain (rowDomain p)) = .on) (rests : s.tileRests p = true)
    (idle : s.sleepOf p = .idle) (ballast : s.power.ballast = 0) (naps : s.num Obj.idleTileState ≠ 0) : idleNapDelayExpiry p s = s.setSleep p .nap := by
  unfold idleNapDelayExpiry
  exact if_neg (by rw [on, rests, idle, ballast]; simp [naps]; omega)

theorem idleOffDelayExpiry_waits {s : State} {p : Nat} (hp : p < 72) (on : s.func (.domain (rowDomain p)) = .on) (rests : s.tileRests p = true)
    (idle : s.sleepOf p = .idle) (ballast : s.power.ballast = 0) (off : s.num Obj.idleTileState = 2)
    (other : ((rowTiles (rowDomain p)).all ((s.setSleep p .napOff).offReady)) = false) : idleOffDelayExpiry p s = s.setSleep p .napOff := by
  unfold idleOffDelayExpiry
  rw [if_neg (by rw [on, rests, idle, ballast, off]; simp; omega)]
  exact if_neg (by rw [other]; decide)

theorem tileWakeComplete_wakes {s : State} {p n : Nat} (bound : s.logicalOf p = some n) (alloc : (s.tile n).alloc.isSome = true)
    (good : s.ledger.faultMask.contains n = false) (on : s.func (.domain (rowDomain p)) = .on) (nap : s.sleepOf p = .nap)
    (clock : s.thermal.holdover = false) : tileWakeComplete p s = s.setSleep p .idle := by
  unfold tileWakeComplete
  rw [bound]
  dsimp only
  exact if_pos (by rw [alloc, good, on, nap, clock]; decide)

/-! ### Transitions (R355) -/

theorem standby_entered {s : State} (up : s.beforeReady = false) (free : s.thermal.forced = none) (changing : s.thermal.modSt = .changing 1)
    (low : s.power.allowance ≤ drawStandby * 1000) (ready : s.downReady 1 = true) : (moduleStateChangeComplete s).thermal.modSt = .standby := by
  rw [down_base s 1 up ready changing (by decide) low, if_pos rfl, calm_follow s.enterStandby free]
  rfl

theorem dormant_entered {s : State} (up : s.beforeReady = false) (free : s.thermal.forced = none) (changing : s.thermal.modSt = .changing 2)
    (low : s.power.allowance ≤ drawDormant * 1000) (ready : s.downReady 2 = true) : (moduleStateChangeComplete s).thermal.modSt = .dormant := by
  obtain ⟨dormant, forced⟩ := dormant_mod s
  rw [down_base s 2 up ready changing (by decide) low, if_neg (by decide), calm_follow _ (forced.trans free), dormant]

theorem active_entered {s : State} (up : s.beforeReady = false) (free : s.thermal.forced = none) (changing : s.thermal.modSt = .changing 0)
    (clock : s.thermal.holdover = false) (input : s.power.input = .normal) (ready : s.upReady = true) :
    (moduleStateChangeComplete s).thermal.modSt = .active ∧ (moduleStateChangeComplete s).thermal.tripped = false := by
  obtain ⟨active, forced, untripped⟩ := active_mod s
  have runs : moduleStateChangeComplete s = s.enterActive.followForced := by
    unfold moduleStateChangeComplete
    rw [changing]
    dsimp only
    rw [if_neg (by rw [up]; decide), if_pos rfl, if_neg (by rw [clock, input, ready]; decide)]
  rw [runs, calm_follow _ (forced.trans free)]
  exact ⟨active, untripped⟩

/-! ### Time (R369) -/

/-- The rate moves within 100 ppm where it moves, and nothing but the thermal record changes. -/
def Disciplined (s t : State) : Prop :=
  t.now = s.now ∧ SameBut [.thermal] s t ∧ (t.thermal.slew = s.thermal.slew ∨ -100 ≤ t.thermal.slew ∧ t.thermal.slew ≤ 100)

theorem discipline_same (s : State) (a b : Nat) : SameBut [.thermal] s (s.discipline a b) := by
  unfold State.discipline
  split
  · exact SameBut.refl _ s
  · exact setThermal_same s _

theorem ppsEdge_disciplines {s : State} {pin : Nat} (hp : pin < 2) (owner : (if pin = 0 then s.dict.claims.aux0 else s.dict.claims.aux1) = .pps)
    (own : s.num Obj.ppsPin = pin + 1) : (ppsEdge pin s).thermal.pps = s.now ∧ Disciplined s (ppsEdge pin s) := by
  unfold ppsEdge
  dsimp only
  rw [if_neg (by rw [owner, own]; simp; omega)]
  split
  · split
    · exact ⟨rfl, rfl, setThermal_same s _, .inl rfl⟩
    · have same := discipline_same { s with thermal := { s.thermal with pps := s.now, timeLost := false } } (s.now - s.thermal.pps) ticksPerS
      obtain ⟨slew, stamp, pps, _, _⟩ := dis { s with thermal := { s.thermal with pps := s.now, timeLost := false } } (s.now - s.thermal.pps) ticksPerS
      exact ⟨pps, stamp, SameBut.trans (setThermal_same s _) same, slew⟩
  · exact ⟨rfl, rfl, setThermal_same s _, .inl rfl⟩

theorem time_disciplines {s : State} (tai : Nat) (on : s.muslinOn = true) (source : s.num Obj.timeSource = 2) :
    (time tai s).thermal.lastTime = some (tai, s.now) ∧ (time tai s).thermal.timeLost = false ∧ Disciplined s (time tai s) := by
  unfold time
  rw [if_neg (by rw [on, source]; decide)]
  dsimp only
  split
  · exact ⟨rfl, rfl, rfl, setThermal_same s _, .inl rfl⟩
  · next t0 n0 _ =>
    split
    · have same := discipline_same { s with thermal := { s.thermal with lastTime := some (tai, s.now), timeLost := false } } (s.now - n0) ((tai - t0) * 12 / 10)
      obtain ⟨slew, stamp, _, last, found⟩ :=
        dis { s with thermal := { s.thermal with lastTime := some (tai, s.now), timeLost := false } } (s.now - n0) ((tai - t0) * 12 / 10)
      exact ⟨last, found rfl, stamp, SameBut.trans (setThermal_same s _) same, slew⟩
    · exact ⟨rfl, rfl, rfl, setThermal_same s _, .inl rfl⟩

theorem timeSourceLost_unlocks {s : State} (source : s.num Obj.timeSource ≠ 0) (had : s.thermal.timeLost = false) :
    (timeSourceLost s).thermal = { s.thermal with locked := false, timeLost := true } := by
  unfold timeSourceLost
  dsimp only
  rw [if_neg (by rw [had]; simp [source]), log_thermal]

/-! ### Samples (R370) -/

/-- An engine's write of a whole sector that Felt can write. -/
theorem engineWrite_whole {s : State} {sn cls : Nat} {bs : Bytes} (agent : Nat) (mapped : s.violationKind (sn * 32) true = none)
    (open' : s.writable sn cls = true) (whole : bs.length = 32) :
    ∃ t, s.engineWrite agent cls sn bs none = (t, .ok ()) ∧ t.mem = s.mem ∧ (∀ j m, s.writable j m = true → t.writable j m = true) ∧
      t.feltSector sn = some { present := true, dirty := true, fetching := false, master := 0, val := { data := bytesSector bs, mark := none } } ∧
      ∀ j, j ≠ sn → t.feltSector j = s.feltSector j := by
  obtain ⟨t, put, mem, serves, sector, rest⟩ := bankStore_whole (mark := none) open' whole
  refine ⟨l1Updated t sn bs none, ?_, mem, fun j m hj => serves.1 j m hj, sector, rest⟩
  unfold State.engineWrite
  rw [mapped]
  dsimp only
  rw [put] <;> rfl

/-- Two sectors side by side. -/
theorem engineWrites_pair {s : State} {sn cls : Nat} {bs : Bytes} (agent : Nat)
    (may : ∀ k, k < 2 → s.violationKind ((sn + k) * 32) true = none ∧ s.writable (sn + k) cls = true) (len : bs.length = 64) :
    ∃ t, s.engineWrites agent cls [(sn, bs.take 32, none), (sn + 1, bs.drop 32, none)] = (t, .ok ()) ∧
      ∀ k, k < 2 → ∃ x, t.feltSector (sn + k) = some x ∧ x.dirty = true ∧ x.val = { data := bytesSector ((bs.drop (32 * k)).take 32), mark := none } := by
  obtain ⟨mapped, open'⟩ := may 0 (by decide)
  obtain ⟨mapped', open''⟩ := may 1 (by decide)
  obtain ⟨t, wrote, mem, serves, sector, _⟩ := engineWrite_whole (sn := sn) (bs := bs.take 32) agent mapped open' (by rw [List.length_take, len]; rfl)
  obtain ⟨u, wrote', _, _, sector', rest⟩ := engineWrite_whole (s := t) (sn := sn + 1) (bs := bs.drop 32) agent
    ((violationKind_of_mem mem _ _).trans mapped') (serves _ _ open'') (by rw [List.length_drop, len])
  refine ⟨u, ?_, fun k hk => ?_⟩
  · unfold State.engineWrites
    rw [wrote]
    dsimp only
    unfold State.engineWrites
    rw [wrote']
    rfl
  · match k, hk with
    | 0, _ => exact ⟨_, (rest sn (by omega)).trans sector, rfl, rfl⟩
    | 1, _ =>
      refine ⟨_, sector', rfl, ?_⟩
      rw [List.take_of_length_le (by rw [List.length_drop, len])]

theorem perfSample_written {s v : State} {a : Nat} (on : s.isOn Obj.perfSampleEnable = true) (ready : s.boot.phase = .ready)
    (ha : s.num Obj.perfSampleBase + 64 * (s.thermal.perfIdx % max 1 (s.num Obj.perfSampleEntries)) = a)
    (wrote : s.engineWrites agentHalfManagers (mScrub 0) [(a / 32, s.perfRecord.take 32, none), (a / 32 + 1, s.perfRecord.drop 32, none)] = (v, .ok ())) :
    perfSample s = { v with thermal := { v.thermal with perfIdx := v.thermal.perfIdx + 1 } } := by
  unfold perfSample
  rw [if_neg (by rw [on, ready]; decide)]
  dsimp only
  rw [ha, wrote]

theorem engineWrites_thermal {s t : State} {agent cls : Nat} {l : List (Nat × Bytes × Option PoisonClass)} {r : ChanRes Unit}
    (h : s.engineWrites agent cls l = (t, r)) : t.thermal = s.thermal := by
  have same := State_engineWrites_same (fl := ps152) rfl agent cls l s (SameBut.refl _ s)
  rw [h] at same
  exact same .thermal (by decide)

/-- Settles O52: each row by its own operation. -/
theorem clocksSleepAndTransitions : Obligations.ClocksSleepAndTransitions := by
  unfold Obligations.ClocksSleepAndTransitions
  refine ⟨⟨?lost, ?expiry, fun s => rfl, ?step, ?sleep, ?wake⟩, ?down, ?up, ?pps, ?time, ?unlock, ?sample⟩
  case lost =>
    intro s present
    obtain ⟨held, same⟩ := refclkLost_holds present
    exact ⟨_, rfl, held, same, congrArg Host.Outcome.next (aonTrim_counts present)⟩
  case expiry =>
    intro s held up powered
    refine ⟨congrArg Host.Outcome.next (refclkHoldoverExpiry_forces held up powered), fun active => ?_⟩
    rw [forceState_active active]
    exact (startState_standby s.cancelAll false).1
  case step =>
    intro s n retune
    exact ⟨_, rfl, clockStepComplete_issues retune⟩
  case sleep =>
    intro s p hp on rests idle ballast
    refine ⟨fun naps => ⟨s.setSleep p .nap, congrArg Host.Outcome.next (idleNapDelayExpiry_naps hp on rests idle ballast naps), sleepOf_setSleep s p .nap,
      setSleep_same s p .nap, fun q other => sleepOf_other s p q .nap other⟩, fun off other => ?_⟩
    exact ⟨s.setSleep p .napOff, congrArg Host.Outcome.next (idleOffDelayExpiry_waits hp on rests idle ballast off other), sleepOf_setSleep s p .napOff,
      setSleep_same s p .napOff⟩
  case wake =>
    intro s p n bound alloc good on nap clock
    exact ⟨s.setSleep p .idle, congrArg Host.Outcome.next (tileWakeComplete_wakes bound alloc good on nap clock), sleepOf_setSleep s p .idle,
      setSleep_same s p .idle⟩
  case down =>
    intro s up free
    exact ⟨fun changing low ready => ⟨_, rfl, standby_entered up free changing low ready⟩,
      fun changing low ready => ⟨_, rfl, dormant_entered up free changing low ready⟩⟩
  case up =>
    intro s up free changing clock input ready
    exact ⟨_, rfl, active_entered up free changing clock input ready⟩
  case pps =>
    intro s pin hp owner own
    exact ⟨_, rfl, ppsEdge_disciplines hp owner own⟩
  case time =>
    intro s tai seq node on source
    exact ⟨_, rfl, time_disciplines tai on source⟩
  case unlock =>
    intro s source had
    exact ⟨_, rfl, timeSourceLost_unlocks source had⟩
  case sample =>
    intro s v a on ready ha
    refine ⟨fun wrote => congrArg Host.Outcome.next (perfSample_written on ready ha wrote), fun may => ?_⟩
    obtain ⟨t, wrote, sectors⟩ := engineWrites_pair agentHalfManagers may (natLE_length 64 _)
    refine ⟨_, congrArg Host.Outcome.next (perfSample_written on ready ha wrote), ?_, sectors⟩
    exact congrArg (fun x : Thermal => x.perfIdx + 1) (engineWrites_thermal wrote)

end Sys2Proof.Proofs
end

section
/-! Sensors, trips and throttle asks (R357 to R361, R365). -/

set_option Elab.async false

namespace Sys2Proof.Proofs

open Sys2Proof Sys2Proof.Machine Sys2Proof.Laws

theorem sensorSample_awake {s : State} (rs es : List Reading) (powered : s.boot.powered = true) (awake : s.thermal.modSt ≠ .dormant) :
    sensorSample rs es s = match (if (s.sampled rs es).thermal.tripped || (s.sampled rs es).thermal.hotBoot then none else (s.sampled rs es).tripper) with
      | some k => (s.sampled rs es).trip k.1 k.2
      | none => (s.sampled rs es).throttleSample := by
  unfold sensorSample
  rw [if_neg (by rw [powered]; simp [awake])] <;> rfl

theorem sensorSample_trips {s : State} {rs es : List Reading} {k : Nat × Int} (powered : s.boot.powered = true) (awake : s.thermal.modSt ≠ .dormant)
    (untripped : (s.sampled rs es).thermal.tripped = false) (cool : (s.sampled rs es).thermal.hotBoot = false) (tripper : (s.sampled rs es).tripper = some k) :
    sensorSample rs es s = (s.sampled rs es).trip k.1 k.2 := by
  rw [sensorSample_awake rs es powered awake, untripped, cool, if_neg (by decide), tripper]

theorem sensorSample_throttles {s : State} {rs es : List Reading} (powered : s.boot.powered = true) (awake : s.thermal.modSt ≠ .dormant)
    (calm : (s.sampled rs es).thermal.tripped = true ∨ (s.sampled rs es).thermal.hotBoot = true ∨ (s.sampled rs es).tripper = none) :
    sensorSample rs es s = (s.sampled rs es).throttleSample := by
  have none' : (if (s.sampled rs es).thermal.tripped || (s.sampled rs es).thermal.hotBoot then none else (s.sampled rs es).tripper) = none := by
    rcases calm with tripped | hot | cool
    · rw [tripped, Bool.true_or, if_pos rfl]
    · rw [hot, Bool.or_true, if_pos rfl]
    · rw [cool, ite_self]
  rw [sensorSample_awake rs es powered awake, none']

/-! ### A trip (R365) -/

/-- Standby after a trip: the allowance is at most its draw, and there is no ballast. -/
def Tripped (s : State) : Prop :=
  s.thermal.modSt = .standby ∧ s.thermal.tripped = true ∧ s.power.allowance ≤ drawStandby * 1000 ∧ s.power.ballast = 0

/-- A module that has come up is stopped by a trip. -/
theorem trip_stops {u : State} (k : Nat) (v : Int) (up : u.bringingUp = false) : Tripped (u.trip k v) := by
  unfold State.trip
  extract_lets a s1 s2 board s3
  have boot : s3.boot = u.boot := (log_boot s1 _ _ _ _ _).trans ((bump_boot _ _ _).trans ((log_boot _ _ _ _ _ _).trans (bump_boot u _ _)))
  have same : s3.bringingUp = false := by
    unfold State.bringingUp
    rw [boot]
    exact up
  rw [if_neg (by rw [same]; decide)]
  exact ⟨rfl, rfl, Nat.min_le_right _ _, rfl⟩

/-! ### Suspect sensors (R358, R359) -/

theorem judge_suspects {m : NMap Sensor} {k : Nat} {x : Sensor} {v : Int} (trusted : x.suspect = false) (median : medianAt m k = some v)
    (apart : 800 < gapOf x.reading v) (often : 19 ≤ x.disagree) :
    (judge m k x).suspect = true ∧ ((judge m k x).byEst = false → (judge m k x).gov = v) := by
  have counted : runOn (decide (800 < gapOf x.reading v)) x.disagree = x.disagree + 1 := if_pos (decide_eq_true apart)
  have due : decide (20 ≤ x.disagree + 1) = true := decide_eq_true (by omega)
  simp only [judge, trusted, median, counted, due, Bool.or_true, Bool.false_and, Bool.false_or, Bool.false_eq_true, if_false, if_true, true_and]
  intro byEst
  rw [byEst, if_neg (by decide)]
  rfl

theorem judge_trusts {m : NMap Sensor} {k : Nat} {x : Sensor} {v : Int} (trusted : x.suspect = false) (median : medianAt m k = some v)
    (near : gapOf x.reading v ≤ 800) (alone : x.est = none) : (judge m k x).suspect = false ∧ (judge m k x).gov = x.reading := by
  have counted : runOn (decide (800 < gapOf x.reading v)) x.disagree = 0 := if_neg (by simpa using near)
  simp [judge, trusted, median, alone, counted]

/-! ### The end of a grace (R361) -/

theorem setAsks_same (s : State) (l : List Ask) : SameBut [.thermal] s (s.setAsks l) := setThermal_same s _

theorem endGrace_enforces {s : State} {a : Ask} (first : (s.thermal.asks.find? fun x => !x.enforced) = some a) (hot : s.stillHot a = true) :
    SameBut [.counters, .tiles, .ledger, .integ, .thermal] s s.endGrace ∧ s.endGrace.thermal = { s.thermal with
      asks := adjFirst (fun x => !x.enforced) (fun x => { x with enforced := true, hot := 0, cool := 0 }) s.thermal.asks } := by
  refine ⟨State_endGrace_same rfl s (SameBut.refl _ s), ?_⟩
  unfold State.endGrace
  rw [first]
  dsimp only
  rw [if_pos hot]
  exact (State_thermalSteps_same (fl := ps64) rfl _ (SameBut.refl _ _) .thermal (by decide)).trans ((bump_thermal _ _ _).trans (log_thermal _ _ _ _ _ _))

theorem endGrace_withdraws {s : State} {a : Ask} (first : (s.thermal.asks.find? fun x => !x.enforced) = some a) (cool : s.stillHot a = false) :
    s.endGrace.tiles = s.tiles ∧ s.endGrace.thermal = { s.thermal with asks := dropFirst (fun x => !x.enforced) s.thermal.asks } := by
  unfold State.endGrace
  rw [first]
  dsimp only
  rw [if_neg (by rw [cool]; decide)]
  exact ⟨State_log_same (fl := ps63) rfl _ _ _ _ _ _ (SameBut.refl _ _) .tiles (by decide), log_thermal _ _ _ _ _ _⟩

/-- Settles O53: each row by its own operation. -/
theorem sensorsTripAndThrottle : Obligations.SensorsTripAndThrottle := by
  unfold Obligations.SensorsTripAndThrottle
  refine ⟨?sample, ?trip, ?suspect, ?trusted, ?grace⟩
  case sample =>
    intro s rs es powered awake
    exact ⟨fun k untripped cool tripper => congrArg Host.Outcome.next (sensorSample_trips powered awake untripped cool tripper),
      fun calm => congrArg Host.Outcome.next (sensorSample_throttles powered awake calm)⟩
  case trip =>
    exact fun u k v up => trip_stops k v up
  case suspect => exact fun m k x v trusted median apart often => judge_suspects trusted median apart often
  case trusted => exact fun m k x v trusted median near alone => judge_trusts trusted median near alone
  case grace =>
    intro s a first
    exact ⟨fun hot => ⟨_, rfl, endGrace_enforces first hot⟩, fun cool => ⟨_, rfl, endGrace_withdraws first cool⟩⟩

end Sys2Proof.Proofs
end

section
/-! Bring-up (R375 to R386). -/

set_option Elab.async false

namespace Sys2Proof.Proofs

open Sys2Proof Sys2Proof.Machine Sys2Proof.Laws

theorem boot_of {fl : List Facet} {s t : State} (h : SameBut fl s t) (hl : Facet.boot ∉ fl := by decide) : t.boot = s.boot := h .boot hl

/-! ### Link training (R376, R377) -/

theorem setBoot_same (s : State) (b : Boot) : SameBut [.boot] s { s with boot := b } := by
  intro facet other
  cases facet with
  | boot => exact absurd (List.mem_singleton_self _) other
  | _ => exact rfl

theorem fillTurn_frame (s : State) : SameBut [.boot] s s.fillTurn := by
  unfold State.fillTurn
  split
  · exact setBoot_same s _
  · exact SameBut.refl _ s

theorem memoryTrained_fillTurn (s : State) : s.fillTurn.memoryTrained = s.memoryTrained := by
  unfold State.fillTurn
  split <;> rfl

theorem fillTurn_fills {s : State} (training : s.boot.phase = .training) (trained : s.fillTurn.memoryTrained = true) : s.fillTurn.boot.phase = .fill := by
  rw [memoryTrained_fillTurn] at trained
  unfold State.fillTurn
  rw [if_pos (by rw [training, trained]; decide)]

theorem linkTrained_port {s : State} {sub : Nat} (width rate node cap bw ide : Nat) (may : s.mayTrain sub = true) :
    (linkTrained (.port sub) width rate node cap bw ide s).link sub = { trained := true, window := true, result := 2, rate := 0 } := by
  have kept : ∀ t : State, (t.portTrained sub width rate node cap bw ide).boot = t.boot := fun t =>
    boot_of (State_portTrained_same (fl := [.counters, .sessions, .draws, .tiles, .felt, .hbm, .tier, .tables, .bw, .ledger, .integ, .iface]) rfl
      t sub width rate node cap bw ide (SameBut.refl _ t))
  unfold linkTrained
  dsimp only
  rw [if_neg (by rw [may]; decide)]
  have links := (fillTurn_same ((s.setLink sub { trained := true, window := true, result := 2, rate := 0 }).portTrained sub width rate node cap bw ide)).1
  rw [kept] at links
  unfold State.link
  rw [links]
  exact link_setLink s sub _

/-- The state that holds a trained stack. -/
def stackTrained (s : State) (k : Nat) : State := { s with boot := { s.boot with hbmTrained := insertNat s.boot.hbmTrained k } }

theorem linkTrained_hbm {s : State} {k : Nat} (width rate node cap bw ide : Nat) (training : s.boot.phase = .training) (there : s.stacks.contains k = true)
    (clock : s.thermal.holdover = false) (on : s.func (.domain (16 + k / 8)) = .on) :
    linkTrained (.hbm k) width rate node cap bw ide s = (stackTrained s k).fillTurn := by
  unfold linkTrained
  exact if_pos (by rw [training, there, clock, on]; decide)

/-! ### Qualification (R378) -/

theorem linkQualWindowEnd_open {s : State} {sub : Nat} (errors received bad : Nat) (trained : (s.link sub).trained = true) (window : (s.link sub).window = true) :
    linkQualWindowEnd (.port sub) errors received bad s =
      if (linkRate sub errors received).1 * 10 ^ 15 < (linkRate sub errors received).2 && bad == 0 then
        s.setLink sub { trained := true, window := false, result := 0, rate := BitVec.ofNat 32 (ratioF32 (linkRate sub errors received)) }
      else s.linkFails sub { trained := sub == 19, window := false, result := 1, rate := BitVec.ofNat 32 (ratioF32 (linkRate sub errors received)) } := by
  unfold linkQualWindowEnd
  dsimp only
  rw [if_neg (by rw [trained, window]; decide)]

/-! ### Deadlines (R380) -/

theorem linkTrainingDeadline_stack {s : State} {k : Nat} (training : s.boot.phase = .training) (free : s.bringupHeld = false)
    (there : s.stacks.contains k = true) (untrained : s.boot.hbmTrained.contains k = false) :
    (linkTrainingDeadline (.hbm k) s).boot.phase = .failed := by
  unfold linkTrainingDeadline
  dsimp only
  rw [if_pos (by rw [training, there, untrained, free]; decide)]
  exact failed_phase s 1 k

theorem linkTrainingDeadline_halfLink {s : State} (training : s.boot.phase = .training) (free : s.bringupHeld = false)
    (untrained : (s.link 22).trained = false) : (linkTrainingDeadline (.port 22) s).boot.phase = .failed := by
  have due : linkFunc 22 = none := rfl
  unfold linkTrainingDeadline
  dsimp only
  rw [if_neg (by rw [untrained, free]; decide), due]
  dsimp only
  rw [if_pos (by rw [training]; simp)]
  unfold State.linkFails
  dsimp only
  rw [if_pos rfl]
  exact failed_phase _ 0 0

/-! ### The fill (R381) -/

/-- The state with HBM and Felt empty, in which the broadcast starts. -/
def memoryFilled (s : State) : State :=
  { s with
    mem := { s.mem with hbm := .empty }, felt := { s.felt with lines := [], accepts := true }
    boot := { s.boot with phase := .broadcast, round := 0, stage := 0 } }

theorem hbmFillComplete_fills {s : State} (bad : List Nat) (fill : s.boot.phase = .fill) (free : s.bringupHeld = false)
    (domains : ∀ c, 12 ≤ c → c ≤ 15 → s.func (.domain c) = .on) : hbmFillComplete bad s = bad.foldl State.fillBad (memoryFilled s.applyRepairs) := by
  have on : ([12, 13, 14, 15].all fun c => s.func (.domain c) == .on) = true := by
    rw [List.all_eq_true]
    intro c hc
    simp only [List.mem_cons, List.not_mem_nil, or_false] at hc
    rw [domains c (by omega) (by omega)]
    rfl
  unfold hbmFillComplete
  rw [if_neg (by rw [fill, free, on]; decide)]
  rfl

theorem fillBads_boot (bad : List Nat) (s : State) : (bad.foldl State.fillBad s).boot = s.boot :=
  fold_keep State.boot _ (fun t g => boot_of
    (State_fillBad_same (fl := [.counters, .draws, .hbm, .tier, .tables, .bw, .ledger, .integ]) rfl t g (SameBut.refl _ t))) bad s

/-! ### The broadcast (R382, R383) -/

theorem snooped_new {s : State} {half : Nat} (seq core : Nat) (new : NMap.look s.boot.snoop half = none) :
    s.snooped half seq core = ({ s with boot := { s.boot with snoop := NMap.put s.boot.snoop half (seq, [core]) } }, true) := by
  unfold State.snooped
  rw [new]

theorem core_kept (s : State) (c image pkt last : Nat) (payload : Bytes) : ({ s with boot := { s.boot with
    cores := NMap.upd s.boot.cores c Core.empty fun x => x.keep image pkt last payload } } : State).core c = (s.core c).keep image pkt last payload :=
  lookD_put_same _ _ _ _

theorem core_of {s t : State} (h : t.boot.cores = s.boot.cores) (c : Nat) : t.core c = s.core c := by
  unfold State.core
  rw [h]

theorem broadcastPacket_kept {s : State} {c h : Nat} {packet : Bytes} (phase : s.boot.phase = .broadcast) (expected : s.coreExpected c = true)
    (stage : s.boot.stage ≠ 0 ∨ h / 2 ^ 76 % 16 = 0 ∨ h / 2 ^ 76 % 16 = manifest) (new : NMap.look s.boot.snoop (coreHalf c) = none)
    (head : leNat (packet.take 16) = h) (length : packet.length = 272) (crc : h / 2 ^ 96 = (crc32c (packet.take 12 ++ packet.drop 16)).toNat)
    (zero : h / 2 ^ 72 % 16 = 0) (zero' : h % 2 ^ 27 = 0) (mine : h / 2 ^ 76 % 16 = coreImage c ∨ h / 2 ^ 76 % 16 = manifest)
    (meant : h / 2 ^ 27 % 2048 = (if h / 2 ^ 38 % 4 = 0 then 0 else c)) :
    (broadcastPacket c packet s).core c = (s.core c).keep (h / 2 ^ 76 % 16) (h / 2 ^ 56 % 65536) (h / 2 ^ 40 % 65536) (packet.drop 16) := by
  have taken : (decide (s.boot.stage = 0) && decide (h / 2 ^ 76 % 16 ≠ 0) && decide (h / 2 ^ 76 % 16 ≠ manifest)) = false := by
    rcases stage with stage | image | image
    · rw [decide_eq_false stage, Bool.false_and, Bool.false_and]
    · rw [image]
      simp
    · rw [image]
      simp
  have good : (decide (packet.length ≠ 272) || decide (h / 2 ^ 96 ≠ (crc32c (packet.take 12 ++ packet.drop 16)).toNat) || decide (h / 2 ^ 72 % 16 ≠ 0) ||
      decide (h % 2 ^ 27 ≠ 0)) = false := by
    rw [length, zero, zero', ← crc]
    simp
  have own : ((h / 2 ^ 76 % 16 == coreImage c || h / 2 ^ 76 % 16 == manifest) && h / 2 ^ 27 % 2048 == (if h / 2 ^ 38 % 4 = 0 then 0 else c)) = true := by
    rw [meant, beq_self_eq_true, Bool.and_true, Bool.or_eq_true, beq_iff_eq, beq_iff_eq]
    exact mine
  unfold broadcastPacket
  dsimp only
  rw [head, taken, snooped_new _ _ new, good, own, if_neg (by rw [phase, expected]; decide), if_pos (by exact rfl), core_kept]
  refine congrArg (fun x : Core => x.keep (h / 2 ^ 76 % 16) (h / 2 ^ 56 % 65536) (h / 2 ^ 40 % 65536) (packet.drop 16)) (core_of ?_ c)
  split <;> rfl

theorem broadcastRoundEnd_checked {s : State} (phase : s.boot.phase = .broadcast) (free : s.bringupHeld = false) :
    broadcastRoundEnd s = if !(s.checkCores.stageCores.filter fun c => !(s.checkCores.core c).verified).isEmpty && s.checkCores.boot.round < 3 then
        { s.checkCores with boot := { s.checkCores.boot with round := s.checkCores.boot.round + 1 } }
      else s.checkCores.stageOver (s.checkCores.stageCores.filter fun c => !(s.checkCores.core c).verified) := by
  unfold broadcastRoundEnd
  exact if_neg (by rw [phase, free]; decide)

theorem stageOver_manifests {s : State} (stage : s.boot.stage = 0) :
    s.stageOver [] = { s with boot := { s.boot with stage := 1, round := 0 } } := by
  unfold State.stageOver
  exact if_pos stage

theorem startManagers_phase (s : State) : s.startManagers.boot.phase = .selftest := rfl

theorem stageOver_images {s : State} (stage : s.boot.stage ≠ 0) : (s.stageOver []).boot.phase = .selftest := by
  have runs : s.stageOver [] = s.startManagers := by
    unfold State.stageOver
    exact if_neg stage
  rw [runs, startManagers_phase]

/-! ### The self-test (R384, R385) -/

/-- The state in which the tiles that the self-test found bad are logged and recorded. -/
def selftested (s : State) (bad : List Nat) : State :=
  let t := bad.foldl (fun (t : State) p => t.log 0x6005 sevError agentHalfManagers none p) s
  { t with boot := { t.boot with failed := bad } }

theorem selftestLog_boot (s : State) (bad : List Nat) :
    (bad.foldl (fun (t : State) p => t.log 0x6005 sevError agentHalfManagers none p) s).boot = s.boot :=
  fold_keep State.boot _ (fun t p => log_boot t _ _ _ _ p) bad s

theorem selftested_eq (s : State) (bad : List Nat) : selftested s bad =
    { bad.foldl (fun (t : State) p => t.log 0x6005 sevError agentHalfManagers none p) s with boot := { s.boot with failed := bad } } := by
  unfold selftested
  dsimp only
  rw [selftestLog_boot]

theorem bindAll_binds (u : State) : u.bindAll.boot.phase = .qualify ∧ u.bindAll.boot.binding = u.bindHalf 0 ++ u.bindHalf 1 ∧
    u.bindAll.boot.spares = u.sparesOf 0 ++ u.sparesOf 1 := by
  have kept : ∀ t : State, t.restAll.lockSteps.boot = t.boot := fun t =>
    boot_of (fl := [.tiles, .thermal]) (State_lockSteps_same rfl _ (State_restAll_same rfl t (SameBut.refl _ t)))
  unfold State.bindAll
  dsimp only
  rw [kept]
  exact ⟨rfl, rfl, rfl⟩

theorem selftestComplete_binds {s : State} {failed bad : List Nat} (phase : s.boot.phase = .selftest) (free : s.bringupHeld = false)
    (still : ∀ c, c < 12 → (s.func (.domain c)).turningOn = false)
    (hbad : bad = (failed.foldl insertNat []).filter fun p => decide (p < 72) && !s.fuses.fused.contains p && !s.boot.record.contains p)
    (west : 4 ≤ ((selftested s bad).goodTiles 0).length) (east : 4 ≤ ((selftested s bad).goodTiles 1).length) :
    selftestComplete failed s = (selftested s bad).bindAll := by
  subst hbad
  have quiet : ((List.range 12).any fun c => (s.func (.domain c)).turningOn) = false := by
    rw [List.any_eq_false]
    intro c hc
    rw [still c (List.mem_range.mp hc)]
    decide
  unfold selftestComplete
  rw [if_neg (by rw [phase, free, quiet]; decide)]
  show (match [0, 1].find? fun h => decide (((selftested s _).goodTiles h).length < 4) with
    | some h => _
    | none => _) = _
  rw [List.find?_cons_of_neg (by simpa using west), List.find?_cons_of_neg (by simpa using east)]
  rfl

/-! ### Ready (R386) -/

/-- The module is Ready after `ms`, with this power record. -/
def UpAndReady (ms : Nat) (p : Power) (s : State) : Prop := s.boot.phase = .ready ∧ s.boot.lastMs = ms ∧ s.power = p

theorem UpAndReady.same {ms : Nat} {p : Power} {fl : List Facet} {s t : State} (h : UpAndReady ms p s) (same : SameBut fl s t)
    (hb : Facet.boot ∉ fl := by decide) (hp : Facet.power ∉ fl := by decide) : UpAndReady ms p t := by
  unfold UpAndReady
  rw [boot_of same hb, power_of same hp]
  exact h

/-- What ends bring-up leaves the boot and power records: the counter, the log, the confirmations and the first interval. -/
theorem readyEnd_same (t : State) (d ms : Nat) :
    let u := (if d = 0 then t else t.bump Obj.unavailableTime d).log 0x6001 sevInfo agentHalfManagers none (ms % 2 ^ 32)
    SameBut [.counters, .blobs, .bw, .ledger, .integ, .images] t
      (bwIntervalBoundary [] (if u.num Obj.updateConfirmMode = 0 then (List.range 4).foldl State.confirm u else u)) := by
  have logged : SameBut [.counters, .blobs, .bw, .ledger, .integ, .images] t
      ((if d = 0 then t else t.bump Obj.unavailableTime d).log 0x6001 sevInfo agentHalfManagers none (ms % 2 ^ 32)) :=
    State_log_same rfl _ _ _ _ _ _ (SameBut.ite (SameBut.refl _ t) (State_bump_same rfl t _ _ (SameBut.refl _ t)))
  intro u
  exact bwIntervalBoundary_same rfl [] _ (SameBut.ite (foldl_same _ _ logged fun u k h => State_confirm_same rfl u k h) logged)

theorem bringupComplete_ready {s : State} {ms : Nat} (phase : s.boot.phase = .qualify) (free : s.bringupHeld = false) (settled : s.linksSettled = true)
    (link : (s.link 22).trained = true) (window : (s.link 22).window = false) (draw : drawIdle * 1000 ≤ s.power.allowance) :
    UpAndReady ms s.power (bringupComplete ms s) := by
  unfold bringupComplete
  rw [if_neg (by rw [phase, free, settled, link, window]; simp; omega)]
  extract_lets cold down lost boot dict t
  have ready : UpAndReady ms s.power t := ⟨rfl, rfl, rfl⟩
  exact ready.same (readyEnd_same t down ms)

/-- Settles O54: each row by its own operation. -/
theorem bringUpRunsStepByStep : Obligations.BringUpRunsStepByStep := by
  unfold Obligations.BringUpRunsStepByStep
  refine ⟨?power, ?port, ?stack, ?window, ?deadline, ?fill, ?packet, ?round, ?selftest, ?complete⟩
  case power =>
    intro s may
    obtain ⟨powered, phase, input, link, _⟩ := powerUp_core s
    exact ⟨_, congrArg Host.Outcome.next (if_pos may), powered, phase, input, link⟩
  case port =>
    intro s sub width rate node cap bw ide may
    exact ⟨_, rfl, linkTrained_port width rate node cap bw ide may⟩
  case stack =>
    intro s k width rate node cap bw ide training there clock on
    exact ⟨_, congrArg Host.Outcome.next (linkTrained_hbm width rate node cap bw ide training there clock on), (fillTurn_same (stackTrained s k)).2,
      fun trained => fillTurn_fills (s := stackTrained s k) training trained, SameBut.trans (setBoot_same s _) (fillTurn_frame (stackTrained s k))⟩
  case window =>
    intro s sub errors received bad trained window
    have runs := linkQualWindowEnd_open errors received bad trained window
    refine ⟨fun low clean => congrArg Host.Outcome.next (runs.trans (if_pos ?_)), fun high => congrArg Host.Outcome.next (runs.trans (if_neg ?_))⟩
    · rw [clean, decide_eq_true low]
      decide
    · rcases high with dirty | high
      · simp [dirty]
      · rw [decide_eq_false (Nat.not_lt.mpr high), Bool.false_and]
        decide
  case deadline =>
    intro s training free
    exact ⟨fun k there untrained => ⟨_, rfl, linkTrainingDeadline_stack training free there untrained⟩,
      fun untrained => ⟨_, rfl, linkTrainingDeadline_halfLink training free untrained⟩⟩
  case fill =>
    intro s bad fill free domains
    have boot := fillBads_boot bad (memoryFilled s.applyRepairs)
    refine ⟨_, congrArg Host.Outcome.next (hbmFillComplete_fills bad fill free domains), congrArg Boot.phase boot, congrArg Boot.round boot, ?_⟩
    rintro rfl
    exact ⟨rfl, rfl⟩
  case packet =>
    intro s c h packet phase expected stage new head length crc zero zero' mine meant
    exact ⟨_, rfl, broadcastPacket_kept phase expected stage new head length crc zero zero' mine meant⟩
  case round =>
    intro s phase free u missing
    have runs : broadcastRoundEnd s = if !missing.isEmpty && u.boot.round < 3 then { u with boot := { u.boot with round := u.boot.round + 1 } }
      else u.stageOver missing := broadcastRoundEnd_checked phase free
    generalize missing = l at runs ⊢
    refine ⟨fun some' early => congrArg Host.Outcome.next (runs.trans (if_pos ?_)), ?_, ?_⟩
    · simp [some', early]
    · rintro rfl stage
      exact congrArg Host.Outcome.next (runs.trans (stageOver_manifests stage))
    · rintro rfl stage
      exact ⟨_, congrArg Host.Outcome.next runs, stageOver_images stage⟩
  case selftest =>
    intro s failed phase free still bad u west east
    have eq : u = selftested s bad := (selftested_eq s bad).symm
    rw [eq] at west east ⊢
    obtain ⟨phase', binding, spares⟩ := bindAll_binds (selftested s bad)
    exact ⟨_, congrArg Host.Outcome.next (selftestComplete_binds phase free still rfl west east), phase', binding, spares⟩
  case complete =>
    intro s ms phase free settled link window draw
    exact ⟨_, rfl, bringupComplete_ready phase free settled link window draw⟩

end Sys2Proof.Proofs
end

section
/-! Resets and power (R387 to R392, R418, R453 to R455). -/

set_option Elab.async false

namespace Sys2Proof.Proofs

open Sys2Proof Sys2Proof.Machine Sys2Proof.Laws

/-! ### Compute resets (R388 to R390) -/

theorem computeResetBegin_begins {s : State} (phase : s.boot.phase = .computeReset) (first : s.boot.crPhase = 1)
    (down : s.power.allowance ≤ drawIdle * 1000) (settled : s.bundleChange = false) (active : s.thermal.modSt = .active) :
    (computeResetBegin s).boot = { s.boot with crPhase := 2 } := by
  have emptied : (s.closure.flushAll true).resetFelt.boot = s.boot :=
    boot_of (fl := ps132) (State_resetFelt_same rfl _ (State_flushAll_same rfl _ true (State_closure_same rfl s (SameBut.refl _ s))))
  have rest : ∀ t : State, (t.applyRepairs.retryHost).retry.boot = t.boot := fun t =>
    boot_of (fl := [.counters, .draws, .tiles, .felt, .hbm, .tier, .tables, .bw, .ledger, .integ])
      (State_retry_same rfl _ (State_retryHost_same rfl _ (State_applyRepairs_same rfl t (SameBut.refl _ t))))
  unfold computeResetBegin
  rw [if_neg (by rw [phase, first, settled, active]; simp; omega)]
  dsimp only
  rw [rest]
  exact congrArg (fun b : Boot => { b with crPhase := 2 }) emptied

theorem shortSelftestComplete_ends {s : State} (failed : List Nat) (ms : Nat) (phase : s.boot.phase = .computeReset) (second : s.boot.crPhase = 2)
    (active : s.thermal.modSt = .active) : (shortSelftestComplete failed ms s).boot.phase = .ready ∧ (shortSelftestComplete failed ms s).boot.crPhase = 0 ∧
      (shortSelftestComplete failed ms s).boot.resetMs = ms := by
  have rest : ∀ (t : State) (c : Prop) [Decidable c], ((if c then (t.applySteps.bump Obj.computeResetTotal 1).bump Obj.unavailableTime ms else
      t.applySteps.bump Obj.computeResetTotal 1).log 0x6008 sevInfo agentHalfManagers none (ms % 2 ^ 32)).boot = t.boot := fun t c _ =>
    boot_of (fl := [.counters, .tiles, .ledger, .integ]) (State_log_same rfl _ _ _ _ _ _ (SameBut.ite
      (State_bump_same rfl _ _ _ (State_bump_same rfl _ _ _ (State_applySteps_same rfl t (SameBut.refl _ t))))
      (State_bump_same rfl _ _ _ (State_applySteps_same rfl t (SameBut.refl _ t)))))
  unfold shortSelftestComplete
  rw [if_neg (by rw [phase, second, active]; decide)]
  dsimp only
  rw [rest]
  exact ⟨rfl, rfl, rfl⟩

/-! ### Power off and on (R391, R392) -/

theorem losePower_boot (s : State) : s.losePower.boot = { s.boot.restarted true with powered := false, pwrOff := false } := by
  have same : (if s.updating then s.abortUpdate else s).boot = s.boot := by
    split
    · exact boot_of (State_abortUpdate_same (fl := ps44) rfl s (SameBut.refl _ s))
    · rfl
  exact congrArg (fun b : Boot => { b.restarted true with powered := false, pwrOff := false }) same

theorem flushed_boot (s : State) : (s.closure.flushAll true).boot = s.boot :=
  boot_of (fl := ps132) (State_flushAll_same rfl _ true (State_closure_same rfl s (SameBut.refl _ s)))

theorem powerOffComplete_ready {s : State} (ready : s.offReadyNow = true) :
    powerOffComplete s = if (s.closure.flushAll true).losePower.mayPowerUp then (s.closure.flushAll true).losePower.powerUp
      else (s.closure.flushAll true).losePower := by
  unfold powerOffComplete
  exact if_neg (by rw [ready]; decide)

theorem losePower_mayPowerUp (s : State) : s.losePower.mayPowerUp = (s.boot.pwrEn && !s.boot.tripLatched) := by
  unfold State.mayPowerUp
  rw [losePower_boot]
  show (!false && s.boot.pwrEn && !s.boot.tripLatched && !false) = _
  rw [Bool.not_false, Bool.true_and, Bool.and_true]

theorem pwrEnDeassert_descends {s : State} (powered : s.boot.powered = true) (on : s.boot.pwrOff = false) :
    (pwrEnDeassert s).boot = { s.boot with pwrEn := false, pwrOff := true } ∧ (pwrEnDeassert s).power.descend = some drawDormant := by
  have kept : ∀ t : State, ((t.cancelAll.releaseFloor).log 0x9007 sevInfo agentRegulators none 0).boot = t.boot := fun t =>
    boot_of (fl := [.counters, .tiles, .felt, .ledger, .integ, .power]) (State_log_same rfl _ _ _ _ _ _
      (State_releaseFloor_same rfl _ (State_cancelAll_same rfl t (SameBut.refl _ t))))
  unfold pwrEnDeassert
  dsimp only
  rw [if_neg (by rw [powered, on]; decide)]
  refine ⟨?_, rfl⟩
  dsimp only
  rw [kept]

theorem pwrEnAssert_powers {s : State} (off : s.boot.powered = false) (armed : s.boot.tripLatched = false) (done : s.boot.pwrOff = false)
    (low : 48000 ≤ s.power.mv) (high : s.power.mv ≤ 59500) : pwrEnAssert s = ({ s with boot := { s.boot with pwrEn := true } } : State).powerUp := by
  have may : ({ s with boot := { s.boot with pwrEn := true } } : State).mayPowerUp = true := by
    show (!s.boot.powered && true && !s.boot.tripLatched && !s.boot.pwrOff) = true
    rw [off, armed, done]
    rfl
  unfold pwrEnAssert
  dsimp only
  rw [may, decide_eq_true low, decide_eq_true high, if_pos (by decide)]

theorem inputTripped_latches {s : State} (c : TripCause) (powered : s.boot.powered = true) :
    (inputTripped c s).boot = { s.cutPower.boot with tripCause := tripCode c, tripLatched := true, tripLog := true } := by
  unfold inputTripped
  rw [if_neg (by rw [powered]; decide)]

theorem cutPower_unpowered (s : State) : s.cutPower.boot.powered = false := by
  unfold State.cutPower
  exact losePower_unpowered _

/-- Settles O55: a reset restarts bring-up, and each row of the power sequence runs its own operation. -/
theorem resetsAndPowerOff : Obligations.ResetsAndPowerOff := by
  unfold Obligations.ResetsAndPowerOff
  refine ⟨?reset, ?causes, ?begins, ?ends, ?deassert, ?off, ?assert, ?trip, ?rearm⟩
  case reset =>
    intro s powered idle
    exact ⟨s.fullReset, rfl, fullReset_core s powered idle⟩
  case causes =>
    intro s powered u
    refine ⟨congrArg Host.Outcome.next (if_pos powered), rfl, fun up => congrArg Host.Outcome.next (if_neg ?_)⟩
    rw [powered, up]
    decide
  case begins =>
    intro s phase first down settled active
    have boot := computeResetBegin_begins phase first down settled active
    exact ⟨_, rfl, congrArg Boot.crPhase boot, (congrArg Boot.phase boot).trans phase⟩
  case ends =>
    intro s failed ms phase second active
    exact ⟨_, rfl, shortSelftestComplete_ends failed ms phase second active⟩
  case deassert =>
    intro s powered on
    exact ⟨_, rfl, pwrEnDeassert_descends powered on⟩
  case off =>
    intro s ready
    have runs := powerOffComplete_ready ready
    have boot := losePower_boot (s.closure.flushAll true)
    rw [losePower_mayPowerUp, flushed_boot] at runs
    refine ⟨fun pwrEn => ?_, fun pwrEn armed => ?_⟩
    · rw [pwrEn, Bool.false_and, if_neg (by decide)] at runs
      exact ⟨_, congrArg Host.Outcome.next runs, congrArg Boot.powered boot, congrArg Boot.pwrOff boot⟩
    · rw [pwrEn, armed, if_pos (by decide)] at runs
      obtain ⟨powered, phase, _⟩ := powerUp_core (s.closure.flushAll true).losePower
      exact ⟨_, congrArg Host.Outcome.next runs, powered, phase⟩
  case assert =>
    intro s off armed done low high
    have runs := pwrEnAssert_powers off armed done low high
    have pwrEn : ({ s with boot := { s.boot with pwrEn := true } } : State).boot.pwrEn = true := rfl
    generalize ({ s with boot := { s.boot with pwrEn := true } } : State) = u at runs pwrEn
    obtain ⟨powered, phase, _, _, kept⟩ := powerUp_core u
    exact ⟨_, congrArg Host.Outcome.next runs, kept.trans pwrEn, powered, phase⟩
  case trip =>
    intro s c powered
    have boot := inputTripped_latches c powered
    exact ⟨_, rfl, (congrArg Boot.powered boot).trans (cutPower_unpowered s), congrArg Boot.tripLatched boot, congrArg Boot.tripCause boot⟩
  case rearm =>
    intro s pwrEn
    exact congrArg Host.Outcome.next (if_neg (by rw [pwrEn]; decide))

end Sys2Proof.Proofs
end

section
/-! Host link, second-tier links, Muslin, pins and coolant (R403 to R406, R420 to R423, R452, R453, R459). -/

set_option Elab.async false

namespace Sys2Proof.Proofs

open Sys2Proof Sys2Proof.Machine Sys2Proof.Laws

/-! ### The host link (R403, R404, R453) -/

theorem hostLinked_facts (s : State) (width rate ide : Nat) : (s.hostLinked width rate ide).iface =
    { s.iface with hostLink := 2, hostWidth := width, hostRate := rate, hostIde := ide } ∧ (s.hostLinked width rate ide).dict.hostOpen = true :=
  ⟨rfl, rfl⟩

/-- What the link's return sets off leaves the interfaces and the sessions. -/
theorem linkResumed_same (t : State) (c : Prop) [Decidable c] (low : Bool) (down d : Nat) :
    let u := (if c then t else t.bump Obj.unavailableTime down).log 0x7002 sevInfo agentHost none d
    SameBut ps157 t ((if low then u.log 0x7003 sevError agentHost none d else u).resumeCopies).resumeRings := by
  have logged : SameBut ps157 t ((if c then t else t.bump Obj.unavailableTime down).log 0x7002 sevInfo agentHost none d) :=
    State_log_same rfl _ _ _ _ _ _ (SameBut.ite (SameBut.refl _ t) (State_bump_same rfl t _ _ (SameBut.refl _ t)))
  intro u
  exact State_resumeRings_same rfl _ (State_resumeCopies_same rfl _ (SameBut.ite (State_log_same rfl _ _ _ _ _ _ logged) logged))

theorem hostLinkUp_opens {s : State} (width rate ide : Nat) (powered : s.boot.powered = true) (down : s.iface.hostLink ≠ 2)
    (trained : (s.link 19).trained = true) :
    (hostLinkUp width rate ide s).iface = { (s.hostLinked width rate ide).iface with downSince := none, orderLost := false } ∧
      (hostLinkUp width rate ide s).dict.hostOpen = true := by
  unfold hostLinkUp
  rw [if_neg (by rw [powered, trained]; simp [down])]
  extract_lets low lost linked iface t
  have same := linkResumed_same t (lost = 0) low lost (width + rate * 256)
  exact ⟨iface_of same (by decide), open_of' same (by decide)⟩

theorem hostPerstN_trains {s : State} (powered : s.boot.powered = true) (booted : s.boot.phase ≠ .rom) : (hostPerstN s).iface.hostLink = 1 := by
  unfold hostPerstN
  rw [if_neg (by rw [powered]; simp [booted])]

theorem irqHoldoffExpiry_sends {s : State} (more : s.ledger.irqMore = true) (link : s.iface.hostLink = 2) :
    irqHoldoffExpiry s = { s with ledger := { s.ledger with irqLast := some s.now, irqMore := false, msix := s.ledger.msix ++ [0] } } := by
  unfold irqHoldoffExpiry
  rw [if_pos more]
  exact if_pos link

theorem setLedger_same (s : State) (l : Ledger) : SameBut [.ledger] s { s with ledger := l } := by
  intro facet other
  cases facet with
  | ledger => exact absurd (List.mem_singleton_self _) other
  | _ => exact rfl

/-! ### Second-tier links (R217, R405, R406) -/

theorem tier2LinkDown_notes {s : State} {port : Nat} (hp : port < 2) (there : NMap.has s.iface.t2width port = true)
    (up : s.iface.t2down.contains port = false) : (tier2LinkDown port s).iface.t2down = s.iface.t2down ++ [port] := by
  unfold tier2LinkDown
  rw [if_neg (by rw [there, up]; simp; omega)]
  dsimp only
  rw [iface_of (State_abortTo_same (fl := ps126) rfl _ _ (SameBut.refl _ _)) (by decide), log_iface]

theorem portBack_up (s : State) (p : Nat) : p ∉ (s.portBack p).iface.t2down := by
  have kept : ∀ (t : State) (l : NMap (Nat × SectorVal)), (l.foldl (fun (t : State) e => t.writeMem e.1 e.2.2 e.2.1) t).retry.iface = t.iface := fun t l =>
    (iface_of (State_retry_same (fl := ps152) rfl _ (SameBut.refl _ _)) (by decide)).trans
      (fold_keep State.iface _ (fun u e => iface_of (State_writeMem_same (fl := ps107) rfl u e.1 e.2.2 e.2.1 (SameBut.refl _ u)) (by decide)) l t)
  unfold State.portBack
  dsimp only
  rw [kept]
  simp

/-! ### Muslin (R420 to R423) -/

theorem muslinOpen_busy {s : State} (src : Udp) (on : s.muslinOn = true) (full : s.num Obj.muslinSessionMax ≤ s.dict.sessions.length) :
    muslinOpen src s = s.muslinSend 2 0 dBusy src := by
  unfold muslinOpen
  rw [if_neg (by rw [on]; decide), if_pos full]

theorem muslinOpen_opens {s : State} (src : Udp) (on : s.muslinOn = true) (room : s.dict.sessions.length < s.num Obj.muslinSessionMax) :
    NMap.look (muslinOpen src s).dict.sessions (lowestFree (s.dict.sessions.map (·.1)) 0x10) = some { src := src, lastSeq := none, saved := none } ∧
      (muslinOpen src s).iface.muslinTx = s.iface.muslinTx ++
        [{ type := 2, session := lowestFree (s.dict.sessions.map (·.1)) 0x10, status := dOk, dst := src }] := by
  unfold muslinOpen
  rw [if_neg (by rw [on]; decide), if_neg (Nat.not_le.mpr room)]
  exact ⟨look_put_same _ _ _, rfl⟩

theorem muslinClose_ends {s : State} {src : Udp} {n : Nat} {m : MuslinSession} (on : s.muslinOn = true) (session : NMap.look s.dict.sessions n = some m)
    (own : m.src = src) : NMap.look (muslinClose src n s).dict.sessions n = none := by
  unfold muslinClose
  rw [session]
  dsimp only
  rw [if_pos (by rw [on, own]; simp)]
  exact look_del_same _ _

/-- A request of the session's opener is answered by its SEQ. -/
theorem request_owned {s : State} {src : Udp} {n : Nat} {m : MuslinSession} {w : W64} {data : Bytes} (seq : Nat) (on : s.muslinOn = true)
    (session : NMap.look s.dict.sessions n = some m) (own : m.src = src) (good : muslinWordOk w data = true) :
    request src n seq w data s = match m.lastSeq with
      | none => s.muslinServe n seq w data
      | some k =>
        if seq = (k + 1) % 65536 then s.muslinServe n seq w data
        else if seq = k then
          match m.saved with
          | some r => (s.bump Obj.muslinDuplicateTotal 1).respond r
          | none => s
        else s := by
  unfold request
  rw [if_neg (by rw [on]; decide), if_neg (by rw [good]; decide), session]
  dsimp only
  rw [if_neg (by rw [own]; simp)] <;> rfl

theorem succ_mod_ne (k : Nat) : k ≠ (k + 1) % 65536 := by omega

/-! ### Pins (R452) -/

/-- The marks of the trace after a trigger. -/
def traceMarked (s : State) : State := if s.dict.claims.trace = 0 then s else { s with board := { s.board with marks := s.board.marks + 1 } }

theorem debugTrigger_marks {s : State} {pin : Nat} (powered : s.boot.powered = true) (owner : s.pinOwner pin = .debugTrigger) :
    (debugTrigger pin s).board.marks = if s.dict.claims.trace = 0 then s.board.marks else s.board.marks + 1 := by
  have runs : debugTrigger pin s = ((traceMarked s).bump Obj.debugTriggerTotal 1).log 0x9006 sevInfo agentHalfManagers none pin := by
    unfold debugTrigger
    exact if_neg (by rw [powered, owner]; decide)
  have marked : (traceMarked s).board.marks = if s.dict.claims.trace = 0 then s.board.marks else s.board.marks + 1 := by
    unfold traceMarked
    split <;> rfl
  rw [runs, log_board]
  exact marked

theorem bump_counter_other (s : State) {k j : Nat} (n : Nat) (other : j ≠ k) : (s.bump k n).counter j = s.counter j := by
  unfold State.bump State.counter NMap.lookD
  dsimp only
  rw [look_put_other _ _ _ _ other]

/-- An entry of the log counts no other counter than the overruns. -/
theorem log_counter (s : State) (code sev agent : Nat) (addr : LogAddr) (detail : Nat) {k : Nat} (other : k ≠ Obj.errorLogOverruns) :
    (s.log code sev agent addr detail).counter k = s.counter k := by
  have overrun : ∀ (c : Bool) (t : State), (if c then t.bump Obj.errorLogOverruns 1 else t).counter k = t.counter k := fun c t => by
    split
    · exact bump_counter_other t 1 other
    · rfl
  unfold State.log
  dsimp only
  rw [counter_of (State_logIrq_same (fl := ps16) rfl _ sev (SameBut.refl _ _)) (by decide)]
  exact overrun _ _

theorem auxPulseInvalid_counts {s : State} {pin : Nat} (micros : Nat) (powered : s.boot.powered = true) (owner : s.pinOwner pin ≠ .none) :
    auxPulseInvalid pin micros s = if (s.bump Obj.auxPulseInvalidTotal 1).limitOpen 0x90050000 ticksPerS then
        ((s.bump Obj.auxPulseInvalidTotal 1).limitMark 0x90050000).log 0x9005 sevInfo agentHalfManagers none (pin + micros % 2 ^ 24 * 256)
      else s.bump Obj.auxPulseInvalidTotal 1 := by
  unfold auxPulseInvalid
  exact if_neg (by rw [powered]; simp [owner])

theorem auxPulseInvalid_counter {s : State} {pin : Nat} (micros : Nat) (powered : s.boot.powered = true) (owner : s.pinOwner pin ≠ .none) :
    (auxPulseInvalid pin micros s).counter Obj.auxPulseInvalidTotal = (s.bump Obj.auxPulseInvalidTotal 1).counter Obj.auxPulseInvalidTotal := by
  rw [auxPulseInvalid_counts micros powered owner]
  split
  · rw [log_counter _ _ _ _ _ _ (by decide)]
    exact counter_of (State_limitMark_same (fl := ps14) rfl _ _ (SameBut.refl _ _)) (by decide) _
  · rfl

/-! ### Coolant (R459) -/

theorem coolantCheck_holds {s : State} (inlet deltaP dew : Int) (a b c : Bool) (powered : s.boot.powered = true) :
    (coolantCheck inlet deltaP dew a b c s).board.inlet = inlet ∧ (coolantCheck inlet deltaP dew a b c s).board.deltaP = deltaP ∧
      (coolantCheck inlet deltaP dew a b c s).board.dew = dew := by
  unfold coolantCheck
  rw [if_neg (by rw [powered]; decide)]
  extract_lets board t0 t t1 t2
  obtain ⟨i1, p1, d1⟩ := coolant_keeps t0 0 (decide (450 < inlet)) a (t inlet)
  obtain ⟨i2, p2, d2⟩ := coolant_keeps t1 1 (decide (36 * deltaP < 8750)) b (flowCenti deltaP % 65536)
  obtain ⟨i3, p3, d3⟩ := coolant_keeps t2 2 (decide (inlet < dew + 20)) c (t inlet + t dew * 65536)
  exact ⟨i3.trans (i2.trans i1), p3.trans (p2.trans p1), d3.trans (d2.trans d1)⟩

theorem coolantBit_new {s : State} {bit : Nat} (detail : Nat) (new : natBit s.board.coolant bit = false) :
    (s.coolantBit bit true true detail).board.coolant = s.board.coolant + 2 ^ bit := by
  unfold State.coolantBit
  rw [new, if_pos rfl]
  dsimp only
  rw [if_pos (by decide), log_board]

/-- Settles O56: each row by its own operation. -/
theorem hostMuslinAndBoardEvents : Obligations.HostMuslinAndBoardEvents := by
  unfold Obligations.HostMuslinAndBoardEvents
  refine ⟨?down, ?up, ?perst, ?irq, ?tier, ?expander, ?muslin, ?session, ?pins, ?coolant, fun s bit detail new => coolantBit_new detail new⟩
  case down =>
    intro s link
    obtain ⟨gone, since, wait, closed⟩ := hostGone_facts s true
    exact ⟨_, congrArg Host.Outcome.next (if_pos link), gone, since, wait, closed⟩
  case up =>
    intro s width rate ide powered down trained
    obtain ⟨iface, opened⟩ := hostLinkUp_opens width rate ide powered down trained
    exact ⟨_, rfl, congrArg Iface.hostLink iface, congrArg Iface.hostWidth iface, congrArg Iface.hostRate iface, congrArg Iface.hostIde iface,
      congrArg Iface.downSince iface, opened⟩
  case perst =>
    intro s powered booted
    exact ⟨_, rfl, hostPerstN_trains powered booted⟩
  case irq =>
    intro s more link
    exact ⟨_, congrArg Host.Outcome.next (irqHoldoffExpiry_sends more link), rfl, rfl, setLedger_same s _⟩
  case tier =>
    intro s port hp there
    refine ⟨fun up => ⟨_, rfl, tier2LinkDown_notes hp there up⟩, fun down => ⟨s.portBack port, congrArg Host.Outcome.next (if_pos ?_), portBack_up s port⟩⟩
    rw [down, there]
    decide
  case expander =>
    intro s port l hp linked
    exact congrArg Host.Outcome.next (if_neg (by rw [linked]; simp; omega))
  case muslin =>
    intro s src on
    refine ⟨fun room => ?_, fun full => congrArg Host.Outcome.next (muslinOpen_busy src on full), congrArg Host.Outcome.next (if_pos on)⟩
    obtain ⟨session, sent⟩ := muslinOpen_opens src on room
    exact ⟨_, _, rfl, rfl, session, sent⟩
  case session =>
    intro s src n m on session own
    refine ⟨⟨_, rfl, muslinClose_ends on session own⟩, fun w data seq good => ?_⟩
    have runs := request_owned seq on session own good
    refine ⟨fun next => ?_, fun r last saved => ?_, fun k last ahead behind => ?_⟩
    · rcases next with last | ⟨k, last, same⟩
      · rw [last] at runs
        exact congrArg Host.Outcome.next runs
      · rw [last] at runs
        exact congrArg Host.Outcome.next (runs.trans (if_pos same))
    · rw [last, saved] at runs
      exact congrArg Host.Outcome.next (runs.trans ((if_neg (succ_mod_ne seq)).trans (if_pos rfl)))
    · rw [last] at runs
      exact congrArg Host.Outcome.next (runs.trans ((if_neg ahead).trans (if_neg behind)))
  case pins =>
    intro s pin micros powered
    refine ⟨fun owner => ⟨_, rfl, debugTrigger_marks powered owner, debugTrigger_same rfl pin s (SameBut.refl _ s)⟩, fun owner => ?_⟩
    refine ⟨_, rfl, auxPulseInvalid_counter micros powered owner, fun limited => ?_⟩
    rw [auxPulseInvalid_counts micros powered owner, limited, if_neg (by decide)]
  case coolant =>
    intro s inlet deltaP dew a b c powered
    obtain ⟨i, p, d⟩ := coolantCheck_holds inlet deltaP dew a b c powered
    exact ⟨_, rfl, i, p, d, coolantCheck_same rfl inlet deltaP dew a b c s (SameBut.refl _ s)⟩

end Sys2Proof.Proofs
end

section
/-! Peer ports (R408 to R412). -/

set_option Elab.async false

namespace Sys2Proof.Proofs

open Sys2Proof Sys2Proof.Machine Sys2Proof.Laws

theorem peer_adj_bump (s : State) (p : Nat) (f : Peer → Peer) (k n : Nat) : (((s.adjPeer p f).bump k n).peer p) = f (s.peer p) :=
  (bump_peer _ _ _ _).trans (peer_adj s p f)

/-! ### Flits (R408, R409) -/

/-- A flit whose codeword fails is discarded, whatever it carries. -/
theorem badFlit_discarded {s : State} {p : Nat} {f : Bytes} (live : s.peerLive p = true) :
    ∀ c ∈ [Instr.dataFlit p f false, .idleFlit p f false, .nak p f false, .laneSwap p f false, .laneSwapAck p f false, .width p f false, .retrain p f false],
      exec c s = .next (s.discardFlit p) := by
  intro c mem
  simp only [List.mem_cons, List.not_mem_nil, or_false] at mem
  rcases mem with rfl | rfl | rfl | rfl | rfl | rfl | rfl
  all_goals exact congrArg Host.Outcome.next (flit_bad s p _ _ f _ live)

theorem acceptData_peer (s : State) (p : Nat) (f : Bytes) (h : Nat) : ((s.acceptData p f h).peer p).rxSeq = ((s.peer p).rxSeq + 1) % 4096 ∧
    ((s.acceptData p f h).peer p).nakSent = false ∧
    ((s.acceptData p f h).peer p).rx = (s.peer p).rx ++ markLast (parseMsgs (h / 2 ^ 33 % 4) 15 ((f.drop 8).take 240)).1 := by
  have noted : ∀ (c : Bool) (t : State), (if c then t.protocolError p 1 h else t).peer p = t.peer p := fun c t => by
    split
    · exact protocolError_peer t p 1 h p
    · rfl
  unfold State.acceptData
  dsimp only
  rw [noted, peer_adj]
  exact ⟨rfl, rfl, rfl⟩

theorem dataFlit_takes {s : State} {p h : Nat} {f : Bytes} (takes : s.takesFlit p f 1 0 h = true) : dataFlit p f true s =
    if h / 2 ^ 48 % 4096 = (s.peer p).rxSeq then (s.takeAck p h).acceptData p f h
    else if behind (h / 2 ^ 48 % 4096) (s.peer p).rxSeq < 2048 then s.takeAck p h
    else if ((s.takeAck p h).peer p).nakSent then s.takeAck p h
    else (s.takeAck p h).discardFlit p := flit_base s p h 1 0 f _ takes

/-! ### Replays (R410) -/

theorem replayPort_again {s : State} {p : Nat} (held : (s.peer p).replay ≠ []) (few : (s.peer p).replays < 16) :
    ((s.replayPort p).peer p).replays = (s.peer p).replays + 1 ∧ ((s.replayPort p).peer p).replay = (s.peer p).replay := by
  unfold State.replayPort
  rw [if_neg (by simpa using held), if_neg (by omega), peer_adj_bump]
  exact ⟨rfl, rfl⟩

/-- What a NAK for `want` leaves to be replayed. -/
def unacked (l : List (Nat × Bytes)) (want : Nat) : List (Nat × Bytes) := l.filter fun e => e.1 == want || decide (2048 ≤ behind e.1 want)

theorem filter_length_lt {α : Type} {l : List α} {q : α → Bool} (h : l.any (fun e => !q e) = true) : (l.filter q).length < l.length := by
  obtain ⟨e, mem, out⟩ := List.any_eq_true.mp h
  exact List.length_filter_lt_length_iff_exists.mpr ⟨e, mem, by simpa using out⟩

theorem filter_ne_nil {α : Type} {l : List α} {q : α → Bool} (h : l.any q = true) : l.filter q ≠ [] := by
  obtain ⟨e, mem, kept⟩ := List.any_eq_true.mp h
  exact List.ne_nil_of_mem (List.mem_filter.mpr ⟨mem, kept⟩)

theorem nak_replays {s : State} {p h : Nat} {f : Bytes} (takes : s.takesFlit p f 2 0 h = true)
    (left : ((s.takeAck p h).peer p).replay.any (fun e => e.1 == h % 4096 || decide (2048 ≤ behind e.1 (h % 4096))) = true)
    (gone : ((s.takeAck p h).peer p).replay.any (fun e => !(e.1 == h % 4096 || decide (2048 ≤ behind e.1 (h % 4096)))) = true) :
    ((nak p f true s).peer p).replays = 1 ∧ ((nak p f true s).peer p).replay = unacked ((s.takeAck p h).peer p).replay (h % 4096) := by
  generalize hu : s.takeAck p h = u at left gone
  have runs : nak p f true s = (if (unacked (u.peer p).replay (h % 4096)).length < (u.peer p).replay.length then
      u.adjPeer p fun x => { x with replay := unacked (u.peer p).replay (h % 4096), replays := 0, retrains := [] } else u).replayPort p := by
    rw [← hu]
    exact flit_base s p h 2 0 f _ takes
  have shorter : (unacked (u.peer p).replay (h % 4096)).length < (u.peer p).replay.length := filter_length_lt gone
  rw [runs, if_pos shorter]
  obtain ⟨counted, kept⟩ := replayPort_again (s := u.adjPeer p fun x => { x with replay := unacked (u.peer p).replay (h % 4096), replays := 0, retrains := [] })
    (p := p) (by rw [peer_adj]; exact filter_ne_nil left) (by rw [peer_adj]; exact Nat.zero_lt_succ _)
  rw [counted, kept, peer_adj]
  exact ⟨rfl, rfl⟩

theorem replayTimeout_again {s : State} {p : Nat} (live : s.peerLive p = true) (held : (s.peer p).replay ≠ []) (few : (s.peer p).replays < 16) :
    ((replayTimeout p s).peer p).replays = (s.peer p).replays + 1 ∧ ((replayTimeout p s).peer p).replay = (s.peer p).replay := by
  unfold replayTimeout
  rw [if_pos live]
  exact replayPort_again held few

/-! ### Lanes and retrains (R411, R412) -/

theorem laneSwap_steers {s : State} {p h : Nat} {f : Bytes} (takes : s.takesFlit p f 2 1 h = true)
    (free : (((s.takeAck p h).sendCtl p 2 0).peer p).swap = none) :
    laneSwap p f true s = ((s.takeAck p h).sendCtl p 2 0).steered p (h % 8) (h / 8 % 4) := by
  have runs : laneSwap p f true s = if (((s.takeAck p h).sendCtl p 2 0).peer p).swap.isSome then
      (((s.takeAck p h).sendCtl p 2 0).steered p (h % 8) (h / 8 % 4)).adjPeer p fun x => { x with swap := (((s.takeAck p h).sendCtl p 2 0).peer p).swap }
      else ((s.takeAck p h).sendCtl p 2 0).steered p (h % 8) (h / 8 % 4) := flit_base s p h 2 1 f _ takes
  rw [runs, free]
  exact if_neg Bool.false_ne_true

theorem width_narrows {s : State} {p h : Nat} {f : Bytes} (takes : s.takesFlit p f 2 3 h = true) :
    ((width p f true s).peer p).lanes = 2 ∧ ((width p f true s).peer p).pair = h % 2 := by
  have runs : width p f true s = ((s.takeAck p h).adjPeer p fun x => { x with lanes := 2, pair := h % 2 }).log 0x7202 sevError (peerAgent p) none
      (p + h % 2 * 256) := flit_base s p h 2 3 f _ takes
  rw [runs, log_peer, peer_adj]
  exact ⟨rfl, rfl⟩

theorem retrainPort_trains {s : State} {p : Nat} (few : ((s.peer p).retrains.filter fun t => !s.passed t ticksPerS).length < 3) :
    ((s.retrainPort p false).peer p).training = true := by
  unfold State.retrainPort
  dsimp only
  rw [if_neg (by omega), log_peer, bump_peer, if_neg Bool.false_ne_true, peer_adj]

theorem peerRetrainComplete_ends {s : State} {p : Nat} (training : (s.peer p).training = true) (none' : (s.peer p).swapQ = []) :
    ((peerRetrainComplete p s).peer p).training = false := by
  have queue : ((s.adjPeer p fun x => { x with training := false, nakSent := false }).peer p).swapQ = [] := by
    rw [peer_adj]
    exact none'
  unfold peerRetrainComplete
  rw [if_neg (by rw [training]; decide)]
  dsimp only
  rw [queue]
  refine (pump_steady p _ _).training.trans ?_
  exact congrArg Peer.training (peer_adj s p _)

theorem peerLive_of {s t : State} {p : Nat} (lanes : (t.peer p).lanes = (s.peer p).lanes) (training : (t.peer p).training = (s.peer p).training)
    (func : t.func (.peer p) = s.func (.peer p)) : t.peerLive p = s.peerLive p := by
  unfold State.peerLive
  rw [lanes, training, func]

theorem freeSpares_of {s t : State} {p : Nat} (spared : (t.peer p).spared = (s.peer p).spared) (value : t.value Obj.peerSpareAssign = s.value Obj.peerSpareAssign) :
    t.freeSpares p = s.freeSpares p := by
  unfold State.freeSpares
  rw [spared, value]

/-- A lane that waits alone takes the first free spare. -/
theorem spareNext_asks {s : State} {p lane k : Nat} {l : List Nat} (live : s.peerLive p = true) (queue : (s.peer p).swapQ = [lane])
    (free : (s.peer p).swap = none) (spare : s.freeSpares p = k :: l) : State.spareNext p (s.peer p).swapQ.length s =
      (s.adjPeer p fun x => { x with swapQ := [], swap := some (lane, k) }).sendCtl p 1 (lane + 8 * k) := by
  rw [queue, show [lane].length = 0 + 1 from rfl, State.spareNext, queue]
  dsimp only
  rw [if_neg (by rw [free, live]; decide), spare]

/-- The port with a failed lane noted. -/
def laneNoted (s : State) (p lane : Nat) : State :=
  s.adjPeer p fun x => { x with failedL := insertNat x.failedL lane, swapQ := insertNat x.swapQ lane }

theorem laneNoted_peer (s : State) (p lane : Nat) : (laneNoted s p lane).peer p =
    { s.peer p with failedL := insertNat (s.peer p).failedL lane, swapQ := insertNat (s.peer p).swapQ lane } := peer_adj s p _

/-- A failed lane asks for a swap to the first free spare. -/
theorem laneFailed_asks {s : State} {p lane k : Nat} {l : List Nat} (live : s.peerLive p = true) (hl : lane < 4)
    (new : (s.peer p).failedL.contains lane = false) (queue : (s.peer p).swapQ = []) (free : (s.peer p).swap = none) (spare : s.freeSpares p = k :: l) :
    ((laneFailed p lane s).peer p).swap = some (lane, k) ∧ ((laneFailed p lane s).peer p).ctl = (s.peer p).ctl ++ [(1, lane + 8 * k)] := by
  obtain ⟨hp, lanes⟩ := live_lt s p live
  have runs : laneFailed p lane s = State.spareNext p ((laneNoted s p lane).peer p).swapQ.length (laneNoted s p lane) := by
    unfold laneFailed
    exact if_neg (by rw [new]; simp [lanes]; omega)
  have peer := laneNoted_peer s p lane
  have live' : (laneNoted s p lane).peerLive p = true := (peerLive_of (s := s) (t := laneNoted s p lane) (by rw [peer]) (by rw [peer]) rfl).trans live
  have spare' : (laneNoted s p lane).freeSpares p = k :: l := (freeSpares_of (s := s) (t := laneNoted s p lane) (by rw [peer]) rfl).trans spare
  rw [runs, spareNext_asks live' (by rw [peer, queue]; rfl) (by rw [peer]; exact free) spare']
  unfold State.sendCtl
  rw [peer_adj, peer_adj, peer]
  exact ⟨rfl, rfl⟩

end Sys2Proof.Proofs
end

section
/-! Remote access over peer ports (R409, R413, R415), and what the peer ports do. -/

set_option Elab.async false

namespace Sys2Proof.Proofs

open Sys2Proof Sys2Proof.Machine Sys2Proof.Laws

/-! ### Remote writes (R413) -/

theorem bytesSector_sectorBytes (d : SectorData) : bytesSector (sectorBytes d) = d := by
  have whole : (sectorBytes d).take 32 = sectorBytes d := List.take_of_length_le (natLE_length 32 d.toNat).le
  have small : d.toNat < 256 ^ 32 := d.isLt
  unfold bytesSector
  rw [whole]
  unfold sectorBytes
  rw [leNat_natLE, Nat.mod_eq_of_lt small, BitVec.ofNat_toNat, BitVec.setWidth_eq]

theorem firstPoison_unmarked : ∀ (addr : Nat) (l : List SectorVal), (∀ v ∈ l, v.mark = none) → firstPoison addr l = none
  | _, [], _ => rfl
  | addr, v :: l, clean => by
    unfold firstPoison
    rw [clean v (.head l)]
    exact firstPoison_unmarked (addr + 32) l fun w hw => clean w (.tail v hw)

/-- Sectors that Felt can write are stored one after the other. -/
theorem peerStore_writes (p : Nat) : ∀ (data : List SectorVal) (sn : Nat) (s : State),
    (∀ k, k < data.length → s.writable (sn + k) (mPeer (p / 9)) = true) →
    ∃ t, State.peerStore p (sn * 32) data s = (t, true) ∧ (∀ j, j < sn → t.feltSector j = s.feltSector j) ∧
      ∀ k, k < data.length → ∃ x, t.feltSector (sn + k) = some x ∧ x.dirty = true ∧ data[k]? = some x.val := by
  intro data
  induction data with
  | nil => exact fun sn s _ => ⟨s, rfl, fun _ _ => rfl, fun k hk => absurd hk (Nat.not_lt_zero k)⟩
  | cons v data ih =>
    intro sn s can
    obtain ⟨t, stored, _, serves, sector, rest⟩ := bankStore_whole (mark := v.mark) (bs := sectorBytes v.data) (can 0 (Nat.succ_pos _)) (natLE_length 32 _)
    obtain ⟨u, later, before, puts⟩ := ih (sn + 1) t fun k hk => by
      rw [Nat.add_assoc, Nat.add_comm 1 k]
      exact serves.1 _ _ (can (k + 1) (Nat.succ_lt_succ hk))
    have value : ({ data := bytesSector (sectorBytes v.data), mark := v.mark } : SectorVal) = v := by rw [bytesSector_sectorBytes]
    rw [value] at sector
    refine ⟨u, ?_, fun j hj => (before j (by omega)).trans (rest j (by omega)), fun k hk => ?_⟩
    · unfold State.peerStore
      rw [Nat.mul_div_cancel sn (by decide : 0 < 32)]
      rw [show s.bankStore sn 0 (sectorBytes v.data) v.mark (mPeer (p / 9)) = (t, true) from stored, show sn * 32 + 32 = (sn + 1) * 32 by omega]
      exact later
    · cases k with
      | zero => exact ⟨_, (before sn (Nat.lt_succ_self sn)).trans sector, rfl, rfl⟩
      | succ k =>
        obtain ⟨x, put, dirty, val⟩ := puts k (Nat.lt_of_succ_lt_succ hk)
        exact ⟨x, by rw [← put, Nat.add_assoc, Nat.add_comm 1 k], dirty, val⟩

theorem write_stores {s t : State} {p : Nat} {m : PMsg} (head : s.headMsg p 0 = some m) (served : s.peerServed p = true) (kind : m.mtype = 0)
    (fine : s.peerBad (m.addr / 32 * 32) m.len true = none) (clean : s.haltOn 2 = false ∨ ∀ v ∈ m.data, v.mark = none)
    (stored : State.peerStore p (m.addr / 32 * 32) m.data s = (t, true)) :
    write p s = ((t.popMsg p 0).answer p m 3 m.addr [blankSector]).retry := by
  have bad : (if s.haltOn 2 then firstPoison (m.addr / 32 * 32) m.data else none) = none := by
    rcases clean with off | clean
    · rw [off]
      rfl
    · rw [firstPoison_unmarked _ _ clean, ite_self]
  unfold write
  rw [head]
  dsimp only
  rw [if_neg (by simp [kind, served]), fine]
  dsimp only
  rw [bad]
  dsimp only
  rw [stored]

/-! ### Remote reads (R413) -/

/-- Sectors that Felt holds are read one after the other. -/
theorem peerLoad_held (p n : Nat) : ∀ (sn : Nat) (s : State), (∀ k, k < n → s.holds (sn + k) (mPeer (p / 9)) = true) →
    ∃ t l, State.peerLoad p n (sn * 32) s = (t, some l) ∧ (∀ v ∈ l, v.mark = none) ∧
      l.map some = (List.range n).map fun k => (s.feltSector (sn + k)).map (·.val) := by
  induction n with
  | zero => exact fun sn s _ => ⟨s, [], rfl, by simp, rfl⟩
  | succ n ih =>
    intro sn s held
    obtain ⟨x, sector, mark, _, t, view, read⟩ := holds_read s sn (mPeer (p / 9)) (peerAgent p) (held 0 (Nat.succ_pos n))
    have shift : ∀ k, sn + 1 + k = sn + (k + 1) := fun k => by omega
    obtain ⟨u, l, later, clean, vals⟩ := ih (sn + 1) t fun k hk => by
      rw [view_holds view, shift]
      exact held (k + 1) (Nat.succ_lt_succ hk)
    refine ⟨u, x.val :: l, ?_, List.forall_mem_cons.mpr ⟨mark, clean⟩, ?_⟩
    · unfold State.peerLoad
      rw [Nat.mul_div_cancel sn (by decide : 0 < 32), read]
      dsimp only
      rw [show sn * 32 + 32 = (sn + 1) * 32 by omega, later]
    · rw [List.map_cons, vals, List.range_succ_eq_map, List.map_cons, List.map_map]
      simp only [view_felt view, shift]
      have first : (s.feltSector (sn + 0)).map (·.val) = some x.val := congrArg (Option.map (·.val)) sector
      rw [first]
      rfl

theorem read_answers {s t : State} {p : Nat} {m : PMsg} {l : List SectorVal} (head : s.headMsg p 0 = some m) (served : s.peerServed p = true)
    (kind : m.mtype = 1) (fine : s.peerBad (m.addr / 32 * 32) m.len false = none)
    (loaded : State.peerLoad p m.len (m.addr / 32 * 32) s = (t, some l)) (clean : t.haltOn 2 = false ∨ ∀ v ∈ l, v.mark = none) :
    Machine.read p s = (t.popMsg p 0).answer p m 2 m.addr l := by
  have bad : (if t.haltOn 2 then firstPoison (m.addr / 32 * 32) l else none) = none := by
    rcases clean with off | clean
    · rw [off]
      rfl
    · rw [firstPoison_unmarked _ _ clean, ite_self]
  unfold Machine.read
  rw [head]
  dsimp only
  rw [if_neg (by simp [kind, served]), fine]
  dsimp only
  rw [loaded]
  dsimp only
  rw [bad]

/-! ### Refusals, answers and chunks (R409, R415) -/

theorem write_refused {s : State} {p a : Nat} {m : PMsg} {k : Option Nat} (head : s.headMsg p 0 = some m) (served : s.peerServed p = true)
    (kind : m.mtype = 0) (bad : s.peerBad (m.addr / 32 * 32) m.len true = some (a, k)) : write p s = s.refuseMsg p m a k := by
  unfold write
  rw [head]
  dsimp only
  rw [if_neg (by simp [kind, served]), bad]

theorem read_refused {s : State} {p a : Nat} {m : PMsg} {k : Option Nat} (head : s.headMsg p 0 = some m) (served : s.peerServed p = true)
    (kind : m.mtype = 1) (bad : s.peerBad (m.addr / 32 * 32) m.len false = some (a, k)) : Machine.read p s = s.refuseMsg p m a k := by
  unfold Machine.read
  rw [head]
  dsimp only
  rw [if_neg (by simp [kind, served]), bad]

/-- What a response leaves of its port: the message taken, and the outstanding requests changed. -/
theorem popped_peer {s : State} {p : Nat} {m : PMsg} (head : s.headMsg p 1 = some m) (g : List PReq → List PReq) :
    (((s.popMsg p 1).adjPeer p fun x => { x with outst := g x.outst }).peer p).rx = dropFirst (fun y => y.vc == 1) (s.peer p).rx ∧
      (((s.popMsg p 1).adjPeer p fun x => { x with outst := g x.outst }).peer p).outst = g (s.peer p).outst := by
  obtain ⟨rx, outst⟩ := popMsg_peer s p 1 m head
  rw [peer_adj]
  exact ⟨rx, congrArg g outst⟩

theorem readData_settles {s : State} {p : Nat} {m : PMsg} (head : s.headMsg p 1 = some m) (kind : m.mtype = 2) : readData p s =
    (s.popMsg p 1).adjPeer p fun x =>
      { x with outst := adjFirst (fun r => r.tag == m.tag && r.isRead && r.answer.isNone) (fun r => { r with answer := some m.data }) x.outst } := by
  unfold readData
  rw [head]
  exact if_neg (not_not_intro kind)

theorem writeAck_settles {s : State} {p : Nat} {m : PMsg} (head : s.headMsg p 1 = some m) (kind : m.mtype = 3) : writeAck p s =
    (s.popMsg p 1).adjPeer p fun x => { x with outst := dropFirst (fun r => r.tag == m.tag && !r.isRead && !r.failed) x.outst } := by
  unfold writeAck
  rw [head]
  exact if_neg (not_not_intro kind)

theorem error_settles {s : State} {p : Nat} {m : PMsg} (head : s.headMsg p 1 = some m) (kind : m.mtype = 5) : error p s =
    (s.popMsg p 1).adjPeer p fun x => { x with outst := adjFirst (fun r => r.tag == m.tag && !r.failed) (fun r => { r with failed := true }) x.outst } := by
  unfold error
  rw [head]
  exact if_neg (not_not_intro kind)

/-- The channel of a collective with a chunk's sectors taken. -/
def withChunk (c : Channel) (m : PMsg) : Channel :=
  { c with got := (m.data.zip (List.range m.data.length)).foldl (fun g x => NMap.put g (gotKey m.step (m.addr / 32 + x.2)) x.1) c.got }

theorem collData_runs {s : State} {p : Nat} {m : PMsg} {e : Entry} {c : Channel} (head : s.headMsg p 2 = some m) (served : s.peerServed p = true)
    (kind : m.mtype = 4) (found : s.collFor m = some (e, c)) : collData p s =
      ((s.popMsg p 2).adjEntry e.seq fun e => { e with chan := some (withChunk c m) }).runColl e.seq (withChunk c m) := by
  unfold collData
  rw [head]
  dsimp only
  rw [if_neg (by simp [kind, served]), found]
  rfl

/-- Settles O57: what each flit does by its header (`flit_base`, `flit_bad`), what the port's timers do, and what each message does by its type;
stores and loads of sectors that Felt serves by induction on the sectors. -/
theorem peerPortsAndRemoteAccess : Obligations.PeerPortsAndRemoteAccess := by
  unfold Obligations.PeerPortsAndRemoteAccess
  refine ⟨⟨fun s p f live => badFlit_discarded live, fun s p h f takes => ⟨fun next => ?data, fun other copy => ?copy⟩,
    fun s p h f takes => congrArg Host.Outcome.next (flit_base s p h 0 0 f _ takes), fun s p h f takes => ?nak, fun s p h f takes => ?swap,
    fun s p h f takes => ?swapAck, fun s p h f takes => ⟨_, rfl, width_narrows takes⟩, fun s p h f takes => ?retrain,
    fun s p live held few => ⟨_, rfl, replayTimeout_again live held few⟩,
    fun s p training queue => ⟨_, rfl, peerRetrainComplete_ends training queue⟩,
    fun s p lane k l live hl new queue free spare => ⟨_, rfl, laneFailed_asks live hl new queue free spare⟩⟩,
    fun s t p m head served kind fine off stored => congrArg Host.Outcome.next (write_stores head served kind fine (.inl off) stored),
    fun s p m head served kind fine clean can => ?write,
    fun s t p m l head served kind fine loaded off => congrArg Host.Outcome.next (read_answers head served kind fine loaded (.inl off)),
    fun s p m head served kind fine held => ?read, fun s p a m k head served kind bad => ?refused,
    fun s p m head => ⟨fun kind => ⟨_, rfl, ?ended2⟩, fun kind => ⟨_, rfl, ?ended3⟩, fun kind => ⟨_, rfl, ?ended5⟩⟩,
    fun s p m e c head served kind found => congrArg Host.Outcome.next (collData_runs head served kind found)⟩
  case data =>
    refine ⟨_, congrArg Host.Outcome.next ((dataFlit_takes takes).trans (if_pos next)), ?_⟩
    exact acceptData_peer _ p f h
  case copy => exact congrArg Host.Outcome.next ((dataFlit_takes takes).trans ((if_neg other).trans (if_pos copy)))
  case nak => exact fun left gone => ⟨_, rfl, nak_replays takes left gone⟩
  case swap => exact fun free => congrArg Host.Outcome.next (laneSwap_steers takes free)
  case swapAck => exact congrArg Host.Outcome.next (flit_base s p h 2 2 f _ takes)
  case retrain => exact fun few => ⟨_, congrArg Host.Outcome.next (flit_base s p h 2 4 f _ takes), retrainPort_trains few⟩
  case write =>
    obtain ⟨u, stored, _, puts⟩ := peerStore_writes p m.data (m.addr / 32) s can
    exact ⟨u, congrArg Host.Outcome.next (write_stores head served kind fine clean stored), puts⟩
  case read =>
    obtain ⟨u, l, loaded, clean, vals⟩ := peerLoad_held p m.len (m.addr / 32) s held
    exact ⟨u, l, congrArg Host.Outcome.next (read_answers head served kind fine loaded (.inr clean)), vals⟩
  case refused =>
    rcases Nat.le_one_iff_eq_zero_or_eq_one.mp kind with store | load
    · rw [if_pos store]
      exact congrArg Host.Outcome.next (write_refused head served store (by rw [store] at bad; exact bad))
    · rw [if_neg (by omega)]
      exact congrArg Host.Outcome.next (read_refused head served load (by rw [load] at bad; exact bad))
  case ended2 =>
    rw [readData_settles head kind]
    exact popped_peer head _
  case ended3 =>
    rw [writeAck_settles head kind]
    exact popped_peer head _
  case ended5 =>
    rw [error_settles head kind]
    exact popped_peer head _

end Sys2Proof.Proofs
end

section
/-! Updates (R432 to R438). -/

set_option Elab.async false

namespace Sys2Proof.Proofs

open Sys2Proof Sys2Proof.Machine Sys2Proof.Laws

/-! ### The slots of a component -/

theorem inactive_setInactive (c : Comp) (f : Slot → Slot) : (c.setInactive f).inactive = f c.inactive := by
  unfold Comp.setInactive Comp.inactive
  cases c.runB <;> simp

theorem running_setInactive (c : Comp) (f : Slot → Slot) : (c.setInactive f).running = c.running := by
  unfold Comp.setInactive Comp.running
  cases c.runB <;> simp

/-! ### The step that R432 refuses -/

theorem unlessRefused_refused {s : State} {k : Nat} {r : Nat × Nat} (go : State → State × Nat) (no : s.updateRefused k = some r) :
    s.unlessRefused k go = ({ s with fw := { s.fw with refusal := r.2 } }, r.1) := by
  unfold State.unlessRefused
  rw [no]

/-- The state with the inactive slot of a component erased. -/
def erasedSlot (s : State) (k : Nat) : State :=
  let t := s.adjComp k fun c => c.setInactive fun _ => Slot.blank
  { t with fw := { t.fw with upd := .erasing, comp := k, offset := 0, busy := false } }

theorem beginUpdate_erases {s : State} {k : Nat} (fine : s.updateRefused k = none) (idle : s.fw.upd = .idle) : s.beginUpdate k = (erasedSlot s k, dOk) := by
  unfold State.beginUpdate
  rw [go_refused s k _ fine]
  exact if_neg (by rw [idle]; decide)

theorem erasedSlot_comp {s : State} {k : Nat} {x : Comp} (comp : s.comp k = some x) : (erasedSlot s k).comp k = some (x.setInactive fun _ => Slot.blank) := by
  have adj : (s.adjComp k fun c => c.setInactive fun _ => Slot.blank).comp k = _ := comp_adjComp s k _
  exact adj.trans (congrArg _ comp)

/-- The state with a block of an image placed and being programmed (R433). -/
def placedBlock (s : State) (data : Bytes) : State :=
  let t := s.adjComp s.fw.comp fun c => c.setInactive fun x => { x with bytes := Memory.writeL x.bytes s.fw.offset data, length := s.fw.offset + 4096 }
  { t with fw := { t.fw with offset := t.fw.offset + 4096, busy := true } }

theorem updateBytes_places {s : State} {data : Bytes} (writing : s.fw.upd = .writing) (free : s.fw.busy = false) (fits : s.fw.offset + 4096 ≤ slotBytes) :
    s.updateBytes data = (placedBlock s data, dOk) := by
  unfold State.updateBytes
  rw [if_neg (by rw [writing, free]; decide), if_neg (Nat.not_lt.mpr fits)]
  rfl

theorem verifyUpdate_verifies {s : State} (fine : s.updateRefused s.fw.comp = none) (writing : s.fw.upd = .writing) (free : s.fw.busy = false) :
    s.verifyUpdate = ({ s with fw := { s.fw with upd := .verifying } }, dOk) := by
  unfold State.verifyUpdate
  rw [go_refused s _ _ fine]
  exact if_neg (by rw [writing, free]; decide)

theorem commitUpdate_marks {s : State} (reset : Bool) (fine : s.updateRefused s.fw.comp = none) (verified : s.fw.upd = .verified) :
    s.commitUpdate reset = (if reset then s.markPending.fullReset else s.markPending, dOk) := by
  unfold State.commitUpdate
  rw [go_refused s _ _ fine]
  exact if_neg (by rw [verified]; decide)

theorem updateVerifyComplete_ends {s : State} (verifying : s.fw.upd = .verifying) : (updateVerifyComplete s).fw.result = s.checkUpdate ∧
    (updateVerifyComplete s).fw.upd = if s.checkUpdate = urOk then .verified else .idle := by
  unfold updateVerifyComplete
  rw [if_neg (by rw [verifying]; decide)]
  dsimp only
  split
  · exact ⟨rfl, rfl⟩
  · exact ⟨rfl, rfl⟩

/-! ### Writes of one byte to the update objects -/

theorem putVerify {s : State} {sid : Nat} (may : s.mayWrite sid Obj.updateVerify = true) :
    Put s sid Obj.updateVerify (natLE 1 1) ⟨0x800004, 0x800004, .u8, .wo, 1, 1, .span 1 1 1, 0⟩ :=
  putFix row_updateVerify (by decide) rfl (by decide) rfl may

theorem putCommitUpdate {s : State} {sid : Nat} (n : Nat) (ok : valueOk ⟨0x800005, 0x800005, .u8, .wo, 1, 1, .span 1 2 1, 0⟩ (natLE 1 n) = true)
    (range : s.rangeOk ⟨0x800005, 0x800005, .u8, .wo, 1, 1, .span 1 2 1, 0⟩ Obj.updateCommit (natLE 1 n) = true) (may : s.mayWrite sid Obj.updateCommit = true) :
    Put s sid Obj.updateCommit (natLE 1 n) ⟨0x800005, 0x800005, .u8, .wo, 1, 1, .span 1 2 1, 0⟩ :=
  putFix row_updateCommit (by decide) rfl ok range may

theorem putAbort {s : State} {sid : Nat} (may : s.mayWrite sid Obj.updateAbort = true) :
    Put s sid Obj.updateAbort (natLE 1 1) ⟨0x800006, 0x800006, .u8, .wo, 1, 1, .span 1 1 1, 0⟩ :=
  putFix row_updateAbort (by decide) rfl (by decide) rfl may

theorem putConfirm {s : State} {sid : Nat} (may : s.mayWrite sid Obj.updateConfirm = true) :
    Put s sid Obj.updateConfirm (natLE 1 1) ⟨0x80000F, 0x80000F, .u8, .wo, 1, 1, .span 1 1 1, 0⟩ :=
  putFix row_updateConfirm (by decide) rfl (by decide) rfl may

theorem putUpdateData {s : State} {sid : Nat} {data : Bytes} (len : data.length = 4096) (may : s.mayWrite sid Obj.updateData = true) :
    Put s sid Obj.updateData data ⟨0x800003, 0x800003, .blob, .wo, 4096, 4096, .any, 0⟩ := by
  have some' : data.isEmpty = false := by
    cases data with
    | nil => exact absurd len (by decide)
    | cons => rfl
  exact Put.of may (by decide) row_updateData (by decide) some' (by simp [valueOk, typeOk, len]) rfl

/-! ### Confirmation (R436) -/

theorem confirms_open (l : List Nat) (s : State) (sid : Nat) : (l.foldl State.confirm s).sessionOpen sid = s.sessionOpen sid := by
  induction l generalizing s with
  | nil => rfl
  | cons k l ih => exact (ih (s.confirm k)).trans (sameOpen (State_confirm_same (fl := ps104) rfl s k (SameBut.refl _ s)) (by decide) sid)

theorem confirmAll_confirms {s : State} (ready : s.boot.phase = .ready) : s.confirmAll = ((List.range 4).foldl State.confirm s, dOk) := by
  unfold State.confirmAll
  exact if_neg (by rw [ready]; decide)

/-- Settles O58: each write by the operation that it runs where R432 does not refuse it (`go`), and the background steps by their definitions. -/
theorem updatesGoThroughTheirStates : Obligations.UpdatesGoThroughTheirStates := by
  unfold Obligations.UpdatesGoThroughTheirStates
  refine ⟨fun s sid k may hk => ⟨fun fine idle => ?begin, fun r no => ?refused⟩, fun s erasing => congrArg Host.Outcome.next (if_pos erasing), fun s => rfl,
    fun s sid data may len writing free fits => ?data, fun s sid may fine writing free => ?verify,
    fun s verifying => ⟨_, rfl, updateVerifyComplete_ends verifying⟩,
    fun s sid c may fine verified comp => ⟨?commit, fun powered => ?commitReset⟩, fun s sid may busy => ?abort, fun s sid may ready => ?confirm,
    fun s ready mode trial => congrArg Host.Outcome.next (if_pos ?trial)⟩
  case begin =>
    have act := (write_updateBegin (asked s sid Obj.updateBegin (natLE 1 k)) sid (natLE 1 k)).trans
      (congrArg plain ((congrArg _ (le1 k (by omega))).trans (beginUpdate_erases (s := asked s sid Obj.updateBegin (natLE 1 k)) (k := k) fine idle)))
    obtain ⟨fw, _, answered⟩ := go (putBegin hk may) rfl act rfl
    refine ⟨s.dictPutNum sid Obj.updateBegin 1 k, rfl, congrArg Fw.upd fw, congrArg Fw.comp fw, congrArg Fw.offset fw,
      congrArg Fw.busy fw, answered, fun c comp => ?_⟩
    exact ⟨_, (comp_fw fw k).trans (erasedSlot_comp (s := asked s sid Obj.updateBegin (natLE 1 k)) comp), inactive_setInactive c _, running_setInactive c _⟩
  case refused =>
    have act := (write_updateBegin (asked s sid Obj.updateBegin (natLE 1 k)) sid (natLE 1 k)).trans
      (congrArg plain ((congrArg _ (le1 k (by omega))).trans (unlessRefused_refused (s := asked s sid Obj.updateBegin (natLE 1 k)) _ no)))
    obtain ⟨fw, _, answered⟩ := go (putBegin hk may) rfl act rfl
    exact ⟨s.dictPutNum sid Obj.updateBegin 1 k, rfl, fw, answered⟩
  case data =>
    have act := (write_updateData (asked s sid Obj.updateData data) sid data).trans
      (congrArg plain (updateBytes_places (s := asked s sid Obj.updateData data) writing free fits))
    obtain ⟨fw, _, answered⟩ := go (putUpdateData len may) rfl act rfl
    exact ⟨s.dictPut sid Obj.updateData data, rfl, congrArg Fw.offset fw, congrArg Fw.busy fw, answered⟩
  case verify =>
    have act := (write_updateVerify (asked s sid Obj.updateVerify (natLE 1 1)) sid (natLE 1 1)).trans
      (congrArg plain (verifyUpdate_verifies (s := asked s sid Obj.updateVerify (natLE 1 1)) fine writing free))
    obtain ⟨fw, _, answered⟩ := go (putVerify may) rfl act rfl
    exact ⟨s.dictPutNum sid Obj.updateVerify 1 1, rfl, fw, answered⟩
  case commit =>
    have act := (write_updateCommit (asked s sid Obj.updateCommit (natLE 1 1)) sid (natLE 1 1)).trans
      (congrArg plain (commitUpdate_marks (s := asked s sid Obj.updateCommit (natLE 1 1)) false fine verified))
    obtain ⟨idle, pending, _, open'⟩ := pending_facts (asked s sid Obj.updateCommit (natLE 1 1)) c comp
    obtain ⟨fw, _, answered⟩ := go (putCommitUpdate 1 (by decide) rfl may) rfl act (open' sid)
    exact ⟨s.dictPutNum sid Obj.updateCommit 1 1, rfl, (congrArg Fw.upd fw).trans idle, (comp_fw fw _).trans pending, answered⟩
  case commitReset =>
    have act := (write_updateCommit (asked s sid Obj.updateCommit (natLE 1 2)) sid (natLE 1 2)).trans
      (congrArg plain (commitUpdate_marks (s := asked s sid Obj.updateCommit (natLE 1 2)) true fine verified))
    obtain ⟨idle, _, boot, _⟩ := pending_facts (asked s sid Obj.updateCommit (natLE 1 2)) c comp
    have quiet : (asked s sid Obj.updateCommit (natLE 1 2)).markPending.updating = false := by
      unfold State.updating
      rw [idle]
      rfl
    obtain ⟨phase, _, _, _, _, tiles, _⟩ := fullReset_core _ ((congrArg Boot.powered boot).trans powered) quiet
    have window := (putCommitUpdate 2 (by decide) rfl may).same act
    exact ⟨s.dictPutNum sid Obj.updateCommit 1 2, rfl, (congrArg Boot.phase (window .boot (by decide))).trans phase, (window .tiles (by decide)).trans tiles⟩
  case abort =>
    have act := (write_updateAbort (asked s sid Obj.updateAbort (natLE 1 1)) sid (natLE 1 1)).trans
      (congrArg plain (if_neg busy : (asked s sid Obj.updateAbort (natLE 1 1)).stopUpdate = _))
    obtain ⟨fw, _, answered⟩ := go (putAbort may) rfl act rfl
    exact ⟨s.dictPutNum sid Obj.updateAbort 1 1, rfl, congrArg Fw.upd fw, congrArg Fw.result fw, answered⟩
  case confirm =>
    have act := (write_updateConfirm (asked s sid Obj.updateConfirm (natLE 1 1)) sid (natLE 1 1)).trans
      (congrArg plain (confirmAll_confirms (s := asked s sid Obj.updateConfirm (natLE 1 1)) ready))
    obtain ⟨fw, _, answered⟩ := go (putConfirm may) rfl act (confirms_open _ _ sid)
    refine ⟨s.dictPutNum sid Obj.updateConfirm 1 1, rfl, answered, fun k c hk comp trial boots => (comp_fw fw k).trans ?_⟩
    obtain ⟨_, _, confirmed⟩ := confirms (List.range 4) List.nodup_range (asked s sid Obj.updateConfirm (natLE 1 1))
    exact confirmed k (List.mem_range.mpr hk) c comp trial ((slotBoots_fuses rfl c c.running).trans boots)
  case trial =>
    obtain ⟨c, mem, status⟩ := trial
    have any : s.fw.comps.any (fun c => c.status == .trial) = true := List.any_eq_true.mpr ⟨c, mem, by rw [status]; rfl⟩
    rw [ready, mode, any]
    rfl

end Sys2Proof.Proofs
end

section
/-! Attestation (R441 to R443). -/

set_option Elab.async false

namespace Sys2Proof.Proofs

open Sys2Proof Sys2Proof.Machine Sys2Proof.Laws

/-- A request served from a phase it needs. -/
theorem serve_needs {s : State} {p : SpdmPath} {n : Nat} (f : Spdm → Spdm) (path : s.spdmOpen p = true) (phase : n ≤ (s.spdm p).phase) :
    (s.serveSpdm p fun x => x.needs n f).spdm p = f (s.spdm p) ∧ SameBut [.iface] s (s.serveSpdm p fun x => x.needs n f) := by
  obtain ⟨spdm, same⟩ := serve s p (fun x => x.needs n f) path
  exact ⟨spdm.trans (needs_ok _ n f phase), same⟩

/-- The same of a request that draws a nonce first. -/
theorem served_needs {s : State} {p : SpdmPath} {n : Nat} (f : Spdm → Spdm) (path : s.spdmOpen p = true) (phase : n ≤ (s.spdm p).phase) :
    (s.drawn.serveSpdm p fun x => x.needs n f).spdm p = f (s.spdm p) ∧ SameBut [.draws, .iface] s (s.drawn.serveSpdm p fun x => x.needs n f) := by
  obtain ⟨spdm, same⟩ := served s p (fun x => x.needs n f) path
  exact ⟨spdm.trans (needs_ok _ n f phase), same⟩

/-- A response that fits in a chunk. -/
theorem respond_short {x y : Spdm} {code : Nat} {body req : Bytes} (short : body.length ≤ 1024) (h : y = x.respond code body req) :
    y.phase = x.phase ∧ y.resp = code ∧ y.body = body := by
  obtain ⟨phase, _, _, sent⟩ := respond_facts x code body req
  rw [h]
  exact ⟨phase, sent short⟩

/-! ### The connection (R441) -/

theorem getVersion_answers {s : State} {p : SpdmPath} (path : s.spdmOpen p = true) : ((getVersion p s).spdm p).phase = 1 ∧
    ((getVersion p s).spdm p).resp = 0x04 ∧ ((getVersion p s).spdm p).body = natLE 1 0x13 ∧ SameBut [.iface] s (getVersion p s) := by
  obtain ⟨spdm, same⟩ := serve s p (fun _ => ({ Spdm.none with phase := 1 } : Spdm).respond 0x04 (natLE 1 0x13) (natLE 1 0x84)) path
  obtain ⟨phase, resp, body⟩ := respond_short (by rw [natLE_length]; decide) spdm
  exact ⟨phase, resp, body, same⟩

theorem getCapabilities_answers {s : State} {p : SpdmPath} (path : s.spdmOpen p = true) (come : 1 ≤ (s.spdm p).phase) :
    ((getCapabilities p s).spdm p).phase = 2 ∧ ((getCapabilities p s).spdm p).resp = 0x61 ∧
      ((getCapabilities p s).spdm p).body = natLE 4 (spdmFlags p) ∧ SameBut [.iface] s (getCapabilities p s) := by
  obtain ⟨spdm, same⟩ := serve_needs (fun x => ({ x with phase := 2 } : Spdm).respond 0x61 (natLE 4 (spdmFlags p)) (natLE 1 0xE1)) path come
  obtain ⟨phase, resp, body⟩ := respond_short (by rw [natLE_length]; decide) spdm
  exact ⟨phase, resp, body, same⟩

theorem negotiateAlgorithms_answers {s : State} {p : SpdmPath} {asym hash : Nat} (dhe aead : Nat) (path : s.spdmOpen p = true) (come : 2 ≤ (s.spdm p).phase)
    (sign : natBit asym 8 = true) (digest : natBit hash 2 = true) : ((negotiateAlgorithms p asym hash dhe aead s).spdm p).phase = 3 ∧
      ((negotiateAlgorithms p asym hash dhe aead s).spdm p).resp = 0x63 ∧ SameBut [.iface] s (negotiateAlgorithms p asym hash dhe aead s) := by
  obtain ⟨spdm, same⟩ := serve_needs (fun x => if !natBit asym 8 || !natBit hash 2 then x.error spdmInvalid else
    ({ x with phase := 3 } : Spdm).respond 0x63 (natLE 4 (2 ^ 8) ++ natLE 4 (2 ^ 2) ++ natLE 2 (if natBit dhe 5 then 2 ^ 5 else 0) ++
      natLE 2 (if natBit aead 1 then 2 ^ 1 else 0)) (natLE 1 0xE3)) path come
  obtain ⟨phase, resp, _⟩ := respond_short (by simp [natLE_length]) (spdm.trans (if_neg (by rw [sign, digest]; decide)))
  exact ⟨phase, resp, same⟩

theorem getDigests_early {s : State} {p : SpdmPath} (path : s.spdmOpen p = true) (early : (s.spdm p).phase < 3) :
    ((getDigests p s).spdm p).resp = 0x7F ∧ ((getDigests p s).spdm p).body = natLE 1 spdmUnexpected := by
  obtain ⟨spdm, _⟩ := serve s p (fun x => x.needs 3 fun x => x.respond 0x01 (natLE 1 1 ++ sha512 (Config.certChain 0)) (natLE 1 0x81)) path
  have refused : (getDigests p s).spdm p = (s.spdm p).error spdmUnexpected := spdm.trans (if_pos early)
  rw [refused]
  exact ⟨rfl, rfl⟩

/-! ### Certificates and measurements (R442, R443) -/

theorem getCertificate_answers {s : State} {p : SpdmPath} {o n : Nat} {part : Bytes} (path : s.spdmOpen p = true) (come : 3 ≤ (s.spdm p).phase)
    (inside : o ≤ (Config.certChain 0).length) (cut : ((Config.certChain 0).drop o).take n = part) : SameBut [.iface] s (getCertificate p 0 o n s) ∧
      (getCertificate p 0 o n s).spdm p = (s.spdm p).respond 0x02 (natLE 2 part.length ++ natLE 2 ((Config.certChain 0).length - o - part.length) ++ part)
        (natLE 1 0x82) := by
  subst cut
  obtain ⟨spdm, same⟩ := serve_needs (fun x => if (0 : Nat) ≠ 0 || (Config.certChain 0).length < o then x.error spdmInvalid else
    x.respond 0x02 (natLE 2 (((Config.certChain 0).drop o).take n).length ++
      natLE 2 ((Config.certChain 0).length - o - (((Config.certChain 0).drop o).take n).length) ++ ((Config.certChain 0).drop o).take n) (natLE 1 0x82)) path come
  exact ⟨same, spdm.trans (if_neg (by simpa using inside))⟩

theorem challenge_answers {s : State} {p : SpdmPath} {nonce body : Bytes} (path : s.spdmOpen p = true) (come : 3 ≤ (s.spdm p).phase)
    (made : sha512 (Config.certChain 0) ++ natLE 32 (Config.nonce s.dict.freeCount).toNat = body) : SameBut [.draws, .iface] s (challenge p 0 nonce s) ∧
      (challenge p 0 nonce s).spdm p = (s.spdm p).respond 0x03 (body ++ Config.deviceSign ((s.spdm p).log ++ natLE 1 0x83 ++ nonce ++ body))
        (natLE 1 0x83 ++ nonce) := by
  subst made
  obtain ⟨spdm, same⟩ := served_needs (fun x => if (0 : Nat) ≠ 0 then x.error spdmInvalid else
    x.respond 0x03 ((sha512 (Config.certChain 0) ++ natLE 32 (Config.nonce s.dict.freeCount).toNat) ++
      Config.deviceSign (x.log ++ natLE 1 0x83 ++ nonce ++ (sha512 (Config.certChain 0) ++ natLE 32 (Config.nonce s.dict.freeCount).toNat)))
      (natLE 1 0x83 ++ nonce)) path come
  exact ⟨same, spdm.trans (if_neg (not_not_intro rfl))⟩

/-- What GET_MEASUREMENTS answers with once its blocks are at hand. -/
def measured (k : Nat) (nonce body : Bytes) (x : Spdm) : Spdm :=
  x.respond 0x60 (body ++ Config.deviceSign (x.log ++ natLE 1 0xE0 ++ natLE 1 k ++ nonce ++ body)) (natLE 1 0xE0 ++ natLE 1 k ++ nonce)

theorem getMeasurements_answers {s : State} {p : SpdmPath} {k : Nat} {nonce body : Bytes} (path : s.spdmOpen p = true) (come : 3 ≤ (s.spdm p).phase)
    (first : 1 ≤ k) (last : k ≤ 8) (made : s.measureBlock k ++ natLE 32 (Config.nonce s.dict.freeCount).toNat = body) :
    SameBut [.draws, .iface] s (getMeasurements p k nonce s) ∧ (getMeasurements p k nonce s).spdm p = measured k nonce body (s.spdm p) := by
  have block : (if k = 0 then natLE 1 8 else if k = 0xFF then (List.range 8).flatMap fun i => s.measureBlock (i + 1) else s.measureBlock k) =
      s.measureBlock k := (if_neg (by omega)).trans (if_neg (by omega))
  have runs : getMeasurements p k nonce s = s.drawn.serveSpdm p fun x => x.needs 3 fun x =>
      if 8 < k && k ≠ 0xFF then x.error spdmInvalid else measured k nonce body x := by
    unfold getMeasurements
    dsimp only
    rw [block, made]
    rfl
  obtain ⟨spdm, same⟩ := served_needs (fun x => if 8 < k && k ≠ 0xFF then x.error spdmInvalid else measured k nonce body x) path come
  rw [runs]
  exact ⟨same, spdm.trans (if_neg (by simp; omega))⟩

/-! ### Chunks -/

/-- The connection with the first chunk of a large request taken. -/
def chunkTaken (x : Spdm) (h : Nat) (last : Bool) (data : Bytes) : Spdm :=
  { x with chunks := NMap.put x.chunks h ([] ++ data), chunkNo := if last then 0 else 0 + 1, resp := 0x05, body := natLE 1 h ++ natLE 4 0 }

theorem chunkSend_takes {s : State} {p : SpdmPath} {h : Nat} {last : Bool} {data : Bytes} (path : s.spdmOpen p = true) (come : 3 ≤ (s.spdm p).phase)
    (short : data.length ≤ 1024) (whole : last = true ∨ data.length = 1024) : NMap.look ((chunkSend p h 0 last data s).spdm p).chunks h = some data ∧
      ((chunkSend p h 0 last data s).spdm p).resp = 0x05 ∧ SameBut [.iface] s (chunkSend p h 0 last data s) := by
  obtain ⟨spdm, same⟩ := serve_needs (fun x => if (0 : Nat) ≠ 0 || 1024 < data.length || (!last && data.length ≠ 1024) then x.error spdmInvalid else
    chunkTaken x h last data) path come
  have fine : ¬ ((0 : Nat) ≠ 0 || 1024 < data.length || (!last && data.length ≠ 1024)) = true := by
    rcases whole with rfl | len
    · simpa using short
    · simp [len]
  have taken : (chunkSend p h 0 last data s).spdm p = chunkTaken (s.spdm p) h last data := spdm.trans (if_neg fine)
  rw [taken]
  exact ⟨(look_put_same (s.spdm p).chunks h ([] ++ data)).trans (by rw [List.nil_append]), rfl, same⟩

theorem chunkGet_gives {s : State} {p : SpdmPath} {h n : Nat} {b : Bytes} (path : s.spdmOpen p = true) (come : 3 ≤ (s.spdm p).phase)
    (kept : NMap.look (s.spdm p).large h = some b) (more : 1024 * n < b.length) : ((chunkGet p h n s).spdm p).resp = 0x06 ∧
      ((chunkGet p h n s).spdm p).body = natLE 1 (bit01 (decide (b.length ≤ 1024 * (n + 1)))) ++ natLE 1 h ++ natLE 4 n ++ (b.drop (1024 * n)).take 1024 ∧
      SameBut [.iface] s (chunkGet p h n s) := by
  unfold chunkGet
  obtain ⟨spdm, same⟩ := serve_needs _ path come
  rw [spdm]
  refine ⟨?_, ?_, same⟩
  · rw [kept]
    dsimp only
    rw [if_neg (Nat.not_le.mpr more)]
  · rw [kept]
    dsimp only
    rw [if_neg (Nat.not_le.mpr more)]

/-! ### Sessions -/

theorem keyEx_offers {s : State} (x : Bytes) (path : s.spdmOpen .host = true) (come : 3 ≤ (s.spdm .host).phase) :
    ((keyEx .host x s).spdm .host).session = true ∧ ((keyEx .host x s).spdm .host).keyed = false := by
  unfold keyEx
  dsimp only [Spdm.hostOnly]
  rw [(served_needs _ path come).1]
  obtain ⟨_, session, keyed, _⟩ := respond_facts ({ s.spdm .host with session := true, keyed := false } : Spdm) 0x64
    ((Config.freeBytes s.dict.freeCount).take 132 ++ Config.deviceSign ((s.spdm .host).log ++ natLE 1 0xE4 ++ x ++ (Config.freeBytes s.dict.freeCount).take 132))
    (natLE 1 0xE4 ++ x)
  exact ⟨session, keyed⟩

theorem finish_host {s : State} (mac : Bytes) (path : s.spdmOpen .host = true) (come : 3 ≤ (s.spdm .host).phase)
    (session : (s.spdm .host).session = true) (unkeyed : (s.spdm .host).keyed = false) : (finish .host mac s).spdm .host =
      if mac = Config.sessionMac (s.spdm .host).log then ({ s.spdm .host with keyed := true } : Spdm).respond 0x65 [] (natLE 1 0xE5)
      else ({ s.spdm .host with session := false } : Spdm).error spdmInvalid := by
  unfold finish
  dsimp only [Spdm.hostOnly]
  rw [(serve_needs _ path come).1]
  exact if_neg (by rw [session, unkeyed]; decide)

theorem finish_keys {s : State} (path : s.spdmOpen .host = true) (come : 3 ≤ (s.spdm .host).phase) (session : (s.spdm .host).session = true)
    (unkeyed : (s.spdm .host).keyed = false) : ((finish .host (Config.sessionMac (s.spdm .host).log) s).spdm .host).keyed = true ∧
      ((finish .host (Config.sessionMac (s.spdm .host).log) s).spdm .host).resp = 0x65 := by
  obtain ⟨_, _, keyed, sent⟩ := respond_facts ({ s.spdm .host with keyed := true } : Spdm) 0x65 [] (natLE 1 0xE5)
  rw [finish_host _ path come session unkeyed, if_pos rfl]
  exact ⟨keyed, (sent (Nat.zero_le _)).1⟩

theorem finish_refuses {s : State} {mac : Bytes} (path : s.spdmOpen .host = true) (come : 3 ≤ (s.spdm .host).phase)
    (session : (s.spdm .host).session = true) (unkeyed : (s.spdm .host).keyed = false) (wrong : mac ≠ Config.sessionMac (s.spdm .host).log) :
    ((finish .host mac s).spdm .host).session = false := by
  rw [finish_host _ path come session unkeyed, if_neg wrong]
  rfl

theorem endSession_ends {s : State} (path : s.spdmOpen .host = true) (come : 3 ≤ (s.spdm .host).phase) (session : (s.spdm .host).session = true) :
    ((endSession .host s).spdm .host).session = false ∧ ((endSession .host s).spdm .host).resp = 0x6C := by
  obtain ⟨_, closed, _, sent⟩ := respond_facts ({ s.spdm .host with session := false, keyed := false } : Spdm) 0x6C [] (natLE 1 0xEC)
  unfold endSession
  dsimp only [Spdm.hostOnly]
  rw [(serve_needs _ path come).1, if_pos session]
  exact ⟨closed, (sent (Nat.zero_le _)).1⟩

/-- On the Muslin path a request of a session is UNSUPPORTED. -/
theorem muslin_unsupported {s t : State} (h : t.spdm .muslin = (s.spdm .muslin).error spdmUnsupported) :
    (t.spdm .muslin).resp = 0x7F ∧ (t.spdm .muslin).body = natLE 1 spdmUnsupported := by
  rw [h]
  exact ⟨rfl, rfl⟩

/-- Settles O59: each request by the answer it makes on an open path from the phase it needs (`serve_needs`, `served_needs`). -/
theorem attestationAnswers : Obligations.AttestationAnswers := by
  unfold Obligations.AttestationAnswers
  refine ⟨fun s p path => ⟨⟨_, rfl, getVersion_answers path⟩, fun come => ⟨_, rfl, getCapabilities_answers path come⟩,
      fun asym hash dhe aead come sign digest => ⟨_, rfl, negotiateAlgorithms_answers dhe aead path come sign digest⟩,
      fun early => ⟨_, rfl, getDigests_early path early⟩⟩,
    fun s p path come => ⟨⟨_, rfl, serve_needs _ path come⟩, fun o n part inside cut => ⟨_, rfl, getCertificate_answers path come inside cut⟩,
      fun nonce body made => ⟨_, rfl, challenge_answers path come made⟩,
      fun k nonce body first last made => ⟨_, rfl, getMeasurements_answers path come first last made⟩,
      fun h last data short whole => ⟨_, rfl, chunkSend_takes path come short whole⟩,
      fun h n b kept more => ⟨_, rfl, chunkGet_gives path come kept more⟩⟩,
    fun s path come => ⟨fun x => ⟨_, rfl, keyEx_offers x path come⟩,
      fun session unkeyed => ⟨⟨_, rfl, finish_keys path come session unkeyed⟩, fun mac wrong => ⟨_, rfl, finish_refuses path come session unkeyed wrong⟩⟩,
      fun session => ⟨_, rfl, endSession_ends path come session⟩⟩,
    fun s x path c mem => ?muslin⟩
  case muslin =>
    simp only [List.mem_cons, List.not_mem_nil, or_false] at mem
    rcases mem with rfl | rfl | rfl
    · exact ⟨_, rfl, muslin_unsupported (s := s) (served s .muslin _ path).1⟩
    · exact ⟨_, rfl, muslin_unsupported (s := s) (serve s .muslin _ path).1⟩
    · exact ⟨_, rfl, muslin_unsupported (s := s) (serve s .muslin _ path).1⟩

end Sys2Proof.Proofs
end
